-- ==== Sys2Proof/Word.lean ====
section
/-! DEFINITION. The word types of the T9 and the sparse table that holds every indexed piece of its state. -/

namespace Sys2Proof

/-- One byte of memory. -/
abbrev Byte := BitVec 8
/-- A 32-bit instruction word or vector register (R29, R44). -/
abbrev Word := BitVec 32
/-- A 64-bit pair, address or special register (R45). -/
abbrev DWord := BitVec 64

/-- A sparse table by natural-number key: keys strictly rising, and no entry equal to the default that an unlisted
key reads as, so that equal tables are equal lists. -/
abbrev Tab (V : Type) := List (Nat × V)

/-- The value at a key; `d` is what an unlisted key reads as. -/
def Tab.get {V : Type} (d : V) : Tab V → Nat → V
  | [], _ => d
  | (k, v) :: t, i => if i = k then v else Tab.get d t i

/-- The table without any entry at a key. -/
def Tab.erase {V : Type} (t : Tab V) (i : Nat) : Tab V := t.filter (fun e => e.1 != i)

/-- An entry put in front of the first larger key. -/
def Tab.insert {V : Type} (i : Nat) (v : V) : Tab V → Tab V
  | [] => [(i, v)]
  | e :: t => if i < e.1 then (i, v) :: e :: t else e :: Tab.insert i v t

/-- Writes a key, keeping the canonical form: writing the default removes the entry. -/
def Tab.put {V : Type} [DecidableEq V] (d : V) (t : Tab V) (i : Nat) (v : V) : Tab V :=
  if v = d then t.erase i else Tab.insert i v (t.erase i)

/-- Every key of a table lies above `lo`, the keys rise strictly, and no value is the default. -/
def Tab.wfFrom {V : Type} [DecidableEq V] (d : V) : Option Nat → Tab V → Bool
  | _, [] => true
  | lo, (k, v) :: t =>
    (match lo with | none => true | some l => decide (l < k)) && decide (v ≠ d) && Tab.wfFrom d (some k) t

/-- The canonical form of a sparse table. -/
def Tab.wf {V : Type} [DecidableEq V] (d : V) (t : Tab V) : Bool := Tab.wfFrom d none t

/-- The entries of a table whose keys lie in `[lo, hi)`. -/
def Tab.range {V : Type} (t : Tab V) (lo hi : Nat) : Tab V :=
  t.filter (fun e => decide (lo ≤ e.1) && decide (e.1 < hi))

/-- The table without its entries in `[lo, hi)`. -/
def Tab.drop {V : Type} (t : Tab V) (lo hi : Nat) : Tab V :=
  t.filter (fun e => !(decide (lo ≤ e.1) && decide (e.1 < hi)))

end Sys2Proof
end

