-- ==== Sys2Proof/Config.lean ====
section
/-! DEFINITION. What one part fixes and the free values the manual leaves open. Nothing here can be evaluated: a claim
that mentions one of these constants holds whatever its value is. -/

namespace Sys2Proof

/-- A value that the manual leaves undefined after an instruction or event that goes on; `n` is the model's counter
State.free, so that every use draws a fresh value (assumption 3). -/
opaque Config.freeWord : Nat → Word
/-- As `freeWord`, for a byte (assumption 3). -/
opaque Config.freeByte : Nat → Byte
/-- As `freeWord`, for an order or a choice the manual leaves open (assumption 3). -/
opaque Config.freeChoice : Nat → Nat
/-- R159: the SFU's approximation is a fixed function of the function code and the input bits alone, and its values
are the vendor's own. The model uses it only to choose among the values the accuracy bound admits (assumption 4). -/
opaque Config.sfuPick : Nat → Word → Nat
/-- Where a die's gradient-log ring of 1 GiB starts in its stacked DRAM, in MiB modulo 31,744: the manual does not say (assumption 46). -/
opaque Config.ringStart : Nat → Nat
/-- SHAKE256 (FIPS 202), named by R437 and R439 to R441 but not defined by the manual: output bytes from input bytes
and an output length (assumption 5). -/
opaque Config.shake256 : List Byte → Nat → List Byte
/-- SLH-DSA signing (FIPS 205) with a key made from a seed: signature bytes from seed and message (assumption 5). -/
opaque Config.slhSign : List Byte → List Byte → List Byte
/-- As `slhSign`, for the parameter set SLH-DSA-SHAKE-256f of the attestation key (assumption 5). -/
opaque Config.slhSignFast : List Byte → List Byte → List Byte
/-- SLH-DSA key generation: the 64-byte public key of a seed (assumption 5). -/
opaque Config.slhPublic : List Byte → List Byte
/-- As `slhPublic`, for SLH-DSA-SHAKE-256f (assumption 5). -/
opaque Config.slhPublicFast : List Byte → List Byte
/-- SLH-DSA verification of (key, message, signature) (assumption 5). -/
opaque Config.slhVerify : List Byte → List Byte → List Byte → Bool
/-- The vendor certificate held in flash (R441), part of the device as shipped (assumption 5). -/
opaque Config.vendorCert : List Byte
/-- The device secret UDS of R439, readable only by HK6's boot ROM (assumption 5). -/
opaque Config.uds : List Byte
/-- The fused digest PKD of the vendor's public key (R439, assumption 5). -/
opaque Config.pkd : List Byte

/-- What the header of a firmware image gives (R439): its version, SVN and length, the key, the signature, and the bytes signed. -/
structure FwHeader where
  version : Nat
  svn : Nat
  length : Nat
  key : List Byte
  sig : List Byte
  signed : List Byte
  deriving DecidableEq, Repr, Inhabited

/-- How the fields of R439 are laid out in an image: the manual names them and gives no layout (assumption 5). -/
opaque Config.fwHeader : List Byte → FwHeader
/-- The header of the firmware that the part is shipped with (assumption 5). -/
opaque Config.shippedHeader : FwHeader
/-- The SHAKE256 digest of the shipped image (R439, assumption 5). -/
opaque Config.shippedDigest : List Byte
/-- The bytes of the training record (R426, R440, assumption 5). -/
opaque Config.trainingRecord : List Byte

end Sys2Proof
end

