-- ==== Sys2Proof/Syntax.lean ====
section
/-! DEFINITION. The steps of the T9: one constructor for each row of the opcode table. A row with an encoding is an
instruction word, of a SIMT core or of the circuit processor, with the fields the table names; a row without one is an
event of the device, a host command, a packet or a controller's action, with the arguments that say which. -/

namespace Sys2Proof

/-- The guard and park fields of the common header (R29 to R31): park marker S, inversion N and predicate P. -/
structure Guard where
  s : Bool
  n : Bool
  p : BitVec 3
  deriving DecidableEq, Repr

/-- A PCIe function of the host link (R420). -/
inductive Func where
  | pf
  | vf (k : Fin 8)
  deriving DecidableEq, Repr

/-- The four mailbox arguments MBARG0 to MBARG3 (R421, R425). -/
structure MbArgs where
  a0 : DWord := 0
  a1 : DWord := 0
  a2 : DWord := 0
  a3 : DWord := 0
  deriving DecidableEq, Repr

/-- What a READ packet asks for (R294): plain bytes, one of the tagged reads of R217 and R238, or an engine's tensor read of a slice (R279). -/
inductive ReadKind where
  | plain
  | ldf
  | lde
  | tagrd
  | tild (z : BitVec 2)
  | tile (z : BitVec 2)
  deriving DecidableEq, Repr

/-- What a WRITE packet does (R294): plain bytes, the tagged writes of R217, TIST's line write (R238), an engine's
FILL write (R281), or its tensor write of a slice, which sets the lines' swizzle ids, with or without FILL (R279). -/
inductive WriteKind where
  | plain
  | stf
  | sto
  | sete
  | setf
  | tist (z : BitVec 2)
  | fill
  | tile (z : BitVec 2) (fill : Bool)
  deriving DecidableEq, Repr

/-- The collective header of R463, with the number of the engine that the burst is for, which the header's bytes do not
give (assumption 20). -/
structure CollHdr where
  eng : BitVec 1
  cid : Word
  op : Byte
  dtype : Byte
  rop : Byte
  qf : Byte
  np : BitVec 16
  srank : BitVec 16
  root : BitVec 16
  abort : Bool
  last : Bool
  cnt : Word
  off : Word
  stamp : DWord
  deriving DecidableEq, Repr

/-- The operations of ATOM, RED and CAS (R56, R246). -/
inductive AtomOp where
  | add | min | max | minn | maxn | and | or | xor | xchg | fadd | cas
  deriving DecidableEq, Repr

/-- What a packet carries. The manual gives the payload of a REPLY and of a collective burst, and the other packets'
needs; the model keeps each as structured data (assumption 20). -/
inductive Body where
  | read (n : Nat) (k : ReadKind)
  | write (data : List Byte) (k : WriteKind)
  | coll (h : CollHdr) (data : List Byte)
  | atomic (op : AtomOp) (wide : Bool) (xs : List (DWord × DWord))
  | signal (mode : BitVec 2) (wide : Bool) (v : DWord)
  | reply (status : Byte) (data : List Byte)
  | absent
  | withdraw
  | circuit
  | gang (block : List Byte)
  deriving DecidableEq, Repr

/-- A packet of the packet plane with the header of R293. -/
structure Packet where
  src : BitVec 12
  dst : BitVec 12
  tier : BitVec 2
  type : BitVec 4
  seq : BitVec 16
  len : BitVec 3
  first : Bool
  tag : BitVec 14
  addr : DWord
  body : Body
  deriving DecidableEq, Repr

/-- A frame of an optical circuit (R330): header fields and burst data. -/
structure Frame where
  src : BitVec 12
  addr : DWord
  sseq : BitVec 16
  num : BitVec 16
  tag : BitVec 14
  body : Body
  deriving DecidableEq, Repr

/-- Where HK2 puts a page it fills or moves (R210, R215): target type, home and frame, and the bytes it fills in, by
offset in the page. -/
structure PageFill where
  tgt : BitVec 3
  home : BitVec 12
  frame : BitVec 40
  bytes : List (Nat × Byte)
  tags : List (Nat × Bool) := []
  swz : List (Nat × BitVec 2) := []
  deriving DecidableEq, Repr

/-- The steps of the machine, one constructor per row of the opcode table. In a SIMT word `g` is the guard and the
other arguments are the row's fields in the table's order. -/
inductive Instr where
  /-- NOP (R96): Does nothing except advance the PC; with the park bit set it waits for every outstanding result of the thread. -/
  | nop (g : Guard)
  /-- PFX_EXT (R40): Prefix word of kind 00 that widens the immediate or displacement of the next I-, L- or M-format word. -/
  | pfxExt (e : BitVec 18)
  /-- PFX_ORD (R41): Prefix word of kind 01 that gives memory order, scope and cache policy to the next memory, sync, copy or fabric word. -/
  | pfxOrd (o : BitVec 3) (c : BitVec 3) (l : BitVec 3)
  /-- PFX_TOK (R42): Prefix word of kind 10 that parks the group until the named tokens complete, with an optional swap hint. -/
  | pfxTok (m : BitVec 8) (h : BitVec 2)
  /-- BRA (R97): Relative branch by a signed word offset, unwinding the loop stack and optionally demoting on a backward jump. -/
  | bra (g : Guard) (y : BitVec 1) (o : BitVec 19)
  /-- BRX (R97): Indirect branch to the 64-bit address held in a pair. -/
  | brx (g : Guard) (y : BitVec 1) (a : BitVec 6)
  /-- CALL (R100): Relative call that raises DEPTH and pushes the return address into the return area. -/
  | call (g : Guard) (o : BitVec 19)
  /-- CALLX (R100): Indirect call to the address in a pair, raising DEPTH and pushing the return address. -/
  | callx (g : Guard) (a : BitVec 6)
  /-- RET (R101): Returns to the address in the return area slot of the current depth and lowers DEPTH. -/
  | ret (g : Guard)
  /-- LOOP (R102): Pushes a loop entry with the count from a register and a body length from the immediate. -/
  | loop (g : Guard) (d : BitVec 6) (i : BitVec 14)
  /-- LOOPI (R102): Pushes a loop entry with an immediate count and immediate body length. -/
  | loopi (g : Guard) (c : BitVec 10) (l : BitVec 10)
  /-- RCV (R104): Warp-bound reconvergence point: the thread arrives and parks until the episode is released. -/
  | rcv (g : Guard) (t : BitVec 16)
  /-- YIELD (R106): Demotes the executing threads and may let the warp leave the active set at once. -/
  | yield (g : Guard)
  /-- EXIT (R107): Ends the thread's life, discarding its registers and pending load results. -/
  | exit (g : Guard)
  /-- IDEM (R109): Records the thread's restart point: PC, DEPTH and loop stack. -/
  | idem (g : Guard)
  /-- ADD (R121): 32-bit addition with wrap, saturate or carry-through-p6 mode. -/
  | add (g : Guard) (m : BitVec 2) (d : BitVec 6) (a : BitVec 6) (b : BitVec 6)
  /-- SUB (R121): 32-bit subtraction with wrap, saturate or borrow-through-p6 mode. -/
  | sub (g : Guard) (m : BitVec 2) (d : BitVec 6) (a : BitVec 6) (b : BitVec 6)
  /-- ADDI (R122): Adds a sign-extended immediate to a register. -/
  | addi (g : Guard) (d : BitVec 6) (a : BitVec 6) (i : BitVec 8)
  /-- MUL (R123): 32-bit multiply returning the low or a high word. -/
  | mul (g : Guard) (m : BitVec 2) (d : BitVec 6) (a : BitVec 6) (b : BitVec 6)
  /-- MAD (R123): Multiply-add of two registers plus the destination, returning the low or a high word. -/
  | mad (g : Guard) (m : BitVec 2) (d : BitVec 6) (a : BitVec 6) (b : BitVec 6)
  /-- ADD64 (R124): 64-bit addition of a pair and a pair or an extended register. -/
  | add64 (g : Guard) (m : BitVec 2) (d : BitVec 6) (a : BitVec 6) (b : BitVec 6)
  /-- LEA (R125): Adds a scaled signed index to a 64-bit base. -/
  | lea (g : Guard) (m : BitVec 2) (d : BitVec 6) (a : BitVec 6) (b : BitVec 6)
  /-- AND (R126): Bitwise AND of two registers. -/
  | and (g : Guard) (d : BitVec 6) (a : BitVec 6) (b : BitVec 6)
  /-- OR (R126): Bitwise OR of two registers. -/
  | or (g : Guard) (d : BitVec 6) (a : BitVec 6) (b : BitVec 6)
  /-- XOR (R126): Bitwise XOR of two registers. -/
  | xor (g : Guard) (d : BitVec 6) (a : BitVec 6) (b : BitVec 6)
  /-- ANDN (R126): vA AND NOT vB. -/
  | andn (g : Guard) (d : BitVec 6) (a : BitVec 6) (b : BitVec 6)
  /-- SHL (R127): Left shift by a register count. -/
  | shl (g : Guard) (d : BitVec 6) (a : BitVec 6) (b : BitVec 6)
  /-- SHR (R127): Logical right shift by a register count. -/
  | shr (g : Guard) (d : BitVec 6) (a : BitVec 6) (b : BitVec 6)
  /-- SAR (R127): Arithmetic right shift by a register count. -/
  | sar (g : Guard) (d : BitVec 6) (a : BitVec 6) (b : BitVec 6)
  /-- ROT (R127): Left rotation by a register count. -/
  | rot (g : Guard) (d : BitVec 6) (a : BitVec 6) (b : BitVec 6)
  /-- SHL_IMM (R127): Left shift by an immediate count, encoded as SHI. -/
  | shlImm (g : Guard) (d : BitVec 6) (a : BitVec 6) (c : BitVec 5)
  /-- SHR_IMM (R127): Logical right shift by an immediate count, encoded as SHI. -/
  | shrImm (g : Guard) (d : BitVec 6) (a : BitVec 6) (c : BitVec 5)
  /-- SAR_IMM (R127): Arithmetic right shift by an immediate count, encoded as SHI. -/
  | sarImm (g : Guard) (d : BitVec 6) (a : BitVec 6) (c : BitVec 5)
  /-- ROT_IMM (R127): Left rotation by an immediate count, encoded as SHI. -/
  | rotImm (g : Guard) (d : BitVec 6) (a : BitVec 6) (c : BitVec 5)
  /-- MIN (R128): Signed or unsigned minimum of two registers. -/
  | min (g : Guard) (m : BitVec 1) (d : BitVec 6) (a : BitVec 6) (b : BitVec 6)
  /-- MAX (R128): Signed or unsigned maximum of two registers. -/
  | max (g : Guard) (m : BitVec 1) (d : BitVec 6) (a : BitVec 6) (b : BitVec 6)
  /-- CLZ (R129): Counts leading zero bits. -/
  | clz (g : Guard) (d : BitVec 6) (a : BitVec 6)
  /-- CTZ (R129): Counts trailing zero bits. -/
  | ctz (g : Guard) (d : BitVec 6) (a : BitVec 6)
  /-- POPC (R129): Counts one bits. -/
  | popc (g : Guard) (d : BitVec 6) (a : BitVec 6)
  /-- BREV (R129): Reverses the bit order of a register. -/
  | brev (g : Guard) (d : BitVec 6) (a : BitVec 6)
  /-- ABS (R129): Wrapping absolute value. -/
  | abs (g : Guard) (d : BitVec 6) (a : BitVec 6)
  /-- NEG (R129): Wrapping negation. -/
  | neg (g : Guard) (d : BitVec 6) (a : BitVec 6)
  /-- NOT (R129): Bitwise complement. -/
  | not (g : Guard) (d : BitVec 6) (a : BitVec 6)
  /-- SEXT8 (R129): Sign-extends the low byte. -/
  | sext8 (g : Guard) (d : BitVec 6) (a : BitVec 6)
  /-- SEXT16 (R129): Sign-extends the low half. -/
  | sext16 (g : Guard) (d : BitVec 6) (a : BitVec 6)
  /-- BFE (R130): Extracts a bit field, zero- or sign-extended. -/
  | bfe (g : Guard) (m : BitVec 1) (d : BitVec 6) (a : BitVec 6) (b : BitVec 6)
  /-- BFI (R130): Inserts a bit field into the destination. -/
  | bfi (g : Guard) (d : BitVec 6) (a : BitVec 6) (b : BitVec 6)
  /-- SETP (R131): Compares two registers and sets or combines a predicate. -/
  | setp (g : Guard) (m : BitVec 2) (c : BitVec 3) (q : BitVec 3) (a : BitVec 6) (b : BitVec 6)
  /-- SETPI (R132): Compares a register with an immediate and sets a predicate. -/
  | setpi (g : Guard) (c : BitVec 3) (q : BitVec 3) (a : BitVec 6) (i : BitVec 8)
  /-- SEL (R133): Selects one of two registers by a predicate p0 to p3. -/
  | sel (g : Guard) (q : BitVec 2) (d : BitVec 6) (a : BitVec 6) (b : BitVec 6)
  /-- MOV (R134): Copies a register. -/
  | mov (g : Guard) (d : BitVec 6) (a : BitVec 6)
  /-- P2V (R134): Packs the predicates into a register. -/
  | p2v (g : Guard) (d : BitVec 6)
  /-- V2P (R134): Sets p0 to p6 from the low bits of a register. -/
  | v2p (g : Guard) (a : BitVec 6)
  /-- MOVI (R135): Loads a sign-extended 14-bit immediate, widened to 32 bits by a prefix. -/
  | movi (g : Guard) (d : BitVec 6) (i : BitVec 14)
  /-- PRMT (R136): Byte permutation with the selector taken from the destination. -/
  | prmt (g : Guard) (d : BitVec 6) (a : BitVec 6) (b : BitVec 6)
  /-- NLUT (R137): Nibble-indexed table lookup in registers, by low nibble, high nibble or nibble-to-nibble. -/
  | nlut (g : Guard) (m : BitVec 2) (d : BitVec 6) (a : BitVec 6) (b : BitVec 6)
  /-- SHFL (R138): Warp-bound exchange of a register among participants by index, up, down or xor. -/
  | shfl (g : Guard) (m : BitVec 2) (d : BitVec 6) (a : BitVec 6) (b : BitVec 6)
  /-- VOTE (R139): Warp-bound all, any, ballot or uniform vote over the participants. -/
  | vote (g : Guard) (m : BitVec 2) (d : BitVec 6) (a : BitVec 6)
  /-- FADD (R155): FP32 addition rounded once. -/
  | fadd (g : Guard) (m : BitVec 2) (d : BitVec 6) (a : BitVec 6) (b : BitVec 6)
  /-- FSUB (R155): FP32 subtraction rounded once. -/
  | fsub (g : Guard) (m : BitVec 2) (d : BitVec 6) (a : BitVec 6) (b : BitVec 6)
  /-- FMUL (R155): FP32 multiplication rounded once. -/
  | fmul (g : Guard) (m : BitVec 2) (d : BitVec 6) (a : BitVec 6) (b : BitVec 6)
  /-- FMA (R155): FP32 fused multiply-add into the destination. -/
  | fma (g : Guard) (m : BitVec 2) (d : BitVec 6) (a : BitVec 6) (b : BitVec 6)
  /-- FMIN (R156): IEEE minimumNumber of two FP32 values. -/
  | fmin (g : Guard) (d : BitVec 6) (a : BitVec 6) (b : BitVec 6)
  /-- FMAX (R156): IEEE maximumNumber of two FP32 values. -/
  | fmax (g : Guard) (d : BitVec 6) (a : BitVec 6) (b : BitVec 6)
  /-- FSETP (R157): FP32 comparison that sets or combines a predicate. -/
  | fsetp (g : Guard) (m : BitVec 2) (c : BitVec 3) (q : BitVec 3) (a : BitVec 6) (b : BitVec 6)
  /-- FABS (R158): Clears the FP32 sign bit. -/
  | fabs (g : Guard) (d : BitVec 6) (a : BitVec 6)
  /-- FNEG (R158): Inverts the FP32 sign bit. -/
  | fneg (g : Guard) (d : BitVec 6) (a : BitVec 6)
  /-- FRND (R158): Rounds an FP32 value to an integral value. -/
  | frnd (g : Guard) (m : BitVec 2) (d : BitVec 6) (a : BitVec 6)
  /-- RCP (R159): SFU reciprocal approximation. -/
  | rcp (g : Guard) (d : BitVec 6) (a : BitVec 6)
  /-- RSQ (R159): SFU reciprocal square root approximation. -/
  | rsq (g : Guard) (d : BitVec 6) (a : BitVec 6)
  /-- SQRT (R159): SFU correctly rounded square root. -/
  | sqrt (g : Guard) (d : BitVec 6) (a : BitVec 6)
  /-- EX2 (R159): SFU base-2 exponential approximation. -/
  | ex2 (g : Guard) (d : BitVec 6) (a : BitVec 6)
  /-- LG2 (R159): SFU base-2 logarithm approximation. -/
  | lg2 (g : Guard) (d : BitVec 6) (a : BitVec 6)
  /-- SIN (R159): SFU sine approximation. -/
  | sin (g : Guard) (d : BitVec 6) (a : BitVec 6)
  /-- COS (R159): SFU cosine approximation. -/
  | cos (g : Guard) (d : BitVec 6) (a : BitVec 6)
  /-- HADD2 (R161): Packed BF16 or FP16 pair addition. -/
  | hadd2 (g : Guard) (m : BitVec 2) (d : BitVec 6) (a : BitVec 6) (b : BitVec 6)
  /-- HMUL2 (R161): Packed BF16 or FP16 pair multiplication. -/
  | hmul2 (g : Guard) (m : BitVec 2) (d : BitVec 6) (a : BitVec 6) (b : BitVec 6)
  /-- HFMA2 (R161): Packed BF16 or FP16 pair fused multiply-add. -/
  | hfma2 (g : Guard) (m : BitVec 2) (d : BitVec 6) (a : BitVec 6) (b : BitVec 6)
  /-- HMM2 (R162): Packed pair minimum or maximum. -/
  | hmm2 (g : Guard) (m : BitVec 2) (d : BitVec 6) (a : BitVec 6) (b : BitVec 6)
  /-- CVTF (R163): Converts one element between FP32 and a narrow float format. -/
  | cvtf (g : Guard) (m : BitVec 2) (d : BitVec 6) (a : BitVec 6) (f : BitVec 3) (r : BitVec 1) (t : BitVec 1) (w : BitVec 1)
  /-- CVTP (R164): Converts two FP32 values into a packed narrow pair. -/
  | cvtp (g : Guard) (m : BitVec 2) (d : BitVec 6) (a : BitVec 6) (f : BitVec 3) (r : BitVec 1) (t : BitVec 1) (h : BitVec 1)
  /-- CVTI (R165): Converts between FP32 and an integer type. -/
  | cvti (g : Guard) (m : BitVec 2) (d : BitVec 6) (a : BitVec 6) (c : BitVec 3) (w : BitVec 1)
  /-- MXQ (R166): Warp-bound block quantisation of participants' FP32 values to a microscaling format. -/
  | mxq (g : Guard) (m : BitVec 2) (d : BitVec 6) (a : BitVec 6) (f : BitVec 3) (r : BitVec 1)
  /-- MXD (R167): Expands one microscaled element to FP32. -/
  | mxd (g : Guard) (d : BitVec 6) (a : BitVec 6) (f : BitVec 3)
  /-- MLD (R169): Loads participants' rows or columns into a tile slot, claiming it if empty. -/
  | mld (g : Guard) (l : BitVec 1) (q : BitVec 1) (t : BitVec 3) (x : BitVec 1) (a : BitVec 6) (b : BitVec 6)
  /-- MMA (R182): Matrix product of participants' A rows with the resident tile from the west or north edge. -/
  | mma (g : Guard) (e : BitVec 1) (q : BitVec 1) (d : BitVec 6) (a : BitVec 6) (g : BitVec 2)
  /-- MMAS (R182): Block-scaled matrix product with per-row A scales. -/
  | mmas (g : Guard) (q : BitVec 1) (d : BitVec 6) (a : BitVec 6) (b : BitVec 6)
  /-- MCLR (R181): Releases a tile slot owned by the issuing workgroup. -/
  | mclr (g : Guard) (q : BitVec 1)
  /-- MRD (R180): Reads tile rows, columns, scales or the slot status word. -/
  | mrd (g : Guard) (m : BitVec 2) (d : BitVec 6) (q : BitVec 1)
  /-- LD (R236): Loads 1 to 16 bytes into registers as a pending result. -/
  | ld (g : Guard) (z : BitVec 3) (d : BitVec 6) (a : BitVec 6) (i : BitVec 5)
  /-- ST (R236): Stores 1 to 16 bytes from registers. -/
  | st (g : Guard) (z : BitVec 3) (d : BitVec 6) (a : BitVec 6) (i : BitVec 5)
  /-- LDA (R236): Acquire load. -/
  | lda (g : Guard) (z : BitVec 3) (d : BitVec 6) (a : BitVec 6) (i : BitVec 5)
  /-- STL (R236): Release store. -/
  | stl (g : Guard) (z : BitVec 3) (d : BitVec 6) (a : BitVec 6) (i : BitVec 5)
  /-- LDF (R217): Tagged load that waits for full and leaves the tag full. -/
  | ldf (g : Guard) (z : BitVec 3) (d : BitVec 6) (a : BitVec 6) (i : BitVec 5)
  /-- LDE (R217): Tagged load that waits for full and empties the tag. -/
  | lde (g : Guard) (z : BitVec 3) (d : BitVec 6) (a : BitVec 6) (i : BitVec 5)
  /-- STF (R217): Tagged store that waits for empty and sets the tag full. -/
  | stf (g : Guard) (z : BitVec 3) (d : BitVec 6) (a : BitVec 6) (i : BitVec 5)
  /-- STO (R217): Tagged store that never waits and sets the tag full. -/
  | sto (g : Guard) (z : BitVec 3) (d : BitVec 6) (a : BitVec 6) (i : BitVec 5)
  /-- SETE (R237): Sets a slice word's tag empty. -/
  | sete (g : Guard) (a : BitVec 6) (z : BitVec 3)
  /-- SETF (R237): Sets a slice word's tag full. -/
  | setf (g : Guard) (a : BitVec 6) (z : BitVec 3)
  /-- TAGRD (R237): Reads a slice word's tag as a pending result. -/
  | tagrd (g : Guard) (d : BitVec 6) (a : BitVec 6) (z : BitVec 3)
  /-- TILD (R238): Warp-bound 16-byte swizzled tile load that checks the line's swizzle id. -/
  | tild (g : Guard) (m : BitVec 2) (d : BitVec 6) (a : BitVec 6) (b : BitVec 6)
  /-- TIST (R238): Warp-bound 16-byte swizzled tile store that sets the line's swizzle id. -/
  | tist (g : Guard) (m : BitVec 2) (d : BitVec 6) (a : BitVec 6) (b : BitVec 6)
  /-- PREF (R239): Prefetches a line into the L1 or the die cache, dropping on any problem. -/
  | pref (g : Guard) (l : BitVec 6) (a : BitVec 6) (i : BitVec 5)
  /-- CINV_INV (R240): Writes back and invalidates the whole L1. -/
  | cinvInv (g : Guard)
  /-- CINV_WB (R240): Writes back every dirty L1 byte. -/
  | cinvWb (g : Guard)
  /-- CINV_IC (R240): Invalidates the core's instruction cache. -/
  | cinvIc (g : Guard)
  /-- ATOM (R246): Atomic read-modify-write at the home, grouped by address in lane order, returning old values. -/
  | atom (g : Guard) (d : BitVec 6) (a : BitVec 6) (w : BitVec 1) (o : BitVec 4)
  /-- CAS (R246): Atomic compare-and-swap returning the old value. -/
  | cas (g : Guard) (w : BitVec 1) (d : BitVec 6) (a : BitVec 6) (b : BitVec 6)
  /-- RED (R246): Atomic reduction without a returned value. -/
  | red (g : Guard) (d : BitVec 6) (a : BitVec 6) (w : BitVec 1) (o : BitVec 4)
  /-- FENCE (R253): Orders the thread's accesses as acquire, release, both or UO at a scope. -/
  | fence (g : Guard) (m : BitVec 2) (c : BitVec 3)
  /-- BARV (R259): Barrier arrive, relaxed arrive, drop or join per workgroup event. -/
  | barv (g : Guard) (k : BitVec 2) (b : BitVec 7) (x : BitVec 1) (v : BitVec 10)
  /-- BARW (R263): Waits for the barrier phase of the given parity to complete. -/
  | barw (g : Guard) (b : BitVec 7) (x : BitVec 1) (v : BitVec 10)
  /-- BARI_INIT (R258): Initialises a barrier with an expected arrival count. -/
  | bariInit (g : Guard) (b : BitVec 7) (x : BitVec 1) (v : BitVec 10)
  /-- BARI_INVAL (R258): Invalidates a quiescent barrier. -/
  | bariInval (g : Guard) (b : BitVec 7)
  /-- BART (R260): Adjusts a barrier's transaction bytes by expect, complete or expect-and-arrive. -/
  | bart (g : Guard) (k : BitVec 2) (b : BitVec 7) (x : BitVec 1) (v : BitVec 10)
  /-- CPY (R277): Queues a linear copy command on the core's copy engine and token. -/
  | cpy (g : Guard) (q : BitVec 3) (t : BitVec 3) (a : BitVec 6) (b : BitVec 6)
  /-- TCPY (R279): Queues a tensor tile load or store between memory and the slice. -/
  | tcpy (g : Guard) (m : BitVec 1) (q : BitVec 3) (t : BitVec 3) (a : BitVec 6) (b : BitVec 6)
  /-- GCPY (R280): Queues a masked row gather or scatter. -/
  | gcpy (g : Guard) (m : BitVec 1) (q : BitVec 3) (t : BitVec 3) (a : BitVec 6) (b : BitVec 6)
  /-- CHAIN (R284): Queues one command that walks a chain of copy records. -/
  | chain (g : Guard) (q : BitVec 3) (t : BitVec 3) (a : BitVec 6)
  /-- TKWAIT (R288): Parks until the named tokens complete and optionally reads and clears their errors. -/
  | tkwait (g : Guard) (d : BitVec 6) (t : BitVec 1) (i : BitVec 8)
  /-- RCPY (R311): Queues a remote PUT, circuit PUTC or GET on the copy engine. -/
  | rcpy (g : Guard) (m : BitVec 2) (q : BitVec 3) (t : BitVec 3) (a : BitVec 6) (b : BitVec 6)
  /-- COLL (R317): Queues a collective command on the die group's collective engine. -/
  | coll (g : Guard) (q : BitVec 3) (t : BitVec 3) (a : BitVec 6) (o : BitVec 3)
  /-- SIGR_FILL (R315): Remote store-and-fill of a slice word, as STO. -/
  | sigrFill (g : Guard) (d : BitVec 6) (a : BitVec 6) (z : BitVec 1)
  /-- SIGR_ARR (R315): Remote barrier arrival at the workgroup owning the target slice line. -/
  | sigrArr (g : Guard) (a : BitVec 6) (b : BitVec 6)
  /-- SIGR_ARREL (R316): Remote barrier arrival that releases at FAB scope. -/
  | sigrArrel (g : Guard) (a : BitVec 6) (b : BitVec 6)
  /-- LNCH_LAUNCH (R380): Device-side launch request that joins a batch in the die's launch aggregator. -/
  | lnchLaunch (g : Guard) (d : BitVec 6) (a : BitVec 6) (b : BitVec 6)
  /-- LNCH_GANG (R382): Starts a gang launch on the listed devices from a gang block. -/
  | lnchGang (g : Guard) (d : BitVec 6) (a : BitVec 6)
  /-- LNCH_BWREC (R383): Pushes a backward-launch record onto the RCB's tape. -/
  | lnchBwrec (g : Guard) (o : BitVec 1) (a : BitVec 6) (b : BitVec 6)
  /-- GLOG (R388): Queues a gradient tile for append to the die's log ring. -/
  | glog (g : Guard) (t : BitVec 3) (a : BitVec 6) (b : BitVec 6)
  /-- WFOLD (R390): Queues a fold through a launch sequence on the die's Welt engine. -/
  | wfold (g : Guard) (t : BitVec 3) (a : BitVec 6) (b : BitVec 6)
  /-- LSCALE (R389): Appends a loss-scale record and sets %LSCALE in participating warps. -/
  | lscale (g : Guard) (a : BitVec 6)
  /-- CSRR (R415): Reads a special register into a register or pair. -/
  | csrr (g : Guard) (d : BitVec 6) (a : BitVec 6)
  /-- CSRW (R415): Writes a special register from a register or pair in lane order. -/
  | csrw (g : Guard) (d : BitVec 6) (a : BitVec 6)
  /-- TRAP (R416): User trap with cause 0x11. -/
  | trap (g : Guard) (c : BitVec 12)
  /-- BKPT (R416): Breakpoint trap with cause 0x0E. -/
  | bkpt (g : Guard) (c : BitVec 12)
  /-- RTE (R399): Returns from handler mode to %TRPC. -/
  | rte (g : Guard)
  /-- WDOG (R417): Resets the ages of the participating warps' threads. -/
  | wdog (g : Guard)
  /-- DBGMB_SEND (R418): Posts a word to the core's outbound debug queue. -/
  | dbgmbSend (g : Guard) (a : BitVec 6)
  /-- DBGMB_RECV (R418): Waits for the warp's inbound debug word and returns it. -/
  | dbgmbRecv (g : Guard) (d : BitVec 6)
  /-- DBGMB_XCHG (R418): Posts a debug word and then waits for the inbound word. -/
  | dbgmbXchg (g : Guard) (d : BitVec 6) (a : BitVec 6)
  /-- HALT (R352): Circuit word that ends the context with an exit code, releasing what it owns. -/
  | halt (c : BitVec 8)
  /-- CIRCUIT_MOVI (R352): Circuit word that loads or inserts a 16-bit immediate. -/
  | circuitMovi (d : BitVec 4) (h : BitVec 2) (k : BitVec 1) (i : BitVec 16)
  /-- CIRCUIT_ADD (R352): Circuit word adding two registers and an immediate. -/
  | circuitAdd (d : BitVec 4) (a : BitVec 4) (b : BitVec 4) (i : BitVec 15)
  /-- CIRCUIT_SUB (R352): Circuit word subtracting two registers. -/
  | circuitSub (d : BitVec 4) (a : BitVec 4) (b : BitVec 4)
  /-- CIRCUIT_AND (R352): Circuit word ANDing two registers. -/
  | circuitAnd (d : BitVec 4) (a : BitVec 4) (b : BitVec 4)
  /-- BEQ (R352): Circuit branch if equal. -/
  | beq (a : BitVec 4) (b : BitVec 4) (o : BitVec 15)
  /-- BNE (R352): Circuit branch if not equal. -/
  | bne (a : BitVec 4) (b : BitVec 4) (o : BitVec 15)
  /-- BLT (R352): Circuit branch if signed less. -/
  | blt (a : BitVec 4) (b : BitVec 4) (o : BitVec 15)
  /-- JMP (R352): Circuit unconditional jump. -/
  | jmp (o : BitVec 15)
  /-- LDC (R352): Circuit 8-byte load from device memory. -/
  | ldc (d : BitVec 4) (a : BitVec 4) (i : BitVec 15)
  /-- STC (R352): Circuit 8-byte store to device memory. -/
  | stc (a : BitVec 4) (b : BitVec 4) (i : BitVec 15)
  /-- CREQ (R353): Sends a REQ for a circuit entry and marks it ASKED. -/
  | creq (a : BitVec 4)
  /-- CWAIT (R353): Holds the context until the circuit is LIVE or granted, refused, faulted or timed out. -/
  | cwait (d : BitVec 4) (a : BitVec 4) (t : BitVec 12)
  /-- CBIND (R353): Binds or unbinds an engine queue to a port in chosen slots. -/
  | cbind (a : BitVec 4) (b : BitVec 4)
  /-- CREL (R353): Sends a REL for a circuit entry and frees it. -/
  | crel (a : BitVec 4)
  /-- PORT_OFF (R353): Turns a port dark, releasing its entries and ownership. -/
  | portOff (a : BitVec 4)
  /-- PORT_ON (R353): Turns a dark port on into LOCKING. -/
  | portOn (a : BitVec 4)
  /-- PORT_CLR (R353): Moves a faulted port back to LOCKING. -/
  | portClr (a : BitVec 4)
  /-- PSTAT (R354): Reads the status word of a port entry. -/
  | pstat (d : BitVec 4) (a : BitVec 4)
  /-- SLOT (R355): Loads and checks a rotation slot table. -/
  | slot (a : BitVec 4)
  /-- SRUN (R356): Arms the rotation to start on an event. -/
  | srun (a : BitVec 4) (b : BitVec 4) (k : BitVec 3)
  /-- SSTOP (R357): Stops or disarms the rotation at a slot or rotation end. -/
  | sstop (e : BitVec 1)
  /-- CSIG_FILL (R358): Circuit processor store-and-fill of a slice word. -/
  | csigFill (a : BitVec 4) (b : BitVec 4)
  /-- CSIG_ARR (R358): Circuit processor arrival at a workgroup barrier. -/
  | csigArr (a : BitVec 4) (b : BitVec 4)
  /-- CSIG_MSG (R358): Sends a MSG packet to a context on a device. -/
  | csigMsg (a : BitVec 4) (b : BitVec 4)
  /-- WEV (R360): Holds the context until an event or a timeout. -/
  | wev (d : BitVec 4) (a : BitVec 4) (b : BitVec 4) (k : BitVec 3) (t : BitVec 12)
  /-- QUEUE_DOORBELL (R373): Host write of a ring's TAIL posting commands, ignored with OVR if too far ahead. -/
  | queueDoorbell (ring : Fin 64) (tail : Word)
  /-- LAUNCH (R368): Host command that validates a KD and starts a grid under an RCB. -/
  | launch (ring : Fin 64) (cmd : BitVec 512)
  /-- COPY (R374): Host command that runs a copy on a named engine queue. -/
  | copy (ring : Fin 64) (cmd : BitVec 512)
  /-- CIRCUIT (R347): Host command that starts a circuit script in an idle context. -/
  | circuit (ring : Fin 64) (cmd : BitVec 512)
  /-- TOKEN_WAIT (R374): Host command that waits until a queue token reaches a value. -/
  | tokenWait (ring : Fin 64) (cmd : BitVec 512)
  /-- TOKEN_SIGNAL (R374): Host command that raises a queue token and optionally writes a word. -/
  | tokenSignal (ring : Fin 64) (cmd : BitVec 512)
  /-- TAPERUN (R384): Host command that replays an RCB's tape from newest to oldest record. -/
  | taperun (ring : Fin 64) (cmd : BitVec 512)
  /-- TAPE_LAUNCH (R384): After a tape launch completes, HK1 pops and launches the next record. -/
  | tapeLaunch (ring : Fin 64)
  /-- FOLD_WAIT (R390): Host command that queues folds on the named dies' Welt engines. -/
  | foldWait (ring : Fin 64) (cmd : BitVec 512)
  /-- QUEUE_FENCE (R375): Host FENCE command that waits for earlier commands of its ring or all rings. -/
  | queueFence (ring : Fin 64) (cmd : BitVec 512)
  /-- CHECKPOINT_SAVE (R438): Copies all device memory, tags and swizzle ids to the host and optionally a storage endpoint. -/
  | checkpointSave (ring : Fin 64) (cmd : BitVec 512)
  /-- CHECKPOINT_RESTORE (R438): Restores memory from a checkpoint image, checking each chunk digest. -/
  | checkpointRestore (ring : Fin 64) (cmd : BitVec 512)
  /-- PSTATE_RUN (R433): Puts the device in the RUN power state. -/
  | pstateRun (ring : Fin 64) (cmd : BitVec 512)
  /-- PSTATE_TRIM (R433): Caps the core clock in the TRIM power state. -/
  | pstateTrim (ring : Fin 64) (cmd : BitVec 512)
  /-- PSTATE_HOLD (R433): Stops the core clocks after L1 write-back and pauses engines. -/
  | pstateHold (ring : Fin 64) (cmd : BitVec 512)
  /-- PSTATE_RETAIN (R434): Turns off the compute side with memories retained. -/
  | pstateRetain (ring : Fin 64) (cmd : BitVec 512)
  /-- PSTATE_OFF (R434): Turns off everything but the Lodge. -/
  | pstateOff (ring : Fin 64) (cmd : BitVec 512)
  /-- RESET_QUEUE (R430): Reset rung 1 of one ring. -/
  | resetQueue (ring : Fin 64) (cmd : BitVec 512)
  /-- RESET_ENGINE (R430): Reset rung 2 of one engine or circuit context. -/
  | resetEngine (ring : Fin 64) (cmd : BitVec 512)
  /-- RESET_PARTITION (R430): Reset rung 3 of a partition's compute state. -/
  | resetPartition (ring : Fin 64) (cmd : BitVec 512)
  /-- RESET_DIE (R430): Reset rung 4 of one die. -/
  | resetDie (ring : Fin 64) (cmd : BitVec 512)
  /-- RESET_FUNCTION (R430): Reset rung 5 of a partition with its HK state and endpoint drain. -/
  | resetFunction (ring : Fin 64) (cmd : BitVec 512)
  /-- RESET_DEVICE (R430): Reset rung 6 of everything but the Lodge, followed by a start. -/
  | resetDevice (ring : Fin 64) (cmd : BitVec 512)
  /-- RESET_LODGE (R307): Reset rung 7 of the Lodge island. -/
  | resetLodge (ring : Fin 64) (cmd : BitVec 512)
  /-- DEVCTL_RST_DEVICE (R423): PF write of DEVCTL.RST = 01 that performs rung 6 or leaves recovery. -/
  | devctlRstDevice (v : DWord)
  /-- DEVCTL_RST_LODGE (R307): PF write of DEVCTL.RST = 10 that resets the Lodge island. -/
  | devctlRstLodge (v : DWord)
  /-- FUNCTION_LEVEL_RESET (R429): PCIe FLR of a VF as rung 5 or of the PF as rung 6. -/
  | functionLevelReset (f : Func)
  /-- ATTACH (R304): LDCTL write that attaches the endpoint and toggles EPOCH. -/
  | attach
  /-- DETACH (R304): LDCTL write that starts draining the endpoint. -/
  | detach
  /-- HBEAT (R304): LDCTL heartbeat write from HK4. -/
  | hbeat
  /-- PARTCFG_WRITE (R424): Write of the die partitioning and endpoint partition, accepted only when legal and rings idle. -/
  | partcfgWrite (v : DWord)
  /-- REGISTER_WRITE (R7): Write of any register with no row of its own, under its access codes. -/
  | registerWrite (f : Func) (off : BitVec 20) (v : DWord)
  /-- REGRCB (R362): Mailbox function that registers an RCB. -/
  | regrcb (f : Func) (a : MbArgs)
  /-- UNRCB (R425): Mailbox function that unregisters an RCB. -/
  | unrcb (f : Func) (a : MbArgs)
  /-- UNPIN (R215): Mailbox function that clears a page's PIN and MVC. -/
  | unpin (f : Func) (a : MbArgs)
  /-- HISTRD (R403): Mailbox function that copies the mismatch histogram records to the host. -/
  | histrd (f : Func) (a : MbArgs)
  /-- HISTCLR (R403): Mailbox function that clears every mismatch counter. -/
  | histclr (f : Func) (a : MbArgs)
  /-- RETIRE (R404): Mailbox function that retires a core from placement. -/
  | retire (f : Func) (a : MbArgs)
  /-- QUOTE (R442): Mailbox function that writes a signed attestation quote over a nonce. -/
  | quote (f : Func) (a : MbArgs)
  /-- IDCERT (R441): Mailbox function that writes the vendor and alias certificates. -/
  | idcert (f : Func) (a : MbArgs)
  /-- FWLOAD (R439): Mailbox function that writes and verifies the inactive firmware slot. -/
  | fwload (f : Func) (a : MbArgs)
  /-- EXTEND (R440): Mailbox function that extends a measurement register MEAS3 to MEAS7. -/
  | extend (f : Func) (a : MbArgs)
  /-- DBGW (R425): Mailbox function that writes a core's debug register. -/
  | dbgw (f : Func) (a : MbArgs)
  /-- DBGIN (R418): Mailbox function that writes a warp's inbound debug word. -/
  | dbgin (f : Func) (a : MbArgs)
  /-- DBGOUT (R446): Mailbox function that moves one outbound debug entry to the host. -/
  | dbgout (f : Func) (a : MbArgs)
  /-- POWER_ON (R426): Power arriving at the device begins a start. -/
  | powerOn (failStep : Nat)
  /-- START_OVERRUN (R426): A start exceeding 60 s cold or 10 s warm fails. -/
  | startOverrun (step : Nat)
  /-- THERMAL_TRIP (R435): A die at 105 °C forces RETAIN and sets TRIP. -/
  | thermalTrip (temp : Byte)
  /-- LODGE_POWER_REMOVAL (R307): Removal of the Lodge's own power resets its island. -/
  | lodgePowerRemoval
  /-- TRANSIT_PACKET (R298): A packet arriving at a Lodge input is routed, arbitrated and forwarded or dropped. -/
  | transitPacket (link : Fin 7) (p : Packet)
  /-- READ (R294): A READ request arriving at the endpoint is entered in the open table and performed. -/
  | read (p : Packet)
  /-- WRITE (R294): A WRITE request arriving at the endpoint, including collective bursts, is performed. -/
  | write (p : Packet)
  /-- ATOMIC (R294): An ATOMIC request arriving at the endpoint is performed at its home. -/
  | atomic (p : Packet)
  /-- SIGNAL (R315): A SIGNAL arriving applies a store-and-fill or a barrier arrival. -/
  | signal (p : Packet)
  /-- REPLY (R306): A REPLY arriving at the requester completes or resends its request, or is dropped as orphaned. -/
  | reply (p : Packet)
  /-- ABSENT (R306): An ABSENT arriving completes its request with cause 0x12. -/
  | absent (p : Packet)
  /-- WITHDRAW (R218): A WITHDRAW arriving removes a held tagged word if the tag unit still holds it. -/
  | withdraw (p : Packet)
  /-- ENDPOINT_REPLY (R305): The endpoint answers an open request once its access completes. -/
  | endpointReply (k : Nat)
  /-- RESEND_TIMER (R299): 2 µs after a STATUS 0xFE reply the request is sent again. -/
  | resendTimer (k : Nat)
  /-- LINK_DOWN (R300): A link failing to retrain within 1 ms is marked down. -/
  | linkDown (link : Fin 6)
  /-- HEARTBEAT_TIMEOUT (R304): No HBEAT for HBMS ms moves the endpoint to DRAINING. -/
  | heartbeatTimeout
  /-- DRAIN_COMPLETE (R304): An empty open table moves the endpoint from DRAINING to DETACHED. -/
  | drainComplete
  /-- GANG_LAUNCH (R382): A GANG LAUNCH message arriving is accepted with an ACK or discarded. -/
  | gangLaunch (p : Packet)
  /-- GANG_ACK (R326): A GANG ACK arriving at the initiator is counted. -/
  | gangAck (p : Packet)
  /-- GANG_ABORT (R327): A GANG ABORT arriving traps the part's threads or discards the launch. -/
  | gangAbort (p : Packet)
  /-- GANG_WINDOW_CLOSE (R326): The initiator's window closes without every ACK and ABORT is sent. -/
  | gangWindowClose (seq : Word)
  /-- GRANT (R335): A GRANT arriving from the switch moves an ASKED entry to GRANTED or REFUSED. -/
  | grant (p : Packet)
  /-- MSG (R359): A circuit MSG arriving is queued for its target context or dropped. -/
  | msg (p : Packet)
  /-- ACTIVE_SET_ENTRY (R82): The oldest ready pending warp enters a free active-set place or swaps out a qualified warp. -/
  | activeSetEntry (core : Fin 1024)
  /-- WATCHDOG_FIRE (R89): A thread age reaching %WDOGLIM stalls the aged threads with cause 0x0D. -/
  | watchdogFire (core : Fin 1024) (slot : Fin 64)
  /-- RCV_DEADLINE (R104): An RCV episode's deadline releases its arrived threads. -/
  | rcvDeadline (core : Fin 1024) (slot : Fin 64)
  /-- RESULT_RETURN (R79): A load, atomic or other variable-latency result returns and clears its pending registers. -/
  | resultReturn (core : Fin 1024) (slot : Fin 64) (lane : Fin 32) (k : Nat)
  /-- REPLY_TRAP (R461): A reply carrying a trap cause traps its thread at the next word boundary. -/
  | replyTrap (core : Fin 1024) (slot : Fin 64) (lane : Fin 32)
  /-- HK3_EVENT (R400): HK3 receives a thread's frame, holds the warp and decides restart or kill. -/
  | hk3Event (core : Fin 1024) (slot : Fin 64)
  /-- HK3_RESTART (R401): After the backoff wait the held warp resumes at its restart points. -/
  | hk3Restart (core : Fin 1024) (slot : Fin 64)
  /-- RESTART_COUNT_EXPIRY (R401): 2^24 cycles without an HK3 event reset the warp's restart count. -/
  | restartCountExpiry (core : Fin 1024) (slot : Fin 64)
  /-- PREEMPT_REQUEST (R405): HK1 asks a core to save a workgroup. -/
  | preemptRequest (lid g : Nat)
  /-- PREEMPT_STOP (R405): At a park point or after 4,096 cycles the core stops forming bundles for the workgroup. -/
  | preemptStop (lid g : Nat)
  /-- PREEMPT_SAVE (R406): After results and copies settle the core writes the save record. -/
  | preemptSave (lid g : Nat)
  /-- PREEMPT_RESUME (R407): HK1 restores a saved workgroup on a suitable core. -/
  | preemptResume (lid g : Nat) (core : Fin 1024)
  /-- WORKGROUP_DISPATCH (R369): HK1 places a workgroup on a core that meets all placement conditions. -/
  | workgroupDispatch (lid : Nat) (core : Fin 1024)
  /-- LEASE_DISPATCH (R372): A core dispatches a follow-on workgroup from leased rows without HK1. -/
  | leaseDispatch (lid : Nat) (core : Fin 1024)
  /-- WARP_SLOT_FREE (R108): A warp slot is freed once all threads exited and all tokens completed. -/
  | warpSlotFree (core : Fin 1024) (slot : Fin 64)
  /-- GOVERNOR_WINDOW (R191): Every 64 cycles the governor credits are reset to BUDGET. -/
  | governorWindow (core : Fin 1024)
  /-- HISTOGRAM_WRITE (R403): HK3 writes the mismatch histograms to flash at most once per 60 s. -/
  | histogramWrite
  /-- TAGGED_WORD_ARRIVAL (R217): A tagged word reaches its home tag unit and is served, held or refused. -/
  | taggedWordArrival (k : Nat)
  /-- TAGGED_WORD_RESEND (R217): 64 cycles after a refusal the core resends the tagged word. -/
  | taggedWordResend (k : Nat)
  /-- ON_DEMAND_FILL (R210): HK2 fills an on-demand page or makes it not present, releasing waiters. -/
  | onDemandFill (part : Fin 8) (va : DWord) (ans : Option PageFill)
  /-- PAGE_MOVE (R215): HK2 migrates a page with shootdowns and updates its entry. -/
  | pageMove (part : Fin 8) (va : DWord) (pf : PageFill)
  /-- TABLE_RESIZE (R206): HK2 grows a cuckoo table without stopping translation. -/
  | tableResize (part : Fin 8) (size : Fin 3) (nbase : BitVec 52) (nn : BitVec 6)
  /-- COPY_COMMAND_START (R269): A queued engine command starts once its predecessor has read and its hazards are clear. -/
  | copyCommandStart (eng : Fin 32) (q : Fin 8)
  /-- ENGINE_BURST (R269): The engine translates, reads and writes one 256-byte burst of a started command. -/
  | engineBurst (eng : Fin 34) (q : Fin 8)
  /-- CHAIN_RECORD (R284): The engine reads and processes the next chain record. -/
  | chainRecord (eng : Fin 32) (q : Fin 8)
  /-- COPY_FAULT_ANSWER (R286): HK2's answer to a stalled burst resumes or stops the command. -/
  | copyFaultAnswer (eng : Fin 34) (q : Fin 8)
  /-- COPY_COMPLETE (R271): A command completes, decrementing its token and recording any error. -/
  | copyComplete (eng : Fin 32) (q : Fin 8)
  /-- COLL_START (R318): A collective command starts, reads and checks its descriptor and tables. -/
  | collStart (eng : Fin 2) (q : Fin 8)
  /-- COLL_TIMEOUT (R324): A collective not complete after TMO µs stops with cause 0x12 and sends aborts. -/
  | collTimeout (eng : Fin 2) (q : Fin 8)
  /-- COLL_COMPLETE (R323): A collective writes STAT and completes on its token. -/
  | collComplete (eng : Fin 2) (q : Fin 8)
  /-- BATCH_CLOSE (R380): A launch batch closes 1,024 cycles after its first request. -/
  | batchClose (die : Fin 8) (k : Nat)
  /-- GRID_ACCEPT (R381): HK1 accepts or refuses a device-side grid and writes each requester's result. -/
  | gridAccept (die : Fin 8)
  /-- GLOG_APPEND (R388): Welt reads a GLOG source and appends the record to the ring. -/
  | glogAppend (die : Fin 8)
  /-- WELT_FOLD (R391): Once launches through S complete, Welt folds the ring's records in key order. -/
  | weltFold (die : Fin 8)
  /-- LASER_READY (R331): 18 µs after PORT.ON the laser is ready. -/
  | laserReady (port : Fin 16)
  /-- LOCK_COMPLETE (R331): A port's lock on the expected peer completes and it becomes TRAINED. -/
  | lockComplete (port : Fin 16)
  /-- LOCK_TIMEOUT (R331): No lock within 100 µs moves the port to FAULT. -/
  | lockTimeout (port : Fin 16)
  /-- HANDSHAKE (R331): The TRAINED handshake makes the port LIVE or FAULT. -/
  | handshake (port : Fin 16) (dev : BitVec 12) (pp : BitVec 4) (sseq : BitVec 16)
  /-- LOSS_OF_LIGHT (R331): Light lost on a TRAINED or LIVE port returns it to LOCKING. -/
  | lossOfLight (port : Fin 16)
  /-- LIGHT_ARRIVAL (R342): Light arriving on a rotation port may realign a follower's slot boundary. -/
  | lightArrival (port : Fin 16) (time : Int)
  /-- ROTATION_START (R356): The armed rotation starts on its event. -/
  | rotationStart (cx : Fin 8) (time : Int)
  /-- SLOT_BOUNDARY (R342): A slot length elapses, advancing the slot, sending ADV and changing expected peers. -/
  | slotBoundary (cx : Fin 8)
  /-- WINDOW_OPEN (R345): A slot window opens, resending unacknowledged bursts. -/
  | windowOpen (port : Fin 16)
  /-- WINDOW_CLOSE (R345): A slot window closes and no new burst starts. -/
  | windowClose (port : Fin 16)
  /-- FRAME_RECEIVE (R344): A circuit frame arrives and is written or dropped by SSEQ and port state. -/
  | frameReceive (port : Fin 16) (fr : Frame)
  /-- CWAIT_TIMEOUT (R353): A CWAIT's timeout passes and it returns OUTCOME 3. -/
  | cwaitTimeout (cx : Fin 8)
  /-- WEV_EVENT (R360): The event a WEV waits on occurs and releases the context. -/
  | wevEvent (cx : Fin 8)
  /-- WEV_TIMEOUT (R360): A WEV's timeout passes and it returns 1. -/
  | wevTimeout (cx : Fin 8)
  /-- ILLEGAL_WORD (R58): A SIMT word with a reserved major, PFX kind or header, or a circuit word with a reserved OP, issues and traps or faults with cause 0x02. -/
  | illegalWord (w : Word)
  /-- INSTRUCTION_FETCH (R111): A thread's fetch from an unmapped or non-executable page, or past the top of the global window, traps at the fetch address with %TRWORD 0. -/
  | instructionFetch (cause : Byte)
  /-- LINK_UP (R300): A packet-plane link finishes retraining and its LINKUP bit is set again. -/
  | linkUp (link : Fin 6)
  /-- POWER_FAIL (R427): Device power is lost, interrupting any start and losing histogram counts not yet written to flash. -/
  | powerFail
  /-- ACCESS_ACKNOWLEDGE (R253): A store or other access is acknowledged at its home, completing waiting FENCEs, letting the next SO access or circuit LDC/STC proceed, and reporting local store failures. -/
  | accessAcknowledge (core : Fin 1024) (slot : Fin 64) (lane : Fin 32)
  deriving DecidableEq, Repr

end Sys2Proof
end

