-- ==== Sys2Proof/Machine/Fields.lean ====
section
/-! DEFINITION. What a word's fields say before it executes: its guard, its reserved values (step 3 of R58), the registers it
names and their alignment (step 4 of R58), and the classes that prefixes, bundles and units look at. -/

namespace Sys2Proof

/-- One register operand: `count` registers from `base`, whose number must be a multiple of `align`; read, written or both. -/
structure Opnd where
  base : Nat
  count : Nat
  align : Nat
  rd : Bool
  wr : Bool
  deriving DecidableEq, Repr

/-- A source register or block. -/
def Opnd.src (b : BitVec 6) (count align : Nat) : Opnd := ⟨b.toNat, count, align, true, false⟩
/-- A destination register or block. -/
def Opnd.dst (b : BitVec 6) (count align : Nat) : Opnd := ⟨b.toNat, count, align, false, true⟩
/-- A block that is read and then written. -/
def Opnd.both (b : BitVec 6) (count align : Nat) : Opnd := ⟨b.toNat, count, align, true, true⟩

/-- The bytes a size code moves (R34); code 0b111 is reserved. -/
def szBytes (z : BitVec 3) : Nat :=
  match z.toNat with
  | 0 => 1 | 1 => 1 | 2 => 2 | 3 => 2 | 4 => 4 | 5 => 8 | 6 => 16 | _ => 0

/-- The registers a size code's footprint holds, which is also the multiple its base must be (R34). -/
def szRegs (z : BitVec 3) : Nat :=
  match z.toNat with
  | 5 => 2 | 6 => 4 | _ => 1

/-- The special-register numbers that R50 assigns; R53 leaves the others unassigned. -/
def csrAssigned (n : Nat) : Bool :=
  decide (n ≤ 0x15) || decide (0x18 ≤ n ∧ n ≤ 0x1A) || decide (0x1C ≤ n ∧ n ≤ 0x1E) || decide (0x20 ≤ n ∧ n ≤ 0x22) ||
  decide (0x24 ≤ n ∧ n ≤ 0x2B) || n == 0x30

/-- The special registers of 64 bits, which are read into and written from a pair (R50, R51). -/
def csrWide (n : Nat) : Bool :=
  n == 0x0D || n == 0x11 || n == 0x13 || n == 0x15 || n == 0x1C || n == 0x22 || decide (0x24 ≤ n ∧ n ≤ 0x2B)

/-- Registers of a CSRR or CSRW operand (R51). -/
def csrRegs (n : BitVec 6) : Nat := if csrWide n.toNat then 2 else 1

/-- The guard of a SIMT word; PFX words, circuit words and events have none. -/
def Instr.guard? : Instr → Option Guard
  | .nop g | .bra g _ _ | .brx g _ _ | .call g _ | .callx g _ | .ret g | .loop g _ _ | .loopi g _ _ | .rcv g _ | .yield g
  | .exit g | .idem g => some g
  | .add g _ _ _ _ | .sub g _ _ _ _ | .addi g _ _ _ | .mul g _ _ _ _ | .mad g _ _ _ _ | .add64 g _ _ _ _ | .lea g _ _ _ _ => some g
  | .and g _ _ _ | .or g _ _ _ | .xor g _ _ _ | .andn g _ _ _ | .shl g _ _ _ | .shr g _ _ _ | .sar g _ _ _ | .rot g _ _ _ => some g
  | .shlImm g _ _ _ | .shrImm g _ _ _ | .sarImm g _ _ _ | .rotImm g _ _ _ | .min g _ _ _ _ | .max g _ _ _ _ => some g
  | .clz g _ _ | .ctz g _ _ | .popc g _ _ | .brev g _ _ | .abs g _ _ | .neg g _ _ | .not g _ _ | .sext8 g _ _ | .sext16 g _ _ => some g
  | .bfe g _ _ _ _ | .bfi g _ _ _ | .setp g _ _ _ _ _ | .setpi g _ _ _ _ | .sel g _ _ _ _ | .mov g _ _ | .p2v g _ | .v2p g _ => some g
  | .movi g _ _ | .prmt g _ _ _ | .nlut g _ _ _ _ | .shfl g _ _ _ _ | .vote g _ _ _ => some g
  | .fadd g _ _ _ _ | .fsub g _ _ _ _ | .fmul g _ _ _ _ | .fma g _ _ _ _ | .fmin g _ _ _ | .fmax g _ _ _ | .fsetp g _ _ _ _ _ => some g
  | .fabs g _ _ | .fneg g _ _ | .frnd g _ _ _ | .rcp g _ _ | .rsq g _ _ | .sqrt g _ _ | .ex2 g _ _ | .lg2 g _ _ | .sin g _ _ | .cos g _ _ => some g
  | .hadd2 g _ _ _ _ | .hmul2 g _ _ _ _ | .hfma2 g _ _ _ _ | .hmm2 g _ _ _ _ => some g
  | .cvtf g _ _ _ _ _ _ _ | .cvtp g _ _ _ _ _ _ _ | .cvti g _ _ _ _ _ | .mxq g _ _ _ _ _ | .mxd g _ _ _ => some g
  | .mld g _ _ _ _ _ _ | .mma g _ _ _ _ _ | .mmas g _ _ _ _ | .mclr g _ | .mrd g _ _ _ => some g
  | .ld g _ _ _ _ | .st g _ _ _ _ | .lda g _ _ _ _ | .stl g _ _ _ _ | .ldf g _ _ _ _ | .lde g _ _ _ _ | .stf g _ _ _ _ | .sto g _ _ _ _ => some g
  | .sete g _ _ | .setf g _ _ | .tagrd g _ _ _ | .tild g _ _ _ _ | .tist g _ _ _ _ | .pref g _ _ _ => some g
  | .cinvInv g | .cinvWb g | .cinvIc g | .atom g _ _ _ _ | .cas g _ _ _ _ | .red g _ _ _ _ | .fence g _ _ => some g
  | .barv g _ _ _ _ | .barw g _ _ _ | .bariInit g _ _ _ | .bariInval g _ | .bart g _ _ _ _ => some g
  | .cpy g _ _ _ _ | .tcpy g _ _ _ _ _ | .gcpy g _ _ _ _ _ | .chain g _ _ _ | .tkwait g _ _ _ => some g
  | .rcpy g _ _ _ _ _ | .coll g _ _ _ _ | .sigrFill g _ _ _ | .sigrArr g _ _ | .sigrArrel g _ _ => some g
  | .lnchLaunch g _ _ _ | .lnchGang g _ _ | .lnchBwrec g _ _ _ | .glog g _ _ _ | .wfold g _ _ _ | .lscale g _ => some g
  | .csrr g _ _ | .csrw g _ _ | .trap g _ | .bkpt g _ | .rte g | .wdog g | .dbgmbSend g _ | .dbgmbRecv g _ | .dbgmbXchg g _ _ => some g
  | _ => none

/-- R30 and step 1 of R58: N = 1 with P = 7 is refused. -/
def Guard.ok (g : Guard) : Bool := !(g.n && g.p == 7)

/-- The format codes of R153 that CVTF and CVTP accept: FP16, BF16, E4M3 and E5M2. -/
def cvtFormatOk (f : BitVec 3) : Bool := f == 1 || f == 2 || f == 3 || f == 4
/-- The element codes of R153 that MXQ and MXD accept: E4M3, E5M2 and E2M1. -/
def mxFormatOk (f : BitVec 3) : Bool := f == 3 || f == 4 || f == 6
/-- R256, R35: a barrier number of 0 to 95, and zero low bits when the operand is a register. -/
def barFieldsOk (b : BitVec 7) (x : BitVec 1) (v : BitVec 10) : Bool :=
  decide (b.toNat ≤ 95) && (x == 0 || (v &&& 15#10) == 0)

/-- Step 3 of R58 on the word's own fields: no reserved function, mode, size code, barrier number or field value.
A word for which this is false takes cause 0x02. Nonzero fixed fields are already refused by the decoder. -/
def Instr.fieldsOk : Instr → Bool
  | .pfxOrd o c l => decide (o.toNat ≤ 4) && decide (c.toNat ≤ 4) && decide (l.toNat ≤ 3)
  | .pfxTok _ h => decide (h.toNat ≤ 1)
  | .loopi _ _ l => l != 0
  | .add64 _ m _ _ _ => m != 3
  | .nlut _ m _ _ _ => m != 3
  | .vote _ m d a => (m == 2 || decide (d.toNat ≤ 7)) && (m == 3 || decide (a.toNat ≤ 7))
  | .cvtf _ m _ _ f r t w => cvtFormatOk f && (r == 0 || m == 0) && (w == 0 || (m == 0 && r == 0 && t == 0))
  | .cvtp _ m _ _ f r _ h => cvtFormatOk f && (r == 0 || m == 0) && (h == 0 || f == 3 || f == 4)
  | .cvti _ _ _ _ c _ => decide (c.toNat ≤ 5)
  | .mxq _ m _ _ f r => mxFormatOk f && (r == 0 || m == 0)
  | .mxd _ _ _ f => mxFormatOk f
  | .mld _ _ _ t x _ b => t != 0 && t != 7 && (x == 0 || t == 3 || t == 4 || t == 6) && (x == 1 || t != 6) && (x == 1 || b == 0)
  | .mma _ e _ _ _ gg => if e == 0 then gg == 0 else decide (gg.toNat ≤ 1)
  | .ld _ z _ _ _ | .lda _ z _ _ _ => z != 7
  | .st _ z _ _ _ | .stl _ z _ _ _ => z == 0 || z == 2 || z == 4 || z == 5 || z == 6
  | .ldf _ z _ _ _ | .lde _ z _ _ _ | .stf _ z _ _ _ | .sto _ z _ _ _ => z == 4 || z == 5
  | .sete _ _ z | .setf _ _ z | .tagrd _ _ _ z => z == 4 || z == 5
  | .pref _ l _ _ => decide (l.toNat ≤ 1)
  | .atom _ _ _ w o => decide (o.toNat ≤ 9) && (w == 0 || o != 9)
  | .red _ _ _ w o => decide (o.toNat ≤ 9) && (w == 0 || o != 9) && o != 8
  | .fence _ _ c => decide (c.toNat ≤ 4)
  | .barv _ _ b x v => barFieldsOk b x v
  | .barw _ b x v => barFieldsOk b x v && (x == 1 || decide (v.toNat ≤ 1))
  | .bariInit _ b x v => barFieldsOk b x v
  | .bariInval _ b => decide (b.toNat ≤ 95)
  | .bart _ k b x v => k != 3 && barFieldsOk b x v
  | .tkwait _ d t _ => t == 1 || d == 0
  | .rcpy _ m _ _ _ _ => m != 3
  | .coll _ _ _ _ o => decide (o.toNat ≤ 5)
  | .csrr _ _ a | .csrw _ _ a => csrAssigned a.toNat
  | .srun _ _ k => decide (k.toNat ≤ 4)
  | .wev d _ _ k _ => decide (k.toNat ≤ 5) && d != 15
  | _ => true

/-- The width in bits of a matrix element type (R173). -/
def mxWidth (t : BitVec 3) : Nat := match t.toNat with | 1 => 16 | 2 => 16 | 6 => 4 | _ => 8

/-- The registers a word names (step 4 of R58), with the alignment each base must have: R34, R44, R45, R118, R152,
R176, R233, R243, R273, R308, R314, R317, R378, R387 and R414. -/
def Instr.opnds : Instr → List Opnd
  | .brx _ _ a | .callx _ a => [.src a 2 2]
  | .loop _ d _ => [.src d 1 1]
  | .add _ _ d a b | .sub _ _ d a b | .mul _ _ d a b => [.dst d 1 1, .src a 1 1, .src b 1 1]
  | .mad _ _ d a b => [.both d 1 1, .src a 1 1, .src b 1 1]
  | .addi _ d a _ => [.dst d 1 1, .src a 1 1]
  | .add64 _ m d a b => [.dst d 2 2, .src a 2 2, if m == 0 then .src b 2 2 else .src b 1 1]
  | .lea _ _ d a b => [.dst d 2 2, .src a 2 2, .src b 1 1]
  | .and _ d a b | .or _ d a b | .xor _ d a b | .andn _ d a b | .shl _ d a b | .shr _ d a b | .sar _ d a b | .rot _ d a b =>
    [.dst d 1 1, .src a 1 1, .src b 1 1]
  | .shlImm _ d a _ | .shrImm _ d a _ | .sarImm _ d a _ | .rotImm _ d a _ => [.dst d 1 1, .src a 1 1]
  | .min _ _ d a b | .max _ _ d a b | .bfe _ _ d a b => [.dst d 1 1, .src a 1 1, .src b 1 1]
  | .clz _ d a | .ctz _ d a | .popc _ d a | .brev _ d a | .abs _ d a | .neg _ d a | .not _ d a | .sext8 _ d a | .sext16 _ d a
  | .mov _ d a => [.dst d 1 1, .src a 1 1]
  | .bfi _ d a b | .prmt _ d a b => [.both d 1 1, .src a 1 1, .src b 1 1]
  | .setp _ _ _ _ a b | .fsetp _ _ _ _ a b => [.src a 1 1, .src b 1 1]
  | .setpi _ _ _ a _ => [.src a 1 1]
  | .sel _ _ d a b => [.dst d 1 1, .src a 1 1, .src b 1 1]
  | .p2v _ d => [.dst d 1 1]
  | .v2p _ a => [.src a 1 1]
  | .movi _ d _ => [.dst d 1 1]
  | .nlut _ m d a b => [.dst d 1 1, .src a 1 1, if m == 2 then .src b 2 2 else .src b 4 4]
  | .shfl _ _ d a b => [.dst d 1 1, .src a 1 1, .src b 1 1]
  | .vote _ m d a => (if m == 2 then [.dst d 1 1] else []) ++ (if m == 3 then [.src a 1 1] else [])
  | .fadd _ _ d a b | .fsub _ _ d a b | .fmul _ _ d a b | .hadd2 _ _ d a b | .hmul2 _ _ d a b | .hmm2 _ _ d a b =>
    [.dst d 1 1, .src a 1 1, .src b 1 1]
  | .fmin _ d a b | .fmax _ d a b => [.dst d 1 1, .src a 1 1, .src b 1 1]
  | .fma _ _ d a b | .hfma2 _ _ d a b => [.both d 1 1, .src a 1 1, .src b 1 1]
  | .fabs _ d a | .fneg _ d a | .rcp _ d a | .rsq _ d a | .sqrt _ d a | .ex2 _ d a | .lg2 _ d a | .sin _ d a | .cos _ d a =>
    [.dst d 1 1, .src a 1 1]
  | .frnd _ _ d a => [.dst d 1 1, .src a 1 1]
  | .cvtf _ _ d a _ _ _ _ => [.dst d 1 1, .src a 1 1]
  | .cvtp _ _ d a f _ _ _ => [if f == 3 || f == 4 then .both d 1 1 else .dst d 1 1, .src a 2 2]
  | .cvti _ _ d a _ _ => [.dst d 1 1, .src a 1 1]
  | .mxq _ _ d a _ _ => [.dst d 1 1, .src a 1 1]
  | .mxd _ d a _ => [.dst d 1 1, .src a 1 1]
  | .mld _ l _ _ x a b => [if l == 0 then .src a 8 8 else .src a 16 8] ++ (if x == 1 then [.src b 1 1] else [])
  | .mma _ e _ d a _ => if e == 0 then [.src a 16 8, .both d 16 8] else [.src a 8 8, .both d 32 8]
  | .mmas _ _ d a b => [.src a 16 8, .both d 16 8, .src b 1 1]
  | .mrd _ m d _ => [match m.toNat with | 0 => .dst d 8 8 | 1 => .dst d 16 8 | _ => .dst d 1 1]
  | .ld _ z d a _ | .lda _ z d a _ | .ldf _ z d a _ | .lde _ z d a _ => [.dst d (szRegs z) (szRegs z), .src a 2 2]
  | .st _ z d a _ | .stl _ z d a _ | .stf _ z d a _ | .sto _ z d a _ => [.src d (szRegs z) (szRegs z), .src a 2 2]
  | .sete _ a _ | .setf _ a _ => [.src a 2 2]
  | .tagrd _ d a _ => [.dst d 1 1, .src a 2 2]
  | .tild _ _ d a b => [.dst d 4 4, .src a 2 2, .src b 1 1]
  | .tist _ _ d a b => [.src d 4 4, .src a 2 2, .src b 1 1]
  | .pref _ _ a _ => [.src a 2 2]
  | .atom _ d a w _ => [if w == 1 then .both d 2 2 else .both d 1 1, .src a 2 2]
  | .cas _ w d a b => [if w == 1 then .both d 2 2 else .both d 1 1, .src a 2 2, if w == 1 then .src b 2 2 else .src b 1 1]
  | .red _ d a w _ => [if w == 1 then .src d 2 2 else .src d 1 1, .src a 2 2]
  | .barv _ _ _ x v | .barw _ _ x v | .bariInit _ _ x v | .bart _ _ _ x v => if x == 1 then [.src (v.extractLsb' 4 6) 1 1] else []
  | .cpy _ _ _ a b => [.src a 4 4, .src b 2 2]
  | .tcpy _ _ _ _ a b => [.src a 2 2, .src b 7 8]
  | .gcpy _ _ _ _ a b => [.src a 8 8, .src b 3 4]
  | .chain _ _ _ a => [.src a 2 2]
  | .tkwait _ d t _ => if t == 1 then [.dst d 1 1] else []
  | .rcpy _ _ _ _ a b => [.src a 4 4, .src b 2 2]
  | .coll _ _ _ a _ => [.src a 2 2]
  | .sigrFill _ d a z => [if z == 1 then .src d 2 2 else .src d 1 1, .src a 2 2]
  | .sigrArr _ a b | .sigrArrel _ a b => [.src a 2 2, .src b 1 1]
  | .lnchLaunch _ d a b => [.dst d 2 2, .src a 4 4, .src b 1 1]
  | .lnchGang _ d a => [.dst d 2 2, .src a 2 2]
  | .lnchBwrec _ _ a b => [.src a 4 4, .src b 1 1]
  | .glog _ _ a b => [.src a 1 1, .src b 2 2]
  | .wfold _ _ a b => [.src a 2 2, .src b 1 1]
  | .lscale _ a => [.src a 1 1]
  | .csrr _ d a => [.dst d (csrRegs a) (csrRegs a)]
  | .csrw _ d a => [.src d (csrRegs a) (csrRegs a)]
  | .dbgmbSend _ a => [.src a 2 2]
  | .dbgmbRecv _ d => [.dst d 2 2]
  | .dbgmbXchg _ d a => [.dst d 2 2, .src a 2 2]
  | _ => []

/-- Step 4 of R58: every base is a multiple of what its footprint needs and every register lies below the allotment. -/
def Instr.regsOk (allot : Nat) (i : Instr) : Bool :=
  i.opnds.all (fun o => o.base % o.align == 0 && decide (o.base + o.count ≤ allot))

/-- R57: the warp-bound words. -/
def Instr.warpBound : Instr → Bool
  | .shfl .. | .vote .. | .mld .. | .mma .. | .mmas .. | .mrd .. | .tild .. | .tist .. | .mxq .. | .rcv .. => true
  | _ => false

/-- The PFX words. -/
def Instr.isPfx : Instr → Bool
  | .pfxExt .. | .pfxOrd .. | .pfxTok .. => true
  | _ => false

/-- R40, R55: the words of format I, L or M, which a PFX of kind 00 may modify. TKWAIT has the I format but its immediate
is a mask that R273 lets no extension modify. -/
def Instr.extendable : Instr → Bool
  | .loop .. | .movi .. | .addi .. | .setpi .. => true
  | .ld .. | .st .. | .lda .. | .stl .. | .ldf .. | .lde .. | .stf .. | .sto .. | .pref .. => true
  | _ => false

/-- The ORD and POL codes and the scope codes that R241 lets a PFX of kind 01 carry for each word; words without a row
accept none. -/
def Instr.ordOk (i : Instr) (o c l : BitVec 3) : Bool :=
  let def_ := o == 0
  let pol2 := l == 0 || l == 1 || l == 2
  let anyScope := decide (c.toNat ≤ 4)
  match i with
  | .ld .. | .st .. => (def_ || o == 1) && c == 0 && decide (l.toNat ≤ 3)
  | .lda .. => (def_ || o == 2) && anyScope && decide (l.toNat ≤ 3)
  | .stl .. => (def_ || o == 3) && anyScope && decide (l.toNat ≤ 3)
  | .ldf .. | .lde .. => (def_ || o == 2) && anyScope && l == 0
  | .stf .. | .sto .. => (def_ || o == 3) && anyScope && l == 0
  | .sete .. | .setf .. | .tagrd .. | .tild .. | .tist .. => def_ && c == 0 && l == 0
  | .pref .. => def_ && c == 0 && pol2
  | .atom .. | .cas .. => decide (o.toNat ≤ 4) && anyScope && l == 0
  | .red .. => (def_ || o == 1 || o == 3) && anyScope && l == 0
  | .barv .. | .barw .. => def_ && anyScope && l == 0
  | .bariInit .. | .bariInval .. | .bart .. => def_ && c == 0 && l == 0
  | .cpy .. | .tcpy .. | .gcpy .. | .chain .. | .rcpy .. | .coll .. | .sigrFill .. | .sigrArr .. | .sigrArrel .. =>
    def_ && anyScope && pol2
  | _ => false

/-- The prefixes gathered in front of a word (R39): at most one payload of each kind. -/
structure Prefixes where
  ext : Option (BitVec 18) := none
  ord : Option (BitVec 3 × BitVec 3 × BitVec 3) := none
  tok : Option (BitVec 8 × BitVec 2) := none
  deriving DecidableEq, Repr

/-- R39 to R42: the prefixes of a group may modify this word. -/
def Instr.prefixesOk (i : Instr) (p : Prefixes) : Bool :=
  (p.ext.isNone || i.extendable) &&
  (match p.ord with | none => true | some (o, c, l) => i.ordOk o c l) &&
  !(i.isPfx)

/-- An immediate field of width `w` with its extension (R40), as an unsigned number of 18 + w bits, or of w bits without one. -/
def extNat (p : Prefixes) (w : Nat) (f : Nat) : Nat :=
  match p.ext with
  | some e => e.toNat * 2 ^ w + f
  | none => f

/-- The width an immediate field has after its extension (R40). -/
def extWidth (p : Prefixes) (w : Nat) : Nat := if p.ext.isSome then w + 18 else w

/-- A signed immediate after extension (R40), as an integer. -/
def extInt (p : Prefixes) (w : Nat) (f : Nat) : Int :=
  let v := extNat p w f
  if v < 2 ^ (extWidth p w - 1) then (v : Int) else (v : Int) - 2 ^ (extWidth p w)

/-- The LOOP check of R94: the body length after extension, read as an unsigned 32-bit value, is not 0. -/
def Instr.loopLenOk (i : Instr) (p : Prefixes) : Bool :=
  match i with
  | .loop _ _ f => extNat p 14 f.toNat != 0
  | _ => true

/-- The cause of the decode trap a word takes (R58), if any: steps 1 to 3 give 0x02 and step 4 gives 0x01. -/
def Instr.decodeCause (i : Instr) (p : Prefixes) (allot : Nat) : Option Byte :=
  if !(match i.guard? with | some g => g.ok | none => true) then some 2
  else if !(i.prefixesOk p) then some 2
  else if !(i.fieldsOk && i.loopLenOk p) then some 2
  else if !(i.regsOk allot) then some 1
  else none

end Sys2Proof
end

