-- ==== Sys2Proof/WellFormed.lean ====
section
/-! DEFINITION. Well-formed instruction words: those whose fields hold no reserved value, so that a core whose allotment
holds their registers, or the circuit processor, executes them without a decode trap (R37, R58, R337). -/

namespace Sys2Proof

/-- Every field holds an assigned value and the guard is not N = 1 with P = 7 (R30, R37). Events are always well formed. -/
def Instr.wf (i : Instr) : Bool :=
  (match i.guard? with | some g => g.ok | none => true) && i.fieldsOk

end Sys2Proof
end

