-- ==== Sys2Proof/Decode.lean ====
section
/-! DEFINITION. From the stored bytes of a word to the instruction they encode, and back. The SIMT cores and the circuit
processor have opcode spaces of their own (R26), so there is a decoder for each. -/

namespace Sys2Proof

/-- Why bytes are no instruction. -/
inductive DecodeError where
  /-- Fewer than the four bytes of a word (R29, R349). -/
  | truncated
  /-- A reserved major, kind or function, a wrong PFX header or a nonzero reserved field (R37, R38, R54, R349). -/
  | reservedWord
  deriving DecidableEq, Repr

/-- Bits `lo` to `lo + n - 1` of a word as a number. -/
def fld (w : Word) (lo n : Nat) : Nat := w.toNat / 2 ^ lo % 2 ^ n

/-- Bits `lo` to `lo + n - 1` of a word as a bit vector. -/
def bf (w : Word) (lo n : Nat) : BitVec n := BitVec.ofNat n (w.toNat / 2 ^ lo)

/-- The common header's S, N and P (R29). -/
def guardOf (w : Word) : Guard := ⟨fld w 31 1 == 1, fld w 30 1 == 1, bf w 27 3⟩

/-- A row of an opcode table: its fixed fields as (lowest bit, width, value), and the instruction of a word that has them. -/
structure Row where
  fixed : List (Nat × Nat × Nat)
  build : Word → Instr

/-- The word has every fixed field of the row. -/
def Row.fits (r : Row) (w : Word) : Bool := r.fixed.all (fun f => fld w f.1 f.2.1 == f.2.2)

/-- The instruction of the first row that fits. -/
def decodeRows : List Row → Word → Except DecodeError Instr
  | [], _ => .error .reservedWord
  | r :: rs, w => if r.fits w then .ok (r.build w) else decodeRows rs w


/-- The words of the SIMT opcode map (R54 to R56 and the class chapters), by the fixed fields of each, part 1. -/
def simtRows1 : List Row := [
  ⟨[(20, 7, 0x0), (0, 20, 0x0)], fun w => .nop (guardOf w)⟩,
  ⟨[(20, 12, 0x381), (18, 2, 0x0)], fun w => .pfxExt (bf w 0 18)⟩,
  ⟨[(20, 12, 0x381), (0, 9, 0x0), (18, 2, 0x1)], fun w => .pfxOrd (bf w 15 3) (bf w 12 3) (bf w 9 3)⟩,
  ⟨[(20, 12, 0x381), (0, 8, 0x0), (18, 2, 0x2)], fun w => .pfxTok (bf w 10 8) (bf w 8 2)⟩,
  ⟨[(20, 7, 0x2)], fun w => .bra (guardOf w) (bf w 19 1) (bf w 0 19)⟩,
  ⟨[(20, 7, 0x3), (0, 6, 0x0), (12, 7, 0x0)], fun w => .brx (guardOf w) (bf w 19 1) (bf w 6 6)⟩,
  ⟨[(20, 7, 0x4), (19, 1, 0x0)], fun w => .call (guardOf w) (bf w 0 19)⟩,
  ⟨[(20, 7, 0x5), (0, 6, 0x0), (12, 8, 0x0)], fun w => .callx (guardOf w) (bf w 6 6)⟩,
  ⟨[(20, 7, 0x6), (0, 20, 0x0)], fun w => .ret (guardOf w)⟩,
  ⟨[(20, 7, 0x7)], fun w => .loop (guardOf w) (bf w 14 6) (bf w 0 14)⟩,
  ⟨[(20, 7, 0x8)], fun w => .loopi (guardOf w) (bf w 10 10) (bf w 0 10)⟩,
  ⟨[(20, 7, 0x9), (16, 4, 0x0)], fun w => .rcv (guardOf w) (bf w 0 16)⟩,
  ⟨[(20, 7, 0xa), (0, 20, 0x0)], fun w => .yield (guardOf w)⟩,
  ⟨[(20, 7, 0xb), (0, 20, 0x0)], fun w => .exit (guardOf w)⟩,
  ⟨[(20, 7, 0xc), (0, 20, 0x0)], fun w => .idem (guardOf w)⟩,
  ⟨[(20, 7, 0x10)], fun w => .add (guardOf w) (bf w 18 2) (bf w 12 6) (bf w 6 6) (bf w 0 6)⟩,
  ⟨[(20, 7, 0x11)], fun w => .sub (guardOf w) (bf w 18 2) (bf w 12 6) (bf w 6 6) (bf w 0 6)⟩,
  ⟨[(20, 7, 0x12)], fun w => .addi (guardOf w) (bf w 14 6) (bf w 8 6) (bf w 0 8)⟩,
  ⟨[(20, 7, 0x13)], fun w => .mul (guardOf w) (bf w 18 2) (bf w 12 6) (bf w 6 6) (bf w 0 6)⟩,
  ⟨[(20, 7, 0x14)], fun w => .mad (guardOf w) (bf w 18 2) (bf w 12 6) (bf w 6 6) (bf w 0 6)⟩,
  ⟨[(20, 7, 0x15)], fun w => .add64 (guardOf w) (bf w 18 2) (bf w 12 6) (bf w 6 6) (bf w 0 6)⟩,
  ⟨[(20, 7, 0x16)], fun w => .lea (guardOf w) (bf w 18 2) (bf w 12 6) (bf w 6 6) (bf w 0 6)⟩,
  ⟨[(20, 7, 0x17), (18, 2, 0x0)], fun w => .and (guardOf w) (bf w 12 6) (bf w 6 6) (bf w 0 6)⟩,
  ⟨[(20, 7, 0x18), (18, 2, 0x0)], fun w => .or (guardOf w) (bf w 12 6) (bf w 6 6) (bf w 0 6)⟩]

/-- The words of the SIMT opcode map (R54 to R56 and the class chapters), by the fixed fields of each, part 2. -/
def simtRows2 : List Row := [
  ⟨[(20, 7, 0x19), (18, 2, 0x0)], fun w => .xor (guardOf w) (bf w 12 6) (bf w 6 6) (bf w 0 6)⟩,
  ⟨[(20, 7, 0x1a), (18, 2, 0x0)], fun w => .andn (guardOf w) (bf w 12 6) (bf w 6 6) (bf w 0 6)⟩,
  ⟨[(20, 7, 0x1b), (18, 2, 0x0)], fun w => .shl (guardOf w) (bf w 12 6) (bf w 6 6) (bf w 0 6)⟩,
  ⟨[(20, 7, 0x1c), (18, 2, 0x0)], fun w => .shr (guardOf w) (bf w 12 6) (bf w 6 6) (bf w 0 6)⟩,
  ⟨[(20, 7, 0x1d), (18, 2, 0x0)], fun w => .sar (guardOf w) (bf w 12 6) (bf w 6 6) (bf w 0 6)⟩,
  ⟨[(20, 7, 0x1e), (18, 2, 0x0)], fun w => .rot (guardOf w) (bf w 12 6) (bf w 6 6) (bf w 0 6)⟩,
  ⟨[(20, 7, 0x1f), (5, 1, 0x0), (18, 2, 0x0)], fun w => .shlImm (guardOf w) (bf w 12 6) (bf w 6 6) (bf w 0 5)⟩,
  ⟨[(20, 7, 0x1f), (5, 1, 0x0), (18, 2, 0x1)], fun w => .shrImm (guardOf w) (bf w 12 6) (bf w 6 6) (bf w 0 5)⟩,
  ⟨[(20, 7, 0x1f), (5, 1, 0x0), (18, 2, 0x2)], fun w => .sarImm (guardOf w) (bf w 12 6) (bf w 6 6) (bf w 0 5)⟩,
  ⟨[(20, 7, 0x1f), (5, 1, 0x0), (18, 2, 0x3)], fun w => .rotImm (guardOf w) (bf w 12 6) (bf w 6 6) (bf w 0 5)⟩,
  ⟨[(20, 7, 0x20), (19, 1, 0x0)], fun w => .min (guardOf w) (bf w 18 1) (bf w 12 6) (bf w 6 6) (bf w 0 6)⟩,
  ⟨[(20, 7, 0x21), (19, 1, 0x0)], fun w => .max (guardOf w) (bf w 18 1) (bf w 12 6) (bf w 6 6) (bf w 0 6)⟩,
  ⟨[(20, 7, 0x22), (0, 6, 0x0), (18, 2, 0x0)], fun w => .clz (guardOf w) (bf w 12 6) (bf w 6 6)⟩,
  ⟨[(20, 7, 0x22), (0, 6, 0x1), (18, 2, 0x0)], fun w => .ctz (guardOf w) (bf w 12 6) (bf w 6 6)⟩,
  ⟨[(20, 7, 0x22), (0, 6, 0x2), (18, 2, 0x0)], fun w => .popc (guardOf w) (bf w 12 6) (bf w 6 6)⟩,
  ⟨[(20, 7, 0x22), (0, 6, 0x3), (18, 2, 0x0)], fun w => .brev (guardOf w) (bf w 12 6) (bf w 6 6)⟩,
  ⟨[(20, 7, 0x22), (0, 6, 0x4), (18, 2, 0x0)], fun w => .abs (guardOf w) (bf w 12 6) (bf w 6 6)⟩,
  ⟨[(20, 7, 0x22), (0, 6, 0x5), (18, 2, 0x0)], fun w => .neg (guardOf w) (bf w 12 6) (bf w 6 6)⟩,
  ⟨[(20, 7, 0x22), (0, 6, 0x6), (18, 2, 0x0)], fun w => .not (guardOf w) (bf w 12 6) (bf w 6 6)⟩,
  ⟨[(20, 7, 0x22), (0, 6, 0x7), (18, 2, 0x0)], fun w => .sext8 (guardOf w) (bf w 12 6) (bf w 6 6)⟩,
  ⟨[(20, 7, 0x22), (0, 6, 0x8), (18, 2, 0x0)], fun w => .sext16 (guardOf w) (bf w 12 6) (bf w 6 6)⟩,
  ⟨[(20, 7, 0x23), (19, 1, 0x0)], fun w => .bfe (guardOf w) (bf w 18 1) (bf w 12 6) (bf w 6 6) (bf w 0 6)⟩,
  ⟨[(20, 7, 0x24), (18, 2, 0x0)], fun w => .bfi (guardOf w) (bf w 12 6) (bf w 6 6) (bf w 0 6)⟩,
  ⟨[(20, 7, 0x25)], fun w => .setp (guardOf w) (bf w 18 2) (bf w 15 3) (bf w 12 3) (bf w 6 6) (bf w 0 6)⟩]

/-- The words of the SIMT opcode map (R54 to R56 and the class chapters), by the fixed fields of each, part 3. -/
def simtRows3 : List Row := [
  ⟨[(20, 7, 0x26)], fun w => .setpi (guardOf w) (bf w 17 3) (bf w 14 3) (bf w 8 6) (bf w 0 8)⟩,
  ⟨[(20, 7, 0x27)], fun w => .sel (guardOf w) (bf w 18 2) (bf w 12 6) (bf w 6 6) (bf w 0 6)⟩,
  ⟨[(20, 7, 0x28), (0, 6, 0x0), (18, 2, 0x0)], fun w => .mov (guardOf w) (bf w 12 6) (bf w 6 6)⟩,
  ⟨[(20, 7, 0x28), (0, 12, 0x1), (18, 2, 0x0)], fun w => .p2v (guardOf w) (bf w 12 6)⟩,
  ⟨[(20, 7, 0x28), (0, 6, 0x2), (12, 8, 0x0)], fun w => .v2p (guardOf w) (bf w 6 6)⟩,
  ⟨[(20, 7, 0x29)], fun w => .movi (guardOf w) (bf w 14 6) (bf w 0 14)⟩,
  ⟨[(20, 7, 0x2a), (18, 2, 0x0)], fun w => .prmt (guardOf w) (bf w 12 6) (bf w 6 6) (bf w 0 6)⟩,
  ⟨[(20, 7, 0x2b)], fun w => .nlut (guardOf w) (bf w 18 2) (bf w 12 6) (bf w 6 6) (bf w 0 6)⟩,
  ⟨[(20, 7, 0x2c)], fun w => .shfl (guardOf w) (bf w 18 2) (bf w 12 6) (bf w 6 6) (bf w 0 6)⟩,
  ⟨[(20, 7, 0x2d), (0, 6, 0x0)], fun w => .vote (guardOf w) (bf w 18 2) (bf w 12 6) (bf w 6 6)⟩,
  ⟨[(20, 7, 0x30)], fun w => .fadd (guardOf w) (bf w 18 2) (bf w 12 6) (bf w 6 6) (bf w 0 6)⟩,
  ⟨[(20, 7, 0x31)], fun w => .fsub (guardOf w) (bf w 18 2) (bf w 12 6) (bf w 6 6) (bf w 0 6)⟩,
  ⟨[(20, 7, 0x32)], fun w => .fmul (guardOf w) (bf w 18 2) (bf w 12 6) (bf w 6 6) (bf w 0 6)⟩,
  ⟨[(20, 7, 0x33)], fun w => .fma (guardOf w) (bf w 18 2) (bf w 12 6) (bf w 6 6) (bf w 0 6)⟩,
  ⟨[(20, 7, 0x34), (18, 2, 0x0)], fun w => .fmin (guardOf w) (bf w 12 6) (bf w 6 6) (bf w 0 6)⟩,
  ⟨[(20, 7, 0x35), (18, 2, 0x0)], fun w => .fmax (guardOf w) (bf w 12 6) (bf w 6 6) (bf w 0 6)⟩,
  ⟨[(20, 7, 0x36)], fun w => .fsetp (guardOf w) (bf w 18 2) (bf w 15 3) (bf w 12 3) (bf w 6 6) (bf w 0 6)⟩,
  ⟨[(20, 7, 0x37), (0, 6, 0x0), (18, 2, 0x0)], fun w => .fabs (guardOf w) (bf w 12 6) (bf w 6 6)⟩,
  ⟨[(20, 7, 0x37), (0, 6, 0x1), (18, 2, 0x0)], fun w => .fneg (guardOf w) (bf w 12 6) (bf w 6 6)⟩,
  ⟨[(20, 7, 0x37), (0, 6, 0x2)], fun w => .frnd (guardOf w) (bf w 18 2) (bf w 12 6) (bf w 6 6)⟩,
  ⟨[(20, 7, 0x38), (0, 6, 0x0), (18, 2, 0x0)], fun w => .rcp (guardOf w) (bf w 12 6) (bf w 6 6)⟩,
  ⟨[(20, 7, 0x38), (0, 6, 0x1), (18, 2, 0x0)], fun w => .rsq (guardOf w) (bf w 12 6) (bf w 6 6)⟩,
  ⟨[(20, 7, 0x38), (0, 6, 0x2), (18, 2, 0x0)], fun w => .sqrt (guardOf w) (bf w 12 6) (bf w 6 6)⟩,
  ⟨[(20, 7, 0x38), (0, 6, 0x3), (18, 2, 0x0)], fun w => .ex2 (guardOf w) (bf w 12 6) (bf w 6 6)⟩]

/-- The words of the SIMT opcode map (R54 to R56 and the class chapters), by the fixed fields of each, part 4. -/
def simtRows4 : List Row := [
  ⟨[(20, 7, 0x38), (0, 6, 0x4), (18, 2, 0x0)], fun w => .lg2 (guardOf w) (bf w 12 6) (bf w 6 6)⟩,
  ⟨[(20, 7, 0x38), (0, 6, 0x5), (18, 2, 0x0)], fun w => .sin (guardOf w) (bf w 12 6) (bf w 6 6)⟩,
  ⟨[(20, 7, 0x38), (0, 6, 0x6), (18, 2, 0x0)], fun w => .cos (guardOf w) (bf w 12 6) (bf w 6 6)⟩,
  ⟨[(20, 7, 0x39)], fun w => .hadd2 (guardOf w) (bf w 18 2) (bf w 12 6) (bf w 6 6) (bf w 0 6)⟩,
  ⟨[(20, 7, 0x3a)], fun w => .hmul2 (guardOf w) (bf w 18 2) (bf w 12 6) (bf w 6 6) (bf w 0 6)⟩,
  ⟨[(20, 7, 0x3b)], fun w => .hfma2 (guardOf w) (bf w 18 2) (bf w 12 6) (bf w 6 6) (bf w 0 6)⟩,
  ⟨[(20, 7, 0x3c)], fun w => .hmm2 (guardOf w) (bf w 18 2) (bf w 12 6) (bf w 6 6) (bf w 0 6)⟩,
  ⟨[(20, 7, 0x3d)], fun w => .cvtf (guardOf w) (bf w 18 2) (bf w 12 6) (bf w 6 6) (bf w 3 3) (bf w 2 1) (bf w 1 1) (bf w 0 1)⟩,
  ⟨[(20, 7, 0x3e)], fun w => .cvtp (guardOf w) (bf w 18 2) (bf w 12 6) (bf w 6 6) (bf w 3 3) (bf w 2 1) (bf w 1 1) (bf w 0 1)⟩,
  ⟨[(20, 7, 0x3f), (0, 2, 0x0)], fun w => .cvti (guardOf w) (bf w 18 2) (bf w 12 6) (bf w 6 6) (bf w 3 3) (bf w 2 1)⟩,
  ⟨[(20, 7, 0x40), (0, 2, 0x0)], fun w => .mxq (guardOf w) (bf w 18 2) (bf w 12 6) (bf w 6 6) (bf w 3 3) (bf w 2 1)⟩,
  ⟨[(20, 7, 0x41), (0, 3, 0x0), (18, 2, 0x0)], fun w => .mxd (guardOf w) (bf w 12 6) (bf w 6 6) (bf w 3 3)⟩,
  ⟨[(20, 7, 0x50), (12, 2, 0x0)], fun w => .mld (guardOf w) (bf w 19 1) (bf w 18 1) (bf w 15 3) (bf w 14 1) (bf w 6 6) (bf w 0 6)⟩,
  ⟨[(20, 7, 0x51), (0, 4, 0x0)], fun w => .mma (guardOf w) (bf w 19 1) (bf w 18 1) (bf w 12 6) (bf w 6 6) (bf w 4 2)⟩,
  ⟨[(20, 7, 0x52), (19, 1, 0x0)], fun w => .mmas (guardOf w) (bf w 18 1) (bf w 12 6) (bf w 6 6) (bf w 0 6)⟩,
  ⟨[(20, 7, 0x53), (1, 19, 0x0)], fun w => .mclr (guardOf w) (bf w 0 1)⟩,
  ⟨[(20, 7, 0x54), (1, 11, 0x0)], fun w => .mrd (guardOf w) (bf w 18 2) (bf w 12 6) (bf w 0 1)⟩,
  ⟨[(20, 7, 0x5c)], fun w => .ld (guardOf w) (bf w 17 3) (bf w 11 6) (bf w 5 6) (bf w 0 5)⟩,
  ⟨[(20, 7, 0x5d)], fun w => .st (guardOf w) (bf w 17 3) (bf w 11 6) (bf w 5 6) (bf w 0 5)⟩,
  ⟨[(20, 7, 0x5e)], fun w => .lda (guardOf w) (bf w 17 3) (bf w 11 6) (bf w 5 6) (bf w 0 5)⟩,
  ⟨[(20, 7, 0x5f)], fun w => .stl (guardOf w) (bf w 17 3) (bf w 11 6) (bf w 5 6) (bf w 0 5)⟩,
  ⟨[(20, 7, 0x60)], fun w => .ldf (guardOf w) (bf w 17 3) (bf w 11 6) (bf w 5 6) (bf w 0 5)⟩,
  ⟨[(20, 7, 0x61)], fun w => .lde (guardOf w) (bf w 17 3) (bf w 11 6) (bf w 5 6) (bf w 0 5)⟩,
  ⟨[(20, 7, 0x62)], fun w => .stf (guardOf w) (bf w 17 3) (bf w 11 6) (bf w 5 6) (bf w 0 5)⟩]

/-- The words of the SIMT opcode map (R54 to R56 and the class chapters), by the fixed fields of each, part 5. -/
def simtRows5 : List Row := [
  ⟨[(20, 7, 0x63)], fun w => .sto (guardOf w) (bf w 17 3) (bf w 11 6) (bf w 5 6) (bf w 0 5)⟩,
  ⟨[(20, 7, 0x64), (3, 3, 0x0), (12, 8, 0x0)], fun w => .sete (guardOf w) (bf w 6 6) (bf w 0 3)⟩,
  ⟨[(20, 7, 0x64), (3, 3, 0x0), (12, 8, 0x40)], fun w => .setf (guardOf w) (bf w 6 6) (bf w 0 3)⟩,
  ⟨[(20, 7, 0x64), (3, 3, 0x0), (18, 2, 0x2)], fun w => .tagrd (guardOf w) (bf w 12 6) (bf w 6 6) (bf w 0 3)⟩,
  ⟨[(20, 7, 0x65)], fun w => .tild (guardOf w) (bf w 18 2) (bf w 12 6) (bf w 6 6) (bf w 0 6)⟩,
  ⟨[(20, 7, 0x66)], fun w => .tist (guardOf w) (bf w 18 2) (bf w 12 6) (bf w 6 6) (bf w 0 6)⟩,
  ⟨[(20, 7, 0x67), (17, 3, 0x6)], fun w => .pref (guardOf w) (bf w 11 6) (bf w 5 6) (bf w 0 5)⟩,
  ⟨[(20, 7, 0x68), (0, 20, 0x0)], fun w => .cinvInv (guardOf w)⟩,
  ⟨[(20, 7, 0x68), (0, 20, 0x40000)], fun w => .cinvWb (guardOf w)⟩,
  ⟨[(20, 7, 0x68), (0, 20, 0x80000)], fun w => .cinvIc (guardOf w)⟩,
  ⟨[(20, 7, 0x6c), (5, 1, 0x0), (18, 2, 0x0)], fun w => .atom (guardOf w) (bf w 12 6) (bf w 6 6) (bf w 4 1) (bf w 0 4)⟩,
  ⟨[(20, 7, 0x6d), (19, 1, 0x0)], fun w => .cas (guardOf w) (bf w 18 1) (bf w 12 6) (bf w 6 6) (bf w 0 6)⟩,
  ⟨[(20, 7, 0x6e), (5, 1, 0x0), (18, 2, 0x0)], fun w => .red (guardOf w) (bf w 12 6) (bf w 6 6) (bf w 4 1) (bf w 0 4)⟩,
  ⟨[(20, 7, 0x6f), (3, 15, 0x0)], fun w => .fence (guardOf w) (bf w 18 2) (bf w 0 3)⟩,
  ⟨[(20, 7, 0x70)], fun w => .barv (guardOf w) (bf w 18 2) (bf w 11 7) (bf w 10 1) (bf w 0 10)⟩,
  ⟨[(20, 7, 0x71), (18, 2, 0x0)], fun w => .barw (guardOf w) (bf w 11 7) (bf w 10 1) (bf w 0 10)⟩,
  ⟨[(20, 7, 0x72), (18, 2, 0x0)], fun w => .bariInit (guardOf w) (bf w 11 7) (bf w 10 1) (bf w 0 10)⟩,
  ⟨[(20, 7, 0x72), (0, 11, 0x0), (18, 2, 0x1)], fun w => .bariInval (guardOf w) (bf w 11 7)⟩,
  ⟨[(20, 7, 0x73)], fun w => .bart (guardOf w) (bf w 18 2) (bf w 11 7) (bf w 10 1) (bf w 0 10)⟩,
  ⟨[(20, 7, 0x74), (18, 2, 0x0)], fun w => .cpy (guardOf w) (bf w 15 3) (bf w 12 3) (bf w 6 6) (bf w 0 6)⟩,
  ⟨[(20, 7, 0x75), (19, 1, 0x0)], fun w => .tcpy (guardOf w) (bf w 18 1) (bf w 15 3) (bf w 12 3) (bf w 6 6) (bf w 0 6)⟩,
  ⟨[(20, 7, 0x76), (19, 1, 0x0)], fun w => .gcpy (guardOf w) (bf w 18 1) (bf w 15 3) (bf w 12 3) (bf w 6 6) (bf w 0 6)⟩,
  ⟨[(20, 7, 0x77), (0, 6, 0x0), (18, 2, 0x0)], fun w => .chain (guardOf w) (bf w 15 3) (bf w 12 3) (bf w 6 6)⟩,
  ⟨[(20, 7, 0x78), (9, 5, 0x0)], fun w => .tkwait (guardOf w) (bf w 14 6) (bf w 8 1) (bf w 0 8)⟩]

/-- The words of the SIMT opcode map (R54 to R56 and the class chapters), by the fixed fields of each, part 6. -/
def simtRows6 : List Row := [
  ⟨[(20, 7, 0x7a)], fun w => .rcpy (guardOf w) (bf w 18 2) (bf w 15 3) (bf w 12 3) (bf w 6 6) (bf w 0 6)⟩,
  ⟨[(20, 7, 0x7b), (3, 3, 0x0), (18, 2, 0x0)], fun w => .coll (guardOf w) (bf w 15 3) (bf w 12 3) (bf w 6 6) (bf w 0 3)⟩,
  ⟨[(20, 7, 0x7c), (1, 5, 0x0), (18, 2, 0x0)], fun w => .sigrFill (guardOf w) (bf w 12 6) (bf w 6 6) (bf w 0 1)⟩,
  ⟨[(20, 7, 0x7c), (12, 8, 0x40)], fun w => .sigrArr (guardOf w) (bf w 6 6) (bf w 0 6)⟩,
  ⟨[(20, 7, 0x7c), (12, 8, 0x80)], fun w => .sigrArrel (guardOf w) (bf w 6 6) (bf w 0 6)⟩,
  ⟨[(20, 7, 0x7d), (18, 2, 0x0)], fun w => .lnchLaunch (guardOf w) (bf w 12 6) (bf w 6 6) (bf w 0 6)⟩,
  ⟨[(20, 7, 0x7d), (0, 6, 0x0), (18, 2, 0x1)], fun w => .lnchGang (guardOf w) (bf w 12 6) (bf w 6 6)⟩,
  ⟨[(20, 7, 0x7d), (13, 7, 0x40)], fun w => .lnchBwrec (guardOf w) (bf w 12 1) (bf w 6 6) (bf w 0 6)⟩,
  ⟨[(20, 7, 0x7e), (15, 5, 0x0)], fun w => .glog (guardOf w) (bf w 12 3) (bf w 6 6) (bf w 0 6)⟩,
  ⟨[(20, 7, 0x7e), (15, 5, 0x8)], fun w => .wfold (guardOf w) (bf w 12 3) (bf w 6 6) (bf w 0 6)⟩,
  ⟨[(20, 7, 0x7e), (0, 6, 0x0), (12, 8, 0x80)], fun w => .lscale (guardOf w) (bf w 6 6)⟩,
  ⟨[(20, 7, 0x7f), (0, 6, 0x0), (18, 2, 0x0)], fun w => .csrr (guardOf w) (bf w 12 6) (bf w 6 6)⟩,
  ⟨[(20, 7, 0x7f), (0, 6, 0x1), (18, 2, 0x0)], fun w => .csrw (guardOf w) (bf w 12 6) (bf w 6 6)⟩,
  ⟨[(20, 7, 0x7f), (0, 6, 0x2), (18, 2, 0x0)], fun w => .trap (guardOf w) (bf w 6 12)⟩,
  ⟨[(20, 7, 0x7f), (0, 6, 0x3), (18, 2, 0x0)], fun w => .bkpt (guardOf w) (bf w 6 12)⟩,
  ⟨[(20, 7, 0x7f), (0, 20, 0x4)], fun w => .rte (guardOf w)⟩,
  ⟨[(20, 7, 0x7f), (0, 20, 0x5)], fun w => .wdog (guardOf w)⟩,
  ⟨[(20, 7, 0x7f), (0, 6, 0x6), (12, 8, 0x0)], fun w => .dbgmbSend (guardOf w) (bf w 6 6)⟩,
  ⟨[(20, 7, 0x7f), (0, 12, 0x6), (18, 2, 0x1)], fun w => .dbgmbRecv (guardOf w) (bf w 12 6)⟩,
  ⟨[(20, 7, 0x7f), (0, 6, 0x6), (18, 2, 0x2)], fun w => .dbgmbXchg (guardOf w) (bf w 12 6) (bf w 6 6)⟩]

/-- The words of the SIMT opcode map (R54 to R56 and the class chapters), by the fixed fields of each. -/
def simtRows : List Row := simtRows1 ++ simtRows2 ++ simtRows3 ++ simtRows4 ++ simtRows5 ++ simtRows6

/-- The words of the circuit processor (R349), by the fixed fields of each, part 1. -/
def circuitRows1 : List Row := [
  ⟨[(27, 5, 0x0), (8, 19, 0x0)], fun w => .halt (bf w 0 8)⟩,
  ⟨[(27, 5, 0x1), (16, 4, 0x0)], fun w => .circuitMovi (bf w 23 4) (bf w 21 2) (bf w 20 1) (bf w 0 16)⟩,
  ⟨[(27, 5, 0x2)], fun w => .circuitAdd (bf w 23 4) (bf w 19 4) (bf w 15 4) (bf w 0 15)⟩,
  ⟨[(27, 5, 0x3), (0, 15, 0x0)], fun w => .circuitSub (bf w 23 4) (bf w 19 4) (bf w 15 4)⟩,
  ⟨[(27, 5, 0x4), (0, 15, 0x0)], fun w => .circuitAnd (bf w 23 4) (bf w 19 4) (bf w 15 4)⟩,
  ⟨[(27, 5, 0x5), (23, 4, 0x0)], fun w => .beq (bf w 19 4) (bf w 15 4) (bf w 0 15)⟩,
  ⟨[(27, 5, 0x6), (23, 4, 0x0)], fun w => .bne (bf w 19 4) (bf w 15 4) (bf w 0 15)⟩,
  ⟨[(27, 5, 0x7), (23, 4, 0x0)], fun w => .blt (bf w 19 4) (bf w 15 4) (bf w 0 15)⟩,
  ⟨[(27, 5, 0x8), (15, 12, 0x0)], fun w => .jmp (bf w 0 15)⟩,
  ⟨[(27, 5, 0x9), (15, 4, 0x0)], fun w => .ldc (bf w 23 4) (bf w 19 4) (bf w 0 15)⟩,
  ⟨[(27, 5, 0xa), (23, 4, 0x0)], fun w => .stc (bf w 19 4) (bf w 15 4) (bf w 0 15)⟩,
  ⟨[(27, 5, 0xb), (0, 19, 0x0), (23, 4, 0x0)], fun w => .creq (bf w 19 4)⟩,
  ⟨[(27, 5, 0xc), (12, 7, 0x0)], fun w => .cwait (bf w 23 4) (bf w 19 4) (bf w 0 12)⟩,
  ⟨[(27, 5, 0xd), (0, 15, 0x0), (23, 4, 0x0)], fun w => .cbind (bf w 19 4) (bf w 15 4)⟩,
  ⟨[(27, 5, 0xe), (0, 19, 0x0), (23, 4, 0x0)], fun w => .crel (bf w 19 4)⟩,
  ⟨[(27, 5, 0xf), (0, 19, 0x0), (23, 4, 0x0)], fun w => .portOff (bf w 19 4)⟩,
  ⟨[(27, 5, 0xf), (0, 19, 0x1), (23, 4, 0x0)], fun w => .portOn (bf w 19 4)⟩,
  ⟨[(27, 5, 0xf), (0, 19, 0x2), (23, 4, 0x0)], fun w => .portClr (bf w 19 4)⟩,
  ⟨[(27, 5, 0x10), (0, 19, 0x0)], fun w => .pstat (bf w 23 4) (bf w 19 4)⟩,
  ⟨[(27, 5, 0x11), (0, 19, 0x0), (23, 4, 0x0)], fun w => .slot (bf w 19 4)⟩,
  ⟨[(27, 5, 0x12), (0, 12, 0x0), (23, 4, 0x0)], fun w => .srun (bf w 19 4) (bf w 15 4) (bf w 12 3)⟩,
  ⟨[(27, 5, 0x13), (1, 26, 0x0)], fun w => .sstop (bf w 0 1)⟩,
  ⟨[(27, 5, 0x14), (0, 15, 0x0), (23, 4, 0x0)], fun w => .csigFill (bf w 19 4) (bf w 15 4)⟩,
  ⟨[(27, 5, 0x14), (0, 15, 0x1), (23, 4, 0x0)], fun w => .csigArr (bf w 19 4) (bf w 15 4)⟩]

/-- The words of the circuit processor (R349), by the fixed fields of each, part 2. -/
def circuitRows2 : List Row := [
  ⟨[(27, 5, 0x14), (0, 15, 0x2), (23, 4, 0x0)], fun w => .csigMsg (bf w 19 4) (bf w 15 4)⟩,
  ⟨[(27, 5, 0x15)], fun w => .wev (bf w 23 4) (bf w 19 4) (bf w 15 4) (bf w 12 3) (bf w 0 12)⟩]

/-- The words of the circuit processor (R349), by the fixed fields of each. -/
def circuitRows : List Row := circuitRows1 ++ circuitRows2

/-- The SIMT decoder (R54 to R58): a word that no row fits is reserved. -/
def decodeSimt (w : Word) : Except DecodeError Instr := decodeRows simtRows w

/-- The circuit processor's decoder (R349): a word that no row fits is reserved. -/
def decodeCircuit (w : Word) : Except DecodeError Instr := decodeRows circuitRows w

/-- A little-endian number from bytes (R2). -/
def leNat : List Byte → Nat
  | [] => 0
  | b :: bs => b.toNat + 256 * leNat bs

/-- The `n` little-endian bytes of a number (R2). -/
def leBytes : Nat → Nat → List Byte
  | 0, _ => []
  | n + 1, v => BitVec.ofNat 8 v :: leBytes n (v / 256)

/-- The SIMT instruction at the head of a byte list, with the rest of the list. -/
def decodeSimtBytes (bs : List Byte) : Except DecodeError (Instr × List Byte) :=
  if bs.length < 4 then .error .truncated
  else (decodeSimt (BitVec.ofNat 32 (leNat (bs.take 4)))).map (fun i => (i, bs.drop 4))

/-- The circuit instruction at the head of a byte list, with the rest of the list. -/
def decodeCircuitBytes (bs : List Byte) : Except DecodeError (Instr × List Byte) :=
  if bs.length < 4 then .error .truncated
  else (decodeCircuit (BitVec.ofNat 32 (leNat (bs.take 4)))).map (fun i => (i, bs.drop 4))

/-- A word from the number its fields add up to. -/
def word32 (n : Nat) : Word := BitVec.ofNat 32 n

/-- The common header's contribution to a word (R29). -/
def guardBits (g : Guard) : Nat := g.s.toNat * 0x80000000 + g.n.toNat * 0x40000000 + g.p.toNat * 0x8000000

/-- The word of an instruction, from the same encoding tables (R32, R349); events have no word. -/
def encode : Instr → Option Word

  | .nop gd => some (word32 (0x0 + guardBits gd))
  | .pfxExt e => some (word32 (0x38100000 + e.toNat))
  | .pfxOrd o c l => some (word32 (0x38140000 + o.toNat * 0x8000 + c.toNat * 0x1000 + l.toNat * 0x200))
  | .pfxTok m h => some (word32 (0x38180000 + m.toNat * 0x400 + h.toNat * 0x100))
  | .bra gd y o => some (word32 (0x200000 + guardBits gd + y.toNat * 0x80000 + o.toNat))
  | .brx gd y a => some (word32 (0x300000 + guardBits gd + y.toNat * 0x80000 + a.toNat * 0x40))
  | .call gd o => some (word32 (0x400000 + guardBits gd + o.toNat))
  | .callx gd a => some (word32 (0x500000 + guardBits gd + a.toNat * 0x40))
  | .ret gd => some (word32 (0x600000 + guardBits gd))
  | .loop gd d i => some (word32 (0x700000 + guardBits gd + d.toNat * 0x4000 + i.toNat))
  | .loopi gd c l => some (word32 (0x800000 + guardBits gd + c.toNat * 0x400 + l.toNat))
  | .rcv gd t => some (word32 (0x900000 + guardBits gd + t.toNat))
  | .yield gd => some (word32 (0xa00000 + guardBits gd))
  | .exit gd => some (word32 (0xb00000 + guardBits gd))
  | .idem gd => some (word32 (0xc00000 + guardBits gd))
  | .add gd m d a b => some (word32 (0x1000000 + guardBits gd + m.toNat * 0x40000 + d.toNat * 0x1000 + a.toNat * 0x40 + b.toNat))
  | .sub gd m d a b => some (word32 (0x1100000 + guardBits gd + m.toNat * 0x40000 + d.toNat * 0x1000 + a.toNat * 0x40 + b.toNat))
  | .addi gd d a i => some (word32 (0x1200000 + guardBits gd + d.toNat * 0x4000 + a.toNat * 0x100 + i.toNat))
  | .mul gd m d a b => some (word32 (0x1300000 + guardBits gd + m.toNat * 0x40000 + d.toNat * 0x1000 + a.toNat * 0x40 + b.toNat))
  | .mad gd m d a b => some (word32 (0x1400000 + guardBits gd + m.toNat * 0x40000 + d.toNat * 0x1000 + a.toNat * 0x40 + b.toNat))
  | .add64 gd m d a b => some (word32 (0x1500000 + guardBits gd + m.toNat * 0x40000 + d.toNat * 0x1000 + a.toNat * 0x40 + b.toNat))
  | .lea gd m d a b => some (word32 (0x1600000 + guardBits gd + m.toNat * 0x40000 + d.toNat * 0x1000 + a.toNat * 0x40 + b.toNat))
  | .and gd d a b => some (word32 (0x1700000 + guardBits gd + d.toNat * 0x1000 + a.toNat * 0x40 + b.toNat))
  | .or gd d a b => some (word32 (0x1800000 + guardBits gd + d.toNat * 0x1000 + a.toNat * 0x40 + b.toNat))
  | .xor gd d a b => some (word32 (0x1900000 + guardBits gd + d.toNat * 0x1000 + a.toNat * 0x40 + b.toNat))
  | .andn gd d a b => some (word32 (0x1a00000 + guardBits gd + d.toNat * 0x1000 + a.toNat * 0x40 + b.toNat))
  | .shl gd d a b => some (word32 (0x1b00000 + guardBits gd + d.toNat * 0x1000 + a.toNat * 0x40 + b.toNat))
  | .shr gd d a b => some (word32 (0x1c00000 + guardBits gd + d.toNat * 0x1000 + a.toNat * 0x40 + b.toNat))
  | .sar gd d a b => some (word32 (0x1d00000 + guardBits gd + d.toNat * 0x1000 + a.toNat * 0x40 + b.toNat))
  | .rot gd d a b => some (word32 (0x1e00000 + guardBits gd + d.toNat * 0x1000 + a.toNat * 0x40 + b.toNat))
  | .shlImm gd d a c => some (word32 (0x1f00000 + guardBits gd + d.toNat * 0x1000 + a.toNat * 0x40 + c.toNat))
  | .shrImm gd d a c => some (word32 (0x1f40000 + guardBits gd + d.toNat * 0x1000 + a.toNat * 0x40 + c.toNat))
  | .sarImm gd d a c => some (word32 (0x1f80000 + guardBits gd + d.toNat * 0x1000 + a.toNat * 0x40 + c.toNat))
  | .rotImm gd d a c => some (word32 (0x1fc0000 + guardBits gd + d.toNat * 0x1000 + a.toNat * 0x40 + c.toNat))
  | .min gd m d a b => some (word32 (0x2000000 + guardBits gd + m.toNat * 0x40000 + d.toNat * 0x1000 + a.toNat * 0x40 + b.toNat))
  | .max gd m d a b => some (word32 (0x2100000 + guardBits gd + m.toNat * 0x40000 + d.toNat * 0x1000 + a.toNat * 0x40 + b.toNat))
  | .clz gd d a => some (word32 (0x2200000 + guardBits gd + d.toNat * 0x1000 + a.toNat * 0x40))
  | .ctz gd d a => some (word32 (0x2200001 + guardBits gd + d.toNat * 0x1000 + a.toNat * 0x40))
  | .popc gd d a => some (word32 (0x2200002 + guardBits gd + d.toNat * 0x1000 + a.toNat * 0x40))
  | .brev gd d a => some (word32 (0x2200003 + guardBits gd + d.toNat * 0x1000 + a.toNat * 0x40))
  | .abs gd d a => some (word32 (0x2200004 + guardBits gd + d.toNat * 0x1000 + a.toNat * 0x40))
  | .neg gd d a => some (word32 (0x2200005 + guardBits gd + d.toNat * 0x1000 + a.toNat * 0x40))
  | .not gd d a => some (word32 (0x2200006 + guardBits gd + d.toNat * 0x1000 + a.toNat * 0x40))
  | .sext8 gd d a => some (word32 (0x2200007 + guardBits gd + d.toNat * 0x1000 + a.toNat * 0x40))
  | .sext16 gd d a => some (word32 (0x2200008 + guardBits gd + d.toNat * 0x1000 + a.toNat * 0x40))
  | .bfe gd m d a b => some (word32 (0x2300000 + guardBits gd + m.toNat * 0x40000 + d.toNat * 0x1000 + a.toNat * 0x40 + b.toNat))
  | .bfi gd d a b => some (word32 (0x2400000 + guardBits gd + d.toNat * 0x1000 + a.toNat * 0x40 + b.toNat))
  | .setp gd m c q a b => some (word32 (0x2500000 + guardBits gd + m.toNat * 0x40000 + c.toNat * 0x8000 + q.toNat * 0x1000 + a.toNat * 0x40 + b.toNat))
  | .setpi gd c q a i => some (word32 (0x2600000 + guardBits gd + c.toNat * 0x20000 + q.toNat * 0x4000 + a.toNat * 0x100 + i.toNat))
  | .sel gd q d a b => some (word32 (0x2700000 + guardBits gd + q.toNat * 0x40000 + d.toNat * 0x1000 + a.toNat * 0x40 + b.toNat))
  | .mov gd d a => some (word32 (0x2800000 + guardBits gd + d.toNat * 0x1000 + a.toNat * 0x40))
  | .p2v gd d => some (word32 (0x2800001 + guardBits gd + d.toNat * 0x1000))
  | .v2p gd a => some (word32 (0x2800002 + guardBits gd + a.toNat * 0x40))
  | .movi gd d i => some (word32 (0x2900000 + guardBits gd + d.toNat * 0x4000 + i.toNat))
  | .prmt gd d a b => some (word32 (0x2a00000 + guardBits gd + d.toNat * 0x1000 + a.toNat * 0x40 + b.toNat))
  | .nlut gd m d a b => some (word32 (0x2b00000 + guardBits gd + m.toNat * 0x40000 + d.toNat * 0x1000 + a.toNat * 0x40 + b.toNat))
  | .shfl gd m d a b => some (word32 (0x2c00000 + guardBits gd + m.toNat * 0x40000 + d.toNat * 0x1000 + a.toNat * 0x40 + b.toNat))
  | .vote gd m d a => some (word32 (0x2d00000 + guardBits gd + m.toNat * 0x40000 + d.toNat * 0x1000 + a.toNat * 0x40))
  | .fadd gd m d a b => some (word32 (0x3000000 + guardBits gd + m.toNat * 0x40000 + d.toNat * 0x1000 + a.toNat * 0x40 + b.toNat))
  | .fsub gd m d a b => some (word32 (0x3100000 + guardBits gd + m.toNat * 0x40000 + d.toNat * 0x1000 + a.toNat * 0x40 + b.toNat))
  | .fmul gd m d a b => some (word32 (0x3200000 + guardBits gd + m.toNat * 0x40000 + d.toNat * 0x1000 + a.toNat * 0x40 + b.toNat))
  | .fma gd m d a b => some (word32 (0x3300000 + guardBits gd + m.toNat * 0x40000 + d.toNat * 0x1000 + a.toNat * 0x40 + b.toNat))
  | .fmin gd d a b => some (word32 (0x3400000 + guardBits gd + d.toNat * 0x1000 + a.toNat * 0x40 + b.toNat))
  | .fmax gd d a b => some (word32 (0x3500000 + guardBits gd + d.toNat * 0x1000 + a.toNat * 0x40 + b.toNat))
  | .fsetp gd m c q a b => some (word32 (0x3600000 + guardBits gd + m.toNat * 0x40000 + c.toNat * 0x8000 + q.toNat * 0x1000 + a.toNat * 0x40 + b.toNat))
  | .fabs gd d a => some (word32 (0x3700000 + guardBits gd + d.toNat * 0x1000 + a.toNat * 0x40))
  | .fneg gd d a => some (word32 (0x3700001 + guardBits gd + d.toNat * 0x1000 + a.toNat * 0x40))
  | .frnd gd m d a => some (word32 (0x3700002 + guardBits gd + m.toNat * 0x40000 + d.toNat * 0x1000 + a.toNat * 0x40))
  | .rcp gd d a => some (word32 (0x3800000 + guardBits gd + d.toNat * 0x1000 + a.toNat * 0x40))
  | .rsq gd d a => some (word32 (0x3800001 + guardBits gd + d.toNat * 0x1000 + a.toNat * 0x40))
  | .sqrt gd d a => some (word32 (0x3800002 + guardBits gd + d.toNat * 0x1000 + a.toNat * 0x40))
  | .ex2 gd d a => some (word32 (0x3800003 + guardBits gd + d.toNat * 0x1000 + a.toNat * 0x40))
  | .lg2 gd d a => some (word32 (0x3800004 + guardBits gd + d.toNat * 0x1000 + a.toNat * 0x40))
  | .sin gd d a => some (word32 (0x3800005 + guardBits gd + d.toNat * 0x1000 + a.toNat * 0x40))
  | .cos gd d a => some (word32 (0x3800006 + guardBits gd + d.toNat * 0x1000 + a.toNat * 0x40))
  | .hadd2 gd m d a b => some (word32 (0x3900000 + guardBits gd + m.toNat * 0x40000 + d.toNat * 0x1000 + a.toNat * 0x40 + b.toNat))
  | .hmul2 gd m d a b => some (word32 (0x3a00000 + guardBits gd + m.toNat * 0x40000 + d.toNat * 0x1000 + a.toNat * 0x40 + b.toNat))
  | .hfma2 gd m d a b => some (word32 (0x3b00000 + guardBits gd + m.toNat * 0x40000 + d.toNat * 0x1000 + a.toNat * 0x40 + b.toNat))
  | .hmm2 gd m d a b => some (word32 (0x3c00000 + guardBits gd + m.toNat * 0x40000 + d.toNat * 0x1000 + a.toNat * 0x40 + b.toNat))
  | .cvtf gd m d a f r t w => some (word32 (0x3d00000 + guardBits gd + m.toNat * 0x40000 + d.toNat * 0x1000 + a.toNat * 0x40 + f.toNat * 0x8 + r.toNat * 0x4 + t.toNat * 0x2 + w.toNat))
  | .cvtp gd m d a f r t h => some (word32 (0x3e00000 + guardBits gd + m.toNat * 0x40000 + d.toNat * 0x1000 + a.toNat * 0x40 + f.toNat * 0x8 + r.toNat * 0x4 + t.toNat * 0x2 + h.toNat))
  | .cvti gd m d a c w => some (word32 (0x3f00000 + guardBits gd + m.toNat * 0x40000 + d.toNat * 0x1000 + a.toNat * 0x40 + c.toNat * 0x8 + w.toNat * 0x4))
  | .mxq gd m d a f r => some (word32 (0x4000000 + guardBits gd + m.toNat * 0x40000 + d.toNat * 0x1000 + a.toNat * 0x40 + f.toNat * 0x8 + r.toNat * 0x4))
  | .mxd gd d a f => some (word32 (0x4100000 + guardBits gd + d.toNat * 0x1000 + a.toNat * 0x40 + f.toNat * 0x8))
  | .mld gd l q t x a b => some (word32 (0x5000000 + guardBits gd + l.toNat * 0x80000 + q.toNat * 0x40000 + t.toNat * 0x8000 + x.toNat * 0x4000 + a.toNat * 0x40 + b.toNat))
  | .mma gd e q d a g => some (word32 (0x5100000 + guardBits gd + e.toNat * 0x80000 + q.toNat * 0x40000 + d.toNat * 0x1000 + a.toNat * 0x40 + g.toNat * 0x10))
  | .mmas gd q d a b => some (word32 (0x5200000 + guardBits gd + q.toNat * 0x40000 + d.toNat * 0x1000 + a.toNat * 0x40 + b.toNat))
  | .mclr gd q => some (word32 (0x5300000 + guardBits gd + q.toNat))
  | .mrd gd m d q => some (word32 (0x5400000 + guardBits gd + m.toNat * 0x40000 + d.toNat * 0x1000 + q.toNat))
  | .ld gd z d a i => some (word32 (0x5c00000 + guardBits gd + z.toNat * 0x20000 + d.toNat * 0x800 + a.toNat * 0x20 + i.toNat))
  | .st gd z d a i => some (word32 (0x5d00000 + guardBits gd + z.toNat * 0x20000 + d.toNat * 0x800 + a.toNat * 0x20 + i.toNat))
  | .lda gd z d a i => some (word32 (0x5e00000 + guardBits gd + z.toNat * 0x20000 + d.toNat * 0x800 + a.toNat * 0x20 + i.toNat))
  | .stl gd z d a i => some (word32 (0x5f00000 + guardBits gd + z.toNat * 0x20000 + d.toNat * 0x800 + a.toNat * 0x20 + i.toNat))
  | .ldf gd z d a i => some (word32 (0x6000000 + guardBits gd + z.toNat * 0x20000 + d.toNat * 0x800 + a.toNat * 0x20 + i.toNat))
  | .lde gd z d a i => some (word32 (0x6100000 + guardBits gd + z.toNat * 0x20000 + d.toNat * 0x800 + a.toNat * 0x20 + i.toNat))
  | .stf gd z d a i => some (word32 (0x6200000 + guardBits gd + z.toNat * 0x20000 + d.toNat * 0x800 + a.toNat * 0x20 + i.toNat))
  | .sto gd z d a i => some (word32 (0x6300000 + guardBits gd + z.toNat * 0x20000 + d.toNat * 0x800 + a.toNat * 0x20 + i.toNat))
  | .sete gd a z => some (word32 (0x6400000 + guardBits gd + a.toNat * 0x40 + z.toNat))
  | .setf gd a z => some (word32 (0x6440000 + guardBits gd + a.toNat * 0x40 + z.toNat))
  | .tagrd gd d a z => some (word32 (0x6480000 + guardBits gd + d.toNat * 0x1000 + a.toNat * 0x40 + z.toNat))
  | .tild gd m d a b => some (word32 (0x6500000 + guardBits gd + m.toNat * 0x40000 + d.toNat * 0x1000 + a.toNat * 0x40 + b.toNat))
  | .tist gd m d a b => some (word32 (0x6600000 + guardBits gd + m.toNat * 0x40000 + d.toNat * 0x1000 + a.toNat * 0x40 + b.toNat))
  | .pref gd l a i => some (word32 (0x67c0000 + guardBits gd + l.toNat * 0x800 + a.toNat * 0x20 + i.toNat))
  | .cinvInv gd => some (word32 (0x6800000 + guardBits gd))
  | .cinvWb gd => some (word32 (0x6840000 + guardBits gd))
  | .cinvIc gd => some (word32 (0x6880000 + guardBits gd))
  | .atom gd d a w o => some (word32 (0x6c00000 + guardBits gd + d.toNat * 0x1000 + a.toNat * 0x40 + w.toNat * 0x10 + o.toNat))
  | .cas gd w d a b => some (word32 (0x6d00000 + guardBits gd + w.toNat * 0x40000 + d.toNat * 0x1000 + a.toNat * 0x40 + b.toNat))
  | .red gd d a w o => some (word32 (0x6e00000 + guardBits gd + d.toNat * 0x1000 + a.toNat * 0x40 + w.toNat * 0x10 + o.toNat))
  | .fence gd m c => some (word32 (0x6f00000 + guardBits gd + m.toNat * 0x40000 + c.toNat))
  | .barv gd k b x v => some (word32 (0x7000000 + guardBits gd + k.toNat * 0x40000 + b.toNat * 0x800 + x.toNat * 0x400 + v.toNat))
  | .barw gd b x v => some (word32 (0x7100000 + guardBits gd + b.toNat * 0x800 + x.toNat * 0x400 + v.toNat))
  | .bariInit gd b x v => some (word32 (0x7200000 + guardBits gd + b.toNat * 0x800 + x.toNat * 0x400 + v.toNat))
  | .bariInval gd b => some (word32 (0x7240000 + guardBits gd + b.toNat * 0x800))
  | .bart gd k b x v => some (word32 (0x7300000 + guardBits gd + k.toNat * 0x40000 + b.toNat * 0x800 + x.toNat * 0x400 + v.toNat))
  | .cpy gd q t a b => some (word32 (0x7400000 + guardBits gd + q.toNat * 0x8000 + t.toNat * 0x1000 + a.toNat * 0x40 + b.toNat))
  | .tcpy gd m q t a b => some (word32 (0x7500000 + guardBits gd + m.toNat * 0x40000 + q.toNat * 0x8000 + t.toNat * 0x1000 + a.toNat * 0x40 + b.toNat))
  | .gcpy gd m q t a b => some (word32 (0x7600000 + guardBits gd + m.toNat * 0x40000 + q.toNat * 0x8000 + t.toNat * 0x1000 + a.toNat * 0x40 + b.toNat))
  | .chain gd q t a => some (word32 (0x7700000 + guardBits gd + q.toNat * 0x8000 + t.toNat * 0x1000 + a.toNat * 0x40))
  | .tkwait gd d t i => some (word32 (0x7800000 + guardBits gd + d.toNat * 0x4000 + t.toNat * 0x100 + i.toNat))
  | .rcpy gd m q t a b => some (word32 (0x7a00000 + guardBits gd + m.toNat * 0x40000 + q.toNat * 0x8000 + t.toNat * 0x1000 + a.toNat * 0x40 + b.toNat))
  | .coll gd q t a o => some (word32 (0x7b00000 + guardBits gd + q.toNat * 0x8000 + t.toNat * 0x1000 + a.toNat * 0x40 + o.toNat))
  | .sigrFill gd d a z => some (word32 (0x7c00000 + guardBits gd + d.toNat * 0x1000 + a.toNat * 0x40 + z.toNat))
  | .sigrArr gd a b => some (word32 (0x7c40000 + guardBits gd + a.toNat * 0x40 + b.toNat))
  | .sigrArrel gd a b => some (word32 (0x7c80000 + guardBits gd + a.toNat * 0x40 + b.toNat))
  | .lnchLaunch gd d a b => some (word32 (0x7d00000 + guardBits gd + d.toNat * 0x1000 + a.toNat * 0x40 + b.toNat))
  | .lnchGang gd d a => some (word32 (0x7d40000 + guardBits gd + d.toNat * 0x1000 + a.toNat * 0x40))
  | .lnchBwrec gd o a b => some (word32 (0x7d80000 + guardBits gd + o.toNat * 0x1000 + a.toNat * 0x40 + b.toNat))
  | .glog gd t a b => some (word32 (0x7e00000 + guardBits gd + t.toNat * 0x1000 + a.toNat * 0x40 + b.toNat))
  | .wfold gd t a b => some (word32 (0x7e40000 + guardBits gd + t.toNat * 0x1000 + a.toNat * 0x40 + b.toNat))
  | .lscale gd a => some (word32 (0x7e80000 + guardBits gd + a.toNat * 0x40))
  | .csrr gd d a => some (word32 (0x7f00000 + guardBits gd + d.toNat * 0x1000 + a.toNat * 0x40))
  | .csrw gd d a => some (word32 (0x7f00001 + guardBits gd + d.toNat * 0x1000 + a.toNat * 0x40))
  | .trap gd c => some (word32 (0x7f00002 + guardBits gd + c.toNat * 0x40))
  | .bkpt gd c => some (word32 (0x7f00003 + guardBits gd + c.toNat * 0x40))
  | .rte gd => some (word32 (0x7f00004 + guardBits gd))
  | .wdog gd => some (word32 (0x7f00005 + guardBits gd))
  | .dbgmbSend gd a => some (word32 (0x7f00006 + guardBits gd + a.toNat * 0x40))
  | .dbgmbRecv gd d => some (word32 (0x7f40006 + guardBits gd + d.toNat * 0x1000))
  | .dbgmbXchg gd d a => some (word32 (0x7f80006 + guardBits gd + d.toNat * 0x1000 + a.toNat * 0x40))
  | .halt c => some (word32 (0x0 + c.toNat))
  | .circuitMovi d h k i => some (word32 (0x8000000 + d.toNat * 0x800000 + h.toNat * 0x200000 + k.toNat * 0x100000 + i.toNat))
  | .circuitAdd d a b i => some (word32 (0x10000000 + d.toNat * 0x800000 + a.toNat * 0x80000 + b.toNat * 0x8000 + i.toNat))
  | .circuitSub d a b => some (word32 (0x18000000 + d.toNat * 0x800000 + a.toNat * 0x80000 + b.toNat * 0x8000))
  | .circuitAnd d a b => some (word32 (0x20000000 + d.toNat * 0x800000 + a.toNat * 0x80000 + b.toNat * 0x8000))
  | .beq a b o => some (word32 (0x28000000 + a.toNat * 0x80000 + b.toNat * 0x8000 + o.toNat))
  | .bne a b o => some (word32 (0x30000000 + a.toNat * 0x80000 + b.toNat * 0x8000 + o.toNat))
  | .blt a b o => some (word32 (0x38000000 + a.toNat * 0x80000 + b.toNat * 0x8000 + o.toNat))
  | .jmp o => some (word32 (0x40000000 + o.toNat))
  | .ldc d a i => some (word32 (0x48000000 + d.toNat * 0x800000 + a.toNat * 0x80000 + i.toNat))
  | .stc a b i => some (word32 (0x50000000 + a.toNat * 0x80000 + b.toNat * 0x8000 + i.toNat))
  | .creq a => some (word32 (0x58000000 + a.toNat * 0x80000))
  | .cwait d a t => some (word32 (0x60000000 + d.toNat * 0x800000 + a.toNat * 0x80000 + t.toNat))
  | .cbind a b => some (word32 (0x68000000 + a.toNat * 0x80000 + b.toNat * 0x8000))
  | .crel a => some (word32 (0x70000000 + a.toNat * 0x80000))
  | .portOff a => some (word32 (0x78000000 + a.toNat * 0x80000))
  | .portOn a => some (word32 (0x78000001 + a.toNat * 0x80000))
  | .portClr a => some (word32 (0x78000002 + a.toNat * 0x80000))
  | .pstat d a => some (word32 (0x80000000 + d.toNat * 0x800000 + a.toNat * 0x80000))
  | .slot a => some (word32 (0x88000000 + a.toNat * 0x80000))
  | .srun a b k => some (word32 (0x90000000 + a.toNat * 0x80000 + b.toNat * 0x8000 + k.toNat * 0x1000))
  | .sstop e => some (word32 (0x98000000 + e.toNat))
  | .csigFill a b => some (word32 (0xa0000000 + a.toNat * 0x80000 + b.toNat * 0x8000))
  | .csigArr a b => some (word32 (0xa0000001 + a.toNat * 0x80000 + b.toNat * 0x8000))
  | .csigMsg a b => some (word32 (0xa0000002 + a.toNat * 0x80000 + b.toNat * 0x8000))
  | .wev d a b k t => some (word32 (0xa8000000 + d.toNat * 0x800000 + a.toNat * 0x80000 + b.toNat * 0x8000 + k.toNat * 0x1000 + t.toNat))
  | _ => none

/-- Which opcode space a table word belongs to, for the host's question only: the two spaces overlap (R26), and the
machine itself never asks, since a core's fetch and the circuit processor's fetch each use their own decoder. A word whose
top five bits are an unguarded SIMT header, with or without the park marker, or are all zero, is read as a SIMT word when the SIMT map has it; any other
word is read as a circuit word when the circuit processor has it, and else as a SIMT word (assumption 21). -/
def tableSpaceIsSimt (w : Word) : Bool :=
  let top := fld w 27 5
  let simt := match decodeSimt w with | .ok _ => true | .error _ => false
  let circ := match decodeCircuit w with | .ok _ => true | .error _ => false
  if top == 7 || top == 0x17 || top == 0 then simt || !circ else !circ

/-- The instruction the machine's decoder reads from a word of the opcode table (every row has 32 bits): the word is laid
out as four little-endian bytes and given to the decoder of its opcode space. -/
def decodeTableWord (nbits w : Nat) : Option Instr :=
  if nbits > 32 then none else
  let bs := leBytes 4 w
  let r := if tableSpaceIsSimt (BitVec.ofNat 32 w) then decodeSimtBytes bs else decodeCircuitBytes bs
  match r with
  | .ok (i, _) => some i
  | .error _ => none

/-- The words of the circuit processor, which its own decoder reads (R26, R349). -/
def Instr.isCircuit : Instr → Bool
  | .halt .. | .circuitMovi .. | .circuitAdd .. | .circuitSub .. | .circuitAnd .. | .beq .. | .bne .. | .blt .. | .jmp .. | .ldc .. | .stc ..
  | .creq .. | .cwait .. | .cbind .. | .crel .. | .portOff .. | .portOn .. | .portClr .. | .pstat .. | .slot .. | .srun .. | .sstop ..
  | .csigFill .. | .csigArr .. | .csigMsg .. | .wev .. => true
  | _ => false

/-- The decoder that reads an instruction's word: the circuit processor's or the SIMT cores' (R26). -/
def Instr.readBack (i : Instr) (w : Word) : Except DecodeError Instr := if i.isCircuit then decodeCircuit w else decodeSimt w

end Sys2Proof
end

