-- ==== Sys2Proof/Machine/State.lean ====
section
/-! DEFINITION. The state of one T9: every core, warp and thread, the memories with their tags and swizzle ids, the caches,
the engines, the Lodge, the optical ports and the circuit processor, the host's registers and what the housekeeping cores
keep. Indexed state is held in sparse tables, whose unlisted entries are in the value given here as the type's `init`. -/

namespace Sys2Proof.Machine

/-! ## A thread (R71, R90, R99, R395) -/

/-- An entry of a thread's loop stack (R90), with the handler flag it was pushed with (R397). -/
structure LoopEntry where
  start : DWord
  stop : DWord
  count : Word
  depth : Nat
  h : Bool
  deriving DecidableEq, Repr

/-- The waits at a word that completes only when the wait ends (R73, R101, R418); a barrier wait keeps its effective scope (R264). -/
inductive Wait where
  | barrier (n scope : Nat)
  | tag
  | rcv
  | ret
  | dbg (d : Nat)
  deriving DecidableEq, Repr

/-- What a parked thread waits for (R73): the park marker, a page, or a word that is not complete, kept with the address after it,
the word, its park marker and its bundle's lanes. Waits on a pending register or on tokens are read off the state and need no mark. -/
inductive Park where
  | none
  | marker
  | page (va : DWord)
  | word (k : Wait) (next : DWord) (w : Word) (mark : Bool) (mask : Word)
  deriving DecidableEq, Repr

/-- A result that has come back: register values, or the trap cause of the reply (R461). -/
inductive Res where
  | val (ws : List Word)
  | bad (cause : Byte)
  deriving DecidableEq, Repr

/-- What an outstanding result does when it returns: write registers, complete a RET (R101), or complete an LDF or LDE (R217). -/
inductive OutKind where
  | regs
  | ret
  | tag
  deriving DecidableEq, Repr

/-- An outstanding variable-latency result (R79): the registers it will write, its value once known, and the frame
fields of its word should it fail (R461). -/
structure Outst where
  id : Nat
  kind : OutKind
  dst : List Nat
  res : Option Res
  word : Word
  sector : DWord
  so : Bool
  /-- The effective scope at which the access is an acquire, 0 if it is none: later memory words wait for it (R225). -/
  acq : Nat
  /-- The first core cycle in which it may return: its issue and the latency that R242 gives it. -/
  due : Nat
  deriving DecidableEq, Repr

/-- A store or other access without a result that is not yet acknowledged (R224, R253): whether it is SO, whether its
home has answered, and the cause and sector of its failure (R213). -/
structure Ack where
  id : Nat
  so : Bool
  ready : Bool
  fail : Option (Byte × DWord)
  deriving DecidableEq, Repr

/-- A trap that waits for its thread's next word boundary (R461, R114): its cause, the word and sector of its frame, and its lane mask. -/
structure Held where
  cause : Byte
  word : Word
  addr : DWord
  mask : Word
  deriving DecidableEq, Repr

/-- What an agent has had to ask of other devices for what it reads (R195): an identity for its requests, the bytes that have come, the address that
another device has refused with its cause, and the requests without a reply. -/
structure Asked where
  id : Nat := 0
  cache : Tab (Option Byte) := []
  denied : Option (DWord × Byte) := none
  away : Nat := 0
  deriving DecidableEq, Repr

/-- Nothing asked for. -/
def Asked.init : Asked := {}

/-- One thread of a warp. -/
structure Thread where
  live : Bool := false
  pc : DWord := 0
  depth : Nat := 0
  lstk : List LoopEntry := []
  preds : BitVec 7 := 0
  regs : Tab Word := []
  fpflags : BitVec 5 := 0
  fpmode : BitVec 2 := 0
  srseed : Word := 0
  trcause : Byte := 0
  trpc : DWord := 0
  trmask : Word := 0
  traddr : DWord := 0
  trword : Word := 0
  idempc : DWord := 0
  idemDepth : Nat := 0
  idemLstk : List LoopEntry := []
  h : Bool := false
  edepth : Nat := 0
  dm : Bool := false
  age : Nat := 0
  park : Park := .none
  /-- The cached return addresses (R99), most recent first, with the return-area slot of each. -/
  rcache : List (Nat × DWord) := []
  outs : List Outst := []
  acks : List Ack := []
  /-- Failed stores not yet reported (R213): cause and sector, oldest first. -/
  failed : List (Byte × DWord) := []
  /-- Traps that wait for the next word boundary, oldest first (R461, R114). -/
  heldTraps : List Held := []
  /-- The thread stalled in a watchdog firing (R89): the lanes of that firing. -/
  wdog : Option Word := none
  /-- The thread's part of an aborted gang must trap at its next park point (R327). -/
  gangAbort : Bool := false
  /-- A FENCE that is not yet complete: its kind and scope (R253); a CINV whose write-backs are not acknowledged has the kind 4 (R240). -/
  fencing : Option (Nat × Nat) := none
  /-- A withdrawal of the tagged word that the thread waits at is on its way to another device (R218). -/
  withdrawing : Bool := false
  /-- What an LNCH.GANG at which the thread stays has asked of other devices for its block and list (R382). -/
  asked : Asked := {}
  /-- First core cycle in which the thread may issue again (R112). -/
  readyAt : Nat := 0
  /-- First core cycle in which a fixed-latency result may be used (R80): vector registers by number, predicates at 64 on,
  %FPFLAGS, %FPMODE and %SRSEED at 72 to 74; at 100 + 2 (D / 8) + edge when an MMA's C registers are ready, and at 200 + the same when an
MMA that continues the accumulator may issue (R187). -/
  rdy : Tab Nat := []
  deriving DecidableEq, Repr

/-- A thread before its warp starts (R47). -/
def Thread.init : Thread := {}

/-! ## A warp (R50, R104, R270, R400) -/

/-- One of a warp's eight tokens (R270). -/
structure Token where
  out : Nat := 0
  err : Byte := 0
  deriving DecidableEq, Repr

/-- A token of a warp that has just started. -/
def Token.init : Token := {}

/-- An open RCV episode of a warp (R104): its key and its deadline in core cycles. The threads that have arrived are those parked at it. -/
structure Episode where
  pc : DWord
  depth : Nat
  deadline : Option Nat
  deriving DecidableEq, Repr

/-- One warp slot of a core. -/
structure Warp where
  used : Bool := false
  lid : Nat := 0
  part : Nat := 0
  g : Nat := 0
  widx : Nat := 0
  wgx : Word := 0
  wgy : Word := 0
  wgz : Word := 0
  nwg : Word := 0
  role : Nat := 0
  rcb : Nat := 0
  param : DWord := 0
  allot : Nat := 0
  stack : Nat := 0
  region : DWord := 0
  toks : Tab Token := []
  wdoglim : Word := 0x01000000
  sstep : Bool := false
  lscale : Word := 0
  dbgIn : Option DWord := none
  /-- The warp is held by HK3 (R400), with the first cause, and whether the decision is a kill in any case. -/
  held : Bool := false
  hkCause : Byte := 0
  hkKill : Bool := false
  restarts : Nat := 0
  /-- HK3 has decided on a restart, which waits (R401). -/
  hkRestart : Bool := false
  /-- Core cycles since the last HK3 event (R401). -/
  quiet : Nat := 0
  rcv : List Episode := []
  /-- Consecutive cycles with an eligible thread and no issue (R83). -/
  starved : Nat := 0
  /-- The cycle in which the warp qualified to leave the active set (R83). -/
  leaveAt : Option Nat := none
  /-- The cycle in which a YIELD let the warp leave at once (R83); the warp's next issue ends it. -/
  leaveNow : Option Nat := none
  deriving DecidableEq, Repr

/-- A free warp slot. -/
def Warp.init : Warp := {}

/-! ## A core (R168, R191, R196, R403, R413) -/

/-- A matrix tile slot (R168): elements by 16 k + n (unlisted ones are 0), scales by 4 n + block (unlisted ones are 0x7F). The row and
column sums that an MLD recomputes from the whole tile (R179) are therefore functions of it: Tile.rowSum and Tile.colSum (assumption 43). -/
structure Tile where
  owned : Bool := false
  lid : Nat := 0
  g : Nat := 0
  type : BitVec 3 := 0
  mx : Bool := false
  w : Tab (BitVec 16) := []
  sc : Tab Byte := []
  deriving DecidableEq, Repr

/-- An EMPTY slot. -/
def Tile.init : Tile := {}

/-- A 32-byte sector in a core's L1 (R196): its bytes, whether it was fetched whole, its dirty bytes, its order kind and eviction hint. -/
structure L1Sector where
  bytes : BitVec 256 := 0
  valid : Bool := false
  dirty : BitVec 32 := 0
  uo : Bool := false
  pol : BitVec 3 := 0
  /-- The threads whose stores made the dirty bytes, to which a failed write-back is reported (R213). -/
  who : List Nat := []
  deriving DecidableEq, Repr

/-- A sector the L1 does not hold. -/
def L1Sector.init : L1Sector := {}

/-- A cached translation (R207): partition, page-size index, number of the page of that size, and page-table entry. -/
structure TlbEntry where
  part : Nat
  size : Nat
  vpn : Nat
  pte : BitVec 128
  deriving DecidableEq, Repr

/-- A watchpoint (R413): address, mask with the R and W bits, and the fault domain that wrote it. -/
structure Watch where
  addr : DWord := 0
  mask : DWord := 0
  part : Nat := 0
  fdom : Nat := 0
  deriving DecidableEq, Repr

/-- A watchpoint after cold start. -/
def Watch.init : Watch := {}

/-- An entry of a core's DBGMB outbound queue (R418, R446). -/
structure DbgPost where
  slot : Nat
  lane : Nat
  pc : DWord
  word : DWord
  deriving DecidableEq, Repr

/-- A physical fault of a sub-array of the matrix unit (R189, R190): the runs for which it lasts, and what it adds to the exact sum of the
products it forms for a lane and output, in units of 2^-266. -/
structure ArrFault where
  runs : Nat := 0
  errs : List (Nat × Nat × Int) := []
  deriving DecidableEq, Repr

/-- A sub-array without a fault. -/
def ArrFault.init : ArrFault := {}

/-- One core. -/
structure Core where
  cycle : Nat := 0
  /-- The active set (R82): warp slot and first cycle in which its threads are eligible. -/
  active : List (Nat × Nat) := []
  /-- Pending warps, oldest first (R82). -/
  pending : List Nat := []
  /-- The pool that issued last (R75): launch, role and its lowest active slot. -/
  lastPool : Option (Nat × Nat × Nat) := none
  /-- The bundle count of checkable SAMPLE bundles (R85). -/
  samples : Nat := 0
  budget : Byte := 0
  stall : BitVec 24 := 0
  credits : Nat := 0
  mmaInWindow : Bool := false
  /-- The cycle in which the governor's next window starts (R191), and one more than the cycle of the last entry into the active set (R82). -/
  windowAt : Nat := 64
  entryAt : Nat := 0
  /-- MMA and MMAS words issued in this window, by RCB id (R364). -/
  mxUsed : Tab Nat := []
  govmode : Bool := false
  govmodeNext : Bool := false
  /-- The governor's A record, 16 registers a lane at 16 lane + j (R191). -/
  aRec : Tab Word := []
  whalt : DWord := 0
  watch : Tab Watch := []
  tiles : Tab Tile := []
  carve : Nat := 0
  l1 : Tab L1Sector := []
  /-- The instruction cache: words by partition × 2^56 + address (R111). -/
  icache : Tab (Option Word) := []
  /-- Causes with which other devices have answered fetches, by the same key; 0 is none. -/
  fetchBad : Tab Byte := []
  tlb : List TlbEntry := []
  dbgOut : List DbgPost := []
  retired : Bool := false
  /-- The lease table (R372): the launch each free row is leased to, 0 for none, and the registers that go with it. -/
  leases : Tab (Nat × Nat) := []
  /-- First cycle in which each unit accepts a bundle: 0 integer, 1 FP, 2 SFU, 3 load port, 4 array, 5 load-store, 6 barrier, 7 fetch,
8 and 9 the loading of each tile slot, 10 and 11 the use of each tile slot by the array (R186), 12 the copy port (R290). -/
  busy : Tab Nat := []
  /-- Physical faults of the datapaths (R86), as the mask XORed into what unit u's datapath d computes, at 32 u + d with u 0 integer,
  1 FP and SFU, 2 address; those of the physical sub-arrays of the matrix unit (R189), and the runs for which its two adders still
  disagree. -/
  dpFault : Tab Word := []
  arrFault : Tab ArrFault := []
  addFault : Nat := 0
  deriving DecidableEq, Repr

/-- A core after reset. -/
def Core.init : Core := {}

/-! ## Launches and workgroups (R254, R362 to R372, R405) -/

/-- A barrier (R255). -/
structure Barrier where
  init : Bool := false
  ph : Bool := false
  dlt : Int := 0
  tx : Int := 0
  pend : Nat := 0
  exp : Nat := 0
  deriving DecidableEq, Repr

/-- A barrier at allocation: every field zero. -/
def Barrier.init0 : Barrier := {}

/-- Where a workgroup stands with pre-emption (R405 to R407). -/
inductive WgState where
  | running
  | asked (since : Nat)
  | stopped
  | saved (addr : DWord)
  deriving DecidableEq, Repr

/-- What a saved thread keeps that its record has no place for: failed stores not yet reported, traps held back, and a gang's abort (R213,
R327, R461); and where it had arrived at an RCV: the address after it, its word and whether it has a park marker (R113). -/
structure Rest where
  failed : List (Byte × DWord) := []
  heldTraps : List Held := []
  gangAbort : Bool := false
  arrival : Option (DWord × Word × Bool) := none
  deriving DecidableEq, Repr

/-- Nothing kept. -/
def Rest.init : Rest := {}

/-- A placed or saved workgroup. -/
structure Wg where
  lid : Nat
  g : Nat
  core : Nat
  slot : Nat
  warps : Nat
  st : WgState := .running
  bars : Tab Barrier := []
  /-- The warps' regions in the stack pool, by warp, and the bytes of each; a freed warp's is removed (R459). -/
  regions : Tab DWord := []
  regionBytes : Nat := 0
  /-- What the threads of a saved workgroup keep beside the record, by warp × 32 + lane. -/
  rest : Tab Rest := []
  /-- HK3's restart count and quiet cycles of the warps of a saved workgroup, by warp (R401). -/
  hk3 : Tab (Nat × Nat) := []
  /-- The pages that HK2 has made on-demand for a saved workgroup (R406): partition, size index and virtual page number. -/
  pages : List (Nat × Nat × Nat) := []
  /-- The place that HK1 has kept for its record since it asked it to leave: start and bytes (R405). -/
  place : Nat × Nat := (0, 0)
  deriving DecidableEq, Repr

/-- A kernel descriptor (R367). -/
structure Kd where
  entry0 : DWord := 0
  entry1 : DWord := 0
  warps0 : Nat := 0
  warps1 : Nat := 0
  regs0 : Nat := 0
  regs1 : Nat := 0
  nrole : Nat := 0
  nbar : Nat := 0
  l1 : Nat := 0
  checked : Nat := 0
  slice : Nat := 0
  stack : Nat := 0
  param : Nat := 0
  deriving DecidableEq, Repr

/-- The kinds of grid (R371) with what numbers their workgroups. -/
inductive Grid where
  | host (gx gy gz : Nat) (param : DWord)
  | device (reqs : List (Nat × DWord))
  | gang (nwg : Nat) (param : DWord)
  deriving DecidableEq, Repr

/-- Where a launch came from, and so what its end completes. -/
inductive Origin where
  | ring (n idx : Nat)
  | batch
  | gang (initiator : Nat) (seq : Nat)
  | tape (n idx : Nat)
  deriving DecidableEq, Repr

/-- A registered region control block (R362), with its address and the level HK1 gave it. -/
structure Rcb where
  id : Nat
  addr : DWord
  parent : Nat := 0
  level : Nat := 0
  prio : Nat := 0xFF
  chk : Nat := 3
  fdom : Nat := 0
  maxcore : Nat := 0
  maxws : Nat := 0
  cqsh : Nat := 0
  mxsh : Nat := 0
  traph : DWord := 0
  stack : Nat := 0
  stkpool : DWord := 0
  stksz : Nat := 0
  save : DWord := 0
  savesz : Nat := 0
  tape : DWord := 0
  tapesz : Nat := 0
  tapen : Nat := 0
  gacc : DWord := 0
  gnt : Nat := 0
  deriving DecidableEq, Repr

/-- A launch that HK1 has accepted (R377). `lid` is partition × 2^48 + LSEQ. -/
structure Launch where
  lid : Nat
  part : Nat
  lseq : Nat
  rcb : Nat
  kd : Kd
  chk : Nat
  fdom : Nat
  prio : Nat
  seed : Word
  grid : Grid
  origin : Origin
  next : Nat := 0
  total : Nat
  freed : Nat := 0
  status : Byte := 0
  killed : Bool := false
  /-- The launch whose follow-on this is (R372). -/
  follows : Option Nat := none
  onceDone : Bool := false
  /-- The RCB and its ancestors as registered when the launch was accepted (R362). -/
  rcbs : List Rcb := []
  deriving DecidableEq, Repr

/-- A page-table descriptor of one page size (R204). -/
structure Desc where
  migptr : Nat := 0
  rsz : Bool := false
  nn : Nat := 0
  nbase : Nat := 0
  on : Nat := 0
  obase : Nat := 0
  deriving DecidableEq, Repr

/-- A descriptor after cold start. -/
def Desc.init : Desc := {}

/-- A partition (R204, R362, R375, R377): its three table descriptors, RCBs, queue tokens and launch-sequence counter. -/
structure Part where
  desc : Tab Desc := []
  rcbs : List Rcb := []
  qtok : Tab DWord := []
  lseq : Nat := 1
  deriving DecidableEq, Repr

/-- A partition after reset. -/
def Part.init : Part := {}

/-! ## Copy, collective and Welt engines (R267, R317, R387) -/

/-- Whose command it is: the token of a warp of a workgroup, a host COPY command, a host FOLD-WAIT, or none. -/
inductive Owner where
  | token (lid g widx tok : Nat)
  | host (ring idx : Nat)
  | nobody
  deriving DecidableEq, Repr

/-- The transfers a copy engine makes (R277 to R284, R311). -/
inductive CopyKind where
  | cpy | tld | tst | gather | scatter | put | putc | get
  deriving DecidableEq, Repr

/-- A transfer: the fields of CPY, TCPY, GCPY and RCPY (R273, R309) and of a chain record (R283). -/
structure Xfer where
  kind : CopyKind := .cpy
  /-- The source; of a TCPY the descriptor, of an RCPY the local address. -/
  src : DWord := 0
  /-- The destination; of a TCPY the slice address, of an RCPY the remote address. -/
  dst : DWord := 0
  /-- Bytes to move: the length of a CPY or RCPY, B of a TCPY once its descriptor is read, j × r of a GCPY. -/
  len : Nat := 0
  mask : DWord := 0
  row : Nat := 0
  stride : Int := 0
  cnt : DWord := 0
  coords : List Int := []
  dev : BitVec 12 := 0
  be : Bool := false
  fill : Bool := false
  bar : Nat := 0
  /-- The tensor descriptor once read (R278): BASE, sizes, strides of dimensions 1 to 3, box, element size and swizzle id. -/
  ready : Bool := false
  base : DWord := 0
  dims : List Nat := []
  strs : List DWord := []
  box : List Nat := []
  esize : Nat := 1
  swz : BitVec 2 := 0
  deriving DecidableEq, Repr

/-- A run of bytes that a burst moves, with its offset in the transfer. -/
structure Piece where
  src : DWord
  dst : DWord
  n : Nat
  off : Nat
  deriving DecidableEq, Repr

/-- Bytes that a burst has read and is to write, with their offset in the transfer. -/
structure CopyWrite where
  dst : DWord
  off : Nat
  bytes : List Byte
  deriving DecidableEq, Repr

/-- A burst that has begun (R269, R311): what it moves, group by group, each group read whole before it is written (R280). -/
structure CopyBurst where
  off : Nat
  n : Nat
  /-- The pieces left, the group in hand first. -/
  groups : List (List Piece)
  /-- Bytes of the group in hand that other devices have sent, by offset. -/
  data : Tab (Option Byte) := []
  /-- The writes of the group in hand still to be made, once its reads are over. -/
  out : Option (List CopyWrite) := none
  /-- The offset at which the group in hand meets an error, with its cause. -/
  bad : Option (Nat × Byte) := none
  deriving DecidableEq, Repr

/-- A command in a copy engine's queue (R268 to R271, R285 to R287). -/
structure CopyCmd where
  id : Nat
  part : Nat
  core : Nat
  owner : Owner
  /-- The RCB charged against CQSH (R364). -/
  rcb : Nat
  x : Xfer
  /-- What the issuing thread's release waits for (R230): thread and the identity of an acknowledgement, a load or a write-back. -/
  after : List (Nat × Nat) := []
  /-- A chain: the address of the record in hand or to be read next (R284). -/
  chain : Option DWord := none
  /-- Chain only: a record's transfer is in progress, and its NEXT. -/
  inRecord : Bool := false
  nextRec : DWord := 0
  started : Bool := false
  /-- The transfer in hand has its entry in the hazard table (R285). -/
  going : Bool := false
  /-- The bursts begun and not yet performed, in ascending offset. -/
  bursts : List CopyBurst := []
  /-- The last source read has been issued, or the command has stopped (R269). -/
  readDone : Bool := false
  /-- Offset of the next burst. -/
  off : Nat := 0
  /-- Bytes already subtracted from the barrier (R282). -/
  counted : Nat := 0
  /-- Requests in flight to another device: offset and bytes; a descriptor, record, count word or status has an offset of its own. -/
  flight : List (Nat × Nat) := []
  /-- Waits for HK2's answer (R286), with the address it met and whether it writes there. -/
  stalled : Option (DWord × Bool) := none
  /-- The count word has been written or sent (R280). -/
  cntDone : Bool := false
  err : Byte := 0
  /-- The offset at which it has stopped with `err` (R287), and byte 0 of the record in hand (R284). -/
  stopAt : Nat := 0
  rec0 : Byte := 0
  /-- Every write is performed, or the command has stopped with `err` and nothing of it is in flight. -/
  finished : Bool := false
  deriving DecidableEq, Repr

/-- A copy engine: its eight queues, the order of acceptance being that of `id`, and the queue served last. -/
structure CopyEngine where
  q : Tab (List CopyCmd) := []
  turn : Nat := 0
  deriving DecidableEq, Repr

/-- An idle copy engine. -/
def CopyEngine.init : CopyEngine := {}

/-- A collective descriptor (R318). -/
structure CollDesc where
  sbuf : DWord := 0
  rbuf : DWord := 0
  cnts : DWord := 0
  grp : DWord := 0
  seqw : DWord := 0
  stmp : DWord := 0
  perm : DWord := 0
  cid : Word := 0
  np : Nat := 0
  rank : Nat := 0
  root : Nat := 0
  dtype : Nat := 0
  rop : Nat := 0
  qf : Nat := 0
  flg : Nat := 0
  tmo : Nat := 0
  deriving DecidableEq, Repr

/-- A burst of a collective to send, or sent and not yet acknowledged (R463), and whether it went over a circuit. -/
structure CollBurst where
  peer : Nat
  hdr : CollHdr
  /-- The segment of SBUF that the message carries, by its first byte and its bytes, and the burst's bytes on the wire. -/
  first : Nat
  seg : Nat
  n : Nat
  sent : Bool := false
  circ : Bool := false
  deriving DecidableEq, Repr

/-- A message from one rank: the data of its bursts by offset, its length once its last burst has come, and its stamp (R322, R323). -/
structure CollMsg where
  rank : Nat
  parts : List (Nat × List Byte) := []
  total : Option Nat := none
  stamp : DWord := 0
  deriving DecidableEq, Repr

/-- A write that a collective still has to make: bytes at an address, or a received stamp and its rank (R323). -/
inductive CollWrite where
  | put (a : DWord) (bs : List Byte)
  | stamp (r : Nat) (v : DWord)
  deriving DecidableEq, Repr

/-- What a collective command does (R318, R323): it waits, reads its descriptor, the rank, PERM or count table, or its sequence word, or
exchanges its messages. -/
inductive CollPhase where
  | waiting | descriptor | ranks | perm | counts | seqw | running
  deriving DecidableEq, Repr

/-- A command of a collective engine (R317 to R324). -/
structure CollCmd where
  id : Nat
  part : Nat
  core : Nat
  owner : Owner
  rcb : Nat
  op : Nat
  addr : DWord
  /-- What the issuing thread's release waits for (R230), as in CopyCmd. -/
  after : List (Nat × Nat) := []
  /-- What it does. -/
  phase : CollPhase := .waiting
  d : CollDesc := {}
  ranks : List Nat := []
  counts : List Nat := []
  perm : List Nat := []
  stamp : DWord := 0
  /-- Bytes read from other devices, and reads and writes of other devices' memory that have no reply yet. -/
  cache : Tab (Option Byte) := []
  away : Nat := 0
  tx : List CollBurst := []
  rx : List CollMsg := []
  /-- The ranks whose messages are complete, each with its expanded elements' bytes. -/
  got : List (Nat × List Byte) := []
  writes : List CollWrite := []
  /-- Waits for HK2's answer (R286) at an address, for a write or not; and the address and cause that HK2 has denied. -/
  stalled : Option (DWord × Bool) := none
  denied : Option (DWord × Byte) := none
  stale : Bool := false
  frank : Nat := 0xFFFF
  /-- It has stopped (R324), and STAT has been written, sent or abandoned (R323). -/
  stopped : Bool := false
  statDone : Bool := false
  err : Byte := 0
  deriving DecidableEq, Repr

/-- A collective engine: its queues, the staging area of bursts for CIDs not yet started, and the CIDs of the 64 most recent aborts,
oldest first (R322, R324). -/
structure CollEngine where
  q : Tab (List CollCmd) := []
  staged : List (CollHdr × List Byte) := []
  aborts : List Word := []
  /-- The queue served last (R317). -/
  turn : Nat := 0
  deriving DecidableEq, Repr

/-- An idle collective engine. -/
def CollEngine.init : CollEngine := {}

/-- A record of a die's gradient log (R385), with its place in the ring and the gradient buffer of its RCB as its launch was accepted under it
(R362, R386). -/
structure GRec where
  kind : Nat
  esc : Int
  rcb : Nat
  tile : Nat
  lseq : Nat
  wg : Nat
  tid : Nat
  rseq : Nat
  data : List Word
  place : Nat
  buf : Option (DWord × Nat)
  deriving DecidableEq, Repr

/-- A command of a Welt engine (R387 to R390): an append whose place is reserved, or a fold through a launch sequence. -/
inductive WeltKind where
  | glog (r : GRec) (src : DWord)
  | fold (s : Nat) (be : Bool) (bar : Nat)
  deriving DecidableEq, Repr

/-- A queued Welt command. -/
structure WeltCmd where
  id : Nat
  part : Nat
  core : Nat
  owner : Owner
  rcb : Nat
  kind : WeltKind
  /-- What the issuing thread's release waits for (R230), as in CopyCmd. -/
  after : List (Nat × Nat) := []
  /-- Waits for HK2's answer (R286). -/
  stalled : Bool := false
  /-- Bytes read from other devices, reads and writes without a reply, and an address refused with its cause. -/
  cache : Tab (Option Byte) := []
  away : Nat := 0
  denied : Option (DWord × Byte) := none
  /-- The folds of the order of R391 that are done; the fold is over, with the cause it stopped with. -/
  pos : Nat := 0
  ended : Option Byte := none
  deriving DecidableEq, Repr

/-- A die's Welt engine (R385, R387): its queue, its log ring, the places reserved and the append count. -/
structure Welt where
  q : List WeltCmd := []
  ring : List GRec := []
  reserved : List Nat := []
  rseq : Nat := 0
  deriving DecidableEq, Repr

/-- An idle Welt engine with an empty log. -/
def Welt.init : Welt := {}

/-- A request in a launch batch (R380, R381): the thread and outstanding result it answers, its count and parameter. -/
structure BatchReq where
  tid : Nat
  id : Nat
  n : Nat
  param : DWord
  deriving DecidableEq, Repr

/-- A batch of a die's launch aggregator (R380). -/
structure Batch where
  part : Nat
  kd : DWord
  rcb : Nat
  isOpen : Bool
  /-- The core that opened the batch and its cycle then: the batch closes 1,024 cycles later. -/
  core : Nat
  openedAt : Nat
  reqs : List BatchReq
  deriving DecidableEq, Repr

/-! ## The Lodge and the packet plane (R295, R302 to R307) -/

/-- What follows a write by a housekeeping core once it is performed: nothing, the vector of a ring (R376), or the completion of a command of
a ring (R374). -/
inductive AfterWrite where
  | nothing
  | vector (ring : Nat)
  | command (ring idx : Nat)
  deriving DecidableEq, Repr

/-- A write by a housekeeping core to an on-demand page, which waits for HK2's answer (R210). -/
structure AgentWrite where
  part : Nat
  va : DWord
  bytes : List Byte
  after : AfterWrite
  deriving DecidableEq, Repr

/-- Who waits for a reply to a request that this device sent. -/
inductive ReqOwner where
  | result (tid id : Nat) (n : Nat) (sz : BitVec 3)
  | ack (tid id : Nat) (addr : DWord)
  | fetch (core part : Nat) (pc : DWord)
  /-- A sector for an L1, and the result that waits for it (`n` bytes; 0 for a prefetch): its order kind and policy, and whether the L1
  may still keep it when it comes. -/
  | fill (core key tid id n : Nat) (sz : BitVec 3) (uo : Bool) (pol : BitVec 3) (keep : Bool)
  /-- Dirty bytes of a core's L1, the threads that stored them, and the write-back's identity. -/
  | back (core : Nat) (tids : List Nat) (addr : DWord) (id : Nat)
  | atom (members : List (Nat × Nat × DWord × DWord)) (op : AtomOp) (wide : Bool) (addr : DWord)
  | tagStore (tid : Nat) (addr : DWord)
  | peer (src : BitVec 12) (tag : BitVec 14) (tier : BitVec 2)
  | nobody
  | engine (eng q id off n : Nat) (dst : DWord)
  /-- `peer` is a rank, or marks a read (65536) or write (65537) at address `off`. -/
  | coll (eng id peer off : Nat)
  /-- A Welt engine's read at address `off`, or its write. -/
  | welt (die id off : Nat) (rd : Bool)
  | context (cx : Nat)
  /-- HK2's write of a page that it moves. -/
  | move (id : Nat)
  /-- A read at address `off` by housekeeping consumer `k`, or by a thread for its LNCH.GANG, under an identity; a housekeeping core's write. -/
  | agent (k id off : Nat)
  | block (tid id off : Nat)
  | agentWrite (after : AfterWrite)
  deriving DecidableEq, Repr

/-- An outstanding request of the local endpoint and its reply slot (R299): sent (0), waiting for a free slot (1), waiting 2 µs to
be sent again (2), or made while the endpoint is not ATTACHED (3). -/
structure OutReq where
  slot : Nat
  owner : ReqOwner
  pkt : Packet
  phase : Nat
  deriving DecidableEq, Repr

/-- An entry of the open table (R305): the request, and the endpoint's answer once its access is done. -/
structure OpenReq where
  pkt : Packet
  ans : Option (Byte × List Byte)
  deriving DecidableEq, Repr

/-- One link's output port (R298): packets waiting and the counters of grants to higher tiers. -/
structure OutPort where
  /-- Packets with their input port, 6 the local endpoint. -/
  waiting : List (Nat × Packet) := []
  c2 : Nat := 0
  c3 : Nat := 0
  /-- The input port granted last, by tier. -/
  last : Tab Nat := []
  deriving DecidableEq, Repr

/-- An idle output port. -/
def OutPort.init : OutPort := {}

/-- The Lodge island. -/
structure Lodge where
  ldcfg : DWord := 0x1000000
  epst : BitVec 2 := 0
  epoch : Bool := false
  abscnt : BitVec 16 := 0
  orphcnt : BitVec 16 := 0
  seqerr : BitVec 16 := 0
  linkup : BitVec 6 := 0
  /-- Links that failed to retrain (R300). -/
  linkdown : BitVec 6 := 0
  /-- Next sequence number by destination × 4 + tier, and whether FIRST has been sent. -/
  seqTx : Tab Nat := []
  seqFirst : Tab Bool := []
  /-- Expected number by source × 4 + tier. -/
  seqRx : Tab Nat := []
  opens : List OpenReq := []
  outs : List OutReq := []
  ports : Tab OutPort := []
  /-- What has left the device: link (6 for none, the device itself) and packet, oldest first. -/
  wire : List (Nat × Packet) := []
  deriving DecidableEq, Repr

/-- A gang launch this device initiated (R325, R326, R382): its window and the HK cycles since it opened. -/
structure Gang where
  seq : Nat
  devs : List Nat
  acked : List Nat
  tid : Nat
  id : Nat
  win : Nat
  elapsed : Nat := 0
  deriving DecidableEq, Repr

/-- A tagged word that waits at a home tag unit of this device, or has been refused and waits to be resent (R217). -/
structure TagWait where
  id : Nat
  /-- 0 LDF, 1 LDE, 2 STF. -/
  kind : Nat
  key : Nat
  n : Nat
  data : List Byte
  who : ReqOwner
  /-- On its way to the tag unit, held there, or refused. -/
  phase : Nat
  /-- The bundle that issued it: the tagged words of one bundle reach their home in lane order (R198). -/
  bundle : Nat
  deriving DecidableEq, Repr

/-! ## Optical ports and the circuit processor (R329 to R361) -/

/-- The entry of a (port, slot) (R335). -/
structure Entry where
  /-- 0 FREE, 1 ASKED, 2 GRANTED, 3 REFUSED. -/
  st : Nat := 0
  reqId : Nat := 0
  res : Byte := 0
  swt : Nat := 0
  wid : BitVec 2 := 0
  pdev : BitVec 12 := 0
  pport : BitVec 4 := 0
  cx : Nat := 0
  deriving DecidableEq, Repr

/-- A FREE entry. -/
def Entry.init : Entry := {}

/-- An optical port (R331, R332, R338). -/
structure Port where
  /-- 0 DARK, 1 LOCKING, 2 TRAINED, 3 LIVE, 4 FAULT. -/
  st : Nat := 0
  laser : Bool := false
  light : Bool := false
  /-- The expected peer: device, port and width code. -/
  peer : Option (BitVec 12 × BitVec 4 × BitVec 2) := none
  owner : Option Nat := none
  entries : Tab Entry := []
  cache : List (BitVec 12 × BitVec 4) := []
  swid : BitVec 12 := 0
  en : Bool := false
  window : Bool := false
  /-- The queue that sent the last burst in its window: 8 times its engine and its number (R353). -/
  turn : Nat := 0
  deriving DecidableEq, Repr

/-- A port after cold start. -/
def Port.init : Port := {}

/-- What an armed SRUN or a WEV waits for (R360): kind, cA and cB. -/
structure Event where
  kind : Nat
  a : DWord
  b : DWord
  deriving DecidableEq, Repr

/-- What holds a context in WAIT (R353, R360): a CWAIT or WEV with its timeout in µs (0 for none), an on-demand page, the reply of a
remote access, or the reply of a read of SLOT's table, with the doublewords read so far. -/
inductive CxWait where
  | none
  | cwait (d : BitVec 4) (spec : DWord) (tmo : Nat)
  | wev (d : BitVec 4) (e : Event) (tmo : Nat)
  | page (va : DWord)
  | reply
  | table (got : List DWord)
  deriving DecidableEq, Repr

/-- A rotation of a context (R340, R342). -/
structure Rotation where
  /-- 0 no table, 1 loaded, 2 armed, 3 running. -/
  st : Nat := 0
  ns : Nat := 0
  lead : Bool := false
  reps : Nat := 0
  len : List Nat := []
  guard : List Nat := []
  start : Event := ⟨0, 0, 0⟩
  s : Nat := 0
  k : Nat := 0
  /-- The boundary b of the current slot, in ns of the circuit processor's clock. -/
  b : Int := 0
  realigned : List Nat := []
  /-- A stop is due: 0 no, 1 at the next boundary, 2 at the end of the rotation. -/
  stop : Nat := 0
  /-- What the read of an armed SRUN.FULL gave: status and word. -/
  got : Option (Byte × DWord) := none
  deriving DecidableEq, Repr

/-- A script context of the circuit processor (R336, R347). -/
structure Context where
  /-- 0 IDLE, 1 RUN, 2 WAIT, 3 FAULT. -/
  st : Nat := 0
  pc : Nat := 0
  regs : Tab DWord := []
  exit : Byte := 0
  cause : Byte := 0
  /-- The PC that CXSTAT reports: of the word that faulted or that holds the context. -/
  statPc : Nat := 0
  part : Nat := 0
  wait : CxWait := .none
  rot : Rotation := {}
  msgs : List (BitVec 12 × BitVec 48) := []
  cmd : Option (Nat × Nat) := none
  /-- The SSEQ of the entry into a slot that a WEV.SLOT has seen (R360). -/
  slotSeen : Option Nat := none
  /-- What the read of a WEV.FULL gave: status and word; and whether its timeout has passed and its withdrawal is under way (R360). -/
  fullGot : Option (Byte × DWord) := none
  withdrawn : Bool := false
  /-- The section of the script store that the script lies in: first byte and the byte after its last (R69, R337). -/
  sec : Nat × Nat := (0, 0)
  deriving DecidableEq, Repr

/-- A context after cold start. -/
def Context.init : Context := {}

/-- A queue's circuit binding (R353). -/
structure Binding where
  eng : Nat
  queue : Nat
  port : Nat
  smask : BitVec 16
  cx : Nat
  deriving DecidableEq, Repr

/-- The circuit processor and its ports. -/
structure CircuitProc where
  cx : Tab Context := []
  ports : Tab Port := []
  store : Tab Byte := []
  /-- The circuit sections that the loader has placed in the store: first byte and the byte after the last (R69, R347). -/
  sections : List (Nat × Nat) := []
  binds : List Binding := []
  reqId : Nat := 0
  last : Nat := 7
  msgdrop : BitVec 16 := 0
  badmsg : BitVec 16 := 0
  sseqdrop : BitVec 16 := 0
  ralign : BitVec 16 := 0
  /-- The notices of faults that HK4 has been sent, oldest first: context, cause and PC (R336). -/
  faults : List (Nat × Byte × Nat) := []
  /-- Frames sent: port and frame, oldest first, and the next frame number by port. -/
  sent : List (Nat × Frame) := []
  num : Tab Nat := []
  deriving DecidableEq, Repr

/-! ## The host's registers, start, power and security (R373, R420 to R442) -/

/-- What a started command of a ring waits for (R374, R384). -/
inductive RingWait where
  | launch (lid : Nat)
  | copy (id : Nat)
  | circuit (cx : Nat) (running : Bool)
  | token (t : Nat) (v : DWord)
  | folds (ids : List Nat) (status : Byte)
  | fence (others : List (Nat × Nat))
  | tape (rcb left : Nat) (status : Byte)
  | start
  | write
  | reset
  | done
  deriving DecidableEq, Repr

/-- A started command of a ring. -/
structure Act where
  idx : Nat
  cmd : BitVec 512
  wait : RingWait
  deriving DecidableEq, Repr

/-- A host command ring (R373). -/
structure Ring where
  base : DWord := 0
  cpl : DWord := 0
  part : Nat := 0
  en : Bool := false
  log2n : Nat := 4
  tail : Word := 0
  head : Word := 0
  next : Word := 0
  ovr : Bool := false
  act : List Act := []
  deriving DecidableEq, Repr

/-- A ring after cold start. -/
def Ring.init : Ring := {}

/-- A firmware image in flash: `none` is the image the part was shipped with, which verifies. -/
abbrev Image := Option (List Byte)

/-- A firmware slot of the flash (R439). -/
structure FwSlot where
  valid : Bool := false
  image : Image := none
  deriving DecidableEq, Repr

/-- A firmware slot that holds no valid image. -/
def FwSlot.init : FwSlot := {}

/-- What a measurement register has been extended with (R440), oldest first; its value is the SHAKE256 chain over them. -/
inductive Meas where
  | image (b : Image)
  | records (b : Image)
  | config (partcfg devctl : DWord)
  | data (b : List Byte)
  deriving DecidableEq, Repr

/-- A page that HK2 is moving (R215): it is on-demand and shot down; the entry that it had, where it goes, and whether its contents have been
copied or sent. -/
structure PageMove where
  id : Nat
  part : Nat
  size : Nat
  vpn : Nat
  old : BitVec 128
  pf : PageFill
  copied : Bool := false
  deriving DecidableEq, Repr

/-- A reset that has been accepted (R429, R432): the ring and index of the RESET command, if one asked for it, the rung, its target with the
class of an engine, and RETAIN. -/
structure ResetJob where
  cmd : Option (Nat × Nat)
  rung : Nat
  target : Nat
  cls : Nat
  retain : Bool
  deriving DecidableEq, Repr

/-- A checkpoint in progress (R438): its command, the next chunk, chunks to send again, and chunks on circuits: chunk, port, engine and the
bursts that have left. -/
structure Ckpt where
  ring : Nat
  idx : Nat
  cmd : BitVec 512
  restore : Bool
  next : Nat := 0
  again : List Nat := []
  flying : List (Nat × Nat × Nat × Nat) := []
  deriving DecidableEq, Repr

/-- The device's registers, the flash and the fuses. -/
structure Device where
  /-- DEVSTAT.STATE (R422). -/
  state : Nat := 3
  pst : Nat := 0
  trip : Bool := false
  temp : Byte := 0
  wfail : Byte := 0
  cfail : Byte := 0
  fstep : Byte := 0
  cold : Bool := false
  zero : Bool := false
  dbgen : Byte := 0
  retain : Byte := 0
  partcfg : BitVec 27 := 0
  /-- TRIM's clock cap in MHz, and the BUDGET that HK5 writes to every core at its next window (R433). -/
  cap : Nat := 1800
  budget : Byte := 0
  mb : MbArgs := {}
  mbcmd : Byte := 0
  mbstat : Byte := 0
  /-- A REGRCB that waits for HK2 to answer for its page: MBSTAT.BUSY is 1 (R210, R425). -/
  mbWait : Option (Func × MbArgs) := none
  meas : Tab (List Meas) := []
  quotes : Nat := 0
  /-- Flash: the training and digest records of the last successful cold start: the SVN fused then and the image whose digest it is. -/
  trained : Option (Nat × Image) := some (0, none)
  /-- The fused SVN, as its 64 fuses count it, the firmware slots and the slot that the last start used (R439). -/
  svn : Fin 65 := 0
  fw : Tab FwSlot := []
  active : Nat := 0
  /-- The histograms in flash, and the counters of each core at 101 core + index (R403). -/
  histFlash : Tab (BitVec 16) := []
  hist : Tab (BitVec 16) := []
  /-- A start in progress: whether it is cold, and whether it zeroes memory (R426, R427); and the PSTATE command that began it: ring and index. -/
  starting : Option (Bool × Bool) := none
  startBy : Option (Nat × Nat) := none
  /-- The accepted resets, oldest first; whether the first of them runs, and what STATE read before it (R432). -/
  resets : List ResetJob := []
  resetting : Bool := false
  stateWas : Nat := 3
  /-- The checkpoint in progress. -/
  ckpt : Option Ckpt := none
  /-- MSI-X vectors raised, oldest first (R420). -/
  msix : List (Nat × Nat) := []
  /-- The pages HK2 has been told about (R210, R286): partition and page address. -/
  notices : List (Nat × DWord) := []
  /-- Counter-cache counts by die × 2^60 + page key, notifications queued (die, page key, page-size index, count) and dropped (R214). -/
  counts : Tab Nat := []
  cntQueue : List (Nat × Nat × Nat × Nat) := []
  cntDrop : Tab Nat := []
  thr : Nat := 256
  /-- The pages that HK2 is moving, and the writes that wait for HK2's answer. -/
  moves : List PageMove := []
  stores : List AgentWrite := []
  deriving DecidableEq, Repr

/-! ## The issuing bundle and the whole machine -/

/-- The bundle whose word or prefixed group issues (R39, R76): core, address of the group's first word and of the current
word, the word, its threads as (lane, warp slot) in ascending lane, and the prefixes gathered so far. -/
structure Issue where
  core : Nat := 0
  pc0 : DWord := 0
  pc : DWord := 0
  word : Word := 0
  mem : List (Nat × Nat) := []
  pfx : Prefixes := {}
  /-- The cycles by which the word's passes delay its results (R87), and the bundle's identity (R198). -/
  late : Nat := 0
  bundle : Nat := 0
  deriving DecidableEq, Repr

/-- No bundle. -/
def Issue.none : Issue := {}

/-- What moves next, when the environment chooses (assumption 2): an event, a core, the circuit processor, time by one HK cycle, or one cycle of
the circuit processor in which several triggers of ports fall, with a word of its own or not (R333). -/
inductive Input where
  | event (i : Instr)
  | core (c : Nat)
  | circuit
  | tick
  | together (word : Bool) (triggers : List Instr)
  deriving DecidableEq, Repr

/-- Why the machine stops with a fault. -/
inductive Fault where
  /-- An access to a physical address that no memory of the package has: a STACKED frame beyond 32 GiB or an OUTER frame beyond
  1,024 GiB (R17, R200). Raised by the operations that read and write homes. Safe: the manual gives such an access no effect. -/
  | noSuchMemory
  deriving DecidableEq, Repr

/-- Why the model has no meaning to give. -/
inductive Refusal where
  /-- The instruction has no meaning yet. Raised by no meaning of this package. Safe: nothing is claimed of it. -/
  | notModelled (mnemonic : String)
  deriving DecidableEq, Repr
end Sys2Proof.Machine

namespace Sys2Proof.Machine
open Sys2Proof
/-- The whole device. -/
structure State where
  /-- The bundle that is issuing, between the words of a prefixed group too. -/
  cur : Issue := {}
  /-- What the environment does next, oldest first. -/
  inputs : List Input := []
  /-- Whose turn it is when nothing was asked for: 0 cores, 1 circuit processor, 2 engines and controllers. -/
  turn : Nat := 0
  /-- The core that is asked first. -/
  focus : Nat := 0
  /-- The counter from which the free values of Config are drawn (the model's own). -/
  free : Nat := 0
  /-- The next identity for a command, result or acknowledgement (the model's own). -/
  ids : Nat := 0
  /-- A physical address that does not exist was reached in this step. -/
  hole : Bool := false
  /-- Bytes of every memory, by the key of Ops: slices, stacked DRAM, outer memory and host memory. -/
  mem : List Host.Cell := []
  /-- Full/empty tags by slice word, swizzle ids by slice line, uncorrectable marks by sector. -/
  tags : Tab Bool := []
  swz : Tab (BitVec 2) := []
  poison : Tab Bool := []
  /-- Ranges whose contents are lost or were never restored, and so undefined (R433, R438): first key, the key after the last, and the
  number of the first key's free value. Tags and swizzle ids have keys of their own (Ops). -/
  lost : List (Nat × Nat × Nat) := []
  /-- Bytes of live threads' stacks and return areas that were written through the global window, and so are undefined to their threads until
  these write them again (R459): first key, the key after the last, and the number of the first key's free value. -/
  stackHit : List (Nat × Nat × Nat) := []
  thr : Tab Thread := []
  warps : Tab Warp := []
  /-- The warps that HK3 holds or has held, in the order in which it received their last events (R402). -/
  hk3Order : List Nat := []
  cores : Tab Core := []
  dieTlb : Tab (List TlbEntry) := []
  wgs : List Wg := []
  launches : List Launch := []
  parts : Tab Part := []
  copy : Tab CopyEngine := []
  coll : Tab CollEngine := []
  welt : Tab Welt := []
  batches : Tab (List Batch) := []
  gangs : List Gang := []
  gangSeq : Nat := 0
  gangAborted : List (Nat × Nat) := []
  /-- LAUNCH packets of gangs that HK1 has not taken up yet, oldest first: initiator, sequence and block (R325). -/
  gangsIn : List (Nat × Nat × List Byte) := []
  /-- What housekeeping cores have asked of other devices, by consumer: ring n is n, REGRCB 64, gangs 65, the batches of die d 66 + d. -/
  agents : Tab Asked := []
  tagWaits : List TagWait := []
  lodge : Lodge := {}
  cp : CircuitProc := {}
  rings : Tab Ring := []
  dev : Device := {}
  deriving DecidableEq, Repr

/-- The T9 right after a cold start (R8, R199, R426): memory, tags and swizzle ids zero, no launch, every register at its
Reset column, STATE READY, the Lodge endpoint attached by HK4 at step 7 with its EPOCH toggled once (assumption 41). Registers that the
manual gives no reset value hold zero (assumption 1). -/
def State.reset : State :=
  { lodge := { epst := 1, epoch := true },
    dev := { fw := [(0, { valid := true })],
             meas := [(0, [.image none]), (1, [.records none]), (2, [.config 0 0])] } }

end Sys2Proof.Machine
end

