-- ==== Sys2Proof/Machine/Ops.lean ====
section
/-! DEFINITION. The named operations on the machine's state: threads, warps, cores and their registers, the loop stack, region
control blocks, taking an exception and returning from one, and how an issued word's threads go on. -/

namespace Sys2Proof.Machine
open Sys2Proof

/-! ## Where things are -/

/-- The key of a warp slot of a core (R12, R50). -/
def warpKey (core slot : Nat) : Nat := core * 64 + slot
/-- The key of a thread: its core, warp slot and home lane. -/
def threadKey (core slot lane : Nat) : Nat := warpKey core slot * 32 + lane
/-- The home lane of a thread (R71). -/
def laneOf (t : Nat) : Nat := t % 32
/-- The warp key of a thread. -/
def warpOf (t : Nat) : Nat := t / 32
/-- The warp slot of a warp key. -/
def slotOf (w : Nat) : Nat := w % 64
/-- The core of a warp key. -/
def coreOf (w : Nat) : Nat := w / 64
/-- The core of a thread. -/
def coreOfThread (t : Nat) : Nat := t / 2048
/-- The compute die of a core (R12). -/
def dieOf (core : Nat) : Nat := core / 128

/-- A thread's state. -/
def State.thread (s : State) (t : Nat) : Thread := Tab.get Thread.init s.thr t
/-- Replaces a thread's state. -/
def State.setThread (s : State) (t : Nat) (th : Thread) : State := { s with thr := Tab.put Thread.init s.thr t th }
/-- Changes a thread's state. -/
def State.updThread (s : State) (t : Nat) (f : Thread → Thread) : State := s.setThread t (f (s.thread t))
/-- A warp's state. -/
def State.warp (s : State) (w : Nat) : Warp := Tab.get Warp.init s.warps w
/-- Changes a warp's state. -/
def State.updWarp (s : State) (w : Nat) (f : Warp → Warp) : State :=
  { s with warps := Tab.put Warp.init s.warps w (f (s.warp w)) }
/-- A core's state. -/
def State.coreAt (s : State) (c : Nat) : Core := Tab.get Core.init s.cores c
/-- Changes a core's state. -/
def State.updCore (s : State) (c : Nat) (f : Core → Core) : State :=
  { s with cores := Tab.put Core.init s.cores c (f (s.coreAt c)) }
/-- A partition's state. -/
def State.part (s : State) (p : Nat) : Part := Tab.get Part.init s.parts p
/-- Changes a partition's state. -/
def State.updPart (s : State) (p : Nat) (f : Part → Part) : State :=
  { s with parts := Tab.put Part.init s.parts p (f (s.part p)) }
/-- The warp of a thread. -/
def State.warpOfThread (s : State) (t : Nat) : Warp := s.warp (warpOf t)
/-- The threads of a warp, by ascending lane. -/
def warpThreads (w : Nat) : List Nat := (List.range 32).map (fun l => w * 32 + l)
/-- The live threads of a warp (R71). -/
def State.liveThreads (s : State) (w : Nat) : List Nat := (warpThreads w).filter (fun t => (s.thread t).live)
/-- A launch by its identity. -/
def State.launch? (s : State) (lid : Nat) : Option Launch := s.launches.find? (fun l => l.lid == lid)
/-- Changes a launch. -/
def State.updLaunch (s : State) (lid : Nat) (f : Launch → Launch) : State :=
  { s with launches := s.launches.map (fun l => if l.lid == lid then f l else l) }
/-- A workgroup by its launch and linear index. -/
def State.wg? (s : State) (lid g : Nat) : Option Wg := s.wgs.find? (fun x => x.lid == lid && x.g == g)
/-- Changes a workgroup. -/
def State.updWg (s : State) (lid g : Nat) (f : Wg → Wg) : State :=
  { s with wgs := s.wgs.map (fun x => if x.lid == lid && x.g == g then f x else x) }
/-- A fresh identity for a command, result or acknowledgement. -/
def State.freshId (s : State) : Nat × State := (s.ids, { s with ids := s.ids + 1 })
/-- The copy engine of an index. -/
def State.engine (s : State) (e : Nat) : CopyEngine := Tab.get CopyEngine.init s.copy e
/-- Changes a copy engine. -/
def State.updEngine (s : State) (e : Nat) (f : CopyEngine → CopyEngine) : State :=
  { s with copy := Tab.put CopyEngine.init s.copy e (f (s.engine e)) }
/-- The Welt engine of a die. -/
def State.weltOf (s : State) (d : Nat) : Welt := Tab.get Welt.init s.welt d
/-- Changes a Welt engine. -/
def State.updWelt (s : State) (d : Nat) (f : Welt → Welt) : State :=
  { s with welt := Tab.put Welt.init s.welt d (f (s.weltOf d)) }

/-- The workgroup of a thread: its launch and linear index (R169). -/
def State.ownerOf (s : State) (t : Nat) : Nat × Nat := let w := s.warpOfThread t; (w.lid, w.g)
/-- The slot is OWNED by a workgroup. -/
def Tile.ownedBy (t : Tile) (o : Nat × Nat) : Bool := t.owned && t.lid == o.1 && t.g == o.2

/-- R170: a workgroup's slots on a core become EMPTY. -/
def State.emptyTiles (s : State) (core lid g : Nat) : State :=
  s.updCore core (fun c => { c with tiles := c.tiles.filter (fun e => !(e.2.ownedBy (lid, g))) })

/-- The core clock's cycle count (R27). -/
def State.cycleOf (s : State) (c : Nat) : Nat := (s.coreAt c).cycle

/-! ## A thread's registers (R44 to R47) -/

/-- Vector register `n`. -/
def Thread.reg (th : Thread) (n : Nat) : Word := Tab.get 0 th.regs n
/-- Writes vector register `n`. -/
def Thread.setReg (th : Thread) (n : Nat) (v : Word) : Thread := { th with regs := Tab.put 0 th.regs n v }
/-- Writes vector registers in order. -/
def Thread.setRegs (th : Thread) : List (Nat × Word) → Thread
  | [] => th
  | (n, v) :: r => Thread.setRegs (th.setReg n v) r
/-- R45: the pair xN, vN as bits [31:0] and v(N+1) as bits [63:32]. -/
def Thread.pair (th : Thread) (n : Nat) : DWord := th.reg (n + 1) ++ th.reg n
/-- The low and high words of a pair, as writes to vN and v(N+1). -/
def pairWrites (n : Nat) (v : DWord) : List (Nat × Word) := [(n, v.extractLsb' 0 32), (n + 1, v.extractLsb' 32 32)]
/-- R46: a predicate; p7 reads as 1. -/
def Thread.pred (th : Thread) (p : Nat) : Bool := p == 7 || th.preds.getLsbD p
/-- Bit `p` of a word of predicates set to `v`. -/
def withBit (x : BitVec 7) (p : Nat) (v : Bool) : BitVec 7 :=
  if v then x ||| (1#7 <<< p) else x &&& ~~~(1#7 <<< p)
/-- R46: a write to a predicate; a write to p7 is discarded. -/
def Thread.setPred (th : Thread) (p : Nat) (v : Bool) : Thread :=
  if p == 7 then th else { th with preds := withBit th.preds p v }
/-- Writes predicates in order. -/
def Thread.setPreds (th : Thread) : List (Nat × Bool) → Thread
  | [] => th
  | (p, v) :: r => Thread.setPreds (th.setPred p v) r
/-- R30: the guard's value in a thread. -/
def guardHolds (g : Guard) (th : Thread) : Bool := th.pred g.p.toNat != g.n

/-! ## The loop stack and the next PC (R90 to R93, R397) -/

/-- An entry acts while the thread's DEPTH and H equal its own (R90, R397). -/
def LoopEntry.acts (e : LoopEntry) (depth : Nat) (h : Bool) : Bool := e.depth == depth && e.h == h

/-- R91: the loop-back rule on the stack (top first) for a PC that takes the value `v`. -/
def loopBack (depth : Nat) (h : Bool) : List LoopEntry → DWord → List LoopEntry × DWord
  | [], v => ([], v)
  | e :: es, v =>
    if e.acts depth h && v == e.stop then
      if 1 < e.count.toNat then ({ e with count := e.count - 1 } :: es, e.start) else loopBack depth h es v
    else (e :: es, v)

/-- R92: the stack after a taken branch to `g`. -/
def unwind (depth : Nat) (h : Bool) : List LoopEntry → DWord → List LoopEntry
  | [], _ => []
  | e :: es, g =>
    if e.acts depth h && !(decide (e.start ≤ g) && decide (g < e.stop)) then unwind depth h es g else e :: es

/-- The thread with its PC set to `v` under the loop-back rule (R91). -/
def Thread.goTo (th : Thread) (v : DWord) : Thread :=
  let r := loopBack th.depth th.h th.lstk v
  { th with lstk := r.1, pc := r.2 }

/-- The thread after a taken BRA or BRX to `g` (R92). -/
def Thread.branchTo (th : Thread) (g : DWord) : Thread :=
  { th with lstk := unwind th.depth th.h th.lstk g, pc := g }

/-- The last address of the global window (R19). -/
def globalTop : DWord := 0x00FFFFFFFFFFFFFF

/-! ## Region control blocks (R362, R363) -/

/-- A registered RCB of a partition. -/
def Part.rcb? (p : Part) (id : Nat) : Option Rcb := p.rcbs.find? (fun r => r.id == id)

/-- R363: the effective value of an attribute that a nonzero own value gives and that is otherwise the parent's; `dflt` at a root.
Levels are below 8, so eight parents suffice. -/
def Part.inherit {A : Type} (p : Part) (own : Rcb → Option A) (dflt : A) : Nat → Nat → A
  | 0, _ => dflt
  | f + 1, id =>
    match p.rcb? id with
    | none => dflt
    | some r => match own r with | some a => a | none => Part.inherit p own dflt f r.parent

/-- R363: the lesser of the own value and the parent's effective value; `dflt` at a root that inherits. -/
def Part.lesser (p : Part) (own : Rcb → Option Nat) (dflt : Nat) : Nat → Nat → Nat
  | 0, _ => dflt
  | f + 1, id =>
    match p.rcb? id with
    | none => dflt
    | some r =>
      let up := Part.lesser p own dflt f r.parent
      match own r with | some a => if r.parent = 0 then a else Nat.min a up | none => up

/-- A number whose zero means inherit. -/
def orInherit (n : Nat) : Option Nat := if n = 0 then none else some n

/-- The effective TRAPH of an RCB; 0 is none (R363). -/
def Part.traph (p : Part) (id : Nat) : DWord := p.inherit (fun r => if r.traph = 0 then none else some r.traph) 0 8 id
/-- The effective STACK; none is 0 (R363). -/
def Part.stackOf (p : Part) (id : Nat) : Nat := p.inherit (fun r => orInherit r.stack) 0 8 id
/-- The effective FDOM (R363). -/
def Part.fdom (p : Part) (id : Nat) : Nat := p.inherit (fun r => orInherit r.fdom) 1 8 id
/-- The effective CHK: 0 OFF, 1 FULL, 2 SAMPLE (R363). -/
def Part.chk (p : Part) (id : Nat) : Nat := p.inherit (fun r => if r.chk = 3 then none else some r.chk) 2 8 id
/-- An effective address pair, inherited whole; none when no ancestor has one (R363). -/
def Part.pairOf (p : Part) (addr : Rcb → DWord) (size : Rcb → Nat) (id : Nat) : Option (DWord × Nat) :=
  p.inherit (fun r => if addr r = 0 then none else some (some (addr r, size r))) none 8 id
/-- The RCB whose own TAPE an RCB's effective tape is (R363, R383). -/
def Part.tapeOwner (p : Part) (id : Nat) : Option Nat :=
  p.inherit (fun r => if r.tape = 0 then none else some (some r.id)) none 8 id
/-- The effective priority (R363). -/
def Part.prio (p : Part) (id : Nat) : Nat := p.lesser (fun r => if r.prio = 0xFF then none else some r.prio) 0 8 id
/-- The effective MAXWS (R363). -/
def Part.maxws (p : Part) (id : Nat) : Nat := p.lesser (fun r => orInherit r.maxws) 64 8 id
/-- The effective CQSH (R363). -/
def Part.cqsh (p : Part) (id : Nat) : Nat := p.lesser (fun r => orInherit r.cqsh) 64 8 id
/-- The effective MXSH (R363). -/
def Part.mxsh (p : Part) (id : Nat) : Nat := p.lesser (fun r => orInherit r.mxsh) 8 8 id
/-- The RCB and its ancestors, nearest first (R364). -/
def Part.lineage (p : Part) : Nat → Nat → List Nat
  | 0, _ => []
  | f + 1, id => match p.rcb? id with | none => [] | some r => r.id :: Part.lineage p f r.parent
/-- The RCBs that bound a launch of RCB `id`. -/
def Part.ancestors (p : Part) (id : Nat) : List Nat := p.lineage 8 id

/-! ## Taking an exception (R393 to R400) -/

/-- R394: the causes delivered to HK3. -/
def toHk3 (cause : Byte) : Bool := cause == 0x12 || cause == 0x13 || cause == 0x14 || cause == 0x15

/-- The frame registers of R395. -/
def Thread.withFrame (th : Thread) (cause : Byte) (pc : DWord) (word mask : Word) (addr : DWord) : Thread :=
  { th with trcause := cause, trpc := pc, trword := word, trmask := mask, traddr := addr }

/-- A warp after a cause that goes to HK3 (R400, R401): it is held. Several causes before HK3 decides are one event, with the first of them, and
it is a kill if one of them makes it one. -/
def Warp.hold (x : Warp) (cause : Byte) (kill : Bool) : Warp :=
  if x.held && !x.hkRestart then { x with hkKill := x.hkKill || kill }
  else { x with held := true, hkCause := cause, hkKill := kill, hkRestart := false, quiet := 0 }

/-- R400, R402: the warp is held; HK3 knows in which order it has received the events of held warps. -/
def State.holdWarp (s : State) (w : Nat) (cause : Byte) (kill : Bool) : State :=
  let s1 := s.updWarp w (fun x => x.hold cause kill)
  if (s.warp w).held && !(s.warp w).hkRestart then s1 else { s1 with hk3Order := s1.hk3Order.filter (fun k => k != w) ++ [w] }

/-- R400: a cause goes to HK3: the frame is recorded, the thread's outstanding loads are discarded and its warp is held. -/
def State.sendHk3 (s : State) (t : Nat) (cause : Byte) (pc : DWord) (word mask : Word) (addr : DWord) (kill : Bool) : State :=
  (s.updThread t (fun th => { th.withFrame cause pc word mask addr with outs := [], park := .none, wdog := none, asked := {} })).holdWarp
    (warpOf t) cause kill

/-- The partition with the RCBs as a launch was accepted under (R362), or as registered now for anything that is not of a launch. -/
def State.view (s : State) (lid part : Nat) : Part :=
  match s.launch? lid with
  | some l => { s.part part with rcbs := l.rcbs }
  | none => s.part part

/-- The RCBs that a warp's launch was accepted under. -/
def State.viewOf (s : State) (w : Warp) : Part := s.view w.lid w.part

/-- The effective TRAPH of a thread's RCB (R363, R396). -/
def State.traphOf (s : State) (t : Nat) : DWord :=
  let w := s.warpOfThread t
  (s.viewOf w).traph w.rcb

/-- TAKING A TRAP (R393, R394, R396, R398): `pc` is what %TRPC receives. In handler mode it is a double trap, which HK3 kills; an HK3
cause, and any cause of a thread without a handler, goes to HK3; otherwise the frame is recorded, EDEPTH takes DEPTH, H is set,
demotion ends and the thread continues at TRAPH, eligible 4 cycles later. The loop stack, registers and DEPTH stay. -/
def State.takeTrap (s : State) (t : Nat) (cause : Byte) (pc : DWord) (word mask : Word) (addr : DWord) : State :=
  let h := s.traphOf t
  if (s.thread t).h then s.sendHk3 t cause pc word mask addr true
  else if toHk3 cause then s.sendHk3 t cause pc word mask addr false
  else if h == 0 then s.sendHk3 t cause pc word mask addr true
  else s.updThread t (fun th =>
    { th.withFrame cause pc word mask addr with
      edepth := th.depth, h := true, dm := false, pc := h, park := .none, wdog := none, asked := {},
      readyAt := s.cycleOf (coreOfThread t) + 4 })

/-- R399: the return from handler mode, when %TRPC is a legal address. -/
def Thread.leaveHandler (th : Thread) : Thread :=
  let th1 := { th with lstk := th.lstk.filter (fun e => !e.h), depth := th.edepth, h := false }
  th1.goTo th.trpc

/-! ## The issuing bundle -/

/-- A bundle's threads. -/
def Issue.threads (c : Issue) : List Nat := c.mem.map (fun m => threadKey c.core m.2 m.1)

/-- A set of lanes as a mask (R395). -/
def lanesMask : List Nat → Word
  | [] => 0
  | l :: ls => (1#32 <<< l) ||| lanesMask ls

/-- The lane mask of the bundle. -/
def Issue.mask (c : Issue) : Word := lanesMask (c.mem.map Prod.fst)

/-- A 32-byte sector address (R395). -/
def sectorOf (a : DWord) : DWord := a &&& ~~~31#64

/-- A thread of the bundle takes a trap at its word or group (R396): %TRPC is the group's first word (R39). -/
def State.trapWord (s : State) (t : Nat) (cause : Byte) (addr : DWord) : State :=
  s.takeTrap t cause s.cur.pc0 s.cur.word s.cur.mask addr

/-- Threads of the bundle take a trap together. -/
def State.trapThreads (s : State) (cause : Byte) (ts : List Nat) : State :=
  ts.foldl (fun s t => s.trapWord t cause 0) s

/-- Every thread of the bundle takes the trap (R58, R115). -/
def State.trapBundle (s : State) (cause : Byte) : State := s.trapThreads cause s.cur.threads

/-- No bundle is issuing any more. -/
def State.endWord (s : State) : State := { s with cur := Issue.none }

/-- A register result is outstanding (R31, R81). -/
def Thread.waiting (th : Thread) : Bool := !th.outs.isEmpty

/-- R114, R412: after its word `w`, issued by lanes `mask`, a thread of a stepping warp outside handler mode takes cause 0x10. With
results outstanding under a park marker it is interrupted only after they have returned (R74), so the trap then waits. -/
def State.stepTrap (s : State) (t : Nat) (w mask : Word) : State :=
  let th := s.thread t
  if (s.warpOfThread t).sstep && !th.h && th.live then
    if th.park == .marker then
      s.updThread t (fun th => { th with heldTraps := th.heldTraps ++ [⟨0x10, w, 0, mask⟩] })
    else s.takeTrap t 0x10 th.pc w mask 0
  else s

/-- A thread whose PC is already past its word completes it: with the park marker it parks until its results have returned (R31). -/
def State.finishWord (s : State) (t : Nat) (mark : Bool) (w mask : Word) : State :=
  (s.updThread t (fun th => if mark && th.waiting then { th with park := .marker } else th)).stepTrap t w mask

/-- A thread of the issuing bundle completes its word. -/
def State.finish (s : State) (t : Nat) (mark : Bool) : State := s.finishWord t mark s.cur.word s.cur.mask

/-- A thread parked at an incomplete word completes it: it passes the word under the loop-back rule (R91, R217, R263). -/
def State.completeWord (s : State) (t : Nat) : State :=
  match (s.thread t).park with
  | .word _ next w mark mask =>
    (s.updThread t (fun th => { th with park := .none }.goTo next)).finishWord t mark w mask
  | _ => s

/-- The thread parks at its word until a wait ends (R73). -/
def State.parkWord (s : State) (t : Nat) (k : Wait) (mark : Bool) : State :=
  s.updThread t (fun th => { th with park := .word k (s.cur.pc + 4) s.cur.word mark s.cur.mask })

/-- The address after the word that issues. -/
def Issue.nextPc (c : Issue) : DWord := c.pc + 4

/-- A thread passes the word: it falls through under the loop-back rule (R91). -/
def State.pass (s : State) (t : Nat) (mark : Bool) : State :=
  (s.updThread t (fun th => th.goTo s.cur.nextPc)).finish t mark

/-- A thread whose guard is false only advances its PC (R30). -/
def State.skip (s : State) (t : Nat) : State := s.pass t false

/-- How a thread goes on after its part of a word. -/
inductive Adv where
  /-- It falls through. -/
  | pass
  /-- It continues at an address under the loop-back rule. -/
  | jump (v : DWord)
  /-- It takes a branch. -/
  | branch (g : DWord)
  /-- Its word is not complete: it stays at the word or its group. -/
  | stay
  /-- Its state is set already, but for the park marker and single step. -/
  | set
  /-- It traps. -/
  | trap (cause : Byte) (addr : DWord)
  deriving DecidableEq, Repr

/-- Applies how a thread goes on. -/
def State.goOn (s : State) (t : Nat) (mark : Bool) : Adv → State
  | .pass => s.pass t mark
  | .jump v => (s.updThread t (fun th => th.goTo v)).finish t mark
  | .branch g => (s.updThread t (fun th => th.branchTo g)).finish t mark
  | .stay => s
  | .set => s.finish t mark
  | .trap c a => s.trapWord t c a

/-- Runs a word's part for each participant in ascending lane order (R11). -/
def State.eachLane (s : State) (mark : Bool) (f : State → Nat → State × Adv) : List Nat → State
  | [] => s
  | t :: ts => let r := f s t; (r.1.goOn t mark r.2).eachLane mark f ts

/-! ## Failed stores (R213) -/

/-- R213: the words at which a thread's earlier failed store is reported. -/
def isReportPoint (i : Instr) (g : Guard) (p : Prefixes) : Bool :=
  g.s ||
  match i with
  | .stl .. | .stf .. | .sto .. | .exit .. | .sigrFill .. | .sigrArrel .. => true
  | .atom .. | .cas .. | .red .. => (match p.ord with | some (o, _, _) => o == 3 || o == 4 | none => false)
  | .barv _ k _ _ _ => k != 1
  | .fence _ m c => m == 0 || m == 2 || decide (3 ≤ c.toNat)
  | _ => false

/-- Guard-true threads with a failed store trap at a reporting point with the store's cause and sector; the others go on. -/
def State.reportFailed (s : State) (i : Instr) (g : Guard) : List Nat → State × List Nat
  | [] => (s, [])
  | t :: ts =>
    let th := s.thread t
    if isReportPoint i g s.cur.pfx && guardHolds g th then
      match th.failed with
      | [] => let r := State.reportFailed s i g ts; (r.1, t :: r.2)
      | (c, a) :: fs =>
        ((s.setThread t { th with failed := fs }).trapWord t c a).reportFailed i g ts
    else let r := State.reportFailed s i g ts; (r.1, t :: r.2)

/-! ## Issuing a SIMT word -/

/-- The allotment of the bundle (R44): that of its lowest lane's warp; a bundle holds one launch and role (R75). -/
def State.bundleAllot (s : State) : Nat :=
  match s.cur.threads with
  | [] => 0
  | t :: _ => (s.warpOfThread t).allot

/-- ISSUING A SIMT WORD: with no bundle nothing happens; a decode trap is taken by every thread of the bundle (R58); failed stores are
reported (R213); then `body` acts for the participants, the threads whose guard is true (R11), or traps the bundle's threads (R115);
threads whose guard is false only advance (R30). -/
def State.simt (s : State) (i : Instr) (body : State → List Nat → State × Option Byte) : State :=
  match i.guard? with
  | none => s
  | some g =>
    if s.cur.mem.isEmpty then s else
    match i.decodeCause s.cur.pfx s.bundleAllot with
    | some c => (s.trapBundle c).endWord
    | none =>
      let r := s.reportFailed i g s.cur.threads
      let parts := r.2.filter (fun t => guardHolds g (r.1.thread t))
      let rest := r.2.filter (fun t => !guardHolds g (r.1.thread t))
      match body r.1 parts with
      | (s1, none) => (rest.foldl State.skip s1).endWord
      | (s1, some c) => (s1.trapThreads c r.2).endWord

/-- The park marker of a word (R31). -/
def markOf (i : Instr) : Bool := match i.guard? with | some g => g.s | none => false

/-- A SIMT word that acts on each participant on its own. -/
def State.laneWord (s : State) (i : Instr) (f : State → Nat → State × Adv) : State :=
  s.simt i (fun s ps => (s.eachLane (markOf i) f ps, none))

/-! ## The core's time -/

/-- The threads of a list are next eligible `n` cycles after this one (R112). -/
def State.delay (s : State) (n : Nat) (ts : List Nat) : State :=
  ts.foldl (fun s t => s.updThread t (fun th =>
    { th with readyAt := Nat.max th.readyAt (s.cycleOf (coreOfThread t) + n) })) s

/-- A unit accepts its next bundle `n` cycles from now (R6). -/
def State.occupy (s : State) (unit n : Nat) : State :=
  s.updCore s.cur.core (fun c => { c with busy := Tab.put 0 c.busy unit (c.cycle + n) })

end Sys2Proof.Machine
end

