-- ==== Sys2Proof/Machine/Operands.lean ====
section
/-! DEFINITION. The operand forms: immediates with their extension, pairs, M-format addresses and footprints, and how a computing
word's results are checked (R84 to R87) and written back. -/

namespace Sys2Proof.Machine
open Sys2Proof

/-! ## Immediates and memory operands -/

/-- A signed immediate of `w` bits with the group's extension (R40), as a 32-bit word. -/
def immWord (p : Prefixes) (w : Nat) (f : Nat) : Word := BitVec.ofInt 32 (extInt p w f)

/-- R34, R236: the address of an M-format access: xA plus the signed displacement in units of the size, modulo 2^64. -/
def mAddr (p : Prefixes) (th : Thread) (z : BitVec 3) (a : BitVec 6) (disp : BitVec 5) : DWord :=
  th.pair a.toNat + BitVec.ofInt 64 (extInt p 5 disp.toNat * (szBytes z : Int))

/-- R34: the registers a loaded value of a size code gives, lowest first: zero- or sign-extended below 4 bytes. -/
def szWords (z : BitVec 3) (v : Nat) : List Word :=
  match z.toNat with
  | 0 => [BitVec.ofNat 32 (v % 256)]
  | 1 => [(BitVec.ofNat 8 v).signExtend 32]
  | 2 => [BitVec.ofNat 32 (v % 65536)]
  | 3 => [(BitVec.ofNat 16 v).signExtend 32]
  | 4 => [BitVec.ofNat 32 v]
  | 5 => [BitVec.ofNat 32 v, BitVec.ofNat 32 (v / 2 ^ 32)]
  | 6 => [BitVec.ofNat 32 v, BitVec.ofNat 32 (v / 2 ^ 32), BitVec.ofNat 32 (v / 2 ^ 64), BitVec.ofNat 32 (v / 2 ^ 96)]
  | _ => []

/-- R34: the value a store of a size code writes: the low bytes of its footprint, the lowest register lowest. -/
def szValue (z : BitVec 3) (th : Thread) (d : Nat) : Nat :=
  match z.toNat with
  | 0 | 1 => (th.reg d).toNat % 256
  | 2 | 3 => (th.reg d).toNat % 65536
  | 4 => (th.reg d).toNat
  | 5 => (th.pair d).toNat
  | 6 => (th.pair d).toNat + (th.pair (d + 2)).toNat * 2 ^ 64
  | _ => 0

/-- The registers of a footprint, lowest first. -/
def footprint (d n : Nat) : List Nat := (List.range n).map (fun k => d + k)

/-- The K-format operand: KV, or register v in its bits [9:4] (R32). -/
def kOperand (th : Thread) (x : BitVec 1) (v : BitVec 10) : Word :=
  if x == 1 then th.reg (v.extractLsb' 4 6).toNat else v.zeroExtend 32

/-! ## Results of a computing word -/

/-- What a computing word gives in one lane: register and predicate writes, flags to add, and the next stochastic-rounding state. -/
structure LaneOut where
  regs : List (Nat × Word) := []
  preds : List (Nat × Bool) := []
  flags : BitVec 5 := 0
  seed : Option Word := none
  deriving DecidableEq, Repr

/-- One register result. -/
def LaneOut.one (d : BitVec 6) (v : Word) : LaneOut := { regs := [(d.toNat, v)] }

/-- A result as a datapath with a fault gives it (R86): the fault's mask is added to every register result, and its bit 0 to every
predicate result. -/
def LaneOut.on (m : Word) (o : LaneOut) : LaneOut :=
  if m = 0 then o
  else { o with regs := o.regs.map (fun r => (r.1, r.2 ^^^ m)), preds := o.preds.map (fun r => (r.1, r.2 != m.getLsbD 0)) }

/-- The datapath units of R86 and R403: integer, floating point with SFU, address. -/
inductive Pipe where
  | int | fp | addr
  deriving DecidableEq, Repr

/-- A pipe's place in the fault table and in the histogram record (R403). -/
def Pipe.base : Pipe → Nat
  | .int => 0 | .fp => 32 | .addr => 64

/-- The fault mask of a core's datapath. -/
def State.faultMask (s : State) (core : Nat) (p : Pipe) (dp : Nat) : Word :=
  Tab.get 0 (s.coreAt core).dpFault (p.base + dp % 32)

/-- R87, R403: the saturating mismatch counter of a core rises by 1. -/
def State.countMismatch (s : State) (core idx : Nat) : State :=
  let k := 101 * core + idx
  let n := Tab.get 0 s.dev.hist k
  { s with dev := { s.dev with hist := Tab.put 0 s.dev.hist k (if n = 0xFFFF then n else n + 1) } }

/-- R84, R366: the checked-issue mode of the bundle: that of its launch, 0 OFF, 1 FULL, 2 SAMPLE. -/
def State.checkMode (s : State) : Nat :=
  match s.cur.threads with
  | [] => 0
  | t :: _ => match s.launch? (s.warpOfThread t).lid with | none => 0 | some l => l.chk

/-- R85: whether the bundle is checked; under SAMPLE the core's counter rises by 1. -/
def State.drawCheck (s : State) : State × Bool :=
  match s.checkMode with
  | 1 => (s, true)
  | 2 =>
    (s.updCore s.cur.core (fun c => { c with samples := c.samples + 1 }), (s.coreAt s.cur.core).samples % 16 == 0)
  | _ => (s, false)

/-- R86, R87: the value two of three passes agree on, with the pass in a minority when the first two disagree: only those lanes are
recorded (R87's worked case). -/
def majority {V : Type} [DecidableEq V] (a b c : V) : Option (V × Option Nat) :=
  if a = b then some (a, none)
  else if a = c then some (a, some 1)
  else if b = c then some (b, some 0)
  else none

/-- R86, R87: the third pass, lane by lane: each lane's majority, counting every datapath in a minority; none if some lane has none. -/
def State.thirdPass {V : Type} [DecidableEq V] (s : State) (p : Pipe) (corrupt : Word → V → V) :
    List (Nat × V) → State × Option (List (Nat × V))
  | [] => (s, some [])
  | (t, v) :: r =>
    let core := s.cur.core
    let on := fun k => corrupt (s.faultMask core p (laneOf t + k)) v
    match majority (on 0) (on 1) (on 2) with
    | none => ((State.thirdPass s p corrupt r).1, none)
    | some (x, m) =>
      let s1 := match m with | none => s | some k => s.countMismatch core (p.base + (laneOf t + k) % 32)
      match State.thirdPass s1 p corrupt r with
      | (s2, none) => (s2, none)
      | (s2, some xs) => (s2, some ((t, x) :: xs))

/-- CHECKED ISSUE (R84 to R87): the lanes' values as the datapaths give them, in one pass, or compared over two or three passes; none
when a lane's three passes all differ. The number counts the passes. -/
def State.check {V : Type} [DecidableEq V] (s : State) (p : Pipe) (corrupt : Word → V → V) (outs : List (Nat × V)) :
    State × Option (List (Nat × V)) × Nat :=
  let r := s.drawCheck
  let core := s.cur.core
  let first := outs.map (fun o => (o.1, corrupt (s.faultMask core p (laneOf o.1)) o.2))
  if r.2 then
    if first = outs.map (fun o => (o.1, corrupt (s.faultMask core p (laneOf o.1 + 1)) o.2)) then (r.1, some first, 2)
    else let q := r.1.thirdPass p corrupt outs; (q.1, q.2, 3)
  else (r.1, some first, 1)

/-- The interlock number of a predicate (R80); %FPFLAGS is 72, %FPMODE 73 and %SRSEED 74. -/
def predMark (p : Nat) : Nat := 64 + p

/-- The interlock marks of a predicate: p7 is no result, since a write to it is discarded and it always reads as 1 (R46). -/
def predMarks (p : Nat) : List Nat := if p = 7 then [] else [predMark p]

/-- R148, R150: the words that may set a flag, of which %FPFLAGS is an implicit destination. -/
def mayFlag : Instr → Bool
  | .fadd .. | .fsub .. | .fmul .. | .fma .. | .fmin .. | .fmax .. | .fsetp .. | .frnd .. | .rcp .. | .rsq .. | .sqrt .. | .ex2 .. | .lg2 .. | .sin ..
  | .cos .. | .hadd2 .. | .hmul2 .. | .hfma2 .. | .hmm2 .. | .cvtf .. | .cvtp .. | .cvti .. | .mxq .. | .mxd .. => true
  | _ => false

/-- The interlock marks of a word's results in a lane (R80, R150). -/
def LaneOut.marks (i : Instr) (o : LaneOut) : List Nat :=
  o.regs.map Prod.fst ++ o.preds.flatMap (fun r => predMarks r.1) ++ (if mayFlag i then [72] else []) ++
  (match o.seed with | none => [] | some _ => [74])

/-- Results named by `ms` may be used from cycle `n` on (R80), and not before what is on its way to them already. -/
def Thread.readyFrom (th : Thread) (n : Nat) (ms : List Nat) : Thread :=
  { th with rdy := ms.foldl (fun r m => Tab.put 0 r m (Nat.max n (Tab.get 0 r m))) th.rdy }

/-- A lane's results written to its thread. -/
def Thread.write (th : Thread) (o : LaneOut) : Thread :=
  let th1 := (th.setRegs o.regs).setPreds o.preds
  { th1 with fpflags := th1.fpflags ||| o.flags, srseed := o.seed.getD th1.srseed }

/-- Writes back one lane and lets its thread pass the word. -/
def State.writeBack (s : State) (i : Instr) (lat : Nat) (o : Nat × LaneOut) : State :=
  (s.updThread o.1 (fun th => (th.write o.2).readyFrom (s.cycleOf s.cur.core + lat) (o.2.marks i))).pass o.1 (markOf i)

/-- A COMPUTING WORD (OP 0x10 to 0x4F): every participant's result is computed from the state before the word (R116), checked as the
launch's mode asks (R86), and written; `unit` is 0 the integer pipe, 1 the FP pipe, 2 the SFU, `lat` the latency and `occ` the
occupancy before checking, once for each pass, in a bundle that traps too (R87). -/
def State.compute (s : State) (i : Instr) (p : Pipe) (unit lat occ : Nat) (f : State → List Nat → Nat → LaneOut) : State :=
  s.simt i (fun s ps =>
    match s.check p LaneOut.on (ps.map (fun t => (t, f s ps t))) with
    | (s1, none, n) => (s1.occupy unit (occ * n), some 0x14)
    | (s1, some outs, n) => (outs.foldl (fun s o => s.writeBack i (lat + (n - 1)) o) (s1.occupy unit (occ * n)), none))

end Sys2Proof.Machine
end

