-- ==== Sys2Proof/Machine/Packets.lean ====
section
/-! DEFINITION. The packet plane: routing in dimension order, the output ports' arbitration, sequence numbers, and the requests
of this device's endpoint (R292 to R300). -/

namespace Sys2Proof.Machine
open Sys2Proof

/-! ## The Lodge's configuration (R302) -/

/-- This device's id. -/
def State.devId (s : State) : BitVec 12 := s.lodge.ldcfg.extractLsb' 0 12
/-- The ring size of a dimension, 0 x, 1 y, 2 z. -/
def Lodge.ring (l : Lodge) (dim : Nat) : Nat := l.ldcfg.toNat / 2 ^ (12 + 4 * dim) % 16 + 1
/-- HBMS, the heartbeat limit. -/
def Lodge.hbms (l : Lodge) : Nat := l.ldcfg.toNat / 2 ^ 24 % 16
/-- A coordinate of a device id (R14). -/
def coordOf (d : BitVec 12) (dim : Nat) : Nat := d.toNat / 2 ^ (4 * dim) % 16

/-! ## Routing (R292) -/

/-- Where a packet goes next. -/
inductive Hop where
  | here
  | link (k : Nat)
  | down
  deriving DecidableEq, Repr

/-- R292: x first, then y, then z, the shorter way round, + when both are equally long. -/
def Lodge.routeDim (l : Lodge) (me d : BitVec 12) : List Nat → Hop
  | [] => .here
  | dim :: rest =>
    let n := l.ring dim
    let a := coordOf me dim
    let b := coordOf d dim
    if a = b then l.routeDim me d rest
    else if (b + n - a) % n ≤ (a + n - b) % n then .link (2 * dim) else .link (2 * dim + 1)

/-- The next hop of a packet for a device; one that names a coordinate at or above its ring size counts as one for a down link (R292). -/
def State.route (s : State) (dst : BitVec 12) : Hop :=
  if [0, 1, 2].any (fun dim => decide (s.lodge.ring dim ≤ coordOf dst dim)) then .down else s.lodge.routeDim s.devId dst [0, 1, 2]

/-! ## Output ports (R298) -/

/-- An output port. -/
def Lodge.port (l : Lodge) (k : Nat) : OutPort := Tab.get OutPort.init l.ports k
/-- Replaces an output port. -/
def Lodge.setPort (l : Lodge) (k : Nat) (p : OutPort) : Lodge := { l with ports := Tab.put OutPort.init l.ports k p }

/-- The tier has a packet waiting. -/
def OutPort.has (p : OutPort) (tier : Nat) : Bool := p.waiting.any (fun e => e.2.tier.toNat == tier)

/-- R298: the tier that is granted: T2 or T3 when its counter has reached 64, T2 first; else the highest tier. -/
def OutPort.tierNext (p : OutPort) : Nat :=
  if decide (64 ≤ p.c2) && p.has 2 then 2
  else if decide (64 ≤ p.c3) && p.has 3 then 3
  else if p.has 1 then 1 else if p.has 2 then 2 else 3

/-- Within a tier the input ports take turns: the first packet of the next input port after the last granted. -/
def OutPort.inputNext (p : OutPort) (tier : Nat) : Option (Nat × Packet) :=
  let start := Tab.get 0 p.last tier
  (List.range 7).findSome? (fun k =>
    let port := (start + 1 + k) % 7
    p.waiting.find? (fun e => e.1 == port && e.2.tier.toNat == tier))

/-- The list without the first element that equals one. -/
def dropFirst {A : Type} [DecidableEq A] (a : A) : List A → List A
  | [] => []
  | x :: xs => if x = a then xs else x :: dropFirst a xs

/-- R298: one grant of an output port: the packet granted, and the port with its counters. -/
def OutPort.grant (p : OutPort) : Option (Packet × OutPort) :=
  let t := p.tierNext
  match p.inputNext t with
  | none => none
  | some e =>
    let q := { p with waiting := dropFirst e p.waiting, last := Tab.put 0 p.last t e.1 }
    some (e.2,
      { q with
        c2 := if t = 2 then 0 else if t = 1 && q.has 2 then p.c2 + 1 else p.c2,
        c3 := if t = 3 then 0 else if q.has 3 then p.c3 + 1 else p.c3 })

/-- Grants packets of a link's port to its link while it has any. -/
def Lodge.drain (l : Lodge) (k : Nat) : Nat → Lodge
  | 0 => l
  | f + 1 =>
    match (l.port k).grant with
    | none => l
    | some (p, port) => ({ (l.setPort k port) with wire := l.wire ++ [(k, p)] }).drain k f

/-- A link is up (R300). -/
def Lodge.isUp (l : Lodge) (k : Nat) : Bool := l.linkup.getLsbD k
/-- A link has failed to retrain and is down (R300). -/
def Lodge.isDown (l : Lodge) (k : Nat) : Bool := l.linkdown.getLsbD k

/-- A packet queued at an output port from an input port; the link carries it unless it is retraining, in which case it waits (R307). -/
def Lodge.queueOut (l : Lodge) (k input : Nat) (p : Packet) : Lodge :=
  let port := l.port k
  let l1 := l.setPort k { port with waiting := port.waiting ++ [(input, p)] }
  if l.isUp k then l1.drain k (port.waiting.length + 1) else l1

/-! ## Forwarding (R300) -/

/-- The types that a request has: READ, WRITE, ATOMIC, SIGNAL (R294). -/
def isRequest (ty : BitVec 4) : Bool := ty == 0 || ty == 2 || ty == 3 || ty == 4
/-- The sequenced types: 0, 2 to 6 and 8 (R295). -/
def isSequenced (ty : BitVec 4) : Bool := ty == 0 || (decide (2 ≤ ty.toNat) && decide (ty.toNat ≤ 6)) || ty == 8

/-- The ABSENT that answers a request (R295: it carries the request's SEQ and TAG). -/
def absentFor (me : BitVec 12) (p : Packet) : Packet :=
  { src := me, dst := p.src, tier := p.tier, type := 7, seq := p.seq, len := 0, first := false, tag := p.tag, addr := p.addr, body := .absent }

/-- Sends a packet that is no request from an input port: over its link, to this device, or dropped and counted (R300). -/
def State.forwardAnswer (s : State) (input : Nat) (p : Packet) : State :=
  match s.route p.dst with
  | .here => { s with lodge := { s.lodge with wire := s.lodge.wire ++ [(6, p)] } }
  | .link k =>
    if s.lodge.isDown k then { s with lodge := { s.lodge with orphcnt := s.lodge.orphcnt + 1 } }
    else { s with lodge := s.lodge.queueOut k input p }
  | .down => { s with lodge := { s.lodge with orphcnt := s.lodge.orphcnt + 1 } }

/-- FORWARDING (R292, R298, R300): over a down link a request is answered with ABSENT, and anything else is dropped and counted. -/
def State.forward (s : State) (input : Nat) (p : Packet) : State :=
  let isDown := match s.route p.dst with | .here => false | .link k => s.lodge.isDown k | .down => true
  if isDown && isRequest p.type then s.forwardAnswer 6 (absentFor s.devId p) else s.forwardAnswer input p

/-! ## This device's packets (R293, R295, R299) -/

/-- The payload bytes of a body (R293, R294, R463). -/
def payloadOf : Body → Nat
  | .read .. => 0
  | .write d _ => d.length
  | .coll _ d => 48 + d.length
  | .atomic _ w xs => xs.length * (if w then 16 else 8)
  | .signal _ w _ => if w then 8 else 4
  | .reply _ d => if d.isEmpty then 1 else 8 + d.length
  | .absent => 0
  | .withdraw => 0
  | .circuit => 0
  | .gang b => b.length

/-- R293: the flits after the first that a payload needs. -/
def flitsAfter (n : Nat) : BitVec 3 := BitVec.ofNat 3 (if n ≤ 48 then 0 else (n - 48 + 63) / 64)

/-- R295: a sequenced packet gets the next number of its destination and tier, and FIRST if it is the first since the island reset. -/
def State.sendSequenced (s : State) (tier : BitVec 2) (ty : BitVec 4) (dst : BitVec 12) (tag : BitVec 14) (addr : DWord) (b : Body) : State :=
  let k := dst.toNat * 4 + tier.toNat
  let n := Tab.get 0 s.lodge.seqTx k
  let p : Packet :=
    { src := s.devId, dst := dst, tier := tier, type := ty, seq := BitVec.ofNat 16 n, len := flitsAfter (payloadOf b),
      first := !(Tab.get false s.lodge.seqFirst k), tag := tag, addr := addr, body := b }
  ({ s with lodge := { s.lodge with
      seqTx := Tab.put 0 s.lodge.seqTx k ((n + 1) % 65536), seqFirst := Tab.put false s.lodge.seqFirst k true } }).forward 6 p

/-- The reply slots of a tier (R299). -/
def slotsOf (tier : BitVec 2) : Nat := if tier == 3 then 1024 else 8192

/-- The lowest free reply slot of a tier. -/
def Lodge.freeSlot (l : Lodge) (tier : BitVec 2) : Option Nat :=
  let used := (l.outs.filter (fun r => r.phase == 0 && r.pkt.tier == tier)).map (fun r => r.slot)
  if slotsOf tier ≤ used.length then none else (List.range (used.length + 1)).find? (fun n => !used.contains n)

/-- The TAG of a request: the current epoch and its reply slot (R293). -/
def Lodge.tagOf (l : Lodge) (slot : Nat) : BitVec 14 := BitVec.ofNat 14 ((if l.epoch then 8192 else 0) + slot % 8192)

/-- A request waits until it can be sent, and fails if the endpoint is not ATTACHED; `p` carries tier, type, destination, address and body. -/
def State.sendNow (s : State) (o : ReqOwner) (p : Packet) : State :=
  if s.lodge.epst != 1 then { s with lodge := { s.lodge with outs := s.lodge.outs ++ [OutReq.mk 0 o p 3] } }
  else match s.lodge.freeSlot p.tier with
  | none => { s with lodge := { s.lodge with outs := s.lodge.outs ++ [OutReq.mk 0 o p 1] } }
  | some slot =>
    let tag := s.lodge.tagOf slot
    let s1 := { s with lodge := { s.lodge with outs := s.lodge.outs ++ [OutReq.mk slot o { p with tag := tag } 0] } }
    s1.sendSequenced p.tier p.type p.dst tag p.addr p.body

/-- A REQUEST OF THIS DEVICE (R299): it takes a reply slot, or waits for one, and is numbered and sent. -/
def State.request (s : State) (o : ReqOwner) (tier : BitVec 2) (ty : BitVec 4) (dst : BitVec 12) (addr : DWord) (b : Body) : State :=
  s.sendNow o { src := s.devId, dst := dst, tier := tier, type := ty, seq := 0, len := flitsAfter (payloadOf b), first := false, tag := 0,
                addr := addr, body := b }

/-- Sends the requests that wait for a slot, oldest first, while slots are free. -/
def State.sendWaiting (s : State) : State :=
  let ws := s.lodge.outs.filter (fun r => r.phase == 1)
  ws.foldl (fun s r =>
    if (s.lodge.freeSlot r.pkt.tier).isSome then
      ({ s with lodge := { s.lodge with outs := dropFirst r s.lodge.outs } }).sendNow r.owner r.pkt
    else s) s

end Sys2Proof.Machine
end

