-- ==== Sys2Proof/Machine/Memory.lean ====
section
/-! DEFINITION. The memories: the homes and their bytes, the L1, page tables and translation caches, the checks of an access, tags
and tagged words, and how a core's access reaches its home. -/

namespace Sys2Proof.Machine
open Sys2Proof

/-! ## Homes (R194, R200) -/

/-- The place where an access is performed. -/
inductive Home where
  | slice (core off : Nat)
  | stacked (die pa : Nat)
  | outer (pa : Nat)
  | host (pa : Nat)
  | remote (dev : BitVec 12) (va : Nat)
  deriving DecidableEq, Repr

/-- The bytes of a slice (R17). -/
def sliceBytes : Nat := 8388608

/-- The number of a place's first byte in the model's one memory: each memory has a range of its own. -/
def Home.key : Home → Nat
  | .slice c o => c * 8388608 + o
  | .stacked d pa => 2 ^ 60 + d * 2 ^ 52 + pa
  | .outer pa => 2 ^ 61 + pa
  | .host pa => 2 ^ 72 + pa
  | .remote d va => 2 ^ 63 + d.toNat * 2 ^ 56 + va

/-- The place is on another device. -/
def Home.isRemote : Home → Bool | .remote .. => true | _ => false
/-- The place is in a slice. -/
def Home.isSlice : Home → Bool | .slice .. => true | _ => false
/-- The place is in host memory. -/
def Home.isHost : Home → Bool | .host .. => true | _ => false

/-- The place `n` bytes further on. -/
def Home.plus (h : Home) (n : Nat) : Home :=
  match h with
  | .slice c o => .slice c (o + n)
  | .stacked d pa => .stacked d (pa + n)
  | .outer pa => .outer (pa + n)
  | .host pa => .host (pa + n)
  | .remote d va => .remote d (va + n)

/-- R17: the memory has no such bytes: a die has 32 GiB of stacked DRAM and the package 1,024 GiB of outer memory. -/
def Home.missing (h : Home) (n : Nat) : Bool :=
  match h with
  | .stacked _ pa => decide (2 ^ 35 < pa + n)
  | .outer pa => decide (2 ^ 40 < pa + n)
  | _ => false

/-- R194: the narrowest scope that encloses a core and the place: 1 CORE, 2 DIE, 3 DEV, 4 FAB. -/
def Home.scope (h : Home) (core : Nat) : Nat :=
  match h with
  | .slice c _ => if c = core then 1 else if dieOf c = dieOf core then 2 else 3
  | .stacked d _ => if d = dieOf core then 2 else 3
  | .outer _ => 3
  | .host _ => 4
  | .remote .. => 4

/-! ## Bytes -/

/-- The free value's number of a key in a range whose contents are undefined (R433, R438, assumption 3). -/
def lostAt (l : List (Nat × Nat × Nat)) (k : Nat) : Option Nat :=
  (l.find? (fun r => decide (r.1 ≤ k) && decide (k < r.2.1))).map (fun r => r.2.2 + (k - r.1))

/-- Ranges of undefined contents without the keys from `lo` up to `hi`, which have been written. -/
def cutLost (l : List (Nat × Nat × Nat)) (lo hi : Nat) : List (Nat × Nat × Nat) :=
  l.flatMap (fun r =>
    if decide (hi ≤ r.1) || decide (r.2.1 ≤ lo) then [r]
    else (if r.1 < lo then [(r.1, lo, r.2.2)] else []) ++ (if hi < r.2.1 then [(hi, r.2.1, r.2.2 + (hi - r.1))] else []))

/-- The parts of ranges of undefined contents that lie from `lo` up to `hi`, moved to stand from `k` on. -/
def moveLost (l : List (Nat × Nat × Nat)) (lo hi k : Nat) : List (Nat × Nat × Nat) :=
  (l.filter (fun r => decide (lo < r.2.1) && decide (r.1 < hi))).map (fun r =>
    (Nat.max lo r.1 - lo + k, Nat.min hi r.2.1 - lo + k, r.2.2 + (Nat.max lo r.1 - r.1)))

/-- The key of a slice word's tag, by the key of a byte in the word, among the ranges of undefined contents. -/
def tagLostKey (k : Nat) : Nat := 2 ^ 70 + k / 8
/-- The key of a slice line's swizzle id, by the key of a byte in the line. -/
def swzLostKey (k : Nat) : Nat := 2 ^ 71 + k / 256

/-- THE CANONICAL FORM OF MEMORY: addresses strictly rising, and no entry equal to the 0 that an unlisted address reads as. -/
def Memory.wf (m : List Host.Cell) : Bool := Tab.wf 0 m

/-- One byte of the model's memory; unlisted bytes read 0 (R199; host memory and remote keys by choice, assumption 6), bytes of
undefined contents a free value. -/
def State.byte (s : State) (k : Nat) : Byte :=
  match lostAt s.lost k with
  | some i => Config.freeByte i
  | none => Tab.get 0 s.mem k
/-- `n` bytes from key `k`. -/
def State.getBytes (s : State) (k n : Nat) : List Byte := (List.range n).map (fun i => s.byte (k + i))
/-- Bytes written from key `k` on. -/
def putAll (m : Tab Byte) (k : Nat) : List Byte → Tab Byte
  | [] => m
  | b :: bs => putAll (Tab.put 0 m k b) (k + 1) bs

/-- R212: a store that writes a whole 32-byte sector clears its uncorrectable mark. -/
def clearMarks (m : Tab Bool) (k n : Nat) : Tab Bool :=
  m.filter (fun e => !(decide (k ≤ 32 * e.1) && decide (32 * e.1 + 32 ≤ k + n)))

/-- Writes bytes at a key. -/
def State.putBytes (s : State) (k : Nat) (bs : List Byte) : State :=
  { s with mem := putAll s.mem k bs, poison := clearMarks s.poison k bs.length, lost := cutLost s.lost k (k + bs.length) }

/-- A range of a memory reads zero. -/
def State.zeroRange (s : State) (k n : Nat) : State :=
  { s with mem := Tab.drop s.mem k (k + n), poison := Tab.drop s.poison (k / 32) ((k + n) / 32), lost := cutLost s.lost k (k + n) }

/-- R212: some byte of the range is marked uncorrectable. -/
def State.marked (s : State) (k n : Nat) : Bool :=
  s.poison.any (fun e => e.2 && decide (32 * e.1 < k + n) && decide (k < 32 * e.1 + 32))

/-- An access to a place that does not exist is remembered; the step then stops with the fault noSuchMemory. -/
def State.touch (s : State) (h : Home) (n : Nat) : State := if h.missing n then { s with hole := true } else s

/-- The number that bytes give, lowest first (R2). -/
def State.loadNat (s : State) (k n : Nat) : Nat := leNat (s.getBytes k n)
/-- Writes the low `n` bytes of a number (R2). -/
def State.storeNat (s : State) (k n v : Nat) : State := s.putBytes k (leBytes n v)

/-- R200: a slice offset at or above 8 MiB less the carve-out of the home core's launch is refused at the home. -/
def State.refusedAt (s : State) (h : Home) (n : Nat) : Bool :=
  match h with
  | .slice c o => decide (sliceBytes - (s.coreAt c).carve < o + n)
  | _ => false

/-! ## The L1 (R196, R460) -/

/-- A sector of a core's L1. -/
def State.l1At (s : State) (c k : Nat) : L1Sector := Tab.get L1Sector.init (s.coreAt c).l1 k
/-- Replaces a sector of a core's L1. -/
def State.setL1 (s : State) (c k : Nat) (x : L1Sector) : State :=
  s.updCore c (fun x0 => { x0 with l1 := Tab.put L1Sector.init x0.l1 k x })

/-- A byte of a sector. -/
def L1Sector.byte (x : L1Sector) (i : Nat) : Byte := x.bytes.extractLsb' (8 * i) 8
/-- A sector's bytes with byte `i` replaced. -/
def setByte (x : BitVec 256) (i : Nat) (b : Byte) : BitVec 256 :=
  (x &&& ~~~(0xFF#256 <<< (8 * i))) ||| (b.zeroExtend 256 <<< (8 * i))
/-- A sector's bytes with several replaced from byte `i` on. -/
def setBytes (x : BitVec 256) (i : Nat) : List Byte → BitVec 256
  | [] => x
  | b :: bs => setBytes (setByte x i b) (i + 1) bs
/-- The mask of `n` bytes from byte `i`. -/
def byteMask (i n : Nat) : BitVec 32 := BitVec.ofNat 32 ((2 ^ n - 1) * 2 ^ i)

/-- The bytes of a sector that a mask names, as (offset, byte). -/
def L1Sector.picked (x : L1Sector) (m : BitVec 32) : List (Nat × Byte) :=
  ((List.range 32).filter (fun i => m.getLsbD i)).map (fun i => (i, x.byte i))

/-- Bytes at rising offsets, gathered into runs. -/
def runsOf : List (Nat × Byte) → List (Nat × List Byte)
  | [] => []
  | (i, b) :: r =>
    match runsOf r with
    | [] => [(i, [b])]
    | (j, bs) :: rs => if j = i + 1 then (i, b :: bs) :: rs else (i, [b]) :: (j, bs) :: rs

/-- The device and address of a remote key. -/
def remoteOf (k : Nat) : BitVec 12 × DWord := (BitVec.ofNat 12 ((k - 2 ^ 63) / 2 ^ 56), BitVec.ofNat 64 ((k - 2 ^ 63) % 2 ^ 56))

/-- Sectors that are on their way from other devices to a core's L1 are not kept when they come, where a test accepts their number. -/
def State.forgetFills (s : State) (c : Nat) (p : Nat → Bool → Bool) : State :=
  { s with lodge := { s.lodge with outs := s.lodge.outs.map (fun r =>
      match r.owner with
      | .fill core key t id n z uo pol _ =>
        if core == c && p (key / 32) uo then { r with owner := .fill core key t id n z uo pol false } else r
      | _ => r) } }

/-- R196: the dirty bytes of a sector go to their home: written, or for a REMOTE line sent as WRITE packets whose failures are
reported to the threads that stored them. -/
def State.writeBackSector (s : State) (c k : Nat) : State :=
  let x := s.l1At c k
  if x.dirty = 0 then s else
  let s1 := (s.forgetFills c (fun j _ => j == k)).setL1 c k (if x.valid then { x with dirty := 0, who := [] } else L1Sector.init)
  (runsOf (x.picked x.dirty)).foldl (fun s r =>
    let key := 32 * k + r.1
    if decide (key < 2 ^ 63) || decide (2 ^ 72 ≤ key) then s.putBytes key r.2
    else let d := remoteOf key; (s.freshId.2).request (.back c x.who d.2 s.ids) 1 2 d.1 d.2 (.write r.2 .plain)) s1

/-- A sector leaves the L1, its dirty bytes written back first. -/
def State.dropSector (s : State) (c k : Nat) : State :=
  ((s.writeBackSector c k).forgetFills c (fun j _ => j == k)).setL1 c k L1Sector.init

/-- Writes back every dirty sector of a core that a test accepts. -/
def State.writeBackL1 (s : State) (c : Nat) (p : L1Sector → Bool) : State :=
  ((s.coreAt c).l1.filter (fun e => p e.2)).foldl (fun s e => s.writeBackSector c e.1) s

/-- Invalidates the clean sectors of a core that a test accepts; a sector with dirty bytes keeps those alone. -/
def State.invalidateL1 (s : State) (c : Nat) (p : L1Sector → Bool) : State :=
  s.updCore c (fun x => { x with l1 := (x.l1.filter (fun e => !(p e.2) || e.2.dirty != 0)).map (fun e =>
    if p e.2 && e.2.valid then (e.1, { e.2 with valid := false }) else e) })

/-- The lines a core's L1 holds. -/
def Core.l1Lines (c : Core) : List Nat := (c.l1.map (fun e => e.1 / 8)).eraseDups

/-- The sectors of a line. -/
def lineSectors (line : Nat) : List Nat := (List.range 8).map (fun i => 8 * line + i)

/-- R196: a line is marked by the policy of its sectors. -/
def Core.linePol (c : Core) (line : Nat) (p : BitVec 3) : Bool := c.l1.any (fun e => e.1 / 8 == line && e.2.pol == p)

/-- R196: room for a line: when the L1 is full, a STRM line leaves first, a KEEP line last while KEEP lines fill at most half; which of
several is a free choice (assumption 3). -/
def State.roomInL1 (s : State) (c k : Nat) : State :=
  let core := s.coreAt c
  let lines := core.l1Lines
  let cap := core.carve / 256
  if lines.contains (k / 8) || decide (lines.length < cap) then s else
  let strm := lines.filter (fun l => core.linePol l 1)
  let keep := lines.filter (fun l => core.linePol l 2)
  let plain := lines.filter (fun l => !core.linePol l 2)
  let cand := if !strm.isEmpty then strm else if decide (keep.length ≤ cap / 2) && !plain.isEmpty then plain else lines
  match cand[Config.freeChoice s.free % cand.length]? with
  | none => s
  | some l => (lineSectors l).foldl (fun s k => s.dropSector c k) { s with free := s.free + 1 }

/-- What reading a place gives. -/
inductive Got where
  | bytes (bs : List Byte)
  | bad (cause : Byte)
  | later
  deriving DecidableEq, Repr

/-- Reads a place of this device at its home: refused (cause 0x06), marked (cause 0x13), or its bytes (R200, R212). -/
def State.readHome (s : State) (h : Home) (n : Nat) : State × Got :=
  if s.refusedAt h n then (s, .bad 6)
  else if s.marked h.key n then (s.touch h n, .bad 0x13)
  else (s.touch h n, .bytes (s.getBytes h.key n))

/-- The sector of a place, and the place's offset in it. -/
def Home.sector (h : Home) : Nat := h.key / 32
/-- The offset of a place in its sector. -/
def Home.inSector (h : Home) : Nat := h.key % 32

/-- The sector number's place. -/
def Home.sectorHome (h : Home) : Home :=
  match h with
  | .slice c o => .slice c (o - o % 32)
  | .stacked d pa => .stacked d (pa - pa % 32)
  | .outer pa => .outer (pa - pa % 32)
  | .host pa => .host (pa - pa % 32)
  | .remote d va => .remote d (va - va % 32)

/-- A sector fetched from its home: its bytes under the dirty bytes the L1 holds (R196). -/
def L1Sector.filled (x : L1Sector) (bs : List Byte) (uo : Bool) (pol : BitVec 3) : L1Sector :=
  { x with bytes := (x.picked x.dirty).foldl (fun v e => setByte v e.1 e.2) (setBytes 0 0 bs), valid := true, uo := uo, pol := pol }

/-- R196: the L1 of a core holds `n` bytes of a place. -/
def State.l1Hits (s : State) (c : Nat) (h : Home) (n : Nat) : Bool :=
  let x := s.l1At c h.sector
  let m := byteMask h.inSector n
  x.valid || (x.dirty &&& m) == m

/-- R196, R460: a read of `n` bytes through the L1. A REMOTE miss answers `later`: the sector must come from its device. -/
def State.l1Read (s : State) (c : Nat) (h : Home) (n : Nat) (uo : Bool) (pol : BitVec 3) : State × Got :=
  let k := h.sector
  let x := s.l1At c k
  let pickN := fun (y : L1Sector) => (List.range n).map (fun i => y.byte (h.inSector + i))
  if s.l1Hits c h n then (s, .bytes (pickN x))
  else if h.isRemote then (s, .later)
  else
    match s.readHome h.sectorHome 32 with
    | (s1, .bytes bs) =>
      let y := x.filled bs uo pol
      (((s1.roomInL1 c k).setL1 c k y), .bytes (pickN y))
    | r => r

/-- R196: a store through the L1 allocates without fetching and writes its bytes as dirty. -/
def State.l1Write (s : State) (c : Nat) (h : Home) (bs : List Byte) (uo : Bool) (pol : BitVec 3) (t : Nat) : State :=
  let k := h.sector
  let s1 := s.roomInL1 c k
  let x := s1.l1At c k
  s1.setL1 c k
    { x with bytes := setBytes x.bytes h.inSector bs, dirty := x.dirty ||| byteMask h.inSector bs.length, uo := uo, pol := pol,
             who := if x.who.contains t then x.who else x.who ++ [t] }

/-! ## Page-table entries (R200 to R203) -/

/-- A field of a page-table entry. -/
def pteField (e : BitVec 128) (lo n : Nat) : Nat := e.toNat / 2 ^ lo % 2 ^ n
/-- The page-size shift of a size index: 64 KiB, 2 MiB, 512 MiB (R205). -/
def sizeShift (i : Nat) : Nat := if i = 0 then 16 else if i = 1 then 21 else 29
/-- R203: an entry that is unmapped whatever its state: ORD 11, a reserved TGT or a nonzero reserved field. -/
def pteBad (e : BitVec 128) : Bool :=
  pteField e 9 2 == 3 || decide (5 ≤ pteField e 6 3) || pteField e 66 10 != 0 || pteField e 56 8 != 0
/-- R200: the place an address translates to under an entry of a page of 2^shift bytes. -/
def pteHome (e : BitVec 128) (shift va : Nat) : Home :=
  let o := va % 2 ^ shift
  let pa := pteField e 16 36 * 65536 / 2 ^ shift * 2 ^ shift + o
  match pteField e 6 3 with
  | 0 => .stacked (pteField e 76 3) pa
  | 1 => .outer pa
  | 2 => .slice (pteField e 76 10) pa
  | 3 => .remote (BitVec.ofNat 12 (pteField e 76 12)) (pteField e 16 40 * 65536 / 2 ^ shift * 2 ^ shift + o)
  | _ => .host pa

/-- What translating an address gives (R201). -/
inductive Xlat where
  | unmapped
  | onDemand
  | mapped (e : BitVec 128) (size : Nat)
  deriving DecidableEq, Repr

/-- R201, R203: what an entry that covers the address says. -/
def Xlat.ofPte (e : BitVec 128) (size : Nat) : Xlat :=
  if pteBad e then .unmapped
  else if e.getLsbD 1 then .mapped e size
  else if e.getLsbD 2 then .onDemand else .unmapped

/-! ## Translation tables and caches (R204 to R208) -/

/-- R205: the multiplicative constants of the three ways. -/
def cuckooC (j : Nat) : Nat :=
  if j = 0 then 0x9E3779B97F4A7C15 else if j = 1 then 0xC2B2AE3D27D4EB4F else 0x165667B19E3779F9
/-- R205: the index of way `j` in a table of 2^n entries per way. -/
def cuckooIndex (j vpn n : Nat) : Nat := vpn * cuckooC j % 2 ^ 64 / 2 ^ (64 - n)

/-- A partition's table descriptor of a page size. -/
def Part.descOf (p : Part) (size : Nat) : Desc := Tab.get Desc.init p.desc size

/-- R205: the outer-memory address of the entry that a probe of way `j` reads. -/
def Desc.entryAt (d : Desc) (j vpn : Nat) : Nat :=
  let i := cuckooIndex j vpn d.on
  if d.rsz && decide (i < d.migptr) then d.nbase + 16 * (j * 2 ^ d.nn + cuckooIndex j vpn d.nn)
  else d.obase + 16 * (j * 2 ^ d.on + i)

/-- The entry at an outer-memory address. -/
def State.pteAt (s : State) (pa : Nat) : BitVec 128 := BitVec.ofNat 128 (s.loadNat (Home.outer pa).key 16)

/-- R205: the entry is valid and names the page. -/
def pteHit (e : BitVec 128) (size va : Nat) : Bool :=
  e.getLsbD 0 && pteField e 88 40 / 2 ^ (sizeShift size - 16) == va / 2 ^ sizeShift size

/-- R203, R205: the nine-entry probe: the smallest page size wins, and within it the lowest way. -/
def State.probe (s : State) (part va : Nat) : Option (BitVec 128 × Nat) :=
  (List.range 3).findSome? (fun size =>
    let d := (s.part part).descOf size
    (List.range 3).findSome? (fun j =>
      let e := s.pteAt (d.entryAt j (va % 2 ^ 56 / 2 ^ sizeShift size))
      if pteHit e size (va % 2 ^ 56) then some (e, size) else none))

/-- The entry translates an address of a partition. -/
def TlbEntry.covers (x : TlbEntry) (part va : Nat) : Bool := x.part == part && x.vpn == va / 2 ^ sizeShift x.size

/-- A cached translation of an address, of the smallest page that has one (R203, R207). -/
def tlbFind (l : List TlbEntry) (part va : Nat) : Option (BitVec 128 × Nat) :=
  (List.range 3).findSome? (fun size => (l.find? (fun x => x.size == size && x.covers part va)).map (fun x => (x.pte, x.size)))

/-- R207: a translation enters a cache that has `cap` entries for those that `shares` says share them with it; the oldest of these leaves a
full one (assumption 7). -/
def tlbPut (l : List TlbEntry) (cap : Nat) (shares : TlbEntry → Bool) (x : TlbEntry) : List TlbEntry :=
  let l1 := l.filter (fun y => !(y.part == x.part && y.size == x.size && y.vpn == x.vpn))
  if cap ≤ (l1.filter shares).length then
    (match l1.find? shares with | none => l1 | some old => dropFirst old l1) ++ [x]
  else l1 ++ [x]

/-- R207: an address is looked up in the core's TLBs, the die's, and then the tables. -/
def State.lookup (s : State) (core part va : Nat) : Option (BitVec 128 × Nat) :=
  match tlbFind (s.coreAt core).tlb part va with
  | some r => some r
  | none =>
    match tlbFind (Tab.get [] s.dieTlb (dieOf core)) part va with
    | some r => some r
    | none => s.probe part va

/-- TRANSLATION of a global-window address for a core (R201, R203, R205). -/
def State.translate (s : State) (core part va : Nat) : Xlat :=
  match s.lookup core part va with
  | none => .unmapped
  | some (e, size) => Xlat.ofPte e size

/-- TRANSLATION for an agent that is no core (R205). -/
def State.translateAgent (s : State) (part va : Nat) : Xlat :=
  match s.probe part va with
  | none => .unmapped
  | some (e, size) => Xlat.ofPte e size

/-- A used translation is kept in the core's TLB, which has 64 entries for each page size, and its die's, which has 8,192 in all (R207). -/
def State.cacheXlat (s : State) (core part va : Nat) (e : BitVec 128) (size : Nat) : State :=
  let x : TlbEntry := { part := part, size := size, vpn := va / 2 ^ sizeShift size, pte := e }
  let s1 := s.updCore core (fun c => { c with tlb := tlbPut c.tlb 64 (fun y => y.size == size) x })
  { s1 with dieTlb := Tab.put [] s1.dieTlb (dieOf core) (tlbPut (Tab.get [] s1.dieTlb (dieOf core)) 8192 (fun _ => true) x) }

/-- R208: a page is shot down: no TLB keeps a translation of it. -/
def State.shootdown (s : State) (part va size : Nat) : State :=
  let keep := fun (x : TlbEntry) => !(x.size == size && x.covers part va)
  { s with
    cores := (s.cores.map (fun e => (e.1, { e.2 with tlb := e.2.tlb.filter keep }))).filter (fun e => e.2 != Core.init),
    dieTlb := (s.dieTlb.map (fun e => (e.1, e.2.filter keep))).filter (fun e => !e.2.isEmpty) }

/-! ## The checks of an access (R19 to R22, R209) -/

/-- A place an access has been checked for. `kind` is the order kind 0 SO, 1 RC, 2 UO (R194, R200). -/
structure Place where
  home : Home
  kind : Nat
  pol : BitVec 3
  isStack : Bool
  isLocal : Bool
  entry : BitVec 128
  size : Nat
  deriving DecidableEq, Repr

/-- What the checks of R209 give. -/
inductive Checked where
  | trap (cause : Byte)
  | page (va : DWord)
  | place (p : Place)
  deriving DecidableEq, Repr

/-- The apertures of R19. -/
inductive Aperture where
  | global
  | slice (off : Nat)
  | stack (off : Nat)
  | none
  deriving DecidableEq, Repr

/-- R19 to R21: the aperture row that holds a byte range, on a core with a carve-out, for a stack of `stk` bytes. -/
def apertureOf (carve stk : Nat) (a : DWord) (n : Nat) : Aperture :=
  let x := a.toNat
  if x + n ≤ 2 ^ 56 then .global
  else if 0xFF00000000000000 ≤ x then
    (if x - 0xFF00000000000000 + n ≤ sliceBytes - carve then .slice (x - 0xFF00000000000000) else .none)
  else if 0xFE00000000000000 ≤ x then
    (if x - 0xFE00000000000000 + n ≤ stk then .stack (x - 0xFE00000000000000) else .none)
  else .none

/-- The aperture of a thread's access. -/
def State.apertureFor (s : State) (t : Nat) (a : DWord) (n : Nat) : Aperture :=
  apertureOf (s.coreAt (coreOfThread t)).carve (s.warpOfThread t).stack a n

/-- R459: the address of a byte of a thread's stack. -/
def Warp.stackAddr (w : Warp) (lane off : Nat) : DWord := w.region + BitVec.ofNat 64 (w.stack * lane + off)
/-- R459: the address of a slot of a thread's return area. -/
def Warp.returnSlot (w : Warp) (lane d : Nat) : DWord := w.region + BitVec.ofNat 64 (32 * w.stack + 2048 * lane + 8 * d)

/-- R200, R202: what a mapped page permits, by an access that reads, writes, or both. -/
def pteAllows (e : BitVec 128) (rd wr : Bool) : Bool := (!rd || e.getLsbD 3) && (!wr || e.getLsbD 4)

/-- Steps 3 and 4 of R209 for a global-window address: unmapped 0x06, an on-demand page, a missing permission 0x05. -/
def State.checkPage (s : State) (core part : Nat) (va : DWord) (rd wr isStack : Bool) : Checked :=
  match s.translate core part va.toNat with
  | .unmapped => .trap 6
  | .onDemand => .page va
  | .mapped e size =>
    if pteAllows e rd wr then
      .place { home := pteHome e (sizeShift size) va.toNat, kind := if isStack then 1 else pteField e 9 2,
               pol := BitVec.ofNat 3 (pteField e 11 2), isStack := isStack, isLocal := false, entry := e, size := size }
    else .trap 5

/-- THE CHECKS OF A MEMORY ACCESS (R209, steps 1 to 5) by a thread: `n` bytes at `a`, aligned to `al`, reading or writing; with `tag`
the target must be a slice or may be remote (R216). -/
def State.checkAccess (s : State) (t : Nat) (a : DWord) (n al : Nat) (rd wr tag : Bool) : Checked :=
  let w := s.warpOfThread t
  let core := coreOfThread t
  match s.apertureFor t a n with
  | .none => .trap 4
  | .slice off =>
    if a.toNat % al != 0 then .trap 3
    else .place { home := .slice core off, kind := 1, pol := 0, isStack := false, isLocal := true, entry := 0, size := 0 }
  | .stack off =>
    if a.toNat % al != 0 then .trap 3
    else
      match s.checkPage core w.part (w.stackAddr (laneOf t) off) rd wr true with
      | .place p => if tag && !p.home.isSlice && !p.home.isRemote then .trap 0x18 else .place p
      | r => r
  | .global =>
    if a.toNat % al != 0 then .trap 3
    else
      match s.checkPage core w.part a rd wr false with
      | .place p => if tag && !p.home.isSlice && !p.home.isRemote then .trap 0x18 else .place p
      | r => r

/-! ## Writes at a home, and the bytes of stacks that they hit (R459) -/

/-- A range cut at the boundaries of the smallest page: addresses and lengths. -/
def spans (va : DWord) (n : Nat) : Nat → List (DWord × Nat)
  | 0 => []
  | f + 1 =>
    if n = 0 then []
    else
      let k := Nat.min n (65536 - va.toNat % 65536)
      (va, k) :: spans (va + BitVec.ofNat 64 k) (n - k) f

/-- The spans of a range. -/
def pageSpans (va : DWord) (n : Nat) : List (DWord × Nat) := spans va n (n / 65536 + 2)

/-- The keys of a range of a partition's addresses, page by page. -/
def State.keysOf (s : State) (part : Nat) (va : DWord) (n : Nat) : List (Nat × Nat) :=
  (pageSpans va n).filterMap (fun x =>
    match s.translateAgent part x.1.toNat with
    | .mapped e size => let k := (pteHome e (sizeShift size) x.1.toNat).key; some (k, k + x.2)
    | _ => none)

/-- The keys of a warp's region: its threads' stacks and return areas. -/
def State.regionKeys (s : State) (w : Warp) : List (Nat × Nat) := if w.used then s.keysOf w.part w.region (32 * (w.stack + 2048)) else []

/-- R459: a write that is no stack access reaches a place: what it hits of the threads' stacks and return areas is undefined to them. -/
def State.hitStacks (s : State) (h : Home) (n : Nat) : State :=
  ((s.warps.flatMap (fun e => s.regionKeys e.2)).filter (fun r => decide (r.1 < h.key + n) && decide (h.key < r.2))).foldl (fun s r =>
    let lo := Nat.max r.1 h.key
    let hi := Nat.min r.2 (h.key + n)
    { s with stackHit := cutLost s.stackHit lo hi ++ [(lo, hi, s.free)], free := s.free + (hi - lo) }) s

/-- A thread has written bytes of its stack, which are defined again (R459). -/
def State.stackWritten (s : State) (h : Home) (n : Nat) : State := { s with stackHit := cutLost s.stackHit h.key (h.key + n) }

/-- A byte as the thread whose stack holds it reads it: a free value when it was hit (R459). -/
def State.stackByte (s : State) (k : Nat) (b : Byte) : Byte := match lostAt s.stackHit k with | some i => Config.freeByte i | none => b

/-- Writes a place of this device at its home; the cause when it is refused. -/
def State.writeHome (s : State) (h : Home) (bs : List Byte) : State × Option Byte :=
  if s.refusedAt h bs.length then (s, some 6) else (((s.touch h bs.length).hitStacks h bs.length).putBytes h.key bs, none)

/-! ## Watchpoints (R413) -/

/-- The granules of 8 bytes that an access covers. -/
def granules (a : DWord) (n : Nat) : List Nat := (List.range ((a.toNat % 8 + n + 7) / 8)).map (fun i => a.toNat / 8 + i)

/-- R413: an access of a thread matches a watchpoint of its core. -/
def State.watched (s : State) (t : Nat) (a : DWord) (n : Nat) (rd wr : Bool) : Bool :=
  let w := s.warpOfThread t
  !(s.thread t).h &&
  (s.coreAt (coreOfThread t)).watch.any (fun e =>
    let p := e.2
    p.part == w.part && p.fdom == (s.viewOf w).fdom w.rcb &&
    ((rd && p.mask.getLsbD 0) || (wr && p.mask.getLsbD 1)) &&
    (granules a n).any (fun g => ((g ^^^ (p.addr.toNat / 8)) &&& (p.mask.toNat / 8)) == 0))

/-! ## Access counters (R214) -/

/-- R214: an access of a die to a page with ACE whose home is not on that die is counted; at THR HK2 is notified once, or the
notification is dropped when its queue is full. A page new to a full cache evicts a counter, which of them is a free choice (assumption 3). -/
def State.countAccess (s : State) (die : Nat) (p : Place) (part va : Nat) : State :=
  let onDie := match p.home with | .slice c _ => dieOf c == die | .stacked d _ => d == die | _ => false
  if p.isLocal || !p.entry.getLsbD 65 || p.entry.getLsbD 64 || onDie then s else
  let page := part * 2 ^ 56 + va / 2 ^ sizeShift p.size * 2 ^ sizeShift p.size
  let k := die * 2 ^ 60 + page
  let n := Tab.get 0 s.dev.counts k + 1
  let held := s.dev.counts.filter (fun e => e.1 / 2 ^ 60 == die)
  let full := decide (4096 ≤ held.length) && n == 1
  let kept := match (if full then held[Config.freeChoice s.free % held.length]? else none) with
    | some e => s.dev.counts.filter (fun x => x.1 != e.1)
    | none => s.dev.counts
  let n1 := if s.dev.thr < n then s.dev.thr else n
  let d := { s.dev with counts := Tab.put 0 kept k n1 }
  let s1 := { s with free := if full then s.free + 1 else s.free }
  if s.dev.thr ≤ n && !(s.dev.cntQueue.any (fun e => e.1 == die && e.2.1 == page && e.2.2.1 == p.size)) then
    if (s.dev.cntQueue.filter (fun e => e.1 == die)).length < 1024 then
      { s1 with dev := { d with cntQueue := s.dev.cntQueue ++ [(die, page, p.size, n1)] } }
    else { s1 with dev := { d with cntDrop := Tab.put 0 s.dev.cntDrop die (Tab.get 0 s.dev.cntDrop die + 1) } }
  else { s1 with dev := d }

/-! ## Notices to HK2 (R210, R286) -/

/-- HK2 is told that a page was missing (R210, R211). -/
def State.notify (s : State) (part : Nat) (va : DWord) : State :=
  if s.dev.notices.contains (part, va) then s
  else { s with dev := { s.dev with notices := s.dev.notices ++ [(part, va)] } }

/-! ## Acquire and release (R222, R225 to R228) -/

/-- R222: the wider of the carried scope and the home scope; THREAD or none carried means the home scope. -/
def effScope (carried home : Nat) : Nat := Nat.max carried home

/-- R225: a release at DIE or wider first writes back the core's dirty RC bytes. -/
def State.release (s : State) (core scope : Nat) : State :=
  if 2 ≤ scope then s.writeBackL1 core (fun x => !x.uo) else s
/-- R225: an acquire at DIE or wider invalidates the core's clean RC lines. -/
def State.acquire (s : State) (core scope : Nat) : State :=
  if 2 ≤ scope then (s.forgetFills core (fun _ uo => !uo)).invalidateL1 core (fun x => !x.uo) else s

/-- R230: whoever waits for the completion of an engine's command acquires its writes of every kind: clean lines of every kind leave the L1. -/
def State.acquireAll (s : State) (core : Nat) : State := (s.forgetFills core (fun _ _ => true)).invalidateL1 core (fun _ => true)

/-- The write-backs of a core's L1 that are not acknowledged yet (R196, R231). -/
def State.backs (s : State) (core : Nat) : List Nat :=
  s.lodge.outs.filterMap (fun r => match r.owner with | .back c _ _ id => if c == core then some id else none | _ => none)
/-- A written-back sector of a core is not acknowledged yet. -/
def State.backOpen (s : State) (core : Nat) : Bool := !(s.backs core).isEmpty

/-- The load words, which the load queue counts (R72). A RET whose address is not in the cache is read as a load (R101) but is no load word
(assumption 42). -/
def loadWord : Instr → Bool
  | .ld .. | .lda .. | .ldf .. | .lde .. | .tagrd .. | .tild .. | .atom .. | .cas .. => true
  | _ => false

/-- A result that is outstanding is a load's (R72). -/
def Outst.isLoad (o : Outst) : Bool := match decodeSimt o.word with | .ok i => loadWord i | .error _ => false

/-- The loads that a thread has outstanding. -/
def Thread.loads (th : Thread) : Nat := (th.outs.filter Outst.isLoad).length

/-- The loads that a core has outstanding. -/
def State.coreLoads (s : State) (c : Nat) : Nat := ((s.thr.filter (fun e => coreOfThread e.1 == c)).map (fun e => e.2.loads)).sum

/-- The access of an outstanding result has been performed: what it returns is settled, or it is none of memory (R222). -/
def Outst.performed (o : Outst) : Bool := o.res.isSome || !(o.isLoad || o.kind == .ret)

/-- A RELEASE of a thread at an effective scope (R225, R231): the core's dirty bytes are written back, and at DIE or wider the release
waits until the thread's earlier stores and the bytes written back are acknowledged and its earlier loads performed; false while it waits. -/
def State.releaseAt (s : State) (t scope : Nat) : State × Bool :=
  let core := coreOfThread t
  let s1 := s.release core scope
  (s1, decide (scope < 2) || ((s1.thread t).acks.isEmpty && (s1.thread t).outs.all Outst.performed && !s1.backOpen core))

/-- What a release of a thread that an engine's command makes has to wait for (R230): its unacknowledged stores, its loads that are not yet
performed, and its core's write-backs. -/
def State.openOf (s : State) (t : Nat) : List (Nat × Nat) :=
  let th := s.thread t
  (th.acks.map (fun a => a.id) ++ (th.outs.filter (fun o => !o.performed)).map (fun o => o.id) ++ s.backs (coreOfThread t)).map (fun id => (t, id))

/-- R230: the release that a command waits for is complete. -/
def State.afterDone (s : State) (after : List (Nat × Nat)) : Bool :=
  after.all (fun a =>
    let th := s.thread a.1
    !(th.acks.any (fun x => x.id == a.2)) && th.outs.all (fun o => o.id != a.2 || o.performed) && !((s.backs (coreOfThread a.1)).contains a.2))

/-! ## Tags (R216, R217) -/

/-- The tag of the slice word that holds a key. -/
def State.tagAt (s : State) (k : Nat) : Bool :=
  match lostAt s.lost (tagLostKey k) with
  | some i => (Config.freeByte i).getLsbD 0
  | none => Tab.get false s.tags (k / 8)
/-- Sets the tag of the slice word that holds a key. -/
def State.setTag (s : State) (k : Nat) (v : Bool) : State :=
  { s with tags := Tab.put false s.tags (k / 8) v, lost := cutLost s.lost (tagLostKey k) (tagLostKey k + 1) }
/-- The swizzle id of the slice line that holds a key (R219). -/
def State.swzAt (s : State) (k : Nat) : BitVec 2 :=
  match lostAt s.lost (swzLostKey k) with
  | some i => (Config.freeByte i).extractLsb' 0 2
  | none => Tab.get 0 s.swz (k / 256)
/-- Sets the swizzle id of a slice line. -/
def State.setSwz (s : State) (k : Nat) (z : BitVec 2) : State :=
  { s with swz := Tab.put 0 s.swz (k / 256) z, lost := cutLost s.lost (swzLostKey k) (swzLostKey k + 1) }

/-- R219: the key where the 16-byte chunk at a slice key is stored under swizzle `z`. -/
def swizzled (k : Nat) (z : Nat) : Nat :=
  let c := k / 16 % 16
  let q := k / 256 % 8
  let g := match z with | 0 => 0 | 1 => q % 2 | 2 => q % 4 | _ => q
  k / 256 * 256 + 16 * (c ^^^ g) + k % 16

/-! ## Results and acknowledgements of a thread -/

/-- A result becomes outstanding in a thread (R79); it returns `lat` cycles from now at the earliest, and later by the word's passes
(R87, R242). -/
def State.addOut (s : State) (t : Nat) (kind : OutKind) (dst : List Nat) (res : Option Res) (sector : DWord) (so : Bool) (acq lat : Nat) : State :=
  (s.updThread t (fun th => { th with outs := th.outs ++
    [Outst.mk s.ids kind dst res s.cur.word sector so acq (s.cycleOf (coreOfThread t) + lat + s.cur.late)] })).freshId.2

/-- A store or other access without a result waits for its acknowledgement (R224, R253). -/
def State.addAck (s : State) (t : Nat) (so ready : Bool) (fail : Option (Byte × DWord)) : State :=
  (s.updThread t (fun th => { th with acks := th.acks ++ [Ack.mk s.ids so ready fail] })).freshId.2

/-- R461: a cause that a reply brought waits for the thread's next word boundary; an HK3 cause goes to HK3 at once. -/
def State.replyTrap (s : State) (t : Nat) (cause : Byte) (word : Word) (sector : DWord) : State :=
  let mask := lanesMask [laneOf t]
  if toHk3 cause then s.sendHk3 t cause (s.thread t).pc word mask sector false
  else s.updThread t (fun th => { th with heldTraps := th.heldTraps ++ [Held.mk cause word sector mask] })

/-- R213: a failed store is reported at a later word of its thread; if the thread has exited, HK3 receives the cause. -/
def State.storeFailed (s : State) (t : Nat) (cause : Byte) (sector : DWord) : State :=
  if (s.thread t).live then s.updThread t (fun th => { th with failed := th.failed ++ [(cause, sector)] })
  else if (s.warpOfThread t).used then s.holdWarp (warpOf t) cause true
  else s

/-! ## Tagged words at a tag unit (R217) -/

/-- The result of an outstanding load is known. -/
def State.setResult (s : State) (t id : Nat) (r : Res) : State :=
  s.updThread t (fun th => { th with outs := th.outs.map (fun o => if o.id == id then { o with res := some r } else o) })

/-- An outstanding result of a thread. -/
def Thread.out? (th : Thread) (id : Nat) : Option Outst := th.outs.find? (fun o => o.id == id)

/-- Writes an outstanding result's registers and clears it (R79). -/
def Thread.deliver (th : Thread) (id : Nat) (ws : List Word) : Thread :=
  match th.out? id with
  | none => th
  | some o => { (th.setRegs (o.dst.zip ws)) with outs := th.outs.filter (fun x => x.id != id) }

/-- A result arrives with its value: the acquire it makes takes effect (R225), its registers are written, and it is no longer pending. -/
def State.arrive (s : State) (t id : Nat) (ws : List Word) : State :=
  let scope := match (s.thread t).out? id with | some o => o.acq | none => 0
  (s.acquire (coreOfThread t) scope).updThread t (fun th => th.deliver id ws)

/-- R217: the report of an LDF or LDE that was served arrives: its destination is written and its thread passes the word. -/
def State.tagServed (s : State) (t id : Nat) (ws : List Word) : State := (s.arrive t id ws).completeWord t

/-- R461: an LDF or LDE is answered with a cause: its destination stays unwritten and the trap is taken at the word itself. In handler mode,
where the trap waits, the thread passes the word. -/
def State.tagFailed (s : State) (t id : Nat) (cause : Byte) : State :=
  let th := s.thread t
  let w := match th.park with | .word _ _ w _ _ => w | _ => 0
  let sector := match th.out? id with | some o => o.sector | none => 0
  let s1 := s.updThread t (fun th => { th with outs := th.outs.filter (fun o => o.id != id) })
  (if th.h then s1.completeWord t else s1.updThread t (fun th => { th with park := .none })).replyTrap t cause w sector

/-- R217, R242: what an LDF or LDE gave is known; the report reaches its thread at once, or no earlier than the word's latency lets it. -/
def State.tagResult (s : State) (t id : Nat) (r : Res) : State :=
  match (s.thread t).out? id with
  | none => s
  | some o =>
    if s.cycleOf (coreOfThread t) < o.due then s.setResult t id r
    else match r with | .val ws => s.tagServed t id ws | .bad c => s.tagFailed t id c

/-- The condition of a tagged word that may wait: LDF and LDE need full, STF empty (R217). -/
def tagReady (kind : Nat) (full : Bool) : Bool := if kind = 2 then !full else full

/-- The reply to an open request is ready (R305). -/
def State.answer (s : State) (src : BitVec 12) (tag : BitVec 14) (tier : BitVec 2) (status : Byte) (data : List Byte) : State :=
  { s with lodge := { s.lodge with opens := s.lodge.opens.map (fun o =>
      if o.pkt.src == src && o.pkt.tag == tag && o.pkt.tier == tier && o.ans.isNone then { o with ans := some (status, data) } else o) } }

/-- A context of the circuit processor. -/
def State.cx (s : State) (k : Nat) : Context := Tab.get Context.init s.cp.cx k
/-- Changes a context. -/
def State.updCx (s : State) (k : Nat) (f : Context → Context) : State :=
  { s with cp := { s.cp with cx := Tab.put Context.init s.cp.cx k (f (s.cx k)) } }
/-- R360: the read of a WEV.FULL (context k) or of an armed SRUN.FULL (8 + k) is answered with a status and a word. -/
def State.contextGot (s : State) (k : Nat) (st : Byte) (v : DWord) : State :=
  if k < 8 then s.updCx k (fun c => { c with fullGot := some (st, v) })
  else s.updCx (k - 8) (fun c => { c with rot := { c.rot with got := some (st, v) } })

/-- The place of a tagged word. -/
def TagWait.home (w : TagWait) : Home := .slice (w.key / sliceBytes) (w.key % sliceBytes)

/-- R212, R217: the tag unit serves one word whose condition holds, as one step on data and tag. -/
def State.serveTag (s : State) (w : TagWait) : State :=
  let bad := w.kind != 2 && s.marked w.key w.n
  let s1 :=
    if bad then s
    else if w.kind = 0 then s
    else if w.kind = 1 then s.setTag w.key false
    else ((s.hitStacks w.home w.data.length).putBytes w.key w.data).setTag w.key true
  let v := s.loadNat w.key w.n
  match w.who with
  | .result t id _ z => s1.tagResult t id (if bad then .bad 0x13 else .val (szWords z v))
  | .tagStore t _ => s1.completeWord t
  | .peer src tag tier =>
    if bad then s1.answer src tag tier 0x13 [] else s1.answer src tag tier 0 (if w.kind = 2 then [] else leBytes w.n v)
  | .context k => s1.contextGot k (if bad then 0x13 else 0) (BitVec.ofNat 64 v)
  | _ => s1

/-- The tag unit serves the oldest held word of an 8-byte word whose condition holds, until none does (R217). -/
def State.serveHeld (s : State) (k : Nat) : Nat → State
  | 0 => s
  | f + 1 =>
    match s.tagWaits.find? (fun w => w.phase == 1 && w.key / 8 == k / 8 && tagReady w.kind (s.tagAt k)) with
    | none => s
    | some w =>
      let s1 := ({ s with tagWaits := dropFirst w s.tagWaits }).serveTag w
      s1.serveHeld k f

/-- After a tag has changed, waiting words are served (R217). -/
def State.tagChanged (s : State) (k : Nat) : State := s.serveHeld k (s.tagWaits.length + 1)

/-- STO: the data is written and the tag set full; it never waits (R217). -/
def State.tagStore (s : State) (h : Home) (bs : List Byte) : State × Option Byte :=
  if s.refusedAt h bs.length then (s, some 6)
  else (((((s.touch h bs.length).hitStacks h bs.length).putBytes h.key bs).setTag h.key true).tagChanged h.key, none)

/-- SETE and SETF (R217). -/
def State.tagSet (s : State) (h : Home) (v : Bool) : State × Option Byte :=
  if s.refusedAt h 1 then (s, some 6) else ((s.setTag h.key v).tagChanged h.key, none)

/-- The first byte of the 256-byte line that holds a place. -/
def Home.lineStart (h : Home) : Home :=
  match h with
  | .slice c o => .slice c (o - o % 256)
  | .stacked d pa => .stacked d (pa - pa % 256)
  | .outer pa => .outer (pa - pa % 256)
  | .host pa => .host (pa - pa % 256)
  | .remote d va => .remote d (va - va % 256)

/-- R219, R238: TIST's line write at a slice. -/
def State.tileStore (s : State) (h : Home) (z : BitVec 2) (bs : List Byte) : State × Option Byte :=
  if s.refusedAt h 16 then (s, some 6)
  else (((s.hitStacks (h.lineStart.plus (swizzled h.key z.toNat % 256)) 16).putBytes (swizzled h.key z.toNat) bs).setSwz h.key z, none)

/-! ## Order, scope and policy of a word (R41, R241) -/

/-- The ORD code a group carries, 0 DEF. -/
def ordCode (p : Prefixes) : Nat := match p.ord with | some (o, _, _) => o.toNat | none => 0
/-- The scope a group carries, 0 when none. -/
def scopeCode (p : Prefixes) : Nat := match p.ord with | some (_, c, _) => c.toNat | none => 0
/-- R241: a POL other than DEF replaces the page's. -/
def polOf (p : Prefixes) (pl : Place) : BitVec 3 := match p.ord with | some (_, _, l) => if l = 0 then pl.pol else l | none => pl.pol

/-- R224: the access is in SO order: an SO page, unless it is made relaxed. -/
def Place.so (pl : Place) (p : Prefixes) : Bool := pl.kind == 0 && !pl.isStack && !pl.isLocal && ordCode p != 1

/-- R196, R460: whether the L1 of a core serves a plain access to a place. -/
def State.l1Serves (s : State) (core : Nat) (p : Prefixes) (pl : Place) : Bool :=
  decide (0 < (s.coreAt core).carve) && polOf p pl != 3 && (pl.isStack || (!pl.isLocal && pl.kind != 0)) && !(s.refusedAt pl.home 1)

/-! ## One thread's access -/

/-- A thread has an SO access that is not acknowledged yet (R224). -/
def Thread.soOpen (th : Thread) : Bool := th.acks.any (fun a => a.so) || th.outs.any (fun o => o.so)

/-- What an access of `n` bytes does once its address is checked (R209): the last of the checks is `pre`; an on-demand page parks the thread
and notifies HK2 (R210); a watchpoint traps (R413); an SO access waits until the thread's previous one is acknowledged (R224); then `k` makes
the access at the place. -/
def State.accessAt (s : State) (c : Checked) (pre : State → Place → Option Byte) (t : Nat) (a : DWord) (n : Nat) (rd wr : Bool)
    (k : State → Place → State × Adv) : State × Adv :=
  let part := (s.warpOfThread t).part
  match c with
  | .trap c => (s, .trap c (sectorOf a))
  | .page va => ((s.notify part va).updThread t (fun th => { th with park := .page va }), .stay)
  | .place p =>
    match pre s p with
    | some c => (s, .trap c (sectorOf a))
    | none =>
      if s.watched t a n rd wr then (s, .trap 0x0F (sectorOf a))
      else if p.so s.cur.pfx && (s.thread t).soOpen then (s, .stay)
      else
        let core := coreOfThread t
        let va := (if p.isStack then (s.warpOfThread t).stackAddr (laneOf t) (a.toNat - 0xFE00000000000000) else a).toNat
        let s1 := if p.isLocal then s else s.cacheXlat core part va p.entry p.size
        k (s1.countAccess (dieOf core) p part va) p

/-- AN ACCESS OF A THREAD: the checks of R209 and then the access. -/
def State.accessIf (s : State) (pre : State → Place → Option Byte) (t : Nat) (a : DWord) (n al : Nat) (rd wr tag : Bool)
    (k : State → Place → State × Adv) : State × Adv :=
  s.accessAt (s.checkAccess t a n al rd wr tag) pre t a n rd wr k

/-- An access whose place needs no further check. -/
def State.access (s : State) (t : Nat) (a : DWord) (n al : Nat) (rd wr tag : Bool) (k : State → Place → State × Adv) : State × Adv :=
  s.accessIf (fun _ _ => none) t a n al rd wr tag k

/-- Bytes of a place for a core: through the L1, or at the home after the core's own sector has been written back and dropped (R460). A
thread reads a byte of its stack that was hit as a free value (R459). -/
def State.readPlace (s : State) (core : Nat) (p : Place) (n : Nat) (l1 : Bool) : State × Got :=
  let r :=
    if l1 then s.l1Read core p.home n (p.kind == 2) (polOf s.cur.pfx p)
    else
      let s1 := s.dropSector core p.home.sector
      if p.home.isRemote then (s1, .later) else s1.readHome p.home n
  match r.2 with
  | .bytes bs => (r.1, .bytes (if p.isStack then bs.zipIdx.map (fun b => s.stackByte (p.home.key + b.2) b.1) else bs))
  | _ => r

/-- R242: the latency below which a load does not return: 28 cycles for an L1 hit, 20 for the local slice; no figure is given for any other
(R18). -/
def State.loadLat (s : State) (core : Nat) (p : Place) (n : Nat) (l1 : Bool) : Nat :=
  if l1 && s.l1Hits core p.home n then 28 else if p.home.scope core == 1 then 20 else 0

/-- A load's result becomes outstanding: known at once, or asked of a remote device (R79, R194, R200, R212). -/
def State.loadInto (s : State) (t : Nat) (a : DWord) (p : Place) (n : Nat) (z : BitVec 3) (dst : List Nat) (l1 : Bool) (so : Bool)
    (acq : Nat) : State × Adv :=
  let core := coreOfThread t
  let sec := sectorOf a
  let lat := s.loadLat core p n l1
  match s.readPlace core p n l1 with
  | (s1, .bytes bs) => (s1.addOut t .regs dst (some (.val (szWords z (leNat bs)))) sec so acq lat, .pass)
  | (s1, .bad c) => (s1.addOut t .regs dst (some (.bad c)) sec so acq lat, .pass)
  | (s1, .later) =>
    let id := s1.ids
    let s2 := s1.addOut t .regs dst none sec so acq lat
    match p.home with
    | .remote dev va =>
      if l1 then
        (s2.request (.fill core p.home.key t id n z (p.kind == 2) (polOf s.cur.pfx p) true) 1 0 dev (BitVec.ofNat 64 (va - va % 32)) (.read 32 .plain), .pass)
      else (s2.request (.result t id n z) 1 0 dev (BitVec.ofNat 64 va) (.read n .plain), .pass)
    | _ => (s2, .pass)

/-- A store's bytes reach the L1, the home, or a remote device (R196, R213, R460). -/
def State.storeAt (s : State) (t : Nat) (a : DWord) (p : Place) (bs : List Byte) (l1 : Bool) : State × Adv :=
  let core := coreOfThread t
  let so := p.so s.cur.pfx
  let hits := fun (s : State) => if p.isStack then s.stackWritten p.home bs.length else s.hitStacks p.home bs.length
  if l1 then (hits (s.l1Write core p.home bs (p.kind == 2) (polOf s.cur.pfx p) t), .pass)
  else
    let s1 := s.dropSector core p.home.sector
    match p.home with
    | .remote dev va =>
      let id := s1.ids
      (hits ((s1.addAck t so false none).request (.ack t id a) 1 2 dev (BitVec.ofNat 64 va) (.write bs .plain)), .pass)
    | h =>
      let r := s1.writeHome h bs
      ((if p.isStack then hits r.1 else r.1).addAck t so true (r.2.map (fun c => (c, sectorOf a))), .pass)

/-! ## Shapes of memory words -/

/-- The address with a datapath's fault (R86). -/
def faultyAddr (m : Word) (a : DWord) : DWord := a ^^^ m.zeroExtend 64

/-- Runs a word's part for each (participant, its addresses), in the order of the list. -/
def State.eachAddr {V : Type} (s : State) (mark : Bool) (f : State → Nat → V → State × Adv) : List (Nat × V) → State
  | [] => s
  | (t, a) :: ts => let r := f s t a; (r.1.goOn t mark r.2).eachAddr mark f ts

/-- The sectors that a thread's access of `n` bytes at an address lies in: none when the address names no place. -/
def State.sectorsAt (s : State) (t : Nat) (a : DWord) (n : Nat) : List Nat :=
  match s.checkAccess t a n 1 false false false with
  | .place p => (List.range ((p.home.inSector + n + 31) / 32)).map (fun i => p.home.sector + i)
  | _ => []

/-- R242: the cycles a memory bundle occupies the load-store unit: a quarter of its distinct sectors, at least 1. -/
def State.lsuCycles (s : State) (as : List (Nat × DWord)) (n : Nat) : Nat :=
  Nat.max 1 (((as.flatMap (fun e => s.sectorsAt e.1 e.2 n)).eraseDups.length + 3) / 4)

/-- The word that issues takes `k` passes, by which its results come later (R87), and has an identity (R198). -/
def State.withPasses (s : State) (k : Nat) : State :=
  { s.freshId.2 with cur := { s.cur with late := k - 1, bundle := s.ids } }

/-- A MEMORY WORD: every participant's address is computed and checked (R84, R86), then each makes its access in ascending lane order. The
passes occupy the load-store unit in a bundle that traps too (R87). -/
def State.memWord (s : State) (i : Instr) (n : Nat) (addr : Thread → DWord) (f : State → Nat → DWord → State × Adv) : State :=
  s.simt i (fun s ps =>
    match s.check .addr faultyAddr (ps.map (fun t => (t, addr (s.thread t)))) with
    | (s1, none, k) => (s1.occupy 5 k, some 0x14)
    | (s1, some as, k) => (((s1.occupy 5 (s1.lsuCycles as n * k)).withPasses k).eachAddr (markOf i) f as, none))

/-- R84 to R86: a word of OP 0x5C to 0x7C that names no address is drawn for a check like any other, and its passes agree; the number
counts them. -/
def State.agree (s : State) : State × Nat := match s.drawCheck with | (s1, true) => (s1, 2) | (s1, false) => (s1, 1)

/-! ## Fences (R226, R227, R240, R253) -/

/-- The mark of a CINV among the kinds of FENCE. -/
def cinvKind : Nat := 4

/-- The L1 work of a FENCE of a kind at a scope (R225, R226). -/
def State.fenceL1 (s : State) (core m scope : Nat) : State :=
  match m with
  | 0 => (s.release core scope).acquire core scope
  | 1 => s.acquire core scope
  | 2 => s.release core scope
  | 3 => ((s.writeBackL1 core (fun x => x.uo)).forgetFills core (fun _ uo => uo)).invalidateL1 core (fun x => x.uo)
  | _ => s

/-- R253, R240: a thread's FENCE completes once its earlier accesses are acknowledged, and its L1 work is then done again, for what was read
since; its CINV completes once what its core wrote back is acknowledged. -/
def State.fenceDone (s : State) (t : Nat) : State :=
  let th := s.thread t
  match th.fencing with
  | none => s
  | some (m, c) =>
    if (m == cinvKind || (th.acks.isEmpty && th.outs.isEmpty)) && !s.backOpen (coreOfThread t) then
      (s.fenceL1 (coreOfThread t) m c).updThread t (fun th => { th with fencing := none })
    else s

/-- R196, R459: the L1 of a core serves an access to a stack or return area unless the page's policy is NOL1. -/
def State.l1Put (s : State) (core : Nat) (pl : Place) : Bool :=
  decide (0 < (s.coreAt core).carve) && pl.pol != 3 && !(s.refusedAt pl.home 1)

end Sys2Proof.Machine
end

