-- ==== Sys2Proof/Machine/Fetch.lean ====
section
/-! DEFINITION. Instruction fetch and prefixed groups (R39, R111), and what a thread's next word lets it do: pending registers,
interlocks and token waits (R42, R73, R79, R80). -/

namespace Sys2Proof.Machine
open Sys2Proof

/-! ## Fetch (R111) -/

/-- What fetching a word gives: the word, a trap, an on-demand page, or a word that must come from another device. -/
inductive Fetched where
  | word (w : Word)
  | trap (cause : Byte)
  | page (va : DWord)
  | away (dev : BitVec 12) (va : Nat)
  deriving DecidableEq, Repr

/-- The instruction cache's key of a partition's address. -/
def icKey (part : Nat) (pc : DWord) : Nat := part * 2 ^ 56 + pc.toNat

/-- R111: the word at an address, for a partition's thread on a core: past the global window cause 0x04, unmapped 0x06, without X 0x05; the
instruction cache keeps what it has fetched. A misaligned address traps with 0x03 (assumption 8). -/
def State.fetchAt (s : State) (core part : Nat) (pc : DWord) : Fetched :=
  if globalTop < pc then .trap 4
  else if pc.toNat % 4 != 0 then .trap 3
  else
    match s.translate core part pc.toNat with
    | .unmapped => .trap 6
    | .onDemand => .page pc
    | .mapped e size =>
      if !e.getLsbD 5 then .trap 5
      else
        match Tab.get none (s.coreAt core).icache (icKey part pc) with
        | some w => .word w
        | none =>
          let h := pteHome e (sizeShift size) pc.toNat
          match h with
          | .remote dev va => (match Tab.get 0 (s.coreAt core).fetchBad (icKey part pc) with | 0 => .away dev va | c => .trap c)
          | h =>
            if s.refusedAt h 4 then .trap 6
            else if s.marked h.key 4 then .trap 0x13
            else .word (BitVec.ofNat 32 (s.loadNat h.key 4))

/-- Fetching a word leaves it in the instruction cache and its translation in the TLBs (R111, R207). -/
def State.noteFetch (s : State) (core part : Nat) (pc : DWord) (w : Word) : State :=
  let s1 := match s.translate core part pc.toNat with
    | .mapped e size => (s.touch (pteHome e (sizeShift size) pc.toNat) 4).cacheXlat core part pc.toNat e size
    | _ => s
  s1.updCore core (fun c => { c with icache := Tab.put none c.icache (icKey part pc) (some w) })

/-! ## Prefixed groups (R38, R39) -/

/-- The prefixes with one more PFX word; none when its kind is there already or its payload is reserved (R39, R41, R42). -/
def addPrefix (p : Prefixes) (i : Instr) : Option Prefixes :=
  match i with
  | .pfxExt e => if p.ext.isSome then none else some { p with ext := some e }
  | .pfxOrd o c l => if p.ord.isSome || !i.fieldsOk then none else some { p with ord := some (o, c, l) }
  | .pfxTok m h => if p.tok.isSome || !i.fieldsOk then none else some { p with tok := some (m, h) }
  | _ => none

/-- What stands at an address: a group's prefixes and its word with the word's address, or nothing that decodes or can be fetched. -/
inductive Peek where
  | group (p : Prefixes) (i : Instr)
  | illegal
  | fetch (f : Fetched)
  deriving DecidableEq, Repr

/-- Looks at the group that starts at an address; a group has at most three prefixes. -/
def State.peekFrom (s : State) (core part : Nat) (pc : DWord) (p : Prefixes) : Nat → Peek
  | 0 => .illegal
  | f + 1 =>
    match s.fetchAt core part pc with
    | .word w =>
      match decodeSimt w with
      | .error _ => .illegal
      | .ok i =>
        if i.isPfx then
          match addPrefix p i with
          | none => .illegal
          | some q => s.peekFrom core part (pc + 4) q f
        else .group p i
    | r => .fetch r

/-- The group at a thread's PC. -/
def State.peek (s : State) (t : Nat) : Peek :=
  s.peekFrom (coreOfThread t) (s.warpOfThread t).part (s.thread t).pc {} 4

/-! ## Registers and predicates a word names (R79, R80) -/

/-- The vector registers a word reads or writes. -/
def regsNamed (i : Instr) : List Nat := i.opnds.flatMap (fun o => (List.range o.count).map (fun k => o.base + k))

/-- The predicates and floating-point registers a word reads or writes beyond its guard, as interlock marks (R80, R116, R150). -/
def marksNamed (i : Instr) : List Nat :=
  match i with
  | .add _ m _ _ _ | .sub _ m _ _ _ => if m == 3 then [70] else []
  | .setp _ _ _ q _ _ | .fsetp _ _ _ q _ _ => predMarks q.toNat
  | .setpi _ _ q _ _ => predMarks q.toNat
  | .sel _ q _ _ _ => predMarks q.toNat
  | .p2v .. | .v2p .. => [64, 65, 66, 67, 68, 69, 70]
  | .vote _ m d a => (if m == 2 then [] else predMarks d.toNat) ++ (if m == 3 then [] else predMarks a.toNat)
  | .hadd2 _ m _ _ _ | .hmul2 _ m _ _ _ | .hfma2 _ m _ _ _ => if m.getLsbD 1 then [73] else []
  | .cvtf _ _ _ _ _ r _ _ | .cvtp _ _ _ _ _ r _ _ | .mxq _ _ _ _ _ r => if r == 1 then [74] else []
  | .csrr _ _ a | .csrw _ _ a =>
    if a == 0x18 then [72] else if a == 0x19 then [73] else if a == 0x1A then [74] else []
  | _ => []

/-- Everything a word depends on, as interlock marks: its registers, its predicates and its guard. -/
def marksOf (i : Instr) : List Nat :=
  regsNamed i ++ marksNamed i ++ (match i.guard? with | some g => predMarks g.p.toNat | none => [])

/-- R79: the word reads or writes a register that is pending in the thread. -/
def Thread.pendingFor (th : Thread) (i : Instr) : Bool :=
  th.outs.any (fun o => o.dst.any (fun r => (regsNamed i).contains r))

/-- The mark of an MMA's accumulator by its first register and edge (R187). -/
def accMark (d : BitVec 6) (edge : BitVec 1) : Nat := 2 * (d.toNat / 8) + edge.toNat

/-- R187: the accumulator registers of an MMA or MMAS and its mark. -/
def accOf (i : Instr) : Option (Nat × Nat × Nat) :=
  match i with
  | .mma _ e _ d _ _ => some (d.toNat, if e == 0 then 16 else 32, accMark d e)
  | .mmas _ _ d _ _ => some (d.toNat, 16, accMark d 0)
  | _ => none

/-- The source registers of an MMA or MMAS other than its accumulator. -/
def accSources (i : Instr) : List Nat :=
  match i with
  | .mma _ e _ _ a _ => footprint a.toNat (if e == 0 then 16 else 8)
  | .mmas _ _ _ a b => b.toNat :: footprint a.toNat 16
  | _ => []

/-- R187: the accumulator registers wait only for the chain when the MMA that wrote them had the same D and edge. -/
def Thread.accWaits (th : Thread) (d n k cycle : Nat) : Bool :=
  (footprint d n).any (fun r =>
    let c := Tab.get 0 th.rdy r
    decide (cycle < (if c != 0 && c == Tab.get 0 th.rdy (100 + k) then Tab.get 0 th.rdy (200 + k) else c)))

/-- R80: a fixed-latency result the word depends on is not ready yet. A word that only overwrites a result waits for it too
(assumption 42). -/
def Thread.interlocked (th : Thread) (i : Instr) (cycle : Nat) : Bool :=
  let late := fun m => decide (cycle < Tab.get 0 th.rdy m)
  match accOf i with
  | some (d, n, k) => (accSources i).any late || th.accWaits d n k cycle || (match i.guard? with | some g => (predMarks g.p.toNat).any late | none => false)
  | none => (marksOf i).any late

/-! ## Tokens (R42, R270) -/

/-- A token of a warp. -/
def Warp.tok (w : Warp) (n : Nat) : Token := Tab.get Token.init w.toks n
/-- Every token a mask names is complete. -/
def Warp.tokensDone (w : Warp) (m : BitVec 8) : Bool := (List.range 8).all (fun n => !m.getLsbD n || (w.tok n).out == 0)

/-- The tokens that the group's word waits for: a PFX of kind 10, and TKWAIT's mask (R42, R288). -/
def tokenMask (p : Prefixes) (i : Instr) : BitVec 8 :=
  (match p.tok with | some (m, _) => m | none => 0) ||| (match i with | .tkwait _ _ _ m => m | _ => 0)

/-- R73: the thread waits at its next word, for a register or a token. A guard-false TKWAIT does not wait. -/
def State.waitsAtWord (s : State) (t : Nat) : Bool :=
  match s.peek t with
  | .group p i =>
    let th := s.thread t
    let pm : BitVec 8 := match p.tok with | some (m, _) => m | none => 0
    let mask := match i with | .tkwait g _ _ m => if guardHolds g th then pm ||| m else pm | _ => pm
    th.pendingFor i || !(s.warpOfThread t).tokensDone mask
  | _ => false

/-- The request is an access of a thread. -/
def ReqOwner.ofThread (o : ReqOwner) (t : Nat) : Bool :=
  match o with
  | .result k .. | .ack k .. | .tagStore k _ | .block k .. => k == t
  | .fill _ _ k _ n .. => n != 0 && k == t
  | .atom ms .. => ms.any (fun m => m.1 == t)
  | _ => false

/-- R299: an access of the thread has reached a page that its device has not at hand, and is to be sent again: the thread is parked meanwhile. -/
def State.farParked (s : State) (t : Nat) : Bool := s.lodge.outs.any (fun r => r.phase == 2 && r.owner.ofThread t)

/-- R73: the thread is parked. -/
def State.parked (s : State) (t : Nat) : Bool := (s.thread t).park != .none || s.waitsAtWord t || s.farParked t

/-- R42: the thread is parked by a PFX of kind 10 that hints SWAP. -/
def State.swapParked (s : State) (t : Nat) : Bool :=
  match s.peek t with
  | .group p _ => (match p.tok with | some (m, h) => h == 1 && !(s.warpOfThread t).tokensDone m | none => false)
  | _ => false

end Sys2Proof.Machine
end

