-- ==== Sys2Proof/Machine/Control.lean ====
section
/-! DEFINITION. The control words and the prefixes, OP 0x00 to 0x0C (R94 to R112, R38 to R43). -/

namespace Sys2Proof.Machine
open Sys2Proof

/-! ## NOP and the prefixes -/

/-- NOP (R96). -/
def execNop (g : Guard) (s : State) : Host.Outcome State Fault Refusal := .next (s.laneWord (.nop g) (fun s _ => (s, .pass)))

/-- A PFX word joins the group (R39): a second of its kind or a reserved payload traps every thread with cause 0x02. -/
def State.prefixWord (s : State) (i : Instr) : State :=
  if s.cur.mem.isEmpty then s else
  match addPrefix s.cur.pfx i with
  | none => (s.trapBundle 2).endWord
  | some p => { s with cur := { s.cur with pfx := p, pc := s.cur.pc + 4 } }

/-- PFX of kind 00 (R40). -/
def execPfxExt (e : BitVec 18) (s : State) : Host.Outcome State Fault Refusal := .next (s.prefixWord (.pfxExt e))

/-- PFX of kind 01 (R41). -/
def execPfxOrd (o c l : BitVec 3) (s : State) : Host.Outcome State Fault Refusal := .next (s.prefixWord (.pfxOrd o c l))

/-- PFX of kind 10 (R42): threads whose warp has not completed the named tokens park at the group and leave the bundle; those that go
on acquire what the commands wrote (R230, R288). -/
def execPfxTok (m : BitVec 8) (h : BitVec 2) (s : State) : Host.Outcome State Fault Refusal :=
  let s1 := s.prefixWord (.pfxTok m h)
  let go := s1.cur.mem.filter (fun x => (s.warp (warpKey s.cur.core x.2)).tokensDone m)
  .next (if s1.cur.mem.isEmpty then s1
    else if go.isEmpty then s1.endWord
    else { (if m == 0 then s1 else s1.acquireAll s.cur.core) with cur := { s1.cur with mem := go } })

/-! ## Branches (R97, R98) -/

/-- The address of a B-format word's target (R33). -/
def bTarget (c : Issue) (o : BitVec 19) : DWord := c.pc + (o.signExtend 64) * 4

/-- R97: the check of a branch or call target. -/
def targetCause (v : DWord) : Option Byte := if v.toNat % 4 != 0 then some 3 else if globalTop < v then some 4 else none

/-- A taken BRA or BRX of one thread (R97, R98, R112): `n` is when it is next eligible. -/
def State.takeBranch (s : State) (t : Nat) (y : BitVec 1) (v : DWord) (n : Nat) : State × Adv :=
  match targetCause v with
  | some c => (s, .trap c 0)
  | none =>
    (s.updThread t (fun th => { th with
      dm := th.dm || (y == 1 && decide (v ≤ s.cur.pc0)), readyAt := s.cycleOf s.cur.core + n }), .branch v)

/-- BRA (R97). -/
def execBra (g : Guard) (y : BitVec 1) (o : BitVec 19) (s : State) : Host.Outcome State Fault Refusal :=
  .next (s.laneWord (.bra g y o) (fun s t => s.takeBranch t y (bTarget s.cur o) 2))

/-- BRX (R97). -/
def execBrx (g : Guard) (y : BitVec 1) (a : BitVec 6) (s : State) : Host.Outcome State Fault Refusal :=
  .next (s.laneWord (.brx g y a) (fun s t => s.takeBranch t y ((s.thread t).pair a.toNat) 4))

/-! ## Calls and returns (R99 to R101, R459) -/

/-- An address leaves the cache for its slot in the return area (R99, R459). A missing page leaves it in the cache until the page
is there; a failed write is a failed store (R213). -/
def State.spill (s : State) (t : Nat) (e : Nat × DWord) : State × Bool :=
  let w := s.warpOfThread t
  let core := coreOfThread t
  let va := w.returnSlot (laneOf t) e.1
  match s.checkPage core w.part va false true true with
  | .trap c => (s.storeFailed t c (sectorOf va), true)
  | .page v => (s.notify w.part v, false)
  | .place p => (((s.countAccess (dieOf core) p w.part va.toNat).storeAt t va p (leBytes 8 e.2.toNat) (s.l1Put core p)).1, true)

/-- The cache keeps the four addresses pushed last; older ones are written out, oldest first (R99). -/
def State.spillTo (s : State) (t keep : Nat) : State :=
  let c := (s.thread t).rcache
  (c.drop keep).reverse.foldl (fun s e =>
    match s.spill t e with
    | (s1, true) => s1.updThread t (fun th => { th with rcache := th.rcache.filter (fun x => x != e) })
    | (s1, false) => s1) s

/-- CALL and CALLX of one thread (R100). -/
def State.takeCall (s : State) (t : Nat) (v : DWord) (n : Nat) : State × Adv :=
  let th := s.thread t
  match targetCause v with
  | some c => (s, .trap c 0)
  | none =>
    if th.depth = 255 then (s, .trap 0x0A 0)
    else
      ((s.setThread t { th with
        depth := th.depth + 1, pc := v, readyAt := s.cycleOf s.cur.core + n,
        rcache := (th.depth, s.cur.pc + 4) :: th.rcache.filter (fun e => decide (e.1 < th.depth)) }).spillTo t 4, .set)

/-- CALL (R100). -/
def execCall (g : Guard) (o : BitVec 19) (s : State) : Host.Outcome State Fault Refusal :=
  .next (s.laneWord (.call g o) (fun s t => s.takeCall t (bTarget s.cur o) 2))

/-- CALLX (R100). -/
def execCallx (g : Guard) (a : BitVec 6) (s : State) : Host.Outcome State Fault Refusal :=
  .next (s.laneWord (.callx g a) (fun s t => s.takeCall t ((s.thread t).pair a.toNat) 4))

/-- R101: the return to an address: DEPTH falls, a restart point above it ends, and the thread continues under the loop-back rule. -/
def Thread.returnTo (th : Thread) (v : DWord) : Thread :=
  let d := th.depth - 1
  { th with
    depth := d, rcache := th.rcache.filter (fun e => decide (e.1 < d)),
    idempc := if d < th.idemDepth then 0 else th.idempc }.goTo v

/-- RET of one thread (R101, R397): from the cache at once, else the thread parks until its address has been read. -/
def State.takeReturn (s : State) (t : Nat) (mark : Bool) : State × Adv :=
  let th := s.thread t
  if th.depth = 0 || (th.h && decide (th.depth - 1 ≤ th.edepth)) then (s, .trap 8 0)
  else
    match th.rcache.find? (fun e => e.1 == th.depth - 1) with
    | some e => (s.setThread t { th.returnTo e.2 with readyAt := s.cycleOf s.cur.core + 2 }, .set)
    | none =>
      let w := s.warpOfThread t
      let core := coreOfThread t
      let va := w.returnSlot (laneOf t) (th.depth - 1)
      match s.checkPage core w.part va true false true with
      | .trap c => (s, .trap c (sectorOf va))
      | .page v => ((s.notify w.part v).updThread t (fun th => { th with park := .page v }), .stay)
      | .place p =>
        let r := (s.countAccess (dieOf core) p w.part va.toNat).loadInto t va p 8 5 [] (s.l1Put core p) false 0
        let s1 := r.1.updThread t (fun th => { th with outs := th.outs.map (fun o => if o.id + 1 == r.1.ids then { o with kind := .ret } else o) })
        (s1.parkWord t .ret mark, .stay)

/-- RET (R101). -/
def execRet (g : Guard) (s : State) : Host.Outcome State Fault Refusal :=
  .next (s.laneWord (.ret g) (fun s t => s.takeReturn t g.s))

/-! ## Loops (R102) -/

/-- LOOP and LOOPI of one thread: count `n`, body of `len` words. -/
def State.takeLoop (s : State) (t n len : Nat) : State × Adv :=
  let th := s.thread t
  let a := s.cur.pc + 4
  let e := a + BitVec.ofNat 64 (4 * len)
  if n = 0 then (s, .jump e)
  else if 4 ≤ th.lstk.length then (s, .trap 9 0)
  else (s.setThread t { th with
    lstk := { start := a, stop := e, count := BitVec.ofNat 32 n, depth := th.depth, h := th.h } :: th.lstk, pc := a }, .set)

/-- LOOP (R102). -/
def execLoop (g : Guard) (d : BitVec 6) (i : BitVec 14) (s : State) : Host.Outcome State Fault Refusal :=
  .next (s.laneWord (.loop g d i) (fun s t =>
    s.takeLoop t ((s.thread t).reg d.toNat).toNat (extNat s.cur.pfx 14 i.toNat % 2 ^ 32)))

/-- LOOPI (R102). -/
def execLoopi (g : Guard) (c l : BitVec 10) (s : State) : Host.Outcome State Fault Refusal :=
  .next (s.laneWord (.loopi g c l) (fun s t => s.takeLoop t c.toNat l.toNat))

/-! ## RCV (R103 to R105) -/

/-- The thread has arrived at the RCV before address `next`, at a DEPTH. -/
def Thread.arrivedAt (th : Thread) (depth : Nat) (next : DWord) : Bool :=
  th.depth == depth && (match th.park with | .word .rcv n _ _ _ => n == next | _ => false)

/-- The threads that have arrived at an episode. -/
def State.arrivals (s : State) (w : Nat) (e : Episode) : List Nat :=
  (s.liveThreads w).filter (fun t => (s.thread t).arrivedAt e.depth (e.pc + 4))

/-- R104: an episode is released: its arrived threads pass the RCV together. -/
def State.releaseEpisode (s : State) (w : Nat) (e : Episode) : State :=
  (s.arrivals w e).foldl (fun s t => s.completeWord t)
    (s.updWarp w (fun x => { x with rcv := x.rcv.filter (fun y => y != e) }))

/-- R104: episodes at which every live thread of the warp has arrived are released. -/
def State.releaseComplete (s : State) (w : Nat) : State :=
  (s.warp w).rcv.foldl (fun s e =>
    if !(s.liveThreads w).isEmpty && (s.arrivals w e).length == (s.liveThreads w).length then s.releaseEpisode w e else s) s

/-- RCV (R103, R104): the participants arrive at the key (address, DEPTH); the first arrival opens the episode with its deadline. -/
def execRcv (g : Guard) (tmo : BitVec 16) (s : State) : Host.Outcome State Fault Refusal :=
  .next (s.simt (.rcv g tmo) (fun s ps =>
    let s1 := ps.foldl (fun s t =>
      let w := warpOf t
      let d := (s.thread t).depth
      let s1 :=
        if (s.warp w).rcv.any (fun e => e.pc == s.cur.pc && e.depth == d) then s
        else s.updWarp w (fun x => { x with rcv := x.rcv ++
          [Episode.mk s.cur.pc d (if tmo = 0 then none else some (s.cycleOf s.cur.core + 64 * tmo.toNat))] })
      s1.parkWord t .rcv g.s) s
    (match ps with | [] => s1 | t :: _ => s1.releaseComplete (warpOf t), none)))

/-! ## YIELD, EXIT, IDEM -/

/-- R83: a YIELD that leaves every live thread of a warp demoted or parked lets the warp leave the active set at once. -/
def State.yieldLeave (s : State) (w : Nat) : State :=
  if (s.liveThreads w).all (fun t => (s.thread t).dm || s.parked t) then
    s.updWarp w (fun x => { x with leaveNow := some (s.cycleOf (coreOf w)) })
  else s

/-- YIELD (R106): the executing threads are demoted. -/
def execYield (g : Guard) (s : State) : Host.Outcome State Fault Refusal :=
  .next (s.simt (.yield g) (fun s ps =>
    let s1 := ps.foldl (fun s t => (s.updThread t (fun th => { th with dm := true })).pass t g.s) s
    (((ps.map warpOf).eraseDups).foldl (fun s w => s.yieldLeave w) s1, none)))

/-- R107: a thread ends: its registers, predicates, loop stack, return area and outstanding results go; its stores still complete. -/
def Thread.ended (th : Thread) : Thread := { Thread.init with acks := th.acks }

/-- R107, R104, R418, R170: a thread stops being live: episodes may be released by it, with its warp's last thread the inbound word
goes, and with its workgroup's last thread the tile slots that the workgroup owns become EMPTY. -/
def State.exitThread (s : State) (t : Nat) : State :=
  let w := warpOf t
  let x := s.warp w
  let s1 := s.updThread t Thread.ended
  if (s1.liveThreads w).isEmpty then
    let s2 := s1.updWarp w (fun x => { x with dbgIn := none, rcv := [] })
    let mates := (List.range 64).filter (fun k => let y := s2.warp (warpKey (coreOf w) k); y.used && y.lid == x.lid && y.g == x.g)
    if mates.all (fun k => (s2.liveThreads (warpKey (coreOf w) k)).isEmpty) then s2.emptyTiles (coreOf w) x.lid x.g else s2
  else s1.releaseComplete w

/-- EXIT (R107, R108). -/
def execExit (g : Guard) (s : State) : Host.Outcome State Fault Refusal :=
  .next (s.laneWord (.exit g) (fun s t => (s.exitThread t, .set)))

/-- IDEM (R109): the restart point is recorded; a new one resets the warp's restart count (R401). -/
def execIdem (g : Guard) (s : State) : Host.Outcome State Fault Refusal :=
  .next (s.laneWord (.idem g) (fun s t =>
    let th := s.thread t
    let same := th.idempc == s.cur.pc && th.idemDepth == th.depth
    let s1 := s.setThread t { th with idempc := s.cur.pc, idemDepth := th.depth, idemLstk := th.lstk }
    (if same then s1 else s1.updWarp (warpOf t) (fun x => { x with restarts := 0 }), .pass)))

end Sys2Proof.Machine
end

