-- ==== Sys2Proof/Machine/Saved.lean ====
section
/-! DEFINITION. Memory as the engines and controllers reach it, and the parts of a pre-emption record that change while its
workgroup is saved: barriers and tokens (R255, R289, R406, R408, R409). -/

namespace Sys2Proof.Machine
open Sys2Proof

/-! ## Places and pieces of what engines and controllers reach (R23, R269, R286, R287) -/

/-- What an engine finds at an address. -/
inductive EngPlace where
  | bad (cause : Byte)
  | stall (va : DWord × Bool)
  | place (p : Place)
  deriving DecidableEq, Repr

/-- The place of bytes that a command reaches: the global window through the partition's tables, or the issuing core's local slice below
its carve-out; a host command has no local slice. Outside an aperture the cause is 0x04 (R287); a missing page or permission stalls (R286). -/
def State.engPlace (s : State) (part core : Nat) (slice : Bool) (a : DWord) (n : Nat) (rd wr : Bool) : EngPlace :=
  if a.toNat + n ≤ 2 ^ 56 then
    match s.translateAgent part a.toNat with
    | .mapped e size =>
      if pteAllows e rd wr then
        .place { home := pteHome e (sizeShift size) a.toNat, kind := pteField e 9 2, pol := 0, isStack := false, isLocal := false, entry := e, size := size }
      else .stall (a, wr)
    | _ => .stall (a, wr)
  else if slice && decide (0xFF00000000000000 ≤ a.toNat) && decide (a.toNat - 0xFF00000000000000 + n ≤ sliceBytes - (s.coreAt core).carve) then
    .place { home := .slice core (a.toNat - 0xFF00000000000000), kind := 1, pol := 0, isStack := false, isLocal := true, entry := 0, size := 0 }
  else .bad 4

/-- The place is on another device. -/
def EngPlace.remote? : EngPlace → Bool | .place p => p.home.isRemote | _ => false

/-- A piece cut where its source or its destination meets a multiple of `m`. -/
def Piece.cut (m : Nat) (p : Piece) : Nat → List Piece
  | 0 => []
  | f + 1 =>
    let k := Nat.min p.n (Nat.min (m - p.src.toNat % m) (m - p.dst.toNat % m))
    if p.n = 0 then []
    else if p.n ≤ k then [p]
    else ⟨p.src, p.dst, k, p.off⟩ :: Piece.cut m ⟨p.src + BitVec.ofNat 64 k, p.dst + BitVec.ofNat 64 k, p.n - k, p.off + k⟩ f

/-- A local run of an RCPY as pieces. -/
def localPieces (a : DWord) (n m : Nat) : List Piece := Piece.cut m ⟨a, a, n, 0⟩ (n + 1)

/-- What HK2 answers for an address (R286): mapped with the permission, forbidden 0x05, unmapped 0x06, or nothing yet. -/
def State.hk2Answer (s : State) (part : Nat) (va : DWord) (rd wr : Bool) : Option (Option Byte) :=
  match s.translateAgent part va.toNat with
  | .mapped e _ => if pteAllows e rd wr then some none else some (some 5)
  | .unmapped => some (some 6)
  | .onDemand => none

/-! ## Reads that may reach other devices (R195, R286) -/

/-- What a command's read gives: its bytes, a cause, a page to wait for, or the pieces to be asked of other devices. -/
inductive FarRead where
  | bytes (bs : List Byte)
  | bad (cause : Byte)
  | stall (va : DWord × Bool)
  | away (rs : List (BitVec 12 × Nat × Piece))

/-- For whom bytes are read: the partition, the core whose slice is meant if there is one, the bytes that other devices have sent, and
the address that HK2 has denied, or another device refused, with its cause. -/
structure Reader where
  part : Nat
  core : Nat
  slice : Bool
  cache : Tab (Option Byte)
  denied : Option (DWord × Byte)

/-- The cause with which an address has been denied. -/
def deniedAt (d : Option (DWord × Byte)) (a : DWord) : Option Byte :=
  match d with | some (v, x) => if v == a then some x else none | none => none

/-- One piece of a read. -/
def State.farPiece (s : State) (c : Reader) (p : Piece) : FarRead :=
  match deniedAt c.denied p.src with
  | some x => .bad x
  | none =>
    match s.engPlace c.part c.core c.slice p.src p.n true false with
    | .bad x => .bad x
    | .stall va => .stall va
    | .place w =>
      match w.home with
      | .remote dev va =>
        let bs := (List.range p.n).filterMap (fun i => Tab.get none c.cache (p.src.toNat + i))
        if bs.length = p.n then .bytes bs else .away [(dev, va, p)]
      | h => if s.refusedAt h p.n then .bad 6 else if s.marked h.key p.n then .bad 0x13 else .bytes (s.getBytes h.key p.n)

/-- Two consecutive reads as one: the first cause or page to wait for decides. -/
def FarRead.append : FarRead → FarRead → FarRead
  | .bytes a, .bytes b => .bytes (a ++ b)
  | .bytes _, r => r
  | .away a, .bytes _ => .away a
  | .away a, .away b => .away (a ++ b)
  | .away _, r => r
  | r, _ => r

/-- A read of `n` bytes. -/
def State.farRead (s : State) (c : Reader) (a : DWord) (n : Nat) : FarRead :=
  (localPieces a n 256).foldl (fun r p => r.append (s.farPiece c p)) (.bytes [])

/-- Bytes put into a cache from an address on. -/
def cacheBytes (m : Tab (Option Byte)) (a : Nat) : List Byte → Tab (Option Byte)
  | [] => m
  | b :: bs => cacheBytes (Tab.put none m a (some b)) (a + 1) bs

/-! ## Memory by agents that are no core (R205) -/

/-- The place of a global-window byte for an agent, when it is mapped on this device. -/
def State.agentHome (s : State) (part : Nat) (va : DWord) : Option Home :=
  if globalTop < va then none
  else
    match s.translateAgent part va.toNat with
    | .mapped e size => let h := pteHome e (sizeShift size) va.toNat; if h.isRemote then none else some h
    | _ => none

/-- An agent's access to a range is possible. -/
def State.agentCan (s : State) (part : Nat) (va : DWord) (n : Nat) : Bool :=
  (pageSpans va n).all (fun x => match s.agentHome part x.1 with | none => false | some h => !s.refusedAt h x.2 && !h.missing x.2)

/-- Bytes of a range as an agent reads them; a byte it cannot reach reads 0. -/
def State.agentLoad (s : State) (part : Nat) (va : DWord) (n : Nat) : List Byte :=
  (pageSpans va n).flatMap (fun x =>
    match s.agentHome part x.1 with
    | none => List.replicate x.2 0
    | some h => s.getBytes h.key x.2)

/-- A range at its home takes bytes; memory that accepts none of them is left as it is. -/
def State.agentPut (s : State) (h : Home) (bs : List Byte) : State :=
  if s.refusedAt h bs.length then s else ((s.touch h bs.length).hitStacks h bs.length).putBytes h.key bs

/-- A housekeeping core's bytes go to another device, in WRITE requests of at most 256 bytes. -/
def State.agentSend (s : State) (dev : BitVec 12) (v : Nat) (bs : List Byte) (after : AfterWrite) : State :=
  (localPieces (BitVec.ofNat 64 v) bs.length 256).foldl (fun s p =>
    s.request (.agentWrite after) 1 2 dev p.src (.write ((bs.drop (p.src.toNat - v)).take p.n) .plain)) s

/-- The write of one span by a housekeeping core, and whether it is performed at once: on another device it is when its reply comes (R195), in an
on-demand page when HK2 has answered (R210), and in no page it has no effect. -/
def State.agentSpan (s : State) (part : Nat) (va : DWord) (bs : List Byte) (after : AfterWrite) : State × Bool :=
  if globalTop < va then (s, true)
  else
    match s.translateAgent part va.toNat with
    | .unmapped => (s, true)
    | .onDemand =>
      let s1 := s.notify part va
      ({ s1 with dev := { s1.dev with stores := s1.dev.stores ++ [{ part := part, va := va, bytes := bs, after := after }] } }, false)
    | .mapped e size =>
      match pteHome e (sizeShift size) va.toNat with
      | .remote dev v => (s.agentSend dev v bs after, false)
      | h => (s.agentPut h bs, true)

/-- Writes a range as an agent. -/
def State.agentSpans (s : State) (part : Nat) (bs : List Byte) : List (DWord × Nat) → State
  | [] => s
  | (va, n) :: r => ((s.agentSpan part va (bs.take n) .nothing).1).agentSpans part (bs.drop n) r

/-- Writes bytes at a global-window address as an agent. -/
def State.agentStore (s : State) (part : Nat) (va : DWord) (bs : List Byte) : State :=
  s.agentSpans part bs (pageSpans va bs.length)

/-- An `n`-byte number as an agent reads it. -/
def State.agentNat (s : State) (part : Nat) (va : DWord) (n : Nat) : Nat := leNat (s.agentLoad part va n)

/-! ## What a housekeeping core reads (R205, R362, R368, R373, R384) -/

/-- What a housekeeping core's read gives: its bytes, a cause, or nothing yet. -/
inductive AgentRead where
  | bytes (bs : List Byte)
  | bad (cause : Byte)
  | wait
  deriving DecidableEq, Repr

/-- What a consumer has asked for. -/
def State.agent (s : State) (k : Nat) : Asked := Tab.get Asked.init s.agents k
/-- Changes what a consumer has asked for. -/
def State.updAgent (s : State) (k : Nat) (f : Asked → Asked) : State := { s with agents := Tab.put Asked.init s.agents k (f (s.agent k)) }
/-- A consumer is done with what it has asked for. -/
def State.agentDone (s : State) (k : Nat) : State := s.updAgent k (fun _ => {})

/-- For whom bytes are read: a consumer, or a thread with its core's slice. -/
def Asked.reader (a : Asked) (part core : Nat) (slice : Bool) : Reader := ⟨part, core, slice, a.cache, a.denied⟩

/-- A READ by a housekeeping core, as a load with R permission (R195, R205, R368): unmapped 0x06, forbidden 0x05, and nothing yet while a page
waits for HK2 or another device has not replied. -/
def State.agentRead (s : State) (k part : Nat) (va : DWord) (n : Nat) : AgentRead :=
  match s.farRead ((s.agent k).reader part 0 false) va n with
  | .bytes bs => .bytes bs
  | .bad x => .bad (if x == 4 then 6 else x)
  | .away _ => .wait
  | .stall p => (match s.hk2Answer part p.1 true false with | some (some x) => .bad x | _ => .wait)

/-- A housekeeping core's write that is not performed yet. -/
def State.agentWriting (s : State) : Bool :=
  !s.dev.stores.isEmpty || s.lodge.outs.any (fun r => match r.owner with | .agentWrite _ => true | _ => false)

/-- One more request of what is asked for. -/
def Asked.more (a : Asked) (id : Nat) : Asked := { a with id := if a.away = 0 then id else a.id, away := a.away + 1 }
/-- A reply to a request of what is asked for. -/
def Asked.got (a : Asked) (id off : Nat) (status : Byte) (data : List Byte) : Asked :=
  if a.away = 0 || a.id != id then a
  else { a with away := a.away - 1, cache := if status == 0 then cacheBytes a.cache off data else a.cache,
                denied := if status == 0 then a.denied else some (BitVec.ofNat 64 off, status) }

/-- A consumer asks for what its read lacks: HK2 for a page (R210), other devices for their bytes, once its own writes there are performed. -/
def State.agentAsk (s : State) (k part : Nat) (va : DWord) (n : Nat) : State :=
  match s.farRead ((s.agent k).reader part 0 false) va n with
  | .stall p => s.notify part p.1
  | .away rs =>
    if (s.agent k).away != 0 || s.agentWriting then s
    else
      let id := s.ids
      rs.foldl (fun s r =>
        (s.request (.agent k id r.2.2.src.toNat) 1 0 r.1 (BitVec.ofNat 64 r.2.1) (.read r.2.2.n .plain)).updAgent k (fun a => a.more id)) s.freshId.2
  | _ => s

/-! ## The layout of a record (R408) -/

/-- A barrier as 16 bytes (R255). -/
def Barrier.encode (b : Barrier) : List Byte :=
  leBytes 16 (b.exp % 2 ^ 16 + 2 ^ 16 * (b.pend % 2 ^ 16) + 2 ^ 32 * (BitVec.ofInt 32 b.tx).toNat + 2 ^ 64 * (BitVec.ofInt 17 b.dlt).toNat +
    (if b.ph then 2 ^ 81 else 0) + (if b.init then 2 ^ 82 else 0))

/-- A barrier from its 16 bytes. -/
def Barrier.decode (bs : List Byte) : Barrier :=
  let v := leNat bs
  { init := v / 2 ^ 82 % 2 == 1, ph := v / 2 ^ 81 % 2 == 1, dlt := (BitVec.ofNat 17 (v / 2 ^ 64)).toInt,
    tx := (BitVec.ofNat 32 (v / 2 ^ 32)).toInt, pend := v / 2 ^ 16 % 2 ^ 16, exp := v % 2 ^ 16 }

/-- The allotment of warp `k` of a kernel (R367): role 0 warps first. -/
def Kd.regsOf (k : Kd) (widx : Nat) : Nat := if widx < k.warps0 then k.regs0 else k.regs1

/-- The bytes of a warp's part of a record (R408). -/
def Kd.warpBytes (k : Kd) (widx : Nat) : Nat := 64 + 8192 + 128 * k.regsOf widx

/-- The offset of warp `k`'s part of a record with `slots` saved tile slots (R408). -/
def Kd.warpOffset (k : Kd) (slots widx : Nat) : Nat :=
  256 + 16 * k.nbar + 1536 * slots + ((List.range widx).map k.warpBytes).sum

/-- The bytes of a whole record before rounding (R408): `slice` is the workgroup's slice allocation. -/
def Kd.recordBytes (k : Kd) (slots slice : Nat) : Nat :=
  k.warpOffset slots (k.warps0 + k.warps1) + slice + slice / 64 + slice / 256

/-- The saved tile slots that a record's header names. -/
def State.savedSlots (s : State) (part : Nat) (addr : DWord) : Nat :=
  let b := s.agentNat part (addr + 10) 1
  b % 2 + b / 2 % 2

/-! ## Barriers of placed and saved workgroups -/

/-- Barrier `n` of a workgroup: the core's, or the record's while it is saved (R289, R406). -/
def State.barAt (s : State) (w : Wg) (n : Nat) : Barrier :=
  match w.st with
  | .saved addr =>
    let part := match s.launch? w.lid with | none => 0 | some l => l.part
    Barrier.decode (s.agentLoad part (addr + BitVec.ofNat 64 (256 + 16 * n)) 16)
  | _ => Tab.get Barrier.init0 w.bars n

/-- Replaces barrier `n` of a workgroup. -/
def State.setBarAt (s : State) (w : Wg) (n : Nat) (b : Barrier) : State :=
  match w.st with
  | .saved addr =>
    let part := match s.launch? w.lid with | none => 0 | some l => l.part
    s.agentStore part (addr + BitVec.ofNat 64 (256 + 16 * n)) b.encode
  | _ => s.updWg w.lid w.g (fun x => { x with bars := Tab.put Barrier.init0 x.bars n b })

/-! ## Tokens of placed and saved workgroups (R270) -/

/-- Token `n` of a warp of a workgroup. -/
def State.tokenAt (s : State) (lid g widx n : Nat) : Token :=
  match s.wg? lid g, s.launch? lid with
  | some w, some l =>
    match w.st with
    | .saved addr =>
      let o := addr + BitVec.ofNat 64 (l.kd.warpOffset (s.savedSlots l.part addr) widx + 2 * n)
      { out := s.agentNat l.part o 1, err := BitVec.ofNat 8 (s.agentNat l.part (o + 1) 1) }
    | _ => Tab.get Token.init (s.warp (warpKey w.core (w.slot + widx))).toks n
  | _, _ => Token.init

/-- Replaces token `n` of a warp of a workgroup. -/
def State.setToken (s : State) (lid g widx n : Nat) (k : Token) : State :=
  match s.wg? lid g, s.launch? lid with
  | some w, some l =>
    match w.st with
    | .saved addr =>
      s.agentStore l.part (addr + BitVec.ofNat 64 (l.kd.warpOffset (s.savedSlots l.part addr) widx + 2 * n)) [BitVec.ofNat 8 k.out, k.err]
    | _ => s.updWarp (warpKey w.core (w.slot + widx)) (fun x => { x with toks := Tab.put Token.init x.toks n k })
  | _, _ => s

end Sys2Proof.Machine
end

