-- ==== Sys2Proof/Machine/Copy.lean ====
section
/-! DEFINITION. The copy words CPY, TCPY, GCPY, CHAIN and TKWAIT, and RCPY, which shares their queues: acceptance, issue checks
and the commands they queue (R267 to R276, R288, R308 to R310). -/

namespace Sys2Proof.Machine
open Sys2Proof

/-! ## Acceptance (R267, R268, R364) -/

/-- R267: the copy engine of a core. -/
def engineOf (core : Nat) : Nat := 4 * (core / 128) + core % 128 % 4

/-- R364: the engine shares of an RCB and of all its ancestors leave room beside the commands (partition, RCB) an engine holds. -/
def State.shareRoom (s : State) (cmds : List (Nat × Nat)) (lid part rcb : Nat) : Bool :=
  let p := s.view lid part
  (p.ancestors rcb).all (fun r =>
    decide ((cmds.filter (fun c => c.1 == part && (c.2 == r || ((s.part part).ancestors c.2).contains r))).length < 8 * p.cqsh r))

/-- A queue of a copy engine. -/
def CopyEngine.queue (e : CopyEngine) (q : Nat) : List CopyCmd := Tab.get [] e.q q
/-- Every command an engine holds. -/
def CopyEngine.all (e : CopyEngine) : List CopyCmd := (List.range 8).flatMap e.queue

/-- R267: the engine has a place for a thread's command on a queue. -/
def State.copyRoom (s : State) (e q lid part rcb : Nat) : Bool :=
  let eng := s.engine e
  decide ((eng.queue q).length < 64) && s.shareRoom (eng.all.map (fun c => (c.part, c.rcb))) lid part rcb

/-- Token `n` of a thread's warp. -/
def State.tokenOf (s : State) (t n : Nat) : Token := (s.warpOfThread t).tok n

/-- R270: a token of a thread's warp counts one more command. -/
def State.tokenUp (s : State) (t n : Nat) : State :=
  s.updWarp (warpOf t) (fun w => { w with toks := Tab.put Token.init w.toks n { w.tok n with out := (w.tok n).out + 1 } })

/-- R275, R267: a checked participant issues its command: its token must have no error (0x0C), and without room it has not issued. -/
def State.issueOn (s : State) (t tok : Nat) (bad : Option Byte) (room : Bool) (push : State → State) : State × Adv :=
  match bad with
  | some c => (s, .trap c 0)
  | none =>
    if (s.tokenOf t tok).err != 0 then (s, .trap 0x0C 0)
    else if !room || decide (255 ≤ (s.tokenOf t tok).out) then (s, .stay)
    else ((push s).tokenUp t tok, .pass)

/-- R268: the participants by ascending warp slot and, within a warp, ascending lane. -/
def issueOrder (ps : List Nat) : List Nat := (List.range 64).flatMap (fun k => ps.filter (fun t => slotOf (warpOf t) == k))

/-- R290: the cycles for which `n` participants of a copy word occupy the core's copy port in one pass. -/
def portCycles (n : Nat) : Nat := if n = 0 then 0 else Nat.max 1 ((n + 3) / 4)

/-- A word whose participants each issue one command (R268), which no check covers (R84); it occupies the core's copy port (R290). -/
def State.commandWord (s : State) (i : Instr) (f : State → Nat → State × Adv) : State :=
  s.simt i (fun s ps => ((if ps.isEmpty then s else s.occupy 12 (portCycles ps.length)).eachLane (markOf i) f (issueOrder ps), none))

/-- A COPY OR FABRIC WORD of OP 0x74 to 0x7B: each participant issues one command (R268), whose addresses are checked over the word's passes
before anything is queued (R84, R86); every pass occupies the core's copy port (R87, R290). -/
def State.copyIssue (s : State) (i : Instr) (addrs : Thread → List DWord) (f : State → Nat → List DWord → State × Adv) : State :=
  s.simt i (fun s ps =>
    let r := s.check .addr (fun m as => as.map (faultyAddr m)) ((issueOrder ps).map (fun t => (t, addrs (s.thread t))))
    let s1 := if ps.isEmpty then r.1 else r.1.occupy 12 (portCycles ps.length * r.2.2)
    match r.2.1 with
    | none => (s1, some 0x14)
    | some as => (s1.eachAddr (markOf i) f as, none))

/-- The `k`-th of a word's checked addresses. -/
def nthAddr (as : List DWord) (k : Nat) : DWord := (as[k]?).getD 0

/-! ## Issue checks (R272, R275, R309, R310) -/

/-- R272: the reserved bits of a copy control word are zero. -/
def ccwOk (w : Word) : Bool := w &&& 0xFFFF3F80 == 0
/-- R309: the reserved bits of a remote control word are zero. -/
def rcwOk (w : Word) : Bool := w &&& 0x000F3F80 == 0
/-- A control word's BE bit. -/
def ctlBe (w : Word) : Bool := w.getLsbD 15
/-- A control word's FILL bit. -/
def ctlFill (w : Word) : Bool := w.getLsbD 14
/-- A control word's BAR. -/
def ctlBar (w : Word) : Nat := w.toNat % 128

/-- R19, R23, R275: a range in exact integers lies in one row, the global window or (if allowed) the local slice below the carve-out. -/
def rowOk (carve : Nat) (slice : Bool) (lo : Int) (n : Nat) : Bool :=
  decide (0 ≤ lo) &&
  (decide (lo + n ≤ 2 ^ 56) ||
   (slice && decide (0xFF00000000000000 ≤ lo) && decide (lo + n ≤ 0xFF00000000000000 + ((sliceBytes : Int) - carve))))

/-- The rows that a mask selects, ascending. -/
def maskRows (m : DWord) : List Nat := (List.range 64).filter (fun i => m.getLsbD i)

/-- R275: the lowest address and the bytes of the strided side of a gather or scatter. -/
def stridedRange (base : DWord) (stride : Int) (row : Nat) (rows : List Nat) : Int × Nat :=
  match rows with
  | [] => (base.toNat, 0)
  | r0 :: rs =>
    let at_ := fun (i : Nat) => (base.toNat : Int) + i * stride
    let lo := rs.foldl (fun m i => if at_ i < m then at_ i else m) (at_ r0)
    let hi := rs.foldl (fun m i => if m < at_ i then at_ i else m) (at_ r0)
    (lo, (hi - lo).toNat + row)

/-- The checks of steps 1 to 4 of R275 as a list of (passes, cause): the first that fails gives the cause. -/
def firstBad : List (Bool × Byte) → Option Byte
  | [] => none
  | (ok, c) :: r => if ok then firstBad r else some c

/-- R275, R310: the checks of a transfer, as a word or a chain record gives it; the first number is the core's carve-out, the second
NBAR, and `ok` says that the reserved bits are zero. A GCPY's count word is an address that it names (R23); one with rows of 0 bytes still names
where they lie (assumption 28). -/
def Xfer.check (carve nbar : Nat) (ok : Bool) (x : Xfer) : Option Byte :=
  let d := x.dst.toNat
  let rows := maskRows x.mask
  let none_ := rows.isEmpty
  let counted := x.cnt == 0 || rowOk carve true x.cnt.toNat 8
  let aperture :=
    match x.kind with
    | .cpy => x.len == 0 || (rowOk carve true x.src.toNat x.len && rowOk carve true d x.len)
    | .tld | .tst => rowOk carve true x.src.toNat 1 && rowOk carve true d 1
    | .gather =>
      let r := stridedRange x.src x.stride (Nat.max 1 x.row) rows
      counted && (none_ || (rowOk carve true r.1 r.2 && rowOk carve true d (Nat.max 1 (rows.length * x.row))))
    | .scatter =>
      let r := stridedRange x.dst x.stride (Nat.max 1 x.row) rows
      counted && (none_ || (rowOk carve true r.1 r.2 && rowOk carve true x.src.toNat (Nat.max 1 (rows.length * x.row))))
    | .put | .putc | .get => x.len == 0 || (rowOk carve true x.src.toNat x.len && rowOk carve false d x.len)
  let align :=
    match x.kind with
    | .cpy => !x.fill || (d % 8 == 0 && x.len % 8 == 0)
    | .tld | .tst => x.src.toNat % 64 == 0 && d % 256 == 0
    | .gather | .scatter => x.cnt.toNat % 8 == 0 && (!x.fill || (d % 8 == 0 && x.row % 8 == 0 && x.stride % 8 == 0))
    | .put | .putc => !x.fill || (d % 8 == 0 && x.len % 8 == 0)
    | .get => !x.fill || (x.src.toNat % 8 == 0 && x.len % 8 == 0)
  firstBad [(ok, 2), (!x.be || decide (x.bar < nbar), 0x0B), (aperture, 4), (align, 3)]

/-! ## The words -/

/-- The command of a thread for a transfer or a chain's head. -/
def State.newCmd (s : State) (t tok : Nat) (x : Xfer) (head : Option DWord) : CopyCmd :=
  let w := s.warpOfThread t
  { id := s.ids, part := w.part, core := coreOfThread t, owner := .token w.lid w.g w.widx tok, rcb := w.rcb, x := x, after := s.openOf t,
    chain := head }

/-- A command joins a queue of an engine. -/
def State.enqueue (s : State) (e q : Nat) (c : CopyCmd) : State :=
  (s.freshId.2).updEngine e (fun x => { x with q := Tab.put [] x.q q (x.queue q ++ [c]) })

/-- R275, R276: one participant of a copy word issues its command; the core's dirty L1 bytes are written back first (R225, R230). -/
def State.issueCopy (s : State) (t q tok : Nat) (bad : Option Byte) (x : Xfer) (head : Option DWord) : State × Adv :=
  let core := coreOfThread t
  let w := s.warpOfThread t
  s.issueOn t tok bad (s.copyRoom (engineOf core) q w.lid w.part w.rcb) (fun s =>
    let s1 := s.release core 2
    s1.enqueue (engineOf core) q (s1.newCmd t tok x head))

/-- A transfer's BE, FILL and BAR from its control word. -/
def Xfer.withCtl (x : Xfer) (w : Word) : Xfer := { x with be := ctlBe w, fill := ctlFill w, bar := ctlBar w }

/-- The carve-out and NBAR that the checks of a thread's command use. -/
def State.checkXfer (s : State) (t : Nat) (ok : Bool) (x : Xfer) : Option Byte :=
  x.check (s.coreAt (coreOfThread t)).carve (match s.launch? (s.warpOfThread t).lid with | none => 0 | some l => l.kd.nbar) ok

/-- CPY (R277). -/
def execCpy (g : Guard) (q k : BitVec 3) (a b : BitVec 6) (s : State) : Host.Outcome State Fault Refusal :=
  .next (s.copyIssue (.cpy g q k a b) (fun th => [th.pair a.toNat, th.pair (a.toNat + 2)]) (fun s t as =>
    let th := s.thread t
    let w := th.reg (b.toNat + 1)
    let x := ({ kind := .cpy, src := nthAddr as 0, dst := nthAddr as 1, len := (th.reg b.toNat).toNat } : Xfer).withCtl w
    s.issueCopy t q.toNat k.toNat (s.checkXfer t (ccwOk w) x) x none))

/-- TCPY (R279). -/
def execTcpy (g : Guard) (m : BitVec 1) (q k : BitVec 3) (a b : BitVec 6) (s : State) : Host.Outcome State Fault Refusal :=
  .next (s.copyIssue (.tcpy g m q k a b) (fun th => [th.pair a.toNat, th.pair (b.toNat + 4)]) (fun s t as =>
    let th := s.thread t
    let w := th.reg (b.toNat + 6)
    let x := ({ kind := if m == 0 then .tld else .tst, src := nthAddr as 0, dst := nthAddr as 1,
                coords := (List.range 4).map (fun j => (th.reg (b.toNat + j)).toInt) } : Xfer).withCtl w
    s.issueCopy t q.toNat k.toNat (s.checkXfer t (ccwOk w) x) x none))

/-- GCPY (R280). -/
def execGcpy (g : Guard) (m : BitVec 1) (q k : BitVec 3) (a b : BitVec 6) (s : State) : Host.Outcome State Fault Refusal :=
  .next (s.copyIssue (.gcpy g m q k a b) (fun th => [th.pair a.toNat, th.pair (a.toNat + 2), th.pair b.toNat]) (fun s t as =>
    let th := s.thread t
    let w := th.reg (b.toNat + 2)
    let mask := th.pair (a.toNat + 4)
    let row := (th.reg (a.toNat + 6)).toNat
    let x := ({ kind := if m == 0 then .gather else .scatter, src := nthAddr as 0, dst := nthAddr as 1, mask := mask,
                row := row, stride := (th.reg (a.toNat + 7)).toInt, cnt := nthAddr as 2, len := (maskRows mask).length * row } : Xfer).withCtl w
    s.issueCopy t q.toNat k.toNat (s.checkXfer t (ccwOk w) x) x none))

/-- CHAIN (R284): the head must lie in the global window or the local slice, on a multiple of 64 (R275). -/
def execChain (g : Guard) (q k : BitVec 3) (a : BitVec 6) (s : State) : Host.Outcome State Fault Refusal :=
  .next (s.copyIssue (.chain g q k a) (fun th => [th.pair a.toNat]) (fun s t as =>
    let head := nthAddr as 0
    let bad := firstBad [(rowOk (s.coreAt (coreOfThread t)).carve true head.toNat 1, 4), (head.toNat % 64 == 0, 3)]
    s.issueCopy t q.toNat k.toNat bad {} (some head)))

/-- RCPY (R308 to R311). -/
def execRcpy (g : Guard) (m : BitVec 2) (q k : BitVec 3) (a b : BitVec 6) (s : State) : Host.Outcome State Fault Refusal :=
  .next (s.copyIssue (.rcpy g m q k a b) (fun th => [th.pair a.toNat, th.pair (a.toNat + 2)]) (fun s t as =>
    let th := s.thread t
    let w := th.reg (b.toNat + 1)
    let x := ({ kind := if m == 0 then .put else if m == 1 then .putc else .get, src := nthAddr as 0, dst := nthAddr as 1,
                len := (th.reg b.toNat).toNat, dev := w.extractLsb' 20 12 } : Xfer).withCtl w
    s.issueCopy t q.toNat k.toNat (s.checkXfer t (rcwOk w) x) x none))

/-- R288: the status of the tokens a mask names: the set with errors, and the lowest one's cause. -/
def Warp.status (w : Warp) (m : BitVec 8) : Word :=
  let e := (List.range 8).filter (fun n => m.getLsbD n && (w.tok n).err != 0)
  let set := e.foldl (fun x n => x + 2 ^ n) 0
  BitVec.ofNat 32 (set + 256 * (match e with | [] => 0 | n :: _ => (w.tok n).err.toNat))

/-- R288: the errors that a status reported are cleared. -/
def Warp.clearErr (w : Warp) (m : BitVec 8) : Warp :=
  { w with toks := (List.range 8).foldl (fun ts n =>
      if m.getLsbD n then Tab.put Token.init ts n { Tab.get Token.init ts n with err := 0 } else ts) w.toks }

/-- TKWAIT (R288): threads whose tokens are not complete wait at the word; the others acquire the writes of what they waited for (R230) and
go on, with the status in vD when asked for. -/
def execTkwait (g : Guard) (d : BitVec 6) (st : BitVec 1) (m : BitVec 8) (s : State) : Host.Outcome State Fault Refusal :=
  .next (s.simt (.tkwait g d st m) (fun s ps =>
    let (s0, k) := s.agree
    let go := ps.filter (fun t => (s.warpOfThread t).tokensDone m)
    let s1 := if go.isEmpty || m == 0 then s0 else s0.acquireAll s.cur.core
    let s2 := go.foldl (fun s1 t =>
      if st == 1 then
        s1.updThread t (fun th => (th.setReg d.toNat ((s.warpOfThread t).status m)).readyFrom (s.cycleOf s.cur.core + 4 + (k - 1)) [d.toNat])
      else s1) s1
    let s3 := if st == 1 then ((go.map warpOf).eraseDups).foldl (fun s w => s.updWarp w (fun x => x.clearErr m)) s2 else s2
    (go.foldl (fun s t => s.pass t g.s) s3, none)))

end Sys2Proof.Machine
end

