-- ==== Sys2Proof/Machine/Flags.lean ====
section
/-! DEFINITION. Floating-point formats, exact values, rounding, and the flags that each operation sets (R141 to R167). -/

namespace Sys2Proof.Machine
open Sys2Proof

/-! ## Formats (R141, R142) -/

/-- A format: its width, precision `p`, least normal exponent, greatest finite magnitude code, the infinity's code if it has one, and its
canonical NaN. Magnitude codes rise with the magnitude. -/
structure Fmt where
  width : Nat
  p : Nat
  emin : Int
  maxCode : Nat
  inf : Option Nat
  nan : Nat
  deriving DecidableEq, Repr

/-- FP32 (R141). -/
def fp32 : Fmt := ⟨32, 24, -126, 0x7F7FFFFF, some 0x7F800000, 0x7FC00000⟩
/-- FP16 (R141). -/
def fp16 : Fmt := ⟨16, 11, -14, 0x7BFF, some 0x7C00, 0x7E00⟩
/-- BF16 (R141). -/
def bf16 : Fmt := ⟨16, 8, -126, 0x7F7F, some 0x7F80, 0x7FC0⟩
/-- E4M3 (R141): no infinity. -/
def e4m3 : Fmt := ⟨8, 4, -6, 0x7E, none, 0x7F⟩
/-- E5M2 (R141). -/
def e5m2 : Fmt := ⟨8, 3, -14, 0x7B, some 0x7C, 0x7E⟩
/-- E2M1 (R141): neither infinity nor NaN. -/
def e2m1 : Fmt := ⟨4, 2, 0, 0x7, none, 0⟩

/-- The format of a format code (R153). -/
def fmtOf (f : BitVec 3) : Fmt :=
  match f.toNat with
  | 1 => fp16 | 2 => bf16 | 3 => e4m3 | 4 => e5m2 | _ => e2m1

/-! ## Exact values -/

/-- A value: a NaN, an infinity, or (−1)^neg × m × 2^e. -/
inductive FVal where
  | nan (sig : Bool)
  | inf (neg : Bool)
  | fin (neg : Bool) (m : Nat) (e : Int)
  deriving DecidableEq, Repr

/-- The sign bit of a code. -/
def Fmt.negOf (f : Fmt) (c : Nat) : Bool := c / 2 ^ (f.width - 1) % 2 == 1
/-- The magnitude bits of a code. -/
def Fmt.magOf (f : Fmt) (c : Nat) : Nat := c % 2 ^ (f.width - 1)
/-- A code from its sign and magnitude. -/
def Fmt.code (f : Fmt) (neg : Bool) (mag : Nat) : Nat := (if neg then 2 ^ (f.width - 1) else 0) + mag

/-- R141: the value of a magnitude code, as m × 2^e. -/
def Fmt.finite (f : Fmt) (mag : Nat) : Nat × Int :=
  let h := 2 ^ (f.p - 1)
  let e := mag / h
  if e = 0 then (mag, f.emin - f.p + 1) else (h + mag % h, (e : Int) - 1 + f.emin - f.p + 1)

/-- R141, R142: the value of a code. -/
def Fmt.value (f : Fmt) (c : Nat) : FVal :=
  let mag := f.magOf c
  let neg := f.negOf c
  match f.inf with
  | some i =>
    if i < mag then .nan (mag / 2 ^ (f.p - 2) % 2 == 0)
    else if mag = i then .inf neg
    else let v := f.finite mag; .fin neg v.1 v.2
  | none =>
    if f.maxCode < mag then .nan false
    else let v := f.finite mag; .fin neg v.1 v.2

/-- A NaN. -/
def FVal.isNan : FVal → Bool | .nan _ => true | _ => false
/-- A signalling NaN (R142). -/
def FVal.isSig : FVal → Bool | .nan s => s | _ => false

/-! ## Flags (R148) -/

/-- Invalid operation. -/
def flagNV : BitVec 5 := 1
/-- Division by zero. -/
def flagDZ : BitVec 5 := 2
/-- Overflow. -/
def flagOF : BitVec 5 := 4
/-- Underflow. -/
def flagUF : BitVec 5 := 8
/-- Inexact. -/
def flagNX : BitVec 5 := 16
/-- A flag when a condition holds. -/
def flagIf (b : Bool) (f : BitVec 5) : BitVec 5 := if b then f else 0

/-! ## Rounding (R144 to R147) -/

/-- The rounding modes; SR carries its 16 random bits. -/
inductive RMode where
  | rne | rz | ru | rd
  | sr (r : Nat)
  deriving DecidableEq, Repr

/-- R144: the mode of a rounding code. -/
def modeOf (m : BitVec 2) : RMode :=
  match m.toNat with
  | 0 => .rne | 1 => .rz | 2 => .ru | _ => .rd

/-- m × 2^e as a multiple of 2^q: the integer part and whether a remainder is left, rounded by the mode. -/
def roundTo (mode : RMode) (neg : Bool) (m : Nat) (e q : Int) : Nat × Bool :=
  if q ≤ e then (m * 2 ^ (e - q).toNat, false)
  else
    let d := 2 ^ (q - e).toNat
    let k := m / d
    let r := m % d
    let up := match mode with
      | .rne => decide (d < 2 * r) || (2 * r == d && k % 2 == 1)
      | .rz => false
      | .ru => !neg && r != 0
      | .rd => neg && r != 0
      | .sr b => decide (d * 65536 ≤ r * 65536 + b * d)
    (if up then k + 1 else k, r != 0)

/-- R145, R146: a nonzero value m × 2^e rounded to a format: its code and flags. -/
def Fmt.round (f : Fmt) (mode : RMode) (sat neg : Bool) (m : Nat) (e : Int) : Nat × BitVec 5 :=
  let l : Int := (m.log2 : Int) + e
  let q := (if l < f.emin then f.emin else l) - f.p + 1
  let r := roundTo mode neg m e q
  let mag := (q - (f.emin - f.p + 1)).toNat * 2 ^ (f.p - 1) + r.1
  if f.maxCode < mag then
    let toInf := match mode with | .rne => true | .rz => false | .ru => !neg | .rd => neg | .sr _ => true
    let c := if sat || !toInf then f.code neg f.maxCode
      else match f.inf with | some i => f.code neg i | none => f.nan
    (c, flagOF ||| flagNX)
  else
    let tiny := decide (l < f.emin) && !(l + 1 == f.emin && (roundTo mode neg m e (l - f.p + 1)).1 == 2 ^ f.p)
    (f.code neg mag, flagIf (tiny && r.2) flagUF ||| flagIf r.2 flagNX)

/-- A value rounded to a format: zeros keep their sign, infinities pass or become NaN where there is none, a NaN is canonical. -/
def Fmt.pack (f : Fmt) (mode : RMode) (v : FVal) : Nat × BitVec 5 :=
  match v with
  | .nan _ => (f.nan, 0)
  | .inf neg => (match f.inf with | some i => f.code neg i | none => f.nan, 0)
  | .fin neg m e => if m = 0 then (f.code neg 0, 0) else f.round mode false neg m e

/-! ## Sums and products (R155) -/

/-- m × 2^e with its sign, over 2^q. -/
def scaled (neg : Bool) (m : Nat) (e q : Int) : Int :=
  let v : Int := ((m * 2 ^ (e - q).toNat : Nat) : Int)
  if neg then -v else v

/-- R155: an exact sum of finite values; an exact zero is +0, or −0 under RD, but two zeros of one sign keep it. -/
def addFin (mode : RMode) (n1 : Bool) (m1 : Nat) (e1 : Int) (n2 : Bool) (m2 : Nat) (e2 : Int) : FVal :=
  let q := if e1 < e2 then e1 else e2
  let x := scaled n1 m1 e1 q + scaled n2 m2 e2 q
  if x = 0 then
    (if m1 = 0 && m2 = 0 && n1 == n2 then .fin n1 0 0 else .fin (mode == .rd) 0 0)
  else .fin (decide (x < 0)) x.natAbs q

/-- R155: a sum, with the flags of its special cases. -/
def addVal (mode : RMode) (a b : FVal) : FVal × BitVec 5 :=
  match a, b with
  | .nan s, y => (.nan false, flagIf (s || y.isSig) flagNV)
  | x, .nan s => (.nan false, flagIf (s || x.isSig) flagNV)
  | .inf n1, .inf n2 => if n1 == n2 then (.inf n1, 0) else (.nan false, flagNV)
  | .inf n, .fin .. => (.inf n, 0)
  | .fin .., .inf n => (.inf n, 0)
  | .fin n1 m1 e1, .fin n2 m2 e2 => (addFin mode n1 m1 e1 n2 m2 e2, 0)

/-- R155: a product, with the flags of its special cases. -/
def mulVal (a b : FVal) : FVal × BitVec 5 :=
  match a, b with
  | .nan s, y => (.nan false, flagIf (s || y.isSig) flagNV)
  | x, .nan s => (.nan false, flagIf (s || x.isSig) flagNV)
  | .inf n1, .inf n2 => (.inf (n1 != n2), 0)
  | .inf n1, .fin n2 m _ => if m = 0 then (.nan false, flagNV) else (.inf (n1 != n2), 0)
  | .fin n1 m _, .inf n2 => if m = 0 then (.nan false, flagNV) else (.inf (n1 != n2), 0)
  | .fin n1 m1 e1, .fin n2 m2 e2 => (.fin (n1 != n2) (m1 * m2) (e1 + e2), 0)

/-- A value with its sign inverted. -/
def FVal.negate : FVal → FVal
  | .nan s => .nan s
  | .inf n => .inf (!n)
  | .fin n m e => .fin (!n) m e

/-- R155: vA + vB, rounded once. -/
def Fmt.add (f : Fmt) (mode : RMode) (a b : Nat) : Nat × BitVec 5 :=
  let v := addVal mode (f.value a) (f.value b)
  let r := f.pack mode v.1
  (r.1, v.2 ||| r.2)

/-- R155: vA − vB, rounded once. -/
def Fmt.sub (f : Fmt) (mode : RMode) (a b : Nat) : Nat × BitVec 5 :=
  let v := addVal mode (f.value a) (f.value b).negate
  let r := f.pack mode v.1
  (r.1, v.2 ||| r.2)

/-- R155: vA × vB, rounded once. -/
def Fmt.mul (f : Fmt) (mode : RMode) (a b : Nat) : Nat × BitVec 5 :=
  let v := mulVal (f.value a) (f.value b)
  let r := f.pack mode v.1
  (r.1, v.2 ||| r.2)

/-- R155: vA × vB + vD, rounded once; 0 × ∞ sets NV even with a quiet NaN addend. -/
def Fmt.fma (f : Fmt) (mode : RMode) (a b d : Nat) : Nat × BitVec 5 :=
  let x := mulVal (f.value a) (f.value b)
  let v := addVal mode x.1 (f.value d)
  let r := f.pack mode v.1
  (r.1, x.2 ||| v.2 ||| r.2)

/-! ## Comparison (R156, R157) -/

/-- The order of a code's value among non-NaN values, −0 below +0. -/
def Fmt.order (f : Fmt) (c : Nat) : Int := if f.negOf c then -(f.magOf c : Int) - 1 else (f.magOf c : Int)
/-- As `order`, but −0 equals +0. -/
def Fmt.numeric (f : Fmt) (c : Nat) : Int := if f.negOf c then -(f.magOf c : Int) else (f.magOf c : Int)

/-- R156: minimumNumber (or maximumNumber) of two codes. -/
def Fmt.minmax (f : Fmt) (greatest : Bool) (a b : Nat) : Nat × BitVec 5 :=
  let x := f.value a
  let y := f.value b
  let fl := flagIf (x.isSig || y.isSig) flagNV
  if x.isNan && y.isNan then (f.nan, fl)
  else if x.isNan then (b, fl)
  else if y.isNan then (a, fl)
  else if greatest then (if f.order a < f.order b then b else a, fl)
  else (if f.order b < f.order a then b else a, fl)

/-- R157: a comparison under a condition code, with NV as its table gives. -/
def fcompare (c : BitVec 3) (a b : Nat) : Bool × BitVec 5 :=
  let x := fp32.value a
  let y := fp32.value b
  let un := x.isNan || y.isNan
  let p := fp32.numeric a
  let q := fp32.numeric b
  let quietInvalid := decide (2 ≤ c.toNat) && decide (c.toNat ≤ 5)
  let nv := flagIf (x.isSig || y.isSig || (un && quietInvalid)) flagNV
  let t := match c.toNat with
    | 0 => !un && p == q
    | 1 => un || p != q
    | 2 => !un && decide (p < q)
    | 3 => !un && decide (p ≤ q)
    | 4 => !un && decide (q < p)
    | 5 => !un && decide (q ≤ p)
    | 6 => un || decide (p < q)
    | _ => un || decide (q ≤ p)
  (t, nv)

/-! ## Integral values and conversions (R158, R163 to R165) -/

/-- R158: FRND. -/
def frndWord (mode : RMode) (a : Nat) : Nat × BitVec 5 :=
  match fp32.value a with
  | .nan s => (fp32.nan, flagIf s flagNV)
  | .inf _ => (a, 0)
  | .fin neg m e =>
    if m = 0 then (a, 0)
    else
      let k := (roundTo mode neg m e 0).1
      if k = 0 then (fp32.code neg 0, 0) else ((fp32.round .rne false neg k 0).1, 0)

/-- R163: narrowing an FP32 value to a format. -/
def narrow (f : Fmt) (mode : RMode) (sat : Bool) (a : Nat) : Nat × BitVec 5 :=
  match fp32.value a with
  | .nan s => (f.nan, flagIf s flagNV)
  | .inf neg =>
    if sat then (f.code neg f.maxCode, flagNX)
    else match f.inf with | some i => (f.code neg i, 0) | none => (f.nan, flagNV)
  | .fin neg m e => if m = 0 then (f.code neg 0, 0) else f.round mode sat neg m e

/-- R163: widening an element to FP32 is exact. -/
def widen (f : Fmt) (c : Nat) : Nat × BitVec 5 :=
  match f.value c with
  | .nan s => (fp32.nan, flagIf s flagNV)
  | v => ((fp32.pack .rne v).1, 0)

/-- R49, R165: the bounds of an integer type code, and its width. -/
def intType (c : BitVec 3) : Int × Int × Nat :=
  match c.toNat with
  | 0 => (0, 2 ^ 32 - 1, 32)
  | 1 => (-2 ^ 31, 2 ^ 31 - 1, 32)
  | 2 => (0, 2 ^ 16 - 1, 16)
  | 3 => (-2 ^ 15, 2 ^ 15 - 1, 16)
  | 4 => (0, 2 ^ 8 - 1, 8)
  | _ => (-2 ^ 7, 2 ^ 7 - 1, 8)

/-- R165: FP32 to an integer type. -/
def toIntType (mode : RMode) (c : BitVec 3) (a : Nat) : Word × BitVec 5 :=
  let t := intType c
  match fp32.value a with
  | .nan _ => (0, flagNV)
  | .inf neg => (BitVec.ofInt 32 (if neg then t.1 else t.2.1), flagNV)
  | .fin neg m e =>
    let r := roundTo mode neg m e 0
    let n : Int := if neg then -(r.1 : Int) else r.1
    if n < t.1 then (BitVec.ofInt 32 t.1, flagNV)
    else if t.2.1 < n then (BitVec.ofInt 32 t.2.1, flagNV)
    else (BitVec.ofInt 32 n, flagIf r.2 flagNX)

/-- R165: an integer type to FP32. -/
def fromIntType (mode : RMode) (c : BitVec 3) (a : Word) : Nat × BitVec 5 :=
  let t := intType c
  let u : Int := ((a.toNat % 2 ^ t.2.2 : Nat) : Int)
  let n : Int := if t.2.1 < u then u - 2 ^ t.2.2 else u
  if n = 0 then (0, 0) else let r := fp32.round mode false (decide (n < 0)) n.natAbs 0; (r.1, r.2 &&& flagNX)

/-! ## Stochastic rounding (R147) -/

/-- R147: one step of the generator. -/
def srStep (s0 : Word) : Word :=
  let s := if s0 = 0 then 0x9E3779B9 else s0
  let s := s ^^^ (s <<< 13)
  let s := s ^^^ (s >>> 17)
  s ^^^ (s <<< 5)

/-- R144, R147: the rounding mode of element `k` of a conversion word, after the generator's step. -/
def convMode (m : BitVec 2) (sr : BitVec 1) (s : Word) (k : Nat) : RMode :=
  if sr == 1 then .sr (s.toNat / 65536 ^ k % 65536) else modeOf m

/-! ## Microscaling (R166, R167) -/

/-- R166: the greatest exponent of an element format. -/
def emaxOf (f : BitVec 3) : Int := match f.toNat with | 3 => 8 | 4 => 15 | _ => 2

/-- R166: floor(log2) of the greatest magnitude of a block, none if every value is zero. -/
def blockLog (vs : List Nat) : Option Int :=
  vs.foldl (fun acc a =>
    match fp32.value a with
    | .fin _ m e =>
      if m = 0 then acc
      else let l : Int := (m.log2 : Int) + e
        match acc with | none => some l | some x => some (if x < l then l else x)
    | _ => acc) none

/-- R166: the scale exponent X of a block. -/
def blockScale (f : BitVec 3) (vs : List Nat) : Int :=
  match blockLog vs with
  | none => -127
  | some l => let x := l - emaxOf f; if x < -127 then -127 else if 127 < x then 127 else x

/-- R166: some value of the block is a NaN or an infinity. -/
def blockBad (vs : List Nat) : Bool := vs.any (fun a => match fp32.value a with | .fin .. => false | _ => true)

/-- R166: one element's code and flags under a scale exponent; never OF. -/
def mxElement (f : BitVec 3) (mode : RMode) (x : Int) (a : Nat) : Nat × BitVec 5 :=
  let fm := fmtOf f
  match fp32.value a with
  | .fin neg m e =>
    if m = 0 then (fm.code neg 0, 0)
    else let r := fm.round mode true neg m (e - x); (r.1, r.2 &&& (flagUF ||| flagNX))
  | _ => (0, 0)

/-- R167: an element's value times 2^(s − 127), rounded RNE to FP32. -/
def mxExpand (f : BitVec 3) (s c : Nat) : Nat × BitVec 5 :=
  if s = 0xFF then (fp32.nan, 0)
  else
    match (fmtOf f).value c with
    | .nan sig => (fp32.nan, flagIf sig flagNV)
    | .inf neg => (fp32.code neg 0x7F800000, 0)
    | .fin neg m e => fp32.pack .rne (.fin neg m (e + (s : Int) - 127))

/-! ## The special functions (R159) -/

/-- The greatest n with n² ≤ x, by Newton's iteration from above with fuel. -/
def isqrtFrom (x : Nat) : Nat → Nat → Nat
  | 0, g => g
  | f + 1, g => let n := (g + x / g) / 2; if n < g then isqrtFrom x f n else g

/-- The integer square root. -/
def isqrt (x : Nat) : Nat := if x = 0 then 0 else isqrtFrom x (x.log2 + 2) (2 ^ (x.log2 / 2 + 1))

/-- R159: SQRT, correctly rounded RNE. The radicand is scaled so that the root has at least 40 bits, with a sticky last bit. -/
def sqrtWord (a : Nat) : Nat × BitVec 5 :=
  match fp32.value a with
  | .nan s => (fp32.nan, flagIf s flagNV)
  | .inf neg => if neg then (fp32.nan, flagNV) else (a, 0)
  | .fin neg m e =>
    if m = 0 then (a, 0)
    else if neg then (fp32.nan, flagNV)
    else
      let k : Nat := if e % 2 = 0 then 80 else 81
      let x := m * 2 ^ k
      let r := isqrt x
      let y := 2 * r + (if r * r = x then 0 else 1)
      ((fp32.round .rne false false y ((e - k) / 2 - 1)).1, 0)

/-- An FP32 code from its order: negative orders are negative codes. -/
def codeOfOrder (k : Int) : Nat := if k < 0 then fp32.code true (-k - 1).toNat else k.toNat

/-- The order of the FP32 value that m × 2^e rounds to in a direction; a magnitude beyond the finite range is the greatest finite one. -/
def orderOf (mode : RMode) (x : Int) (e : Int) : Int :=
  if x = 0 then 0
  else
    let c := (fp32.round mode true (decide (x < 0)) x.natAbs e).1
    fp32.order c

/-- R159: the SFU's value within an interval [lo, hi] × 2^e: which one is the part's own (Config.sfuPick). -/
def sfuChoose (fn : Nat) (a : Word) (lo hi e : Int) : Nat :=
  let l := orderOf .ru lo e
  let h := orderOf .rd hi e
  if h < l then codeOfOrder l else codeOfOrder (l + ((Config.sfuPick fn a : Int) % (h - l + 1)))

/-- The exponent of the last place of FP32 at a positive magnitude x × 2^e. -/
def ulpExp (x : Nat) (e : Int) : Int :=
  let l : Int := (x.log2 : Int) + e
  (if l < -126 then -126 else l) - 23

/-- An SFU value, with a sign, within `n` ulp of an exact magnitude that lies in [lo, hi] × 2^e: every value admitted keeps the bound
wherever in that interval the exact magnitude lies. -/
def sfuNear (fn : Nat) (a : Word) (neg : Bool) (lo hi : Nat) (e : Int) (n : Nat) : Nat :=
  let u := n * 2 ^ (ulpExp lo e - e).toNat
  let c := sfuChoose fn a ((hi - u : Nat) : Int) ((lo + u : Nat) : Int) e
  if neg then fp32.code true (fp32.magOf c) else c

/-- An SFU value within the absolute error d × 2^e of an exact value that lies in [lo, hi] × 2^e. -/
def sfuWithin (fn : Nat) (a : Word) (lo hi d e : Int) : Nat := sfuChoose fn a (hi - d) (lo + d) e

/-- R159: RCP. -/
def rcpWord (a : Word) : Nat × BitVec 5 :=
  match fp32.value a.toNat with
  | .nan s => (fp32.nan, flagIf s flagNV)
  | .inf neg => (fp32.code neg 0, 0)
  | .fin neg m e =>
    if m = 0 then (fp32.code neg 0x7F800000, flagDZ)
    else
      let x := 2 ^ 120 / m
      let ex := -120 - e
      if (fp32.round .rne false neg (2 * x + 1) (ex - 1)).2 &&& flagOF ≠ 0 then (fp32.code neg 0x7F800000, flagOF)
      else (sfuNear 0 a neg x (if m * x = 2 ^ 120 then x else x + 1) ex 1, 0)

/-- R159: RSQ. -/
def rsqWord (a : Word) : Nat × BitVec 5 :=
  match fp32.value a.toNat with
  | .nan s => (fp32.nan, flagIf s flagNV)
  | .inf neg => if neg then (fp32.nan, flagNV) else (0, 0)
  | .fin neg m e =>
    if m = 0 then (fp32.code neg 0x7F800000, flagDZ)
    else if neg then (fp32.nan, flagNV)
    else
      let k : Nat := if e % 2 = 0 then 240 else 241
      let r := isqrt (2 ^ k / m)
      (sfuNear 1 a false r (if m * (r * r) = 2 ^ k then r else r + 1) ((-e - k) / 2) 2, 0)

/-- 2^(2^-k) over 2^96, from k = 1 on. -/
def exp2Roots : Nat → Nat → List Nat
  | 0, _ => []
  | f + 1, c => let r := isqrt (c * 2 ^ 96); r :: exp2Roots f r

/-- 2^x over 2^96 for a fraction x over 2^72, the product of the roots its bits name. -/
def exp2Frac (x : Nat) : Nat :=
  ((List.range 72).zip (exp2Roots 72 (2 ^ 97))).foldl (fun acc kr =>
    if x.testBit (71 - kr.1) then acc * kr.2 / 2 ^ 96 else acc) (2 ^ 96)

/-- R159: EX2. -/
def ex2Word (a : Word) : Nat × BitVec 5 :=
  match fp32.value a.toNat with
  | .nan s => (fp32.nan, flagIf s flagNV)
  | .inf neg => if neg then (0, 0) else (0x7F800000, 0)
  | .fin neg m e =>
    -- the floor of x over 2^72; the floor of x itself is exact
    let sm : Int := if neg then -m else m
    let x : Int := if (-72) ≤ e then sm * 2 ^ (e + 72).toNat else sm / 2 ^ (-72 - e).toNat
    let i := x / 2 ^ 72
    let f := (x % 2 ^ 72).toNat
    if !neg && decide (128 ≤ i) then (0x7F800000, flagOF)
    else if f = 0 && decide (-149 ≤ i) && (decide (-72 ≤ e) || m == 0) then ((fp32.round .rne false false 1 i).1, 0)
    else if i < -400 then (sfuChoose 3 a 0 2 (-149), 0)
    else let y := exp2Frac f; (sfuNear 3 a false y (y + y / 2 ^ 60 + 1) (i - 96) 2, 0)

/-- The bits after the point of log2 of y over 2^127, 1 ≤ y/2^127 < 2, by repeated squaring. -/
def log2Bits : Nat → Nat → Nat → Nat
  | 0, _, acc => acc
  | f + 1, y, acc =>
    let z := y * y / 2 ^ 127
    if 2 ^ 128 ≤ z then log2Bits f (z / 2) (2 * acc + 1) else log2Bits f z (2 * acc)

/-- R159: LG2. -/
def lg2Word (a : Word) : Nat × BitVec 5 :=
  match fp32.value a.toNat with
  | .nan s => (fp32.nan, flagIf s flagNV)
  | .inf neg => if neg then (fp32.nan, flagNV) else (a.toNat, 0)
  | .fin neg m e =>
    if m = 0 then (fp32.code true 0x7F800000, flagDZ)
    else if neg then (fp32.nan, flagNV)
    else
      let l : Int := (m.log2 : Int) + e
      let y := m * 2 ^ (127 - m.log2)
      let v : Int := l * 2 ^ 80 + log2Bits 80 y 0
      if v = 0 then (0, 0)
      else if l = 0 || l = -1 || (l = 1 && m = 2 ^ m.log2) then (sfuWithin 4 a v (v + 2) (2 ^ 58) (-80), 0)
      else if m = 2 ^ m.log2 then (sfuNear 4 a (decide (v < 0)) v.natAbs v.natAbs (-80) 2, 0)
      else if v < 0 then (sfuNear 4 a true (v.natAbs - 2) v.natAbs (-80) 2, 0)
      else (sfuNear 4 a false v.natAbs (v.natAbs + 2) (-80) 2, 0)

/-- π over 2^100. -/
def piOver : Int := 3982441812995697363688351113952

/-- The Taylor sum of a sine or cosine over 2^100: the term, its index, and the accumulated sum. -/
def trigSum (r2 : Int) : Nat → Int → Int → Int → Int
  | 0, _, _, acc => acc
  | f + 1, term, n, acc => trigSum r2 f (-(term * r2 / 2 ^ 100) / ((n + 1) * (n + 2))) (n + 2) (acc + term)

/-- Sine (or cosine) of x over 2^100. -/
def trigOf (cosine : Bool) (x : Int) : Int :=
  let r := (x + piOver) % (2 * piOver) - piOver
  let r2 := r * r / 2 ^ 100
  if cosine then trigSum r2 40 (2 ^ 100) 0 0 else trigSum r2 40 r 1 0

/-- R159: SIN and COS. -/
def trigWord (cosine : Bool) (a : Word) : Nat × BitVec 5 :=
  match fp32.value a.toNat with
  | .nan s => (fp32.nan, flagIf s flagNV)
  | .inf _ => (fp32.nan, flagNV)
  | .fin neg m e =>
    let fn := if cosine then 6 else 5
    if m = 0 then (if cosine then 0x3F800000 else a.toNat, 0)
    else if decide (15 < (m.log2 : Int) + e) || ((m.log2 : Int) + e == 15 && m != 2 ^ m.log2) then (sfuChoose fn a (-1) 1 0, 0)
    else
      let v : Int := if (-100) ≤ e then ((m * 2 ^ (e + 100).toNat : Nat) : Int) else ((m / 2 ^ (-100 - e).toNat : Nat) : Int)
      let t := trigOf cosine (if neg then -v else v)
      (sfuWithin fn a (t - 2 ^ 50) (t + 2 ^ 50) (2 ^ 79) (-100), 0)

end Sys2Proof.Machine
end

