-- ==== Sys2Proof/Machine/Sync.lean ====
section
/-! DEFINITION. The atomic, fence and barrier words, OP 0x6C to 0x73, and the events of barriers (R243 to R265, R462). -/

namespace Sys2Proof.Machine
open Sys2Proof

/-! ## Atomics (R243 to R251) -/

/-- R56: the operation of an ATOM or RED code. -/
def atomOpOf (o : BitVec 4) : AtomOp :=
  match o.toNat with
  | 0 => .add | 1 => .min | 2 => .max | 3 => .minn | 4 => .maxn | 5 => .and | 6 => .or | 7 => .xor | 8 => .xchg | _ => .fadd

/-- R246: f(m, x) on 64 bits; `y` is the new value of a CAS. -/
def atomWide (op : AtomOp) (m x y : DWord) : DWord :=
  match op with
  | .add => m + x
  | .min => if x.slt m then x else m
  | .max => if m.slt x then x else m
  | .minn => if x.ult m then x else m
  | .maxn => if m.ult x then x else m
  | .and => m &&& x
  | .or => m ||| x
  | .xor => m ^^^ x
  | .xchg => x
  | .fadd => m
  | .cas => if m = x then y else m

/-- R246, R247: f(m, x) on 32 bits. -/
def atomNarrow (op : AtomOp) (m x y : Word) : Word :=
  match op with
  | .add => m + x
  | .min => if x.slt m then x else m
  | .max => if m.slt x then x else m
  | .minn => if x.ult m then x else m
  | .maxn => if m.ult x then x else m
  | .and => m &&& x
  | .or => m ||| x
  | .xor => m ^^^ x
  | .xchg => x
  | .fadd => BitVec.ofNat 32 (fp32.add .rne m.toNat x.toNat).1
  | .cas => if m = x then y else m

/-- f at either width; a 32-bit value is zero-extended. -/
def atomFn (op : AtomOp) (wide : Bool) (m x y : DWord) : DWord :=
  if wide then atomWide op m x y
  else (atomNarrow op (m.setWidth 32) (x.setWidth 32) (y.setWidth 32)).zeroExtend 64

/-- R246: a group's operands applied in order: the value before each, and the last value. -/
def atomGroup (op : AtomOp) (wide : Bool) : DWord → List (DWord × DWord) → List DWord × DWord
  | m, [] => ([], m)
  | m, (x, y) :: r => let q := atomGroup op wide (atomFn op wide m x y) r; (m :: q.1, q.2)

/-- The bytes of an atomic's location. -/
def atomBytes (wide : Bool) : Nat := if wide then 8 else 4

/-- R246: one group at a home of this device, as one indivisible step: the old value, or the cause that refuses it (R200, R212). Whether a
host completer refuses one, with cause 0x05, is a free choice (R245, R250, assumption 3). -/
def State.atomAt (s : State) (h : Home) (op : AtomOp) (wide : Bool) (xs : List (DWord × DWord)) : State × Except Byte DWord :=
  let n := atomBytes wide
  match s.readHome h n with
  | (s1, .bytes bs) =>
    let m := BitVec.ofNat 64 (leNat bs)
    if h.isHost && Config.freeChoice s.free % 2 = 1 then ({ s1 with free := s1.free + 1 }, .error 5)
    else
      let s2 := { s1 with free := if h.isHost then s1.free + 1 else s1.free }
      ((s2.hitStacks h n).storeNat h.key n (atomGroup op wide m xs).2.toNat, .ok m)
  | (s1, .bad c) => (s1, .error c)
  | (s1, .later) => (s1, .error 6)

/-- R245: a HOST page accepts an operation. -/
def hostTakes (isRed : Bool) (op : AtomOp) : Bool := op == .add || (!isRed && (op == .xchg || op == .cas))

/-- A member of a group: its thread, operands, and the identity of its result or acknowledgement. -/
structure Member where
  tid : Nat
  addr : DWord
  place : Place
  x : DWord
  y : DWord
  deriving DecidableEq, Repr

/-- R246: the members of one group, at one address and one home. -/
def sameGroup (a b : Member) : Bool := a.addr == b.addr && a.place.home == b.place.home

/-- The groups of a bundle, each in ascending lane order, in the order of their lowest lanes. -/
def groupMembers : Nat → List Member → List (List Member)
  | 0, _ => []
  | _, [] => []
  | f + 1, m :: ms => (m :: ms.filter (sameGroup m)) :: groupMembers f (ms.filter (fun x => !sameGroup m x))

/-- What an atomic word is: its operation and width, whether it returns the old value, and where to. -/
structure AtomWord where
  op : AtomOp
  wide : Bool
  isRed : Bool
  d : Nat
  mark : Bool
  deriving DecidableEq, Repr

/-- An old value as a word's result (R246). -/
def AtomWord.result (w : AtomWord) (v : DWord) : List Word :=
  if w.wide then [v.extractLsb' 0 32, v.extractLsb' 32 32] else [v.extractLsb' 0 32]

/-- A member's result or acknowledgement (R79, R250). -/
def State.atomDone (s : State) (w : AtomWord) (m : Member) (r : Option (Except Byte DWord)) : State :=
  let so := m.place.so s.cur.pfx
  let sec := sectorOf m.addr
  let o := ordCode s.cur.pfx
  let acq := if o == 2 || o == 4 then effScope (scopeCode s.cur.pfx) (m.place.home.scope (coreOfThread m.tid)) else 0
  if w.isRed then s.addAck m.tid so r.isSome (match r with | some (.error c) => some (c, sec) | _ => none)
  else
    s.addOut m.tid .regs (footprint w.d (if w.wide then 2 else 1))
      (match r with | none => none | some (.error c) => some (.bad c) | some (.ok v) => some (.val (w.result v))) sec so acq 0

/-- R246, R248: one group's read-modify-write; a remote one is one ATOMIC packet (R294). -/
def State.atomGroupAt (s : State) (w : AtomWord) (g : List Member) : State :=
  match g with
  | [] => s
  | m :: _ =>
    let s0 := s.dropSector s.cur.core m.place.home.sector
    let xs := g.map (fun x => (x.x, x.y))
    match m.place.home with
    | .remote dev va =>
      let ids := g.zipIdx.map (fun x => (x.1.tid, s0.ids + x.2, x.1.x, x.1.y))
      (g.foldl (fun s m => s.atomDone w m none) s0).request (.atom ids w.op w.wide m.addr) 1 3 dev (BitVec.ofNat 64 va)
        (.atomic w.op w.wide xs)
    | h =>
      match s0.atomAt h w.op w.wide xs with
      | (s1, .error c) => g.foldl (fun s m => s.atomDone w m (some (.error c))) s1
      | (s1, .ok v) =>
        (g.zip (atomGroup w.op w.wide v xs).1).foldl (fun s e => s.atomDone w e.1 (some (.ok e.2))) s1

/-- R245: step 4 of the checks for an atomic: a HOST page accepts some operations only. -/
def AtomWord.refuses (w : AtomWord) (p : Place) : Option Byte := if p.home.isHost && !hostTakes w.isRed w.op then some 5 else none

/-- R224, R249: what an atomic's place makes a participant wait for is over: its previous SO access, and the release that the word makes. -/
def State.atomReleased (s : State) (t : Nat) (p : Place) : State × Bool :=
  let o := ordCode s.cur.pfx
  let free := !(p.so s.cur.pfx && (s.thread t).soOpen)
  if o == 3 || o == 4 then
    let r := s.releaseAt t (effScope (scopeCode s.cur.pfx) (p.home.scope (coreOfThread t)))
    (r.1, r.2 && free)
  else (s, free)

/-- The releases that the participants who reach a place make; false while one of them must wait. -/
def State.atomsReleased (s : State) (w : AtomWord) : List (Nat × DWord × Checked) → State × Bool
  | [] => (s, true)
  | (t, a, c) :: r =>
    match c with
    | .place p =>
      if (w.refuses p).isSome || s.watched t a (atomBytes w.wide) true true then s.atomsReleased w r
      else
        let q := s.atomReleased t p
        let z := q.1.atomsReleased w r
        (z.1, q.2 && z.2)
    | _ => s.atomsReleased w r

/-- The access of each participant at the place that its check gave (R245); those that may go on become members, the others trap or park. -/
def State.gather (s : State) (w : AtomWord) (x y : Thread → DWord) : List (Nat × DWord × Checked) → State × List Member
  | [] => (s, [])
  | (t, a, c) :: r =>
    match c, s.accessAt c (fun _ p => w.refuses p) t a (atomBytes w.wide) true true (fun s _ => (s, .set)) with
    | .place p, (s1, .set) =>
      let th := s1.thread t
      let q := s1.gather w x y r
      (q.1, { tid := t, addr := a, place := p, x := x th, y := y th } :: q.2)
    | _, (s1, adv) => (s1.goOn t w.mark adv).gather w x y r

/-- AN ATOMIC WORD (R245 to R250): the participants are checked, grouped by address, and each group is performed at its home. So that no group
is split (R246), every participant stays at the word while one of them waits for its release or its previous SO access. -/
def State.atomic (s : State) (i : Instr) (w : AtomWord) (a : BitVec 6) (x y : Thread → DWord) : State :=
  s.simt i (fun s ps =>
    match s.check .addr faultyAddr (ps.map (fun t => (t, (s.thread t).pair a.toNat))) with
    | (s1, none, k) => (s1.occupy 5 k, some 0x14)
    | (s1, some as, k) =>
      let s2 := (s1.occupy 5 (s1.lsuCycles as (atomBytes w.wide) * k)).withPasses k
      let n := atomBytes w.wide
      let cs := as.map (fun x => (x.1, x.2, s2.checkAccess x.1 x.2 n n true true false))
      match s2.atomsReleased w cs with
      | (s3, false) => (s3, none)
      | (s3, true) =>
        let g := s3.gather w x y cs
        ((groupMembers g.2.length g.2).foldl (fun s ms =>
          ms.foldl (fun s m => s.pass m.tid w.mark) (s.atomGroupAt w ms)) g.1, none))

/-- An operand: a pair, or a register zero-extended. -/
def atomOperand (wide : Bool) (d : BitVec 6) (th : Thread) : DWord := if wide then th.pair d.toNat else (th.reg d.toNat).zeroExtend 64

/-- ATOM (R246). -/
def execAtom (g : Guard) (d a : BitVec 6) (w : BitVec 1) (o : BitVec 4) (s : State) : Host.Outcome State Fault Refusal :=
  .next (s.atomic (.atom g d a w o) { op := atomOpOf o, wide := w == 1, isRed := false, d := d.toNat, mark := g.s } a
    (atomOperand (w == 1) d) (fun _ => 0))

/-- CAS (R246). -/
def execCas (g : Guard) (w : BitVec 1) (d a b : BitVec 6) (s : State) : Host.Outcome State Fault Refusal :=
  .next (s.atomic (.cas g w d a b) { op := .cas, wide := w == 1, isRed := false, d := d.toNat, mark := g.s } a
    (atomOperand (w == 1) d) (atomOperand (w == 1) b))

/-- RED (R246). -/
def execRed (g : Guard) (d a : BitVec 6) (w : BitVec 1) (o : BitVec 4) (s : State) : Host.Outcome State Fault Refusal :=
  .next (s.atomic (.red g d a w o) { op := atomOpOf o, wide := w == 1, isRed := true, d := d.toNat, mark := g.s } a
    (atomOperand (w == 1) d) (fun _ => 0))

/-! ## FENCE (R226, R227, R253) -/

/-- FENCE (R253). -/
def execFence (g : Guard) (m : BitVec 2) (c : BitVec 3) (s : State) : Host.Outcome State Fault Refusal :=
  .next (s.simt (.fence g m c) (fun s ps =>
    (s.agree.1.eachLane g.s (fun s t =>
      let sc := if c == 0 then 1 else c.toNat
      let s1 := (s.fenceL1 (coreOfThread t) m.toNat sc).updThread t (fun th => { th with fencing := some (m.toNat, sc) })
      (s1.fenceDone t, .pass)) ps, none)))

/-! ## Barriers (R254 to R264) -/

/-- R262: the flip test after an event: the barrier and whether it flipped. -/
def Barrier.flip (b : Barrier) : Barrier × Bool :=
  if b.init && b.pend == 0 && b.tx == 0 then
    let e := ((b.exp : Int) + b.dlt).toNat
    ({ b with ph := !b.ph, exp := e, dlt := 0, pend := e, init := e != 0 }, true)
  else (b, false)

/-- A warp slot holds warp `k` of a workgroup: a slot that was freed may have been given to another workgroup (R108). -/
def Warp.holds (x : Warp) (w : Wg) (k : Nat) : Bool := x.used && x.lid == w.lid && x.g == w.g && x.widx == k

/-- The threads of a placed workgroup that are live. -/
def State.wgThreads (s : State) (w : Wg) : List Nat :=
  match w.st with
  | .saved _ => []
  | _ => (List.range w.warps).flatMap (fun k =>
      let key := warpKey w.core (w.slot + k)
      if (s.warp key).holds w k then s.liveThreads key else [])
/-- R263: the scope at which a thread waits at a barrier. -/
def Thread.waitsAt (th : Thread) (n : Nat) : Option Nat :=
  match th.park with | .word (.barrier k c) .. => if k == n then some c else none | _ => none

/-- R262 to R265: every thread that waits on a barrier is released by its flip, acquires, and is eligible two cycles later. The phase may
have counted an engine's bytes, whose writes of every kind it acquires (R230), so clean lines of every kind leave the L1 in every case. -/
def State.releaseBarrier (s : State) (w : Wg) (n : Nat) : State :=
  (s.wgThreads w).foldl (fun s t =>
    match (s.thread t).waitsAt n with
    | none => s
    | some _ => ((s.acquireAll (coreOfThread t)).completeWord t).delay 2 [t]) s

/-- R254: the number of barriers of a launch. -/
def State.nbar (s : State) (lid : Nat) : Nat := match s.launch? lid with | none => 0 | some l => l.kd.nbar

/-- AN EVENT ON A BARRIER (R257, R261, R262): the change `f`, refused when it answers none, when there is no such barrier, or when its
operation fails; then the flip test. -/
def State.barEvent (s : State) (lid g n : Nat) (f : Wg → Barrier → Option Barrier) : State × Bool :=
  match s.wg? lid g with
  | none => (s, false)
  | some w =>
    if s.nbar lid ≤ n then (s, false)
    else
      match f w (s.barAt w n) with
      | none => (s, false)
      | some b =>
        let r := b.flip
        let s1 := s.setBarAt w n r.1
        (if r.2 then s1.releaseBarrier w n else s1, true)

/-- R259: N arrivals in one event of BARV with a KM value; every operand is at most 65,535. -/
def Barrier.arrive (b : Barrier) (k : Nat) (ns : List Nat) : Option Barrier :=
  let n := ns.sum
  if !b.init || ns.any (fun x => decide (65535 < x)) then none
  else
    match k with
    | 2 => if b.pend < n || (b.exp : Int) + b.dlt < n then none else some { b with pend := b.pend - n, dlt := b.dlt - n }
    | 3 => if 65535 < (b.exp : Int) + b.dlt + n then none else some { b with dlt := b.dlt + n }
    | _ => if b.pend < n then none else some { b with pend := b.pend - n }

/-- TX has a value in its range (R260). -/
def txOk (x : Int) : Bool := decide (-(2 ^ 31) ≤ x) && decide (x ≤ 2 ^ 31 - 1)

/-- R260: an event of BART with a KM value: N bytes and c arrivals. -/
def Barrier.bytes (b : Barrier) (k n c : Nat) : Option Barrier :=
  let tx := if k = 1 then b.tx - n else b.tx + n
  if !b.init || !txOk tx then none
  else if k = 2 then (if b.pend < c then none else some { b with tx := tx, pend := b.pend - c })
  else some { b with tx := tx }

/-- R258: the barrier may be initialised or invalidated. -/
def Barrier.quiet (b : Barrier) (waited : Bool) : Bool := !b.init || (b.pend == b.exp && b.tx == 0 && b.dlt == 0 && !waited)

/-- A thread of the workgroup waits on the barrier. -/
def State.waited (s : State) (w : Wg) (n : Nat) : Bool := (s.wgThreads w).any (fun t => ((s.thread t).waitsAt n).isSome)

/-- The lowest warp slot that holds one of some threads. -/
def minSlot (ts : List Nat) : Nat := ts.foldl (fun m t => Nat.min m (slotOf (warpOf t))) 64

/-- R462: the participants by workgroup, in the order of the lowest warp slot that holds one. -/
def State.byWg (s : State) (ps : List Nat) : List ((Nat × Nat) × List Nat) :=
  let own := fun t => let w := s.warpOfThread t; (w.lid, w.g)
  let gs := ((ps.map own).eraseDups).map (fun o => (o, ps.filter (fun t => own t == o)))
  (List.range 64).flatMap (fun k => gs.filter (fun g => minSlot g.2 == k))

/-- R261, R462: each workgroup's participants are one event; the participants of a failing event trap with cause 0x0B, the others pass. -/
def State.barEvents (s : State) (n : Nat) (mark : Bool) (f : State → Wg → List Nat → Barrier → Option Barrier) (ps : List Nat) : State :=
  (s.byWg ps).foldl (fun s g =>
    match s.barEvent g.1.1 g.1.2 n (fun w b => f s w g.2 b) with
    | (s1, true) => g.2.foldl (fun s t => s.pass t mark) s1
    | (s1, false) => g.2.foldl (fun s t => s.trapWord t 0x0B 0) s1) s

/-- The barrier unit is occupied by a bundle that has participants, in each of its passes (R87, R265). -/
def State.barUnit (s : State) (ps : List Nat) : State := let (s1, k) := s.agree; if ps.isEmpty then s1 else s1.occupy 6 k

/-- A word that is one event of a barrier for each workgroup. -/
def State.barWord (s : State) (i : Instr) (n : Nat) (f : State → Wg → List Nat → Barrier → Option Barrier) : State :=
  s.simt i (fun s ps => ((s.barUnit ps).barEvents n (markOf i) f ps, none))

/-- The releases that some threads make at a scope; false while one of them must wait. -/
def State.allReleased (s : State) (scope : Nat) : List Nat → State × Bool
  | [] => (s, true)
  | t :: ts => let q := s.releaseAt t scope; let r := q.1.allReleased scope ts; (r.1, q.2 && r.2)

/-- BARV (R259, R264): the arrivals, drops and joins that are not relaxed release first; so that a workgroup's participants are one event
(R462), all stay at the word while one of them waits for its release. -/
def execBarv (g : Guard) (k : BitVec 2) (b : BitVec 7) (x : BitVec 1) (v : BitVec 10) (s : State) : Host.Outcome State Fault Refusal :=
  .next (s.simt (.barv g k b x v) (fun s ps =>
    let s0 := s.barUnit ps
    match (if k == 1 then (s0, true) else s0.allReleased (effScope (scopeCode s.cur.pfx) 1) ps) with
    | (s1, false) => (s1, none)
    | (s1, true) =>
      (s1.barEvents b.toNat g.s (fun s _ ts bar => bar.arrive k.toNat (ts.map (fun t => (kOperand (s.thread t) x v).toNat))) ps, none)))

/-- BART (R260). -/
def execBart (g : Guard) (k : BitVec 2) (b : BitVec 7) (x : BitVec 1) (v : BitVec 10) (s : State) : Host.Outcome State Fault Refusal :=
  .next (s.barWord (.bart g k b x v) b.toNat (fun s _ ts bar =>
    bar.bytes k.toNat (ts.map (fun t => (kOperand (s.thread t) x v).toNat)).sum ts.length))

/-- The operand of a workgroup's lowest-lane participant (R258). -/
def State.firstOperand (s : State) (ts : List Nat) (x : BitVec 1) (v : BitVec 10) : Nat :=
  match ts with | [] => 0 | t :: _ => (kOperand (s.thread t) x v).toNat

/-- BARI.INIT (R258). -/
def execBariInit (g : Guard) (b : BitVec 7) (x : BitVec 1) (v : BitVec 10) (s : State) : Host.Outcome State Fault Refusal :=
  .next (s.barWord (.bariInit g b x v) b.toNat (fun s w ts bar =>
    let n := s.firstOperand ts x v
    if !bar.quiet (s.waited w b.toNat) || n = 0 || 65535 < n then none
    else some { init := true, ph := false, dlt := 0, tx := 0, pend := n, exp := n }))

/-- BARI.INVAL (R258). -/
def execBariInval (g : Guard) (b : BitVec 7) (s : State) : Host.Outcome State Fault Refusal :=
  .next (s.barWord (.bariInval g b) b.toNat (fun s w _ bar =>
    if bar.quiet (s.waited w b.toNat) then some Barrier.init0 else none))

/-- BARW of one thread (R263 to R265). -/
def State.barWait (s : State) (t n : Nat) (par mark : Bool) : State × Adv :=
  let w := s.warpOfThread t
  let sc := effScope (scopeCode s.cur.pfx) 1
  match s.wg? w.lid w.g with
  | none => (s, .trap 0x0B 0)
  | some x =>
    if decide (s.nbar w.lid ≤ n) || !(s.barAt x n).init then (s, .trap 0x0B 0)
    else if (s.barAt x n).ph != par then ((s.acquireAll (coreOfThread t)).delay 2 [t], .pass)
    else (s.parkWord t (.barrier n sc) mark, .stay)

/-- BARW (R263). -/
def execBarw (g : Guard) (b : BitVec 7) (x : BitVec 1) (v : BitVec 10) (s : State) : Host.Outcome State Fault Refusal :=
  .next (s.simt (.barw g b x v) (fun s ps =>
    ((s.barUnit ps).eachLane g.s (fun s t => s.barWait t b.toNat ((kOperand (s.thread t) x v).getLsbD 0) g.s) ps, none)))

end Sys2Proof.Machine
end

