-- ==== Sys2Proof/Machine/Fabric.lean ====
section
/-! DEFINITION. The fabric words SIGR and COLL (R314 to R317), and the arrivals that signals make at barriers. -/

namespace Sys2Proof.Machine
open Sys2Proof

/-! ## Arrivals at a workgroup's barrier (R315) -/

/-- R370: the workgroup's slice allocation holds an offset of its core. -/
def State.ownsOffset (s : State) (w : Wg) (off : Nat) : Bool :=
  match s.launch? w.lid with
  | none => false
  | some l => decide (131072 * w.slot ≤ off) && decide (off < 131072 * w.slot + l.kd.slice)

/-- The workgroup is saved (R406). -/
def Wg.isSaved (w : Wg) : Bool := match w.st with | .saved _ => true | _ => false

/-- The placed workgroup that owns the slice line at an offset of a core. -/
def State.sliceOwner (s : State) (core off : Nat) : Option Wg :=
  s.wgs.find? (fun w => w.core == core && !w.isSaved && s.ownsOffset w (off - off % 256))

/-- R315: an arrival named by vB at the barrier of the workgroup that owns a slice line; the cause when it fails. -/
def State.arriveFor (s : State) (o : Option Wg) (v : Word) : State × Option Byte :=
  let k := v.toNat % 128
  let c := v.toNat / 65536
  if v.toNat / 128 % 512 != 0 then (s, some 0x0B)
  else
    match o with
    | none => (s, some 0x0B)
    | some w =>
      match s.barEvent w.lid w.g k (fun _ b => b.arrive 0 [c]) with
      | (s1, true) => (s1, none)
      | (s1, false) => (s1, some 0x0B)

/-- R203, R406: an on-demand entry that HK2 has made for a saved workgroup's slice allocation: the workgroup an address belongs to. -/
def State.savedOwner (s : State) (part : Nat) (va : DWord) : Option Wg :=
  match s.probe part va.toNat with
  | some (e, size) =>
    if e.getLsbD 1 || !e.getLsbD 2 then none
    else
      match pteHome e (sizeShift size) va.toNat with
      | .slice c o => s.wgs.find? (fun w =>
          w.core == c && w.isSaved && w.pages.contains (part, size, va.toNat / 2 ^ sizeShift size) && s.ownsOffset w (o - o % 256))
      | _ => none
  | none => none

/-- R315: a signal of mode 0 (store-and-fill) or 1 and 2 (arrival) at a place of this device. -/
def State.signalAt (s : State) (h : Home) (mode n : Nat) (v : DWord) : State × Option Byte :=
  match h with
  | .slice c o =>
    if mode = 0 then s.tagStore h (leBytes n v.toNat)
    else if s.refusedAt h 8 then (s, some 6)
    else s.arriveFor (s.sliceOwner c o) (v.setWidth 32)
  | _ => (s, some 0x18)

/-! ## SIGR (R314 to R316) -/

/-- SIGR of one participant at its place: the release it makes, then the signal, on the mesh or as a SIGNAL packet. -/
def State.sigrAt (s : State) (t : Nat) (a : DWord) (p : Place) (mode n scope : Nat) (v : DWord) : State × Adv :=
  match s.releaseAt t scope with
  | (s1, false) => (s1, .stay)
  | (s1, true) =>
    let s0 := s1.dropSector (coreOfThread t) p.home.sector
    let so := p.so s.cur.pfx
    match p.home with
    | .remote dev va =>
      let id := s0.ids
      ((s0.addAck t so false none).request (.ack t id a) 1 4 dev (BitVec.ofNat 64 va) (.signal (BitVec.ofNat 2 mode) (n == 8) v), .pass)
    | h => let r := s0.signalAt h mode n v; (r.1.addAck t so true (r.2.map (fun c => (c, sectorOf a))), .pass)

/-- SIGR.FILL (R315, R316): a release at its home scope, as STO. -/
def execSigrFill (g : Guard) (d a : BitVec 6) (z : BitVec 1) (s : State) : Host.Outcome State Fault Refusal :=
  let n := if z == 1 then 8 else 4
  .next (s.memWord (.sigrFill g d a z) n (fun th => th.pair a.toNat) (fun s t ea =>
    s.access t ea n n false true false (fun s p =>
      s.sigrAt t ea p 0 n (effScope (scopeCode s.cur.pfx) (p.home.scope (coreOfThread t)))
        (if z == 1 then (s.thread t).pair d.toNat else ((s.thread t).reg d.toNat).zeroExtend 64))))

/-- An arrival of one participant; one that meets the on-demand page of a saved workgroup is applied by HK2 to its saved barrier (R406). -/
def State.sigrArrive (s : State) (t : Nat) (a : DWord) (mode scope : Nat) (v : Word) : State × Adv :=
  let part := (s.warpOfThread t).part
  match s.checkAccess t a 8 8 false true false, s.savedOwner part a with
  | .page _, some w =>
    match s.releaseAt t scope with
    | (s1, false) => (s1, .stay)
    | (s1, true) =>
      let r := s1.arriveFor (some w) v
      (r.1.addAck t false true (r.2.map (fun c => (c, sectorOf a))), .pass)
  | _, _ => s.access t a 8 8 false true false (fun s p => s.sigrAt t a p mode 8 scope (v.zeroExtend 64))

/-- SIGR.ARR (R315): it releases nothing. -/
def execSigrArr (g : Guard) (a b : BitVec 6) (s : State) : Host.Outcome State Fault Refusal :=
  .next (s.memWord (.sigrArr g a b) 8 (fun th => th.pair a.toNat) (fun s t ea =>
    s.sigrArrive t ea 1 0 ((s.thread t).reg b.toNat)))

/-- SIGR.ARREL (R316): a release at FAB, then the arrival. -/
def execSigrArrel (g : Guard) (a b : BitVec 6) (s : State) : Host.Outcome State Fault Refusal :=
  .next (s.memWord (.sigrArrel g a b) 8 (fun th => th.pair a.toNat) (fun s t ea =>
    s.sigrArrive t ea 2 4 ((s.thread t).reg b.toNat)))

/-! ## COLL (R317) -/

/-- R317: the collective engine of a core. -/
def collOf (core : Nat) : Nat := dieOf core / 4
/-- A collective engine. -/
def State.collEng (s : State) (e : Nat) : CollEngine := Tab.get CollEngine.init s.coll e
/-- Changes a collective engine. -/
def State.updColl (s : State) (e : Nat) (f : CollEngine → CollEngine) : State :=
  { s with coll := Tab.put CollEngine.init s.coll e (f (s.collEng e)) }
/-- A queue of a collective engine. -/
def CollEngine.queue (e : CollEngine) (q : Nat) : List CollCmd := Tab.get [] e.q q
/-- Every command a collective engine holds. -/
def CollEngine.all (e : CollEngine) : List CollCmd := (List.range 8).flatMap e.queue

/-- COLL (R317): the descriptor address lies in the global window or the local slice on a multiple of 64; a queue holds 16 commands. -/
def execColl (g : Guard) (q k : BitVec 3) (a : BitVec 6) (o : BitVec 3) (s : State) : Host.Outcome State Fault Refusal :=
  .next (s.copyIssue (.coll g q k a o) (fun th => [th.pair a.toNat]) (fun s t as =>
    let core := coreOfThread t
    let w := s.warpOfThread t
    let e := s.collEng (collOf core)
    let addr := nthAddr as 0
    let bad := firstBad [(rowOk (s.coreAt core).carve true addr.toNat 1, 4), (addr.toNat % 64 == 0, 3)]
    let room := decide ((e.queue q.toNat).length < 16) && s.shareRoom (e.all.map (fun c => (c.part, c.rcb))) w.lid w.part w.rcb
    s.issueOn t k.toNat bad room (fun s =>
      let s1 := s.release core 2
      let c : CollCmd := { id := s1.ids, part := w.part, core := core, owner := .token w.lid w.g w.widx k.toNat, rcb := w.rcb,
                           op := o.toNat, addr := addr, after := s1.openOf t }
      (s1.freshId.2).updColl (collOf core) (fun e => { e with q := Tab.put [] e.q q.toNat (e.queue q.toNat ++ [c]) }))))

end Sys2Proof.Machine
end

