-- ==== Sys2Proof/Machine/Launch.lean ====
section
/-! DEFINITION. The launch and gradient-log words, OP 0x7D and 0x7E (R378 to R390), as their threads issue them. -/

namespace Sys2Proof.Machine
open Sys2Proof

/-! ## LNCH.LAUNCH (R378 to R381) -/

/-- R379: the checks that LAUNCH and BWREC share. -/
def lnchBad (kd : DWord) (n : Nat) (more : Bool) : Option Byte :=
  firstBad [(decide (kd ≤ globalTop), 4), (kd.toNat % 64 == 0, 3), (decide (1 ≤ n) && more, 1)]

/-- R379 step 4: the child RCB is the thread's own or a descendant of it. -/
def State.childOk (s : State) (part own child : Nat) : Bool :=
  child == 0 || ((s.part part).ancestors child).contains own

/-- The batches of a die's launch aggregator. -/
def State.batchesOf (s : State) (d : Nat) : List Batch := Tab.get [] s.batches d
/-- Replaces the batches of a die. -/
def State.setBatches (s : State) (d : Nat) (b : List Batch) : State := { s with batches := Tab.put [] s.batches d b }

/-- A batch takes requests for a key (R380). -/
def Batch.takes (b : Batch) (part : Nat) (kd : DWord) (rcb : Nat) : Bool :=
  b.isOpen && b.part == part && b.kd == kd && b.rcb == rcb && decide (b.reqs.length < 64)

/-- A request joins a batch, which closes when it then holds 64 (R380). -/
def Batch.join (b : Batch) (r : BatchReq) : Batch :=
  { b with reqs := b.reqs ++ [r], isOpen := b.isOpen && decide (b.reqs.length < 63) }

/-- The first element that a test accepts, changed. -/
def changeFirst {A : Type} (p : A → Bool) (f : A → A) : List A → List A
  | [] => []
  | x :: xs => if p x then f x :: xs else x :: changeFirst p f xs

/-- R380: a request joins the open batch of its key or opens one; none when it finds no place, and then the earliest batch closes if all are open. -/
def joinBatch (bs : List Batch) (part : Nat) (kd : DWord) (rcb core cycle : Nat) (r : BatchReq) : List Batch × Bool :=
  if bs.any (fun b => b.takes part kd rcb) then (changeFirst (fun b => b.takes part kd rcb) (fun b => b.join r) bs, true)
  else if bs.length < 16 then
    (bs ++ [{ part := part, kd := kd, rcb := rcb, isOpen := true, core := core, openedAt := cycle, reqs := [r] }], true)
  else if bs.all (fun b => b.isOpen) then (changeFirst (fun _ => true) (fun b => { b with isOpen := false }) bs, false)
  else (bs, false)

/-- LNCH.LAUNCH (R379 to R381): the thread's earlier accesses are released, its request joins a batch, and its result is pending. -/
def execLnchLaunch (g : Guard) (d a b : BitVec 6) (s : State) : Host.Outcome State Fault Refusal :=
  .next (s.laneWord (.lnchLaunch g d a b) (fun s t =>
    let th := s.thread t
    let w := s.warpOfThread t
    let core := coreOfThread t
    let kd := th.pair a.toNat
    let n := (th.reg b.toNat).toNat % 65536
    let child := (th.reg b.toNat).toNat / 65536
    match lnchBad kd n true with
    | some c => (s, .trap c 0)
    | none =>
      if !s.childOk w.part w.rcb child then (s, .trap 5 0)
      else
        match s.releaseAt t 3 with
        | (s1, false) => (s1, .stay)
        | (s1, true) =>
          let r := joinBatch (s1.batchesOf (dieOf core)) w.part kd (if child = 0 then w.rcb else child) core (s1.cycleOf core)
            { tid := t, id := s1.ids, n := n, param := th.pair (a.toNat + 2) }
          let s2 := s1.setBatches (dieOf core) r.1
          if r.2 then (s2.addOut t .regs [d.toNat, d.toNat + 1] none 0 false 0 0, .pass) else (s2, .stay)))

/-! ## LNCH.GANG (R382, R325) -/

/-- What a word's read of a memory range gives: its bytes, a trap, an on-demand page, or the pieces to be asked of other devices. -/
inductive RangeRead where
  | bytes (bs : List Byte)
  | trap (cause : Byte)
  | page (va : DWord)
  | away (rs : List (BitVec 12 × Nat × Piece))

/-- A thread's read, with R permission, of a range in the global window or its core's local slice; past either it is an aperture error. -/
def State.readRange (s : State) (t : Nat) (va : DWord) (n : Nat) : RangeRead :=
  let core := coreOfThread t
  let part := (s.warpOfThread t).part
  if !rowOk (s.coreAt core).carve true va.toNat n then .trap 4
  else
    match s.farRead ((s.thread t).asked.reader part core true) va n with
    | .bytes bs => .bytes bs
    | .bad x => .trap x
    | .away rs => .away rs
    | .stall p => (match s.hk2Answer part p.1 true false with | some (some x) => .trap x | _ => .page p.1)

/-- A thread asks other devices for pieces of a range; it stays at its word until they have come. -/
def State.askRange (s : State) (t : Nat) (rs : List (BitVec 12 × Nat × Piece)) : State :=
  if (s.thread t).asked.away != 0 then s
  else
    let id := s.ids
    rs.foldl (fun s r =>
      (s.request (.block t id r.2.2.src.toNat) 1 0 r.1 (BitVec.ofNat 64 r.2.1) (.read r.2.2.n .plain)).updThread t
        (fun th => { th with asked := th.asked.more id })) s.freshId.2

/-- R460: a core's own dirty bytes of a range are written back, and its sectors dropped, before the range is read at its home. -/
def State.dropRange (s : State) (core part : Nat) (va : DWord) (n : Nat) : State :=
  (s.keysOf part va n).foldl (fun s r =>
    ((s.coreAt core).l1.filter (fun e => decide (r.1 / 32 ≤ e.1) && decide (32 * e.1 < r.2))).foldl (fun s e => s.dropSector core e.1) s) s

/-- R382: a gang block's fields. -/
structure GangBlock where
  kd : DWord
  param : DWord
  nwg : Nat
  rcb : Nat
  np : Nat
  win : Nat
  list : DWord
  ok : Bool
  deriving DecidableEq, Repr

/-- A little-endian field of a byte list. -/
def fieldAt (bs : List Byte) (lo n : Nat) : Nat := leNat ((bs.drop lo).take n)
/-- A 64-bit field of a byte list. -/
def dwordAt (bs : List Byte) (lo : Nat) : DWord := BitVec.ofNat 64 (fieldAt bs lo 8)

/-- R382: a gang block from its 64 bytes. -/
def GangBlock.decode (bs : List Byte) : GangBlock :=
  { kd := dwordAt bs 0, param := dwordAt bs 8, nwg := fieldAt bs 16 4, rcb := fieldAt bs 20 2, np := fieldAt bs 22 2, win := fieldAt bs 24 4,
    list := dwordAt bs 32,
    ok := decide (1 ≤ fieldAt bs 16 4) && decide (1 ≤ fieldAt bs 22 2) && decide (fieldAt bs 22 2 ≤ 4096) && decide (1 ≤ fieldAt bs 24 4) &&
      fieldAt bs 28 4 == 0 && fieldAt bs 40 24 == 0 }

/-- The 16-bit entries of a table. -/
def halves : List Byte → List Nat
  | a :: b :: r => (a.toNat + 256 * b.toNat) :: halves r
  | _ => []

/-- A gang result: the sequence and a STATUS (R382). -/
def gangResult (seq : Nat) (st : Byte) : List Word := [BitVec.ofNat 32 seq, (st.zeroExtend 32) <<< 24]

/-- R325: a GANG packet's ADDR: its kind and the gang sequence. -/
def gangAddr (kind seq : Nat) : DWord := BitVec.ofNat 64 (kind * 2 ^ 62 + seq % 2 ^ 32)

/-- R325, R382: the LAUNCH packets of a gang go to every listed device, and its window opens (R326). -/
def State.startGang (s : State) (t d : Nat) (blk : List Byte) (devs : List Nat) (win : Nat) : State :=
  let seq := s.gangSeq
  let id := s.ids
  let s1 := s.addOut t .regs [d, d + 1] none 0 false 0 0
  let s2 := { s1 with gangSeq := (seq + 1) % 2 ^ 32, gangs := s1.gangs ++ [{ seq := seq, devs := devs, acked := [], tid := t, id := id, win := win }] }
  devs.foldl (fun s v => s.sendSequenced 1 6 (BitVec.ofNat 12 v) 0 (gangAddr 0 seq) (.gang (blk.take 32))) s2

/-- Goes on with a range that LNCH.GANG reads, after the core's own newer bytes of it have been written back (R223, R460): a trap, a wait for
HK2, or a wait for another device keep the thread at the word. -/
def State.withRange (s : State) (t : Nat) (va : DWord) (n : Nat) (k : State → List Byte → State × Adv) : State × Adv :=
  let part := (s.warpOfThread t).part
  let s1 := s.dropRange (coreOfThread t) part va n
  match s1.readRange t va n with
  | .trap c => (s1, .trap c (sectorOf va))
  | .page v => ((s1.notify part v).updThread t (fun th => { th with park := .page v }), .stay)
  | .away rs => (s1.askRange t rs, .stay)
  | .bytes bs => k s1 bs

/-- LNCH.GANG (R382): the block and its device list are read with the checks of a load; a bad block gives STATUS 0x02 and sends nothing. -/
def execLnchGang (g : Guard) (d a : BitVec 6) (s : State) : Host.Outcome State Fault Refusal :=
  .next (s.laneWord (.lnchGang g d a) (fun s t =>
    let xa := (s.thread t).pair a.toNat
    match firstBad [(rowOk (s.coreAt (coreOfThread t)).carve true xa.toNat 1, 4), (xa.toNat % 64 == 0, 3)] with
    | some c => (s, .trap c 0)
    | none =>
      s.withRange t xa 64 (fun s bs =>
        let blk := GangBlock.decode bs
        let ended := fun (s : State) => s.updThread t (fun th => { th with asked := {} })
        let refuse := fun (s : State) =>
          ((ended s).addOut t .regs [d.toNat, d.toNat + 1] (some (.val (gangResult s.gangSeq 2))) 0 false 0 0, Adv.pass)
        if !blk.ok then refuse s
        else
          s.withRange t blk.list (2 * blk.np) (fun s ls =>
            let devs := halves ls
            if devs.any (fun v => decide (4096 ≤ v)) || devs.eraseDups.length != devs.length then refuse s
            else
              match s.releaseAt t 4 with
              | (s1, false) => (s1, .stay)
              | (s1, true) => ((ended s1).startGang t d.toNat bs devs blk.win, .pass)))))

/-! ## LNCH.BWREC (R379, R383) -/

/-- R383: a tape record's bytes. -/
def tapeRecord (kd param : DWord) (nwg rcb : Nat) (follow once : Bool) (pseq pwg : Nat) : List Byte :=
  leBytes 8 kd.toNat ++ leBytes 8 param.toNat ++ leBytes 4 nwg ++ leBytes 2 rcb ++
  [(if follow then 1 else 0) + (if once then 2 else 0), 0] ++ leBytes 6 pseq ++ [0, 0] ++ leBytes 4 pwg ++ List.replicate 28 0

/-- The RCB whose own tape a warp's RCB uses, as its launch was accepted (R362, R363). -/
def State.tapeOf (s : State) (w : Warp) : Option Rcb :=
  let v := s.viewOf w
  match v.tapeOwner w.rcb with
  | none => none
  | some id => v.rcb? id

/-- RCBs with the count of one's tape. -/
def withTapen (r : Rcb) (n : Nat) (l : List Rcb) : List Rcb := l.map (fun x => if x.id == r.id && x.tape == r.tape then { x with tapen := n } else x)

/-- A tape has a count, for whoever was accepted under the RCB that gives it. -/
def State.countTape (s : State) (part : Nat) (r : Rcb) (n : Nat) : State :=
  { s.updPart part (fun p => { p with rcbs := withTapen r n p.rcbs }) with
    launches := s.launches.map (fun l => if l.part == part then { l with rcbs := withTapen r n l.rcbs } else l) }

/-- R362: HK1 writes a tape's count, in its tables and in the RCB's own bytes. -/
def State.setTapen (s : State) (part : Nat) (r : Rcb) (n : Nat) : State :=
  match (s.part part).rcb? r.id with
  | some x => if x.tape == r.tape then (s.countTape part r n).agentStore part (x.addr + 76) (leBytes 4 n) else s.countTape part r n
  | none => s.countTape part r n

/-- LNCH.BWREC (R383). -/
def execLnchBwrec (g : Guard) (once : BitVec 1) (a b : BitVec 6) (s : State) : Host.Outcome State Fault Refusal :=
  .next (s.laneWord (.lnchBwrec g once a b) (fun s t =>
    let th := s.thread t
    let w := s.warpOfThread t
    let kd := th.pair a.toNat
    let v := (th.reg b.toNat).toNat
    match lnchBad kd (v % 65536) (decide (v < 131072)) with
    | some c => (s, .trap c 0)
    | none =>
      let done := match s.launch? w.lid with | none => false | some l => l.onceDone
      if once == 1 && done then (s, .pass)
      else
        match s.tapeOf w with
        | none => (s, .trap 5 0)
        | some r =>
          if r.tapesz / 64 ≤ r.tapen then (s, .trap 5 0)
          else
            match s.releaseAt t 3 with
            | (s1, false) => (s1, .stay)
            | (s1, true) =>
              let bs := tapeRecord kd (th.pair (a.toNat + 2)) (v % 65536) w.rcb (v / 65536 == 1) (once == 1) (w.lid % 2 ^ 48) w.g
              let s2 := (s1.agentStore w.part (r.tape + BitVec.ofNat 64 (64 * r.tapen)) bs).setTapen w.part r (r.tapen + 1)
              (if once == 1 then s2.updLaunch w.lid (fun l => { l with onceDone := true }) else s2, .pass)))

/-! ## GLOG, WFOLD, LSCALE (R387 to R390) -/

/-- R385: the records a die's log ring holds. -/
def glogPlaces : Nat := 508400

/-- The places that records hold or have reserved. -/
def Welt.taken (w : Welt) : List Nat := w.reserved ++ w.ring.map (fun q => q.place)

/-- R388: the ring has a free place. -/
def Welt.hasPlace (w : Welt) : Bool := decide (w.taken.length < glogPlaces)

/-- A free place: the lowest (assumption 46). -/
def Welt.freePlace (w : Welt) : Nat := let used := w.taken; ((List.range (used.length + 1)).find? (fun k => !used.contains k)).getD 0

/-- R385: the 64-byte header of a record. -/
def GRec.header (q : GRec) : List Byte :=
  leBytes 1 q.kind ++ [BitVec.ofInt 8 q.esc] ++ leBytes 2 q.rcb ++ leBytes 4 q.tile ++ leBytes 6 q.lseq ++ [0, 0] ++ leBytes 4 q.wg ++
  leBytes 2 q.tid ++ [0, 0] ++ leBytes 8 q.rseq ++ List.replicate 32 0

/-- R385: where a place of a die's ring lies in its stacked DRAM. -/
def ringPlace (die place : Nat) : Home := .stacked die (Config.ringStart die % 31744 * 2 ^ 20 + 2112 * place)

/-- R385: a record appended to a die's ring, with its bytes in the stacked DRAM; a loss-scale record has no data, and its data bytes stay. -/
def State.appendRecord (s : State) (die : Nat) (q : GRec) : State :=
  (s.updWelt die (fun w => { w with ring := w.ring ++ [q] })).putBytes (ringPlace die q.place).key
    (q.header ++ q.data.flatMap (fun v => leBytes 4 v.toNat))

/-- The key fields of a record that a thread makes (R385, R386). -/
def State.recordOf (s : State) (t kind : Nat) (esc : Int) (tile : Nat) : GRec :=
  let w := s.warpOfThread t
  { kind := kind, esc := esc, rcb := w.rcb, tile := tile, lseq := w.lid % 2 ^ 48, wg := w.g, tid := w.widx * 32 + laneOf t,
    rseq := (s.weltOf (dieOf (coreOfThread t))).rseq, data := [], place := (s.weltOf (dieOf (coreOfThread t))).freePlace,
    buf := (s.viewOf w).pairOf (fun r => r.gacc) (fun r => r.gnt) w.rcb }

/-- R387: Welt's queue and the RCB's share have room for a thread's command. -/
def State.weltRoom (s : State) (die lid part rcb : Nat) : Bool :=
  let q := (s.weltOf die).q
  decide (q.length < 64) && s.shareRoom (q.map (fun c => (c.part, c.rcb))) lid part rcb

/-- A command of a thread joins its die's Welt queue. -/
def State.weltEnqueue (s : State) (t tok : Nat) (k : WeltKind) : State :=
  let w := s.warpOfThread t
  let core := coreOfThread t
  let c : WeltCmd := { id := s.ids, part := w.part, core := core, owner := .token w.lid w.g w.widx tok, rcb := w.rcb, kind := k,
                       after := s.openOf t }
  (s.freshId.2).updWelt (dieOf core) (fun x => { x with q := x.q ++ [c] })

/-- GLOG (R388): a passing participant reserves a place and an RSEQ and captures its warp's %LSCALE. -/
def execGlog (g : Guard) (k : BitVec 3) (a b : BitVec 6) (s : State) : Host.Outcome State Fault Refusal :=
  .next (s.commandWord (.glog g k a b) (fun s t =>
    let th := s.thread t
    let w := s.warpOfThread t
    let core := coreOfThread t
    let die := dieOf core
    let src := th.pair b.toNat
    let bad := firstBad [(rowOk (s.coreAt core).carve true src.toNat 2048, 4), (src.toNat % 256 == 0, 3),
      ((s.tokenOf t k.toNat).err == 0, 0x0C), ((s.weltOf die).hasPlace, 5)]
    s.issueOn t k.toNat bad (s.weltRoom die w.lid w.part w.rcb) (fun s =>
      let s1 := s.release core 2
      let q := s1.recordOf t 1 w.lscale.toInt (th.reg a.toNat).toNat
      (s1.weltEnqueue t k.toNat (.glog q src)).updWelt die (fun x => { x with reserved := x.reserved ++ [q.place], rseq := x.rseq + 1 }))))

/-- WFOLD (R390). -/
def execWfold (g : Guard) (k : BitVec 3) (a b : BitVec 6) (s : State) : Host.Outcome State Fault Refusal :=
  .next (s.commandWord (.wfold g k a b) (fun s t =>
    let th := s.thread t
    let w := s.warpOfThread t
    let core := coreOfThread t
    let ccw := th.reg b.toNat
    let xa := (th.pair a.toNat).toNat
    let own := w.lid % 2 ^ 48
    let sq := if xa = 0 then own - 1 else xa % 2 ^ 48
    let bad := firstBad [(ccwOk ccw && !ctlFill ccw, 2), (!ctlBe ccw || decide (ctlBar ccw < s.nbar w.lid), 0x0B),
      (decide (xa < 2 ^ 48) && decide (sq < own), 0x0B)]
    s.issueOn t k.toNat bad (s.weltRoom (dieOf core) w.lid w.part w.rcb) (fun s =>
      s.weltEnqueue t k.toNat (.fold sq (ctlBe ccw) (ctlBar ccw)))))

/-- LSCALE (R389): it acts once per bundle, with the operand and key of its lowest-lane participant. -/
def execLscale (g : Guard) (a : BitVec 6) (s : State) : Host.Outcome State Fault Refusal :=
  .next (s.simt (.lscale g a) (fun s ps =>
    match ps with
    | [] => (s, none)
    | p :: _ =>
      let v := (s.thread p).reg a.toNat
      let die := dieOf s.cur.core
      if v.toInt < -126 || 127 < v.toInt then (s, some 1)
      else if !(s.weltOf die).hasPlace then (s, some 5)
      else
        let s1 := (s.appendRecord die (s.recordOf p 2 v.toInt 0)).updWelt die (fun x => { x with rseq := x.rseq + 1 })
        let s2 := ((ps.map warpOf).eraseDups).foldl (fun s w => s.updWarp w (fun x => { x with lscale := v })) s1
        (ps.foldl (fun s t => s.pass t g.s) s2, none)))

end Sys2Proof.Machine
end

