-- ==== Sys2Proof/Machine/Hk0.lean ====
section
/-! DEFINITION. The host command rings as HK0 serves them: commands and their fields, starting in order, completion records, and the
commands that only wait or signal (R373 to R376). -/

namespace Sys2Proof.Machine
open Sys2Proof

/-! ## Rings and commands (R373, R374) -/

/-- A ring. -/
def State.ring (s : State) (n : Nat) : Ring := Tab.get Ring.init s.rings n
/-- Changes a ring. -/
def State.updRing (s : State) (n : Nat) (f : Ring → Ring) : State := { s with rings := Tab.put Ring.init s.rings n (f (s.ring n)) }

/-- A little-endian field of a command: `n` bytes from byte `lo`. -/
def cmdField (c : BitVec 512) (lo n : Nat) : Nat := c.toNat / 2 ^ (8 * lo) % 2 ^ (8 * n)
/-- A 64-bit field of a command. -/
def cmdDword (c : BitVec 512) (lo : Nat) : DWord := BitVec.ofNat 64 (cmdField c lo 8)
/-- CMD. -/
def cmdCode (c : BitVec 512) : Nat := cmdField c 0 1
/-- A bit of FLG. -/
def cmdFlag (c : BitVec 512) (k : Nat) : Bool := cmdField c 1 1 / 2 ^ k % 2 == 1
/-- RCB. -/
def cmdRcb (c : BitVec 512) : Nat := cmdField c 2 2

/-- R373: the address of command `i` of a ring. -/
def Ring.cmdAddr (r : Ring) (i : Nat) : DWord := r.base + BitVec.ofNat 64 (64 * (i % 2 ^ r.log2n))

/-- HK0's read of the next command of a ring (R373). -/
def State.commandRead (s : State) (n : Nat) : AgentRead :=
  let r := s.ring n
  s.agentRead n r.part (r.cmdAddr r.next.toNat) 64

/-- The command that HK0 has read next from a ring; one that it cannot read is taken as zeros (assumption 16). -/
def State.nextCommand (s : State) (n : Nat) : BitVec 512 := match s.commandRead n with | .bytes bs => BitVec.ofNat 512 (leNat bs) | _ => 0

/-- HK0 asks for the next command of a ring (R195, R210). -/
def State.askCommand (s : State) (n : Nat) : State :=
  let r := s.ring n
  s.agentAsk n r.part (r.cmdAddr r.next.toNat) 64

/-- R374: every payload byte outside the listed fields (first byte, bytes) is zero. -/
def cmdZeros (c : BitVec 512) (fields : List (Nat × Nat)) : Bool :=
  (List.range 64).all (fun i => decide (i < 8) || fields.any (fun f => decide (f.1 ≤ i) && decide (i < f.1 + f.2)) || cmdField c i 1 == 0)

/-- R374: the header of a command: FLG has only the bits allowed, and RCB is given exactly when it is required. -/
def cmdHeader (c : BitVec 512) (flags : Nat) (rcb : Bool) : Bool :=
  cmdField c 1 1 &&& flags == cmdField c 1 1 && (if rcb then cmdRcb c != 0 else cmdRcb c == 0)

/-! ## Completion (R376, R420) -/

/-- R373: HEAD is the oldest command that is not completed. -/
def Ring.withHead (r : Ring) : Ring := { r with head := match r.act with | [] => r.next | a :: _ => BitVec.ofNat 32 a.idx }

/-- R376: the 16 bytes of a completion record. -/
def completionRecord (r : Ring) (idx tag : Nat) (status exit : Byte) (lseq : Nat) : List Byte :=
  leBytes 4 tag ++ [status, exit, BitVec.ofNat 8 (idx / 2 ^ r.log2n % 2), 0] ++ leBytes 6 lseq ++ [0, 0]

/-- R424: the dies of a partition. -/
def State.dieParted (s : State) (d : Nat) : Nat := s.dev.partcfg.toNat / 2 ^ (3 * d) % 8
/-- The dies of a partition, ascending. -/
def State.diesOf (s : State) (p : Nat) : List Nat := (List.range 8).filter (fun d => s.dieParted d == p)
/-- EPART, the partition that owns the fabric endpoint (R424). -/
def State.epart (s : State) : Nat := s.dev.partcfg.toNat / 2 ^ 24 % 8

/-- R420: a ring's vector is raised on the PF (function 8) and on the VF of its partition, when that is enabled. -/
def State.raise (s : State) (n : Nat) : State :=
  let p := (s.ring n).part
  { s with dev := { s.dev with msix := s.dev.msix ++ [(8, n)] ++ (if (s.diesOf p).isEmpty then [] else [(p, n)]) } }

/-- R376: HK0 writes a command's completion record, and raises the ring's vector once the record is written. A record in an unmapped page is
lost (assumption 16). -/
def State.complete1 (s : State) (n idx : Nat) (status exit : Byte) (lseq : Nat) : State :=
  let r := s.ring n
  match r.act.find? (fun a => a.idx == idx) with
  | none => s
  | some a =>
    let w := s.agentSpan r.part (r.cpl + BitVec.ofNat 64 (16 * (idx % 2 ^ r.log2n)))
      (completionRecord r idx (cmdField a.cmd 4 4) status exit lseq) (.vector n)
    let s1 := w.1.updRing n (fun r => { r with act := r.act.filter (fun a => a.idx != idx) }.withHead)
    if w.2 then s1.raise n else s1

/-- Queue token `t` of a partition (R375). -/
def State.queueToken (s : State) (part t : Nat) : DWord := Tab.get 0 (s.part part).qtok t

/-- A started command that only waits is over: its token is high enough, or the commands its FENCE waits for have completed. -/
def State.waitOver (s : State) (n : Nat) (a : Act) : Bool :=
  match a.wait with
  | .token t v => decide (v ≤ s.queueToken (s.ring n).part t)
  | .fence others => others.all (fun o => !((s.ring o.1).act.any (fun b => b.idx == o.2)))
  | _ => false

/-- A started command whose wait is over: ring and index. -/
def State.overCommand (s : State) : Option (Nat × Nat) :=
  (List.range 64).findSome? (fun n => ((s.ring n).act.find? (s.waitOver n)).map (fun a => (n, a.idx)))

/-- Commands whose wait is over complete, until none is left. -/
def State.settle (s : State) : Nat → State
  | 0 => s
  | f + 1 =>
    match s.overCommand with
    | none => s
    | some (n, i) => (s.complete1 n i 0 0 0).settle f

/-- The commands that have started and not completed. -/
def State.startedCount (s : State) : Nat := ((List.range 64).map (fun n => (s.ring n).act.length)).sum

/-- THE COMPLETION OF A COMMAND (R376), with the waiting commands that it completes in turn. -/
def State.complete (s : State) (n idx : Nat) (status exit : Byte) (lseq : Nat) : State :=
  let s1 := s.complete1 n idx status exit lseq
  s1.settle s1.startedCount

/-- What follows a write by a housekeeping core that is now performed, or has failed with a cause. -/
def State.written (s : State) (after : AfterWrite) (status : Byte) : State :=
  match after with
  | .nothing => s
  | .vector n => s.raise n
  | .command n i => s.complete n i status 0 0

/-- R210: a write that waited for HK2 is made in the page that HK2 has mapped; in one that it has made not present it is lost. -/
def State.storeAgain (s : State) (w : AgentWrite) : State :=
  match s.hk2Answer w.part w.va false true with
  | some (some c) =>
    (match w.after with
     | .command .. => s.written w.after c
     | _ => let r := s.agentSpan w.part w.va w.bytes w.after; if r.2 then r.1.written w.after 0 else r.1)
  | _ => let r := s.agentSpan w.part w.va w.bytes w.after; if r.2 then r.1.written w.after 0 else r.1

/-- HK2 has answered for a page of 2^`shift` bytes: the writes that waited for it go on. -/
def State.storesAgain (s : State) (part va shift : Nat) : State :=
  let here := fun (w : AgentWrite) => w.part == part && w.va.toNat / 2 ^ shift == va / 2 ^ shift
  (s.dev.stores.filter here).foldl State.storeAgain { s with dev := { s.dev with stores := s.dev.stores.filter (fun w => !here w) } }

/-! ## Starting (R375, R433) -/

/-- The started command that precedes the next one of a ring. -/
def Ring.prior (r : Ring) : Option Act := r.act.find? (fun a => a.idx == (r.next - 1).toNat)

/-- R375: the command before has completed, or is a CIRCUIT with DETACH. -/
def Ring.free (r : Ring) : Bool :=
  match r.prior with
  | none => true
  | some a => cmdCode a.cmd == 3 && cmdFlag a.cmd 1

/-- The compute side is up: the device is READY, or a reset other than that of the device runs (R422, R432). -/
def State.isUp (s : State) : Bool :=
  s.dev.state == 3 || (s.dev.state == 5 && s.dev.resetting && s.dev.stateWas == 3 && s.dev.resets.head?.any (fun j => j.rung != 6))

/-- R428, R432 to R434, R436: HK0 serves nothing in recovery; while a start runs it accepts RESET alone; while a reset is accepted or runs, PSTATE
and CHECKPOINT wait; in HOLD it serves PSTATE, RESET and CHECKPOINT, and so it does in RETAIN and OFF (assumption 22). -/
def State.served (s : State) (cmd : BitVec 512) : Bool :=
  let c := cmdCode cmd
  if s.dev.state = 4 then false
  else if (c == 9 || c == 10) && !s.dev.resets.isEmpty then false
  else if s.dev.starting.isSome then c == 11
  else if 2 ≤ s.dev.pst then c == 9 || c == 10 || c == 11
  else s.isUp

/-- A ring has a command that is posted and not started, and is served. -/
def State.posted (s : State) (n : Nat) (cmd : BitVec 512) : Bool :=
  let r := s.ring n
  r.en && r.next != r.tail && s.served cmd

/-- R375: the next command of a ring may start, but for a follow-on. -/
def State.canStart (s : State) (n : Nat) (cmd : BitVec 512) : Bool := s.posted n cmd && (s.ring n).free

/-- A command starts: it is among the started commands with what it waits for. -/
def State.begin_ (s : State) (n : Nat) (cmd : BitVec 512) (w : RingWait) : State :=
  (s.agentDone n).updRing n (fun r => { r with act := r.act ++ [Act.mk r.next.toNat cmd w], next := r.next + 1 }.withHead)

/-- What a started command waits for changes. -/
def State.setWait (s : State) (n idx : Nat) (w : RingWait) : State :=
  s.updRing n (fun r => { r with act := r.act.map (fun a => if a.idx == idx then { a with wait := w } else a) })

/-- A HOST COMMAND of a code: it starts when it may, completes at once with STATUS 0x02 when its fields break R374, and else goes on. -/
def State.hostCommand (s : State) (n : Nat) (cmd : BitVec 512) (code : Nat) (ok : Bool) (k : State → Nat → State) : State :=
  if cmdCode cmd != code || !s.canStart n cmd then s
  else
    let i := (s.ring n).next.toNat
    let s1 := s.begin_ n cmd .done
    if ok then k s1 i else s1.complete n i 2 0 0

/-! ## QUEUE_DOORBELL (R373) -/

/-- QUEUE_DOORBELL: TAIL more than 2^LOG2N ahead of HEAD is ignored and sets OVR (R373). -/
def execQueueDoorbell (ring : Fin 64) (tail : Word) (s : State) : Host.Outcome State Fault Refusal :=
  .next (s.updRing ring.val (fun r =>
    if 2 ^ r.log2n < (tail - r.head).toNat then { r with ovr := true } else { r with tail := tail }))

/-! ## Tokens and FENCE (R374, R375) -/

/-- TOKEN-WAIT: complete as soon as the token's value is at least VAL. -/
def execTokenWait (ring : Fin 64) (cmd : BitVec 512) (s : State) : Host.Outcome State Fault Refusal :=
  let n := ring.val
  .next (s.hostCommand n cmd 4 (cmdHeader cmd 0 false && cmdZeros cmd [(8, 2), (16, 8)] && decide (cmdField cmd 8 2 < 1024)) (fun s i =>
    let s1 := s.setWait n i (.token (cmdField cmd 8 2) (cmdDword cmd 16))
    s1.settle s1.startedCount))

/-- What an agent's write to a range would meet: the cause that forbids it. -/
def State.agentWriteBad (s : State) (part : Nat) (va : DWord) (n : Nat) : Option Byte :=
  (pageSpans va n).findSome? (fun x =>
    if globalTop < x.1 then some 4
    else
      match s.translateAgent part x.1.toNat with
      | .mapped e size =>
        if !e.getLsbD 4 then some 5
        else
          let h := pteHome e (sizeShift size) x.1.toNat
          if !h.isRemote && s.refusedAt h x.2 then some 6 else none
      | .unmapped => some 6
      | .onDemand => none)

/-- TOKEN-SIGNAL: Token := max(token, VAL), VAL is written to ADDR unless that is 0, and the TOKEN-WAITs it satisfies complete. The command
completes when ADDR is written. An ADDR that cannot be written gives the command that cause as its STATUS. -/
def execTokenSignal (ring : Fin 64) (cmd : BitVec 512) (s : State) : Host.Outcome State Fault Refusal :=
  let n := ring.val
  let addr := cmdDword cmd 24
  .next (s.hostCommand n cmd 5
    (cmdHeader cmd 0 false && cmdZeros cmd [(8, 2), (16, 8), (24, 8)] && decide (cmdField cmd 8 2 < 1024) && addr.toNat % 8 == 0) (fun s i =>
    let part := (s.ring n).part
    let t := cmdField cmd 8 2
    let v := cmdDword cmd 16
    let s1 := s.updPart part (fun p => { p with qtok := Tab.put 0 p.qtok t (if Tab.get 0 p.qtok t < v then v else Tab.get 0 p.qtok t) })
    if addr == 0 then s1.complete n i 0 0 0
    else
      match s1.agentWriteBad part addr 8 with
      | some c => s1.complete n i c 0 0
      | none =>
        let w := s1.agentSpan part addr (leBytes 8 v.toNat) (.command n i)
        if w.2 then w.1.complete n i 0 0 0 else (w.1.setWait n i .write).settle w.1.startedCount))

/-- FENCE: it waits for the started commands of its ring, and with ALLQ of every ring of its partition (R374, R375, assumption 23). -/
def execQueueFence (ring : Fin 64) (cmd : BitVec 512) (s : State) : Host.Outcome State Fault Refusal :=
  let n := ring.val
  .next (s.hostCommand n cmd 8
    (cmdHeader cmd 0 false && cmdZeros cmd [(8, 1), (9, 1)] && decide (cmdField cmd 8 1 ≤ 4) && decide (cmdField cmd 9 1 ≤ 1)) (fun s i =>
    let part := (s.ring n).part
    let rings := if cmdField cmd 9 1 = 1 then (List.range 64).filter (fun m => (s.ring m).part == part) else [n]
    let others := (rings.flatMap (fun m => (s.ring m).act.map (fun a => (m, a.idx)))).filter (fun o => o != (n, i))
    let s1 := s.setWait n i (.fence others)
    s1.settle s1.startedCount))

end Sys2Proof.Machine
end

