-- ==== Sys2Proof/Machine/Hk1.lean ====
section
/-! DEFINITION. HK1: kernel descriptors, the acceptance of launches, the placing and freeing of workgroups, follow-ons and leases, the
LAUNCH and TAPERUN commands, and device-side grids (R365 to R372, R374, R377, R380, R381, R384). -/

namespace Sys2Proof.Machine
open Sys2Proof

/-! ## Kernel descriptors (R367) -/

/-- A KD from its 64 bytes. -/
def Kd.ofBytes (bs : List Byte) : Kd :=
  { entry0 := dwordAt bs 0, entry1 := dwordAt bs 8, warps0 := fieldAt bs 16 1, warps1 := fieldAt bs 17 1, regs0 := fieldAt bs 18 1,
    regs1 := fieldAt bs 19 1, nrole := fieldAt bs 20 1, nbar := fieldAt bs 21 1, l1 := fieldAt bs 22 1, checked := fieldAt bs 23 1,
    slice := fieldAt bs 24 4, stack := fieldAt bs 28 4, param := fieldAt bs 32 4 }

/-- The carve-out of an L1 code: none, 512 KiB, 1 MiB. -/
def carveOf (l1 : Nat) : Nat := if l1 = 0 then 0 else if l1 = 1 then 524288 else 1048576
/-- W, the warps of a workgroup. -/
def Kd.warps (k : Kd) : Nat := k.warps0 + k.warps1
/-- The registers a workgroup takes in each lane. -/
def Kd.regsPerLane (k : Kd) : Nat := k.warps0 * k.regs0 + k.warps1 * k.regs1
/-- An allotment: 16 to 64 in steps of 8. -/
def regsLegal (n : Nat) : Bool := decide (16 ≤ n) && decide (n ≤ 64) && n % 8 == 0

/-- R367, R368: every field of a KD obeys the table, entries are multiples of 4, and SLICE plus the carve-out fits 8 MiB. -/
def Kd.legal (k : Kd) (bs : List Byte) : Bool :=
  decide (1 ≤ k.warps0) && decide (k.warps ≤ 64) && regsLegal k.regs0 &&
  (k.nrole == 1 && k.entry1 == 0 && k.warps1 == 0 && k.regs1 == 0 || k.nrole == 2 && regsLegal k.regs1) &&
  decide (k.nbar ≤ 96) && decide (k.l1 ≤ 2) && decide (k.checked ≤ 3) && k.slice % 256 == 0 && k.stack % 16 == 0 && decide (k.param ≤ 4096) &&
  decide (k.entry0 ≤ globalTop) && decide (k.entry1 ≤ globalTop) && k.entry0.toNat % 4 == 0 && k.entry1.toNat % 4 == 0 &&
  fieldAt bs 36 28 == 0 && decide (k.slice + carveOf k.l1 ≤ sliceBytes)

/-! ## Acceptance (R362, R364, R366, R368, R377) -/

/-- R404: the cores of a partition that are not retired. -/
def State.coreCount (s : State) (part : Nat) : Nat :=
  ((s.diesOf part).map (fun d => ((List.range 128).filter (fun k => !(s.coreAt (128 * d + k)).retired)).length)).sum

/-- The bytes of a warp's region of the stack pool, S being the stack of R21 (R459). -/
def regionSize (stack : Nat) : Nat := (stack + 2048) * 32

/-- R366: the order of the checked-issue modes, OFF below SAMPLE below FULL. -/
def chkRank (c : Nat) : Nat := if c = 0 then 0 else if c = 2 then 1 else 2
/-- R366: the stronger of the RCB's mode and the KD's, unless that is 3. -/
def chkOf (rcb kd : Nat) : Nat := if kd = 3 then rcb else if chkRank rcb < chkRank kd then kd else rcb

/-- What HK1 says of a launch: its KD, a refusal, or nothing before it has read the KD. -/
inductive Verdict where
  | ok (kd : Kd)
  | fail (status : Byte)
  | wait
  deriving DecidableEq, Repr

/-- R368: a workgroup of a KD can fit one core within the budgets and the pool. -/
def State.couldFit (s : State) (part rcb : Nat) (k : Kd) : Bool :=
  let p := s.part part
  decide (k.warps ≤ p.maxws rcb) && decide (k.regsPerLane ≤ 2048) && decide (0 < s.coreCount part) &&
  (match p.pairOf (fun r => r.stkpool) (fun r => r.stksz) rcb with
   | none => false
   | some (_, size) => decide (k.warps * regionSize (p.stackOf rcb) ≤ size))

/-- R368: THE VALIDATION of a launch for a consumer of HK1: its RCB (a missing one counts as a bad field), its KD as HK1 reads it, and whether it
could ever run. -/
def State.validate (s : State) (consumer part rcb : Nat) (kdva : DWord) : Verdict :=
  let p := s.part part
  if (p.rcb? rcb).isNone || kdva.toNat % 64 != 0 || decide (globalTop < kdva) then .fail 2
  else
    match s.agentRead consumer part kdva 64 with
    | .bad c => .fail c
    | .wait => .wait
    | .bytes bs =>
      let k := Kd.ofBytes bs
      if !k.legal bs then .fail 2
      else if p.stackOf rcb < k.stack then .fail 5
      else if !s.couldFit part rcb k then .fail 5
      else .ok k

/-- The registered RCBs of an RCB's lineage. -/
def Part.lineageRcbs (p : Part) (rcb : Nat) : List Rcb := (p.ancestors rcb).filterMap p.rcb?

/-- R377: HK1 accepts a launch: it takes the partition's next LSEQ, and the RCBs as they are registered now (R362). -/
def State.accept (s : State) (part rcb : Nat) (k : Kd) (grid : Grid) (total : Nat) (origin : Origin) (seed : Word) (follows : Option Nat) :
    State :=
  let p := s.part part
  let l : Launch :=
    { lid := part * 2 ^ 48 + p.lseq, part := part, lseq := p.lseq, rcb := rcb, kd := k, chk := chkOf (p.chk rcb) k.checked, fdom := p.fdom rcb,
      prio := p.prio rcb, seed := seed, grid := grid, origin := origin, total := total, follows := follows, rcbs := p.lineageRcbs rcb }
  { (s.updPart part (fun p => { p with lseq := p.lseq + 1 })) with launches := s.launches ++ [l] }

/-- The launch sequence that the next accepted launch of a partition gets. -/
def State.nextLseq (s : State) (part : Nat) : Nat := (s.part part).lseq
/-- The identity of that launch. -/
def State.nextLid (s : State) (part : Nat) : Nat := part * 2 ^ 48 + s.nextLseq part

/-! ## Placement (R364, R369) -/

/-- The workgroups that a core holds. -/
def State.resident (s : State) (core : Nat) : List Wg := s.wgs.filter (fun w => w.core == core && !w.isSaved)

/-- A warp slot of a core is free for a launch: unused, and not leased to another (R372). -/
def State.slotFree (s : State) (core lid k : Nat) : Bool :=
  let l := Tab.get (0, 0) (s.coreAt core).leases k
  !(s.warp (warpKey core k)).used && (l.1 == 0 || l.1 == lid)

/-- The registers of a lane that warps and the leases of other launches hold. -/
def State.regsHeld (s : State) (core lid : Nat) : Nat :=
  ((List.range 64).map (fun k => let w := s.warp (warpKey core k); if w.used then w.allot else 0)).sum +
  (((s.coreAt core).leases.filter (fun e => e.2.1 != lid)).map (fun e => e.2.2)).sum

/-- The NBAR of a workgroup's launch. -/
def State.wgKd (s : State) (w : Wg) : Kd := match s.launch? w.lid with | none => {} | some l => l.kd

/-- R369: the slice range from an offset is free. -/
def State.sliceFree (s : State) (core off n : Nat) : Bool :=
  n == 0 || (s.resident core).all (fun w =>
    let lo := 131072 * w.slot
    let len := (s.wgKd w).slice
    decide (off + n ≤ lo) || decide (lo + len ≤ off) || len == 0)

/-- R369: slots s to s + W - 1 and the slice range that goes with them are free. -/
def State.slotFits (s : State) (core lid : Nat) (k : Kd) (slot : Nat) : Bool :=
  decide (slot + k.warps ≤ 64) && (List.range k.warps).all (fun j => s.slotFree core lid (slot + j)) &&
  (k.slice == 0 || decide (131072 * slot + k.slice ≤ sliceBytes - carveOf k.l1)) && s.sliceFree core (131072 * slot) k.slice

/-- R369: the lowest slot from which a core takes a workgroup of a launch; none when registers, barriers, slice or carve-out forbid it. -/
def State.coreFit (s : State) (core : Nat) (l : Launch) : Option Nat :=
  let k := l.kd
  let here := s.resident core
  if s.regsHeld core l.lid + k.regsPerLane ≤ 2048 && decide ((here.map (fun w => (s.wgKd w).nbar)).sum + k.nbar ≤ 96) &&
      (here.isEmpty || (s.coreAt core).carve == carveOf k.l1)
  then (List.range 64).find? (s.slotFits core l.lid k) else none

/-- A workgroup belongs to the subtree of an RCB (R364). -/
def State.inSubtree (s : State) (part rcb : Nat) (w : Wg) : Bool :=
  match s.launch? w.lid with | none => false | some l => l.part == part && l.rcbs.any (fun r => r.id == rcb)

/-- MAXCORE (R363): a root's default is the partition's core count. -/
def State.maxcore (s : State) (p : Part) (part rcb : Nat) : Nat := p.lesser (fun r => orInherit r.maxcore) (s.coreCount part) 8 rcb

/-- The warp slots that a core holds of a subtree (R364). -/
def State.subtreeSlots (s : State) (core part rcb : Nat) : Nat :=
  ((List.range 64).filter (fun k =>
    let w := s.warp (warpKey core k)
    w.used && w.part == part &&
      (match s.launch? w.lid with | none => false | some l => l.rcbs.any (fun r => r.id == rcb)))).length

/-- R364: MAXCORE and MAXWS of the launch's RCB and of every ancestor allow one more of its workgroups on a core. -/
def State.budgetFit (s : State) (core : Nat) (l : Launch) : Bool :=
  let p := s.view l.lid l.part
  l.rcbs.all (fun r =>
    let cores := (((s.wgs.filter (fun w => !w.isSaved && s.inSubtree l.part r.id w)).map (fun w => w.core))).eraseDups
    (cores.contains core || decide (cores.length < s.maxcore p l.part r.id)) &&
    decide (s.subtreeSlots core l.part r.id + l.kd.warps ≤ p.maxws r.id))

/-- The stack regions in use in a partition: start and bytes. -/
def State.regionsUsed (s : State) (part : Nat) : List (Nat × Nat) :=
  (s.wgs.filter (fun w => match s.launch? w.lid with | none => false | some l => l.part == part)).flatMap
    (fun w => w.regions.map (fun e => (e.2.toNat, w.regionBytes)))

/-- The lowest start of a free region of `n` bytes in a pool, the starts tried being the pool's and the ends of used regions, on multiples of 64.
The spec leaves the start to HK1 (R459): the lowest is the model's choice (assumption 46). -/
def findRegion (base size n : Nat) (used : List (Nat × Nat)) : Option Nat :=
  let starts := (base :: used.map (fun u => (u.1 + u.2 + 63) / 64 * 64)).filter (fun a =>
    decide (base ≤ a) && decide (a + n ≤ base + size) && used.all (fun u => decide (a + n ≤ u.1) || decide (u.1 + u.2 ≤ a)))
  starts.foldl (fun m a => match m with | none => some a | some b => if a < b then some a else some b) none

/-- Regions for the warps of a workgroup. -/
def findRegions (base size n : Nat) : Nat → List (Nat × Nat) → Option (List Nat)
  | 0, _ => some []
  | w + 1, used =>
    match findRegion base size n used with
    | none => none
    | some a => (findRegions base size n w (used ++ [(a, n)])).map (fun r => a :: r)

/-- R369, R459: the stack regions of one more workgroup of a launch. -/
def State.regionsFor (s : State) (l : Launch) : Option (List Nat) :=
  let p := s.view l.lid l.part
  match p.pairOf (fun r => r.stkpool) (fun r => r.stksz) l.rcb with
  | none => none
  | some (base, size) => findRegions base.toNat size (regionSize (p.stackOf l.rcb)) l.kd.warps (s.regionsUsed l.part)

/-- The device runs launches: READY and in RUN or TRIM. -/
def State.running (s : State) : Bool := s.isUp && decide (s.dev.pst < 2)

/-- R369, R404: the slot at which a core takes a workgroup of a launch within its budgets, with the regions. -/
def State.spot (s : State) (core : Nat) (l : Launch) : Option (Nat × List Nat) :=
  if !s.running || s.dieParted (dieOf core) != l.part || (s.coreAt core).retired || !s.budgetFit core l then none
  else
    match s.coreFit core l, s.regionsFor l with
    | some slot, some rs => some (slot, rs)
    | _, _ => none

/-! ## Dispatch (R370, R371) -/

/-- R371: the coordinates, %NWG and %PARAM of workgroup `g` of a grid. -/
def Grid.coords (gr : Grid) (g : Nat) : Nat × Nat × Nat × Nat × DWord :=
  match gr with
  | .host gx gy gz param => (g % gx, g / gx % gy, g / (gx * gy), gx * gy * gz, param)
  | .gang nwg param => (g, 0, 0, nwg, param)
  | .device reqs =>
    let r := reqs.foldl (fun (a : Nat × Nat × Option (Nat × Nat × Nat × DWord)) q =>
      match a with
      | (i, lo, some x) => (i, lo, some x)
      | (i, lo, none) => if g < lo + q.1 then (i, lo, some (g - lo, i, q.1, q.2)) else (i + 1, lo + q.1, none)) (0, 0, none)
    match r.2.2 with
    | some (x, i, n, p) => (x, i, 0, n, p)
    | none => (0, 0, 0, 0, 0)

/-- R199: a slice range handed to a workgroup reads 0, its tags are empty and its swizzle ids 0. -/
def State.clearSlice (s : State) (core off n : Nat) : State :=
  let k := core * sliceBytes + off
  { s with mem := Tab.drop s.mem k (k + n), tags := Tab.drop s.tags (k / 8) ((k + n) / 8), swz := Tab.drop s.swz (k / 256) ((k + n) / 256),
           poison := Tab.drop s.poison (k / 32) ((k + n) / 32),
           lost := cutLost (cutLost (cutLost s.lost k (k + n)) (tagLostKey k) (tagLostKey (k + n))) (swzLostKey k) (swzLostKey (k + n)) }

/-- R370: a thread as it starts. -/
def startThread (pc : DWord) (seed : Word) : Thread := { live := true, pc := pc, srseed := seed }

/-- R370: the %SRSEED of a thread. -/
def startSeed (seed : Word) (g tid : Nat) : Word := seed + BitVec.ofNat 32 (0x9E3779B9 * (2048 * g + tid))

/-- R370: one warp of a workgroup starts in its slot. -/
def State.startWarp (s : State) (l : Launch) (core slot g widx : Nat) (region : DWord) : State :=
  let role := if widx < l.kd.warps0 then 0 else 1
  let (x, y, z, n, param) := l.grid.coords g
  let w : Warp :=
    { used := true, lid := l.lid, part := l.part, g := g, widx := widx, wgx := BitVec.ofNat 32 x, wgy := BitVec.ofNat 32 y,
      wgz := BitVec.ofNat 32 z, nwg := BitVec.ofNat 32 n, role := role, rcb := l.rcb, param := param, allot := l.kd.regsOf widx,
      stack := (s.view l.lid l.part).stackOf l.rcb, region := region }
  let key := warpKey core (slot + widx)
  let s1 := s.updWarp key (fun _ => w)
  (List.range 32).foldl (fun s lane =>
    s.setThread (key * 32 + lane) (startThread (if role = 0 then l.kd.entry0 else l.kd.entry1) (startSeed l.seed g (32 * widx + lane)))) s1

/-- R369: a core without workgroups takes a carve-out; lines of the L1 beyond it are written back and leave. -/
def State.setCarve (s : State) (core carve : Nat) : State :=
  if (s.coreAt core).carve == carve then s
  else (((s.writeBackL1 core (fun _ => true)).forgetFills core (fun _ _ => true)).updCore core (fun c => { c with l1 := [] })).updCore core (fun c => { c with carve := carve })

/-- R372: leases lapse when their launch has no undispatched workgroup. -/
def State.lapse (s : State) : State :=
  { s with cores := (s.cores.map (fun e => (e.1, { e.2 with leases := e.2.leases.filter (fun r =>
      match s.launch? r.2.1 with | none => false | some l => decide (l.next < l.total)) }))).filter (fun e => e.2 != Core.init) }

/-- R370: THE DISPATCH of the next workgroup of a launch: its warps take their slots, the slice is cleared, barriers and registers start at
0, every warp becomes pending, and the workgroup acquires what was released to it (R228, R375, R381). -/
def State.place (s : State) (l : Launch) (core slot : Nat) (regions : List Nat) : State :=
  let g := l.next
  let k := l.kd
  let s1 := (s.setCarve core (carveOf k.l1)).clearSlice core (131072 * slot) k.slice
  let wg : Wg := { lid := l.lid, g := g, core := core, slot := slot, warps := k.warps,
                   regions := (List.range k.warps).zip (regions.map (BitVec.ofNat 64)),
                   regionBytes := regionSize ((s.view l.lid l.part).stackOf l.rcb) }
  let s2 := { s1 with wgs := s1.wgs ++ [wg] }
  let s3 := (List.range k.warps).foldl (fun s j => s.startWarp l core slot g j (BitVec.ofNat 64 ((regions[j]?).getD 0))) s2
  let s4 := s3.updCore core (fun c => { c with
    pending := c.pending ++ (List.range k.warps).map (fun j => slot + j),
    leases := c.leases.filter (fun e => !(decide (slot ≤ e.1) && decide (e.1 < slot + k.warps))) })
  ((s4.acquire core 3).updLaunch l.lid (fun l => { l with next := l.next + 1 })).lapse

/-- R365: a launch with undispatched workgroups. -/
def Launch.waiting (l : Launch) : Bool := decide (l.next < l.total) && !l.killed

/-- R365: nothing of the partition goes before the next workgroup of a launch: no launch of higher priority, or of equal priority and
lower sequence, waits, and no saved workgroup of its priority or above. -/
def State.isNext (s : State) (l : Launch) : Bool :=
  s.launches.all (fun m => m.part != l.part || !m.waiting || decide (m.prio < l.prio) || (m.prio == l.prio && decide (l.lseq ≤ m.lseq))) &&
  s.wgs.all (fun w => !w.isSaved ||
    (match s.launch? w.lid with | none => true | some m => m.part != l.part || decide (m.prio < l.prio)))

/-- WORKGROUP_DISPATCH (R365, R369, R370): HK1 places the next workgroup in its order on a core that takes it. -/
def execWorkgroupDispatch (lid : Nat) (core : Fin 1024) (s : State) : Host.Outcome State Fault Refusal :=
  .next (
    match s.launch? lid with
    | none => s
    | some l =>
      if l.waiting && s.isNext l then
        match s.spot core.val l with
        | some (slot, rs) => s.place l core.val slot rs
        | none => s
      else s)

/-- LEASE_DISPATCH (R372): a core with rows leased to a follow-on dispatches its next workgroup without HK1. -/
def execLeaseDispatch (lid : Nat) (core : Fin 1024) (s : State) : Host.Outcome State Fault Refusal :=
  .next (
    match s.launch? lid with
    | none => s
    | some l =>
      if l.waiting && (s.coreAt core.val).leases.any (fun e => e.2.1 == lid) then
        match s.spot core.val l with
        | some (slot, rs) => s.place l core.val slot rs
        | none => s
      else s)

/-! ## Follow-ons (R372) -/

/-- R372: the launch that a LAUNCH under an RCB with an L1 code follows: the ring's command before it, when that is a LAUNCH under the same
RCB with the same carve-out that has dispatched its last workgroup and is not complete. -/
def State.predecessor (s : State) (n : Nat) (rcb l1 : Nat) : Option Nat :=
  match (s.ring n).prior with
  | some a =>
    (match a.wait with
     | .launch lid =>
       (match s.launch? lid with
        | some p => if p.rcb == rcb && p.kd.l1 == l1 && p.next == p.total then some lid else none
        | none => none)
     | _ => none)
  | none => none

/-! ## LAUNCH (R368, R374) -/

/-- R374: the fields of a LAUNCH. -/
def launchOk (cmd : BitVec 512) : Bool :=
  let gx := cmdField cmd 24 4
  let gy := cmdField cmd 28 4
  let gz := cmdField cmd 32 4
  cmdHeader cmd 1 true && cmdZeros cmd [(8, 8), (16, 8), (24, 4), (28, 4), (32, 4), (36, 4)] &&
  decide (1 ≤ gx * gy * gz) && decide (gx * gy * gz ≤ 4294967295)

/-- LAUNCH (R368, R374, R377): a LAUNCH starts when the command before it has completed, or as its follow-on; a KD on an on-demand page or on
another device keeps it waiting for HK2 or for that device. The event also takes up a command of no known code, which completes with STATUS 0x02. -/
def execLaunch (ring : Fin 64) (cmd : BitVec 512) (s : State) : Host.Outcome State Fault Refusal :=
  let n := ring.val
  let code := cmdCode cmd
  .next (
    if decide (2 ≤ code) && decide (code ≤ 11) then s
    else if code != 1 then s.hostCommand n cmd code false (fun s _ => s)
    else
      let part := (s.ring n).part
      let rcb := cmdRcb cmd
      let v := s.validate n part rcb (cmdDword cmd 8)
      let pred := match v with | .ok k => if cmdFlag cmd 0 then s.predecessor n rcb k.l1 else none | _ => none
      if !(s.posted n cmd) || !((s.ring n).free || pred.isSome) then s
      else
        let i := (s.ring n).next.toNat
        if !launchOk cmd then (s.begin_ n cmd .done).complete n i 2 0 0
        else
          match v with
          | .wait => s.agentAsk n part (cmdDword cmd 8) 64
          | .fail st => (s.begin_ n cmd .done).complete n i st 0 0
          | .ok k =>
            let gx := cmdField cmd 24 4
            let gy := cmdField cmd 28 4
            let gz := cmdField cmd 32 4
            (s.begin_ n cmd (.launch (s.nextLid part))).accept part rcb k (.host gx gy gz (cmdDword cmd 16)) (gx * gy * gz) (.ring n i)
              (BitVec.ofNat 32 (cmdField cmd 36 4)) pred)

/-! ## TAPERUN (R384) -/

/-- The launches of a TAPERUN that have not completed. -/
def State.tapeLaunches (s : State) (n idx : Nat) : List Launch := s.launches.filter (fun l => l.origin == .tape n idx)

/-- R384: a TAPERUN with nothing left to pop and no launch running completes. -/
def State.tapeEnd (s : State) (n idx : Nat) : State :=
  match (s.ring n).act.find? (fun a => a.idx == idx) with
  | some a =>
    (match a.wait with
     | .tape _ 0 st => if (s.tapeLaunches n idx).isEmpty then s.complete n idx st 0 0 else s
     | _ => s)
  | none => s

/-- TAPERUN (R384): it takes the records present on the RCB's own tape. -/
def execTaperun (ring : Fin 64) (cmd : BitVec 512) (s : State) : Host.Outcome State Fault Refusal :=
  let n := ring.val
  .next (s.hostCommand n cmd 6 (cmdHeader cmd 0 true && cmdZeros cmd []) (fun s i =>
    match (s.part (s.ring n).part).rcb? (cmdRcb cmd) with
    | none => s.complete n i 2 0 0
    | some r => if r.tape == 0 then s.complete n i 2 0 0 else (s.setWait n i (.tape r.id r.tapen 0)).tapeEnd n i))

/-- A tape run stops with a status: nothing more is popped. -/
def State.tapeStop (s : State) (n idx : Nat) (st : Byte) : State :=
  match (s.ring n).act.find? (fun a => a.idx == idx) with
  | some a =>
    (match a.wait with
     | .tape rcb _ old => (s.setWait n idx (.tape rcb 0 (if old == 0 then st else old))).tapeEnd n idx
     | _ => s)
  | none => s

/-- R384: record `k` leaves a tape: the records pushed since above it move down by one, and TAPEN falls. -/
def State.popRecord (s : State) (part : Nat) (r : Rcb) (k : Nat) (above : List Byte) : State :=
  (s.agentStore part (r.tape + BitVec.ofNat 64 (64 * k)) above).setTapen part r (r.tapen - 1)

/-- A record of a tape run has been read, with those above it: it is popped and launched, after the launch before it has completed or as its
follow-on; one that fails stops the run (R384). -/
def State.tapeLaunch (s : State) (n : Nat) (act : Act) (r : Rcb) (left : Nat) (st : Byte) (rec_ above : List Byte) : State :=
  let part := (s.ring n).part
  let rcb := fieldAt rec_ 20 2
  let v := s.validate n part rcb (dwordAt rec_ 0)
  let running := s.tapeLaunches n act.idx
  let pred := match v, running.getLast? with
    | .ok k, some p => if fieldAt rec_ 22 1 % 2 == 1 && p.rcb == rcb && p.kd.l1 == k.l1 && p.next == p.total then some p.lid else none
    | _, _ => none
  let popped := ((s.agentDone n).popRecord part r (left - 1) above).setWait n act.idx (.tape r.id (left - 1) st)
  if !(running.isEmpty || pred.isSome) && (match v with | .wait => false | _ => true) then s
  else
    match v with
    | .wait => s.agentAsk n part (dwordAt rec_ 0) 64
    | .fail c => popped.tapeStop n act.idx c
    | .ok k =>
      let nwg := fieldAt rec_ 16 4
      if nwg = 0 then popped.tapeStop n act.idx 2
      else { (popped.accept part rcb k (.host nwg 1 1 (dwordAt rec_ 8)) nwg (.tape n act.idx) (Config.freeWord s.free) pred) with free := s.free + 1 }

/-- TAPE_LAUNCH (R384): HK1 reads the newest record left, and what has been pushed above it since, and launches it. -/
def execTapeLaunch (ring : Fin 64) (s : State) : Host.Outcome State Fault Refusal :=
  let n := ring.val
  let part := (s.ring n).part
  .next (
    match (s.ring n).act.find? (fun a => match a.wait with | .tape _ l _ => l != 0 | _ => false) with
    | none => s
    | some a =>
      match a.wait with
      | .tape id left st =>
        (match (s.part part).rcb? id with
         | none => s.tapeStop n a.idx 2
         | some r =>
           let va := r.tape + BitVec.ofNat 64 (64 * (left - 1))
           let size := 64 * (r.tapen + 1 - left)
           if !s.running then s
           else
             match s.agentRead n part va size with
             | .wait => s.agentAsk n part va size
             | .bad c => (s.agentDone n).tapeStop n a.idx c
             | .bytes bs => s.tapeLaunch n a r left st (bs.take 64) (bs.drop 64))
      | _ => s)

/-! ## Completion of a launch (R108, R376, R384) -/

/-- R374, R376, R384: a launch is complete: the command it came from completes, or its tape run goes on. -/
def State.launchDone (s : State) (l : Launch) : State :=
  let s1 := ({ s with launches := s.launches.filter (fun m => m.lid != l.lid) }).lapse
  match l.origin with
  | .ring n i => s1.complete n i l.status 0 l.lseq
  | .tape n i => if l.status == 0 then s1.tapeEnd n i else s1.tapeStop n i l.status
  | _ => s1

/-- The follow-on to which a freed row of a launch is leased (R372). -/
def State.followOn (s : State) (lid : Nat) : Option Launch := s.launches.find? (fun f => f.follows == some lid && f.waiting)

/-- A warp slot may be freed (R108): every thread has exited with its stores acknowledged, every token is complete, and HK3 decides nothing. -/
def State.slotDone (s : State) (key : Nat) : Bool :=
  let w := s.warp key
  w.used && !w.held && (s.liveThreads key).isEmpty && (warpThreads key).all (fun t => (s.thread t).acks.isEmpty) && w.tokensDone 0xFF &&
  (match s.wg? w.lid w.g with | none => true | some x => x.core == coreOf key && !x.isSaved)

/-- Bytes that threads of a warp stored are on their way to another device (R196, R213). -/
def State.backOpenFor (s : State) (key : Nat) : Bool :=
  s.lodge.outs.any (fun r => match r.owner with | .back _ ts _ _ => ts.any (fun t => warpOf t == key) | _ => false)

/-- A warp slot is empty: its warp, threads and place in the core's sets are gone. -/
def State.emptySlot (s : State) (core k : Nat) : State :=
  let key := warpKey core k
  let s1 := (s.updWarp key (fun _ => Warp.init)).updCore core (fun c =>
    { c with active := c.active.filter (fun e => e.1 != k), pending := c.pending.filter (fun e => e != k) })
  (warpThreads key).foldl (fun s t => s.setThread t Thread.init) s1

/-- WARP_SLOT_FREE (R108, R254, R372, R376, R459): the slot, its registers and stack region are freed, the row leased to a follow-on; with
its last slot the workgroup goes, and with its last workgroup the launch completes, after the L1s have written back. The bytes that the
warp's threads stored are written back before its slot is freed, so that a failure still finds the warp (R213). -/
def execWarpSlotFree (core : Fin 1024) (slot : Fin 64) (s : State) : Host.Outcome State Fault Refusal :=
  let key := warpKey core.val slot.val
  let w := s.warp key
  .next (
    let s := if s.slotDone key then s.writeBackL1 core.val (fun x => x.who.any (fun t => warpOf t == key)) else s
    if !s.slotDone key || s.backOpenFor key then s
    else
      let left := (List.range 64).filter (fun k => let y := s.warp (warpKey core.val k); y.used && y.lid == w.lid && y.g == w.g && k != slot.val)
      let l? := s.launch? w.lid
      let last := left.isEmpty && (match l? with | none => false | some l => l.freed + 1 == l.total)
      let s0 := if last then s.cores.foldl (fun s e => s.writeBackL1 e.1 (fun _ => true)) s else s
      if last && s0.lodge.outs.any (fun r => match r.owner with | .back .. => true | _ => false) then s0
      else
        let s1 := (s0.updWg w.lid w.g (fun x => { x with regions := Tab.erase x.regions w.widx })).emptySlot core.val slot.val
        let s2 := match s.followOn w.lid with
          | none => s1
          | some f => s1.updCore core.val (fun c => { c with leases := Tab.put (0, 0) c.leases slot.val (f.lid, w.allot) })
        if !left.isEmpty then s2
        else
          let s3 := ({ s2 with wgs := s2.wgs.filter (fun x => !(x.lid == w.lid && x.g == w.g)) }).emptyTiles core.val w.lid w.g
          match l? with
          | none => s3
          | some l =>
            let s4 := s3.updLaunch l.lid (fun l => { l with freed := l.freed + 1 })
            if last then s4.launchDone { l with freed := l.freed + 1 } else s4)

/-! ## Device-side grids (R380, R381) -/

/-- The device-side grids that wait for placement (R380). -/
def State.gridsWaiting (s : State) : Nat :=
  (s.launches.filter (fun l => l.origin == .batch && l.waiting)).length

/-- R380: BATCH_CLOSE: a batch closes 1,024 cycles after its first request. -/
def execBatchClose (die : Fin 8) (k : Nat) (s : State) : Host.Outcome State Fault Refusal :=
  .next (
    let bs := s.batchesOf die.val
    match bs[k]? with
    | none => s
    | some b =>
      if b.isOpen && decide (b.openedAt + 1024 ≤ s.cycleOf b.core) then s.setBatches die.val (bs.set k { b with isOpen := false }) else s)

/-- R381: a requester's result: LSEQ, its index and a STATUS. -/
def gridResult (lseq i : Nat) (st : Byte) : List Word :=
  [BitVec.ofNat 32 lseq, BitVec.ofNat 32 (lseq / 2 ^ 32 % 65536 + i % 64 * 65536) ||| (st.zeroExtend 32 <<< 24)]

/-- Every requester of a batch gets its result. -/
def State.gridResults (s : State) (lseq : Nat) (st : Byte) (reqs : List BatchReq) : State :=
  ((List.range reqs.length).zip reqs).foldl (fun s r => s.setResult r.2.tid r.2.id (.val (gridResult lseq r.1 st))) s

/-- GRID_ACCEPT (R381): HK1 accepts or refuses the grid of a die's first closed batch and writes each requester's result. -/
def execGridAccept (die : Fin 8) (s : State) : Host.Outcome State Fault Refusal :=
  .next (
    let bs := s.batchesOf die.val
    match bs.find? (fun b => !b.isOpen) with
    | none => s
    | some b =>
      if !s.running || decide (4096 ≤ s.gridsWaiting) then s
      else
        let s0 := (s.setBatches die.val (dropFirst b bs)).agentDone (66 + die.val)
        match s.validate (66 + die.val) b.part b.rcb b.kd with
        | .wait => s.agentAsk (66 + die.val) b.part b.kd 64
        | .fail st => s0.gridResults 0 st b.reqs
        | .ok k =>
          let lseq := s.nextLseq b.part
          (s0.gridResults lseq 0 b.reqs).accept b.part b.rcb k (.device (b.reqs.map (fun r => (r.n, r.param)))) ((b.reqs.map (fun r => r.n)).sum)
            .batch (BitVec.ofNat 32 lseq) none)

end Sys2Proof.Machine
end

