-- ==== Sys2Proof/Machine/Ports.lean ====
section
/-! DEFINITION. The optical ports and their circuit entries, the CIRCUIT messages, slot rotations, the release of what a context owns,
and a context's fault (R329 to R346, R357). -/

namespace Sys2Proof.Machine
open Sys2Proof

/-! ## Ports and entries (R331, R335) -/

/-- A port. -/
def State.optPort (s : State) (p : Nat) : Port := Tab.get Port.init s.cp.ports p
/-- Changes a port. -/
def State.updPort (s : State) (p : Nat) (f : Port → Port) : State :=
  { s with cp := { s.cp with ports := Tab.put Port.init s.cp.ports p (f (s.optPort p)) } }
/-- The entry of a slot. -/
def Port.entry (p : Port) (slot : Nat) : Entry := Tab.get Entry.init p.entries slot
/-- Changes the entry of a slot. -/
def State.updEntry (s : State) (p slot : Nat) (f : Entry → Entry) : State :=
  s.updPort p (fun x => { x with entries := Tab.put Entry.init x.entries slot (f (x.entry slot)) })

/-- The port holds an entry of a rotation (R329). -/
def Port.rotating (p : Port) : Bool := p.entries.any (fun e => e.1 != 0 && e.2.st != 0)
/-- The port holds a static entry (R329). -/
def Port.static (p : Port) : Bool := (p.entry 0).st != 0

/-- The peer an entry names. -/
def Entry.peer (e : Entry) : BitVec 12 × BitVec 4 × BitVec 2 := (e.pdev, e.pport, e.wid)

/-- The ports that a context owns. -/
def State.portsOf (s : State) (k : Nat) : List Nat := (List.range 16).filter (fun p => (s.optPort p).owner == some k)

/-- R342: SSEQ of a rotation. -/
def Rotation.sseq (r : Rotation) : Nat := (r.k * r.ns + r.s - 1) % 65536

/-- The rotation a port takes part in: that of its owner, when it runs and the port holds rotation entries. -/
def State.rotationOf (s : State) (p : Nat) : Option Rotation :=
  let x := s.optPort p
  match x.owner with
  | some k => if x.rotating && (s.cx k).rot.st == 3 then some (s.cx k).rot else none
  | none => none

/-- R342, R344: the current SSEQ of a port; 0 for a static circuit. -/
def State.portSseq (s : State) (p : Nat) : Nat := match s.rotationOf p with | some r => r.sseq | none => 0
/-- R354: the current slot of a port; 0 when no rotation runs. -/
def State.portSlot (s : State) (p : Nat) : Nat := match s.rotationOf p with | some r => r.s | none => 0

/-- R345, R346: the window of a port is open. A static circuit's is open exactly while the port is LIVE with the static entry's peer. -/
def State.windowOpen (s : State) (p : Nat) : Bool :=
  let x := s.optPort p
  x.st == 3 && (if x.static then x.peer == some (x.entry 0).peer && (x.entry 0).st == 2 else x.window)

/-- R354: the status word of a port with the entry of a slot, but for OUTCOME. -/
def State.portStatus (s : State) (p slot : Nat) : DWord :=
  let x := s.optPort p
  let e := x.entry slot
  let peer := match x.peer with | some (d, q, w) => d.toNat * 2 ^ 16 + q.toNat * 2 ^ 28 + w.toNat * 2 ^ 8 | none => 0
  BitVec.ofNat 64 (s.portSseq p * 2 ^ 48 + e.res.toNat * 2 ^ 40 + e.st * 2 ^ 36 + peer + s.portSlot p * 16 + (if x.laser then 8 else 0) + x.st)

/-! ## CIRCUIT messages (R334) -/

/-- A REQ's ADDR. -/
def reqAddr (slot port cx id : Nat) (e : Entry) : DWord :=
  BitVec.ofNat 64 (2 ^ 60 + slot * 2 ^ 56 + e.wid.toNat * 2 ^ 54 + e.pdev.toNat * 2 ^ 42 + e.pport.toNat * 2 ^ 38 + port * 2 ^ 34 + cx * 2 ^ 16 + id)
/-- A REL's ADDR. -/
def relAddr (slot port cx id : Nat) : DWord := BitVec.ofNat 64 (3 * 2 ^ 60 + slot * 2 ^ 56 + port * 2 ^ 34 + cx * 2 ^ 16 + id)
/-- An ADV's ADDR. -/
def advAddr (slot sseq cx : Nat) : DWord := BitVec.ofNat 64 (4 * 2 ^ 60 + slot * 2 ^ 56 + sseq * 2 ^ 32 + cx * 2 ^ 16)
/-- A MSG's ADDR. -/
def msgAddr (cx payload : Nat) : DWord := BitVec.ofNat 64 (5 * 2 ^ 60 + cx * 2 ^ 57 + payload)

/-- A CIRCUIT packet is sent, on T1. -/
def State.sendCircuit (s : State) (dst : BitVec 12) (addr : DWord) : State := s.sendSequenced 1 5 dst 0 addr .circuit

/-- A CIRCUIT packet to a port's switch controller. -/
def State.toSwitch (s : State) (p : Nat) (addr : DWord) : State := s.sendCircuit (s.optPort p).swid addr

/-- R335: an entry is released: a REL for an ASKED or GRANTED one, and it becomes FREE. -/
def State.releaseEntry (s : State) (p slot : Nat) : State :=
  let e := (s.optPort p).entry slot
  let s1 := if e.st == 1 || e.st == 2 then s.toSwitch p (relAddr slot p e.cx e.reqId) else s
  s1.updEntry p slot (fun _ => Entry.init)

/-! ## The expected peer (R331) -/

/-- The device and port of a peer. -/
def samePeer (a b : Option (BitVec 12 × BitVec 4 × BitVec 2)) : Bool := a.map (fun x => (x.1, x.2.1)) == b.map (fun x => (x.1, x.2.1))

/-- R331, R342: a port's expected peer changes: a TRAINED or LIVE port goes to LOCKING unless its peer, a device and a port of it, stays the same. -/
def State.setPeer (s : State) (p : Nat) (peer : Option (BitVec 12 × BitVec 4 × BitVec 2)) : State :=
  s.updPort p (fun x =>
    if samePeer x.peer peer then { x with peer := peer }
    else { x with peer := peer, st := if x.st == 2 || x.st == 3 then 1 else x.st, window := false })

/-- R331: PORT.OFF, a halt or a fault turns a port DARK: its entries are released and its ownership ends. The phase cache stays (R332). -/
def State.portDark (s : State) (p : Nat) : State :=
  let s1 := (List.range 16).foldl (fun s k => if ((s.optPort p).entry k).st = 0 then s else s.releaseEntry p k) s
  s1.updPort p (fun x => { x with st := 0, laser := false, peer := none, owner := none, window := false })

/-! ## Rotations (R342, R343, R345, R357) -/

/-- The ports of a context's rotation. -/
def State.rotationPorts (s : State) (k : Nat) : List Nat := (s.portsOf k).filter (fun p => (s.optPort p).rotating)

/-- R340: the peer of a port in a slot; none when its entry is not GRANTED. -/
def Port.slotPeer (x : Port) (slot : Nat) : Option (BitVec 12 × BitVec 4 × BitVec 2) :=
  let e := x.entry slot
  if e.st == 2 then some e.peer else none

/-- R342: a leader sends an ADV to the switch of every port with a rotation circuit. -/
def State.sendAdv (s : State) (k slot : Nat) : State :=
  let r := (s.cx k).rot
  if !r.lead then s
  else
    (s.rotationPorts k).foldl (fun s p =>
      if (s.optPort p).entries.any (fun e => e.1 != 0 && e.2.st == 2) then s.toSwitch p (advAddr slot r.sseq k) else s) s

/-- A FAULT port that a boundary meets goes to LOCKING (R331, R342). -/
def State.unfault (s : State) (p : Nat) : State := s.updPort p (fun x => if x.st == 4 then { x with st := 1 } else x)

/-- R342, R345: a rotation enters its current slot: windows close, each port takes the slot's peer or none, FAULT ports go to LOCKING, and a
WEV.SLOT sees it. -/
def State.enterSlot (s : State) (k : Nat) : State :=
  let r := (s.cx k).rot
  let s1 := (s.rotationPorts k).foldl (fun s p =>
    ((s.updPort p (fun x => { x with window := false })).unfault p).setPeer p ((s.optPort p).slotPeer r.s)) s
  s1.updCx k (fun c =>
    match c.wait with
    | .wev _ e _ => if e.kind == 5 && e.a.toNat % 16 == r.s then { c with slotSeen := some r.sseq } else c
    | _ => c)

/-- R357: a rotation stops: a leader sends ADV(0), its ports lose their expected peers, and its entries stay. -/
def State.stopRotation (s : State) (k : Nat) : State :=
  let s1 := s.sendAdv k 0
  let s2 := (s.rotationPorts k).foldl (fun s p => (s.unfault p).setPeer p none) s1
  s2.updCx k (fun c => { c with rot := { c.rot with st := 1, s := 0, k := 0, stop := 0, realigned := [], got := none } })

/-- R342, R357: the boundary after the current slot is taken: b advances by LEN, s and perhaps k advance, and a stop that is due is taken. -/
def State.boundary (s : State) (k : Nat) : State :=
  let r := (s.cx k).rot
  let b := r.b + ((r.len[r.s - 1]?).getD 0 : Nat)
  let wrap := decide (r.ns ≤ r.s)
  let k1 := if wrap then r.k + 1 else r.k
  let s1 := s.updCx k (fun c => { c with rot := { c.rot with s := if wrap then 1 else r.s + 1, k := k1, b := b } })
  if r.stop == 1 || (wrap && (r.stop == 2 || (r.reps != 0 && k1 == r.reps))) then s1.stopRotation k
  else (s1.sendAdv k (if wrap then 1 else r.s + 1)).enterSlot k

/-- R342: the start of an armed rotation at local time t0. -/
def State.startRotation (s : State) (k : Nat) (t0 : Int) : State :=
  let s1 := s.updCx k (fun c => { c with rot := { c.rot with st := 3, s := 1, k := 0, b := t0, stop := 0, realigned := [], got := none } })
  (s1.sendAdv k 1).enterSlot k

/-- The distance of a light arrival at `a` from a slot's boundary on a port (R342). -/
def lightDist (a b : Int) (e : Entry) : Nat := (a - 10 * e.swt - b).natAbs

/-- R342, R343: a light arrival on a port of a rotation that does not lead: it realigns the nearer of the current and the next slot, at
most once for each value of SSEQ and within its limit, or is counted. -/
def State.realign (s : State) (k p : Nat) (a : Int) : State :=
  let r := (s.cx k).rot
  let x := s.optPort p
  let next := if r.ns ≤ r.s then 1 else r.s + 1
  let bn := r.b + ((r.len[r.s - 1]?).getD 0 : Nat)
  let e0 := x.entry r.s
  let e1 := x.entry next
  let count := { s with cp := { s.cp with ralign := s.cp.ralign + 1 } }
  let useNext := e1.st == 2 && (e0.st != 2 || decide (lightDist a bn e1 < lightDist a r.b e0))
  let kn := if r.ns ≤ r.s then r.k + 1 else r.k
  let sq := if useNext then (kn * r.ns + next - 1) % 65536 else r.sseq
  let sx := if useNext then next else r.s
  let lim := if sx == 1 && (if useNext then kn else r.k) == 0 then (r.len[0]?).getD 0 else (r.guard[sx - 1]?).getD 0
  let d := if useNext then lightDist a bn e1 else lightDist a r.b e0
  if (e0.st != 2 && e1.st != 2) || decide (lim < d) || r.realigned.contains sq then count
  else
    let s1 := if useNext then s.boundary k else s
    if (s1.cx k).rot.st != 3 then s1
    else s1.updCx k (fun c => { c with rot := { c.rot with
      b := a - 10 * (if useNext then e1.swt else e0.swt), realigned := [sq] } })

/-! ## A context's end (R336) -/

/-- The waits of tagged words that a test names are withdrawn where they can be at once (R218); true when one was. -/
def State.withdrawHeld (s : State) (who : ReqOwner) : State × Bool :=
  if s.tagWaits.any (fun w => w.who == who) then ({ s with tagWaits := s.tagWaits.filter (fun w => w.who != who) }, true)
  else
    match s.lodge.outs.find? (fun r => r.owner == who) with
    | none => (s, false)
    | some r =>
      if r.phase == 0 then (s.sendSequenced 1 8 r.pkt.dst r.pkt.tag r.pkt.addr .withdraw, false)
      else ({ s with lodge := { s.lodge with outs := dropFirst r s.lodge.outs } }, true)

/-- Replies to the requests of an owner find nobody any more. -/
def State.orphan (s : State) (who : ReqOwner) : State :=
  { s with lodge := { s.lodge with outs := s.lodge.outs.map (fun (r : OutReq) =>
      if r.owner = who then { r with owner := ReqOwner.nobody } else r) } }

/-- R336: what a context owns is released: its rotation stops (with an ADV for slot 0 if it leads), its bindings go, and its ports go DARK
with their entries released. Its tagged reads are withdrawn, and replies to its accesses find nobody. -/
def State.releaseContext (s : State) (k : Nat) : State :=
  let s1 := if (s.cx k).rot.st = 3 then s.stopRotation k else s
  let s2 := (s1.portsOf k).foldl (fun s p => s.portDark p) s1
  let s3 := { s2 with cp := { s2.cp with binds := s2.cp.binds.filter (fun b => b.cx != k) } }
  let s4 := (s3.withdrawHeld (.context k)).1
  let s5 := (s4.withdrawHeld (.context (k + 8))).1
  ((s5.orphan (.context k)).orphan (.context (k + 8))).updCx k (fun c => { c with wait := .none, rot := {}, slotSeen := none, fullGot := none, withdrawn := false })

/-! ## Starting a context (R347, R374) -/

/-- R347: a CIRCUIT command starts a context: PC at the entry, c1 with the parameter, every other register 0, in the ring's partition. -/
def State.startContext (s : State) (k n : Nat) (a : Act) : State :=
  let entry := cmdField a.cmd 10 2
  let sec := match s.cp.sections.find? (fun x => decide (x.1 ≤ entry) && decide (entry < x.2)) with | some x => x | none => (0, 0)
  let detach := cmdFlag a.cmd 1
  let s1 := s.updCx k (fun c => { c with
    st := 1, pc := entry, regs := Tab.put 0 [] 1 (cmdDword a.cmd 16), part := (s.ring n).part, wait := .none, rot := {},
    cmd := if detach then none else some (n, a.idx), slotSeen := none, fullGot := none, withdrawn := false, sec := sec })
  if detach then s1.complete n a.idx 0 0 0 else s1.setWait n a.idx (.circuit k true)

/-- The ring and command that waits for a context, the lowest ring first (assumption 24). -/
def State.waitingFor (s : State) (k : Nat) : Option (Nat × Act) :=
  (List.range 64).findSome? (fun n =>
    ((s.ring n).act.find? (fun a => match a.wait with | .circuit c false => c == k | _ => false)).map (fun a => (n, a)))

/-- R374: a CIRCUIT command that waits for a context starts it once it does not run. -/
def State.startWaiting (s : State) (k : Nat) : State :=
  if (s.cx k).st == 1 || (s.cx k).st == 2 then s
  else match s.waitingFor k with | none => s | some (n, a) => s.startContext k n a

/-- R336, R374: the context ends: what it owns is released, its command completes, and one that waits for it starts. -/
def State.endContext (s : State) (k : Nat) (status exit : Byte) : State :=
  let cmd := (s.cx k).cmd
  let s1 := (s.releaseContext k).updCx k (fun c => { c with cmd := none })
  let s2 := match cmd with | none => s1 | some (n, i) => s1.complete n i status exit 0
  s2.startWaiting k

/-- R336, R337: A CONTEXT FAULTS: CAUSE and PC are set, HK4 is notified, and what it owns is released. -/
def State.faultContext (s : State) (k : Nat) (cause : Byte) : State :=
  let s1 := { s with cp := { s.cp with faults := s.cp.faults ++ [(k, cause, (s.cx k).pc)] } }
  (s1.updCx k (fun c => { c with st := 3, cause := cause, statPc := c.pc })).endContext k cause 0

/-! ## What holds and releases a context -/

/-- A circuit register; c0 reads 0 (R347). -/
def Context.reg (c : Context) (n : Nat) : DWord := if n = 0 then 0 else Tab.get 0 c.regs n
/-- Writes a circuit register; a write to c0 is discarded (R347). -/
def Context.setReg (c : Context) (n : Nat) (v : DWord) : Context := if n = 0 then c else { c with regs := Tab.put 0 c.regs n v }
/-- The PC `n` words on, within the 64 KiB of the script store. -/
def Context.pcPlus (c : Context) (n : Int) : Nat := (((c.pc : Int) + 4 * n) % 65536).toNat
/-- A context goes on at the next word. -/
def State.cxNext (s : State) (k : Nat) : State := s.updCx k (fun c => { c with st := 1, wait := .none, pc := c.pcPlus 1 })
/-- A word holds its context (R336). -/
def State.cxHold (s : State) (k : Nat) (w : CxWait) : State := s.updCx k (fun c => { c with st := 2, wait := w, statPc := c.pc })

/-- R353: how a CWAIT on a spec would end now: 0 LIVE or granted, 1 refused, 2 FAULT. -/
def State.cwaitOutcome (s : State) (spec : DWord) : Option Nat :=
  let p := spec.toNat % 16
  let slot := spec.toNat / 16 % 16
  let x := s.optPort p
  let e := x.entry slot
  if slot = 0 && x.st == 3 && e.st == 2 && x.peer == some e.peer then some 0
  else if slot != 0 && e.st == 2 then some 0
  else if e.st == 3 then some 1
  else if x.st == 4 then some 2
  else none

/-- A CWAIT ends with an outcome: the status word is written (R353, R354). -/
def State.cwaitEnd (s : State) (k : Nat) (d : BitVec 4) (spec : DWord) (o : Nat) : State :=
  (s.updCx k (fun c => c.setReg d.toNat (s.portStatus (spec.toNat % 16) (spec.toNat / 16 % 16) ||| BitVec.ofNat 64 (o * 4096)))).cxNext k

/-- After a change of a port or entry, the CWAITs whose holds end are released. -/
def State.wakeCwaits (s : State) : State :=
  (List.range 8).foldl (fun s k =>
    match (s.cx k).wait with
    | .cwait d spec _ => (match s.cwaitOutcome spec with | some o => s.cwaitEnd k d spec o | none => s)
    | _ => s) s

end Sys2Proof.Machine
end

