-- ==== Sys2Proof/Machine/Circuit.lean ====
section
/-! DEFINITION. The circuit processor: its words (R347 to R361), the CIRCUIT command, and the events that move its contexts, rotations and
ports. A word acts on the context that issued last (R348). -/

namespace Sys2Proof.Machine
open Sys2Proof

/-! ## Issuing a circuit word -/

/-- A CIRCUIT WORD of the context that issues: a reserved code faults with 0x02 (R337); else `f` acts on the context. -/
def State.circuitWord (s : State) (i : Instr) (f : State → Nat → State) : State :=
  let k := s.cp.last
  if (s.cx k).st != 1 then s
  else if !i.fieldsOk then s.faultContext k 2
  else f s k

/-- A register of a context. -/
def State.cxReg (s : State) (k : Nat) (n : BitVec 4) : DWord := (s.cx k).reg n.toNat
/-- A general word's result: cD takes a value and the context goes on (R352). -/
def State.cxSet (s : State) (k : Nat) (d : BitVec 4) (v : DWord) : State := (s.updCx k (fun c => c.setReg d.toNat v)).cxNext k

/-! ## General words (R352) -/

/-- HALT: EXIT takes the code, what the context owns is released, and it is IDLE (R336, R352). -/
def execHalt (c : BitVec 8) (s : State) : Host.Outcome State Fault Refusal :=
  .next (s.circuitWord (.halt c) (fun s k => (s.updCx k (fun x => { x with st := 0, exit := c })).endContext k 0 c))

/-- A 64-bit value with the 16 bits at 16 h replaced. -/
def insert16 (v : DWord) (h : Nat) (i : BitVec 16) : DWord :=
  (v &&& ~~~(0xFFFF#64 <<< (16 * h))) ||| (i.zeroExtend 64 <<< (16 * h))

/-- MOVI of the circuit processor (R352). -/
def execCircuitMovi (d : BitVec 4) (h : BitVec 2) (k : BitVec 1) (i : BitVec 16) (s : State) : Host.Outcome State Fault Refusal :=
  .next (s.circuitWord (.circuitMovi d h k i) (fun s x =>
    s.cxSet x d (if k == 0 then i.zeroExtend 64 <<< (16 * h.toNat) else insert16 (s.cxReg x d) h.toNat i)))

/-- ADD of the circuit processor (R352). -/
def execCircuitAdd (d a b : BitVec 4) (i : BitVec 15) (s : State) : Host.Outcome State Fault Refusal :=
  .next (s.circuitWord (.circuitAdd d a b i) (fun s k => s.cxSet k d (s.cxReg k a + s.cxReg k b + i.signExtend 64)))

/-- SUB of the circuit processor (R352). -/
def execCircuitSub (d a b : BitVec 4) (s : State) : Host.Outcome State Fault Refusal :=
  .next (s.circuitWord (.circuitSub d a b) (fun s k => s.cxSet k d (s.cxReg k a - s.cxReg k b)))

/-- AND of the circuit processor (R352). -/
def execCircuitAnd (d a b : BitVec 4) (s : State) : Host.Outcome State Fault Refusal :=
  .next (s.circuitWord (.circuitAnd d a b) (fun s k => s.cxSet k d (s.cxReg k a &&& s.cxReg k b)))

/-- A branch by a signed word offset from the word itself when a condition holds (R352). -/
def State.cxBranch (s : State) (k : Nat) (c : Bool) (o : BitVec 15) : State :=
  if c then s.updCx k (fun x => { x with pc := x.pcPlus o.toInt }) else s.cxNext k

/-- BEQ (R352). -/
def execBeq (a b : BitVec 4) (o : BitVec 15) (s : State) : Host.Outcome State Fault Refusal :=
  .next (s.circuitWord (.beq a b o) (fun s k => s.cxBranch k (s.cxReg k a == s.cxReg k b) o))
/-- BNE (R352). -/
def execBne (a b : BitVec 4) (o : BitVec 15) (s : State) : Host.Outcome State Fault Refusal :=
  .next (s.circuitWord (.bne a b o) (fun s k => s.cxBranch k (s.cxReg k a != s.cxReg k b) o))
/-- BLT (R352). -/
def execBlt (a b : BitVec 4) (o : BitVec 15) (s : State) : Host.Outcome State Fault Refusal :=
  .next (s.circuitWord (.blt a b o) (fun s k => s.cxBranch k (decide ((s.cxReg k a).toInt < (s.cxReg k b).toInt)) o))
/-- JMP (R352). -/
def execJmp (o : BitVec 15) (s : State) : Host.Outcome State Fault Refusal :=
  .next (s.circuitWord (.jmp o) (fun s k => s.cxBranch k true o))

/-! ## Memory words (R337, R352, R361) -/

/-- What the checks of a context's access give. -/
inductive CxPlace where
  | bad (cause : Byte)
  | page (va : DWord)
  | place (h : Home)
  deriving DecidableEq, Repr

/-- R337: an address outside the global window 0x04, misaligned 0x03, unmapped 0x06, without the permission 0x05, in this order. -/
def State.cxPlace (s : State) (k : Nat) (a : DWord) (al : Nat) (rd wr : Bool) : CxPlace :=
  if globalTop < a then .bad 4
  else if a.toNat % al != 0 then .bad 3
  else
    match s.translateAgent (s.cx k).part a.toNat with
    | .unmapped => .bad 6
    | .onDemand => .page a
    | .mapped e size => if pteAllows e rd wr then .place (pteHome e (sizeShift size) a.toNat) else .bad 5

/-- R337: an on-demand page holds the context until HK2 fills it, and the word is then executed again. -/
def State.cxPage (s : State) (k : Nat) (va : DWord) : State := (s.notify (s.cx k).part va).cxHold k (.page va)

/-- The address of an LDC or STC (R352). -/
def State.cxAddr (s : State) (k : Nat) (a : BitVec 4) (i : BitVec 15) : DWord := s.cxReg k a + (i.signExtend 64) * 8

/-- LDC (R352, R361): a read at the home, as a READ packet when that is another device. -/
def execLdc (d a : BitVec 4) (i : BitVec 15) (s : State) : Host.Outcome State Fault Refusal :=
  .next (s.circuitWord (.ldc d a i) (fun s k =>
    match s.cxPlace k (s.cxAddr k a i) 8 true false with
    | .bad c => s.faultContext k c
    | .page va => s.cxPage k va
    | .place (.remote dev va) => (s.request (.context k) 1 0 dev (BitVec.ofNat 64 va) (.read 8 .plain)).cxHold k .reply
    | .place h =>
      match s.readHome h 8 with
      | (s1, .bytes bs) => s1.cxSet k d (BitVec.ofNat 64 (leNat bs))
      | (s1, .bad c) => s1.faultContext k c
      | (s1, .later) => s1))

/-- STC (R352, R361). -/
def execStc (a b : BitVec 4) (i : BitVec 15) (s : State) : Host.Outcome State Fault Refusal :=
  .next (s.circuitWord (.stc a b i) (fun s k =>
    let bs := leBytes 8 (s.cxReg k b).toNat
    match s.cxPlace k (s.cxAddr k a i) 8 false true with
    | .bad c => s.faultContext k c
    | .page va => s.cxPage k va
    | .place (.remote dev va) => (s.request (.context k) 1 2 dev (BitVec.ofNat 64 va) (.write bs .plain)).cxHold k .reply
    | .place h =>
      match s.writeHome h bs with
      | (s1, none) => s1.cxNext k
      | (s1, some c) => s1.faultContext k c))

/-! ## Ports and circuits (R350, R353, R354) -/

/-- R350: a register with a port number in bits [3:0] and 0 elsewhere. -/
def portNumber (v : DWord) : Option Nat := if v.toNat < 16 then some v.toNat else none
/-- R350: the bits of a circuit spec that must be 0 are 0. -/
def specOk (v : DWord) : Bool := v.toNat < 2 ^ 32 && v.toNat / 1024 % 64 == 0
/-- The port of a spec. -/
def specPort (v : DWord) : Nat := v.toNat % 16
/-- The slot of a spec. -/
def specSlot (v : DWord) : Nat := v.toNat / 16 % 16

/-- R337, R348: a context may use a port: it is enabled, and no other context owns it. -/
def State.mayUse (s : State) (k p : Nat) : Bool :=
  let x := s.optPort p
  x.en && (match x.owner with | none => true | some o => o == k)

/-- R348: the context owns the port from now on. -/
def State.own (s : State) (k p : Nat) : State := s.updPort p (fun x => { x with owner := some k })

/-- CREQ (R353, R335): the spec is checked, the port owned, a REQ with a new request id sent, and the entry ASKED. -/
def execCreq (a : BitVec 4) (s : State) : Host.Outcome State Fault Refusal :=
  .next (s.circuitWord (.creq a) (fun s k =>
    let v := s.cxReg k a
    let p := specPort v
    let slot := specSlot v
    let x := s.optPort p
    let old := x.entry slot
    if !specOk v || !s.mayUse k p || (if slot = 0 then x.rotating else x.static) || !(old.st == 0 || old.st == 3) then s.faultContext k 1
    else
      let id := s.cp.reqId
      let e : Entry := { st := 1, reqId := id, wid := v.extractLsb' 8 2, pdev := v.extractLsb' 16 12, pport := v.extractLsb' 28 4, cx := k }
      let s1 := ({ s with cp := { s.cp with reqId := (id + 1) % 65536 } }).own k p
      ((s1.updEntry p slot (fun _ => e)).toSwitch p (reqAddr slot p k id e)).cxNext k))

/-- CWAIT (R353): it ends at once when it already may, and else holds the context. -/
def execCwait (d a : BitVec 4) (t : BitVec 12) (s : State) : Host.Outcome State Fault Refusal :=
  .next (s.circuitWord (.cwait d a t) (fun s k =>
    let v := s.cxReg k a
    if !specOk v || !s.mayUse k (specPort v) then s.faultContext k 1
    else
      match s.cwaitOutcome v with
      | some o => s.cwaitEnd k d v o
      | none => s.cxHold k (.cwait d v t.toNat)))

/-- R353: the bits of a queue spec that must be 0 are 0, and ENG names an engine. -/
def queueSpecOk (v : DWord) : Bool :=
  v.toNat < 2 ^ 32 && v.toNat / 4096 % 16 == 0 && v.toNat / 64 % 4 == 0 && decide (v.toNat % 64 < 34)

/-- CREL (R353, R335): the entry is released; releasing the current circuit of the port clears its expected peer (R331). -/
def execCrel (a : BitVec 4) (s : State) : Host.Outcome State Fault Refusal :=
  .next (s.circuitWord (.crel a) (fun s k =>
    let v := s.cxReg k a
    let p := specPort v
    let slot := specSlot v
    if !specOk v || !s.mayUse k p then s.faultContext k 1
    else
      let e := (s.optPort p).entry slot
      let current := e.st == 2 && (slot == 0 || s.portSlot p == slot)
      let s1 := s.releaseEntry p slot
      (if current then s1.setPeer p none else s1).cxNext k))

/-- A PORT word on the port that a register names. -/
def State.portWord (s : State) (k : Nat) (a : BitVec 4) (f : State → Nat → State) : State :=
  match portNumber (s.cxReg k a) with
  | none => s.faultContext k 1
  | some p => if s.mayUse k p then (f s p).cxNext k else s.faultContext k 1

/-- PORT.OFF (R353): the port goes DARK. -/
def execPortOff (a : BitVec 4) (s : State) : Host.Outcome State Fault Refusal :=
  .next (s.circuitWord (.portOff a) (fun s k => s.portWord k a (fun s p => s.portDark p)))

/-- PORT.ON (R353): a DARK port goes to LOCKING; its laser is not ready yet (R331). -/
def execPortOn (a : BitVec 4) (s : State) : Host.Outcome State Fault Refusal :=
  .next (s.circuitWord (.portOn a) (fun s k => s.portWord k a (fun s p =>
    (s.own k p).updPort p (fun x => if x.st = 0 then { x with st := 1, laser := false } else x))))

/-- PORT.CLR (R353): a FAULT port goes to LOCKING. -/
def execPortClr (a : BitVec 4) (s : State) : Host.Outcome State Fault Refusal :=
  .next (s.circuitWord (.portClr a) (fun s k => s.portWord k a (fun s p => s.unfault p)))

/-- PSTAT (R354); any context may issue it on an enabled port (R348). -/
def execPstat (d a : BitVec 4) (s : State) : Host.Outcome State Fault Refusal :=
  .next (s.circuitWord (.pstat d a) (fun s k =>
    let v := s.cxReg k a
    if !specOk v || !(s.optPort (specPort v)).en then s.faultContext k 1
    else s.cxSet k d (s.portStatus (specPort v) (specSlot v))))

/-! ## Rotations (R340, R341, R355 to R357) -/

/-- R340: the doublewords of a slot table that the header names; none when NS is not 1 to 15 or a fixed field is not 0. -/
def tableSlots (h : DWord) : Option Nat :=
  let v := h.toNat
  let ns := v % 256
  if ns = 0 || 15 < ns || v / 512 % 128 != 0 || v / 2 ^ 32 != 0 then none else some ns

/-- R340: LEN is 1,501 to 10^9 and GUARD at least 1,500 and less than LEN. -/
def slotLegal (e : DWord) : Bool :=
  let len := e.toNat % 2 ^ 32
  let guard := e.toNat / 2 ^ 32
  decide (1501 ≤ len) && decide (len ≤ 1000000000) && decide (1500 ≤ guard) && decide (guard < len)

/-- R355: a slot table that has been read whole is loaded, or faults the context. -/
def State.loadTable (s : State) (k : Nat) (h : DWord) (es : List DWord) : State :=
  if es.all slotLegal then
    (s.updCx k (fun c => { c with rot :=
      { st := 1, ns := es.length, lead := h.getLsbD 8, reps := h.toNat / 2 ^ 16 % 2 ^ 16, len := es.map (fun e => e.toNat % 2 ^ 32),
        guard := es.map (fun e => e.toNat / 2 ^ 32) } })).cxNext k
  else s.faultContext k 1

/-- R355: the table's doublewords are read in order, one LDC each, from `got` on; a remote page holds the context for the reply. -/
def State.readTable (s : State) (k : Nat) (a : DWord) (got : List DWord) : Nat → State
  | 0 => s
  | f + 1 =>
    let go := fun (_ : Unit) =>
      match s.cxPlace k (a + BitVec.ofNat 64 (8 * got.length)) 8 true false with
      | .bad c => s.faultContext k c
      | .page va => s.cxPage k va
      | .place (.remote dev va) => (s.request (.context k) 1 0 dev (BitVec.ofNat 64 va) (.read 8 .plain)).cxHold k (.table got)
      | .place h =>
        match s.readHome h 8 with
        | (s1, .bytes bs) => s1.readTable k a (got ++ [BitVec.ofNat 64 (leNat bs)]) f
        | (s1, .bad c) => s1.faultContext k c
        | (s1, .later) => s1
    match got with
    | [] => go ()
    | h :: es =>
      match tableSlots h with
      | none => s.faultContext k 1
      | some ns => if es.length < ns then go () else s.loadTable k h es

/-- SLOT (R355): it faults while the rotation is armed or running. -/
def execSlot (a : BitVec 4) (s : State) : Host.Outcome State Fault Refusal :=
  .next (s.circuitWord (.slot a) (fun s k =>
    if 2 ≤ (s.cx k).rot.st then s.faultContext k 1 else s.readTable k (s.cxReg k a) [] 20))

/-- R341: the guard rule for an entry of a slot. -/
def guardRule (r : Rotation) (slot : Nat) (e : Entry) : Bool :=
  match r.guard[slot - 1]? with | none => false | some g => decide (10 * e.swt + 1500 ≤ g)

/-- The GRANTED rotation entries of a context: slot and entry (R340). -/
def State.grantedEntries (s : State) (k : Nat) : List (Nat × Entry) :=
  (s.portsOf k).flatMap (fun p => (s.optPort p).entries.filter (fun e => e.1 != 0 && e.2.st == 2))

/-- What an event's operands fault with when the word issues (R337, R360); none when they are good. -/
inductive EventCheck where
  | ok
  | bad (cause : Byte)
  | page (va : DWord)
  | full (h : Home)
  deriving DecidableEq, Repr

/-- The barrier that a BARPH event names, chosen from the line that holds cA, and its state; none is a barrier failure (R315, R360). -/
def State.eventBarrier (s : State) (h : Home) (b : DWord) : Option Barrier :=
  match h with
  | .slice c o =>
    (match s.sliceOwner c o with
     | none => none
     | some w =>
       let n := b.toNat % 128
       let x := s.barAt w n
       if s.nbar w.lid ≤ n || !x.init then none else some x)
  | _ => none

/-- R337, R360: the checks of an event's operands. -/
def State.checkEvent (s : State) (k : Nat) (e : Event) : EventCheck :=
  match e.kind with
  | 0 => if e.a.toNat % 64 < 34 then .ok else .bad 1
  | 1 =>
    (match s.cxPlace k e.a 1 true false with
     | .bad c => .bad c
     | .page va => .page va
     | .place h => if !h.isSlice then .bad 0x18 else if (s.eventBarrier h e.b).isNone then .bad 0x0B else .ok)
  | 3 =>
    (match s.cxPlace k (e.a &&& ~~~7#64) 8 true false with
     | .bad c => .bad c
     | .page va => .page va
     | .place h =>
       if h.isRemote then .full h
       else if !h.isSlice then .bad 0x18
       else if s.refusedAt h 8 then .bad 6
       else .full h)
  | 5 =>
    let r := (s.cx k).rot
    let n := e.a.toNat % 16
    if r.st < 2 || n == 0 || decide (r.ns < n) then .bad 1 else .ok
  | _ => .ok

/-- R360: a FULL event's read goes to its tag unit as an LDF, of this device or another. -/
def State.readFull (s : State) (who : Nat) (h : Home) : State :=
  match h with
  | .remote dev va => s.request (.context who) 1 0 dev (BitVec.ofNat 64 va) (.read 8 .ldf)
  | h => { s.freshId.2 with tagWaits := s.tagWaits ++ [TagWait.mk s.ids 0 h.key 8 [] (.context who) 0 s.ids] }

/-- What an event's test gives: not yet, a fault, or the value for c(D+1) with the state in which it has happened. -/
inductive Happened where
  | no
  | bad (cause : Byte)
  | yes (v : DWord) (s : State)

/-- R360: whether an event holds now, for a WEV with a timeout of `tmo` µs (0 for none) or an armed SRUN. The time of a TIME event is the
environment's, but never after an earlier timeout. -/
def State.eventNow (s : State) (k : Nat) (e : Event) (got : Option (Byte × DWord)) (seen : Option Nat) (tmo : Nat) : Happened :=
  match e.kind with
  | 0 =>
    let g := e.a.toNat % 64
    let q := e.a.toNat / 256 % 8
    let idle := if g < 32 then ((s.engine g).queue q).isEmpty else ((s.collEng (g - 32)).queue q).isEmpty
    if idle then .yes 0 s else .no
  | 1 =>
    (match s.cxPlace k e.a 1 true false with
     | .place h =>
       (match s.eventBarrier h e.b with
        | some b => if b.ph != e.b.getLsbD 8 then .yes 0 s else .no
        | none => .bad 0x0B)
     | .page _ => .no
     | .bad c => .bad c)
  | 2 =>
    (match (s.cx k).msgs with
     | [] => .no
     | (src, p) :: r => .yes (src.zeroExtend 64 <<< 48 ||| p.zeroExtend 64) (s.updCx k (fun c => { c with msgs := r })))
  | 3 => (match got with | none => .no | some (st, v) => if st == 0 then .yes v s else .bad st)
  | 4 => if tmo = 0 || e.a.toNat ≤ 1000 * tmo then .yes 0 s else .no
  | _ => (match seen with | some q => .yes (BitVec.ofNat 64 q) s | none => .no)

/-- SRUN (R356): it arms the rotation with its start event. -/
def execSrun (a b : BitVec 4) (kind : BitVec 3) (s : State) : Host.Outcome State Fault Refusal :=
  .next (s.circuitWord (.srun a b kind) (fun s k =>
    let r := (s.cx k).rot
    let e : Event := ⟨kind.toNat, s.cxReg k a, s.cxReg k b⟩
    if r.st != 1 || (s.grantedEntries k).any (fun x => decide (r.ns < x.1) || !guardRule r x.1 x.2) then s.faultContext k 1
    else
      let arm := fun (s : State) => (s.updCx k (fun c => { c with rot := { c.rot with st := 2, start := e, got := none } })).cxNext k
      match s.checkEvent k e with
      | .bad c => s.faultContext k c
      | .page va => s.cxPage k va
      | .full h => arm (s.readFull (k + 8) h)
      | .ok => arm s))

/-- SSTOP (R357): it disarms an armed rotation, and gives a running one its stop. -/
def execSstop (e : BitVec 1) (s : State) : Host.Outcome State Fault Refusal :=
  .next (s.circuitWord (.sstop e) (fun s k =>
    let r := (s.cx k).rot
    if r.st = 2 then
      let s1 := (s.withdrawHeld (.context (k + 8))).1
      ((s1.orphan (.context (k + 8))).updCx k (fun c => { c with rot := { c.rot with st := 1, got := none } })).cxNext k
    else if r.st = 3 then (s.updCx k (fun c => { c with rot := { c.rot with stop := if e == 1 || r.stop == 1 then 1 else 2 } })).cxNext k
    else s.faultContext k 1))

/-! ## Signals (R358) -/

/-- CSIG.FILL (R358): a store-and-fill at a slice word of this device, or a SIGNAL packet. -/
def execCsigFill (a b : BitVec 4) (s : State) : Host.Outcome State Fault Refusal :=
  .next (s.circuitWord (.csigFill a b) (fun s k =>
    let v := s.cxReg k b
    match s.cxPlace k (s.cxReg k a) 8 false true with
    | .bad c => s.faultContext k c
    | .page va => s.cxPage k va
    | .place (.remote dev va) => (s.request (.context k) 1 4 dev (BitVec.ofNat 64 va) (.signal 0 true v)).cxHold k .reply
    | .place h =>
      match s.signalAt h 0 8 v with
      | (s1, none) => s1.cxNext k
      | (s1, some c) => s1.faultContext k c))

/-- CSIG.ARR (R358): an arrival at the barrier of the workgroup that owns a slice line; HK2 applies it for a saved workgroup (R406). -/
def execCsigArr (a b : BitVec 4) (s : State) : Host.Outcome State Fault Refusal :=
  .next (s.circuitWord (.csigArr a b) (fun s k =>
    let v := s.cxReg k b
    let xa := s.cxReg k a
    let fin := fun (r : State × Option Byte) => match r with | (s1, none) => s1.cxNext k | (s1, some c) => s1.faultContext k c
    match s.cxPlace k xa 8 false true with
    | .bad c => s.faultContext k c
    | .page va =>
      (match s.savedOwner (s.cx k).part xa with
       | some w => fin (s.arriveFor (some w) (v.setWidth 32))
       | none => s.cxPage k va)
    | .place (.remote dev va) => (s.request (.context k) 1 4 dev (BitVec.ofNat 64 va) (.signal 1 true v)).cxHold k .reply
    | .place h => fin (s.signalAt h 1 8 v)))

/-- CSIG.MSG (R358). -/
def execCsigMsg (a b : BitVec 4) (s : State) : Host.Outcome State Fault Refusal :=
  .next (s.circuitWord (.csigMsg a b) (fun s k =>
    let xa := s.cxReg k a
    let v := s.cxReg k b
    if 2 ^ 15 ≤ xa.toNat || 2 ^ 48 ≤ v.toNat then s.faultContext k 1
    else (s.sendCircuit (xa.extractLsb' 0 12) (msgAddr (xa.toNat / 4096 % 8) v.toNat)).cxNext k))

/-! ## WEV (R360) -/

/-- A WEV ends: cD holds 0 for the event with its value in c(D+1), or 1 for a timeout. -/
def State.wevEnd (s : State) (k : Nat) (d : BitVec 4) (v : Option DWord) : State :=
  (s.updCx k (fun c =>
    let c1 := { c with slotSeen := none, fullGot := none, withdrawn := false }
    match v with
    | some x => (c1.setReg d.toNat 0).setReg (d.toNat + 1) x
    | none => c1.setReg d.toNat 1)).cxNext k

/-- R356: an event that an armed SRUN of the context also waits for serves the SRUN first. -/
def Context.srunFirst (c : Context) (e : Event) : Bool :=
  c.rot.st == 2 && c.rot.start.kind == e.kind && (e.kind == 2 || c.rot.start == e)

/-- WEV (R360): an event that already holds releases it at once, and else it holds the context. -/
def execWev (d a b : BitVec 4) (kind : BitVec 3) (t : BitVec 12) (s : State) : Host.Outcome State Fault Refusal :=
  .next (s.circuitWord (.wev d a b kind t) (fun s k =>
    let e : Event := ⟨kind.toNat, s.cxReg k a, s.cxReg k b⟩
    let hold := fun (s : State) => (s.updCx k (fun c => { c with slotSeen := none, fullGot := none, withdrawn := false })).cxHold k (.wev d e t.toNat)
    match s.checkEvent k e with
    | .bad c => s.faultContext k c
    | .page va => s.cxPage k va
    | .full h => hold (s.readFull k h)
    | .ok =>
      if (s.cx k).srunFirst e || (kind == 4 && e.a != 0) || kind == 5 then hold s
      else
        match s.eventNow k e none none t.toNat with
        | .yes v s1 => s1.wevEnd k d (some v)
        | .bad c => s.faultContext k c
        | .no => hold s))

/-- The event of a held WEV ends it, if it holds; true when the WEV has ended or its context has faulted. -/
def State.tryWev (s : State) (k : Nat) : State × Bool :=
  let c := s.cx k
  match c.wait with
  | .wev d e tmo =>
    if c.srunFirst e then (s, false)
    else
      match s.eventNow k e c.fullGot c.slotSeen tmo with
      | .yes v s1 => (s1.wevEnd k d (some v), true)
      | .bad st => if c.withdrawn && st == 0xFD then (s.wevEnd k d none, true) else (s.faultContext k st, true)
      | .no => (s, false)
  | _ => (s, false)

/-- WEV_EVENT (R360): the event that a WEV waits for releases its context. -/
def execWevEvent (cx : Fin 8) (s : State) : Host.Outcome State Fault Refusal := .next (s.tryWev cx.val).1

/-- WEV_TIMEOUT (R360): an event that holds wins; a FULL read is withdrawn first, and what its home answers decides. -/
def execWevTimeout (cx : Fin 8) (s : State) : Host.Outcome State Fault Refusal :=
  let k := cx.val
  .next (
    match (s.cx k).wait with
    | .wev d e tmo =>
      if tmo = 0 || (s.cx k).withdrawn then s
      else
        match s.tryWev k with
        | (s1, true) => s1
        | (_, false) =>
          if e.kind = 3 then
            match s.withdrawHeld (.context k) with
            | (s1, true) => s1.wevEnd k d none
            | (s1, false) => s1.updCx k (fun c => { c with withdrawn := true })
          else s.wevEnd k d none
    | _ => s)

/-- CWAIT_TIMEOUT (R353): OUTCOME 3, unless the hold ends in the same cycle. -/
def execCwaitTimeout (cx : Fin 8) (s : State) : Host.Outcome State Fault Refusal :=
  .next (
    match (s.cx cx.val).wait with
    | .cwait d spec tmo => if tmo = 0 then s else s.cwaitEnd cx.val d spec ((s.cwaitOutcome spec).getD 3)
    | _ => s)

/-! ## The CIRCUIT command (R347, R374) -/

/-- CIRCUIT: it starts a script in a context, or waits until the context does not run. -/
def execCircuit (ring : Fin 64) (cmd : BitVec 512) (s : State) : Host.Outcome State Fault Refusal :=
  let n := ring.val
  .next (s.hostCommand n cmd 3 (cmdHeader cmd 2 false && cmdZeros cmd [(8, 1), (10, 2), (16, 8)] && decide (cmdField cmd 8 1 < 8)) (fun s i =>
    let k := cmdField cmd 8 1
    (s.setWait n i (.circuit k false)).startWaiting k))

/-! ## Replies to a context's remote accesses (R337, R361) -/

/-- The word that a held context will execute again or complete. -/
def State.cxWordAt (s : State) (k : Nat) : Option Instr :=
  match decodeCircuit (BitVec.ofNat 32 (leNat ((List.range 4).map (fun i => Tab.get (0 : Byte) s.cp.store ((s.cx k).pc + i))))) with
  | .ok i => some i
  | .error _ => none

/-- A reply arrives for a context (R352, R355, R358, R360): a failure faults it, a success completes its word. -/
def State.contextReply (s : State) (who : Nat) (status : Byte) (data : List Byte) : State :=
  let k := who % 8
  let v := BitVec.ofNat 64 (leNat (data.take 8))
  if 8 ≤ who then s.contextGot who status v
  else
    match (s.cx k).wait with
    | .wev .. => s.contextGot k status v
    | .table got =>
      if status != 0 then s.faultContext k status
      else
        (match s.cxWordAt k with
         | some (.slot a) => (s.updCx k (fun c => { c with st := 1, wait := .none })).readTable k (s.cxReg k a) (got ++ [v]) 20
         | _ => s.cxNext k)
    | .reply =>
      if status != 0 then s.faultContext k status
      else
        (match s.cxWordAt k with
         | some (.ldc d _ _) => s.cxSet k d v
         | _ => s.cxNext k)
    | _ => s

/-! ## Messages and grants (R334, R335, R341, R359) -/

/-- A CIRCUIT packet that breaks R334 is dropped and counted. -/
def State.badMsg (s : State) : State := { s with cp := { s.cp with badmsg := s.cp.badmsg + 1 } }

/-- R335: the port and slot whose ASKED entry has a request id. -/
def State.askedEntry (s : State) (id : Nat) : Option (Nat × Nat) :=
  (List.range 16).findSome? (fun p =>
    ((s.optPort p).entries.find? (fun e => e.2.st == 1 && e.2.reqId == id)).map (fun e => (p, e.1)))

/-- A GRANT from a switch (R335, R341): it moves its ASKED entry; one that matches none is answered with a REL, whose own port and context
the manual leaves open. -/
def State.grantFrom (s : State) (src : BitVec 12) (addr : DWord) : State :=
  let v := addr.toNat
  let id := v % 65536
  let result : Byte := BitVec.ofNat 8 (v / 2 ^ 48)
  let swt := v / 2 ^ 32 % 65536
  if v / 65536 % 65536 != 0 then s.badMsg
  else
    match s.askedEntry id with
    | none =>
      let x := Config.freeChoice s.free
      ({ s with free := s.free + 1 }).sendCircuit src (relAddr (v / 2 ^ 56 % 16) (x % 16) (x / 16 % 8) id)
    | some (p, slot) =>
      let e := (s.optPort p).entry slot
      let r := (s.cx e.cx).rot
      let broken := slot != 0 && decide (2 ≤ r.st) && !guardRule r slot { e with swt := swt }
      let s1 :=
        if result != 0 then s.updEntry p slot (fun e => { e with st := 3, res := result, swt := swt })
        else if broken then
          (s.updEntry p slot (fun e => { e with st := 3, res := 5, swt := swt })).toSwitch p (relAddr slot p e.cx e.reqId)
        else
          let s2 := s.updEntry p slot (fun e => { e with st := 2, res := 0, swt := swt })
          if slot = 0 then s2.setPeer p (some e.peer) else s2
      s1.wakeCwaits

/-- A MSG for a context (R359): queued, or dropped and counted when 16 wait. -/
def State.msgFrom (s : State) (src : BitVec 12) (addr : DWord) : State :=
  let v := addr.toNat
  let k := v / 2 ^ 57 % 8
  if v / 2 ^ 48 % 512 != 0 then s.badMsg
  else if 16 ≤ (s.cx k).msgs.length then { s with cp := { s.cp with msgdrop := s.cp.msgdrop + 1 } }
  else s.updCx k (fun c => { c with msgs := c.msgs ++ [(src, addr.extractLsb' 0 48)] })

/-! ## Port and rotation events (R331 to R333, R342, R345) -/

/-- LASER_READY (R331). -/
def execLaserReady (port : Fin 16) (s : State) : Host.Outcome State Fault Refusal :=
  .next (s.updPort port.val (fun x => if x.st != 0 then { x with laser := true } else x))

/-- R332: a peer enters the phase cache as the most recent, the least recent of 64 leaving. -/
def cachePeer (c : List (BitVec 12 × BitVec 4)) (p : BitVec 12 × BitVec 4) : List (BitVec 12 × BitVec 4) :=
  let c1 := c.filter (fun x => x != p) ++ [p]
  c1.drop (c1.length - 64)

/-- LOCK_COMPLETE (R331, R332): a LOCKING port with laser, light and an expected peer becomes TRAINED, and its peer enters the phase cache. -/
def execLockComplete (port : Fin 16) (s : State) : Host.Outcome State Fault Refusal :=
  .next (s.updPort port.val (fun x =>
    match x.peer with
    | some (d, q, _) => if x.st == 1 && x.laser && x.light then { x with st := 2, cache := cachePeer x.cache (d, q) } else x
    | none => x))

/-- LOCK_TIMEOUT (R331). -/
def execLockTimeout (port : Fin 16) (s : State) : Host.Outcome State Fault Refusal :=
  .next ((s.updPort port.val (fun x => if x.st == 1 && x.light && x.peer.isSome then { x with st := 4 } else x)).wakeCwaits)

/-- LOSS_OF_LIGHT (R331, R333): a TRAINED or LIVE port goes to LOCKING, keeping its expected peer. -/
def execLossOfLight (port : Fin 16) (s : State) : Host.Outcome State Fault Refusal :=
  .next (s.updPort port.val (fun x =>
    { x with light := false, st := if x.st == 2 || x.st == 3 then 1 else x.st, window := false }))

/-- LIGHT_ARRIVAL (R342, R343): light is present, and may realign a rotation that does not lead. -/
def execLightArrival (port : Fin 16) (time : Int) (s : State) : Host.Outcome State Fault Refusal :=
  .next (
    let p := port.val
    let s1 := s.updPort p (fun x => { x with light := true })
    match (s1.optPort p).owner, s1.rotationOf p with
    | some k, some r => if r.lead then s1 else s1.realign k p time
    | _, _ => s1)

/-- ROTATION_START (R342, R356): the start event of an armed rotation happens at a local time. -/
def execRotationStart (cx : Fin 8) (time : Int) (s : State) : Host.Outcome State Fault Refusal :=
  .next (
    let k := cx.val
    let r := (s.cx k).rot
    if r.st != 2 then s
    else
      match s.eventNow k r.start r.got none 0 with
      | .yes _ s1 => s1.startRotation k time
      | .bad c => s.faultContext k c
      | .no => s)

/-- SLOT_BOUNDARY (R342, R345, R357): the current slot's length has passed. -/
def execSlotBoundary (cx : Fin 8) (s : State) : Host.Outcome State Fault Refusal :=
  .next (if (s.cx cx.val).rot.st == 3 then s.boundary cx.val else s)

/-- WINDOW_CLOSE (R345): the window of a rotation port closes; bursts sent stay outstanding. -/
def execWindowClose (port : Fin 16) (s : State) : Host.Outcome State Fault Refusal :=
  .next (s.updPort port.val (fun x => { x with window := false }))

/-! ## Words that cannot be decoded or fetched (R58, R111) -/

/-- ILLEGAL_WORD (R58, R337): a reserved word traps its bundle with cause 0x02, or faults the circuit context that issues it. -/
def execIllegalWord (w : Word) (s : State) : Host.Outcome State Fault Refusal :=
  .next (
    if !s.cur.mem.isEmpty then (({ s with cur := { s.cur with word := w } }).trapBundle 2).endWord
    else if (s.cx s.cp.last).st == 1 then s.faultContext s.cp.last 2
    else s)

/-- INSTRUCTION_FETCH (R111, R39): a fetch that fails traps the fetching threads with %TRWORD 0; %TRPC is the fetch address, or that of the
group's first word when a later word of a prefixed group cannot be fetched (assumption 10). -/
def execInstructionFetch (cause : Byte) (s : State) : Host.Outcome State Fault Refusal :=
  .next (
    if s.cur.mem.isEmpty then s
    else ((s.cur.threads.foldl (fun s t => s.takeTrap t cause s.cur.pc0 0 s.cur.mask (sectorOf s.cur.pc)) s).updCore s.cur.core
      (fun c => { c with fetchBad := [] })).endWord)

end Sys2Proof.Machine
end

