-- ==== Sys2Proof/Machine/Engine.lean ====
section
/-! DEFINITION. The copy engines at work: starting commands under the hazard table, bursts over local, remote and circuit ranges, chains,
errors and completion, and the host's COPY command (R269, R277 to R287, R311 to R313, R344 to R346, R374). -/

namespace Sys2Proof.Machine
open Sys2Proof

/-! ## Commands -/

/-- A command of a queue by its identity. -/
def State.cmd? (s : State) (e q id : Nat) : Option CopyCmd := ((s.engine e).queue q).find? (fun c => c.id == id)
/-- Changes a command. -/
def State.updCmd (s : State) (e q id : Nat) (f : CopyCmd → CopyCmd) : State :=
  s.updEngine e (fun x => { x with q := Tab.put [] x.q q ((x.queue q).map (fun c => if c.id == id then f c else c)) })

/-- The device lets engines work: READY, in RUN or TRIM (R433). -/
def State.enginesRun (s : State) : Bool := s.running

/-- The marks of an exchange that is no piece of data: a chain record or a tensor descriptor to read, a count word or a status to write. -/
def offRecord : Nat := 2 ^ 40
/-- A tensor descriptor's read. -/
def offDesc : Nat := 2 ^ 40 + 1
/-- A count word's write. -/
def offCount : Nat := 2 ^ 41
/-- A chain record's status write. -/
def offStatus : Nat := 2 ^ 41 + 1

/-! ## Places (R23, R269, R286, R287) -/

/-- The command comes from a thread, so it has a local slice; one that finishes a burst of a killed launch has it still (R289). -/
def CopyCmd.hasSlice (c : CopyCmd) : Bool := match c.owner with | .host .. => false | _ => true

/-- The place of a command's bytes. -/
def State.cmdPlace (s : State) (c : CopyCmd) (a : DWord) (n : Nat) (rd wr : Bool) : EngPlace := s.engPlace c.part c.core c.hasSlice a n rd wr

/-! ## Barrier bytes (R257, R282) -/

/-- R257, R282: an engine's event subtracts bytes from TX; a TX that would leave its range takes a value the manual does not state. -/
def State.subtractTx (s : State) (lid g bar n : Nat) : State :=
  let r := s.barEvent lid g bar (fun _ b => some { b with tx := if txOk (b.tx - n) then b.tx - n else (Config.freeWord s.free).toInt })
  { r.1 with free := s.free + 1 }

/-- Bytes of a command are counted on its barrier. -/
def State.ownerBytes (s : State) (o : Owner) (be : Bool) (bar n : Nat) : State :=
  match o with
  | .token lid g _ _ => if be && n != 0 then s.subtractTx lid g bar n else s
  | _ => s

/-- R280: the command writes a count word. -/
def Xfer.counts (x : Xfer) : Bool := (x.kind == .gather || x.kind == .scatter) && x.cnt != 0

/-- R280, R282: bytes performed are counted, but the last of a command that still owes its count word wait for that. -/
def State.countBytes (s : State) (e q id n : Nat) : State :=
  match s.cmd? e q id with
  | none => s
  | some c =>
    if c.x.counts && !c.cntDone && decide (c.x.len ≤ c.counted + n) then s
    else (s.ownerBytes c.owner c.x.be c.x.bar n).updCmd e q id (fun c => { c with counted := c.counted + n })

/-! ## The end of a transfer (R280, R284, R287) -/

/-- A piece is sent or asked for and is in flight. -/
def State.fly (s : State) (e q id off n : Nat) : State := s.updCmd e q id (fun c => { c with flight := c.flight ++ [(off, n)] })

/-- A command waits for HK2 at an address (R286). -/
def State.stallCmd (s : State) (e q id part : Nat) (va : DWord × Bool) : State :=
  (s.notify part va.1).updCmd e q id (fun c => { c with stalled := some va })

/-- R280: the count word is written with its tag full, in a slice, before the last bytes are counted. -/
def State.countWord (s : State) (e q : Nat) (c : CopyCmd) : State :=
  let bs := leBytes 8 (maskRows c.x.mask).length
  let fail := fun (s : State) cause => s.updCmd e q c.id (fun c => { c with err := if c.err == 0 then cause else c.err })
  match s.cmdPlace c c.x.cnt 8 false true with
  | .bad cause => fail s cause
  | .stall va => s.stallCmd e q c.id c.part va
  | .place p =>
    match p.home with
    | .remote dev va =>
      ((s.request (.engine e q c.id offCount 8 c.x.cnt) 2 2 dev (BitVec.ofNat 64 va) (.write bs .sto)).fly e q c.id offCount 8).updCmd e q c.id
        (fun c => { c with cntDone := true })
    | .slice k o =>
      (match s.tagStore (.slice k o) bs with
       | (s1, none) => s1.updCmd e q c.id (fun c => { c with cntDone := true })
       | (s1, some cause) => fail s1 cause)
    | _ => fail s 0x18

/-- R284: a record's transfer is over: byte 0 takes OWN = 0 and STATUS its cause, and the chain goes on at NEXT or ends. -/
def State.closeRecord (s : State) (e q : Nat) (c : CopyCmd) (at_ : DWord) : State :=
  let bs : List Byte := [c.rec0 &&& 0xFE, c.err]
  let ends := c.err != 0 || c.nextRec == 0 || c.nextRec.toNat % 64 != 0
  let step := fun (s : State) => s.updCmd e q c.id (fun c =>
    if ends then { c with inRecord := false, going := false, err := if c.err == 0 && c.nextRec != 0 then 3 else c.err }
    else { c with inRecord := false, going := false, readDone := false, chain := some c.nextRec })
  match s.cmdPlace c at_ 2 false true with
  | .stall va => s.stallCmd e q c.id c.part va
  | .bad cause => step (s.updCmd e q c.id (fun c => { c with err := if c.err == 0 then cause else c.err }))
  | .place p =>
    match p.home with
    | .remote dev va =>
      step ((s.request (.engine e q c.id offStatus 2 at_) 2 2 dev (BitVec.ofNat 64 va) (.write bs .plain)).fly e q c.id offStatus 2)
    | h => step (s.writeHome h bs).1

/-- A transfer of a tensor, and one whose descriptor has not been read. -/
def Xfer.isTensor (x : Xfer) : Bool := x.kind == .tld || x.kind == .tst
/-- A tensor transfer without its descriptor. -/
def Xfer.unread (x : Xfer) : Bool := x.isTensor && !x.ready

/-- R282, R287: the bytes that a transfer has not counted yet; of a tensor whose B no descriptor gives the spec states no number, and a free one is
counted (assumption 3). -/
def State.lastBytes (s : State) (c : CopyCmd) : State :=
  if c.x.be && c.x.unread then { s.ownerBytes c.owner true c.x.bar (Config.freeWord s.free).toNat with free := s.free + 2 }
  else s.ownerBytes c.owner c.x.be c.x.bar (c.x.len - c.counted)

/-- A transfer whose reads are over and whose pieces are all performed ends: its count word, its last bytes, then its record or itself. -/
def State.settleCmd (s : State) (e q id : Nat) : Nat → State
  | 0 => s
  | f + 1 =>
    match s.cmd? e q id with
    | none => s
    | some c =>
      if c.finished || !c.readDone || !c.flight.isEmpty || !c.bursts.isEmpty || c.stalled.isSome then s
      else if c.chain.isSome && !c.inRecord then s.updCmd e q id (fun c => { c with finished := true })
      else if c.err == 0 && c.x.counts && !c.cntDone then (s.countWord e q c).settleCmd e q id f
      else
        let s1 := (s.lastBytes c).updCmd e q id (fun c => { c with counted := c.x.len })
        match c.chain with
        | none => s1.updCmd e q id (fun c => { c with finished := true })
        | some at_ => (s1.closeRecord e q c at_).settleCmd e q id f

/-- The end of a transfer, as far as it can go now. -/
def State.settleFor (s : State) (e q id : Nat) : State := s.settleCmd e q id 4

/-- R287: a command stops with a cause at an offset; what it has begun before that offset is still performed, and of two errors the one at
the lower offset stands. -/
def State.failAt (s : State) (e q id off : Nat) (cause : Byte) : State :=
  s.updCmd e q id (fun c =>
    { c with err := if c.err == 0 || off < c.stopAt then cause else c.err, stopAt := if c.err == 0 || off < c.stopAt then off else c.stopAt,
             readDone := true, stalled := none, bursts := c.bursts.filter (fun b => decide (b.off + b.n ≤ off)) })

/-- R287: a command stops with a cause before its next burst. -/
def State.stopCmd (s : State) (e q id : Nat) (cause : Byte) : State :=
  match s.cmd? e q id with
  | none => s
  | some c => (s.failAt e q id c.off cause).settleFor e q id

/-! ## Pieces of a burst -/

/-- An address some signed distance away, modulo 2^64. -/
def addInt (a : DWord) (d : Int) : DWord := a + BitVec.ofInt 64 d

/-- R280: the pieces of a gather's or scatter's stream from an offset, row by row. -/
def rowPieces (x : Xfer) (rows : List Nat) (o n : Nat) : Nat → List Piece
  | 0 => []
  | f + 1 =>
    if n = 0 || x.row = 0 then []
    else
      let j := o / x.row
      let w := o % x.row
      let k := Nat.min n (x.row - w)
      match rows[j]? with
      | none => []
      | some i =>
        let far := (i : Int) * x.stride + w
        let p : Piece :=
          if x.kind == .gather then ⟨addInt x.src far, addInt x.dst (j * x.row + w : Nat), k, o⟩
          else ⟨addInt x.src (j * x.row + w : Nat), addInt x.dst far, k, o⟩
        p :: rowPieces x rows (o + k) (n - k) f

/-- A coordinate clamped to a dimension (R279). -/
def clampTo (v : Int) (dim : Nat) : Nat := if v < 0 then 0 else if (dim : Int) ≤ v then dim - 1 else v.toNat

/-- R279: the box index of element `k`. -/
def boxIndex : List Nat → Nat → List Nat
  | [], _ => []
  | b :: bs, k => k % b :: boxIndex bs (k / b)

/-- R279: element `k` of a tensor transfer: its memory address, and whether its coordinates lie in range. -/
def Xfer.element (x : Xfer) (k : Nat) : DWord × Bool :=
  let cs := (x.coords.zip (boxIndex x.box k)).map (fun p => p.1 + (p.2 : Int))
  let gs := (cs.zip x.dims).map (fun p => clampTo p.1 p.2)
  let terms := (gs.zip (BitVec.ofNat 64 x.esize :: x.strs)).map (fun p => BitVec.ofNat 64 p.1 * p.2)
  (terms.foldl (fun a t => a + t) x.base, (cs.zip x.dims).all (fun p => decide (0 ≤ p.1) && decide (p.1 < p.2)))

/-- R279: the pieces of a tensor burst, one for each element that is moved. -/
def tensorPieces (x : Xfer) (o n : Nat) : List Piece :=
  (List.range (n / x.esize)).filterMap (fun i =>
    let k := o / x.esize + i
    let a := x.element k
    let sl := x.dst + BitVec.ofNat 64 (x.esize * k)
    if x.kind == .tld then some ⟨a.1, sl, x.esize, x.esize * k⟩
    else if a.2 then some ⟨sl, a.1, x.esize, x.esize * k⟩
    else none)

/-- Some later piece reads what an earlier one writes (R280). -/
def piecesClash : List Piece → Bool
  | [] => false
  | p :: ps => ps.any (fun r => decide (r.src.toNat < p.dst.toNat + p.n) && decide (p.dst.toNat < r.src.toNat + r.n)) || piecesClash ps

/-- The groups of a burst, cut at pages: rows that overlap are copied one after the other (R280); everything else is read and then written. A
GET reads the far side. -/
def Xfer.groups (x : Xfer) (o n : Nat) : List (List Piece) :=
  let at_ := fun (a : DWord) => a + BitVec.ofNat 64 o
  let cut := fun (p : Piece) => p.cut 65536 (p.n + 1)
  match x.kind with
  | .gather | .scatter => let ps := rowPieces x (maskRows x.mask) o n (n + 1); if piecesClash ps then ps.map cut else [ps.flatMap cut]
  | .tld | .tst => [(tensorPieces x o n).flatMap cut]
  | .get => [cut ⟨at_ x.dst, at_ x.src, n, o⟩]
  | _ => [cut ⟨at_ x.src, at_ x.dst, n, o⟩]

/-! ## The two sides of a piece -/

/-- The far device's side of an RCPY, which translates there (R311). -/
def farPlace (dev : BitVec 12) (a : DWord) : EngPlace :=
  .place { home := .remote dev a.toNat, kind := 1, pol := 0, isStack := false, isLocal := false, entry := 0, size := 0 }

/-- R311: a PUT or PUTC, whose destination is on the far device. -/
def Xfer.isPut (x : Xfer) : Bool := x.kind == .put || x.kind == .putc

/-- The place that a piece is read from. -/
def State.srcPlace (s : State) (c : CopyCmd) (a : DWord) (n : Nat) : EngPlace :=
  if c.x.kind == .get then farPlace c.x.dev a else s.cmdPlace c a n true false
/-- The place that a piece is written to. -/
def State.dstPlace (s : State) (c : CopyCmd) (a : DWord) (n : Nat) : EngPlace :=
  if c.x.isPut then farPlace c.x.dev a else s.cmdPlace c a n false true

/-- The first page that a burst cannot translate (R269). -/
def State.stallOf (s : State) (c : CopyCmd) (ps : List Piece) : Option (DWord × Bool) :=
  ps.findSome? (fun p =>
    match s.srcPlace c p.src p.n, s.dstPlace c p.dst p.n with
    | .stall va, _ => some va
    | _, .stall va => some va
    | _, _ => none)

/-- R281: the tags of words that a FILL has written are set full, and waiting words served. -/
def State.fillTags (s : State) (ws : List Nat) : State :=
  ws.eraseDups.foldl (fun s w => (s.setTag (8 * w) true).tagChanged (8 * w)) s

/-- The 8-byte words that `n` bytes from a key lie in. -/
def wordsOf (k n : Nat) : List Nat := (List.range ((k % 8 + n + 7) / 8)).map (fun i => k / 8 + i)

/-- The stored places of `n` bytes of a slice under a swizzle id, chunk by chunk (R219): key, place in the bytes, and length. -/
def tileChunks (k z n : Nat) : List (Nat × Nat × Nat) :=
  (localPieces (BitVec.ofNat 64 k) n 16).map (fun p => (swizzled p.src.toNat z, p.off, p.n))

/-- A tensor transfer reads bytes of one line of a slice: no slice 0x18, past the carve-out 0x04, another swizzle id 0x07, marked 0x13 (R279, R287). -/
def State.tileRead (s : State) (h : Home) (z : BitVec 2) (n : Nat) : Except Byte (List Byte) :=
  if !h.isSlice then .error 0x18
  else if s.refusedAt h n then .error 4
  else if s.swzAt h.key != z then .error 7
  else
    let cs := tileChunks h.key z.toNat n
    if cs.any (fun c => s.marked c.1 c.2.2) then .error 0x13 else .ok (cs.flatMap (fun c => s.getBytes c.1 c.2.2))

/-- A tensor transfer writes bytes of one line of a slice under a swizzle id, and with FILL their words' tags are set where they stand (R279, R281). -/
def State.tileWrite (s : State) (h : Home) (z : BitVec 2) (bs : List Byte) (fill : Bool) : State × Option Byte :=
  if !h.isSlice then (s, some 0x18)
  else if s.refusedAt h bs.length then (s, some 4)
  else
    let cs := tileChunks h.key z.toNat bs.length
    let s1 := cs.foldl (fun s c =>
      (s.hitStacks (h.lineStart.plus (c.1 % 256)) c.2.2).putBytes c.1 ((bs.drop c.2.1).take c.2.2)) (s.setSwz h.key z)
    (if fill then s1.fillTags (cs.flatMap (fun c => wordsOf c.1 c.2.2)) else s1, none)

/-- The bytes of a slice line by line: places and lengths. -/
def linesOf (h : Home) (n : Nat) : List (Home × Nat × Nat) := (localPieces (BitVec.ofNat 64 h.key) n 256).map (fun p => (h.plus p.off, p.off, p.n))

/-- The bytes that a transfer reads on this device, or the error it meets (R200, R212, R279, R287). -/
def State.sideRead (s : State) (x : Xfer) (h : Home) (n : Nat) : Except Byte (List Byte) :=
  if x.kind == .tst then s.tileRead h x.swz n
  else if s.refusedAt h n then .error 6
  else if s.marked h.key n then .error 0x13
  else .ok (s.getBytes h.key n)

/-- The bytes of a transfer are written on this device, with FILL as one step with their tags (R281), or the error that stops them. -/
def State.sideWrite (s : State) (x : Xfer) (h : Home) (bs : List Byte) : State × Option Byte :=
  if x.kind == .tld then s.tileWrite h x.swz bs x.fill
  else if x.fill && !h.isSlice then (s, some 0x18)
  else
    match s.writeHome h bs with
    | (s1, some x) => (s1, some x)
    | (s1, none) => (if x.fill then s1.fillTags (wordsOf h.key bs.length) else s1, none)

/-- What a packet's read is, for a transfer (R294). -/
def Xfer.readKind (x : Xfer) : ReadKind := if x.kind == .tst then .tile x.swz else .plain
/-- What a packet's write is, for a transfer. -/
def Xfer.writeKind (x : Xfer) : WriteKind := if x.kind == .tld then .tile x.swz x.fill else if x.fill then .fill else .plain

/-! ## Reading a group -/

/-- A run of bytes that another device is asked for: the device and address there, and the piece. -/
abbrev FarRun := BitVec 12 × Nat × Piece

/-- What a piece's read gives: its bytes as writes; an error with its offset, its destination and the bytes before it; the run to ask for; or a
page to wait for. -/
inductive PieceRead where
  | got (ws : List CopyWrite)
  | fail (ws : List CopyWrite) (off : Nat) (dst : DWord) (cause : Byte)
  | ask (r : FarRun)
  | stall (va : DWord × Bool)

/-- The reads of a piece on this device, sector by sector. -/
def State.readSectors (s : State) (c : CopyCmd) : List Piece → PieceRead
  | [] => .got []
  | p :: ps =>
    match s.srcPlace c p.src p.n with
    | .bad x => .fail [] p.off p.dst x
    | .stall va => .stall va
    | .place w =>
      match s.sideRead c.x w.home p.n with
      | .error x => .fail [] p.off p.dst x
      | .ok bs =>
        match s.readSectors c ps with
        | .got ws => .got (⟨p.dst, p.off, bs⟩ :: ws)
        | .fail ws o d x => .fail (⟨p.dst, p.off, bs⟩ :: ws) o d x
        | r => r

/-- One piece's read. -/
def State.pieceRead (s : State) (c : CopyCmd) (b : CopyBurst) (p : Piece) : PieceRead :=
  match s.srcPlace c p.src p.n with
  | .bad x => .fail [] p.off p.dst x
  | .stall va => .stall va
  | .place w =>
    match w.home with
    | .remote dev va =>
      let bs := (List.range p.n).filterMap (fun i => Tab.get none b.data (p.off + i))
      (match b.bad.filter (fun e => decide (e.1 ≤ p.off)) with
       | some e => .fail [] p.off p.dst e.2
       | none => if bs.length = p.n then .got [⟨p.dst, p.off, bs⟩] else .ask (dev, va, p))
    | _ => s.readSectors c (p.cut 32 (p.n + 1))

/-- What a group's read gives: its bytes as writes up to the error that it meets (offset, destination and cause), what to ask for, or a page to
wait for. -/
inductive GroupRead where
  | got (ws : List CopyWrite) (bad : Option (Nat × DWord × Byte))
  | ask (rs : List FarRun)
  | stall (va : DWord × Bool)

/-- A group is read, in order, until a piece meets an error. -/
def State.readGroup (s : State) (c : CopyCmd) (b : CopyBurst) : List Piece → GroupRead
  | [] => .got [] none
  | p :: ps =>
    match s.pieceRead c b p with
    | .stall va => .stall va
    | .fail ws o d x => .got ws (some (o, d, x))
    | .ask r => (match s.readGroup c b ps with | .stall va => .stall va | .ask rs => .ask (r :: rs) | .got _ _ => .ask [r])
    | .got ws => (match s.readGroup c b ps with | .got vs bad => .got (ws ++ vs) bad | r => r)

/-- R287: the writes before an error, and where the transfer stops: of marked data (0x13) the whole destination sector is left unwritten. -/
def stopWrites (ws : List CopyWrite) : Option (Nat × DWord × Byte) → List CopyWrite × Option (Nat × Byte)
  | none => (ws, none)
  | some (o, d, x) =>
    let before := if x == 0x13 then ws.takeWhile (fun w => w.dst.toNat / 32 != d.toNat / 32) else ws
    (before, some (match ws.drop before.length with | [] => o | w :: _ => w.off, x))

/-- Runs that follow each other on the same device are asked for as one, within the 256 bytes of a burst. -/
def joinRuns : List FarRun → List FarRun
  | [] => []
  | (d, va, p) :: rs =>
    match joinRuns rs with
    | (d1, va1, p1) :: l =>
      if d == d1 && va + p.n == va1 && p.off + p.n == p1.off && decide (p.n + p1.n ≤ 256) then (d, va, { p with n := p.n + p1.n }) :: l
      else (d, va, p) :: (d1, va1, p1) :: l
    | [] => [(d, va, p)]

/-- Writes that follow each other are made as one. -/
def joinWrites : List CopyWrite → List CopyWrite
  | [] => []
  | w :: ws =>
    match joinWrites ws with
    | v :: l =>
      if w.dst + BitVec.ofNat 64 w.bytes.length == v.dst && w.off + w.bytes.length == v.off then { w with bytes := w.bytes ++ v.bytes } :: l
      else w :: v :: l
    | [] => [w]

/-- A write cut at multiples of `m`. -/
def CopyWrite.cut (m : Nat) (w : CopyWrite) : List CopyWrite :=
  (localPieces w.dst w.bytes.length m).map (fun p => ⟨p.src, w.off + p.off, (w.bytes.drop p.off).take p.n⟩)

/-- The writes of a group: an RCPY sends a burst whole (R311); others are cut at pages, and on this device at sectors. -/
def State.planWrites (s : State) (c : CopyCmd) (ws : List CopyWrite) : List CopyWrite :=
  let l := joinWrites ws
  if c.x.isPut then l
  else (l.flatMap (CopyWrite.cut 65536)).flatMap (fun w => if (s.dstPlace c w.dst w.bytes.length).remote? then [w] else w.cut 32)

/-- R214: an engine's access to a range of pages is counted on a die. -/
def State.countRange (s : State) (die part core : Nat) (slice rd wr : Bool) (a : DWord) (n : Nat) : State :=
  (localPieces a n 65536).foldl (fun s p =>
    match s.engPlace part core slice p.src p.n rd wr with
    | .place w => s.countAccess die w part p.src.toNat
    | _ => s) s

/-! ## Circuits (R313, R330, R345, R346) -/

/-- The port whose open window a queue is bound to now (R345, R346). -/
def State.circuitOf (s : State) (eng q : Nat) : Option Nat :=
  match s.cp.binds.find? (fun b => b.eng == eng && b.queue == q) with
  | none => none
  | some b => if s.windowOpen b.port && b.smask.getLsbD (s.portSlot b.port) then some b.port else none

/-- The peer device of a port. -/
def State.peerDev (s : State) (p : Nat) : Option (BitVec 12) := (s.optPort p).peer.map (fun x => x.1)

/-- R313, R330: a burst is sent as a frame on a port's circuit; it holds a T2 reply slot. False when no slot is free. -/
def State.sendFrame (s : State) (port eng q : Nat) (o : ReqOwner) (dev : BitVec 12) (addr : DWord) (b : Body) : State × Bool :=
  let known := s.lodge.outs.find? (fun r => r.owner == o)
  if s.lodge.epst != 1 then (s, false)
  else match (match known with | some r => some r.slot | none => s.lodge.freeSlot 2) with
  | none => (s, false)
  | some slot =>
    let tag := s.lodge.tagOf slot
    let k := eng * 8 + q
    let n := Tab.get 0 s.cp.num k
    let fr : Frame := { src := s.devId, addr := addr, sseq := BitVec.ofNat 16 (s.portSseq port), num := BitVec.ofNat 16 n, tag := tag, body := b }
    let pkt : Packet := { src := s.devId, dst := dev, tier := 2, type := 2, seq := 0, len := flitsAfter (payloadOf b), first := false, tag := tag,
                          addr := addr, body := b }
    let outs := if known.isSome then s.lodge.outs else s.lodge.outs ++ [OutReq.mk slot o pkt 0]
    ({ s with lodge := { s.lodge with outs := outs },
              cp := { s.cp with sent := s.cp.sent ++ [(port, fr)], num := Tab.put 0 s.cp.num k ((n + 1) % 65536) } }, true)

/-! ## Sharing an engine and a window (R269, R353) -/

/-- The first of some places after `last`, round by round. -/
def nextInTurn (last n : Nat) (ready : Nat → Bool) : Option Nat :=
  ((List.range n).map (fun i => (last + 1 + i) % n)).find? ready

/-- R299, R312, R313: a queue moves and starts nothing while a burst of it waits to be sent again, or while the circuit of its PUTC is not open. -/
def State.queueHeld (s : State) (e q : Nat) : Bool :=
  s.lodge.outs.any (fun r => r.phase == 2 && (match r.owner with | .engine e1 q1 .. => e1 == e && q1 == q | _ => false)) ||
  ((s.circuitOf e q).isNone && ((s.engine e).queue q).any (fun c => c.x.kind == .putc && c.going && !c.finished))

/-- A piece of a burst is in flight. -/
def CopyCmd.openIn (c : CopyCmd) (b : CopyBurst) : Bool := c.flight.any (fun f => decide (b.off ≤ f.1) && decide (f.1 < b.off + b.n))

/-- R287, R311: a burst may write once those before it are performed; one of a PUT or PUTC once those before it are sent. -/
def CopyCmd.mayWrite (c : CopyCmd) (b : CopyBurst) : Bool :=
  c.bursts.all (fun d => decide (b.off ≤ d.off) || (c.x.isPut && (d.out == some [] || c.openIn d)))

/-- A command has a burst to go on with. -/
def CopyCmd.canGo (c : CopyCmd) : Bool :=
  c.bursts.any (fun b => !c.openIn b && (c.mayWrite b || b.out.isNone))

/-- A command has a burst to begin: one at a time, or as many as an RCPY keeps in flight (R311). -/
def CopyCmd.canBegin (c : CopyCmd) : Bool :=
  !c.readDone && decide (c.bursts.length < match c.x.kind with | .putc => 1024 | .put | .get => 16 | _ => 1)

/-- A command that has a burst to move. -/
def CopyCmd.canBurst (c : CopyCmd) : Bool := c.going && !c.finished && c.stalled.isNone && (c.canGo || c.canBegin)

/-- A collective engine has a burst for the peer of a port (R322). -/
def State.collWants (s : State) (e p : Nat) : Bool :=
  (List.range 8).any (fun q => (Tab.get [] (s.collEng e).q q).any (fun c =>
    c.phase == .running && !c.stopped && c.stalled.isNone && c.d.flg % 2 == 1 && c.tx.any (fun b =>
      !b.sent && b.peer != c.d.rank && (c.ranks[b.peer]?).map (BitVec.ofNat 12) == s.peerDev p)))

/-- R353: the queue whose burst a port's open window takes next, as 8 times its engine and its number: those bound to it share it by burst. -/
def State.windowTurn (s : State) (p : Nat) : Option Nat :=
  nextInTurn (s.optPort p).turn 272 (fun i =>
    s.circuitOf (i / 8) (i % 8) == some p &&
    (if i / 8 < 32 then !s.queueHeld (i / 8) (i % 8) && ((s.engine (i / 8)).queue (i % 8)).any (fun c => c.x.kind == .putc && c.canBurst)
     else s.collWants (i / 8 - 32) p))

/-- A command whose burst may move now: a PUTC's when its queue has its turn in the window. -/
def State.canBurst (s : State) (e q : Nat) (c : CopyCmd) : Bool :=
  c.canBurst && (c.x.kind != .putc || (match s.circuitOf e q with | some p => s.windowTurn p == some (8 * e + q) | none => false))

/-- R269: the queue that an engine serves next. -/
def State.nextQueue (s : State) (e : Nat) : Option Nat :=
  nextInTurn (s.engine e).turn 8 (fun q => !s.queueHeld e q && ((s.engine e).queue q).any (s.canBurst e q))

/-! ## One burst -/

/-- How a step of a burst went. -/
inductive Progress where
  | wait
  | more
  | over
  | stall (va : DWord × Bool)
  | fail (off : Nat) (cause : Byte)
  deriving DecidableEq, Repr

/-- Changes a burst of a command. -/
def State.updBurst (s : State) (e q id off : Nat) (f : CopyBurst → CopyBurst) : State :=
  s.updCmd e q id (fun c => { c with bursts := c.bursts.map (fun b => if b.off = off then f b else b) })

/-- The first write of a burst is made here or sent; a frame that finds no reply slot waits (R299, R313). -/
def State.burstWrite (s : State) (e q : Nat) (c : CopyCmd) (b : CopyBurst) (w : CopyWrite) (ws : List CopyWrite) : State × Progress :=
  let n := w.bytes.length
  let next := fun (s : State) => (s.updBurst e q c.id b.off (fun b => { b with out := some ws }), Progress.more)
  match s.dstPlace c w.dst n with
  | .stall va => (s, .stall va)
  | .bad x => (s, .fail w.off x)
  | .place p =>
    let s1 := (s.countAccess (e / 4) p c.part w.dst.toNat).touch p.home n
    match p.home with
    | .remote dev va =>
      let own := ReqOwner.engine e q c.id w.off n w.dst
      let body := Body.write w.bytes c.x.writeKind
      if c.x.kind == .putc then
        match s.circuitOf e q with
        | none => (s, .wait)
        | some pt =>
          if s.peerDev pt != some dev then (s, .fail w.off 0x12)
          else match s1.sendFrame pt e q own dev (BitVec.ofNat 64 va) body with
            | (_, false) => (s, .wait)
            | (s2, true) => next (s2.fly e q c.id w.off n)
      else next ((s1.request own 2 2 dev (BitVec.ofNat 64 va) body).fly e q c.id w.off n)
    | h =>
      match s1.sideWrite c.x h w.bytes with
      | (s2, some x) => (s2, .fail w.off x)
      | (s2, none) => next s2

/-- One step of a burst: its group in hand is read, then its writes are made one after the other, then the next group is in hand. -/
def State.burstStep (s : State) (e q : Nat) (c : CopyCmd) (b : CopyBurst) : State × Progress :=
  if c.openIn b then (s, .wait)
  else
    match b.out with
    | some (w :: ws) => if c.mayWrite b then s.burstWrite e q c b w ws else (s, .wait)
    | some [] =>
      (match b.bad with
       | some (o, x) => (s, .fail o x)
       | none => (s.updBurst e q c.id b.off (fun b => { b with groups := b.groups.tail, data := [], out := none }), .more))
    | none =>
      match b.groups with
      | [] => (s, .over)
      | g :: _ =>
        match s.readGroup c b g with
        | .stall va => (s, .stall va)
        | .ask rs =>
          ((joinRuns rs).foldl (fun s r =>
            (s.request (.engine e q c.id r.2.2.off r.2.2.n r.2.2.dst) 2 0 r.1 (BitVec.ofNat 64 r.2.1) (.read r.2.2.n c.x.readKind)).fly
              e q c.id r.2.2.off r.2.2.n) s, .more)
        | .got ws bad =>
          let r := stopWrites ws bad
          let s1 := if c.x.kind == .get then s else g.foldl (fun s p => s.countRange (e / 4) c.part c.core c.hasSlice true false p.src p.n) s
          (s1.updBurst e q c.id b.off (fun b => { b with out := some (s.planWrites c r.1), bad := r.2 }), .more)

/-- The bursts of a command go on, as far as they can now: the first that can, step by step. -/
def State.advance (s : State) (e q id : Nat) : Nat → State
  | 0 => s
  | f + 1 =>
    match s.cmd? e q id with
    | none => s
    | some c =>
      if c.stalled.isSome then s
      else
        match c.bursts.findSome? (fun b => match s.burstStep e q c b with | (_, .wait) => none | (s1, r) => some (b, s1, r)) with
        | none => s.settleFor e q id
        | some (_, s1, .wait) => s1
        | some (_, s1, .more) => s1.advance e q id f
        | some (_, s1, .stall va) => s1.stallCmd e q id c.part va
        | some (_, s1, .fail o x) => (s1.failAt e q id o x).advance e q id f
        | some (b, s1, .over) =>
          ((s1.updCmd e q id (fun c => { c with bursts := c.bursts.filter (fun d => d.off != b.off) })).countBytes e q id b.n).advance e q id f

/-- What one event lets a command do at the most. -/
def burstFuel : Nat := 65536

/-- A command begins its next burst: no byte moves until every page is translated (R269). -/
def State.beginBurst (s : State) (e k : Nat) (c : CopyCmd) : State :=
  let n := Nat.min 256 (c.x.len - c.off)
  let gs := c.x.groups c.off n
  match s.stallOf c gs.flatten with
  | some va => s.stallCmd e k c.id c.part va
  | none =>
    (s.updCmd e k c.id (fun c =>
      { c with bursts := c.bursts ++ [{ off := c.off, n := n, groups := gs }], off := c.off + n, readDone := decide (c.x.len ≤ c.off + n) })).advance
        e k c.id burstFuel

/-- R269: an engine's queue whose turn it is moves a burst of its first command that has one; in a circuit's window that is the queue's turn too. -/
def State.copyBurst (s : State) (e k : Nat) : State :=
  if s.nextQueue e != some k then s
  else
    match ((s.engine e).queue k).find? (s.canBurst e k) with
    | none => s
    | some c =>
      let s1 := s.updEngine e (fun x => { x with turn := k })
      let s2 := if c.x.kind == .putc then (match s.circuitOf e k with | some p => s1.updPort p (fun x => { x with turn := 8 * e + k }) | none => s1) else s1
      if c.canGo then s2.advance e k c.id burstFuel else s2.beginBurst e k c

/-! ## Descriptors and hazards (R278, R285) -/

/-- R278, R279: a tensor descriptor's fields into a transfer; the coordinates from NDIM on are ignored. -/
def Xfer.withDesc (x : Xfer) (bs : List Byte) : Xfer :=
  let e := 2 ^ (fieldAt bs 56 1 % 4)
  let box := (List.range 4).map (fun k => fieldAt bs (48 + 2 * k) 2)
  { x with ready := true, coords := x.coords.take (fieldAt bs 57 1) ++ List.replicate (x.coords.length - fieldAt bs 57 1) 0, base := dwordAt bs 0, dims := (List.range 4).map (fun k => fieldAt bs (8 + 4 * k) 4),
           strs := (List.range 3).map (fun k => dwordAt bs (24 + 8 * k)), box := box, esize := e, swz := BitVec.ofNat 2 (fieldAt bs 58 1),
           len := box.foldl (fun a b => a * b) e }

/-- R278: what a tensor descriptor breaks: a field 0x02, a multiple 0x03, BASE's aperture 0x04. -/
def descCause (bs : List Byte) : Option Byte :=
  let nd := fieldAt bs 57 1
  let x := ({} : Xfer).withDesc bs
  let fields := decide (1 ≤ nd) && decide (nd ≤ 4) && decide (fieldAt bs 56 1 ≤ 3) && decide (fieldAt bs 58 1 ≤ 3) && fieldAt bs 59 5 == 0 &&
    x.dims.all (fun d => decide (1 ≤ d)) && x.box.all (fun b => decide (1 ≤ b) && decide (b ≤ 256)) &&
    (List.range 4).all (fun k => decide (k < nd) || ((x.dims[k]?).getD 1 == 1 && (x.box[k]?).getD 1 == 1))
  let aligned := x.base.toNat % x.esize == 0 && x.strs.all (fun t => t.toNat % x.esize == 0) && x.len % 256 == 0
  if !fields then some 2 else if !aligned then some 3 else if globalTop < x.base then some 4 else none

/-- A range for the hazard table: the global window, or a core's slice by offset (R285). -/
structure HazardRange where
  space : Nat
  lo : Int
  n : Nat
  deriving DecidableEq, Repr

/-- An address and length as a hazard range; a local-slice address is its core and offset. -/
def CopyCmd.hazard (c : CopyCmd) (lo : Int) (n : Nat) : HazardRange :=
  if 0xFF00000000000000 ≤ lo then ⟨c.core + 1, lo - 0xFF00000000000000, n⟩ else ⟨0, lo, n⟩

/-- R285: the memory range of a tensor transfer, from its lowest to its highest byte. -/
def Xfer.tensorRange (x : Xfer) : Int × Nat :=
  let dims := (x.coords.zip x.box).zip (x.dims.zip ((BitVec.ofNat 64 x.esize :: x.strs).map (fun t => t.toInt)))
  let ends := dims.map (fun d =>
    let a := (clampTo d.1.1 d.2.1 : Int) * d.2.2
    let b := (clampTo (d.1.1 + d.1.2 - 1) d.2.1 : Int) * d.2.2
    if a ≤ b then (a, b) else (b, a))
  let lo := ends.foldl (fun v p => v + p.1) (x.base.toNat : Int)
  let hi := ends.foldl (fun v p => v + p.2) (x.base.toNat : Int)
  (lo, (hi - lo).toNat + x.esize)

/-- The source and destination ranges that the hazard test compares; an RCPY's are its local range (R285). -/
def CopyCmd.ranges (c : CopyCmd) : List HazardRange × HazardRange :=
  let x := c.x
  match x.kind with
  | .cpy => ([c.hazard x.src.toNat x.len, c.hazard x.dst.toNat x.len], c.hazard x.dst.toNat x.len)
  | .gather =>
    let r := stridedRange x.src x.stride x.row (maskRows x.mask)
    ([c.hazard r.1 r.2, c.hazard x.dst.toNat x.len], c.hazard x.dst.toNat x.len)
  | .scatter =>
    let r := stridedRange x.dst x.stride x.row (maskRows x.mask)
    ([c.hazard x.src.toNat x.len, c.hazard r.1 r.2], c.hazard r.1 r.2)
  | .tld => let r := x.tensorRange; ([c.hazard r.1 r.2, c.hazard x.dst.toNat x.len], c.hazard x.dst.toNat x.len)
  | .tst => let r := x.tensorRange; ([c.hazard x.dst.toNat x.len, c.hazard r.1 r.2], c.hazard r.1 r.2)
  | _ => ([c.hazard x.src.toNat x.len], c.hazard x.src.toNat x.len)

/-- Two ranges overlap. -/
def HazardRange.meets (a b : HazardRange) : Bool :=
  a.space == b.space && decide (a.lo < b.lo + b.n) && decide (b.lo < a.lo + a.n) && a.n != 0 && b.n != 0

/-- R285: the hazard table lets a transfer start: a place is free, and no range of it meets the entry of an earlier command of its partition. -/
def State.hazardFree (s : State) (e : Nat) (c : CopyCmd) : Bool :=
  let held := (s.engine e).all.filter (fun d => d.going && d.id != c.id)
  decide (held.length < 64) &&
  held.all (fun d => d.part != c.part || decide (c.id < d.id) || c.ranges.1.all (fun r => !(r.meets d.ranges.2)))

/-- A command's source reads are all issued (R269); a chain's when it has ended. -/
def CopyCmd.readsOver (c : CopyCmd) : Bool :=
  c.readDone && (c.chain.isNone || !c.inRecord) && c.bursts.all (fun b => b.groups.tail.isEmpty && (b.out.isSome || c.openIn b))

/-- The command of a queue that is to start next, every one before it having issued its last read (R269). -/
def nextToStart : List CopyCmd → Option CopyCmd
  | [] => none
  | c :: cs =>
    if !c.finished && !c.going && !c.readDone && (c.chain.isNone || c.inRecord || !c.started) then some c
    else if c.readsOver then nextToStart cs
    else none

/-- R278: a descriptor gives B: its box sizes and element size are in range. -/
def descSized (bs : List Byte) : Bool :=
  decide (fieldAt bs 56 1 ≤ 3) && (({} : Xfer).withDesc bs).box.all (fun b => decide (1 ≤ b) && decide (b ≤ 256))

/-- A transfer's descriptor is at hand: it goes into the transfer, and one that breaks the table stops it. -/
def State.gotDesc (s : State) (e q id : Nat) (bs : List Byte) : State :=
  let s1 := if descSized bs then s.updCmd e q id (fun c => { c with x := c.x.withDesc bs }) else s
  match descCause bs with
  | some x => s1.stopCmd e q id x
  | none => s1

/-- What reading a 64-byte structure for a command gives. -/
inductive StructRead where
  | bytes (bs : List Byte)
  | bad (cause : Byte)
  | stall (va : DWord × Bool)
  | away (dev : BitVec 12) (va : Nat)
  deriving DecidableEq, Repr

/-- R278, R284: a command's read of a descriptor or chain record. -/
def State.structRead (s : State) (c : CopyCmd) (a : DWord) : StructRead :=
  match s.cmdPlace c a 64 true false with
  | .bad x => .bad x
  | .stall va => .stall va
  | .place p =>
    match p.home with
    | .remote dev va => .away dev va
    | h => if s.refusedAt h 64 then .bad 6 else if s.marked h.key 64 then .bad 0x13 else .bytes (s.getBytes h.key 64)

/-- COPY_COMMAND_START (R269, R278, R285, R313): a queue's next command, or the record a chain has read, starts: a tensor's descriptor is
read first, a PUTC waits for its circuit, and the hazard table must let it; one of length 0 is over at once (R277, R310). A release of the issuing
thread that is not over holds it back (R230), and so does what holds its queue. -/
def execCopyCommandStart (eng : Fin 32) (q : Fin 8) (s : State) : Host.Outcome State Fault Refusal :=
  let e := eng.val
  let k := q.val
  .next (
    match nextToStart ((s.engine e).queue k) with
    | none => s
    | some c =>
      let released := s.afterDone c.after
      if !s.enginesRun || c.stalled.isSome || !c.flight.isEmpty || !released || s.queueHeld e k then s
      else if c.chain.isSome && !c.inRecord then s.updCmd e k c.id (fun c => { c with started := true })
      else
        let s0 := s.updCmd e k c.id (fun c => { c with started := true })
        if c.x.unread then
          match s.structRead c c.x.src with
          | .bad x => s0.stopCmd e k c.id x
          | .stall va => s0.stallCmd e k c.id c.part va
          | .away dev va =>
            (s0.request (.engine e k c.id offDesc 64 0) 2 0 dev (BitVec.ofNat 64 va) (.read 64 .plain)).fly e k c.id offDesc 64
          | .bytes bs => (s0.countRange (e / 4) c.part c.core c.hasSlice true false c.x.src 64).gotDesc e k c.id bs
        else if c.x.len == 0 && (c.x.kind == .cpy || c.x.isPut || c.x.kind == .get) then
          (s0.updCmd e k c.id (fun c => { c with readDone := true })).settleFor e k c.id
        else
          let circuit := s.circuitOf e k
          if c.x.kind == .putc && circuit.isNone then s0
          else if c.x.kind == .putc && circuit.bind s.peerDev != some c.x.dev then s0.stopCmd e k c.id 0x12
          else if !s.hazardFree e c then s0
          else
            let s1 := s0.updCmd e k c.id (fun c => { c with going := true, off := 0, counted := 0, cntDone := false, readDone := c.x.len == 0 })
            s1.settleFor e k c.id)

/-! ## Chains (R283, R284) -/

/-- R283: the transfer that a chain record gives, and whether its fixed fields are 0 and its KIND is defined. -/
def recordXfer (bs : List Byte) : Xfer × Bool :=
  let kind := fieldAt bs 0 1 / 2 % 8
  let ctl := BitVec.ofNat 32 (fieldAt bs 4 4)
  let base := fieldAt bs 0 1 / 16 == 0 && fieldAt bs 2 2 == 0 && fieldAt bs 56 8 == 0
  let src := dwordAt bs 16
  let dst := dwordAt bs 24
  let mask := dwordAt bs 32
  let row := fieldAt bs 40 4
  let int32 := fun lo => (BitVec.ofNat 32 (fieldAt bs lo 4)).toInt
  match kind with
  | 0 =>
    (({ kind := .cpy, src := src, dst := dst, len := fieldAt bs 32 4 } : Xfer).withCtl ctl,
      base && fieldAt bs 36 4 == 0 && fieldAt bs 40 8 == 0 && fieldAt bs 48 8 == 0)
  | 1 | 2 =>
    (({ kind := if kind = 1 then .gather else .scatter, src := src, dst := dst, mask := mask, row := row, stride := int32 44,
        cnt := dwordAt bs 48, len := (maskRows mask).length * row } : Xfer).withCtl ctl, base)
  | 3 | 4 =>
    (({ kind := if kind = 3 then .tld else .tst, src := src, dst := dst, coords := [int32 32, int32 36, int32 40, int32 44] } : Xfer).withCtl ctl,
      base && fieldAt bs 48 8 == 0)
  | _ => ({}, false)

/-- R284: a record that has been read: without OWN the chain ends; a bad one gets its cause; else its transfer is in hand. What a bad record of a
defined KIND with a barrier of the workgroup would count, its stop counts (R287). -/
def State.gotRecord (s : State) (e q : Nat) (c : CopyCmd) (bs : List Byte) : State :=
  if fieldAt bs 0 1 % 2 = 0 then (s.updCmd e q c.id (fun c => { c with readDone := true })).settleFor e q c.id
  else
    let (x, ok) := recordXfer bs
    let ctl := BitVec.ofNat 32 (fieldAt bs 4 4)
    let nbar := match c.owner with | .token lid _ _ _ => s.nbar lid | _ => 0
    let bad := if !ok then some 2 else x.check (s.coreAt c.core).carve nbar (ccwOk ctl)
    let s1 := s.updCmd e q c.id (fun c => { c with
      inRecord := true, x := { x with be := x.be && (bad.isNone || decide (x.bar < nbar)) }, nextRec := dwordAt bs 8, rec0 := BitVec.ofNat 8 (fieldAt bs 0 1),
      off := 0, counted := 0, cntDone := false, readDone := false, going := false, stopAt := 0 })
    match bad with
    | none => s1
    | some cause => s1.stopCmd e q c.id cause

/-- CHAIN_RECORD (R284): the engine reads the next record of a started chain. -/
def execChainRecord (eng : Fin 32) (q : Fin 8) (s : State) : Host.Outcome State Fault Refusal :=
  let e := eng.val
  let k := q.val
  .next (
    match ((s.engine e).queue k).find? (fun c => c.chain.isSome && c.started && !c.inRecord && !c.readDone && !c.finished && c.stalled.isNone &&
        c.flight.isEmpty) with
    | none => s
    | some c =>
      match c.chain with
      | none => s
      | some at_ =>
        if !s.enginesRun || s.queueHeld e k then s
        else
          match s.structRead c at_ with
          | .bad x => s.stopCmd e k c.id x
          | .stall va => s.stallCmd e k c.id c.part va
          | .away dev va =>
            (s.request (.engine e k c.id offRecord 64 at_) 2 0 dev (BitVec.ofNat 64 va) (.read 64 .plain)).fly e k c.id offRecord 64
          | .bytes bs => (s.countRange (e / 4) c.part c.core c.hasSlice true false at_ 64).gotRecord e k c bs)

/-! ## HK2's answers, replies and completion -/

/-- The offset at which a command waits: of its first burst that is not in flight, or of its next. -/
def CopyCmd.waitsAt (c : CopyCmd) : Nat := match c.bursts.find? (fun b => !c.openIn b) with | some b => b.off | none => c.off

/-- R286: HK2 answers a copy queue's stalled command: it resumes at the same offset, or stops. -/
def State.copyAnswer (s : State) (e k : Nat) : State :=
  match ((s.engine e).queue k).find? (fun c => c.stalled.isSome) with
  | none => s
  | some c =>
    match c.stalled with
    | none => s
    | some va =>
      match s.hk2Answer c.part va.1 (!va.2) va.2 with
      | none => s
      | some none => (s.updCmd e k c.id (fun c => { c with stalled := none })).advance e k c.id burstFuel
      | some (some x) => (s.failAt e k c.id c.waitsAt x).advance e k c.id burstFuel

/-- R311, R312: a reply arrives for a command's request: `rd` when it was a READ. An acknowledged burst of a circuit is performed, even if it has been
taken up again (R313). -/
def State.engineReply (s : State) (e q id off n : Nat) (rd : Bool) (status : Byte) (data : List Byte) : State :=
  let s1 := s.updCmd e q id (fun c => { c with flight := c.flight.erase (off, n) })
  match s1.cmd? e q id with
  | none => s1
  | some c =>
    if off == offRecord then (if status == 0 then s1.gotRecord e q c data else s1.stopCmd e q id status)
    else if off == offDesc then (if status == 0 then s1.gotDesc e q id data else s1.stopCmd e q id status)
    else if off == offCount || off == offStatus then (if status == 0 then s1.settleFor e q id else s1.stopCmd e q id status)
    else
      let burst := match c.bursts.find? (fun b => decide (b.off ≤ off) && decide (off < b.off + b.n)) with | some b => b.off | none => off
      let s2 :=
        if rd && status == 0 then s1.updBurst e q id burst (fun b => { b with data := cacheBytes b.data off (data.take n) })
        else if rd then s1.updBurst e q id burst (fun b => if b.bad.any (fun x => decide (x.1 ≤ off)) then b else { b with bad := some (off, status) })
        else if status != 0 then s1.failAt e q id off status
        else if c.x.kind == .putc then s1.updBurst e q id burst (fun b => { b with groups := b.groups.take 1, out := some [] })
        else s1
      s2.advance e q id burstFuel

/-- R271, R376: a command's completion reaches its owner: a token falls and keeps the first error; a host command completes. -/
def State.ownerDone (s : State) (o : Owner) (err : Byte) : State :=
  match o with
  | .token lid g widx tok =>
    let t := s.tokenAt lid g widx tok
    s.setToken lid g widx tok { out := t.out - 1, err := if t.err == 0 then err else t.err }
  | .host n i => s.complete n i err 0 0
  | .nobody => s

/-- COPY_COMPLETE (R271): the oldest finished command of a queue completes and leaves it. -/
def execCopyComplete (eng : Fin 32) (q : Fin 8) (s : State) : Host.Outcome State Fault Refusal :=
  let e := eng.val
  let k := q.val
  .next (
    match ((s.engine e).queue k).find? (fun c => c.finished) with
    | none => s
    | some c =>
      (s.updEngine e (fun x => { x with q := Tab.put [] x.q k ((x.queue k).filter (fun d => d.id != c.id)) })).ownerDone c.owner c.err)

/-! ## The host's COPY (R374) -/

/-- COPY: a CPY with CCW 0 on a named engine queue; it starts when the queue and its RCB's share have room. -/
def execCopy (ring : Fin 64) (cmd : BitVec 512) (s : State) : Host.Outcome State Fault Refusal :=
  let n := ring.val
  let e := cmdField cmd 32 1
  let q := cmdField cmd 33 1
  let part := (s.ring n).part
  let rcb := cmdRcb cmd
  let fields := cmdHeader cmd 0 true && cmdZeros cmd [(8, 8), (16, 8), (24, 8), (32, 1), (33, 1)] && decide (e < 32) && decide (q < 8) &&
    ((s.part part).rcb? rcb).isSome
  .next (
    if fields && !s.copyRoom e q 0 part rcb then s
    else
      s.hostCommand n cmd 2 fields (fun s i =>
        let len := cmdField cmd 24 8
        let src := cmdDword cmd 8
        let dst := cmdDword cmd 16
        if len != 0 && !(rowOk 0 false src.toNat len && rowOk 0 false dst.toNat len) then s.complete n i 4 0 0
        else
          let c : CopyCmd := { id := s.ids, part := part, core := 0, owner := .host n i, rcb := rcb, x := { kind := .cpy, src := src, dst := dst, len := len } }
          (s.setWait n i (.copy s.ids)).enqueue e q c))

/-! ## Circuits that open (R345, R346) -/

/-- R313: a PUTC's bursts that are not acknowledged are to be read and sent again. -/
def CopyCmd.sendAgain (c : CopyCmd) : CopyCmd :=
  { c with bursts := c.bursts.map (fun b => if c.openIn b then { b with data := [], out := none } else b),
           flight := c.flight.filter (fun f => !(c.bursts.any (fun b => decide (b.off ≤ f.1) && decide (f.1 < b.off + b.n)))) }

/-- R313, R345, R346: a queue bound to a port finds its window open: a head PUTC for another device stops with cause 0x12, and the unacknowledged
bursts of the others, and of collectives, are to be sent again. -/
def State.queueOpens (s : State) (b : Binding) (port : Nat) : State :=
  if 32 ≤ b.eng then
    s.updColl (b.eng - 32) (fun x => { x with q := x.q.map (fun e => (e.1, e.2.map (fun c =>
      { c with tx := c.tx.map (fun u => if u.circ && s.peerDev port == (c.ranks[u.peer]?).map (BitVec.ofNat 12) then { u with sent := false } else u) }))) })
  else
    ((s.engine b.eng).queue b.queue).foldl (fun s c =>
      if c.x.kind != .putc || !c.going || c.finished then s
      else if s.peerDev port != some c.x.dev then s.stopCmd b.eng b.queue c.id 0x12
      else s.updCmd b.eng b.queue c.id CopyCmd.sendAgain) s

/-- R313, R345, R346: a port's window opens, for each queue bound to it now. -/
def State.windowOpens (s : State) (port : Nat) : State :=
  (s.cp.binds.filter (fun b => b.port == port)).foldl (fun s b =>
    if s.circuitOf b.eng b.queue != some port then s else s.queueOpens b port) s

/-- CBIND (R353): it binds a queue to a port in chosen slots, replacing the queue's binding, or removes that; a window that is open is open to the queue
from now on (R313). -/
def execCbind (a b : BitVec 4) (s : State) : Host.Outcome State Fault Refusal :=
  .next (s.circuitWord (.cbind a b) (fun s k =>
    let q := s.cxReg k b
    let eng := q.toNat % 64
    let n := q.toNat / 256 % 8
    let others := s.cp.binds.filter (fun x => !(x.eng == eng && x.queue == n))
    if !queueSpecOk q then s.faultContext k 1
    else if q.getLsbD 11 then ({ s with cp := { s.cp with binds := others } }).cxNext k
    else
      match portNumber (s.cxReg k a) with
      | none => s.faultContext k 1
      | some p =>
        if !s.mayUse k p then s.faultContext k 1
        else
          let x : Binding := { eng := eng, queue := n, port := p, smask := q.extractLsb' 16 16, cx := k }
          let s1 := { s with cp := { s.cp with binds := others ++ [x] } }
          (if s1.circuitOf eng n == some p && s.circuitOf eng n != some p then s1.queueOpens x p else s1).cxNext k))

/-- WINDOW_OPEN (R345): the window of a rotation port that is LIVE with its slot's peer opens. -/
def execWindowOpen (port : Fin 16) (s : State) : Host.Outcome State Fault Refusal :=
  .next (
    let p := port.val
    let x := s.optPort p
    match s.rotationOf p with
    | some r =>
      if x.st == 3 && !x.window && x.peer.isSome && x.peer == x.slotPeer r.s then (s.updPort p (fun x => { x with window := true })).windowOpens p
      else s
    | none => s)

/-- HANDSHAKE (R331, R346): a TRAINED port whose peer, port and SSEQ agree becomes LIVE, a static circuit's window with it; otherwise FAULT. -/
def execHandshake (port : Fin 16) (dev : BitVec 12) (pp : BitVec 4) (sseq : BitVec 16) (s : State) : Host.Outcome State Fault Refusal :=
  .next (
    let p := port.val
    let x := s.optPort p
    if x.st != 2 then s
    else
      match x.peer with
      | some (d, q, _) =>
        if d == dev && q == pp && sseq.toNat == s.portSseq p then
          let s1 := s.updPort p (fun x => { x with st := 3 })
          (if s1.windowOpen p then s1.windowOpens p else s1).wakeCwaits
        else (s.updPort p (fun x => { x with st := 4 })).wakeCwaits
      | none => (s.updPort p (fun x => { x with st := 4 })).wakeCwaits)

end Sys2Proof.Machine
end

