-- ==== Sys2Proof/Machine/Collective.lean ====
section
/-! DEFINITION. The collective engines at work: starting a command, its messages in bursts, reduction and quantisation, stamps, aborts
and completion (R317 to R324, R463), and the events that the copy and collective engines share. -/

namespace Sys2Proof.Machine
open Sys2Proof

/-! ## Commands -/

/-- A command of a queue by its identity. -/
def State.collCmd? (s : State) (e id : Nat) : Option (Nat × CollCmd) :=
  (List.range 8).findSome? (fun q => (((s.collEng e).queue q).find? (fun c => c.id == id)).map (fun c => (q, c)))
/-- Changes a command of an engine. -/
def State.updCollCmd (s : State) (e id : Nat) (f : CollCmd → CollCmd) : State :=
  s.updColl e (fun x => { x with q := x.q.map (fun b => (b.1, b.2.map (fun c => if c.id == id then f c else c))) })

/-- A read of another device's memory, and a write of it, as the `peer` of their owners; lower numbers are ranks. -/
def collReadMark : Nat := 65536
/-- A write's mark. -/
def collWriteMark : Nat := 65537

/-! ## The descriptor (R318) -/

/-- R318: the descriptor's fields. -/
def CollDesc.decode (bs : List Byte) : CollDesc :=
  { sbuf := dwordAt bs 0, rbuf := dwordAt bs 8, cnts := dwordAt bs 16, grp := dwordAt bs 24, seqw := dwordAt bs 32, stmp := dwordAt bs 40,
    perm := dwordAt bs 48, cid := BitVec.ofNat 32 (fieldAt bs 56 4), np := fieldAt bs 60 2, rank := fieldAt bs 62 2, root := fieldAt bs 64 2,
    dtype := fieldAt bs 66 1, rop := fieldAt bs 67 1, qf := fieldAt bs 68 1, flg := fieldAt bs 69 1, tmo := fieldAt bs 70 2 }

/-- R56: the operation codes of COLL that reduce: REDUCESCATTER and ALLREDUCE. -/
def collReduces (op : Nat) : Bool := op == 1 || op == 2
/-- R318: the element size of a DTYPE. -/
def CollDesc.esize (d : CollDesc) : Nat := if d.dtype = 1 || d.dtype = 2 then 2 else if d.dtype = 5 then 1 else 4
/-- The number of entries of the count table (R318). -/
def CollDesc.nCounts (d : CollDesc) (op : Nat) : Nat := if op = 3 then d.np * d.np else d.np

/-- R318 step 1: the fields are in range and the zero fields zero. -/
def CollDesc.fieldsOk (d : CollDesc) (op : Nat) (bs : List Byte) : Bool :=
  fieldAt bs 72 48 == 0 && d.flg / 4 == 0 && decide (d.dtype ≤ 5) && decide (d.rop ≤ 2) && decide (d.qf ≤ 3) &&
  decide (1 ≤ d.np) && decide (d.np ≤ 4096) && decide (d.rank < d.np) &&
  (if op = 5 then decide (d.root < d.np) else d.root == 0) && (op == 4 || d.perm == 0) &&
  !(d.dtype == 5 && collReduces op) && (d.qf == 0 || (d.dtype == 0 && !(collReduces op)))

/-- R318 step 2: the buffers, tables and SEQW are aligned. -/
def CollDesc.aligned (d : CollDesc) : Bool :=
  d.sbuf.toNat % d.esize == 0 && d.rbuf.toNat % d.esize == 0 && d.cnts.toNat % 4 == 0 && d.grp.toNat % 2 == 0 && d.seqw.toNat % 8 == 0 &&
  d.stmp.toNat % 8 == 0 && d.perm.toNat % 2 == 0

/-- R318 step 3: the whole range of each table, and of SEQW, lies in one row. -/
def CollDesc.tablesIn (d : CollDesc) (carve op : Nat) : Bool :=
  let row := fun (a : DWord) n => rowOk carve true a.toNat n
  row d.cnts (4 * d.nCounts op) && row d.grp (2 * d.np) && (op != 4 || row d.perm (2 * d.np)) && (d.seqw == 0 || row d.seqw 8) &&
  (d.stmp == 0 || row d.stmp (8 * d.np))

/-- The entries of a table of `n`-byte numbers. -/
def tableOf (bs : List Byte) (n k : Nat) : List Nat := (List.range k).map (fun i => fieldAt bs (n * i) n)

/-! ## What an operation moves (R319, R322) -/

/-- What a rank sends and receives: (rank, first element, count) each, and the elements of SBUF and RBUF. -/
structure CollPlan where
  sends : List (Nat × Nat × Nat) := []
  recvs : List (Nat × Nat × Nat) := []
  slen : Nat := 0
  rlen : Nat := 0

/-- A list's sum. -/
def sumOf (l : List Nat) : Nat := l.foldl (fun a b => a + b) 0
/-- An entry of a table, 0 outside it. -/
def entryOf (l : List Nat) (i : Nat) : Nat := (l[i]?).getD 0

/-- R319: the plan of an operation for a rank of `n`. -/
def collPlan (op n rank root : Nat) (c perm : List Nat) : CollPlan :=
  let rs := List.range n
  let pre := fun r => sumOf (c.take r)
  match op with
  | 0 => { sends := rs.map (fun d => (d, 0, entryOf c rank)), recvs := rs.map (fun r => (r, pre r, entryOf c r)), slen := entryOf c rank, rlen := sumOf c }
  | 1 => { sends := rs.map (fun d => (d, pre d, entryOf c d)), recvs := rs.map (fun r => (r, 0, entryOf c rank)), slen := sumOf c, rlen := entryOf c rank }
  | 2 => { sends := rs.map (fun d => (d, 0, sumOf c)), recvs := rs.map (fun r => (r, 0, sumOf c)), slen := sumOf c, rlen := sumOf c }
  | 3 =>
    let at_ := fun a b => entryOf c (a * n + b)
    let out := rs.map (fun d => at_ rank d)
    let inn := rs.map (fun r => at_ r rank)
    { sends := rs.map (fun d => (d, sumOf (out.take d), entryOf out d)), recvs := rs.map (fun r => (r, sumOf (inn.take r), entryOf inn r)),
      slen := sumOf out, rlen := sumOf inn }
  | 4 =>
    let src := (rs.find? (fun r => entryOf perm r == rank)).getD 0
    { sends := [(entryOf perm rank, 0, entryOf c rank)], recvs := [(src, 0, entryOf c src)], slen := entryOf c rank, rlen := entryOf c src }
  | _ =>
    { sends := if rank = root then rs.map (fun d => (d, 0, entryOf c root)) else [], recvs := [(root, 0, entryOf c root)],
      slen := if rank = root then entryOf c root else 0, rlen := entryOf c root }

/-- A command's plan. -/
def CollCmd.plan (c : CollCmd) : CollPlan := collPlan c.op c.d.np c.d.rank c.d.root c.counts c.perm

/-- R318: the engine has the command's descriptor. -/
def CollCmd.known (c : CollCmd) : Bool := match c.phase with | .waiting | .descriptor => false | _ => true
/-- The command exchanges its messages (R322). -/
def CollCmd.running (c : CollCmd) : Bool := c.phase == .running
/-- The other ranks. -/
def CollCmd.others (c : CollCmd) : List Nat := (List.range c.d.np).filter (fun r => r != c.d.rank)

/-- R324: the ranks that a command exchanges with. -/
def CollCmd.peers (c : CollCmd) : List Nat :=
  let p := c.plan
  (List.range c.d.np).filter (fun r => r != c.d.rank && (p.sends.any (fun x => x.1 == r) || p.recvs.any (fun x => x.1 == r)))

/-- R318, R324: the ranks to which a command that stops now sends aborts: none before it has its rank table or at its count table, every other rank
at its PERM table, and past the checks of its start those that it exchanges with. -/
def CollCmd.abortTo (c : CollCmd) : List Nat :=
  match c.phase with
  | .perm => c.others
  | .seqw | .running => c.peers
  | _ => []

/-! ## Elements (R320, R321) -/

/-- R320: one result element from the contributions in ascending rank order. -/
def collReduce (dtype rop : Nat) (xs : List Nat) : Nat :=
  let f := if dtype = 1 then bf16 else if dtype = 2 then fp16 else fp32
  if 3 ≤ dtype then
    let sgn := fun (x : Nat) => if dtype = 3 then (BitVec.ofNat 32 x).toInt else (x : Int)
    match xs with
    | [] => 0
    | v :: vs => vs.foldl (fun a b =>
        match rop with
        | 0 => (a + b) % 2 ^ 32
        | 1 => if sgn b < sgn a then b else a
        | _ => if sgn a < sgn b then b else a) v
  else
    match xs.map (fun x => (widen f x).1) with
    | [] => 0
    | v :: vs =>
      let acc := vs.foldl (fun a b =>
        match rop with
        | 0 => (fp32.add .rne a b).1
        | 1 => (fp32.minmax false a b).1
        | _ => (fp32.minmax true a b).1) v
      if f.width = 32 then acc else (narrow f .rne false acc).1

/-- R321: the element format code of a QF. -/
def qfFormat (qf : Nat) : BitVec 3 := BitVec.ofNat 3 (qf + 2)

/-- Pairs of E2M1 codes as bytes, the first in the low nibble. -/
def nibbles : List Nat → List Byte
  | [] => []
  | [a] => [BitVec.ofNat 8 a]
  | a :: b :: r => BitVec.ofNat 8 (a + 16 * b) :: nibbles r

/-- R321: one block's bytes: its scale, then its codes. -/
def quantBlock (qf : Nat) (vs : List Nat) : List Byte :=
  let f := qfFormat qf
  let x := blockScale f vs
  let bad := blockBad vs
  let codes := vs.map (fun v => if bad then 0 else (mxElement f .rne x v).1)
  (if bad then 0xFF else BitVec.ofInt 8 (x + 127)) :: (if qf = 3 then nibbles codes else codes.map (BitVec.ofNat 8))

/-- R321: a segment of FP32 elements as it is sent, block by block. -/
def quantise (qf : Nat) : Nat → List Nat → List Byte
  | 0, _ => []
  | f + 1, vs => if vs.isEmpty then [] else quantBlock qf (vs.take 32) ++ quantise qf f (vs.drop 32)

/-- The bytes of `k` codes on the wire. -/
def codeBytes (qf k : Nat) : Nat := if qf = 3 then (k + 1) / 2 else k

/-- R321: `n` elements' FP32 codes from the bytes received; none when their number does not fit. -/
def expand (qf : Nat) : Nat → Nat → List Byte → Option (List Nat)
  | 0, n, bs => if n = 0 && bs.isEmpty then some [] else none
  | f + 1, n, bs =>
    if n = 0 then (if bs.isEmpty then some [] else none)
    else
      let k := Nat.min n 32
      let w := codeBytes qf k
      match bs with
      | [] => none
      | sc :: rest =>
        if rest.length < w then none
        else
          let codes := (List.range k).map (fun i => if qf = 3 then fieldAt rest (i / 2) 1 / 16 ^ (i % 2) % 16 else fieldAt rest i 1)
          (expand qf f (n - k) (rest.drop w)).map (fun r => codes.map (fun c => (mxExpand (qfFormat qf) sc.toNat c).1) ++ r)

/-- The bytes of a whole block on the wire (R321): one scale byte and 32 codes. -/
def blockBytes (qf : Nat) : Nat := 1 + codeBytes qf 32

/-- The bytes of a segment of `n` bytes of SBUF as a command sends it. -/
def CollDesc.wireLen (d : CollDesc) (n : Nat) : Nat :=
  if d.qf = 0 then n else n / 128 * blockBytes d.qf + (if n % 128 = 0 then 0 else 1 + codeBytes d.qf (n % 128 / 4))

/-- The bytes of a segment that the wire's bytes from `off` on come from: their first byte, and how many of the segment's `seg`; whole blocks (R321). -/
def CollDesc.wireFrom (d : CollDesc) (seg off n : Nat) : Nat × Nat :=
  if d.qf = 0 then (off, n)
  else
    let w := blockBytes d.qf
    let lo := off / w * 128
    (lo, Nat.min seg ((off + n + w - 1) / w * 128) - lo)

/-- The wire's `n` bytes from `off` on, from the bytes of the segment that they come from. -/
def CollDesc.wire (d : CollDesc) (off n : Nat) (bs : List Byte) : List Byte :=
  if d.qf = 0 then bs
  else
    let vs := tableOf bs 4 (bs.length / 4)
    ((quantise d.qf (vs.length / 32 + 1) vs).drop (off % blockBytes d.qf)).take n

/-- The bytes of a pair's `n` elements as the receiver keeps them; none when the data does not hold `n` elements. -/
def CollDesc.unwire (d : CollDesc) (n : Nat) (bs : List Byte) : Option (List Byte) :=
  if d.qf = 0 then (if bs.length = n * d.esize then some bs else none)
  else (expand d.qf (n / 32 + 1) n bs).map (fun vs => vs.flatMap (leBytes 4))

/-! ## Reading (R318, R324, R286) -/

/-- The place of a command's bytes. -/
def State.collPlace (s : State) (c : CollCmd) (a : DWord) (n : Nat) (rd wr : Bool) : EngPlace := s.engPlace c.part c.core true a n rd wr

/-- A collective command's reader. -/
def CollCmd.reader (c : CollCmd) : Reader := ⟨c.part, c.core, true, c.cache, c.denied⟩

/-- A command waits for HK2. -/
def State.stallColl (s : State) (e : Nat) (c : CollCmd) (va : DWord × Bool) : State :=
  (s.notify c.part va.1).updCollCmd e c.id (fun c => { c with stalled := some va })

/-- Goes on with the bytes of a read, or with its cause; while they are not at hand the command waits and its event comes again. The accesses are
counted on the issuing core's die (R214). -/
def State.withRead (s : State) (e : Nat) (c : CollCmd) (a : DWord) (n : Nat) (bad : State → Byte → State) (k : State → List Byte → State) : State :=
  match s.farRead c.reader a n with
  | .bytes bs => k (s.countRange (dieOf c.core) c.part c.core true true false a n) bs
  | .bad x => bad s x
  | .stall va => s.stallColl e c va
  | .away rs =>
    if c.away != 0 then s
    else rs.foldl (fun s r =>
      (s.request (.coll e c.id collReadMark r.2.2.src.toNat) 2 0 r.1 (BitVec.ofNat 64 r.2.1) (.read r.2.2.n .plain)).updCollCmd e c.id
        (fun c => { c with away := c.away + 1 })) s

/-! ## Stopping (R324) -/

/-- R324: an abort's CID is kept among the 64 most recent, and its staged data dropped. -/
def State.noteAbort (s : State) (e : Nat) (cid : Word) : State :=
  s.updColl e (fun x =>
    let l := x.aborts.filter (fun c => c != cid) ++ [cid]
    { x with aborts := l.drop (l.length - 64) })

/-- R463: an abort message to each of a command's ranks; nobody waits for the replies. -/
def State.sendAborts (s : State) (e : Nat) (c : CollCmd) (ranks : List Nat) : State :=
  let hdr : CollHdr := { eng := BitVec.ofNat 1 e, cid := c.d.cid, op := 0, dtype := 0, rop := 0, qf := 0, np := 0, srank := BitVec.ofNat 16 c.d.rank,
                         root := 0, abort := true, last := false, cnt := 0, off := 0, stamp := 0 }
  let s1 := ranks.foldl (fun s r =>
    s.request .nobody 2 2 (BitVec.ofNat 12 (entryOf c.ranks r)) (c.d.cid.zeroExtend 64) (.coll hdr [])) s
  if ranks.isEmpty then s1 else s1.noteAbort e c.d.cid

/-- R324: a command stops with a cause and sends aborts to some ranks. -/
def State.stopColl (s : State) (e : Nat) (c : CollCmd) (cause : Byte) (ranks : List Nat) : State :=
  (s.sendAborts e c ranks).updCollCmd e c.id (fun c =>
    { c with err := if c.err == 0 then cause else c.err, stopped := true, tx := [], writes := [], stalled := none })

/-! ## Receiving (R319 to R323) -/

/-- R319, R463: a burst's header agrees with the command and names a rank that sends to it; the pair's count and first element. -/
def CollCmd.accepts (c : CollCmd) (h : CollHdr) : Option (Nat × Nat) :=
  let d := c.d
  match c.plan.recvs.find? (fun x => x.1 == h.srank.toNat) with
  | none => none
  | some (_, off, n) =>
    if h.op.toNat == c.op && h.dtype.toNat == d.dtype && h.rop.toNat == d.rop && h.qf.toNat == d.qf && h.np.toNat == d.np &&
        h.root.toNat == d.root && h.cnt.toNat == n then some (off, n) else none

/-- Bursts of a message, put together by ascending offset. -/
def joinParts (parts : List (Nat × List Byte)) : Nat → Nat → List Byte
  | 0, _ => []
  | f + 1, off => match parts.find? (fun p => p.1 == off && !p.2.isEmpty) with | none => [] | some p => p.2 ++ joinParts parts f (off + p.2.length)

/-- The message of a rank with one more burst. -/
def CollMsg.add (m : CollMsg) (h : CollHdr) (data : List Byte) : CollMsg :=
  { m with parts := m.parts.filter (fun p => p.1 != h.off.toNat) ++ [(h.off.toNat, data)], stamp := h.stamp,
           total := if h.last then some (h.off.toNat + data.length) else m.total }

/-- R320: the bytes of RBUF of a reduction whose contributions are all there. -/
def CollCmd.reduced (c : CollCmd) : List Byte :=
  let e := c.d.esize
  let vs := (List.range c.d.np).map (fun r => match c.got.find? (fun g => g.1 == r) with | some g => tableOf g.2 e c.plan.rlen | none => [])
  (List.range c.plan.rlen).flatMap (fun i => leBytes e (collReduce c.d.dtype c.d.rop (vs.map (fun v => entryOf v i))))

/-- A write of bytes, unless there are none. -/
def putWrite (a : DWord) (bs : List Byte) : List CollWrite := if bs.isEmpty then [] else [.put a bs]

/-- A rank's message is complete: its elements and stamp become writes; a reduction's result does when all have come (R320, R323). -/
def CollCmd.take (c : CollCmd) (m : CollMsg) (off : Nat) (bs : List Byte) : CollCmd :=
  let c1 := { c with got := c.got ++ [(m.rank, bs)], rx := c.rx.filter (fun x => x.rank != m.rank) }
  let st := if c.d.stmp == 0 then [] else [CollWrite.stamp m.rank m.stamp]
  if collReduces c.op then
    let all := c1.got.length == c1.plan.recvs.length
    { c1 with writes := c1.writes ++ st ++ (if all then putWrite c.d.rbuf c1.reduced else []) }
  else { c1 with writes := c1.writes ++ st ++ putWrite (c.d.rbuf + BitVec.ofNat 64 (off * c.d.esize)) bs }

/-- A burst reaches a running command: the status of its reply (R319, R463). A burst of a message that is complete already is only
acknowledged. -/
def State.collBurstIn (s : State) (e : Nat) (c : CollCmd) (h : CollHdr) (data : List Byte) : State × Byte :=
  match c.accepts h with
  | none => (s.stopColl e c 2 c.peers, 2)
  | some (off, n) =>
    let r := h.srank.toNat
    if c.got.any (fun g => g.1 == r) then (s, 0)
    else
      let m := ((c.rx.find? (fun x => x.rank == r)).getD { rank := r }).add h data
      let held := joinParts m.parts (m.parts.length + 1) 0
      if m.total == some held.length then
        match c.d.unwire n held with
        | none => (s.stopColl e c 2 c.peers, 2)
        | some bs => (s.updCollCmd e c.id (fun c => c.take m off bs), 0)
      else (s.updCollCmd e c.id (fun c => { c with rx := c.rx.filter (fun x => x.rank != r) ++ [m] }), 0)

/-- The bytes held in a staging area (R322). -/
def CollEngine.stagedBytes (x : CollEngine) : Nat := sumOf (x.staged.map (fun b => b.2.length))

/-- A BURST OR ABORT ARRIVES at an engine (R322, R324): the status of its reply. -/
def State.collArrive (s : State) (h : CollHdr) (data : List Byte) : State × Byte :=
  let e := h.eng.toNat
  let x := s.collEng e
  let mine := x.all.filter (fun c => c.known && !c.stopped && !c.statDone && c.d.cid == h.cid)
  if h.abort then
    let s1 := (s.noteAbort e h.cid).updColl e (fun x => { x with staged := x.staged.filter (fun b => b.1.cid != h.cid) })
    (mine.foldl (fun s c => s.stopColl e c 0x12 c.abortTo) s1, 0)
  else
    match mine.find? (fun c => c.running) with
    | some c => s.collBurstIn e c h data
    | none =>
      if x.aborts.contains h.cid then (s, 0x12)
      else if 262144 < x.stagedBytes + data.length then (s, 0xFE)
      else (s.updColl e (fun x => { x with staged := x.staged ++ [(h, data)] }), 0)

/-! ## Starting (R318, R322, R323) -/

/-- The bursts of a message of `len` bytes on the wire (R463): up to 256 bytes each, and one without data for a pair without any. -/
def cutBursts (hdr : CollHdr) (peer first seg len : Nat) : Nat → Nat → List CollBurst
  | 0, _ => []
  | f + 1, off =>
    let last := decide (len ≤ off + 256)
    { peer := peer, hdr := { hdr with off := BitVec.ofNat 32 off, last := last }, first := first, seg := seg, n := Nat.min 256 (len - off) } ::
      (if last then [] else cutBursts hdr peer first seg len f (off + 256))

/-- The messages of a command (R319, R322). -/
def CollCmd.messages (c : CollCmd) (e : Nat) : List CollBurst :=
  let d := c.d
  c.plan.sends.flatMap (fun x =>
    let seg := x.2.2 * d.esize
    let hdr : CollHdr :=
      { eng := BitVec.ofNat 1 e, cid := d.cid, op := BitVec.ofNat 8 c.op, dtype := BitVec.ofNat 8 d.dtype, rop := BitVec.ofNat 8 d.rop,
        qf := BitVec.ofNat 8 d.qf, np := BitVec.ofNat 16 d.np, srank := BitVec.ofNat 16 d.rank, root := BitVec.ofNat 16 d.root,
        abort := false, last := false, cnt := BitVec.ofNat 32 x.2.2, off := 0, stamp := c.stamp }
    let len := d.wireLen seg
    cutBursts hdr x.1 (x.2.1 * d.esize) seg len (len / 256 + 1) 0)

/-- The exchange begins: the messages are ready to be sent, and what was staged for the CID is taken in (R322). -/
def State.collRun (s : State) (e : Nat) (c : CollCmd) : State :=
  let c1 := { c with phase := .running, tx := c.messages e }
  let s1 := s.updCollCmd e c.id (fun _ => c1)
  let held := (s.collEng e).staged.filter (fun b => b.1.cid == c.d.cid)
  let s2 := s1.updColl e (fun x => { x with staged := x.staged.filter (fun b => b.1.cid != c.d.cid) })
  held.foldl (fun s b =>
    match s.collCmd? e c.id with
    | some (_, c) => if c.running then (s.collBurstIn e c b.1 b.2).1 else s
    | none => s) s2

/-- A list without repeats. -/
def distinct : List Nat → Bool
  | [] => true
  | a :: l => !l.contains a && distinct l

/-- A command comes to its next phase with what it has read, and goes on there. -/
def State.collPhase (s : State) (e : Nat) (c : CollCmd) (k : State → CollCmd → State) : State := k (s.updCollCmd e c.id (fun _ => c)) c

/-- The sequence word is read, and the exchange begins (R323). -/
def State.collSeqw (s : State) (e : Nat) (c : CollCmd) : State :=
  s.withRead e c c.d.seqw (if c.d.seqw == 0 then 0 else 8) (fun s x => s.stopColl e c x c.abortTo) (fun s w =>
    s.collRun e { c with stamp := BitVec.ofNat 64 (leNat w) })

/-- R318: steps 5 and 6 over the buffers, then the abort list (R324). -/
def State.collBuffers (s : State) (e : Nat) (c : CollCmd) : State :=
  let d := c.d
  let carve := (s.coreAt c.core).carve
  let p := c.plan
  let sn := p.slen * d.esize
  let rn := p.rlen * d.esize
  let meets := sn != 0 && rn != 0 && decide (d.sbuf.toNat < d.rbuf.toNat + rn) && decide (d.rbuf.toNat < d.sbuf.toNat + sn)
  if !((sn == 0 || rowOk carve true d.sbuf.toNat sn) && (rn == 0 || rowOk carve true d.rbuf.toNat rn)) then s.stopColl e c 4 c.others
  else if meets && !(c.op == 4 && d.rbuf == d.sbuf) then s.stopColl e c 2 c.others
  else if (s.collEng e).aborts.contains d.cid then s.stopColl e c 0x12 c.peers
  else s.collPhase e { c with phase := .seqw } (fun s c => s.collSeqw e c)

/-- R318 step 4: the count table. -/
def State.collCounts (s : State) (e : Nat) (c : CollCmd) : State :=
  let n := c.d.nCounts c.op
  s.withRead e c c.d.cnts (4 * n) (fun s x => s.stopColl e c x c.abortTo) (fun s cb => s.collBuffers e { c with counts := tableOf cb 4 n })

/-- R318 step 4: the PERM table, of a PERMUTE. -/
def State.collPerm (s : State) (e : Nat) (c : CollCmd) : State :=
  let bad := fun (s : State) x => s.stopColl e c x c.abortTo
  s.withRead e c c.d.perm (if c.op = 4 then 2 * c.d.np else 0) bad (fun s pb =>
    let perm := if c.op = 4 then tableOf pb 2 c.d.np else []
    if !(distinct perm && perm.all (fun r => decide (r < c.d.np))) then bad s 2
    else s.collPhase e { c with perm := perm, phase := .counts } (fun s c => s.collCounts e c))

/-- R318 step 4: the rank table. -/
def State.collRanks (s : State) (e : Nat) (c : CollCmd) : State :=
  let bad := fun (s : State) x => s.stopColl e c x c.abortTo
  s.withRead e c c.d.grp (2 * c.d.np) bad (fun s gb =>
    let ranks := tableOf gb 2 c.d.np
    if !(distinct ranks && ranks.all (fun r => decide (r < 4096))) then bad s 2
    else s.collPhase e { c with ranks := ranks, phase := .perm } (fun s c => s.collPerm e c))

/-- R318: the descriptor, and steps 1 to 3. -/
def State.collDescriptor (s : State) (e : Nat) (c : CollCmd) : State :=
  s.withRead e c c.addr 128 (fun s x => s.stopColl e c x c.abortTo) (fun s bs =>
    let d := CollDesc.decode bs
    s.collPhase e { c with d := d, phase := .ranks } (fun s c =>
      if !d.fieldsOk c.op bs then s.stopColl e c 2 c.abortTo
      else if !d.aligned then s.stopColl e c 3 c.abortTo
      else if !d.tablesIn (s.coreAt c.core).carve c.op then s.stopColl e c 4 c.abortTo
      else s.collRanks e c))

/-- COLL_START (R317, R318, R322): the head of a queue starts: its descriptor and tables are read and checked in order. While a read is
not at hand the start is not over, and goes on there. -/
def execCollStart (eng : Fin 2) (q : Fin 8) (s : State) : Host.Outcome State Fault Refusal :=
  let e := eng.val
  .next (
    match ((s.collEng e).queue q.val).head? with
    | none => s
    | some c =>
      let released := s.afterDone c.after
      if !s.enginesRun || !released || c.stopped || c.statDone || c.stalled.isSome || c.away != 0 then s
      else
        match c.phase with
        | .waiting | .descriptor => s.collPhase e { c with phase := .descriptor } (fun s c => s.collDescriptor e c)
        | .ranks => s.collRanks e c
        | .perm => s.collPerm e c
        | .counts => s.collCounts e c
        | .seqw => s.collSeqw e c
        | .running => s)

/-! ## Bursts -/

/-- A write of bytes on behalf of a command: it waits for HK2, stops the command, is sent, or is made. -/
def State.collPut (s : State) (e : Nat) (c : CollCmd) (a : DWord) (bs : List Byte) : State :=
  let rec go (s : State) : List Piece → State
    | [] => s.updCollCmd e c.id (fun c => { c with writes := c.writes.drop 1 })
    | p :: ps =>
      match s.collPlace c p.dst p.n false true with
      | .place w =>
        let here := (bs.drop (p.dst - a).toNat).take p.n
        (match w.home with
         | .remote dev va =>
           go ((s.request (.coll e c.id collWriteMark p.dst.toNat) 2 2 dev (BitVec.ofNat 64 va) (.write here .plain)).updCollCmd e c.id
             (fun c => { c with away := c.away + 1 })) ps
         | h =>
           match (s.countAccess (dieOf c.core) w c.part p.dst.toNat).writeHome h here with
           | (s1, none) => go s1 ps
           | (s1, some x) => s1.stopColl e c x c.peers)
      | .bad x => s.stopColl e c x c.peers
      | .stall va => match deniedAt c.denied va.1 with | some x => s.stopColl e c x c.peers | none => s.stallColl e c va
  go s (localPieces a bs.length 256)

/-- R323: a received stamp: with CHECK it is compared with the table's entry first. -/
def State.collStamp (s : State) (e : Nat) (c : CollCmd) (r : Nat) (v : DWord) : State :=
  let a := c.d.stmp + BitVec.ofNat 64 (8 * r)
  if c.d.flg / 2 % 2 = 0 then s.collPut e c a (leBytes 8 v.toNat)
  else
    s.withRead e c a 8 (fun s x => s.stopColl e c x c.peers) (fun s bs =>
      let differs := BitVec.ofNat 64 (leNat bs) != v
      let c1 := { c with stale := c.stale || differs, frank := if differs then Nat.min c.frank r else c.frank }
      match s.collPlace c a 8 false true with
      | .stall va => (match deniedAt c.denied va.1 with | some x => s.stopColl e c x c.peers | none => s.stallColl e c va)
      | _ => (s.updCollCmd e c.id (fun _ => c1)).collPut e c1 a (leBytes 8 v.toNat))

/-- R322: the circuit over which an engine can send to a device: bound to one of its queues, open, and with that peer. -/
def State.collCircuit (s : State) (e : Nat) (dev : BitVec 12) : Option (Nat × Nat) :=
  s.cp.binds.findSome? (fun b =>
    if b.eng = 32 + e then
      (match s.circuitOf b.eng b.queue with
       | some p => if s.peerDev p == some dev then some (p, b.queue) else none
       | none => none)
    else none)

/-- R299: a command sends nothing while a request of it waits to be sent again. -/
def State.collHeld (s : State) (e : Nat) (c : CollCmd) : Bool :=
  s.lodge.outs.any (fun r => r.phase == 2 && (match r.owner with | .coll e1 id .. => e1 == e && id == c.id | _ => false))

/-- A burst may be sent: at most 16 per peer are in flight on the packet plane and 1,024 on a circuit (R463), where its queue has its turn in the
window (R353). -/
def State.maySend (s : State) (e : Nat) (c : CollCmd) (b : CollBurst) : Bool :=
  let dev := BitVec.ofNat 12 (entryOf c.ranks b.peer)
  let path := if c.d.flg % 2 == 1 && b.peer != c.d.rank then s.collCircuit e dev else none
  let flying := (c.tx.filter (fun x => x.peer == b.peer && x.sent && x.circ == path.isSome)).length
  !b.sent && decide (flying < if path.isSome then 1024 else 16) &&
    (match path with | some (p, q) => s.windowTurn p == some (8 * (32 + e) + q) | none => true)

/-- The next burst that may be sent. -/
def State.nextCollBurst (s : State) (e : Nat) (c : CollCmd) : Option CollBurst := c.tx.find? (s.maySend e c)

/-- A PERMUTE in place (R318) writes nothing before all it sends has been read. -/
def CollCmd.mayWrite (c : CollCmd) : Bool := !(c.op == 4 && c.d.sbuf == c.d.rbuf) || c.tx.all (fun b => b.sent)

/-- A command has a step to make: a write, or a burst that may be sent. -/
def State.collReady (s : State) (e : Nat) (c : CollCmd) : Bool :=
  c.running && !c.stopped && c.stalled.isNone && !s.collHeld e c &&
    ((!c.writes.isEmpty && c.mayWrite && c.away == 0) || (s.nextCollBurst e c).isSome)

/-- R463: a burst leaves with its bytes: to this rank itself it is received at once; otherwise over a circuit when there is one (R322), else on T2. -/
def State.collLeave (s : State) (e : Nat) (c : CollCmd) (b : CollBurst) (data : List Byte) : State :=
  let dev := BitVec.ofNat 12 (entryOf c.ranks b.peer)
  let same := fun (x : CollBurst) => x.peer == b.peer && x.hdr.off == b.hdr.off
  if b.peer = c.d.rank then
    let c1 := { c with tx := c.tx.filter (fun x => !same x) }
    ((s.updCollCmd e c.id (fun _ => c1)).collBurstIn e c1 b.hdr data).1
  else
    let mark := fun (s : State) circ => s.updCollCmd e c.id (fun c => { c with tx := c.tx.map (fun x => if same x then { x with sent := true, circ := circ } else x) })
    let own := ReqOwner.coll e c.id b.peer b.hdr.off.toNat
    let addr := b.hdr.cid.zeroExtend 64
    let body := Body.coll b.hdr data
    match (if c.d.flg % 2 = 1 then s.collCircuit e dev else none) with
    | some (p, q) =>
      let s1 := s.updPort p (fun x => { x with turn := 8 * (32 + e) + q })
      (match s1.sendFrame p (32 + e) q own dev addr body with | (s2, true) => mark s2 true | (_, false) => s1)
    | none =>
      if s.lodge.outs.any (fun r => r.owner == own) then s
      else mark (s.request own 2 2 dev addr body) false

/-- R324, R463: a burst's bytes are read from SBUF, where a page fault stalls the command at the message's byte offset, and it leaves. -/
def State.collSend (s : State) (e : Nat) (c : CollCmd) (b : CollBurst) : State :=
  let r := c.d.wireFrom b.seg b.hdr.off.toNat b.n
  s.withRead e c (c.d.sbuf + BitVec.ofNat 64 (b.first + r.1)) (if b.n = 0 then 0 else r.2) (fun s x => s.stopColl e c x c.peers) (fun s bs =>
    s.collLeave e c b (if b.n = 0 then [] else c.d.wire b.hdr.off.toNat b.n bs))

/-- One step of a running command: its oldest write, or else its next burst. -/
def State.collStep (s : State) (e : Nat) (c : CollCmd) : State :=
  match (if c.mayWrite && c.away == 0 then c.writes else []) with
  | .put a bs :: _ => s.collPut e c a bs
  | .stamp r v :: _ => s.collStamp e c r v
  | [] => match s.nextCollBurst e c with | none => s | some b => s.collSend e c b

/-- R317: the queue that a collective engine serves next. -/
def State.nextCollQueue (s : State) (e : Nat) : Option Nat :=
  nextInTurn (s.collEng e).turn 8 (fun q => ((s.collEng e).queue q).head?.any (s.collReady e))

/-- R317: a collective engine's queue whose turn it is makes a step of its command. -/
def State.collBurst (s : State) (e q : Nat) : State :=
  match ((s.collEng e).queue q).head? with
  | none => s
  | some c => if !s.enginesRun || s.nextCollQueue e != some q then s else (s.updColl e (fun x => { x with turn := q })).collStep e c

/-- ENGINE_BURST (R269, R463): engines 0 to 31 are the copy engines, 32 and 33 the collective engines. -/
def execEngineBurst (eng : Fin 34) (q : Fin 8) (s : State) : Host.Outcome State Fault Refusal :=
  .next (if eng.val < 32 then (if s.enginesRun then s.copyBurst eng.val q.val else s) else s.collBurst (eng.val - 32) q.val)

/-- R286, R324: HK2 answers a collective's page: the command goes on, or meets the cause when it comes to the address again. -/
def State.collAnswer (s : State) (e q : Nat) : State :=
  match ((s.collEng e).queue q).head? with
  | none => s
  | some c =>
    match c.stalled with
    | none => s
    | some va =>
      match s.hk2Answer c.part va.1 (!va.2) va.2 with
      | none => s
      | some none => s.updCollCmd e c.id (fun c => { c with stalled := none })
      | some (some x) => s.updCollCmd e c.id (fun c => { c with stalled := none, denied := some (va.1, x) })

/-- COPY_FAULT_ANSWER (R286): for a copy engine's queue, or a collective engine's (32 and 33). -/
def execCopyFaultAnswer (eng : Fin 34) (q : Fin 8) (s : State) : Host.Outcome State Fault Refusal :=
  .next (if eng.val < 32 then s.copyAnswer eng.val q.val else s.collAnswer (eng.val - 32) q.val)

/-! ## Replies, timeout and completion -/

/-- A reply arrives for a collective's request (R319, R322, R324). -/
def State.collReply (s : State) (e id peer off : Nat) (status : Byte) (data : List Byte) : State :=
  match s.collCmd? e id with
  | none => s
  | some (_, c) =>
    if peer = collReadMark then
      s.updCollCmd e id (fun c =>
        { c with away := c.away - 1, cache := if status == 0 then cacheBytes c.cache off data else c.cache,
                 denied := if status == 0 then c.denied else some (BitVec.ofNat 64 off, status) })
    else if peer = collWriteMark then
      let c1 := { c with away := c.away - 1 }
      let s1 := s.updCollCmd e id (fun _ => c1)
      if status == 0 || c.stopped then (if c.statDone && c.err == 0 then s1.updCollCmd e id (fun c => { c with err := status }) else s1)
      else if c.statDone then s1.updCollCmd e id (fun c => { c with err := if c.err == 0 then status else c.err })
      else s1.stopColl e c1 status c.peers
    else if c.stopped then s
    else if status == 0 then s.updCollCmd e id (fun c => { c with tx := c.tx.filter (fun b => !(b.peer == peer && b.hdr.off.toNat == off)) })
    else s.stopColl e c status c.peers

/-- COLL_TIMEOUT (R324): a command with a TMO that has not completed stops. -/
def execCollTimeout (eng : Fin 2) (q : Fin 8) (s : State) : Host.Outcome State Fault Refusal :=
  let e := eng.val
  .next (
    match ((s.collEng e).queue q.val).head? with
    | none => s
    | some c => if c.known && c.d.tmo != 0 && !c.stopped && !c.statDone then s.stopColl e c 0x12 c.abortTo else s)

/-- R322: every RBUF byte has been written and every message acknowledged, or the command has stopped; nothing of it is in flight. -/
def CollCmd.exchanged (c : CollCmd) : Bool :=
  c.away == 0 && c.stalled.isNone &&
  (c.stopped || (c.running && c.tx.isEmpty && c.writes.isEmpty && c.got.length == c.plan.recvs.length))

/-- R323: the value of STAT. -/
def CollCmd.stat (c : CollCmd) : Nat := c.frank * 2 ^ 32 + c.err.toNat * 256 + (if c.stale then 2 else 0) + 1

/-- COLL_COMPLETE (R323, R271): STAT is written, which an unmapped or forbidden page abandons, and the command completes on its token. -/
def execCollComplete (eng : Fin 2) (q : Fin 8) (s : State) : Host.Outcome State Fault Refusal :=
  let e := eng.val
  .next (
    match ((s.collEng e).queue q.val).head? with
    | none => s
    | some c =>
      let fin := fun (s : State) (err : Byte) =>
        (s.updColl e (fun x => { x with q := Tab.put [] x.q q.val ((x.queue q.val).filter (fun d => d.id != c.id)) })).ownerDone c.owner
          (if c.err == 0 then err else c.err)
      if !c.exchanged then s
      else if c.statDone then fin s 0
      else
        match s.collPlace c (c.addr + 120) 8 false true with
        | .bad x => fin s x
        | .stall va => (match deniedAt c.denied va.1 with | some x => fin s x | none => s.stallColl e c va)
        | .place p =>
          match p.home with
          | .remote dev va =>
            (s.request (.coll e c.id collWriteMark (c.addr + 120).toNat) 2 2 dev (BitVec.ofNat 64 va) (.write (leBytes 8 c.stat) .plain)).updCollCmd
              e c.id (fun c => { c with away := c.away + 1, statDone := true })
          | h => match s.writeHome h (leBytes 8 c.stat) with | (s1, none) => fin s1 0 | (s1, some x) => fin s1 x)

/-- R289, R402: the commands of a launch stop without completing, and send their aborts (R324). -/
def State.killColl (s : State) (mine : Owner → Bool) : State :=
  (List.range 2).foldl (fun s e =>
    let dead := (s.collEng e).all.filter (fun c => mine c.owner)
    (dead.foldl (fun s c => if c.stopped then s else s.sendAborts e c c.abortTo) s).updColl e (fun x =>
      { x with q := (x.q.map (fun b => (b.1, b.2.filter (fun c => !mine c.owner)))).filter (fun b => !b.2.isEmpty) })) s

end Sys2Proof.Machine
end

