-- ==== Sys2Proof/Machine/Welt.lean ====
section
/-! DEFINITION. The Welt engines at work: appending gradient records and folding them into their buffers, and the host's FOLD-WAIT
(R374, R385 to R391). -/

namespace Sys2Proof.Machine
open Sys2Proof

/-! ## Arithmetic (R391) -/

/-- The flags that a fold leaves in a state word. -/
structure FoldFlags where
  ovf : Bool := false
  aof : Bool := false
  unf : Bool := false
  deriving DecidableEq, Repr

/-- R391: scl(x, k). -/
def foldScale (x : Nat) (k : Int) : Nat × FoldFlags :=
  match fp32.value x with
  | .nan _ => (fp32.nan, {})
  | .inf _ => (x, {})
  | .fin neg m e =>
    if m = 0 then (x, {})
    else
      let r := fp32.round .rne true neg m (e + k)
      let big := r.2 &&& flagOF != 0
      (r.1, { ovf := big, unf := !big && r.2 &&& flagNX != 0 })

/-- R391: one element of a data record added to an accumulator. -/
def foldAdd (acc v : Nat) (k : Int) : Nat × FoldFlags :=
  let x := foldScale v k
  let r := fp32.add .rne acc x.1
  (r.1, { x.2 with aof := r.2 &&& flagOF != 0 })

/-- Flags together. -/
def FoldFlags.or (a b : FoldFlags) : FoldFlags := { ovf := a.ovf || b.ovf, aof := a.aof || b.aof, unf := a.unf || b.unf }

/-- R386: a state word with a new exponent and flags added to its own. -/
def stateWord (old : Nat) (e : Int) (f : FoldFlags) : Nat :=
  (BitVec.ofInt 8 e).toNat + (if f.ovf || old / 256 % 2 == 1 then 256 else 0) + (if f.aof || old / 512 % 2 == 1 then 512 else 0) +
  (if f.unf || old / 1024 % 2 == 1 then 1024 else 0)

/-- R391: one record folded into a tile: the accumulator's 512 values and the state word. -/
def foldRecord (acc : List Nat) (st : Nat) (q : GRec) : List Nat × Nat :=
  let e := (BitVec.ofNat 8 st).toInt
  let rs :=
    if q.kind = 2 then acc.map (fun a => foldScale a (q.esc - e))
    else (acc.zip q.data).map (fun p => foldAdd p.1 p.2.toNat (e - q.esc))
  (rs.map Prod.fst, stateWord st (if q.kind = 2 then q.esc else e) ((rs.map Prod.snd).foldl FoldFlags.or {}))

/-! ## Order (R386, R391) -/

/-- R386: a record's producer key comes before another's. -/
def GRec.before (a b : GRec) : Bool :=
  if a.lseq != b.lseq then decide (a.lseq < b.lseq)
  else if a.wg != b.wg then decide (a.wg < b.wg)
  else if a.tid != b.tid then decide (a.tid < b.tid)
  else decide (a.rseq < b.rseq)

/-- A record put in its place among records in key order. -/
def insertRec (a : GRec) : List GRec → List GRec
  | [] => [a]
  | b :: l => if a.before b then a :: b :: l else b :: insertRec a l
/-- Records in ascending key. -/
def sortRecs : List GRec → List GRec
  | [] => []
  | a :: l => insertRec a (sortRecs l)

/-- R391: the folds of a list of records in order: tile and record. Each RCB's records go into the buffer that it gave their launches (R362,
R386); an RCB without a buffer has no tile. -/
def foldSteps (rs : List GRec) : List (Nat × GRec) :=
  let qs := sortRecs rs
  ((qs.map (fun q => (q.rcb, q.buf))).eraseDups).flatMap (fun c =>
    (List.range (match c.2 with | some (_, n) => n | none => 0)).flatMap (fun t =>
      (qs.filter (fun q => q.rcb == c.1 && q.buf == c.2 && (q.kind == 2 || q.tile == t))).map (fun q => (t, q))))

/-- R386: the accumulation buffer and the state word of a tile on a die. -/
def gradAddrs (gacc : DWord) (gnt die t : Nat) : DWord × DWord :=
  (gacc + BitVec.ofNat 64 (2048 * (die * gnt + t)), gacc + BitVec.ofNat 64 (2048 * 8 * gnt + 8 * (die * gnt + t)))

/-! ## Reading and writing -/

/-- Changes a command of a die's Welt engine. -/
def State.updWeltCmd (s : State) (die id : Nat) (f : WeltCmd → WeltCmd) : State :=
  s.updWelt die (fun x => { x with q := x.q.map (fun c => if c.id == id then f c else c) })

/-- The command comes from a thread, so it has a local slice. -/
def WeltCmd.hasSlice (c : WeltCmd) : Bool := match c.owner with | .token .. => true | _ => false
/-- A command's reader. -/
def WeltCmd.reader (c : WeltCmd) : Reader := ⟨c.part, c.core, c.hasSlice, c.cache, c.denied⟩

/-- How Welt's access goes on: with a value, with a cause, or later. -/
inductive WeltGot (A : Type) where
  | got (a : A)
  | bad (cause : Byte)
  | later (s : State)

/-- A page that a command meets and cannot use: HK2 is asked, and once it has answered the command goes on or stops (R286). -/
def State.weltPage {A : Type} (s : State) (die : Nat) (c : WeltCmd) (va : DWord × Bool) : WeltGot A :=
  if !c.stalled then .later ((s.notify c.part va.1).updWeltCmd die c.id (fun c => { c with stalled := true }))
  else match s.hk2Answer c.part va.1 (!va.2) va.2 with | some (some x) => .bad x | _ => .later s

/-- A read of `n` bytes for a command. -/
def State.weltRead (s : State) (die : Nat) (c : WeltCmd) (a : DWord) (n : Nat) : WeltGot (List Byte) :=
  match s.farRead c.reader a n with
  | .bytes bs => .got bs
  | .bad x => .bad x
  | .stall va => s.weltPage die c va
  | .away rs => .later (rs.foldl (fun s r =>
      (s.request (.welt die c.id r.2.2.src.toNat true) 2 0 r.1 (BitVec.ofNat 64 r.2.1) (.read r.2.2.n .plain)).updWeltCmd die c.id
        (fun c => { c with away := c.away + 1 })) s)

/-- R214: a Welt engine's accesses to a range are counted on its die. -/
def State.weltCount (s : State) (die : Nat) (c : WeltCmd) (a : DWord) (n : Nat) : State := s.countRange die c.part c.core c.hasSlice true false a n

/-- The first page among pieces that a command may not write. -/
def State.weltBlocked (s : State) (c : WeltCmd) (ps : List Piece) : Option (Except Byte (DWord × Bool)) :=
  ps.findSome? (fun p =>
    match s.engPlace c.part c.core c.hasSlice p.dst p.n true true with
    | .bad x => some (.error x)
    | .stall va => some (.ok va)
    | .place w => if s.refusedAt w.home p.n then some (.error 6) else none)

/-- Writes bytes that have been found writable: here, or to another device, and to the bytes the command keeps of it. -/
def State.weltWrite (s : State) (die : Nat) (c : WeltCmd) (a : DWord) (bs : List Byte) : State :=
  (localPieces a bs.length 256).foldl (fun s p =>
    let here := (bs.drop (p.dst - a).toNat).take p.n
    match s.engPlace c.part c.core c.hasSlice p.dst p.n false true with
    | .place w =>
      (match w.home with
       | .remote dev va =>
         (s.request (.welt die c.id p.dst.toNat false) 2 2 dev (BitVec.ofNat 64 va) (.write here .plain)).updWeltCmd die c.id
           (fun c => { c with away := c.away + 1, cache := cacheBytes c.cache p.dst.toNat here })
       | h => (s.writeHome h here).1)
    | _ => s) s

/-- A reply arrives for a Welt command's request. -/
def State.weltReply (s : State) (die id off : Nat) (rd : Bool) (status : Byte) (data : List Byte) : State :=
  s.updWeltCmd die id (fun c =>
    { c with away := c.away - 1, cache := if rd && status == 0 then cacheBytes c.cache off data else c.cache,
             denied := if status == 0 then c.denied else if rd then some (BitVec.ofNat 64 off, status) else c.denied,
             ended := if !rd && status != 0 then some status else c.ended })

/-! ## Completion -/

/-- A fold that a FOLD-WAIT queued is over: with its last one the command completes, with the first cause (R374). -/
def State.foldOver (s : State) (n i id : Nat) (err : Byte) : State :=
  match (s.ring n).act.find? (fun a => a.idx == i) with
  | some a =>
    (match a.wait with
     | .folds ids st =>
       let rest := ids.filter (fun x => x != id)
       let st1 := if st == 0 then err else st
       if rest.isEmpty then s.complete n i st1 0 0 else s.setWait n i (.folds rest st1)
     | _ => s)
  | none => s

/-- A command leaves its queue and its completion reaches its owner (R271, R390). -/
def State.weltDone (s : State) (die : Nat) (c : WeltCmd) (err : Byte) : State :=
  let s1 := s.updWelt die (fun x => { x with q := x.q.filter (fun d => d.id != c.id) })
  match c.owner with
  | .host n i => s1.foldOver n i c.id err
  | o => s1.ownerDone o err

/-! ## GLOG_APPEND (R388) -/

/-- The earlier stores of the command's thread are acknowledged (R230). -/
def State.weltReleased (s : State) (c : WeltCmd) : Bool := s.afterDone c.after

/-- The first command of a queue of a kind, if no command before it waits for a page (assumption 25). -/
def weltNext (p : WeltCmd → Bool) : List WeltCmd → Option WeltCmd
  | [] => none
  | c :: cs => if p c then some c else if c.stalled then none else weltNext p cs

/-- A GLOG's reservation of a place is over: its record takes the place, or nothing does. -/
def Welt.freed (w : Welt) (place : Nat) : Welt := { w with reserved := w.reserved.filter (fun k => k != place) }

/-- GLOG_APPEND (R388): Welt reads the oldest GLOG's source and appends its record, or releases its place. -/
def execGlogAppend (die : Fin 8) (s : State) : Host.Outcome State Fault Refusal :=
  let d := die.val
  .next (
    match weltNext (fun c => match c.kind with | .glog .. => true | _ => false) (s.weltOf d).q with
    | none => s
    | some c =>
      match c.kind with
      | .fold .. => s
      | .glog r src =>
        if !s.enginesRun || !s.weltReleased c || c.away != 0 then s
        else
          let tiles := match r.buf with | some (_, n) => n | none => 0
          let stop := fun (x : Byte) => (s.updWelt d (fun w => w.freed r.place)).weltDone d c x
          if tiles ≤ r.tile then stop 2
          else
            match s.weltRead d c src 2048 with
            | .bad x => stop x
            | .later s1 => s1
            | .got bs =>
              let data := (List.range 512).map (fun i => BitVec.ofNat 32 (fieldAt bs (4 * i) 4))
              (((s.weltCount d c src 2048).updWelt d (fun w => w.freed r.place)).appendRecord d { r with data := data }).weltDone d c 0)

/-! ## WELT_FOLD (R390, R391) -/

/-- R391: every launch of the partition through S has completed. -/
def State.launchesThrough (s : State) (part sq : Nat) : Bool := s.launches.all (fun l => l.part != part || decide (sq < l.lseq))

/-- The records of a die's ring through S. -/
def Welt.through (w : Welt) (sq : Nat) : List GRec := w.ring.filter (fun q => decide (q.lseq ≤ sq))

/-- How far a fold came: done, stopped, or later. -/
inductive FoldEnd where
  | done (s : State)
  | stop (s : State) (cause : Byte)
  | later (s : State)

/-- The folds of a command from a position on, one record and tile after another. -/
def State.foldFrom (s : State) (die : Nat) (id : Nat) (pos : Nat) : List (Nat × GRec) → FoldEnd
  | [] => .done s
  | (t, q) :: rest =>
    match (s.weltOf die).q.find? (fun c => c.id == id) with
    | none => .later s
    | some c =>
      match q.buf with
      | none => .stop s 2
      | some (gacc, gnt) =>
        let a := gradAddrs gacc gnt die t
        match s.weltBlocked c (localPieces a.1 2048 256 ++ localPieces a.2 8 256) with
        | some (.error x) => .stop s x
        | some (.ok va) => (match s.weltPage (A := Unit) die c va with | .bad x => .stop s x | .later s1 => .later s1 | .got _ => .later s)
        | none =>
          match s.weltRead die c a.1 2048 with
          | .bad x => .stop s x
          | .later s1 => .later s1
          | .got ab =>
            match s.weltRead die c a.2 8 with
            | .bad x => .stop s x
            | .later s1 => .later s1
            | .got sb =>
              let r := foldRecord ((List.range 512).map (fun i => fieldAt ab (4 * i) 4)) (leNat sb) q
              let s1 := (((s.weltCount die c a.1 2048).weltCount die c a.2 8).weltWrite die c a.1 (r.1.flatMap (leBytes 4))).weltWrite die c a.2 (leBytes 8 r.2)
              (s1.updWeltCmd die id (fun c => { c with pos := pos + 1, stalled := false })).foldFrom die id (pos + 1) rest

/-- WELT_FOLD (R390, R391): once every launch through S has completed, the oldest fold folds the ring's records in order. It stops or waits
before the record that needs a page; records whose folds are all done are freed, and the fold completes when its writes are performed. -/
def execWeltFold (die : Fin 8) (s : State) : Host.Outcome State Fault Refusal :=
  let d := die.val
  .next (
    match weltNext (fun c => match c.kind with | .fold .. => true | _ => false) (s.weltOf d).q with
    | none => s
    | some c =>
      match c.kind with
      | .glog .. => s
      | .fold sq be bar =>
        if !s.enginesRun || !s.weltReleased c || c.away != 0 || !s.launchesThrough c.part sq then s
        else
          let fin := fun (s : State) (err : Byte) => (s.ownerBytes c.owner be bar 1).weltDone d c err
          match c.ended with
          | some x => fin s x
          | none =>
            let qs := (s.weltOf d).through sq
            let steps := foldSteps qs
            let freed := fun (s : State) (left : List (Nat × GRec)) =>
              s.updWelt d (fun w => { w with ring := w.ring.filter (fun q => !qs.contains q || left.any (fun x => x.2 == q)) })
            let endFold := fun (s : State) (x : Byte) =>
              if ((s.weltOf d).q.find? (fun e => e.id == c.id)).any (fun e => e.away != 0) then
                s.updWeltCmd d c.id (fun c => { c with ended := some x })
              else fin s x
            match s.foldFrom d c.id c.pos (steps.drop c.pos) with
            | .done s1 => endFold (freed s1 []) 0
            | .later s1 => s1
            | .stop s1 x =>
              let pos := match (s1.weltOf d).q.find? (fun e => e.id == c.id) with | some e => e.pos | none => 0
              endFold (freed s1 (steps.drop pos)) x)

/-! ## FOLD-WAIT (R374, R390) -/

/-- FOLD-WAIT: it queues a fold through SEQ on each named die's Welt; a die of another partition breaks the command (assumption 26). It
starts when those queues have room. -/
def execFoldWait (ring : Fin 64) (cmd : BitVec 512) (s : State) : Host.Outcome State Fault Refusal :=
  let n := ring.val
  let part := (s.ring n).part
  let dies := (List.range 8).filter (fun d => cmdField cmd 8 1 / 2 ^ d % 2 == 1)
  let ok := cmdHeader cmd 0 false && cmdZeros cmd [(8, 1), (16, 8)] && dies.all (fun d => s.dieParted d == part)
  .next (
    if ok && dies.any (fun d => decide (64 ≤ (s.weltOf d).q.length)) then s
    else
      s.hostCommand n cmd 7 ok (fun s i =>
        let ids := (List.range dies.length).map (fun k => s.ids + k)
        let s1 := (dies.zip ids).foldl (fun s x =>
          let c : WeltCmd := { id := x.2, part := part, core := 0, owner := .host n i, rcb := 0, kind := .fold (cmdField cmd 16 8) false 0 }
          (s.freshId.2).updWelt x.1 (fun w => { w with q := w.q ++ [c] })) s
        if dies.isEmpty then s1.complete n i 0 0 0 else s1.setWait n i (.folds ids 0)))

/-- R289, R402: the commands of a launch leave a die's queue, a GLOG with its place. -/
def State.killWelt (s : State) (mine : Owner → Bool) : State :=
  (List.range 8).foldl (fun s d =>
    let dead := (s.weltOf d).q.filter (fun c => mine c.owner)
    let places := dead.filterMap (fun c => match c.kind with | .glog q _ => some q.place | _ => none)
    if dead.isEmpty then s
    else s.updWelt d (fun w => { w with q := w.q.filter (fun c => !mine c.owner), reserved := w.reserved.filter (fun k => !places.contains k) })) s

end Sys2Proof.Machine
end

