-- ==== Sys2Proof/Machine/Endpoint.lean ====
section
/-! DEFINITION. The Lodge's local endpoint: packets that arrive for this device, what they do here, the answers to open requests and the
replies to this device's own, its states, links and island reset (R194, R292 to R307, R334, R344). -/

namespace Sys2Proof.Machine
open Sys2Proof

/-! ## Arrival and sequence (R293, R295, R305) -/

/-- A packet for this device leaves the Lodge's buffer. -/
def State.fromWire (s : State) (p : Packet) : State := { s with lodge := { s.lodge with wire := dropFirst (6, p) s.lodge.wire } }

/-- R295: a sequenced packet's number is compared with the expected one of its source and tier; a gap is counted once. -/
def State.seqCheck (s : State) (p : Packet) : State :=
  let k := p.src.toNat * 4 + p.tier.toNat
  let ok := p.first || p.seq.toNat == Tab.get 0 s.lodge.seqRx k
  { s with lodge := { s.lodge with seqRx := Tab.put 0 s.lodge.seqRx k ((p.seq.toNat + 1) % 65536),
                                   seqerr := if ok then s.lodge.seqerr else s.lodge.seqerr + 1 } }

/-- A packet is dropped and counted in ORPHCNT. -/
def State.orphaned (s : State) : State := { s with lodge := { s.lodge with orphcnt := s.lodge.orphcnt + 1 } }

/-- The Lodge answers a request for this device with ABSENT (R305). -/
def State.absentHere (s : State) (p : Packet) : State :=
  ({ s with lodge := { s.lodge with abscnt := s.lodge.abscnt + 1 } }).forwardAnswer 6 (absentFor s.devId p)

/-- R305: the Lodge can deliver to the endpoint: its open table has a place. -/
def State.canDeliver (s : State) : Bool := s.lodge.epst != 1 || decide (s.lodge.opens.length < 32768)

/-- R304: the rung of a reset that runs, and its target. -/
def State.resetNow (s : State) : Option (Nat × Nat) := if s.dev.resetting then s.dev.resets.head?.map (fun j => (j.rung, j.target)) else none

/-- R304: the partition EPART is under reset. -/
def State.epartResets (s : State) : Bool := match s.resetNow with | some (r, t) => (r == 3 || r == 5) && t == s.epart | none => false

/-- R304: a place lies in a die under reset. -/
def State.homeResets (s : State) (h : Home) : Bool :=
  match s.resetNow, h with
  | some (r, t), .slice c _ => r == 4 && dieOf c == t
  | some (r, t), .stacked d _ => r == 4 && d == t
  | _, _ => false

/-- The endpoint's answer to a request is ready. -/
def State.answerTo (s : State) (p : Packet) (status : Byte) (data : List Byte) : State := s.answer p.src p.tag p.tier status data

/-- A REQUEST ARRIVES (R295, R305): it is entered in the open table and performed, or answered with ABSENT; with a full table it waits.
While EPART holds no die (R424) or is under reset (R304) it is answered with STATUS 0x12. -/
def State.deliverReq (s : State) (p : Packet) (ty : BitVec 4) (k : State → State) : State :=
  if p.dst != s.devId || p.type != ty || !s.canDeliver then s
  else
    let s1 := (s.fromWire p).seqCheck p
    if s1.lodge.epst != 1 then s1.absentHere p
    else
      let s2 := { s1 with lodge := { s1.lodge with opens := s1.lodge.opens ++ [OpenReq.mk p none] } }
      if (s2.diesOf s2.epart).isEmpty || s2.epartResets then s2.answerTo p 0x12 [] else k s2

/-- A CIRCUIT or GANG packet arrives (R295, R305). -/
def State.deliverMsg (s : State) (p : Packet) (ty : BitVec 4) (k : State → State) : State :=
  if p.dst != s.devId || p.type != ty || !s.canDeliver then s
  else
    let s1 := (s.fromWire p).seqCheck p
    if s1.lodge.epst != 1 then s1.orphaned else k s1

/-! ## Places (R195, R213, R294, R424) -/

/-- R195, R294: the place of bytes that a request names, in the partition EPART: past the window 0x04, unmapped or REMOTE 0x06, forbidden
0x05, in a die under reset 0x12 (R304); an on-demand page is told to HK2 and answered 0xFE (R299). -/
def State.epHome (s : State) (va n : Nat) (rd wr : Bool) : State × Except Byte Home :=
  if 2 ^ 56 < va + n then (s, .error 4)
  else
    match s.translateAgent s.epart va with
    | .unmapped => (s, .error 6)
    | .onDemand => (s.notify s.epart (BitVec.ofNat 64 va), .error 0xFE)
    | .mapped e size =>
      let h := pteHome e (sizeShift size) va
      if h.isRemote then (s, .error 6)
      else if !pteAllows e rd wr then (s, .error 5)
      else if s.homeResets h then (s, .error 0x12)
      else (s.touch h n, .ok h)

/-- The places of a range, page by page, with the bytes in each. -/
def State.epSpans (s : State) (rd wr : Bool) : List (DWord × Nat) → State × Except Byte (List (Home × Nat))
  | [] => (s, .ok [])
  | (va, n) :: r =>
    match s.epHome va.toNat n rd wr with
    | (s1, .error x) => (s1, .error x)
    | (s1, .ok h) =>
      match s1.epSpans rd wr r with
      | (s2, .error x) => (s2, .error x)
      | (s2, .ok l) => (s2, .ok ((h, n) :: l))

/-- The places of a request's range. -/
def State.epRange (s : State) (va : DWord) (n : Nat) (rd wr : Bool) : State × Except Byte (List (Home × Nat)) :=
  if 2 ^ 56 < va.toNat + n then (s, .error 4) else s.epSpans rd wr (pageSpans va n)

/-- Goes on with a request's place, or answers its cause. -/
def State.withPlace (s : State) (p : Packet) (n : Nat) (rd wr : Bool) (k : State → Home → State) : State :=
  match s.epHome p.addr.toNat n rd wr with
  | (s1, .error x) => s1.answerTo p x []
  | (s1, .ok h) => k s1 h

/-! ## Tagged words at this device's tag units (R217) -/

/-- A tagged word fails at its home. -/
def State.tagRefuse (s : State) (w : TagWait) (cause : Byte) : State :=
  match w.who with
  | .result t id _ _ => s.tagFailed t id cause
  | .tagStore t a => (s.storeFailed t cause (sectorOf a)).completeWord t
  | .peer src tag tier => s.answer src tag tier cause []
  | .context k => s.contextGot k cause 0
  | _ => s

/-- The words that a core's tag unit holds. -/
def State.heldWords (s : State) (w : TagWait) : Nat := (s.tagWaits.filter (fun x => x.phase == 1 && x.key / sliceBytes == w.key / sliceBytes)).length

/-- R217: a tagged word reaches its tag unit: it fails, is served, is held, or is refused by a full unit. -/
def State.tagArrive (s : State) (w : TagWait) : State :=
  if s.refusedAt w.home w.n then s.tagRefuse w 6
  else if tagReady w.kind (s.tagAt w.key) then
    let s1 := s.serveTag w
    if w.kind = 0 then s1 else s1.tagChanged w.key
  else { s with tagWaits := s.tagWaits ++ [{ w with phase := if s.heldWords w < 256 then 1 else 2 }] }

/-- The `k`-th tagged word of a phase. -/
def State.tagOfPhase (s : State) (phase k : Nat) : Option TagWait := (s.tagWaits.filter (fun w => w.phase == phase))[k]?

/-- R198: the word that must reach the tag unit before another on its way may: the lowest lane's of its bundle at the same 8-byte word. -/
def State.tagBefore (s : State) (w : TagWait) : TagWait :=
  (s.tagWaits.find? (fun x => x.phase == 0 && x.bundle == w.bundle && x.key / 8 == w.key / 8)).getD w

/-- TAGGED_WORD_ARRIVAL (R198, R217): the `k`-th tagged word on its way, or one of its bundle that must come before it, reaches its tag unit. -/
def execTaggedWordArrival (k : Nat) (s : State) : Host.Outcome State Fault Refusal :=
  .next (
    match s.tagOfPhase 0 k with
    | none => s
    | some w => let x := s.tagBefore w; ({ s with tagWaits := dropFirst x s.tagWaits }).tagArrive x)

/-- TAGGED_WORD_RESEND (R217): the `k`-th refused word is sent again. -/
def execTaggedWordResend (k : Nat) (s : State) : Host.Outcome State Fault Refusal :=
  .next (
    match s.tagOfPhase 2 k with
    | none => s
    | some w => ({ s with tagWaits := dropFirst w s.tagWaits }).tagArrive w)

/-! ## READ, WRITE, ATOMIC, SIGNAL (R294) -/

/-- The bytes at a list of places, or the first refusal (R200, R212). -/
def State.readHomes (s : State) : List (Home × Nat) → Except Byte (List Byte)
  | [] => .ok []
  | (h, n) :: r =>
    if s.refusedAt h n then .error 6
    else if s.marked h.key n then .error 0x13
    else match s.readHomes r with | .error x => .error x | .ok bs => .ok (s.getBytes h.key n ++ bs)

/-- What a READ gives at one slice word or line. -/
def State.taggedRead (s : State) (p : Packet) (n : Nat) (k : ReadKind) (h : Home) : State :=
  if !h.isSlice then s.answerTo p 0x18 []
  else
    match k with
    | .ldf => s.tagArrive (TagWait.mk 0 0 h.key n [] (.peer p.src p.tag p.tier) 0 0)
    | .lde => s.tagArrive (TagWait.mk 0 1 h.key n [] (.peer p.src p.tag p.tier) 0 0)
    | .tagrd =>
      if s.refusedAt h n then s.answerTo p 6 []
      else if s.marked h.key n then s.answerTo p 0x13 []
      else s.answerTo p 0 [if s.tagAt h.key then 1 else 0]
    | .tile z =>
      (match (linesOf h n).foldr (fun l r => match s.tileRead l.1 z l.2.2, r with
          | .error x, _ => .error x
          | .ok bs, .ok r => .ok (bs ++ r)
          | .ok _, .error x => .error x) (.ok [] : Except Byte (List Byte)) with
       | .error x => s.answerTo p x []
       | .ok bs => s.answerTo p 0 bs)
    | .tild z =>
      if s.refusedAt h n then s.answerTo p 6 []
      else if s.swzAt h.key != z then s.answerTo p 7 []
      else
        let key := swizzled h.key z.toNat
        if s.marked key n then s.answerTo p 0x13 [] else s.answerTo p 0 (s.getBytes key n)
    | .plain => s

/-- READ (R294): a READ request arrives at the endpoint. -/
def execRead (p : Packet) (s : State) : Host.Outcome State Fault Refusal :=
  .next (
    match p.body with
    | .read n .plain => s.deliverReq p 0 (fun s =>
        match s.epRange p.addr n true false with
        | (s1, .error x) => s1.answerTo p x []
        | (s1, .ok hs) => match s1.readHomes hs with | .error x => s1.answerTo p x [] | .ok bs => s1.answerTo p 0 bs)
    | .read n k => s.deliverReq p 0 (fun s => s.withPlace p n true (k == .lde) (fun s h => s.taggedRead p n k h))
    | _ => s)

/-- Bytes written at a list of places, which all accept them. -/
def State.writeHomes (s : State) (bs : List Byte) : List (Home × Nat) → State
  | [] => s
  | (h, n) :: r => ((s.hitStacks h n).putBytes h.key (bs.take n)).writeHomes (bs.drop n) r

/-- A WRITE of bytes, plain or an engine's FILL (R281, R294): the status of its reply. -/
def State.remoteWrite (s : State) (va : DWord) (bs : List Byte) (fill : Bool) : State × Byte :=
  match s.epRange va bs.length false true with
  | (s1, .error x) => (s1, x)
  | (s1, .ok hs) =>
    if hs.any (fun h => s1.refusedAt h.1 h.2) then (s1, 6)
    else if fill && hs.any (fun h => !h.1.isSlice) then (s1, 0x18)
    else
      let s2 := s1.writeHomes bs hs
      (if fill then s2.fillTags (hs.flatMap (fun h => wordsOf h.1.key h.2)) else s2, 0)

/-- What a tagged WRITE does at its slice word or line. -/
def State.taggedWrite (s : State) (p : Packet) (bs : List Byte) (k : WriteKind) (h : Home) : State :=
  let fin := fun (r : State × Option Byte) => r.1.answerTo p (match r.2 with | some x => x | none => 0) []
  if !h.isSlice then s.answerTo p 0x18 []
  else
    match k with
    | .stf => s.tagArrive (TagWait.mk 0 2 h.key bs.length bs (.peer p.src p.tag p.tier) 0 0)
    | .sto => fin (s.tagStore h bs)
    | .sete => fin (s.tagSet h false)
    | .setf => fin (s.tagSet h true)
    | .tile z f =>
      fin ((linesOf h bs.length).foldl (fun r l => match r.2 with
        | some x => (r.1, some x)
        | none => r.1.tileWrite l.1 z ((bs.drop l.2.1).take l.2.2) f) (s, none))
    | .tist z =>
      if s.refusedAt h bs.length then s.answerTo p 6 []
      else (s.tileStore h z bs).1.answerTo p 0 []
    | _ => s

/-- WRITE (R294, R463): a WRITE request or a collective burst arrives at the endpoint. -/
def execWrite (p : Packet) (s : State) : Host.Outcome State Fault Refusal :=
  .next (
    match p.body with
    | .coll h d => s.deliverReq p 2 (fun s => let r := s.collArrive h d; r.1.answerTo p r.2 [])
    | .write bs .plain => s.deliverReq p 2 (fun s => let r := s.remoteWrite p.addr bs false; r.1.answerTo p r.2 [])
    | .write bs .fill => s.deliverReq p 2 (fun s => let r := s.remoteWrite p.addr bs true; r.1.answerTo p r.2 [])
    | .write bs k => s.deliverReq p 2 (fun s => s.withPlace p (Nat.max 1 bs.length) (k == .stf) true (fun s h => s.taggedWrite p bs k h))
    | _ => s)

/-- ATOMIC (R245, R246, R294): an ATOMIC request is performed at its home and answered with the old value. -/
def execAtomic (p : Packet) (s : State) : Host.Outcome State Fault Refusal :=
  .next (
    match p.body with
    | .atomic op wide xs => s.deliverReq p 3 (fun s => s.withPlace p (atomBytes wide) true true (fun s h =>
        if h.isHost && !hostTakes false op then s.answerTo p 5 []
        else
          match s.atomAt h op wide xs with
          | (s1, .error x) => s1.answerTo p x []
          | (s1, .ok v) => s1.answerTo p 0 (leBytes (atomBytes wide) v.toNat)))
    | _ => s)

/-- SIGNAL (R315, R406): a store-and-fill or an arrival; HK2 applies an arrival to the barrier of a saved workgroup. -/
def execSignal (p : Packet) (s : State) : Host.Outcome State Fault Refusal :=
  .next (
    match p.body with
    | .signal mode wide v => s.deliverReq p 4 (fun s =>
        let n := if wide then 8 else 4
        let fin := fun (r : State × Option Byte) => r.1.answerTo p (match r.2 with | some x => x | none => 0) []
        match (if mode == 0 then none else s.savedOwner s.epart p.addr) with
        | some w => fin (s.arriveFor (some w) (v.setWidth 32))
        | none => s.withPlace p n false true (fun s h => fin (s.signalAt h mode.toNat n v)))
    | _ => s)

/-- WITHDRAW (R218): a tagged word that is still held is removed, and its request answered with STATUS 0xFD. -/
def execWithdraw (p : Packet) (s : State) : Host.Outcome State Fault Refusal :=
  .next (
    if p.dst != s.devId || p.type != 8 || !s.canDeliver then s
    else
      let s1 := (s.fromWire p).seqCheck p
      let who := ReqOwner.peer p.src p.tag p.tier
      if s1.lodge.epst != 1 || !(s1.tagWaits.any (fun w => w.who == who)) then s1
      else ({ s1 with tagWaits := s1.tagWaits.filter (fun w => w.who != who) }).answerTo p 0xFD [])

/-- ENDPOINT_REPLY (R305): the `k`-th open entry whose access is done is answered with a REPLY and leaves the table. -/
def execEndpointReply (k : Nat) (s : State) : Host.Outcome State Fault Refusal :=
  .next (
    match (s.lodge.opens.filter (fun o => o.ans.isSome))[k]? with
    | none => s
    | some o =>
      match o.ans with
      | none => s
      | some (st, data) =>
        let body := Body.reply st data
        ({ s with lodge := { s.lodge with opens := dropFirst o s.lodge.opens } }).forwardAnswer 6
          { src := s.devId, dst := o.pkt.src, tier := o.pkt.tier, type := 1, seq := o.pkt.seq, len := flitsAfter (payloadOf body), first := false,
            tag := o.pkt.tag, addr := o.pkt.addr, body := body })

/-! ## Replies to this device's requests (R299, R306, R461) -/

/-- The word that a thread's wait at a tagged word stands for is withdrawn: it is to be executed again (R218). -/
def State.tagWithdrawn (s : State) (t : Nat) (id : Option Nat) : State :=
  s.updThread t (fun th => { th with outs := th.outs.filter (fun o => some o.id != id), park := .none, withdrawing := false })

/-- A request of a READ or WRITE whose thread waits at the word: LDF, LDE or STF. -/
def bodyWaits (b : Body) : Bool :=
  match b with | .read _ .ldf => true | .read _ .lde => true | .write _ .stf => true | _ => false

/-- The reply to a load, TAGRD, TILD, LDF or LDE. -/
def State.resultReply (s : State) (t id n : Nat) (z : BitVec 3) (tagged : Bool) (status : Byte) (data : List Byte) : State :=
  match (s.thread t).out? id with
  | none => s
  | some _ =>
    let v := leNat (data.take n)
    let clear := fun (s : State) => s.updThread t (fun th => { th with withdrawing := false })
    if !tagged then s.setResult t id (if status == 0 then .val (szWords z v) else .bad status)
    else if status == 0xFD then s.tagWithdrawn t (some id)
    else (clear s).tagResult t id (if status == 0 then .val (szWords z v) else .bad status)

/-- An acknowledgement has come for a thread's store or other access without a result (R213, R253). -/
def State.ackReply (s : State) (t id : Nat) (addr : DWord) (status : Byte) : State :=
  s.updThread t (fun th => { th with acks := th.acks.map (fun a =>
    if a.id == id then { a with ready := true, fail := if status == 0 then none else some (status, sectorOf addr) } else a) })

/-- A sector has come for a core's L1, and the result that waits for it (R196, R213). -/
def State.fillReply (s : State) (core key t id n : Nat) (z : BitVec 3) (uo : Bool) (pol : BitVec 3) (keep : Bool) (status : Byte)
    (data : List Byte) : State :=
  let k := key / 32
  let s1 :=
    if status == 0 && keep && decide (0 < (s.coreAt core).carve) then
      let s1 := s.roomInL1 core k
      s1.setL1 core k ((s1.l1At core k).filled (data.take 32) uo pol)
    else s
  if n = 0 then s1
  else s1.setResult t id (if status == 0 then .val (szWords z (leNat ((data.drop (key % 32)).take n))) else .bad status)

/-- The replies to the members of an atomic group: each its own old value (R246), or the cause. -/
def State.atomReply (s : State) (ms : List (Nat × Nat × DWord × DWord)) (op : AtomOp) (wide : Bool) (addr : DWord) (status : Byte)
    (data : List Byte) : State :=
  let m := BitVec.ofNat 64 (leNat (data.take (atomBytes wide)))
  let olds := (atomGroup op wide m (ms.map (fun x => x.2.2))).1
  (ms.zip olds).foldl (fun s e =>
    let t := e.1.1
    let id := e.1.2.1
    let ws := if wide then [e.2.extractLsb' 0 32, e.2.extractLsb' 32 32] else [e.2.extractLsb' 0 32]
    (s.setResult t id (if status == 0 then .val ws else .bad status)).ackReply t id addr status) s

/-- A word of code has come from another device, or the cause with which its fetch fails (R111). -/
def State.fetchReply (s : State) (core part : Nat) (pc : DWord) (status : Byte) (data : List Byte) : State :=
  s.updCore core (fun c =>
    if status == 0 then { c with icache := Tab.put none c.icache (icKey part pc) (some (BitVec.ofNat 32 (leNat (data.take 4)))) }
    else { c with fetchBad := Tab.put 0 c.fetchBad (icKey part pc) status })

/-- A REPLY REACHES WHO ASKED. -/
def State.ownerReply (s : State) (r : OutReq) (status : Byte) (data : List Byte) : State :=
  match r.owner with
  | .result t id n z => s.resultReply t id n z (bodyWaits r.pkt.body) status data
  | .ack t id addr => s.ackReply t id addr status
  | .fetch core part pc => s.fetchReply core part pc status data
  | .fill core key t id n z uo pol keep => s.fillReply core key t id n z uo pol keep status data
  | .back _ ts addr _ => if status == 0 then s else ts.foldl (fun s t => s.storeFailed t status (sectorOf addr)) s
  | .atom ms op wide addr => s.atomReply ms op wide addr status data
  | .tagStore t addr =>
    (match (s.thread t).park with
     | .word .tag .. =>
       if status == 0xFD then s.tagWithdrawn t none
       else ((if status == 0 then s else s.storeFailed t status (sectorOf addr)).completeWord t).updThread t (fun th => { th with withdrawing := false })
     | _ => s)
  | .engine e q id off n _ => s.engineReply e q id off n (r.pkt.type == 0) status data
  | .coll e id peer off => s.collReply e id peer off status data
  | .welt d id off rd => s.weltReply d id off rd status data
  | .context k => s.contextReply k status data
  | .agent k id off => s.updAgent k (fun a => a.got id off status data)
  | .block t id off => s.updThread t (fun th => { th with asked := th.asked.got id off status data })
  | .agentWrite after => s.written after status
  | .peer .. => s
  | .nobody => s
  | .move _ => s

/-- Every FENCE and circuit wait that a reply can complete is looked at again (R253). -/
def State.fencesDone (s : State) : State :=
  s.thr.foldl (fun s e => if e.2.fencing.isSome then s.fenceDone e.1 else s) s

/-- R299: a request answered with STATUS 0xFE waits to be sent again. A burst that went over a circuit is left to its engine, which sends it
again over the circuit. -/
def State.answeredLater (s : State) (r : OutReq) : State := { s with lodge := { s.lodge with outs := s.lodge.outs ++ [{ r with phase := 2 }] } }

/-- The outstanding request that a TAG names (R306). -/
def Lodge.outstanding (l : Lodge) (tag : BitVec 14) (tier : BitVec 2) : Option OutReq :=
  if tag.getLsbD 13 != l.epoch then none
  else l.outs.find? (fun r => r.phase == 0 && r.pkt.tier == tier && r.slot == tag.toNat % 8192)

/-- A REPLY or ABSENT arrives (R299, R305, R306). -/
def State.replyHere (s : State) (p : Packet) (status : Byte) (data : List Byte) : State :=
  let s0 := s.fromWire p
  if s0.lodge.epst != 1 then s0.orphaned
  else
    match s0.lodge.outstanding p.tag p.tier with
    | none => s0.orphaned
    | some r =>
      let s1 := { s0 with lodge := { s0.lodge with outs := dropFirst r s0.lodge.outs } }
      ((if status == 0xFE then s1.answeredLater r else s1.ownerReply r status data).sendWaiting).fencesDone

/-- REPLY (R306). -/
def execReply (p : Packet) (s : State) : Host.Outcome State Fault Refusal :=
  .next (
    match p.body with
    | .reply st data => if p.dst == s.devId && p.type == 1 then s.replyHere p st data else s
    | _ => s)

/-! ## Gangs that this device has initiated (R325, R326) -/

/-- The kind and the sequence in a GANG packet's ADDR (R325). -/
def gangKind (a : DWord) : Nat := a.toNat / 2 ^ 62
/-- The gang sequence. -/
def gangSeqOf (a : DWord) : Nat := a.toNat % 2 ^ 32

/-- A GANG packet without payload goes to a device. -/
def State.sendGang (s : State) (dst : BitVec 12) (kind seq : Nat) : State := s.sendSequenced 1 6 dst 0 (gangAddr kind seq) (.gang [])

/-- The result of a gang reaches its initiating thread, and the gang is over (R382). -/
def State.gangOver (s : State) (g : Gang) (st : Byte) : State :=
  ({ s with gangs := dropFirst g s.gangs }).setResult g.tid g.id (.val (gangResult g.seq st))

/-- R326: the initiator aborts a gang: ABORT goes to every participant. -/
def State.gangAbort (s : State) (g : Gang) : State := (g.devs.foldl (fun s d => s.sendGang (BitVec.ofNat 12 d) 2 g.seq) s).gangOver g 0x15

/-- R326: the gang whose LAUNCH an ABSENT answers: it carries the LAUNCH's ADDR and no reply slot's TAG (R295, R325, assumption 29). -/
def State.gangAnswered (s : State) (p : Packet) : Option Gang :=
  if p.tier == 1 && p.tag == 0 && gangKind p.addr = 0 then s.gangs.find? (fun g => gangAddr 0 g.seq == p.addr) else none

/-- ABSENT (R306): it completes its request with cause 0x12. One that answers the LAUNCH of a gang aborts the gang (R326). -/
def execAbsent (p : Packet) (s : State) : Host.Outcome State Fault Refusal :=
  .next (
    if p.dst != s.devId || p.type != 7 then s
    else
      let mine := s.lodge.epst == 1 && !((s.lodge.outstanding p.tag p.tier).any (fun r => r.pkt.addr == p.addr))
      match (if mine then s.gangAnswered p else none) with
      | some g => (s.fromWire p).gangAbort g
      | none => s.replyHere p 0x12 [])

/-- A burst that a circuit carried is handed back to its engine to be sent again; true if it was one. -/
def State.resendCircuit (s : State) (r : OutReq) : State × Bool :=
  match r.owner with
  | .engine e q id off n _ =>
    (match s.cmd? e q id with
     | some c =>
       if c.x.kind == .putc && !r.pkt.type == 0 then
         let only := fun (c : CopyCmd) => { c with bursts := c.bursts.map (fun b => if b.off = off then { b with data := [], out := none } else b),
                                                   flight := c.flight.erase (off, n) }
         (s.updCmd e q id only, true)
       else (s, false)
     | none => (s, false))
  | .coll e id peer off =>
    (match s.collCmd? e id with
     | some (_, c) =>
       if c.tx.any (fun b => b.circ && b.peer == peer && b.hdr.off.toNat == off) then
         (s.updCollCmd e id (fun c => { c with tx := c.tx.map (fun b =>
           if b.peer == peer && b.hdr.off.toNat == off then { b with sent := false } else b) }), true)
       else (s, false)
     | none => (s, false))
  | _ => (s, false)

/-- RESEND_TIMER (R299): the `k`-th request answered with 0xFE is sent again with a new SEQ. -/
def execResendTimer (k : Nat) (s : State) : Host.Outcome State Fault Refusal :=
  .next (
    match (s.lodge.outs.filter (fun r => r.phase == 2))[k]? with
    | none => s
    | some r =>
      let s1 := { s with lodge := { s.lodge with outs := dropFirst r s.lodge.outs } }
      match s1.resendCircuit r with
      | (s2, true) => s2
      | (s2, false) => s2.sendNow r.owner r.pkt)

/-- Requests that a test names complete with cause 0x12 (R305, R307). -/
def State.failRequests (s : State) (p : OutReq → Bool) : State :=
  let dead := s.lodge.outs.filter p
  let s1 := { s with lodge := { s.lodge with outs := s.lodge.outs.filter (fun r => !p r) } }
  (dead.foldl (fun s r => s.ownerReply r 0x12 []) s1).fencesDone

/-! ## States of the endpoint (R304, R305) -/

/-- R305: what would answer an entry that has left the open table is dropped: its tagged word answers nobody. -/
def State.orphanTags (s : State) : State :=
  { s with tagWaits := s.tagWaits.map (fun w => match w.who with | .peer .. => { w with who := .nobody } | _ => w) }

/-- The endpoint leaves ATTACHED (R304, R305): every open entry is answered with ABSENT, and every request of this device fails. -/
def State.leaveAttached (s : State) : State :=
  if s.lodge.epst != 1 then s
  else
    let opens := s.lodge.opens
    let s1 := { s with lodge := { s.lodge with epst := 2, opens := [] } }.orphanTags
    (opens.foldl (fun s o => s.absentHere o.pkt) s1).failRequests (fun _ => true)

/-- ATTACH (R304): from DETACHED, EPOCH toggles. In recovery HK4 does not run, and the endpoint stays DETACHED (R428). -/
def execAttach (s : State) : Host.Outcome State Fault Refusal :=
  .next (if s.lodge.epst == 0 && s.dev.state != 4 then { s with lodge := { s.lodge with epst := 1, epoch := !s.lodge.epoch } } else s)

/-- DETACH (R304). -/
def execDetach (s : State) : Host.Outcome State Fault Refusal := .next s.leaveAttached

/-- HBEAT (R304): HK4's heartbeat; the limit that it holds off is the HEARTBEAT_TIMEOUT event's. -/
def execHbeat (s : State) : Host.Outcome State Fault Refusal := .next s

/-- HEARTBEAT_TIMEOUT (R304): no HBEAT for HBMS ms; with HBMS 0 there is no limit (R302). -/
def execHeartbeatTimeout (s : State) : Host.Outcome State Fault Refusal := .next (if s.lodge.hbms = 0 then s else s.leaveAttached)

/-- DRAIN_COMPLETE (R304). -/
def execDrainComplete (s : State) : Host.Outcome State Fault Refusal :=
  .next (if s.lodge.epst == 2 && s.lodge.opens.isEmpty then { s with lodge := { s.lodge with epst := 0 } } else s)

/-! ## Transit and links (R293, R298, R300) -/

/-- TRANSIT_PACKET (R292, R293, R298, R300): a packet arrives at a Lodge input, 0 to 5 a link, 6 the endpoint. One with a reserved TIER, TYPE
or LEN is dropped and counted; the others are routed. -/
def execTransitPacket (link : Fin 7) (p : Packet) (s : State) : Host.Outcome State Fault Refusal :=
  .next (
    if p.tier == 0 || 9 ≤ p.type || 5 ≤ p.len then { s with lodge := { s.lodge with seqerr := s.lodge.seqerr + 1 } }
    else s.forward link.val p)

/-- LINK_DOWN (R300): a link that has not retrained is down; the packets that waited for it are answered or dropped. -/
def execLinkDown (link : Fin 6) (s : State) : Host.Outcome State Fault Refusal :=
  let k := link.val
  .next (
    let held := (s.lodge.port k).waiting
    let bit := BitVec.ofNat 6 (2 ^ k)
    let l := s.lodge.setPort k { s.lodge.port k with waiting := [] }
    held.foldl (fun s e => s.forward e.1 e.2) { s with lodge := { l with linkup := l.linkup &&& ~~~bit, linkdown := l.linkdown ||| bit } })

/-- LINK_UP (R300): a link has retrained, and what waited for it leaves. -/
def execLinkUp (link : Fin 6) (s : State) : Host.Outcome State Fault Refusal :=
  let k := link.val
  let bit := BitVec.ofNat 6 (2 ^ k)
  .next (
    let l := { s.lodge with linkup := s.lodge.linkup ||| bit, linkdown := s.lodge.linkdown &&& ~~~bit }
    { s with lodge := l.drain k ((l.port k).waiting.length) })

/-- R307: THE LODGE ISLAND'S RESET: buffers, entries and numbers are cleared, its registers take their Reset values, every link retrains and
every outstanding request fails. What has left the device is left alone. -/
def State.resetIsland (s : State) : State :=
  let s1 := { s with lodge := { ({} : Lodge) with wire := s.lodge.wire.filter (fun e => e.1 != 6) } }.orphanTags
  (s.lodge.outs.foldl (fun s r => s.ownerReply r 0x12 []) s1).fencesDone

/-- LODGE_POWER_REMOVAL (R307). -/
def execLodgePowerRemoval (s : State) : Host.Outcome State Fault Refusal := .next s.resetIsland

/-! ## Circuit messages and frames (R334, R344) -/

/-- GRANT (R334, R335): a CIRCUIT packet of kind GRANT arrives. -/
def execGrant (p : Packet) (s : State) : Host.Outcome State Fault Refusal :=
  .next (if p.addr.extractLsb' 60 4 != 2 then s else s.deliverMsg p 5 (fun s => s.grantFrom p.src p.addr))

/-- MSG (R334, R359): a CIRCUIT packet of any other kind arrives; only a MSG is taken. -/
def execMsg (p : Packet) (s : State) : Host.Outcome State Fault Refusal :=
  .next (
    if p.addr.extractLsb' 60 4 == 2 then s
    else s.deliverMsg p 5 (fun s => if p.addr.extractLsb' 60 4 == 5 then s.msgFrom p.src p.addr else s.badMsg))

/-- FRAME_RECEIVE (R330, R344, R345): a frame arrives at a port: dropped and counted when the port is not LIVE or SSEQ differs; else it is
written, and acknowledged by a T2 REPLY on the packet plane (R313). -/
def execFrameReceive (port : Fin 16) (fr : Frame) (s : State) : Host.Outcome State Fault Refusal :=
  .next (
    let p := port.val
    if (s.optPort p).st != 3 || fr.sseq.toNat != s.portSseq p then { s with cp := { s.cp with sseqdrop := s.cp.sseqdrop + 1 } }
    else
      let r := match fr.body with
        | .coll h d => some (s.collArrive h d)
        | .write bs .plain => some (s.remoteWrite fr.addr bs false)
        | .write bs .fill => some (s.remoteWrite fr.addr bs true)
        | _ => none
      match r with
      | none => s
      | some (s1, st) =>
        s1.forwardAnswer 6 { src := s.devId, dst := fr.src, tier := 2, type := 1, seq := fr.num, len := 0, first := false, tag := fr.tag,
                             addr := fr.addr, body := .reply st [] })

end Sys2Proof.Machine
end

