-- ==== Sys2Proof/Machine/CoreEvents.lean ====
section
/-! DEFINITION. What happens to threads between words: interruption of a parked thread, results and acknowledgements, held traps, the
watchdog, RCV deadlines, and gangs (R74, R79, R89, R104, R213, R218, R253, R325 to R327, R382, R461). -/

namespace Sys2Proof.Machine
open Sys2Proof

/-! ## Interrupting a thread (R74, R218) -/

/-- The request is the tagged word that a thread waits at: LDF or LDE with its result, or STF. -/
def tagOwner (t : Nat) : ReqOwner → Option (Option Nat)
  | .result u id _ _ => if u == t then some (some id) else none
  | .tagStore u _ => if u == t then some none else none
  | _ => none

/-- R218: the thread's tagged word is withdrawn: at once on this device; from another device by a WITHDRAW packet, whose reply decides. -/
def State.withdrawWord (s : State) (t : Nat) : State × Bool :=
  match s.tagWaits.find? (fun w => (tagOwner t w.who).isSome) with
  | some w => (({ s with tagWaits := dropFirst w s.tagWaits }).tagWithdrawn t ((tagOwner t w.who).getD none), true)
  | none =>
    match s.lodge.outs.find? (fun r => bodyWaits r.pkt.body && (tagOwner t r.owner).isSome) with
    | some r =>
      if r.phase == 0 then
        if (s.thread t).withdrawing then (s, false)
        else ((s.sendSequenced 1 8 r.pkt.dst r.pkt.tag r.pkt.addr .withdraw).updThread t (fun th => { th with withdrawing := true }), false)
      else (({ s with lodge := { s.lodge with outs := dropFirst r s.lodge.outs } }).tagWithdrawn t ((tagOwner t r.owner).getD none), true)
    | none => (s.tagWithdrawn t none, true)

/-- R101: the address of an uncached RET has come: the thread completes the word there and is eligible in the next cycle. -/
def State.retArrived (s : State) (t : Nat) (o : Outst) (v : DWord) : State :=
  match (s.thread t).park with
  | .word .ret _ w mark mask =>
    ((s.updThread t (fun th => { th with park := .none, outs := th.outs.filter (fun x => x.id != o.id) }.returnTo v)).finishWord t mark w mask).delay 1 [t]
  | _ => s.updThread t (fun th => { th with outs := th.outs.filter (fun x => x.id != o.id) })

/-- A known result reaches its thread: its value, or the trap cause of its reply with the result dropped (R461). -/
def State.returnResult (s : State) (t : Nat) (o : Outst) : State :=
  match o.res with
  | none => s
  | some (.bad c) =>
    if o.kind == .tag then s.tagFailed t o.id c else
    (s.updThread t (fun th => { th with outs := th.outs.filter (fun x => x.id != o.id) })).replyTrap t c o.word o.sector
  | some (.val ws) =>
    match o.kind with
    | .regs => s.arrive t o.id ws
    | .tag => s.tagServed t o.id ws
    | .ret => s.retArrived t o (match ws with | a :: b :: _ => b ++ a | _ => 0)

/-- R218: a thread is to leave its tagged word. One that has been served, or has failed, at its home is complete: its report is taken now. -/
def State.withdrawTag (s : State) (t : Nat) : State × Bool :=
  match (s.thread t).outs.find? (fun o => o.kind == .tag && o.res.isSome) with
  | some o => (s.returnResult t o, true)
  | none => s.withdrawWord t

/-- R74: a thread is interrupted: its waiting word will be executed again. False while it must wait: for its results under a park marker,
or for the reply to a withdrawal. -/
def State.interrupt (s : State) (t : Nat) : State × Bool :=
  let th := s.thread t
  match th.park with
  | .none => (s, true)
  | .marker => if th.waiting then (s, false) else (s.setThread t { th with park := .none }, true)
  | .page _ => (s.setThread t { th with park := .none }, true)
  | .word .tag _ _ _ _ => s.withdrawTag t
  | .word .ret _ _ _ _ => (s.setThread t { th with park := .none, outs := th.outs.filter (fun o => o.kind != .ret) }, true)
  | .word _ _ _ _ _ => (s.setThread t { th with park := .none }, true)

/-- Interrupts each of a list of threads; true when none must wait. -/
def State.interruptAll (s : State) : List Nat → State × Bool
  | [] => (s, true)
  | t :: ts =>
    let r := s.interrupt t
    let q := r.1.interruptAll ts
    (q.1, r.2 && q.2)

/-- The word at an address, or the modified word of the group there; 0 when none can be fetched (R395). -/
def State.wordFrom (s : State) (core part : Nat) (pc : DWord) : Nat → Word
  | 0 => 0
  | f + 1 =>
    match s.fetchAt core part pc with
    | .word w => if w.extractLsb' 20 7 == 1 then s.wordFrom core part (pc + 4) f else w
    | _ => 0

/-- The word at a thread's PC. -/
def State.wordAt (s : State) (t : Nat) : Word := s.wordFrom (coreOfThread t) (s.warpOfThread t).part (s.thread t).pc 4

/-- The thread is in a group that has begun to issue, which nothing interrupts (R39). -/
def State.inGroup (s : State) (t : Nat) : Bool := s.cur.threads.contains t

/-! ## Results and acknowledgements (R79, R101, R213, R224, R253, R461) -/

/-- The results of a thread that are known and may return in a cycle of its core (R242). -/
def Thread.known (th : Thread) (cycle : Nat) : List Outst := th.outs.filter (fun o => o.res.isSome && decide (o.due ≤ cycle))

/-- A thread leaves its park marker once no result is outstanding (R31, R81). -/
def State.unmark (s : State) (t : Nat) : State :=
  s.updThread t (fun th => if th.park == .marker && !th.waiting then { th with park := .none } else th)

/-- RESULT_RETURN (R79): the `k`-th known result of a thread returns; then a park marker or FENCE that waited for it may be over. -/
def execResultReturn (core : Fin 1024) (slot : Fin 64) (lane : Fin 32) (k : Nat) (s : State) : Host.Outcome State Fault Refusal :=
  let t := threadKey core.val slot.val lane.val
  .next (
    match ((s.thread t).known (s.cycleOf core.val))[k]? with
    | none => s
    | some o => ((s.returnResult t o).unmark t).fenceDone t)

/-- ACCESS_ACKNOWLEDGE (R213, R224, R253): the first answered access of a thread without a result is acknowledged; its failure is kept
for the thread's next reporting word, and a FENCE that waited for it may be complete. -/
def execAccessAcknowledge (core : Fin 1024) (slot : Fin 64) (lane : Fin 32) (s : State) : Host.Outcome State Fault Refusal :=
  let t := threadKey core.val slot.val lane.val
  .next (
    match (s.thread t).acks.find? (fun a => a.ready) with
    | none => s
    | some a =>
      let s1 := s.updThread t (fun th => { th with acks := dropFirst a th.acks })
      (match a.fail with | some (c, sec) => s1.storeFailed t c sec | none => s1).fenceDone t)

/-! ## Held traps (R114, R461), the watchdog (R88, R89) and RCV deadlines (R104) -/

/-- REPLY_TRAP (R461): the oldest held trap of a thread is delivered at its next word boundary outside handler mode. -/
def execReplyTrap (core : Fin 1024) (slot : Fin 64) (lane : Fin 32) (s : State) : Host.Outcome State Fault Refusal :=
  let t := threadKey core.val slot.val lane.val
  let th := s.thread t
  .next (
    match th.heldTraps with
    | [] => s
    | x :: xs =>
      if !th.live || th.h || s.inGroup t || (s.warpOfThread t).held then s
      else
        match s.interrupt t with
        | (s1, false) => s1
        | (s1, true) => (s1.updThread t (fun th => { th with heldTraps := xs })).takeTrap t x.cause (s1.thread t).pc x.word x.mask x.addr)

/-- The threads of a warp whose age has reached the watchdog's limit (R88, R89). A thread in handler mode is not among them: its age stands
still. -/
def State.overdue (s : State) (w : Nat) : List Nat :=
  let lim := (s.warp w).wdoglim.toNat
  if lim = 0 then []
  else (s.liveThreads w).filter (fun t => let th := s.thread t; decide (lim ≤ th.age) && !th.h && th.wdog.isNone)

/-- R89: a stalled thread takes its trap as soon as R74 lets it. -/
def State.takeStall (s : State) (t : Nat) : State :=
  match (s.thread t).wdog with
  | none => s
  | some m =>
    if s.inGroup t || (s.warpOfThread t).held then s
    else
      match s.interrupt t with
      | (s1, false) => s1
      | (s1, true) => s1.takeTrap t 0x0D (s1.thread t).pc (s1.wordAt t) m 0

/-- R89: every thread of a warp whose age has reached %WDOGLIM is stalled, and traps with cause 0x0D at its own PC. Its age is then 0, and
while it waits for its results no later firing names it (assumption 42). -/
def State.fireWatchdog (s : State) (w : Nat) : State :=
  let ts := s.overdue w
  if (s.warp w).held then s
  else
    let s1 := ts.foldl (fun s t => s.updThread t (fun th => { th with wdog := some (lanesMask (ts.map laneOf)), age := 0 })) s
    ts.foldl State.takeStall s1

/-- WATCHDOG_FIRE (R89). -/
def execWatchdogFire (core : Fin 1024) (slot : Fin 64) (s : State) : Host.Outcome State Fault Refusal :=
  .next (s.fireWatchdog (warpKey core.val slot.val))

/-- The episodes of a warp whose deadline has come. -/
def State.dueEpisodes (s : State) (w : Nat) : List Episode :=
  (s.warp w).rcv.filter (fun e => match e.deadline with | none => false | some d => decide (d ≤ s.cycleOf (coreOf w)))

/-- R104: the arrived threads of the episodes whose deadline has come are released, eligible in the next cycle. -/
def State.releaseDue (s : State) (w : Nat) : State :=
  (s.dueEpisodes w).foldl (fun s e => (s.releaseEpisode w e).delay 1 (s.arrivals w e)) s

/-- RCV_DEADLINE (R104). -/
def execRcvDeadline (core : Fin 1024) (slot : Fin 64) (s : State) : Host.Outcome State Fault Refusal :=
  .next (s.releaseDue (warpKey core.val slot.val))

/-! ## Gangs (R325 to R327, R382) -/

/-- R382: what a participant says of a LAUNCH: RCB, KD and budgets in EPART, and at least one workgroup. -/
def State.gangVerdict (s : State) (blk : List Byte) : Verdict :=
  if fieldAt blk 16 4 = 0 then .fail 2 else s.validate 65 s.epart (fieldAt blk 20 2) (dwordAt blk 0)

/-- R325, R382: the part of a gang that this device has accepted starts, and the initiator gets its ACK. -/
def State.gangAccept (s : State) (src seq : Nat) (blk : List Byte) (k : Kd) : State :=
  let n := fieldAt blk 16 4
  (s.accept s.epart (fieldAt blk 20 2) k (.gang n (dwordAt blk 8)) n (.gang src seq) (BitVec.ofNat 32 seq) none).sendGang (BitVec.ofNat 12 src) 1 seq

/-- R325, R327, R382: HK1 takes up the oldest LAUNCH that has arrived, while the device runs launches: it is accepted, or discarded when it cannot
be or was aborted; while HK1 has not read its KD it waits. -/
def State.takeGang (s : State) : State :=
  match s.gangsIn with
  | [] => s
  | (src, seq, blk) :: rest =>
    let s1 := { s.agentDone 65 with gangsIn := rest }
    if !s.running then s
    else if s.gangAborted.contains (src, seq) then s1
    else
      match s.gangVerdict blk with
      | .wait => s.agentAsk 65 s.epart (dwordAt blk 0) 64
      | .fail _ => s1
      | .ok k => s1.gangAccept src seq blk k

/-- GANG_LAUNCH (R325): a LAUNCH arrives, and HK1 takes it up. -/
def execGangLaunch (p : Packet) (s : State) : Host.Outcome State Fault Refusal :=
  .next (
    match p.body with
    | .gang blk =>
      if gangKind p.addr != 0 then s
      else s.deliverMsg p 6 (fun s => { s with gangsIn := s.gangsIn ++ [(p.src.toNat, gangSeqOf p.addr, blk)] }.takeGang)
    | _ => s)

/-- GANG_ACK (R326): an ACK within the window is counted; with the last one the gang is acknowledged. -/
def execGangAck (p : Packet) (s : State) : Host.Outcome State Fault Refusal :=
  .next (
    if gangKind p.addr != 1 then s
    else s.deliverMsg p 6 (fun s =>
      match s.gangs.find? (fun g => g.seq == gangSeqOf p.addr && decide (g.elapsed < g.win)) with
      | none => s
      | some g =>
        let got := if g.devs.contains p.src.toNat && !g.acked.contains p.src.toNat then g.acked ++ [p.src.toNat] else g.acked
        if g.devs.all (fun d => got.contains d) then s.gangOver g 0
        else { s with gangs := s.gangs.map (fun x => if x.seq == g.seq then { x with acked := got } else x) }))

/-- R327: an aborted sequence of an initiator is kept, the 64 most recent of each. -/
def keepAborted (l : List (Nat × Nat)) (i q : Nat) : List (Nat × Nat) :=
  let l1 := l ++ [(i, q)]
  if 64 < (l1.filter (fun e => e.1 == i)).length then
    (match l1.find? (fun e => e.1 == i) with | some e => dropFirst e l1 | none => l1)
  else l1

/-- The threads of a launch that are live. -/
def State.launchThreads (s : State) (lid : Nat) : List Nat :=
  (s.warps.filter (fun e => e.2.used && e.2.lid == lid)).flatMap (fun e => s.liveThreads e.1)

/-- R327: the part of an aborted gang: its threads trap at their next park point, and workgroups not yet dispatched are discarded. -/
def State.abortPart (s : State) (l : Launch) : State :=
  let s1 := (s.launchThreads l.lid).foldl (fun s t => s.updThread t (fun th => { th with gangAbort := true })) s
  let s2 := { s1 with wgs := s1.wgs.map (fun (w : Wg) =>
    if w.lid == l.lid && w.isSaved then { w with rest := (List.range (32 * w.warps)).foldl (fun r k =>
      Tab.put Rest.init r k { Tab.get Rest.init r k with gangAbort := true }) w.rest } else w) }
  let s3 := s2.updLaunch l.lid (fun l => { l with total := l.next })
  if l.freed == l.next then s3.launchDone l else s3

/-- GANG_ABORT (R327): an ABORT arrives. A GANG packet of the reserved kind is dropped here too. -/
def execGangAbort (p : Packet) (s : State) : Host.Outcome State Fault Refusal :=
  .next (
    if gangKind p.addr < 2 then s
    else s.deliverMsg p 6 (fun s =>
      if gangKind p.addr != 2 then s
      else
        let q := gangSeqOf p.addr
        let s1 := { s with gangAborted := keepAborted s.gangAborted p.src.toNat q }
        match s1.launches.find? (fun l => l.origin == .gang p.src.toNat q) with
        | none => s1
        | some l => s1.abortPart l))

/-- GANG_WINDOW_CLOSE (R326): the window of a gang, of WIN HK cycles, closes without an ACK from every participant. -/
def execGangWindowClose (seq : Word) (s : State) : Host.Outcome State Fault Refusal :=
  .next (
    match s.gangs.find? (fun g => g.seq == seq.toNat) with
    | none => s
    | some g => if g.elapsed < g.win then s else s.gangAbort g)

/-- An HK cycle passes (R5, R326). -/
def State.hkCycle (s : State) : State := { s with gangs := s.gangs.map (fun g => { g with elapsed := g.elapsed + 1 }) }

/-- R327: a thread of an aborted gang takes cause 0x15 at its park point. -/
def State.takeAbort (s : State) (t : Nat) : State :=
  if !(s.thread t).gangAbort || !(s.thread t).live || s.inGroup t || !s.parked t || (s.warpOfThread t).held then s
  else
    match s.interrupt t with
    | (s1, false) => s1
    | (s1, true) =>
      (s1.updThread t (fun th => { th with gangAbort := false })).takeTrap t 0x15 (s1.thread t).pc (s1.wordAt t) (lanesMask [laneOf t]) 0

/-! ## What follows every step -/

/-- A thread is parked at a tagged word. -/
def Thread.atTag (th : Thread) : Bool := match th.park with | .word .tag _ _ _ _ => true | _ => false

/-- Tagged words whose thread no longer waits at them are withdrawn (R107, R218, R402): here at once, from another device by a WITHDRAW. -/
def State.withdrawLost (s : State) : State :=
  let gone := fun o => match o with
    | ReqOwner.result t _ _ _ => !(s.thread t).atTag
    | ReqOwner.tagStore t _ => !(s.thread t).atTag
    | _ => false
  let lost := fun (r : OutReq) => bodyWaits r.pkt.body && gone r.owner
  let s1 := { s with tagWaits := s.tagWaits.filter (fun w => !gone w.who) }
  let dead := s.lodge.outs.filter (fun r => lost r && r.phase == 0)
  let s2 := { s1 with lodge := { s1.lodge with
    outs := (s.lodge.outs.filter (fun r => !(lost r && r.phase != 0))).map (fun (r : OutReq) =>
      if lost r then { r with owner := ReqOwner.nobody } else r) } }
  dead.foldl (fun s r => s.sendSequenced 1 8 r.pkt.dst r.pkt.tag r.pkt.addr .withdraw) s2

/-- Requests made while the endpoint was not ATTACHED fail (R305). -/
def State.failUnsent (s : State) : State :=
  if s.lodge.outs.any (fun r => r.phase == 3) then s.failRequests (fun r => r.phase == 3) else s

/-- R400: the parked threads of a held warp are interrupted, those behind a park marker once their results have returned (R74). -/
def State.stopHeld (s : State) : State :=
  (s.warps.filter (fun e => e.2.held)).foldl (fun s e =>
    (s.interruptAll ((s.liveThreads e.1).filter (fun t => (s.thread t).park != .none))).1) s

/-- What is due as soon as a step is over: unsent requests fail, the parked threads of held warps, stalled threads and threads of aborted gangs
that can be interrupted are, the latter two with their traps, and the tagged words that threads have left are withdrawn. -/
def State.wrapUp (s : State) : State :=
  let s1 := s.failUnsent.stopHeld
  let s2 := (s1.thr.filter (fun e => e.2.wdog.isSome)).foldl (fun s e => s.takeStall e.1) s1
  ((s2.thr.filter (fun e => e.2.gangAbort)).foldl (fun s e => s.takeAbort e.1) s2).withdrawLost

end Sys2Proof.Machine
end

