-- ==== Sys2Proof/Machine/Integer.lean ====
section
/-! DEFINITION. The integer, bit and lane words, OP 0x10 to 0x2F: what each computes, and its meaning. -/

namespace Sys2Proof.Machine
open Sys2Proof

/-! ## What the words compute -/

/-- An integer clamped to the signed 32-bit range. -/
def clamp32 (x : Int) : Int := if x < -2147483648 then -2147483648 else if 2147483647 < x then 2147483647 else x

/-- R121: ADD's result in each mode, with the carry of mode 11. -/
def addWord (m : BitVec 2) (a b : Word) (c : Bool) : Word × Option Bool :=
  match m.toNat with
  | 0 => (a + b, none)
  | 1 => (BitVec.ofInt 32 (clamp32 (a.toInt + b.toInt)), none)
  | 2 => (if 2 ^ 32 ≤ a.toNat + b.toNat then 0xFFFFFFFF else a + b, none)
  | _ => let x := a.toNat + b.toNat + c.toNat; (BitVec.ofNat 32 x, some (decide (2 ^ 32 ≤ x)))

/-- R121: SUB's result in each mode, with the borrow of mode 11. -/
def subWord (m : BitVec 2) (a b : Word) (c : Bool) : Word × Option Bool :=
  match m.toNat with
  | 0 => (a - b, none)
  | 1 => (BitVec.ofInt 32 (clamp32 (a.toInt - b.toInt)), none)
  | 2 => (if a.toNat < b.toNat then 0 else a - b, none)
  | _ => (a - b - BitVec.ofNat 32 c.toNat, some (decide (a.toNat < b.toNat + c.toNat)))

/-- R121: the register result and the p6 carry as a lane's writes. -/
def carryOut (d : BitVec 6) (r : Word × Option Bool) : LaneOut :=
  { regs := [(d.toNat, r.1)], preds := match r.2 with | none => [] | some c => [(6, c)] }

/-- R123: a factor or addend of MUL and MAD. -/
def mulArg (signed : Bool) (x : Word) : Int := if signed then x.toInt else (x.toNat : Int)

/-- R123: the word of the exact product plus addend that the mode selects. -/
def mulWord (m : BitVec 2) (a b d : Word) (mad : Bool) : Word :=
  let f := mulArg (m == 1 || m == 3) a * mulArg (m == 1) b + (if mad then mulArg (m == 1 || m == 3) d else 0)
  if m == 0 then BitVec.ofInt 32 f else BitVec.ofInt 32 (f / 4294967296)

/-- R124: ADD64's second operand. -/
def add64Arg (m : BitVec 2) (th : Thread) (b : BitVec 6) : DWord :=
  match m.toNat with
  | 0 => th.pair b.toNat
  | 1 => (th.reg b.toNat).signExtend 64
  | _ => (th.reg b.toNat).zeroExtend 64

/-- The four shift operations of R127. -/
inductive ShiftOp where
  | shl | shr | sar | rot
  deriving DecidableEq, Repr

/-- R127: a shift or rotation of a word by a count. -/
def shiftWord (op : ShiftOp) (a : Word) (n : Nat) : Word :=
  match op with
  | .shl => if n < 32 then a <<< n else 0
  | .shr => if n < 32 then a >>> n else 0
  | .sar => if n < 32 then a.sshiftRight n else if a.msb then 0xFFFFFFFF else 0
  | .rot => a.rotateLeft (n % 32)

/-- R128: the lesser of two words. -/
def minWord (m : BitVec 1) (a b : Word) : Word :=
  if m == 0 then (if a.toInt ≤ b.toInt then a else b) else (if a.toNat ≤ b.toNat then a else b)
/-- R128: the greater of two words. -/
def maxWord (m : BitVec 1) (a b : Word) : Word :=
  if m == 0 then (if a.toInt ≤ b.toInt then b else a) else (if a.toNat ≤ b.toNat then b else a)

/-- R129: leading zero bits. -/
def clzWord (a : Word) : Word := BitVec.ofNat 32 (if a = 0 then 32 else 31 - a.toNat.log2)
/-- R129: trailing zero bits. -/
def ctzWord (a : Word) : Word := BitVec.ofNat 32 (((List.range 32).find? (fun i => a.getLsbD i)).getD 32)
/-- R129: one bits. -/
def popcWord (a : Word) : Word := BitVec.ofNat 32 ((List.range 32).filter (fun i => a.getLsbD i)).length
/-- R129: the bits in reverse. -/
def brevWord (a : Word) : Word :=
  (List.range 32).foldl (fun r i => if a.getLsbD i then r ||| (1#32 <<< (31 - i)) else r) 0
/-- R129: the absolute value, wrapping. -/
def absWord (a : Word) : Word := if a.msb then -a else a

/-- R130: the field position in vB. -/
def fieldPos (b : Word) : Nat := b.toNat % 256
/-- R130: the field length in vB. -/
def fieldLen (b : Word) : Nat := Nat.min (b.toNat / 256 % 256) 32

/-- R130: BFE's result; `m` is 0 for .N32 and 1 for .I32. -/
def bfeWord (m : BitVec 1) (a b : Word) : Word :=
  let len := fieldLen b
  let e : Int := if m == 0 then (a.toNat : Int) else a.toInt
  let f := e / (2 ^ fieldPos b : Nat) % (2 ^ len : Nat)
  if len = 0 then 0
  else if m == 0 then BitVec.ofInt 32 f
  else BitVec.ofInt 32 (if f < (2 ^ (len - 1) : Nat) then f else f - (2 ^ len : Nat))

/-- R130: BFI's result from the old destination. -/
def bfiWord (d a b : Word) : Word :=
  let pos := fieldPos b
  let len := fieldLen b
  if pos < 32 then
    let m := BitVec.ofNat 32 ((2 ^ len - 1) * 2 ^ pos)
    (d &&& ~~~m) ||| ((a <<< pos) &&& m)
  else d

/-- R49, R131: a comparison under a condition code: signed for LT to GE, unsigned for LTN and GEN, of bits for EQ and NE. -/
def compareInt (c : BitVec 3) (a b : Int) (ua ub : Nat) : Bool :=
  match c.toNat with
  | 0 => a == b
  | 1 => a != b
  | 2 => decide (a < b)
  | 3 => decide (a ≤ b)
  | 4 => decide (b < a)
  | 5 => decide (b ≤ a)
  | 6 => decide (ua < ub)
  | _ => decide (ub ≤ ua)

/-- R131: the combination of a comparison with the old predicate. -/
def combine (m : BitVec 2) (old t : Bool) : Bool :=
  match m.toNat with
  | 0 => t
  | 1 => old && t
  | 2 => old || t
  | _ => old != t

/-- R132: the immediate of SETPI as a number: zero-extended for LTN and GEN, else sign-extended. -/
def setpiImm (p : Prefixes) (c : BitVec 3) (i : BitVec 8) : Int :=
  if decide (6 ≤ c.toNat) then (extNat p 8 i.toNat : Int) else extInt p 8 i.toNat

/-- R134: P2V's word. -/
def p2vWord (th : Thread) : Word :=
  (List.range 8).foldl (fun r i => if th.pred i then r ||| (1#32 <<< i) else r) 0

/-- A byte of a number, 0 the lowest. -/
def byteAt (v k : Nat) : Nat := v / 2 ^ (8 * k) % 256
/-- A nibble of a number, 0 the lowest. -/
def nibbleAt (v k : Nat) : Nat := v / 2 ^ (4 * k) % 16
/-- A word from its bytes, lowest first. -/
def ofDigits (base : Nat) : List Nat → Nat
  | [] => 0
  | d :: ds => d + base * ofDigits base ds

/-- R136: PRMT's result from the selector, vA and vB. -/
def prmtWord (sel a b : Word) : Word :=
  let src := b.toNat * 2 ^ 32 + a.toNat
  BitVec.ofNat 32 (ofDigits 256 ((List.range 4).map (fun j =>
    let n := nibbleAt sel.toNat j
    let v := byteAt src (n % 8)
    if 8 ≤ n then (if 128 ≤ v then 0xFF else 0) else v)))

/-- R137: NLUT's result; `tab` is the table's registers as one number, lowest first. -/
def nlutWord (m : BitVec 2) (a : Word) (tab : Nat) : Word :=
  match m.toNat with
  | 0 => BitVec.ofNat 32 (ofDigits 256 ((List.range 4).map (fun j => byteAt tab (nibbleAt a.toNat (2 * j)))))
  | 1 => BitVec.ofNat 32 (ofDigits 256 ((List.range 4).map (fun j => byteAt tab (nibbleAt a.toNat (2 * j + 1)))))
  | _ => BitVec.ofNat 32 (ofDigits 16 ((List.range 8).map (fun j => nibbleAt tab (nibbleAt a.toNat j))))

/-- R137: the table registers of NLUT as one number. -/
def nlutTable (m : BitVec 2) (th : Thread) (b : BitVec 6) : Nat :=
  if m == 2 then (th.pair b.toNat).toNat
  else (th.pair b.toNat).toNat + (th.pair (b.toNat + 2)).toNat * 2 ^ 64

/-- R138: the source lane of SHFL, if it is one. -/
def shflSource (m : BitVec 2) (l : Nat) (c : Word) : Option Nat :=
  let n := c.toNat
  match m.toNat with
  | 0 => some (n % 32)
  | 1 => if n ≤ l then some (l - n) else none
  | 2 => if l + n < 32 then some (l + n) else none
  | _ => some (l ^^^ (n % 32))

/-- R138: what a participant of SHFL receives: the source participant's vA, else its own. -/
def shflWord (s : State) (ps : List Nat) (m : BitVec 2) (a b : BitVec 6) (t : Nat) : Word :=
  let own := (s.thread t).reg a.toNat
  match shflSource m (laneOf t) ((s.thread t).reg b.toNat) with
  | none => own
  | some l => let u := warpOf t * 32 + l; if ps.contains u then (s.thread u).reg a.toNat else own

/-- R139: VOTE.BALLOT's word. -/
def ballotWord (s : State) (ps : List Nat) (p : Nat) : Word :=
  lanesMask ((ps.filter (fun t => (s.thread t).pred p)).map laneOf)

/-- R139: VOTE's predicate result. -/
def voteBit (s : State) (ps : List Nat) (m : BitVec 2) (a : BitVec 6) : Bool :=
  match m.toNat with
  | 0 => ps.all (fun t => (s.thread t).pred a.toNat)
  | 1 => ps.any (fun t => (s.thread t).pred a.toNat)
  | _ => match ps with | [] => true | t :: r => r.all (fun u => (s.thread u).reg a.toNat == (s.thread t).reg a.toNat)

/-! ## Shapes of meaning -/

/-- A word of the integer pipe with one register result computed from the thread alone (R116, R117). -/
def State.intWord (s : State) (i : Instr) (lat occ : Nat) (d : BitVec 6) (f : Thread → Word) : State :=
  s.compute i .int 0 lat occ (fun s _ t => .one d (f (s.thread t)))

/-- A two-operand word of the integer pipe. -/
def State.intWord2 (s : State) (i : Instr) (d a b : BitVec 6) (f : Word → Word → Word) : State :=
  s.intWord i 4 1 d (fun th => f (th.reg a.toNat) (th.reg b.toNat))

/-- A one-operand word of the UNARY group (R117: latency 5). -/
def State.unaryWord (s : State) (i : Instr) (d a : BitVec 6) (f : Word → Word) : State :=
  s.intWord i 5 1 d (fun th => f (th.reg a.toNat))

/-! ## The meanings -/

/-- ADD (R121). -/
def execAdd (g : Guard) (m : BitVec 2) (d a b : BitVec 6) (s : State) : Host.Outcome State Fault Refusal :=
  .next (s.compute (.add g m d a b) .int 0 4 1 (fun s _ t =>
    let th := s.thread t
    carryOut d (addWord m (th.reg a.toNat) (th.reg b.toNat) (th.pred 6))))

/-- SUB (R121). -/
def execSub (g : Guard) (m : BitVec 2) (d a b : BitVec 6) (s : State) : Host.Outcome State Fault Refusal :=
  .next (s.compute (.sub g m d a b) .int 0 4 1 (fun s _ t =>
    let th := s.thread t
    carryOut d (subWord m (th.reg a.toNat) (th.reg b.toNat) (th.pred 6))))

/-- ADDI (R122). -/
def execAddi (g : Guard) (d a : BitVec 6) (i : BitVec 8) (s : State) : Host.Outcome State Fault Refusal :=
  .next (s.intWord (.addi g d a i) 4 1 d (fun th => th.reg a.toNat + immWord s.cur.pfx 8 i.toNat))

/-- MUL (R123). -/
def execMul (g : Guard) (m : BitVec 2) (d a b : BitVec 6) (s : State) : Host.Outcome State Fault Refusal :=
  .next (s.intWord (.mul g m d a b) 8 2 d (fun th => mulWord m (th.reg a.toNat) (th.reg b.toNat) 0 false))

/-- MAD (R123). -/
def execMad (g : Guard) (m : BitVec 2) (d a b : BitVec 6) (s : State) : Host.Outcome State Fault Refusal :=
  .next (s.intWord (.mad g m d a b) 8 2 d (fun th => mulWord m (th.reg a.toNat) (th.reg b.toNat) (th.reg d.toNat) true))

/-- ADD64 (R124). -/
def execAdd64 (g : Guard) (m : BitVec 2) (d a b : BitVec 6) (s : State) : Host.Outcome State Fault Refusal :=
  .next (s.compute (.add64 g m d a b) .int 0 5 1 (fun s _ t =>
    let th := s.thread t
    { regs := pairWrites d.toNat (th.pair a.toNat + add64Arg m th b) }))

/-- LEA (R125). -/
def execLea (g : Guard) (m : BitVec 2) (d a b : BitVec 6) (s : State) : Host.Outcome State Fault Refusal :=
  .next (s.compute (.lea g m d a b) .int 0 5 1 (fun s _ t =>
    let th := s.thread t
    { regs := pairWrites d.toNat (th.pair a.toNat + (((th.reg b.toNat).signExtend 64) <<< m.toNat)) }))

/-- AND (R126). -/
def execAnd (g : Guard) (d a b : BitVec 6) (s : State) : Host.Outcome State Fault Refusal :=
  .next (s.intWord2 (.and g d a b) d a b (fun x y => x &&& y))

/-- OR (R126). -/
def execOr (g : Guard) (d a b : BitVec 6) (s : State) : Host.Outcome State Fault Refusal :=
  .next (s.intWord2 (.or g d a b) d a b (fun x y => x ||| y))

/-- XOR (R126). -/
def execXor (g : Guard) (d a b : BitVec 6) (s : State) : Host.Outcome State Fault Refusal :=
  .next (s.intWord2 (.xor g d a b) d a b (fun x y => x ^^^ y))

/-- ANDN (R126). -/
def execAndn (g : Guard) (d a b : BitVec 6) (s : State) : Host.Outcome State Fault Refusal :=
  .next (s.intWord2 (.andn g d a b) d a b (fun x y => x &&& ~~~y))

/-- SHL (R127). -/
def execShl (g : Guard) (d a b : BitVec 6) (s : State) : Host.Outcome State Fault Refusal :=
  .next (s.intWord2 (.shl g d a b) d a b (fun x y => shiftWord .shl x y.toNat))

/-- SHR (R127). -/
def execShr (g : Guard) (d a b : BitVec 6) (s : State) : Host.Outcome State Fault Refusal :=
  .next (s.intWord2 (.shr g d a b) d a b (fun x y => shiftWord .shr x y.toNat))

/-- SAR (R127). -/
def execSar (g : Guard) (d a b : BitVec 6) (s : State) : Host.Outcome State Fault Refusal :=
  .next (s.intWord2 (.sar g d a b) d a b (fun x y => shiftWord .sar x y.toNat))

/-- ROT (R127). -/
def execRot (g : Guard) (d a b : BitVec 6) (s : State) : Host.Outcome State Fault Refusal :=
  .next (s.intWord2 (.rot g d a b) d a b (fun x y => shiftWord .rot x y.toNat))

/-- SHI with the SHL operation (R127). -/
def execShlImm (g : Guard) (d a : BitVec 6) (c : BitVec 5) (s : State) : Host.Outcome State Fault Refusal :=
  .next (s.intWord (.shlImm g d a c) 4 1 d (fun th => shiftWord .shl (th.reg a.toNat) c.toNat))

/-- SHI with the SHR operation (R127). -/
def execShrImm (g : Guard) (d a : BitVec 6) (c : BitVec 5) (s : State) : Host.Outcome State Fault Refusal :=
  .next (s.intWord (.shrImm g d a c) 4 1 d (fun th => shiftWord .shr (th.reg a.toNat) c.toNat))

/-- SHI with the SAR operation (R127). -/
def execSarImm (g : Guard) (d a : BitVec 6) (c : BitVec 5) (s : State) : Host.Outcome State Fault Refusal :=
  .next (s.intWord (.sarImm g d a c) 4 1 d (fun th => shiftWord .sar (th.reg a.toNat) c.toNat))

/-- SHI with the ROT operation (R127). -/
def execRotImm (g : Guard) (d a : BitVec 6) (c : BitVec 5) (s : State) : Host.Outcome State Fault Refusal :=
  .next (s.intWord (.rotImm g d a c) 4 1 d (fun th => shiftWord .rot (th.reg a.toNat) c.toNat))

/-- MIN (R128). -/
def execMin (g : Guard) (m : BitVec 1) (d a b : BitVec 6) (s : State) : Host.Outcome State Fault Refusal :=
  .next (s.intWord2 (.min g m d a b) d a b (minWord m))

/-- MAX (R128). -/
def execMax (g : Guard) (m : BitVec 1) (d a b : BitVec 6) (s : State) : Host.Outcome State Fault Refusal :=
  .next (s.intWord2 (.max g m d a b) d a b (maxWord m))

/-- CLZ (R129). -/
def execClz (g : Guard) (d a : BitVec 6) (s : State) : Host.Outcome State Fault Refusal :=
  .next (s.unaryWord (.clz g d a) d a clzWord)

/-- CTZ (R129). -/
def execCtz (g : Guard) (d a : BitVec 6) (s : State) : Host.Outcome State Fault Refusal :=
  .next (s.unaryWord (.ctz g d a) d a ctzWord)

/-- POPC (R129). -/
def execPopc (g : Guard) (d a : BitVec 6) (s : State) : Host.Outcome State Fault Refusal :=
  .next (s.unaryWord (.popc g d a) d a popcWord)

/-- BREV (R129). -/
def execBrev (g : Guard) (d a : BitVec 6) (s : State) : Host.Outcome State Fault Refusal :=
  .next (s.unaryWord (.brev g d a) d a brevWord)

/-- ABS (R129). -/
def execAbs (g : Guard) (d a : BitVec 6) (s : State) : Host.Outcome State Fault Refusal :=
  .next (s.unaryWord (.abs g d a) d a absWord)

/-- NEG (R129). -/
def execNeg (g : Guard) (d a : BitVec 6) (s : State) : Host.Outcome State Fault Refusal :=
  .next (s.unaryWord (.neg g d a) d a (fun x => -x))

/-- NOT (R129). -/
def execNot (g : Guard) (d a : BitVec 6) (s : State) : Host.Outcome State Fault Refusal :=
  .next (s.unaryWord (.not g d a) d a (fun x => ~~~x))

/-- SEXT8 (R129). -/
def execSext8 (g : Guard) (d a : BitVec 6) (s : State) : Host.Outcome State Fault Refusal :=
  .next (s.unaryWord (.sext8 g d a) d a (fun x => (x.extractLsb' 0 8).signExtend 32))

/-- SEXT16 (R129). -/
def execSext16 (g : Guard) (d a : BitVec 6) (s : State) : Host.Outcome State Fault Refusal :=
  .next (s.unaryWord (.sext16 g d a) d a (fun x => (x.extractLsb' 0 16).signExtend 32))

/-- BFE (R130). -/
def execBfe (g : Guard) (m : BitVec 1) (d a b : BitVec 6) (s : State) : Host.Outcome State Fault Refusal :=
  .next (s.intWord (.bfe g m d a b) 5 1 d (fun th => bfeWord m (th.reg a.toNat) (th.reg b.toNat)))

/-- BFI (R130). -/
def execBfi (g : Guard) (d a b : BitVec 6) (s : State) : Host.Outcome State Fault Refusal :=
  .next (s.intWord (.bfi g d a b) 5 1 d (fun th => bfiWord (th.reg d.toNat) (th.reg a.toNat) (th.reg b.toNat)))

/-- SETP (R131). -/
def execSetp (g : Guard) (m : BitVec 2) (c q : BitVec 3) (a b : BitVec 6) (s : State) : Host.Outcome State Fault Refusal :=
  .next (s.compute (.setp g m c q a b) .int 0 4 1 (fun s _ t =>
    let th := s.thread t
    let x := th.reg a.toNat
    let y := th.reg b.toNat
    { preds := [(q.toNat, combine m (th.pred q.toNat) (compareInt c x.toInt y.toInt x.toNat y.toNat))] }))

/-- SETPI (R132). -/
def execSetpi (g : Guard) (c q : BitVec 3) (a : BitVec 6) (i : BitVec 8) (s : State) : Host.Outcome State Fault Refusal :=
  let imm := setpiImm s.cur.pfx c i
  .next (s.compute (.setpi g c q a i) .int 0 4 1 (fun s _ t =>
    let x := (s.thread t).reg a.toNat
    { preds := [(q.toNat, compareInt c x.toInt imm x.toNat imm.toNat)] }))

/-- SEL (R133). -/
def execSel (g : Guard) (q : BitVec 2) (d a b : BitVec 6) (s : State) : Host.Outcome State Fault Refusal :=
  .next (s.intWord (.sel g q d a b) 4 1 d (fun th => if th.pred q.toNat then th.reg a.toNat else th.reg b.toNat))

/-- MOV (R134). -/
def execMov (g : Guard) (d a : BitVec 6) (s : State) : Host.Outcome State Fault Refusal :=
  .next (s.intWord (.mov g d a) 4 1 d (fun th => th.reg a.toNat))

/-- P2V (R134). -/
def execP2v (g : Guard) (d : BitVec 6) (s : State) : Host.Outcome State Fault Refusal :=
  .next (s.intWord (.p2v g d) 4 1 d p2vWord)

/-- V2P (R134). -/
def execV2p (g : Guard) (a : BitVec 6) (s : State) : Host.Outcome State Fault Refusal :=
  .next (s.compute (.v2p g a) .int 0 4 1 (fun s _ t =>
    { preds := (List.range 7).map (fun i => (i, ((s.thread t).reg a.toNat).getLsbD i)) }))

/-- MOVI (R135). -/
def execMovi (g : Guard) (d : BitVec 6) (i : BitVec 14) (s : State) : Host.Outcome State Fault Refusal :=
  .next (s.intWord (.movi g d i) 4 1 d (fun _ => immWord s.cur.pfx 14 i.toNat))

/-- PRMT (R136). -/
def execPrmt (g : Guard) (d a b : BitVec 6) (s : State) : Host.Outcome State Fault Refusal :=
  .next (s.intWord (.prmt g d a b) 5 1 d (fun th => prmtWord (th.reg d.toNat) (th.reg a.toNat) (th.reg b.toNat)))

/-- NLUT (R137). -/
def execNlut (g : Guard) (m : BitVec 2) (d a b : BitVec 6) (s : State) : Host.Outcome State Fault Refusal :=
  .next (s.intWord (.nlut g m d a b) 5 1 d (fun th => nlutWord m (th.reg a.toNat) (nlutTable m th b)))

/-- SHFL (R138, R140). -/
def execShfl (g : Guard) (m : BitVec 2) (d a b : BitVec 6) (s : State) : Host.Outcome State Fault Refusal :=
  .next (s.compute (.shfl g m d a b) .int 0 8 1 (fun s ps t => .one d (shflWord s ps m a b t)))

/-- VOTE (R139, R140). -/
def execVote (g : Guard) (m : BitVec 2) (d a : BitVec 6) (s : State) : Host.Outcome State Fault Refusal :=
  .next (s.compute (.vote g m d a) .int 0 6 1 (fun s ps _ =>
    if m == 2 then .one d (ballotWord s ps a.toNat) else { preds := [(d.toNat, voteBit s ps m a)] }))

end Sys2Proof.Machine
end

