-- ==== Sys2Proof/Machine/Float.lean ====
section
/-! DEFINITION. The floating-point and conversion words, OP 0x30 to 0x41 (R151 to R167). -/

namespace Sys2Proof.Machine
open Sys2Proof

/-! ## Shapes -/

/-- A register result with its flags. -/
def floatOut (d : BitVec 6) (r : Nat × BitVec 5) : LaneOut := { regs := [(d.toNat, BitVec.ofNat 32 r.1)], flags := r.2 }

/-- A word of the FP pipe whose result depends on the thread alone (R151). -/
def State.fpWord (s : State) (i : Instr) (lat : Nat) (d : BitVec 6) (f : Thread → Nat × BitVec 5) : State :=
  s.compute i .fp 1 lat 1 (fun s _ t => floatOut d (f (s.thread t)))

/-- A word of the SFU: 18 cycles, a bundle of n threads occupying it for a quarter of an eighth, rounded up (R151). -/
def State.sfuWord (s : State) (i : Instr) (d a : BitVec 6) (f : Word → Nat × BitVec 5) : State :=
  s.compute i .fp 2 18 ((s.cur.mem.length + 7) / 8) (fun s _ t => floatOut d (f ((s.thread t).reg a.toNat)))

/-- A register as a code. -/
def Thread.code (th : Thread) (a : BitVec 6) : Nat := (th.reg a.toNat).toNat

/-- R160: the two elements of a packed word: their results and the union of their flags. -/
def packed (f : Nat → Nat × BitVec 5) : Nat × BitVec 5 :=
  let x := f 0
  let y := f 1
  (x.1 + 65536 * y.1, x.2 ||| y.2)

/-- R160: an element of a packed register. -/
def Thread.half (th : Thread) (a : BitVec 6) (k : Nat) : Nat := th.code a / 65536 ^ k % 65536

/-- R161: a packed word's format. -/
def packedFmt (m : BitVec 2) : Fmt := if m.getLsbD 0 then fp16 else bf16
/-- R161: a packed word's rounding mode. -/
def packedMode (m : BitVec 2) (th : Thread) : RMode := if m.getLsbD 1 then modeOf th.fpmode else .rne

/-! ## FP32 arithmetic (R155 to R158) -/

/-- FADD (R155). -/
def execFadd (g : Guard) (m : BitVec 2) (d a b : BitVec 6) (s : State) : Host.Outcome State Fault Refusal :=
  .next (s.fpWord (.fadd g m d a b) 5 d (fun th => fp32.add (modeOf m) (th.code a) (th.code b)))

/-- FSUB (R155). -/
def execFsub (g : Guard) (m : BitVec 2) (d a b : BitVec 6) (s : State) : Host.Outcome State Fault Refusal :=
  .next (s.fpWord (.fsub g m d a b) 5 d (fun th => fp32.sub (modeOf m) (th.code a) (th.code b)))

/-- FMUL (R155). -/
def execFmul (g : Guard) (m : BitVec 2) (d a b : BitVec 6) (s : State) : Host.Outcome State Fault Refusal :=
  .next (s.fpWord (.fmul g m d a b) 5 d (fun th => fp32.mul (modeOf m) (th.code a) (th.code b)))

/-- FMA (R155). -/
def execFma (g : Guard) (m : BitVec 2) (d a b : BitVec 6) (s : State) : Host.Outcome State Fault Refusal :=
  .next (s.fpWord (.fma g m d a b) 5 d (fun th => fp32.fma (modeOf m) (th.code a) (th.code b) (th.code d)))

/-- FMIN (R156). -/
def execFmin (g : Guard) (d a b : BitVec 6) (s : State) : Host.Outcome State Fault Refusal :=
  .next (s.fpWord (.fmin g d a b) 4 d (fun th => fp32.minmax false (th.code a) (th.code b)))

/-- FMAX (R156). -/
def execFmax (g : Guard) (d a b : BitVec 6) (s : State) : Host.Outcome State Fault Refusal :=
  .next (s.fpWord (.fmax g d a b) 4 d (fun th => fp32.minmax true (th.code a) (th.code b)))

/-- FSETP (R157). -/
def execFsetp (g : Guard) (m : BitVec 2) (c q : BitVec 3) (a b : BitVec 6) (s : State) : Host.Outcome State Fault Refusal :=
  .next (s.compute (.fsetp g m c q a b) .fp 1 4 1 (fun s _ t =>
    let th := s.thread t
    let r := fcompare c (th.code a) (th.code b)
    { preds := [(q.toNat, combine m (th.pred q.toNat) r.1)], flags := r.2 }))

/-- FABS (R158). -/
def execFabs (g : Guard) (d a : BitVec 6) (s : State) : Host.Outcome State Fault Refusal :=
  .next (s.fpWord (.fabs g d a) 4 d (fun th => (fp32.magOf (th.code a), 0)))

/-- FNEG (R158). -/
def execFneg (g : Guard) (d a : BitVec 6) (s : State) : Host.Outcome State Fault Refusal :=
  .next (s.fpWord (.fneg g d a) 4 d (fun th => (fp32.code (!fp32.negOf (th.code a)) (fp32.magOf (th.code a)), 0)))

/-- FRND (R158). -/
def execFrnd (g : Guard) (m : BitVec 2) (d a : BitVec 6) (s : State) : Host.Outcome State Fault Refusal :=
  .next (s.fpWord (.frnd g m d a) 4 d (fun th => frndWord (modeOf m) (th.code a)))

/-! ## Special functions (R159) -/

/-- RCP (R159). -/
def execRcp (g : Guard) (d a : BitVec 6) (s : State) : Host.Outcome State Fault Refusal := .next (s.sfuWord (.rcp g d a) d a rcpWord)

/-- RSQ (R159). -/
def execRsq (g : Guard) (d a : BitVec 6) (s : State) : Host.Outcome State Fault Refusal := .next (s.sfuWord (.rsq g d a) d a rsqWord)

/-- SQRT (R159). -/
def execSqrt (g : Guard) (d a : BitVec 6) (s : State) : Host.Outcome State Fault Refusal :=
  .next (s.sfuWord (.sqrt g d a) d a (fun w => sqrtWord w.toNat))

/-- EX2 (R159). -/
def execEx2 (g : Guard) (d a : BitVec 6) (s : State) : Host.Outcome State Fault Refusal := .next (s.sfuWord (.ex2 g d a) d a ex2Word)

/-- LG2 (R159). -/
def execLg2 (g : Guard) (d a : BitVec 6) (s : State) : Host.Outcome State Fault Refusal := .next (s.sfuWord (.lg2 g d a) d a lg2Word)

/-- SIN (R159). -/
def execSin (g : Guard) (d a : BitVec 6) (s : State) : Host.Outcome State Fault Refusal :=
  .next (s.sfuWord (.sin g d a) d a (trigWord false))

/-- COS (R159). -/
def execCos (g : Guard) (d a : BitVec 6) (s : State) : Host.Outcome State Fault Refusal :=
  .next (s.sfuWord (.cos g d a) d a (trigWord true))

/-! ## Packed pairs (R160 to R162) -/

/-- HADD2 (R161). -/
def execHadd2 (g : Guard) (m : BitVec 2) (d a b : BitVec 6) (s : State) : Host.Outcome State Fault Refusal :=
  .next (s.fpWord (.hadd2 g m d a b) 5 d (fun th =>
    packed (fun k => (packedFmt m).add (packedMode m th) (th.half a k) (th.half b k))))

/-- HMUL2 (R161). -/
def execHmul2 (g : Guard) (m : BitVec 2) (d a b : BitVec 6) (s : State) : Host.Outcome State Fault Refusal :=
  .next (s.fpWord (.hmul2 g m d a b) 5 d (fun th =>
    packed (fun k => (packedFmt m).mul (packedMode m th) (th.half a k) (th.half b k))))

/-- HFMA2 (R161). -/
def execHfma2 (g : Guard) (m : BitVec 2) (d a b : BitVec 6) (s : State) : Host.Outcome State Fault Refusal :=
  .next (s.fpWord (.hfma2 g m d a b) 5 d (fun th =>
    packed (fun k => (packedFmt m).fma (packedMode m th) (th.half a k) (th.half b k) (th.half d k))))

/-- HMM2 (R162): M[1] chooses FP16, M[0] the maximum (R56). -/
def execHmm2 (g : Guard) (m : BitVec 2) (d a b : BitVec 6) (s : State) : Host.Outcome State Fault Refusal :=
  .next (s.fpWord (.hmm2 g m d a b) 4 d (fun th =>
    packed (fun k => (if m.getLsbD 1 then fp16 else bf16).minmax (m.getLsbD 0) (th.half a k) (th.half b k))))

/-! ## Conversions (R163 to R165) -/

/-- R147: the generator state after a word that rounds with SR. -/
def srSeed (r : BitVec 1) (th : Thread) : Option Word := if r == 1 then some (srStep th.srseed) else none

/-- CVTF (R163). -/
def execCvtf (g : Guard) (m : BitVec 2) (d a : BitVec 6) (f : BitVec 3) (r t w : BitVec 1) (s : State) : Host.Outcome State Fault Refusal :=
  .next (s.compute (.cvtf g m d a f r t w) .fp 1 5 1 (fun s _ tid =>
    let th := s.thread tid
    if w == 1 then floatOut d (widen (fmtOf f) (th.code a % 2 ^ (fmtOf f).width))
    else { floatOut d (narrow (fmtOf f) (convMode m r (srStep th.srseed) 0) (t == 1) (th.code a)) with seed := srSeed r th }))

/-- R164: where CVTP places its two elements in the old destination. -/
def cvtpPlace (f : BitVec 3) (h : BitVec 1) (old x y : Nat) : Nat :=
  if f == 1 || f == 2 then x + 65536 * y
  else if h == 0 then old / 65536 * 65536 + x + 256 * y
  else old % 65536 + 65536 * x + 16777216 * y

/-- CVTP (R164). -/
def execCvtp (g : Guard) (m : BitVec 2) (d a : BitVec 6) (f : BitVec 3) (r t h : BitVec 1) (s : State) : Host.Outcome State Fault Refusal :=
  .next (s.compute (.cvtp g m d a f r t h) .fp 1 5 1 (fun s _ tid =>
    let th := s.thread tid
    let x := narrow (fmtOf f) (convMode m r (srStep th.srseed) 0) (t == 1) (th.reg a.toNat).toNat
    let y := narrow (fmtOf f) (convMode m r (srStep th.srseed) 1) (t == 1) (th.reg (a.toNat + 1)).toNat
    { floatOut d (cvtpPlace f h (th.code d) x.1 y.1, x.2 ||| y.2) with seed := srSeed r th }))

/-- CVTI (R165). -/
def execCvti (g : Guard) (m : BitVec 2) (d a : BitVec 6) (c : BitVec 3) (w : BitVec 1) (s : State) : Host.Outcome State Fault Refusal :=
  .next (s.fpWord (.cvti g m d a c w) 5 d (fun th =>
    if w == 1 then fromIntType (modeOf m) c (th.reg a.toNat)
    else let r := toIntType (modeOf m) c (th.code a); (r.1.toNat, r.2)))

/-! ## Microscaling (R166, R167) -/

/-- MXQ (R166): the participants' values form one block. -/
def execMxq (g : Guard) (m : BitVec 2) (d a : BitVec 6) (f : BitVec 3) (r : BitVec 1) (s : State) : Host.Outcome State Fault Refusal :=
  .next (s.compute (.mxq g m d a f r) .fp 1 10 2 (fun s ps tid =>
    let vs := ps.map (fun t => (s.thread t).code a)
    let th := s.thread tid
    if blockBad vs then { floatOut d (0xFF00, flagNV) with seed := srSeed r th }
    else
      let x := blockScale f vs
      let e := mxElement f (convMode m r (srStep th.srseed) 0) x (th.code a)
      { floatOut d ((x + 127).toNat * 256 + e.1, e.2) with seed := srSeed r th }))

/-- MXD (R167). -/
def execMxd (g : Guard) (d a : BitVec 6) (f : BitVec 3) (s : State) : Host.Outcome State Fault Refusal :=
  .next (s.fpWord (.mxd g d a f) 5 d (fun th =>
    mxExpand f (th.code a / 256 % 256) (th.code a % 2 ^ (fmtOf f).width)))

end Sys2Proof.Machine
end

