-- ==== Sys2Proof/Machine/Hk3.lean ====
section
/-! DEFINITION. HK3: what it decides for a held warp, the restart at the restart points, the end of a fault domain, and the mismatch
histograms (R110, R400 to R403). -/

namespace Sys2Proof.Machine
open Sys2Proof

/-! ## The end of a fault domain (R289, R365, R402) -/

/-- The launches of a fault domain. -/
def State.domain (s : State) (part fdom : Nat) : List Launch := s.launches.filter (fun l => l.part == part && l.fdom == fdom)

/-- The owner is a warp of one of the launches. -/
def ownedBy (ls : List Launch) (o : Owner) : Bool := match o with | .token lid _ _ _ => ls.any (fun l => l.lid == lid) | _ => false

/-- R289: a command stops at the next burst boundary without completing: the bursts that it has begun are finished, for nobody. -/
def CopyCmd.stopped (c : CopyCmd) : Option CopyCmd :=
  if c.bursts.isEmpty || c.stalled.isSome then none
  else some { c with owner := .nobody, chain := none, inRecord := false, x := { c.x with be := false, cnt := 0 }, readDone := true }

/-- A copy engine in which the commands of some owners have stopped. -/
def CopyEngine.without (e : CopyEngine) (mine : Owner → Bool) : CopyEngine :=
  { e with q := (e.q.map (fun b => (b.1, b.2.filterMap (fun c => if mine c.owner then c.stopped else some c)))).filter (fun b => !b.2.isEmpty) }

/-- Commands of killed launches stop in the copy engines (R289). -/
def State.killCopies (s : State) (mine : Owner → Bool) : State :=
  { s with copy := (s.copy.map (fun e => (e.1, e.2.without mine))).filter (fun e => e.2 != CopyEngine.init) }

/-- What a failed write-back of a core would report to the threads of a warp goes to nobody. -/
def State.forgetStores (s : State) (key : Nat) : State :=
  let keep := fun (ts : List Nat) => ts.filter (fun t => warpOf t != key)
  let s1 := s.updCore (coreOf key) (fun c => { c with l1 := c.l1.map (fun e => (e.1, { e.2 with who := keep e.2.who })) })
  { s1 with lodge := { s1.lodge with outs := s1.lodge.outs.map (fun (r : OutReq) =>
      match r.owner with | .back c ts a id => { r with owner := ReqOwner.back c (keep ts) a id } | _ => r) } }

/-- A warp slot of a killed launch is freed at once. -/
def State.killWarp (s : State) (key : Nat) : State := (s.forgetStores key).emptySlot (coreOf key) (slotOf key)

/-- A launch of a killed domain is over: its warps, tile slots, workgroups and tagged words go, and it completes with the cause. -/
def State.killLaunch (s : State) (cause : Byte) (l : Launch) : State :=
  let keys := (s.warps.filter (fun e => e.2.used && e.2.lid == l.lid)).map Prod.fst
  let s1 := keys.foldl State.killWarp s
  let s2 := (s1.wgs.filter (fun w => w.lid == l.lid)).foldl (fun s w => s.emptyTiles w.core l.lid w.g) s1
  { s2 with wgs := s2.wgs.filter (fun w => w.lid != l.lid) }.launchDone { l with status := cause, killed := true }

/-- R402: A KILL of launches: dirty L1 bytes are written back, their threads stop, their commands stop, what they hold is freed, and each
launch completes with the cause. -/
def State.killLaunches (s : State) (ls : List Launch) (cause : Byte) : State :=
  let mine := ownedBy ls
  let s0 := s.cores.foldl (fun s e => s.writeBackL1 e.1 (fun _ => true)) s
  let s1 := (((s0.killCopies mine).killColl mine).killWelt mine)
  let s2 := if s1.cur.threads.any (fun t => ls.any (fun l => l.lid == (s1.warpOfThread t).lid)) then s1.endWord else s1
  ls.foldl (fun s l => s.killLaunch cause l) s2

/-- R402: the end of a fault domain. -/
def State.kill (s : State) (part fdom : Nat) (cause : Byte) : State := s.killLaunches (s.domain part fdom) cause

/-! ## The decision (R400, R401) -/

/-- R401: HK3 kills rather than restarts. -/
def State.hk3Kills (s : State) (key : Nat) : Bool :=
  let w := s.warp key
  w.hkKill || (s.liveThreads key).any (fun t => (s.thread t).idempc == 0) || decide (4 ≤ w.restarts)

/-- R402: the first cause that HK3 has received of the warps that it holds for some launches (assumption 45). -/
def State.firstCause (s : State) (ls : List Launch) (own : Byte) : Byte :=
  match s.hk3Order.find? (fun k => (s.warp k).held && ls.any (fun l => l.lid == (s.warp k).lid)) with
  | some k => (s.warp k).hkCause
  | none => own

/-- HK3_EVENT (R400, R401): HK3 decides once for a held warp: the end of its fault domain, or a restart. -/
def execHk3Event (core : Fin 1024) (slot : Fin 64) (s : State) : Host.Outcome State Fault Refusal :=
  let key := warpKey core.val slot.val
  let w := s.warp key
  .next (
    if !w.held || w.hkRestart then s
    else if s.hk3Kills key then
      let fdom := match s.launch? w.lid with | some l => l.fdom | none => (s.viewOf w).fdom w.rcb
      s.kill w.part fdom (s.firstCause (s.domain w.part fdom) w.hkCause)
    else s.updWarp key (fun x => { x with hkRestart := true }))

/-- R110, R401: a thread at its restart point. -/
def Thread.restarted (th : Thread) (cycle : Nat) : Thread :=
  { th with
    pc := th.idempc, depth := th.idemDepth, lstk := th.idemLstk, h := false, dm := false, age := 0, park := .none, wdog := none,
    readyAt := cycle, rcache := th.rcache.filter (fun e => decide (e.1 < th.idemDepth)) }

/-- A warp becomes pending (R82). -/
def State.makePending (s : State) (key : Nat) : State :=
  s.updCore (coreOf key) (fun c => { c with
    active := c.active.filter (fun e => e.1 != slotOf key), pending := c.pending.filter (fun k => k != slotOf key) ++ [slotOf key] })

/-- HK3_RESTART (R110, R401): after the backoff every live thread of the warp resumes at its restart point and the warp is pending. Parked
threads are interrupted first, and the restart waits while one of them must wait (R74, R400). -/
def execHk3Restart (core : Fin 1024) (slot : Fin 64) (s : State) : Host.Outcome State Fault Refusal :=
  let key := warpKey core.val slot.val
  let w := s.warp key
  .next (
    if !w.held || !w.hkRestart then s
    else
      match s.interruptAll (s.liveThreads key) with
      | (s1, false) => s1
      | (s1, true) =>
        let s2 := (s1.liveThreads key).foldl (fun s t => s.updThread t (fun th => th.restarted (s.cycleOf core.val))) s1
        (s2.updWarp key (fun x => { x with
          held := false, hkRestart := false, hkKill := false, hkCause := 0, restarts := x.restarts + 1, rcv := [], leaveAt := none,
          starved := 0 })).makePending key)

/-- RESTART_COUNT_EXPIRY (R401): 2^24 cycles without an HK3 event return a warp's restart count to 0. -/
def execRestartCountExpiry (core : Fin 1024) (slot : Fin 64) (s : State) : Host.Outcome State Fault Refusal :=
  .next (s.updWarp (warpKey core.val slot.val) (fun x =>
    if decide (2 ^ 24 ≤ x.quiet) then { x with restarts := 0, quiet := 0 } else x))

/-! ## The mismatch histograms (R403) -/

/-- HISTOGRAM_WRITE (R403): HK3 writes the counters of all cores to flash. -/
def execHistogramWrite (s : State) : Host.Outcome State Fault Refusal := .next { s with dev := { s.dev with histFlash := s.dev.hist } }

end Sys2Proof.Machine
end

