-- ==== Sys2Proof/Machine/Hk2.lean ====
section
/-! DEFINITION. HK2: it fills on-demand pages, moves pages and resizes the translation tables (R200 to R215). -/

namespace Sys2Proof.Machine
open Sys2Proof

/-! ## Writing entries (R200, R205) -/

/-- An entry with a field replaced. -/
def pteSet (e : BitVec 128) (lo n v : Nat) : BitVec 128 :=
  BitVec.ofNat 128 (e.toNat - pteField e lo n * 2 ^ lo + v % 2 ^ n * 2 ^ lo)

/-- Where the entry that covers an address stands in outer memory, with the entry and its page size (R203, R205). -/
def State.pteSpot (s : State) (part va : Nat) : Option (Nat × BitVec 128 × Nat) :=
  (List.range 3).findSome? (fun size =>
    let d := (s.part part).descOf size
    (List.range 3).findSome? (fun j =>
      let pa := d.entryAt j (va % 2 ^ 56 / 2 ^ sizeShift size)
      let e := s.pteAt pa
      if pteHit e size (va % 2 ^ 56) then some (pa, e, size) else none))

/-- HK2 writes an entry where R205 probes for it, and shoots the page down (R208). -/
def State.setPte (s : State) (part va pa size : Nat) (e : BitVec 128) : State :=
  (s.storeNat (Home.outer pa).key 16 e.toNat).shootdown part va size

/-- An entry made mapped with a target, home and frame. -/
def pteTo (e : BitVec 128) (pf : PageFill) : BitVec 128 :=
  pteSet (pteSet (pteSet (pteSet (pteSet e 1 1 1) 2 1 0) 6 3 pf.tgt.toNat) 76 12 pf.home.toNat) 16 40 pf.frame.toNat

/-- An entry made on-demand; its other fields stay. -/
def pteOnDemand (e : BitVec 128) : BitVec 128 := pteSet (pteSet e 1 1 0) 2 1 1

/-! ## Waiters (R73, R210, R337) -/

/-- An address lies in the page of another. -/
def samePage (size va : Nat) (v : DWord) : Bool := v.toNat / 2 ^ sizeShift size == va / 2 ^ sizeShift size

/-- HK2 has answered for a page: the threads, contexts and writes that wait for it go on, and its notices are gone. -/
def State.releasePage (s : State) (part va size : Nat) : State :=
  let waits := s.thr.filter (fun e =>
    (match e.2.park with | .page v => samePage size va v | _ => false) && (s.warpOfThread e.1).part == part)
  let s1 := waits.foldl (fun s e => s.updThread e.1 (fun th => { th with park := .none })) s
  let s2 := (List.range 8).foldl (fun s k =>
    match (s.cx k).wait with
    | .page v => if (s.cx k).part == part && samePage size va v then s.updCx k (fun c => { c with st := 1, wait := .none }) else s
    | _ => s) s1
  { s2 with dev := { s2.dev with notices := s2.dev.notices.filter (fun n => !(n.1 == part && samePage size va n.2)) } }.storesAgain part va
    (sizeShift size)

/-! ## ON_DEMAND_FILL (R210) -/

/-- Bytes written at offsets of a page's place on this device. -/
def State.fillBytes (s : State) (h : Home) : List (Nat × Byte) → State
  | [] => s
  | (o, b) :: r => (s.putBytes (h.key + o) [b]).fillBytes h r

/-- The place of the first byte of a page. -/
def pageHome (e : BitVec 128) (size va : Nat) : Home :=
  pteHome e (sizeShift size) (va / 2 ^ sizeShift size * 2 ^ sizeShift size)

/-- The bytes of an answer that lie in a page. -/
def bytesWithin (pf : PageFill) (size : Nat) : List (Nat × Byte) := pf.bytes.filter (fun b => decide (b.1 < 2 ^ sizeShift size))

/-- Tags and swizzle ids go into a page of a slice, at offsets of its words and lines. -/
def State.fillMarks (s : State) (h : Home) (pf : PageFill) (size : Nat) : State :=
  if !h.isSlice then s
  else
    let s1 := (pf.tags.filter (fun x => decide (x.1 < 2 ^ sizeShift size))).foldl (fun s x => s.setTag (h.key + x.1) x.2) s
    (pf.swz.filter (fun x => decide (x.1 < 2 ^ sizeShift size))).foldl (fun s x => s.setSwz (h.key + x.1) x.2) s1

/-- Bytes, tags and swizzle ids go into a page unless it is REMOTE. -/
def State.fillPage (s : State) (e : BitVec 128) (size va : Nat) (pf : PageFill) : State :=
  match pageHome e size va with
  | .remote .. => s
  | h => ((s.touch h (2 ^ sizeShift size)).fillBytes h (bytesWithin pf size)).fillMarks h pf size

/-- The move that HK2 makes of the page of an address (R215). -/
def State.moveOf (s : State) (part va : Nat) : Option PageMove :=
  s.dev.moves.find? (fun m => m.part == part && m.vpn == va / 2 ^ sizeShift m.size)

/-- HK2 keeps the page of an address on-demand: for a saved workgroup (R406), or while it moves it (R215). -/
def State.pageSaved (s : State) (part va size : Nat) : Bool :=
  s.wgs.any (fun w => w.pages.contains (part, size, va / 2 ^ sizeShift size)) || (s.moveOf part va).isSome

/-- ON_DEMAND_FILL (R210): HK2 fills an on-demand page and maps it, or makes it not present; what waits for it goes on. A page that is
on-demand for a saved workgroup waits for its resumption (R406), and one that is moving for the end of its move (R215). -/
def execOnDemandFill (part : Fin 8) (va : DWord) (ans : Option PageFill) (s : State) : Host.Outcome State Fault Refusal :=
  let a := va.toNat % 2 ^ 56
  .next (
    match s.pteSpot part.val a with
    | none => s
    | some (pa, e, size) =>
      if e.getLsbD 1 || !e.getLsbD 2 || s.pageSaved part.val a size then s
      else
        match ans with
        | none => (s.setPte part.val a pa size (pteSet e 2 1 0)).releasePage part.val a size
        | some pf =>
          let e1 := pteTo e pf
          ((s.fillPage e1 size a pf).setPte part.val a pa size e1).releasePage part.val a size)

/-! ## PAGE_MOVE (R215) -/

/-- The lines that the L1s hold of a page are written back and leave. -/
def State.flushPage (s : State) (h : Home) (n : Nat) : State :=
  s.cores.foldl (fun s c =>
    (c.2.l1.filter (fun e => decide (h.key ≤ 32 * e.1) && decide (32 * e.1 < h.key + n))).foldl (fun s e => s.dropSector c.1 e.1) s) s

/-- Entries of a table from `lo` on, moved to stand from `k` on. -/
def moved {V : Type} (t : Tab V) (lo hi k : Nat) : Tab V := (Tab.range t lo hi).map (fun e => (e.1 - lo + k, e.2))

/-- A table with the entries of one range replaced by those of another. -/
def copyRange {V : Type} [DecidableEq V] (d : V) (t : Tab V) (src dst n : Nat) : Tab V :=
  (moved t src (src + n) dst).foldl (fun t e => Tab.put d t e.1 e.2) (Tab.drop t dst (dst + n))

/-- Undefined contents of one range replaced by those of another. -/
def copyLost (l : List (Nat × Nat × Nat)) (src dst n : Nat) : List (Nat × Nat × Nat) := cutLost l dst (dst + n) ++ moveLost l src (src + n) dst

/-- R215: a page's bytes, tags and swizzle ids are copied to another place of this device. Marks of uncorrectable sectors go with the bytes. -/
def State.copyPage (s : State) (h1 h2 : Home) (n : Nat) : State :=
  let a := h1.key
  let b := h2.key
  let tagged := h1.isSlice && h2.isSlice
  let l1 := copyLost s.lost a b n
  let l2 := if tagged then copyLost (copyLost l1 (tagLostKey a) (tagLostKey b) (n / 8)) (swzLostKey a) (swzLostKey b) (n / 256) else l1
  { s with lost := l2, mem := copyRange 0 s.mem a b n, poison := copyRange false s.poison (a / 32) (b / 32) (n / 32),
           tags := if tagged then copyRange false s.tags (a / 8) (b / 8) (n / 8) else s.tags,
           swz := if tagged then copyRange 0 s.swz (a / 256) (b / 256) (n / 256) else s.swz }

/-- The WRITE packets that carry one 256-byte line of a page to another device: its bytes, and for a slice's line its swizzle id and every tag. -/
def State.lineWrites (s : State) (h : Home) (k va : Nat) : List (Nat × List Byte × WriteKind) :=
  if !h.isSlice then [(va, s.getBytes k 256, .plain)]
  else
    let z := s.swzAt k
    (List.range 16).map (fun j => (va + 16 * j, s.getBytes (swizzled (k + 16 * j) z.toNat) 16, WriteKind.tist z)) ++
    (List.range 32).map (fun j => (va + 8 * j, [], if s.tagAt (k + 8 * j) then WriteKind.setf else WriteKind.sete))

/-- R215: a page's bytes, tags and swizzle ids go to another device on tier T3. -/
def State.sendPage (s : State) (id : Nat) (h : Home) (n : Nat) (dev : BitVec 12) (va : Nat) : State :=
  (List.range (n / 256)).foldl (fun s i =>
    (s.lineWrites h (h.key + 256 * i) (va + 256 * i)).foldl (fun s w =>
      s.request (.move id) 3 2 dev (BitVec.ofNat 64 w.1) (.write w.2.1 w.2.2)) s) s

/-- R208: an access that translated with an entry that HK2 has changed is not performed yet: a tagged word at a slice, or a request to another
device. -/
def State.stillUses (s : State) (e : BitVec 128) (size va : Nat) : Bool :=
  let n := 2 ^ sizeShift size
  match pageHome e size va with
  | .remote dev v => s.lodge.outs.any (fun r => r.pkt.dst == dev && decide (v ≤ r.pkt.addr.toNat) && decide (r.pkt.addr.toNat < v + n))
  | h => s.tagWaits.any (fun w => decide (h.key ≤ w.key) && decide (w.key < h.key + n))

/-- The first address of the page that moves. -/
def PageMove.va (m : PageMove) : Nat := m.vpn * 2 ^ sizeShift m.size

/-- R215 step 3: the entry that the page has after its move. -/
def PageMove.entry (m : PageMove) : BitVec 128 := pteSet (pteTo m.old m.pf) 14 2 (pteField m.old 14 2 + 1)

/-- R215 step 2: the page's contents go to its new place. From another device they come with what that device has sent. -/
def State.moveContents (s : State) (m : PageMove) (pf : PageFill) : State :=
  let n := 2 ^ sizeShift m.size
  match pageHome m.old m.size m.va, pageHome m.entry m.size m.va with
  | .remote .., .remote .. => s
  | .remote .., _ => s.fillPage m.entry m.size m.va pf
  | h, .remote dev v => s.sendPage m.id h n dev v
  | h, g => (s.touch g n).copyPage h g n

/-- The next step of a move, once what the step before it started is over (R208, R215). -/
def State.moveOn (s : State) (m : PageMove) (pf : PageFill) : State :=
  if s.stillUses m.old m.size m.va then s
  else if !m.copied then
    let s1 := s.moveContents m pf
    { s1 with dev := { s1.dev with moves := s1.dev.moves.map (fun x => if x.id == m.id then { x with copied := true } else x) } }
  else if s.lodge.outs.any (fun r => r.owner == .move m.id) then s
  else
    let s1 := { s with dev := { s.dev with moves := s.dev.moves.filter (fun x => x.id != m.id) } }
    match s1.pteSpot m.part m.va with
    | none => s1
    | some (pa, _, _) => (s1.setPte m.part m.va pa m.size m.entry).releasePage m.part m.va m.size

/-- PAGE_MOVE (R215): one step of the move of a mapped page with MIG = 1 and PIN = 0: it is made on-demand and shot down; once nothing uses the
old entry its contents are copied; once they are there its new entry is written. With MVC at 3 HK2 sets PIN instead. -/
def execPageMove (part : Fin 8) (va : DWord) (pf : PageFill) (s : State) : Host.Outcome State Fault Refusal :=
  let a := va.toNat % 2 ^ 56
  .next (
    match s.moveOf part.val a with
    | some m => s.moveOn m pf
    | none =>
      match s.pteSpot part.val a with
      | none => s
      | some (pa, e, size) =>
        if !e.getLsbD 1 || pteField e 13 1 = 0 || pteField e 64 1 = 1 then s
        else if pteField e 14 2 = 3 then s.setPte part.val a pa size (pteSet e 64 1 1)
        else
          let m : PageMove := { id := s.ids, part := part.val, size := size, vpn := a / 2 ^ sizeShift size, old := e, pf := pf }
          let s1 := ((s.freshId.2).flushPage (pageHome e size a) (2 ^ sizeShift size)).setPte part.val a pa size (pteOnDemand e)
          { s1 with dev := { s1.dev with moves := s1.dev.moves ++ [m] } })

/-! ## TABLE_RESIZE (R206) -/

/-- Changes a table descriptor. -/
def State.setDesc (s : State) (part size : Nat) (d : Desc) : State := s.updPart part (fun p => { p with desc := Tab.put Desc.init p.desc size d })

/-- The bytes of a table of 2^n entries per way. -/
def tableBytes (n : Nat) : Nat := 48 * 2 ^ n

/-- The page number of an entry. -/
def pteVpn (e : BitVec 128) (size : Nat) : Nat := pteField e 88 40 / 2 ^ (sizeShift size - 16)

/-- R205, R206: an entry is put where a probe will look for it: in its own way, in another way whose place is free, or by sending the entry
in its own way's place on to the next way; none when that finds no place either. -/
def State.placePte (s : State) (d : Desc) (size : Nat) (e : BitVec 128) (j : Nat) : Nat → Option State
  | 0 => none
  | f + 1 =>
    let at_ := fun k => d.entryAt (k % 3) (pteVpn e size)
    match [j, j + 1, j + 2].find? (fun k => !(s.pteAt (at_ k)).getLsbD 0) with
    | some k => some (s.storeNat (Home.outer (at_ k)).key 16 e.toNat)
    | none => (s.storeNat (Home.outer (at_ j)).key 16 e.toNat).placePte d size (s.pteAt (at_ j)) (j + 1) f

/-- R206 step 2: the entries at an old index go into the new table. `d` is the descriptor with MIGPTR past that index. -/
def State.migrateIndex (s : State) (d : Desc) (size i : Nat) : Option State :=
  (List.range 3).foldl (fun (r : Option State) j =>
    match r with
    | none => none
    | some s =>
      let e := s.pteAt (d.obase + 16 * (j * 2 ^ d.on + i))
      if e.getLsbD 0 then s.placePte d size e j 64 else some s) (some s)

/-- TABLE_RESIZE (R206): one step of a resize: it begins with an empty new table; each next step moves one old index; the last makes the new
table the one in use. A step for other values than those of the resize in progress is none, and so is one whose entries a smaller table has
no place for (assumption 44). -/
def execTableResize (part : Fin 8) (size : Fin 3) (nbase : BitVec 52) (nn : BitVec 6) (s : State) : Host.Outcome State Fault Refusal :=
  let p := part.val
  let z := size.val
  let d := (s.part p).descOf z
  let b := nbase.toNat
  let n := nn.toNat
  .next (
    if !d.rsz then
      if decide (8 ≤ n) && decide (n ≤ 30) && b % 4096 == 0 && decide (b + tableBytes n ≤ 2 ^ 40) &&
          (decide (b + tableBytes n ≤ d.obase) || decide (d.obase + tableBytes d.on ≤ b)) then
        let k := (Home.outer b).key
        (s.zeroRange k (tableBytes n)).setDesc p z
          { d with rsz := true, nn := n, nbase := b, migptr := 0 }
      else s
    else if d.nbase != b || d.nn != n then s
    else if d.migptr < 2 ^ d.on then
      let d1 := { d with migptr := d.migptr + 1 }
      match s.migrateIndex d1 z d.migptr with
      | none => s
      | some s1 => s1.setDesc p z d1
    else s.setDesc p z { d with obase := b, on := n, rsz := false, migptr := 0 })

end Sys2Proof.Machine
end

