-- ==== Sys2Proof/Machine/Matrix.lean ====
section
/-! DEFINITION. The matrix words, OP 0x50 to 0x54, the stationary array, its checksums and the issue-budget governor (R168 to R193). -/

namespace Sys2Proof.Machine
open Sys2Proof

/-! ## Tile slots (R168 to R174) -/

/-- R173: the element width of a TYPE. -/
def tileWidth (ty : BitVec 3) : Nat := match ty.toNat with | 1 | 2 => 16 | 3 | 4 | 5 => 8 | _ => 4
/-- R173: the rows of a tile of a TYPE. -/
def tileRows (ty : BitVec 3) : Nat := 512 / tileWidth ty
/-- R173: the number format of a floating-point TYPE. -/
def tileFmt (ty : BitVec 3) : Fmt := match ty.toNat with | 1 => fp16 | 2 => bf16 | 3 => e4m3 | 4 => e5m2 | _ => e2m1
/-- R182: the chunk length at an edge. -/
def chunkLen (ty : BitVec 3) : Nat := match tileWidth ty with | 16 => 8 | 8 => 16 | _ => 32

/-- A tile slot of a core. -/
def Core.tile (c : Core) (n : Nat) : Tile := Tab.get Tile.init c.tiles n
/-- Replaces a tile slot of a core. -/
def State.setTile (s : State) (core n : Nat) (t : Tile) : State :=
  s.updCore core (fun c => { c with tiles := Tab.put Tile.init c.tiles n t })
/-- Element (k, n) of a tile. -/
def Tile.elem (t : Tile) (k n : Nat) : Nat := (Tab.get 0 t.w (16 * k + n)).toNat
/-- The scale of block b of column n. -/
def Tile.scale (t : Tile) (n b : Nat) : Byte := Tab.get 0x7F t.sc (4 * n + b)
/-- Writes elements of a tile. -/
def Tile.setElems (t : Tile) (es : List (Nat × Nat × Nat)) : Tile :=
  { t with w := es.foldl (fun w e => Tab.put 0 w (16 * e.1 + e.2.1) (BitVec.ofNat 16 e.2.2)) t.w }
/-- Writes the scales of a column. -/
def Tile.setScales (t : Tile) (n : Nat) (v : Word) : Tile :=
  { t with sc := (List.range (tileRows t.type / 32)).foldl (fun w b => Tab.put 0x7F w (4 * n + b) (v.extractLsb' (8 * b) 8)) t.sc }

/-- A signed 8-bit element. -/
def i8Of (x : Nat) : Int := (BitVec.ofNat 8 x).toInt

/-- R189: an element as a whole number of 2^-133, of which every finite element of every TYPE is a multiple; none for a NaN or an infinity. -/
def elemInt (ty : BitVec 3) (x : Nat) : Option Int :=
  if ty == 5 then some (i8Of x * 2 ^ 133)
  else match (tileFmt ty).value x with
    | .fin n m e => some ((if n then -(m : Int) else (m : Int)) * 2 ^ (e + 133).toNat)
    | _ => none

/-- R168, R189: the sum of row k that the checker uses, in units of 2^-133; a NaN or an infinity counts for nothing, since the tests that it
falls in are skipped. -/
def Tile.rowSum (t : Tile) (k : Nat) : Int := ((List.range 16).map (fun n => (elemInt t.type (t.elem k n)).getD 0)).sum
/-- R168, R189: the sum of column n over the eight rows from 8 b on. -/
def Tile.colSum (t : Tile) (n b : Nat) : Int := ((List.range 8).map (fun k => (elemInt t.type (t.elem (8 * b + k) n)).getD 0)).sum

/-- R174: a block of registers read as one bit string. -/
def Thread.block (th : Thread) (d n : Nat) : Nat :=
  (List.range n).foldl (fun x j => x + (th.reg (d + j)).toNat * 2 ^ (32 * j)) 0
/-- The element of width `w` at an index of a bit string. -/
def packedAt (x w e : Nat) : Nat := x / 2 ^ (w * e) % 2 ^ w
/-- Elements packed into a bit string, index 0 lowest. -/
def packElems (w : Nat) : List Nat → Nat
  | [] => 0
  | x :: xs => x % 2 ^ w + 2 ^ w * packElems w xs
/-- A bit string as writes to a block of registers. -/
def blockWrites (d n x : Nat) : List (Nat × Word) := (List.range n).map (fun j => (d + j, BitVec.ofNat 32 (x / 2 ^ (32 * j))))

/-- R174: the elements an MLD's lane supplies, as (row, column, bits). -/
def mldElems (north : Bool) (ty : BitVec 3) (lane x : Nat) : List (Nat × Nat × Nat) :=
  let w := tileWidth ty
  if north then
    (if lane < 16 then (List.range (tileRows ty)).map (fun k => (k, lane, packedAt x w k)) else [])
  else
    (List.range (tileRows ty / 32)).flatMap (fun j => (List.range 16).map (fun n => (lane + 32 * j, n, packedAt x w (16 * j + n))))

/-- MLD (R169, R179). While another workgroup owns the slot nothing issues. The slot's sums follow its tile (Tile.rowSum, Tile.colSum). -/
def execMld (g : Guard) (l q : BitVec 1) (ty : BitVec 3) (x : BitVec 1) (a b : BitVec 6) (s : State) : Host.Outcome State Fault Refusal :=
  .next (s.simt (.mld g l q ty x a b) (fun s ps =>
    match ps with
    | [] => (s, none)
    | p :: _ =>
      let core := s.cur.core
      let north := l == 1
      let o := s.ownerOf p
      let old := (s.coreAt core).tile q.toNat
      if old.owned && !old.ownedBy o then (s, none) else
      let base : Tile :=
        if old.owned && old.type == ty && old.mx == (x == 1) then old
        else { owned := true, lid := o.1, g := o.2, type := ty, mx := x == 1 }
      let tile := ps.foldl (fun (tl : Tile) t =>
        let th := s.thread t
        let t1 := tl.setElems (mldElems north ty (laneOf t) (th.block a.toNat (if north then 16 else 8)))
        if x == 1 && decide (laneOf t < 16) then t1.setScales (laneOf t) (th.reg b.toNat) else t1) base
      let occ := if north then 4 else 2
      (ps.foldl (fun s t => s.pass t g.s) (((s.setTile core q.toNat tile).occupy 3 occ).occupy (8 + q.toNat) occ), none)))

/-- MCLR (R170, R181): it acts once if some thread of the owning workgroup has a true guard. -/
def execMclr (g : Guard) (q : BitVec 1) (s : State) : Host.Outcome State Fault Refusal :=
  .next (s.simt (.mclr g q) (fun s ps =>
    if ps.isEmpty then (s, none) else
    let core := s.cur.core
    let old := (s.coreAt core).tile q.toNat
    let s1 := if ps.any (fun t => old.ownedBy (s.ownerOf t)) then s.setTile core q.toNat Tile.init else s
    (ps.foldl (fun s t => s.pass t g.s) (s1.occupy 3 1), none)))

/-- R180: what MRD writes in a lane. -/
def mrdWrites (m : Nat) (d lane : Nat) (t : Tile) (own : Bool) : List (Nat × Word) :=
  let w := tileWidth t.type
  match m with
  | 0 =>
    blockWrites d 8 (packElems w ((List.range (tileRows t.type / 32)).flatMap (fun j =>
      (List.range 16).map (fun n => t.elem (lane + 32 * j) n))))
  | 1 => if lane < 16 then blockWrites d 16 (packElems w ((List.range (tileRows t.type)).map (fun k => t.elem k lane))) else []
  | 2 =>
    if lane < 16 then
      [(d, if t.mx then BitVec.ofNat 32 (packElems 8 ((List.range (tileRows t.type / 32)).map (fun b => (t.scale lane b).toNat)))
           else 0x7F7F7F7F)]
    else []
  | _ =>
    [(d, BitVec.ofNat 32 ((if t.owned then 1 else 0) + (if own then 2 + 4 * t.type.toNat + (if t.mx then 32 else 0) else 0)))]

/-- MRD (R171, R180). -/
def execMrd (g : Guard) (m : BitVec 2) (d : BitVec 6) (q : BitVec 1) (s : State) : Host.Outcome State Fault Refusal :=
  .next (s.simt (.mrd g m d q) (fun s ps =>
    match ps with
    | [] => (s, none)
    | p :: _ =>
      let tile := (s.coreAt s.cur.core).tile q.toNat
      if m != 3 && !tile.ownedBy (s.ownerOf p) then (s, some 1)
      else
        let outs := ps.map (fun t =>
          (t, ({ regs := mrdWrites m.toNat d.toNat (laneOf t) tile (tile.ownedBy (s.ownerOf t)) } : LaneOut)))
        let occ := match m.toNat with | 0 => 2 | 1 => 4 | _ => 1
        (outs.foldl (fun s o => s.writeBack (.mrd g m d q) 12 o) (s.occupy 3 occ), none)))

/-! ## Products (R182 to R184) -/

/-- An exact sum x × 2^e + y × 2^f. -/
def addExact (a b : Int × Int) : Int × Int :=
  let q := if a.2 < b.2 then a.2 else b.2
  (a.1 * 2 ^ (a.2 - q).toNat + b.1 * 2 ^ (b.2 - q).toNat, q)

/-- R182, R183: what a chunk's products are so far: a NaN operand, 0 × ∞, products of +∞ and −∞, every product −0, and the exact sum. -/
structure Chunk where
  nan : Bool := false
  zeroInf : Bool := false
  pos : Bool := false
  neg : Bool := false
  allNegZero : Bool := true
  sum : Int × Int := (0, 0)
  deriving DecidableEq, Repr

/-- A product joins a chunk. -/
def Chunk.mac (c : Chunk) (a w : FVal) : Chunk :=
  if a.isNan || w.isNan then { c with nan := true }
  else
    match mulVal a w with
    | (.nan _, _) => { c with zeroInf := true }
    | (.inf n, _) => { c with pos := c.pos || !n, neg := c.neg || n, allNegZero := false }
    | (.fin n m e, _) =>
      { c with
        allNegZero := c.allNegZero && n && m == 0,
        sum := if m = 0 then c.sum else addExact c.sum (if n then -(m : Int) else (m : Int), e) }

/-- R183: the chunk's exact s. -/
def Chunk.value (c : Chunk) : FVal :=
  if c.nan || c.zeroInf || (c.pos && c.neg) then .nan false
  else if c.pos then .inf false
  else if c.neg then .inf true
  else if c.sum.1 = 0 then .fin c.allNegZero 0 0
  else .fin (decide (c.sum.1 < 0)) c.sum.1.natAbs c.sum.2

/-- R182: an exact scaling by a power of two. -/
def FVal.scale (v : FVal) (k : Int) : FVal := match v with | .fin n m e => .fin n m (e + k) | v => v

/-- R182, R183: the scale of a chunk's block: SA and SW as a power of two, none when either is 0xFF. -/
def chunkScale (sa sw : Byte) : Option Int := if sa == 0xFF || sw == 0xFF then none else some ((sa.toNat : Int) + sw.toNat - 254)

/-- A chunk's exact sum as a failing sub-array forms it: off by a number of 2^-266 (R189). -/
def Chunk.off (c : Chunk) (err : Int) : Chunk := if err = 0 then c else { c with sum := addExact c.sum (err, -266), allNegZero := false }

/-- R182 to R184: one output of a floating-point row: the chunks in order, each an exact sum, scaled, added with one rounding. Each chunk
has its pairs of elements, its scale, and the error of the sub-arrays that form it. -/
def outputOf (acc : Nat) : List (List (FVal × FVal) × Option (Option Int) × Int) → Nat × BitVec 5
  | [] => (acc, 0)
  | (ps, sc, err) :: r =>
    let c := (ps.foldl (fun (c : Chunk) p => c.mac p.1 p.2) {}).off err
    let s : FVal := match sc with | none => c.value | some none => .nan false | some (some k) => c.value.scale k
    let sum := addVal .rne (fp32.value acc) s
    let out := fp32.pack .rne sum.1
    let rest := outputOf out.1 r
    (rest.1, flagIf (c.zeroInf || (c.pos && c.neg)) flagNV ||| sum.2 ||| out.2 ||| rest.2)

/-- The indices of each chunk of a reduction, in order. -/
def chunksOf (red len : Nat) : List (List Nat) :=
  (List.range (red / len)).map (fun q => (List.range len).map (fun i => len * q + i))

/-- One row's operands of a product: the A elements, W by (output, reduction index), and the scales of the A row. -/
structure RowJob where
  tile : Tile
  north : Bool
  seg : Nat
  a : Nat
  /-- The A scales of an MMAS. -/
  sa : Option Word
  deriving DecidableEq, Repr

/-- W's element for an output and a reduction index (R182). -/
def RowJob.w (r : RowJob) (j k : Nat) : Nat := if r.north then r.tile.elem (32 * r.seg + j) k else r.tile.elem k j
/-- The reduction's length (R182). -/
def RowJob.red (r : RowJob) : Nat := if r.north then 16 else tileRows r.tile.type
/-- The number of outputs (R182). -/
def RowJob.outs (r : RowJob) : Nat := if r.north then 32 else 16
/-- The A row's element at an index. -/
def RowJob.aAt (r : RowJob) (k : Nat) : Nat := packedAt r.a (tileWidth r.tile.type) k

/-- R189: the sub-array that holds a tile row. -/
def subOf (k : Nat) : Nat := k % 32 / 8

/-- R189: the reduction indices of output `j` that fall in sub-array `g`. -/
def RowJob.terms (r : RowJob) (j g : Nat) : List Nat :=
  if r.north then (if subOf j = g then List.range 16 else []) else (List.range r.red).filter (fun k => subOf k == g)

/-- The errors of the sub-arrays whose first term of output `j` is in a chunk. -/
def RowJob.chunkErr (r : RowJob) (err : Nat → Nat → Int) (j : Nat) (ks : List Nat) : Int :=
  ((List.range 4).map (fun g => match r.terms j g with | k :: _ => if ks.contains k then err j g else 0 | [] => 0)).sum

/-- R182: output `j` of a row from its old value; `err` is what the sub-arrays add to the exact sums (R189). -/
def RowJob.output (r : RowJob) (err : Nat → Nat → Int) (j : Nat) (acc : Word) : Word × BitVec 5 :=
  let cs := chunksOf r.red (chunkLen r.tile.type)
  if r.tile.type == 5 then
    (acc + BitVec.ofInt 32 ((cs.flatten.map (fun k => i8Of (r.aAt k) * i8Of (r.w j k))).foldl (· + ·) 0 +
      (cs.map (fun ks => r.chunkErr err j ks / 2 ^ 266)).sum), 0)
  else
    let f := tileFmt r.tile.type
    let o := outputOf acc.toNat (cs.map (fun ks =>
      let b := match ks with | k :: _ => k / 32 | [] => 0
      (ks.map (fun k => (f.value (r.aAt k), f.value (r.w j k))),
       (match r.sa with | none => none | some sa => some (chunkScale (sa.extractLsb' (8 * b) 8) (r.tile.scale j b))),
       r.chunkErr err j ks)))
    (BitVec.ofNat 32 o.1, o.2)

/-- R184: an element of A or W read for the row is a signalling NaN. -/
def RowJob.signalling (r : RowJob) : Bool :=
  let f := tileFmt r.tile.type
  r.tile.type != 5 &&
  ((List.range r.red).any (fun k => (f.value (r.aAt k)).isSig) ||
   (List.range r.outs).any (fun j => (List.range r.red).any (fun k => (f.value (r.w j k)).isSig)))

/-- R182, R184: a row's new C registers and its flags. -/
def RowJob.run (r : RowJob) (err : Nat → Nat → Int) (th : Thread) (d : Nat) : LaneOut :=
  let os := (List.range r.outs).map (fun j => (d + j, r.output err j (th.reg (d + j))))
  { regs := os.map (fun o => (o.1, o.2.1)),
    flags := os.foldl (fun f o => f ||| o.2.2) (flagIf r.signalling flagNV) }

/-! ## The governor (R191) -/

/-- The bits set in a word. -/
def countBits (x : Word) : Nat := ((List.range 32).filter (fun i => x.getLsbD i)).length

/-- R191: the A registers that a word reads. -/
def aRead (north : Bool) (ty : BitVec 3) : Nat := if north then 16 * tileWidth ty / 32 else 16

/-- R191: a word's cost for its participants. -/
def State.govCost (s : State) (core a n : Nat) (ps : List Nat) : Nat :=
  let c := s.coreAt core
  if c.govmode then
    let t := ps.foldl (fun x p => x + ((List.range n).map (fun j =>
      countBits ((s.thread p).reg (a + j) ^^^ Tab.get 0 c.aRec (16 * laneOf p + j)))).foldl (· + ·) 0) 0
    2 + (t + 2047) / 2048
  else 8

/-- R191 rules 2 and 4, R364: the governor and the matrix issue shares let a matrix word of an RCB issue. -/
def State.govAllows (s : State) (core a n : Nat) (ps : List Nat) : Bool :=
  let c := s.coreAt core
  c.budget == 0 || !c.mmaInWindow || decide (s.govCost core a n ps ≤ c.credits)

/-- R364: the matrix issue share of a thread's RCB and of each of its ancestors leaves room for a word. -/
def State.mxshAllows (s : State) (t : Nat) : Bool :=
  let w := s.warpOfThread t
  let p := s.viewOf w
  (p.ancestors w.rcb).all (fun r => decide (Tab.get 0 (s.coreAt (coreOfThread t)).mxUsed (w.part * 65536 + r) < p.mxsh r))

/-- R191 rule 3, R364: an issued word is charged: its cost, its place in the A record and in the shares. -/
def State.govCharge (s : State) (t : Nat) (a n : Nat) (ps : List Nat) : State :=
  let core := s.cur.core
  let cost := s.govCost core a n ps
  let w := s.warpOfThread t
  let ids := (s.viewOf w).ancestors w.rcb
  s.updCore core (fun c => { c with
    credits := c.credits - cost, mmaInWindow := true,
    aRec := ps.foldl (fun r p => (List.range n).foldl (fun r j => Tab.put 0 r (16 * laneOf p + j) ((s.thread p).reg (a + j))) r) c.aRec,
    mxUsed := ids.foldl (fun m r => Tab.put 0 m (w.part * 65536 + r) (Tab.get 0 m (w.part * 65536 + r) + 1)) c.mxUsed })

/-! ## Checksums (R189, R190) -/

/-- R190: what the sub-array that does group `g`'s work in a run adds to its sum for a lane and output: sub-array g in the first run, and
(g + 1) mod 4 in the retry. -/
def Core.subErr (c : Core) (run lane j g : Nat) : Int :=
  let f := Tab.get ArrFault.init c.arrFault ((g + run) % 4)
  if run < f.runs then ((f.errs.filter (fun e => e.1 == lane && e.2.1 == j)).map (fun e => e.2.2)).sum else 0

/-- R189: two sides of a test differ by more than τ = 2^-18 × M + 2^-140, in units of 2^-266; by anything at all for I8. -/
def beyondTau (ty : BitVec 3) (diff mag : Int) : Bool :=
  if ty == 5 then diff != 0 else decide (mag + 2 ^ 144 < 2 ^ 18 * (diff.natAbs : Int))

/-- An element of the A row, or of W for an output, as a number. -/
def RowJob.aInt (r : RowJob) (k : Nat) : Int := (elemInt r.tile.type (r.aAt k)).getD 0
/-- As `aInt`, for W. -/
def RowJob.wInt (r : RowJob) (j k : Nat) : Int := (elemInt r.tile.type (r.w j k)).getD 0
/-- An element of the A row, or of W for an output, is a number. -/
def RowJob.number (r : RowJob) (j k : Nat) : Bool := (elemInt r.tile.type (r.aAt k)).isSome && (elemInt r.tile.type (r.w j k)).isSome

/-- R189: σ, the sum of the products of output `j` that sub-array `g` reports. -/
def RowJob.sigma (r : RowJob) (err : Nat → Nat → Int) (j g : Nat) : Int :=
  match r.terms j g with
  | [] => 0
  | ks => (ks.map (fun k => r.aInt k * r.wInt j k)).sum + err j g

/-- R189: the outputs of a row with terms in sub-array `g`. -/
def RowJob.outsIn (r : RowJob) (g : Nat) : List Nat := (List.range r.outs).filter (fun j => !(r.terms j g).isEmpty)

/-- R179, R189: the sum of W over a row's outputs in sub-array `g` at a reduction index, as MLD stored it. -/
def RowJob.stored (r : RowJob) (g k : Nat) : Int := if r.north then r.tile.colSum k (4 * r.seg + g) else r.tile.rowSum k

/-- R189: the row check of sub-array `g` fails. A test with a NaN or an infinity is skipped. -/
def RowJob.rowFails (r : RowJob) (err : Nat → Nat → Int) (g : Nat) : Bool :=
  let js := r.outsIn g
  let ks := match js with | j :: _ => r.terms j g | [] => []
  ks.all (fun k => js.all (fun j => r.number j k)) &&
  beyondTau r.tile.type ((js.map (fun j => r.sigma err j g)).sum - (ks.map (fun k => r.aInt k * r.stored g k)).sum)
    (ks.map (fun k => ((r.aInt k).natAbs : Int) * (js.map (fun j => ((r.wInt j k).natAbs : Int))).sum)).sum

/-- R189: the column check of output `j` and sub-array `g` fails, over the participants' rows with what is added to each. -/
def columnFails (rs : List (RowJob × (Nat → Nat → Int))) (j g : Nat) : Bool :=
  match rs with
  | [] => false
  | (r, _) :: _ =>
    let ks := r.terms j g
    ks.all (fun k => rs.all (fun x => x.1.number j k)) &&
    beyondTau r.tile.type ((rs.map (fun x => x.1.sigma x.2 j g)).sum - (ks.map (fun k => (rs.map (fun x => x.1.aInt k)).sum * r.wInt j k)).sum)
      (ks.map (fun k => (rs.map (fun x => ((x.1.aInt k).natAbs : Int))).sum * ((r.wInt j k).natAbs : Int))).sum

/-- A participant's row with its thread. -/
abbrev Row := Nat × RowJob

/-- What a core's sub-arrays add to a participant's sums in a run. -/
def Core.errOf (c : Core) (run t : Nat) : Nat → Nat → Int := c.subErr run (laneOf t)

/-- R189, R190: the checker's verdict on one run: the groups that fail both a row and a column test, and whether any test fails. A fault-free
array never fails a test. -/
def Core.arrayTests (c : Core) (run : Nat) (rows : List Row) : List Nat × Bool :=
  if c.arrFault.isEmpty then ([], false)
  else
    let rs := rows.map (fun x => (x.2, c.errOf run x.1))
    let rf := fun g => rs.any (fun x => x.1.rowFails x.2 g)
    let cf := fun g => (List.range 32).any (fun j => columnFails rs j g)
    ((List.range 4).filter (fun g => rf g && cf g), (List.range 4).any (fun g => rf g || cf g))

/-- The array has made `n` runs, which a fault may not outlast. -/
def State.arrayRan (s : State) (n : Nat) : State :=
  s.updCore s.cur.core (fun c => { c with
    arrFault := (c.arrFault.map (fun e => (e.1, { e.2 with runs := e.2.runs - n }))).filter (fun e => e.2.runs != 0), addFault := c.addFault - n })

/-- R190: one checked run of the array: its failures are counted against the physical sub-arrays and the adder pair. -/
def State.arrayRun (s : State) (run : Nat) (rows : List Row) : State × Bool :=
  let core := s.cur.core
  let c := s.coreAt core
  let v := c.arrayTests run rows
  let s1 := v.1.foldl (fun s g => s.countMismatch core (96 + (g + run) % 4)) s
  let adders := decide (run < c.addFault)
  (if adders then s1.countMismatch core 100 else s1, v.2 || adders)

/-- R189, R190: a product's runs: the state, the run whose results stand, if any, and the number of runs. -/
def State.arrayCheck (s : State) (rows : List Row) : State × Option Nat × Nat :=
  if s.checkMode = 0 then (s.arrayRan 1, some 0, 1)
  else
    match s.arrayRun 0 rows with
    | (s1, false) => (s1.arrayRan 1, some 0, 1)
    | (s1, true) =>
      match s1.arrayRun 1 rows with
      | (s2, false) => (s2.arrayRan 2, some 1, 2)
      | (s2, true) => (s2.arrayRan 2, none, 2)

/-- What an unchecked array writes when its two adders disagree is open: a free value is added (R189, assumption 3). -/
def State.garbled (s : State) (o : LaneOut) : LaneOut :=
  if s.checkMode = 0 && (s.coreAt s.cur.core).addFault != 0 then
    { o with regs := o.regs.map (fun r => (r.1, r.2 ^^^ Config.freeWord (s.free + r.1))) }
  else o

/-! ## MMA and MMAS -/

/-- R185, R171: the slot's kind does not match the word. -/
def Tile.mismatch (t : Tile) (o : Nat × Nat) (north mx : Bool) (seg : Nat) : Bool :=
  !t.ownedBy o || t.mx != mx || (north && (t.type == 6 || (seg != 0 && tileWidth t.type == 16)))

/-- A PRODUCT (R171, R178, R182 to R191): the checks on the slot, the governor's charge, the array's runs, and each participant's C row. A
bundle that one of the checks traps has not used the array and is charged nothing (assumption 42). -/
def State.product (s : State) (i : Instr) (north mx : Bool) (q : BitVec 1) (seg d a : Nat) (sa : Thread → Option Word) : State :=
  s.simt i (fun s ps =>
    match ps with
    | [] => (s, none)
    | p :: _ =>
      let tile := (s.coreAt s.cur.core).tile q.toNat
      if tile.mismatch (s.ownerOf p) north mx seg then (s, some 1)
      else
        let s1 := s.govCharge p a (aRead north tile.type) ps
        let rows : List Row := ps.map (fun t =>
          let th := s.thread t
          (t, { tile := tile, north := north, seg := seg, a := th.block a (if north then 8 else 16), sa := sa th }))
        let r := s1.arrayCheck rows
        let occ := 8 * r.2.2
        let lat := 16 + occ
        let s2 := (r.1.occupy 4 occ).occupy (10 + q.toNat) occ
        let k := 2 * (d / 8) + (if north then 1 else 0)
        let core := s.coreAt s.cur.core
        let c := core.cycle
        match r.2.1 with
        | some n =>
          let outs := rows.map (fun x => (x.1, s.garbled (x.2.run (core.errOf n x.1) (s.thread x.1) d)))
          (outs.foldl (fun s o => (s.updThread o.1 (fun th =>
            { th with rdy := Tab.put 0 (Tab.put 0 th.rdy (100 + k) (c + lat)) (200 + k) (c + occ) })).writeBack i lat o)
            { s2 with free := s2.free + 64 }, none)
        | none => (s2, some 0x14))

/-- MMA (R182, R185). -/
def execMma (g : Guard) (e q : BitVec 1) (d a : BitVec 6) (seg : BitVec 2) (s : State) : Host.Outcome State Fault Refusal :=
  .next (s.product (.mma g e q d a seg) (e == 1) false q seg.toNat d.toNat a.toNat (fun _ => none))

/-- MMAS (R182, R185). -/
def execMmas (g : Guard) (q : BitVec 1) (d a b : BitVec 6) (s : State) : Host.Outcome State Fault Refusal :=
  .next (s.product (.mmas g q d a b) false true q 0 d.toNat a.toNat (fun th => some (th.reg b.toNat)))

end Sys2Proof.Machine
end

