-- ==== Sys2Proof/Machine/Preempt.lean ====
section
/-! DEFINITION. Pre-emption: whom HK1 chooses, the stop at a park point, the save record, and the resumption (R105, R113, R172, R289, R365,
R405 to R410). -/

namespace Sys2Proof.Machine
open Sys2Proof

/-! ## Whom HK1 pre-empts (R365, R405) -/

/-- The priority of a workgroup's launch, and its launch sequence. -/
def State.rankOf (s : State) (w : Wg) : Nat × Nat := match s.launch? w.lid with | none => (0, 0) | some l => (l.prio, l.lseq)
/-- The partition of a workgroup. -/
def State.partOf (s : State) (w : Wg) : Nat := match s.launch? w.lid with | none => 8 | some l => l.part

/-- The workgroup is to leave: it has been asked or has stopped. -/
def Wg.leaving (w : Wg) : Bool := match w.st with | .asked _ => true | .stopped => true | _ => false
/-- The workgroup runs and nothing has been asked of it. -/
def Wg.runs (w : Wg) : Bool := match w.st with | .running => true | _ => false

/-- The state as if a workgroup had left its core. -/
def State.without (s : State) (w : Wg) : State :=
  let s1 := (List.range w.warps).foldl (fun s j =>
    let key := warpKey w.core (w.slot + j)
    if (s.warp key).lid == w.lid && (s.warp key).g == w.g then s.updWarp key (fun _ => Warp.init) else s) s
  { s1 with wgs := s1.wgs.map (fun x => if x.lid == w.lid && x.g == w.g then { x with st := .saved 0 } else x) }

/-- R407: the slots that a saved workgroup left: those of its warps that had not been freed. -/
def Wg.slotsLeft (w : Wg) : List Nat := w.regions.map (fun e => w.slot + e.1)

/-- R369, R407: a core can take a saved workgroup back. -/
def State.canResume (s : State) (core : Nat) (w : Wg) (saved : BitVec 2) : Bool :=
  match s.launch? w.lid with
  | none => false
  | some l =>
    let k := l.kd
    let here := s.resident core
    s.running && s.dieParted (dieOf core) == l.part && !(s.coreAt core).retired && s.budgetFit core l &&
    (List.range w.warps).all (fun j => s.slotFree core l.lid (w.slot + j)) && decide (s.regsHeld core l.lid + k.regsPerLane ≤ 2048) &&
    decide ((here.map (fun x => (s.wgKd x).nbar)).sum + k.nbar ≤ 96) && (here.isEmpty || (s.coreAt core).carve == carveOf k.l1) &&
    s.sliceFree core (131072 * w.slot) k.slice &&
    (List.range 2).all (fun q => !saved.getLsbD q || !((s.coreAt core).tile q).owned)

/-- The tile slots that a record holds. -/
def State.slotBits (s : State) (part : Nat) (addr : DWord) : BitVec 2 := BitVec.ofNat 2 (s.agentNat part (addr + 10) 1)

/-- What HK1 would place next in a partition, if anything waits: an undispatched workgroup, or a saved one (R365). -/
inductive Waiting where
  | launch (l : Launch)
  | saved (w : Wg) (addr : DWord)
  deriving DecidableEq, Repr

/-- R365: a saved workgroup goes before undispatched ones of its priority; between saved ones launch sequence and index decide. -/
def State.nextSaved (s : State) (part : Nat) (w : Wg) : Bool :=
  let r := s.rankOf w
  s.partOf w == part && w.isSaved &&
  s.launches.all (fun l => l.part != part || !l.waiting || decide (l.prio ≤ r.1)) &&
  s.wgs.all (fun x => !x.isSaved || s.partOf x != part ||
    (let q := s.rankOf x
     decide (q.1 < r.1) || (q.1 == r.1 && (decide (r.2 < q.2) || (r.2 == q.2 && decide (w.g ≤ x.g))))))

/-- What HK1 would place next in a partition. -/
def State.nextWaiting (s : State) (part : Nat) : Option Waiting :=
  match s.wgs.find? (s.nextSaved part) with
  | some w => (match w.st with | .saved a => some (.saved w a) | _ => none)
  | none => (s.launches.find? (fun l => l.part == part && l.waiting && s.isNext l)).map .launch

/-- Its priority. -/
def State.waitingPrio (s : State) : Waiting → Nat
  | .launch l => l.prio
  | .saved w _ => (s.rankOf w).1

/-- It fits a core. -/
def State.waitingFits (s : State) (core : Nat) : Waiting → Bool
  | .launch l => (s.spot core l).isSome
  | .saved w a => s.canResume core w (s.slotBits (s.partOf w) a)

/-- The bytes of a workgroup's record, a multiple of 256 (R408). -/
def Kd.recordSize (k : Kd) (slots : Nat) : Nat := (k.recordBytes slots k.slice + 255) / 256 * 256

/-- The lowest place for `n` bytes in an area, on a multiple of 256, beside those in use: start and bytes. -/
def findRecord (base size n : Nat) (used : List (Nat × Nat)) : Option Nat :=
  let starts := (base :: used.map (fun u => u.1 + u.2)).map (fun a => (a + 255) / 256 * 256)
  (starts.filter (fun a => decide (a + n ≤ base + size) && used.all (fun u => decide (a + n ≤ u.1) || decide (u.1 + u.2 ≤ a)))).foldl
    (fun m a => match m with | none => some a | some b => if a < b then some a else some b) none

/-- The records in a partition, and the places kept for those of workgroups that have been asked to leave, but for one's own: start and bytes. -/
def State.recordsUsed (s : State) (part : Nat) (own : Wg) : List (Nat × Nat) :=
  s.wgs.filterMap (fun w =>
    if s.partOf w != part || (w.lid == own.lid && w.g == own.g) then none
    else match w.st with
      | .saved a => some (a.toNat, (s.wgKd w).recordSize (s.savedSlots part a))
      | _ => if w.leaving then some w.place else none)

/-- The tile slots of its core that a workgroup owns. -/
def State.slotsOwned (s : State) (w : Wg) : List Nat := (List.range 2).filter (fun q => ((s.coreAt w.core).tile q).ownedBy (w.lid, w.g))

/-- The bytes of the record that a workgroup would have now. -/
def State.recordBytesOf (s : State) (w : Wg) : Nat := (s.wgKd w).recordSize (s.slotsOwned w).length

/-- R405: the place for a workgroup's record in its effective save area, beside those kept for others; none without room. -/
def State.recordPlace (s : State) (w : Wg) : Option Nat :=
  match s.launch? w.lid with
  | none => none
  | some l =>
    match (s.view l.lid l.part).pairOf (fun r => r.save) (fun r => r.savesz) l.rcb with
    | none => none
    | some (base, size) => findRecord base.toNat size (s.recordBytesOf w) (s.recordsUsed l.part w)

/-- R365, R405: a workgroup may leave for a priority: it runs, its own is lower, and its record has room. -/
def State.mayLeave (s : State) (prio : Nat) (w : Wg) : Bool := w.runs && decide ((s.rankOf w).1 < prio) && (s.recordPlace w).isSome

/-- R365: of two workgroups, the first leaves before the second: the lower priority, then the younger launch, then the higher index. -/
def State.leavesFirst (s : State) (a b : Wg) : Bool :=
  let p := s.rankOf a
  let q := s.rankOf b
  decide (p.1 < q.1) || (p.1 == q.1 && (decide (q.2 < p.2) || (p.2 == q.2 && decide (b.g ≤ a.g))))

/-- A workgroup put in its place in an order of leaving. -/
def State.insertLeaver (s : State) (w : Wg) : List Wg → List Wg
  | [] => [w]
  | x :: xs => if s.leavesFirst w x then w :: x :: xs else x :: s.insertLeaver w xs

/-- The workgroups of a core that may leave, in the order of leaving. -/
def State.leavers (s : State) (core prio : Nat) : List Wg := ((s.resident core).filter (s.mayLeave prio)).foldr s.insertLeaver []

/-- How many of a list of workgroups must leave a core until something fits; none if it never does. -/
def State.leaveCount (s : State) (core : Nat) (x : Waiting) : List Wg → Option Nat
  | [] => if s.waitingFits core x then some 0 else none
  | w :: ws => if s.waitingFits core x then some 0 else ((s.without w).leaveCount core x ws).map (· + 1)

/-- The cores of a partition. -/
def State.coresOf (s : State) (part : Nat) : List Nat := (s.diesOf part).flatMap (fun d => (List.range 128).map (fun k => 128 * d + k))

/-- R365: the workgroup that HK1 asks to leave next for what waits in a partition: none when something fits once those asked have left. -/
def State.victim (s : State) (part : Nat) : Option Wg :=
  match s.nextWaiting part with
  | none => none
  | some x =>
    let s0 := (s.wgs.filter Wg.leaving).foldl State.without s
    let cores := s.coresOf part
    if cores.any (fun c => s0.waitingFits c x) then none
    else
      let best := cores.foldl (fun (m : Option (Nat × Nat)) c =>
        match s0.leaveCount c x (s0.leavers c (s.waitingPrio x)), m with
        | none, m => m
        | some n, none => some (n, c)
        | some n, some b => if n < b.1 then some (n, c) else some b) none
      match best with
      | none => none
      | some (_, c) => (s0.leavers c (s.waitingPrio x)).head?

/-- PREEMPT_REQUEST (R365, R405): HK1 asks the core of the workgroup that must leave next to save it, and keeps room for its record. -/
def execPreemptRequest (lid g : Nat) (s : State) : Host.Outcome State Fault Refusal :=
  .next (
    match s.wg? lid g with
    | none => s
    | some w =>
      if (s.victim (s.partOf w)).any (fun v => v.lid == lid && v.g == g) then
        s.updWg lid g (fun x => { x with st := .asked (s.cycleOf w.core), place := ((s.recordPlace w).getD 0, s.recordBytesOf w) })
      else s)

/-! ## The stop (R405) -/

/-- R405: every live thread of a workgroup is parked, halted or held. -/
def State.atParkPoint (s : State) (w : Wg) : Bool :=
  (s.wgThreads w).all (fun t => s.parked t || (s.coreAt w.core).whalt.getLsbD (slotOf (warpOf t)) || (s.warpOfThread t).held)

/-- PREEMPT_STOP (R405): at a park point, or after 4,096 cycles, the core stops forming bundles for the workgroup, between whole words. -/
def execPreemptStop (lid g : Nat) (s : State) : Host.Outcome State Fault Refusal :=
  .next (
    match s.wg? lid g with
    | none => s
    | some w =>
      match w.st with
      | .asked c =>
        if (s.atParkPoint w || decide (c + 4096 ≤ s.cycleOf w.core)) && !((s.wgThreads w).any s.inGroup) then
          s.updWg lid g (fun x => { x with st := .stopped })
        else s
      | _ => s)

/-! ## The record (R408, R409) -/

/-- A loop entry as 24 bytes (R409). -/
def LoopEntry.encode (e : LoopEntry) : List Byte :=
  leBytes 8 e.start.toNat ++ leBytes 8 e.stop.toNat ++ leBytes 4 e.count.toNat ++ [BitVec.ofNat 8 e.depth, if e.h then 1 else 0, 0, 0]

/-- A loop entry from its bytes. -/
def LoopEntry.decode (bs : List Byte) : LoopEntry :=
  { start := dwordAt bs 0, stop := dwordAt bs 8, count := BitVec.ofNat 32 (fieldAt bs 16 4), depth := fieldAt bs 20 1, h := fieldAt bs 21 1 % 2 == 1 }

/-- A list of bytes with zeros up to a length. -/
def padTo (n : Nat) (bs : List Byte) : List Byte := bs ++ List.replicate (n - bs.length) 0

/-- A loop stack as 96 bytes, bottom first. -/
def encodeLoops (l : List LoopEntry) : List Byte := padTo 96 (l.reverse.flatMap LoopEntry.encode)
/-- A loop stack of `n` entries from its bytes. -/
def decodeLoops (n : Nat) (bs : List Byte) : List LoopEntry := ((List.range n).map (fun k => LoopEntry.decode (bs.drop (24 * k)))).reverse

/-- The thread has arrived at an RCV and waits there. -/
def Thread.atRcv (th : Thread) : Bool := match th.park with | .word .rcv _ _ _ _ => true | _ => false

/-- A thread's 256 bytes (R409); an exited thread's are all 0. -/
def Thread.encode (th : Thread) : List Byte :=
  if !th.live then List.replicate 256 0
  else
    leBytes 8 th.pc.toNat ++ [BitVec.ofNat 8 th.depth, 1 + (if th.h then 2 else 0) + (if th.atRcv then 4 else 0), BitVec.ofNat 8 th.lstk.length,
      th.preds.zeroExtend 8] ++ leBytes 4 th.fpflags.toNat ++ leBytes 4 th.fpmode.toNat ++ leBytes 4 th.srseed.toNat ++
    leBytes 8 th.idempc.toNat ++ [BitVec.ofNat 8 th.idemDepth, BitVec.ofNat 8 th.idemLstk.length, th.trcause, BitVec.ofNat 8 th.edepth] ++
    leBytes 4 th.trword.toNat ++ leBytes 4 th.trmask.toNat ++ [0, 0, 0, 0] ++ leBytes 8 th.trpc.toNat ++ leBytes 8 th.traddr.toNat ++
    encodeLoops th.lstk ++ encodeLoops th.idemLstk

/-- A thread from its 256 bytes; demotion is cleared and its age 0 (R113). -/
def Thread.decode (bs : List Byte) : Thread :=
  if fieldAt bs 9 1 % 2 = 0 then Thread.init
  else
    { Thread.init with
      live := true, pc := dwordAt bs 0, depth := fieldAt bs 8 1, h := fieldAt bs 9 1 / 2 % 2 == 1, lstk := decodeLoops (fieldAt bs 10 1) (bs.drop 64),
      preds := BitVec.ofNat 7 (fieldAt bs 11 1), fpflags := BitVec.ofNat 5 (fieldAt bs 12 4), fpmode := BitVec.ofNat 2 (fieldAt bs 16 4),
      srseed := BitVec.ofNat 32 (fieldAt bs 20 4), idempc := dwordAt bs 24, idemDepth := fieldAt bs 32 1,
      idemLstk := decodeLoops (fieldAt bs 33 1) (bs.drop 160), trcause := BitVec.ofNat 8 (fieldAt bs 34 1), edepth := fieldAt bs 35 1,
      trword := BitVec.ofNat 32 (fieldAt bs 36 4), trmask := BitVec.ofNat 32 (fieldAt bs 40 4), trpc := dwordAt bs 48, traddr := dwordAt bs 56 }

/-- A warp's 64 bytes (R409). -/
def Warp.encode (w : Warp) (halted : Bool) : List Byte :=
  (List.range 8).flatMap (fun n => [BitVec.ofNat 8 (w.tok n).out, (w.tok n).err]) ++ leBytes 4 w.wdoglim.toNat ++
  [if w.sstep then 1 else 0, (if halted then 1 else 0) + (if w.dbgIn.isSome then 2 else 0) + (if w.held then 4 else 0), 0, 0] ++
  leBytes 4 w.lscale.toNat ++ [0, 0, 0, 0] ++ leBytes 8 (w.dbgIn.getD 0).toNat ++ leBytes 8 w.region.toNat ++ List.replicate 16 0

/-- What a warp's 64 bytes change in a warp that has just been placed. -/
def Warp.restore (w : Warp) (bs : List Byte) : Warp :=
  { w with
    toks := (List.range 8).foldl (fun ts n =>
      Tab.put Token.init ts n { out := fieldAt bs (2 * n) 1, err := BitVec.ofNat 8 (fieldAt bs (2 * n + 1) 1) }) [],
    wdoglim := BitVec.ofNat 32 (fieldAt bs 16 4), sstep := fieldAt bs 20 1 % 2 == 1, lscale := BitVec.ofNat 32 (fieldAt bs 24 4),
    dbgIn := if fieldAt bs 21 1 / 2 % 2 = 1 then some (dwordAt bs 32) else none, region := dwordAt bs 40,
    held := fieldAt bs 21 1 / 4 % 2 == 1, hkRestart := fieldAt bs 21 1 / 4 % 2 == 1 }

/-- A tile slot's 1,536 bytes (R408). The layout of the sums is not given: their bytes are free values. -/
def Tile.encode (t : Tile) (q free : Nat) : List Byte :=
  [BitVec.ofNat 8 q, t.type.zeroExtend 8, if t.mx then 1 else 0] ++ List.replicate 13 0 ++
  (List.range (tileRows t.type)).flatMap (fun k =>
    leBytes (2 * tileWidth t.type) (packElems (tileWidth t.type) ((List.range 16).map (fun n => t.elem k n)))) ++
  (List.range 16).flatMap (fun n => (List.range 4).map (fun j => t.scale n j)) ++
  (List.range 320).map (fun i => Config.freeByte (free + i)) ++ List.replicate 112 0

/-- A tile slot from its bytes, for a workgroup. -/
def Tile.decode (bs : List Byte) (lid g : Nat) : Tile :=
  let t : Tile := { owned := true, lid := lid, g := g, type := BitVec.ofNat 3 (fieldAt bs 1 1), mx := fieldAt bs 2 1 % 2 == 1 }
  let w := tileWidth t.type
  let t1 := t.setElems ((List.range (tileRows t.type)).flatMap (fun k =>
    (List.range 16).map (fun n => (k, n, fieldAt bs (16 + 2 * w * k) (2 * w) / 2 ^ (w * n) % 2 ^ w))))
  { t1 with sc := (List.range 64).foldl (fun c i => Tab.put 0x7F c i (BitVec.ofNat 8 (fieldAt bs (1040 + i) 1))) [] }

/-- The registers of a warp: register j of lane l at 4 (32 j + l); those of exited threads are free values (R409). -/
def State.encodeRegs (s : State) (key regs : Nat) : List Byte :=
  (List.range regs).flatMap (fun j => (warpThreads key).flatMap (fun t =>
    leBytes 4 (if (s.thread t).live then (s.thread t).reg j else Config.freeWord (s.free + 32 * j + laneOf t)).toNat))

/-- A warp's part of a record; a warp whose slot has been freed has no live thread and an empty record. -/
def State.encodeWarp (s : State) (w : Wg) (k : Kd) (widx : Nat) : List Byte :=
  let key := warpKey w.core (w.slot + widx)
  if (Tab.get 0 w.regions widx) == 0 then List.replicate (k.warpBytes widx) 0
  else
    (s.warp key).encode ((s.coreAt w.core).whalt.getLsbD (w.slot + widx)) ++ (warpThreads key).flatMap (fun t => (s.thread t).encode) ++
    s.encodeRegs key (k.regsOf widx)

/-- R408: THE SAVE RECORD of a workgroup. -/
def State.encodeRecord (s : State) (w : Wg) (l : Launch) : List Byte :=
  let k := l.kd
  let qs := s.slotsOwned w
  let lo := w.core * sliceBytes + 131072 * w.slot
  let header := leBytes 4 (k.recordSize qs.length) ++ leBytes 2 k.warps ++ [BitVec.ofNat 8 k.regs0, BitVec.ofNat 8 k.regs1, BitVec.ofNat 8 k.warps0,
    BitVec.ofNat 8 k.nbar, (if qs.contains 0 then 1 else 0) + (if qs.contains 1 then 2 else 0), 0] ++ leBytes 4 k.slice ++ leBytes 6 l.lseq ++
    [0, 0] ++ leBytes 4 w.g ++ leBytes 2 w.core
  padTo (k.recordSize qs.length) (padTo 256 header ++
    (List.range k.nbar).flatMap (fun n => (Tab.get Barrier.init0 w.bars n).encode) ++
    qs.flatMap (fun q => ((s.coreAt w.core).tile q).encode q (s.free + 4096 + 320 * q)) ++
    (List.range k.warps).flatMap (s.encodeWarp w k) ++
    s.getBytes lo k.slice ++
    (List.range (k.slice / 64)).map (fun i => BitVec.ofNat 8 (((List.range 8).filter (fun b => s.tagAt (lo + 64 * i + 8 * b))).map (fun b => 2 ^ b)).sum) ++
    (List.range (k.slice / 256)).map (fun i => (s.swzAt (lo + 256 * i)).zeroExtend 8))

/-! ## The save (R289, R406) -/

/-- A range of an engine command meets a workgroup's slice allocation. -/
def State.rangeMeets (s : State) (part : Nat) (w : Wg) (r : HazardRange) : Bool :=
  let lo : Nat := 131072 * w.slot
  let n := (s.wgKd w).slice
  if r.n = 0 || n = 0 then false
  else if r.space = 0 then
    (pageSpans (BitVec.ofInt 64 r.lo) r.n).any (fun x =>
      match s.translateAgent part x.1.toNat with
      | .mapped e size => (match pteHome e (sizeShift size) x.1.toNat with
          | .slice c o => c == w.core && decide (o < lo + n) && decide (lo < o + x.2)
          | _ => false)
      | _ => false)
  else r.space == w.core + 1 && decide (r.lo < (lo + n : Nat)) && decide ((lo : Int) < r.lo + r.n)

/-- The owner is a warp of a workgroup. -/
def Wg.owns (w : Wg) (o : Owner) : Bool := match o with | .token lid g _ _ => lid == w.lid && g == w.g | _ => false

/-- A tensor command as its descriptor makes it: the one that it has read, or the one that stands in memory now. -/
def State.withTensor (s : State) (c : CopyCmd) : CopyCmd :=
  if c.x.unread then (match s.structRead c c.x.src with | .bytes bs => if descSized bs then { c with x := c.x.withDesc bs } else c | _ => c) else c

/-- R289: a copy command reads or writes the workgroup's allocation, with its count word; a chain of its own, and a transfer of its own whose
descriptor is not at hand, may still come to. -/
def State.copyMeets (s : State) (w : Wg) (c0 : CopyCmd) : Bool :=
  let c := s.withTensor c0
  (w.owns c.owner && (c.chain.isSome || c.x.unread)) ||
  (let r := c.ranges
   ((if c.x.counts then [c.hazard c.x.cnt.toNat 8] else []) ++ r.2 :: r.1).any (fun x => s.rangeMeets c.part w { x with n := Nat.max 1 x.n }))

/-- R289: a collective command reads or writes the workgroup's allocation; one of its own that has not read its descriptor may. -/
def State.collMeets (s : State) (w : Wg) (c : CollCmd) : Bool :=
  let n := Nat.max 1 (c.d.esize * sumOf c.counts)
  let range := fun (a : DWord) =>
    if 0xFF00000000000000 ≤ a then HazardRange.mk (c.core + 1) (a.toNat - 0xFF00000000000000 : Nat) n else HazardRange.mk 0 a.toNat n
  if c.known then s.rangeMeets c.part w (range c.d.sbuf) || s.rangeMeets c.part w (range c.d.rbuf) else w.owns c.owner

/-- R289: a Welt command reads the workgroup's allocation. -/
def State.weltMeets (s : State) (w : Wg) (c : WeltCmd) : Bool :=
  match c.kind with
  | .glog _ a =>
    s.rangeMeets c.part w (if 0xFF00000000000000 ≤ a then ⟨c.core + 1, (a.toNat - 0xFF00000000000000 : Nat), 2048⟩ else ⟨0, a.toNat, 2048⟩)
  | _ => false

/-- R289: no engine command has its source or destination in the workgroup's allocation. -/
def State.enginesClear (s : State) (w : Wg) : Bool :=
  (List.range 32).all (fun e => (s.engine e).all.all (fun c => !s.copyMeets w c)) &&
  (List.range 2).all (fun e => (s.collEng e).all.all (fun c => !s.collMeets w c)) &&
  (List.range 8).all (fun d => (s.weltOf d).q.all (fun c => !s.weltMeets w c))

/-- R406 step 2: the threads of a workgroup are interrupted, but for those that have arrived at an RCV, whose arrivals are kept (R105). -/
def State.interruptGroup (s : State) (w : Wg) : State × Bool := s.interruptAll ((s.wgThreads w).filter (fun t => !(s.thread t).atRcv))

/-- R406: nothing of a thread is under way that its record could not hold. -/
def Thread.settled (th : Thread) : Bool :=
  th.outs.isEmpty && th.acks.isEmpty && th.fencing.isNone && th.rcache.isEmpty && th.wdog.isNone && (th.heldTraps.isEmpty || th.h)

/-- The pages of the tables that lie in a workgroup's slice allocation: partition, size, page number and entry, read off the tables. -/
def State.slicePages (s : State) (w : Wg) : List (Nat × Nat × Nat) :=
  let lo := 131072 * w.slot
  let n := (s.wgKd w).slice
  let spots := ((s.mem.filter (fun e => decide (2 ^ 61 ≤ e.1) && decide (e.1 < 2 ^ 61 + 2 ^ 40))).map (fun e => (e.1 - 2 ^ 61) / 16)).eraseDups
  let cands := spots.flatMap (fun i =>
    let e := s.pteAt (16 * i)
    (List.range 8).flatMap (fun p => (List.range 3).map (fun z => (p, z, pteField e 88 40 / 2 ^ (sizeShift z - 16)))))
  (cands.eraseDups).filter (fun c =>
    match s.pteSpot c.1 (c.2.2 * 2 ^ sizeShift c.2.1) with
    | some (_, e, z) =>
      z == c.2.1 && (e.getLsbD 1 || e.getLsbD 2) && pteField e 6 3 == 2 && pteField e 76 10 == w.core &&
      (let o := pteField e 16 36 * 65536 / 2 ^ sizeShift z * 2 ^ sizeShift z
       decide (o < lo + n) && decide (lo < o + 2 ^ sizeShift z))
    | none => false)

/-- HK2 changes the entry of a page. -/
def State.changePte (s : State) (c : Nat × Nat × Nat) (f : BitVec 128 → BitVec 128) : State :=
  let va := c.2.2 * 2 ^ sizeShift c.2.1
  match s.pteSpot c.1 va with
  | some (pa, e, size) => s.setPte c.1 va pa size (f e)
  | none => s

/-- R208: no access that has translated with one of the SLICE pages of a workgroup's allocation is still to be performed. -/
def State.pagesIdle (s : State) (w : Wg) : Bool :=
  (s.slicePages w).all (fun c =>
    match s.pteSpot c.1 (c.2.2 * 2 ^ sizeShift c.2.1) with
    | some (_, e, size) => !s.stillUses e size (c.2.2 * 2 ^ sizeShift size)
    | none => true)

/-- Where a thread has arrived at an RCV: the address after it, its word, and its park marker. -/
def Thread.rcvArrival (th : Thread) : Option (DWord × Word × Bool) :=
  match th.park with | .word .rcv next word mark _ => some (next, word, mark) | _ => none

/-- What a workgroup keeps beside its record. -/
def State.restOf (s : State) (w : Wg) : Tab Rest :=
  (List.range (32 * w.warps)).foldl (fun r k =>
    let th := s.thread (threadKey w.core (w.slot + k / 32) (k % 32))
    Tab.put Rest.init r k { failed := th.failed, heldTraps := th.heldTraps, gangAbort := th.gangAbort && th.live, arrival := th.rcvArrival }) []

/-- HK3's counts of a workgroup's warps. -/
def State.countsOf (s : State) (w : Wg) : Tab (Nat × Nat) :=
  w.regions.foldl (fun r e => let x := s.warp (warpKey w.core (w.slot + e.1)); Tab.put (0, 0) r e.1 (x.restarts, x.quiet)) []

/-- R406 step 4: the record is written, HK2 makes the SLICE pages on-demand, and the core is rid of the workgroup. -/
def State.saveTo (s : State) (w : Wg) (l : Launch) (addr : DWord) : State :=
  let pages := s.slicePages w
  let s1 := { (s.agentStore l.part addr (s.encodeRecord w l)) with free := s.free + 8192 }
  let s2 := pages.foldl (fun s c => s.changePte c pteOnDemand) s1
  let s3 := w.slotsLeft.foldl (fun s j => s.emptySlot w.core j) (s2.emptyTiles w.core w.lid w.g)
  let s4 := s3.updCore w.core (fun c => { c with whalt := w.slotsLeft.foldl (fun h j => h &&& ~~~(1#64 <<< j)) c.whalt })
  s4.updWg w.lid w.g (fun x => { x with
    st := .saved addr, place := (0, 0), bars := [], rest := s.restOf w, hk3 := s.countsOf w, pages := pages })

/-- PREEMPT_SAVE (R289, R406): what is under way is let finish: parked threads are interrupted, cached return addresses written out, the
workgroup's dirty bytes written back and acknowledged, its engine commands done, HK3's decisions taken; then the record is written. Without
room for it the workgroup goes on, and HK1 chooses another. -/
def execPreemptSave (lid g : Nat) (s : State) : Host.Outcome State Fault Refusal :=
  .next (
    match s.wg? lid g, s.launch? lid with
    | some w, some l =>
      if w.st != .stopped then s
      else
        let r := s.interruptGroup w
        let ts := r.1.wgThreads w
        let keys := w.slotsLeft.map (warpKey w.core)
        let s1 := (ts.foldl (fun s t => s.spillTo t 0) r.1).writeBackL1 w.core (fun _ => true)
        let ready := r.2 && ts.all (fun t => (s1.thread t).settled) && keys.all (fun k =>
          !s1.backOpenFor k && (!(s1.warp k).held || (s1.warp k).hkRestart)) && s1.enginesClear w && s1.pagesIdle w
        if !ready then s1
        else
          match s1.recordPlace w with
          | none => s1.updWg lid g (fun x => { x with st := .running, place := (0, 0) })
          | some a =>
            let addr := BitVec.ofNat 64 a
            let n := s1.recordBytesOf w
            if s1.agentCan l.part addr n then s1.saveTo w l addr
            else (pageSpans addr n).foldl (fun s x =>
              match s.translateAgent l.part x.1.toNat with | .onDemand => s.notify l.part x.1 | _ => s) s1
    | _, _ => s)

/-! ## The resumption (R105, R407) -/

/-- The deadline count of an RCV's word (R104). -/
def rcvCount (w : Word) : Nat := match decodeSimt w with | .ok (.rcv _ tmo) => tmo.toNat | _ => 0

/-- R105, R113: a thread that had arrived at an RCV is back there; its episode has its full deadline from now. -/
def State.arriveAgain (s : State) (t : Nat) (a : DWord × Word × Bool) : State :=
  let w := warpOf t
  let tmo := rcvCount a.2.1
  let e : Episode := ⟨a.1 - 4, (s.thread t).depth, if tmo = 0 then none else some (s.cycleOf (coreOfThread t) + 64 * tmo)⟩
  let s1 := if (s.warp w).rcv.any (fun x => x.pc == e.pc && x.depth == e.depth) then s else s.updWarp w (fun x => { x with rcv := x.rcv ++ [e] })
  s1.updThread t (fun th => { th with park := .word .rcv a.1 a.2.1 a.2.2 (lanesMask [laneOf t]) })

/-- A thread of a record comes back. -/
def State.restoreThread (s : State) (t regs : Nat) (bs rg : List Byte) (rest : Rest) : State :=
  let th := Thread.decode bs
  if !th.live then s.setThread t { Thread.init with failed := rest.failed }
  else
    (s.setThread t { th with
      regs := (List.range regs).foldl (fun r j => Tab.put 0 r j (BitVec.ofNat 32 (fieldAt rg (4 * (32 * j + laneOf t)) 4))) [],
      readyAt := s.cycleOf (coreOfThread t), failed := rest.failed, heldTraps := rest.heldTraps, gangAbort := rest.gangAbort })

/-- A warp of a record comes back in its slot of a core, with its halt bit (R407). -/
def State.restoreWarp (s : State) (w : Wg) (l : Launch) (core : Nat) (bs : List Byte) (widx : Nat) : State :=
  let slot := w.slot + widx
  let key := warpKey core slot
  let regs := l.kd.regsOf widx
  let rg := bs.drop (64 + 8192)
  let s1 := (s.startWarp l core slot w.g widx 0).updWarp key (fun x =>
    { x.restore bs with restarts := (Tab.get (0, 0) w.hk3 widx).1, quiet := (Tab.get (0, 0) w.hk3 widx).2 })
  let s2 := (List.range 32).foldl (fun s i =>
    s.restoreThread (key * 32 + i) regs ((bs.drop (64 + 256 * i)).take 256) rg (Tab.get Rest.init w.rest (32 * widx + i))) s1
  s2.updCore core (fun c => { c with whalt := if fieldAt bs 21 1 % 2 = 1 then c.whalt ||| (1#64 <<< slot) else c.whalt &&& ~~~(1#64 <<< slot) })

/-- The threads of a record whose bit 2 says that they had arrived at an RCV. -/
def arrivedIn (bs : List Byte) : List Nat := (List.range 32).filter (fun i => fieldAt bs (64 + 256 * i + 9) 1 / 4 % 2 == 1)

/-- The slice allocation of a record comes back: bytes, tags and swizzle ids. -/
def State.restoreSlice (s : State) (core lo n : Nat) (bs : List Byte) : State :=
  let s1 := (s.clearSlice core lo n).putBytes (core * sliceBytes + lo) (bs.take n)
  let k := core * sliceBytes + lo
  let tg := bs.drop n
  let sw := bs.drop (n + n / 64)
  let s2 := (List.range (n / 8)).foldl (fun s i => if fieldAt tg (i / 8) 1 / 2 ^ (i % 8) % 2 = 1 then s.setTag (k + 8 * i) true else s) s1
  (List.range (n / 256)).foldl (fun s i => s.setSwz (k + 256 * i) (BitVec.ofNat 2 (fieldAt sw i 1))) s2

/-- R407: the record of a workgroup is restored on a core, and HK2 points its SLICE pages there. -/
def State.restoreFrom (s : State) (w : Wg) (l : Launch) (addr : DWord) (core : Nat) : State :=
  let k := l.kd
  let slots := s.savedSlots l.part addr
  let bits := s.slotBits l.part addr
  let rec_ := s.agentLoad l.part addr (k.recordBytes slots k.slice)
  let part := fun o => rec_.drop o
  let s1 := ((s.setCarve core (carveOf k.l1)).forgetFills core (fun _ _ => true)).invalidateL1 core (fun _ => true)
  let s2 := s1.restoreSlice core (131072 * w.slot) k.slice (part (k.warpOffset slots k.warps))
  let qs := (List.range 2).filter (fun q => bits.getLsbD q)
  let s3 := (qs.zip (List.range 2)).foldl (fun s q => s.setTile core q.1 (Tile.decode ((part (256 + 16 * k.nbar + 1536 * q.2)).take 1536) w.lid w.g)) s2
  let bars := (List.range k.nbar).foldl (fun b n => Tab.put Barrier.init0 b n (Barrier.decode ((part (256 + 16 * n)).take 16))) []
  let here := w.regions.map Prod.fst
  let s4 := here.foldl (fun s j => s.restoreWarp w l core (part (k.warpOffset slots j)) j) s3
  let s5 := s4.updWg w.lid w.g (fun x => { x with st := .running, core := core, bars := bars, place := (0, 0), rest := [], hk3 := [], pages := [] })
  let s6 := w.pages.foldl (fun s c =>
    (s.changePte c (fun e => pteSet (pteSet (pteSet e 1 1 1) 2 1 0) 76 12 core)).releasePage c.1 (c.2.2 * 2 ^ sizeShift c.2.1) c.2.1) s5
  let s7 := s6.updCore core (fun c => { c with
    pending := c.pending ++ here.map (fun j => w.slot + j), leases := c.leases.filter (fun e => !(w.slotsLeft.contains e.1)) })
  here.foldl (fun s j =>
    (arrivedIn (part (k.warpOffset slots j))).foldl (fun s i =>
      match (Tab.get Rest.init w.rest (32 * j + i)).arrival with
      | some a => s.arriveAgain (threadKey core (w.slot + j) i) a
      | none => s) s) s7

/-- PREEMPT_RESUME (R365, R407): HK1 restores the saved workgroup that is next on a core that can take it. -/
def execPreemptResume (lid g : Nat) (core : Fin 1024) (s : State) : Host.Outcome State Fault Refusal :=
  .next (
    match s.wg? lid g, s.launch? lid with
    | some w, some l =>
      match w.st with
      | .saved addr =>
        if s.nextSaved l.part w && s.canResume core.val w (s.slotBits l.part addr) &&
            s.agentCan l.part addr (l.kd.recordSize (s.savedSlots l.part addr)) then s.restoreFrom w l addr core.val
        else s
      | _ => s
    | _, _ => s)

end Sys2Proof.Machine
end

