-- ==== Sys2Proof/Machine/Security.lean ====
section
/-! DEFINITION. HK6: firmware verification, measurement, the identity and attestation keys, and the start of the device
(R426 to R428, R439 to R442). -/

namespace Sys2Proof.Machine
open Sys2Proof

/-! ## DEVSTAT (R420, R422) -/

/-- The functions that are enabled: the PF, 8, and the VF of each partition with a die (R420). -/
def State.functions (s : State) : List Nat := 8 :: (List.range 8).filter (fun k => !(s.diesOf k).isEmpty)

/-- Changes the device's registers; a transition of STATE, PST or TRIP changes DEVSTAT and raises vector 64 of every function. -/
def State.updDev (s : State) (f : Device → Device) : State :=
  let d := f s.dev
  let changed := d.state != s.dev.state || d.pst != s.dev.pst || d.trip != s.dev.trip
  { s with dev := if changed then { d with msix := d.msix ++ s.functions.map (fun k => (k, 64)) } else d }

/-- DEVSTAT's value (R422). -/
def Device.devstat (d : Device) : DWord :=
  BitVec.ofNat 64 (d.temp.toNat * 2 ^ 40 + d.wfail.toNat * 2 ^ 32 + d.cfail.toNat * 2 ^ 24 + d.fstep.toNat * 2 ^ 16 +
    (if d.trip then 2 ^ 11 else 0) + d.pst % 8 * 2 ^ 8 + d.state % 16)

/-- DEVCTL's value (R423): RST reads 0. -/
def Device.devctl (d : Device) : DWord :=
  BitVec.ofNat 64 ((if d.cold then 2 ^ 25 else 0) + (if d.zero then 2 ^ 24 else 0) + d.dbgen.toNat * 2 ^ 16 + d.retain.toNat * 2 ^ 8)

/-! ## Firmware (R439) -/

/-- A byte list cut or filled with zeros to `n` bytes. -/
def fixLen (n : Nat) (bs : List Byte) : List Byte := (bs ++ List.replicate n 0).take n

/-- The header of an image. -/
def imageHeader (i : Image) : FwHeader := match i with | none => Config.shippedHeader | some bs => Config.fwHeader bs
/-- The SHAKE256 digest of an image. -/
def imageDigest (i : Image) : List Byte := match i with | none => Config.shippedDigest | some bs => Config.shake256 bs 32

/-- The SVN of an image; that of the shipped image is 0 (assumption 34). -/
def imageSvn (i : Image) : Nat := match i with | none => 0 | some bs => (Config.fwHeader bs).svn

/-- The key and the signature of an image verify; the shipped image's do (assumption 34). -/
def imageSigned (i : Image) : Bool :=
  match i with
  | none => true
  | some bs => let h := Config.fwHeader bs; Config.shake256 h.key 32 == Config.pkd && Config.slhVerify h.key h.signed h.sig

/-- R439: FULL VERIFICATION of an image against the fused SVN. -/
def imageVerifies (i : Image) (svn : Fin 65) : Bool := decide (svn.val ≤ imageSvn i) && imageSigned i

/-- R439: the SVN fused up to an image's value, of 64 fuses. -/
def fuseTo (svn : Fin 65) (v : Nat) : Fin 65 := if svn.val < v then ⟨Nat.min v 64, Nat.lt_succ_of_le (Nat.min_le_right v 64)⟩ else svn

/-- R426 step 2: an image's digest is that of the record in flash. -/
def sameImage (a b : Image) : Bool := a == b || imageDigest a == imageDigest b

/-- The firmware slot of an index. -/
def Device.slot (d : Device) (k : Nat) : FwSlot := Tab.get FwSlot.init d.fw k

/-- A slot holds an image that a start of a kind accepts: cold by full verification, warm by its digest (R426). -/
def Device.accepts (d : Device) (cold : Bool) (k : Nat) : Bool :=
  let x := d.slot k
  x.valid && (if cold then imageVerifies x.image d.svn else match d.trained with | none => false | some t => sameImage x.image t.2)

/-- R439: the slot that a start uses: the accepted one with the higher version. -/
def Device.startSlot (d : Device) (cold : Bool) : Option Nat :=
  if d.accepts cold 0 && d.accepts cold 1 then
    some (if (imageHeader (d.slot 0).image).version < (imageHeader (d.slot 1).image).version then 1 else 0)
  else if d.accepts cold 0 then some 0
  else if d.accepts cold 1 then some 1 else none

/-! ## Measurement (R440) -/

/-- What a measurement is extended with. -/
def Meas.bytes : Meas → List Byte
  | .image i => imageDigest i
  | .records i => Config.trainingRecord ++ imageDigest i
  | .config p c => leBytes 8 p.toNat ++ leBytes 8 c.toNat
  | .data b => b

/-- R440: the 64 bytes of a measurement register. -/
def Device.measValue (d : Device) (k : Nat) : List Byte :=
  (Tab.get [] d.meas k).foldl (fun v m => fixLen 64 (Config.shake256 (v ++ m.bytes) 64)) (List.replicate 64 0)

/-! ## Zeroing, and what is lost (R199, R426, R433) -/

/-- Host memory alone of a memory table: it is no memory of the device. -/
def hostOnly (m : Tab Byte) : Tab Byte := m.filter (fun e => decide (2 ^ 72 ≤ e.1))

/-- R426 step 5: every slice byte, tag, swizzle id, stacked DRAM and outer memory byte is zero; the page tables lay there. -/
def State.zeroMemory (s : State) : State :=
  { s with mem := hostOnly s.mem, tags := [], swz := [], poison := [], lost := [],
           parts := (s.parts.map (fun e => (e.1, { e.2 with desc := [] }))).filter (fun e => e.2 != Part.init),
           cp := { s.cp with store := [], sections := [] } }

/-- The ranges of every memory of the device, with those of its tags and swizzle ids. -/
def memoryRanges : List (Nat × Nat) :=
  [(0, 1024 * 8388608)] ++ (List.range 8).map (fun d => (2 ^ 60 + d * 2 ^ 52, 2 ^ 60 + d * 2 ^ 52 + 2 ^ 35)) ++
  [(2 ^ 61, 2 ^ 61 + 2 ^ 40), (2 ^ 70, 2 ^ 70 + 1024 * 1048576), (2 ^ 71, 2 ^ 71 + 1024 * 32768)]

/-- The contents of a range become undefined. -/
def State.loseRange (s : State) (lo hi : Nat) : State :=
  { s with lost := cutLost s.lost lo hi ++ [(lo, hi, s.free)], free := s.free + (hi - lo) }

/-- R433: the memories lose their contents. -/
def State.loseMemory (s : State) : State :=
  memoryRanges.foldl (fun s r => s.loseRange r.1 r.2) { s with mem := hostOnly s.mem, tags := [], swz := [], poison := [] }

/-! ## Start (R426 to R428) -/

/-- R427: a start is warm. -/
def Device.startsWarm (d : Device) : Bool :=
  !d.cold && decide (d.wfail.toNat < 3) && (match d.trained with | none => false | some t => t.1 == d.svn.val)

/-- A start of a kind is under way: the count of its kind has risen, and the measurements are zero (R427, R440). -/
def Device.begins (d : Device) (cold zero : Bool) : Device :=
  { d with state := if cold then 1 else 2, starting := some (cold, zero), meas := [],
           wfail := if cold then d.wfail else d.wfail + 1, cfail := if cold then d.cfail + 1 else d.cfail }

/-- A START BEGINS (R427, R428, R434): after three failed cold starts the device enters recovery instead. A cold start zeroes memory, and a warm one
when DEVCTL.ZERO asks for it, but not on leaving RETAIN. -/
def State.startBegin (s : State) (leavesRetain : Bool) : State :=
  if 3 ≤ s.dev.cfail.toNat then s.updDev (fun d => { d with state := 4, starting := none, startBy := none })
  else s.updDev (fun d => if d.startsWarm then d.begins false (d.zero && !leavesRetain) else d.begins true true)

/-- R428: the cold start that leaves recovery. -/
def State.leaveRecovery (s : State) : State := s.updDev (fun d => { d with cfail := 0 }.begins true true)

/-- R426, R440: the measurements of a start that has used an image and come past a step. -/
def Device.measured (d : Device) (img : Image) (step : Nat) : Tab (List Meas) :=
  (if 2 < step then [(0, [.image img])] else []) ++ (if 4 < step then [(1, [.records img])] else []) ++
  (if 7 < step then [(2, [.config (BitVec.ofNat 64 d.partcfg.toNat) d.devctl])] else [])

/-- R426: what a start has done to memory when it has come past step 5, or fails there. -/
def State.startZero (s : State) (zero : Bool) (step : Nat) : State :=
  if !zero || decide (step < 5) then s else if step = 5 then s.loseMemory else s.zeroMemory

/-- A START FAILS (R426) at a step: what the steps before it have done stays. -/
def State.startFail (s : State) (step : Nat) : State :=
  match s.dev.starting with
  | none => s
  | some (cold, zero) =>
    let img := (s.dev.startSlot cold).map (fun k => (s.dev.slot k).image)
    (s.startZero zero step).updDev (fun d =>
      { d with state := 0, starting := none, startBy := none, fstep := BitVec.ofNat 8 step,
               meas := match img with | some x => d.measured x step | none => [] })

/-- Every ring has EN = 0. -/
def State.stopRings (s : State) : State :=
  { s with rings := (s.rings.map (fun (e : Nat × Ring) => (e.1, { e.2 with en := false }))).filter (fun e => e.2 != Ring.init) }

/-- A START ENDS WELL (R426, R427, R434, R440): memory is zeroed if it must be, the counts and COLD and ZERO are cleared, a cold start leaves
its records, the SVN is fused, every ring has EN = 0, and HK4 attaches the endpoint. -/
def State.startOk (s : State) (cold zero : Bool) (k : Nat) : State :=
  let img := (s.dev.slot k).image
  let s1 := (s.startZero zero 8).updDev (fun d =>
    let svn := fuseTo d.svn (imageSvn img)
    { d with state := 3, pst := 0, trip := false, starting := none, wfail := 0, cfail := 0, cold := false, zero := false, active := k, svn := svn,
             trained := if cold then some (svn.val, img) else d.trained, meas := d.measured img 8, quotes := 0 })
  let s2 := s1.stopRings
  if s2.lodge.epst != 1 then { s2 with lodge := { s2.lodge with epst := 1, epoch := !s2.lodge.epoch } } else s2

/-- THE END OF A START in progress: it fails at step 2 when no firmware slot is accepted. -/
def State.startFinish (s : State) : State :=
  match s.dev.starting with
  | none => s
  | some (cold, zero) =>
    match s.dev.startSlot cold with
    | none => s.startFail 2
    | some k => s.startOk cold zero k

/-- POWER_ON (R426): power arrives and a start begins; `failStep` from 1 to 7 is the step at which it fails, any other value none. -/
def execPowerOn (failStep : Nat) (s : State) : Host.Outcome State Fault Refusal :=
  .next (
    if s.dev.state != 0 || s.dev.resetting then s
    else
      let s1 := s.startBegin false
      if decide (1 ≤ failStep) && decide (failStep ≤ 7) then s1.startFail failStep else s1)

/-- START_OVERRUN (R426): a start that overruns its time fails at the step it has reached. -/
def execStartOverrun (step : Nat) (s : State) : Host.Outcome State Fault Refusal := .next (s.startFail (Nat.min step 7))

/-! ## Keys (R441) -/

/-- The seed of the identity key. -/
def identitySeed : List Byte := Config.shake256 (Config.uds ++ [1]) 96
/-- The seed of this start's attestation key. -/
def Device.attestSeed (d : Device) : List Byte := Config.shake256 (Config.uds ++ d.measValue 0 ++ [2]) 96
/-- The attestation key's public key. -/
def Device.attestKey (d : Device) : List Byte := fixLen 64 (Config.slhPublicFast d.attestSeed)

/-- R441: the alias certificate: 29,920 bytes. -/
def Device.aliasCert (d : Device) : List Byte :=
  let m := d.attestKey ++ d.measValue 0
  m ++ fixLen 29792 (Config.slhSign identitySeed m)

/-! ## Quotes (R442) -/

/-- Bytes [607:0] of a quote, counting itself among the quotes since the start. -/
def State.quoteBody (s : State) (nonce : List Byte) (part : Nat) : List Byte :=
  let d := s.dev
  fixLen 64 nonce ++ (List.range 8).flatMap d.measValue ++ leBytes 8 d.devstat.toNat ++ leBytes 8 d.partcfg.toNat ++
  leBytes 2 s.devId.toNat ++ leBytes 1 part ++ List.replicate 5 0 ++ leBytes 8 (d.quotes + 1)

/-- R442: a quote of 50,464 bytes. -/
def State.quoteBytes (s : State) (nonce : List Byte) (part : Nat) : List Byte :=
  let b := s.quoteBody nonce part
  b ++ fixLen 49856 (Config.slhSignFast s.dev.attestSeed b)

/-! ## Host memory by bus address (R421, R425) -/

/-- The number of a host memory byte in the model's memory. -/
def hostKey (a : DWord) : Nat := (Home.host a.toNat).key
/-- Bytes of host memory. -/
def State.hostRead (s : State) (a : DWord) (n : Nat) : List Byte := s.getBytes (hostKey a) n
/-- Writes bytes of host memory. -/
def State.hostWrite (s : State) (a : DWord) (bs : List Byte) : State := s.putBytes (hostKey a) bs

end Sys2Proof.Machine
end

