-- ==== Sys2Proof/Machine/System.lean ====
section
/-! DEFINITION. The system words, OP 0x7F, and the special registers (R50 to R53, R395, R399, R411 to R418). -/

namespace Sys2Proof.Machine
open Sys2Proof

/-! ## Special registers (R50 to R53) -/

/-- A number as a special register's value. -/
def spr (n : Nat) : DWord := BitVec.ofNat 64 n

/-- R50, R395: the value of a special register for a thread; a 32-bit register is zero-extended. -/
def State.special (s : State) (t n : Nat) : DWord :=
  let th := s.thread t
  let w := s.warpOfThread t
  let core := coreOfThread t
  let c := s.coreAt core
  match n with
  | 0x00 => spr (w.widx * 32 + laneOf t)
  | 0x01 => spr (laneOf t)
  | 0x02 => spr w.widx
  | 0x03 => spr (slotOf (warpOf t))
  | 0x04 => w.wgx.zeroExtend 64
  | 0x05 => w.wgy.zeroExtend 64
  | 0x06 => w.wgz.zeroExtend 64
  | 0x07 => w.nwg.zeroExtend 64
  | 0x08 => spr w.role
  | 0x09 => spr core
  | 0x0A => spr (dieOf core)
  | 0x0B => s.devId.zeroExtend 64
  | 0x0C => spr w.rcb
  | 0x0D => w.param
  | 0x0E => spr th.depth
  | 0x0F => spr th.lstk.length
  | 0x10 => th.trcause.zeroExtend 64
  | 0x11 => th.trpc
  | 0x12 => th.trmask.zeroExtend 64
  | 0x13 => sectorOf th.traddr
  | 0x14 => th.trword.zeroExtend 64
  | 0x15 => th.idempc
  | 0x18 => th.fpflags.zeroExtend 64
  | 0x19 => th.fpmode.zeroExtend 64
  | 0x1A => th.srseed.zeroExtend 64
  | 0x1C => spr c.cycle
  | 0x1D => (c.budget ++ c.stall).zeroExtend 64
  | 0x1E => if c.govmodeNext then 1 else 0
  | 0x20 => w.wdoglim.zeroExtend 64
  | 0x21 => if w.sstep then 1 else 0
  | 0x22 => c.whalt
  | 0x24 | 0x25 | 0x26 | 0x27 => (Tab.get Watch.init c.watch (n - 0x24)).addr
  | 0x28 | 0x29 | 0x2A | 0x2B => (Tab.get Watch.init c.watch (n - 0x28)).mask
  | 0x30 => w.lscale.zeroExtend 64
  | _ => 0

/-- R50: the registers CSRW may write. -/
def sprWritable (n : Nat) : Bool :=
  n == 0x11 || n == 0x18 || n == 0x19 || n == 0x1A || n == 0x1E || n == 0x20 || n == 0x21 || n == 0x22 ||
  (decide (0x24 ≤ n) && decide (n ≤ 0x2B))

/-- R52: the registers that only a trap handler may write. -/
def sprHandlerOnly (n : Nat) : Bool :=
  n == 0x11 || n == 0x1E || n == 0x20 || n == 0x21 || n == 0x22 || (decide (0x24 ≤ n) && decide (n ≤ 0x2B))

/-- R413: a watchpoint of a core is written by a fault domain of a partition. -/
def State.setWatch (s : State) (core n part fdom : Nat) (f : Watch → Watch) : State :=
  s.updCore core (fun c => { c with
    watch := Tab.put Watch.init c.watch n { f (Tab.get Watch.init c.watch n) with part := part, fdom := fdom } })

/-- R395: a special register written whole; reserved bits read as zero. -/
def State.setSpecial (s : State) (t n : Nat) (v : DWord) : State :=
  let w := s.warpOfThread t
  let core := coreOfThread t
  let fdom := (s.viewOf w).fdom w.rcb
  match n with
  | 0x11 => s.updThread t (fun th => { th with trpc := v })
  | 0x18 => s.updThread t (fun th => { th with fpflags := v.setWidth 5 })
  | 0x19 => s.updThread t (fun th => { th with fpmode := v.setWidth 2 })
  | 0x1A => s.updThread t (fun th => { th with srseed := v.setWidth 32 })
  | 0x1E => s.updCore core (fun c => { c with govmodeNext := v.getLsbD 0 })
  | 0x20 => s.updWarp (warpOf t) (fun w => { w with wdoglim := v.setWidth 32 })
  | 0x21 => s.updWarp (warpOf t) (fun w => { w with sstep := v.getLsbD 0 })
  | 0x22 => s.updCore core (fun c => { c with whalt := v })
  | 0x24 | 0x25 | 0x26 | 0x27 => s.setWatch core (n - 0x24) w.part fdom (fun x => { x with addr := v &&& ~~~7#64 })
  | 0x28 | 0x29 | 0x2A | 0x2B => s.setWatch core (n - 0x28) w.part fdom (fun x => { x with mask := v &&& ~~~4#64 })
  | _ => s

/-- A special register's value as register writes from `d`. -/
def sprWrites (n : BitVec 6) (d : BitVec 6) (v : DWord) : List (Nat × Word) :=
  if csrRegs n = 2 then pairWrites d.toNat v else [(d.toNat, v.setWidth 32)]

/-- CSRR (R415, R419). -/
def execCsrr (g : Guard) (d a : BitVec 6) (s : State) : Host.Outcome State Fault Refusal :=
  .next (s.laneWord (.csrr g d a) (fun s t =>
    let o : LaneOut := { regs := sprWrites a d (s.special t a.toNat) }
    (s.updThread t (fun th => (th.write o).readyFrom (s.cycleOf s.cur.core + 4) (o.marks (.csrr g d a))), .pass)))

/-- CSRW (R52, R415). -/
def execCsrw (g : Guard) (d a : BitVec 6) (s : State) : Host.Outcome State Fault Refusal :=
  .next (s.laneWord (.csrw g d a) (fun s t =>
    let th := s.thread t
    if !sprWritable a.toNat then (s, .trap 1 0)
    else if sprHandlerOnly a.toNat && !th.h then (s, .trap 5 0)
    else (s.setSpecial t a.toNat (if csrRegs a = 2 then th.pair d.toNat else (th.reg d.toNat).zeroExtend 64), .pass)))

/-! ## TRAP, BKPT, RTE, WDOG -/

/-- TRAP (R416). -/
def execTrap (g : Guard) (c : BitVec 12) (s : State) : Host.Outcome State Fault Refusal :=
  .next (s.laneWord (.trap g c) (fun s _ => (s, .trap 0x11 0)))

/-- BKPT (R416). -/
def execBkpt (g : Guard) (c : BitVec 12) (s : State) : Host.Outcome State Fault Refusal :=
  .next (s.laneWord (.bkpt g c) (fun s _ => (s, .trap 0x0E 0)))

/-- RTE of one thread (R399, R419); return addresses the handler pushed go with its calls. -/
def State.takeRte (s : State) (t : Nat) : State × Adv :=
  let th := s.thread t
  if !th.h then (s, .trap 1 0)
  else
    match targetCause th.trpc with
    | some c => (s, .trap c 0)
    | none =>
      (s.setThread t { th.leaveHandler with
        rcache := th.rcache.filter (fun e => decide (e.1 < th.edepth)), readyAt := s.cycleOf s.cur.core + 2 }, .set)

/-- RTE (R399). The word itself was completed in handler mode, so it makes no single-step trap (R412). -/
def execRte (g : Guard) (s : State) : Host.Outcome State Fault Refusal :=
  .next (s.laneWord (.rte g) (fun s t =>
    match s.takeRte t with
    | (s1, .set) => (s1.updThread t (fun th => if g.s && th.waiting then { th with park := .marker } else th), .stay)
    | r => r))

/-- WDOG (R417). -/
def execWdog (g : Guard) (s : State) : Host.Outcome State Fault Refusal :=
  .next (s.simt (.wdog g) (fun s ps =>
    let s1 := ((ps.map warpOf).eraseDups).foldl (fun s w =>
      (s.liveThreads w).foldl (fun s t => s.updThread t (fun th => { th with age := 0 })) s) s
    (ps.foldl (fun s t => s.pass t g.s) s1, none)))

/-! ## DBGMB (R418) -/

/-- The partition's debug enable. -/
def State.dbgEnabled (s : State) (part : Nat) : Bool := s.dev.dbgen.getLsbD part

/-- The participants by warp, each in ascending lane order. -/
def byWarp (ps : List Nat) : List (Nat × List Nat) :=
  ((ps.map warpOf).eraseDups).map (fun w => (w, ps.filter (fun t => warpOf t == w)))

/-- SEND's part: a word goes to the core's outbound queue; false when the queue is full. -/
def State.dbgPost (s : State) (t : Nat) (v : DWord) : State × Bool :=
  let core := coreOfThread t
  if 16 ≤ (s.coreAt core).dbgOut.length then (s, false)
  else (s.updCore core (fun c => { c with
    dbgOut := c.dbgOut ++ [{ slot := slotOf (warpOf t), lane := laneOf t, pc := s.cur.pc, word := v }] }), true)

/-- The inbound word goes to threads as a pending result and is no longer valid. -/
def State.dbgTake (s : State) (w d : Nat) (v : DWord) (ts : List Nat) : State :=
  ts.foldl (fun s t => s.addOut t .regs [d, d + 1] (some (.val [v.extractLsb' 0 32, v.extractLsb' 32 32])) 0 false 0 0)
    (s.updWarp w (fun x => { x with dbgIn := none }))

/-- RECV's part for one warp: it takes the word at once, or its participants park until it is valid. -/
def State.dbgRecv (s : State) (w d : Nat) (mark : Bool) (ts : List Nat) : State :=
  match (s.warp w).dbgIn with
  | some v => ts.foldl (fun s t => s.pass t mark) (s.dbgTake w d v ts)
  | none => ts.foldl (fun s t => s.parkWord t (.dbg d) mark) s

/-- A warp's inbound word becomes valid: the threads that wait for it at the word of the lowest lane take it (R418). -/
def State.dbgArrive (s : State) (w : Nat) (v : DWord) : State :=
  let waiting := (s.liveThreads w).filterMap (fun t =>
    match (s.thread t).park with | .word (.dbg d) next _ _ mask => some (t, d, next, mask) | _ => none)
  match waiting with
  | [] => s.updWarp w (fun x => { x with dbgIn := some v })
  | (_, d, next, mask) :: _ =>
    let ts := (waiting.filter (fun e => e.2.2.1 == next && e.2.2.2 == mask)).map Prod.fst
    ts.foldl (fun s t => s.completeWord t) (s.dbgTake w d v ts)

/-- A DBGMB word: without the debug enable it traps with cause 0x05; otherwise each warp acts once. -/
def State.dbgWord (s : State) (i : Instr) (f : State → Nat × List Nat → State) : State :=
  s.simt i (fun s ps =>
    ((byWarp ps).foldl (fun s w =>
      if s.dbgEnabled (s.warp w.1).part then f s w else w.2.foldl (fun s t => s.trapWord t 5 0) s) s, none))

/-- The operand of a warp's lowest-lane participant. -/
def State.dbgOperand (s : State) (a : BitVec 6) (ts : List Nat) : Nat × DWord :=
  match ts with | [] => (0, 0) | t :: _ => (t, (s.thread t).pair a.toNat)

/-- DBGMB.SEND: with a full queue the threads do not issue. -/
def execDbgmbSend (g : Guard) (a : BitVec 6) (s : State) : Host.Outcome State Fault Refusal :=
  .next (s.dbgWord (.dbgmbSend g a) (fun s w =>
    let p := s.dbgOperand a w.2
    match s.dbgPost p.1 p.2 with
    | (s1, true) => w.2.foldl (fun s t => s.pass t g.s) s1
    | (s1, false) => s1))

/-- DBGMB.RECV. -/
def execDbgmbRecv (g : Guard) (d : BitVec 6) (s : State) : Host.Outcome State Fault Refusal :=
  .next (s.dbgWord (.dbgmbRecv g d) (fun s w => s.dbgRecv w.1 d.toNat g.s w.2))

/-- DBGMB.XCHG. -/
def execDbgmbXchg (g : Guard) (d a : BitVec 6) (s : State) : Host.Outcome State Fault Refusal :=
  .next (s.dbgWord (.dbgmbXchg g d a) (fun s w =>
    let p := s.dbgOperand a w.2
    match s.dbgPost p.1 p.2 with
    | (s1, true) => s1.dbgRecv w.1 d.toNat g.s w.2
    | (s1, false) => s1))

end Sys2Proof.Machine
end

