-- ==== Sys2Proof/Machine/Mailbox.lean ====
section
/-! DEFINITION. The mailbox functions of the host (R215, R362, R403, R404, R418, R425, R439 to R442, R446). -/

namespace Sys2Proof.Machine
open Sys2Proof

/-! ## Calls (R420, R425, R428) -/

/-- What a mailbox function comes to: its status, or a wait for HK2's answer for a page. -/
inductive MbEnd where
  | status (st : Byte)
  | wait
  deriving DecidableEq, Repr

/-- The functions that recovery serves: QUOTE, IDCERT and FWLOAD (R428). -/
def mbInRecovery (code : Byte) : Bool := code == 7 || code == 8 || code == 9

/-- The mailbox serves a function: the device is READY with its compute side on, or in recovery. -/
def State.mbServes (s : State) (code : Byte) : Bool :=
  if s.dev.state = 4 then mbInRecovery code else s.isUp && decide (s.dev.pst ≤ 2)

/-- R420: a function is enabled. -/
def State.funcEnabled (s : State) (f : Func) : Bool := match f with | .pf => true | .vf k => !(s.diesOf k.val).isEmpty

/-- MBSTAT with a function's end. -/
def State.mbSettle (s : State) (f : Func) (a : MbArgs) : MbEnd → State
  | .status st => { s with dev := { s.dev with mbstat := st, mbWait := none } }
  | .wait => { s with dev := { s.dev with mbWait := some (f, a) } }

/-- A CALL OF A MAILBOX FUNCTION (R425): MBARG0–3 and MBCMD take their values; while BUSY = 1 the call is ignored; a VF's call to a PF-only
function is refused; otherwise `k` acts and its end is the status. -/
def State.mailbox (s : State) (f : Func) (code : Byte) (pfOnly : Bool) (a : MbArgs) (k : State → State × MbEnd) : State :=
  if !s.funcEnabled f || s.dev.mbWait.isSome then s
  else
    let s1 := { s with dev := { s.dev with mb := a, mbcmd := code } }
    if !s1.mbServes code then s1
    else if pfOnly && f != .pf then s1.mbSettle f a (.status 5)
    else let r := k s1; r.1.mbSettle f a r.2

/-- The partition that a function acts in: a VF's own; the PF's as an argument names it. -/
def funcPart (f : Func) (arg : DWord) : Nat := match f with | .pf => arg.toNat % 8 | .vf k => k.val

/-- A VF acts only within its own partition. -/
def funcMay (f : Func) (part : Nat) : Bool := match f with | .pf => true | .vf k => k.val == part

/-! ## Region control blocks (R362) -/

/-- An RCB from its 128 bytes, at an address. -/
def Rcb.ofBytes (addr : DWord) (bs : List Byte) : Rcb :=
  { id := fieldAt bs 0 2, addr := addr, parent := fieldAt bs 2 2, level := 0, prio := fieldAt bs 5 1, chk := fieldAt bs 6 1,
    fdom := fieldAt bs 7 1, maxcore := fieldAt bs 8 2, maxws := fieldAt bs 10 1, cqsh := fieldAt bs 11 1, mxsh := fieldAt bs 12 1,
    traph := dwordAt bs 16, stack := fieldAt bs 24 4, stkpool := dwordAt bs 32, stksz := fieldAt bs 40 8, save := dwordAt bs 48,
    savesz := fieldAt bs 56 8, tape := dwordAt bs 64, tapesz := fieldAt bs 72 4, tapen := fieldAt bs 76 4, gacc := dwordAt bs 80,
    gnt := fieldAt bs 88 4 }

/-- R362: every field of an RCB obeys the table. -/
def Rcb.legal (r : Rcb) (bs : List Byte) : Bool :=
  decide (1 ≤ r.id) && decide (r.id ≤ 4095) && decide (r.parent ≤ 4095) && (decide (r.prio ≤ 3) || r.prio == 0xFF) && decide (r.chk ≤ 3) &&
  decide (r.maxcore ≤ 1024) && decide (r.maxws ≤ 64) && decide (r.cqsh ≤ 64) && decide (r.mxsh ≤ 8) && fieldAt bs 13 3 == 0 &&
  r.traph.toNat % 4 == 0 && r.stack % 16 == 0 && fieldAt bs 28 4 == 0 && r.stkpool.toNat % 64 == 0 && r.save.toNat % 64 == 0 &&
  r.tape.toNat % 64 == 0 && r.tapesz % 64 == 0 && r.gacc.toNat % 2048 == 0 &&
  (r.gacc == 0 || decide (1 ≤ r.gnt) && decide (r.gnt ≤ 2 ^ 24)) && fieldAt bs 92 36 == 0

/-- The level of an RCB by its parents; `none` when a parent is missing, a cycle forms or the level is 8 or more (R362). -/
def Part.levelOf (p : Part) : Nat → Nat → Option Nat
  | 0, _ => none
  | f + 1, id =>
    match p.rcb? id with
    | none => none
    | some r => if r.parent = 0 then some 0 else (p.levelOf f r.parent).map (· + 1)

/-- The partition with an RCB registered anew; none when R362 refuses it or a registered descendant of it would no longer stand. -/
def Part.withRcb (p : Part) (r : Rcb) : Option Part :=
  let q : Part := { p with rcbs := p.rcbs.filter (fun x => x.id != r.id) ++ [r] }
  if q.rcbs.all (fun x => (q.levelOf 8 x.id).isSome || (p.levelOf 8 x.id).isNone && x.id != r.id) then
    some { q with rcbs := q.rcbs.map (fun x => { x with level := (q.levelOf 8 x.id).getD 0 }) }
  else none

/-- The partition in which an RCB id is registered; ids are unique in the device. -/
def State.rcbPart (s : State) (id : Nat) : Option Nat := (List.range 8).find? (fun p => ((s.part p).rcb? id).isSome)

/-- An RCB that HK1 registers has a count on its tape, which those that were accepted under an RCB with this tape go on with (R362, R383). -/
def State.joinTape (s : State) (part : Nat) (r : Rcb) : State := if r.tape == 0 then s else s.countTape part r r.tapen

/-- HK1 registers an RCB: it reads it, checks it, and writes its LEVEL (R362). -/
def State.registerRcb (s : State) (part : Nat) (va : DWord) : State × MbEnd :=
  if va.toNat % 128 != 0 || decide (globalTop < va) then (s, .status 1)
  else
    match s.agentRead 64 part va 128 with
    | .bad _ => (s.agentDone 64, .status 1)
    | .wait => (s.agentAsk 64 part va 128, .wait)
    | .bytes bs =>
      let s := s.agentDone 64
      let r := Rcb.ofBytes va bs
      if !r.legal bs then (s, .status 1)
      else if (match s.rcbPart r.id with | none => false | some q => q != part) then (s, .status 5)
      else
        match (s.part part).withRcb r with
        | none => (s, .status 5)
        | some q =>
          let lv := match q.rcb? r.id with | some x => x.level | none => 0
          (((s.updPart part (fun _ => q)).joinTape part r).agentStore part (va + 4) [BitVec.ofNat 8 lv], .status 0)

/-- REGRCB (R362, R425). -/
def execRegrcb (f : Func) (a : MbArgs) (s : State) : Host.Outcome State Fault Refusal :=
  .next (s.mailbox f 1 false a (fun s => s.registerRcb (funcPart f a.a1) a.a0))

/-- A REGRCB that waited for a page goes on once HK2 has answered for it. -/
def State.mbResume (s : State) : State :=
  match s.dev.mbWait with
  | none => s
  | some (f, a) => let r := s.registerRcb (funcPart f a.a1) a.a0; r.1.mbSettle f a r.2

/-- A REGRCB that waits for its RCB can go on: it has it, or can ask for more of it. -/
def State.mbReady (s : State) : Bool :=
  match s.dev.mbWait with
  | none => false
  | some (f, a) =>
    let part := funcPart f a.a1
    (match s.agentRead 64 part a.a0 128 with | .wait => s.agentAsk 64 part a.a0 128 != s | _ => true)

/-- UNRCB (R425): an RCB without registered children is unregistered. -/
def execUnrcb (f : Func) (a : MbArgs) (s : State) : Host.Outcome State Fault Refusal :=
  .next (s.mailbox f 2 false a (fun s =>
    let id := a.a0.toNat
    match s.rcbPart id with
    | none => (s, .status 1)
    | some p =>
      if !funcMay f p then (s, .status 5)
      else if (s.part p).rcbs.any (fun r => r.parent == id) then (s, .status 5)
      else (s.updPart p (fun q => { q with rcbs := q.rcbs.filter (fun r => r.id != id) }), .status 0)))

/-! ## Pages (R215) -/

/-- UNPIN (R215, R425): PIN := 0 and MVC := 0 in the entry of a page of the size that ARG1 names. -/
def execUnpin (f : Func) (a : MbArgs) (s : State) : Host.Outcome State Fault Refusal :=
  .next (s.mailbox f 3 false a (fun s =>
    let part := funcPart f a.a2
    let va := a.a0.toNat % 2 ^ 56
    if globalTop < a.a0 then (s, .status 1)
    else
      match s.pteSpot part va with
      | none => (s, .status 1)
      | some (pa, e, size) =>
        if sizeShift size != a.a1.toNat then (s, .status 1)
        else (s.setPte part va pa size (pteSet (pteSet e 64 1 0) 14 2 0), .status 0)))

/-! ## Histograms and cores (R403, R404) -/

/-- R403: the 256-byte record of a core. -/
def State.histRecord (s : State) (core : Nat) : List Byte :=
  (List.range 101).flatMap (fun k => leBytes 2 (Tab.get 0 s.dev.hist (101 * core + k)).toNat) ++ List.replicate 54 0

/-- HISTRD (R403). -/
def execHistrd (f : Func) (a : MbArgs) (s : State) : Host.Outcome State Fault Refusal :=
  .next (s.mailbox f 4 true a (fun s => (s.hostWrite a.a0 ((List.range 1024).flatMap s.histRecord), .status 0)))

/-- HISTCLR (R403). -/
def execHistclr (f : Func) (a : MbArgs) (s : State) : Host.Outcome State Fault Refusal :=
  .next (s.mailbox f 5 true a (fun s => ({ s with dev := { s.dev with hist := [], histFlash := [] } }, .status 0)))

/-- RETIRE (R404). -/
def execRetire (f : Func) (a : MbArgs) (s : State) : Host.Outcome State Fault Refusal :=
  .next (s.mailbox f 6 true a (fun s =>
    if 1024 ≤ a.a0.toNat then (s, .status 1) else (s.updCore a.a0.toNat (fun c => { c with retired := true }), .status 0)))

/-! ## Attestation and firmware (R439 to R442) -/

/-- The partition of the calling function, as a quote gives it; the PF serves none and gives 0. -/
def quotePart (f : Func) : Nat := match f with | .pf => 0 | .vf k => k.val

/-- QUOTE (R442): the nonce is read at ARG0 and the quote written at ARG1. -/
def execQuote (f : Func) (a : MbArgs) (s : State) : Host.Outcome State Fault Refusal :=
  .next (s.mailbox f 7 false a (fun s =>
    ({ s.hostWrite a.a1 (s.quoteBytes (s.hostRead a.a0 64) (quotePart f)) with dev := { s.dev with quotes := s.dev.quotes + 1 } }, .status 0)))

/-- IDCERT (R441): the vendor certificate and then the alias certificate. -/
def execIdcert (f : Func) (a : MbArgs) (s : State) : Host.Outcome State Fault Refusal :=
  .next (s.mailbox f 8 false a (fun s => (s.hostWrite a.a0 (Config.vendorCert ++ s.dev.aliasCert), .status 0)))

/-- FWLOAD (R439): the slot that the last start did not use is written and, if the image verifies, marked valid. -/
def execFwload (f : Func) (a : MbArgs) (s : State) : Host.Outcome State Fault Refusal :=
  .next (s.mailbox f 9 true a (fun s =>
    let img : Image := some (s.hostRead a.a0 a.a1.toNat)
    let ok := imageVerifies img s.dev.svn
    ({ s with dev := { s.dev with fw := Tab.put FwSlot.init s.dev.fw (1 - s.dev.active) { valid := ok, image := img } } },
     .status (if ok then 0 else 5))))

/-- EXTEND (R440): MEAS3 to MEAS7. -/
def execExtend (f : Func) (a : MbArgs) (s : State) : Host.Outcome State Fault Refusal :=
  .next (s.mailbox f 10 true a (fun s =>
    let i := a.a0.toNat
    if i < 3 || 7 < i then (s, .status 1)
    else ({ s with dev := { s.dev with meas := Tab.put [] s.dev.meas i (Tab.get [] s.dev.meas i ++ [.data (s.hostRead a.a1 64)]) } }, .status 0)))

/-! ## Debug (R411, R418, R446) -/

/-- R425: what every debug function checks: the core, the caller's partition, and the partition's DBGEN bit. -/
def State.dbgCall (s : State) (f : Func) (a : MbArgs) (k : Nat → State × MbEnd) : State × MbEnd :=
  let core := a.a0.toNat
  if 1024 ≤ core then (s, .status 1)
  else
    let p := s.dieParted (dieOf core)
    if !funcMay f p || !s.dbgEnabled p then (s, .status 5) else k core

/-- R411: HK7 writes a debug register of a core; %SSTEP of every warp it holds. Watchpoints keep the fault domain of their last writer. -/
def State.dbgWrite (s : State) (core n : Nat) (v : DWord) : State × MbEnd :=
  let watch := fun (k : Nat) (g : Watch → Watch) =>
    (s.updCore core (fun c => { c with watch := Tab.put Watch.init c.watch k (g (Tab.get Watch.init c.watch k)) }), MbEnd.status 0)
  if n = 0x21 then
    (((List.range 64).filter (fun k => (s.warp (warpKey core k)).used)).foldl
      (fun s k => s.updWarp (warpKey core k) (fun w => { w with sstep := v.getLsbD 0 })) s, .status 0)
  else if n = 0x22 then (s.updCore core (fun c => { c with whalt := v }), .status 0)
  else if 0x24 ≤ n && n ≤ 0x27 then watch (n - 0x24) (fun w => { w with addr := v &&& ~~~7#64 })
  else if 0x28 ≤ n && n ≤ 0x2B then watch (n - 0x28) (fun w => { w with mask := v &&& ~~~4#64 })
  else (s, .status 1)

/-- DBGW (R411, R425). -/
def execDbgw (f : Func) (a : MbArgs) (s : State) : Host.Outcome State Fault Refusal :=
  .next (s.mailbox f 11 false a (fun s => s.dbgCall f a (fun core => s.dbgWrite core a.a1.toNat a.a2)))

/-- DBGIN (R418, R425). -/
def execDbgin (f : Func) (a : MbArgs) (s : State) : Host.Outcome State Fault Refusal :=
  .next (s.mailbox f 12 false a (fun s => s.dbgCall f a (fun core =>
    let w := warpKey core (a.a1.toNat % 64)
    if 64 ≤ a.a1.toNat || !(s.warp w).used then (s, .status 1)
    else if (s.warp w).dbgIn.isSome then (s, .status 5)
    else (s.dbgArrive w a.a2, .status 0))))

/-- R446: an outbound entry as 32 bytes. -/
def dbgRecord (core : Nat) (e : DbgPost) : List Byte :=
  leBytes 2 core ++ leBytes 1 e.slot ++ leBytes 1 e.lane ++ List.replicate 4 0 ++ leBytes 8 e.pc.toNat ++ leBytes 8 e.word.toNat ++
  List.replicate 8 0

/-- DBGOUT (R425, R446): the oldest outbound entry of a core goes to the host. -/
def execDbgout (f : Func) (a : MbArgs) (s : State) : Host.Outcome State Fault Refusal :=
  .next (s.mailbox f 13 false a (fun s => s.dbgCall f a (fun core =>
    match (s.coreAt core).dbgOut with
    | [] => (s, .status 1)
    | e :: es => ((s.updCore core (fun c => { c with dbgOut := es })).hostWrite a.a1 (dbgRecord core e), .status 0))))

end Sys2Proof.Machine
end

