-- ==== Sys2Proof/Machine/Image.lean ====
section
/-! DEFINITION. The checkpoint image: its chunks, their places in memory, and how a chunk is sent or loaded (R437, R438). -/

namespace Sys2Proof.Machine
open Sys2Proof

/-! ## The checkpoint image (R437) -/

/-- The bytes of a chunk's data, its slots, and a slot. -/
def chunkBytes : Nat := 67108864
/-- The chunks of an image. -/
def chunkCount : Nat := 20611
/-- A slot's bytes: a 4 KiB header and the data. -/
def slotBytes : Nat := 67112960

/-- R437: byte `o` of the tags and swizzle ids of chunks 128 to 130. -/
def State.tagByte (s : State) (o : Nat) : Byte :=
  if o < 2 ^ 27 then (List.range 8).foldl (fun b k => if s.tagAt (64 * o + 8 * k) then b ||| (1#8 <<< k) else b) 0
  else if o < 2 ^ 27 + 2 ^ 25 then (s.swzAt (256 * (o - 2 ^ 27))).zeroExtend 8
  else 0

/-- The place in the model's memory of a chunk of bytes. -/
def chunkKey (i : Nat) : Nat :=
  if i < 128 then i * chunkBytes
  else if i < 4227 then (Home.stacked ((i - 131) / 512) ((i - 131) % 512 * chunkBytes)).key
  else (Home.outer ((i - 4227) * chunkBytes)).key

/-- A chunk holds tags and swizzle ids. -/
def chunkTags (i : Nat) : Bool := decide (128 ≤ i) && decide (i < 131)

/-- R437: the data of a chunk. -/
def State.chunkData (s : State) (i : Nat) : List Byte :=
  if chunkTags i then (List.range chunkBytes).map (fun j => s.tagByte ((i - 128) * chunkBytes + j)) else s.getBytes (chunkKey i) chunkBytes

/-- R437: a 4 KiB header: of the image with index 0xFFFFFFFF and no digest, or of a chunk with the digest of its data. -/
def ckHeader (ckn index : Nat) (dev : BitVec 12) (digest : List Byte) : List Byte :=
  leBytes 8 ckn ++ leBytes 4 index ++ leBytes 4 chunkCount ++ leBytes 2 dev.toNat ++ List.replicate 14 0 ++ fixLen 32 digest ++ List.replicate 4032 0

/-- The offset of a chunk's slot in the image. -/
def slotOffset (i : Nat) : Nat := 4096 + i * slotBytes

/-- A chunk as its slot holds it. -/
def State.chunkSlot (s : State) (ckn i : Nat) : List Byte :=
  let d := s.chunkData i
  ckHeader ckn i s.devId (Config.shake256 d 32) ++ d

/-- R438: the LIVE circuits bound to queue 7 of a collective engine and peered with the storage endpoint: port and engine. -/
def State.ckCircuits (s : State) (sdev : BitVec 12) : List (Nat × Nat) :=
  s.cp.binds.filterMap (fun b =>
    if decide (32 ≤ b.eng) && b.queue == 7 && s.circuitOf b.eng 7 == some b.port && s.peerDev b.port == some sdev then some (b.port, b.eng) else none)

/-- A frame of the checkpoint DMA: it holds no reply slot of the endpoint. -/
def State.ckFrame (s : State) (port eng : Nat) (addr : Nat) (bs : List Byte) : State :=
  let k := eng * 8 + 7
  let n := Tab.get 0 s.cp.num k
  let fr : Frame := { src := s.devId, addr := BitVec.ofNat 64 addr, sseq := BitVec.ofNat 16 (s.portSseq port), num := BitVec.ofNat 16 n, tag := 0,
                      body := .write bs .plain }
  { s with cp := { s.cp with sent := s.cp.sent ++ [(port, fr)], num := Tab.put 0 s.cp.num k ((n + 1) % 65536) } }

/-- A chunk goes over a circuit in bursts of 256 bytes. -/
def State.sendChunk (s : State) (port eng : Nat) (addr : Nat) (bs : List Byte) : State :=
  (List.range (bs.length / 256)).foldl (fun s k => s.ckFrame port eng (addr + 256 * k) ((bs.drop (256 * k)).take 256)) s

/-- Writes a chunk's data into memory, tags or swizzle ids (R438). -/
def State.loadChunk (s : State) (i : Nat) (d : List Byte) : State :=
  if chunkTags i then
    ((List.range chunkBytes).zip d).foldl (fun s x =>
      let o := (i - 128) * chunkBytes + x.1
      if o < 2 ^ 27 then (List.range 8).foldl (fun s k => s.setTag (64 * o + 8 * k) (x.2.getLsbD k)) s
      else if o < 2 ^ 27 + 2 ^ 25 then s.setSwz (256 * (o - 2 ^ 27)) (x.2.extractLsb' 0 2)
      else s) s
  else s.putBytes (chunkKey i) d

/-- The keys of a chunk's contents. -/
def chunkRanges (i : Nat) : List (Nat × Nat) :=
  if i = 128 then [(2 ^ 70, 2 ^ 70 + 8 * chunkBytes)]
  else if i = 129 then [(2 ^ 70 + 8 * chunkBytes, 2 ^ 70 + 16 * chunkBytes)]
  else if i = 130 then [(2 ^ 71, 2 ^ 71 + 2 ^ 25)]
  else [(chunkKey i, chunkKey i + chunkBytes)]

/-- A chunk's contents become undefined. -/
def State.loseChunk (s : State) (i : Nat) : State := (chunkRanges i).foldl (fun s r => s.loseRange r.1 r.2) s

/-- The consumer number of a restore's reads of the storage endpoint. -/
def ckConsumer : Nat := 74

end Sys2Proof.Machine
end

