-- ==== Sys2Proof/Machine/Reset.lean ====
section
/-! DEFINITION. The reset ladder, the RESET command, DEVCTL.RST and function-level resets, and what a loss of power takes
(R402, R423, R427 to R432, R435). -/

namespace Sys2Proof.Machine
open Sys2Proof

/-! ## Work that a reset catches (R431) -/

/-- Commands of a reset copy engine stop as a kill does; their tokens take ERR 0x12 and fall. -/
def State.stopCopyEngine (s : State) (e : Nat) : State :=
  let dead := (List.range 8).flatMap (fun q => Tab.get [] (s.engine e).q q)
  dead.foldl (fun s c => s.ownerDone c.owner 0x12) (s.updEngine e (fun _ => CopyEngine.init))

/-- Commands of a reset collective engine stop, and send their aborts; what it has staged goes (R322, R324). -/
def State.stopCollEngine (s : State) (e : Nat) : State :=
  let dead := (s.collEng e).all
  let s1 := (dead.foldl (fun s c => if c.stopped then s else s.sendAborts e c c.abortTo) s).updColl e (fun x => { x with q := [], staged := [] })
  dead.foldl (fun s c => s.ownerDone c.owner 0x12) s1

/-- Commands of a reset Welt engine stop; its log ring stays. -/
def State.stopWelt (s : State) (d : Nat) : State :=
  let dead := (s.weltOf d).q
  dead.foldl (fun s c => s.weltDone d c 0x12) (s.updWelt d (fun w => { w with q := [], reserved := [] }))

/-- The command of an engine is a host command of a ring. -/
def ofRing (n : Nat) (o : Owner) : Bool := match o with | .host m _ => m == n | _ => false

/-- A checkpoint stops: of a restore, the chunks not yet written are undefined (R438). -/
def State.stopCkpt (s : State) : State :=
  match s.dev.ckpt with
  | none => s
  | some c =>
    let s1 := if c.restore then ((List.range chunkCount).drop c.next).foldl State.loseChunk s else s
    { s1.agentDone ckConsumer with dev := { s1.dev with ckpt := none } }

/-- R431: the engine commands and the checkpoint of a reset ring's commands stop, as a kill stops them (R289). -/
def State.stopRingWork (s : State) (n : Nat) : State :=
  let s1 := (s.killCopies (ofRing n)).killWelt (ofRing n)
  if s1.dev.ckpt.any (fun c => c.ring == n) then s1.stopCkpt else s1

/-- A reset ring's commands end with a status, in index order, its launches as by a kill; the contexts that they started go on for nobody. -/
def State.endRing (s : State) (n : Nat) (status : Byte) : State :=
  let s1 := (s.ring n).act.foldl (fun s a =>
    let ls := s.launches.filter (fun l => l.origin == .ring n a.idx || l.origin == .tape n a.idx)
    (if ls.isEmpty then s else s.killLaunches ls status).complete n a.idx status 0 0) (s.stopRingWork n)
  (List.range 8).foldl (fun s k =>
    s.updCx k (fun c => { c with cmd := match c.cmd with | some (m, i) => if m = n then none else some (m, i) | none => none })) s1

/-- R430, R431: rings are reset: no command of any of them completes but with the status; then EN := 0 on each. -/
def State.dropRings (s : State) (ns : List Nat) (status : Byte) : State :=
  let s1 := ns.foldl (fun s n => s.updRing n (fun r => { r with act := r.act.map (fun a => { a with wait := .done }) })) s
  let s2 := ns.foldl (fun s n => s.endRing n status) s1
  ns.foldl (fun s n => (s.agentDone n).updRing n (fun r => { r with en := false, act := [] }.withHead)) s2

/-- Rung 1 of a ring (R430): HEAD := TAIL too. -/
def State.resetRing (s : State) (n : Nat) : State :=
  (s.dropRings [n] 0x12).updRing n (fun r => { r with next := r.tail, head := r.tail })

/-- R304: the tagged words of other devices that a test names are answered with STATUS 0x12, and held no more. -/
def State.refuseHeld (s : State) (p : TagWait → Bool) : State :=
  let dead := s.tagWaits.filter (fun w => p w && (match w.who with | .peer .. => true | _ => false))
  dead.foldl (fun s w => s.tagRefuse w 0x12) { s with tagWaits := s.tagWaits.filter (fun w => !dead.contains w) }

/-- A script context at reset. -/
def State.resetContext (s : State) (k : Nat) : State := ((s.releaseContext k).updCx k (fun _ => Context.init)).startWaiting k

/-- A core as its reset leaves it: retired cores and physical faults stay as they are. -/
def Core.afterReset (c : Core) : Core := { retired := c.retired, dpFault := c.dpFault, arrFault := c.arrFault, addFault := c.addFault }

/-- The cores, engines, aggregator and TLBs of a die are reset; Welt's log ring stays when `log` says so. -/
def State.resetDie (s : State) (d : Nat) (log aggregator : Bool) : State :=
  let s1 := (List.range 4).foldl (fun s k => s.stopCopyEngine (4 * d + k)) s
  let s2 := s1.stopWelt d
  let s3 := (if log then s2 else s2.updWelt d (fun _ => Welt.init)).refuseHeld (fun w => dieOf (w.key / sliceBytes) == d)
  let s4 := (List.range 128).foldl (fun s k => s.updCore (128 * d + k) Core.afterReset) s3
  { s4 with dieTlb := Tab.erase s4.dieTlb d, batches := if aggregator then Tab.erase s4.batches d else s4.batches }

/-! ## The rungs (R430) -/

/-- Rung 2 of an engine: its class is 0 copy, 1 collective, 2 Welt, 3 circuit context. -/
def State.resetEngine (s : State) (cls e : Nat) : State :=
  match cls with
  | 0 => s.stopCopyEngine e
  | 1 => s.stopCollEngine e
  | 2 => s.stopWelt e
  | _ => if (s.cx e).st == 1 || (s.cx e).st == 2 then s.faultContext e 0x12 else s

/-- Rung 3 of a partition. -/
def State.resetPartition (s : State) (p : Nat) : State :=
  let s1 := s.dropRings ((List.range 64).filter (fun n => (s.ring n).part == p)) 0x12
  let s2 := s1.killLaunches (s1.launches.filter (fun l => l.part == p)) 0x12
  let s3 := ((List.range 8).filter (fun k => (s2.cx k).st != 0 && (s2.cx k).part == p)).foldl State.resetContext s2
  let s4 := (s3.diesOf p).foldl (fun s d => s.resetDie d false true) s3
  let s5 := ((List.range 2).filter (fun e => (List.range 4).all (fun k => s4.dieParted (4 * e + k) == p))).foldl (fun s e =>
    (s.stopCollEngine e).updColl e (fun _ => CollEngine.init)) s4
  s5.updPart p (fun q => { desc := q.desc })

/-- Rung 4 of a die. -/
def State.resetOneDie (s : State) (d : Nat) : State :=
  let here := fun (l : Launch) => s.wgs.any (fun w => w.lid == l.lid && !w.isSaved && dieOf w.core == d)
  (s.killLaunches (s.launches.filter here) 0x12).resetDie d true false

/-- The outer-memory ranges of a partition: its tables and the pages that they map there (R430). -/
def State.outerRanges (s : State) (p : Nat) : List (Nat × Nat) :=
  (List.range 3).flatMap (fun size =>
    let d := (s.part p).descOf size
    if d = Desc.init then []
    else
      let tables := (d.obase, 3 * 2 ^ d.on) :: (if d.rsz then [(d.nbase, 3 * 2 ^ d.nn)] else [])
      tables.flatMap (fun t => (t.1, 16 * t.2) :: (List.range t.2).filterMap (fun i =>
        let e := s.pteAt (t.1 + 16 * i)
        if e.getLsbD 0 && e.getLsbD 1 && pteField e 6 3 == 1 then
          some (pteField e 16 36 * 65536 / 2 ^ sizeShift size * 2 ^ sizeShift size, 2 ^ sizeShift size) else none)))

/-- The memory of a partition is zeroed: its dies' slices and stacked DRAM, and its part of outer memory with its tables. -/
def State.zeroPartition (s : State) (p : Nat) : State :=
  let outer := s.outerRanges p
  let s1 := (s.diesOf p).foldl (fun s d =>
    (s.clearSlice (128 * d) 0 (128 * sliceBytes)).zeroRange (Home.stacked d 0).key (2 ^ 35)) s
  (outer.foldl (fun s r => s.zeroRange (Home.outer r.1).key r.2) s1).updPart p (fun q => { q with desc := [] })

/-- What the housekeeping cores keep of a partition goes. -/
def State.dropHk (s : State) (p : Nat) : State :=
  let mine := fun (d : Nat) => s.dieParted d == p
  { s with
    gangs := s.gangs.filter (fun g => !mine (dieOf (coreOfThread g.tid))),
    gangAborted := if s.epart = p then [] else s.gangAborted,
    gangsIn := if s.epart = p then [] else s.gangsIn,
    agents := s.agents.filter (fun e => !(if e.1 = 65 then s.epart == p else decide (66 ≤ e.1) && decide (e.1 < 74) && mine (e.1 - 66))),
    dev := { s.dev with
      notices := s.dev.notices.filter (fun n => n.1 != p), stores := s.dev.stores.filter (fun w => w.part != p), counts := s.dev.counts.filter (fun e => !mine (e.1 / 2 ^ 60)),
      cntQueue := s.dev.cntQueue.filter (fun e => !mine e.1), cntDrop := s.dev.cntDrop.filter (fun e => !mine e.1),
      mbWait := match s.dev.mbWait with | some (f, a) => if funcPart f a.a1 = p then none else some (f, a) | none => none } }

/-- Rung 5 of a partition. -/
def State.resetFunction (s : State) (p : Nat) (retain : Bool) : State :=
  let s1 := (s.resetPartition p).dropHk p
  (if retain then s1 else s1.zeroPartition p).leaveAttached

/-- The compute side's registers and engines lose their state; memory, the page tables' descriptors and the host's rings are left alone. -/
def State.loseCompute (s : State) : State :=
  { s with
    cur := Issue.none, thr := [], warps := [],
    cores := (s.cores.map (fun (e : Nat × Core) => (e.1, e.2.afterReset))).filter (fun e => e.2 != Core.init),
    dieTlb := [], wgs := [], launches := [],
    parts := (s.parts.map (fun (e : Nat × Part) => (e.1, ({ desc := e.2.desc } : Part)))).filter (fun e => e.2 != Part.init),
    copy := [], coll := [], welt := [], batches := [], gangs := [], gangSeq := 0, gangAborted := [], gangsIn := [],
    agents := [], tagWaits := [], hk3Order := [], stackHit := [],
    cp := { store := s.cp.store, sections := s.cp.sections, sent := s.cp.sent },
    dev := { s.dev with notices := [], counts := [], cntQueue := [], cntDrop := [], mb := {}, mbcmd := 0, mbstat := 0, mbWait := none,
                        moves := [], stores := [], ckpt := none } }

/-- Rung 6 of the device, up to its start. -/
def State.resetDevice (s : State) : State :=
  let s1 := s.dropRings (List.range 64) 0x12
  let s2 := (s1.killLaunches s1.launches 0x12).stopCkpt.leaveAttached.loseCompute
  { s2 with rings := [] }.updDev (fun d => { d with pst := 0, trip := false, cap := 1800, budget := 0, starting := none, startBy := none })

/-! ## The RESET command (R429, R432) -/

/-- The partition holds all eight dies (R429). -/
def State.ownsAll (s : State) (p : Nat) : Bool := (s.diesOf p).length == 8

/-- R429: the target of a rung lies in a partition. -/
def State.targetIn (s : State) (p rung t cls : Nat) : Bool :=
  match rung with
  | 1 => (s.ring t).part == p
  | 2 =>
    (match cls with
     | 0 => s.dieParted (t / 4) == p
     | 1 => (List.range 4).all (fun k => s.dieParted (4 * t + k) == p)
     | 2 => s.dieParted t == p
     | _ => (s.cx t).st == 0 || (s.cx t).part == p)
  | 3 => t == p
  | 4 => s.dieParted t == p
  | 5 => t == p
  | _ => s.ownsAll p

/-- R374, R429: the payload of a RESET is in order: the target exists, and bytes that the rung does not use are zero. -/
def resetOk (cmd : BitVec 512) : Bool :=
  let rung := cmdField cmd 8 1
  let t := cmdField cmd 9 1
  let cls := cmdField cmd 10 1
  cmdHeader cmd 0 false && cmdZeros cmd [(8, 1), (9, 1), (10, 1), (11, 1)] && decide (1 ≤ rung) && decide (rung ≤ 7) &&
  decide (cmdField cmd 11 1 ≤ 1) && (rung == 2 || cls == 0) && decide (cls ≤ 3) &&
  decide (t < (match rung with
    | 1 => 64
    | 2 => (match cls with | 0 => 32 | 1 => 2 | _ => 8)
    | 3 => 8
    | 4 => 8
    | 5 => 8
    | _ => 1))

/-- The rings that a rung resets (R432). -/
def State.ringReset (s : State) (n rung t : Nat) : Bool :=
  match rung with
  | 1 => n == t
  | 3 => (s.ring n).part == t
  | 5 => (s.ring n).part == t
  | 6 => true
  | _ => false

/-- What a rung does (R430). -/
def State.runRung (s : State) (j : ResetJob) : State :=
  match j.rung with
  | 1 => s.resetRing j.target
  | 2 => s.resetEngine j.cls j.target
  | 3 => s.resetPartition j.target
  | 4 => s.resetOneDie j.target
  | 5 => s.resetFunction j.target j.retain
  | 6 => s.resetDevice
  | _ => s.resetIsland

/-- R432: the target of a reset lies wholly inside that of another. -/
def State.contains (s : State) (j k : ResetJob) : Bool :=
  match j.rung with
  | 1 => k.rung == 1 && k.target == j.target
  | 2 => k.rung == 2 && k.cls == j.cls && k.target == j.target
  | 4 => (k.rung == 4 && k.target == j.target) ||
         (k.rung == 2 && ((k.cls == 0 && k.target / 4 == j.target) || (k.cls == 2 && k.target == j.target)))
  | 6 => k.rung != 7
  | 7 => k.rung == 7
  | _ => k.rung != 6 && k.rung != 7 && (k.rung != 5 || j.rung == 5) && s.targetIn j.target k.rung k.target k.cls

/-- A RESET command completes with STATUS 0x00, unless its ring has been reset since (R432). -/
def State.resetDone (s : State) (j : ResetJob) : State := match j.cmd with | some (n, i) => s.complete n i 0 0 0 | none => s

/-- THE END OF A RESET (R432): STATE reads what it read before, a RESET that it contains completes with it, and rung 6 goes on with a start. -/
def State.resetEnd (s : State) : State :=
  match s.dev.resets with
  | [] => s
  | j :: rest =>
    let s1 := s.updDev (fun d => { d with resets := rest.filter (fun k => !s.contains j k), resetting := false,
                                          state := if d.state = 5 then d.stateWas else d.state })
    let s2 := (j :: rest.filter (s.contains j)).foldl State.resetDone s1
    if j.rung = 6 then s2.startBegin false else s2

/-- A RESET BEGINS (R430, R432): one at a time, in the order of their acceptance, and not while a start runs. A RESET that resets its own ring
completes as it begins; rungs 1 and 2 end at once, and STATE reads RESET while a higher one runs. -/
def State.resetStart (s : State) : State :=
  match s.dev.resets with
  | [] => s
  | j :: _ =>
    if s.dev.resetting || s.dev.starting.isSome then s
    else
      let own := j.cmd.any (fun c => s.ringReset c.1 j.rung j.target)
      let s1 := if own then s.resetDone j else s
      if j.rung < 3 then (s1.runRung j).resetEnd
      else (s1.updDev (fun d => { d with state := 5, stateWas := d.state, resetting := true })).runRung j

/-- A reset is accepted (R432). -/
def State.acceptReset (s : State) (j : ResetJob) : State := (s.updDev (fun d => { d with resets := d.resets ++ [j] })).resetStart

/-- A RESET whose target the command names (R429 to R432). -/
def State.resetCommand (s : State) (n : Nat) (cmd : BitVec 512) : State :=
  s.hostCommand n cmd 11 (resetOk cmd) (fun s i =>
    let j : ResetJob := { cmd := some (n, i), rung := cmdField cmd 8 1, target := cmdField cmd 9 1, cls := cmdField cmd 10 1,
                          retain := cmdField cmd 11 1 == 1 }
    if s.targetIn (s.ring n).part j.rung j.target j.cls then (s.setWait n i .reset).acceptReset j else s.complete n i 5 0 0)

/-- The rung that a RESET command names. -/
def resetRung (cmd : BitVec 512) : Nat := cmdField cmd 8 1

/-- RESET_QUEUE (R430): rung 1; a RESET of no known rung completes with STATUS 0x02 here too. -/
def execResetQueue (ring : Fin 64) (cmd : BitVec 512) (s : State) : Host.Outcome State Fault Refusal :=
  .next (if 2 ≤ resetRung cmd && resetRung cmd ≤ 7 then s else s.resetCommand ring.val cmd)

/-- RESET_ENGINE (R430): rung 2. -/
def execResetEngine (ring : Fin 64) (cmd : BitVec 512) (s : State) : Host.Outcome State Fault Refusal :=
  .next (if resetRung cmd != 2 then s else s.resetCommand ring.val cmd)

/-- RESET_PARTITION (R430): rung 3. -/
def execResetPartition (ring : Fin 64) (cmd : BitVec 512) (s : State) : Host.Outcome State Fault Refusal :=
  .next (if resetRung cmd != 3 then s else s.resetCommand ring.val cmd)

/-- RESET_DIE (R430): rung 4. -/
def execResetDie (ring : Fin 64) (cmd : BitVec 512) (s : State) : Host.Outcome State Fault Refusal :=
  .next (if resetRung cmd != 4 then s else s.resetCommand ring.val cmd)

/-- RESET_FUNCTION (R430): rung 5. -/
def execResetFunction (ring : Fin 64) (cmd : BitVec 512) (s : State) : Host.Outcome State Fault Refusal :=
  .next (if resetRung cmd != 5 then s else s.resetCommand ring.val cmd)

/-- RESET_DEVICE (R430): rung 6. -/
def execResetDevice (ring : Fin 64) (cmd : BitVec 512) (s : State) : Host.Outcome State Fault Refusal :=
  .next (if resetRung cmd != 6 then s else s.resetCommand ring.val cmd)

/-- RESET_LODGE (R307, R430): rung 7. -/
def execResetLodge (ring : Fin 64) (cmd : BitVec 512) (s : State) : Host.Outcome State Fault Refusal :=
  .next (if resetRung cmd != 7 then s else s.resetCommand ring.val cmd)

/-! ## DEVCTL and function-level resets (R423, R428, R429) -/

/-- The fields of DEVCTL that a write sets (R423). -/
def State.setDevctl (s : State) (v : DWord) : State :=
  { s with dev := { s.dev with
      cold := v.getLsbD 25, zero := v.getLsbD 24, dbgen := v.extractLsb' 16 8, retain := v.extractLsb' 8 8 } }

/-- A reset that no command asks for. -/
def hostReset (rung target : Nat) (retain : Bool) : ResetJob := { cmd := none, rung := rung, target := target, cls := 0, retain := retain }

/-- A write of DEVCTL (R423): RST 01 is rung 6, or in recovery the cold start that leaves it (R428); 10 is rung 7; 00 and 11 do nothing. -/
def State.writeDevctl (s : State) (v : DWord) : State :=
  let s1 := s.setDevctl v
  match (v.extractLsb' 26 2).toNat with
  | 1 => if s1.dev.state = 4 then s1.leaveRecovery else s1.acceptReset (hostReset 6 0 false)
  | 2 => s1.acceptReset (hostReset 7 0 false)
  | _ => s1

/-- DEVCTL_RST_DEVICE (R423, R428). -/
def execDevctlRstDevice (v : DWord) (s : State) : Host.Outcome State Fault Refusal :=
  .next (if v.extractLsb' 26 2 != 1 then s else s.writeDevctl v)

/-- DEVCTL_RST_LODGE (R307, R423). -/
def execDevctlRstLodge (v : DWord) (s : State) : Host.Outcome State Fault Refusal :=
  .next (if v.extractLsb' 26 2 != 2 then s else s.writeDevctl v)

/-- FUNCTION_LEVEL_RESET (R429): of VF k rung 5 on partition k with RETAIN from DEVCTL, of the PF rung 6. -/
def execFunctionLevelReset (f : Func) (s : State) : Host.Outcome State Fault Refusal :=
  .next (
    match f with
    | .pf => if s.dev.state = 4 then s else s.acceptReset (hostReset 6 0 false)
    | .vf k => if !s.funcEnabled f || !s.isUp then s else s.acceptReset (hostReset 5 k.val (s.dev.retain.getLsbD k.val)))

/-! ## Loss of power and the thermal trip (R427, R435) -/

/-- POWER_FAIL (R403, R427): flash alone keeps its contents; a start that was running counts as failed already. -/
def execPowerFail (s : State) : Host.Outcome State Fault Refusal :=
  .next (
    let s1 := s.leaveAttached.loseCompute.loseMemory
    let d := s1.dev
    { s1 with
      rings := [],
      parts := [],
      cp := { s1.cp with store := [], sections := [] } }.updDev (fun _ =>
        { state := 0, temp := d.temp, wfail := d.wfail, cfail := d.cfail, fstep := d.fstep, trained := d.trained, svn := d.svn, fw := d.fw,
          active := d.active, histFlash := d.histFlash, hist := d.histFlash, msix := d.msix }))

/-- Every command of the rings is forgotten, and every ring's EN is 0. -/
def State.forgetRings (s : State) : State :=
  { s with rings := (s.rings.map (fun (e : Nat × Ring) =>
      (e.1, { e.2 with en := false, act := [], next := e.2.tail, head := e.2.tail }))).filter (fun e => e.2 != Ring.init) }

/-- THERMAL_TRIP (R422, R435): the highest die temperature is taken; at 105 °C the device enters RETAIN, what runs is lost without
completions, every ring's EN is 0, and TRIP is set, in RETAIN too. A device without power has no trip. -/
def execThermalTrip (temp : Byte) (s : State) : Host.Outcome State Fault Refusal :=
  .next (
    let s1 := { s with dev := { s.dev with temp := temp } }
    if temp.toNat < 105 || s.dev.state = 0 then s1
    else (s1.stopCkpt.forgetRings.leaveAttached.loseCompute).updDev (fun d =>
      { d with pst := 3, trip := true, starting := none, startBy := none, resets := [], resetting := false,
               state := if d.starting.isSome then 0 else if d.state = 5 then d.stateWas else d.state }))

end Sys2Proof.Machine
end

