-- ==== Sys2Proof/Machine/Power.lean ====
section
/-! DEFINITION. Power states and checkpoints (R433, R434, R436 to R438). -/

namespace Sys2Proof.Machine
open Sys2Proof

/-! ## PSTATE (R433, R434) -/

/-- R434: a launch is running, or an engine (a script context among them, R429) holds an accepted command. -/
def State.busyWork (s : State) : Bool :=
  !s.launches.isEmpty || s.copy.any (fun e => e.2.q.any (fun q => !q.2.isEmpty)) || s.coll.any (fun e => e.2.q.any (fun q => !q.2.isEmpty)) ||
  s.welt.any (fun e => !e.2.q.isEmpty) || s.dev.ckpt.isSome || (List.range 8).any (fun k => (s.cx k).st == 1 || (s.cx k).st == 2)

/-- Every core writes back its dirty L1 bytes. -/
def State.writeBackAll (s : State) : State := s.cores.foldl (fun s e => s.writeBackL1 e.1 (fun _ => true)) s

/-- R433: a power state whose compute side is up is reached, with its cap. -/
def State.enterUp (s : State) (x cap : Nat) : State :=
  (if x = 2 then s.writeBackAll else s).updDev (fun d => { d with pst := x, cap := if x = 1 then cap else if x = 0 then 1800 else d.cap })

/-- R433: RETAIN: the compute side is off, and memory is kept. -/
def State.enterRetain (s : State) : State := (s.writeBackAll.leaveAttached.loseCompute).updDev (fun d => { d with pst := 3 })

/-- R403, R433: OFF: HK3 writes the histograms, the compute side is off, and memory is lost. -/
def State.enterOff (s : State) : State :=
  let s1 := s.leaveAttached.loseCompute.loseMemory
  { s1 with cp := { s1.cp with store := [], sections := [] } }.updDev (fun d => { d with pst := 4, state := 0, histFlash := d.hist })

/-- The power state that a PSTATE command names. -/
def pstateOf (cmd : BitVec 512) : Nat := cmdField cmd 8 1
/-- R433: CAP, in MHz, is 200 to 1,800 in steps of 100. -/
def capOk (cmd : BitVec 512) : Bool :=
  let c := cmdField cmd 10 2
  decide (200 ≤ c) && decide (c ≤ 1800) && c % 100 == 0

/-- R433, R434: the power state that a PSTATE names is reached. -/
def State.reachPstate (s : State) (x cap : Nat) : State := if x = 3 then s.enterRetain else if x = 4 then s.enterOff else s.enterUp x cap

/-- A PSTATE command (R433 to R435): refused unless its ring's partition holds all eight dies and its fields are in range; RETAIN and OFF
need an idle device; leaving RETAIN or OFF begins a start, at whose end the state is reached and the command completes. -/
def State.pstate (s : State) (n : Nat) (cmd : BitVec 512) : State :=
  s.hostCommand n cmd 10 (cmdHeader cmd 0 false && cmdZeros cmd [(8, 1), (10, 2), (12, 1)]) (fun s i =>
    let x := pstateOf cmd
    let s1 := { s with dev := { s.dev with budget := BitVec.ofNat 8 (cmdField cmd 12 1) } }
    if !s.ownsAll (s.ring n).part || decide (5 ≤ x) || (x == 1 && !capOk cmd) then s.complete n i 5 0 0
    else if s.dev.trip && decide (95 < s.dev.temp.toNat) then s.complete n i 5 0 0
    else if 3 ≤ x && s.busyWork then s.complete n i 0x0B 0 0
    else if 3 ≤ s.dev.pst && x = s.dev.pst then s1.complete n i 0 0 0
    else if 3 ≤ s.dev.pst then ((s1.setWait n i .start).updDev (fun d => { d with startBy := some (n, i) })).startBegin (s.dev.pst == 3)
    else (s1.reachPstate x (cmdField cmd 10 2)).complete n i 0 0 0)

/-- PSTATE_RUN (R433); a PSTATE of no known state completes with STATUS 0x05 here too. -/
def execPstateRun (ring : Fin 64) (cmd : BitVec 512) (s : State) : Host.Outcome State Fault Refusal :=
  .next (if 1 ≤ pstateOf cmd && pstateOf cmd ≤ 4 then s else s.pstate ring.val cmd)

/-- PSTATE_TRIM (R433). -/
def execPstateTrim (ring : Fin 64) (cmd : BitVec 512) (s : State) : Host.Outcome State Fault Refusal :=
  .next (if pstateOf cmd = 1 then s.pstate ring.val cmd else s)

/-- PSTATE_HOLD (R433). -/
def execPstateHold (ring : Fin 64) (cmd : BitVec 512) (s : State) : Host.Outcome State Fault Refusal :=
  .next (if pstateOf cmd = 2 then s.pstate ring.val cmd else s)

/-- PSTATE_RETAIN (R434). -/
def execPstateRetain (ring : Fin 64) (cmd : BitVec 512) (s : State) : Host.Outcome State Fault Refusal :=
  .next (if pstateOf cmd = 3 then s.pstate ring.val cmd else s)

/-- PSTATE_OFF (R434). -/
def execPstateOff (ring : Fin 64) (cmd : BitVec 512) (s : State) : Host.Outcome State Fault Refusal :=
  .next (if pstateOf cmd = 4 then s.pstate ring.val cmd else s)

/-- The commands that wait for a start, each with the power state it names (R433). -/
def State.startWaiters (s : State) : List (Nat × Act) :=
  (List.range 64).flatMap (fun n => ((s.ring n).act.filter (fun a => a.wait == .start)).map (fun a => (n, a)))

/-- THE END OF A START (R433): the state that the PSTATE which began it names is reached, and with that command every other that has waited for
this state completes. -/
def State.startEnd (s : State) : State :=
  let s1 := s.startFinish
  match (if s1.dev.state = 3 then s.dev.startBy else none) with
  | none => s1
  | some (n, i) =>
    match (s1.ring n).act.find? (fun a => a.idx == i) with
    | none => s1
    | some a =>
      let s2 := s1.updDev (fun d => { d with startBy := none })
      (s2.startWaiters.filter (fun w => pstateOf w.2.cmd == pstateOf a.cmd)).foldl (fun s w => s.complete w.1 w.2.idx 0 0 0)
        (s2.reachPstate (pstateOf a.cmd) (cmdField a.cmd 10 2))

/-! ## CHECKPOINT (R436, R438) -/

/-- The bytes of a whole image. -/
def imageBytes : Nat := 4096 + chunkCount * slotBytes

/-- R436, R438: the fields of a CHECKPOINT: HADDR on 4 KiB, and without CIRC enough room there. -/
def checkpointOk (cmd : BitVec 512) : Bool :=
  let flg := cmdField cmd 8 1
  let circ := flg / 2 % 2 == 1
  cmdHeader cmd 0 false && cmdZeros cmd ([(8, 1), (16, 8), (24, 8), (32, 8)] ++ (if circ then [(40, 2), (48, 8)] else [])) && decide (flg ≤ 3) &&
  cmdField cmd 16 8 % 4096 == 0 && (circ || decide (imageBytes ≤ cmdField cmd 24 8)) && decide (cmdField cmd 40 2 < 4096)

/-- A checkpoint step's state. -/
def State.setCkpt (s : State) (c : Option Ckpt) : State := { s with dev := { s.dev with ckpt := c } }

/-- A checkpoint is over, and its command completes. -/
def State.endCkpt (s : State) (c : Ckpt) (status : Byte) : State := ((s.agentDone ckConsumer).setCkpt none).complete c.ring c.idx status 0 0

/-- The storage endpoint of a CHECKPOINT. -/
def ckDev (cmd : BitVec 512) : BitVec 12 := BitVec.ofNat 12 (cmdField cmd 40 2)

/-- The circuits that a checkpoint may use, with CIRC. -/
def State.ckPaths (s : State) (cmd : BitVec 512) : List (Nat × Nat) := if cmdField cmd 8 1 / 2 % 2 = 1 then s.ckCircuits (ckDev cmd) else []

/-- What a save can do next (R438): send a chunk over the host link, begin one on a free circuit, or end one on its circuit. -/
inductive CkMove where
  | host
  | begin_ (port eng : Nat)
  | finish (f : Nat × Nat × Nat × Nat)

/-- The moves of a save; which comes first is a free choice, that of the path that frees first. -/
def State.ckMoves (s : State) (c : Ckpt) : List CkMove :=
  let paths := (s.ckPaths c.cmd).filter (fun p => !c.flying.any (fun f => f.2.1 == p.1))
  (if c.again.isEmpty && decide (chunkCount ≤ c.next) then [] else .host :: paths.map (fun p => .begin_ p.1 p.2)) ++ c.flying.map .finish

/-- The next chunk of a save: one that was cut off, or the next in ascending index. -/
def Ckpt.pick (c : Ckpt) : Nat × Ckpt := match c.again with | i :: l => (i, { c with again := l }) | [] => (c.next, { c with next := c.next + 1 })

/-- R438: a chunk whose circuit has left LIVE is cut off. -/
def State.ckCut (s : State) (c : Ckpt) : Ckpt :=
  let live := fun (f : Nat × Nat × Nat × Nat) => (s.ckPaths c.cmd).contains (f.2.1, f.2.2.1)
  { c with flying := c.flying.filter live, again := c.again ++ (c.flying.filter (fun f => !live f)).map Prod.fst }

/-- ONE STEP OF A SAVE (R438): chunks go whole, each over the path that frees first; the image header goes to the host last. -/
def State.saveStep (s : State) (c0 : Ckpt) : State :=
  let c := s.ckCut c0
  let ms := s.ckMoves c
  let slot := fun i => s.chunkSlot (cmdField c.cmd 32 8) i
  let there := fun i => cmdField c.cmd 48 8 + slotOffset i
  let s1 := { s with free := s.free + 2 }
  match ms[Config.freeChoice s.free % ms.length]? with
  | none => (s.hostWrite (cmdDword c.cmd 16) (ckHeader (cmdField c.cmd 32 8) 0xFFFFFFFF s.devId [])).endCkpt c 0
  | some .host => let r := c.pick; (s1.hostWrite (BitVec.ofNat 64 (cmdField c.cmd 16 8 + slotOffset r.1)) (slot r.1)).setCkpt (some r.2)
  | some (.begin_ p e) =>
    let r := c.pick
    let k := Config.freeChoice (s.free + 1) % (slotBytes / 256 + 1)
    (s1.sendChunk p e (there r.1) ((slot r.1).take (256 * k))).setCkpt (some { r.2 with flying := r.2.flying ++ [(r.1, p, e, k)] })
  | some (.finish f) =>
    (s1.sendChunk f.2.1 f.2.2.1 (there f.1 + 256 * f.2.2.2) ((slot f.1).drop (256 * f.2.2.2))).setCkpt
      (some { c with flying := c.flying.filter (fun g => g != f) })

/-- What reading a chunk of an image gives: its data, nothing yet, or a reason to stop. -/
inductive CkRead where
  | data (d : List Byte)
  | wait
  | bad
  deriving DecidableEq, Repr

/-- R438: a slot's data, unless its header does not carry CKN or its digest does not match. -/
def ckData (ckn : Nat) (header data : List Byte) : CkRead :=
  if fieldAt header 0 8 = ckn && fixLen 32 (Config.shake256 data 32) == (header.drop 32).take 32 then .data data else .bad

/-- The bytes at addresses of the storage endpoint that have come. -/
def State.ckCached (s : State) (a n : Nat) : List Byte := (List.range n).filterMap (fun i => Tab.get none (s.agent ckConsumer).cache (a + i))

/-- R438: a chunk is read from the host's slot when that carries CKN, else with CIRC from the endpoint. -/
def State.readChunk (s : State) (cmd : BitVec 512) (i : Nat) : CkRead :=
  let ckn := cmdField cmd 32 8
  let a := BitVec.ofNat 64 (cmdField cmd 16 8 + slotOffset i)
  let far := cmdField cmd 48 8 + slotOffset i
  if leNat (s.hostRead a 8) = ckn then ckData ckn (s.hostRead a 64) (s.hostRead (a + 4096) chunkBytes)
  else if cmdField cmd 8 1 / 2 % 2 = 0 || (s.agent ckConsumer).denied.isSome then .bad
  else if (s.agent ckConsumer).away != 0 || (s.agent ckConsumer).cache.isEmpty then .wait
  else ckData ckn (s.ckCached far 64) (s.ckCached (far + 4096) chunkBytes)

/-- R438: the reads of a slot at the storage endpoint. -/
def State.askChunk (s : State) (cmd : BitVec 512) (i : Nat) : State :=
  if (s.agent ckConsumer).away != 0 then s
  else
    let far := cmdField cmd 48 8 + slotOffset i
    let id := s.ids
    ((far, 64) :: (List.range (chunkBytes / 256)).map (fun k => (far + 4096 + 256 * k, 256))).foldl (fun s r =>
      (s.request (.agent ckConsumer id r.1) 2 0 (ckDev cmd) (BitVec.ofNat 64 r.1) (.read r.2 .plain)).updAgent ckConsumer (fun a => a.more id)) s.freshId.2

/-- R208, R438: HK2 shoots down every TLB. -/
def State.shootAll (s : State) : State :=
  { s with cores := (s.cores.map (fun (e : Nat × Core) => (e.1, { e.2 with tlb := [] }))).filter (fun e => e.2 != Core.init), dieTlb := [] }

/-- ONE STEP OF A RESTORE (R438): the next chunk is read, checked and written; a chunk that is missing or does not verify stops the restore, and
the chunks not yet written are undefined. HK2 then shoots down every TLB. -/
def State.restoreStep (s : State) (c : Ckpt) : State :=
  if chunkCount ≤ c.next then s.shootAll.endCkpt c 0
  else
    match s.readChunk c.cmd c.next with
    | .wait => s.askChunk c.cmd c.next
    | .data d => ((s.loadChunk c.next d).agentDone ckConsumer).setCkpt (some { c with next := c.next + 1 })
    | .bad => (((List.range chunkCount).drop c.next).foldl State.loseChunk s).shootAll.endCkpt c 0x13

/-- One step of the checkpoint DMA. -/
def State.ckptStep (s : State) : State :=
  match s.dev.ckpt with
  | none => s
  | some c => if c.restore then s.restoreStep c else s.saveStep c

/-- A CHECKPOINT is accepted in HOLD only (R436), and the checkpoint DMA begins. -/
def State.checkpoint (s : State) (n : Nat) (cmd : BitVec 512) (restore : Bool) : State :=
  s.hostCommand n cmd 9 (checkpointOk cmd) (fun s i =>
    if s.dev.pst != 2 then s.complete n i 0x0B 0 0 else s.setCkpt (some { ring := n, idx := i, cmd := cmd, restore := restore }))

/-- CHECKPOINT_SAVE (R436 to R438); it waits while another checkpoint runs. -/
def execCheckpointSave (ring : Fin 64) (cmd : BitVec 512) (s : State) : Host.Outcome State Fault Refusal :=
  .next (if cmdField cmd 8 1 % 2 = 1 || s.dev.ckpt.isSome then s else s.checkpoint ring.val cmd false)

/-- CHECKPOINT_RESTORE (R436 to R438). -/
def execCheckpointRestore (ring : Fin 64) (cmd : BitVec 512) (s : State) : Host.Outcome State Fault Refusal :=
  .next (if cmdField cmd 8 1 % 2 = 0 || s.dev.ckpt.isSome then s else s.checkpoint ring.val cmd true)

end Sys2Proof.Machine
end

