-- ==== Sys2Proof/Machine/Registers.lean ====
section
/-! DEFINITION. The registers of BAR0: their values, their writes under the access codes, and the partitioning of the dies (R7, R302, R303,
R336 to R339, R373, R421 to R425). -/

namespace Sys2Proof.Machine
open Sys2Proof

/-! ## Values (R421) -/

/-- QBASEn, QCPLn, QCTLn, QDBn and QSTATn of a ring (R373); TAIL is write-only and reads 0. -/
def Ring.regRead (r : Ring) (o : Nat) : DWord :=
  if o = 0 then r.base
  else if o = 8 then r.cpl
  else if o = 0x10 then BitVec.ofNat 64 (r.part * 4096 + (if r.en then 128 else 0) + r.log2n)
  else if o = 0x20 then BitVec.ofNat 64 (r.head.toNat * 2 ^ 32 + (if r.ovr then 1 else 0))
  else 0

/-- LDSTAT (R303). -/
def Lodge.ldstat (l : Lodge) : DWord :=
  BitVec.ofNat 64 (l.abscnt.toNat * 2 ^ 48 + l.orphcnt.toNat * 2 ^ 32 + l.seqerr.toNat * 2 ^ 16 + l.linkup.toNat * 2 ^ 8 +
    (if l.epoch then 4 else 0) + l.epst.toNat)

/-- CXSTATk (R336). -/
def Context.cxstat (c : Context) : DWord :=
  BitVec.ofNat 64 (c.exit.toNat * 2 ^ 32 + c.statPc % 65536 * 2 ^ 16 + c.cause.toNat * 2 ^ 8 + c.st % 4)

/-- CPSTAT (R339). -/
def CircuitProc.cpstat (c : CircuitProc) : DWord :=
  BitVec.ofNat 64 (c.msgdrop.toNat * 2 ^ 48 + c.badmsg.toNat * 2 ^ 32 + c.sseqdrop.toNat * 2 ^ 16 + c.ralign.toNat)

/-- PCFGp (R338). -/
def Port.pcfg (p : Port) : DWord := BitVec.ofNat 64 (p.swid.toNat * 2 ^ 16 + (if p.en then 1 else 0))

/-- MBSTAT (R425): BUSY while a function waits, and the status of the last that ended. -/
def Device.mbstatReg (d : Device) : DWord := BitVec.ofNat 64 (if d.mbWait.isSome then 1 else d.mbstat.toNat * 256)

/-- A mailbox register (R421, R425). -/
def Device.mbRead (d : Device) (o : Nat) : DWord :=
  if o = 0 then d.mbcmd.zeroExtend 64
  else if o = 8 then d.mb.a0
  else if o = 0x10 then d.mb.a1
  else if o = 0x18 then d.mb.a2
  else if o = 0x20 then d.mb.a3
  else if o = 0x28 then d.mbstatReg
  else 0

/-- R421: a function sees a ring: the PF every ring, VF k those whose PART is k. -/
def State.seesRing (s : State) (f : Func) (n : Nat) : Bool := match f with | .pf => true | .vf k => (s.ring n).part == k.val

/-- THE VALUE OF A REGISTER of BAR0 (R421): an offset not listed reads 0. In recovery only DEVSTAT, DEVCTL and the mailbox respond. -/
def State.regRead (s : State) (f : Func) (off : Nat) : DWord :=
  let pf := f == .pf
  let up := s.dev.state != 4
  if !s.funcEnabled f then 0
  else if off < 0x1000 then (if up && s.seesRing f (off / 64) then (s.ring (off / 64)).regRead (off % 64) else 0)
  else if 0x4000 ≤ off && off < 0x4030 then s.dev.mbRead (off - 0x4000)
  else if !pf then 0
  else if off = 0x3000 then s.dev.devstat
  else if off = 0x3008 then s.dev.devctl
  else if !up then 0
  else if off = 0x1000 then s.lodge.ldcfg
  else if off = 0x1010 then s.lodge.ldstat
  else if 0x2000 ≤ off && off < 0x2040 && off % 8 = 0 then (s.cx ((off - 0x2000) / 8)).cxstat
  else if off = 0x2040 then s.cp.cpstat
  else if 0x2080 ≤ off && off < 0x2100 && off % 8 = 0 then (s.optPort ((off - 0x2080) / 8)).pcfg
  else if off = 0x3010 then BitVec.ofNat 64 s.dev.partcfg.toNat
  else 0

/-! ## PARTCFG (R424) -/

/-- R424: dies form an aligned block of 1, 2, 4 or 8, or there are none. -/
def alignedBlock (ds : List Nat) : Bool :=
  ds.isEmpty || (List.range 4).any (fun k => (List.range 8).any (fun i => i % 2 ^ k == 0 && ds == (List.range (2 ^ k)).map (fun j => i + j)))

/-- R424: a partitioning is legal. -/
def partcfgOk (v : DWord) : Bool :=
  (List.range 8).all (fun p => alignedBlock ((List.range 8).filter (fun d => v.toNat / 2 ^ (3 * d) % 8 == p)))

/-- A write of PARTCFG: it takes effect while every ring has EN = 0, and only if it is legal. -/
def State.writePartcfg (s : State) (v : DWord) : State :=
  if (List.range 64).all (fun n => !(s.ring n).en) && partcfgOk v then { s with dev := { s.dev with partcfg := v.setWidth 27 } } else s

/-- PARTCFG_WRITE (R424). -/
def execPartcfgWrite (v : DWord) (s : State) : Host.Outcome State Fault Refusal := .next (if s.dev.state = 4 then s else s.writePartcfg v)

/-! ## Ring registers (R373) -/

/-- A write of QCTL: EN always, LOG2N of 4 to 16 while EN = 0, PART by the PF only. PART names a partition from 0 to 7 (R373): of 8 to 15, which
the spec leaves open, its low three bits are kept, the model's choice (assumption 16). -/
def Ring.writeCtl (r : Ring) (pf : Bool) (v : DWord) : Ring :=
  let n := v.toNat % 32
  { r with part := if pf then v.toNat / 4096 % 16 % 8 else r.part, en := v.getLsbD 7,
           log2n := if !r.en && decide (4 ≤ n) && decide (n ≤ 16) then n else r.log2n }

/-- A write of a ring's register; BASE and CPL only while EN = 0. -/
def State.writeRing (s : State) (n o : Nat) (pf : Bool) (v : DWord) : State :=
  if o = 0 then s.updRing n (fun r => if r.en then r else { r with base := v &&& ~~~63#64 })
  else if o = 8 then s.updRing n (fun r => if r.en then r else { r with cpl := v &&& ~~~15#64 })
  else if o = 0x10 then s.updRing n (fun r => r.writeCtl pf v)
  else if o = 0x18 then
    s.updRing n (fun r =>
      if 2 ^ r.log2n < (v.setWidth 32 - r.head).toNat then { r with ovr := true } else { r with tail := v.setWidth 32 })
  else s

/-! ## The Lodge and the ports (R302, R303, R338) -/

/-- A write of LDCFG: only while the endpoint is DETACHED. -/
def State.writeLdcfg (s : State) (v : DWord) : State :=
  if s.lodge.epst != 0 then s else { s with lodge := { s.lodge with ldcfg := v &&& 0xFFFFFFF#64 } }

/-- A write of LDCTL: DETACH wins over ATTACH. -/
def State.writeLdctl (s : State) (v : DWord) : State :=
  if v.getLsbD 1 then s.leaveAttached
  else if v.getLsbD 0 && s.lodge.epst == 0 then { s with lodge := { s.lodge with epst := 1, epoch := !s.lodge.epoch } }
  else s

/-- A write of PCFGp: only while the port is DARK. -/
def State.writePcfg (s : State) (p : Nat) (v : DWord) : State :=
  s.updPort p (fun x => if x.st != 0 then x else { x with swid := v.extractLsb' 16 12, en := v.getLsbD 0 })

/-! ## The mailbox (R425) -/

/-- The outcome of a function that always goes on. -/
def nextOf (s : State) (o : Host.Outcome State Fault Refusal) : State := match o with | .next t => t | _ => s

/-- A write of MBCMD starts a function with the arguments in MBARG0–3; an unknown code ends with 0x02. -/
def State.writeMbcmd (s : State) (f : Func) (code : Byte) : State :=
  let a := s.dev.mb
  match code.toNat with
  | 1 => nextOf s (execRegrcb f a s)
  | 2 => nextOf s (execUnrcb f a s)
  | 3 => nextOf s (execUnpin f a s)
  | 4 => nextOf s (execHistrd f a s)
  | 5 => nextOf s (execHistclr f a s)
  | 6 => nextOf s (execRetire f a s)
  | 7 => nextOf s (execQuote f a s)
  | 8 => nextOf s (execIdcert f a s)
  | 9 => nextOf s (execFwload f a s)
  | 10 => nextOf s (execExtend f a s)
  | 11 => nextOf s (execDbgw f a s)
  | 12 => nextOf s (execDbgin f a s)
  | 13 => nextOf s (execDbgout f a s)
  | _ => s.mailbox f code false a (fun s => (s, .status 2))

/-- A write of a mailbox register. -/
def State.writeMailbox (s : State) (f : Func) (o : Nat) (v : DWord) : State :=
  let set := fun (g : MbArgs → MbArgs) => { s with dev := { s.dev with mb := g s.dev.mb } }
  if o = 0 then s.writeMbcmd f (v.setWidth 8)
  else if o = 8 then set (fun m => { m with a0 := v })
  else if o = 0x10 then set (fun m => { m with a1 := v })
  else if o = 0x18 then set (fun m => { m with a2 := v })
  else if o = 0x20 then set (fun m => { m with a3 := v })
  else s

/-! ## REGISTER_WRITE (R7, R421) -/

/-- REGISTER_WRITE (R7, R421): the host writes 8 bytes at an offset of BAR0 of a function. RO registers and offsets that are not listed, or
that the function does not see, ignore the write; in recovery only DEVCTL and the mailbox respond. -/
def execRegisterWrite (f : Func) (off : BitVec 20) (v : DWord) (s : State) : Host.Outcome State Fault Refusal :=
  let o := off.toNat
  let pf := f == .pf
  let up := s.dev.state != 4
  .next (
    if !s.funcEnabled f then s
    else if o < 0x1000 then (if up && s.seesRing f (o / 64) then s.writeRing (o / 64) (o % 64) pf v else s)
    else if 0x4000 ≤ o && o < 0x4030 then s.writeMailbox f (o - 0x4000) v
    else if !pf then s
    else if o = 0x3008 then s.writeDevctl v
    else if !up then s
    else if o = 0x1000 then s.writeLdcfg v
    else if o = 0x1008 then s.writeLdctl v
    else if o = 0x3010 then s.writePartcfg v
    else if 0x2080 ≤ o && o < 0x2100 && o % 8 = 0 then s.writePcfg ((o - 0x2080) / 8) v
    else s)

end Sys2Proof.Machine
end

