-- ==== Sys2Proof/Machine/Issuing.lean ====
section
/-! DEFINITION. Which threads may issue, the bundle that a core forms, the active set and the governor's window (R72 to R78, R82, R83,
R191, R192, R253, R267, R364, R418). -/

namespace Sys2Proof.Machine
open Sys2Proof

/-! ## The units that a word needs (R6, R186, R290) -/

/-- The words of the integer pipe (OP 0x10 to 0x2F). -/
def intWord : Instr → Bool
  | .add .. | .sub .. | .addi .. | .mul .. | .mad .. | .add64 .. | .lea .. | .and .. | .or .. | .xor .. | .andn .. | .shl .. | .shr .. | .sar ..
  | .rot .. | .shlImm .. | .shrImm .. | .sarImm .. | .rotImm .. | .min .. | .max .. | .clz .. | .ctz .. | .popc .. | .brev .. | .abs .. | .neg ..
  | .not .. | .sext8 .. | .sext16 .. | .bfe .. | .bfi .. | .setp .. | .setpi .. | .sel .. | .mov .. | .p2v .. | .v2p .. | .movi .. | .prmt ..
  | .nlut .. | .shfl .. | .vote .. => true
  | _ => false

/-- The words of the FP pipe. -/
def fpUnitWord : Instr → Bool
  | .fadd .. | .fsub .. | .fmul .. | .fma .. | .fmin .. | .fmax .. | .fsetp .. | .fabs .. | .fneg .. | .frnd .. | .hadd2 .. | .hmul2 .. | .hfma2 ..
  | .hmm2 .. | .cvtf .. | .cvtp .. | .cvti .. | .mxq .. | .mxd .. => true
  | _ => false

/-- The words of the SFU. -/
def sfuUnitWord : Instr → Bool
  | .rcp .. | .rsq .. | .sqrt .. | .ex2 .. | .lg2 .. | .sin .. | .cos .. => true
  | _ => false

/-- The memory and atomic words of the load-store unit. -/
def memUnitWord : Instr → Bool
  | .ld .. | .st .. | .lda .. | .stl .. | .ldf .. | .lde .. | .stf .. | .sto .. | .sete .. | .setf .. | .tagrd .. | .tild .. | .tist .. | .pref ..
  | .cinvInv .. | .cinvWb .. | .cinvIc .. | .atom .. | .cas .. | .red .. => true
  | _ => false

/-- The copy words (R267), and those that share their port. -/
def copyWord : Instr → Bool
  | .cpy .. | .tcpy .. | .gcpy .. | .chain .. | .rcpy .. | .coll .. | .glog .. | .wfold .. => true
  | _ => false

/-- The fabric and launch words that make accesses of their own. -/
def fabricWord : Instr → Bool
  | .sigrFill .. | .sigrArr .. | .sigrArrel .. | .lnchLaunch .. | .lnchGang .. | .lnchBwrec .. => true
  | _ => false

/-- The units of `Core.busy` that a word needs. -/
def unitsOf (i : Instr) : List Nat :=
  (if intWord i then [0] else []) ++ (if fpUnitWord i then [1] else []) ++ (if sfuUnitWord i then [2] else []) ++
  (if memUnitWord i || fabricWord i then [5] else []) ++ (if copyWord i then [12] else []) ++
  (match i with
   | .mld _ _ q _ _ _ _ => [3, 10 + q.toNat]
   | .mclr _ q => [3, 10 + q.toNat]
   | .mrd _ _ _ q => [3, 8 + q.toNat]
   | .mma _ _ q _ _ _ => [4, 8 + q.toNat]
   | .mmas _ q _ _ _ => [4, 8 + q.toNat]
   | .barv .. => [6]
   | .barw .. => [6]
   | .bariInit .. => [6]
   | .bariInval .. => [6]
   | .bart .. => [6]
   | _ => []) ++ [7]

/-- Every unit of a list accepts a bundle in a cycle. -/
def Core.accepts (c : Core) (us : List Nat) : Bool := us.all (fun u => decide (Tab.get 0 c.busy u ≤ c.cycle))

/-! ## What else holds a word back -/

/-- R72: a load may join the load queue, whatever the word's guard. Each thread is tested by itself, so that a bundle of several loads may
issue when fewer entries than its participants are free (assumption 42). -/
def State.loadRoom (s : State) (t : Nat) : Bool := decide ((s.thread t).loads < 4) && decide (s.coreLoads (coreOfThread t) < 2048)

/-- R225, R253: the thread's FENCE or acquire is not complete. -/
def Thread.ordering (th : Thread) : Bool := th.fencing.isSome || th.outs.any (fun o => o.acq != 0)

/-- R380: a request of LNCH.LAUNCH finds a place in its die's aggregator, or closes the batch opened earliest because every batch is open, or traps. -/
def State.batchRoom (s : State) (t : Nat) (a b : BitVec 6) : Bool :=
  let th := s.thread t
  let w := s.warpOfThread t
  let kd := th.pair a.toNat
  let v := (th.reg b.toNat).toNat
  let child := v / 65536
  let bs := s.batchesOf (dieOf (coreOfThread t))
  (lnchBad kd (v % 65536) true).isSome || !s.childOk w.part w.rcb child ||
  bs.any (fun x => x.takes w.part kd (if child = 0 then w.rcb else child)) || decide (bs.length < 16) || bs.all (fun x => x.isOpen)

/-- R267, R317, R387: a copy word's queue, token and share have room for the thread's command; R380, R382: a launch word can go on. -/
def State.roomFor (s : State) (t : Nat) (i : Instr) : Bool :=
  let w := s.warpOfThread t
  let core := coreOfThread t
  let copy := fun (q k : BitVec 3) => s.copyRoom (engineOf core) q.toNat w.lid w.part w.rcb && decide ((w.tok k.toNat).out < 255)
  match i with
  | .cpy _ q k _ _ => copy q k
  | .tcpy _ _ q k _ _ => copy q k
  | .gcpy _ _ q k _ _ => copy q k
  | .chain _ q k _ => copy q k
  | .rcpy _ _ q k _ _ => copy q k
  | .coll _ q k _ _ =>
    let e := s.collEng (collOf core)
    decide ((e.queue q.toNat).length < 16) && s.shareRoom (e.all.map (fun c => (c.part, c.rcb))) w.lid w.part w.rcb &&
    decide ((w.tok k.toNat).out < 255)
  | .glog _ k _ _ => s.weltRoom (dieOf core) w.lid w.part w.rcb && decide ((w.tok k.toNat).out < 255)
  | .wfold _ k _ _ => s.weltRoom (dieOf core) w.lid w.part w.rcb && decide ((w.tok k.toNat).out < 255)
  | .lnchLaunch _ _ a b => s.batchRoom t a b
  | .lnchGang .. => (s.thread t).asked.away == 0
  | _ => true

/-- What a word's kind asks of a thread whose guard is true. -/
def State.wordReady (s : State) (t : Nat) (i : Instr) : Bool :=
  let core := coreOfThread t
  match i with
  | .mma .. => s.mxshAllows t
  | .mmas .. => s.mxshAllows t
  | .mld _ _ q _ _ _ _ => let x := (s.coreAt core).tile q.toNat; !x.owned || x.ownedBy (s.ownerOf t)
  | .dbgmbSend .. => decide ((s.coreAt core).dbgOut.length < 16) || !s.dbgEnabled (s.warpOfThread t).part
  | .dbgmbXchg .. => decide ((s.coreAt core).dbgOut.length < 16) || !s.dbgEnabled (s.warpOfThread t).part
  | .fence .. => !(s.thread t).ordering
  | i =>
    (!(memUnitWord i || copyWord i || fabricWord i) || !(s.thread t).ordering) && s.roomFor t i

/-- A fetch from another device is under way for a core (R111). -/
def State.fetching (s : State) (core : Nat) (dev : BitVec 12) (va : Nat) : Bool :=
  s.lodge.outs.any (fun r => match r.owner with | .fetch c _ _ => c == core && r.pkt.dst == dev && r.pkt.addr.toNat == va | _ => false)

/-! ## Eligibility (R72) -/

/-- The workgroup of a warp is being saved: its core forms no bundle for it (R405). -/
def State.stopping (s : State) (w : Warp) : Bool :=
  match s.wg? w.lid w.g with
  | none => false
  | some x => (match x.st with | .running => false | .asked _ => false | _ => true)

/-- The thread's warp is halted by %WHALT (R411). -/
def State.halted (s : State) (t : Nat) : Bool := (s.coreAt (coreOfThread t)).whalt.getLsbD (slotOf (warpOf t))

/-- ELIGIBILITY (R72) of a thread but for its warp's place in the active set: it is live, not parked, past its redirect delay, not stopped,
held or halted, no trap waits for it, and its next word can go. -/
def State.eligible (s : State) (t : Nat) : Bool :=
  let th := s.thread t
  let w := s.warpOfThread t
  let core := coreOfThread t
  let c := s.coreAt core
  th.live && th.park == .none && decide (th.readyAt ≤ c.cycle) && th.wdog.isNone && !w.held && !s.stopping w &&
  (th.h || (th.heldTraps.isEmpty && !s.halted t)) && c.accepts [7] && !s.farParked t &&
  (match s.peek t with
   | .group p i =>
     !s.waitsAtWord t && !th.interlocked i c.cycle && c.accepts (unitsOf i) && (!loadWord i || s.loadRoom t) &&
     (match i.guard? with
      | some g => !guardHolds g th || (i.decodeCause p w.allot).isSome || s.wordReady t i
      | none => true)
   | .illegal => true
   | .fetch (.away dev va) => !s.fetching core dev va
   | .fetch _ => true)

/-! ## Bundles (R75, R76) -/

/-- The effective issue key of a thread (R76): demotion, then the greatest depth, then the lowest PC. -/
def issueKey (th : Thread) : Nat := (if th.dm then 2 ^ 72 else 0) + (255 - th.depth) * 2 ^ 64 + th.pc.toNat

/-- The pool of a thread (R75): its launch and role. -/
def State.poolOf (s : State) (t : Nat) : Nat × Nat := let w := s.warpOfThread t; (w.lid, w.role)

/-- The warp slots of a core's active set whose threads may issue in this cycle. -/
def Core.issuers (c : Core) : List Nat := (c.active.filter (fun e => decide (e.2 ≤ c.cycle))).map Prod.fst

/-- The eligible threads of a core's active set. -/
def State.ready (s : State) (core : Nat) : List Nat :=
  ((s.coreAt core).issuers.flatMap (fun k => s.liveThreads (warpKey core k))).filter s.eligible

/-- The least element by a measure, the first of equals. -/
def leastBy (f : Nat → Nat) : List Nat → Option Nat
  | [] => none
  | t :: ts => match leastBy f ts with | none => some t | some u => if f u < f t then some u else some t

/-- R75: the lowest warp slot that a pool holds in a core's active set. -/
def State.poolSlot (s : State) (core : Nat) (p : Nat × Nat) : Nat :=
  (((s.coreAt core).active.map Prod.fst).filter (fun k => let w := s.warp (warpKey core k); w.lid == p.1 && w.role == p.2)).foldl Nat.min 64

/-- R75: the first ready pool after the pool that issued last; where none has issued yet, the one with the lowest active slot
(assumption 42). -/
def State.nextPool (s : State) (core : Nat) (ts : List Nat) : Option (Nat × Nat) :=
  let last := match (s.coreAt core).lastPool with
    | none => none
    | some (l, r, k) => let k1 := s.poolSlot core (l, r); some (if k1 = 64 then k else k1)
  let after := fun t => match last with
    | none => s.poolSlot core (s.poolOf t)
    | some k => (s.poolSlot core (s.poolOf t) + 63 - k) % 64
  (leastBy after ts).map s.poolOf

/-- A bundle that may issue: its address, its threads as (lane, warp slot), and what its group is. -/
structure Bundle where
  pc : DWord
  mem : List (Nat × Nat)
  word : Peek
  deriving DecidableEq, Repr

/-- Step 3 of R76: the thread taken in a lane. -/
def State.takeLane (s : State) (ts : List Nat) (lane : Nat) : Option (Nat × Nat) :=
  (leastBy (fun t => issueKey (s.thread t) * 64 + slotOf (warpOf t)) (ts.filter (fun t => laneOf t == lane))).map
    (fun t => (lane, slotOf (warpOf t)))

/-- R76: THE BUNDLE that a pool's eligible threads form. A word that does not decode is not warp-bound, whatever its major
(assumption 42). -/
def State.bundleOf (s : State) (ts : List Nat) : Option Bundle :=
  match leastBy (fun t => issueKey (s.thread t) * 64 + slotOf (warpOf t)) ts with
  | none => none
  | some t0 =>
    let a := (s.thread t0).pc
    let d := (s.thread t0).depth
    let word := s.peek t0
    let bound := match word with | .group _ i => i.warpBound | _ => false
    let same := ts.filter (fun t => (s.thread t).pc == a && (s.thread t).depth == d && (!bound || warpOf t == warpOf t0))
    some { pc := a, mem := (List.range 32).filterMap (s.takeLane same), word := word }

/-- The threads of a bundle. -/
def Bundle.threads (b : Bundle) (core : Nat) : List Nat := b.mem.map (fun m => threadKey core m.2 m.1)

/-- R191: the governor holds a bundle: a matrix word with participants whose cost exceeds the credits. -/
def State.governed (s : State) (core : Nat) (b : Bundle) : Bool :=
  let held := fun (q : BitVec 1) (g : Guard) (a : BitVec 6) (north : Bool) =>
    let ps := (b.threads core).filter (fun t => guardHolds g (s.thread t))
    !ps.isEmpty && !s.govAllows core a.toNat (aRead north ((s.coreAt core).tile q.toNat).type) ps
  match b.word with
  | .group _ (.mma g e q _ a _) => held q g a (e == 1)
  | .group _ (.mmas g q _ a _) => held q g a false
  | _ => false

/-- R75, R76, R191: the bundle that a core issues among eligible threads, and whether the governor held one in this cycle: the threads of a
held word are ineligible, and the others form a bundle afresh. -/
def State.choose (s : State) (core : Nat) : Nat → List Nat → Option Bundle × Bool
  | 0, _ => (none, false)
  | f + 1, ts =>
    match s.nextPool core ts with
    | none => (none, false)
    | some p =>
      match s.bundleOf (ts.filter (fun t => s.poolOf t == p)) with
      | none => (none, false)
      | some b =>
        if s.governed core b then
          let r := s.choose core f (ts.filter (fun t => !(b.threads core).contains t))
          (r.1, true)
        else (some b, false)

/-! ## The active set (R82, R83) -/

/-- A pending warp is ready (R82). -/
def State.warpReady (s : State) (core k : Nat) : Bool := (s.liveThreads (warpKey core k)).any s.eligible

/-- The oldest ready pending warp of a core. -/
def State.entering (s : State) (core : Nat) : Option Nat := (s.coreAt core).pending.find? (s.warpReady core)

/-- R83: as a cycle begins, a warp has reason to leave: every live thread is parked or halted, or it has starved for 64 cycles. -/
def State.idleWarp (s : State) (key : Nat) : Bool :=
  let live := s.liveThreads key
  !live.isEmpty && (live.all (fun t => s.parked t || s.halted t) || decide (64 ≤ (s.warp key).starved))

/-- R42, R83: a PFX of kind 10 with HINT = SWAP has parked every live thread of a warp. -/
def State.swappedOut (s : State) (key : Nat) : Bool :=
  let live := s.liveThreads key
  live.any s.swapParked && live.all s.parked

/-- R83: the active warp that leaves first: the one that qualified first, the lowest slot of equals. -/
def State.leaving (s : State) (core : Nat) : Option Nat :=
  leastBy (fun k => (match (s.warp (warpKey core k)).leaveAt with | some x => x | none => 0) * 64 + k)
    (((s.coreAt core).active.map Prod.fst).filter (fun k => (s.warp (warpKey core k)).leaveAt.isSome))

/-- A warp enters the active set; its threads are eligible three cycles later. -/
def Core.enter (c : Core) (k : Nat) : Core :=
  { c with pending := c.pending.filter (fun j => j != k), active := c.active ++ [(k, c.cycle + 3)], entryAt := c.cycle + 1 }

/-- A warp's reasons to leave are forgotten when it enters or leaves. -/
def Warp.settled (w : Warp) : Warp := { w with leaveAt := none, leaveNow := none, starved := 0 }

/-- R82, R83: one entry into the active set, which starts in this cycle: of the warp that was the oldest ready one as the cycle began, into
a free place, else by a swap. None when none can start. -/
def State.enterSet (s : State) (core : Nat) (enters : Option Nat) : Option State :=
  let c := s.coreAt core
  if c.entryAt = c.cycle + 1 then none
  else
    match enters with
    | none => none
    | some k =>
      if !c.pending.contains k then none
      else if c.active.length < 8 then some ((s.updCore core (fun c => c.enter k)).updWarp (warpKey core k) Warp.settled)
      else
        match s.leaving core with
        | none => none
        | some o =>
          some (((s.updCore core (fun c => { c with active := c.active.filter (fun e => e.1 != o), pending := c.pending ++ [o] }.enter k)).updWarp
            (warpKey core k) Warp.settled).updWarp (warpKey core o) Warp.settled)

/-- ACTIVE_SET_ENTRY (R82, R83). -/
def execActiveSetEntry (core : Fin 1024) (s : State) : Host.Outcome State Fault Refusal :=
  .next ((s.enterSet core.val (s.entering core.val)).getD s)

/-! ## The governor's window (R191, R192, R364, R433) -/

/-- A window begins: the credits are BUDGET, which HK5 may have changed, and a new mode takes effect. -/
def Core.newWindow (c : Core) (budget : Byte) : Core :=
  { c with budget := budget, credits := budget.toNat, mxUsed := [], mmaInWindow := false, govmode := c.govmodeNext,
           windowAt := c.cycle / 64 * 64 + 64 }

/-- R191: the governor's next window starts, when it is due. -/
def State.startWindow (s : State) (core : Nat) : State :=
  if s.dev.pst < 2 && decide ((s.coreAt core).windowAt ≤ s.cycleOf core) then s.updCore core (fun c => c.newWindow s.dev.budget) else s

/-- GOVERNOR_WINDOW (R191). -/
def execGovernorWindow (core : Fin 1024) (s : State) : Host.Outcome State Fault Refusal := .next (s.startWindow core.val)

end Sys2Proof.Machine
end

