-- ==== Sys2Proof/Machine/MemoryWords.lean ====
section
/-! DEFINITION. The memory words, OP 0x5C to 0x68 (R233 to R242). -/

namespace Sys2Proof.Machine
open Sys2Proof

/-! ## LD, LDA, ST, STL (R236) -/

/-- LD (R236). -/
def execLd (g : Guard) (z : BitVec 3) (d a : BitVec 6) (i : BitVec 5) (s : State) : Host.Outcome State Fault Refusal :=
  .next (s.memWord (.ld g z d a i) (szBytes z) (fun th => mAddr s.cur.pfx th z a i) (fun s t ea =>
    s.access t ea (szBytes z) (szBytes z) true false false (fun s p =>
      s.loadInto t ea p (szBytes z) z (footprint d.toNat (szRegs z)) (s.l1Serves (coreOfThread t) s.cur.pfx p) (p.so s.cur.pfx) 0)))

/-- LDA (R225, R236, R460): an acquire at its effective scope; the L1 serves it only at CORE. -/
def execLda (g : Guard) (z : BitVec 3) (d a : BitVec 6) (i : BitVec 5) (s : State) : Host.Outcome State Fault Refusal :=
  .next (s.memWord (.lda g z d a i) (szBytes z) (fun th => mAddr s.cur.pfx th z a i) (fun s t ea =>
    s.access t ea (szBytes z) (szBytes z) true false false (fun s p =>
      let core := coreOfThread t
      let sc := effScope (scopeCode s.cur.pfx) (p.home.scope core)
      s.loadInto t ea p (szBytes z) z (footprint d.toNat (szRegs z))
        ((p.isStack || sc ≤ 1) && s.l1Serves core s.cur.pfx p) (p.so s.cur.pfx) sc)))

/-- ST (R236). -/
def execSt (g : Guard) (z : BitVec 3) (d a : BitVec 6) (i : BitVec 5) (s : State) : Host.Outcome State Fault Refusal :=
  .next (s.memWord (.st g z d a i) (szBytes z) (fun th => mAddr s.cur.pfx th z a i) (fun s t ea =>
    s.access t ea (szBytes z) (szBytes z) false true false (fun s p =>
      s.storeAt t ea p (leBytes (szBytes z) (szValue z (s.thread t) d.toNat)) (s.l1Serves (coreOfThread t) s.cur.pfx p))))

/-- STL (R225, R236, R460): a release at its effective scope before the store; the L1 serves it only at CORE. -/
def execStl (g : Guard) (z : BitVec 3) (d a : BitVec 6) (i : BitVec 5) (s : State) : Host.Outcome State Fault Refusal :=
  .next (s.memWord (.stl g z d a i) (szBytes z) (fun th => mAddr s.cur.pfx th z a i) (fun s t ea =>
    s.access t ea (szBytes z) (szBytes z) false true false (fun s p =>
      let core := coreOfThread t
      let sc := effScope (scopeCode s.cur.pfx) (p.home.scope core)
      match s.releaseAt t sc with
      | (s1, false) => (s1, .stay)
      | (s1, true) =>
        s1.storeAt t ea p (leBytes (szBytes z) (szValue z (s.thread t) d.toNat)) ((p.isStack || sc ≤ 1) && s.l1Serves core s.cur.pfx p))))

/-! ## Tagged words (R216 to R218, R237) -/

/-- LDF or LDE: the word goes to its home's tag unit and its thread parks at it until the home reports it served (R217). -/
def State.tagLoad (s : State) (kind t : Nat) (a : DWord) (z : BitVec 3) (d : BitVec 6) (mark : Bool) (p : Place) : State × Adv :=
  let core := coreOfThread t
  let sc := effScope (scopeCode s.cur.pfx) (p.home.scope core)
  let s0 := s.dropSector core p.home.sector
  let id := s0.ids
  let s1 := (s0.addOut t .tag (footprint d.toNat (szRegs z)) none (sectorOf a) (p.so s.cur.pfx) sc (if p.home.scope core == 1 then 24 else 0)).parkWord t .tag
    mark
  match p.home with
  | .remote dev va =>
    (s1.request (.result t id (szBytes z) z) 1 0 dev (BitVec.ofNat 64 va) (.read (szBytes z) (if kind = 0 then .ldf else .lde)), .stay)
  | h =>
    ({ s1 with tagWaits := s1.tagWaits ++ [TagWait.mk id kind h.key (szBytes z) [] (.result t id (szBytes z) z) 0 s.cur.bundle] }, .stay)

/-- LDF (R217). -/
def execLdf (g : Guard) (z : BitVec 3) (d a : BitVec 6) (i : BitVec 5) (s : State) : Host.Outcome State Fault Refusal :=
  .next (s.memWord (.ldf g z d a i) (szBytes z) (fun th => mAddr s.cur.pfx th z a i) (fun s t ea =>
    s.access t ea (szBytes z) (szBytes z) true false true (fun s p => s.tagLoad 0 t ea z d g.s p)))

/-- LDE (R217). -/
def execLde (g : Guard) (z : BitVec 3) (d a : BitVec 6) (i : BitVec 5) (s : State) : Host.Outcome State Fault Refusal :=
  .next (s.memWord (.lde g z d a i) (szBytes z) (fun th => mAddr s.cur.pfx th z a i) (fun s t ea =>
    s.access t ea (szBytes z) (szBytes z) true true true (fun s p => s.tagLoad 1 t ea z d g.s p)))

/-- STF (R217, R228): a release, then the word goes to its tag unit and its thread parks until it is served. -/
def execStf (g : Guard) (z : BitVec 3) (d a : BitVec 6) (i : BitVec 5) (s : State) : Host.Outcome State Fault Refusal :=
  .next (s.memWord (.stf g z d a i) (szBytes z) (fun th => mAddr s.cur.pfx th z a i) (fun s t ea =>
    s.access t ea (szBytes z) (szBytes z) true true true (fun s p =>
      let core := coreOfThread t
      let bs := leBytes (szBytes z) (szValue z (s.thread t) d.toNat)
      match s.releaseAt t (effScope (scopeCode s.cur.pfx) (p.home.scope core)) with
      | (r, false) => (r, .stay)
      | (r, true) =>
        let s0 := r.dropSector core p.home.sector
        let id := s0.ids
        let s1 := (s0.freshId.2).parkWord t .tag g.s
        match p.home with
        | .remote dev va => (s1.request (.tagStore t ea) 1 2 dev (BitVec.ofNat 64 va) (.write bs .stf), .stay)
        | h => ({ s1 with tagWaits := s1.tagWaits ++ [TagWait.mk id 2 h.key (szBytes z) bs (.tagStore t ea) 0 s.cur.bundle] }, .stay))))

/-- A store at the home that never waits, done there or as a WRITE packet (R217, R294), after the core's own sector `sec` has been written
back and dropped (R460). -/
def State.tagPut (s : State) (t : Nat) (a : DWord) (p : Place) (sec : Nat) (kind : WriteKind) (bs : List Byte)
    (f : State → Home → State × Option Byte) : State × Adv :=
  let s0 := s.dropSector (coreOfThread t) sec
  let so := p.so s.cur.pfx
  match p.home with
  | .remote dev va =>
    let id := s0.ids
    ((s0.addAck t so false none).request (.ack t id a) 1 2 dev (BitVec.ofNat 64 va) (.write bs kind), .pass)
  | h => let r := f s0 h; (r.1.addAck t so true (r.2.map (fun c => (c, sectorOf a))), .pass)

/-- STO (R217, R228): a release, then the data and the full tag are written at once. -/
def execSto (g : Guard) (z : BitVec 3) (d a : BitVec 6) (i : BitVec 5) (s : State) : Host.Outcome State Fault Refusal :=
  .next (s.memWord (.sto g z d a i) (szBytes z) (fun th => mAddr s.cur.pfx th z a i) (fun s t ea =>
    s.access t ea (szBytes z) (szBytes z) false true true (fun s p =>
      let core := coreOfThread t
      let bs := leBytes (szBytes z) (szValue z (s.thread t) d.toNat)
      match s.releaseAt t (effScope (scopeCode s.cur.pfx) (p.home.scope core)) with
      | (s1, false) => (s1, .stay)
      | (s1, true) => s1.tagPut t ea p p.home.sector .sto bs (fun s h => s.tagStore h bs))))

/-- SETE (R217, R237). -/
def execSete (g : Guard) (a : BitVec 6) (z : BitVec 3) (s : State) : Host.Outcome State Fault Refusal :=
  .next (s.memWord (.sete g a z) (szBytes z) (fun th => th.pair a.toNat) (fun s t ea =>
    s.access t ea (szBytes z) (szBytes z) false true true (fun s p => s.tagPut t ea p p.home.sector .sete [] (fun s h => s.tagSet h false))))

/-- SETF (R217, R237). -/
def execSetf (g : Guard) (a : BitVec 6) (z : BitVec 3) (s : State) : Host.Outcome State Fault Refusal :=
  .next (s.memWord (.setf g a z) (szBytes z) (fun th => th.pair a.toNat) (fun s t ea =>
    s.access t ea (szBytes z) (szBytes z) false true true (fun s p => s.tagPut t ea p p.home.sector .setf [] (fun s h => s.tagSet h true))))

/-- TAGRD (R212, R237): the tag, zero-extended, as a pending result. -/
def execTagrd (g : Guard) (d a : BitVec 6) (z : BitVec 3) (s : State) : Host.Outcome State Fault Refusal :=
  .next (s.memWord (.tagrd g d a z) (szBytes z) (fun th => th.pair a.toNat) (fun s t ea =>
    s.access t ea (szBytes z) (szBytes z) true false true (fun s p =>
      let s0 := s.dropSector (coreOfThread t) p.home.sector
      let lat := s.loadLat (coreOfThread t) p (szBytes z) false
      match p.home with
      | .remote dev va =>
        let id := s0.ids
        ((s0.addOut t .regs [d.toNat] none (sectorOf ea) (p.so s.cur.pfx) 0 lat).request (.result t id 4 4) 1 0 dev (BitVec.ofNat 64 va)
          (.read (szBytes z) .tagrd), .pass)
      | h =>
        let r : Res := if s0.refusedAt h (szBytes z) then .bad 6 else if s0.marked h.key (szBytes z) then .bad 0x13
          else .val [if s0.tagAt h.key then 1 else 0]
        (s0.addOut t .regs [d.toNat] (some r) (sectorOf ea) (p.so s.cur.pfx) 0 lat, .pass))))

/-! ## Swizzled tiles (R219 to R221, R238) -/

/-- The address of TILD and TIST (R238). -/
def tileAddr (th : Thread) (a b : BitVec 6) : DWord := th.pair a.toNat + (th.reg b.toNat).zeroExtend 64

/-- The sector that holds the chunk which a swizzled access moves: the L1 of the core gives up that one (R219, R460). -/
def tileSector (h : Home) (z : BitVec 2) : Nat := swizzled h.key z.toNat / 32

/-- TILD (R221, R238). -/
def execTild (g : Guard) (m : BitVec 2) (d a b : BitVec 6) (s : State) : Host.Outcome State Fault Refusal :=
  .next (s.memWord (.tild g m d a b) 16 (fun th => tileAddr th a b) (fun s t ea =>
    s.accessIf (fun s p => if p.home.isSlice && !s.refusedAt p.home 16 && s.swzAt p.home.key != m then some 7 else none) t ea 16 16 true false true
     (fun s p =>
      let s0 := s.dropSector (coreOfThread t) (tileSector p.home m)
      let dst := footprint d.toNat 4
      let so := p.so s.cur.pfx
      let lat := s.loadLat (coreOfThread t) p 16 false
      match p.home with
      | .remote dev va =>
        let id := s0.ids
        ((s0.addOut t .regs dst none (sectorOf ea) so 0 lat).request (.result t id 16 6) 1 0 dev (BitVec.ofNat 64 va) (.read 16 (.tild m)), .pass)
      | h =>
        if s0.refusedAt h 16 then (s0.addOut t .regs dst (some (.bad 6)) (sectorOf ea) so 0 lat, .pass)
        else
          let k := swizzled h.key m.toNat
          if s0.marked k 16 then (s0.addOut t .regs dst (some (.bad 0x13)) (sectorOf ea) so 0 lat, .pass)
          else (s0.addOut t .regs dst (some (.val (szWords 6 (s0.loadNat k 16)))) (sectorOf ea) so 0 lat, .pass))))

/-- TIST (R221, R238). -/
def execTist (g : Guard) (m : BitVec 2) (d a b : BitVec 6) (s : State) : Host.Outcome State Fault Refusal :=
  .next (s.memWord (.tist g m d a b) 16 (fun th => tileAddr th a b) (fun s t ea =>
    s.access t ea 16 16 false true true (fun s p =>
      let bs := leBytes 16 (szValue 6 (s.thread t) d.toNat)
      s.tagPut t ea p (tileSector p.home m) (.tist m) bs (fun s h => s.tileStore h m bs))))

/-! ## PREF and CINV (R239, R240) -/

/-- A sector of a prefetched line enters the L1; a REMOTE one is asked of its device. -/
def State.prefetchSector (s : State) (core : Nat) (p : Place) (h : Home) : State :=
  let k := h.sector
  let x := s.l1At core k
  if x.valid || s.refusedAt h 32 || h.missing 32 then s
  else
    match h with
    | .remote dev va =>
      (s.freshId.2).request (.fill core h.key 0 s.ids 0 4 (p.kind == 2) (polOf s.cur.pfx p) true) 1 0 dev (BitVec.ofNat 64 va) (.read 32 .plain)
    | _ =>
      if s.marked h.key 32 then s
      else (s.roomInL1 core k).setL1 core k (x.filled (s.getBytes h.key 32) (p.kind == 2) (polOf s.cur.pfx p))

/-- PREF (R239): any problem, a full load queue among them, drops the prefetch; nothing but the L1 and the die cache can change. -/
def execPref (g : Guard) (l a : BitVec 6) (i : BitVec 5) (s : State) : Host.Outcome State Fault Refusal :=
  .next (s.memWord (.pref g l a i) 1 (fun th => mAddr s.cur.pfx th 6 a i) (fun s t ea =>
    match s.checkAccess t ea 1 1 true false false with
    | .place p =>
      let core := coreOfThread t
      if l == 0 && s.l1Serves core s.cur.pfx p && decide (s.coreLoads core < 2048) then
        ((List.range 8).foldl (fun s k => s.prefetchSector core p (p.home.lineStart.plus (32 * k))) s, .pass)
      else (s, .pass)
    | _ => (s, .pass)))

/-- A CINV form that writes back every dirty byte of the core's L1 and then does `f`: the load-store unit waits for it (R242), and the later
memory words of its threads until every write-back is acknowledged (R240). -/
def State.cinvL1 (s : State) (i : Instr) (f : State → Nat → State) : State :=
  s.simt i (fun s ps =>
    let (s0, k) := s.agree
    if ps.isEmpty then (s0, none) else
    let c := s.cur.core
    let dirty := ((s.coreAt c).l1.filter (fun e => e.2.dirty != 0)).length
    let s1 := (f (s0.writeBackL1 c (fun _ => true)) c).occupy 5 (64 + dirty + (k - 1))
    (ps.foldl (fun s t => ((s.updThread t (fun th => { th with fencing := some (cinvKind, 0) })).fenceDone t).pass t (markOf i)) s1, none))

/-- CINV.INV (R240): every dirty byte is written back, then every line is invalidated. -/
def execCinvInv (g : Guard) (s : State) : Host.Outcome State Fault Refusal :=
  .next (s.cinvL1 (.cinvInv g) (fun s c => (s.forgetFills c (fun _ _ => true)).updCore c (fun x => { x with l1 := [] })))

/-- CINV.WB (R240): every dirty byte is written back; lines stay valid and clean. -/
def execCinvWb (g : Guard) (s : State) : Host.Outcome State Fault Refusal := .next (s.cinvL1 (.cinvWb g) (fun s _ => s))

/-- Words of code that are on their way to a core from other devices are not kept when they come. -/
def State.forgetFetches (s : State) (c : Nat) : State :=
  { s with lodge := { s.lodge with outs := s.lodge.outs.map (fun r =>
      match r.owner with | .fetch core _ _ => if core == c then { r with owner := .nobody } else r | _ => r) } }

/-- CINV.IC (R240): the core's instruction cache is invalidated, with what was fetched before; the core's fetch waits 32 cycles (R242). -/
def execCinvIc (g : Guard) (s : State) : Host.Outcome State Fault Refusal :=
  .next (s.simt (.cinvIc g) (fun s ps =>
    let (s0, k) := s.agree
    if ps.isEmpty then (s0, none) else
    let c := s.cur.core
    let s1 := ((s0.forgetFetches c).updCore c (fun x => { x with icache := [], fetchBad := [] })).occupy 7 (32 + (k - 1))
    (ps.foldl (fun s t => s.pass t g.s) s1, none)))

end Sys2Proof.Machine
end

