-- ==== Sys2Proof/Machine/Dispatch.lean ====
section
/-! DEFINITION. What executing an instruction or event does: one arm for each constructor of Instr. -/

namespace Sys2Proof.Machine
open Sys2Proof

/-- The meaning of one step of the machine. -/
def exec (i : Instr) (s : State) : Host.Outcome State Fault Refusal :=
  match i with
  | .nop x1 => Sys2Proof.Machine.execNop x1 s
  | .pfxExt x1 => Sys2Proof.Machine.execPfxExt x1 s
  | .pfxOrd x1 x2 x3 => Sys2Proof.Machine.execPfxOrd x1 x2 x3 s
  | .pfxTok x1 x2 => Sys2Proof.Machine.execPfxTok x1 x2 s
  | .bra x1 x2 x3 => Sys2Proof.Machine.execBra x1 x2 x3 s
  | .brx x1 x2 x3 => Sys2Proof.Machine.execBrx x1 x2 x3 s
  | .call x1 x2 => Sys2Proof.Machine.execCall x1 x2 s
  | .callx x1 x2 => Sys2Proof.Machine.execCallx x1 x2 s
  | .ret x1 => Sys2Proof.Machine.execRet x1 s
  | .loop x1 x2 x3 => Sys2Proof.Machine.execLoop x1 x2 x3 s
  | .loopi x1 x2 x3 => Sys2Proof.Machine.execLoopi x1 x2 x3 s
  | .rcv x1 x2 => Sys2Proof.Machine.execRcv x1 x2 s
  | .yield x1 => Sys2Proof.Machine.execYield x1 s
  | .exit x1 => Sys2Proof.Machine.execExit x1 s
  | .idem x1 => Sys2Proof.Machine.execIdem x1 s
  | .add x1 x2 x3 x4 x5 => Sys2Proof.Machine.execAdd x1 x2 x3 x4 x5 s
  | .sub x1 x2 x3 x4 x5 => Sys2Proof.Machine.execSub x1 x2 x3 x4 x5 s
  | .addi x1 x2 x3 x4 => Sys2Proof.Machine.execAddi x1 x2 x3 x4 s
  | .mul x1 x2 x3 x4 x5 => Sys2Proof.Machine.execMul x1 x2 x3 x4 x5 s
  | .mad x1 x2 x3 x4 x5 => Sys2Proof.Machine.execMad x1 x2 x3 x4 x5 s
  | .add64 x1 x2 x3 x4 x5 => Sys2Proof.Machine.execAdd64 x1 x2 x3 x4 x5 s
  | .lea x1 x2 x3 x4 x5 => Sys2Proof.Machine.execLea x1 x2 x3 x4 x5 s
  | .and x1 x2 x3 x4 => Sys2Proof.Machine.execAnd x1 x2 x3 x4 s
  | .or x1 x2 x3 x4 => Sys2Proof.Machine.execOr x1 x2 x3 x4 s
  | .xor x1 x2 x3 x4 => Sys2Proof.Machine.execXor x1 x2 x3 x4 s
  | .andn x1 x2 x3 x4 => Sys2Proof.Machine.execAndn x1 x2 x3 x4 s
  | .shl x1 x2 x3 x4 => Sys2Proof.Machine.execShl x1 x2 x3 x4 s
  | .shr x1 x2 x3 x4 => Sys2Proof.Machine.execShr x1 x2 x3 x4 s
  | .sar x1 x2 x3 x4 => Sys2Proof.Machine.execSar x1 x2 x3 x4 s
  | .rot x1 x2 x3 x4 => Sys2Proof.Machine.execRot x1 x2 x3 x4 s
  | .shlImm x1 x2 x3 x4 => Sys2Proof.Machine.execShlImm x1 x2 x3 x4 s
  | .shrImm x1 x2 x3 x4 => Sys2Proof.Machine.execShrImm x1 x2 x3 x4 s
  | .sarImm x1 x2 x3 x4 => Sys2Proof.Machine.execSarImm x1 x2 x3 x4 s
  | .rotImm x1 x2 x3 x4 => Sys2Proof.Machine.execRotImm x1 x2 x3 x4 s
  | .min x1 x2 x3 x4 x5 => Sys2Proof.Machine.execMin x1 x2 x3 x4 x5 s
  | .max x1 x2 x3 x4 x5 => Sys2Proof.Machine.execMax x1 x2 x3 x4 x5 s
  | .clz x1 x2 x3 => Sys2Proof.Machine.execClz x1 x2 x3 s
  | .ctz x1 x2 x3 => Sys2Proof.Machine.execCtz x1 x2 x3 s
  | .popc x1 x2 x3 => Sys2Proof.Machine.execPopc x1 x2 x3 s
  | .brev x1 x2 x3 => Sys2Proof.Machine.execBrev x1 x2 x3 s
  | .abs x1 x2 x3 => Sys2Proof.Machine.execAbs x1 x2 x3 s
  | .neg x1 x2 x3 => Sys2Proof.Machine.execNeg x1 x2 x3 s
  | .not x1 x2 x3 => Sys2Proof.Machine.execNot x1 x2 x3 s
  | .sext8 x1 x2 x3 => Sys2Proof.Machine.execSext8 x1 x2 x3 s
  | .sext16 x1 x2 x3 => Sys2Proof.Machine.execSext16 x1 x2 x3 s
  | .bfe x1 x2 x3 x4 x5 => Sys2Proof.Machine.execBfe x1 x2 x3 x4 x5 s
  | .bfi x1 x2 x3 x4 => Sys2Proof.Machine.execBfi x1 x2 x3 x4 s
  | .setp x1 x2 x3 x4 x5 x6 => Sys2Proof.Machine.execSetp x1 x2 x3 x4 x5 x6 s
  | .setpi x1 x2 x3 x4 x5 => Sys2Proof.Machine.execSetpi x1 x2 x3 x4 x5 s
  | .sel x1 x2 x3 x4 x5 => Sys2Proof.Machine.execSel x1 x2 x3 x4 x5 s
  | .mov x1 x2 x3 => Sys2Proof.Machine.execMov x1 x2 x3 s
  | .p2v x1 x2 => Sys2Proof.Machine.execP2v x1 x2 s
  | .v2p x1 x2 => Sys2Proof.Machine.execV2p x1 x2 s
  | .movi x1 x2 x3 => Sys2Proof.Machine.execMovi x1 x2 x3 s
  | .prmt x1 x2 x3 x4 => Sys2Proof.Machine.execPrmt x1 x2 x3 x4 s
  | .nlut x1 x2 x3 x4 x5 => Sys2Proof.Machine.execNlut x1 x2 x3 x4 x5 s
  | .shfl x1 x2 x3 x4 x5 => Sys2Proof.Machine.execShfl x1 x2 x3 x4 x5 s
  | .vote x1 x2 x3 x4 => Sys2Proof.Machine.execVote x1 x2 x3 x4 s
  | .fadd x1 x2 x3 x4 x5 => Sys2Proof.Machine.execFadd x1 x2 x3 x4 x5 s
  | .fsub x1 x2 x3 x4 x5 => Sys2Proof.Machine.execFsub x1 x2 x3 x4 x5 s
  | .fmul x1 x2 x3 x4 x5 => Sys2Proof.Machine.execFmul x1 x2 x3 x4 x5 s
  | .fma x1 x2 x3 x4 x5 => Sys2Proof.Machine.execFma x1 x2 x3 x4 x5 s
  | .fmin x1 x2 x3 x4 => Sys2Proof.Machine.execFmin x1 x2 x3 x4 s
  | .fmax x1 x2 x3 x4 => Sys2Proof.Machine.execFmax x1 x2 x3 x4 s
  | .fsetp x1 x2 x3 x4 x5 x6 => Sys2Proof.Machine.execFsetp x1 x2 x3 x4 x5 x6 s
  | .fabs x1 x2 x3 => Sys2Proof.Machine.execFabs x1 x2 x3 s
  | .fneg x1 x2 x3 => Sys2Proof.Machine.execFneg x1 x2 x3 s
  | .frnd x1 x2 x3 x4 => Sys2Proof.Machine.execFrnd x1 x2 x3 x4 s
  | .rcp x1 x2 x3 => Sys2Proof.Machine.execRcp x1 x2 x3 s
  | .rsq x1 x2 x3 => Sys2Proof.Machine.execRsq x1 x2 x3 s
  | .sqrt x1 x2 x3 => Sys2Proof.Machine.execSqrt x1 x2 x3 s
  | .ex2 x1 x2 x3 => Sys2Proof.Machine.execEx2 x1 x2 x3 s
  | .lg2 x1 x2 x3 => Sys2Proof.Machine.execLg2 x1 x2 x3 s
  | .sin x1 x2 x3 => Sys2Proof.Machine.execSin x1 x2 x3 s
  | .cos x1 x2 x3 => Sys2Proof.Machine.execCos x1 x2 x3 s
  | .hadd2 x1 x2 x3 x4 x5 => Sys2Proof.Machine.execHadd2 x1 x2 x3 x4 x5 s
  | .hmul2 x1 x2 x3 x4 x5 => Sys2Proof.Machine.execHmul2 x1 x2 x3 x4 x5 s
  | .hfma2 x1 x2 x3 x4 x5 => Sys2Proof.Machine.execHfma2 x1 x2 x3 x4 x5 s
  | .hmm2 x1 x2 x3 x4 x5 => Sys2Proof.Machine.execHmm2 x1 x2 x3 x4 x5 s
  | .cvtf x1 x2 x3 x4 x5 x6 x7 x8 => Sys2Proof.Machine.execCvtf x1 x2 x3 x4 x5 x6 x7 x8 s
  | .cvtp x1 x2 x3 x4 x5 x6 x7 x8 => Sys2Proof.Machine.execCvtp x1 x2 x3 x4 x5 x6 x7 x8 s
  | .cvti x1 x2 x3 x4 x5 x6 => Sys2Proof.Machine.execCvti x1 x2 x3 x4 x5 x6 s
  | .mxq x1 x2 x3 x4 x5 x6 => Sys2Proof.Machine.execMxq x1 x2 x3 x4 x5 x6 s
  | .mxd x1 x2 x3 x4 => Sys2Proof.Machine.execMxd x1 x2 x3 x4 s
  | .mld x1 x2 x3 x4 x5 x6 x7 => Sys2Proof.Machine.execMld x1 x2 x3 x4 x5 x6 x7 s
  | .mma x1 x2 x3 x4 x5 x6 => Sys2Proof.Machine.execMma x1 x2 x3 x4 x5 x6 s
  | .mmas x1 x2 x3 x4 x5 => Sys2Proof.Machine.execMmas x1 x2 x3 x4 x5 s
  | .mclr x1 x2 => Sys2Proof.Machine.execMclr x1 x2 s
  | .mrd x1 x2 x3 x4 => Sys2Proof.Machine.execMrd x1 x2 x3 x4 s
  | .ld x1 x2 x3 x4 x5 => Sys2Proof.Machine.execLd x1 x2 x3 x4 x5 s
  | .st x1 x2 x3 x4 x5 => Sys2Proof.Machine.execSt x1 x2 x3 x4 x5 s
  | .lda x1 x2 x3 x4 x5 => Sys2Proof.Machine.execLda x1 x2 x3 x4 x5 s
  | .stl x1 x2 x3 x4 x5 => Sys2Proof.Machine.execStl x1 x2 x3 x4 x5 s
  | .ldf x1 x2 x3 x4 x5 => Sys2Proof.Machine.execLdf x1 x2 x3 x4 x5 s
  | .lde x1 x2 x3 x4 x5 => Sys2Proof.Machine.execLde x1 x2 x3 x4 x5 s
  | .stf x1 x2 x3 x4 x5 => Sys2Proof.Machine.execStf x1 x2 x3 x4 x5 s
  | .sto x1 x2 x3 x4 x5 => Sys2Proof.Machine.execSto x1 x2 x3 x4 x5 s
  | .sete x1 x2 x3 => Sys2Proof.Machine.execSete x1 x2 x3 s
  | .setf x1 x2 x3 => Sys2Proof.Machine.execSetf x1 x2 x3 s
  | .tagrd x1 x2 x3 x4 => Sys2Proof.Machine.execTagrd x1 x2 x3 x4 s
  | .tild x1 x2 x3 x4 x5 => Sys2Proof.Machine.execTild x1 x2 x3 x4 x5 s
  | .tist x1 x2 x3 x4 x5 => Sys2Proof.Machine.execTist x1 x2 x3 x4 x5 s
  | .pref x1 x2 x3 x4 => Sys2Proof.Machine.execPref x1 x2 x3 x4 s
  | .cinvInv x1 => Sys2Proof.Machine.execCinvInv x1 s
  | .cinvWb x1 => Sys2Proof.Machine.execCinvWb x1 s
  | .cinvIc x1 => Sys2Proof.Machine.execCinvIc x1 s
  | .atom x1 x2 x3 x4 x5 => Sys2Proof.Machine.execAtom x1 x2 x3 x4 x5 s
  | .cas x1 x2 x3 x4 x5 => Sys2Proof.Machine.execCas x1 x2 x3 x4 x5 s
  | .red x1 x2 x3 x4 x5 => Sys2Proof.Machine.execRed x1 x2 x3 x4 x5 s
  | .fence x1 x2 x3 => Sys2Proof.Machine.execFence x1 x2 x3 s
  | .barv x1 x2 x3 x4 x5 => Sys2Proof.Machine.execBarv x1 x2 x3 x4 x5 s
  | .barw x1 x2 x3 x4 => Sys2Proof.Machine.execBarw x1 x2 x3 x4 s
  | .bariInit x1 x2 x3 x4 => Sys2Proof.Machine.execBariInit x1 x2 x3 x4 s
  | .bariInval x1 x2 => Sys2Proof.Machine.execBariInval x1 x2 s
  | .bart x1 x2 x3 x4 x5 => Sys2Proof.Machine.execBart x1 x2 x3 x4 x5 s
  | .cpy x1 x2 x3 x4 x5 => Sys2Proof.Machine.execCpy x1 x2 x3 x4 x5 s
  | .tcpy x1 x2 x3 x4 x5 x6 => Sys2Proof.Machine.execTcpy x1 x2 x3 x4 x5 x6 s
  | .gcpy x1 x2 x3 x4 x5 x6 => Sys2Proof.Machine.execGcpy x1 x2 x3 x4 x5 x6 s
  | .chain x1 x2 x3 x4 => Sys2Proof.Machine.execChain x1 x2 x3 x4 s
  | .tkwait x1 x2 x3 x4 => Sys2Proof.Machine.execTkwait x1 x2 x3 x4 s
  | .rcpy x1 x2 x3 x4 x5 x6 => Sys2Proof.Machine.execRcpy x1 x2 x3 x4 x5 x6 s
  | .coll x1 x2 x3 x4 x5 => Sys2Proof.Machine.execColl x1 x2 x3 x4 x5 s
  | .sigrFill x1 x2 x3 x4 => Sys2Proof.Machine.execSigrFill x1 x2 x3 x4 s
  | .sigrArr x1 x2 x3 => Sys2Proof.Machine.execSigrArr x1 x2 x3 s
  | .sigrArrel x1 x2 x3 => Sys2Proof.Machine.execSigrArrel x1 x2 x3 s
  | .lnchLaunch x1 x2 x3 x4 => Sys2Proof.Machine.execLnchLaunch x1 x2 x3 x4 s
  | .lnchGang x1 x2 x3 => Sys2Proof.Machine.execLnchGang x1 x2 x3 s
  | .lnchBwrec x1 x2 x3 x4 => Sys2Proof.Machine.execLnchBwrec x1 x2 x3 x4 s
  | .glog x1 x2 x3 x4 => Sys2Proof.Machine.execGlog x1 x2 x3 x4 s
  | .wfold x1 x2 x3 x4 => Sys2Proof.Machine.execWfold x1 x2 x3 x4 s
  | .lscale x1 x2 => Sys2Proof.Machine.execLscale x1 x2 s
  | .csrr x1 x2 x3 => Sys2Proof.Machine.execCsrr x1 x2 x3 s
  | .csrw x1 x2 x3 => Sys2Proof.Machine.execCsrw x1 x2 x3 s
  | .trap x1 x2 => Sys2Proof.Machine.execTrap x1 x2 s
  | .bkpt x1 x2 => Sys2Proof.Machine.execBkpt x1 x2 s
  | .rte x1 => Sys2Proof.Machine.execRte x1 s
  | .wdog x1 => Sys2Proof.Machine.execWdog x1 s
  | .dbgmbSend x1 x2 => Sys2Proof.Machine.execDbgmbSend x1 x2 s
  | .dbgmbRecv x1 x2 => Sys2Proof.Machine.execDbgmbRecv x1 x2 s
  | .dbgmbXchg x1 x2 x3 => Sys2Proof.Machine.execDbgmbXchg x1 x2 x3 s
  | .halt x1 => Sys2Proof.Machine.execHalt x1 s
  | .circuitMovi x1 x2 x3 x4 => Sys2Proof.Machine.execCircuitMovi x1 x2 x3 x4 s
  | .circuitAdd x1 x2 x3 x4 => Sys2Proof.Machine.execCircuitAdd x1 x2 x3 x4 s
  | .circuitSub x1 x2 x3 => Sys2Proof.Machine.execCircuitSub x1 x2 x3 s
  | .circuitAnd x1 x2 x3 => Sys2Proof.Machine.execCircuitAnd x1 x2 x3 s
  | .beq x1 x2 x3 => Sys2Proof.Machine.execBeq x1 x2 x3 s
  | .bne x1 x2 x3 => Sys2Proof.Machine.execBne x1 x2 x3 s
  | .blt x1 x2 x3 => Sys2Proof.Machine.execBlt x1 x2 x3 s
  | .jmp x1 => Sys2Proof.Machine.execJmp x1 s
  | .ldc x1 x2 x3 => Sys2Proof.Machine.execLdc x1 x2 x3 s
  | .stc x1 x2 x3 => Sys2Proof.Machine.execStc x1 x2 x3 s
  | .creq x1 => Sys2Proof.Machine.execCreq x1 s
  | .cwait x1 x2 x3 => Sys2Proof.Machine.execCwait x1 x2 x3 s
  | .cbind x1 x2 => Sys2Proof.Machine.execCbind x1 x2 s
  | .crel x1 => Sys2Proof.Machine.execCrel x1 s
  | .portOff x1 => Sys2Proof.Machine.execPortOff x1 s
  | .portOn x1 => Sys2Proof.Machine.execPortOn x1 s
  | .portClr x1 => Sys2Proof.Machine.execPortClr x1 s
  | .pstat x1 x2 => Sys2Proof.Machine.execPstat x1 x2 s
  | .slot x1 => Sys2Proof.Machine.execSlot x1 s
  | .srun x1 x2 x3 => Sys2Proof.Machine.execSrun x1 x2 x3 s
  | .sstop x1 => Sys2Proof.Machine.execSstop x1 s
  | .csigFill x1 x2 => Sys2Proof.Machine.execCsigFill x1 x2 s
  | .csigArr x1 x2 => Sys2Proof.Machine.execCsigArr x1 x2 s
  | .csigMsg x1 x2 => Sys2Proof.Machine.execCsigMsg x1 x2 s
  | .wev x1 x2 x3 x4 x5 => Sys2Proof.Machine.execWev x1 x2 x3 x4 x5 s
  | .queueDoorbell x1 x2 => Sys2Proof.Machine.execQueueDoorbell x1 x2 s
  | .launch x1 x2 => Sys2Proof.Machine.execLaunch x1 x2 s
  | .copy x1 x2 => Sys2Proof.Machine.execCopy x1 x2 s
  | .circuit x1 x2 => Sys2Proof.Machine.execCircuit x1 x2 s
  | .tokenWait x1 x2 => Sys2Proof.Machine.execTokenWait x1 x2 s
  | .tokenSignal x1 x2 => Sys2Proof.Machine.execTokenSignal x1 x2 s
  | .taperun x1 x2 => Sys2Proof.Machine.execTaperun x1 x2 s
  | .tapeLaunch x1 => Sys2Proof.Machine.execTapeLaunch x1 s
  | .foldWait x1 x2 => Sys2Proof.Machine.execFoldWait x1 x2 s
  | .queueFence x1 x2 => Sys2Proof.Machine.execQueueFence x1 x2 s
  | .checkpointSave x1 x2 => Sys2Proof.Machine.execCheckpointSave x1 x2 s
  | .checkpointRestore x1 x2 => Sys2Proof.Machine.execCheckpointRestore x1 x2 s
  | .pstateRun x1 x2 => Sys2Proof.Machine.execPstateRun x1 x2 s
  | .pstateTrim x1 x2 => Sys2Proof.Machine.execPstateTrim x1 x2 s
  | .pstateHold x1 x2 => Sys2Proof.Machine.execPstateHold x1 x2 s
  | .pstateRetain x1 x2 => Sys2Proof.Machine.execPstateRetain x1 x2 s
  | .pstateOff x1 x2 => Sys2Proof.Machine.execPstateOff x1 x2 s
  | .resetQueue x1 x2 => Sys2Proof.Machine.execResetQueue x1 x2 s
  | .resetEngine x1 x2 => Sys2Proof.Machine.execResetEngine x1 x2 s
  | .resetPartition x1 x2 => Sys2Proof.Machine.execResetPartition x1 x2 s
  | .resetDie x1 x2 => Sys2Proof.Machine.execResetDie x1 x2 s
  | .resetFunction x1 x2 => Sys2Proof.Machine.execResetFunction x1 x2 s
  | .resetDevice x1 x2 => Sys2Proof.Machine.execResetDevice x1 x2 s
  | .resetLodge x1 x2 => Sys2Proof.Machine.execResetLodge x1 x2 s
  | .devctlRstDevice x1 => Sys2Proof.Machine.execDevctlRstDevice x1 s
  | .devctlRstLodge x1 => Sys2Proof.Machine.execDevctlRstLodge x1 s
  | .functionLevelReset x1 => Sys2Proof.Machine.execFunctionLevelReset x1 s
  | .attach => Sys2Proof.Machine.execAttach s
  | .detach => Sys2Proof.Machine.execDetach s
  | .hbeat => Sys2Proof.Machine.execHbeat s
  | .partcfgWrite x1 => Sys2Proof.Machine.execPartcfgWrite x1 s
  | .registerWrite x1 x2 x3 => Sys2Proof.Machine.execRegisterWrite x1 x2 x3 s
  | .regrcb x1 x2 => Sys2Proof.Machine.execRegrcb x1 x2 s
  | .unrcb x1 x2 => Sys2Proof.Machine.execUnrcb x1 x2 s
  | .unpin x1 x2 => Sys2Proof.Machine.execUnpin x1 x2 s
  | .histrd x1 x2 => Sys2Proof.Machine.execHistrd x1 x2 s
  | .histclr x1 x2 => Sys2Proof.Machine.execHistclr x1 x2 s
  | .retire x1 x2 => Sys2Proof.Machine.execRetire x1 x2 s
  | .quote x1 x2 => Sys2Proof.Machine.execQuote x1 x2 s
  | .idcert x1 x2 => Sys2Proof.Machine.execIdcert x1 x2 s
  | .fwload x1 x2 => Sys2Proof.Machine.execFwload x1 x2 s
  | .extend x1 x2 => Sys2Proof.Machine.execExtend x1 x2 s
  | .dbgw x1 x2 => Sys2Proof.Machine.execDbgw x1 x2 s
  | .dbgin x1 x2 => Sys2Proof.Machine.execDbgin x1 x2 s
  | .dbgout x1 x2 => Sys2Proof.Machine.execDbgout x1 x2 s
  | .powerOn x1 => Sys2Proof.Machine.execPowerOn x1 s
  | .startOverrun x1 => Sys2Proof.Machine.execStartOverrun x1 s
  | .thermalTrip x1 => Sys2Proof.Machine.execThermalTrip x1 s
  | .lodgePowerRemoval => Sys2Proof.Machine.execLodgePowerRemoval s
  | .transitPacket x1 x2 => Sys2Proof.Machine.execTransitPacket x1 x2 s
  | .read x1 => Sys2Proof.Machine.execRead x1 s
  | .write x1 => Sys2Proof.Machine.execWrite x1 s
  | .atomic x1 => Sys2Proof.Machine.execAtomic x1 s
  | .signal x1 => Sys2Proof.Machine.execSignal x1 s
  | .reply x1 => Sys2Proof.Machine.execReply x1 s
  | .absent x1 => Sys2Proof.Machine.execAbsent x1 s
  | .withdraw x1 => Sys2Proof.Machine.execWithdraw x1 s
  | .endpointReply x1 => Sys2Proof.Machine.execEndpointReply x1 s
  | .resendTimer x1 => Sys2Proof.Machine.execResendTimer x1 s
  | .linkDown x1 => Sys2Proof.Machine.execLinkDown x1 s
  | .heartbeatTimeout => Sys2Proof.Machine.execHeartbeatTimeout s
  | .drainComplete => Sys2Proof.Machine.execDrainComplete s
  | .gangLaunch x1 => Sys2Proof.Machine.execGangLaunch x1 s
  | .gangAck x1 => Sys2Proof.Machine.execGangAck x1 s
  | .gangAbort x1 => Sys2Proof.Machine.execGangAbort x1 s
  | .gangWindowClose x1 => Sys2Proof.Machine.execGangWindowClose x1 s
  | .grant x1 => Sys2Proof.Machine.execGrant x1 s
  | .msg x1 => Sys2Proof.Machine.execMsg x1 s
  | .activeSetEntry x1 => Sys2Proof.Machine.execActiveSetEntry x1 s
  | .watchdogFire x1 x2 => Sys2Proof.Machine.execWatchdogFire x1 x2 s
  | .rcvDeadline x1 x2 => Sys2Proof.Machine.execRcvDeadline x1 x2 s
  | .resultReturn x1 x2 x3 x4 => Sys2Proof.Machine.execResultReturn x1 x2 x3 x4 s
  | .replyTrap x1 x2 x3 => Sys2Proof.Machine.execReplyTrap x1 x2 x3 s
  | .hk3Event x1 x2 => Sys2Proof.Machine.execHk3Event x1 x2 s
  | .hk3Restart x1 x2 => Sys2Proof.Machine.execHk3Restart x1 x2 s
  | .restartCountExpiry x1 x2 => Sys2Proof.Machine.execRestartCountExpiry x1 x2 s
  | .preemptRequest x1 x2 => Sys2Proof.Machine.execPreemptRequest x1 x2 s
  | .preemptStop x1 x2 => Sys2Proof.Machine.execPreemptStop x1 x2 s
  | .preemptSave x1 x2 => Sys2Proof.Machine.execPreemptSave x1 x2 s
  | .preemptResume x1 x2 x3 => Sys2Proof.Machine.execPreemptResume x1 x2 x3 s
  | .workgroupDispatch x1 x2 => Sys2Proof.Machine.execWorkgroupDispatch x1 x2 s
  | .leaseDispatch x1 x2 => Sys2Proof.Machine.execLeaseDispatch x1 x2 s
  | .warpSlotFree x1 x2 => Sys2Proof.Machine.execWarpSlotFree x1 x2 s
  | .governorWindow x1 => Sys2Proof.Machine.execGovernorWindow x1 s
  | .histogramWrite => Sys2Proof.Machine.execHistogramWrite s
  | .taggedWordArrival x1 => Sys2Proof.Machine.execTaggedWordArrival x1 s
  | .taggedWordResend x1 => Sys2Proof.Machine.execTaggedWordResend x1 s
  | .onDemandFill x1 x2 x3 => Sys2Proof.Machine.execOnDemandFill x1 x2 x3 s
  | .pageMove x1 x2 x3 => Sys2Proof.Machine.execPageMove x1 x2 x3 s
  | .tableResize x1 x2 x3 x4 => Sys2Proof.Machine.execTableResize x1 x2 x3 x4 s
  | .copyCommandStart x1 x2 => Sys2Proof.Machine.execCopyCommandStart x1 x2 s
  | .engineBurst x1 x2 => Sys2Proof.Machine.execEngineBurst x1 x2 s
  | .chainRecord x1 x2 => Sys2Proof.Machine.execChainRecord x1 x2 s
  | .copyFaultAnswer x1 x2 => Sys2Proof.Machine.execCopyFaultAnswer x1 x2 s
  | .copyComplete x1 x2 => Sys2Proof.Machine.execCopyComplete x1 x2 s
  | .collStart x1 x2 => Sys2Proof.Machine.execCollStart x1 x2 s
  | .collTimeout x1 x2 => Sys2Proof.Machine.execCollTimeout x1 x2 s
  | .collComplete x1 x2 => Sys2Proof.Machine.execCollComplete x1 x2 s
  | .batchClose x1 x2 => Sys2Proof.Machine.execBatchClose x1 x2 s
  | .gridAccept x1 => Sys2Proof.Machine.execGridAccept x1 s
  | .glogAppend x1 => Sys2Proof.Machine.execGlogAppend x1 s
  | .weltFold x1 => Sys2Proof.Machine.execWeltFold x1 s
  | .laserReady x1 => Sys2Proof.Machine.execLaserReady x1 s
  | .lockComplete x1 => Sys2Proof.Machine.execLockComplete x1 s
  | .lockTimeout x1 => Sys2Proof.Machine.execLockTimeout x1 s
  | .handshake x1 x2 x3 x4 => Sys2Proof.Machine.execHandshake x1 x2 x3 x4 s
  | .lossOfLight x1 => Sys2Proof.Machine.execLossOfLight x1 s
  | .lightArrival x1 x2 => Sys2Proof.Machine.execLightArrival x1 x2 s
  | .rotationStart x1 x2 => Sys2Proof.Machine.execRotationStart x1 x2 s
  | .slotBoundary x1 => Sys2Proof.Machine.execSlotBoundary x1 s
  | .windowOpen x1 => Sys2Proof.Machine.execWindowOpen x1 s
  | .windowClose x1 => Sys2Proof.Machine.execWindowClose x1 s
  | .frameReceive x1 x2 => Sys2Proof.Machine.execFrameReceive x1 x2 s
  | .cwaitTimeout x1 => Sys2Proof.Machine.execCwaitTimeout x1 s
  | .wevEvent x1 => Sys2Proof.Machine.execWevEvent x1 s
  | .wevTimeout x1 => Sys2Proof.Machine.execWevTimeout x1 s
  | .illegalWord x1 => Sys2Proof.Machine.execIllegalWord x1 s
  | .instructionFetch x1 => Sys2Proof.Machine.execInstructionFetch x1 s
  | .linkUp x1 => Sys2Proof.Machine.execLinkUp x1 s
  | .powerFail => Sys2Proof.Machine.execPowerFail s
  | .accessAcknowledge x1 x2 x3 => Sys2Proof.Machine.execAccessAcknowledge x1 x2 x3 s

end Sys2Proof.Machine
end

