-- ==== Sys2Proof/Machine/Sched.lean ====
section
/-! DEFINITION. What moves next, and what a core's cycle does beside its word: fetching and issuing a word of a bundle, ages, demotion, the
reasons to leave the active set, and the events that the machine's own controllers make due (R27, R39, R75 to R78, R82, R83, R88, R111,
R192, R348, R401). The order in which agents move is assumption 2. -/

namespace Sys2Proof.Machine
open Sys2Proof

/-! ## One word of a bundle (R39, R76, R111) -/

/-- R111: the threads of a bundle whose fetch reaches an on-demand page park at it; at a later word of a prefixed group their PC stays at the
group's first word (R39, assumption 42). -/
def State.parkFetch (s : State) (part : Nat) (va : DWord) : State :=
  ((s.cur.threads.foldl (fun s t => s.updThread t (fun th => { th with park := .page va })) s).notify part va).endWord

/-- R111: a word on another device is asked for; the threads issue when it has come. -/
def State.askFetch (s : State) (part : Nat) (dev : BitVec 12) (va : Nat) : State :=
  (s.request (.fetch s.cur.core part s.cur.pc) 1 0 dev (BitVec.ofNat 64 va) (.read 4 .plain)).endWord

/-- A FETCHED WORD ISSUES: it is decoded and executed, or is reserved (R58). -/
def State.runFetched (s : State) (w : Word) : Host.Outcome State Fault Refusal :=
  match decodeSimt w with
  | .ok i => exec i s
  | .error _ => execIllegalWord w s

/-- The word at the bundle's current address issues for its threads. -/
def State.runWord (s : State) : Host.Outcome State Fault Refusal :=
  match s.cur.threads with
  | [] => .next s.endWord
  | t :: _ =>
    let core := s.cur.core
    let part := (s.warpOfThread t).part
    match s.fetchAt core part s.cur.pc with
    | .word w => State.runFetched { s.noteFetch core part s.cur.pc w with cur := { s.cur with word := w } } w
    | .trap c => execInstructionFetch c s
    | .page va => .next (s.parkFetch part va)
    | .away dev va => .next (s.askFetch part dev va)

/-! ## A core's cycle -/

/-- R88: the age of a live thread after a cycle. -/
def State.ageAfter (s : State) (t : Nat) (issued : Bool) : Nat :=
  let th := s.thread t
  let w := s.warpOfThread t
  if issued then 0 else if th.h || w.held || s.halted t || s.stopping w then th.age else th.age + 1

/-- The threads of a core age by one cycle, those that issued start at 0. -/
def State.ageThreads (s : State) (core : Nat) (issued : List Nat) : State :=
  { s with thr := s.thr.map (fun (e : Nat × Thread) =>
      if coreOfThread e.1 == core && e.2.live then (e.1, { e.2 with age := s.ageAfter e.1 (issued.contains e.1) }) else e) }

/-- R78: demotions of threads outside a bundle end when a bundle of their pool has issued. -/
def State.undemote (s : State) (core : Nat) (pool : Nat × Nat) (bundle issued : List Nat) (before : State) : State :=
  if issued.isEmpty then s
  else
    { s with thr := s.thr.map (fun (e : Nat × Thread) =>
        if coreOfThread e.1 == core && !bundle.contains e.1 && (before.thread e.1).dm && before.poolOf e.1 == pool &&
            (before.coreAt core).active.any (fun a => a.1 == slotOf (warpOf e.1))
        then (e.1, { e.2 with dm := false }) else e) }

/-- A warp of a core after a cycle: HK3's quiet count (R401), starving, and qualification (R83): by what held as the cycle began, or at once
by a YIELD or SWAP of the cycle. A YIELD's qualification lasts until the warp issues again (assumption 42). -/
def State.warpAfter (s : State) (core key : Nat) (w : Warp) (before : State) (ready issued : List Nat) : Warp :=
  let active := (s.coreAt core).active.any (fun e => e.1 == slotOf key)
  let ran := issued.any (fun t => warpOf t == key)
  let now := match w.leaveNow with | some c => if c = s.cycleOf core || !ran then some c else none | none => none
  { w with
    quiet := if w.restarts = 0 && !w.held then w.quiet else w.quiet + 1
    starved := if active && !ran && ready.any (fun t => warpOf t == key) then w.starved + 1 else 0
    leaveNow := if active then now else none
    leaveAt :=
      if active && (before.idleWarp key || now.isSome || s.swappedOut key) then some (w.leaveAt.getD (s.cycleOf core)) else none }

/-- The warps of a core after a cycle; those without live threads leave the active set (R83). -/
def State.tickWarps (s : State) (core : Nat) (before : State) (ready issued : List Nat) : State :=
  let s1 := { s with warps := s.warps.map (fun (e : Nat × Warp) =>
    if coreOf e.1 == core && e.2.used then (e.1, s.warpAfter core e.1 e.2 before ready issued) else e) }
  s1.updCore core (fun c => { c with active := c.active.filter (fun e => !(s1.liveThreads (warpKey core e.1)).isEmpty) })

/-- The warps that a core holds. -/
def State.warpsOn (s : State) (core : Nat) : List Nat := (s.warps.filter (fun e => coreOf e.1 == core && e.2.used)).map Prod.fst

/-- What is due in a cycle whatever issues in it: RCV deadlines, after the cycle's arrivals (R104), and watchdogs (R89). -/
def State.dueInCycle (s : State) (core : Nat) : State :=
  (s.warpsOn core).foldl State.fireWatchdog ((s.warpsOn core).foldl State.releaseDue s)

/-- The core's cycle count rises, and STALL when the governor held a word in the cycle (R27, R192). -/
def Core.nextCycle (c : Core) (held : Bool) : Core := { c with cycle := c.cycle + 1, stall := if held then c.stall + 1 else c.stall }

/-- THE END OF A CYCLE of a core in which the threads `issued` of a bundle have issued: demotions end, ages grow, an entry into the active
set starts (R82, R83), deadlines and watchdogs act, and the next cycle starts, with the governor's window when it is due. -/
def State.endCycle (s : State) (core : Nat) (before : State) (bundle issued ready : List Nat) (held : Bool) : State :=
  let s1 := match bundle with | [] => s | t :: _ => s.undemote core (before.poolOf t) bundle issued before
  let s2 := (s1.ageThreads core issued).tickWarps core before ready issued
  let s3 := ((s2.enterSet core (before.entering core)).getD s2).dueInCycle core
  (s3.updCore core (fun c => c.nextCycle held)).startWindow core

/-- R78: in a bundle of several threads no earlier demotion of theirs outlasts the cycle. -/
def State.freshBundle (s : State) : State :=
  match s.cur.threads with
  | _ :: _ :: _ => s.cur.threads.foldl (fun s t => s.updThread t (fun th => { th with dm := false })) s
  | _ => s

/-- ONE CYCLE OF A CORE IN WHICH THE CURRENT BUNDLE'S NEXT WORD ISSUES: a thread that the word leaves as it was has not issued it; one that
parks because its fetch reaches an on-demand page has (assumption 42). -/
def State.issueCycle (s : State) (held : Bool) : Host.Outcome State Fault Refusal :=
  let core := s.cur.core
  let bundle := s.cur.threads
  let s0 := s.freshBundle
  match s0.runWord with
  | .next t =>
    let issued := bundle.filter (fun u => t.thread u != s0.thread u || t.cur.threads.contains u)
    .next (t.endCycle core s bundle issued (s.ready core) held)
  | r => r

/-- A bundle starts to issue (R75). -/
def State.startBundle (s : State) (core : Nat) (b : Bundle) : State :=
  let pool := match b.threads core with | [] => (0, 0) | t :: _ => s.poolOf t
  { s.updCore core (fun c => { c with lastPool := some (pool.1, pool.2, s.poolSlot core pool) }) with
    cur := { core := core, pc0 := b.pc, pc := b.pc, mem := b.mem } }

/-- Something on a core takes time: a warp in a slot, or a launch batch that it opened. -/
def State.coreAlive (s : State) (core : Nat) : Bool :=
  s.warps.any (fun e => coreOf e.1 == core && e.2.used) ||
  s.batches.any (fun e => e.2.any (fun b => b.isOpen && b.core == core))

/-- A CORE'S TURN: one cycle, with a bundle or idle. None in HOLD (R433), when the device does not run, or when nothing is on the core. -/
def State.coreTurn (s : State) (core : Nat) : Option (Host.Outcome State Fault Refusal) :=
  if !s.running || !s.coreAlive core then none
  else
    match s.choose core 64 (s.ready core) with
    | (some b, held) => some ((s.startBundle core b).issueCycle held)
    | (none, held) => some (.next (s.endCycle core s [] [] (s.ready core) held))

/-! ## The circuit processor (R348) -/

/-- R348: the next context in RUN after the one that issued last. -/
def State.nextContext (s : State) : Option Nat :=
  ((List.range 8).map (fun i => (s.cp.last + 1 + i) % 8)).find? (fun k => (s.cx k).st == 1)

/-- The word of the script store at a byte address. -/
def State.storeWord (s : State) (pc : Nat) : Word := BitVec.ofNat 32 (leNat ((List.range 4).map (fun i => Tab.get 0 s.cp.store (pc + i))))

/-- A context's PC lies on a word of its script's section (R69, R337). -/
def Context.pcOk (c : Context) : Bool := decide (c.sec.1 ≤ c.pc) && decide (c.pc + 4 ≤ c.sec.2) && c.pc % 4 == 0

/-- A word of a context issues. -/
def State.runCircuit (s : State) (k : Nat) : Host.Outcome State Fault Refusal :=
  let s1 := { s with cp := { s.cp with last := k } }
  if !(s.cx k).pcOk then .next (s1.faultContext k 4)
  else
    let w := s.storeWord (s.cx k).pc
    match decodeCircuit w with
    | .ok i => exec i s1
    | .error _ => execIllegalWord w s1

/-- R433: the circuit processor runs while the compute side is up, in HOLD too, where only the cores' clocks stop and the engines pause. -/
def State.circuitsRun (s : State) : Bool := s.isUp && decide (s.dev.pst ≤ 2)

/-- THE CIRCUIT PROCESSOR'S TURN. -/
def State.circuitTurn (s : State) : Option (Host.Outcome State Fault Refusal) :=
  if !s.circuitsRun then none else s.nextContext.map s.runCircuit

/-! ## What the controllers have to do -/

/-- What an event does: the meaning of the event's row of the opcode table, at the operands it is due with. -/
abbrev Due := State → Host.Outcome State Fault Refusal

/-- Events of threads. -/
def State.threadEvents (s : State) : List Due :=
  s.thr.flatMap (fun e =>
    let c := Fin.ofNat 1024 (coreOfThread e.1)
    let w := Fin.ofNat 64 (slotOf (warpOf e.1))
    let l := Fin.ofNat 32 (laneOf e.1)
    (if (e.2.known (s.cycleOf (coreOfThread e.1))).isEmpty then [] else [execResultReturn c w l 0]) ++
    (if e.2.acks.any (fun a => a.ready) then [execAccessAcknowledge c w l] else []) ++
    (if e.2.heldTraps.isEmpty then [] else [execReplyTrap c w l]))

/-- Events of warps. -/
def State.warpEvents (s : State) : List Due :=
  (s.warps.filter (fun e => e.2.used)).flatMap (fun e =>
    let c := Fin.ofNat 1024 (coreOf e.1)
    let w := Fin.ofNat 64 (slotOf e.1)
    (if e.2.held then [if e.2.hkRestart then execHk3Restart c w else execHk3Event c w] else []) ++
    (if e.2.restarts != 0 && decide (2 ^ 24 ≤ e.2.quiet) then [execRestartCountExpiry c w] else []) ++
    (if s.slotDone e.1 then [execWarpSlotFree c w] else []))

/-- Events of the tag units, the launch aggregators and the Welt engines. -/
def State.unitEvents (s : State) : List Due :=
  (if s.tagWaits.any (fun w => w.phase == 0) then [execTaggedWordArrival 0] else []) ++
  (if s.tagWaits.any (fun w => w.phase == 2) then [execTaggedWordResend 0] else []) ++
  s.batches.flatMap (fun e => execGridAccept (Fin.ofNat 8 e.1) :: (List.range e.2.length).map (fun k => execBatchClose (Fin.ofNat 8 e.1) k)) ++
  (s.welt.filter (fun e => !e.2.q.isEmpty)).flatMap (fun e => [execGlogAppend (Fin.ofNat 8 e.1), execWeltFold (Fin.ofNat 8 e.1)])

/-- Events of the copy and collective engines. -/
def State.engineEvents (s : State) : List Due :=
  s.copy.flatMap (fun e => (e.2.q.filter (fun q => !q.2.isEmpty)).flatMap (fun q =>
    let n := Fin.ofNat 32 e.1
    let k := Fin.ofNat 8 q.1
    [execCopyComplete n k, execCopyFaultAnswer (Fin.ofNat 34 e.1) k, execCopyCommandStart n k, execChainRecord n k, execEngineBurst (Fin.ofNat 34 e.1) k])) ++
  s.coll.flatMap (fun e => (e.2.q.filter (fun q => !q.2.isEmpty)).flatMap (fun q =>
    let n := Fin.ofNat 2 e.1
    let k := Fin.ofNat 8 q.1
    [execCollComplete n k, execCopyFaultAnswer (Fin.ofNat 34 (32 + e.1)) k, execCollStart n k, execEngineBurst (Fin.ofNat 34 (32 + e.1)) k]))

/-- The event that a packet for this device is. -/
def packetEvent (p : Packet) : Due :=
  match p.type.toNat with
  | 0 => execRead p
  | 1 => execReply p
  | 2 => execWrite p
  | 3 => execAtomic p
  | 4 => execSignal p
  | 5 => if p.addr.extractLsb' 60 4 == 2 then execGrant p else execMsg p
  | 6 => if gangKind p.addr = 0 then execGangLaunch p else if gangKind p.addr = 1 then execGangAck p else execGangAbort p
  | 7 => execAbsent p
  | _ => execWithdraw p

/-- The endpoint takes a packet: replies always (R299), everything else while the open table has a place (R305), so that packets of one source and
tier keep their order (R296). -/
def State.takes (s : State) (p : Packet) : Bool := p.type == 1 || p.type == 7 || s.canDeliver

/-- Events of the Lodge: answers that are ready, requests to send again, packets that this device sends to itself, and the end of a drain. -/
def State.lodgeEvents (s : State) : List Due :=
  (if s.lodge.opens.any (fun o => o.ans.isSome) then [execEndpointReply 0] else []) ++
  (if s.lodge.outs.any (fun r => r.phase == 2) then [execResendTimer 0] else []) ++
  (match s.lodge.wire.find? (fun e => e.1 == 6 && e.2.dst == s.devId && s.takes e.2) with | some e => [packetEvent e.2] | none => []) ++
  (if s.lodge.epst == 2 then [execDrainComplete] else [])

/-- The event that a host command is. -/
def commandEvent (n : Fin 64) (cmd : BitVec 512) : Due :=
  match cmdCode cmd with
  | 2 => execCopy n cmd
  | 3 => execCircuit n cmd
  | 4 => execTokenWait n cmd
  | 5 => execTokenSignal n cmd
  | 6 => execTaperun n cmd
  | 7 => execFoldWait n cmd
  | 8 => execQueueFence n cmd
  | 9 => if cmdField cmd 8 1 % 2 = 1 then execCheckpointRestore n cmd else execCheckpointSave n cmd
  | 10 =>
    (match cmdField cmd 8 1 with
     | 1 => execPstateTrim n cmd
     | 2 => execPstateHold n cmd
     | 3 => execPstateRetain n cmd
     | 4 => execPstateOff n cmd
     | _ => execPstateRun n cmd)
  | 11 =>
    (match cmdField cmd 8 1 with
     | 2 => execResetEngine n cmd
     | 3 => execResetPartition n cmd
     | 4 => execResetDie n cmd
     | 5 => execResetFunction n cmd
     | 6 => execResetDevice n cmd
     | 7 => execResetLodge n cmd
     | _ => execResetQueue n cmd)
  | _ => execLaunch n cmd

/-- HK0's next command of a ring, or its read of that command. -/
def State.commandDue (s : State) (k : Nat) (n : Fin 64) : Due :=
  match s.commandRead k with
  | .wait => fun s => .next (s.askCommand k)
  | _ => commandEvent n (s.nextCommand k)

/-- Events of the rings: posted commands and tape runs. -/
def State.ringEvents (s : State) : List Due :=
  s.rings.flatMap (fun e =>
    let n := Fin.ofNat 64 e.1
    (if e.2.en && e.2.next != e.2.tail then [s.commandDue e.1 n] else []) ++
    (if e.2.act.any (fun a => match a.wait with | .tape .. => true | _ => false) then [execTapeLaunch n] else []))

/-- Events of gangs: a LAUNCH that HK1 has not taken up, and windows that close (R325, R326); and the steps of a checkpoint (R438). -/
def State.gangEvents (s : State) : List Due :=
  (if s.gangsIn.isEmpty then [] else [fun s => .next s.takeGang]) ++ (if s.dev.ckpt.isSome then [fun s => .next s.ckptStep] else []) ++
  (s.gangs.filter (fun g => decide (g.win ≤ g.elapsed))).map (fun g => execGangWindowClose (BitVec.ofNat 32 g.seq))

/-- Events of HK1: the dispatch of launches and what pre-emption does. -/
def State.placeEvents (s : State) : List Due :=
  (s.launches.filter Launch.waiting).flatMap (fun l =>
    (match (s.coresOf l.part).find? (fun c => (s.coreAt c).leases.any (fun r => r.2.1 == l.lid)) with
     | some c => [execLeaseDispatch l.lid (Fin.ofNat 1024 c)]
     | none => []) ++
    (if s.isNext l then
      (match (s.coresOf l.part).find? (fun c => (s.spot c l).isSome) with
       | some c => [execWorkgroupDispatch l.lid (Fin.ofNat 1024 c)]
       | none => [])
     else [])) ++
  s.wgs.flatMap (fun w =>
    match w.st with
    | .running => if (s.victim (s.partOf w)).any (fun v => v.lid == w.lid && v.g == w.g) then [execPreemptRequest w.lid w.g] else []
    | .asked _ => [execPreemptStop w.lid w.g]
    | .stopped => [execPreemptSave w.lid w.g]
    | .saved a =>
      if s.nextSaved (s.partOf w) w then
        (match (s.coresOf (s.partOf w)).find? (fun c => s.canResume c w (s.slotBits (s.partOf w) a)) with
         | some c => [execPreemptResume w.lid w.g (Fin.ofNat 1024 c)]
         | none => [])
      else [])

/-- Events of contexts: what a WEV waits for. -/
def State.contextEvents (s : State) : List Due :=
  ((List.range 8).filter (fun k => match (s.cx k).wait with | .wev .. => true | _ => false)).map (fun k => execWevEvent (Fin.ofNat 8 k))

/-- The events that the machine's own units and controllers may have to make. -/
def State.internalEvents (s : State) : List Due :=
  s.threadEvents ++ s.warpEvents ++ s.unitEvents ++ s.engineEvents ++ s.lodgeEvents ++ s.ringEvents ++ s.gangEvents ++ s.placeEvents ++ s.contextEvents

/-- An event does something in a state. -/
def State.acts (s : State) (a : Due) : Bool := match a s with | .next t => t != s | _ => true

/-- A list from its element `k` on, and then the elements before it. -/
def rotated {A : Type} (l : List A) (k : Nat) : List A := l.drop (k % l.length) ++ l.take (k % l.length)

/-- THE CONTROLLERS' TURN: the end of a start or reset, the next reset, a mailbox function that waited, or the first event that does something. -/
def State.internalTurn (s : State) : Option (Host.Outcome State Fault Refusal) :=
  if s.dev.starting.isSome then some (.next s.startEnd)
  else if s.dev.resetting then some (.next s.resetEnd)
  else if !s.dev.resets.isEmpty then some (.next s.resetStart)
  else if s.mbReady then some (.next s.mbResume)
  else ((rotated s.internalEvents s.turn).find? s.acts).map (fun a => a s)

/-! ## Turns -/

/-- The cores on which something takes time, from the one whose turn it is. -/
def State.aliveCores (s : State) : List Nat :=
  rotated (((s.warps.filter (fun e => e.2.used)).map (fun e => coreOf e.1) ++ s.batches.flatMap (fun e => e.2.map (fun b => b.core))).eraseDups) s.focus

/-- The first core in turn that moves. -/
def State.coresTurn (s : State) : Option (Host.Outcome State Fault Refusal) := s.aliveCores.findSome? s.coreTurn

/-- What moves when the environment asks for nothing: cores, circuit processor and controllers take turns; whoever has nothing to do is
passed over. -/
def State.ownMove (s : State) : Host.Outcome State Fault Refusal :=
  let s0 := if s.turn % 3 = 2 then s.hkCycle else s
  let s1 := { s0 with turn := s.turn + 1, focus := if s.turn % 3 = 0 then s.focus + 1 else s.focus }
  let order := match s.turn % 3 with
    | 0 => [s1.coresTurn, s1.circuitTurn, s1.internalTurn]
    | 1 => [s1.circuitTurn, s1.internalTurn, s1.coresTurn]
    | _ => [s1.internalTurn, s1.coresTurn, s1.circuitTurn]
  match order.findSome? (fun x => x) with
  | some r => r
  | none => .next s1

/-- An instruction is an event that the environment may make: no word, not what a fetched word turns into, and not what a core does in each of
its cycles. -/
def isEvent (i : Instr) : Bool :=
  match i with
  | .illegalWord _ => false
  | .instructionFetch _ => false
  | .activeSetEntry _ => false
  | .governorWindow _ => false
  | .watchdogFire .. => false
  | .rcvDeadline .. => false
  | i => (encode i).isNone

/-! ## Triggers of ports in one cycle (R333) -/

/-- What an event makes of the machine. -/
def State.after (s : State) (r : Host.Outcome State Fault Refusal) : State := match r with | .next t => t | _ => s

/-- R333: the place in the list of an event that is a trigger of ports, with those ports. -/
def State.triggerOf (s : State) (i : Instr) : Option (Nat × List Nat) :=
  match i with
  | .lossOfLight p => some (2, [p.val])
  | .lockTimeout p => some (3, [p.val])
  | .slotBoundary k => some (4, s.rotationPorts k.val)
  | .handshake p d q sq =>
    some (if (s.optPort p.val).peer.any (fun x => x.1 == d && x.2.1 == q) && sq.toNat == s.portSseq p.val then 5 else 3, [p.val])
  | .lockComplete p => some (5, [p.val])
  | _ => none

/-- The ports whose state a change has moved. -/
def portsMoved (s t : State) : List Nat := (List.range 16).filter (fun p => (s.optPort p).st != (t.optPort p).st)

/-- Some ports keep the states that they have, whatever a change makes of them (R333). -/
def State.keepPorts (s : State) (ports : List Nat) (t : State) : State :=
  ports.foldl (fun t p => t.updPort p (fun x => { x with st := (s.optPort p).st, window := (s.optPort p).window })) t

/-- One place of R333's list: its triggers are applied, but for ports that an earlier one has moved; the ports it has moved join them. -/
def State.applyTriggers (a : State × List Nat) (is : List Instr) (rank : Nat) : State × List Nat :=
  let here := is.filter (fun i => (a.1.triggerOf i).any (fun x => x.1 == rank && (rank == 4 || x.2.all (fun p => !a.2.contains p))))
  here.foldl (fun b i =>
    let t := b.1.after (exec i b.1)
    (b.1.keepPorts a.2 t, b.2 ++ (if rank = 4 then ((b.1.triggerOf i).map (fun x => x.2)).getD [] else portsMoved b.1 t))) a

/-- R333: TRIGGERS OF ONE CYCLE of the circuit processor: of those for one port the one that comes first in the list is applied and the others are
discarded. A word of the cycle that turns ports DARK (PORT.OFF, a halt or a fault) comes first, any other (CREL, PORT.CLR) last. -/
def State.together (s : State) (word : Bool) (is : List Instr) : State :=
  let issue := fun (s : State) => if word then (match s.circuitTurn with | some r => s.after r | none => s) else s
  let first := issue s
  let dark := (portsMoved s first).filter (fun p => (first.optPort p).st == 0)
  let r := [2, 3, 4, 5].foldl (fun a rank => State.applyTriggers a is rank) (if dark.isEmpty then s else first, dark)
  if dark.isEmpty then r.1.keepPorts r.2 (issue r.1) else r.1

/-- What the environment asks for happens. -/
def State.inputMove (s : State) (x : Input) : Host.Outcome State Fault Refusal :=
  let go := fun (r : Option (Host.Outcome State Fault Refusal)) => match r with | some o => o | none => .next s
  match x with
  | .event i => if isEvent i then exec i s else .next s
  | .core c => go (s.coreTurn c)
  | .circuit => go s.circuitTurn
  | .tick => .next s.hkCycle
  | .together w is => .next (s.together w is)

/-- ONE MOVE: the next word of a group that is issuing (R39), what the environment asks for, or what is due. -/
def State.move (s : State) : Host.Outcome State Fault Refusal :=
  if !s.cur.mem.isEmpty then s.issueCycle false
  else
    match s.inputs with
    | x :: xs => { s with inputs := xs }.inputMove x
    | [] => s.ownMove

/-- What follows a move: what is due at once, and the fault of an access to memory that does not exist. -/
def finishMove (r : Host.Outcome State Fault Refusal) : Host.Outcome State Fault Refusal :=
  match r with
  | .next t => let u := t.wrapUp; if u.hole then .fault .noSuchMemory else .next u
  | r => r

/-! ## A word placed where the next step fetches it -/

/-- A page-table entry that maps a 64 KiB page of the global window, with every permission, to die 0's stacked DRAM. -/
def fetchPte (va : Nat) : BitVec 128 := BitVec.ofNat 128 (1 + 2 + 8 + 16 + 32 + va / 65536 * 2 ^ 88)

/-- A SIMT word stands at address 0 of the global window, mapped to die 0's stacked DRAM, and one thread of one warp in the active set is there. -/
def State.withSimtWord (s : State) (w : Nat) : State :=
  let d : Desc := { on := 8 }
  let s1 := (s.updPart 0 (fun p => { p with desc := Tab.put Desc.init p.desc 0 d })).storeNat (Home.outer (d.entryAt 0 0)).key 16 (fetchPte 0).toNat
  let s2 := (s1.storeNat (Home.stacked 0 0).key 4 w).updWarp (warpKey 0 0) (fun _ => { used := true, lid := 1, nwg := 1, allot := 64 })
  let s3 := (s2.updThread 0 (fun _ => { live := true })).updCore 0 (fun c => { c with active := [(0, c.cycle)], pending := [], busy := [] })
  { s3 with cur := Issue.none, inputs := [], turn := 0, focus := 0 }

/-- A circuit word stands at address 0 of the script store, and context 0 runs there. -/
def State.withCircuitWord (s : State) (w : Nat) : State :=
  let store := ((List.range 4).zip (leBytes 4 w)).foldl (fun t e => Tab.put 0 t e.1 e.2) s.cp.store
  let s1 := { s with cp := { s.cp with store := store, sections := [(0, 65536)], last := 7 } }
  let s2 := s1.updCx 0 (fun _ => { st := 1, sec := (0, 65536) })
  { s2 with cur := Issue.none, inputs := [], turn := 1, focus := 0 }

end Sys2Proof.Machine
end

