-- ==== Sys2Proof/Machine/Step.lean ====
section
/-! DEFINITION. One step of the machine, and an instruction placed where the next step fetches it. -/

namespace Sys2Proof.Machine
open Sys2Proof

/-- ONE STEP: one move of one agent, and what follows it. -/
def step (s : State) : Host.Outcome State Fault Refusal := finishMove s.move

/-- The state with a word of `nbits` bits placed where the next step fetches its instruction. -/
def State.withFetchWord (s : State) (nbits w : Nat) : State :=
  if tableSpaceIsSimt (BitVec.ofNat 32 (w % 2 ^ nbits)) then s.withSimtWord (w % 2 ^ nbits) else s.withCircuitWord (w % 2 ^ nbits)

end Sys2Proof.Machine
end

