-- ==== Sys2Proof/Safety.lean ====
section
/-! DEFINITION. What counts as a safe run. -/

namespace Sys2Proof.Machine
open Sys2Proof

/-- A STEP IS SAFE when it answers a next state: no access reached memory that does not exist, and nothing was refused. -/
def safeStep (s : State) : Prop := ∃ t, step s = .next t

/-- The state after `n` steps, if every one of them answers a next state. -/
def run (s : State) : Nat → Option State
  | 0 => some s
  | n + 1 => match step s with | .next t => run t n | _ => none

/-- A RUN OF `n` STEPS IS SAFE when each of its steps is. -/
def safeRun (s : State) (n : Nat) : Prop := (run s n).isSome = true

/-! ## When a SIMT word executes -/

/-- THE ISSUING BUNDLE EXECUTES A WORD: it has threads, no two of them the same; the word takes no decode trap under the prefixes gathered
and the bundle's allotment (R58); and no thread of the bundle has a failed store to report (R213). -/
def State.executes (s : State) (i : Instr) : Prop :=
  s.cur.mem.isEmpty = false ∧ s.cur.threads.Nodup ∧ i.decodeCause s.cur.pfx s.bundleAllot = none ∧
  ∀ t ∈ s.cur.threads, (s.thread t).failed = []

/-- A word's guard is true in a thread (R30). -/
def State.guardTrue (s : State) (i : Instr) (t : Nat) : Bool :=
  match i.guard? with | some g => guardHolds g (s.thread t) | none => true

/-- The participants of a word: the bundle's threads whose guard is true (R11). -/
def State.participants (s : State) (i : Instr) : List Nat := s.cur.threads.filter (s.guardTrue i)

/-- The datapaths of the issuing core have no physical fault (R86). -/
def State.soundCore (s : State) : Prop := (s.coreAt s.cur.core).dpFault = []

/-- A thread's warp does not single-step, or the thread is in handler mode (R412). -/
def State.steady (s : State) (t : Nat) : Prop := (s.warpOfThread t).sstep = false ∨ (s.thread t).h = true

/-- A computing word executes on a core whose datapaths have no fault, and the thread is one of its participants. -/
def Runs (s : State) (i : Instr) (t : Nat) : Prop := s.executes i ∧ s.soundCore ∧ t ∈ s.participants i

/-- Executing an instruction answers a next state, and `P` holds of it. -/
def Answers (i : Instr) (s : State) (P : State → Prop) : Prop := ∃ s', exec i s = .next s' ∧ P s'

end Sys2Proof.Machine
end

