-- ==== Sys2Proof/Certificates/Slice0/Obligations.lean ====
section
/-! DEFINITION. The statements about the machine, each from the numbered rules of the manual that its docstring names. -/

open Sys2Proof Sys2Proof.Machine

/-! ## Words and steps (R26, R29 to R37, R39, R58, R349) -/

/-- The guard of an unguarded word, without the park marker. -/
def always : Guard := ⟨false, false, 7⟩
/-- The guard of a word under ?p1. -/
def ifP1 : Guard := ⟨false, false, 1⟩

/-- R95, R120, R154, R167, R443, R449, R453: words that the manual writes out, with the instructions they stand for. -/
def Obligations.WordsOfTheManualDecode : Prop :=
  decodeSimt 0x39044146 = .ok (.add always 1 4 5 6) ∧
  decodeSimt 0x39F830C7 = .ok (.sarImm always 3 3 7) ∧
  decodeSimt 0x3A572209 = .ok (.setp always 1 6 2 8 9) ∧
  decodeSimt 0x3A6A43FF = .ok (.setpi always 5 1 3 0xFF) ∧
  decodeSimt 0x3AC8A2CC = .ok (.shfl always 2 10 11 12) ∧
  decodeSimt 0x38380300 = .ok (.brx always 1 12) ∧
  decodeSimt 0x38500300 = .ok (.callx always 12) ∧
  decodeSimt 0x38900004 = .ok (.rcv always 4) ∧
  decodeSimt 0x3870C005 = .ok (.loop always 3 5) ∧
  decodeSimt 0x3B344146 = .ok (.fma always 1 4 5 6) ∧
  decodeSimt 0x3BD070D4 = .ok (.cvtf always 0 7 3 2 1 0 0) ∧
  decodeSimt 0x3BD0909A = .ok (.cvtf always 0 9 2 3 0 1 0) ∧
  decodeSimt 0x0C005118 = .ok (.mxq ifP1 0 5 4 3 0) ∧
  decodeSimt 0x3FF00340 = .ok (.csrr always 0 13) ∧
  decodeSimt 0x3DCA1000 = .ok (.ld always 5 2 0 0) ∧
  decodeSimt 0x0DD83880 = .ok (.st ifP1 4 7 4 0) ∧
  decodeSimt 0x0FB00080 = .ok (.coll ifP1 0 0 2 0) ∧
  decodeSimt 0x0F81C101 = .ok (.tkwait ifP1 7 1 1) ∧
  decodeSimt 0x38B00000 = .ok (.exit always) ∧
  decodeCircuit 0x49080000 = .ok (.ldc 2 1 0) ∧
  decodeCircuit 0x0C80F000 = .ok (.circuitMovi 9 0 0 0xF000) ∧
  decodeCircuit 0x78280001 = .ok (.portOn 5) ∧
  decodeCircuit 0x639003E8 = .ok (.cwait 7 2 1000) ∧
  decodeCircuit 0x3040000F = .ok (.bne 8 0 15) ∧
  decodeCircuit 0xAEE04000 = .ok (.wev 13 12 0 4 0) ∧
  decodeCircuit 0x682D0000 = .ok (.cbind 5 10) ∧
  decodeCircuit 0x00000001 = .ok (.halt 1)

/-- Every instruction that has a word is read back from it, with every operand at every value, by the decoder of its opcode space. -/
def Obligations.EveryEncodingReadsBack : Prop := ∀ (i : Instr) (w : Word), encode i = some w → i.readBack w = .ok i

/-- A word that a decoder reads as an instruction is that instruction's own encoding: no bit of it is ignored, so no two words stand for
one instruction and every reserved bit is 0 (R37). -/
def Obligations.EveryDecodedWordIsItsEncoding : Prop :=
  (∀ (w : Word) (i : Instr), decodeSimt w = .ok i → encode i = some w ∧ i.isCircuit = false) ∧
  (∀ (w : Word) (i : Instr), decodeCircuit w = .ok i → encode i = some w ∧ i.isCircuit = true)

/-- The bundle's state when its word issues: earlier demotions of several threads end (R78), the word is in the instruction cache (R111)
and is the word that issues. -/
def Sys2Proof.Machine.State.atWord (s : State) (part : Nat) (w : Word) : State :=
  let s1 := s.freshBundle.noteFetch s.cur.core part s.cur.pc w
  { s1 with cur := { s1.cur with word := w } }

/-- The end of the cycle in which the word of a bundle issued, from the bundle's state as the cycle began: a thread that the word leaves as it was,
and that does not stay in the bundle, has not issued it. -/
def Sys2Proof.Machine.State.cycleDone (s u : State) (held : Bool) : State :=
  u.endCycle s.cur.core s s.cur.threads (s.cur.threads.filter (fun v => u.thread v != s.freshBundle.thread v || u.cur.threads.contains v))
    (s.ready s.cur.core) held

/-- A step of a core in whose bundle a word is fetched and decodes runs that instruction, and then the core's cycle ends: at a later word of a
group, and at the first word of a bundle that the core chooses. A step in which a context of the circuit processor is to run, whose PC lies on a
word of its script that decodes, runs that word. Inferences and choices of the model: log entry 2. -/
def Obligations.StepRunsTheDecodedInstruction : Prop :=
  (∀ (s : State) (t : Nat) (ts : List Nat) (w : Word) (i : Instr), s.cur.threads = t :: ts →
    s.fetchAt s.cur.core (s.warpOfThread t).part s.cur.pc = .word w → decodeSimt w = .ok i →
    ∀ u, exec i (s.atWord (s.warpOfThread t).part w) = .next u → step s = finishMove (.next (s.cycleDone u false))) ∧
  (∀ (s : State) (c : Nat) (xs : List Input) (b : Bundle) (held : Bool) (t : Nat) (ts : List Nat) (w : Word) (i : Instr),
    let s0 := { s with inputs := xs }
    let s1 := s0.startBundle c b
    s.cur.mem = [] → s.inputs = .core c :: xs → s0.running = true → s0.coreAlive c = true → s0.choose c 64 (s0.ready c) = (some b, held) →
    s1.cur.threads = t :: ts → s1.fetchAt c (s1.warpOfThread t).part b.pc = .word w → decodeSimt w = .ok i →
    ∀ u, exec i (s1.atWord (s1.warpOfThread t).part w) = .next u → step s = finishMove (.next (s1.cycleDone u held))) ∧
  (∀ (s : State) (k : Nat) (xs : List Input) (i : Instr), s.cur.mem = [] → s.inputs = .circuit :: xs → s.circuitsRun = true →
    s.nextContext = some k → (s.cx k).pcOk = true → decodeCircuit (s.storeWord (s.cx k).pc) = .ok i →
    step s = finishMove (exec i { s with inputs := xs, cp := { s.cp with last := k } }))

/-- No step refuses: it answers a next state in which no absent memory was reached, or the one fault of the model, which says that absent
memory was reached (R17, R200). Inferences and choices of the model: log entry 12. -/
def Obligations.StepAnswersOrReachesAbsentMemory : Prop :=
  ∀ s : State, (∃ t, step s = .next t ∧ t.hole = false) ∨ step s = .fault .noSuchMemory

/-- R8, R44 to R47, R50, R90, R148, R199, R336, R373: what a cold start and the start of a thread leave. Values that no rule gives
(assumption 1) are not named here. The endpoint is ATTACHED by the model's reading of R426: log entry 41. -/
def Obligations.ResetAndInitialValues : Prop :=
  let s := State.reset
  let th := Thread.init
  (∀ k, s.byte k = 0) ∧ (∀ t, (s.thread t).live = false) ∧ s.launches = [] ∧ s.wgs = [] ∧
  (∀ c, (s.coreAt c).cycle = 0 ∧ (s.coreAt c).stall = 0 ∧ (s.coreAt c).govmode = false ∧ (s.coreAt c).whalt = 0 ∧
    (∀ k, Tab.get Watch.init (s.coreAt c).watch k = { addr := 0, mask := 0, part := 0, fdom := 0 })) ∧
  (∀ k, (s.cx k).st = 0) ∧ (∀ p, (s.optPort p).st = 0) ∧ s.cp.reqId = 0 ∧ s.lodge.epst = 1 ∧ s.dev.state = 3 ∧
  (∀ p, (s.part p).rcbs = []) ∧
  (∀ n, th.reg n = 0) ∧ (∀ n, n < 7 → th.pred n = false) ∧ th.pred 7 = true ∧ th.depth = 0 ∧ th.lstk = [] ∧
  th.trcause = 0 ∧ th.trpc = 0 ∧ th.trmask = 0 ∧ th.traddr = 0 ∧ th.trword = 0 ∧ th.idempc = 0 ∧ th.fpflags = 0 ∧ th.fpmode = 0 ∧
  th.h = false ∧ Warp.init.wdoglim = 0x01000000 ∧ Warp.init.sstep = false ∧ Warp.init.lscale = 0

/-- The reset state's memory is in canonical form. -/
def Obligations.ResetMemoryIsCanonical : Prop := Memory.wf State.reset.mem = true

/-- MEMORY STAYS CANONICAL: from every state whose memory is in canonical form (addresses rising, no listed byte equal to what an unlisted
address reads as), a step leads to one whose memory is. -/
def Obligations.EveryStepKeepsMemoryCanonical : Prop :=
  ∀ s t : State, Memory.wf s.mem = true → step s = .next t → Memory.wf t.mem = true

/-! ## Integer words (R116 to R139) -/

/-- R121: the sum and difference of ADD and SUB in each mode, with p6 as the carry and borrow of mode 11. -/
def Obligations.AddAndSubtractInEachMode : Prop :=
  ∀ (g : Guard) (m : BitVec 2) (d a b : BitVec 6) (s : State) (t : Nat),
    let x := (s.thread t).reg a.toNat
    let y := (s.thread t).reg b.toNat
    let c := ((s.thread t).pred 6).toNat
    (Runs s (.add g m d a b) t → Answers (.add g m d a b) s fun s' =>
      let r := (s'.thread t).reg d.toNat
      let c' := (s'.thread t).pred 6
      (m = 0 → r.toNat = (x.toNat + y.toNat) % 2 ^ 32) ∧
      (m = 1 → r.toInt = max (-2147483648) (min 2147483647 (x.toInt + y.toInt))) ∧
      (m = 2 → r.toNat = min (x.toNat + y.toNat) (2 ^ 32 - 1)) ∧
      (m = 3 → r.toNat = (x.toNat + y.toNat + c) % 2 ^ 32 ∧ c' = decide (2 ^ 32 ≤ x.toNat + y.toNat + c)) ∧
      (m ≠ 3 → c' = (s.thread t).pred 6)) ∧
    (Runs s (.sub g m d a b) t → Answers (.sub g m d a b) s fun s' =>
      let r := (s'.thread t).reg d.toNat
      let c' := (s'.thread t).pred 6
      (m = 0 → (r.toNat : Int) = ((x.toNat : Int) - y.toNat) % 2 ^ 32) ∧
      (m = 1 → r.toInt = max (-2147483648) (min 2147483647 (x.toInt - y.toInt))) ∧
      (m = 2 → r.toNat = x.toNat - y.toNat) ∧
      (m = 3 → (r.toNat : Int) = ((x.toNat : Int) - y.toNat - c) % 2 ^ 32 ∧ c' = decide (x.toNat < y.toNat + c)) ∧
      (m ≠ 3 → c' = (s.thread t).pred 6))

/-- The signed immediate of ADDI, with the group's extension (R40). -/
def immediate8 (p : Prefixes) (i : BitVec 8) : Int := match p.ext with | none => i.toInt | some e => (e ++ i).toInt

/-- R122, R123, R135: ADDI and MOVI with their extended immediates, and the word of the exact product plus addend that MUL and MAD give. -/
def clausesAddImmediateMoveImmediateAndMultiply : Prop :=
  ∀ (g : Guard) (m : BitVec 2) (d a b : BitVec 6) (i : BitVec 8) (k : BitVec 14) (s : State) (t : Nat),
    let x := (s.thread t).reg a.toNat
    let y := (s.thread t).reg b.toNat
    let z := (s.thread t).reg d.toNat
    let left := fun (v : Word) => if m = 1 ∨ m = 3 then v.toInt else (v.toNat : Int)
    let right := fun (v : Word) => if m = 1 then v.toInt else (v.toNat : Int)
    let part := fun (f : Int) => if m = 0 then f % 2 ^ 32 else f / 2 ^ 32 % 2 ^ 32
    (Runs s (.addi g d a i) t → Answers (.addi g d a i) s fun s' =>
      (((s'.thread t).reg d.toNat).toNat : Int) = (x.toNat + immediate8 s.cur.pfx i) % 2 ^ 32) ∧
    (Runs s (.movi g d k) t → Answers (.movi g d k) s fun s' =>
      (s'.thread t).reg d.toNat = match s.cur.pfx.ext with | none => k.signExtend 32 | some e => e ++ k) ∧
    (Runs s (.mul g m d a b) t → Answers (.mul g m d a b) s fun s' =>
      (((s'.thread t).reg d.toNat).toNat : Int) = part (left x * right y)) ∧
    (Runs s (.mad g m d a b) t → Answers (.mad g m d a b) s fun s' =>
      (((s'.thread t).reg d.toNat).toNat : Int) = part (left x * right y + left z))

/-- R124, R125: the 64-bit sums of ADD64 and LEA into a pair. -/
def clausesPairAddition : Prop :=
  ∀ (g : Guard) (m : BitVec 2) (d a b : BitVec 6) (s : State) (t : Nat),
    let x := (s.thread t).pair a.toNat
    let y := (s.thread t).reg b.toNat
    (Runs s (.add64 g m d a b) t → Answers (.add64 g m d a b) s fun s' =>
      (s'.thread t).pair d.toNat = x + (if m = 0 then (s.thread t).pair b.toNat else if m = 1 then y.signExtend 64 else y.zeroExtend 64)) ∧
    (Runs s (.lea g m d a b) t → Answers (.lea g m d a b) s fun s' =>
      (s'.thread t).pair d.toNat = BitVec.ofInt 64 (x.toNat + y.toInt * 2 ^ m.toNat))

/-- R126, R134: the bitwise words, MOV and P2V. -/
def clausesBitwiseWordsAndMoves : Prop :=
  ∀ (g : Guard) (d a b : BitVec 6) (s : State) (t : Nat) (k : Nat), k < 32 →
    let x := (s.thread t).reg a.toNat
    let y := (s.thread t).reg b.toNat
    (Runs s (.and g d a b) t → Answers (.and g d a b) s fun s' => ((s'.thread t).reg d.toNat).getLsbD k = (x.getLsbD k && y.getLsbD k)) ∧
    (Runs s (.or g d a b) t → Answers (.or g d a b) s fun s' => ((s'.thread t).reg d.toNat).getLsbD k = (x.getLsbD k || y.getLsbD k)) ∧
    (Runs s (.xor g d a b) t → Answers (.xor g d a b) s fun s' => ((s'.thread t).reg d.toNat).getLsbD k = (x.getLsbD k != y.getLsbD k)) ∧
    (Runs s (.andn g d a b) t → Answers (.andn g d a b) s fun s' => ((s'.thread t).reg d.toNat).getLsbD k = (x.getLsbD k && !y.getLsbD k)) ∧
    (Runs s (.not g d a) t → Answers (.not g d a) s fun s' => ((s'.thread t).reg d.toNat).getLsbD k = !x.getLsbD k) ∧
    (Runs s (.mov g d a) t → Answers (.mov g d a) s fun s' => (s'.thread t).reg d.toNat = x) ∧
    (Runs s (.p2v g d) t → Answers (.p2v g d) s fun s' =>
      ((s'.thread t).reg d.toNat).getLsbD k = (decide (k < 8) && (s.thread t).pred k))

/-- R127's table for one operation: the result of a shift or rotation of `x` by `n`. -/
def shiftTable (op : ShiftOp) (x : Word) (n : Nat) (r : Word) : Prop :=
  match op with
  | .shl => r.toNat = if n < 32 then x.toNat * 2 ^ n % 2 ^ 32 else 0
  | .shr => r.toNat = x.toNat / 2 ^ n
  | .sar => r.toInt = x.toInt / 2 ^ n
  | .rot => ∀ k, k < 32 → r.getLsbD ((k + n) % 32) = x.getLsbD k

/-- R127: the shifts and rotations, by a register's whole value and by an immediate count. -/
def Obligations.ShiftsAndRotations : Prop :=
  ∀ (g : Guard) (d a b : BitVec 6) (c : BitVec 5) (s : State) (t : Nat),
    let x := (s.thread t).reg a.toNat
    let n := ((s.thread t).reg b.toNat).toNat
    (Runs s (.shl g d a b) t → Answers (.shl g d a b) s fun s' => shiftTable .shl x n ((s'.thread t).reg d.toNat)) ∧
    (Runs s (.shr g d a b) t → Answers (.shr g d a b) s fun s' => shiftTable .shr x n ((s'.thread t).reg d.toNat)) ∧
    (Runs s (.sar g d a b) t → Answers (.sar g d a b) s fun s' => shiftTable .sar x n ((s'.thread t).reg d.toNat)) ∧
    (Runs s (.rot g d a b) t → Answers (.rot g d a b) s fun s' => shiftTable .rot x n ((s'.thread t).reg d.toNat)) ∧
    (Runs s (.shlImm g d a c) t → Answers (.shlImm g d a c) s fun s' => shiftTable .shl x c.toNat ((s'.thread t).reg d.toNat)) ∧
    (Runs s (.shrImm g d a c) t → Answers (.shrImm g d a c) s fun s' => shiftTable .shr x c.toNat ((s'.thread t).reg d.toNat)) ∧
    (Runs s (.sarImm g d a c) t → Answers (.sarImm g d a c) s fun s' => shiftTable .sar x c.toNat ((s'.thread t).reg d.toNat)) ∧
    (Runs s (.rotImm g d a c) t → Answers (.rotImm g d a c) s fun s' => shiftTable .rot x c.toNat ((s'.thread t).reg d.toNat))

/-- R128, R129: MIN, MAX and the UNARY group. -/
def clausesMinMaxAndUnaryWords : Prop :=
  ∀ (g : Guard) (m : BitVec 1) (d a b : BitVec 6) (s : State) (t : Nat),
    let x := (s.thread t).reg a.toNat
    let y := (s.thread t).reg b.toNat
    (Runs s (.min g m d a b) t → Answers (.min g m d a b) s fun s' =>
      let r := (s'.thread t).reg d.toNat
      (m = 0 → r.toInt = min x.toInt y.toInt) ∧ (m = 1 → r.toNat = min x.toNat y.toNat)) ∧
    (Runs s (.max g m d a b) t → Answers (.max g m d a b) s fun s' =>
      let r := (s'.thread t).reg d.toNat
      (m = 0 → r.toInt = max x.toInt y.toInt) ∧ (m = 1 → r.toNat = max x.toNat y.toNat)) ∧
    (Runs s (.clz g d a) t → Answers (.clz g d a) s fun s' =>
      let n := ((s'.thread t).reg d.toNat).toNat
      n ≤ 32 ∧ x.toNat < 2 ^ (32 - n) ∧ (n < 32 → 2 ^ (31 - n) ≤ x.toNat)) ∧
    (Runs s (.ctz g d a) t → Answers (.ctz g d a) s fun s' =>
      let n := ((s'.thread t).reg d.toNat).toNat
      n ≤ 32 ∧ (∀ k, k < n → x.getLsbD k = false) ∧ (n < 32 → x.getLsbD n = true)) ∧
    (Runs s (.popc g d a) t → Answers (.popc g d a) s fun s' =>
      ((s'.thread t).reg d.toNat).toNat = (List.range 32).countP (fun k => x.getLsbD k)) ∧
    (Runs s (.brev g d a) t → Answers (.brev g d a) s fun s' =>
      ∀ k, k < 32 → ((s'.thread t).reg d.toNat).getLsbD k = x.getLsbD (31 - k)) ∧
    (Runs s (.abs g d a) t → Answers (.abs g d a) s fun s' => ((s'.thread t).reg d.toNat).toNat = x.toInt.natAbs) ∧
    (Runs s (.neg g d a) t → Answers (.neg g d a) s fun s' => ((s'.thread t).reg d.toNat).toNat = (2 ^ 32 - x.toNat) % 2 ^ 32) ∧
    (Runs s (.sext8 g d a) t → Answers (.sext8 g d a) s fun s' => ((s'.thread t).reg d.toNat).toInt = (x.setWidth 8).toInt) ∧
    (Runs s (.sext16 g d a) t → Answers (.sext16 g d a) s fun s' => ((s'.thread t).reg d.toNat).toInt = (x.setWidth 16).toInt)

/-- R130: bit `j` of vA extended without limit, with zeros for .N32 and copies of bit 31 for .I32. -/
def extendedBit (m : BitVec 1) (x : Word) (j : Nat) : Bool := if j < 32 then x.getLsbD j else m == 1 && x.getLsbD 31

/-- R130, R136, R137: the field words BFE and BFI bit by bit, and the byte and nibble tables of PRMT and NLUT. -/
def Obligations.FieldAndTableWords : Prop :=
  ∀ (g : Guard) (m : BitVec 1) (n : BitVec 2) (d a b : BitVec 6) (s : State) (t : Nat),
    let x := (s.thread t).reg a.toNat
    let y := (s.thread t).reg b.toNat
    let z := (s.thread t).reg d.toNat
    let pos := (y.extractLsb' 0 8).toNat
    let len := min (y.extractLsb' 8 8).toNat 32
    let table := fun (k : Nat) => ((s.thread t).reg (b.toNat + k / 4)).extractLsb' (8 * (k % 4)) 8
    (Runs s (.bfe g m d a b) t → Answers (.bfe g m d a b) s fun s' => ∀ k, k < 32 →
      ((s'.thread t).reg d.toNat).getLsbD k =
        if k < len then extendedBit m x (pos + k) else m == 1 && decide (0 < len) && extendedBit m x (pos + len - 1)) ∧
    (Runs s (.bfi g d a b) t → Answers (.bfi g d a b) s fun s' => ∀ k, k < 32 →
      ((s'.thread t).reg d.toNat).getLsbD k = if pos ≤ k ∧ k < pos + len then x.getLsbD (k - pos) else z.getLsbD k) ∧
    (Runs s (.prmt g d a b) t → Answers (.prmt g d a b) s fun s' => ∀ j, j < 4 →
      let c := (z.extractLsb' (4 * j) 4).toNat
      let v := (y ++ x).extractLsb' (8 * (c % 8)) 8
      ((s'.thread t).reg d.toNat).extractLsb' (8 * j) 8 = if c < 8 then v else if v.msb then 0xFF#8 else 0#8) ∧
    (Runs s (.nlut g n d a b) t → Answers (.nlut g n d a b) s fun s' =>
      let r := (s'.thread t).reg d.toNat
      (n = 0 → ∀ j, j < 4 → r.extractLsb' (8 * j) 8 = table (x.extractLsb' (8 * j) 4).toNat) ∧
      (n = 1 → ∀ j, j < 4 → r.extractLsb' (8 * j) 8 = table (x.extractLsb' (8 * j + 4) 4).toNat) ∧
      (n = 2 → ∀ j, j < 8 → r.extractLsb' (4 * j) 4 =
        ((s.thread t).pair b.toNat).extractLsb' (4 * (x.extractLsb' (4 * j) 4).toNat) 4))

/-- R49: whether a comparison of two words holds under a condition code. -/
def conditionHolds (c : BitVec 3) (x y : Word) : Bool :=
  match c.toNat with
  | 0 => x == y
  | 1 => x != y
  | 2 => x.slt y
  | 3 => x.sle y
  | 4 => y.slt x
  | 5 => y.sle x
  | 6 => x.ult y
  | _ => y.ule x

/-- R131, R133, R134, R139: the words that read or write predicates. A write to p7 is discarded. -/
def clausesPredicateWords : Prop :=
  ∀ (g : Guard) (m : BitVec 2) (c q : BitVec 3) (d a b : BitVec 6) (s : State) (t : Nat),
    let th := s.thread t
    let x := th.reg a.toNat
    let y := th.reg b.toNat
    let old := th.pred q.toNat
    (Runs s (.setp g m c q a b) t → Answers (.setp g m c q a b) s fun s' =>
      let v := conditionHolds c x y
      (q ≠ 7 → (s'.thread t).pred q.toNat = if m = 0 then v else if m = 1 then old && v else if m = 2 then old || v else old != v) ∧
      (q = 7 → (s'.thread t).preds = th.preds)) ∧
    (Runs s (.sel g m d a b) t → Answers (.sel g m d a b) s fun s' =>
      (s'.thread t).reg d.toNat = if th.pred m.toNat then x else y) ∧
    (Runs s (.v2p g a) t → Answers (.v2p g a) s fun s' => ∀ k, k < 7 → (s'.thread t).pred k = x.getLsbD k) ∧
    (Runs s (.vote g m d a) t → Answers (.vote g m d a) s fun s' =>
      let ps := s.participants (.vote g m d a)
      (m = 0 → d.toNat < 7 → ((s'.thread t).pred d.toNat = true ↔ ∀ u ∈ ps, (s.thread u).pred a.toNat = true)) ∧
      (m = 1 → d.toNat < 7 → ((s'.thread t).pred d.toNat = true ↔ ∃ u ∈ ps, (s.thread u).pred a.toNat = true)) ∧
      (m = 2 → ∀ k, k < 32 → (((s'.thread t).reg d.toNat).getLsbD k = true ↔ ∃ u ∈ ps, laneOf u = k ∧ (s.thread u).pred a.toNat = true)) ∧
      (m = 3 → d.toNat < 7 → ((s'.thread t).pred d.toNat = true ↔ ∀ u ∈ ps, ∀ v ∈ ps, (s.thread u).reg a.toNat = (s.thread v).reg a.toNat)))

/-- R132: SETPI compares with the immediate, signed or unsigned as its condition is, extended to 26 bits by a prefix. -/
def clausesSetPredicateImmediate : Prop :=
  ∀ (g : Guard) (c q : BitVec 3) (a : BitVec 6) (i : BitVec 8) (s : State) (t : Nat),
    let x := (s.thread t).reg a.toNat
    let n := immediate8 s.cur.pfx i
    let u := match s.cur.pfx.ext with | none => i.toNat | some e => (e ++ i).toNat
    Runs s (.setpi g c q a i) t → q ≠ 7 → Answers (.setpi g c q a i) s fun s' =>
      (s'.thread t).pred q.toNat =
        match c.toNat with
        | 0 => x == BitVec.ofInt 32 n
        | 1 => x != BitVec.ofInt 32 n
        | 2 => decide (x.toInt < n)
        | 3 => decide (x.toInt ≤ n)
        | 4 => decide (n < x.toInt)
        | 5 => decide (n ≤ x.toInt)
        | 6 => decide (x.toNat < u)
        | _ => decide (u ≤ x.toNat)

/-- R138: SHFL gives the source lane's vA if the thread of the same warp there is a participant, and otherwise the thread's own. -/
def Obligations.ShuffleAcrossLanes : Prop :=
  ∀ (g : Guard) (m : BitVec 2) (d a b : BitVec 6) (s : State) (t : Nat),
    let l := (laneOf t : Int)
    let c := ((s.thread t).reg b.toNat).toNat
    let src : Int := if m = 0 then (c % 32 : Nat) else if m = 1 then l - c else if m = 2 then l + c else (laneOf t ^^^ (c % 32) : Nat)
    let u := warpOf t * 32 + src.toNat
    Runs s (.shfl g m d a b) t → Answers (.shfl g m d a b) s fun s' =>
      (0 ≤ src ∧ src < 32 ∧ u ∈ s.participants (.shfl g m d a b) → (s'.thread t).reg d.toNat = (s.thread u).reg a.toNat) ∧
      (¬ (0 ≤ src ∧ src < 32 ∧ u ∈ s.participants (.shfl g m d a b)) → (s'.thread t).reg d.toNat = (s.thread t).reg a.toNat)

/-- R121 to R125: ADDI, MOVI, MUL and MAD, and the pair words ADD64 and LEA. -/
def Obligations.ImmediatesProductsAndPairs : Prop :=
  clausesAddImmediateMoveImmediateAndMultiply ∧ clausesPairAddition

/-- The words that write predicates from registers, immediates and votes, and P2V, V2P and VOTE, as their clauses say. -/
def Obligations.PredicatesAreSetAndVoted : Prop :=
  clausesPredicateWords ∧ clausesSetPredicateImmediate

/-- The bitwise words and moves, and the minimum, maximum and one-operand words. -/
def Obligations.BitwiseUnaryAndExtremeWords : Prop :=
  clausesBitwiseWordsAndMoves ∧ clausesMinMaxAndUnaryWords
/-! ## Floating-point words (R141 to R167) -/

/-- R141: the value of a code of a format that is neither an infinity nor a NaN: S, E and F are its fields, and the bias is 1 − emin. -/
def codeValue (f : Fmt) (c : Nat) : ℚ :=
  let h := 2 ^ (f.p - 1)
  let frac : ℚ := (c % h : Nat) / (h : ℚ)
  let e := c / h % 2 ^ (f.width - f.p)
  (if c / 2 ^ (f.width - 1) % 2 = 1 then -1 else 1) *
    (if e = 0 then (2 : ℚ) ^ f.emin * frac else (2 : ℚ) ^ ((e : Int) - (1 - f.emin)) * (1 + frac))

/-- A code without its sign. -/
def magnitude (f : Fmt) (c : Nat) : Nat := c % 2 ^ (f.width - 1)
/-- The sign bit. -/
def negative (f : Fmt) (c : Nat) : Bool := c / 2 ^ (f.width - 1) % 2 == 1
/-- A finite code: its magnitude is at most that of the format's maximum finite value. -/
def finiteCode (f : Fmt) (c : Nat) : Prop := magnitude f c ≤ f.maxCode
/-- An infinity. -/
def infinite (f : Fmt) (c : Nat) : Prop := f.inf = some (magnitude f c)
/-- A NaN: neither. -/
def nanCode (f : Fmt) (c : Nat) : Prop := ¬ finiteCode f c ∧ ¬ infinite f c
/-- R142: a signalling NaN has 0 in the first bit of its fraction; an E4M3 NaN is quiet. -/
def signalling (f : Fmt) (c : Nat) : Prop := nanCode f c ∧ f.inf ≠ none ∧ c / 2 ^ (f.p - 2) % 2 = 0
/-- The code of a magnitude with a sign bit. -/
def signed (f : Fmt) (neg : Bool) (mag : Nat) : Nat := if neg then 2 ^ (f.width - 1) + mag else mag

/-- R145: whether x, rounded to the format's precision with unbounded exponent, exceeds the maximum finite magnitude `top`, whose
last place is `q`. -/
def overflows (f : Fmt) (m : RMode) (x : ℚ) : Prop :=
  let top := codeValue f f.maxCode
  let q := (2 : ℚ) ^ (Int.log 2 top - f.p + 1)
  match m with
  | .rne => top + q / 2 < |x| ∨ (|x| = top + q / 2 ∧ f.maxCode % 2 = 1)
  | .rz => top + q ≤ |x|
  | .ru => top < x ∨ x ≤ -(top + q)
  | .rd => x < -top ∨ top + q ≤ x
  | .sr r => top < ⌊(|x| + r * (2 : ℚ) ^ (max (Int.log 2 |x|) f.emin - f.p + 1) / 65536) / (2 : ℚ) ^ (max (Int.log 2 |x|) f.emin - f.p + 1)⌋ *
      (2 : ℚ) ^ (max (Int.log 2 |x|) f.emin - f.p + 1)

/-- R146: whether x, rounded to the format's precision with unbounded exponent, is below the minimum normal magnitude (for the modes
of IEEE 754). -/
def tiny (f : Fmt) (m : RMode) (x : ℚ) : Prop :=
  let low := (2 : ℚ) ^ f.emin
  let q := (2 : ℚ) ^ (f.emin - f.p)
  match m with
  | .rne => |x| < low - q / 2
  | .rz => |x| < low
  | .ru => if 0 < x then x ≤ low - q else |x| < low
  | .rd => if x < 0 then |x| ≤ low - q else |x| < low
  | .sr _ => False

/-- R144, R147: the finite code `c` is x ≠ 0 rounded by the mode; it has the sign of x. -/
def rounded (f : Fmt) (m : RMode) (x : ℚ) (c : Nat) : Prop :=
  finiteCode f c ∧ c < 2 ^ f.width ∧ (negative f c ↔ x < 0) ∧
  match m with
  | .rne => ∀ k, finiteCode f k → |x - codeValue f c| ≤ |x - codeValue f k| ∧
      (|x - codeValue f c| = |x - codeValue f k| → codeValue f c = codeValue f k ∨ c % 2 = 0)
  | .rz => |codeValue f c| ≤ |x| ∧ ∀ k, finiteCode f k → |codeValue f k| ≤ |x| → |codeValue f k| ≤ |codeValue f c|
  | .ru => x ≤ codeValue f c ∧ ∀ k, finiteCode f k → x ≤ codeValue f k → codeValue f c ≤ codeValue f k
  | .rd => codeValue f c ≤ x ∧ ∀ k, finiteCode f k → codeValue f k ≤ x → codeValue f k ≤ codeValue f c
  | .sr r =>
    let q := (2 : ℚ) ^ (max (Int.log 2 |x|) f.emin - f.p + 1)
    |codeValue f c| = ⌊(|x| + r * q / 65536) / q⌋ * q

/-- R145: the result of an overflow: infinite in the modes that round away, or for RNE and SR, unless it saturates; else the maximum
finite magnitude. A format without infinities has its NaN in place of one. -/
def overflowCode (f : Fmt) (m : RMode) (sat : Bool) (x : ℚ) : Nat :=
  if sat = true ∨ m = .rz ∨ (m = .ru ∧ x < 0) ∨ (m = .rd ∧ 0 < x) then signed f (decide (x < 0)) f.maxCode
  else match f.inf with | some i => signed f (decide (x < 0)) i | none => f.nan

/-- R144 to R146: the code and flags (NV, DZ, OF, UF, NX from bit 0) of x ≠ 0 rounded to a format. UF under SR is left out. -/
def roundsTo (f : Fmt) (m : RMode) (sat : Bool) (x : ℚ) (c : Nat) (fl : BitVec 5) : Prop :=
  (overflows f m x → c = overflowCode f m sat x ∧ fl = flagOF ||| flagNX) ∧
  (¬ overflows f m x → rounded f m x c ∧ fl.getLsbD 0 = false ∧ fl.getLsbD 1 = false ∧ fl.getLsbD 2 = false ∧
    ((∀ r, m ≠ .sr r) → (fl.getLsbD 3 = true ↔ tiny f m x ∧ codeValue f c ≠ x)) ∧ (fl.getLsbD 4 = true ↔ codeValue f c ≠ x))

/-- R142, R155: a NaN operand gives the canonical NaN, with NV when an operand is signalling, and no other flag. -/
def nanGives (f : Fmt) (sig : Prop) (c : Nat) (fl : BitVec 5) : Prop :=
  c = f.nan ∧ (sig → fl = flagNV) ∧ (¬ sig → fl = 0)

/-- R155: what a sum of codes gives: its code and flags. -/
def sumGives (f : Fmt) (m : RMode) (a b c : Nat) (fl : BitVec 5) : Prop :=
  let x := codeValue f a + codeValue f b
  (nanCode f a ∨ nanCode f b → nanGives f (signalling f a ∨ signalling f b) c fl) ∧
  (infinite f a → infinite f b → a = b → c = a ∧ fl = 0) ∧
  (infinite f a → infinite f b → a ≠ b → c = f.nan ∧ fl = flagNV) ∧
  (infinite f a → finiteCode f b → c = a ∧ fl = 0) ∧
  (finiteCode f a → infinite f b → c = b ∧ fl = 0) ∧
  (finiteCode f a → finiteCode f b → x ≠ 0 → roundsTo f m false x c fl) ∧
  (finiteCode f a → finiteCode f b → x = 0 → fl = 0 ∧
    c = if magnitude f a = 0 ∧ a = b then a else if m = .rd then 2 ^ (f.width - 1) else 0)

/-- A code with its sign bit inverted, which subtracts it. -/
def opposite (f : Fmt) (c : Nat) : Nat := if c < 2 ^ (f.width - 1) then c + 2 ^ (f.width - 1) else c - 2 ^ (f.width - 1)

/-- The sign of a product is negative. -/
def productNegative (f : Fmt) (a b : Nat) : Bool := negative f a != negative f b
/-- R155: 0 × ∞. -/
def invalidProduct (f : Fmt) (a b : Nat) : Prop := (infinite f a ∧ magnitude f b = 0) ∨ (magnitude f a = 0 ∧ infinite f b)
/-- An infinite product. -/
def infiniteProduct (f : Fmt) (a b : Nat) : Prop := (infinite f a ∨ infinite f b) ∧ ¬ invalidProduct f a b ∧ ¬ nanCode f a ∧ ¬ nanCode f b

/-- R155: what a product of codes gives. -/
def productGives (f : Fmt) (m : RMode) (a b c : Nat) (fl : BitVec 5) : Prop :=
  let x := codeValue f a * codeValue f b
  (nanCode f a ∨ nanCode f b → nanGives f (signalling f a ∨ signalling f b) c fl) ∧
  (invalidProduct f a b → c = f.nan ∧ fl = flagNV) ∧
  (infiniteProduct f a b → ∀ i, f.inf = some i → c = signed f (productNegative f a b) i ∧ fl = 0) ∧
  (finiteCode f a → finiteCode f b → x ≠ 0 → roundsTo f m false x c fl) ∧
  (finiteCode f a → finiteCode f b → x = 0 → c = signed f (productNegative f a b) 0 ∧ fl = 0)

/-- R155: what a product plus an addend, rounded once, gives. 0 × ∞ sets NV even when the addend is a quiet NaN. -/
def fusedGives (f : Fmt) (m : RMode) (a b d c : Nat) (fl : BitVec 5) : Prop :=
  let x := codeValue f a * codeValue f b + codeValue f d
  let finiteProduct := finiteCode f a ∧ finiteCode f b
  (nanCode f a ∨ nanCode f b ∨ nanCode f d ∨ invalidProduct f a b →
    nanGives f (signalling f a ∨ signalling f b ∨ signalling f d ∨ invalidProduct f a b) c fl) ∧
  (infiniteProduct f a b → infinite f d → productNegative f a b ≠ negative f d → c = f.nan ∧ fl = flagNV) ∧
  (infiniteProduct f a b → finiteCode f d ∨ (infinite f d ∧ productNegative f a b = negative f d) →
    ∀ i, f.inf = some i → c = signed f (productNegative f a b) i ∧ fl = 0) ∧
  (finiteProduct → infinite f d → c = d ∧ fl = 0) ∧
  (finiteProduct → finiteCode f d → x ≠ 0 → roundsTo f m false x c fl) ∧
  (finiteProduct → finiteCode f d → x = 0 → fl = 0 ∧
    (magnitude f d = 0 → productNegative f a b = negative f d → c = d) ∧
    (¬ (magnitude f d = 0 ∧ productNegative f a b = negative f d) → c = if m = .rd then 2 ^ (f.width - 1) else 0))

/-- R144: the mode of a rounding code. -/
def roundingMode (m : BitVec 2) : RMode := match m.toNat with | 0 => .rne | 1 => .rz | 2 => .ru | _ => .rd

/-- The word answers with the code `c` in its destination and flags `fl` added to %FPFLAGS (R148), and `P` holds of the two. -/
def AnswersFloat (s : State) (i : Instr) (t : Nat) (d : BitVec 6) (P : Nat → BitVec 5 → Prop) : Prop :=
  Answers i s fun s' => ∃ fl, (s'.thread t).fpflags = (s.thread t).fpflags ||| fl ∧ P ((s'.thread t).reg d.toNat).toNat fl

/-- R155: FADD, FSUB, FMUL and FMA round the exact result once by M, with IEEE 754's special cases and flags. -/
def Obligations.FloatArithmeticRoundsTheExactResultOnce : Prop :=
  ∀ (g : Guard) (m : BitVec 2) (d a b : BitVec 6) (s : State) (t : Nat),
    let x := ((s.thread t).reg a.toNat).toNat
    let y := ((s.thread t).reg b.toNat).toNat
    let z := ((s.thread t).reg d.toNat).toNat
    (Runs s (.fadd g m d a b) t → AnswersFloat s (.fadd g m d a b) t d (sumGives fp32 (roundingMode m) x y)) ∧
    (Runs s (.fsub g m d a b) t → AnswersFloat s (.fsub g m d a b) t d (sumGives fp32 (roundingMode m) x (opposite fp32 y))) ∧
    (Runs s (.fmul g m d a b) t → AnswersFloat s (.fmul g m d a b) t d (productGives fp32 (roundingMode m) x y)) ∧
    (Runs s (.fma g m d a b) t → AnswersFloat s (.fma g m d a b) t d (fusedGives fp32 (roundingMode m) x y z))

/-- The value of a code that is not a NaN on a line where an infinity lies beyond every finite value. -/
def lineValue (f : Fmt) (c : Nat) : ℚ :=
  if f.inf = some (magnitude f c) then (if negative f c then -1 else 1) * 2 ^ 200 else codeValue f c

/-- R156: what a minimum (or maximum) of codes gives: an operand's bits; −0 lies below +0. -/
def extremeGives (f : Fmt) (greatest : Bool) (a b c : Nat) (fl : BitVec 5) : Prop :=
  let below := fun (x y : Nat) => lineValue f x < lineValue f y ∨ (lineValue f x = lineValue f y ∧ (negative f y → negative f x))
  (signalling f a ∨ signalling f b → fl = flagNV) ∧ (¬ (signalling f a ∨ signalling f b) → fl = 0) ∧
  (nanCode f a → nanCode f b → c = f.nan) ∧ (nanCode f a → ¬ nanCode f b → c = b) ∧ (¬ nanCode f a → nanCode f b → c = a) ∧
  (¬ nanCode f a → ¬ nanCode f b → (c = a ∨ c = b) ∧
    (greatest = false → below c a ∧ below c b) ∧ (greatest = true → below a c ∧ below b c))

/-- R158: what FRND gives: the integral value in the mode's direction, with the operand's sign; NV for a signalling NaN alone. -/
def integralGives (m : RMode) (a c : Nat) (fl : BitVec 5) : Prop :=
  let x := codeValue fp32 a
  let v := codeValue fp32 c
  (nanCode fp32 a → nanGives fp32 (signalling fp32 a) c fl) ∧
  (infinite fp32 a → c = a ∧ fl = 0) ∧
  (finiteCode fp32 a → fl = 0 ∧ finiteCode fp32 c ∧ negative fp32 c = negative fp32 a ∧ ∃ n : Int, v = n ∧
    match m with
    | .rne => |x - n| ≤ 1 / 2 ∧ (|x - n| = 1 / 2 → n % 2 = 0)
    | .rz => |v| ≤ |x| ∧ |x| < |v| + 1
    | .ru => x ≤ n ∧ (n : ℚ) < x + 1
    | .rd => (n : ℚ) ≤ x ∧ x < n + 1
    | .sr _ => False)

/-- R156, R158: FMIN, FMAX, FABS, FNEG and FRND. -/
def clausesFloatMinMaxSignAndIntegralWords : Prop :=
  ∀ (g : Guard) (m : BitVec 2) (d a b : BitVec 6) (s : State) (t : Nat),
    let v := (s.thread t).reg a.toNat
    let x := v.toNat
    let y := ((s.thread t).reg b.toNat).toNat
    (Runs s (.fmin g d a b) t → AnswersFloat s (.fmin g d a b) t d (extremeGives fp32 false x y)) ∧
    (Runs s (.fmax g d a b) t → AnswersFloat s (.fmax g d a b) t d (extremeGives fp32 true x y)) ∧
    (Runs s (.fabs g d a) t → AnswersFloat s (.fabs g d a) t d (fun c fl => c = (v &&& 0x7FFFFFFF).toNat ∧ fl = 0)) ∧
    (Runs s (.fneg g d a) t → AnswersFloat s (.fneg g d a) t d (fun c fl => c = (v ^^^ 0x80000000).toNat ∧ fl = 0)) ∧
    (Runs s (.frnd g m d a) t → AnswersFloat s (.frnd g m d a) t d (integralGives (roundingMode m) x))

/-- R157: the condition of FSETP on two codes. -/
def floatCondition (c : BitVec 3) (a b : Nat) : Prop :=
  let un := nanCode fp32 a ∨ nanCode fp32 b
  let x := lineValue fp32 a
  let y := lineValue fp32 b
  match c.toNat with
  | 0 => ¬ un ∧ x = y
  | 1 => un ∨ x ≠ y
  | 2 => ¬ un ∧ x < y
  | 3 => ¬ un ∧ x ≤ y
  | 4 => ¬ un ∧ y < x
  | 5 => ¬ un ∧ y ≤ x
  | 6 => un ∨ x < y
  | _ => un ∨ y ≤ x

/-- R157: FSETP combines its condition with the old predicate by M, and sets NV for a signalling NaN, or for a quiet one under LT, LE,
GT and GE. A write to p7 is discarded (R46). -/
def clausesFloatCompareSetsItsPredicate : Prop :=
  ∀ (g : Guard) (m : BitVec 2) (c q : BitVec 3) (a b : BitVec 6) (s : State) (t : Nat),
    let x := ((s.thread t).reg a.toNat).toNat
    let y := ((s.thread t).reg b.toNat).toNat
    let old := (s.thread t).pred q.toNat
    let invalid := signalling fp32 x ∨ signalling fp32 y ∨ ((nanCode fp32 x ∨ nanCode fp32 y) ∧ 2 ≤ c.toNat ∧ c.toNat ≤ 5)
    Runs s (.fsetp g m c q a b) t → Answers (.fsetp g m c q a b) s fun s' =>
      (q = 7 → (s'.thread t).preds = (s.thread t).preds) ∧
      (q ≠ 7 → ∃ v : Bool, (v = true ↔ floatCondition c x y) ∧
        (s'.thread t).pred q.toNat = if m = 0 then v else if m = 1 then old && v else if m = 2 then old || v else old != v) ∧
      (invalid → (s'.thread t).fpflags = (s.thread t).fpflags ||| flagNV) ∧
      (¬ invalid → (s'.thread t).fpflags = (s.thread t).fpflags)

/-- R159: what an SFU word gives for its special inputs: x is a NaN; zeros, infinities, negative numbers by function (B 0 to 6: RCP, RSQ,
SQRT, EX2, LG2, SIN, COS); and EX2 of an integer and of 128 or more, LG2 of 1. -/
def specialGives (fn : Nat) (a c : Nat) (fl : BitVec 5) : Prop :=
  let x := codeValue fp32 a
  let inf := 0x7F800000
  let zero := magnitude fp32 a = 0
  let neg := negative fp32 a
  let gives := fun (k : Nat) (v : BitVec 5) => c = k ∧ fl = v
  (nanCode fp32 a → nanGives fp32 (signalling fp32 a) c fl) ∧
  (zero → match fn with
    | 0 | 1 => gives (signed fp32 neg inf) flagDZ
    | 2 | 5 => gives a 0
    | 4 => gives 0xFF800000 flagDZ
    | _ => gives 0x3F800000 0) ∧
  (infinite fp32 a → match fn with
    | 0 => gives (signed fp32 neg 0) 0
    | 1 => (¬ neg → gives 0 0) ∧ (neg → gives fp32.nan flagNV)
    | 2 | 4 => (¬ neg → gives inf 0) ∧ (neg → gives fp32.nan flagNV)
    | 3 => (¬ neg → gives inf 0) ∧ (neg → gives 0 0)
    | _ => gives fp32.nan flagNV) ∧
  (finiteCode fp32 a → ¬ zero → fn = 0 → overflows fp32 .rne (1 / x) → gives (signed fp32 neg inf) flagOF) ∧
  (finiteCode fp32 a → x < 0 → fn = 1 ∨ fn = 2 ∨ fn = 4 → gives fp32.nan flagNV) ∧
  (finiteCode fp32 a → fn = 2 → 0 < x → fl = 0 ∧ finiteCode fp32 c ∧ 0 ≤ codeValue fp32 c ∧ ∀ k, finiteCode fp32 k → 0 ≤ codeValue fp32 k →
    let mid := (codeValue fp32 c + codeValue fp32 k) / 2
    (codeValue fp32 k < codeValue fp32 c → mid ^ 2 ≤ x) ∧ (codeValue fp32 c < codeValue fp32 k → x ≤ mid ^ 2)) ∧
  (finiteCode fp32 a → fn = 3 → 128 ≤ x → gives inf flagOF) ∧
  (finiteCode fp32 a → fn = 3 → ∀ n : Int, x = n → -149 ≤ n → n ≤ 127 → fl = 0 ∧ finiteCode fp32 c ∧ codeValue fp32 c = (2 : ℚ) ^ n) ∧
  (finiteCode fp32 a → fn = 4 → x = 1 → gives 0 0)

/-- R159: a code lies within `n` ulp of an exact result, an ulp being the distance of the two FP32 values that enclose it. -/
def withinUlps (n : Nat) (v : ℝ) (c : Nat) : Prop :=
  finiteCode fp32 c ∧ |(codeValue fp32 c : ℝ) - v| ≤ n * (2 : ℝ) ^ (max (Int.log 2 |v|) (-126) - 23)

/-- R159: RCP and RSQ on ordinary inputs lie within 1 and 2 ulp of the exact result, and set no flag. -/
def reciprocalGives (fn : Nat) (a c : Nat) (fl : BitVec 5) : Prop :=
  let x := codeValue fp32 a
  (fn = 0 → finiteCode fp32 a → x ≠ 0 → ¬ overflows fp32 .rne (1 / x) → withinUlps 1 (1 / (x : ℝ)) c ∧ fl = 0) ∧
  (fn = 1 → finiteCode fp32 a → 0 < x → withinUlps 2 (1 / Real.sqrt x) c ∧ fl = 0)

/-- R159: the seven words of the SFU: each one's result and flags are one function of its input's bits alone, with the special values of the table;
they set no flag but NV, DZ and OF; SQRT is correctly rounded, and RCP and RSQ keep their bounds. Inferences and choices of the model: log
entry 4. -/
def Obligations.SpecialFunctionsAreFixedFunctionsOfTheInput : Prop :=
  ∃ f : Nat → Word → Nat × BitVec 5,
    (∀ fn a, fn < 7 → specialGives fn a.toNat (f fn a).1 (f fn a).2 ∧ reciprocalGives fn a.toNat (f fn a).1 (f fn a).2 ∧
      (f fn a).2 &&& 0x18#5 = 0) ∧
    ∀ (g : Guard) (d a : BitVec 6) (s : State) (t : Nat),
      let gives := fun fn c fl => (c, fl) = f fn ((s.thread t).reg a.toNat)
      (Runs s (.rcp g d a) t → AnswersFloat s (.rcp g d a) t d (gives 0)) ∧
      (Runs s (.rsq g d a) t → AnswersFloat s (.rsq g d a) t d (gives 1)) ∧
      (Runs s (.sqrt g d a) t → AnswersFloat s (.sqrt g d a) t d (gives 2)) ∧
      (Runs s (.ex2 g d a) t → AnswersFloat s (.ex2 g d a) t d (gives 3)) ∧
      (Runs s (.lg2 g d a) t → AnswersFloat s (.lg2 g d a) t d (gives 4)) ∧
      (Runs s (.sin g d a) t → AnswersFloat s (.sin g d a) t d (gives 5)) ∧
      (Runs s (.cos g d a) t → AnswersFloat s (.cos g d a) t d (gives 6))

/-- R159: what SIN or COS gives for a finite x whose exact result is `v`: an error of at most 2^−21 up to |x| = 2^15, beyond it a value in
[−1, 1], and no flag. -/
def trigGives (v : ℝ) (x : ℚ) (c : Nat) (fl : BitVec 5) : Prop :=
  fl = 0 ∧ finiteCode fp32 c ∧ (|x| ≤ 2 ^ 15 → |(codeValue fp32 c : ℝ) - v| ≤ 1 / 2 ^ 21) ∧ (2 ^ 15 < |x| → |codeValue fp32 c| ≤ 1)

/-- R159: the accuracy of EX2, LG2, SIN and COS on every finite input for which the table gives no special value: EX2 below 128 within 2 ulp of
2^x; LG2 within 2 ulp of log2 x outside [0.5, 2] and within 2^−22 inside; SIN and COS as their row says. They set no flag. Inferences and choices
of the model: log entry 4. -/
def Obligations.TranscendentalWordsKeepTheirBounds : Prop :=
  ∀ (g : Guard) (d a : BitVec 6) (s : State) (t : Nat),
    let k := ((s.thread t).reg a.toNat).toNat
    let x := codeValue fp32 k
    finiteCode fp32 k →
    (x < 128 → Runs s (.ex2 g d a) t → AnswersFloat s (.ex2 g d a) t d (fun c fl => withinUlps 2 ((2 : ℝ) ^ (x : ℝ)) c ∧ fl = 0)) ∧
    (0 < x → Runs s (.lg2 g d a) t → AnswersFloat s (.lg2 g d a) t d (fun c fl => fl = 0 ∧ finiteCode fp32 c ∧
      (x < 1 / 2 ∨ 2 < x → withinUlps 2 (Real.logb 2 x) c) ∧
      (1 / 2 ≤ x → x ≤ 2 → |(codeValue fp32 c : ℝ) - Real.logb 2 x| ≤ 1 / 2 ^ 22))) ∧
    (Runs s (.sin g d a) t → AnswersFloat s (.sin g d a) t d (trigGives (Real.sin x) x)) ∧
    (Runs s (.cos g d a) t → AnswersFloat s (.cos g d a) t d (trigGives (Real.cos x) x))

/-- R160: element `k` of a packed register. -/
def element (w : Nat) (k : Nat) : Nat := w / 65536 ^ k % 65536

/-- R160: a packed word gives each element by `P`, with the union of the elements' flags. -/
def packedGives (P : Nat → Nat → BitVec 5 → Prop) (c : Nat) (fl : BitVec 5) : Prop :=
  ∃ fl0 fl1, fl = fl0 ||| fl1 ∧ P 0 (element c 0) fl0 ∧ P 1 (element c 1) fl1

/-- R160 to R162: the packed words, each element by itself, in the format and rounding mode that M names. -/
def Obligations.PackedWordsTreatEachElementAlone : Prop :=
  ∀ (g : Guard) (m : BitVec 2) (d a b : BitVec 6) (s : State) (t : Nat),
    let th := s.thread t
    let x := element (th.reg a.toNat).toNat
    let y := element (th.reg b.toNat).toNat
    let z := element (th.reg d.toNat).toNat
    let f := if m = 0 ∨ m = 2 then bf16 else fp16
    let r := if m = 0 ∨ m = 1 then RMode.rne else roundingMode th.fpmode
    (Runs s (.hadd2 g m d a b) t → AnswersFloat s (.hadd2 g m d a b) t d (packedGives (fun k => sumGives f r (x k) (y k)))) ∧
    (Runs s (.hmul2 g m d a b) t → AnswersFloat s (.hmul2 g m d a b) t d (packedGives (fun k => productGives f r (x k) (y k)))) ∧
    (Runs s (.hfma2 g m d a b) t → AnswersFloat s (.hfma2 g m d a b) t d (packedGives (fun k => fusedGives f r (x k) (y k) (z k)))) ∧
    (Runs s (.hmm2 g m d a b) t → AnswersFloat s (.hmm2 g m d a b) t d (packedGives (fun k =>
      extremeGives (if m = 0 ∨ m = 1 then bf16 else fp16) (decide (m = 1 ∨ m = 3)) (x k) (y k))))

/-- R163: what narrowing an FP32 code gives. -/
def narrowGives (f : Fmt) (m : RMode) (sat : Bool) (a c : Nat) (fl : BitVec 5) : Prop :=
  (nanCode fp32 a → nanGives f (signalling fp32 a) c fl) ∧
  (infinite fp32 a → sat = true → c = signed f (negative fp32 a) f.maxCode ∧ fl = flagNX) ∧
  (infinite fp32 a → sat = false →
    (∀ i, f.inf = some i → c = signed f (negative fp32 a) i ∧ fl = 0) ∧ (f.inf = none → c = f.nan ∧ fl = flagNV)) ∧
  (magnitude fp32 a = 0 → c = signed f (negative fp32 a) 0 ∧ fl = 0) ∧
  (finiteCode fp32 a → codeValue fp32 a ≠ 0 → roundsTo f m sat (codeValue fp32 a) c fl)

/-- R163: what widening an element to FP32 gives. -/
def widenGives (f : Fmt) (a c : Nat) (fl : BitVec 5) : Prop :=
  (nanCode f a → nanGives fp32 (signalling f a) c fl) ∧
  (infinite f a → c = signed fp32 (negative f a) 0x7F800000 ∧ fl = 0) ∧
  (finiteCode f a → fl = 0 ∧ finiteCode fp32 c ∧ negative fp32 c = negative f a ∧ codeValue fp32 c = codeValue f a)

/-- R147: the generator's next state. -/
def nextSeed (s : Word) : Word :=
  let a := if s = 0 then 0x9E3779B9#32 else s
  let b := a ^^^ BitVec.ofNat 32 (a.toNat * 2 ^ 13)
  let c := b ^^^ BitVec.ofNat 32 (b.toNat / 2 ^ 17)
  c ^^^ BitVec.ofNat 32 (c.toNat * 2 ^ 5)

/-- R147: the mode of element `k` of a conversion: M, or SR with half `k` of the generator's next state. -/
def conversionMode (m : BitVec 2) (sr : BitVec 1) (seed : Word) (k : Nat) : RMode :=
  if sr = 1 then .sr (element (nextSeed seed).toNat k) else roundingMode m

/-- R147: %SRSEED after a conversion: stepped once by a word that rounds with SR, and otherwise unchanged. -/
def seedAfter (sr : BitVec 1) (s s' : State) (t : Nat) : Prop :=
  (s'.thread t).srseed = if sr = 1 then nextSeed (s.thread t).srseed else (s.thread t).srseed

/-- R147, R163, R164: CVTF narrows or widens one element; CVTP narrows two into the places that the format and H name; the generator
steps once for a word that rounds with SR. -/
def clausesFloatFormatConversions : Prop :=
  ∀ (g : Guard) (m : BitVec 2) (d a : BitVec 6) (f : BitVec 3) (r v w : BitVec 1) (s : State) (t : Nat),
    let th := s.thread t
    let x := (th.reg a.toNat).toNat
    let y := (th.reg (a.toNat + 1)).toNat
    let z := th.reg d.toNat
    let fm := if f = 1 then fp16 else if f = 2 then bf16 else if f = 3 then e4m3 else e5m2
    (Runs s (.cvtf g m d a f r v w) t →
      AnswersFloat s (.cvtf g m d a f r v w) t d (fun c fl =>
        (w = 0 → narrowGives fm (conversionMode m r th.srseed 0) (decide (v = 1)) x c fl) ∧
        (w = 1 → widenGives fm (x % 2 ^ fm.width) c fl)) ∧
      Answers (.cvtf g m d a f r v w) s fun s' => seedAfter r s s' t) ∧
    (Runs s (.cvtp g m d a f r v w) t →
      AnswersFloat s (.cvtp g m d a f r v w) t d (fun c fl => ∃ e0 e1 fl0 fl1, fl = fl0 ||| fl1 ∧
        narrowGives fm (conversionMode m r th.srseed 0) (decide (v = 1)) x e0 fl0 ∧
        narrowGives fm (conversionMode m r th.srseed 1) (decide (v = 1)) y e1 fl1 ∧
        BitVec.ofNat 32 c =
          if f = 1 ∨ f = 2 then BitVec.ofNat 16 e1 ++ BitVec.ofNat 16 e0
          else if w = 0 then z.extractLsb' 16 16 ++ BitVec.ofNat 8 e1 ++ BitVec.ofNat 8 e0
          else BitVec.ofNat 8 e1 ++ BitVec.ofNat 8 e0 ++ z.extractLsb' 0 16) ∧
      Answers (.cvtp g m d a f r v w) s fun s' => seedAfter r s s' t)

/-- R49: the bounds of an integer type. -/
def typeBounds (c : BitVec 3) : Int × Int :=
  match c.toNat with
  | 0 => (0, 4294967295)
  | 1 => (-2147483648, 2147483647)
  | 2 => (0, 65535)
  | 3 => (-32768, 32767)
  | 4 => (0, 255)
  | _ => (-128, 127)

/-- x rounded to an integer by a mode. -/
def integerOf (m : RMode) (x : ℚ) (n : Int) : Prop :=
  match m with
  | .rne => |x - n| ≤ 1 / 2 ∧ (|x - n| = 1 / 2 → n % 2 = 0)
  | .rz => |(n : ℚ)| ≤ |x| ∧ |x| < |(n : ℚ)| + 1 ∧ 0 ≤ n * x
  | .ru => x ≤ n ∧ (n : ℚ) < x + 1
  | .rd => (n : ℚ) ≤ x ∧ x < n + 1
  | .sr _ => False

/-- R165: CVTI to an integer rounds and clamps to the type's bounds with NV, or sets NX; from an integer it rounds the extended value to
FP32, setting at most NX. -/
def clausesIntegerConversions : Prop :=
  ∀ (g : Guard) (m : BitVec 2) (d a : BitVec 6) (c : BitVec 3) (s : State) (t : Nat),
    let v := (s.thread t).reg a.toNat
    let x := codeValue fp32 v.toNat
    let lo := (typeBounds c).1
    let hi := (typeBounds c).2
    let width := if c = 0 ∨ c = 1 then 32 else if c = 2 ∨ c = 3 then 16 else 8
    (Runs s (.cvti g m d a c 0) t → AnswersFloat s (.cvti g m d a c 0) t d (fun r fl =>
      let out := fun (n : Int) => (r : Int) = n % 2 ^ 32
      (nanCode fp32 v.toNat → r = 0 ∧ fl = flagNV) ∧
      (infinite fp32 v.toNat → out (if v.msb then lo else hi) ∧ fl = flagNV) ∧
      (finiteCode fp32 v.toNat → ∃ n, integerOf (roundingMode m) x n ∧
        (n < lo → out lo ∧ fl = flagNV) ∧ (hi < n → out hi ∧ fl = flagNV) ∧
        (lo ≤ n → n ≤ hi → out n ∧ fl = if x = n then 0 else flagNX)))) ∧
    (Runs s (.cvti g m d a c 1) t → AnswersFloat s (.cvti g m d a c 1) t d (fun r fl =>
      ∃ n : Int, lo ≤ n ∧ n ≤ hi ∧ (n - v.toNat) % 2 ^ width = 0 ∧
        (n = 0 → r = 0 ∧ fl = 0) ∧
        (n ≠ 0 → rounded fp32 (roundingMode m) n r ∧ fl = if codeValue fp32 r = n then 0 else flagNX)))

/-- R166, R167: MXQ gives the participants one scale and each its element, rounded and saturated; a NaN or an infinity among them gives
the scale 0xFF, code 0 and NV. MXD multiplies an element by its scale and rounds RNE. -/
def Obligations.MicroscaledBlocks : Prop :=
  ∀ (g : Guard) (m : BitVec 2) (d a : BitVec 6) (f : BitVec 3) (r : BitVec 1) (s : State) (t : Nat),
    let x := (s.thread t).reg a.toNat
    let fm := if f = 3 then e4m3 else if f = 4 then e5m2 else e2m1
    let emax : Int := if f = 3 then 8 else if f = 4 then 15 else 2
    let value := fun u => codeValue fp32 ((s.thread u).reg a.toNat).toNat
    let ps := s.participants (.mxq g m d a f r)
    let finite := ∀ u ∈ ps, finiteCode fp32 ((s.thread u).reg a.toNat).toNat
    (Runs s (.mxq g m d a f r) t →
      AnswersFloat s (.mxq g m d a f r) t d (fun c fl =>
        (¬ finite → c = 0xFF00 ∧ fl = flagNV) ∧
        (finite → ∃ scale : Int, c / 256 = scale + 127 ∧
          ((∀ u ∈ ps, value u = 0) → scale = -127) ∧
          (∀ u ∈ ps, value u ≠ 0 → (∀ w ∈ ps, |value w| ≤ |value u|) → scale = max (-127) (min 127 (Int.log 2 |value u| - emax))) ∧
          (value t = 0 → c % 256 = signed fm x.msb 0 ∧ fl = 0) ∧
          (value t ≠ 0 → ∃ fl', roundsTo fm (conversionMode m r (s.thread t).srseed 0) true (value t * (2 : ℚ) ^ (-scale)) (c % 256) fl' ∧
            fl = fl' &&& (flagUF ||| flagNX)))) ∧
      Answers (.mxq g m d a f r) s fun s' => seedAfter r s s' t) ∧
    (Runs s (.mxd g d a f) t → AnswersFloat s (.mxd g d a f) t d (fun c fl =>
      let e := (x.extractLsb' 8 8).toNat
      let k := x.toNat % 2 ^ fm.width
      (e = 255 → c = fp32.nan ∧ fl = 0) ∧
      (e ≠ 255 → nanCode fm k → nanGives fp32 (signalling fm k) c fl) ∧
      (e ≠ 255 → infinite fm k → c = signed fp32 (negative fm k) 0x7F800000 ∧ fl = 0) ∧
      (e ≠ 255 → finiteCode fm k → codeValue fm k = 0 → c = signed fp32 (negative fm k) 0 ∧ fl = 0) ∧
      (e ≠ 255 → finiteCode fm k → codeValue fm k ≠ 0 → roundsTo fp32 .rne false (codeValue fm k * (2 : ℚ) ^ ((e : Int) - 127)) c fl)))

/-- R156, R157: minimum, maximum, sign and integral words, and FSETP. -/
def Obligations.FloatExtremesSignsAndComparisons : Prop :=
  clausesFloatMinMaxSignAndIntegralWords ∧ clausesFloatCompareSetsItsPredicate

/-- R163, R165: the conversions between floating-point formats and with integers. -/
def Obligations.Conversions : Prop :=
  clausesFloatFormatConversions ∧ clausesIntegerConversions
/-! ## What words leave alone -/

/-- Two threads hold the same registers, predicates and floating-point registers. -/
def sameRegisters (a b : Thread) : Prop :=
  b.regs = a.regs ∧ b.preds = a.preds ∧ b.fpflags = a.fpflags ∧ b.fpmode = a.fpmode ∧ b.srseed = a.srseed

/-- Two threads hold the same exception registers (R395) and restart point. -/
def sameException (a b : Thread) : Prop :=
  b.trcause = a.trcause ∧ b.trpc = a.trpc ∧ b.trmask = a.trmask ∧ b.traddr = a.traddr ∧ b.trword = a.trword ∧ b.h = a.h ∧
  b.edepth = a.edepth ∧ b.idempc = a.idempc

/-- Every special register of the warps and cores that a word may write is as it was. -/
def specialsKept (s s' : State) : Prop :=
  (∀ c, (s'.coreAt c).watch = (s.coreAt c).watch ∧ (s'.coreAt c).whalt = (s.coreAt c).whalt ∧
    (s'.coreAt c).govmodeNext = (s.coreAt c).govmodeNext) ∧
  (∀ w, (s'.warp w).wdoglim = (s.warp w).wdoglim ∧ (s'.warp w).sstep = (s.warp w).sstep ∧ (s'.warp w).lscale = (s.warp w).lscale ∧
    (s'.warp w).toks = (s.warp w).toks)

/-- Every byte of memory, tag, swizzle id and tile slot, and every special register of the warps and cores that a word may write, is as it was. -/
def restKept (s s' : State) : Prop :=
  (∀ k, s'.byte k = s.byte k ∧ s'.tagAt k = s.tagAt k ∧ s'.swzAt k = s.swzAt k) ∧
  (∀ c, (s'.coreAt c).tiles = (s.coreAt c).tiles) ∧ specialsKept s s'

/-- A key that a memory's byte may have: those between 2^70 and 2^72 number tags and swizzle ids. -/
def byteKey (k : Nat) : Prop := k < 2 ^ 70 ∨ 2 ^ 72 ≤ k

/-- A byte of memory is as it was, or is one that the core's L1 held dirty and has written back (R196, R460). -/
def keptOrWrittenBack (s s' : State) (core k : Nat) : Prop :=
  let x := s.l1At core (k / 32)
  byteKey k → s'.byte k = s.byte k ∨ (x.dirty.getLsbD (k % 32) = true ∧ s'.byte k = x.byte (k % 32))

/-- Every tag of a slice's word is as it was, but for those of the words that `P` names. -/
def tagsKept (s s' : State) (P : Nat → Prop) : Prop := ∀ j, j < 1024 * 8388608 → ¬ P j → s'.tagAt j = s.tagAt j
/-- Every swizzle id of a slice's line is as it was, but for those of the lines that `P` names. -/
def idsKept (s s' : State) (P : Nat → Prop) : Prop := ∀ j, j < 1024 * 8388608 → ¬ P j → s'.swzAt j = s.swzAt j
/-- No exception. -/
def noKey (_ : Nat) : Prop := False

/-- R91: the loop-back rule: a loop stack, top first, and a PC that takes the value v become another stack and PC. -/
def loopsBack (depth : Nat) (h : Bool) : List LoopEntry → DWord → List LoopEntry → DWord → Prop
  | [], v, l', v' => l' = [] ∧ v' = v
  | e :: es, v, l', v' =>
    let acts := e.depth = depth ∧ e.h = h ∧ v = e.stop
    (¬ acts → l' = e :: es ∧ v' = v) ∧
    (acts → 1 < e.count.toNat → l' = { e with count := e.count - 1 } :: es ∧ v' = e.start) ∧
    (acts → e.count.toNat ≤ 1 → loopsBack depth h es v l' v')

/-- The thread `b` is the thread `a` gone on at v under the loop-back rule. -/
def goesOnAt (a b : Thread) (v : DWord) : Prop := loopsBack a.depth a.h a.lstk v b.lstk b.pc

/-- R30: a thread of the bundle only advances past the word: nothing of it changes but its place in the program. -/
def onlyAdvances (s s' : State) (u : Nat) : Prop :=
  goesOnAt (s.thread u) (s'.thread u) (s.cur.pc + 4) ∧
  s'.thread u = { s.thread u with pc := (s'.thread u).pc, lstk := (s'.thread u).lstk }

/-- The registers and the predicates that a word of OP 0x10 to 0x41 may write (R116, R121 to R139, R151 to R167). -/
def destinations : Instr → Option (List Nat × List Nat)
  | .add _ m d _ _ | .sub _ m d _ _ => some ([d.toNat], if m = 3 then [6] else [])
  | .addi _ d _ _ | .mul _ _ d _ _ | .mad _ _ d _ _ | .and _ d _ _ | .or _ d _ _ | .xor _ d _ _ | .andn _ d _ _ | .shl _ d _ _
  | .shr _ d _ _ | .sar _ d _ _ | .rot _ d _ _ | .shlImm _ d _ _ | .shrImm _ d _ _ | .sarImm _ d _ _ | .rotImm _ d _ _
  | .min _ _ d _ _ | .max _ _ d _ _ | .clz _ d _ | .ctz _ d _ | .popc _ d _ | .brev _ d _ | .abs _ d _ | .neg _ d _ | .not _ d _
  | .sext8 _ d _ | .sext16 _ d _ | .bfe _ _ d _ _ | .bfi _ d _ _ | .sel _ _ d _ _ | .mov _ d _ | .p2v _ d | .movi _ d _
  | .prmt _ d _ _ | .nlut _ _ d _ _ | .shfl _ _ d _ _ => some ([d.toNat], [])
  | .add64 _ _ d _ _ | .lea _ _ d _ _ => some ([d.toNat, d.toNat + 1], [])
  | .setp _ _ _ q _ _ | .setpi _ _ q _ _ | .fsetp _ _ _ q _ _ => some ([], [q.toNat])
  | .v2p _ _ => some ([], [0, 1, 2, 3, 4, 5, 6])
  | .vote _ m d _ => some (if m = 2 then ([d.toNat], []) else ([], [d.toNat]))
  | .fadd _ _ d _ _ | .fsub _ _ d _ _ | .fmul _ _ d _ _ | .fma _ _ d _ _ | .fmin _ d _ _ | .fmax _ d _ _ | .fabs _ d _ | .fneg _ d _
  | .frnd _ _ d _ | .rcp _ d _ | .rsq _ d _ | .sqrt _ d _ | .ex2 _ d _ | .lg2 _ d _ | .sin _ d _ | .cos _ d _ | .hadd2 _ _ d _ _
  | .hmul2 _ _ d _ _ | .hfma2 _ _ d _ _ | .hmm2 _ _ d _ _ | .cvtf _ _ d _ _ _ _ _ | .cvtp _ _ d _ _ _ _ _ | .cvti _ _ d _ _ _
  | .mxq _ _ d _ _ _ | .mxd _ d _ _ => some ([d.toNat], [])
  | _ => none

/-- R147: a conversion that rounds stochastically, the only word that steps %SRSEED. -/
def stochastic : Instr → Bool
  | .cvtf _ _ _ _ _ r _ _ | .cvtp _ _ _ _ _ r _ _ | .mxq _ _ _ _ _ r => r == 1
  | _ => false

/-- R31: the word carries the park marker. -/
def marked (i : Instr) : Prop := ∃ g, i.guard? = some g ∧ g.s = true

/-- R30, R31, R91: a word without a trap is behind every thread of its bundle: a guard-false thread only advances, a participant goes on past the
word, and it parks if the word carries the park marker and it has outstanding results. -/
def movesPast (s s' : State) (i : Instr) : Prop :=
  (∀ u ∈ s.cur.threads, s.steady u) →
    (∀ u ∈ s.cur.threads, u ∉ s.participants i → onlyAdvances s s' u) ∧
    ∀ u ∈ s.participants i, goesOnAt (s.thread u) (s'.thread u) (s.cur.pc + 4) ∧
      (marked i → (s.thread u).outs ≠ [] → (s'.thread u).park = .marker) ∧
      (¬ marked i ∨ (s.thread u).outs = [] → (s'.thread u).park = (s.thread u).park)

/-- THE FRAME OF THE COMPUTING WORDS (R11, R30, R31, R91, R116, R148, R151): whatever the word does, every thread keeps the registers and predicates
that are not among its destinations, keeps %FPMODE, every flag that was set, all flags if the word sets none, and %SRSEED if it does not round
stochastically; memory, tags, tile slots and the other special registers stay; a thread that is no participant keeps all its registers. If the
word takes no trap, every thread of the bundle goes on past it and keeps everything else, its exception registers among it, and a participant
with outstanding results parks if the word carries the park marker; no thread outside the bundle changes. -/
def Obligations.ComputingWordsWriteOnlyTheirDestinations : Prop :=
  ∀ (i : Instr) (ds ps : List Nat) (s : State), destinations i = some (ds, ps) → Answers i s fun s' =>
    restKept s s' ∧
    (∀ u, (∀ n, n ∉ ds → (s'.thread u).reg n = (s.thread u).reg n) ∧ (∀ p, p ∉ ps → (s'.thread u).pred p = (s.thread u).pred p) ∧
      (s'.thread u).fpmode = (s.thread u).fpmode ∧ (s'.thread u).fpflags &&& (s.thread u).fpflags = (s.thread u).fpflags ∧
      (mayFlag i = false → (s'.thread u).fpflags = (s.thread u).fpflags) ∧
      (stochastic i = false → (s'.thread u).srseed = (s.thread u).srseed)) ∧
    (∀ u, u ∉ s.participants i → sameRegisters (s.thread u) (s'.thread u)) ∧
    (s.executes i → s.soundCore → (∀ u ∈ s.cur.threads, s.steady u) →
      (∀ u, u ∉ s.cur.threads → s'.thread u = s.thread u) ∧
      (∀ u ∈ s.cur.threads, u ∉ s.participants i → onlyAdvances s s' u) ∧
      ∀ u ∈ s.participants i, goesOnAt (s.thread u) (s'.thread u) (s.cur.pc + 4) ∧ sameException (s.thread u) (s'.thread u) ∧
        s'.thread u = { s.thread u with
          regs := (s'.thread u).regs, preds := (s'.thread u).preds, fpflags := (s'.thread u).fpflags, srseed := (s'.thread u).srseed,
          rdy := (s'.thread u).rdy, pc := (s'.thread u).pc, lstk := (s'.thread u).lstk, park := (s'.thread u).park } ∧
        (marked i → (s.thread u).outs ≠ [] → (s'.thread u).park = .marker) ∧
        (¬ marked i ∨ (s.thread u).outs = [] → (s'.thread u).park = (s.thread u).park))

/-! ## Taking a trap (R39, R58, R393 to R400) -/

/-- A thread has taken a trap at the bundle's word: in handler mode, or without a handler, its warp is held by HK3 with the cause, to be
killed; otherwise the frame registers are written, DEPTH is saved, H is set, demotion ends, and the thread is at TRAPH with its DEPTH,
loop stack and registers as they were. -/
def trapped (s s' : State) (t : Nat) (cause : Byte) (addr : DWord) : Prop :=
  let th := s.thread t
  let th' := s'.thread t
  let w' := s'.warpOfThread t
  th'.trcause = cause ∧ th'.trpc = s.cur.pc0 ∧ th'.trword = s.cur.word ∧ th'.trmask = s.cur.mask ∧ th'.traddr = addr ∧
  sameRegisters th th' ∧ th'.depth = th.depth ∧ th'.lstk = th.lstk ∧
  (th.h = true ∨ s.traphOf t = 0 → (th'.h = th.h ∧ th'.pc = th.pc) ∧ w'.held = true ∧
    ((s.warpOfThread t).held = false → w'.hkKill = true)) ∧
  (th.h = false → s.traphOf t ≠ 0 → th'.edepth = th.depth ∧ th'.h = true ∧ th'.dm = false ∧ th'.pc = s.traphOf t)

/-- R11, R395, R396, R398, R416: TRAP and BKPT deliver causes 0x11 and 0x0E to every participant, with %TRADDR 0. -/
def clausesTrapAndBreakpointEnterTheHandler : Prop :=
  ∀ (g : Guard) (c : BitVec 12) (s : State) (t : Nat),
    (s.executes (.trap g c) → t ∈ s.participants (.trap g c) → Answers (.trap g c) s fun s' => trapped s s' t 0x11 0) ∧
    (s.executes (.bkpt g c) → t ∈ s.participants (.bkpt g c) → Answers (.bkpt g c) s fun s' => trapped s s' t 0x0E 0)

/-- R37, R58: a SIMT word with a decode trap traps every thread of the bundle with its cause, whatever their guards; a word that does not
decode traps them with cause 0x02. No memory changes. -/
def clausesDecodeTrapsTakeEveryThread : Prop :=
  (∀ (i : Instr) (g : Guard) (c : Byte) (s : State) (t : Nat), i.guard? = some g → s.cur.threads.Nodup → t ∈ s.cur.threads →
    i.decodeCause s.cur.pfx s.bundleAllot = some c → Answers i s fun s' => trapped s s' t c 0 ∧ ∀ k, s'.byte k = s.byte k) ∧
  (∀ (w : Word) (s : State) (t : Nat), s.cur.threads.Nodup → t ∈ s.cur.threads → Answers (.illegalWord w) s fun s' =>
    trapped { s with cur := { s.cur with word := w } } s' t 2 0 ∧ ∀ k, s'.byte k = s.byte k) ∧
  (∀ (i : Instr) (g : Guard), i.guard? = some g → g.n = true → g.p = 7 → ∀ (p : Prefixes) (m : Nat), i.decodeCause p m = some 2)

/-! ## Control words (R90 to R110) -/

/-- A word that acts on each participant alone is issued, and a thread is one of them, with no single-step trap to follow. -/
def Issues (s : State) (i : Instr) (t : Nat) : Prop := s.executes i ∧ t ∈ s.participants i ∧ s.steady t

/-- R92: the entries that a branch to g leaves are gone. -/
def branchesTo (a b : Thread) (g : DWord) : Prop :=
  b.pc = g ∧ b.lstk = a.lstk.dropWhile (fun e => e.depth == a.depth && e.h == a.h && !(decide (e.start ≤ g) && decide (g < e.stop)))

/-- R96, R106, R109: NOP only advances; YIELD demotes; IDEM records the restart point. -/
def clausesNopYieldAndIdem : Prop :=
  ∀ (g : Guard) (s : State) (t : Nat),
    let th := s.thread t
    (Issues s (.nop g) t → Answers (.nop g) s fun s' => goesOnAt th (s'.thread t) (s.cur.pc + 4) ∧ movesPast s s' (.nop g) ∧ (s'.thread t).dm = th.dm) ∧
    (Issues s (.yield g) t → Answers (.yield g) s fun s' => goesOnAt th (s'.thread t) (s.cur.pc + 4) ∧ movesPast s s' (.yield g) ∧ (s'.thread t).dm = true) ∧
    (Issues s (.idem g) t → Answers (.idem g) s fun s' => goesOnAt th (s'.thread t) (s.cur.pc + 4) ∧ movesPast s s' (.idem g) ∧
      (s'.thread t).idempc = s.cur.pc ∧ (s'.thread t).idemDepth = th.depth ∧ (s'.thread t).idemLstk = th.lstk)

/-- NOP, the branches, the loops, YIELD and IDEM leave memory, every register and every special register alone, whether they trap or not, and no
thread outside the bundle changes; a guard-false thread only advances. -/
def clausesFrameOfPlainControlWords : Prop :=
  ∀ (g : Guard) (y : BitVec 1) (o : BitVec 19) (a : BitVec 6) (l : BitVec 14) (c n : BitVec 10) (s : State) (i : Instr),
    i ∈ [.nop g, .bra g y o, .brx g y a, .loop g a l, .loopi g c n, .yield g, .idem g] → Answers i s fun s' =>
      restKept s s' ∧
      (∀ u, sameRegisters (s.thread u) (s'.thread u) ∧ (s'.thread u).depth = (s.thread u).depth ∧ (s'.thread u).rcache = (s.thread u).rcache ∧
        (s'.thread u).acks = (s.thread u).acks ∧ (s'.thread u).live = (s.thread u).live) ∧
      (∀ u, u ∉ s.cur.threads → s'.thread u = s.thread u) ∧
      (s.executes i → ∀ u ∈ s.cur.threads, u ∉ s.participants i → s.steady u → onlyAdvances s s' u)

/-- A thread waits at an RCV. -/
def waitsAtRcv (th : Thread) : Prop := ∃ n w m k, th.park = .word .rcv n w m k

/-- RCV and EXIT leave memory and the special registers alone; RCV leaves every register, and EXIT those of the threads that do not end. A thread
outside the bundle changes only if it waits at an RCV, which may release it; a guard-false thread only advances, and a participant of RCV keeps
everything but its place and that it waits. -/
def clausesFrameOfReconvergenceAndExit : Prop :=
  ∀ (g : Guard) (tmo : BitVec 16) (s : State),
    let free := fun u => (s.thread u).park = .none
    (Answers (.rcv g tmo) s fun s' => restKept s s' ∧ (∀ u, sameRegisters (s.thread u) (s'.thread u)) ∧
      (∀ u, u ∉ s.cur.threads → ¬ waitsAtRcv (s.thread u) → s'.thread u = s.thread u) ∧
      (s.executes (.rcv g tmo) → ∀ u ∈ s.cur.threads, s.steady u → free u →
        (u ∉ s.participants (.rcv g tmo) → onlyAdvances s s' u) ∧
        s'.thread u = { s.thread u with pc := (s'.thread u).pc, lstk := (s'.thread u).lstk, park := (s'.thread u).park })) ∧
    (Answers (.exit g) s fun s' => (∀ k, s'.byte k = s.byte k ∧ s'.tagAt k = s.tagAt k ∧ s'.swzAt k = s.swzAt k) ∧ specialsKept s s' ∧
      (∀ u, u ∉ s.participants (.exit g) → sameRegisters (s.thread u) (s'.thread u)) ∧
      (∀ u, u ∉ s.cur.threads → ¬ waitsAtRcv (s.thread u) → s'.thread u = s.thread u) ∧
      (s.executes (.exit g) → ∀ u ∈ s.cur.threads, u ∉ s.participants (.exit g) → s.steady u → free u → onlyAdvances s s' u))

/-- CALL, CALLX and RET leave every register, special register, tag and tile slot alone and no thread outside the bundle changes; a guard-false
thread only advances. Memory stays, but where a fifth cached address is written to the return area, and what the L1 writes back for that. -/
def clausesFrameOfCallsAndReturns : Prop :=
  ∀ (g : Guard) (o : BitVec 19) (a : BitVec 6) (s : State) (i : Instr),
    i ∈ [.call g o, .callx g a, .ret g] → Answers i s fun s' =>
      let calls := i ≠ .ret g
      specialsKept s s' ∧ tagsKept s s' noKey ∧ idsKept s s' noKey ∧ (∀ c, (s'.coreAt c).tiles = (s.coreAt c).tiles) ∧
      (∀ u, sameRegisters (s.thread u) (s'.thread u)) ∧ (∀ u, u ∉ s.cur.threads → s'.thread u = s.thread u) ∧
      (s.executes i → ∀ u ∈ s.cur.threads, u ∉ s.participants i → s.steady u → onlyAdvances s s' u) ∧
      (calls → (∀ u ∈ s.participants i, (s.thread u).rcache.length < 4) → ∀ k, s'.byte k = s.byte k) ∧
      (¬ calls → (∀ u ∈ s.participants i, (s.thread u).depth = 0 ∨ ∃ e ∈ (s.thread u).rcache, e.1 = (s.thread u).depth - 1) →
        ∀ k, s'.byte k = s.byte k) ∧
      (∀ t, s.participants i = [t] → (s.thread t).rcache.length = 4 → ∀ j,
        (∀ d p, s.checkPage (coreOfThread t) (s.warpOfThread t).part ((s.warpOfThread t).returnSlot (laneOf t) d) false true true = .place p →
          j < p.home.key ∨ p.home.key + 8 ≤ j) → keptOrWrittenBack s s' (coreOfThread t) j) ∧
      (¬ calls → ∀ t, s.participants i = [t] → ∀ j, keptOrWrittenBack s s' (coreOfThread t) j)

/-- R101, R459: a RET whose address is not cached is read as a load: its thread waits at the word until the address has come. -/
def clausesReturnFromTheReturnArea : Prop :=
  ∀ (g : Guard) (s : State) (t : Nat) (p : Place),
    let th := s.thread t
    let w := s.warpOfThread t
    Issues s (.ret g) t → s.participants (.ret g) = [t] → th.depth ≠ 0 → (th.h = true → th.edepth < th.depth - 1) →
    (∀ e ∈ th.rcache, e.1 ≠ th.depth - 1) →
    s.checkPage (coreOfThread t) w.part (w.returnSlot (laneOf t) (th.depth - 1)) true false true = .place p → Answers (.ret g) s fun s' =>
      (s'.thread t).park = .word .ret (s.cur.pc + 4) s.cur.word g.s s.cur.mask ∧ (s'.thread t).pc = th.pc ∧ (s'.thread t).depth = th.depth ∧
      (s'.thread t).lstk = th.lstk ∧ sameRegisters th (s'.thread t) ∧ ∃ o ∈ (s'.thread t).outs, o.kind = .ret ∧ o.dst = []

/-- R11, R30, 03_control.md: the frame of the control words. -/
def Obligations.ControlWordsLeaveRegistersAndMemory : Prop :=
  clausesFrameOfPlainControlWords ∧ clausesFrameOfReconvergenceAndExit ∧ clausesFrameOfCallsAndReturns

/-- R39 to R42: a PFX word joins the group; a PFX of kind 10 lets the threads go on whose warp's named tokens are complete. A second PFX of
one kind traps. -/
def Obligations.PrefixesJoinTheGroup : Prop :=
  ∀ (e : BitVec 18) (o c l : BitVec 3) (m : BitVec 8) (h : BitVec 2) (s : State), s.cur.mem ≠ [] →
    (s.cur.pfx.ext = none → Answers (.pfxExt e) s fun s' =>
      s' = { s with cur := { s.cur with pfx := { s.cur.pfx with ext := some e }, pc := s.cur.pc + 4 } }) ∧
    (s.cur.pfx.ord = none → (Instr.pfxOrd o c l).wf = true → Answers (.pfxOrd o c l) s fun s' =>
      s' = { s with cur := { s.cur with pfx := { s.cur.pfx with ord := some (o, c, l) }, pc := s.cur.pc + 4 } }) ∧
    (s.cur.pfx.tok = none → (Instr.pfxTok m h).wf = true → Answers (.pfxTok m h) s fun s' =>
      let go := s.cur.mem.filter (fun x => (s.warp (warpKey s.cur.core x.2)).tokensDone m)
      (go = [] → s'.cur.mem = []) ∧
      (go ≠ [] → s'.cur = { s.cur with pfx := { s.cur.pfx with tok := some (m, h) }, pc := s.cur.pc + 4, mem := go }) ∧
      ∀ u, s'.thread u = s.thread u) ∧
    (s.cur.pfx.ext ≠ none → s.cur.threads.Nodup → ∀ t ∈ s.cur.threads, Answers (.pfxExt e) s fun s' => trapped s s' t 2 0)

/-- R97, R98: BRA and BRX take every participant to its target, unwinding the loop stack; a backward branch with Y demotes; a target that
is misaligned or beyond the global window traps with the PC, loop stack and demotion as they were. -/
def clausesBranchesUnwindLoopsOrTrap : Prop :=
  ∀ (g : Guard) (y : BitVec 1) (o : BitVec 19) (a : BitVec 6) (s : State) (t : Nat),
    let th := s.thread t
    let v := s.cur.pc + 4 * o.signExtend 64
    let x := th.pair a.toNat
    let taken := fun (s' : State) (v : DWord) => branchesTo th (s'.thread t) v ∧ sameException th (s'.thread t) ∧
      (s'.thread t).dm = (th.dm || (y == 1 && decide (v ≤ s.cur.pc0)))
    (Issues s (.bra g y o) t → v.toNat % 4 = 0 → v ≤ 0x00FFFFFFFFFFFFFF → Answers (.bra g y o) s fun s' => taken s' v) ∧
    (Issues s (.brx g y a) t → x.toNat % 4 = 0 → x ≤ 0x00FFFFFFFFFFFFFF → Answers (.brx g y a) s fun s' => taken s' x) ∧
    (Issues s (.bra g y o) t → v.toNat % 4 = 0 → 0x00FFFFFFFFFFFFFF < v → Answers (.bra g y o) s fun s' => trapped s s' t 4 0) ∧
    (Issues s (.brx g y a) t → x.toNat % 4 ≠ 0 → Answers (.brx g y a) s fun s' => trapped s s' t 3 0) ∧
    (Issues s (.brx g y a) t → x.toNat % 4 = 0 → 0x00FFFFFFFFFFFFFF < x → Answers (.brx g y a) s fun s' => trapped s s' t 4 0)

/-- R99 to R101: CALL and CALLX raise DEPTH and push the address of the next word; DEPTH 255 traps with cause 0x0A; RET with a cached
address returns to it and a RET at DEPTH 0 traps with cause 0x08. -/
def clausesCallsAndReturns : Prop :=
  ∀ (g : Guard) (o : BitVec 19) (a : BitVec 6) (s : State) (t : Nat),
    let th := s.thread t
    let v := s.cur.pc + 4 * o.signExtend 64
    let x := th.pair a.toNat
    let legal := fun (v : DWord) => v.toNat % 4 = 0 ∧ v ≤ 0x00FFFFFFFFFFFFFF
    let called := fun (s' : State) (v : DWord) =>
      (s'.thread t).pc = v ∧ (s'.thread t).depth = th.depth + 1 ∧ (s'.thread t).lstk = th.lstk ∧
      (s'.thread t).rcache.head? = some (th.depth, s.cur.pc + 4) ∧ sameRegisters th (s'.thread t) ∧ sameException th (s'.thread t)
    (Issues s (.call g o) t → legal v → th.depth ≠ 255 → Answers (.call g o) s fun s' => called s' v) ∧
    (Issues s (.callx g a) t → legal x → th.depth ≠ 255 → Answers (.callx g a) s fun s' => called s' x) ∧
    (Issues s (.call g o) t → legal v → th.depth = 255 → Answers (.call g o) s fun s' => trapped s s' t 0x0A 0) ∧
    (Issues s (.callx g a) t → legal x → th.depth = 255 → Answers (.callx g a) s fun s' => trapped s s' t 0x0A 0) ∧
    (Issues s (.ret g) t → th.depth = 0 → Answers (.ret g) s fun s' => trapped s s' t 8 0) ∧
    (∀ e, Issues s (.ret g) t → th.depth ≠ 0 → (th.h = true → th.edepth < th.depth - 1) →
      th.rcache.find? (fun e => e.1 == th.depth - 1) = some e → Answers (.ret g) s fun s' =>
        (s'.thread t).depth = th.depth - 1 ∧ loopsBack (th.depth - 1) th.h th.lstk e.2 (s'.thread t).lstk (s'.thread t).pc ∧
        (s'.thread t).idempc = (if th.depth - 1 < th.idemDepth then 0 else th.idempc) ∧ sameRegisters th (s'.thread t))

/-- R102: LOOP and LOOPI push an entry and enter the body, skip it when the count is 0, or trap with cause 0x09 when the stack is full. -/
def clausesLoopsPushSkipOrTrap : Prop :=
  ∀ (g : Guard) (d : BitVec 6) (k : BitVec 14) (c l : BitVec 10) (s : State) (t : Nat),
    let th := s.thread t
    let a := s.cur.pc + 4
    let outcome := fun (i : Instr) (n len : Nat) =>
      let e := a + 4 * BitVec.ofNat 64 len
      Issues s i t →
        (n = 0 → Answers i s fun s' => goesOnAt th (s'.thread t) e) ∧
        (n ≠ 0 → 4 ≤ th.lstk.length → Answers i s fun s' => trapped s s' t 9 0) ∧
        (n ≠ 0 → th.lstk.length < 4 → Answers i s fun s' => (s'.thread t).pc = a ∧
          (s'.thread t).lstk = { start := a, stop := e, count := BitVec.ofNat 32 n, depth := th.depth, h := th.h } :: th.lstk)
    outcome (.loop g d k) (th.reg d.toNat).toNat (match s.cur.pfx.ext with | none => k.toNat | some e => (e ++ k).toNat) ∧
    outcome (.loopi g c l) c.toNat l.toNat

/-- R103, R104, R107: RCV releases the warp's threads together when every live one has arrived, and else parks its participants; EXIT ends
each participant, discarding its registers, predicates, loop stack and outstanding results; its stores still complete. -/
def Obligations.ReconvergenceAndExit : Prop :=
  ∀ (g : Guard) (tmo : BitVec 16) (s : State) (t : Nat),
    let i := Instr.rcv g tmo
    let th := s.thread t
    let w := warpOf t
    (Issues s i t → (s.warp w).rcv = [] → (∀ u ∈ s.liveThreads w, u ∈ s.participants i ∧ (s.thread u).depth = th.depth) →
      (∀ u ∈ s.participants i, u ∈ s.liveThreads w) →
      Answers i s fun s' => goesOnAt th (s'.thread t) (s.cur.pc + 4) ∧ (s'.warp w).rcv = []) ∧
    (Issues s i t → (∀ u ∈ s.participants i, warpOf u = w) → (∃ u ∈ s.liveThreads w, u ∉ s.cur.threads ∧ (s.thread u).park = .none) →
      Answers i s fun s' => (s'.thread t).pc = th.pc ∧ (s'.thread t).park = .word .rcv (s.cur.pc + 4) s.cur.word g.s s.cur.mask ∧
        (s'.warp w).rcv.any (fun e => e.pc == s.cur.pc && e.depth == th.depth) = true) ∧
    (s.executes (.exit g) → t ∈ s.participants (.exit g) → Answers (.exit g) s fun s' =>
      (s'.thread t).live = false ∧ (∀ n, (s'.thread t).reg n = 0) ∧ (s'.thread t).preds = 0 ∧ (s'.thread t).lstk = [] ∧
      (s'.thread t).outs = [] ∧ (s'.thread t).acks = th.acks)

/-- R11, R37, R58, R395 to R398, R416: TRAP and BKPT, and the traps of decoding. Inferences and choices of the model: log entry 10. -/
def Obligations.TrapsAreTaken : Prop :=
  clausesTrapAndBreakpointEnterTheHandler ∧ clausesDecodeTrapsTakeEveryThread

/-- R96, R102, R106, R109: NOP, YIELD, IDEM, LOOP and LOOPI. -/
def Obligations.LoopsAndSimpleControlWords : Prop :=
  clausesNopYieldAndIdem ∧ clausesLoopsPushSkipOrTrap

/-- R97 to R101: BRA, BRX, CALL, CALLX and RET. -/
def Obligations.BranchesCallsAndReturns : Prop :=
  clausesBranchesUnwindLoopsOrTrap ∧ clausesCallsAndReturns ∧ clausesReturnFromTheReturnArea
/-! ## Memory words (R19 to R22, R196, R200, R209, R213, R216 to R221, R233 to R241, R460) -/

/-- A word executes with one participant, a thread of one of the part's 1,024 cores (R1), on a core without faults, and no single-step trap
follows it. -/
def Alone (s : State) (i : Instr) (t : Nat) : Prop :=
  s.executes i ∧ s.soundCore ∧ s.participants i = [t] ∧ s.steady t ∧ coreOfThread t < 1024

/-- The bytes of a size code (R34). -/
def accessBytes (z : BitVec 3) : Nat := match z.toNat with | 0 => 1 | 1 => 1 | 2 => 2 | 3 => 2 | 4 => 4 | 5 => 8 | 6 => 16 | _ => 0

/-- The address of an M-format word (R34, R40, R236): xA plus the signed displacement, with the group's extension, in units of the size. -/
def memoryAddress (p : Prefixes) (th : Thread) (z : BitVec 3) (a : BitVec 6) (i : BitVec 5) : DWord :=
  th.pair a.toNat + BitVec.ofInt 64 ((match p.ext with | none => i.toInt | some e => (e ++ i).toInt) * accessBytes z)

/-- The access of a memory word: its address, its bytes, and whether it reads, writes and is tagged (R216, R236 to R238, R245). -/
def accessOf (s : State) (th : Thread) : Instr → Option (DWord × Nat × Bool × Bool × Bool)
  | .ld _ z _ a i => some (memoryAddress s.cur.pfx th z a i, accessBytes z, true, false, false)
  | .lda _ z _ a i => some (memoryAddress s.cur.pfx th z a i, accessBytes z, true, false, false)
  | .st _ z _ a i => some (memoryAddress s.cur.pfx th z a i, accessBytes z, false, true, false)
  | .stl _ z _ a i => some (memoryAddress s.cur.pfx th z a i, accessBytes z, false, true, false)
  | .ldf _ z _ a i => some (memoryAddress s.cur.pfx th z a i, accessBytes z, true, false, true)
  | .lde _ z _ a i => some (memoryAddress s.cur.pfx th z a i, accessBytes z, true, true, true)
  | .stf _ z _ a i => some (memoryAddress s.cur.pfx th z a i, accessBytes z, true, true, true)
  | .sto _ z _ a i => some (memoryAddress s.cur.pfx th z a i, accessBytes z, false, true, true)
  | .sete _ a z => some (th.pair a.toNat, accessBytes z, false, true, true)
  | .setf _ a z => some (th.pair a.toNat, accessBytes z, false, true, true)
  | .tagrd _ _ a z => some (th.pair a.toNat, accessBytes z, true, false, true)
  | .tild _ _ _ a b => some (th.pair a.toNat + (th.reg b.toNat).zeroExtend 64, 16, true, false, true)
  | .tist _ _ _ a b => some (th.pair a.toNat + (th.reg b.toNat).zeroExtend 64, 16, false, true, true)
  | .atom _ _ a w _ => some (th.pair a.toNat, if w = 1 then 8 else 4, true, true, false)
  | .cas _ w _ a _ => some (th.pair a.toNat, if w = 1 then 8 else 4, true, true, false)
  | .red _ _ a w _ => some (th.pair a.toNat, if w = 1 then 8 else 4, true, true, false)
  | _ => none

/-- R19 to R21: the access lies in the global window, in the slice window below the carve-out, or in the thread's stack window. -/
def insideWindows (s : State) (t : Nat) (a : DWord) (n : Nat) : Prop :=
  a.toNat + n ≤ 2 ^ 56 ∨
  (0xFF00000000000000 ≤ a.toNat ∧ a.toNat - 0xFF00000000000000 + n ≤ 8388608 - (s.coreAt (coreOfThread t)).carve) ∨
  (0xFE00000000000000 ≤ a.toNat ∧ a.toNat < 0xFF00000000000000 ∧ a.toNat - 0xFE00000000000000 + n ≤ (s.warpOfThread t).stack)

/-- R22, R209, R210, R395: the checks of an access come in order: the aperture (cause 0x04), alignment (0x03), and for the global window
translation (0x06), an on-demand page, at which the thread parks while HK2 is told, and permission (0x05); %TRADDR is the address's sector. -/
def Obligations.AccessChecksComeInOrder : Prop :=
  ∀ (i : Instr) (s : State) (t : Nat) (a : DWord) (n : Nat) (rd wr tag : Bool), Alone s i t →
    accessOf s (s.thread t) i = some (a, n, rd, wr, tag) →
    let w := s.warpOfThread t
    let x := s.translate (coreOfThread t) w.part a.toNat
    let sector := a &&& ~~~31#64
    (¬ insideWindows s t a n → Answers i s fun s' => trapped s s' t 4 sector) ∧
    (insideWindows s t a n → a.toNat % n ≠ 0 → Answers i s fun s' => trapped s s' t 3 sector) ∧
    (a.toNat + n ≤ 2 ^ 56 → a.toNat % n = 0 →
      (x = .unmapped → Answers i s fun s' => trapped s s' t 6 sector) ∧
      (x = .onDemand → Answers i s fun s' => (s'.thread t).park = .page a ∧ (s'.thread t).pc = (s.thread t).pc ∧
        sameRegisters (s.thread t) (s'.thread t) ∧ (w.part, a) ∈ s'.dev.notices) ∧
      (∀ e size, x = .mapped e size → (rd = true ∧ e.getLsbD 3 = false) ∨ (wr = true ∧ e.getLsbD 4 = false) →
        Answers i s fun s' => trapped s s' t 5 sector))

/-- A memory word of one participant has passed its checks and reaches a place: no watchpoint of the thread's fault domain matches (R413),
and no SO access of the thread holds it back (R224). -/
def Reaches (s : State) (i : Instr) (t : Nat) (a : DWord) (n : Nat) (rd wr tag : Bool) (p : Place) : Prop :=
  Alone s i t ∧ accessOf s (s.thread t) i = some (a, n, rd, wr, tag) ∧ s.checkAccess t a n n rd wr tag = .place p ∧
  s.watched t a n rd wr = false ∧ (p.so s.cur.pfx = true → (s.thread t).soOpen = false)

/-- The byte that an access of a core finds at a key: the L1's when it holds it dirty, or valid for an access that the L1 serves; else memory's. -/
def foundByte (s : State) (core : Nat) (l1 : Bool) (k : Nat) : Byte :=
  let x := s.l1At core (k / 32)
  if x.dirty.getLsbD (k % 32) || (l1 && x.valid) then x.byte (k % 32) else s.byte k

/-- A byte as an access reads it: a stack's byte that another kind of write has hit is a free value to its thread (R459). -/
def readByte (s : State) (stack : Bool) (k : Nat) (b : Byte) : Byte := if stack then s.stackByte k b else b

/-- Register `k` of a value of a size code, from its bytes (R2, R34). -/
def loadedRegister (z : BitVec 3) (b : Nat → Byte) (k : Nat) : Word :=
  match z.toNat with
  | 0 => (b 0).zeroExtend 32
  | 1 => (b 0).signExtend 32
  | 2 => (b 1 ++ b 0).zeroExtend 32
  | 3 => (b 1 ++ b 0).signExtend 32
  | _ => b (4 * k + 3) ++ b (4 * k + 2) ++ b (4 * k + 1) ++ b (4 * k)

/-- The registers of a size code's footprint, from `d` (R34). -/
def registersFrom (d : BitVec 6) (z : BitVec 3) : List Nat :=
  if z = 5 then [d.toNat, d.toNat + 1] else if z = 6 then [d.toNat, d.toNat + 1, d.toNat + 2, d.toNat + 3] else [d.toNat]

/-- A request to another device is among those that wait for their replies. -/
def requested (s : State) (o : ReqOwner) (dev : BitVec 12) (va : Nat) (b : Body) : Prop :=
  ∃ r ∈ s.lodge.outs, r.owner = o ∧ r.pkt.dst = dev ∧ r.pkt.addr = BitVec.ofNat 64 va ∧ r.pkt.body = b

/-- What a load does (R79, R200, R212, R236, R460): its thread passes the word with one more outstanding result, which will write the
footprint's registers; nothing else of it changes, nor any byte but those the L1 writes back. At a place of this device that is neither
refused nor marked the result is the value found there; a refused place gives cause 0x06, a marked one 0x13, and a remote place is asked. -/
def loads (s : State) (i : Instr) (t : Nat) (p : Place) (n : Nat) (dst : List Nat) (l1 : Bool) (acq : Nat) (value : (Nat → Byte) → List Word)
    (z : BitVec 3) : Prop :=
  let core := coreOfThread t
  let k := p.home.key
  let sector := 32 * (k / 32)
  Answers i s fun s' =>
    goesOnAt (s.thread t) (s'.thread t) (s.cur.pc + 4) ∧ sameRegisters (s.thread t) (s'.thread t) ∧ sameException (s.thread t) (s'.thread t) ∧
    (∀ j, keptOrWrittenBack s s' core j) ∧ tagsKept s s' noKey ∧ idsKept s s' noKey ∧
    ∃ o, (s'.thread t).outs = (s.thread t).outs ++ [o] ∧ o.kind = .regs ∧ o.dst = dst ∧ o.acq = acq ∧
      (p.home.isRemote = false → k % 32 + n ≤ 32 → s.marked sector 32 = false → s.refusedAt p.home.sectorHome 32 = false →
        o.res = some (.val (value (fun j => readByte s p.isStack (k + j) (foundByte s core l1 (k + j)))))) ∧
      (p.home.isRemote = false → l1 = false → s.refusedAt p.home n = true → o.res = some (.bad 6)) ∧
      (p.home.isRemote = false → l1 = false → s.refusedAt p.home n = false → s.marked k n = true → (s.l1At core (k / 32)).dirty = 0 →
        o.res = some (.bad 0x13)) ∧
      (∀ dev va, p.home = .remote dev va → l1 = false →
        o.res = none ∧ requested s' (.result t o.id n z) dev va (.read n .plain))

/-- R236, R225, R460: LD and LDA; an LDA acquires at its effective scope, and the L1 serves it at CORE alone. -/
def Obligations.LoadsReturnTheBytesFound : Prop :=
  ∀ (g : Guard) (z : BitVec 3) (d a : BitVec 6) (i : BitVec 5) (s : State) (t : Nat) (ea : DWord) (p : Place),
    let serves := s.l1Serves (coreOfThread t) s.cur.pfx p
    let carried := match s.cur.pfx.ord with | some (_, c, _) => c.toNat | none => 0
    let scope := max carried (p.home.scope (coreOfThread t))
    let value := fun (b : Nat → Byte) => (List.range (registersFrom d z).length).map (loadedRegister z b)
    (Reaches s (.ld g z d a i) t ea (accessBytes z) true false false p →
      loads s (.ld g z d a i) t p (accessBytes z) (registersFrom d z) serves 0 value z) ∧
    (Reaches s (.lda g z d a i) t ea (accessBytes z) true false false p →
      loads s (.lda g z d a i) t p (accessBytes z) (registersFrom d z) ((p.isStack || decide (scope ≤ 1)) && serves) scope value z)

/-- Byte `j` of the footprint that a store writes (R34). -/
def storedByte (th : Thread) (d : BitVec 6) (j : Nat) : Byte := (th.reg (d.toNat + j / 4)).extractLsb' (8 * (j % 4)) 8

/-- What a store does (R196, R213, R236, R460): its thread passes the word with its registers as they were. At the home of this device the
footprint's bytes stand from the place on, or the store is refused with cause 0x06, to be reported later; served by the L1 they are dirty
there; a remote place gets a WRITE. Every other byte stays, but for those the L1 writes back. -/
def stores (s : State) (i : Instr) (t : Nat) (a : DWord) (p : Place) (n : Nat) (d : BitVec 6) (l1 : Bool) : Prop :=
  let core := coreOfThread t
  let k := p.home.key
  let th := s.thread t
  Answers i s fun s' =>
    goesOnAt th (s'.thread t) (s.cur.pc + 4) ∧ sameRegisters th (s'.thread t) ∧ sameException th (s'.thread t) ∧
    (∀ j, (j < k ∨ k + n ≤ j) → keptOrWrittenBack s s' core j) ∧ tagsKept s s' noKey ∧ idsKept s s' noKey ∧
    (l1 = false → p.home.isRemote = false → s.refusedAt p.home n = false →
      (∀ j, j < n → s'.byte (k + j) = storedByte th d j) ∧ ∃ x, (s'.thread t).acks = th.acks ++ [x] ∧ x.fail = none) ∧
    (l1 = false → p.home.isRemote = false → s.refusedAt p.home n = true →
      (∀ j, keptOrWrittenBack s s' core j) ∧ ∃ x, (s'.thread t).acks = th.acks ++ [x] ∧ x.fail = some (6, a &&& ~~~31#64)) ∧
    (l1 = true → k % 32 + n ≤ 32 → (∀ j, keptOrWrittenBack s s' core j) ∧ (s'.thread t).acks = th.acks ∧ ∀ j, j < n →
      (s'.l1At core (k / 32)).byte (k % 32 + j) = storedByte th d j ∧ (s'.l1At core (k / 32)).dirty.getLsbD (k % 32 + j) = true) ∧
    (∀ dev va, p.home = .remote dev va → l1 = false → (∀ j, keptOrWrittenBack s s' core j) ∧
      ∃ x, (s'.thread t).acks = th.acks ++ [x] ∧
        requested s' (.ack t x.id a) dev va (.write ((List.range n).map (storedByte th d)) .plain))

/-- R236, R225, R231: ST and STL; an STL whose release is complete stores as ST does, through the L1 at CORE alone, and one whose release
must wait stays at its word. -/
def Obligations.StoresWriteTheirFootprint : Prop :=
  ∀ (g : Guard) (z : BitVec 3) (d a : BitVec 6) (i : BitVec 5) (s : State) (t : Nat) (ea : DWord) (p : Place),
    let serves := s.l1Serves (coreOfThread t) s.cur.pfx p
    let carried := match s.cur.pfx.ord with | some (_, c, _) => c.toNat | none => 0
    let scope := max carried (p.home.scope (coreOfThread t))
    (Reaches s (.st g z d a i) t ea (accessBytes z) false true false p → stores s (.st g z d a i) t ea p (accessBytes z) d serves) ∧
    (Reaches s (.stl g z d a i) t ea (accessBytes z) false true false p → (s.releaseAt t scope).2 = true →
      stores s (.stl g z d a i) t ea p (accessBytes z) d ((p.isStack || decide (scope ≤ 1)) && serves)) ∧
    (Reaches s (.stl g z d a i) t ea (accessBytes z) false true false p → (s.releaseAt t scope).2 = false →
      Answers (.stl g z d a i) s fun s' => (s'.thread t).pc = (s.thread t).pc ∧ sameRegisters (s.thread t) (s'.thread t) ∧
        ∀ j, keptOrWrittenBack s s' (coreOfThread t) j)

/-- R219: the key where the 16 bytes at a slice key stand under swizzle z. -/
def chunkKey (k : Nat) (z : BitVec 2) : Nat :=
  let c := k / 16 % 16
  let q := k / 256 % 8
  k / 256 * 256 + 16 * (c ^^^ (if z = 0 then 0 else if z = 1 then q % 2 else if z = 2 then q % 4 else q)) + k % 16

/-- R217, R219, R221, R237, R238: the tagged words that never wait, at a place of this device: STO writes data and sets the tag, SETE and
SETF set it, TAGRD returns it; TILD checks the line's swizzle id (cause 0x07) and reads the swizzled chunk; TIST writes it and sets the id.
No other tag, id or byte changes but for what the L1 writes back. -/
def Obligations.TagAndTileWordsAtASlice : Prop :=
  ∀ (g : Guard) (z : BitVec 3) (m : BitVec 2) (d a b : BitVec 6) (i : BitVec 5) (s : State) (t : Nat) (ea : DWord) (p : Place),
    let core := coreOfThread t
    let th := s.thread t
    let k := p.home.key
    let n := accessBytes z
    let carried := match s.cur.pfx.ord with | some (_, c, _) => c.toNat | none => 0
    let quiet := ∀ w ∈ s.tagWaits, w.phase = 1 → w.key / 8 ≠ k / 8
    let passes := fun (s' : State) => goesOnAt th (s'.thread t) (s.cur.pc + 4) ∧ sameRegisters th (s'.thread t) ∧ sameException th (s'.thread t)
    let q := chunkKey k m
    p.home.isSlice = true →
    (Reaches s (.sto g z d a i) t ea n false true true p → (s.releaseAt t (max carried (p.home.scope core))).2 = true → quiet →
      s.refusedAt p.home n = false → Answers (.sto g z d a i) s fun s' => passes s' ∧ s'.tagAt k = true ∧
        (∀ j, j < n → s'.byte (k + j) = storedByte th d j) ∧ (∀ j, (j < k ∨ k + n ≤ j) → keptOrWrittenBack s s' core j) ∧
        tagsKept s s' (fun j => j / 8 = k / 8) ∧ idsKept s s' noKey) ∧
    (∀ v : Bool, let w := if v then Instr.setf g a z else Instr.sete g a z
      Reaches s w t ea n false true true p → quiet → s.refusedAt p.home n = false → Answers w s fun s' => passes s' ∧ s'.tagAt k = v ∧
        (∀ j, keptOrWrittenBack s s' core j) ∧ tagsKept s s' (fun j => j / 8 = k / 8) ∧ idsKept s s' noKey) ∧
    (Reaches s (.tagrd g d a z) t ea n true false true p → s.refusedAt p.home n = false → s.marked k n = false →
      Answers (.tagrd g d a z) s fun s' => passes s' ∧ (∀ j, keptOrWrittenBack s s' core j) ∧ tagsKept s s' noKey ∧ idsKept s s' noKey ∧
        ∃ o, (s'.thread t).outs = th.outs ++ [o] ∧ o.dst = [d.toNat] ∧ o.res = some (.val [if s.tagAt k then 1 else 0])) ∧
    (Reaches s (.tild g m d a b) t ea 16 true false true p → s.refusedAt p.home 16 = false → s.swzAt k ≠ m →
      Answers (.tild g m d a b) s fun s' => trapped s s' t 7 (ea &&& ~~~31#64) ∧ ∀ j, s'.byte j = s.byte j) ∧
    (Reaches s (.tild g m d a b) t ea 16 true false true p → s.refusedAt p.home 16 = false → s.swzAt k = m → k % 16 = 0 →
      s.marked q 16 = false →
      Answers (.tild g m d a b) s fun s' => passes s' ∧ (∀ j, keptOrWrittenBack s s' core j) ∧ tagsKept s s' noKey ∧ idsKept s s' noKey ∧
        ∃ o, (s'.thread t).outs = th.outs ++ [o] ∧ o.dst = registersFrom d 6 ∧
          o.res = some (.val ((List.range 4).map (loadedRegister 6 (fun j => foundByte s core false (q + j)))))) ∧
    (Reaches s (.tist g m d a b) t ea 16 false true true p → s.refusedAt p.home 16 = false → k % 16 = 0 →
      Answers (.tist g m d a b) s fun s' => passes s' ∧ s'.swzAt k = m ∧ (∀ j, j < 16 → s'.byte (q + j) = storedByte th d j) ∧
        (∀ j, (j < q ∨ q + 16 ≤ j) → keptOrWrittenBack s s' core j) ∧ idsKept s s' (fun j => j / 256 = k / 256) ∧
        tagsKept s s' noKey)

/-- R73, R216, R217: LDF, LDE and STF go to their tag unit and park their thread at the word, its registers and memory as they were; a word
whose condition holds when it arrives there is served in one step: LDF and LDE give the data, LDE empties the tag, STF writes the data and
fills it, and the thread passes the word. Inferences and choices of the model: log entry 10. -/
def Obligations.TaggedWordsWaitAndAreServed : Prop :=
  (∀ (g : Guard) (z : BitVec 3) (d a : BitVec 6) (i : BitVec 5) (s : State) (t : Nat) (ea : DWord) (p : Place) (kind : Nat) (w : Instr),
    let core := coreOfThread t
    let th := s.thread t
    let n := accessBytes z
    let carried := match s.cur.pfx.ord with | some (_, c, _) => c.toNat | none => 0
    let scope := max carried (p.home.scope core)
    p.home.isSlice = true →
    (kind = 0 ∧ w = .ldf g z d a i ∧ Reaches s w t ea n true false true p) ∨ (kind = 1 ∧ w = .lde g z d a i ∧ Reaches s w t ea n true true true p) ∨
      (kind = 2 ∧ w = .stf g z d a i ∧ Reaches s w t ea n true true true p ∧ (s.releaseAt t scope).2 = true) →
    Answers w s fun s' => (s'.thread t).pc = th.pc ∧ (s'.thread t).park = .word .tag (s.cur.pc + 4) s.cur.word g.s s.cur.mask ∧
      sameRegisters th (s'.thread t) ∧ (∀ j, keptOrWrittenBack s s' core j) ∧ tagsKept s s' noKey ∧
      ∃ x, s'.tagWaits = s.tagWaits ++ [x] ∧ x.kind = kind ∧ x.key = p.home.key ∧ x.n = n ∧ x.phase = 0 ∧
        (kind = 2 → x.data = (List.range n).map (storedByte th d) ∧ x.who = .tagStore t ea) ∧
        (kind ≠ 2 → x.who = .result t x.id n z ∧ ∃ o, (s'.thread t).outs = th.outs ++ [o] ∧ o.id = x.id ∧ o.dst = registersFrom d z ∧
          o.acq = scope)) ∧
  (∀ (s : State) (x : TagWait) (xs : List TagWait), s.tagWaits = x :: xs → x.key < 1024 * 8388608 → x.phase = 0 → (∀ y ∈ xs, y.phase ≠ 1) →
    s.refusedAt x.home x.n = false → s.marked x.key x.n = false → x.data.length = x.n →
    ((x.kind = 2 ∧ s.tagAt x.key = true) ∨ (x.kind ≠ 2 ∧ s.tagAt x.key = false) → Answers (.taggedWordArrival 0) s fun s' =>
      s' = { s with tagWaits := xs ++ [{ x with phase := 1 }] }) ∧
    (∀ (t : Nat) (z : BitVec 3) (o : Outst) (next : DWord) (wd mask : Word) (mark : Bool), x.who = .result t x.id x.n z → x.n = accessBytes z →
      (x.kind = 0 ∨ x.kind = 1) → s.tagAt x.key = true → (s.thread t).outs = [o] → o.id = x.id → o.dst.length = (registersFrom 0 z).length →
      o.dst.Nodup → o.due ≤ s.cycleOf (coreOfThread t) → (s.thread t).park = .word .tag next wd mark mask → s.steady t →
      Answers (.taggedWordArrival 0) s fun s' =>
        goesOnAt (s.thread t) (s'.thread t) next ∧ (s'.thread t).outs = [] ∧ s'.tagAt x.key = (x.kind == 0) ∧ s'.tagWaits = xs ∧
        (∀ k, byteKey k → s'.byte k = s.byte k) ∧
        ∀ j r, o.dst[j]? = some r → (s'.thread t).reg r = loadedRegister z (fun b => s.byte (x.key + b)) j) ∧
    (∀ (t : Nat) (a : DWord) (next : DWord) (wd mask : Word) (mark : Bool), x.who = .tagStore t a → x.kind = 2 → s.tagAt x.key = false →
      (s.thread t).park = .word .tag next wd mark mask → s.steady t →
      Answers (.taggedWordArrival 0) s fun s' =>
        goesOnAt (s.thread t) (s'.thread t) next ∧ s'.tagAt x.key = true ∧ s'.tagWaits = xs ∧
        (∀ j b, x.data[j]? = some b → s'.byte (x.key + j) = b) ∧ ∀ j, byteKey j → (j < x.key ∨ x.key + x.n ≤ j) → s'.byte j = s.byte j))

/-- R240: a byte that a core's L1 holds dirty is on its way home: memory of this device holds it, or a WRITE to the device that has its page does. -/
def writtenHome (s s' : State) (core k : Nat) : Prop :=
  let x := s.l1At core (k / 32)
  let va := (k - 2 ^ 63) % 2 ^ 56
  x.dirty.getLsbD (k % 32) = true →
  (k < 2 ^ 63 ∨ 2 ^ 72 ≤ k → s'.byte k = x.byte (k % 32)) ∧
  (2 ^ 63 ≤ k → k < 2 ^ 72 → ∃ first id bs, first ≤ va ∧ bs[va - first]? = some (x.byte (k % 32)) ∧
    requested s' (.back core x.who (BitVec.ofNat 64 first) id) (BitVec.ofNat 12 ((k - 2 ^ 63) / 2 ^ 56)) first (.write bs .plain))

/-- R239, R240: PREF passes whatever its address; CINV.INV and CINV.WB write every dirty byte of the core's L1 back, the first leaving no
line, and their threads' later memory words wait until every write-back is acknowledged; CINV.IC empties the instruction cache. None changes a
register or a tag. -/
def clausesPrefetchAndCacheInvalidation : Prop :=
  ∀ (g : Guard) (l a : BitVec 6) (i : BitVec 5) (s : State) (t : Nat),
    let core := s.cur.core
    let passes := fun (s' : State) => goesOnAt (s.thread t) (s'.thread t) (s.cur.pc + 4) ∧ sameRegisters (s.thread t) (s'.thread t) ∧
      sameException (s.thread t) (s'.thread t) ∧ tagsKept s s' noKey ∧ idsKept s s' noKey
    let clean := fun (s' : State) => ∀ k, (s'.l1At core k).dirty = 0 ∧ writtenHome s s' core k ∧ keptOrWrittenBack s s' core k
    let waits := fun (s' : State) => coreOfThread t = core → (s'.thread t).fencing.isSome = s'.backOpen core
    (Issues s (.pref g l a i) t → s.soundCore → core < 1024 → (∀ u ∈ s.cur.threads, coreOfThread u = core) →
      Answers (.pref g l a i) s fun s' => passes s' ∧ (s'.thread t).outs = (s.thread t).outs ∧ ∀ k, keptOrWrittenBack s s' core k) ∧
    (Issues s (.cinvInv g) t → Answers (.cinvInv g) s fun s' => passes s' ∧ (s'.coreAt core).l1 = [] ∧ clean s' ∧ waits s') ∧
    (Issues s (.cinvWb g) t → Answers (.cinvWb g) s fun s' => passes s' ∧ clean s' ∧ waits s') ∧
    (Issues s (.cinvIc g) t → Answers (.cinvIc g) s fun s' => passes s' ∧ (s'.coreAt core).icache = [] ∧ ∀ k, s'.byte k = s.byte k)
/-! ## Atomics, fences and barriers (R223 to R227, R243 to R265, R461, R462) -/

/-- R246, R247: what an operation code makes of a location's value m and an operand x, as numbers of 32 or 64 bits. -/
def operationGives (op : BitVec 4) (wide : Bool) (m x r : Nat) : Prop :=
  let w := if wide then 64 else 32
  let int := fun (n : Nat) => (BitVec.ofNat w n).toInt
  match op.toNat with
  | 0 => r = (m + x) % 2 ^ w
  | 1 => (r = m ∨ r = x) ∧ int r = min (int m) (int x)
  | 2 => (r = m ∨ r = x) ∧ int r = max (int m) (int x)
  | 3 => r = min m x
  | 4 => r = max m x
  | 5 => r = m &&& x
  | 6 => r = m ||| x
  | 7 => r = m ^^^ x
  | 8 => r = x
  | _ => if wide then r = m else ∃ fl, sumGives fp32 .rne m x r fl

/-- R246: a compare and swap: the new value y where the location holds the expected one. -/
def swapGives (m e y r : Nat) : Prop := r = if m = e then y else m

/-- R246: operands applied in order: the values before each, and the value after the last. -/
def inTurn {A : Type} (f : Nat → A → Nat → Prop) : Nat → List A → List Nat → Nat → Prop
  | m, [], olds, last => olds = [] ∧ last = m
  | m, x :: xs, olds, last => ∃ r os, olds = m :: os ∧ f m x r ∧ inTurn f r xs os last

/-- The value of a register or pair as a number. -/
def operandOf (th : Thread) (wide : Bool) (d : BitVec 6) : Nat := if wide then (th.pair d.toNat).toNat else (th.reg d.toNat).toNat

/-- The little-endian number in memory at a key. -/
def numberAt (s : State) (k n : Nat) : Nat := ((List.range n).map (fun j => (s.byte (k + j)).toNat * 256 ^ j)).sum

/-- What an atomic word does at a place of this device (R245, R246, R248): memory holds the value its operation gives, its other bytes as they
were but for what a release writes back, and the old value becomes an outstanding result, or for RED an acknowledgement. -/
def modifies (s : State) (i : Instr) (t : Nat) (p : Place) (wide red : Bool) (d : BitVec 6) (f : Nat → Nat → Prop) : Prop :=
  let core := s.cur.core
  let k := p.home.key
  let n := if wide then 8 else 4
  let th := s.thread t
  (∀ j, j < n → (s.l1At core ((k + j) / 32)).dirty = 0) →
  Answers i s fun s' =>
    goesOnAt th (s'.thread t) (s.cur.pc + 4) ∧ sameRegisters th (s'.thread t) ∧ sameException th (s'.thread t) ∧
    f (numberAt s k n) (numberAt s' k n) ∧
    (∀ j, (j < k ∨ k + n ≤ j) → keptOrWrittenBack s s' core j) ∧ tagsKept s s' noKey ∧ idsKept s s' noKey ∧
    (red = true → (s'.thread t).outs = th.outs ∧ ∃ x, (s'.thread t).acks = th.acks ++ [x] ∧ x.fail = none) ∧
    (red = false → ∃ o, (s'.thread t).outs = th.outs ++ [o] ∧ o.dst = (if wide then [d.toNat, d.toNat + 1] else [d.toNat]) ∧
      o.res = some (.val (if wide then [BitVec.ofNat 32 (numberAt s k n), BitVec.ofNat 32 (numberAt s k n / 2 ^ 32)]
        else [BitVec.ofNat 32 (numberAt s k n)])))

/-- R245, R250: an atomic word that the host's completer refuses, which is its choice: the location stays, and cause 0x05 is the answer, as the
result or as the acknowledgement of a RED. -/
def refusedByHost (s : State) (i : Instr) (t : Nat) (ea : DWord) (red : Bool) : Prop :=
  let th := s.thread t
  Answers i s fun s' =>
    goesOnAt th (s'.thread t) (s.cur.pc + 4) ∧ sameRegisters th (s'.thread t) ∧ sameException th (s'.thread t) ∧
    (∀ j, keptOrWrittenBack s s' s.cur.core j) ∧ tagsKept s s' noKey ∧ idsKept s s' noKey ∧
    (red = true → (s'.thread t).outs = th.outs ∧ ∃ x, (s'.thread t).acks = th.acks ++ [x] ∧ x.fail = some (5, ea &&& ~~~31#64)) ∧
    (red = false → ∃ o, (s'.thread t).outs = th.outs ++ [o] ∧ o.res = some (.bad 5))

/-- R245 to R248, R250: ATOM, CAS and RED of one participant at a place of this device that is neither refused nor marked; on a HOST page the
operations it does not accept trap with cause 0x05, and the host may refuse the others; a location on another device is asked for by one ATOMIC
packet. -/
def clausesAtomicsReadModifyAndWrite : Prop :=
  ∀ (g : Guard) (d a b : BitVec 6) (w : BitVec 1) (o : BitVec 4) (s : State) (t : Nat) (ea : DWord) (p : Place),
    let n := if w = 1 then 8 else 4
    let wide := decide (w = 1)
    let x := operandOf (s.thread t) wide d
    let y := operandOf (s.thread t) wide b
    let here := p.home.isRemote = false ∧ s.refusedAt p.home n = false ∧ s.marked p.home.key n = false ∧ s.cur.core = coreOfThread t
    let released := ∀ ord c l, s.cur.pfx.ord = some (ord, c, l) → ord = 3 ∨ ord = 4 → (s.releaseAt t (max c.toNat (p.home.scope (coreOfThread t)))).2 = true
    let ordered := s.cur.pfx.ord = none ∨ released
    let host := p.home.isHost = true
    (Reaches s (.atom g d a w o) t ea n true true false p → ordered → here → (host → o = 0 ∨ o = 8) →
      modifies s (.atom g d a w o) t p wide false d (fun m r => operationGives o wide m x r) ∨
      host ∧ refusedByHost s (.atom g d a w o) t ea false) ∧
    (Reaches s (.cas g w d a b) t ea n true true false p → ordered → here →
      modifies s (.cas g w d a b) t p wide false d (fun m r => swapGives m x y r) ∨ host ∧ refusedByHost s (.cas g w d a b) t ea false) ∧
    (Reaches s (.red g d a w o) t ea n true true false p → ordered → here → (host → o = 0) →
      modifies s (.red g d a w o) t p wide true d (fun m r => operationGives o wide m x r) ∨
      host ∧ refusedByHost s (.red g d a w o) t ea true) ∧
    (Reaches s (.atom g d a w o) t ea n true true false p → p.home.isHost = true → o ≠ 0 → o ≠ 8 →
      Answers (.atom g d a w o) s fun s' => trapped s s' t 5 (ea &&& ~~~31#64)) ∧
    (Reaches s (.red g d a w o) t ea n true true false p → p.home.isHost = true → o ≠ 0 →
      Answers (.red g d a w o) s fun s' => trapped s s' t 5 (ea &&& ~~~31#64)) ∧
    (∀ dev va, Reaches s (.atom g d a w o) t ea n true true false p → ordered → p.home = .remote dev va →
      Answers (.atom g d a w o) s fun s' => ∃ r ∈ s'.lodge.outs, r.pkt.dst = dev ∧ r.pkt.addr = BitVec.ofNat 64 va ∧ r.pkt.type = 3 ∧
        ∃ z, (s'.thread t).outs = (s.thread t).outs ++ [z] ∧ z.res = none)

/-- R246: the participants of an atomic word that address one word of their core's slice act there as one step, in ascending lane order: each
gets the value that the lanes below it leave. -/
def clausesAtomicGroupsActInLaneOrder : Prop :=
  ∀ (i : Instr) (g : Guard) (d a : BitVec 6) (o : BitVec 4) (s : State) (ea : DWord) (off : Nat) (ts : List Nat),
    i = .atom g d a 0 o → s.executes i → s.soundCore → s.cur.pfx.ord = none → ts = s.participants i → ts ≠ [] →
    (∀ t ∈ ts, (s.thread t).pair a.toNat = ea ∧ coreOfThread t = s.cur.core ∧ s.watched t ea 4 true true = false ∧ s.steady t) →
    ea = 0xFF00000000000000 + BitVec.ofNat 64 off → off % 4 = 0 → off + 4 + (s.coreAt s.cur.core).carve ≤ 8388608 →
    let k := s.cur.core * 8388608 + off
    s.marked k 4 = false → (s.l1At s.cur.core (k / 32)).dirty = 0 →
    Answers i s fun s' => ∃ olds last,
      inTurn (fun m (t : Nat) r => operationGives o false m ((s.thread t).reg d.toNat).toNat r) (numberAt s k 4) ts olds last ∧
      numberAt s' k 4 = last ∧
      ∀ (j t old : Nat), ts[j]? = some t → olds[j]? = some old →
        ∃ z, (s'.thread t).outs = (s.thread t).outs ++ [z] ∧ z.dst = [d.toNat] ∧ z.res = some (.val [BitVec.ofNat 32 old])

/-- R226, R227, R253: a FENCE passes; it is complete at once in a thread with nothing outstanding, and otherwise is kept until what was
outstanding is acknowledged. It writes no register, and no byte but those the L1 writes back; a releasing one at CLUSTER or wider writes back
every dirty byte of the core's L1 outside unordered lines, and an acquiring one leaves no such line valid. -/
def clausesFences : Prop :=
  ∀ (g : Guard) (m : BitVec 2) (c : BitVec 3) (s : State) (t : Nat), Alone s (.fence g m c) t → coreOfThread t = s.cur.core →
    Answers (.fence g m c) s fun s' =>
      goesOnAt (s.thread t) (s'.thread t) (s.cur.pc + 4) ∧ sameRegisters (s.thread t) (s'.thread t) ∧
      (∀ j, byteKey j → s'.byte j = s.byte j ∨ ∃ e ∈ (s.coreAt s.cur.core).l1, e.1 = j / 32 ∧
        e.2.dirty.getLsbD (j % 32) = true ∧ s'.byte j = e.2.byte (j % 32)) ∧
      tagsKept s s' noKey ∧
      ((s.thread t).acks ≠ [] ∨ (s.thread t).outs ≠ [] →
        (s'.thread t).fencing = some (m.toNat, if c = 0 then 1 else c.toNat)) ∧
      ((s.thread t).acks = [] → (s.thread t).outs = [] → s'.backOpen s.cur.core = false → (s'.thread t).fencing = none) ∧
      (m = 0 ∨ m = 2 → 2 ≤ c.toNat → ∀ j, j < 2 ^ 63 → let x := s.l1At s.cur.core (j / 32)
        x.uo = false → x.dirty.getLsbD (j % 32) = true → s'.byte j = x.byte (j % 32)) ∧
      (m = 2 → 2 ≤ c.toNat → ∀ k, (s'.l1At s.cur.core k).uo = false → (s'.l1At s.cur.core k).dirty = 0) ∧
      (m = 0 ∨ m = 1 → 2 ≤ c.toNat → ∀ k, (s'.l1At s.cur.core k).uo = false → (s'.l1At s.cur.core k).valid = false)

/-- R226, R227, R239, R240, R253: FENCE and CINV pass, and what they leave open is waited for: until what was outstanding, or every write-back,
is acknowledged; PREF passes whatever its address. None of them writes a register, or a byte but those that the L1 writes back. -/
def Obligations.FencesWaitForWhatIsOutstanding : Prop := clausesFences ∧ clausesPrefetchAndCacheInvalidation

/-- The participants of a barrier word belong to one running workgroup, which has barrier n. -/
def OneWorkgroup (s : State) (i : Instr) (w : Wg) (n : Nat) : Prop :=
  s.executes i ∧ s.participants i ≠ [] ∧ (∀ t ∈ s.participants i, (s.warpOfThread t).lid = w.lid ∧ (s.warpOfThread t).g = w.g) ∧
  s.wg? w.lid w.g = some w ∧ w.st = .running ∧ n < s.nbar w.lid ∧ ∀ t ∈ s.cur.threads, s.steady t

/-- R262: the barrier after an event that left it as b: flipped, if b has INIT = 1, PEND = 0 and TX = 0. -/
def afterEvent (b c : Barrier) : Prop :=
  let e := (b.exp + b.dlt).toNat
  (b.init = true ∧ b.pend = 0 ∧ b.tx = 0 →
    c.ph = !b.ph ∧ c.exp = e ∧ c.dlt = 0 ∧ c.pend = e ∧ c.tx = 0 ∧ c.init = decide (e ≠ 0)) ∧
  (¬ (b.init = true ∧ b.pend = 0 ∧ b.tx = 0) → c = b)

/-- The operand of a K-format word in a thread (R256). -/
def barrierOperand (th : Thread) (x : BitVec 1) (v : BitVec 10) : Nat :=
  if x = 1 then (th.reg (v.toNat / 16)).toNat else v.toNat

/-- R254, R257 to R262, R462: one event of a barrier word. It is refused, with the barrier as it was and every participant trapping with cause
0x0B, or it changes the barrier as the word says and the flip test follows; the participants pass. -/
def barrierEvent (s : State) (i : Instr) (w : Wg) (n : Nat) (b : Option Barrier) : Prop :=
  (b = none → Answers i s fun s' => (∃ w', s'.wg? w.lid w.g = some w' ∧ s'.barAt w' n = s.barAt w n) ∧
    ∀ t ∈ s.participants i, trapped s s' t 0x0B 0) ∧
  (∀ b1, b = some b1 → Answers i s fun s' => (∃ w', s'.wg? w.lid w.g = some w' ∧ afterEvent b1 (s'.barAt w' n)) ∧
    ∀ t ∈ s.participants i, (s.thread t).park = .none →
      goesOnAt (s.thread t) (s'.thread t) (s.cur.pc + 4) ∧ sameRegisters (s.thread t) (s'.thread t))

/-- R258 to R261, R462: BARV's arrivals, drops and joins, BART's bytes, and BARI's initialisation and invalidation. -/
def clausesBarrierEventsCountAndFlip : Prop :=
  ∀ (g : Guard) (k : BitVec 2) (n : BitVec 7) (x : BitVec 1) (v : BitVec 10) (s : State) (w : Wg),
    let bar := s.barAt w n.toNat
    let sum := fun (i : Instr) => ((s.participants i).map (fun t => barrierOperand (s.thread t) x v)).sum
    let quiet := bar.init = false ∨ (bar.pend = bar.exp ∧ bar.tx = 0 ∧ bar.dlt = 0 ∧ s.waited w n.toNat = false)
    (let i := Instr.barv g k n x v
     OneWorkgroup s i w n.toNat → (k = 1 ∨ (match s.cur.pfx.ord with | none => True | some (_, c, _) => c.toNat ≤ 1) ∨
       ((∀ t ∈ s.participants i, (s.thread t).acks = [] ∧ (s.thread t).outs = []) ∧ ∀ c, s.backOpen c = false ∧ ∀ l, (s.l1At c l).dirty = 0)) →
      let N := sum i
      let bad := bar.init = false ∨ (∃ t ∈ s.participants i, 65535 < barrierOperand (s.thread t) x v) ∨ (k ≠ 3 ∧ bar.pend < N) ∨
        (k = 2 ∧ bar.exp + bar.dlt < N) ∨ (k = 3 ∧ 65535 < bar.exp + bar.dlt + N)
      (bad → barrierEvent s i w n.toNat none) ∧
      (¬ bad → barrierEvent s i w n.toNat (some (if k = 2 then { bar with pend := bar.pend - N, dlt := bar.dlt - N }
        else if k = 3 then { bar with dlt := bar.dlt + N } else { bar with pend := bar.pend - N })))) ∧
    (let i := Instr.bart g k n x v
     OneWorkgroup s i w n.toNat →
      let N := sum i
      let c := (s.participants i).length
      let tx := if k = 1 then bar.tx - N else bar.tx + N
      let bad := bar.init = false ∨ tx < -2147483648 ∨ 2147483647 < tx ∨ (k = 2 ∧ bar.pend < c)
      (bad → barrierEvent s i w n.toNat none) ∧
      (¬ bad → barrierEvent s i w n.toNat (some { bar with tx := tx, pend := if k = 2 then bar.pend - c else bar.pend }))) ∧
    (let i := Instr.bariInit g n x v
     OneWorkgroup s i w n.toNat → ∀ t ts, s.participants i = t :: ts →
      let m := barrierOperand (s.thread t) x v
      (¬ quiet ∨ m = 0 ∨ 65535 < m → barrierEvent s i w n.toNat none) ∧
      (quiet → m ≠ 0 → m ≤ 65535 → barrierEvent s i w n.toNat (some { init := true, ph := false, dlt := 0, tx := 0, pend := m, exp := m }))) ∧
    (let i := Instr.bariInval g n
     OneWorkgroup s i w n.toNat →
      (¬ quiet → barrierEvent s i w n.toNat none) ∧
      (quiet → barrierEvent s i w n.toNat (some { init := false, ph := false, dlt := 0, tx := 0, pend := 0, exp := 0 })))

/-- R263: BARW passes when the phase of its parity is over, parks when it is not, and traps with cause 0x0B on a barrier that is not
initialised or that the workgroup does not have. -/
def clausesBarrierWaitsForItsPhase : Prop :=
  ∀ (g : Guard) (n : BitVec 7) (x : BitVec 1) (v : BitVec 10) (s : State) (t : Nat) (w : Wg),
    let i := Instr.barw g n x v
    let th := s.thread t
    let bar := s.barAt w n.toNat
    let par := decide (barrierOperand th x v % 2 = 1)
    Issues s i t → s.wg? (s.warpOfThread t).lid (s.warpOfThread t).g = some w → w.st = .running →
    (n.toNat < s.nbar (s.warpOfThread t).lid → bar.init = true → bar.ph ≠ par →
      Answers i s fun s' => goesOnAt th (s'.thread t) (s.cur.pc + 4) ∧ sameRegisters th (s'.thread t)) ∧
    (n.toNat < s.nbar (s.warpOfThread t).lid → bar.init = true → bar.ph = par →
      Answers i s fun s' => (s'.thread t).pc = th.pc ∧ sameRegisters th (s'.thread t) ∧
        ∃ c, (s'.thread t).park = .word (.barrier n.toNat c) (s.cur.pc + 4) s.cur.word g.s s.cur.mask) ∧
    (s.nbar (s.warpOfThread t).lid ≤ n.toNat ∨ bar.init = false → Answers i s fun s' => trapped s s' t 0x0B 0) ∧
    Answers i s fun s' => ∀ j, s'.byte j = s.byte j

/-- R245 to R248: ATOM, CAS and RED of one participant, and the lane order of the participants of one word.
Inferences and choices of the model: log entry 13. -/
def Obligations.AtomicWords : Prop :=
  clausesAtomicsReadModifyAndWrite ∧ clausesAtomicGroupsActInLaneOrder

/-- R257 to R263: BARV, BART, BARI and BARW. Inferences and choices of the model: log entry 39. -/
def Obligations.BarrierWords : Prop :=
  clausesBarrierEventsCountAndFlip ∧ clausesBarrierWaitsForItsPhase

/-! ## Matrix words (R168 to R190) -/

/-- A bundle of one warp, as the matrix words bind it (R57, R178). -/
def OneWarp (s : State) : Prop := ∀ u ∈ s.cur.threads, ∀ v ∈ s.cur.threads, warpOf u = warpOf v

/-- R174: the element of width w at index e of the packed string that starts at register b. -/
def packedElement (th : Thread) (b w e : Nat) : Nat := (th.reg (b + w * e / 32)).toNat / 2 ^ (w * e % 32) % 2 ^ w

/-- Every thread keeps its registers, and memory its bytes. -/
def registersAndMemoryKept (s s' : State) : Prop := (∀ u, sameRegisters (s.thread u) (s'.thread u)) ∧ ∀ k, s'.byte k = s.byte k

/-- R168 to R174, R178 to R181: MLD takes or keeps its slot and writes the rows, columns and scales of its participants; the rest keeps
its values, or is zero bits and 0x7F in a slot taken anew; a slot of another workgroup is left alone and the threads wait. MCLR empties a slot of
the issuing workgroup. MRD reads the slot back. Where they act, the threads go on past the word (R91). Reading another's slot traps with
cause 0x01, but for the status. -/
def Obligations.TileWordsLoadClearAndRead : Prop :=
  ∀ (g : Guard) (l q x : BitVec 1) (ty : BitVec 3) (m : BitVec 2) (d a b : BitVec 6) (s : State) (t : Nat), OneWarp s →
    let tile := (s.coreAt s.cur.core).tile q.toNat
    let mine := tile.ownedBy (s.ownerOf t)
    let others := fun (s' : State) => ∀ c n, (c ≠ s.cur.core ∨ n ≠ q.toNat) → (s'.coreAt c).tile n = (s.coreAt c).tile n
    (let i := Instr.mld g l q ty x a b
     let w := tileWidth ty
     let kept := tile.owned = true ∧ tile.type = ty ∧ tile.mx = (x == 1)
     s.executes i → t ∈ s.participants i → (tile.owned = true → mine = true) → Answers i s fun s' =>
       let new := (s'.coreAt s.cur.core).tile q.toNat
       movesPast s s' i ∧ registersAndMemoryKept s s' ∧ others s' ∧ new.ownedBy (s.ownerOf t) = true ∧ new.type = ty ∧ new.mx = (x == 1) ∧
       (∀ k n, k < tileRows ty → n < 16 →
         let lane := if l = 1 then n else k % 32
         let e := if l = 1 then k else 16 * (k / 32) + n
         (∀ u ∈ s.participants i, laneOf u = lane → new.elem k n = packedElement (s.thread u) a.toNat w e) ∧
         ((∀ u ∈ s.participants i, laneOf u ≠ lane) → (kept → new.elem k n = tile.elem k n) ∧ (¬ kept → new.elem k n = 0))) ∧
       (∀ n c, n < 16 → c < tileRows ty / 32 →
         (x = 1 → ∀ u ∈ s.participants i, laneOf u = n → new.scale n c = ((s.thread u).reg b.toNat).extractLsb' (8 * c) 8) ∧
         ((x = 0 ∨ ∀ u ∈ s.participants i, laneOf u ≠ n) →
           (kept → new.scale n c = tile.scale n c) ∧ (¬ kept → new.scale n c = 0x7F)))) ∧
    (let i := Instr.mld g l q ty x a b
     s.executes i → t ∈ s.participants i → tile.owned = true → mine = false → Answers i s fun s' =>
       (∀ c n, (s'.coreAt c).tile n = (s.coreAt c).tile n) ∧ registersAndMemoryKept s s' ∧ (s'.thread t).pc = (s.thread t).pc) ∧
    (let i := Instr.mclr g q
     s.executes i → t ∈ s.participants i → Answers i s fun s' =>
       movesPast s s' i ∧ registersAndMemoryKept s s' ∧ others s' ∧ (mine = true → ((s'.coreAt s.cur.core).tile q.toNat).owned = false) ∧
       (mine = false → (s'.coreAt s.cur.core).tile q.toNat = tile)) ∧
    (let i := Instr.mrd g m d q
     let w := tileWidth tile.type
     s.executes i → t ∈ s.participants i →
     (m ≠ 3 → mine = false → ∀ u ∈ s.cur.threads, Answers i s fun s' => trapped s s' u 1 0) ∧
     (m = 3 ∨ mine = true → Answers i s fun s' =>
       let th := s'.thread t
       movesPast s s' i ∧ (∀ k, s'.byte k = s.byte k) ∧ (∀ c n, (s'.coreAt c).tile n = (s.coreAt c).tile n) ∧
       (∀ u, u ∉ s.participants i → sameRegisters (s.thread u) (s'.thread u)) ∧
       (∀ n, (n < d.toNat ∨ d.toNat + (match m.toNat with | 0 => 8 | 1 => 16 | _ => 1) ≤ n) → th.reg n = (s.thread t).reg n) ∧
       th.preds = (s.thread t).preds ∧ th.fpflags = (s.thread t).fpflags ∧
       (m = 0 → ∀ j n, j < tileRows tile.type / 32 → n < 16 →
         packedElement th d.toNat w (16 * j + n) = tile.elem (laneOf t + 32 * j) n % 2 ^ w) ∧
       (m = 1 → laneOf t < 16 → ∀ k, k < tileRows tile.type → packedElement th d.toNat w k = tile.elem k (laneOf t) % 2 ^ w) ∧
       (m = 2 → laneOf t < 16 → tile.mx = true → ∀ c, c < 4 →
         (th.reg d.toNat).extractLsb' (8 * c) 8 = if c < tileRows tile.type / 32 then tile.scale (laneOf t) c else 0) ∧
       (m = 2 → laneOf t < 16 → tile.mx = false → th.reg d.toNat = 0x7F7F7F7F) ∧
       (m = 1 ∨ m = 2 → 16 ≤ laneOf t → sameRegisters (s.thread t) th) ∧
       (m = 3 → th.reg d.toNat =
         (if mine = true then (if tile.mx = true then 0x20#32 else 0) ||| tile.type.zeroExtend 32 <<< 2 ||| 2 else 0) |||
           (if tile.owned = true then 1 else 0))))

/-- R183: the s of a chunk: a NaN (from an invalid operation or not), an infinity, or an exact value, of which a zero is −0 when every
product of the chunk is. -/
inductive ChunkSum where
  | nan (invalid : Bool)
  | inf (neg : Bool)
  | exact (x : ℚ) (negZero : Bool)

/-- R183: a chunk's products hold 0 × ∞, or infinities of both signs. -/
def invalidChunk (f : Fmt) (ps : List (Nat × Nat)) : Prop :=
  (∃ p ∈ ps, invalidProduct f p.1 p.2) ∨
  ((∃ p ∈ ps, infiniteProduct f p.1 p.2 ∧ productNegative f p.1 p.2 = true) ∧
   ∃ p ∈ ps, infiniteProduct f p.1 p.2 ∧ productNegative f p.1 p.2 = false)

/-- R182, R183: the s of a chunk of products, scaled by 2^k; `bad` says that a scale of the chunk is 0xFF. -/
def chunkGives (f : Fmt) (bad : Prop) (k : Int) (ps : List (Nat × Nat)) : ChunkSum → Prop
  | .nan inv => (bad ∨ invalidChunk f ps ∨ ∃ p ∈ ps, nanCode f p.1 ∨ nanCode f p.2) ∧ (inv = true ↔ invalidChunk f ps)
  | .inf n => ¬ bad ∧ ¬ invalidChunk f ps ∧ (∀ p ∈ ps, ¬ nanCode f p.1 ∧ ¬ nanCode f p.2) ∧
      ∃ p ∈ ps, infiniteProduct f p.1 p.2 ∧ productNegative f p.1 p.2 = n
  | .exact x z => ¬ bad ∧ (∀ p ∈ ps, finiteCode f p.1 ∧ finiteCode f p.2) ∧
      x = (2 : ℚ) ^ k * (ps.map (fun p => codeValue f p.1 * codeValue f p.2)).sum ∧
      (z = true ↔ ∀ p ∈ ps, codeValue f p.1 * codeValue f p.2 = 0 ∧ productNegative f p.1 p.2 = true)

/-- R182 to R184: acc + s, rounded once to FP32 by RNE: the code and flags. -/
def chunkAdds (acc : Nat) (v : ChunkSum) (c : Nat) (fl : BitVec 5) : Prop :=
  match v with
  | .nan inv => nanGives fp32 (inv = true ∨ signalling fp32 acc) c fl
  | .inf n =>
    (nanCode fp32 acc → nanGives fp32 (signalling fp32 acc) c fl) ∧
    (infinite fp32 acc → negative fp32 acc ≠ n → c = fp32.nan ∧ fl = flagNV) ∧
    (finiteCode fp32 acc ∨ (infinite fp32 acc ∧ negative fp32 acc = n) → c = (if n then 0xFF800000 else 0x7F800000) ∧ fl = 0)
  | .exact x z =>
    (nanCode fp32 acc → nanGives fp32 (signalling fp32 acc) c fl) ∧
    (infinite fp32 acc → c = acc ∧ fl = 0) ∧
    (finiteCode fp32 acc → codeValue fp32 acc + x ≠ 0 → roundsTo fp32 .rne false (codeValue fp32 acc + x) c fl) ∧
    (finiteCode fp32 acc → codeValue fp32 acc + x = 0 → c = (if acc = 0x80000000 ∧ z = true then 0x80000000 else 0) ∧ fl = 0)

/-- R182: the chunks' sums are added to acc in order, one rounding each. -/
def chunksAdd : Nat → List ChunkSum → Nat → BitVec 5 → Prop
  | acc, [], c, fl => c = acc ∧ fl = 0
  | acc, v :: vs, c, fl => ∃ c1 f1 f2, chunkAdds acc v c1 f1 ∧ chunksAdd c1 vs c f2 ∧ fl = f1 ||| f2

/-- R182, R184: a row of a product: its elements A, W by output and reduction index, the reduction's length, the outputs and the scales of a
chunk by output and block; the new C and flags of the thread. -/
def rowGives (ty : BitVec 3) (red outs d : Nat) (A : Nat → Nat) (W : Nat → Nat → Nat) (bad : Nat → Nat → Prop) (k : Nat → Nat → Int)
    (th th' : Thread) : Prop :=
  let f := tileFmt ty
  let len := 128 / tileWidth ty
  if ty = 5 then
    th'.fpflags = th.fpflags ∧ ∀ j, j < outs → th'.reg (d + j) =
      th.reg (d + j) + BitVec.ofInt 32 ((List.range red).map (fun e => (BitVec.ofNat 8 (A e)).toInt * (BitVec.ofNat 8 (W j e)).toInt)).sum
  else
    ∃ fl : Nat → BitVec 5,
      (∀ j, j < outs → ∃ vs : List ChunkSum, vs.length = red / len ∧
        (∀ c v, vs[c]? = some v → chunkGives f (bad j (len * c / 32)) (k j (len * c / 32))
          ((List.range len).map (fun e => (A (len * c + e), W j (len * c + e)))) v) ∧
        chunksAdd (th.reg (d + j)).toNat vs (th'.reg (d + j)).toNat (fl j)) ∧
      ∀ n : Nat, th'.fpflags.getLsbD n = true ↔
        th.fpflags.getLsbD n = true ∨
        (n = 0 ∧ ∃ e, e < red ∧ (signalling f (A e) ∨ ∃ j, j < outs ∧ signalling f (W j e))) ∨
        ∃ j, j < outs ∧ (fl j).getLsbD n = true

/-- R171, R174, R178, R182 to R185: MMA and MMAS on a slot of the issuing workgroup whose kind matches add each participant's products to its
C row; a kind that does not match, or another's slot, traps every thread of the bundle with cause 0x01. The array is taken
sound (R189), and the threads go on past the word. -/
def Obligations.MatrixProductsAddToTheirRows : Prop :=
  ∀ (g : Guard) (e q : BitVec 1) (d a b : BitVec 6) (seg : BitVec 2) (s : State) (t : Nat), OneWarp s →
    let core := s.coreAt s.cur.core
    let tile := core.tile q.toNat
    let mine := tile.ownedBy (s.ownerOf t) = true
    let th := s.thread t
    let w := tileWidth tile.type
    let frame := fun (i : Instr) (s' : State) (outs : Nat) =>
      movesPast s s' i ∧ restKept s s' ∧ (∀ u, u ∉ s.participants i → sameRegisters (s.thread u) (s'.thread u)) ∧
      (∀ n, (n < d.toNat ∨ d.toNat + outs ≤ n) → (s'.thread t).reg n = th.reg n) ∧ (s'.thread t).preds = th.preds
    (let i := Instr.mma g e q d a seg
     let bad := tile.mx = true ∨ (e = 1 ∧ (tile.type = 6 ∨ (seg ≠ 0 ∧ w = 16)))
     s.executes i → t ∈ s.participants i →
     (¬ mine ∨ bad → ∀ u ∈ s.cur.threads, Answers i s fun s' => trapped s s' u 1 0) ∧
     (mine → ¬ bad → core.arrFault = [] → core.addFault = 0 → Answers i s fun s' =>
       (e = 0 → frame i s' 16 ∧ rowGives tile.type (tileRows tile.type) 16 d.toNat (packedElement th a.toNat w) (fun j k => tile.elem k j)
         (fun _ _ => False) (fun _ _ => 0) th (s'.thread t)) ∧
       (e = 1 → frame i s' 32 ∧ rowGives tile.type 16 32 d.toNat (packedElement th a.toNat w) (fun j n => tile.elem (32 * seg.toNat + j) n)
         (fun _ _ => False) (fun _ _ => 0) th (s'.thread t)))) ∧
    (let i := Instr.mmas g q d a b
     let sa := fun (c : Nat) => (th.reg b.toNat).extractLsb' (8 * c) 8
     s.executes i → t ∈ s.participants i →
     (¬ mine ∨ tile.mx = false → ∀ u ∈ s.cur.threads, Answers i s fun s' => trapped s s' u 1 0) ∧
     (mine → tile.mx = true → tile.type ≠ 5 → core.arrFault = [] → core.addFault = 0 → Answers i s fun s' =>
       frame i s' 16 ∧
       rowGives tile.type (tileRows tile.type) 16 d.toNat (packedElement th a.toNat w) (fun j k => tile.elem k j)
         (fun j c => sa c = 0xFF ∨ tile.scale j c = 0xFF) (fun j c => ((sa c).toNat : Int) + (tile.scale j c).toNat - 254) th (s'.thread t)))

/-! ## System words (R50 to R53, R395, R399, R415 to R419) -/

/-- R50, R395: the number of every readable special register, its width and the value that a thread of home lane ℓ reads. -/
def specialRegisters (s : State) (t : Nat) : List (Nat × Nat × DWord) :=
  let th := s.thread t
  let w := s.warpOfThread t
  let core := coreOfThread t
  let c := s.coreAt core
  let n := fun (x : Nat) => BitVec.ofNat 64 x
  let watch := fun k => Tab.get Watch.init c.watch k
  [(0x00, 32, n (w.widx * 32 + t % 32)), (0x01, 32, n (t % 32)), (0x02, 32, n w.widx), (0x03, 32, n (t / 32 % 64)),
   (0x04, 32, w.wgx.zeroExtend 64), (0x05, 32, w.wgy.zeroExtend 64), (0x06, 32, w.wgz.zeroExtend 64), (0x07, 32, w.nwg.zeroExtend 64),
   (0x08, 32, n w.role), (0x09, 32, n core), (0x0A, 32, n (core / 128)), (0x0B, 32, s.devId.zeroExtend 64), (0x0C, 32, n w.rcb),
   (0x0D, 64, w.param), (0x0E, 32, n th.depth), (0x0F, 32, n th.lstk.length), (0x10, 32, th.trcause.zeroExtend 64),
   (0x11, 64, th.trpc), (0x12, 32, th.trmask.zeroExtend 64), (0x13, 64, th.traddr &&& ~~~31#64), (0x14, 32, th.trword.zeroExtend 64),
   (0x15, 64, th.idempc), (0x18, 32, th.fpflags.zeroExtend 64), (0x19, 32, th.fpmode.zeroExtend 64), (0x1A, 32, th.srseed.zeroExtend 64)] ++
  [(0x1C, 64, n c.cycle), (0x1D, 32, (c.budget ++ c.stall).zeroExtend 64), (0x1E, 32, if c.govmodeNext then 1 else 0),
   (0x20, 32, w.wdoglim.zeroExtend 64), (0x21, 32, if w.sstep then 1 else 0), (0x22, 64, c.whalt),
   (0x24, 64, (watch 0).addr), (0x25, 64, (watch 1).addr), (0x26, 64, (watch 2).addr), (0x27, 64, (watch 3).addr),
   (0x28, 64, (watch 0).mask), (0x29, 64, (watch 1).mask), (0x2A, 64, (watch 2).mask), (0x2B, 64, (watch 3).mask),
   (0x30, 32, w.lscale.zeroExtend 64)]

/-- R51, R53, R415: CSRR writes a special register's value to its destination alone and goes on past the word; a number
that is none of them traps with cause 0x02. -/
def clausesSpecialRegistersRead : Prop :=
  ∀ (g : Guard) (d a : BitVec 6) (s : State) (t : Nat),
    let i := Instr.csrr g d a
    (s.executes i → t ∈ s.participants i → ∀ n v, (a.toNat, n, v) ∈ specialRegisters s t → Answers i s fun s' =>
      movesPast s s' i ∧ restKept s s' ∧ (∀ u, u ∉ s.participants i → sameRegisters (s.thread u) (s'.thread u)) ∧
      (s'.thread t).reg d.toNat = v.extractLsb' 0 32 ∧ (n = 64 → (s'.thread t).reg (d.toNat + 1) = v.extractLsb' 32 32) ∧
      (∀ k, k ≠ d.toNat → (n = 64 → k ≠ d.toNat + 1) → (s'.thread t).reg k = (s.thread t).reg k) ∧
      (s'.thread t).preds = (s.thread t).preds ∧ (s'.thread t).fpflags = (s.thread t).fpflags) ∧
    ((∀ e ∈ specialRegisters s t, e.1 ≠ a.toNat) → ∀ m, i.decodeCause s.cur.pfx m = some 2 ∧
      (Instr.csrw g d a).decodeCause s.cur.pfx m = some 2)

/-- The numbers of the registers that CSRW may write (R50), and of those among them that only a handler may (R52). -/
def writable : List Nat := [0x11, 0x18, 0x19, 0x1A, 0x1E, 0x20, 0x21, 0x22, 0x24, 0x25, 0x26, 0x27, 0x28, 0x29, 0x2A, 0x2B]
/-- R52. -/
def handlerOnly : List Nat := [0x11, 0x1E, 0x20, 0x21, 0x22, 0x24, 0x25, 0x26, 0x27, 0x28, 0x29, 0x2A, 0x2B]

/-- The bits that a special register keeps of what is written to it (R148, R193, R395; the mode of R149 has two). -/
def keptBits (n : Nat) : DWord :=
  if n = 0x18 then 0x1F else if n = 0x19 then 3 else if n = 0x1E ∨ n = 0x21 then 1
  else if 0x24 ≤ n ∧ n ≤ 0x27 then ~~~7#64 else if 0x28 ≤ n ∧ n ≤ 0x2B then ~~~4#64
  else if n = 0x11 ∨ n = 0x22 then ~~~0#64 else 0xFFFFFFFF

/-- R52, R395, R413, R415: a CSRW's register reads as the value its last participant wrote, less the reserved bits, and no other special
register, general register, predicate or byte of memory changes (the loop stack's depth, 0x0F, follows the loop-back rule); a
watchpoint takes the writer's fault domain. A read-only register traps with cause 0x01, and a handler-only one from other code with cause 0x05,
and keeps its value. -/
def clausesSpecialRegistersWritten : Prop :=
  ∀ (g : Guard) (d a : BitVec 6) (s : State) (t : Nat),
    let i := Instr.csrw g d a
    let th := s.thread t
    let n := a.toNat
    let core := coreOfThread t
    let v := (if csrRegs a = 2 then th.pair d.toNat else (th.reg d.toNat).zeroExtend 64) &&& keptBits n
    let frame := fun (s' : State) => (∀ k, s'.byte k = s.byte k) ∧
      ∀ u, (s'.thread u).regs = (s.thread u).regs ∧ (s'.thread u).preds = (s.thread u).preds
    (s.executes i → (s.participants i).getLast? = some t → s.steady t → n ∈ writable → (n ∈ handlerOnly → th.h = true) →
      Answers i s fun s' => frame s' ∧ s'.special t n = v ∧ (∀ m, m ≠ n → m ≠ 0x0F → s'.special t m = s.special t m) ∧
        goesOnAt th (s'.thread t) (s.cur.pc + 4) ∧
        (0x24 ≤ n → n ≤ 0x2B → let x := Tab.get Watch.init (s'.coreAt core).watch (n % 4)
          x.part = (s.warpOfThread t).part ∧ x.fdom = (s.viewOf (s.warpOfThread t)).fdom (s.warpOfThread t).rcb)) ∧
    (s.executes i → t ∈ s.participants i → n ∉ writable → Answers i s fun s' => frame s' ∧ trapped s s' t 1 0) ∧
    (s.executes i → t ∈ s.participants i → n ∈ handlerOnly → th.h = false → Answers i s fun s' => frame s' ∧ trapped s s' t 5 0)

/-- R399, R419: RTE pops the handler's loop entries, restores DEPTH, clears H and goes on from %TRPC under the loop-back rule, two cycles later;
outside a handler it traps with cause 0x01, and with a %TRPC that is misaligned or beyond the window it is a double trap.
Inferences and choices of the model: log entry 10. -/
def Obligations.ReturnFromATrap : Prop :=
  ∀ (g : Guard) (s : State) (t : Nat),
    let i := Instr.rte g
    let th := s.thread t
    let v := th.trpc
    s.executes i → t ∈ s.participants i →
    (th.h = true → v.toNat % 4 = 0 → v ≤ 0x00FFFFFFFFFFFFFF → Answers i s fun s' => let th' := s'.thread t
      th'.h = false ∧ th'.depth = th.edepth ∧ loopsBack th.edepth false (th.lstk.filter (fun e => !e.h)) v th'.lstk th'.pc ∧
      sameRegisters th th' ∧ th'.trpc = th.trpc ∧ th'.trcause = th.trcause ∧ th'.idempc = th.idempc ∧
      th'.readyAt = (s.coreAt s.cur.core).cycle + 2 ∧ (∀ k, s'.byte k = s.byte k)) ∧
    (th.h = false → Answers i s fun s' => trapped s s' t 1 0 ∧ ∀ k, s'.byte k = s.byte k) ∧
    (th.h = true → v.toNat % 4 ≠ 0 → Answers i s fun s' => trapped s s' t 3 0) ∧
    (th.h = true → v.toNat % 4 = 0 → 0x00FFFFFFFFFFFFFF < v → Answers i s fun s' => trapped s s' t 4 0)

/-- R417: WDOG zeroes the age of every live thread of a participant's warp and of no other; registers and memory stay. -/
def clausesWatchdogAgesRestart : Prop :=
  ∀ (g : Guard) (s : State) (t : Nat), Issues s (.wdog g) t → Answers (.wdog g) s fun s' =>
    goesOnAt (s.thread t) (s'.thread t) (s.cur.pc + 4) ∧ restKept s s' ∧ (∀ u, sameRegisters (s.thread u) (s'.thread u)) ∧
    (∀ u ∈ s.liveThreads (warpOf t), (s'.thread u).age = 0) ∧
    (∀ u, (∀ p ∈ s.participants (.wdog g), warpOf p ≠ warpOf u) → (s'.thread u).age = (s.thread u).age)

/-- R418: DBGMB.SEND posts the first participant's pair, or the threads stay while the queue is full; RECV takes the warp's inbound word for every
participant as an outstanding result, or parks until there is one; XCHG does both; without the debug enable each traps with cause 0x05. -/
def clausesDebugMailboxWords : Prop :=
  ∀ (g : Guard) (d a : BitVec 6) (s : State) (p t : Nat) (ps : List Nat) (i : Instr),
    i ∈ [.dbgmbSend g a, .dbgmbRecv g d, .dbgmbXchg g d a] → s.executes i → OneWarp s → s.participants i = p :: ps → t ∈ p :: ps → s.steady t →
    let w := warpOf p
    let core := coreOfThread p
    let q := (s.coreAt core).dbgOut
    let sends := i ≠ .dbgmbRecv g d
    let takes := i ≠ .dbgmbSend g a
    let post : DbgPost := { slot := w % 64, lane := p % 32, pc := s.cur.pc, word := (s.thread p).pair a.toNat }
    let posted := fun (s' : State) => (s'.coreAt core).dbgOut = if sends then q ++ [post] else q
    let enabled := s.dev.dbgen.getLsbD (s.warp w).part = true
    (¬ enabled → Answers i s fun s' => trapped s s' t 5 0 ∧ (s'.coreAt core).dbgOut = q) ∧
    (enabled → sends → 16 ≤ q.length → Answers i s fun s' => (s'.coreAt core).dbgOut = q ∧ (s'.thread t).pc = (s.thread t).pc) ∧
    (enabled → (sends → q.length < 16) → Answers i s fun s' =>
      posted s' ∧ restKept s s' ∧ (∀ u, sameRegisters (s.thread u) (s'.thread u)) ∧
      (¬ takes → goesOnAt (s.thread t) (s'.thread t) (s.cur.pc + 4)) ∧
      (∀ v, takes → (s.warp w).dbgIn = some v → goesOnAt (s.thread t) (s'.thread t) (s.cur.pc + 4) ∧ (s'.warp w).dbgIn = none ∧
        ∃ o, (s'.thread t).outs = (s.thread t).outs ++ [o] ∧ o.kind = .regs ∧ o.dst = [d.toNat, d.toNat + 1] ∧
          o.res = some (.val [v.extractLsb' 0 32, v.extractLsb' 32 32])) ∧
      (takes → (s.warp w).dbgIn = none → (s'.thread t).pc = (s.thread t).pc ∧
        (s'.thread t).park = .word (.dbg d.toNat) (s.cur.pc + 4) s.cur.word g.s s.cur.mask))

/-- R50 to R53, R395, R413, R415: CSRR and CSRW. -/
def Obligations.SpecialRegistersReadAndWritten : Prop :=
  clausesSpecialRegistersRead ∧ clausesSpecialRegistersWritten

/-- R417, R418: WDOG and DBGMB. -/
def Obligations.WatchdogAndDebugMailboxWords : Prop :=
  clausesWatchdogAgesRestart ∧ clausesDebugMailboxWords

/-! ## Copy, fabric and launch words (R267 to R276, R288, R308 to R317, R378 to R390) -/

/-- The first of a list of checks that fails gives the cause. -/
def firstFailing : List (Prop × Byte) → Byte → Prop
  | [], _ => False
  | (p, c) :: r, x => (¬ p ∧ x = c) ∨ (p ∧ firstFailing r x)

/-- R19, R23: n bytes from lo, in exact integers, lie in the global window, or (where allowed) in the local slice below the carve-out. -/
def inOneRow (s : State) (t : Nat) (slice : Bool) (lo : Int) (n : Nat) : Prop :=
  0 ≤ lo ∧ (lo + n ≤ 2 ^ 56 ∨
    (slice = true ∧ 0xFF00000000000000 ≤ lo ∧ lo + n ≤ 0xFF00000000000000 + 8388608 - ((s.coreAt (coreOfThread t)).carve : Int)))

/-- R275: the rows of a gather or scatter lie in one aperture row, from the lowest byte to the highest. -/
def rowsInOneRow (s : State) (t : Nat) (base : DWord) (stride : Int) (mask : DWord) (row : Nat) : Prop :=
  (∀ i, i < 64 → mask.getLsbD i = true → 0 ≤ (base.toNat : Int) + i * stride ∧ (base.toNat : Int) + i * stride + row ≤ 2 ^ 56) ∨
  (∀ i, i < 64 → mask.getLsbD i = true → 0xFF00000000000000 ≤ (base.toNat : Int) + i * stride ∧
    (base.toNat : Int) + i * stride + row ≤ 0xFF00000000000000 + 8388608 - ((s.coreAt (coreOfThread t)).carve : Int))

/-- NBAR of a thread's workgroup. -/
def barriersOf (s : State) (t : Nat) : Nat := s.nbar (s.warpOfThread t).lid

/-- The checks of a control word (R272, R309): its reserved bits, and its barrier when it counts bytes. -/
def controlChecks (s : State) (t : Nat) (w reserved : Word) : List (Prop × Byte) :=
  [(w &&& reserved = 0, 2), (w.getLsbD 15 = true → w.toNat % 128 < barriersOf s t, 0x0B)]

/-- R273, R275, R277 to R280, R284, R308 to R310: the queue and token of a copy word, its checks before the token's, and the transfer or the
chain head that it queues. -/
def copyCommand (s : State) (t : Nat) : Instr → Option (Nat × Nat × List (Prop × Byte) × Xfer × Option DWord)
  | .cpy _ q k a b =>
    let th := s.thread t
    let w := th.reg (b.toNat + 1)
    let x : Xfer := { kind := .cpy, src := th.pair a.toNat, dst := th.pair (a.toNat + 2), len := (th.reg b.toNat).toNat,
                      be := w.getLsbD 15, fill := w.getLsbD 14, bar := w.toNat % 128 }
    some (q.toNat, k.toNat, controlChecks s t w 0xFFFF3F80 ++
      [(x.len = 0 ∨ (inOneRow s t true x.src.toNat x.len ∧ inOneRow s t true x.dst.toNat x.len), 4),
       (x.fill = true → x.dst.toNat % 8 = 0 ∧ x.len % 8 = 0, 3)], x, none)
  | .tcpy _ m q k a b =>
    let th := s.thread t
    let w := th.reg (b.toNat + 6)
    let x : Xfer := { kind := if m = 0 then .tld else .tst, src := th.pair a.toNat, dst := th.pair (b.toNat + 4),
                      coords := [(th.reg b.toNat).toInt, (th.reg (b.toNat + 1)).toInt, (th.reg (b.toNat + 2)).toInt, (th.reg (b.toNat + 3)).toInt],
                      be := w.getLsbD 15, fill := w.getLsbD 14, bar := w.toNat % 128 }
    some (q.toNat, k.toNat, controlChecks s t w 0xFFFF3F80 ++
      [(inOneRow s t true x.src.toNat 1 ∧ inOneRow s t true x.dst.toNat 1, 4), (x.src.toNat % 64 = 0 ∧ x.dst.toNat % 256 = 0, 3)], x, none)
  | .gcpy _ m q k a b =>
    let th := s.thread t
    let w := th.reg (b.toNat + 2)
    let mask := th.pair (a.toNat + 4)
    let row := (th.reg (a.toNat + 6)).toNat
    let stride := (th.reg (a.toNat + 7)).toInt
    let rows := ((List.range 64).filter (fun i => mask.getLsbD i)).length
    let x : Xfer := { kind := if m = 0 then .gather else .scatter, src := th.pair a.toNat, dst := th.pair (a.toNat + 2), mask := mask, row := row,
                      stride := stride, cnt := th.pair b.toNat, len := rows * row,
                      be := w.getLsbD 15, fill := w.getLsbD 14, bar := w.toNat % 128 }
    some (q.toNat, k.toNat, controlChecks s t w 0xFFFF3F80 ++
      [((x.cnt = 0 ∨ inOneRow s t true x.cnt.toNat 8) ∧
          (rows = 0 ∨ (rowsInOneRow s t (if m = 0 then x.src else x.dst) stride mask (max 1 row) ∧
            inOneRow s t true (if m = 0 then x.dst else x.src).toNat (max 1 (rows * row)))), 4),
       (x.cnt.toNat % 8 = 0 ∧ (x.fill = true → x.dst.toNat % 8 = 0 ∧ row % 8 = 0 ∧ stride % 8 = 0), 3)], x, none)
  | .chain _ q k a =>
    let head := (s.thread t).pair a.toNat
    some (q.toNat, k.toNat, [(inOneRow s t true head.toNat 1, 4), (head.toNat % 64 = 0, 3)], {}, some head)
  | .rcpy _ m q k a b =>
    let th := s.thread t
    let w := th.reg (b.toNat + 1)
    let x : Xfer := { kind := if m = 0 then .put else if m = 1 then .putc else .get, src := th.pair a.toNat, dst := th.pair (a.toNat + 2),
                      len := (th.reg b.toNat).toNat, dev := w.extractLsb' 20 12,
                      be := w.getLsbD 15, fill := w.getLsbD 14, bar := w.toNat % 128 }
    some (q.toNat, k.toNat, controlChecks s t w 0x000F3F80 ++
      [(x.len = 0 ∨ (inOneRow s t true x.src.toNat x.len ∧ inOneRow s t false x.dst.toNat x.len), 4),
       (x.fill = true → (if m = 0 ∨ m = 1 then x.dst else x.src).toNat % 8 = 0 ∧ x.len % 8 = 0, 3)], x, none)
  | _ => none

/-- R267, R270, R271, R275, R276: a word whose one participant issues a command on token k: the first check that fails traps it and queues
nothing; without room, or with 255 commands on the token, it has not issued; else it passes, its token counts one more command and `queued`
holds. The token's error is checked last of `checks`, or before what follows it. No byte changes but those the L1 writes back. -/
def issuesCommand (s : State) (i : Instr) (t k : Nat) (checks : List (Prop × Byte)) (room : Prop) (same queued : State → Prop) : Prop :=
  let th := s.thread t
  let w := s.warpOfThread t
  let kept := fun (s' : State) => (∀ j, keptOrWrittenBack s s' (coreOfThread t) j) ∧ tagsKept s s' noKey ∧ idsKept s s' noKey ∧
    ∀ n, n ≠ k → (s'.warpOfThread t).tok n = w.tok n
  s.executes i → s.soundCore → s.participants i = [t] → s.steady t →
    (∀ c, firstFailing checks c → Answers i s fun s' => trapped s s' t c 0 ∧ same s' ∧ kept s' ∧ (s'.warpOfThread t).tok k = w.tok k) ∧
    ((∀ e ∈ checks, e.1) → ¬ (room ∧ (w.tok k).out < 255) → Answers i s fun s' =>
      s'.thread t = th ∧ same s' ∧ kept s' ∧ (s'.warpOfThread t).tok k = w.tok k) ∧
    ((∀ e ∈ checks, e.1) → room → (w.tok k).out < 255 → Answers i s fun s' =>
      goesOnAt th (s'.thread t) (s.cur.pc + 4) ∧ sameRegisters th (s'.thread t) ∧ sameException th (s'.thread t) ∧ kept s' ∧
      (s'.warpOfThread t).tok k = { w.tok k with out := (w.tok k).out + 1 } ∧ queued s')

/-- The owner of a command of a thread: a token of its warp. -/
def tokenOwner (s : State) (t k : Nat) : Owner := let w := s.warpOfThread t; .token w.lid w.g w.widx k

/-- R267 to R280, R284, R308 to R310: CPY, TCPY, GCPY, CHAIN and RCPY queue a command on the engine of their core.
Inferences and choices of the model: log entry 28. -/
def Obligations.CopyWordsQueueTheirCommands : Prop :=
  ∀ (i : Instr) (s : State) (t q k : Nat) (checks : List (Prop × Byte)) (x : Xfer) (head : Option DWord),
    copyCommand s t i = some (q, k, checks, x, head) →
    let w := s.warpOfThread t
    let core := coreOfThread t
    let e := 4 * (core / 128) + core % 128 % 4
    let old := Tab.get [] (s.engine e).q q
    let room := old.length < 64 ∧ s.shareRoom ((s.engine e).all.map (fun c => (c.part, c.rcb))) w.lid w.part w.rcb = true
    let others := fun (s' : State) => ∀ p, p ≠ q → Tab.get [] (s'.engine e).q p = Tab.get [] (s.engine e).q p
    issuesCommand s i t k (checks ++ [((w.tok k).err = 0, 0x0C)]) room
      (fun s' => Tab.get [] (s'.engine e).q q = old ∧ others s')
      (fun s' => others s' ∧ ∃ c, Tab.get [] (s'.engine e).q q = old ++ [c] ∧ c.x = x ∧ c.chain = head ∧ c.owner = tokenOwner s t k ∧
        c.part = w.part ∧ c.core = core ∧ c.rcb = w.rcb ∧ c.started = false)

/-- R362, R386: the accumulation buffer and the number of tiles that a warp's RCB had as its launch was accepted. -/
def gradientBuffer (s : State) (w : Warp) : Option (DWord × Nat) := (s.viewOf w).pairOf (fun r => r.gacc) (fun r => r.gnt) w.rcb

/-- R317, R387, R388, R390: COLL queues a command on its package's collective engine, GLOG and WFOLD on their die's Welt engine; a GLOG has
reserved a place of the log ring and an RSEQ. Inferences and choices of the model: log entry 25. -/
def Obligations.CollectiveAndLogWordsQueueTheirCommands : Prop :=
  ∀ (g : Guard) (q k : BitVec 3) (a b : BitVec 6) (o : BitVec 3) (s : State) (t : Nat),
    let th := s.thread t
    let w := s.warpOfThread t
    let core := coreOfThread t
    let die := core / 128
    let noError : Prop × Byte := ((w.tok k.toNat).err = 0, 0x0C)
    let xa := th.pair a.toNat
    (let e := s.collEng (die / 4)
     let old := Tab.get [] e.q q.toNat
     issuesCommand s (.coll g q k a o) t k.toNat [(inOneRow s t true xa.toNat 1, 4), (xa.toNat % 64 = 0, 3), noError]
      (old.length < 16 ∧ s.shareRoom (e.all.map (fun c => (c.part, c.rcb))) w.lid w.part w.rcb = true)
      (fun s' => Tab.get [] (s'.collEng (die / 4)).q q.toNat = old)
      (fun s' => ∃ c, Tab.get [] (s'.collEng (die / 4)).q q.toNat = old ++ [c] ∧ c.op = o.toNat ∧ c.addr = xa ∧
        c.owner = tokenOwner s t k.toNat ∧ c.part = w.part ∧ c.core = core ∧ c.rcb = w.rcb ∧ c.phase = .waiting)) ∧
    (let e := s.weltOf die
     let room := e.q.length < 64 ∧ s.shareRoom (e.q.map (fun c => (c.part, c.rcb))) w.lid w.part w.rcb = true
     let src := th.pair b.toNat
     let ccw := th.reg b.toNat
     let own := w.lid % 2 ^ 48
     let upTo := if xa = 0 then own - 1 else xa.toNat % 2 ^ 48
     let same := fun (s' : State) => (s'.weltOf die).q = e.q ∧ (s'.weltOf die).ring = e.ring ∧ (s'.weltOf die).rseq = e.rseq ∧
       (s'.weltOf die).reserved = e.reserved
     let queued := fun (kind : WeltKind) (s' : State) => ∃ c, (s'.weltOf die).q = e.q ++ [c] ∧ c.kind = kind ∧
       c.owner = tokenOwner s t k.toNat ∧ c.part = w.part ∧ c.core = core ∧ c.rcb = w.rcb ∧ (s'.weltOf die).ring = e.ring
     issuesCommand s (.glog g k a b) t k.toNat
       [(inOneRow s t true src.toNat 2048, 4), (src.toNat % 256 = 0, 3), noError, (e.reserved.length + e.ring.length < 508400, 5)] room same
       (fun s' => (s'.weltOf die).rseq = e.rseq + 1 ∧ ∃ place, place < 508400 ∧ place ∉ e.reserved ∧ (∀ r ∈ e.ring, r.place ≠ place) ∧
         (s'.weltOf die).reserved = e.reserved ++ [place] ∧
         queued (.glog { kind := 1, esc := w.lscale.toInt, rcb := w.rcb, tile := (th.reg a.toNat).toNat, lseq := own, wg := w.g,
                         tid := w.widx * 32 + t % 32, rseq := e.rseq, data := [], place := place, buf := gradientBuffer s w } src) s') ∧
     issuesCommand s (.wfold g k a b) t k.toNat
       [(ccw &&& 0xFFFF3F80 = 0 ∧ ccw.getLsbD 14 = false, 2), (ccw.getLsbD 15 = true → ccw.toNat % 128 < barriersOf s t, 0x0B),
        (xa.toNat < 2 ^ 48 ∧ upTo < own, 0x0B), noError] room same
       (fun s' => queued (.fold upTo (ccw.getLsbD 15) (ccw.toNat % 128)) s' ∧ (s'.weltOf die).reserved = e.reserved ∧
         (s'.weltOf die).rseq = e.rseq))

/-- R385: the 64-byte header of a loss-scale record stands in memory from a key on. -/
def headerAt (s : State) (k : Nat) (q : GRec) : Prop :=
  let field := fun (lo n v : Nat) => numberAt s (k + lo) n = v
  field 0 1 2 ∧ field 1 1 (BitVec.ofInt 8 q.esc).toNat ∧ field 2 2 (q.rcb % 65536) ∧ field 4 4 0 ∧ field 8 6 (q.lseq % 2 ^ 48) ∧ field 14 2 0 ∧
  field 16 4 (q.wg % 2 ^ 32) ∧ field 20 2 (q.tid % 65536) ∧ field 22 2 0 ∧ field 24 8 (q.rseq % 2 ^ 64) ∧ field 32 32 0

/-- R385, R389: LSCALE appends one loss-scale record with the key of the first participant, in the log and with its header in the ring, and sets
%LSCALE in every participant's warp; an exponent outside −126 to 127 traps the whole bundle with cause 0x01, and a full ring with 0x05. -/
def clausesLossScaleIsSet : Prop :=
  ∀ (g : Guard) (a : BitVec 6) (s : State) (p t : Nat) (ps : List Nat),
    let i := Instr.lscale g a
    let v := (s.thread p).reg a.toNat
    let die := s.cur.core / 128
    let e := s.weltOf die
    let w := s.warpOfThread p
    let bad := v.toInt < -126 ∨ 127 < v.toInt
    let taken := e.reserved.length + e.ring.length
    s.executes i → s.participants i = p :: ps → t ∈ s.cur.threads → coreOfThread p = s.cur.core →
    (bad → Answers i s fun s' => trapped s s' t 1 0 ∧ s'.weltOf die = e) ∧
    (¬ bad → 508400 ≤ taken → Answers i s fun s' => trapped s s' t 5 0 ∧ s'.weltOf die = e) ∧
    (¬ bad → taken < 508400 → Answers i s fun s' =>
      (∃ place, place < 508400 ∧ place ∉ e.reserved ∧ (∀ r ∈ e.ring, r.place ≠ place) ∧
        let q : GRec := { kind := 2, esc := v.toInt, rcb := w.rcb, tile := 0, lseq := w.lid % 2 ^ 48, wg := w.g, tid := w.widx * 32 + p % 32,
                          rseq := e.rseq, data := [], place := place, buf := gradientBuffer s w }
        let k := (ringPlace die place).key
        (s'.weltOf die).ring = e.ring ++ [q] ∧ headerAt s' k q ∧ ∀ j, byteKey j → (j < k ∨ k + 64 ≤ j) → s'.byte j = s.byte j) ∧
      (s'.weltOf die).rseq = e.rseq + 1 ∧ (s'.weltOf die).reserved = e.reserved ∧ (s'.weltOf die).q = e.q ∧
      (∀ u, (s'.warp u).lscale = if ∃ x ∈ p :: ps, warpOf x = u then v else (s.warp u).lscale) ∧
      (∀ u, sameRegisters (s.thread u) (s'.thread u)) ∧
      (t ∈ p :: ps → s.steady t → goesOnAt (s.thread t) (s'.thread t) (s.cur.pc + 4)))

/-- R288: TKWAIT lets a thread go on whose warp's named tokens are complete, with their errors in vD and cleared when it asks for the status;
otherwise the thread waits at the word. -/
def clausesTokenWaitsReportErrors : Prop :=
  ∀ (g : Guard) (d : BitVec 6) (st : BitVec 1) (m : BitVec 8) (s : State) (t : Nat),
    let i := Instr.tkwait g d st m
    let th := s.thread t
    let w := s.warpOfThread t
    let failed := fun n => m.getLsbD n = true ∧ (w.tok n).err ≠ 0
    Issues s i t →
    ((∃ n, n < 8 ∧ m.getLsbD n = true ∧ (w.tok n).out ≠ 0) → Answers i s fun s' => (s'.thread t).pc = th.pc ∧ sameRegisters th (s'.thread t) ∧
      sameException th (s'.thread t)) ∧
    ((∀ n, n < 8 → m.getLsbD n = true → (w.tok n).out = 0) → Answers i s fun s' =>
      let v := (s'.thread t).reg d.toNat
      goesOnAt th (s'.thread t) (s.cur.pc + 4) ∧ sameException th (s'.thread t) ∧ (∀ n, n ≠ d.toNat → (s'.thread t).reg n = th.reg n) ∧
      (s'.thread t).preds = th.preds ∧ (s'.thread t).fpflags = th.fpflags ∧
      (∀ j, keptOrWrittenBack s s' s.cur.core j) ∧ tagsKept s s' noKey ∧
      (st = 0 → v = th.reg d.toNat ∧ ∀ n, (s'.warpOfThread t).tok n = w.tok n) ∧
      (st = 1 → (∀ n, n < 8 → (v.getLsbD n = true ↔ failed n)) ∧ v.toNat < 65536 ∧
        ((∀ n, n < 8 → ¬ failed n) → v = 0) ∧
        (∀ n, n < 8 → failed n → (∀ j, j < n → ¬ failed j) → v.extractLsb' 8 8 = (w.tok n).err) ∧
        ∀ n, n < 8 → (s'.warpOfThread t).tok n = if m.getLsbD n then { w.tok n with err := 0 } else w.tok n)) ∧
    Answers i s fun s' => ∀ u, u ∉ s.participants i → sameRegisters (s.thread u) (s'.thread u)

/-- R315, R316: SIGR at a slice word of this device writes it and sets its tag, or arrives at a barrier of the workgroup that owns its line (failing
with 0x0B otherwise); elsewhere on this device it fails with 0x18; a target on another device gets a SIGNAL. A failure becomes a failed store. -/
def Obligations.SignalsFillOrArrive : Prop :=
  ∀ (g : Guard) (d a b : BitVec 6) (z : BitVec 1) (s : State) (t : Nat) (ea : DWord) (p : Place),
    let th := s.thread t
    let core := coreOfThread t
    let k := p.home.key
    let n := if z = 1 then 8 else 4
    let carried := match s.cur.pfx.ord with | some (_, c, _) => c.toNat | none => 0
    let passes := fun (s' : State) (fail : Option Byte) => goesOnAt th (s'.thread t) (s.cur.pc + 4) ∧ sameRegisters th (s'.thread t) ∧
      sameException th (s'.thread t) ∧ ∃ x, (s'.thread t).acks = th.acks ++ [x] ∧ x.fail = fail.map (fun c => (c, ea &&& ~~~31#64))
    let at_ := fun (i : Instr) (n : Nat) => Alone s i t ∧ th.pair a.toNat = ea ∧ s.checkAccess t ea n n false true false = .place p ∧
      s.watched t ea n false true = false ∧ (p.so s.cur.pfx = true → th.soOpen = false)
    (let i := Instr.sigrFill g d a z
     at_ i n → (s.releaseAt t (max carried (p.home.scope core))).2 = true →
      (p.home.isSlice = true → s.refusedAt p.home n = false → (∀ w ∈ s.tagWaits, w.phase = 1 → w.key / 8 ≠ k / 8) → Answers i s fun s' =>
        passes s' none ∧ s'.tagAt k = true ∧ (∀ j, j < n → s'.byte (k + j) = storedByte th d j) ∧
        (∀ j, (j < k ∨ k + n ≤ j) → keptOrWrittenBack s s' core j) ∧ tagsKept s s' (fun j => j / 8 = k / 8) ∧ idsKept s s' noKey) ∧
      (p.home.isSlice = false → p.home.isRemote = false → Answers i s fun s' => passes s' (some 0x18) ∧
        (∀ j, keptOrWrittenBack s s' core j) ∧ tagsKept s s' noKey) ∧
      (∀ dev va, p.home = .remote dev va → Answers i s fun s' => ∃ x, (s'.thread t).acks = th.acks ++ [x] ∧
        requested s' (.ack t x.id ea) dev va (.signal 0 (z == 1) (if z = 1 then th.pair d.toNat else (th.reg d.toNat).zeroExtend 64)))) ∧
    (∀ rel : Bool,
      let i := if rel then Instr.sigrArrel g a b else Instr.sigrArr g a b
      let v := th.reg b.toNat
      let c := v.toNat / 65536
      let kept := fun (s' : State) => (∀ j, keptOrWrittenBack s s' core j) ∧ tagsKept s s' noKey
      at_ i 8 → (s.releaseAt t (if rel then 4 else 0)).2 = true →
      (∀ cr off w, p.home = .slice cr off → s.refusedAt p.home 8 = false → s.sliceOwner cr off = some w → s.wg? w.lid w.g = some w →
        let bar := s.barAt w (v.toNat % 128)
        let ok := v.toNat / 128 % 512 = 0 ∧ v.toNat % 128 < s.nbar w.lid ∧ bar.init = true ∧ c ≤ bar.pend
        (¬ ok → Answers i s fun s' => passes s' (some 0x0B) ∧ kept s' ∧ ∃ w', s'.wg? w.lid w.g = some w' ∧ s'.barAt w' (v.toNat % 128) = bar) ∧
        (ok → Answers i s fun s' => (∃ x, (s'.thread t).acks = th.acks ++ [x] ∧ x.fail = none) ∧ kept s' ∧
          ∃ w', s'.wg? w.lid w.g = some w' ∧ afterEvent { bar with pend := bar.pend - c } (s'.barAt w' (v.toNat % 128)))) ∧
      (∀ cr off, p.home = .slice cr off → s.refusedAt p.home 8 = false → s.sliceOwner cr off = none → Answers i s fun s' =>
        passes s' (some 0x0B) ∧ kept s') ∧
      (p.home.isSlice = false → p.home.isRemote = false → Answers i s fun s' => passes s' (some 0x18) ∧ kept s') ∧
      (∀ dev va, p.home = .remote dev va → Answers i s fun s' => kept s' ∧ ∃ x, (s'.thread t).acks = th.acks ++ [x] ∧
        requested s' (.ack t x.id ea) dev va (.signal (if rel then 2 else 1) true (v.zeroExtend 64))))

/-- A request joins a die's launch batches (R380): the open batch of its key takes it, closing with 64, or it opens one in a free place; with
neither, the earliest closes if all are open, and the request has found no place. -/
def joinsBatch (part : Nat) (kd : DWord) (rcb core cycle : Nat) (r : BatchReq) (old new : List Batch) (placed : Prop) : Prop :=
  let takes := fun (b : Batch) => b.isOpen = true ∧ b.part = part ∧ b.kd = kd ∧ b.rcb = rcb ∧ b.reqs.length < 64
  (∀ pre b post, old = pre ++ b :: post → (∀ x ∈ pre, ¬ takes x) → takes b →
    placed ∧ new = pre ++ { b with reqs := b.reqs ++ [r], isOpen := decide (b.reqs.length + 1 < 64) } :: post) ∧
  ((∀ b ∈ old, ¬ takes b) → old.length < 16 →
    placed ∧ new = old ++ [{ part := part, kd := kd, rcb := rcb, isOpen := true, core := core, openedAt := cycle, reqs := [r] }]) ∧
  (∀ b rest, old = b :: rest → (∀ x ∈ old, ¬ takes x) → 16 ≤ old.length →
    ¬ placed ∧ new = if ∀ x ∈ old, x.isOpen = true then { b with isOpen := false } :: rest else old)

/-- R378 to R380: LNCH.LAUNCH checks its operands and its child RCB, then its request joins the launch batches of its die, with a result that
waits for the grid's fate; while it finds no place, or its release must wait, it stays at its word. -/
def clausesLaunchRequestsJoinBatches : Prop :=
  ∀ (g : Guard) (d a b : BitVec 6) (s : State) (t : Nat),
    let i := Instr.lnchLaunch g d a b
    let th := s.thread t
    let w := s.warpOfThread t
    let core := coreOfThread t
    let kd := th.pair a.toNat
    let n := (th.reg b.toNat).toNat % 65536
    let child := (th.reg b.toNat).toNat / 65536
    let checks : List (Prop × Byte) := [(kd ≤ 0x00FFFFFFFFFFFFFF, 4), (kd.toNat % 64 = 0, 3), (1 ≤ n, 1),
      (child = 0 ∨ w.rcb ∈ (s.part w.part).ancestors child, 5)]
    s.executes i → s.participants i = [t] → s.steady t →
    (∀ c, firstFailing checks c → Answers i s fun s' => trapped s s' t c 0 ∧ s'.batchesOf (core / 128) = s.batchesOf (core / 128) ∧
      ∀ j, s'.byte j = s.byte j) ∧
    ((∀ e ∈ checks, e.1) → (s.releaseAt t 3).2 = false → Answers i s fun s' => (s'.thread t).pc = th.pc ∧ sameRegisters th (s'.thread t) ∧
      s'.batchesOf (core / 128) = s.batchesOf (core / 128)) ∧
    ((∀ e ∈ checks, e.1) → (s.releaseAt t 3).2 = true → Answers i s fun s' =>
      sameRegisters th (s'.thread t) ∧ sameException th (s'.thread t) ∧ (∀ j, keptOrWrittenBack s s' core j) ∧
      ∃ (id : Nat) (placed : Prop),
        joinsBatch w.part kd (if child = 0 then w.rcb else child) core (s.coreAt core).cycle { tid := t, id := id, n := n, param := th.pair (a.toNat + 2) }
          (s.batchesOf (core / 128)) (s'.batchesOf (core / 128)) placed ∧
        (placed → goesOnAt th (s'.thread t) (s.cur.pc + 4) ∧ ∃ o, (s'.thread t).outs = th.outs ++ [o] ∧ o.id = id ∧
          o.dst = [d.toNat, d.toNat + 1] ∧ o.res = none) ∧
        (¬ placed → (s'.thread t).pc = th.pc ∧ (s'.thread t).outs = th.outs))

/-- R382, R460: reading a block for LNCH.GANG ends in a trap, a wait for an on-demand page, or a wait for another device, with the thread at its
word, as the model's `readRange` says. -/
def rangeNotYet (s : State) (i : Instr) (t : Nat) (va : DWord) : RangeRead → Prop
  | .trap c => Answers i s fun s' => trapped s s' t c (va &&& ~~~31#64)
  | .page v => Answers i s fun s' => (s'.thread t).park = .page v ∧ (s'.thread t).pc = (s.thread t).pc ∧
      sameRegisters (s.thread t) (s'.thread t) ∧ ((s.warpOfThread t).part, v) ∈ s'.dev.notices
  | .away rs => Answers i s fun s' => (s'.thread t).pc = (s.thread t).pc ∧ sameRegisters (s.thread t) (s'.thread t) ∧
      (s'.thread t).outs = (s.thread t).outs ∧ (rs ≠ [] → (s'.thread t).asked.away ≠ 0)
  | .bytes _ => True

/-- R382: LNCH.GANG refuses a bad block with STATUS 0x02 and starts no gang; from a good one it numbers a gang for the listed devices and its result
waits for them. The block and the list are those that the thread reads once its core's newer bytes of them are written back (R460). -/
def clausesGangLaunchesAreNumbered : Prop :=
  ∀ (g : Guard) (d a : BitVec 6) (s : State) (t : Nat),
    let i := Instr.lnchGang g d a
    let th := s.thread t
    let part := (s.warpOfThread t).part
    let core := coreOfThread t
    let xa := th.pair a.toNat
    let s1 := s.dropRange core part xa 64
    let refused := fun (s' : State) => s'.gangs = s.gangs ∧ s'.gangSeq = s.gangSeq ∧ goesOnAt th (s'.thread t) (s.cur.pc + 4) ∧
      ∃ o, (s'.thread t).outs = th.outs ++ [o] ∧ o.dst = [d.toNat, d.toNat + 1] ∧ o.res = some (.val [BitVec.ofNat 32 s.gangSeq, 0x02000000])
    s.executes i → s.participants i = [t] → s.steady t →
    (¬ inOneRow s t true xa.toNat 1 → Answers i s fun s' => trapped s s' t 4 0) ∧
    (inOneRow s t true xa.toNat 1 → xa.toNat % 64 ≠ 0 → Answers i s fun s' => trapped s s' t 3 0) ∧
    (inOneRow s t true xa.toNat 1 → xa.toNat % 64 = 0 → rangeNotYet s i t xa (s1.readRange t xa 64) ∧
      ∀ blk, s1.readRange t xa 64 = .bytes blk →
        let field := fun (lo n : Nat) => leNat ((blk.drop lo).take n)
        let np := field 22 2
        let list := BitVec.ofNat 64 (field 32 8)
        let s2 := s1.dropRange core part list (2 * np)
        let good := 1 ≤ field 16 4 ∧ 1 ≤ np ∧ np ≤ 4096 ∧ 1 ≤ field 24 4 ∧ field 28 4 = 0 ∧ field 40 24 = 0
        (¬ good → Answers i s refused) ∧
        (good → rangeNotYet s i t list (s2.readRange t list (2 * np)) ∧
          ∀ ls, s2.readRange t list (2 * np) = .bytes ls → ls.length = 2 * np →
            let devs := (List.range np).map (fun j => leNat ((ls.drop (2 * j)).take 2))
            ((∃ v ∈ devs, 4096 ≤ v) ∨ ¬ devs.Nodup → Answers i s refused) ∧
            ((∀ v ∈ devs, v < 4096) → devs.Nodup → (s2.releaseAt t 4).2 = true → Answers i s fun s' =>
              goesOnAt th (s'.thread t) (s.cur.pc + 4) ∧ sameRegisters th (s'.thread t) ∧ s'.gangSeq = (s.gangSeq + 1) % 2 ^ 32 ∧
              (∀ j, keptOrWrittenBack s s' core j) ∧
              ∃ o, (s'.thread t).outs = th.outs ++ [o] ∧ o.dst = [d.toNat, d.toNat + 1] ∧ o.res = none ∧
                s'.gangs = s.gangs ++ [{ seq := s.gangSeq, devs := devs, acked := [], tid := t, id := o.id, win := field 24 4 }])))

/-- R379, R383: LNCH.BWREC checks its operands, discards a second ONCE push of its launch, and otherwise writes its 64-byte record at the end of the
effective tape and counts it, in the RCB's own bytes too while that RCB is registered (R362); without a tape, or with a full one, it traps with cause 0x05. -/
def clausesTapePushesAppendRecords : Prop :=
  ∀ (g : Guard) (once : BitVec 1) (a b : BitVec 6) (s : State) (t : Nat) (l : Launch),
    let i := Instr.lnchBwrec g once a b
    let th := s.thread t
    let w := s.warpOfThread t
    let kd := th.pair a.toNat
    let v := (th.reg b.toNat).toNat
    let checks : List (Prop × Byte) := [(kd ≤ 0x00FFFFFFFFFFFFFF, 4), (kd.toNat % 64 = 0, 3), (1 ≤ v % 65536 ∧ v / 131072 = 0, 1)]
    let tape := s.tapeOf w
    let discarded := once = 1 ∧ l.onceDone = true
    s.executes i → s.participants i = [t] → s.steady t → s.launch? w.lid = some l →
    (∀ c, firstFailing checks c → Answers i s fun s' => trapped s s' t c 0 ∧ ∀ j, s'.byte j = s.byte j) ∧
    ((∀ e ∈ checks, e.1) → discarded → Answers i s fun s' => goesOnAt th (s'.thread t) (s.cur.pc + 4) ∧ sameRegisters th (s'.thread t) ∧
      ∀ j, s'.byte j = s.byte j) ∧
    ((∀ e ∈ checks, e.1) → ¬ discarded → (∀ r, tape = some r → r.tapesz / 64 ≤ r.tapen) → Answers i s fun s' =>
      trapped s s' t 5 0 ∧ ∀ j, s'.byte j = s.byte j) ∧
    (∀ r, (∀ e ∈ checks, e.1) → ¬ discarded → tape = some r → r.tapen < r.tapesz / 64 → (s.releaseAt t 3).2 = true → Answers i s fun s' =>
      goesOnAt th (s'.thread t) (s.cur.pc + 4) ∧ sameRegisters th (s'.thread t) ∧ sameException th (s'.thread t) ∧
      (once = 1 → ∃ l', s'.launch? w.lid = some l' ∧ l'.onceDone = true) ∧
      (∀ r', (s'.part w.part).rcb? r.id = some r' → r'.tape = r.tape → r'.tapen = r.tapen + 1) ∧
      ∃ rec : List Byte, rec.length = 64 ∧
        (let field := fun (lo n : Nat) => leNat ((rec.drop lo).take n)
         field 0 8 = kd.toNat ∧ field 8 8 = (th.pair (a.toNat + 2)).toNat ∧ field 16 4 = v % 65536 ∧ field 20 2 = w.rcb % 65536 ∧
         field 22 1 = v / 65536 % 2 + 2 * once.toNat ∧ field 23 1 = 0 ∧ field 24 6 = w.lid % 2 ^ 48 ∧ field 30 2 = 0 ∧
         field 32 4 = w.g % 2 ^ 32 ∧ field 36 28 = 0) ∧
        let pushed := (s.releaseAt t 3).1.agentStore w.part (r.tape + BitVec.ofNat 64 (64 * r.tapen)) rec
        let registered := fun (x : Rcb) => (s.part w.part).rcb? r.id = some x ∧ x.tape = r.tape
        (∀ x, registered x → ∀ j, s'.byte j = (pushed.agentStore w.part (x.addr + 76) (leBytes 4 (r.tapen + 1))).byte j) ∧
        ((∀ x, ¬ registered x) → ∀ j, s'.byte j = pushed.byte j))

/-- R288, R389: LSCALE and TKWAIT. -/
def Obligations.LossScaleAndTokenWaits : Prop :=
  clausesLossScaleIsSet ∧ clausesTokenWaitsReportErrors

/-- R378 to R383: LNCH.LAUNCH, LNCH.GANG and LNCH.BWREC. Inferences and choices of the model: log entry 17. -/
def Obligations.LaunchWords : Prop :=
  clausesLaunchRequestsJoinBatches ∧ clausesGangLaunchesAreNumbered ∧ clausesTapePushesAppendRecords

/-! ## Circuit words (R329 to R361) -/

/-- The context that issues runs, and the word has no reserved code (R337, R348). -/
def CxRuns (s : State) (i : Instr) : Prop := (s.cx s.cp.last).st = 1 ∧ i.fieldsOk = true

/-- The issuing context's command had DETACH and none waits for the context, so that its end completes and starts nothing (R374). -/
def Detached (s : State) : Prop := (s.cx s.cp.last).cmd = none ∧ s.waitingFor s.cp.last = none

/-- The context goes on at the next word with new register values; c0 reads 0; the other contexts stay as they are. -/
def cxGoesOn (s s' : State) (new : Nat → DWord) : Prop :=
  let k := s.cp.last
  (s'.cx k).st = 1 ∧ (s'.cx k).pc = ((s.cx k).pc + 4) % 65536 ∧ (s'.cx k).reg 0 = 0 ∧ (∀ n, 0 < n → n < 16 → (s'.cx k).reg n = new n) ∧
  ∀ j, j ≠ k → s'.cx j = s.cx j

/-- The registers of the issuing context. -/
def cxRegs (s : State) (n : Nat) : DWord := (s.cx s.cp.last).reg n
/-- Those registers with one changed. -/
def cxWith (s : State) (d : BitVec 4) (v : DWord) (n : Nat) : DWord := if n = d.toNat then v else cxRegs s n

/-- The word holds the context, which is in WAIT at it with its registers as they were (R336). -/
def cxWaits (s s' : State) (w : CxWait) : Prop :=
  let k := s.cp.last
  (s'.cx k).st = 2 ∧ (s'.cx k).wait = w ∧ (s'.cx k).pc = (s.cx k).pc ∧ (s'.cx k).statPc = (s.cx k).pc ∧
  (∀ n, (s'.cx k).reg n = (s.cx k).reg n) ∧ ∀ j, j ≠ k → s'.cx j = s.cx j

/-- Memory, tags, threads, ports and bindings stay. -/
def restOfCircuitKept (s s' : State) : Prop :=
  (∀ j, s'.byte j = s.byte j ∧ s'.tagAt j = s.tagAt j) ∧ s'.thr = s.thr ∧ s'.cp.ports = s.cp.ports ∧ s'.cp.binds = s.cp.binds

/-- R336: what the issuing context owned is released: its ports are DARK with every entry FREE, its bindings are gone and it has no rotation; nothing
else of the ports changes. -/
def cxReleased (s s' : State) : Prop :=
  let k := s.cp.last
  (∀ p, p < 16 → (s.optPort p).owner = some k → (s'.optPort p).st = 0 ∧ (s'.optPort p).owner = none ∧ (s'.optPort p).peer = none ∧
    ∀ n, n < 16 → ((s'.optPort p).entry n).st = 0) ∧
  (∀ p, (s.optPort p).owner ≠ some k → s'.optPort p = s.optPort p) ∧
  s'.cp.binds = s.cp.binds.filter (fun b => b.cx != k) ∧ (s'.cx k).rot.st = 0 ∧ (s'.cx k).wait = .none ∧
  (∀ n, (s'.cx k).reg n = (s.cx k).reg n) ∧ (∀ j, j ≠ k → s'.cx j = s.cx j) ∧ ∀ j, s'.byte j = s.byte j ∧ s'.tagAt j = s.tagAt j

/-- R336, R337: the word faults its context: FAULT, CAUSE and PC, and what the context owns is released. -/
def CxFaults (s : State) (i : Instr) (c : Byte) : Prop :=
  Detached s → Answers i s fun s' => let x := s'.cx s.cp.last
    x.st = 3 ∧ x.cause = c ∧ x.statPc = (s.cx s.cp.last).pc ∧ x.exit = (s.cx s.cp.last).exit ∧ cxReleased s s'

/-- R336, R337, R347, R349, R352: HALT, MOVI, ADD, SUB, AND, the branches and JMP; a reserved code faults with cause 0x02.
Inferences and choices of the model: log entry 18. -/
def Obligations.CircuitGeneralWords : Prop :=
  ∀ (d a b : BitVec 4) (i : BitVec 15) (h : BitVec 2) (m : BitVec 16) (c : BitVec 8) (s : State),
    let k := s.cp.last
    let x := cxRegs s a.toNat
    let y := cxRegs s b.toNat
    let sets := fun (j : Instr) (v : DWord) => CxRuns s j → Answers j s fun s' => cxGoesOn s s' (cxWith s d v) ∧ restOfCircuitKept s s'
    let branches := fun (j : Instr) (p : Prop) => CxRuns s j → Answers j s fun s' => restOfCircuitKept s s' ∧
      (¬ p → cxGoesOn s s' (cxRegs s)) ∧
      (p → (s'.cx k).st = 1 ∧ ((s'.cx k).pc : Int) = ((s.cx k).pc + 4 * i.toInt) % 65536 ∧ (∀ n, (s'.cx k).reg n = (s.cx k).reg n) ∧
        ∀ j, j ≠ k → s'.cx j = s.cx j)
    sets (.circuitMovi d h 0 m) (m.zeroExtend 64 <<< (16 * h.toNat)) ∧
    sets (.circuitMovi d h 1 m) ((cxRegs s d.toNat &&& ~~~(0xFFFF#64 <<< (16 * h.toNat))) ||| (m.zeroExtend 64 <<< (16 * h.toNat))) ∧
    sets (.circuitAdd d a b i) (x + y + i.signExtend 64) ∧ sets (.circuitSub d a b) (x - y) ∧ sets (.circuitAnd d a b) (x &&& y) ∧
    branches (.beq a b i) (x = y) ∧ branches (.bne a b i) (x ≠ y) ∧ branches (.blt a b i) (x.toInt < y.toInt) ∧ branches (.jmp i) True ∧
    (CxRuns s (.halt c) → Detached s → Answers (.halt c) s fun s' => (s'.cx k).st = 0 ∧ (s'.cx k).exit = c ∧ cxReleased s s') ∧
    ∀ j : Instr, j.isCircuit = true → (s.cx k).st = 1 → j.fieldsOk = false → CxFaults s j 2

/-- R205, R337: the checks of a context's access to an address: the global window, alignment, translation, an on-demand page (at which the context
waits, unless `od` says otherwise) and permission; then `P` of the place. -/
def cxAccess (s : State) (i : Instr) (a : DWord) (al : Nat) (rd wr : Bool) (od : Prop) (P : Home → Prop) : Prop :=
  let part := (s.cx s.cp.last).part
  (0x00FFFFFFFFFFFFFF < a → CxFaults s i 4) ∧
  (a ≤ 0x00FFFFFFFFFFFFFF → a.toNat % al ≠ 0 → CxFaults s i 3) ∧
  (a ≤ 0x00FFFFFFFFFFFFFF → a.toNat % al = 0 →
    (s.translateAgent part a.toNat = .unmapped → CxFaults s i 6) ∧
    (s.translateAgent part a.toNat = .onDemand → od → Answers i s fun s' => cxWaits s s' (.page a) ∧ (part, a) ∈ s'.dev.notices ∧
      restOfCircuitKept s s') ∧
    ∀ e size, s.translateAgent part a.toNat = .mapped e size →
      ((rd = true ∧ e.getLsbD 3 = false) ∨ (wr = true ∧ e.getLsbD 4 = false) → CxFaults s i 5) ∧
      ((rd = true → e.getLsbD 3 = true) → (wr = true → e.getLsbD 4 = true) → P (pteHome e (sizeShift size) a.toNat)))

/-- R315, R358: what an arrival of vB at the workgroup that owns a slice line meets: the barrier after it; none is cause 0x0B. -/
def arrivalAt (s : State) (cr off : Nat) (v : DWord) (w : Wg) (b : Barrier) : Prop :=
  s.sliceOwner cr off = some w ∧ s.wg? w.lid w.g = some w ∧ v.toNat / 128 % 512 = 0 ∧ v.toNat % 128 < s.nbar w.lid ∧
  let bar := s.barAt w (v.toNat % 128)
  bar.init = true ∧ v.toNat / 65536 % 65536 ≤ bar.pend ∧ b = { bar with pend := bar.pend - v.toNat / 65536 % 65536 }

/-- R337, R352, R358, R361: LDC, STC, CSIG.FILL, CSIG.ARR and CSIG.MSG: their checks, what they do at a place of this device, and the packet that one
on another device gets, for whose reply the context waits. -/
def Obligations.CircuitMemoryAndSignalWords : Prop :=
  ∀ (d a b : BitVec 4) (i : BitVec 15) (s : State),
    let k := s.cp.last
    let ea := cxRegs s a.toNat + 8 * i.signExtend 64
    let xa := cxRegs s a.toNat
    let v := cxRegs s b.toNat
    let away := fun (j : Instr) (h : Home) (body : Body) => ∀ dev va, h = .remote dev va → Answers j s fun s' => cxWaits s s' .reply ∧
      requested s' (.context k) dev va body ∧ restOfCircuitKept s s'
    let here := fun (h : Home) => h.isRemote = false ∧ s.refusedAt h 8 = false
    let written := fun (s' : State) (h : Home) => (∀ j, j < 8 → s'.byte (h.key + j) = v.extractLsb' (8 * j) 8) ∧
      (∀ j, byteKey j → (j < h.key ∨ h.key + 8 ≤ j) → s'.byte j = s.byte j) ∧ cxGoesOn s s' (cxRegs s)
    (let j := Instr.ldc d a i
     CxRuns s j → cxAccess s j ea 8 true false True fun h =>
      away j h (.read 8 .plain) ∧
      (h.isRemote = false → s.refusedAt h 8 = true → CxFaults s j 6) ∧
      (here h → s.marked h.key 8 = true → CxFaults s j 0x13) ∧
      (here h → s.marked h.key 8 = false → Answers j s fun s' =>
        cxGoesOn s s' (cxWith s d (BitVec.ofNat 64 (numberAt s h.key 8))) ∧ restOfCircuitKept s s')) ∧
    (let j := Instr.stc a b i
     CxRuns s j → cxAccess s j ea 8 false true True fun h =>
      away j h (.write ((List.range 8).map (fun n => v.extractLsb' (8 * n) 8)) .plain) ∧
      (h.isRemote = false → s.refusedAt h 8 = true → CxFaults s j 6) ∧
      (here h → byteKey h.key → Answers j s fun s' => written s' h ∧ tagsKept s s' noKey)) ∧
    (let j := Instr.csigFill a b
     CxRuns s j → cxAccess s j xa 8 false true True fun h =>
      away j h (.signal 0 true v) ∧
      (h.isSlice = false → h.isRemote = false → CxFaults s j 0x18) ∧
      (h.isSlice = true → s.refusedAt h 8 = true → CxFaults s j 6) ∧
      (h.isSlice = true → here h → h.key < 1024 * 8388608 → (∀ w ∈ s.tagWaits, w.phase = 1 → w.key / 8 ≠ h.key / 8) → Answers j s fun s' =>
        written s' h ∧ s'.tagAt h.key = true ∧ tagsKept s s' (fun q => q / 8 = h.key / 8))) ∧
    (let j := Instr.csigArr a b
     CxRuns s j → cxAccess s j xa 8 false true (s.savedOwner (s.cx k).part xa = none) fun h =>
      away j h (.signal 1 true v) ∧
      (h.isSlice = false → h.isRemote = false → CxFaults s j 0x18) ∧
      (∀ cr off, h = .slice cr off →
        (s.refusedAt h 8 = true → CxFaults s j 6) ∧
        (∀ w bar, here h → arrivalAt s cr off v w bar → Answers j s fun s' => cxGoesOn s s' (cxRegs s) ∧ (∀ q, s'.byte q = s.byte q) ∧
          ∃ w', s'.wg? w.lid w.g = some w' ∧ afterEvent bar (s'.barAt w' (v.toNat % 128))) ∧
        (here h → (∀ w bar, ¬ arrivalAt s cr off v w bar) → (∀ w, s.sliceOwner cr off = some w → s.wg? w.lid w.g = some w) → CxFaults s j 0x0B))) ∧
    (let j := Instr.csigMsg a b
     CxRuns s j →
      (2 ^ 15 ≤ xa.toNat ∨ 2 ^ 48 ≤ v.toNat → CxFaults s j 1) ∧
      (xa.toNat < 2 ^ 15 → v.toNat < 2 ^ 48 → Answers j s fun s' => cxGoesOn s s' (cxRegs s) ∧ restOfCircuitKept s s' ∧
        s'.lodge = (s.sendSequenced 1 5 (xa.extractLsb' 0 12) 0
          (BitVec.ofNat 64 (5 * 2 ^ 60 + xa.toNat / 4096 % 8 * 2 ^ 57 + v.toNat)) .circuit).lodge))

/-- R360: WEV goes on at once with 0 and the event's value when its event holds, faults on a bad operand, and else holds the context. An armed SRUN of
the context comes first. Inferences and choices of the model: log entry 19. -/
def Obligations.EventWaitsOfCircuits : Prop :=
  ∀ (d a b : BitVec 4) (kind : BitVec 3) (t : BitVec 12) (s : State),
    let k := s.cp.last
    let i := Instr.wev d a b kind t
    let x := cxRegs s a.toNat
    let y := cxRegs s b.toNat
    let happens := fun (s' : State) (v : DWord) => cxGoesOn s s' (fun n => if n = d.toNat + 1 then v else if n = d.toNat then 0 else cxRegs s n)
    let holds := Answers i s fun s' => cxWaits s s' (.wev d ⟨kind.toNat, x, y⟩ t.toNat) ∧ restOfCircuitKept s s'
    CxRuns s i → (kind ≠ 5 → (s.cx k).rot.st ≠ 2) →
    (kind = 0 →
      let eng := x.toNat % 64
      let empty := if eng < 32 then Tab.get [] (s.engine eng).q (x.toNat / 256 % 8) = [] else Tab.get [] (s.collEng (eng - 32)).q (x.toNat / 256 % 8) = []
      (34 ≤ eng → CxFaults s i 1) ∧
      (eng < 34 → empty → Answers i s fun s' => happens s' 0 ∧ restOfCircuitKept s s') ∧
      (eng < 34 → ¬ empty → holds)) ∧
    (kind = 1 → cxAccess s i x 1 true false True fun h =>
      (h.isSlice = false → CxFaults s i 0x18) ∧
      (∀ cr off, h = .slice cr off →
        let good := fun w => s.sliceOwner cr off = some w ∧ y.toNat % 128 < s.nbar w.lid ∧ (s.barAt w (y.toNat % 128)).init = true
        ((∀ w, ¬ good w) → CxFaults s i 0x0B) ∧
        (∀ w, good w →
          ((s.barAt w (y.toNat % 128)).ph ≠ y.getLsbD 8 → Answers i s fun s' => happens s' 0 ∧ restOfCircuitKept s s') ∧
          ((s.barAt w (y.toNat % 128)).ph = y.getLsbD 8 → holds)))) ∧
    (kind = 2 →
      ((s.cx k).msgs = [] → holds) ∧
      (∀ src m r, (s.cx k).msgs = (src, m) :: r → Answers i s fun s' =>
        happens s' (src.zeroExtend 64 <<< 48 ||| m.zeroExtend 64) ∧ (s'.cx k).msgs = r ∧ restOfCircuitKept s s')) ∧
    (kind = 3 → ∀ e size, let q := x &&& ~~~7#64
      q ≤ 0x00FFFFFFFFFFFFFF → s.translateAgent (s.cx k).part q.toNat = .mapped e size → e.getLsbD 3 = true →
      let h := pteHome e (sizeShift size) q.toNat
      (h.isSlice = false → h.isRemote = false → CxFaults s i 0x18) ∧
      (h.isSlice = true → s.refusedAt h 8 = false → Answers i s fun s' => cxWaits s s' (.wev d ⟨3, x, y⟩ t.toNat) ∧ restOfCircuitKept s s' ∧
        ∃ w, s'.tagWaits = s.tagWaits ++ [w] ∧ w.kind = 0 ∧ w.key = h.key ∧ w.n = 8 ∧ w.who = .context k) ∧
      (∀ dev va, h = .remote dev va → Answers i s fun s' => cxWaits s s' (.wev d ⟨3, x, y⟩ t.toNat) ∧ restOfCircuitKept s s' ∧
        requested s' (.context k) dev va (.read 8 .ldf))) ∧
    (kind = 4 → (x ≠ 0 → holds) ∧ (x = 0 → Answers i s fun s' => happens s' 0 ∧ restOfCircuitKept s s')) ∧
    (kind = 5 →
      let r := (s.cx k).rot
      let n := x.toNat % 16
      (r.st < 2 ∨ n = 0 ∨ r.ns < n → CxFaults s i 1) ∧ (2 ≤ r.st → n ≠ 0 → n ≤ r.ns → holds))

/-- R350: the bits of a circuit spec that must be 0 are 0. -/
def goodSpec (v : DWord) : Prop := v.toNat < 2 ^ 32 ∧ v.toNat / 1024 % 64 = 0
/-- R337, R348: a port is enabled and no other context owns it. -/
def usable (s : State) (p : Nat) : Prop := (s.optPort p).en = true ∧ ((s.optPort p).owner = none ∨ (s.optPort p).owner = some s.cp.last)
/-- All ports but one stay. -/
def otherPortsKept (s s' : State) (p : Nat) : Prop := ∀ q, q ≠ p → s'.optPort q = s.optPort q

/-- R354: the status word of a port with an entry, for an OUTCOME. -/
def portWordOf (s : State) (p slot outcome : Nat) : DWord :=
  let x := s.optPort p
  let e := Tab.get Entry.init x.entries slot
  let rot : Nat × Nat := match x.owner with
    | some k => if (x.entries.any (fun e => e.1 != 0 && e.2.st != 0)) = true ∧ (s.cx k).rot.st = 3 then
        (((s.cx k).rot.k * (s.cx k).rot.ns + (s.cx k).rot.s - 1) % 65536, (s.cx k).rot.s) else (0, 0)
    | none => (0, 0)
  let peer := match x.peer with | some (d, q, w) => q.toNat * 2 ^ 28 + d.toNat * 2 ^ 16 + w.toNat * 2 ^ 8 | none => 0
  BitVec.ofNat 64 (rot.1 * 2 ^ 48 + e.res.toNat * 2 ^ 40 + e.st * 2 ^ 36 + peer + rot.2 * 16 + (if x.laser then 8 else 0) + x.st) |||
    BitVec.ofNat 64 (outcome * 4096)

/-- R334, R335, R348, R350, R353, R354: CREQ, CWAIT, CREL and PSTAT on the port and entry of a circuit spec. -/
def clausesCircuitRequestsAndStatus : Prop :=
  ∀ (d a : BitVec 4) (t : BitVec 12) (s : State),
    let k := s.cp.last
    let v := cxRegs s a.toNat
    let p := v.toNat % 16
    let slot := v.toNat / 16 % 16
    let x := s.optPort p
    let e := Tab.get Entry.init x.entries slot
    let rotating := x.entries.any (fun e => e.1 != 0 && e.2.st != 0) = true
    let static := (Tab.get Entry.init x.entries 0).st ≠ 0
    let rel := BitVec.ofNat 64 (3 * 2 ^ 60 + slot * 2 ^ 56 + p * 2 ^ 34 + e.cx * 2 ^ 16 + e.reqId)
    let kept := fun (s' : State) => (∀ j, s'.byte j = s.byte j ∧ s'.tagAt j = s.tagAt j) ∧ s'.thr = s.thr ∧ s'.cp.binds = s.cp.binds
    (let i := Instr.creq a
     let ok := goodSpec v ∧ usable s p ∧ (slot = 0 → ¬ rotating) ∧ (slot ≠ 0 → ¬ static) ∧ (e.st = 0 ∨ e.st = 3)
     CxRuns s i →
      (¬ ok → CxFaults s i 1) ∧
      (ok → Answers i s fun s' => cxGoesOn s s' (cxRegs s) ∧ kept s' ∧ otherPortsKept s s' p ∧ s'.cp.reqId = (s.cp.reqId + 1) % 65536 ∧
        (s'.optPort p).owner = some k ∧ (s'.optPort p).st = x.st ∧ (s'.optPort p).peer = x.peer ∧
        Tab.get Entry.init (s'.optPort p).entries slot = Entry.mk 1 s.cp.reqId 0 0 (v.extractLsb' 8 2) (v.extractLsb' 16 12)
          (v.extractLsb' 28 4) k ∧
        (∀ n, n ≠ slot → Tab.get Entry.init (s'.optPort p).entries n = Tab.get Entry.init x.entries n) ∧
        s'.lodge = (s.sendSequenced 1 5 x.swid 0 (BitVec.ofNat 64 (2 ^ 60 + slot * 2 ^ 56 + v.toNat / 256 % 4 * 2 ^ 54 +
          v.toNat / 65536 % 4096 * 2 ^ 42 + v.toNat / 2 ^ 28 % 16 * 2 ^ 38 + p * 2 ^ 34 + k * 2 ^ 16 + s.cp.reqId)) .circuit).lodge)) ∧
    (let i := Instr.cwait d a t
     let granted := if slot = 0 then x.st = 3 ∧ e.st = 2 ∧ x.peer = some (e.pdev, e.pport, e.wid) else e.st = 2
     let ends := fun o => Answers i s fun s' => cxGoesOn s s' (cxWith s d (portWordOf s p slot o)) ∧ restOfCircuitKept s s'
     CxRuns s i →
      (¬ (goodSpec v ∧ usable s p) → CxFaults s i 1) ∧
      (goodSpec v → usable s p →
        (granted → ends 0) ∧ (¬ granted → e.st = 3 → ends 1) ∧ (¬ granted → e.st ≠ 3 → x.st = 4 → ends 2) ∧
        (¬ granted → e.st ≠ 3 → x.st ≠ 4 → Answers i s fun s' => cxWaits s s' (.cwait d v t.toNat) ∧ restOfCircuitKept s s'))) ∧
    (let i := Instr.crel a
     CxRuns s i →
      (¬ (goodSpec v ∧ usable s p) → CxFaults s i 1) ∧
      (goodSpec v → usable s p → Answers i s fun s' => cxGoesOn s s' (cxRegs s) ∧ kept s' ∧ otherPortsKept s s' p ∧
        (Tab.get Entry.init (s'.optPort p).entries slot).st = 0 ∧ (s'.optPort p).owner = x.owner ∧
        (∀ n, n ≠ slot → Tab.get Entry.init (s'.optPort p).entries n = Tab.get Entry.init x.entries n) ∧
        (slot = 0 → e.st = 2 → (s'.optPort p).peer = none ∧ ((s'.optPort p).st = if x.peer ≠ none ∧ (x.st = 2 ∨ x.st = 3) then 1 else x.st)) ∧
        (e.st ≠ 2 → (s'.optPort p).peer = x.peer ∧ (s'.optPort p).st = x.st) ∧
        s'.lodge = if e.st = 1 ∨ e.st = 2 then (s.sendSequenced 1 5 x.swid 0 rel .circuit).lodge else s.lodge)) ∧
    (let i := Instr.pstat d a
     CxRuns s i →
      (¬ (goodSpec v ∧ x.en = true) → CxFaults s i 1) ∧
      (goodSpec v → x.en = true → Answers i s fun s' => cxGoesOn s s' (cxWith s d (portWordOf s p slot 0)) ∧ restOfCircuitKept s s'))

/-- R331, R348, R350, R353: PORT.ON, PORT.OFF and PORT.CLR on a port that a register names, and CBIND's bindings. Where CBIND opens a window to a
started PUTC for another device, that PUTC is stopped (R313), with the effects that has. -/
def clausesPortsAndBindings : Prop :=
  ∀ (a b : BitVec 4) (s : State),
    let k := s.cp.last
    let v := cxRegs s a.toNat
    let q := cxRegs s b.toNat
    let p := v.toNat
    let x := s.optPort p
    let may := p < 16 ∧ usable s p
    let kept := fun (s' : State) => (∀ j, s'.byte j = s.byte j ∧ s'.tagAt j = s.tagAt j) ∧ s'.thr = s.thr ∧ cxGoesOn s s' (cxRegs s)
    (∀ i ∈ [Instr.portOn a, .portOff a, .portClr a], CxRuns s i → ¬ may → CxFaults s i 1) ∧
    (CxRuns s (.portOn a) → may → Answers (.portOn a) s fun s' => kept s' ∧ otherPortsKept s s' p ∧
      s'.optPort p = if x.st = 0 then { x with owner := some k, st := 1, laser := false } else { x with owner := some k }) ∧
    (CxRuns s (.portOff a) → may → Answers (.portOff a) s fun s' => kept s' ∧ otherPortsKept s s' p ∧ s'.cp.binds = s.cp.binds ∧
      (s'.optPort p).st = 0 ∧ (s'.optPort p).laser = false ∧ (s'.optPort p).peer = none ∧ (s'.optPort p).owner = none ∧
      (s'.optPort p).cache = x.cache ∧ ∀ n, n < 16 → (Tab.get Entry.init (s'.optPort p).entries n).st = 0) ∧
    (CxRuns s (.portClr a) → may → Answers (.portClr a) s fun s' => kept s' ∧ otherPortsKept s s' p ∧
      s'.optPort p = if x.st = 4 then { x with st := 1 } else x) ∧
    (let i := Instr.cbind a b
     let eng := q.toNat % 64
     let queue := q.toNat / 256 % 8
     let good := q.toNat < 2 ^ 32 ∧ q.toNat / 4096 % 16 = 0 ∧ q.toNat / 64 % 4 = 0 ∧ eng < 34
     let others := s.cp.binds.filter (fun y => !(y.eng == eng && y.queue == queue))
     let strays := eng < 32 ∧ ∃ c ∈ (s.engine eng).queue queue, c.x.kind = .putc ∧ c.going = true ∧ c.finished = false ∧ s.peerDev p ≠ some c.x.dev
     CxRuns s i →
      (¬ good ∨ (q.getLsbD 11 = false ∧ ¬ may) → CxFaults s i 1) ∧
      (good → q.getLsbD 11 = true → Answers i s fun s' => kept s' ∧ s'.cp.ports = s.cp.ports ∧ s'.cp.binds = others) ∧
      (good → q.getLsbD 11 = false → may → (¬ strays ∨ s.windowOpen p = false ∨ q.getLsbD (16 + s.portSlot p) = false) →
       Answers i s fun s' => kept s' ∧ s'.cp.ports = s.cp.ports ∧
        s'.cp.binds = others ++ [{ eng := eng, queue := queue, port := p, smask := q.extractLsb' 16 16, cx := k }]))

/-- R340, R341, R355 to R357: SLOT loads a legal slot table that it can read on this device, SRUN arms a loaded rotation whose guards hold, and SSTOP
disarms it or sets its stop; each faults with cause 0x01 where its rotation does not allow it.
Inferences and choices of the model: log entry 18. -/
def Obligations.RotationsAreLoadedArmedAndStopped : Prop :=
  ∀ (a b : BitVec 4) (kind : BitVec 3) (e : BitVec 1) (s : State),
    let k := s.cp.last
    let r := (s.cx k).rot
    let x := cxRegs s a.toNat
    let event : Event := ⟨kind.toNat, x, cxRegs s b.toNat⟩
    (let i := Instr.slot a
     CxRuns s i →
      (2 ≤ r.st → CxFaults s i 1) ∧
      (r.st < 2 → 0x00FFFFFFFFFFFFFF < x → CxFaults s i 4) ∧
      (r.st < 2 → x ≤ 0x00FFFFFFFFFFFFFF → x.toNat % 8 ≠ 0 → CxFaults s i 3) ∧
      (∀ home : Nat → Home, r.st < 2 →
        (∀ j, j < 16 → s.cxPlace k (x + BitVec.ofNat 64 (8 * j)) 8 true false = .place (home j) ∧ (home j).isRemote = false ∧
          s.refusedAt (home j) 8 = false ∧ s.marked (home j).key 8 = false) →
        let word := fun j => numberAt s (home j).key 8
        let ns := word 0 % 256
        let legal := 1 ≤ ns ∧ ns ≤ 15 ∧ word 0 / 512 % 128 = 0 ∧ word 0 / 2 ^ 32 = 0 ∧ ∀ j, 1 ≤ j → j ≤ ns →
          1501 ≤ word j % 2 ^ 32 ∧ word j % 2 ^ 32 ≤ 1000000000 ∧ 1500 ≤ word j / 2 ^ 32 ∧ word j / 2 ^ 32 < word j % 2 ^ 32
        (¬ legal → CxFaults s i 1) ∧
        (legal → Answers i s fun s' => cxGoesOn s s' (cxRegs s) ∧ restOfCircuitKept s s' ∧
          let r' := (s'.cx k).rot
          r'.st = 1 ∧ r'.ns = ns ∧ (r'.lead = true ↔ word 0 / 256 % 2 = 1) ∧ r'.reps = word 0 / 65536 % 65536 ∧
          r'.len = (List.range ns).map (fun j => word (j + 1) % 2 ^ 32) ∧ r'.guard = (List.range ns).map (fun j => word (j + 1) / 2 ^ 32)))) ∧
    (let i := Instr.srun a b kind
     let fits := ∀ p, p < 16 → (s.optPort p).owner = some k → ∀ y ∈ (s.optPort p).entries, y.1 ≠ 0 → y.2.st = 2 →
       y.1 ≤ r.ns ∧ ∃ g, r.guard[y.1 - 1]? = some g ∧ 10 * y.2.swt + 1500 ≤ g
     CxRuns s i →
      (r.st ≠ 1 ∨ ¬ fits → CxFaults s i 1) ∧
      (∀ c, r.st = 1 → fits → s.checkEvent k event = .bad c → CxFaults s i c) ∧
      (r.st = 1 → fits → s.checkEvent k event = .ok → Answers i s fun s' => cxGoesOn s s' (cxRegs s) ∧ restOfCircuitKept s s' ∧
        (s'.cx k).rot = { r with st := 2, start := event, got := none }) ∧
      (∀ h, r.st = 1 → fits → s.checkEvent k event = .full h → Answers i s fun s' => cxGoesOn s s' (cxRegs s) ∧ restOfCircuitKept s s' ∧
        (s'.cx k).rot = { r with st := 2, start := event, got := none })) ∧
    (let i := Instr.sstop e
     CxRuns s i →
      (r.st = 2 → Answers i s fun s' => cxGoesOn s s' (cxRegs s) ∧ restOfCircuitKept s s' ∧ (s'.cx k).rot = { r with st := 1, got := none }) ∧
      (r.st = 3 → Answers i s fun s' => cxGoesOn s s' (cxRegs s) ∧ restOfCircuitKept s s' ∧
        (s'.cx k).rot = { r with stop := if e = 1 ∨ r.stop = 1 then 1 else 2 }) ∧
      (r.st ≠ 2 → r.st ≠ 3 → CxFaults s i 1))

/-- R331 to R335, R348, R350, R353, R354: CREQ, CWAIT, CREL, PSTAT, PORT and CBIND. Inferences and choices of the model: log entry 18. -/
def Obligations.CircuitEntriesPortsAndBindings : Prop :=
  clausesCircuitRequestsAndStatus ∧ clausesPortsAndBindings

/-! ## What happens to threads between words -/

/-- A cause does not go to HK3 and the thread has a handler and is not in it, so that it is taken at TRAPH (R393, R394, R396). -/
def handled (s : State) (t : Nat) (cause : Byte) : Prop := (s.thread t).h = false ∧ toHk3 cause = false ∧ s.traphOf t ≠ 0

/-- A thread takes a trap between words: its frame, then the handler. Its registers, DEPTH and loop stack stay (R395, R396, R398). -/
def atHandler (s s' : State) (t : Nat) (cause : Byte) (pc : DWord) (mask : Word) : Prop :=
  let th := s.thread t
  let th' := s'.thread t
  th'.trcause = cause ∧ th'.trpc = pc ∧ th'.trmask = mask ∧ th'.edepth = th.depth ∧ th'.h = true ∧ th'.dm = false ∧ th'.pc = s.traphOf t ∧
  th'.depth = th.depth ∧ th'.lstk = th.lstk ∧ sameRegisters th th'

/-- R79, R101, R217, R242, R461: a known result of a thread that may return writes its registers, or holds the cause of its reply back for the
next word boundary; either way it is no longer outstanding. With the report of an LDF or LDE the thread passes the word, or is at it again
with the cause held. -/
def clausesResultsReturn : Prop :=
  ∀ (core : Fin 1024) (slot : Fin 64) (lane : Fin 32) (k : Nat) (o : Outst) (s : State),
    let t := threadKey core.val slot.val lane.val
    let th := s.thread t
    let i := Instr.resultReturn core slot lane k
    (th.known (s.cycleOf core.val))[k]? = some o → (∀ x ∈ th.outs, x.id = o.id → x = o) →
    (∀ ws : List Word, o.kind = .regs → o.res = some (.val ws) → o.dst.Nodup → Answers i s fun s' =>
      (∀ (j n : Nat) (w : Word), o.dst[j]? = some n → ws[j]? = some w → (s'.thread t).reg n = w) ∧
      (∀ n, n ∉ o.dst → (s'.thread t).reg n = th.reg n) ∧ (s'.thread t).pc = th.pc ∧
      (s'.thread t).outs = th.outs.filter (fun x => x.id != o.id) ∧ ∀ u, u ≠ t → sameRegisters (s.thread u) (s'.thread u)) ∧
    (∀ ws next wd mark mask, o.kind = .tag → o.res = some (.val ws) → o.dst.Nodup → th.park = .word .tag next wd mark mask → s.steady t →
      Answers i s fun s' =>
        (∀ (j n : Nat) (w : Word), o.dst[j]? = some n → ws[j]? = some w → (s'.thread t).reg n = w) ∧ goesOnAt th (s'.thread t) next) ∧
    (∀ c next wd mark mask, o.kind = .tag → o.res = some (.bad c) → toHk3 c = false → th.h = false → th.park = .word .tag next wd mark mask →
      Answers i s fun s' => sameRegisters th (s'.thread t) ∧ (s'.thread t).pc = th.pc ∧ (s'.thread t).park = .none ∧
        (s'.thread t).heldTraps = th.heldTraps ++ [⟨c, wd, o.sector, lanesMask [laneOf t]⟩]) ∧
    (∀ c, o.kind ≠ .tag → o.res = some (.bad c) → toHk3 c = false → Answers i s fun s' =>
      sameRegisters th (s'.thread t) ∧ (s'.thread t).outs = th.outs.filter (fun x => x.id != o.id) ∧
      (s'.thread t).heldTraps = th.heldTraps ++ [⟨c, o.word, o.sector, lanesMask [laneOf t]⟩])

/-- R213, R224, R253: the first answered access of a thread is acknowledged; its failure is kept for the thread's next reporting word. -/
def clausesAccessesAreAcknowledged : Prop :=
  ∀ (core : Fin 1024) (slot : Fin 64) (lane : Fin 32) (p q : List Ack) (a : Ack) (s : State),
    let t := threadKey core.val slot.val lane.val
    let th := s.thread t
    th.acks = p ++ a :: q → (∀ x ∈ p, x.ready = false) → a.ready = true → th.live = true → th.fencing = none →
      Answers (.accessAcknowledge core slot lane) s fun s' =>
        (s'.thread t).acks = p ++ q ∧ (s'.thread t).failed = th.failed ++ a.fail.toList ∧ sameRegisters th (s'.thread t)

/-- R111, R114, R396, R461: the oldest held trap is taken at a word boundary outside handler mode, with the PC as %TRPC. -/
def clausesHeldTrapsAreTaken : Prop :=
  ∀ (core : Fin 1024) (slot : Fin 64) (lane : Fin 32) (x : Held) (xs : List Held) (s : State),
    let t := threadKey core.val slot.val lane.val
    let th := s.thread t
    th.heldTraps = x :: xs → th.live = true → t ∉ s.cur.threads → (s.warpOfThread t).held = false → th.park = .none → handled s t x.cause →
      Answers (.replyTrap core slot lane) s fun s' =>
        atHandler s s' t x.cause th.pc x.mask ∧ (s'.thread t).trword = x.word ∧ (s'.thread t).traddr = x.addr ∧ (s'.thread t).heldTraps = xs

/-- R39, R111, R395: a fetch that fails traps the fetching threads at their word, or at the first word of their prefixed group, with %TRWORD 0
and the sector fetched in %TRADDR. -/
def clausesFailedFetchesTrap : Prop :=
  ∀ (c : Byte) (s : State) (t : Nat), s.cur.threads.Nodup → t ∈ s.cur.threads → handled s t c →
    Answers (.instructionFetch c) s fun s' =>
      atHandler s s' t c s.cur.pc0 s.cur.mask ∧ (s'.thread t).trword = 0 ∧ (s'.thread t).traddr = s.cur.pc &&& ~~~31#64 ∧
      s'.cur.mem = [] ∧ ∀ k, s'.byte k = s.byte k

/-- R88, R89: the threads of a warp whose age has reached %WDOGLIM are stalled together and trap with cause 0x0D at their own PCs, the mask
naming all of them; a thread below the limit, and any thread with the limit 0, stays as it is. -/
def clausesTheWatchdogFires : Prop :=
  ∀ (core : Fin 1024) (slot : Fin 64) (s : State),
    let w := warpKey core.val slot.val
    let aged := (s.liveThreads w).filter (fun t =>
      decide ((s.warp w).wdoglim.toNat ≤ (s.thread t).age) && !(s.thread t).h && (s.thread t).wdog.isNone)
    (s.warp w).held = false → (s.warp w).wdoglim ≠ 0 →
    (∀ t ∈ aged, (s.thread t).park = .none ∧ t ∉ s.cur.threads ∧ s.traphOf t ≠ 0) →
      Answers (.watchdogFire core slot) s fun s' =>
        (∀ t ∈ aged, atHandler s s' t 0x0D (s.thread t).pc (lanesMask (aged.map laneOf)) ∧ (s'.thread t).age = 0) ∧
        (∀ u, u ∉ aged → s'.thread u = s.thread u)

/-- R104: when the deadline of a warp's one open RCV episode has come, the threads that have arrived pass the RCV together and the episode
is over; they are next eligible in the cycle after. -/
def clausesRcvDeadlinesRelease : Prop :=
  ∀ (core : Fin 1024) (slot : Fin 64) (e : Episode) (d : Nat) (s : State) (t : Nat),
    let w := warpKey core.val slot.val
    (s.warp w).rcv = [e] → e.deadline = some d → d ≤ s.cycleOf core.val → t ∈ s.arrivals w e → s.steady t →
      Answers (.rcvDeadline core slot) s fun s' =>
        goesOnAt (s.thread t) (s'.thread t) (e.pc + 4) ∧ s.cycleOf core.val + 1 ≤ (s'.thread t).readyAt ∧ (s'.warp w).rcv = []

/-- R39, R79, R88, R89, R101, R104, R111, R114, R213, R217, R224, R242, R253, R395 to R398, R461: what happens to threads between words: results and
acknowledgements, held traps, failed fetches, the watchdog and the deadlines of RCV. -/
def clausesThreadsBetweenWords : Prop :=
  clausesResultsReturn ∧ clausesAccessesAreAcknowledged ∧ clausesHeldTrapsAreTaken ∧ clausesFailedFetchesTrap ∧ clausesTheWatchdogFires ∧
  clausesRcvDeadlinesRelease

/-! ## The active set, the governor and HK3 -/

/-- R82, R83: the oldest ready pending warp enters a free place of the active set, or the place of the warp that leaves first, which becomes
the youngest pending one; its threads are eligible three cycles later. One warp enters in a cycle. -/
def clausesTheActiveSetIsFilled : Prop :=
  ∀ (core : Fin 1024) (k : Nat) (s : State),
    let c := s.coreAt core.val
    c.entryAt ≠ c.cycle + 1 → c.pending.find? (s.warpReady core.val) = some k →
    (c.active.length < 8 → Answers (.activeSetEntry core) s fun s' =>
      (s'.coreAt core.val).active = c.active ++ [(k, c.cycle + 3)] ∧ (s'.coreAt core.val).pending = c.pending.filter (· != k) ∧
      ∀ t, s'.thread t = s.thread t) ∧
    (∀ o, 8 ≤ c.active.length → s.leaving core.val = some o → Answers (.activeSetEntry core) s fun s' =>
      (s'.coreAt core.val).active = c.active.filter (fun e => e.1 != o) ++ [(k, c.cycle + 3)] ∧
      (s'.coreAt core.val).pending = (c.pending ++ [o]).filter (· != k) ∧ ∀ t, s'.thread t = s.thread t)

/-- R191, R192, R433: a window of the governor starts with the credits of BUDGET and the mode that was asked for. -/
def clausesTheGovernorsWindowStarts : Prop :=
  ∀ (core : Fin 1024) (s : State), s.dev.pst < 2 → (s.coreAt core.val).windowAt ≤ s.cycleOf core.val →
    Answers (.governorWindow core) s fun s' =>
      let c := s.coreAt core.val
      let c' := s'.coreAt core.val
      c'.credits = s.dev.budget.toNat ∧ c'.budget = s.dev.budget ∧ c'.govmode = c.govmodeNext ∧ c'.mmaInWindow = false ∧ c'.mxUsed = [] ∧
      c'.windowAt = c.cycle / 64 * 64 + 64 ∧ (∀ d, d ≠ core.val → s'.coreAt d = s.coreAt d) ∧ ∀ t, s'.thread t = s.thread t

/-- R400, R401: HK3 decides once for a held warp: a restart, unless the cause is a kill in any case, a live thread has no restart point, or
the warp has restarted four times; then the launches of its fault domain are gone and their warps' slots are free. -/
def clausesHk3Decides : Prop :=
  ∀ (core : Fin 1024) (slot : Fin 64) (s : State),
    let key := warpKey core.val slot.val
    let w := s.warp key
    let kills := w.hkKill = true ∨ (∃ t ∈ s.liveThreads key, (s.thread t).idempc = 0) ∨ 4 ≤ w.restarts
    w.held = true → w.hkRestart = false →
    (¬ kills → Answers (.hk3Event core slot) s fun s' =>
      (s'.warp key).hkRestart = true ∧ (s'.warp key).held = true ∧ (∀ t, s'.thread t = s.thread t) ∧ s'.launches = s.launches) ∧
    (∀ l, kills → s.launch? w.lid = some l → Answers (.hk3Event core slot) s fun s' =>
      (∀ m ∈ s'.launches, ¬ (m.part = w.part ∧ m.fdom = l.fdom)) ∧
      ((s.warps.map Prod.fst).Nodup → ∀ e ∈ s.warps, e.2.used = true → (∃ m ∈ s.domain w.part l.fdom, m.lid = e.2.lid) →
        (s'.warp e.1).used = false))

/-- R110, R401: a restart takes every live thread to its restart point, out of handler mode and demotion, with its registers as they are; the
warp is no longer held, counts one more restart and is pending. 2^24 quiet cycles return the count to 0. -/
def clausesHk3RestartsAWarp : Prop :=
  ∀ (core : Fin 1024) (slot : Fin 64) (s : State),
    let key := warpKey core.val slot.val
    let w := s.warp key
    (w.held = true → w.hkRestart = true → (∀ t ∈ s.liveThreads key, (s.thread t).park = .none) → Answers (.hk3Restart core slot) s fun s' =>
      (∀ t ∈ s.liveThreads key, (s'.thread t).pc = (s.thread t).idempc ∧ (s'.thread t).depth = (s.thread t).idemDepth ∧
        (s'.thread t).lstk = (s.thread t).idemLstk ∧ (s'.thread t).h = false ∧ (s'.thread t).dm = false ∧ (s'.thread t).age = 0 ∧
        sameRegisters (s.thread t) (s'.thread t)) ∧
      (s'.warp key).held = false ∧ (s'.warp key).restarts = w.restarts + 1 ∧ slot.val ∈ (s'.coreAt core.val).pending ∧
      ∀ e ∈ (s'.coreAt core.val).active, e.1 ≠ slot.val) ∧
    (w.held = false → 2 ^ 24 ≤ w.quiet → Answers (.restartCountExpiry core slot) s fun s' =>
      (s'.warp key).restarts = 0 ∧ ∀ t, s'.thread t = s.thread t)

/-- R79, R82, R83, R88, R89, R101, R104, R110, R111, R114, R191, R192, R213, R224, R253, R395 to R398, R400, R401, R403, R433, R461: between
words: results, held traps, failed fetches, the watchdog, entries into the active set, the governor's window, HK3's decision and restart,
and the write of the mismatch histograms to flash. Inferences and choices of the model: log entries 10 and 30. -/
def Obligations.ThreadsAndCoresBetweenWords : Prop :=
  clausesThreadsBetweenWords ∧ clausesTheActiveSetIsFilled ∧ clausesTheGovernorsWindowStarts ∧ clausesHk3Decides ∧ clausesHk3RestartsAWarp ∧
  ∀ s : State, Answers .histogramWrite s fun s' => s' = { s with dev := { s.dev with histFlash := s.dev.hist } }

/-! ## Dispatch, batches, tapes and the gradient log -/

/-- The workgroup `l.next` of a launch has been placed on a core from a slot on: its threads start at their role's entry with registers,
predicates, DEPTH and loop stack at 0 and their %SRSEED, its warps are pending, its slice reads 0, its barriers are at 0 (R199, R254, R370). -/
def isPlaced (s s' : State) (l : Launch) (core slot : Nat) : Prop :=
  (s'.launch? l.lid).map (fun m => m.next) = some (l.next + 1) ∧
  (s.wg? l.lid l.next = none → (s'.wg? l.lid l.next).map (fun w => (w.core, w.slot, w.warps, w.st, w.bars)) =
    some (core, slot, l.kd.warps, .running, [])) ∧
  (∀ j, j < l.kd.warps →
    let w := s'.warp (warpKey core (slot + j))
    w.used = true ∧ w.lid = l.lid ∧ w.g = l.next ∧ w.widx = j ∧ w.allot = l.kd.regsOf j ∧ slot + j ∈ (s'.coreAt core).pending ∧
    ∀ lane, lane < 32 → s'.thread (threadKey core (slot + j) lane) =
      { live := true, pc := if j < l.kd.warps0 then l.kd.entry0 else l.kd.entry1,
        srseed := l.seed + BitVec.ofNat 32 (0x9E3779B9 * (2048 * l.next + (32 * j + lane))) }) ∧
  ∀ o, o < l.kd.slice → s'.byte (core * sliceBytes + 131072 * slot + o) = 0

/-- R365, R369 to R372: the next workgroup of the launch that is next in its partition goes to a core that takes it; a core with rows leased
to a launch places its next workgroup itself. -/
def clausesWorkgroupsAreDispatched : Prop :=
  ∀ (lid : Nat) (core : Fin 1024) (l : Launch) (slot : Nat) (rs : List Nat) (s : State),
    s.launch? lid = some l → l.waiting = true → s.spot core.val l = some (slot, rs) →
    (s.isNext l = true → Answers (.workgroupDispatch lid core) s fun s' => isPlaced s s' l core.val slot) ∧
    ((s.coreAt core.val).leases.any (fun e => e.2.1 == lid) = true → Answers (.leaseDispatch lid core) s fun s' =>
      isPlaced s s' l core.val slot)

/-- R108, R254, R376, R459: a slot whose threads have exited, with nothing of them under way, is freed; with the last slot its workgroup goes
and its tile slots become EMPTY, and with the last workgroup the launch is gone. -/
def clausesWarpSlotsAreFreed : Prop :=
  ∀ (core : Fin 1024) (slot : Fin 64) (s : State),
    let key := warpKey core.val slot.val
    let w := s.warp key
    let others := ∃ k, k < 64 ∧ k ≠ slot.val ∧ (s.warp (warpKey core.val k)).used = true ∧ (s.warp (warpKey core.val k)).lid = w.lid ∧
      (s.warp (warpKey core.val k)).g = w.g
    s.slotDone key = true → (∀ c, (s.coreAt c).l1 = []) → s.lodge.outs = [] → Answers (.warpSlotFree core slot) s fun s' =>
      (s'.warp key).used = false ∧ (∀ t ∈ warpThreads key, s'.thread t = {}) ∧ slot.val ∉ (s'.coreAt core.val).pending ∧
      (∀ e ∈ (s'.coreAt core.val).active, e.1 ≠ slot.val) ∧
      (others → (s'.wg? w.lid w.g).isSome = (s.wg? w.lid w.g).isSome) ∧
      (¬ others → s'.wg? w.lid w.g = none ∧ (∀ q, ((s'.coreAt core.val).tile q).ownedBy (w.lid, w.g) = false) ∧
        ∀ l, s.launch? w.lid = some l → l.freed + 1 = l.total → s'.launch? w.lid = none)

/-- R380, R381: a batch closes 1,024 cycles after its first request; HK1 accepts a closed batch as one grid, or refuses it, and writes each
requester's result. -/
def clausesBatchesBecomeGrids : Prop :=
  ∀ (die : Fin 8) (s : State),
    let bs := s.batchesOf die.val
    (∀ k b, bs[k]? = some b → b.isOpen = true → b.openedAt + 1024 ≤ s.cycleOf b.core → Answers (.batchClose die k) s fun s' =>
      s'.batchesOf die.val = bs.set k { b with isOpen := false }) ∧
    (∀ p b q, bs = p ++ b :: q → (∀ x ∈ p, x.isOpen = true) → b.isOpen = false → s.running = true → s.gridsWaiting < 4096 →
      let answered := fun (s' : State) (lseq : Nat) (st : Byte) =>
        ∀ i r, b.reqs[i]? = some r → (∀ j r', b.reqs[j]? = some r' → r'.tid = r.tid → r'.id = r.id → j = i) →
          ∀ o ∈ (s.thread r.tid).outs, o.id = r.id → { o with res := some (.val (gridResult lseq i st)) } ∈ (s'.thread r.tid).outs
      (∀ kd, s.validate (66 + die.val) b.part b.rcb b.kd = .ok kd → Answers (.gridAccept die) s fun s' =>
        s'.batchesOf die.val = p ++ q ∧ answered s' (s.part b.part).lseq 0 ∧
        ∃ l, s'.launches = s.launches ++ [l] ∧ l.kd = kd ∧ l.part = b.part ∧ l.rcb = b.rcb ∧ l.lseq = (s.part b.part).lseq ∧
          l.total = (b.reqs.map (fun r => r.n)).sum ∧ l.origin = .batch) ∧
      (∀ st, s.validate (66 + die.val) b.part b.rcb b.kd = .fail st → Answers (.gridAccept die) s fun s' =>
        s'.batchesOf die.val = p ++ q ∧ answered s' 0 st ∧ s'.launches = s.launches))

/-- R384: the newest record left to a TAPERUN is popped and launched once the launch before it is over. -/
def clausesTapeRecordsAreLaunched : Prop :=
  ∀ (ring : Fin 64) (a : Act) (left : Nat) (st : Byte) (r : Rcb) (kd : Kd) (bs : List Byte) (s : State),
    let n := ring.val
    let part := (s.ring n).part
    let rec_ := bs.take 64
    (s.ring n).act.find? (fun a => match a.wait with | .tape _ l _ => l != 0 | _ => false) = some a → a.wait = .tape r.id left st → left ≠ 0 →
    (s.part part).rcb? r.id = some r → s.running = true → s.tapeLaunches n a.idx = [] →
    s.agentRead n part (r.tape + BitVec.ofNat 64 (64 * (left - 1))) (64 * (r.tapen + 1 - left)) = .bytes bs →
    s.validate n part (fieldAt rec_ 20 2) (dwordAt rec_ 0) = .ok kd → fieldAt rec_ 16 4 ≠ 0 → Answers (.tapeLaunch ring) s fun s' =>
      (∃ l, s'.launches.getLast? = some l ∧ s'.launches.dropLast.map (fun m => m.lid) = s.launches.map (fun m => m.lid) ∧ l.kd = kd ∧
        l.rcb = fieldAt rec_ 20 2 ∧ l.total = fieldAt rec_ 16 4 ∧ l.origin = .tape n a.idx) ∧
      ((s'.part part).rcb? r.id).map (fun x => x.tapen) = some (r.tapen - 1) ∧
      ((s'.ring n).act.find? (fun b => b.idx == a.idx)).map (fun b => b.wait) = some (.tape r.id (left - 1) st)

/-- R385 to R388: Welt appends the record of its oldest GLOG, with the 512 words that it has read, in the place reserved for it, and the place is
reserved no more; a tile that the buffer does not have gives no record. -/
def clausesTheLogIsAppended : Prop :=
  ∀ (die : Fin 8) (c : WeltCmd) (q : List WeltCmd) (r : GRec) (src : DWord) (bs : List Byte) (lid g widx tok : Nat) (s : State),
    let d := die.val
    (s.weltOf d).q = c :: q → c.kind = .glog r src → c.owner = .token lid g widx tok → s.running = true → c.after = [] → c.away = 0 →
    let here := ∀ w, s.wg? lid g = some w → w.isSaved = false
    let taken := fun (s' : State) => (s'.weltOf d).reserved = (s.weltOf d).reserved.filter (fun k => k != r.place) ∧
      (s'.weltOf d).q = (c :: q).filter (fun e => e.id != c.id)
    (∀ a n, r.buf = some (a, n) → r.tile < n → s.farRead c.reader src 2048 = .bytes bs →
      let data := (List.range 512).map (fun i => BitVec.ofNat 32 (fieldAt bs (4 * i) 4))
      Answers (.glogAppend die) s fun s' => taken s' ∧ (s'.weltOf d).ring = (s.weltOf d).ring ++ [{ r with data := data }] ∧
        (here → ∀ i b, (r.header ++ data.flatMap (fun v => leBytes 4 v.toNat))[i]? = some b → s'.byte ((ringPlace d r.place).key + i) = b)) ∧
    ((r.buf = none ∨ ∃ a n, r.buf = some (a, n) ∧ n ≤ r.tile) → Answers (.glogAppend die) s fun s' =>
      taken s' ∧ (s'.weltOf d).ring = (s.weltOf d).ring ∧ (here → ∀ k, s'.byte k = s.byte k))

/-- R386, R390, R391: a fold waits for the launches through its sequence, and then the records through it are freed. Records are folded in the
order of their producer keys. -/
def clausesTheLogIsFolded : Prop :=
  (∀ (die : Fin 8) (c : WeltCmd) (q : List WeltCmd) (sq bar : Nat) (be : Bool) (s : State),
    (s.weltOf die.val).q = c :: q → c.kind = .fold sq be bar → s.running = true → c.after = [] → c.away = 0 → c.ended = none →
    (¬ (∀ l ∈ s.launches, l.part = c.part → sq < l.lseq) → Answers (.weltFold die) s fun s' => s' = s) ∧
    ((∀ l ∈ s.launches, l.part = c.part → sq < l.lseq) → (∀ x ∈ (s.weltOf die.val).ring, sq < x.lseq) → Answers (.weltFold die) s fun s' =>
      (s'.weltOf die.val).ring = (s.weltOf die.val).ring ∧ (s'.weltOf die.val).q = (c :: q).filter (fun d => d.id != c.id)) ∧
    (∀ s1, (∀ l ∈ s.launches, l.part = c.part → sq < l.lseq) →
      s.foldFrom die.val c.id c.pos ((foldSteps ((s.weltOf die.val).through sq)).drop c.pos) = .done s1 →
      (∀ e ∈ (s1.weltOf die.val).q, e.id = c.id → e.away = 0) → Answers (.weltFold die) s fun s' =>
        (∀ x ∈ (s'.weltOf die.val).ring, x ∈ (s.weltOf die.val).ring → sq < x.lseq) ∧ ∀ e ∈ (s'.weltOf die.val).q, e.id ≠ c.id)) ∧
  ∀ rs : List GRec, (sortRecs rs).Perm rs ∧ (sortRecs rs).Pairwise (fun a b => b.before a = false)

/-- R108, R199, R254, R365, R369 to R372, R376, R380, R381, R384, R385 to R391, R459: what HK1, the launch aggregators and the Welt engines do. -/
def clausesWorkgroupsComeAndGo : Prop :=
  clausesWorkgroupsAreDispatched ∧ clausesWarpSlotsAreFreed ∧ clausesBatchesBecomeGrids ∧ clausesTapeRecordsAreLaunched ∧
  clausesTheLogIsAppended ∧ clausesTheLogIsFolded

/-! ## Pre-emption -/

/-- R365, R405: HK1 asks the workgroup that must leave next, and no other, and keeps room for its record; it stops at a park point or after 4,096 cycles, between whole words. -/
def clausesWorkgroupsAreAskedAndStopped : Prop :=
  ∀ (lid g : Nat) (w : Wg) (s : State), s.wg? lid g = some w →
    let others := fun (s' : State) => (∀ l k, (l ≠ lid ∨ k ≠ g) → s'.wg? l k = s.wg? l k) ∧ ∀ t, s'.thread t = s.thread t
    (∀ v, s.victim (s.partOf w) = some v → v.lid = lid → v.g = g → Answers (.preemptRequest lid g) s fun s' =>
      s'.wg? lid g = some { w with st := .asked (s.cycleOf w.core), place := ((s.recordPlace w).getD 0, s.recordBytesOf w) } ∧ others s') ∧
    (∀ v, s.victim (s.partOf w) = some v → v.lid ≠ lid → Answers (.preemptRequest lid g) s fun s' => s' = s) ∧
    (∀ c, w.st = .asked c → s.atParkPoint w = true ∨ c + 4096 ≤ s.cycleOf w.core → (∀ t ∈ s.wgThreads w, t ∉ s.cur.threads) →
      Answers (.preemptStop lid g) s fun s' => s'.wg? lid g = some { w with st := .stopped } ∧ others s') ∧
    (∀ c, w.st = .asked c → s.atParkPoint w = false → s.cycleOf w.core < c + 4096 → Answers (.preemptStop lid g) s fun s' => s' = s)

/-- R406, R408: a stopped workgroup with nothing of it under way is saved: its record is written at the place found for it, its slots and
tile slots are free. -/
def clausesWorkgroupsAreSaved : Prop :=
  ∀ (lid g : Nat) (w : Wg) (l : Launch) (a : Nat) (s : State),
    s.wg? lid g = some w → s.launch? lid = some l → w.st = .stopped → (s.coreAt w.core).l1 = [] → s.lodge.outs = [] →
    (∀ t ∈ s.wgThreads w, ((s.thread t).park = .none ∨ (s.thread t).atRcv = true) ∧ (s.thread t).settled = true) →
    (∀ j ∈ w.slotsLeft, (s.warp (warpKey w.core j)).held = false) → s.enginesClear w = true → s.pagesIdle w = true →
    s.recordPlace w = some a → s.agentCan l.part (BitVec.ofNat 64 a) (l.kd.recordSize (s.slotsOwned w).length) = true →
      Answers (.preemptSave lid g) s fun s' =>
        (s'.wg? lid g).map (fun x => x.st) = some (.saved (BitVec.ofNat 64 a)) ∧
        (∀ j ∈ w.slotsLeft, (s'.warp (warpKey w.core j)).used = false ∧ ∀ t ∈ warpThreads (warpKey w.core j), s'.thread t = {}) ∧
        s'.slotsOwned w = [] ∧
        ∀ h, s.agentHome l.part (BitVec.ofNat 64 a) = some h → s.slicePages w = [] →
          pageSpans (BitVec.ofNat 64 a) (s.encodeRecord w l).length = [(BitVec.ofNat 64 a, (s.encodeRecord w l).length)] →
          ∀ i b, (s.encodeRecord w l)[i]? = some b → s'.byte (h.key + i) = b

/-- R407, R409: a saved workgroup that is next is restored on a core that can take it: it runs there, its warps are pending, and each thread
has the PC, DEPTH, loop stack, predicates and handler flag that its 256 bytes of the record say, and its registers. A live thread's bytes
say what it held. -/
def clausesWorkgroupsAreResumed : Prop :=
  (∀ (lid g : Nat) (core : Fin 1024) (w : Wg) (l : Launch) (a : DWord) (s : State),
    let slots := s.savedSlots l.part a
    let bytes := s.agentLoad l.part a (l.kd.recordBytes slots l.kd.slice)
    s.wg? lid g = some w → s.launch? lid = some l → w.st = .saved a → s.nextSaved l.part w = true →
    s.canResume core.val w (s.slotBits l.part a) = true → s.agentCan l.part a (l.kd.recordSize slots) = true →
      Answers (.preemptResume lid g core) s fun s' =>
        (s'.wg? lid g).map (fun x => (x.st, x.core)) = some (.running, core.val) ∧
        ∀ j ∈ w.regions.map Prod.fst, w.slot + j < 64 → (s'.warp (warpKey core.val (w.slot + j))).used = true ∧
          w.slot + j ∈ (s'.coreAt core.val).pending ∧
          ∀ i, i < 32 →
            let part := bytes.drop (l.kd.warpOffset slots j)
            let old := Thread.decode ((part.drop (64 + 256 * i)).take 256)
            let th := s'.thread (threadKey core.val (w.slot + j) i)
            th.live = old.live ∧ th.pc = old.pc ∧ th.depth = old.depth ∧ th.lstk = old.lstk ∧ th.preds = old.preds ∧ th.h = old.h ∧
            (old.live = true → ∀ n, n < l.kd.regsOf j → th.reg n = BitVec.ofNat 32 (fieldAt (part.drop (64 + 8192)) (4 * (32 * n + i)) 4))) ∧
  ∀ th : Thread, th.live = true → th.depth ≤ 255 → th.edepth ≤ 255 → th.idemDepth ≤ 255 → th.lstk.length ≤ 4 → th.idemLstk.length ≤ 4 →
    (∀ e ∈ th.lstk, e.depth ≤ 255) → (∀ e ∈ th.idemLstk, e.depth ≤ 255) →
      let back := Thread.decode th.encode
      back.live = true ∧ back.pc = th.pc ∧ back.depth = th.depth ∧ back.lstk = th.lstk ∧ back.preds = th.preds ∧ back.fpflags = th.fpflags ∧
      back.fpmode = th.fpmode ∧ back.srseed = th.srseed ∧ back.idempc = th.idempc ∧ back.idemDepth = th.idemDepth ∧
      back.idemLstk = th.idemLstk ∧ back.h = th.h ∧ back.edepth = th.edepth ∧ sameException th back

/-- R108, R199, R254, R365, R369 to R372, R376, R380, R381, R384, R385 to R391, R405 to R409, R459: workgroups are dispatched, asked to leave,
stopped, saved, resumed and freed; batches become grids, tapes run, and the gradient log is appended to and folded.
Inferences and choices of the model: log entries 17, 25 and 32. -/
def Obligations.WorkgroupsComeAndGo : Prop :=
  clausesWorkgroupsComeAndGo ∧
    clausesWorkgroupsAreAskedAndStopped ∧ clausesWorkgroupsAreSaved ∧ clausesWorkgroupsAreResumed

/-! ## The host's commands -/

/-- A command of a ring starts: it is posted and served, the command before it lets it, and no started command has its index (R373, R375). -/
def Starts (s : State) (n : Nat) (cmd : BitVec 512) (code : Nat) : Prop :=
  cmdCode cmd = code ∧ s.canStart n cmd = true ∧ ∀ a ∈ (s.ring n).act, a.idx ≠ (s.ring n).next.toNat

/-- The index of a ring's next command. -/
def nextIdx (s : State) (n : Nat) : Nat := (s.ring n).next.toNat

/-- The command of index i of a ring is over: HK0 has taken it and it is among the started commands no more. -/
def commandOver (s s' : State) (n : Nat) : Prop := ∀ a ∈ (s'.ring n).act, a.idx ≠ nextIdx s n

/-- The command of index i of a ring is started and waits. -/
def commandWaits (s s' : State) (n : Nat) (w : RingWait) : Prop := ∃ a ∈ (s'.ring n).act, a.idx = nextIdx s n ∧ a.wait = w

/-- The ring's completion area lies outside the global window, so that no completion record of it is written. -/
def noRecord (s : State) (n : Nat) : Prop :=
  globalTop < (s.ring n).cpl + BitVec.ofNat 64 (16 * (nextIdx s n % 2 ^ (s.ring n).log2n)) ∧ (s.ring n).cpl.toNat % 16 = 0 ∧ ∀ m, (s.ring m).act = []

/-- R373, R376: a doorbell sets TAIL, or OVR when it is more than 2^LOG2N ahead of HEAD; a completion writes its 16 bytes at CPL + 16 × (i mod
2^LOG2N), takes the command from the started ones and raises the ring's vector on the physical function. -/
def clausesDoorbellsAndCompletions : Prop :=
  (∀ (ring : Fin 64) (tail : Word) (s : State),
    let r := s.ring ring.val
    Answers (.queueDoorbell ring tail) s fun s' =>
      s'.ring ring.val = (if 2 ^ r.log2n < (tail - r.head).toNat then { r with ovr := true } else { r with tail := tail }) ∧
      (∀ m, m ≠ ring.val → s'.ring m = s.ring m) ∧ ∀ k, s'.byte k = s.byte k) ∧
  ∀ (n idx lseq : Nat) (st ex : Byte) (a : Act) (h : Home) (s : State),
    let r := s.ring n
    let va := r.cpl + BitVec.ofNat 64 (16 * (idx % 2 ^ r.log2n))
    r.act.find? (fun a => a.idx == idx) = some a → s.agentHome r.part va = some h → s.refusedAt h 16 = false →
    r.cpl.toNat % 16 = 0 →
      let s' := s.complete1 n idx st ex lseq
      (∀ i b, (leBytes 4 (cmdField a.cmd 4 4) ++ [st, ex, BitVec.ofNat 8 (idx / 2 ^ r.log2n % 2), 0] ++ leBytes 6 lseq ++ [0, 0])[i]? = some b →
        s'.byte (h.key + i) = b) ∧
      (∀ b ∈ (s'.ring n).act, b.idx ≠ idx) ∧ (8, n) ∈ s'.dev.msix

/-- R368, R374, R377: LAUNCH is accepted as the partition's next launch, waits for its KD, or is refused with a status; a command of no known code only completes. -/
def clausesLaunchCommands : Prop :=
  ∀ (ring : Fin 64) (cmd : BitVec 512) (s : State),
    let n := ring.val
    let part := (s.ring n).part
    let v := s.validate n part (cmdRcb cmd) (cmdDword cmd 8)
    (∀ kd, Starts s n cmd 1 → launchOk cmd = true → v = .ok kd → Answers (.launch ring cmd) s fun s' =>
      (s'.part part).lseq = (s.part part).lseq + 1 ∧ commandWaits s s' n (.launch (part * 2 ^ 48 + (s.part part).lseq)) ∧
      ∃ l, s'.launches = s.launches ++ [l] ∧ l.kd = kd ∧ l.part = part ∧ l.rcb = cmdRcb cmd ∧ l.lseq = (s.part part).lseq ∧ l.next = 0 ∧
        l.total = cmdField cmd 24 4 * cmdField cmd 28 4 * cmdField cmd 32 4 ∧ l.origin = .ring n (nextIdx s n) ∧
        l.seed = BitVec.ofNat 32 (cmdField cmd 36 4)) ∧
    (∀ st, Starts s n cmd 1 → launchOk cmd = true → v = .fail st → Answers (.launch ring cmd) s fun s' =>
      commandOver s s' n ∧ s'.launches = s.launches) ∧
    (Starts s n cmd 1 → launchOk cmd = true → v = .wait → Answers (.launch ring cmd) s fun s' => s'.ring n = s.ring n ∧ s'.launches = s.launches) ∧
    (Starts s n cmd 1 → launchOk cmd = false → Answers (.launch ring cmd) s fun s' => commandOver s s' n ∧ s'.launches = s.launches) ∧
    (Starts s n cmd (cmdCode cmd) → ¬ (1 ≤ cmdCode cmd ∧ cmdCode cmd ≤ 11) → Answers (.launch ring cmd) s fun s' =>
      commandOver s s' n ∧ s'.launches = s.launches)

/-- R347, R374: COPY queues a host transfer on the engine it names; CIRCUIT starts its script in a context that does not run, and else waits. -/
def clausesCopyAndCircuitCommands : Prop :=
  ∀ (ring : Fin 64) (cmd : BitVec 512) (s : State),
    let n := ring.val
    let part := (s.ring n).part
    (let e := cmdField cmd 32 1
     let q := cmdField cmd 33 1
     let len := cmdField cmd 24 8
     Starts s n cmd 2 → cmdHeader cmd 0 true = true → cmdZeros cmd [(8, 8), (16, 8), (24, 8), (32, 1), (33, 1)] = true → e < 32 → q < 8 →
     ((s.part part).rcb? (cmdRcb cmd)).isSome = true → s.copyRoom e q 0 part (cmdRcb cmd) = true →
     (len = 0 ∨ rowOk 0 false (cmdField cmd 8 8) len = true ∧ rowOk 0 false (cmdField cmd 16 8) len = true) → Answers (.copy ring cmd) s fun s' =>
       ∃ c, (s'.engine e).queue q = (s.engine e).queue q ++ [c] ∧ c.owner = .host n (nextIdx s n) ∧ c.part = part ∧ c.rcb = cmdRcb cmd ∧
         c.x = { kind := .cpy, src := cmdDword cmd 8, dst := cmdDword cmd 16, len := len } ∧ commandWaits s s' n (.copy c.id)) ∧
    (let k := cmdField cmd 8 1
     Starts s n cmd 3 → cmdHeader cmd 2 false = true → cmdZeros cmd [(8, 1), (10, 2), (16, 8)] = true → k < 8 → s.waitingFor k = none →
     ((s.cx k).st ≠ 1 → (s.cx k).st ≠ 2 → Answers (.circuit ring cmd) s fun s' =>
       (s'.cx k).st = 1 ∧ (s'.cx k).pc = cmdField cmd 10 2 ∧ (s'.cx k).cause = (s.cx k).cause ∧ (s'.cx k).part = part ∧
       s'.cxReg k 1 = cmdDword cmd 16 ∧ (∀ c, c ≠ 1 → s'.cxReg k c = 0) ∧
       (cmdFlag cmd 1 = true → commandOver s s' n) ∧ (cmdFlag cmd 1 = false → commandWaits s s' n (.circuit k true))) ∧
     ((s.cx k).st = 1 ∨ (s.cx k).st = 2 → Answers (.circuit ring cmd) s fun s' =>
       s'.cx k = s.cx k ∧ commandWaits s s' n (.circuit k false)))

/-- R374, R375, R384, R390: TOKEN-WAIT completes once its token has the value; TOKEN-SIGNAL raises its token and writes its value, which it
waits for where the page is on another device or not yet there; TAPERUN takes the records present
on the tape; FOLD-WAIT queues a fold on each die it names; FENCE waits for the started commands. -/
def clausesWaitingCommands : Prop :=
  ∀ (ring : Fin 64) (cmd : BitVec 512) (s : State),
    let n := ring.val
    let part := (s.ring n).part
    let t := cmdField cmd 8 2
    let v := cmdDword cmd 16
    (Starts s n cmd 4 → cmdHeader cmd 0 false = true → cmdZeros cmd [(8, 2), (16, 8)] = true → t < 1024 →
      (v ≤ s.queueToken part t → Answers (.tokenWait ring cmd) s fun s' => commandOver s s' n) ∧
      (s.queueToken part t < v → Answers (.tokenWait ring cmd) s fun s' => commandWaits s s' n (.token t v))) ∧
    (Starts s n cmd 5 → cmdHeader cmd 0 false = true → cmdZeros cmd [(8, 2), (16, 8), (24, 8)] = true → t < 1024 → cmdField cmd 24 8 % 8 = 0 →
      let addr := cmdDword cmd 24
      let raised := fun (s' : State) => s'.queueToken part t = (if s.queueToken part t < v then v else s.queueToken part t)
      (addr = 0 ∨ s.agentWriteBad part addr 8 ≠ none ∨ s.agentHome part addr ≠ none → Answers (.tokenSignal ring cmd) s fun s' =>
        commandOver s s' n ∧ raised s') ∧
      (∀ h, addr ≠ 0 → s.agentWriteBad part addr 8 = none → s.agentHome part addr = some h → noRecord s n → Answers (.tokenSignal ring cmd) s fun s' =>
        ∀ i b, (leBytes 8 v.toNat)[i]? = some b → s'.byte (h.key + i) = b) ∧
      (addr ≠ 0 → s.agentWriteBad part addr 8 = none → s.agentHome part addr = none → Answers (.tokenSignal ring cmd) s fun s' =>
        commandWaits s s' n .write ∧ raised s')) ∧
    (Starts s n cmd 6 → cmdHeader cmd 0 true = true → cmdZeros cmd [] = true →
      (∀ r, (s.part part).rcb? (cmdRcb cmd) = some r → r.tape ≠ 0 → r.tapen ≠ 0 → Answers (.taperun ring cmd) s fun s' =>
        commandWaits s s' n (.tape r.id r.tapen 0)) ∧
      ((s.part part).rcb? (cmdRcb cmd) = none → Answers (.taperun ring cmd) s fun s' => commandOver s s' n)) ∧
    (let named := fun (d : Nat) => cmdField cmd 8 1 / 2 ^ d % 2 = 1
     Starts s n cmd 7 → cmdHeader cmd 0 false = true → cmdZeros cmd [(8, 1), (16, 8)] = true →
     (∀ d, d < 8 → named d → s.dieParted d = part ∧ (s.weltOf d).q.length < 64) → Answers (.foldWait ring cmd) s fun s' =>
       (∀ d, d < 8 → named d → ∃ c, (s'.weltOf d).q = (s.weltOf d).q ++ [c] ∧ c.kind = .fold (cmdField cmd 16 8) false 0 ∧
         c.owner = .host n (nextIdx s n)) ∧
       (∀ d, d < 8 → ¬ named d → s'.weltOf d = s.weltOf d) ∧ ((∀ d, d < 8 → ¬ named d) → commandOver s s' n)) ∧
    (Starts s n cmd 8 → cmdHeader cmd 0 false = true → cmdZeros cmd [(8, 1), (9, 1)] = true → cmdField cmd 8 1 ≤ 4 → cmdField cmd 9 1 = 0 →
      ((s.ring n).act = [] → Answers (.queueFence ring cmd) s fun s' => commandOver s s' n) ∧
      (∀ a k, (s.ring n).act = [a] → a.wait = .copy k → Answers (.queueFence ring cmd) s fun s' => commandWaits s s' n (.fence [(n, a.idx)])))

/-- R433 to R435: PSTATE, for a partition of all eight dies and fields in range, reaches RUN, TRIM or HOLD; reaches RETAIN or OFF from an idle
device, whose threads and launches are gone; begins a start when it leaves RETAIN or OFF; and is turned away while work is under way. -/
def clausesPowerStateCommands : Prop :=
  ∀ (ring : Fin 64) (cmd : BitVec 512) (s : State),
    let n := ring.val
    let x := cmdField cmd 8 1
    let up := s.dev.pst < 3
    let starts := fun (s' : State) => s'.dev.starting.isSome = true ∨ s'.dev.state = 4
    Starts s n cmd 10 → cmdHeader cmd 0 false = true → cmdZeros cmd [(8, 1), (10, 2), (12, 1)] = true → s.ownsAll (s.ring n).part = true →
    (s.dev.trip = true → s.dev.temp.toNat ≤ 95) →
      (x = 0 → up → Answers (.pstateRun ring cmd) s fun s' =>
        s'.dev.pst = 0 ∧ s'.dev.cap = 1800 ∧ s'.dev.budget = BitVec.ofNat 8 (cmdField cmd 12 1) ∧ commandOver s s' n) ∧
      (x = 1 → capOk cmd = true → up → Answers (.pstateTrim ring cmd) s fun s' =>
        s'.dev.pst = 1 ∧ s'.dev.cap = cmdField cmd 10 2 ∧ commandOver s s' n) ∧
      (x = 2 → up → Answers (.pstateHold ring cmd) s fun s' => s'.dev.pst = 2 ∧ commandOver s s' n) ∧
      (x = 3 → s.busyWork = false → s.dev.pst ≤ 3 → Answers (.pstateRetain ring cmd) s fun s' =>
        s'.dev.pst = 3 ∧ commandOver s s' n ∧ (s.dev.pst ≠ 3 → s'.thr = [] ∧ s'.launches = [])) ∧
      (x = 4 → s.busyWork = false → up → Answers (.pstateOff ring cmd) s fun s' =>
        s'.dev.pst = 4 ∧ s'.dev.state = 0 ∧ s'.thr = [] ∧ s'.launches = [] ∧ commandOver s s' n) ∧
      (x = 3 → s.busyWork = true → Answers (.pstateRetain ring cmd) s fun s' => s'.dev.pst = s.dev.pst ∧ commandOver s s' n) ∧
      (x = 4 → s.busyWork = true → Answers (.pstateOff ring cmd) s fun s' => s'.dev.pst = s.dev.pst ∧ commandOver s s' n) ∧
      (x = 0 → ¬ up → Answers (.pstateRun ring cmd) s starts) ∧
      (x = 1 → capOk cmd = true → ¬ up → Answers (.pstateTrim ring cmd) s starts) ∧ (x = 2 → ¬ up → Answers (.pstateHold ring cmd) s starts) ∧
      (x = 3 → s.busyWork = false → 3 < s.dev.pst → Answers (.pstateRetain ring cmd) s starts) ∧
      (x = 4 → s.busyWork = false → s.dev.pst = 3 → Answers (.pstateOff ring cmd) s starts)

/-- R436: a CHECKPOINT is accepted in HOLD, when no other runs, and its transfer begins; elsewhere it completes and nothing is written. -/
def clausesCheckpointsAreAccepted : Prop :=
  ∀ (ring : Fin 64) (cmd : BitVec 512) (s : State),
    let n := ring.val
    let restores := cmdField cmd 8 1 % 2 = 1
    let begun := fun (s' : State) (r : Bool) => commandWaits s s' n .done ∧ s'.mem = s.mem ∧
      s'.dev.ckpt = some { ring := n, idx := nextIdx s n, cmd := cmd, restore := r }
    Starts s n cmd 9 → checkpointOk cmd = true → s.dev.ckpt = none →
      (¬ restores → s.dev.pst = 2 → Answers (.checkpointSave ring cmd) s fun s' => begun s' false) ∧
      (restores → s.dev.pst = 2 → Answers (.checkpointRestore ring cmd) s fun s' => begun s' true) ∧
      (s.dev.pst ≠ 2 → noRecord s n →
        (¬ restores → Answers (.checkpointSave ring cmd) s fun s' => s'.mem = s.mem ∧ commandOver s s' n) ∧
        (restores → Answers (.checkpointRestore ring cmd) s fun s' => s'.mem = s.mem ∧ commandOver s s' n))

/-- R437, R438: the steps of a checkpoint over the host link: a save writes one chunk's slot after another and then the image's header; a restore
takes each chunk from a slot that carries CKN and matches its digest, and at its end every TLB is empty. -/
def clausesCheckpointSteps : Prop :=
  ∀ (c : Ckpt) (s : State),
    let ckn := cmdField c.cmd 32 8
    let haddr := cmdField c.cmd 16 8
    let slot := fun (j : Nat) => BitVec.ofNat 64 (haddr + slotOffset j)
    let s' := s.ckptStep
    s.dev.ckpt = some c → haddr + imageBytes ≤ 2 ^ 64 →
      (c.restore = false → s.ckPaths c.cmd = [] → c.flying = [] → c.pick.1 < chunkCount →
        s'.hostRead (slot c.pick.1) slotBytes = s.chunkSlot ckn c.pick.1 ∧ s'.dev.ckpt = some c.pick.2 ∧
        ∀ k, k < 2 ^ 72 → s'.byte k = s.byte k) ∧
      (c.restore = false → s.ckPaths c.cmd = [] → c.flying = [] → c.again = [] → c.next = chunkCount →
        (∀ m, (s.ring m).act = []) → s'.hostRead (BitVec.ofNat 64 haddr) 4096 = ckHeader ckn 0xFFFFFFFF s.devId [] ∧ s'.dev.ckpt = none) ∧
      (c.restore = true → c.next < chunkCount → leNat (s.hostRead (slot c.next) 8) = ckn →
        fixLen 32 (Config.shake256 (s.hostRead (slot c.next + 4096) chunkBytes) 32) = ((s.hostRead (slot c.next) 64).drop 32).take 32 →
        s'.dev.ckpt = some { c with next := c.next + 1 } ∧
        (chunkTags c.next = false → s'.getBytes (chunkKey c.next) chunkBytes = s.hostRead (slot c.next + 4096) chunkBytes)) ∧
      (c.restore = true → c.next = chunkCount → s'.dev.ckpt = none ∧ s'.dieTlb = [] ∧ (∀ k, (s'.coreAt k).tlb = []) ∧
        ∀ a ∈ (s'.ring c.ring).act, a.idx ≠ c.idx)

/-- R368, R373 to R377, R384, R390, R433 to R438: what the host's commands do as they start.
Inferences and choices of the model: log entries 16 and 22 to 26. -/
def Obligations.HostCommandsStart : Prop :=
  clausesDoorbellsAndCompletions ∧ clausesLaunchCommands ∧ clausesCopyAndCircuitCommands ∧ clausesWaitingCommands ∧
  clausesPowerStateCommands ∧ clausesCheckpointsAreAccepted ∧ clausesCheckpointSteps

/-! ## Resets, power and registers -/

/-- A reset that is accepted now begins at once: none is accepted or runs, and no start is under way (R432). -/
def resetsFree (s : State) : Prop := s.dev.resets = [] ∧ s.dev.resetting = false ∧ s.dev.state ≠ 5 ∧ s.dev.starting = none

/-- Each request of this device that is not answered is a thread's store or other access without a result, and no thread waits at a FENCE. -/
def onlyStores (s : State) : Prop := (∀ r ∈ s.lodge.outs, ∃ t id a, r.owner = .ack t id a) ∧ ∀ t, (s.thread t).fencing = none

/-- Those requests have failed: each acknowledgement that waited for one has cause 0x12 (R305, R307). -/
def storesFail (s s' : State) : Prop :=
  ∀ r ∈ s.lodge.outs, ∀ t id a, r.owner = .ack t id a → ∀ x ∈ (s.thread t).acks, x.id = id →
    ∃ y ∈ (s'.thread t).acks, y.id = id ∧ y.ready = true ∧ y.fail.map Prod.fst = some 0x12

/-- R307: the Lodge island as its reset leaves it. -/
def islandReset (s s' : State) : Prop :=
  s'.lodge.epst = 0 ∧ s'.lodge.opens = [] ∧ s'.lodge.outs = [] ∧ s'.lodge.ldcfg = 0x1000000 ∧ s'.lodge.seqTx = [] ∧ s'.lodge.seqRx = [] ∧
  s'.lodge.abscnt = 0 ∧ storesFail s s'

/-- A RESET command of a rung starts, its fields in order and its target in the ring's partition (R429, R432). -/
def ResetStarts (s : State) (n : Nat) (cmd : BitVec 512) (rung : Nat) : Prop :=
  Starts s n cmd 11 ∧ resetOk cmd = true ∧ cmdField cmd 8 1 = rung ∧
  s.targetIn (s.ring n).part rung (cmdField cmd 9 1) (cmdField cmd 10 1) = true

/-- The reset that a RESET command asks for (R429). -/
def resetOf (s : State) (n : Nat) (cmd : BitVec 512) : ResetJob :=
  { cmd := some (n, nextIdx s n), rung := cmdField cmd 8 1, target := cmdField cmd 9 1, cls := cmdField cmd 10 1, retain := cmdField cmd 11 1 == 1 }

/-- A reset of rung 3 or above runs, and STATE reads RESET (R432). -/
def resetRuns (s s' : State) : Prop := s'.dev.state = 5 ∧ s'.dev.stateWas = s.dev.state ∧ s'.dev.resetting = true

/-- A ring has no command and is stopped (R431). -/
def ringStopped (s' : State) (m : Nat) : Prop := (s'.ring m).act = [] ∧ (s'.ring m).en = false

/-- The compute side is as after a reset of the device: no ring, launch, workgroup or thread (R430). -/
def deviceReset (s' : State) : Prop := s'.rings = [] ∧ s'.launches = [] ∧ s'.wgs = [] ∧ s'.thr = [] ∧ s'.warps = []

/-- R429 to R432: the rungs of RESET below the function: a queue's commands end and it stops, with HEAD at TAIL; an engine is idle; a partition
has no launch or region control block and its rings have stopped; a die's cores are empty and the launches on it are gone. -/
def clausesLowerRungs : Prop :=
  ∀ (ring : Fin 64) (cmd : BitVec 512) (s : State),
    let n := ring.val
    let t := cmdField cmd 9 1
    resetsFree s →
    (ResetStarts s n cmd 1 → Answers (.resetQueue ring cmd) s fun s' =>
      ringStopped s' t ∧ (s'.ring t).head = (s.ring t).tail ∧ commandOver s s' n ∧ s'.dev.resets = [] ∧ s'.dev.state = s.dev.state) ∧
    (ResetStarts s n cmd 2 → Answers (.resetEngine ring cmd) s fun s' => commandOver s s' n ∧ s'.dev.resets = [] ∧
      (cmdField cmd 10 1 = 0 → s'.engine t = {}) ∧ (cmdField cmd 10 1 = 1 → (s'.collEng t).all = [] ∧ (s'.collEng t).staged = []) ∧
      (cmdField cmd 10 1 = 2 → (s'.weltOf t).q = [] ∧ (s'.weltOf t).ring = (s.weltOf t).ring) ∧
      (cmdField cmd 10 1 = 3 → s.waitingFor t = none → (s.cx t).st = 1 ∨ (s.cx t).st = 2 → (s'.cx t).st = 3 ∧ (s'.cx t).cause = 0x12)) ∧
    (ResetStarts s n cmd 3 → Answers (.resetPartition ring cmd) s fun s' =>
      (∀ l ∈ s'.launches, l.part ≠ t) ∧ s'.part t = { desc := (s.part t).desc } ∧ resetRuns s s' ∧
      ∀ m, m < 64 → (s.ring m).part = t → ringStopped s' m) ∧
    (ResetStarts s n cmd 4 → Answers (.resetDie ring cmd) s fun s' =>
      (∀ c, c < 128 → (s'.coreAt (128 * t + c)).active = [] ∧ (s'.coreAt (128 * t + c)).pending = [] ∧ (s'.coreAt (128 * t + c)).l1 = [] ∧
        (s'.coreAt (128 * t + c)).retired = (s.coreAt (128 * t + c)).retired) ∧
      (∀ w ∈ s.wgs, w.isSaved = false → dieOf w.core = t → ∀ m ∈ s'.launches, m.lid ≠ w.lid) ∧ commandWaits s s' n .reset ∧ resetRuns s s')

/-- R307, R423, R428 to R430, R432: the rungs of a function, of the device and of the Lodge, by command, by DEVCTL.RST and as function-level
resets. -/
def clausesUpperRungs : Prop :=
  (∀ (ring : Fin 64) (cmd : BitVec 512) (s : State),
    let n := ring.val
    let t := cmdField cmd 9 1
    resetsFree s →
    (ResetStarts s n cmd 5 → Answers (.resetFunction ring cmd) s fun s' =>
      (∀ l ∈ s'.launches, l.part ≠ t) ∧ (s'.part t).rcbs = [] ∧ resetRuns s s' ∧
      (cmdField cmd 11 1 = 1 → (s'.part t).desc = (s.part t).desc) ∧
      (cmdField cmd 11 1 = 0 → (s'.part t).desc = [] ∧ (s.lodge.epst ≠ 1 → ∀ d, d < 8 → s.dieParted d = t →
        ∀ k, 128 * d * sliceBytes ≤ k → k < 128 * (d + 1) * sliceBytes → s'.byte k = 0))) ∧
    (ResetStarts s n cmd 6 → Answers (.resetDevice ring cmd) s fun s' => deviceReset s' ∧ resetRuns s s') ∧
    (ResetStarts s n cmd 7 → onlyStores s → Answers (.resetLodge ring cmd) s fun s' => islandReset s s' ∧ resetRuns s s')) ∧
  (∀ (v : DWord) (s : State),
    let fields := fun (s' : State) => s'.dev.zero = v.getLsbD 24 ∧ s'.dev.dbgen = v.extractLsb' 16 8 ∧ s'.dev.retain = v.extractLsb' 8 8
    (v.extractLsb' 26 2 = 1 → s.dev.state ≠ 4 → resetsFree s → Answers (.devctlRstDevice v) s fun s' =>
      deviceReset s' ∧ resetRuns s s' ∧ fields s') ∧
    (v.extractLsb' 26 2 = 1 → s.dev.state = 4 → Answers (.devctlRstDevice v) s fun s' => s'.dev.state = 1 ∧ s'.dev.cfail = 1) ∧
    (v.extractLsb' 26 2 = 2 → resetsFree s → onlyStores s → Answers (.devctlRstLodge v) s fun s' =>
      islandReset s s' ∧ resetRuns s s' ∧ fields s')) ∧
  ∀ (k : Fin 8) (s : State), resetsFree s →
    (s.dev.state ≠ 4 → Answers (.functionLevelReset .pf) s fun s' => deviceReset s' ∧ resetRuns s s') ∧
    (s.funcEnabled (.vf k) = true → s.dev.state = 3 → Answers (.functionLevelReset (.vf k)) s fun s' =>
      (∀ l ∈ s'.launches, l.part ≠ k.val) ∧ (s'.part k.val).rcbs = [] ∧ resetRuns s s' ∧
      (s'.part k.val).desc = (if s.dev.retain.getLsbD k.val then (s.part k.val).desc else []))

/-- R427, R432: a RESET that is accepted while a reset or a start runs waits for its turn. At the end of a reset STATE reads what it read before
and the RESET completes; the reset of the device goes on with a start, or with recovery. -/
def clausesResetsTakeTurns : Prop :=
  (∀ (ring : Fin 64) (cmd : BitVec 512) (r : Nat) (i : Instr) (s : State),
    (r, i) ∈ [(1, Instr.resetQueue ring cmd), (2, .resetEngine ring cmd), (3, .resetPartition ring cmd), (4, .resetDie ring cmd),
      (5, .resetFunction ring cmd), (6, .resetDevice ring cmd), (7, .resetLodge ring cmd)] →
    ResetStarts s ring.val cmd r → s.dev.resetting = true ∨ s.dev.starting.isSome = true → Answers i s fun s' =>
      commandWaits s s' ring.val .reset ∧ s'.dev.resets = s.dev.resets ++ [resetOf s ring.val cmd] ∧ s'.launches = s.launches) ∧
  ∀ (j : ResetJob) (s : State), s.dev.resets = [j] → s.dev.resetting = true → s.dev.state = 5 →
    let s' := s.resetEnd
    s'.dev.resets = [] ∧ s'.dev.resetting = false ∧ (∀ n i, j.cmd = some (n, i) → ∀ a ∈ (s'.ring n).act, a.idx ≠ i) ∧
    (j.rung ≠ 6 → s'.dev.state = s.dev.stateWas) ∧ (j.rung = 6 → s'.dev.starting.isSome = true ∨ s'.dev.state = 4)

/-- R304, R307, R403, R422, R426, R427, R435: power arriving, a start that overruns, the thermal trip, and power lost; the endpoint attached,
detached, kept alive and drained. -/
def clausesPowerAndAttachment : Prop :=
  (∀ (f : Nat) (s : State), s.dev.state = 0 → s.dev.resetting = false → s.dev.cfail.toNat < 3 →
    (¬ (1 ≤ f ∧ f ≤ 7) → Answers (.powerOn f) s fun s' =>
      s'.dev.starting = some (!s.dev.startsWarm, !s.dev.startsWarm || s.dev.zero) ∧ s'.dev.state = (if s.dev.startsWarm then 2 else 1)) ∧
    (1 ≤ f → f ≤ 7 → Answers (.powerOn f) s fun s' => s'.dev.starting = none ∧ s'.dev.state = 0 ∧ s'.dev.fstep = BitVec.ofNat 8 f)) ∧
  (∀ (f : Nat) (s : State), s.dev.starting.isSome = true → Answers (.startOverrun f) s fun s' =>
    s'.dev.starting = none ∧ s'.dev.state = 0 ∧ s'.dev.fstep = BitVec.ofNat 8 (Nat.min f 7)) ∧
  (∀ (temp : Byte) (s : State),
    (105 ≤ temp.toNat → s.dev.state ≠ 0 → Answers (.thermalTrip temp) s fun s' =>
      s'.dev.pst = 3 ∧ s'.dev.trip = true ∧ s'.dev.temp = temp ∧ s'.thr = [] ∧ s'.launches = [] ∧
      (onlyStores s → ∀ m, (s'.ring m).en = false ∧ (s'.ring m).act = [])) ∧
    (temp.toNat < 105 → Answers (.thermalTrip temp) s fun s' => s' = { s with dev := { s.dev with temp := temp } })) ∧
  (∀ s : State,
    let left := fun (s' : State) => s'.lodge.epst = 2 ∧ s'.lodge.opens = [] ∧ s'.lodge.outs = [] ∧ storesFail s s'
    (Answers .powerFail s fun s' => s'.dev.state = 0 ∧ s'.rings = [] ∧ s'.parts = [] ∧ s'.launches = [] ∧ s'.thr = [] ∧
      s'.dev.trained = s.dev.trained ∧ s'.dev.fw = s.dev.fw ∧ s'.dev.svn = s.dev.svn ∧ s'.dev.histFlash = s.dev.histFlash ∧
      s'.dev.cfail = s.dev.cfail ∧ s'.dev.wfail = s.dev.wfail) ∧
    (onlyStores s → Answers .lodgePowerRemoval s (islandReset s)) ∧
    (s.lodge.epst = 0 → s.dev.state ≠ 4 → Answers .attach s fun s' => s'.lodge = { s.lodge with epst := 1, epoch := !s.lodge.epoch }) ∧
    (s.lodge.epst = 1 → onlyStores s → Answers .detach s left) ∧
    (Answers .hbeat s fun s' => s' = s) ∧
    (s.lodge.epst = 1 → s.lodge.hbms ≠ 0 → onlyStores s → Answers .heartbeatTimeout s left) ∧
    (s.lodge.hbms = 0 → Answers .heartbeatTimeout s fun s' => s' = s) ∧
    (s.lodge.epst = 2 → s.lodge.opens = [] → Answers .drainComplete s fun s' => s'.lodge = { s.lodge with epst := 0 }))

/-- R302, R338, R373, R421, R424, R425: the host's writes of registers: a ring's base while EN = 0 only, LDCFG while DETACHED only, a port's
configuration while DARK only, arguments of the mailbox; a VF sees only the rings of its partition; PARTCFG while every ring has EN = 0. -/
def clausesRegistersAreWritten : Prop :=
  (∀ (n p : Nat) (v : DWord) (s : State), n < 64 → p < 16 → s.dev.state ≠ 4 →
    (Answers (.registerWrite .pf (BitVec.ofNat 20 (64 * n)) v) s fun s' =>
      s'.ring n = (if (s.ring n).en then s.ring n else { s.ring n with base := v &&& ~~~63#64 }) ∧ ∀ m, m ≠ n → s'.ring m = s.ring m) ∧
    (∀ k : Fin 8, (s.ring n).part ≠ k.val → Answers (.registerWrite (.vf k) (BitVec.ofNat 20 (64 * n)) v) s fun s' => s' = s) ∧
    (Answers (.registerWrite .pf 0x1000 v) s fun s' =>
      s'.lodge = (if s.lodge.epst = 0 then { s.lodge with ldcfg := v &&& 0xFFFFFFF#64 } else s.lodge)) ∧
    (Answers (.registerWrite .pf (BitVec.ofNat 20 (0x2080 + 8 * p)) v) s fun s' =>
      s'.optPort p = (if (s.optPort p).st = 0 then { s.optPort p with swid := v.extractLsb' 16 12, en := v.getLsbD 0 } else s.optPort p)) ∧
    (Answers (.registerWrite .pf 0x4008 v) s fun s' => s'.dev = { s.dev with mb := { s.dev.mb with a0 := v } }) ∧
    (Answers (.registerWrite .pf 0x3000 v) s fun s' => s' = s)) ∧
  ∀ (v : DWord) (s : State), s.dev.state ≠ 4 →
    ((∀ m, m < 64 → (s.ring m).en = false) → partcfgOk v = true → Answers (.partcfgWrite v) s fun s' => s'.dev.partcfg = v.setWidth 27) ∧
    ((∃ m, m < 64 ∧ (s.ring m).en = true) ∨ partcfgOk v = false → Answers (.partcfgWrite v) s fun s' => s' = s)

/-- R302 to R304, R307, R338, R373, R403, R421 to R432, R435: resets, power and the host's registers.
Inferences and choices of the model: log entries 34 to 37. -/
def Obligations.ResetsPowerAndRegisters : Prop :=
  clausesLowerRungs ∧ clausesUpperRungs ∧ clausesResetsTakeTurns ∧ clausesPowerAndAttachment ∧ clausesRegistersAreWritten

/-! ## The mailbox -/

/-- A mailbox function acts: its caller is enabled, no function waits, the mailbox serves it, and a PF-only function is the PF's (R425, R428). -/
def MailboxActs (s : State) (f : Func) (code : Byte) (pfOnly : Bool) : Prop :=
  s.funcEnabled f = true ∧ s.dev.mbWait = none ∧ s.mbServes code = true ∧ (pfOnly = true → f = .pf)

/-- The function has ended with a status, its arguments and code in the registers (R425). -/
def mailboxEnded (s' : State) (code : Byte) (a : MbArgs) (st : Byte) : Prop :=
  s'.dev.mbstat = st ∧ s'.dev.mbWait = none ∧ s'.dev.mb = a ∧ s'.dev.mbcmd = code

/-- R362, R425: REGRCB registers the RCB that HK1 reads, which an id of another partition or a bad field forbids; UNRCB takes one without
children away. -/
def clausesRegionControlBlocks : Prop :=
  ∀ (f : Func) (a : MbArgs) (s : State),
    let part := funcPart f a.a1
    (MailboxActs s f 1 false → a.a0.toNat % 128 = 0 → a.a0 ≤ globalTop → ∀ bs, s.agentRead 64 part a.a0 128 = .bytes bs →
      let r := Rcb.ofBytes a.a0 bs
      (r.legal bs = false → Answers (.regrcb f a) s fun s' => mailboxEnded s' 1 a 1 ∧ s'.parts = s.parts) ∧
      (∀ q, r.legal bs = true → (∀ p, s.rcbPart r.id = some p → p = part) → (s.part part).withRcb r = some q →
        Answers (.regrcb f a) s fun s' => mailboxEnded s' 1 a 0 ∧ s'.part part = q ∧
          ((s'.part part).rcb? r.id).map (fun x => { x with level := 0 }) = some r)) ∧
    (∀ p, MailboxActs s f 2 false → s.rcbPart a.a0.toNat = some p → funcMay f p = true →
      ((∀ r ∈ (s.part p).rcbs, r.parent ≠ a.a0.toNat) → Answers (.unrcb f a) s fun s' =>
        mailboxEnded s' 2 a 0 ∧ (s'.part p).rcb? a.a0.toNat = none ∧
        ∀ k, k ≠ a.a0.toNat → (s'.part p).rcb? k = (s.part p).rcb? k) ∧
      (∀ r ∈ (s.part p).rcbs, r.parent = a.a0.toNat → Answers (.unrcb f a) s fun s' => mailboxEnded s' 2 a 5 ∧ s'.parts = s.parts))

/-- R215, R403, R404: UNPIN clears PIN and MVC of a page's entry; HISTRD writes the 1,024 records of counters; HISTCLR clears them; RETIRE
retires a core. -/
def clausesPagesCountersAndCores : Prop :=
  ∀ (f : Func) (a : MbArgs) (s : State),
    (∀ pa e size, MailboxActs s f 3 false → a.a0 ≤ globalTop → s.pteSpot (funcPart f a.a2) (a.a0.toNat % 2 ^ 56) = some (pa, e, size) →
      sizeShift size = a.a1.toNat → Answers (.unpin f a) s fun s' =>
        mailboxEnded s' 3 a 0 ∧ s'.pteAt pa = pteSet (pteSet e 64 1 0) 14 2 0) ∧
    (MailboxActs s f 4 true → a.a0.toNat + 262144 ≤ 2 ^ 64 → Answers (.histrd f a) s fun s' =>
      mailboxEnded s' 4 a 0 ∧ ∀ c, c < 1024 → s'.hostRead (a.a0 + BitVec.ofNat 64 (256 * c)) 256 = s.histRecord c) ∧
    (MailboxActs s f 5 true → Answers (.histclr f a) s fun s' => mailboxEnded s' 5 a 0 ∧ s'.dev.hist = [] ∧ s'.dev.histFlash = []) ∧
    (MailboxActs s f 6 true → a.a0.toNat < 1024 → Answers (.retire f a) s fun s' =>
      mailboxEnded s' 6 a 0 ∧ (s'.coreAt a.a0.toNat).retired = true ∧ ∀ c, c ≠ a.a0.toNat → s'.coreAt c = s.coreAt c) ∧
    (∀ k, f = .vf k → s.funcEnabled f = true → s.dev.mbWait = none → s.mbServes 6 = true → Answers (.retire f a) s fun s' =>
      mailboxEnded s' 6 a 5 ∧ s'.cores = s.cores)

/-- R439 to R442: FWLOAD writes the slot that the last start did not use and marks it valid if the image verifies; EXTEND extends MEAS3 to
MEAS7 by SHAKE256; QUOTE writes the signed quote and counts it; IDCERT writes the two certificates. -/
def clausesFirmwareAndAttestation : Prop :=
  ∀ (f : Func) (a : MbArgs) (s : State),
    (MailboxActs s f 7 false → a.a1.toNat + 50464 ≤ 2 ^ 64 → Answers (.quote f a) s fun s' =>
      mailboxEnded s' 7 a 0 ∧ s'.dev.quotes = s.dev.quotes + 1 ∧
      s'.hostRead a.a1 50464 = s.quoteBytes (s.hostRead a.a0 64) (quotePart f)) ∧
    (let cert := Config.vendorCert ++ s.dev.aliasCert
     MailboxActs s f 8 false → a.a0.toNat + cert.length ≤ 2 ^ 64 → Answers (.idcert f a) s fun s' =>
       mailboxEnded s' 8 a 0 ∧ s'.hostRead a.a0 cert.length = cert) ∧
    (let img : Image := some (s.hostRead a.a0 a.a1.toNat)
     MailboxActs s f 9 true → Answers (.fwload f a) s fun s' =>
       mailboxEnded s' 9 a (if imageVerifies img s.dev.svn then 0 else 5) ∧
       s'.dev.slot (1 - s.dev.active) = { valid := imageVerifies img s.dev.svn, image := img }) ∧
    (MailboxActs s f 10 true → 3 ≤ a.a0.toNat → a.a0.toNat ≤ 7 → Answers (.extend f a) s fun s' =>
      mailboxEnded s' 10 a 0 ∧
      s'.dev.measValue a.a0.toNat = fixLen 64 (Config.shake256 (s.dev.measValue a.a0.toNat ++ s.hostRead a.a1 64) 64) ∧
      ∀ k, k ≠ a.a0.toNat → s'.dev.measValue k = s.dev.measValue k)

/-- R411, R418, R425, R446: the debug functions act on a core whose partition the caller may use and whose DBGEN bit is 1: DBGW writes a debug
register, DBGIN gives a warp its inbound word, DBGOUT hands the oldest outbound entry to the host. -/
def clausesDebugFunctions : Prop :=
  ∀ (f : Func) (a : MbArgs) (s : State),
    let c := a.a0.toNat
    let key := warpKey c (a.a1.toNat % 64)
    let allowed := c < 1024 ∧ funcMay f (s.dieParted (dieOf c)) = true ∧ s.dev.dbgen.getLsbD (s.dieParted (dieOf c)) = true
    (MailboxActs s f 11 false → allowed → a.a1 = 0x22 → Answers (.dbgw f a) s fun s' =>
      mailboxEnded s' 11 a 0 ∧ (s'.coreAt c).whalt = a.a2 ∧ ∀ t, s'.thread t = s.thread t) ∧
    (MailboxActs s f 11 false → c < 1024 → s.dev.dbgen.getLsbD (s.dieParted (dieOf c)) = false → Answers (.dbgw f a) s fun s' =>
      mailboxEnded s' 11 a 5 ∧ s'.cores = s.cores ∧ s'.warps = s.warps) ∧
    (MailboxActs s f 12 false → allowed → a.a1.toNat < 64 → (s.warp key).used = true → (s.warp key).dbgIn = none →
      (∀ t ∈ s.liveThreads key, (s.thread t).park = .none) → Answers (.dbgin f a) s fun s' =>
        mailboxEnded s' 12 a 0 ∧ (s'.warp key).dbgIn = some a.a2) ∧
    (∀ e es, MailboxActs s f 13 false → allowed → (s.coreAt c).dbgOut = e :: es → a.a1.toNat + 32 ≤ 2 ^ 64 → Answers (.dbgout f a) s fun s' =>
      mailboxEnded s' 13 a 0 ∧ (s'.coreAt c).dbgOut = es ∧ s'.hostRead a.a1 32 = dbgRecord c e)

/-- R215, R362, R403, R404, R411, R418, R425, R428, R439 to R442, R446: the thirteen functions of the mailbox.
Inferences and choices of the model: log entry 33. -/
def Obligations.MailboxFunctions : Prop :=
  clausesRegionControlBlocks ∧ clausesPagesCountersAndCores ∧ clausesFirmwareAndAttestation ∧ clausesDebugFunctions


/-! ## Packets that arrive for the endpoint and packets that leave -/

/-- A request packet is for this device and reaches the ATTACHED endpoint, which has a place for it and a partition that owns it
and is not under reset (R304, R305). -/
def Delivered (s : State) (p : Packet) (ty : BitVec 4) : Prop :=
  p.dst = s.devId ∧ p.type = ty ∧ s.lodge.epst = 1 ∧ s.lodge.opens.length < 32768 ∧ (s.diesOf s.epart).isEmpty = false ∧
    s.epartResets = false

/-- The open entry of a request holds its answer. -/
def answered (s' : State) (p : Packet) (st : Byte) (data : List Byte) : Prop := ∃ o ∈ s'.lodge.opens, o.pkt = p ∧ o.ans = some (st, data)

/-- An address of the endpoint's partition is mapped to a place of this device, not in a die under reset, and permits the access (R294, R304,
R424). -/
def EpMaps (s : State) (va : DWord) (rd wr : Bool) (h : Home) : Prop :=
  ∃ e size, s.translateAgent s.epart va.toNat = .mapped e size ∧ pteAllows e rd wr = true ∧ pteHome e (sizeShift size) va.toNat = h ∧
    h.isRemote = false ∧ s.homeResets h = false

/-- R292, R298, R300: a packet goes on from an input port: to this device, towards its next link, or dropped and counted at a down one. -/
def sentOn (s s' : State) (input : Nat) (q : Packet) : Prop :=
  match s.route q.dst with
  | .here => (6, q) ∈ s'.lodge.wire
  | .link k =>
    if s.lodge.isDown k then s'.lodge.orphcnt = s.lodge.orphcnt + 1 else (k, q) ∈ s'.lodge.wire ∨ (input, q) ∈ (s'.lodge.port k).waiting
  | .down => s'.lodge.orphcnt = s.lodge.orphcnt + 1

/-- R294, R195, R200, R212, R299, R304: a READ of bytes in one page is answered with the bytes, with the cause of what it meets (a page of
another device is as unmapped; a die under reset is absent), or with 0xFE. -/
def clausesReadRequests : Prop :=
  ∀ (p : Packet) (n : Nat) (h : Home) (s : State),
    p.body = .read n .plain → Delivered s p 0 → 0 < n → p.addr.toNat % 65536 + n ≤ 65536 →
    let gives := fun (st : Byte) (bs : List Byte) => Answers (.read p) s fun s' => answered s' p st bs ∧ ∀ k, s'.byte k = s.byte k
    (p.addr.toNat + n ≤ 2 ^ 56 → EpMaps s p.addr true false h →
      (s.refusedAt h n = false → s.marked h.key n = false → gives 0 (s.getBytes h.key n)) ∧
      (s.refusedAt h n = true → gives 6 []) ∧ (s.refusedAt h n = false → s.marked h.key n = true → gives 0x13 [])) ∧
    (2 ^ 56 < p.addr.toNat + n → gives 4 []) ∧
    (p.addr.toNat + n ≤ 2 ^ 56 → s.translateAgent s.epart p.addr.toNat = .unmapped → gives 6 []) ∧
    (p.addr.toNat + n ≤ 2 ^ 56 → s.translateAgent s.epart p.addr.toNat = .onDemand → gives 0xFE []) ∧
    (∀ e size, p.addr.toNat + n ≤ 2 ^ 56 → s.translateAgent s.epart p.addr.toNat = .mapped e size →
      let place := pteHome e (sizeShift size) p.addr.toNat
      (place.isRemote = true → gives 6 []) ∧
      (place.isRemote = false → pteAllows e true false = false → gives 5 []) ∧
      (place.isRemote = false → pteAllows e true false = true → s.homeResets place = true → gives 0x12 []))

/-- R294: a WRITE of bytes in one page stands in memory and is answered with STATUS 0; one that its home refuses writes nothing. -/
def clausesWriteRequests : Prop :=
  ∀ (p : Packet) (bs : List Byte) (h : Home) (s : State),
    p.body = .write bs .plain → Delivered s p 2 → bs ≠ [] → p.addr.toNat % 65536 + bs.length ≤ 65536 → p.addr.toNat + bs.length ≤ 2 ^ 56 →
    EpMaps s p.addr false true h →
    (s.refusedAt h bs.length = false → Answers (.write p) s fun s' =>
      answered s' p 0 [] ∧ (∀ i b, bs[i]? = some b → s'.byte (h.key + i) = b) ∧
      ∀ k, (k < h.key ∨ h.key + bs.length ≤ k) → s'.byte k = s.byte k) ∧
    (s.refusedAt h bs.length = true → Answers (.write p) s fun s' => answered s' p 6 [] ∧ ∀ k, s'.byte k = s.byte k)

/-- R245, R246, R294: an ATOMIC performs its members in order on the value found, and is answered with that value; a HOST page refuses all
but ADD, XCHG and CAS. -/
def clausesAtomicRequests : Prop :=
  ∀ (p : Packet) (op : AtomOp) (wide : Bool) (xs : List (DWord × DWord)) (h : Home) (s : State),
    let n := if wide then 8 else 4
    let old := s.getBytes h.key n
    p.body = .atomic op wide xs → Delivered s p 3 → p.addr.toNat + n ≤ 2 ^ 56 → EpMaps s p.addr true true h →
    (h.isHost = false → s.refusedAt h n = false → s.marked h.key n = false → Answers (.atomic p) s fun s' =>
      answered s' p 0 old ∧ s'.getBytes h.key n = leBytes n (atomGroup op wide (BitVec.ofNat 64 (leNat old)) xs).2.toNat ∧
      ∀ k, (k < h.key ∨ h.key + n ≤ k) → s'.byte k = s.byte k) ∧
    (h.isHost = true → op ≠ .add → op ≠ .xchg → op ≠ .cas → Answers (.atomic p) s fun s' => answered s' p 5 [] ∧ ∀ k, s'.byte k = s.byte k)

/-- R315, R316: a SIGNAL of mode 0 stores its value at a slice word that no tagged word waits for, and fills the word's tag; at another home
it is answered with 0x18. -/
def clausesSignalRequests : Prop :=
  ∀ (p : Packet) (wide : Bool) (v : DWord) (h : Home) (s : State),
    let n := if wide then 8 else 4
    p.body = .signal 0 wide v → Delivered s p 4 → p.addr.toNat + n ≤ 2 ^ 56 → EpMaps s p.addr false true h →
    (h.isSlice = true → s.refusedAt h n = false → (∀ w ∈ s.tagWaits, w.key / 8 ≠ h.key / 8) → Answers (.signal p) s fun s' =>
      answered s' p 0 [] ∧ s'.tagAt h.key = true ∧ (∀ i b, (leBytes n v.toNat)[i]? = some b → s'.byte (h.key + i) = b) ∧
      ∀ k, byteKey k → (k < h.key ∨ h.key + n ≤ k) → s'.byte k = s.byte k) ∧
    (h.isSlice = false → Answers (.signal p) s fun s' => answered s' p 0x18 [] ∧ ∀ k, s'.byte k = s.byte k)

/-- R218, R295, R305: a WITHDRAW removes the tagged word that its request holds here and answers that request with 0xFD; one that finds none
changes no tagged word. An answered entry is replied to and leaves the open table. -/
def clausesWithdrawalsAndReplies : Prop :=
  (∀ (p : Packet) (s : State),
    let who := ReqOwner.peer p.src p.tag p.tier
    p.dst = s.devId → p.type = 8 → s.lodge.epst = 1 → s.lodge.opens.length < 32768 →
    ((∃ w ∈ s.tagWaits, w.who = who) → Answers (.withdraw p) s fun s' =>
      s'.tagWaits = s.tagWaits.filter (fun w => w.who != who) ∧
      ∀ o ∈ s.lodge.opens, o.pkt.src = p.src → o.pkt.tag = p.tag → o.pkt.tier = p.tier → o.ans = none → answered s' o.pkt 0xFD []) ∧
    ((∀ w ∈ s.tagWaits, w.who ≠ who) → Answers (.withdraw p) s fun s' => s'.tagWaits = s.tagWaits ∧ s'.lodge.opens = s.lodge.opens)) ∧
  ∀ (k : Nat) (o : OpenReq) (st : Byte) (data : List Byte) (s : State),
    (s.lodge.opens.filter (fun o => o.ans.isSome))[k]? = some o → o.ans = some (st, data) → Answers (.endpointReply k) s fun s' =>
      s'.lodge.opens = dropFirst o s.lodge.opens ∧
      ∃ q : Packet, q.src = s.devId ∧ q.dst = o.pkt.src ∧ q.type = 1 ∧ q.tier = o.pkt.tier ∧ q.tag = o.pkt.tag ∧ q.seq = o.pkt.seq ∧
        q.body = .reply st data ∧ sentOn s s' 6 q

/-- R299, R305, R306, R461: a REPLY whose TAG names an outstanding request ends it: it acknowledges an access, or gives a result its value or
cause; 0xFE makes the request wait to be sent again; a REPLY without a request is an orphan; ABSENT is cause 0x12. -/
def clausesRepliesArrive : Prop :=
  ∀ (p : Packet) (st : Byte) (data : List Byte) (s : State),
    p.dst = s.devId →
    (∀ e ∈ s.thr, e.2.fencing = none) → (∀ x ∈ s.lodge.outs, x.phase ≠ 1) →
    (∀ r t id addr, s.lodge.epst = 1 → s.lodge.outstanding p.tag p.tier = some r → r.owner = .ack t id addr →
      (p.type = 1 → p.body = .reply st data → st ≠ 0xFE → Answers (.reply p) s fun s' =>
        s'.lodge.outs = dropFirst r s.lodge.outs ∧
        (s'.thread t).acks = (s.thread t).acks.map (fun a =>
          if a.id = id then { a with ready := true, fail := if st = 0 then none else some (st, addr &&& ~~~31#64) } else a)) ∧
      (p.type = 7 → r.pkt.addr = p.addr → Answers (.absent p) s fun s' =>
        s'.lodge.outs = dropFirst r s.lodge.outs ∧
        (s'.thread t).acks = (s.thread t).acks.map (fun a =>
          if a.id = id then { a with ready := true, fail := some (0x12, addr &&& ~~~31#64) } else a)) ∧
      (p.type = 1 → p.body = .reply 0xFE data → Answers (.reply p) s fun s' =>
        s'.lodge.outs = dropFirst r s.lodge.outs ++ [{ r with phase := 2 }] ∧ (s'.thread t).acks = (s.thread t).acks)) ∧
    (∀ r t id n z o, s.lodge.epst = 1 → s.lodge.outstanding p.tag p.tier = some r → r.owner = .result t id n z → bodyWaits r.pkt.body = false →
      (s.thread t).out? id = some o → p.type = 1 → p.body = .reply st data → st ≠ 0xFE → Answers (.reply p) s fun s' =>
        (s'.thread t).outs = (s.thread t).outs.map (fun x =>
          if x.id = id then { x with res := some (if st = 0 then .val (szWords z (leNat (data.take n))) else .bad st) } else x)) ∧
    ((s.lodge.epst ≠ 1 ∨ s.lodge.outstanding p.tag p.tier = none) → p.type = 1 → p.body = .reply st data → Answers (.reply p) s fun s' =>
      s'.lodge.orphcnt = s.lodge.orphcnt + 1 ∧ s'.lodge.outs = s.lodge.outs ∧ s'.thr = s.thr)

/-- R292, R293, R298 to R300: a packet with a reserved TIER, TYPE or LEN is counted and dropped; a request whose way is down is answered with
ABSENT; any other goes on. A link that does not retrain is down with nothing waiting at it; one that has retrained carries what waited. A
request answered with 0xFE is sent again in a free slot. -/
def clausesTransitAndLinks : Prop :=
  (∀ (link : Fin 7) (p : Packet) (s : State),
    let lost := match s.route p.dst with | .here => false | .link k => s.lodge.isDown k | .down => true
    let reserved := p.tier = 0 ∨ 9 ≤ p.type.toNat ∨ 5 ≤ p.len.toNat
    (reserved → Answers (.transitPacket link p) s fun s' => s' = { s with lodge := { s.lodge with seqerr := s.lodge.seqerr + 1 } }) ∧
    (¬ reserved → lost = true → isRequest p.type = true → Answers (.transitPacket link p) s fun s' => sentOn s s' 6 (absentFor s.devId p)) ∧
    (¬ reserved → (lost = false ∨ isRequest p.type = false) → Answers (.transitPacket link p) s fun s' => sentOn s s' link.val p)) ∧
  (∀ (link : Fin 6) (s : State),
    Answers (.linkDown link) s (fun s' =>
      s'.lodge.isDown link.val = true ∧ s'.lodge.isUp link.val = false ∧ (s'.lodge.port link.val).waiting = []) ∧
    Answers (.linkUp link) s (fun s' =>
      s'.lodge.isUp link.val = true ∧ s'.lodge.isDown link.val = false ∧
      ((∀ e ∈ (s.lodge.port link.val).waiting, e.1 < 7 ∧ e.2.tier ≠ 0) →
        (s'.lodge.port link.val).waiting = [] ∧ ∀ e ∈ (s.lodge.port link.val).waiting, (link.val, e.2) ∈ s'.lodge.wire))) ∧
  ∀ (k slot : Nat) (r : OutReq) (t id : Nat) (addr : DWord) (s : State),
    (s.lodge.outs.filter (fun r => r.phase == 2))[k]? = some r → r.owner = .ack t id addr → s.lodge.epst = 1 →
    s.lodge.freeSlot r.pkt.tier = some slot → Answers (.resendTimer k) s fun s' =>
      let nth := r.pkt.dst.toNat * 4 + r.pkt.tier.toNat
      s'.lodge.outs = dropFirst r s.lodge.outs ++ [OutReq.mk slot r.owner { r.pkt with tag := s.lodge.tagOf slot } 0] ∧
      Tab.get 0 s'.lodge.seqTx nth = (Tab.get 0 s.lodge.seqTx nth + 1) % 65536

/-- A GANG or CIRCUIT packet reaches the ATTACHED endpoint, whose open table has a place (R305). -/
def Received (s : State) (p : Packet) (ty : BitVec 4) : Prop := p.dst = s.devId ∧ p.type = ty ∧ s.lodge.epst = 1 ∧ s.lodge.opens.length < 32768

/-- R326, R382: a gang is over, and its result stands at the word that waits for it. -/
def gangEnds (s s' : State) (g : Gang) (st : Byte) : Prop :=
  s'.gangs = dropFirst g s.gangs ∧
  (s'.thread g.tid).outs = (s.thread g.tid).outs.map (fun o =>
    if o.id = g.id then { o with res := some (.val (gangResult g.seq st)) } else o)

/-- R325 to R327, R382: an accepted LAUNCH becomes a launch of this device and is acknowledged, one whose sequence was aborted is not; the
last ACK within the window gives the initiator the result 0; ABORT flags the threads of the part and discards its undispatched workgroups; an
ABSENT that answers a LAUNCH, and a window that closes after WIN HK cycles, give the result 0x15. -/
def clausesGangs : Prop :=
  (∀ (p : Packet) (blk : List Byte) (kd : Kd) (s : State),
    p.body = .gang blk → gangKind p.addr = 0 → Received s p 6 → s.running = true → s.gangsIn = [] → s.gangVerdict blk = .ok kd →
    (s.gangAborted.contains (p.src.toNat, gangSeqOf p.addr) = false → Answers (.gangLaunch p) s fun s' =>
      (∃ l, s'.launches = s.launches ++ [l] ∧ l.kd = kd ∧ l.part = s.epart ∧ l.rcb = fieldAt blk 20 2 ∧ l.total = fieldAt blk 16 4 ∧
        l.next = 0 ∧ l.origin = .gang p.src.toNat (gangSeqOf p.addr) ∧ l.seed = BitVec.ofNat 32 (gangSeqOf p.addr)) ∧
      ∃ q : Packet, q.dst = p.src ∧ q.type = 6 ∧ q.tier = 1 ∧ q.addr = gangAddr 1 (gangSeqOf p.addr) ∧ sentOn s s' 6 q) ∧
    (s.gangAborted.contains (p.src.toNat, gangSeqOf p.addr) = true → Answers (.gangLaunch p) s fun s' => s'.launches = s.launches)) ∧
  (∀ (p : Packet) (g : Gang) (s : State),
    gangKind p.addr = 1 → Received s p 6 → s.gangs.find? (fun g => g.seq == gangSeqOf p.addr && decide (g.elapsed < g.win)) = some g →
    p.src.toNat ∈ g.devs → p.src.toNat ∉ g.acked →
    ((∀ d ∈ g.devs, d = p.src.toNat ∨ d ∈ g.acked) → Answers (.gangAck p) s fun s' => gangEnds s s' g 0) ∧
    (∀ d ∈ g.devs, d ≠ p.src.toNat → d ∉ g.acked → Answers (.gangAck p) s fun s' =>
      { g with acked := g.acked ++ [p.src.toNat] } ∈ s'.gangs ∧ s'.thr = s.thr)) ∧
  (∀ (p : Packet) (s : State),
    gangKind p.addr = 1 → Received s p 6 → (∀ g ∈ s.gangs, g.seq = gangSeqOf p.addr → g.win ≤ g.elapsed) → Answers (.gangAck p) s fun s' =>
      s'.gangs = s.gangs ∧ s'.thr = s.thr) ∧
  (∀ (p : Packet) (g : Gang) (s : State),
    p.dst = s.devId → p.type = 7 → p.tier = 1 → p.tag = 0 → gangKind p.addr = 0 → s.lodge.epst = 1 →
    s.lodge.outstanding p.tag p.tier = none → s.gangs.find? (fun g => gangAddr 0 g.seq == p.addr) = some g → Answers (.absent p) s fun s' =>
      gangEnds s s' g 0x15) ∧
  (∀ (p : Packet) (s : State),
    let q := gangSeqOf p.addr
    gangKind p.addr = 2 → Received s p 6 →
    (∀ l, s.launches.find? (fun l => l.origin == .gang p.src.toNat q) = some l → l.freed ≠ l.next → Answers (.gangAbort p) s fun s' =>
      (p.src.toNat, q) ∈ s'.gangAborted ∧ (∀ t ∈ s.launchThreads l.lid, (s'.thread t).gangAbort = true) ∧
      ∀ m ∈ s'.launches, m.lid = l.lid → m.total = m.next) ∧
    ((∀ l ∈ s.launches, l.origin ≠ .gang p.src.toNat q) → Answers (.gangAbort p) s fun s' =>
      (p.src.toNat, q) ∈ s'.gangAborted ∧ s'.launches = s.launches)) ∧
  ∀ (seq : Word) (g : Gang) (s : State),
    s.gangs.find? (fun g => g.seq == seq.toNat) = some g →
    (g.win ≤ g.elapsed → Answers (.gangWindowClose seq) s fun s' => gangEnds s s' g 0x15) ∧
    (g.elapsed < g.win → Answers (.gangWindowClose seq) s fun s' => s' = s)

/-- R334, R335, R341, R359: a GRANT moves its ASKED entry to GRANTED, or to REFUSED with its result; a MSG joins the 16 that a context's queue
holds or is dropped and counted; a CIRCUIT packet of another kind is counted. -/
def clausesCircuitPackets : Prop :=
  (∀ (p : Packet) (q slot : Nat) (s : State),
    let v := p.addr.toNat
    let result := v / 2 ^ 48 % 256
    p.addr.extractLsb' 60 4 = 2 → Received s p 5 → v / 65536 % 65536 = 0 → s.askedEntry (v % 65536) = some (q, slot) →
    (result ≠ 0 → Answers (.grant p) s fun s' =>
      let e := (s'.optPort q).entry slot
      e.st = 3 ∧ e.res.toNat = result ∧ e.swt = v / 2 ^ 32 % 65536 ∧ e.reqId = ((s.optPort q).entry slot).reqId) ∧
    (result = 0 → slot = 0 → Answers (.grant p) s fun s' =>
      let e := (s'.optPort q).entry slot
      e.st = 2 ∧ e.swt = v / 2 ^ 32 % 65536 ∧ (s'.optPort q).peer = some ((s.optPort q).entry slot).peer)) ∧
  ∀ (p : Packet) (s : State),
    let v := p.addr.toNat
    let k := v / 2 ^ 57 % 8
    Received s p 5 →
    (p.addr.extractLsb' 60 4 = 5 → v / 2 ^ 48 % 512 = 0 → (s.cx k).msgs.length < 16 → Answers (.msg p) s fun s' =>
      (s'.cx k).msgs = (s.cx k).msgs ++ [(p.src, p.addr.extractLsb' 0 48)] ∧ s'.cp.msgdrop = s.cp.msgdrop) ∧
    (p.addr.extractLsb' 60 4 = 5 → v / 2 ^ 48 % 512 = 0 → 16 ≤ (s.cx k).msgs.length → Answers (.msg p) s fun s' =>
      (s'.cx k).msgs = (s.cx k).msgs ∧ s'.cp.msgdrop = s.cp.msgdrop + 1) ∧
    (p.addr.extractLsb' 60 4 ≠ 5 → p.addr.extractLsb' 60 4 ≠ 2 → Answers (.msg p) s fun s' => s'.cp.badmsg = s.cp.badmsg + 1 ∧ ∀ k, s'.cx k = s.cx k)

/-- R218, R292 to R295, R298 to R300, R305, R306, R315, R325 to R327, R334, R335, R359, R382: what packets do that arrive for this device or
pass through it, and which leave it. Inferences and choices of the model: log entries 11, 15, 29 and 40. -/
def Obligations.PacketsArriveAndLeave : Prop :=
  clausesReadRequests ∧ clausesWriteRequests ∧ clausesAtomicRequests ∧ clausesSignalRequests ∧ clausesWithdrawalsAndReplies ∧
  clausesRepliesArrive ∧ clausesTransitAndLinks ∧ clausesGangs ∧ clausesCircuitPackets


/-! ## HK2's pages, the copy engines and the collective engines at work -/

/-- R217: a refused tagged word is sent again: held while its core's unit holds fewer than 256, else refused once more; one whose condition
holds is served. -/
def clausesTaggedWordsAreSentAgain : Prop :=
  ∀ (s : State) (x : TagWait) (xs : List TagWait), s.tagWaits = x :: xs → x.phase = 2 → s.refusedAt x.home x.n = false →
    let held := (xs.filter (fun y => y.phase == 1 && y.key / sliceBytes == x.key / sliceBytes)).length
    ((x.kind = 2 ∧ s.tagAt x.key = true) ∨ (x.kind ≠ 2 ∧ s.tagAt x.key = false) →
      (held < 256 → Answers (.taggedWordResend 0) s fun s' => s' = { s with tagWaits := xs ++ [{ x with phase := 1 }] }) ∧
      (256 ≤ held → Answers (.taggedWordResend 0) s fun s' => s' = { s with tagWaits := xs ++ [{ x with phase := 2 }] })) ∧
    (∀ src tag tier o, x.who = .peer src tag tier → x.kind = 0 → s.tagAt x.key = true → s.marked x.key x.n = false → o ∈ s.lodge.opens →
      o.pkt.src = src → o.pkt.tag = tag → o.pkt.tier = tier → o.ans = none → Answers (.taggedWordResend 0) s fun s' =>
        s'.tagWaits = xs ∧ answered s' o.pkt 0 (leBytes x.n (leNat (s.getBytes x.key x.n))) ∧ s'.tagAt x.key = true ∧ ∀ k, s'.byte k = s.byte k)

/-- R210, R405, R406: HK2 fills an on-demand page and maps it where its answer says, or makes it not present; the threads that wait for the
page go on and its notices are gone. No write of a housekeeping core waits for the page here. -/
def clausesOnDemandPagesAreFilled : Prop :=
  ∀ (part : Fin 8) (va : DWord) (ans : Option PageFill) (s : State) (pa size : Nat) (e : BitVec 128),
    let a := va.toNat % 2 ^ 56
    let k := (Home.outer pa).key
    let e' := match ans with | none => pteSet e 2 1 0 | some pf => pteTo e pf
    s.pteSpot part.val a = some (pa, e, size) → e.getLsbD 1 = false → e.getLsbD 2 = true → s.pageSaved part.val a size = false →
    (∀ w ∈ s.dev.stores, ¬ (w.part = part.val ∧ samePage size a w.va = true)) →
      Answers (.onDemandFill part va ans) s fun s' =>
        s'.getBytes k 16 = leBytes 16 e'.toNat ∧
        (∀ t v, (s.thread t).park = .page v → samePage size a v = true → (s.warpOfThread t).part = part.val → (s'.thread t).park = .none) ∧
        (∀ n ∈ s'.dev.notices, ¬ (n.1 = part.val ∧ samePage size a n.2 = true)) ∧
        ∀ pf, ans = some pf → ((bytesWithin pf size).map Prod.fst).Nodup → (pageHome e' size a).isRemote = false →
          ∀ b ∈ bytesWithin pf size, let j := (pageHome e' size a).key + b.1
            (j < k ∨ k + 16 ≤ j) → s'.byte j = b.2

/-- R208, R215: a mapped page with MIG = 1 and PIN = 0 starts to move: it is made on-demand; with MVC at 3 PIN is set instead. While an access
uses the old entry the move waits; then the page's bytes go to the new place; once they are there the entry names the new place, MVC counts one
more, and the threads that wait for the page go on. -/
def clausesPagesMove : Prop :=
  (∀ (part : Fin 8) (va : DWord) (pf : PageFill) (s : State) (pa size : Nat) (e : BitVec 128),
    let a := va.toNat % 2 ^ 56
    let k := (Home.outer pa).key
    s.moveOf part.val a = none → s.pteSpot part.val a = some (pa, e, size) → e.getLsbD 1 = true → pteField e 13 1 = 1 → pteField e 64 1 = 0 →
    (pteField e 14 2 = 3 → Answers (.pageMove part va pf) s fun s' =>
      s'.getBytes k 16 = leBytes 16 (pteSet e 64 1 1).toNat ∧ ∀ j, (j < k ∨ k + 16 ≤ j) → s'.byte j = s.byte j) ∧
    (pteField e 14 2 < 3 → Answers (.pageMove part va pf) s fun s' =>
      s'.getBytes k 16 = leBytes 16 (pteOnDemand e).toNat ∧
      ∃ m ∈ s'.dev.moves, m.part = part.val ∧ m.size = size ∧ m.vpn = a / 2 ^ sizeShift size ∧ m.old = e ∧ m.pf = pf ∧ m.copied = false)) ∧
  ∀ (part : Fin 8) (va : DWord) (pf : PageFill) (s : State) (m : PageMove),
    s.moveOf part.val (va.toNat % 2 ^ 56) = some m →
    (s.stillUses m.old m.size m.va = true → Answers (.pageMove part va pf) s fun s' => s' = s) ∧
    (s.stillUses m.old m.size m.va = false → m.copied = false → Answers (.pageMove part va pf) s fun s' =>
      (∀ x ∈ s'.dev.moves, x.id = m.id → x.copied = true) ∧
      ∀ d1 p1 d2 p2, d1 < 8 → d2 < 8 → pageHome m.old m.size m.va = .stacked d1 p1 → pageHome m.entry m.size m.va = .stacked d2 p2 →
        Memory.wf s.mem = true → ∀ i, i < 2 ^ sizeShift m.size →
          s'.byte ((Home.stacked d2 p2).key + i) = s.byte ((Home.stacked d1 p1).key + i)) ∧
    ∀ pa e size, s.stillUses m.old m.size m.va = false → m.copied = true → (∀ r ∈ s.lodge.outs, r.owner ≠ .move m.id) →
      s.pteSpot m.part m.va = some (pa, e, size) →
      (∀ w ∈ s.dev.stores, ¬ (w.part = m.part ∧ samePage m.size m.va w.va = true)) → Answers (.pageMove part va pf) s fun s' =>
        s'.getBytes (Home.outer pa).key 16 = leBytes 16 m.entry.toNat ∧ pteField m.entry 14 2 = (pteField m.old 14 2 + 1) % 4 ∧
        (∀ x ∈ s'.dev.moves, x.id ≠ m.id) ∧
        ∀ t v, (s.thread t).park = .page v → samePage m.size m.va v = true → (s.warpOfThread t).part = m.part → (s'.thread t).park = .none

/-- R206: a resize begins with an empty new table, moves one old index a step, an entry to its own way's place when that is free, and ends with
the new table as the one in use. (A step that has no place for an entry does nothing: the model's choice, log entry 44.) -/
def clausesTablesAreResized : Prop :=
  ∀ (part : Fin 8) (size : Fin 3) (nbase : BitVec 52) (nn : BitVec 6) (s : State),
    let d := (s.part part.val).descOf size.val
    let b := nbase.toNat
    let n := nn.toNat
    let after := fun (s' : State) => (s'.part part.val).descOf size.val
    (d.rsz = false → 8 ≤ n → n ≤ 30 → b % 4096 = 0 → b + tableBytes n ≤ 2 ^ 40 →
      (b + tableBytes n ≤ d.obase ∨ d.obase + tableBytes d.on ≤ b) → Answers (.tableResize part size nbase nn) s fun s' =>
        after s' = { d with rsz := true, nn := n, nbase := b, migptr := 0 } ∧
        (∀ i, i < tableBytes n → s'.byte ((Home.outer b).key + i) = 0) ∧
        ∀ k, (k < (Home.outer b).key ∨ (Home.outer b).key + tableBytes n ≤ k) → s'.byte k = s.byte k) ∧
    (d.rsz = true → d.nbase = b → d.nn = n → d.migptr < 2 ^ d.on →
      let d1 := { d with migptr := d.migptr + 1 }
      let old := fun (j : Nat) => d.obase + 16 * (j * 2 ^ d.on + d.migptr)
      ((s.migrateIndex d1 size.val d.migptr).isSome = true → Answers (.tableResize part size nbase nn) s fun s' => after s' = d1) ∧
      ((s.migrateIndex d1 size.val d.migptr).isNone = true → Answers (.tableResize part size nbase nn) s fun s' => s' = s) ∧
      ∀ j, j < 3 →
        let e := s.pteAt (old j)
        let place := d1.entryAt j (pteVpn e size.val)
        e.getLsbD 0 = true → (s.pteAt place).getLsbD 0 = false →
        (∀ k, k < 3 → k ≠ j → (s.pteAt (old k)).getLsbD 0 = false ∧ (place + 16 ≤ old k ∨ old k + 16 ≤ place)) →
        Answers (.tableResize part size nbase nn) s fun s' => after s' = d1 ∧ s'.pteAt place = e) ∧
    (d.rsz = true → d.nbase = b → d.nn = n → 2 ^ d.on ≤ d.migptr → Answers (.tableResize part size nbase nn) s fun s' =>
      after s' = { d with obase := b, on := n, rsz := false, migptr := 0 } ∧ ∀ k, s'.byte k = s.byte k)

/-- A queue of a copy engine holds a command, the only one with its identity. -/
def InQueue (s : State) (e q : Nat) (c : CopyCmd) : Prop :=
  c ∈ (s.engine e).queue q ∧ ((s.engine e).queue q).filter (fun d => d.id == c.id) = [c]

/-- R269, R277, R278, R285, R310, R313: the next command of a queue that nothing holds starts when the hazard table lets it, and waits otherwise;
one of length 0 is over at once; a PUTC waits for its circuit; a tensor's descriptor is read first; a chain starts with its first record. -/
def clausesCopyCommandsStart : Prop :=
  ∀ (eng : Fin 32) (q : Fin 8) (c : CopyCmd) (s : State),
    let now := fun (c' : CopyCmd) => Answers (.copyCommandStart eng q) s fun s' => c' ∈ (s'.engine eng.val).queue q.val
    nextToStart ((s.engine eng.val).queue q.val) = some c → InQueue s eng.val q.val c → s.enginesRun = true → c.after = [] → c.stalled = none →
    c.flight = [] → s.queueHeld eng.val q.val = false →
    (c.chain = none → c.x.kind = .cpy ∨ c.x.kind = .gather ∨ c.x.kind = .scatter ∨ c.x.kind = .put ∨ c.x.kind = .get →
      (s.hazardFree eng.val c = true → c.x.len ≠ 0 →
        now { c with started := true, going := true, off := 0, counted := 0, cntDone := false, readDone := false }) ∧
      (s.hazardFree eng.val c = false → c.x.len ≠ 0 → now { c with started := true })) ∧
    (c.chain = none → c.x.kind = .cpy ∨ c.x.kind = .put ∨ c.x.kind = .putc ∨ c.x.kind = .get → c.x.len = 0 → c.bursts = [] → c.x.be = false →
      now { c with started := true, readDone := true, counted := 0, finished := true }) ∧
    (c.chain = none → c.x.kind = .putc → c.x.len ≠ 0 → s.circuitOf eng.val q.val = none → now { c with started := true }) ∧
    (∀ bs, c.chain = none → c.x.kind = .tld ∨ c.x.kind = .tst → c.x.ready = false → s.structRead c c.x.src = .bytes bs → descCause bs = none →
      now { c with started := true, x := c.x.withDesc bs }) ∧
    (c.chain.isSome = true → c.inRecord = false → now { c with started := true })

/-- R269, R271: the queue whose turn it is moves a burst. One of a CPY moves up to 256 bytes within a core's slice, and leaves every other byte and the order of the bytes as they
were; the command goes on behind them, or is finished with the last. A burst that lies in one sector on both sides does so between any pages
of this device. -/
def clausesBurstsMoveBytes : Prop :=
  ∀ (eng : Fin 34) (q : Fin 8) (c : CopyCmd) (s : State),
    let x := c.x
    let n := min 256 (x.len - c.off)
    let moves := fun (a b : Nat) => Answers (.engineBurst eng q) s fun s' =>
      (∀ i, i < n → s'.byte (b + i) = s.byte (a + i)) ∧ (∀ k, (k < b ∨ b + n ≤ k) → s'.byte k = s.byte k) ∧
      ∃ c' ∈ (s'.engine eng.val).queue q.val, c'.id = c.id ∧ c'.off = c.off + n ∧ c'.err = c.err ∧ (c'.finished = true ↔ x.len ≤ c.off + n)
    eng.val < 32 → s.enginesRun = true → s.nextQueue eng.val = some q.val → ((s.engine eng.val).queue q.val).find? (s.canBurst eng.val q.val) = some c →
    InQueue s eng.val q.val c → x.kind = .cpy → x.be = false → x.fill = false → c.bursts = [] → c.flight = [] → c.chain = none →
    c.off < x.len →
    (∀ (a b : Nat), c.hasSlice = true → x.src = BitVec.ofNat 64 (0xFF00000000000000 + a) → x.dst = BitVec.ofNat 64 (0xFF00000000000000 + b) →
      a + x.len + (s.coreAt c.core).carve ≤ sliceBytes → b + x.len + (s.coreAt c.core).carve ≤ sliceBytes → (a + x.len ≤ b ∨ b + x.len ≤ a) →
      s.marked (c.core * sliceBytes + a) x.len = false → moves (c.core * sliceBytes + a + c.off) (c.core * sliceBytes + b + c.off)) ∧
    (∀ (p r : Place), let a := x.src + BitVec.ofNat 64 c.off
      let b := x.dst + BitVec.ofNat 64 c.off
      a.toNat % 32 + n ≤ 32 → b.toNat % 32 + n ≤ 32 → s.cmdPlace c a n true false = .place p → s.cmdPlace c b n false true = .place r →
      p.home.isRemote = false → r.home.isRemote = false → s.refusedAt p.home n = false → s.marked p.home.key n = false →
      s.refusedAt r.home n = false → moves p.home.key r.home.key)

/-- R283, R284: a chain's record without OWN ends the chain; a good one gives the chain its next transfer; a bad one gets OWN 0 and its cause in
STATUS, its other bits as they were, and the chain stops. -/
def clausesChainRecordsAreRead : Prop :=
  ∀ (eng : Fin 32) (q : Fin 8) (c : CopyCmd) (at_ : DWord) (bs : List Byte) (s : State),
    let nbar := match c.owner with | .token lid _ _ _ => s.nbar lid | _ => 0
    let x := (recordXfer bs).1
    let bad := if (recordXfer bs).2 = false then some 2 else x.check (s.coreAt c.core).carve nbar (ccwOk (BitVec.ofNat 32 (fieldAt bs 4 4)))
    (s.engine eng.val).queue q.val = [c] → c.chain = some at_ → c.started = true → c.inRecord = false → c.readDone = false → c.finished = false →
    c.stalled = none → c.flight = [] → c.bursts = [] → s.queueHeld eng.val q.val = false → s.enginesRun = true → s.structRead c at_ = .bytes bs →
    (fieldAt bs 0 1 % 2 = 0 → Answers (.chainRecord eng q) s fun s' =>
      (s'.engine eng.val).queue q.val = [{ c with readDone := true, finished := true }]) ∧
    (fieldAt bs 0 1 % 2 = 1 → bad = none → Answers (.chainRecord eng q) s fun s' =>
      (s'.engine eng.val).queue q.val = [{ c with inRecord := true, x := x, nextRec := dwordAt bs 8, rec0 := BitVec.ofNat 8 (fieldAt bs 0 1), off := 0,
                                                  counted := 0, cntDone := false, readDone := false, going := false, stopAt := 0 }]) ∧
    (∀ cause p, fieldAt bs 0 1 % 2 = 1 → bad = some cause → x.be = false → c.err = 0 → cause ≠ 0 → s.cmdPlace c at_ 2 false true = .place p →
      p.home.isRemote = false → s.refusedAt p.home 2 = false → Answers (.chainRecord eng q) s fun s' =>
        s'.getBytes p.home.key 2 = [BitVec.ofNat 8 (fieldAt bs 0 1) &&& 0xFE, cause] ∧
        (∀ k, (k < p.home.key ∨ p.home.key + 2 ≤ k) → s'.byte k = s.byte k) ∧
        ∃ c', (s'.engine eng.val).queue q.val = [c'] ∧ c'.id = c.id ∧ c'.finished = true ∧ c'.err = cause)

/-- The token of a command's owner falls by one and keeps the first error (R271). -/
def tokenFalls (s s' : State) (o : Owner) (err : Byte) : Prop :=
  ∀ lid g widx tok w l, o = .token lid g widx tok → s.wg? lid g = some w → w.isSaved = false → s.launch? lid = some l →
    let t := s.tokenAt lid g widx tok
    s'.tokenAt lid g widx tok = { out := t.out - 1, err := if t.err = 0 then err else t.err }

/-- R271, R286, R376: HK2's answer lets a stalled command go on at the same offset, or stops it with 0x06; the oldest finished command of a
queue leaves it and completes on its token or its ring. -/
def clausesCopyFaultsAndCompletion : Prop :=
  (∀ (eng : Fin 34) (q : Fin 8) (c : CopyCmd) (va : DWord) (w : Bool) (s : State),
    eng.val < 32 → (s.engine eng.val).queue q.val = [c] → c.stalled = some (va, w) →
    (∀ e size, s.translateAgent c.part va.toNat = .mapped e size → pteAllows e (!w) w = true → c.readDone = false → c.bursts = [] →
      Answers (.copyFaultAnswer eng q) s fun s' => (s'.engine eng.val).queue q.val = [{ c with stalled := none }]) ∧
    (s.translateAgent c.part va.toNat = .unmapped → c.err = 0 → c.flight = [] → c.bursts = [] → c.chain = none → c.finished = false →
      c.x.be = false →
      Answers (.copyFaultAnswer eng q) s fun s' =>
        ∃ c', (s'.engine eng.val).queue q.val = [c'] ∧ c'.id = c.id ∧ c'.err = 6 ∧ c'.finished = true ∧ c'.stalled = none)) ∧
  (∀ (eng : Fin 34) (q : Fin 8) (c : CollCmd) (va : DWord) (w : Bool) (e : BitVec 128) (size : Nat) (s : State),
    32 ≤ eng.val → ((s.collEng (eng.val - 32)).queue q.val).head? = some c → c.stalled = some (va, w) →
    s.translateAgent c.part va.toNat = .mapped e size → pteAllows e (!w) w = true → Answers (.copyFaultAnswer eng q) s fun s' =>
      ((s'.collEng (eng.val - 32)).queue q.val).head? = some { c with stalled := none }) ∧
  ∀ (eng : Fin 32) (q : Fin 8) (c : CopyCmd) (s : State),
    ((s.engine eng.val).queue q.val).find? (fun c => c.finished) = some c → Answers (.copyComplete eng q) s fun s' =>
      (s'.engine eng.val).queue q.val = ((s.engine eng.val).queue q.val).filter (fun d => d.id != c.id) ∧ tokenFalls s s' c.owner c.err ∧
      ∀ n i, c.owner = .host n i → ∀ a ∈ (s'.ring n).act, a.idx ≠ i

/-- R317, R318, R322: the head of a collective queue whose descriptor cannot be read, or breaks a rule, stops with its cause; one whose
descriptor, tables and buffers are good exchanges its messages. -/
def clausesCollectivesStart : Prop :=
  ∀ (eng : Fin 2) (q : Fin 8) (c : CollCmd) (bs : List Byte) (s : State),
    let e := eng.val
    let d := CollDesc.decode bs
    let carve := (s.coreAt c.core).carve
    let stops := fun (cause : Byte) => Answers (.collStart eng q) s fun s' =>
      ∃ c', ((s'.collEng e).queue q.val).head? = some c' ∧ c'.id = c.id ∧ c'.stopped = true ∧ c'.err = cause ∧ c'.tx = []
    ((s.collEng e).queue q.val).head? = some c → s.enginesRun = true → c.after = [] → c.phase = .waiting → c.stopped = false → c.statDone = false →
    c.stalled = none → c.away = 0 → c.err = 0 →
    (∀ x : Byte, x ≠ 0 → s.farRead c.reader c.addr 128 = .bad x → stops x) ∧
    (s.farRead c.reader c.addr 128 = .bytes bs →
      (d.fieldsOk c.op bs = false → stops 2) ∧ (d.fieldsOk c.op bs = true → d.aligned = false → stops 3) ∧
      (d.fieldsOk c.op bs = true → d.aligned = true → d.tablesIn carve c.op = false → stops 4) ∧
      (∀ (gb cb : List Byte),
        let ranks := tableOf gb 2 d.np
        let counts := tableOf cb 4 (d.nCounts c.op)
        let p := collPlan c.op d.np d.rank d.root counts []
        let sn := p.slen * d.esize
        let rn := p.rlen * d.esize
        let rows := (sn = 0 ∨ rowOk carve true d.sbuf.toNat sn = true) ∧ (rn = 0 ∨ rowOk carve true d.rbuf.toNat rn = true)
        let apart := sn = 0 ∨ rn = 0 ∨ d.rbuf.toNat + rn ≤ d.sbuf.toNat ∨ d.sbuf.toNat + sn ≤ d.rbuf.toNat
        let good := distinct ranks = true ∧ ∀ r ∈ ranks, r < 4096
        c.op ≠ 4 → d.fieldsOk c.op bs = true → d.aligned = true → d.tablesIn carve c.op = true → s.farRead c.reader d.grp (2 * d.np) = .bytes gb →
        (¬ good → stops 2) ∧
        (good → s.farRead c.reader d.cnts (4 * d.nCounts c.op) = .bytes cb →
          (¬ rows → stops 4) ∧ (rows → ¬ apart → stops 2) ∧ (rows → apart → (s.collEng e).aborts.contains d.cid = true → stops 0x12) ∧
          ∀ wb, rows → apart → (s.collEng e).aborts.contains d.cid = false → s.farRead c.reader d.seqw (if d.seqw = 0 then 0 else 8) = .bytes wb →
            (∀ b ∈ (s.collEng e).staged, b.1.cid ≠ d.cid) → Answers (.collStart eng q) s fun s' =>
              ∃ c', ((s'.collEng e).queue q.val).head? = some c' ∧ c'.id = c.id ∧ c'.phase = .running ∧ c'.d = d ∧ c'.ranks = ranks ∧
                c'.counts = counts ∧ c'.stamp = BitVec.ofNat 64 (leNat wb) ∧ c'.tx = c'.messages e)))

/-- R271, R323, R324: a collective whose TMO has run out stops with 0x12; one that has exchanged everything, or stopped, writes STAT where its
descriptor lies on this device, leaves its queue and completes on its token. -/
def clausesCollectivesEnd : Prop :=
  ∀ (eng : Fin 2) (q : Fin 8) (c : CollCmd) (s : State),
    let e := eng.val
    ((s.collEng e).queue q.val).head? = some c →
    (c.known = true → c.d.tmo ≠ 0 → c.stopped = false → c.statDone = false → c.err = 0 → Answers (.collTimeout eng q) s fun s' =>
      ∃ c', ((s'.collEng e).queue q.val).head? = some c' ∧ c'.id = c.id ∧ c'.stopped = true ∧ c'.stalled = none ∧ c'.err = 0x12 ∧ c'.tx = [] ∧
        c'.writes = []) ∧
    (c.exchanged = true → c.statDone = true → Answers (.collComplete eng q) s fun s' =>
      (s'.collEng e).queue q.val = ((s.collEng e).queue q.val).filter (fun d => d.id != c.id) ∧ tokenFalls s s' c.owner c.err) ∧
    (∀ p, c.exchanged = true → c.statDone = false → s.collPlace c (c.addr + 120) 8 false true = .place p → p.home.isRemote = false →
      s.refusedAt p.home 8 = false → (∀ n i : Nat, c.owner ≠ .host n i) → Answers (.collComplete eng q) s fun s' =>
        (s'.collEng e).queue q.val = ((s.collEng e).queue q.val).filter (fun d => d.id != c.id) ∧
        ((∀ x ∈ s.wgs, x.isSaved = false) → s'.getBytes p.home.key 8 = leBytes 8 c.stat ∧ tokenFalls s s' c.owner c.err))

/-- R205, R206, R210, R215, R217, R269, R271, R278, R283 to R286, R317, R318, R322 to R324, R376: what HK2, the tag units, the copy engines and
the collective engines do on their own. Inferences and choices of the model: log entries 27 and 28. -/
def Obligations.PagesAndEnginesWork : Prop :=
  clausesTaggedWordsAreSentAgain ∧ clausesOnDemandPagesAreFilled ∧ clausesPagesMove ∧ clausesTablesAreResized ∧ clausesCopyCommandsStart ∧
  clausesBurstsMoveBytes ∧ clausesChainRecordsAreRead ∧ clausesCopyFaultsAndCompletion ∧ clausesCollectivesStart ∧ clausesCollectivesEnd


/-! ## What happens to ports, rotations and waiting contexts -/

/-- A context goes on at the next word with new values in some registers; no other register of it changes. -/
def contextGoesOn (s s' : State) (k : Nat) (new : Nat → DWord) : Prop :=
  (s'.cx k).st = 1 ∧ (s'.cx k).pc = ((s.cx k).pc + 4) % 65536 ∧ (s'.cx k).wait = .none ∧ ∀ n, 0 < n → n < 16 → (s'.cx k).reg n = new n

/-- R331 to R333: the laser of a port that is on becomes ready; a LOCKING port with laser, light and a peer is TRAINED and its peer enters
the phase cache of 64, or times out into FAULT; a port without light is no more TRAINED or LIVE. -/
def clausesPortsLockAndLoseLight : Prop :=
  ∀ (port : Fin 16) (s : State),
    let p := port.val
    let x := s.optPort p
    (x.st ≠ 0 → Answers (.laserReady port) s fun s' => s'.optPort p = { x with laser := true } ∧ otherPortsKept s s' p) ∧
    (x.st = 0 → Answers (.laserReady port) s fun s' => s'.optPort p = x ∧ otherPortsKept s s' p) ∧
    (∀ d q w, x.st = 1 → x.laser = true → x.light = true → x.peer = some (d, q, w) → Answers (.lockComplete port) s fun s' =>
      (s'.optPort p).st = 2 ∧ (s'.optPort p).peer = x.peer ∧ (d, q) ∈ (s'.optPort p).cache ∧ (s'.optPort p).cache.length ≤ 64 ∧
      otherPortsKept s s' p) ∧
    (x.st = 1 → x.light = true → x.peer.isSome = true → Answers (.lockTimeout port) s fun s' =>
      s'.optPort p = { x with st := 4 } ∧ otherPortsKept s s' p) ∧
    Answers (.lossOfLight port) s (fun s' =>
      s'.optPort p = { x with light := false, window := false, st := if x.st = 2 ∨ x.st = 3 then 1 else x.st } ∧ otherPortsKept s s' p) ∧
    (x.owner = none → ∀ t, Answers (.lightArrival port t) s fun s' => s'.optPort p = { x with light := true } ∧ otherPortsKept s s' p)

/-- R331, R346, R353: a TRAINED port whose peer answers with the expected device, port and SSEQ is LIVE, another is in FAULT, and the CWAITs
on it end with that outcome. -/
def clausesPortsShakeHands : Prop :=
  ∀ (port : Fin 16) (dev : BitVec 12) (pp : BitVec 4) (sseq : BitVec 16) (d : BitVec 12) (q : BitVec 4) (w : BitVec 2) (s : State),
    let p := port.val
    let x := s.optPort p
    let agrees := d = dev ∧ q = pp ∧ sseq.toNat = s.portSseq p
    x.st = 2 → x.peer = some (d, q, w) →
    (agrees → Answers (.handshake port dev pp sseq) s fun s' => s'.optPort p = { x with st := 3 } ∧ otherPortsKept s s' p) ∧
    (¬ agrees → Answers (.handshake port dev pp sseq) s fun s' => s'.optPort p = { x with st := 4 } ∧ otherPortsKept s s' p ∧
      ∀ (k tmo : Nat) (r : BitVec 4) (spec : DWord), k < 8 → (s.cx k).wait = .cwait r spec tmo → spec.toNat % 16 = p → spec.toNat / 16 % 16 = 0 →
        (x.entry 0).st ≠ 3 → contextGoesOn s s' k (fun n => if n = r.toNat then portWordOf s' p 0 2 else (s.cx k).reg n))

/-- R342, R345, R356, R357: the start event of an armed rotation starts it in slot 1; a boundary enters the next slot, with the peer of its
entry and a closed window on every port, or takes a stop that is due. -/
def clausesRotationsTurn : Prop :=
  ∀ (cx : Fin 8) (s : State),
    let k := cx.val
    let r := (s.cx k).rot
    let wrap := r.ns ≤ r.s
    let k1 := if wrap then r.k + 1 else r.k
    let s1 := if wrap then 1 else r.s + 1
    let stops := r.stop = 1 ∨ wrap ∧ (r.stop = 2 ∨ r.reps ≠ 0 ∧ k1 = r.reps)
    (∀ t, r.st = 2 → r.start.kind = 4 → Answers (.rotationStart cx t) s fun s' =>
      let r' := (s'.cx k).rot
      r'.st = 3 ∧ r'.s = 1 ∧ r'.k = 0 ∧ r'.b = t ∧ r'.ns = r.ns ∧ r'.len = r.len) ∧
    (r.st = 3 → ¬ stops → Answers (.slotBoundary cx) s fun s' =>
      (s'.cx k).rot = { r with s := s1, k := k1, b := r.b + ((r.len[r.s - 1]?).getD 0 : Nat) } ∧
      ∀ p ∈ s.rotationPorts k, (s'.optPort p).window = false ∧ (s'.optPort p).peer = (s.optPort p).slotPeer s1 ∧
        (s'.optPort p).entries = (s.optPort p).entries) ∧
    (r.st = 3 → stops → Answers (.slotBoundary cx) s fun s' =>
      (s'.cx k).rot.st = 1 ∧ (s'.cx k).rot.s = 0 ∧ ∀ p ∈ s.rotationPorts k, (s'.optPort p).peer = none ∧
        (s'.optPort p).entries = (s.optPort p).entries)

/-- R330, R344, R345: the window of a rotation port opens while it is LIVE with its slot's peer, and closes; a frame is dropped and counted
when the port is not LIVE or SSEQ differs, and is else written and acknowledged on the packet plane. -/
def clausesWindowsAndFrames : Prop :=
  (∀ (port : Fin 16) (r : Rotation) (s : State),
    let p := port.val
    let x := s.optPort p
    (s.rotationOf p = some r → x.st = 3 → x.window = false → x.peer.isSome = true → x.peer = x.slotPeer r.s → Answers (.windowOpen port) s fun s' =>
      s'.optPort p = { x with window := true } ∧ otherPortsKept s s' p) ∧
    Answers (.windowClose port) s (fun s' => s'.optPort p = { x with window := false } ∧ otherPortsKept s s' p ∧ s'.copy = s.copy)) ∧
  ∀ (port : Fin 16) (fr : Frame) (bs : List Byte) (h : Home) (s : State),
    let p := port.val
    ((s.optPort p).st ≠ 3 ∨ fr.sseq.toNat ≠ s.portSseq p → Answers (.frameReceive port fr) s fun s' =>
      s'.cp.sseqdrop = s.cp.sseqdrop + 1 ∧ s'.lodge = s.lodge ∧ ∀ k, s'.byte k = s.byte k) ∧
    ((s.optPort p).st = 3 → fr.sseq.toNat = s.portSseq p → fr.body = .write bs .plain → bs ≠ [] → fr.addr.toNat % 65536 + bs.length ≤ 65536 →
      fr.addr.toNat + bs.length ≤ 2 ^ 56 → EpMaps s fr.addr false true h → s.refusedAt h bs.length = false → Answers (.frameReceive port fr) s fun s' =>
        (∀ i b, bs[i]? = some b → s'.byte (h.key + i) = b) ∧ (∀ k, (k < h.key ∨ h.key + bs.length ≤ k) → s'.byte k = s.byte k) ∧
        ∃ q : Packet, q.dst = fr.src ∧ q.type = 1 ∧ q.tier = 2 ∧ q.tag = fr.tag ∧ q.body = .reply 0 [] ∧ sentOn s s' 6 q)

/-- R353, R360: a CWAIT whose timeout runs out gives OUTCOME 3; a WEV.MSG that waits takes the message that has come, or gives 1 when its
timeout runs out. -/
def clausesWaitingContextsGoOn : Prop :=
  ∀ (cx : Fin 8) (d : BitVec 4) (e : Event) (spec : DWord) (tmo : Nat) (s : State),
    let k := cx.val
    let c := s.cx k
    (c.wait = .cwait d spec tmo → tmo ≠ 0 → s.cwaitOutcome spec = none → Answers (.cwaitTimeout cx) s fun s' =>
      contextGoesOn s s' k (fun n => if n = d.toNat then portWordOf s (spec.toNat % 16) (spec.toNat / 16 % 16) 3 else c.reg n) ∧
      s'.cp.ports = s.cp.ports) ∧
    (∀ src m r, c.wait = .wev d e tmo → e.kind = 2 → c.rot.st ≠ 2 → c.msgs = (src, m) :: r → Answers (.wevEvent cx) s fun s' =>
      contextGoesOn s s' k (fun n =>
        if n = d.toNat + 1 then src.zeroExtend 64 <<< 48 ||| m.zeroExtend 64 else if n = d.toNat then 0 else c.reg n) ∧ (s'.cx k).msgs = r) ∧
    (c.wait = .wev d e tmo → e.kind = 2 → tmo ≠ 0 → c.withdrawn = false → c.msgs = [] → Answers (.wevTimeout cx) s fun s' =>
      contextGoesOn s s' k (fun n => if n = d.toNat then 1 else c.reg n))

/-- R330 to R333, R342, R344 to R346, R353, R356, R357, R360: what happens to ports, rotations, windows and waiting contexts.
Inferences and choices of the model: log entries 18 and 19. -/
def Obligations.PortsAndRotationsMove : Prop :=
  clausesPortsLockAndLoseLight ∧ clausesPortsShakeHands ∧ clausesRotationsTurn ∧ clausesWindowsAndFrames ∧ clausesWaitingContextsGoOn
end

