-- ==== Sys2Proof/Laws/Tab.lean ====
section
/-! SUPPORT. The laws of sparse tables: what a read gives after a write, and that every operation keeps the canonical form. -/

namespace Sys2Proof

variable {V : Type}

/-! ## The canonical form -/

/-- A key lies above a lower bound that may be absent. -/
def Tab.above (lo : Option Nat) (i : Nat) : Prop := ∀ l, lo = some l → l < i

theorem Tab.wfFrom_cons [DecidableEq V] {d : V} {lo : Option Nat} {e : Nat × V} {t : Tab V} :
    Tab.wfFrom d lo (e :: t) = true ↔ Tab.above lo e.1 ∧ e.2 ≠ d ∧ Tab.wfFrom d (some e.1) t = true := by
  obtain ⟨k, v⟩ := e
  cases lo <;> simp [Tab.wfFrom, Tab.above, and_assoc]

theorem Tab.wfFrom_weaken [DecidableEq V] {d : V} {a b : Nat} (h : a ≤ b) :
    ∀ {t : Tab V}, Tab.wfFrom d (some b) t = true → Tab.wfFrom d (some a) t = true
  | [], _ => rfl
  | _ :: _, hw => by
    rw [Tab.wfFrom_cons] at hw ⊢
    exact ⟨fun l hl => by cases hl; exact Nat.lt_of_le_of_lt h (hw.1 b rfl), hw.2⟩

theorem Tab.wfFrom_none [DecidableEq V] {d : V} {lo : Option Nat} :
    ∀ {t : Tab V}, Tab.wfFrom d lo t = true → Tab.wf d t = true
  | [], _ => rfl
  | _ :: _, hw => by
    rw [Tab.wfFrom_cons] at hw
    exact Tab.wfFrom_cons.2 ⟨(fun _ hl => nomatch hl), hw.2⟩

/-- Leaving entries out keeps the canonical form. -/
theorem Tab.wfFrom_filter [DecidableEq V] {d : V} (p : Nat × V → Bool) :
    ∀ {lo : Option Nat} {t : Tab V}, Tab.wfFrom d lo t = true → Tab.wfFrom d lo (t.filter p) = true
  | _, [], _ => rfl
  | lo, e :: t, hw => by
    rw [Tab.wfFrom_cons] at hw
    have ht := Tab.wfFrom_filter p hw.2.2
    by_cases hp : p e = true
    · rw [List.filter_cons_of_pos hp]
      exact Tab.wfFrom_cons.2 ⟨hw.1, hw.2.1, ht⟩
    · rw [List.filter_cons_of_neg hp]
      cases lo with
      | none => exact Tab.wfFrom_none ht
      | some l => exact Tab.wfFrom_weaken (Nat.le_of_lt (hw.1 l rfl)) ht

theorem Tab.wf_filter [DecidableEq V] {d : V} {t : Tab V} (p : Nat × V → Bool) (h : Tab.wf d t = true) :
    Tab.wf d (t.filter p) = true := Tab.wfFrom_filter p h

theorem Tab.wf_erase [DecidableEq V] {d : V} {t : Tab V} (i : Nat) (h : Tab.wf d t = true) : Tab.wf d (t.erase i) = true :=
  Tab.wf_filter _ h

theorem Tab.wf_drop [DecidableEq V] {d : V} {t : Tab V} (lo hi : Nat) (h : Tab.wf d t = true) : Tab.wf d (t.drop lo hi) = true :=
  Tab.wf_filter _ h

theorem Tab.wf_range [DecidableEq V] {d : V} {t : Tab V} (lo hi : Nat) (h : Tab.wf d t = true) : Tab.wf d (t.range lo hi) = true :=
  Tab.wf_filter _ h

/-- An entry put where its key is absent keeps the canonical form. -/
theorem Tab.wfFrom_insert [DecidableEq V] {d : V} {i : Nat} {v : V} (hv : v ≠ d) :
    ∀ {lo : Option Nat} {t : Tab V}, Tab.above lo i → (∀ e ∈ t, e.1 ≠ i) → Tab.wfFrom d lo t = true →
      Tab.wfFrom d lo (Tab.insert i v t) = true
  | _, [], hlo, _, _ => Tab.wfFrom_cons.2 ⟨hlo, hv, rfl⟩
  | lo, e :: t, hlo, hne, hw => by
    rw [Tab.wfFrom_cons] at hw
    unfold Tab.insert
    split
    · rename_i hlt
      exact Tab.wfFrom_cons.2 ⟨hlo, hv, Tab.wfFrom_cons.2 ⟨fun l hl => by cases hl; exact hlt, hw.2⟩⟩
    · rename_i hge
      have hne' : e.1 ≠ i := hne e (List.mem_cons_self ..)
      exact Tab.wfFrom_cons.2 ⟨hw.1, hw.2.1,
        Tab.wfFrom_insert hv (fun l hl => by cases hl; omega) (fun x hx => hne x (List.mem_cons_of_mem _ hx)) hw.2.2⟩

/-- A write keeps the canonical form, whatever the value. -/
theorem Tab.wf_put [DecidableEq V] {d : V} {t : Tab V} (i : Nat) (v : V) (h : Tab.wf d t = true) :
    Tab.wf d (Tab.put d t i v) = true := by
  unfold Tab.put
  split
  · exact Tab.wf_erase i h
  · rename_i hv
    refine Tab.wfFrom_insert hv (fun l hl => by cases hl) (fun e he => ?_) (Tab.wf_erase i h)
    have := (List.mem_filter.1 he).2
    simpa using this

/-! ## Reads after writes -/

theorem Tab.erase_cons_same (i : Nat) (v : V) (t : Tab V) : Tab.erase ((i, v) :: t) i = Tab.erase t i := by
  simp [Tab.erase]

theorem Tab.erase_cons_ne {i k : Nat} (h : k ≠ i) (v : V) (t : Tab V) : Tab.erase ((k, v) :: t) i = (k, v) :: Tab.erase t i := by
  simp [Tab.erase, h]

theorem Tab.get_erase_same {d : V} (i : Nat) : ∀ t : Tab V, Tab.get d (t.erase i) i = d
  | [] => rfl
  | (k, v) :: t => by
    by_cases h : k = i
    · subst h; rw [Tab.erase_cons_same]; exact Tab.get_erase_same k t
    · rw [Tab.erase_cons_ne h]
      simp only [Tab.get]
      rw [if_neg (fun e => h e.symm)]
      exact Tab.get_erase_same i t

theorem Tab.get_erase_ne {d : V} {i j : Nat} (h : j ≠ i) : ∀ t : Tab V, Tab.get d (t.erase i) j = Tab.get d t j
  | [] => rfl
  | (k, v) :: t => by
    by_cases hk : k = i
    · subst hk
      rw [Tab.erase_cons_same]
      simp only [Tab.get]
      rw [if_neg h]
      exact Tab.get_erase_ne h t
    · rw [Tab.erase_cons_ne hk]
      simp only [Tab.get]
      split
      · rfl
      · exact Tab.get_erase_ne h t

theorem Tab.get_insert_same {d : V} (i : Nat) (v : V) : ∀ t : Tab V, (∀ e ∈ t, e.1 ≠ i) → Tab.get d (Tab.insert i v t) i = v
  | [], _ => by simp [Tab.insert, Tab.get]
  | (k, w) :: t, hne => by
    have hk : k ≠ i := hne (k, w) (List.mem_cons_self ..)
    unfold Tab.insert
    split
    · simp [Tab.get]
    · simp only [Tab.get]
      rw [if_neg (fun e => hk e.symm)]
      exact Tab.get_insert_same i v t (fun e he => hne e (List.mem_cons_of_mem _ he))

theorem Tab.get_insert_ne {d : V} {i j : Nat} (h : j ≠ i) (v : V) : ∀ t : Tab V, Tab.get d (Tab.insert i v t) j = Tab.get d t j
  | [] => by simp [Tab.insert, Tab.get, h]
  | (k, w) :: t => by
    unfold Tab.insert
    split
    · simp only [Tab.get]; rw [if_neg h]
    · simp only [Tab.get]
      split
      · rfl
      · exact Tab.get_insert_ne h v t

theorem Tab.erase_absent {i : Nat} {t : Tab V} : ∀ e ∈ Tab.erase t i, e.1 ≠ i := fun e he => by
  have := (List.mem_filter.1 he).2
  simpa using this

/-- A read of the key that was written gives the value written. -/
@[simp] theorem Tab.get_put_same [DecidableEq V] {d : V} (t : Tab V) (i : Nat) (v : V) : Tab.get d (Tab.put d t i v) i = v := by
  unfold Tab.put
  split
  · rename_i h; subst h; exact Tab.get_erase_same i t
  · exact Tab.get_insert_same i v _ Tab.erase_absent

/-- A read of any other key gives what it gave before the write. -/
theorem Tab.get_put_ne [DecidableEq V] {d : V} (t : Tab V) {i j : Nat} (h : j ≠ i) (v : V) :
    Tab.get d (Tab.put d t i v) j = Tab.get d t j := by
  unfold Tab.put
  split
  · exact Tab.get_erase_ne h t
  · rw [Tab.get_insert_ne h]; exact Tab.get_erase_ne h t

/-- A read after a write. -/
theorem Tab.get_put [DecidableEq V] {d : V} (t : Tab V) (i j : Nat) (v : V) :
    Tab.get d (Tab.put d t i v) j = if j = i then v else Tab.get d t j := by
  split
  · rename_i h; subst h; exact Tab.get_put_same t j v
  · rename_i h; exact Tab.get_put_ne t h v

@[simp] theorem Tab.get_nil {d : V} (i : Nat) : Tab.get d ([] : Tab V) i = d := rfl

end Sys2Proof
end

