-- ==== Sys2Proof/Laws/Memory.lean ====
section
/-! SUPPORT. The memory's laws: every operation that writes memory keeps its canonical form; a byte written reads as written, and every
other byte as before. -/

namespace Sys2Proof.Machine
open Sys2Proof

/-! ## The canonical form -/

theorem putAll_wf : ∀ {m : Tab Byte} (k : Nat) (bs : List Byte), Memory.wf m = true → Memory.wf (putAll m k bs) = true
  | _, _, [], h => h
  | _, k, _ :: bs, h => putAll_wf (k + 1) bs (Tab.wf_put k _ h)

theorem putBytes_wf {s : State} (k : Nat) (bs : List Byte) (h : Memory.wf s.mem = true) : Memory.wf (s.putBytes k bs).mem = true :=
  putAll_wf k bs h

theorem zeroRange_wf {s : State} (k n : Nat) (h : Memory.wf s.mem = true) : Memory.wf (s.zeroRange k n).mem = true := Tab.wf_drop _ _ h

theorem clearSlice_wf {s : State} (c o n : Nat) (h : Memory.wf s.mem = true) : Memory.wf (s.clearSlice c o n).mem = true :=
  Tab.wf_drop _ _ h

theorem zeroMemory_wf {s : State} (h : Memory.wf s.mem = true) : Memory.wf s.zeroMemory.mem = true := Tab.wf_filter _ h

/-- Writing the entries of a list one after the other keeps the canonical form. -/
theorem putEach_wf : ∀ (l : Tab Byte) {t : Tab Byte}, Tab.wf 0 t = true → Tab.wf 0 (l.foldl (fun t e => Tab.put 0 t e.1 e.2) t) = true
  | [], _, h => h
  | e :: l, _, h => putEach_wf l (Tab.wf_put e.1 e.2 h)

theorem copyPage_wf {s : State} (a b : Home) (n : Nat) (h : Memory.wf s.mem = true) : Memory.wf (s.copyPage a b n).mem = true :=
  putEach_wf _ (Tab.wf_drop _ _ h)

theorem loseRange_mem (s : State) (lo hi : Nat) : (s.loseRange lo hi).mem = s.mem := rfl

theorem loseRanges_mem : ∀ (rs : List (Nat × Nat)) (s : State), (rs.foldl (fun s r => s.loseRange r.1 r.2) s).mem = s.mem
  | [], _ => rfl
  | r :: rs, s => loseRanges_mem rs (s.loseRange r.1 r.2)

theorem loseMemory_wf {s : State} (h : Memory.wf s.mem = true) : Memory.wf s.loseMemory.mem = true := by
  unfold State.loseMemory
  rw [loseRanges_mem]
  exact Tab.wf_filter _ h

/-! ## Reading what was written -/

/-- A range cut from the undefined ranges holds none of them. -/
theorem lostAt_cutLost_in {lo hi k : Nat} (h1 : lo ≤ k) (h2 : k < hi) : ∀ l : List (Nat × Nat × Nat), lostAt (cutLost l lo hi) k = none
  | [] => rfl
  | r :: l => by
    have ih := lostAt_cutLost_in h1 h2 l
    simp only [lostAt, Option.map_eq_none_iff, List.find?_eq_none, Bool.and_eq_true, decide_eq_true_eq, not_and, Nat.not_lt] at ih ⊢
    intro x hx
    simp only [cutLost, List.flatMap_cons, List.mem_append] at hx
    rcases hx with hx | hx
    · intro hk
      split at hx
      · rename_i hc
        rw [List.mem_singleton] at hx
        subst hx
        simp only [Bool.or_eq_true, decide_eq_true_eq] at hc
        omega
      · rw [List.mem_append] at hx
        rcases hx with hx | hx
        · split at hx
          · rw [List.mem_singleton] at hx; subst hx; simp only at hk ⊢; omega
          · cases hx
        · split at hx
          · rw [List.mem_singleton] at hx; subst hx; simp only at hk ⊢; omega
          · cases hx
    · exact ih x hx

theorem putAll_get_out {k j : Nat} : ∀ (bs : List Byte) (m : Tab Byte) (_ : j < k ∨ k + bs.length ≤ j),
    Tab.get 0 (putAll m k bs) j = Tab.get 0 m j
  | [], _, _ => rfl
  | b :: bs, m, h => by
    have h' : j < k + 1 ∨ k + 1 + bs.length ≤ j := by simp only [List.length_cons] at h; omega
    rw [putAll, putAll_get_out bs _ h', Tab.get_put_ne]
    simp only [List.length_cons] at h
    omega

theorem putAll_get_in : ∀ (bs : List Byte) (m : Tab Byte) (k i : Nat) (b : Byte), bs[i]? = some b → Tab.get 0 (putAll m k bs) (k + i) = b
  | [], _, _, _, _, h => by simp at h
  | c :: bs, m, k, 0, b, h => by
    simp only [List.getElem?_cons_zero, Option.some.injEq] at h
    subst h
    rw [putAll, putAll_get_out bs _ (Or.inl (by omega))]
    exact Tab.get_put_same _ _ _
  | c :: bs, m, k, i + 1, b, h => by
    rw [List.getElem?_cons_succ] at h
    have := putAll_get_in bs (Tab.put 0 m k c) (k + 1) i b h
    rw [putAll, show k + (i + 1) = k + 1 + i by omega]
    exact this

/-- A byte that was written reads as it was written. -/
theorem byte_putBytes_in (s : State) (k i : Nat) (bs : List Byte) (b : Byte) (h : bs[i]? = some b) : (s.putBytes k bs).byte (k + i) = b := by
  have hi : i < bs.length := (List.getElem?_eq_some_iff.1 h).1
  simp only [State.byte, State.putBytes]
  rw [lostAt_cutLost_in (by omega) (by omega)]
  exact putAll_get_in bs s.mem k i b h

/-- Cutting a range leaves the free value of every key outside it. -/
theorem lostAt_cutLost_out {lo hi k : Nat} (h : k < lo ∨ hi ≤ k) : ∀ l : List (Nat × Nat × Nat), lostAt (cutLost l lo hi) k = lostAt l k
  | [] => rfl
  | r :: l => by
    have ih := lostAt_cutLost_out h l
    obtain ⟨a, b, v⟩ := r
    simp only [cutLost, List.flatMap_cons, lostAt, List.find?_append, List.find?_cons] at ih ⊢
    by_cases hk : a ≤ k ∧ k < b
    · have e1 : (decide (a ≤ k) && decide (k < b)) = true := by simp [hk]
      rw [e1]
      by_cases hc : (decide (hi ≤ a) || decide (b ≤ lo)) = true
      · simp [hc, hk]
      · simp only [hc]
        simp only [Bool.or_eq_true, decide_eq_true_eq, not_or, Nat.not_le] at hc
        rcases h with h | h
        · have ha : a < lo := by omega
          simp [ha, hk.1, h]
        · have hb : hi < b := by omega
          by_cases ha : a < lo
          · by_cases hl : k < lo
            · simp [ha, hb, hk, hl]
            · simp [ha, hb, hk, hl, h]; omega
          · simp [ha, hb, hk, h]; omega
    · have e1 : (decide (a ≤ k) && decide (k < b)) = false := by simpa using hk
      rw [e1]
      simp only [Option.map_or] at ih ⊢
      have e2 : List.find? (fun r => decide (r.1 ≤ k) && decide (k < r.2.1))
          (if (decide (hi ≤ a) || decide (b ≤ lo)) = true then [(a, b, v)]
           else (if a < lo then [(a, lo, v)] else []) ++ if hi < b then [(hi, b, v + (hi - a))] else []) = none := by
        rw [List.find?_eq_none]
        intro x hx
        simp only [Bool.and_eq_true, decide_eq_true_eq, not_and]
        split at hx
        · rw [List.mem_singleton] at hx; subst hx; simpa using hk
        · rename_i hc
          simp only [Bool.or_eq_true, decide_eq_true_eq, not_or, Nat.not_le] at hc
          rw [List.mem_append] at hx
          rcases hx with hx | hx
          · split at hx
            · rw [List.mem_singleton] at hx; subst hx; simp only; omega
            · cases hx
          · split at hx
            · rw [List.mem_singleton] at hx; subst hx; simp only; omega
            · cases hx
      rw [e2]
      simpa using ih

/-- A byte outside what was written reads as before. -/
theorem byte_putBytes_out (s : State) (k j : Nat) (bs : List Byte) (h : j < k ∨ k + bs.length ≤ j) : (s.putBytes k bs).byte j = s.byte j := by
  simp only [State.byte, State.putBytes]
  rw [lostAt_cutLost_out h, putAll_get_out bs _ h]

/-- A range read back after it was written. -/
theorem getBytes_putBytes (s : State) (k : Nat) (bs : List Byte) : (s.putBytes k bs).getBytes k bs.length = bs := by
  apply List.ext_getElem
  · simp [State.getBytes]
  · intro i h1 h2
    simp only [State.getBytes, List.getElem_map, List.getElem_range]
    exact byte_putBytes_in s k i bs bs[i] (List.getElem?_eq_getElem h2)

/-- Reading a place that does not exist changes no byte. -/
@[simp] theorem byte_touch (s : State) (h : Home) (n k : Nat) : (s.touch h n).byte k = s.byte k := by
  unfold State.touch; split <;> rfl

@[simp] theorem touch_mem (s : State) (h : Home) (n : Nat) : (s.touch h n).mem = s.mem := by
  unfold State.touch; split <;> rfl

/-- What marking stacks that a write hits can do: the marked ranges change, and the counter of the free values. -/
theorem hitStacks_shape (s : State) (h : Home) (n : Nat) : ∃ r f, s.hitStacks h n = { s with stackHit := r, free := f } := by
  unfold State.hitStacks
  generalize (s.warps.flatMap (fun e => s.regionKeys e.2)).filter _ = l
  induction l generalizing s with
  | nil => exact ⟨s.stackHit, s.free, rfl⟩
  | cons x l ih =>
    rw [List.foldl_cons]
    obtain ⟨r, f, e⟩ := ih { s with
      stackHit := cutLost s.stackHit (Nat.max x.1 h.key) (Nat.min x.2 (h.key + n)) ++
        [(Nat.max x.1 h.key, Nat.min x.2 (h.key + n), s.free)],
      free := s.free + (Nat.min x.2 (h.key + n) - Nat.max x.1 h.key) }
    exact ⟨r, f, e⟩

@[simp] theorem hitStacks_mem (s : State) (h : Home) (n : Nat) : (s.hitStacks h n).mem = s.mem := by
  obtain ⟨r, f, e⟩ := hitStacks_shape s h n; rw [e]

@[simp] theorem byte_hitStacks (s : State) (h : Home) (n k : Nat) : (s.hitStacks h n).byte k = s.byte k := by
  obtain ⟨r, f, e⟩ := hitStacks_shape s h n; rw [e]; rfl

/-- What a write at a home can do: it is refused and nothing changes, or the bytes stand there; of the rest only the marks of the live stacks
that it hit have changed (R459). -/
theorem writeHome_cases (s : State) (h : Home) (bs : List Byte) :
    (s.refusedAt h bs.length = true ∧ s.writeHome h bs = (s, some 6)) ∨
    (s.refusedAt h bs.length = false ∧ s.writeHome h bs = (((s.touch h bs.length).hitStacks h bs.length).putBytes h.key bs, none)) := by
  unfold State.writeHome
  cases s.refusedAt h bs.length <;> simp

theorem writeHome_wf {s : State} (h : Home) (bs : List Byte) (hw : Memory.wf s.mem = true) : Memory.wf (s.writeHome h bs).1.mem = true := by
  rcases writeHome_cases s h bs with ⟨_, e⟩ | ⟨_, e⟩ <;> rw [e]
  · exact hw
  · exact putBytes_wf _ _ (by simpa using hw)

end Sys2Proof.Machine
end

