-- ==== Sys2Proof/Laws/State.lean ====
section
/-! SUPPORT. The laws of the updates of State: what each leaves unchanged, field by field, and what an accessor reads after it. -/

namespace Sys2Proof.Machine
open Sys2Proof

/-! ## setThread -/

@[simp] theorem State.setThread_cur (s : State) (t : Nat) (th : Thread) : (s.setThread t th).cur = s.cur := rfl
@[simp] theorem State.setThread_inputs (s : State) (t : Nat) (th : Thread) : (s.setThread t th).inputs = s.inputs := rfl
@[simp] theorem State.setThread_turn (s : State) (t : Nat) (th : Thread) : (s.setThread t th).turn = s.turn := rfl
@[simp] theorem State.setThread_focus (s : State) (t : Nat) (th : Thread) : (s.setThread t th).focus = s.focus := rfl
@[simp] theorem State.setThread_free (s : State) (t : Nat) (th : Thread) : (s.setThread t th).free = s.free := rfl
@[simp] theorem State.setThread_ids (s : State) (t : Nat) (th : Thread) : (s.setThread t th).ids = s.ids := rfl
@[simp] theorem State.setThread_hole (s : State) (t : Nat) (th : Thread) : (s.setThread t th).hole = s.hole := rfl
@[simp] theorem State.setThread_mem (s : State) (t : Nat) (th : Thread) : (s.setThread t th).mem = s.mem := rfl
@[simp] theorem State.setThread_tags (s : State) (t : Nat) (th : Thread) : (s.setThread t th).tags = s.tags := rfl
@[simp] theorem State.setThread_swz (s : State) (t : Nat) (th : Thread) : (s.setThread t th).swz = s.swz := rfl
@[simp] theorem State.setThread_poison (s : State) (t : Nat) (th : Thread) : (s.setThread t th).poison = s.poison := rfl
@[simp] theorem State.setThread_lost (s : State) (t : Nat) (th : Thread) : (s.setThread t th).lost = s.lost := rfl
@[simp] theorem State.setThread_stackHit (s : State) (t : Nat) (th : Thread) : (s.setThread t th).stackHit = s.stackHit := rfl
@[simp] theorem State.setThread_warps (s : State) (t : Nat) (th : Thread) : (s.setThread t th).warps = s.warps := rfl
@[simp] theorem State.setThread_hk3Order (s : State) (t : Nat) (th : Thread) : (s.setThread t th).hk3Order = s.hk3Order := rfl
@[simp] theorem State.setThread_cores (s : State) (t : Nat) (th : Thread) : (s.setThread t th).cores = s.cores := rfl
@[simp] theorem State.setThread_dieTlb (s : State) (t : Nat) (th : Thread) : (s.setThread t th).dieTlb = s.dieTlb := rfl
@[simp] theorem State.setThread_wgs (s : State) (t : Nat) (th : Thread) : (s.setThread t th).wgs = s.wgs := rfl
@[simp] theorem State.setThread_launches (s : State) (t : Nat) (th : Thread) : (s.setThread t th).launches = s.launches := rfl
@[simp] theorem State.setThread_parts (s : State) (t : Nat) (th : Thread) : (s.setThread t th).parts = s.parts := rfl
@[simp] theorem State.setThread_copy (s : State) (t : Nat) (th : Thread) : (s.setThread t th).copy = s.copy := rfl
@[simp] theorem State.setThread_coll (s : State) (t : Nat) (th : Thread) : (s.setThread t th).coll = s.coll := rfl
@[simp] theorem State.setThread_welt (s : State) (t : Nat) (th : Thread) : (s.setThread t th).welt = s.welt := rfl
@[simp] theorem State.setThread_batches (s : State) (t : Nat) (th : Thread) : (s.setThread t th).batches = s.batches := rfl
@[simp] theorem State.setThread_gangs (s : State) (t : Nat) (th : Thread) : (s.setThread t th).gangs = s.gangs := rfl
@[simp] theorem State.setThread_gangSeq (s : State) (t : Nat) (th : Thread) : (s.setThread t th).gangSeq = s.gangSeq := rfl
@[simp] theorem State.setThread_gangAborted (s : State) (t : Nat) (th : Thread) : (s.setThread t th).gangAborted = s.gangAborted := rfl
@[simp] theorem State.setThread_gangsIn (s : State) (t : Nat) (th : Thread) : (s.setThread t th).gangsIn = s.gangsIn := rfl
@[simp] theorem State.setThread_agents (s : State) (t : Nat) (th : Thread) : (s.setThread t th).agents = s.agents := rfl
@[simp] theorem State.setThread_tagWaits (s : State) (t : Nat) (th : Thread) : (s.setThread t th).tagWaits = s.tagWaits := rfl
@[simp] theorem State.setThread_lodge (s : State) (t : Nat) (th : Thread) : (s.setThread t th).lodge = s.lodge := rfl
@[simp] theorem State.setThread_cp (s : State) (t : Nat) (th : Thread) : (s.setThread t th).cp = s.cp := rfl
@[simp] theorem State.setThread_rings (s : State) (t : Nat) (th : Thread) : (s.setThread t th).rings = s.rings := rfl
@[simp] theorem State.setThread_dev (s : State) (t : Nat) (th : Thread) : (s.setThread t th).dev = s.dev := rfl

/-! ## updThread -/

@[simp] theorem State.updThread_cur (s : State) (t : Nat) (f : Thread → Thread) : (s.updThread t f).cur = s.cur := rfl
@[simp] theorem State.updThread_inputs (s : State) (t : Nat) (f : Thread → Thread) : (s.updThread t f).inputs = s.inputs := rfl
@[simp] theorem State.updThread_turn (s : State) (t : Nat) (f : Thread → Thread) : (s.updThread t f).turn = s.turn := rfl
@[simp] theorem State.updThread_focus (s : State) (t : Nat) (f : Thread → Thread) : (s.updThread t f).focus = s.focus := rfl
@[simp] theorem State.updThread_free (s : State) (t : Nat) (f : Thread → Thread) : (s.updThread t f).free = s.free := rfl
@[simp] theorem State.updThread_ids (s : State) (t : Nat) (f : Thread → Thread) : (s.updThread t f).ids = s.ids := rfl
@[simp] theorem State.updThread_hole (s : State) (t : Nat) (f : Thread → Thread) : (s.updThread t f).hole = s.hole := rfl
@[simp] theorem State.updThread_mem (s : State) (t : Nat) (f : Thread → Thread) : (s.updThread t f).mem = s.mem := rfl
@[simp] theorem State.updThread_tags (s : State) (t : Nat) (f : Thread → Thread) : (s.updThread t f).tags = s.tags := rfl
@[simp] theorem State.updThread_swz (s : State) (t : Nat) (f : Thread → Thread) : (s.updThread t f).swz = s.swz := rfl
@[simp] theorem State.updThread_poison (s : State) (t : Nat) (f : Thread → Thread) : (s.updThread t f).poison = s.poison := rfl
@[simp] theorem State.updThread_lost (s : State) (t : Nat) (f : Thread → Thread) : (s.updThread t f).lost = s.lost := rfl
@[simp] theorem State.updThread_stackHit (s : State) (t : Nat) (f : Thread → Thread) : (s.updThread t f).stackHit = s.stackHit := rfl
@[simp] theorem State.updThread_warps (s : State) (t : Nat) (f : Thread → Thread) : (s.updThread t f).warps = s.warps := rfl
@[simp] theorem State.updThread_hk3Order (s : State) (t : Nat) (f : Thread → Thread) : (s.updThread t f).hk3Order = s.hk3Order := rfl
@[simp] theorem State.updThread_cores (s : State) (t : Nat) (f : Thread → Thread) : (s.updThread t f).cores = s.cores := rfl
@[simp] theorem State.updThread_dieTlb (s : State) (t : Nat) (f : Thread → Thread) : (s.updThread t f).dieTlb = s.dieTlb := rfl
@[simp] theorem State.updThread_wgs (s : State) (t : Nat) (f : Thread → Thread) : (s.updThread t f).wgs = s.wgs := rfl
@[simp] theorem State.updThread_launches (s : State) (t : Nat) (f : Thread → Thread) : (s.updThread t f).launches = s.launches := rfl
@[simp] theorem State.updThread_parts (s : State) (t : Nat) (f : Thread → Thread) : (s.updThread t f).parts = s.parts := rfl
@[simp] theorem State.updThread_copy (s : State) (t : Nat) (f : Thread → Thread) : (s.updThread t f).copy = s.copy := rfl
@[simp] theorem State.updThread_coll (s : State) (t : Nat) (f : Thread → Thread) : (s.updThread t f).coll = s.coll := rfl
@[simp] theorem State.updThread_welt (s : State) (t : Nat) (f : Thread → Thread) : (s.updThread t f).welt = s.welt := rfl
@[simp] theorem State.updThread_batches (s : State) (t : Nat) (f : Thread → Thread) : (s.updThread t f).batches = s.batches := rfl
@[simp] theorem State.updThread_gangs (s : State) (t : Nat) (f : Thread → Thread) : (s.updThread t f).gangs = s.gangs := rfl
@[simp] theorem State.updThread_gangSeq (s : State) (t : Nat) (f : Thread → Thread) : (s.updThread t f).gangSeq = s.gangSeq := rfl
@[simp] theorem State.updThread_gangAborted (s : State) (t : Nat) (f : Thread → Thread) : (s.updThread t f).gangAborted = s.gangAborted := rfl
@[simp] theorem State.updThread_gangsIn (s : State) (t : Nat) (f : Thread → Thread) : (s.updThread t f).gangsIn = s.gangsIn := rfl
@[simp] theorem State.updThread_agents (s : State) (t : Nat) (f : Thread → Thread) : (s.updThread t f).agents = s.agents := rfl
@[simp] theorem State.updThread_tagWaits (s : State) (t : Nat) (f : Thread → Thread) : (s.updThread t f).tagWaits = s.tagWaits := rfl
@[simp] theorem State.updThread_lodge (s : State) (t : Nat) (f : Thread → Thread) : (s.updThread t f).lodge = s.lodge := rfl
@[simp] theorem State.updThread_cp (s : State) (t : Nat) (f : Thread → Thread) : (s.updThread t f).cp = s.cp := rfl
@[simp] theorem State.updThread_rings (s : State) (t : Nat) (f : Thread → Thread) : (s.updThread t f).rings = s.rings := rfl
@[simp] theorem State.updThread_dev (s : State) (t : Nat) (f : Thread → Thread) : (s.updThread t f).dev = s.dev := rfl

/-! ## updWarp -/

@[simp] theorem State.updWarp_cur (s : State) (w : Nat) (f : Warp → Warp) : (s.updWarp w f).cur = s.cur := rfl
@[simp] theorem State.updWarp_inputs (s : State) (w : Nat) (f : Warp → Warp) : (s.updWarp w f).inputs = s.inputs := rfl
@[simp] theorem State.updWarp_turn (s : State) (w : Nat) (f : Warp → Warp) : (s.updWarp w f).turn = s.turn := rfl
@[simp] theorem State.updWarp_focus (s : State) (w : Nat) (f : Warp → Warp) : (s.updWarp w f).focus = s.focus := rfl
@[simp] theorem State.updWarp_free (s : State) (w : Nat) (f : Warp → Warp) : (s.updWarp w f).free = s.free := rfl
@[simp] theorem State.updWarp_ids (s : State) (w : Nat) (f : Warp → Warp) : (s.updWarp w f).ids = s.ids := rfl
@[simp] theorem State.updWarp_hole (s : State) (w : Nat) (f : Warp → Warp) : (s.updWarp w f).hole = s.hole := rfl
@[simp] theorem State.updWarp_mem (s : State) (w : Nat) (f : Warp → Warp) : (s.updWarp w f).mem = s.mem := rfl
@[simp] theorem State.updWarp_tags (s : State) (w : Nat) (f : Warp → Warp) : (s.updWarp w f).tags = s.tags := rfl
@[simp] theorem State.updWarp_swz (s : State) (w : Nat) (f : Warp → Warp) : (s.updWarp w f).swz = s.swz := rfl
@[simp] theorem State.updWarp_poison (s : State) (w : Nat) (f : Warp → Warp) : (s.updWarp w f).poison = s.poison := rfl
@[simp] theorem State.updWarp_lost (s : State) (w : Nat) (f : Warp → Warp) : (s.updWarp w f).lost = s.lost := rfl
@[simp] theorem State.updWarp_stackHit (s : State) (w : Nat) (f : Warp → Warp) : (s.updWarp w f).stackHit = s.stackHit := rfl
@[simp] theorem State.updWarp_thr (s : State) (w : Nat) (f : Warp → Warp) : (s.updWarp w f).thr = s.thr := rfl
@[simp] theorem State.updWarp_hk3Order (s : State) (w : Nat) (f : Warp → Warp) : (s.updWarp w f).hk3Order = s.hk3Order := rfl
@[simp] theorem State.updWarp_cores (s : State) (w : Nat) (f : Warp → Warp) : (s.updWarp w f).cores = s.cores := rfl
@[simp] theorem State.updWarp_dieTlb (s : State) (w : Nat) (f : Warp → Warp) : (s.updWarp w f).dieTlb = s.dieTlb := rfl
@[simp] theorem State.updWarp_wgs (s : State) (w : Nat) (f : Warp → Warp) : (s.updWarp w f).wgs = s.wgs := rfl
@[simp] theorem State.updWarp_launches (s : State) (w : Nat) (f : Warp → Warp) : (s.updWarp w f).launches = s.launches := rfl
@[simp] theorem State.updWarp_parts (s : State) (w : Nat) (f : Warp → Warp) : (s.updWarp w f).parts = s.parts := rfl
@[simp] theorem State.updWarp_copy (s : State) (w : Nat) (f : Warp → Warp) : (s.updWarp w f).copy = s.copy := rfl
@[simp] theorem State.updWarp_coll (s : State) (w : Nat) (f : Warp → Warp) : (s.updWarp w f).coll = s.coll := rfl
@[simp] theorem State.updWarp_welt (s : State) (w : Nat) (f : Warp → Warp) : (s.updWarp w f).welt = s.welt := rfl
@[simp] theorem State.updWarp_batches (s : State) (w : Nat) (f : Warp → Warp) : (s.updWarp w f).batches = s.batches := rfl
@[simp] theorem State.updWarp_gangs (s : State) (w : Nat) (f : Warp → Warp) : (s.updWarp w f).gangs = s.gangs := rfl
@[simp] theorem State.updWarp_gangSeq (s : State) (w : Nat) (f : Warp → Warp) : (s.updWarp w f).gangSeq = s.gangSeq := rfl
@[simp] theorem State.updWarp_gangAborted (s : State) (w : Nat) (f : Warp → Warp) : (s.updWarp w f).gangAborted = s.gangAborted := rfl
@[simp] theorem State.updWarp_gangsIn (s : State) (w : Nat) (f : Warp → Warp) : (s.updWarp w f).gangsIn = s.gangsIn := rfl
@[simp] theorem State.updWarp_agents (s : State) (w : Nat) (f : Warp → Warp) : (s.updWarp w f).agents = s.agents := rfl
@[simp] theorem State.updWarp_tagWaits (s : State) (w : Nat) (f : Warp → Warp) : (s.updWarp w f).tagWaits = s.tagWaits := rfl
@[simp] theorem State.updWarp_lodge (s : State) (w : Nat) (f : Warp → Warp) : (s.updWarp w f).lodge = s.lodge := rfl
@[simp] theorem State.updWarp_cp (s : State) (w : Nat) (f : Warp → Warp) : (s.updWarp w f).cp = s.cp := rfl
@[simp] theorem State.updWarp_rings (s : State) (w : Nat) (f : Warp → Warp) : (s.updWarp w f).rings = s.rings := rfl
@[simp] theorem State.updWarp_dev (s : State) (w : Nat) (f : Warp → Warp) : (s.updWarp w f).dev = s.dev := rfl

/-! ## updCore -/

@[simp] theorem State.updCore_cur (s : State) (c : Nat) (f : Core → Core) : (s.updCore c f).cur = s.cur := rfl
@[simp] theorem State.updCore_inputs (s : State) (c : Nat) (f : Core → Core) : (s.updCore c f).inputs = s.inputs := rfl
@[simp] theorem State.updCore_turn (s : State) (c : Nat) (f : Core → Core) : (s.updCore c f).turn = s.turn := rfl
@[simp] theorem State.updCore_focus (s : State) (c : Nat) (f : Core → Core) : (s.updCore c f).focus = s.focus := rfl
@[simp] theorem State.updCore_free (s : State) (c : Nat) (f : Core → Core) : (s.updCore c f).free = s.free := rfl
@[simp] theorem State.updCore_ids (s : State) (c : Nat) (f : Core → Core) : (s.updCore c f).ids = s.ids := rfl
@[simp] theorem State.updCore_hole (s : State) (c : Nat) (f : Core → Core) : (s.updCore c f).hole = s.hole := rfl
@[simp] theorem State.updCore_mem (s : State) (c : Nat) (f : Core → Core) : (s.updCore c f).mem = s.mem := rfl
@[simp] theorem State.updCore_tags (s : State) (c : Nat) (f : Core → Core) : (s.updCore c f).tags = s.tags := rfl
@[simp] theorem State.updCore_swz (s : State) (c : Nat) (f : Core → Core) : (s.updCore c f).swz = s.swz := rfl
@[simp] theorem State.updCore_poison (s : State) (c : Nat) (f : Core → Core) : (s.updCore c f).poison = s.poison := rfl
@[simp] theorem State.updCore_lost (s : State) (c : Nat) (f : Core → Core) : (s.updCore c f).lost = s.lost := rfl
@[simp] theorem State.updCore_stackHit (s : State) (c : Nat) (f : Core → Core) : (s.updCore c f).stackHit = s.stackHit := rfl
@[simp] theorem State.updCore_thr (s : State) (c : Nat) (f : Core → Core) : (s.updCore c f).thr = s.thr := rfl
@[simp] theorem State.updCore_warps (s : State) (c : Nat) (f : Core → Core) : (s.updCore c f).warps = s.warps := rfl
@[simp] theorem State.updCore_hk3Order (s : State) (c : Nat) (f : Core → Core) : (s.updCore c f).hk3Order = s.hk3Order := rfl
@[simp] theorem State.updCore_dieTlb (s : State) (c : Nat) (f : Core → Core) : (s.updCore c f).dieTlb = s.dieTlb := rfl
@[simp] theorem State.updCore_wgs (s : State) (c : Nat) (f : Core → Core) : (s.updCore c f).wgs = s.wgs := rfl
@[simp] theorem State.updCore_launches (s : State) (c : Nat) (f : Core → Core) : (s.updCore c f).launches = s.launches := rfl
@[simp] theorem State.updCore_parts (s : State) (c : Nat) (f : Core → Core) : (s.updCore c f).parts = s.parts := rfl
@[simp] theorem State.updCore_copy (s : State) (c : Nat) (f : Core → Core) : (s.updCore c f).copy = s.copy := rfl
@[simp] theorem State.updCore_coll (s : State) (c : Nat) (f : Core → Core) : (s.updCore c f).coll = s.coll := rfl
@[simp] theorem State.updCore_welt (s : State) (c : Nat) (f : Core → Core) : (s.updCore c f).welt = s.welt := rfl
@[simp] theorem State.updCore_batches (s : State) (c : Nat) (f : Core → Core) : (s.updCore c f).batches = s.batches := rfl
@[simp] theorem State.updCore_gangs (s : State) (c : Nat) (f : Core → Core) : (s.updCore c f).gangs = s.gangs := rfl
@[simp] theorem State.updCore_gangSeq (s : State) (c : Nat) (f : Core → Core) : (s.updCore c f).gangSeq = s.gangSeq := rfl
@[simp] theorem State.updCore_gangAborted (s : State) (c : Nat) (f : Core → Core) : (s.updCore c f).gangAborted = s.gangAborted := rfl
@[simp] theorem State.updCore_gangsIn (s : State) (c : Nat) (f : Core → Core) : (s.updCore c f).gangsIn = s.gangsIn := rfl
@[simp] theorem State.updCore_agents (s : State) (c : Nat) (f : Core → Core) : (s.updCore c f).agents = s.agents := rfl
@[simp] theorem State.updCore_tagWaits (s : State) (c : Nat) (f : Core → Core) : (s.updCore c f).tagWaits = s.tagWaits := rfl
@[simp] theorem State.updCore_lodge (s : State) (c : Nat) (f : Core → Core) : (s.updCore c f).lodge = s.lodge := rfl
@[simp] theorem State.updCore_cp (s : State) (c : Nat) (f : Core → Core) : (s.updCore c f).cp = s.cp := rfl
@[simp] theorem State.updCore_rings (s : State) (c : Nat) (f : Core → Core) : (s.updCore c f).rings = s.rings := rfl
@[simp] theorem State.updCore_dev (s : State) (c : Nat) (f : Core → Core) : (s.updCore c f).dev = s.dev := rfl

/-! ## updPart -/

@[simp] theorem State.updPart_cur (s : State) (p : Nat) (f : Part → Part) : (s.updPart p f).cur = s.cur := rfl
@[simp] theorem State.updPart_inputs (s : State) (p : Nat) (f : Part → Part) : (s.updPart p f).inputs = s.inputs := rfl
@[simp] theorem State.updPart_turn (s : State) (p : Nat) (f : Part → Part) : (s.updPart p f).turn = s.turn := rfl
@[simp] theorem State.updPart_focus (s : State) (p : Nat) (f : Part → Part) : (s.updPart p f).focus = s.focus := rfl
@[simp] theorem State.updPart_free (s : State) (p : Nat) (f : Part → Part) : (s.updPart p f).free = s.free := rfl
@[simp] theorem State.updPart_ids (s : State) (p : Nat) (f : Part → Part) : (s.updPart p f).ids = s.ids := rfl
@[simp] theorem State.updPart_hole (s : State) (p : Nat) (f : Part → Part) : (s.updPart p f).hole = s.hole := rfl
@[simp] theorem State.updPart_mem (s : State) (p : Nat) (f : Part → Part) : (s.updPart p f).mem = s.mem := rfl
@[simp] theorem State.updPart_tags (s : State) (p : Nat) (f : Part → Part) : (s.updPart p f).tags = s.tags := rfl
@[simp] theorem State.updPart_swz (s : State) (p : Nat) (f : Part → Part) : (s.updPart p f).swz = s.swz := rfl
@[simp] theorem State.updPart_poison (s : State) (p : Nat) (f : Part → Part) : (s.updPart p f).poison = s.poison := rfl
@[simp] theorem State.updPart_lost (s : State) (p : Nat) (f : Part → Part) : (s.updPart p f).lost = s.lost := rfl
@[simp] theorem State.updPart_stackHit (s : State) (p : Nat) (f : Part → Part) : (s.updPart p f).stackHit = s.stackHit := rfl
@[simp] theorem State.updPart_thr (s : State) (p : Nat) (f : Part → Part) : (s.updPart p f).thr = s.thr := rfl
@[simp] theorem State.updPart_warps (s : State) (p : Nat) (f : Part → Part) : (s.updPart p f).warps = s.warps := rfl
@[simp] theorem State.updPart_hk3Order (s : State) (p : Nat) (f : Part → Part) : (s.updPart p f).hk3Order = s.hk3Order := rfl
@[simp] theorem State.updPart_cores (s : State) (p : Nat) (f : Part → Part) : (s.updPart p f).cores = s.cores := rfl
@[simp] theorem State.updPart_dieTlb (s : State) (p : Nat) (f : Part → Part) : (s.updPart p f).dieTlb = s.dieTlb := rfl
@[simp] theorem State.updPart_wgs (s : State) (p : Nat) (f : Part → Part) : (s.updPart p f).wgs = s.wgs := rfl
@[simp] theorem State.updPart_launches (s : State) (p : Nat) (f : Part → Part) : (s.updPart p f).launches = s.launches := rfl
@[simp] theorem State.updPart_copy (s : State) (p : Nat) (f : Part → Part) : (s.updPart p f).copy = s.copy := rfl
@[simp] theorem State.updPart_coll (s : State) (p : Nat) (f : Part → Part) : (s.updPart p f).coll = s.coll := rfl
@[simp] theorem State.updPart_welt (s : State) (p : Nat) (f : Part → Part) : (s.updPart p f).welt = s.welt := rfl
@[simp] theorem State.updPart_batches (s : State) (p : Nat) (f : Part → Part) : (s.updPart p f).batches = s.batches := rfl
@[simp] theorem State.updPart_gangs (s : State) (p : Nat) (f : Part → Part) : (s.updPart p f).gangs = s.gangs := rfl
@[simp] theorem State.updPart_gangSeq (s : State) (p : Nat) (f : Part → Part) : (s.updPart p f).gangSeq = s.gangSeq := rfl
@[simp] theorem State.updPart_gangAborted (s : State) (p : Nat) (f : Part → Part) : (s.updPart p f).gangAborted = s.gangAborted := rfl
@[simp] theorem State.updPart_gangsIn (s : State) (p : Nat) (f : Part → Part) : (s.updPart p f).gangsIn = s.gangsIn := rfl
@[simp] theorem State.updPart_agents (s : State) (p : Nat) (f : Part → Part) : (s.updPart p f).agents = s.agents := rfl
@[simp] theorem State.updPart_tagWaits (s : State) (p : Nat) (f : Part → Part) : (s.updPart p f).tagWaits = s.tagWaits := rfl
@[simp] theorem State.updPart_lodge (s : State) (p : Nat) (f : Part → Part) : (s.updPart p f).lodge = s.lodge := rfl
@[simp] theorem State.updPart_cp (s : State) (p : Nat) (f : Part → Part) : (s.updPart p f).cp = s.cp := rfl
@[simp] theorem State.updPart_rings (s : State) (p : Nat) (f : Part → Part) : (s.updPart p f).rings = s.rings := rfl
@[simp] theorem State.updPart_dev (s : State) (p : Nat) (f : Part → Part) : (s.updPart p f).dev = s.dev := rfl

/-! ## updLaunch -/

@[simp] theorem State.updLaunch_cur (s : State) (lid : Nat) (f : Launch → Launch) : (s.updLaunch lid f).cur = s.cur := rfl
@[simp] theorem State.updLaunch_inputs (s : State) (lid : Nat) (f : Launch → Launch) : (s.updLaunch lid f).inputs = s.inputs := rfl
@[simp] theorem State.updLaunch_turn (s : State) (lid : Nat) (f : Launch → Launch) : (s.updLaunch lid f).turn = s.turn := rfl
@[simp] theorem State.updLaunch_focus (s : State) (lid : Nat) (f : Launch → Launch) : (s.updLaunch lid f).focus = s.focus := rfl
@[simp] theorem State.updLaunch_free (s : State) (lid : Nat) (f : Launch → Launch) : (s.updLaunch lid f).free = s.free := rfl
@[simp] theorem State.updLaunch_ids (s : State) (lid : Nat) (f : Launch → Launch) : (s.updLaunch lid f).ids = s.ids := rfl
@[simp] theorem State.updLaunch_hole (s : State) (lid : Nat) (f : Launch → Launch) : (s.updLaunch lid f).hole = s.hole := rfl
@[simp] theorem State.updLaunch_mem (s : State) (lid : Nat) (f : Launch → Launch) : (s.updLaunch lid f).mem = s.mem := rfl
@[simp] theorem State.updLaunch_tags (s : State) (lid : Nat) (f : Launch → Launch) : (s.updLaunch lid f).tags = s.tags := rfl
@[simp] theorem State.updLaunch_swz (s : State) (lid : Nat) (f : Launch → Launch) : (s.updLaunch lid f).swz = s.swz := rfl
@[simp] theorem State.updLaunch_poison (s : State) (lid : Nat) (f : Launch → Launch) : (s.updLaunch lid f).poison = s.poison := rfl
@[simp] theorem State.updLaunch_lost (s : State) (lid : Nat) (f : Launch → Launch) : (s.updLaunch lid f).lost = s.lost := rfl
@[simp] theorem State.updLaunch_stackHit (s : State) (lid : Nat) (f : Launch → Launch) : (s.updLaunch lid f).stackHit = s.stackHit := rfl
@[simp] theorem State.updLaunch_thr (s : State) (lid : Nat) (f : Launch → Launch) : (s.updLaunch lid f).thr = s.thr := rfl
@[simp] theorem State.updLaunch_warps (s : State) (lid : Nat) (f : Launch → Launch) : (s.updLaunch lid f).warps = s.warps := rfl
@[simp] theorem State.updLaunch_hk3Order (s : State) (lid : Nat) (f : Launch → Launch) : (s.updLaunch lid f).hk3Order = s.hk3Order := rfl
@[simp] theorem State.updLaunch_cores (s : State) (lid : Nat) (f : Launch → Launch) : (s.updLaunch lid f).cores = s.cores := rfl
@[simp] theorem State.updLaunch_dieTlb (s : State) (lid : Nat) (f : Launch → Launch) : (s.updLaunch lid f).dieTlb = s.dieTlb := rfl
@[simp] theorem State.updLaunch_wgs (s : State) (lid : Nat) (f : Launch → Launch) : (s.updLaunch lid f).wgs = s.wgs := rfl
@[simp] theorem State.updLaunch_parts (s : State) (lid : Nat) (f : Launch → Launch) : (s.updLaunch lid f).parts = s.parts := rfl
@[simp] theorem State.updLaunch_copy (s : State) (lid : Nat) (f : Launch → Launch) : (s.updLaunch lid f).copy = s.copy := rfl
@[simp] theorem State.updLaunch_coll (s : State) (lid : Nat) (f : Launch → Launch) : (s.updLaunch lid f).coll = s.coll := rfl
@[simp] theorem State.updLaunch_welt (s : State) (lid : Nat) (f : Launch → Launch) : (s.updLaunch lid f).welt = s.welt := rfl
@[simp] theorem State.updLaunch_batches (s : State) (lid : Nat) (f : Launch → Launch) : (s.updLaunch lid f).batches = s.batches := rfl
@[simp] theorem State.updLaunch_gangs (s : State) (lid : Nat) (f : Launch → Launch) : (s.updLaunch lid f).gangs = s.gangs := rfl
@[simp] theorem State.updLaunch_gangSeq (s : State) (lid : Nat) (f : Launch → Launch) : (s.updLaunch lid f).gangSeq = s.gangSeq := rfl
@[simp] theorem State.updLaunch_gangAborted (s : State) (lid : Nat) (f : Launch → Launch) : (s.updLaunch lid f).gangAborted = s.gangAborted := rfl
@[simp] theorem State.updLaunch_gangsIn (s : State) (lid : Nat) (f : Launch → Launch) : (s.updLaunch lid f).gangsIn = s.gangsIn := rfl
@[simp] theorem State.updLaunch_agents (s : State) (lid : Nat) (f : Launch → Launch) : (s.updLaunch lid f).agents = s.agents := rfl
@[simp] theorem State.updLaunch_tagWaits (s : State) (lid : Nat) (f : Launch → Launch) : (s.updLaunch lid f).tagWaits = s.tagWaits := rfl
@[simp] theorem State.updLaunch_lodge (s : State) (lid : Nat) (f : Launch → Launch) : (s.updLaunch lid f).lodge = s.lodge := rfl
@[simp] theorem State.updLaunch_cp (s : State) (lid : Nat) (f : Launch → Launch) : (s.updLaunch lid f).cp = s.cp := rfl
@[simp] theorem State.updLaunch_rings (s : State) (lid : Nat) (f : Launch → Launch) : (s.updLaunch lid f).rings = s.rings := rfl
@[simp] theorem State.updLaunch_dev (s : State) (lid : Nat) (f : Launch → Launch) : (s.updLaunch lid f).dev = s.dev := rfl

/-! ## updWg -/

@[simp] theorem State.updWg_cur (s : State) (lid g : Nat) (f : Wg → Wg) : (s.updWg lid g f).cur = s.cur := rfl
@[simp] theorem State.updWg_inputs (s : State) (lid g : Nat) (f : Wg → Wg) : (s.updWg lid g f).inputs = s.inputs := rfl
@[simp] theorem State.updWg_turn (s : State) (lid g : Nat) (f : Wg → Wg) : (s.updWg lid g f).turn = s.turn := rfl
@[simp] theorem State.updWg_focus (s : State) (lid g : Nat) (f : Wg → Wg) : (s.updWg lid g f).focus = s.focus := rfl
@[simp] theorem State.updWg_free (s : State) (lid g : Nat) (f : Wg → Wg) : (s.updWg lid g f).free = s.free := rfl
@[simp] theorem State.updWg_ids (s : State) (lid g : Nat) (f : Wg → Wg) : (s.updWg lid g f).ids = s.ids := rfl
@[simp] theorem State.updWg_hole (s : State) (lid g : Nat) (f : Wg → Wg) : (s.updWg lid g f).hole = s.hole := rfl
@[simp] theorem State.updWg_mem (s : State) (lid g : Nat) (f : Wg → Wg) : (s.updWg lid g f).mem = s.mem := rfl
@[simp] theorem State.updWg_tags (s : State) (lid g : Nat) (f : Wg → Wg) : (s.updWg lid g f).tags = s.tags := rfl
@[simp] theorem State.updWg_swz (s : State) (lid g : Nat) (f : Wg → Wg) : (s.updWg lid g f).swz = s.swz := rfl
@[simp] theorem State.updWg_poison (s : State) (lid g : Nat) (f : Wg → Wg) : (s.updWg lid g f).poison = s.poison := rfl
@[simp] theorem State.updWg_lost (s : State) (lid g : Nat) (f : Wg → Wg) : (s.updWg lid g f).lost = s.lost := rfl
@[simp] theorem State.updWg_stackHit (s : State) (lid g : Nat) (f : Wg → Wg) : (s.updWg lid g f).stackHit = s.stackHit := rfl
@[simp] theorem State.updWg_thr (s : State) (lid g : Nat) (f : Wg → Wg) : (s.updWg lid g f).thr = s.thr := rfl
@[simp] theorem State.updWg_warps (s : State) (lid g : Nat) (f : Wg → Wg) : (s.updWg lid g f).warps = s.warps := rfl
@[simp] theorem State.updWg_hk3Order (s : State) (lid g : Nat) (f : Wg → Wg) : (s.updWg lid g f).hk3Order = s.hk3Order := rfl
@[simp] theorem State.updWg_cores (s : State) (lid g : Nat) (f : Wg → Wg) : (s.updWg lid g f).cores = s.cores := rfl
@[simp] theorem State.updWg_dieTlb (s : State) (lid g : Nat) (f : Wg → Wg) : (s.updWg lid g f).dieTlb = s.dieTlb := rfl
@[simp] theorem State.updWg_launches (s : State) (lid g : Nat) (f : Wg → Wg) : (s.updWg lid g f).launches = s.launches := rfl
@[simp] theorem State.updWg_parts (s : State) (lid g : Nat) (f : Wg → Wg) : (s.updWg lid g f).parts = s.parts := rfl
@[simp] theorem State.updWg_copy (s : State) (lid g : Nat) (f : Wg → Wg) : (s.updWg lid g f).copy = s.copy := rfl
@[simp] theorem State.updWg_coll (s : State) (lid g : Nat) (f : Wg → Wg) : (s.updWg lid g f).coll = s.coll := rfl
@[simp] theorem State.updWg_welt (s : State) (lid g : Nat) (f : Wg → Wg) : (s.updWg lid g f).welt = s.welt := rfl
@[simp] theorem State.updWg_batches (s : State) (lid g : Nat) (f : Wg → Wg) : (s.updWg lid g f).batches = s.batches := rfl
@[simp] theorem State.updWg_gangs (s : State) (lid g : Nat) (f : Wg → Wg) : (s.updWg lid g f).gangs = s.gangs := rfl
@[simp] theorem State.updWg_gangSeq (s : State) (lid g : Nat) (f : Wg → Wg) : (s.updWg lid g f).gangSeq = s.gangSeq := rfl
@[simp] theorem State.updWg_gangAborted (s : State) (lid g : Nat) (f : Wg → Wg) : (s.updWg lid g f).gangAborted = s.gangAborted := rfl
@[simp] theorem State.updWg_gangsIn (s : State) (lid g : Nat) (f : Wg → Wg) : (s.updWg lid g f).gangsIn = s.gangsIn := rfl
@[simp] theorem State.updWg_agents (s : State) (lid g : Nat) (f : Wg → Wg) : (s.updWg lid g f).agents = s.agents := rfl
@[simp] theorem State.updWg_tagWaits (s : State) (lid g : Nat) (f : Wg → Wg) : (s.updWg lid g f).tagWaits = s.tagWaits := rfl
@[simp] theorem State.updWg_lodge (s : State) (lid g : Nat) (f : Wg → Wg) : (s.updWg lid g f).lodge = s.lodge := rfl
@[simp] theorem State.updWg_cp (s : State) (lid g : Nat) (f : Wg → Wg) : (s.updWg lid g f).cp = s.cp := rfl
@[simp] theorem State.updWg_rings (s : State) (lid g : Nat) (f : Wg → Wg) : (s.updWg lid g f).rings = s.rings := rfl
@[simp] theorem State.updWg_dev (s : State) (lid g : Nat) (f : Wg → Wg) : (s.updWg lid g f).dev = s.dev := rfl

/-! ## updEngine -/

@[simp] theorem State.updEngine_cur (s : State) (e : Nat) (f : CopyEngine → CopyEngine) : (s.updEngine e f).cur = s.cur := rfl
@[simp] theorem State.updEngine_inputs (s : State) (e : Nat) (f : CopyEngine → CopyEngine) : (s.updEngine e f).inputs = s.inputs := rfl
@[simp] theorem State.updEngine_turn (s : State) (e : Nat) (f : CopyEngine → CopyEngine) : (s.updEngine e f).turn = s.turn := rfl
@[simp] theorem State.updEngine_focus (s : State) (e : Nat) (f : CopyEngine → CopyEngine) : (s.updEngine e f).focus = s.focus := rfl
@[simp] theorem State.updEngine_free (s : State) (e : Nat) (f : CopyEngine → CopyEngine) : (s.updEngine e f).free = s.free := rfl
@[simp] theorem State.updEngine_ids (s : State) (e : Nat) (f : CopyEngine → CopyEngine) : (s.updEngine e f).ids = s.ids := rfl
@[simp] theorem State.updEngine_hole (s : State) (e : Nat) (f : CopyEngine → CopyEngine) : (s.updEngine e f).hole = s.hole := rfl
@[simp] theorem State.updEngine_mem (s : State) (e : Nat) (f : CopyEngine → CopyEngine) : (s.updEngine e f).mem = s.mem := rfl
@[simp] theorem State.updEngine_tags (s : State) (e : Nat) (f : CopyEngine → CopyEngine) : (s.updEngine e f).tags = s.tags := rfl
@[simp] theorem State.updEngine_swz (s : State) (e : Nat) (f : CopyEngine → CopyEngine) : (s.updEngine e f).swz = s.swz := rfl
@[simp] theorem State.updEngine_poison (s : State) (e : Nat) (f : CopyEngine → CopyEngine) : (s.updEngine e f).poison = s.poison := rfl
@[simp] theorem State.updEngine_lost (s : State) (e : Nat) (f : CopyEngine → CopyEngine) : (s.updEngine e f).lost = s.lost := rfl
@[simp] theorem State.updEngine_stackHit (s : State) (e : Nat) (f : CopyEngine → CopyEngine) : (s.updEngine e f).stackHit = s.stackHit := rfl
@[simp] theorem State.updEngine_thr (s : State) (e : Nat) (f : CopyEngine → CopyEngine) : (s.updEngine e f).thr = s.thr := rfl
@[simp] theorem State.updEngine_warps (s : State) (e : Nat) (f : CopyEngine → CopyEngine) : (s.updEngine e f).warps = s.warps := rfl
@[simp] theorem State.updEngine_hk3Order (s : State) (e : Nat) (f : CopyEngine → CopyEngine) : (s.updEngine e f).hk3Order = s.hk3Order := rfl
@[simp] theorem State.updEngine_cores (s : State) (e : Nat) (f : CopyEngine → CopyEngine) : (s.updEngine e f).cores = s.cores := rfl
@[simp] theorem State.updEngine_dieTlb (s : State) (e : Nat) (f : CopyEngine → CopyEngine) : (s.updEngine e f).dieTlb = s.dieTlb := rfl
@[simp] theorem State.updEngine_wgs (s : State) (e : Nat) (f : CopyEngine → CopyEngine) : (s.updEngine e f).wgs = s.wgs := rfl
@[simp] theorem State.updEngine_launches (s : State) (e : Nat) (f : CopyEngine → CopyEngine) : (s.updEngine e f).launches = s.launches := rfl
@[simp] theorem State.updEngine_parts (s : State) (e : Nat) (f : CopyEngine → CopyEngine) : (s.updEngine e f).parts = s.parts := rfl
@[simp] theorem State.updEngine_coll (s : State) (e : Nat) (f : CopyEngine → CopyEngine) : (s.updEngine e f).coll = s.coll := rfl
@[simp] theorem State.updEngine_welt (s : State) (e : Nat) (f : CopyEngine → CopyEngine) : (s.updEngine e f).welt = s.welt := rfl
@[simp] theorem State.updEngine_batches (s : State) (e : Nat) (f : CopyEngine → CopyEngine) : (s.updEngine e f).batches = s.batches := rfl
@[simp] theorem State.updEngine_gangs (s : State) (e : Nat) (f : CopyEngine → CopyEngine) : (s.updEngine e f).gangs = s.gangs := rfl
@[simp] theorem State.updEngine_gangSeq (s : State) (e : Nat) (f : CopyEngine → CopyEngine) : (s.updEngine e f).gangSeq = s.gangSeq := rfl
@[simp] theorem State.updEngine_gangAborted (s : State) (e : Nat) (f : CopyEngine → CopyEngine) : (s.updEngine e f).gangAborted = s.gangAborted := rfl
@[simp] theorem State.updEngine_gangsIn (s : State) (e : Nat) (f : CopyEngine → CopyEngine) : (s.updEngine e f).gangsIn = s.gangsIn := rfl
@[simp] theorem State.updEngine_agents (s : State) (e : Nat) (f : CopyEngine → CopyEngine) : (s.updEngine e f).agents = s.agents := rfl
@[simp] theorem State.updEngine_tagWaits (s : State) (e : Nat) (f : CopyEngine → CopyEngine) : (s.updEngine e f).tagWaits = s.tagWaits := rfl
@[simp] theorem State.updEngine_lodge (s : State) (e : Nat) (f : CopyEngine → CopyEngine) : (s.updEngine e f).lodge = s.lodge := rfl
@[simp] theorem State.updEngine_cp (s : State) (e : Nat) (f : CopyEngine → CopyEngine) : (s.updEngine e f).cp = s.cp := rfl
@[simp] theorem State.updEngine_rings (s : State) (e : Nat) (f : CopyEngine → CopyEngine) : (s.updEngine e f).rings = s.rings := rfl
@[simp] theorem State.updEngine_dev (s : State) (e : Nat) (f : CopyEngine → CopyEngine) : (s.updEngine e f).dev = s.dev := rfl

/-! ## updColl -/

@[simp] theorem State.updColl_cur (s : State) (e : Nat) (f : CollEngine → CollEngine) : (s.updColl e f).cur = s.cur := rfl
@[simp] theorem State.updColl_inputs (s : State) (e : Nat) (f : CollEngine → CollEngine) : (s.updColl e f).inputs = s.inputs := rfl
@[simp] theorem State.updColl_turn (s : State) (e : Nat) (f : CollEngine → CollEngine) : (s.updColl e f).turn = s.turn := rfl
@[simp] theorem State.updColl_focus (s : State) (e : Nat) (f : CollEngine → CollEngine) : (s.updColl e f).focus = s.focus := rfl
@[simp] theorem State.updColl_free (s : State) (e : Nat) (f : CollEngine → CollEngine) : (s.updColl e f).free = s.free := rfl
@[simp] theorem State.updColl_ids (s : State) (e : Nat) (f : CollEngine → CollEngine) : (s.updColl e f).ids = s.ids := rfl
@[simp] theorem State.updColl_hole (s : State) (e : Nat) (f : CollEngine → CollEngine) : (s.updColl e f).hole = s.hole := rfl
@[simp] theorem State.updColl_mem (s : State) (e : Nat) (f : CollEngine → CollEngine) : (s.updColl e f).mem = s.mem := rfl
@[simp] theorem State.updColl_tags (s : State) (e : Nat) (f : CollEngine → CollEngine) : (s.updColl e f).tags = s.tags := rfl
@[simp] theorem State.updColl_swz (s : State) (e : Nat) (f : CollEngine → CollEngine) : (s.updColl e f).swz = s.swz := rfl
@[simp] theorem State.updColl_poison (s : State) (e : Nat) (f : CollEngine → CollEngine) : (s.updColl e f).poison = s.poison := rfl
@[simp] theorem State.updColl_lost (s : State) (e : Nat) (f : CollEngine → CollEngine) : (s.updColl e f).lost = s.lost := rfl
@[simp] theorem State.updColl_stackHit (s : State) (e : Nat) (f : CollEngine → CollEngine) : (s.updColl e f).stackHit = s.stackHit := rfl
@[simp] theorem State.updColl_thr (s : State) (e : Nat) (f : CollEngine → CollEngine) : (s.updColl e f).thr = s.thr := rfl
@[simp] theorem State.updColl_warps (s : State) (e : Nat) (f : CollEngine → CollEngine) : (s.updColl e f).warps = s.warps := rfl
@[simp] theorem State.updColl_hk3Order (s : State) (e : Nat) (f : CollEngine → CollEngine) : (s.updColl e f).hk3Order = s.hk3Order := rfl
@[simp] theorem State.updColl_cores (s : State) (e : Nat) (f : CollEngine → CollEngine) : (s.updColl e f).cores = s.cores := rfl
@[simp] theorem State.updColl_dieTlb (s : State) (e : Nat) (f : CollEngine → CollEngine) : (s.updColl e f).dieTlb = s.dieTlb := rfl
@[simp] theorem State.updColl_wgs (s : State) (e : Nat) (f : CollEngine → CollEngine) : (s.updColl e f).wgs = s.wgs := rfl
@[simp] theorem State.updColl_launches (s : State) (e : Nat) (f : CollEngine → CollEngine) : (s.updColl e f).launches = s.launches := rfl
@[simp] theorem State.updColl_parts (s : State) (e : Nat) (f : CollEngine → CollEngine) : (s.updColl e f).parts = s.parts := rfl
@[simp] theorem State.updColl_copy (s : State) (e : Nat) (f : CollEngine → CollEngine) : (s.updColl e f).copy = s.copy := rfl
@[simp] theorem State.updColl_welt (s : State) (e : Nat) (f : CollEngine → CollEngine) : (s.updColl e f).welt = s.welt := rfl
@[simp] theorem State.updColl_batches (s : State) (e : Nat) (f : CollEngine → CollEngine) : (s.updColl e f).batches = s.batches := rfl
@[simp] theorem State.updColl_gangs (s : State) (e : Nat) (f : CollEngine → CollEngine) : (s.updColl e f).gangs = s.gangs := rfl
@[simp] theorem State.updColl_gangSeq (s : State) (e : Nat) (f : CollEngine → CollEngine) : (s.updColl e f).gangSeq = s.gangSeq := rfl
@[simp] theorem State.updColl_gangAborted (s : State) (e : Nat) (f : CollEngine → CollEngine) : (s.updColl e f).gangAborted = s.gangAborted := rfl
@[simp] theorem State.updColl_gangsIn (s : State) (e : Nat) (f : CollEngine → CollEngine) : (s.updColl e f).gangsIn = s.gangsIn := rfl
@[simp] theorem State.updColl_agents (s : State) (e : Nat) (f : CollEngine → CollEngine) : (s.updColl e f).agents = s.agents := rfl
@[simp] theorem State.updColl_tagWaits (s : State) (e : Nat) (f : CollEngine → CollEngine) : (s.updColl e f).tagWaits = s.tagWaits := rfl
@[simp] theorem State.updColl_lodge (s : State) (e : Nat) (f : CollEngine → CollEngine) : (s.updColl e f).lodge = s.lodge := rfl
@[simp] theorem State.updColl_cp (s : State) (e : Nat) (f : CollEngine → CollEngine) : (s.updColl e f).cp = s.cp := rfl
@[simp] theorem State.updColl_rings (s : State) (e : Nat) (f : CollEngine → CollEngine) : (s.updColl e f).rings = s.rings := rfl
@[simp] theorem State.updColl_dev (s : State) (e : Nat) (f : CollEngine → CollEngine) : (s.updColl e f).dev = s.dev := rfl

/-! ## updWelt -/

@[simp] theorem State.updWelt_cur (s : State) (d : Nat) (f : Welt → Welt) : (s.updWelt d f).cur = s.cur := rfl
@[simp] theorem State.updWelt_inputs (s : State) (d : Nat) (f : Welt → Welt) : (s.updWelt d f).inputs = s.inputs := rfl
@[simp] theorem State.updWelt_turn (s : State) (d : Nat) (f : Welt → Welt) : (s.updWelt d f).turn = s.turn := rfl
@[simp] theorem State.updWelt_focus (s : State) (d : Nat) (f : Welt → Welt) : (s.updWelt d f).focus = s.focus := rfl
@[simp] theorem State.updWelt_free (s : State) (d : Nat) (f : Welt → Welt) : (s.updWelt d f).free = s.free := rfl
@[simp] theorem State.updWelt_ids (s : State) (d : Nat) (f : Welt → Welt) : (s.updWelt d f).ids = s.ids := rfl
@[simp] theorem State.updWelt_hole (s : State) (d : Nat) (f : Welt → Welt) : (s.updWelt d f).hole = s.hole := rfl
@[simp] theorem State.updWelt_mem (s : State) (d : Nat) (f : Welt → Welt) : (s.updWelt d f).mem = s.mem := rfl
@[simp] theorem State.updWelt_tags (s : State) (d : Nat) (f : Welt → Welt) : (s.updWelt d f).tags = s.tags := rfl
@[simp] theorem State.updWelt_swz (s : State) (d : Nat) (f : Welt → Welt) : (s.updWelt d f).swz = s.swz := rfl
@[simp] theorem State.updWelt_poison (s : State) (d : Nat) (f : Welt → Welt) : (s.updWelt d f).poison = s.poison := rfl
@[simp] theorem State.updWelt_lost (s : State) (d : Nat) (f : Welt → Welt) : (s.updWelt d f).lost = s.lost := rfl
@[simp] theorem State.updWelt_stackHit (s : State) (d : Nat) (f : Welt → Welt) : (s.updWelt d f).stackHit = s.stackHit := rfl
@[simp] theorem State.updWelt_thr (s : State) (d : Nat) (f : Welt → Welt) : (s.updWelt d f).thr = s.thr := rfl
@[simp] theorem State.updWelt_warps (s : State) (d : Nat) (f : Welt → Welt) : (s.updWelt d f).warps = s.warps := rfl
@[simp] theorem State.updWelt_hk3Order (s : State) (d : Nat) (f : Welt → Welt) : (s.updWelt d f).hk3Order = s.hk3Order := rfl
@[simp] theorem State.updWelt_cores (s : State) (d : Nat) (f : Welt → Welt) : (s.updWelt d f).cores = s.cores := rfl
@[simp] theorem State.updWelt_dieTlb (s : State) (d : Nat) (f : Welt → Welt) : (s.updWelt d f).dieTlb = s.dieTlb := rfl
@[simp] theorem State.updWelt_wgs (s : State) (d : Nat) (f : Welt → Welt) : (s.updWelt d f).wgs = s.wgs := rfl
@[simp] theorem State.updWelt_launches (s : State) (d : Nat) (f : Welt → Welt) : (s.updWelt d f).launches = s.launches := rfl
@[simp] theorem State.updWelt_parts (s : State) (d : Nat) (f : Welt → Welt) : (s.updWelt d f).parts = s.parts := rfl
@[simp] theorem State.updWelt_copy (s : State) (d : Nat) (f : Welt → Welt) : (s.updWelt d f).copy = s.copy := rfl
@[simp] theorem State.updWelt_coll (s : State) (d : Nat) (f : Welt → Welt) : (s.updWelt d f).coll = s.coll := rfl
@[simp] theorem State.updWelt_batches (s : State) (d : Nat) (f : Welt → Welt) : (s.updWelt d f).batches = s.batches := rfl
@[simp] theorem State.updWelt_gangs (s : State) (d : Nat) (f : Welt → Welt) : (s.updWelt d f).gangs = s.gangs := rfl
@[simp] theorem State.updWelt_gangSeq (s : State) (d : Nat) (f : Welt → Welt) : (s.updWelt d f).gangSeq = s.gangSeq := rfl
@[simp] theorem State.updWelt_gangAborted (s : State) (d : Nat) (f : Welt → Welt) : (s.updWelt d f).gangAborted = s.gangAborted := rfl
@[simp] theorem State.updWelt_gangsIn (s : State) (d : Nat) (f : Welt → Welt) : (s.updWelt d f).gangsIn = s.gangsIn := rfl
@[simp] theorem State.updWelt_agents (s : State) (d : Nat) (f : Welt → Welt) : (s.updWelt d f).agents = s.agents := rfl
@[simp] theorem State.updWelt_tagWaits (s : State) (d : Nat) (f : Welt → Welt) : (s.updWelt d f).tagWaits = s.tagWaits := rfl
@[simp] theorem State.updWelt_lodge (s : State) (d : Nat) (f : Welt → Welt) : (s.updWelt d f).lodge = s.lodge := rfl
@[simp] theorem State.updWelt_cp (s : State) (d : Nat) (f : Welt → Welt) : (s.updWelt d f).cp = s.cp := rfl
@[simp] theorem State.updWelt_rings (s : State) (d : Nat) (f : Welt → Welt) : (s.updWelt d f).rings = s.rings := rfl
@[simp] theorem State.updWelt_dev (s : State) (d : Nat) (f : Welt → Welt) : (s.updWelt d f).dev = s.dev := rfl

/-! ## updCx -/

@[simp] theorem State.updCx_cur (s : State) (k : Nat) (f : Context → Context) : (s.updCx k f).cur = s.cur := rfl
@[simp] theorem State.updCx_inputs (s : State) (k : Nat) (f : Context → Context) : (s.updCx k f).inputs = s.inputs := rfl
@[simp] theorem State.updCx_turn (s : State) (k : Nat) (f : Context → Context) : (s.updCx k f).turn = s.turn := rfl
@[simp] theorem State.updCx_focus (s : State) (k : Nat) (f : Context → Context) : (s.updCx k f).focus = s.focus := rfl
@[simp] theorem State.updCx_free (s : State) (k : Nat) (f : Context → Context) : (s.updCx k f).free = s.free := rfl
@[simp] theorem State.updCx_ids (s : State) (k : Nat) (f : Context → Context) : (s.updCx k f).ids = s.ids := rfl
@[simp] theorem State.updCx_hole (s : State) (k : Nat) (f : Context → Context) : (s.updCx k f).hole = s.hole := rfl
@[simp] theorem State.updCx_mem (s : State) (k : Nat) (f : Context → Context) : (s.updCx k f).mem = s.mem := rfl
@[simp] theorem State.updCx_tags (s : State) (k : Nat) (f : Context → Context) : (s.updCx k f).tags = s.tags := rfl
@[simp] theorem State.updCx_swz (s : State) (k : Nat) (f : Context → Context) : (s.updCx k f).swz = s.swz := rfl
@[simp] theorem State.updCx_poison (s : State) (k : Nat) (f : Context → Context) : (s.updCx k f).poison = s.poison := rfl
@[simp] theorem State.updCx_lost (s : State) (k : Nat) (f : Context → Context) : (s.updCx k f).lost = s.lost := rfl
@[simp] theorem State.updCx_stackHit (s : State) (k : Nat) (f : Context → Context) : (s.updCx k f).stackHit = s.stackHit := rfl
@[simp] theorem State.updCx_thr (s : State) (k : Nat) (f : Context → Context) : (s.updCx k f).thr = s.thr := rfl
@[simp] theorem State.updCx_warps (s : State) (k : Nat) (f : Context → Context) : (s.updCx k f).warps = s.warps := rfl
@[simp] theorem State.updCx_hk3Order (s : State) (k : Nat) (f : Context → Context) : (s.updCx k f).hk3Order = s.hk3Order := rfl
@[simp] theorem State.updCx_cores (s : State) (k : Nat) (f : Context → Context) : (s.updCx k f).cores = s.cores := rfl
@[simp] theorem State.updCx_dieTlb (s : State) (k : Nat) (f : Context → Context) : (s.updCx k f).dieTlb = s.dieTlb := rfl
@[simp] theorem State.updCx_wgs (s : State) (k : Nat) (f : Context → Context) : (s.updCx k f).wgs = s.wgs := rfl
@[simp] theorem State.updCx_launches (s : State) (k : Nat) (f : Context → Context) : (s.updCx k f).launches = s.launches := rfl
@[simp] theorem State.updCx_parts (s : State) (k : Nat) (f : Context → Context) : (s.updCx k f).parts = s.parts := rfl
@[simp] theorem State.updCx_copy (s : State) (k : Nat) (f : Context → Context) : (s.updCx k f).copy = s.copy := rfl
@[simp] theorem State.updCx_coll (s : State) (k : Nat) (f : Context → Context) : (s.updCx k f).coll = s.coll := rfl
@[simp] theorem State.updCx_welt (s : State) (k : Nat) (f : Context → Context) : (s.updCx k f).welt = s.welt := rfl
@[simp] theorem State.updCx_batches (s : State) (k : Nat) (f : Context → Context) : (s.updCx k f).batches = s.batches := rfl
@[simp] theorem State.updCx_gangs (s : State) (k : Nat) (f : Context → Context) : (s.updCx k f).gangs = s.gangs := rfl
@[simp] theorem State.updCx_gangSeq (s : State) (k : Nat) (f : Context → Context) : (s.updCx k f).gangSeq = s.gangSeq := rfl
@[simp] theorem State.updCx_gangAborted (s : State) (k : Nat) (f : Context → Context) : (s.updCx k f).gangAborted = s.gangAborted := rfl
@[simp] theorem State.updCx_gangsIn (s : State) (k : Nat) (f : Context → Context) : (s.updCx k f).gangsIn = s.gangsIn := rfl
@[simp] theorem State.updCx_agents (s : State) (k : Nat) (f : Context → Context) : (s.updCx k f).agents = s.agents := rfl
@[simp] theorem State.updCx_tagWaits (s : State) (k : Nat) (f : Context → Context) : (s.updCx k f).tagWaits = s.tagWaits := rfl
@[simp] theorem State.updCx_lodge (s : State) (k : Nat) (f : Context → Context) : (s.updCx k f).lodge = s.lodge := rfl
@[simp] theorem State.updCx_rings (s : State) (k : Nat) (f : Context → Context) : (s.updCx k f).rings = s.rings := rfl
@[simp] theorem State.updCx_dev (s : State) (k : Nat) (f : Context → Context) : (s.updCx k f).dev = s.dev := rfl

/-! ## updPort -/

@[simp] theorem State.updPort_cur (s : State) (p : Nat) (f : Port → Port) : (s.updPort p f).cur = s.cur := rfl
@[simp] theorem State.updPort_inputs (s : State) (p : Nat) (f : Port → Port) : (s.updPort p f).inputs = s.inputs := rfl
@[simp] theorem State.updPort_turn (s : State) (p : Nat) (f : Port → Port) : (s.updPort p f).turn = s.turn := rfl
@[simp] theorem State.updPort_focus (s : State) (p : Nat) (f : Port → Port) : (s.updPort p f).focus = s.focus := rfl
@[simp] theorem State.updPort_free (s : State) (p : Nat) (f : Port → Port) : (s.updPort p f).free = s.free := rfl
@[simp] theorem State.updPort_ids (s : State) (p : Nat) (f : Port → Port) : (s.updPort p f).ids = s.ids := rfl
@[simp] theorem State.updPort_hole (s : State) (p : Nat) (f : Port → Port) : (s.updPort p f).hole = s.hole := rfl
@[simp] theorem State.updPort_mem (s : State) (p : Nat) (f : Port → Port) : (s.updPort p f).mem = s.mem := rfl
@[simp] theorem State.updPort_tags (s : State) (p : Nat) (f : Port → Port) : (s.updPort p f).tags = s.tags := rfl
@[simp] theorem State.updPort_swz (s : State) (p : Nat) (f : Port → Port) : (s.updPort p f).swz = s.swz := rfl
@[simp] theorem State.updPort_poison (s : State) (p : Nat) (f : Port → Port) : (s.updPort p f).poison = s.poison := rfl
@[simp] theorem State.updPort_lost (s : State) (p : Nat) (f : Port → Port) : (s.updPort p f).lost = s.lost := rfl
@[simp] theorem State.updPort_stackHit (s : State) (p : Nat) (f : Port → Port) : (s.updPort p f).stackHit = s.stackHit := rfl
@[simp] theorem State.updPort_thr (s : State) (p : Nat) (f : Port → Port) : (s.updPort p f).thr = s.thr := rfl
@[simp] theorem State.updPort_warps (s : State) (p : Nat) (f : Port → Port) : (s.updPort p f).warps = s.warps := rfl
@[simp] theorem State.updPort_hk3Order (s : State) (p : Nat) (f : Port → Port) : (s.updPort p f).hk3Order = s.hk3Order := rfl
@[simp] theorem State.updPort_cores (s : State) (p : Nat) (f : Port → Port) : (s.updPort p f).cores = s.cores := rfl
@[simp] theorem State.updPort_dieTlb (s : State) (p : Nat) (f : Port → Port) : (s.updPort p f).dieTlb = s.dieTlb := rfl
@[simp] theorem State.updPort_wgs (s : State) (p : Nat) (f : Port → Port) : (s.updPort p f).wgs = s.wgs := rfl
@[simp] theorem State.updPort_launches (s : State) (p : Nat) (f : Port → Port) : (s.updPort p f).launches = s.launches := rfl
@[simp] theorem State.updPort_parts (s : State) (p : Nat) (f : Port → Port) : (s.updPort p f).parts = s.parts := rfl
@[simp] theorem State.updPort_copy (s : State) (p : Nat) (f : Port → Port) : (s.updPort p f).copy = s.copy := rfl
@[simp] theorem State.updPort_coll (s : State) (p : Nat) (f : Port → Port) : (s.updPort p f).coll = s.coll := rfl
@[simp] theorem State.updPort_welt (s : State) (p : Nat) (f : Port → Port) : (s.updPort p f).welt = s.welt := rfl
@[simp] theorem State.updPort_batches (s : State) (p : Nat) (f : Port → Port) : (s.updPort p f).batches = s.batches := rfl
@[simp] theorem State.updPort_gangs (s : State) (p : Nat) (f : Port → Port) : (s.updPort p f).gangs = s.gangs := rfl
@[simp] theorem State.updPort_gangSeq (s : State) (p : Nat) (f : Port → Port) : (s.updPort p f).gangSeq = s.gangSeq := rfl
@[simp] theorem State.updPort_gangAborted (s : State) (p : Nat) (f : Port → Port) : (s.updPort p f).gangAborted = s.gangAborted := rfl
@[simp] theorem State.updPort_gangsIn (s : State) (p : Nat) (f : Port → Port) : (s.updPort p f).gangsIn = s.gangsIn := rfl
@[simp] theorem State.updPort_agents (s : State) (p : Nat) (f : Port → Port) : (s.updPort p f).agents = s.agents := rfl
@[simp] theorem State.updPort_tagWaits (s : State) (p : Nat) (f : Port → Port) : (s.updPort p f).tagWaits = s.tagWaits := rfl
@[simp] theorem State.updPort_lodge (s : State) (p : Nat) (f : Port → Port) : (s.updPort p f).lodge = s.lodge := rfl
@[simp] theorem State.updPort_rings (s : State) (p : Nat) (f : Port → Port) : (s.updPort p f).rings = s.rings := rfl
@[simp] theorem State.updPort_dev (s : State) (p : Nat) (f : Port → Port) : (s.updPort p f).dev = s.dev := rfl

/-! ## updRing -/

@[simp] theorem State.updRing_cur (s : State) (n : Nat) (f : Ring → Ring) : (s.updRing n f).cur = s.cur := rfl
@[simp] theorem State.updRing_inputs (s : State) (n : Nat) (f : Ring → Ring) : (s.updRing n f).inputs = s.inputs := rfl
@[simp] theorem State.updRing_turn (s : State) (n : Nat) (f : Ring → Ring) : (s.updRing n f).turn = s.turn := rfl
@[simp] theorem State.updRing_focus (s : State) (n : Nat) (f : Ring → Ring) : (s.updRing n f).focus = s.focus := rfl
@[simp] theorem State.updRing_free (s : State) (n : Nat) (f : Ring → Ring) : (s.updRing n f).free = s.free := rfl
@[simp] theorem State.updRing_ids (s : State) (n : Nat) (f : Ring → Ring) : (s.updRing n f).ids = s.ids := rfl
@[simp] theorem State.updRing_hole (s : State) (n : Nat) (f : Ring → Ring) : (s.updRing n f).hole = s.hole := rfl
@[simp] theorem State.updRing_mem (s : State) (n : Nat) (f : Ring → Ring) : (s.updRing n f).mem = s.mem := rfl
@[simp] theorem State.updRing_tags (s : State) (n : Nat) (f : Ring → Ring) : (s.updRing n f).tags = s.tags := rfl
@[simp] theorem State.updRing_swz (s : State) (n : Nat) (f : Ring → Ring) : (s.updRing n f).swz = s.swz := rfl
@[simp] theorem State.updRing_poison (s : State) (n : Nat) (f : Ring → Ring) : (s.updRing n f).poison = s.poison := rfl
@[simp] theorem State.updRing_lost (s : State) (n : Nat) (f : Ring → Ring) : (s.updRing n f).lost = s.lost := rfl
@[simp] theorem State.updRing_stackHit (s : State) (n : Nat) (f : Ring → Ring) : (s.updRing n f).stackHit = s.stackHit := rfl
@[simp] theorem State.updRing_thr (s : State) (n : Nat) (f : Ring → Ring) : (s.updRing n f).thr = s.thr := rfl
@[simp] theorem State.updRing_warps (s : State) (n : Nat) (f : Ring → Ring) : (s.updRing n f).warps = s.warps := rfl
@[simp] theorem State.updRing_hk3Order (s : State) (n : Nat) (f : Ring → Ring) : (s.updRing n f).hk3Order = s.hk3Order := rfl
@[simp] theorem State.updRing_cores (s : State) (n : Nat) (f : Ring → Ring) : (s.updRing n f).cores = s.cores := rfl
@[simp] theorem State.updRing_dieTlb (s : State) (n : Nat) (f : Ring → Ring) : (s.updRing n f).dieTlb = s.dieTlb := rfl
@[simp] theorem State.updRing_wgs (s : State) (n : Nat) (f : Ring → Ring) : (s.updRing n f).wgs = s.wgs := rfl
@[simp] theorem State.updRing_launches (s : State) (n : Nat) (f : Ring → Ring) : (s.updRing n f).launches = s.launches := rfl
@[simp] theorem State.updRing_parts (s : State) (n : Nat) (f : Ring → Ring) : (s.updRing n f).parts = s.parts := rfl
@[simp] theorem State.updRing_copy (s : State) (n : Nat) (f : Ring → Ring) : (s.updRing n f).copy = s.copy := rfl
@[simp] theorem State.updRing_coll (s : State) (n : Nat) (f : Ring → Ring) : (s.updRing n f).coll = s.coll := rfl
@[simp] theorem State.updRing_welt (s : State) (n : Nat) (f : Ring → Ring) : (s.updRing n f).welt = s.welt := rfl
@[simp] theorem State.updRing_batches (s : State) (n : Nat) (f : Ring → Ring) : (s.updRing n f).batches = s.batches := rfl
@[simp] theorem State.updRing_gangs (s : State) (n : Nat) (f : Ring → Ring) : (s.updRing n f).gangs = s.gangs := rfl
@[simp] theorem State.updRing_gangSeq (s : State) (n : Nat) (f : Ring → Ring) : (s.updRing n f).gangSeq = s.gangSeq := rfl
@[simp] theorem State.updRing_gangAborted (s : State) (n : Nat) (f : Ring → Ring) : (s.updRing n f).gangAborted = s.gangAborted := rfl
@[simp] theorem State.updRing_gangsIn (s : State) (n : Nat) (f : Ring → Ring) : (s.updRing n f).gangsIn = s.gangsIn := rfl
@[simp] theorem State.updRing_agents (s : State) (n : Nat) (f : Ring → Ring) : (s.updRing n f).agents = s.agents := rfl
@[simp] theorem State.updRing_tagWaits (s : State) (n : Nat) (f : Ring → Ring) : (s.updRing n f).tagWaits = s.tagWaits := rfl
@[simp] theorem State.updRing_lodge (s : State) (n : Nat) (f : Ring → Ring) : (s.updRing n f).lodge = s.lodge := rfl
@[simp] theorem State.updRing_cp (s : State) (n : Nat) (f : Ring → Ring) : (s.updRing n f).cp = s.cp := rfl
@[simp] theorem State.updRing_dev (s : State) (n : Nat) (f : Ring → Ring) : (s.updRing n f).dev = s.dev := rfl

/-! ## setTag -/

@[simp] theorem State.setTag_cur (s : State) (k : Nat) (v : Bool) : (s.setTag k v).cur = s.cur := rfl
@[simp] theorem State.setTag_inputs (s : State) (k : Nat) (v : Bool) : (s.setTag k v).inputs = s.inputs := rfl
@[simp] theorem State.setTag_turn (s : State) (k : Nat) (v : Bool) : (s.setTag k v).turn = s.turn := rfl
@[simp] theorem State.setTag_focus (s : State) (k : Nat) (v : Bool) : (s.setTag k v).focus = s.focus := rfl
@[simp] theorem State.setTag_free (s : State) (k : Nat) (v : Bool) : (s.setTag k v).free = s.free := rfl
@[simp] theorem State.setTag_ids (s : State) (k : Nat) (v : Bool) : (s.setTag k v).ids = s.ids := rfl
@[simp] theorem State.setTag_hole (s : State) (k : Nat) (v : Bool) : (s.setTag k v).hole = s.hole := rfl
@[simp] theorem State.setTag_mem (s : State) (k : Nat) (v : Bool) : (s.setTag k v).mem = s.mem := rfl
@[simp] theorem State.setTag_swz (s : State) (k : Nat) (v : Bool) : (s.setTag k v).swz = s.swz := rfl
@[simp] theorem State.setTag_poison (s : State) (k : Nat) (v : Bool) : (s.setTag k v).poison = s.poison := rfl
@[simp] theorem State.setTag_stackHit (s : State) (k : Nat) (v : Bool) : (s.setTag k v).stackHit = s.stackHit := rfl
@[simp] theorem State.setTag_thr (s : State) (k : Nat) (v : Bool) : (s.setTag k v).thr = s.thr := rfl
@[simp] theorem State.setTag_warps (s : State) (k : Nat) (v : Bool) : (s.setTag k v).warps = s.warps := rfl
@[simp] theorem State.setTag_hk3Order (s : State) (k : Nat) (v : Bool) : (s.setTag k v).hk3Order = s.hk3Order := rfl
@[simp] theorem State.setTag_cores (s : State) (k : Nat) (v : Bool) : (s.setTag k v).cores = s.cores := rfl
@[simp] theorem State.setTag_dieTlb (s : State) (k : Nat) (v : Bool) : (s.setTag k v).dieTlb = s.dieTlb := rfl
@[simp] theorem State.setTag_wgs (s : State) (k : Nat) (v : Bool) : (s.setTag k v).wgs = s.wgs := rfl
@[simp] theorem State.setTag_launches (s : State) (k : Nat) (v : Bool) : (s.setTag k v).launches = s.launches := rfl
@[simp] theorem State.setTag_parts (s : State) (k : Nat) (v : Bool) : (s.setTag k v).parts = s.parts := rfl
@[simp] theorem State.setTag_copy (s : State) (k : Nat) (v : Bool) : (s.setTag k v).copy = s.copy := rfl
@[simp] theorem State.setTag_coll (s : State) (k : Nat) (v : Bool) : (s.setTag k v).coll = s.coll := rfl
@[simp] theorem State.setTag_welt (s : State) (k : Nat) (v : Bool) : (s.setTag k v).welt = s.welt := rfl
@[simp] theorem State.setTag_batches (s : State) (k : Nat) (v : Bool) : (s.setTag k v).batches = s.batches := rfl
@[simp] theorem State.setTag_gangs (s : State) (k : Nat) (v : Bool) : (s.setTag k v).gangs = s.gangs := rfl
@[simp] theorem State.setTag_gangSeq (s : State) (k : Nat) (v : Bool) : (s.setTag k v).gangSeq = s.gangSeq := rfl
@[simp] theorem State.setTag_gangAborted (s : State) (k : Nat) (v : Bool) : (s.setTag k v).gangAborted = s.gangAborted := rfl
@[simp] theorem State.setTag_gangsIn (s : State) (k : Nat) (v : Bool) : (s.setTag k v).gangsIn = s.gangsIn := rfl
@[simp] theorem State.setTag_agents (s : State) (k : Nat) (v : Bool) : (s.setTag k v).agents = s.agents := rfl
@[simp] theorem State.setTag_tagWaits (s : State) (k : Nat) (v : Bool) : (s.setTag k v).tagWaits = s.tagWaits := rfl
@[simp] theorem State.setTag_lodge (s : State) (k : Nat) (v : Bool) : (s.setTag k v).lodge = s.lodge := rfl
@[simp] theorem State.setTag_cp (s : State) (k : Nat) (v : Bool) : (s.setTag k v).cp = s.cp := rfl
@[simp] theorem State.setTag_rings (s : State) (k : Nat) (v : Bool) : (s.setTag k v).rings = s.rings := rfl
@[simp] theorem State.setTag_dev (s : State) (k : Nat) (v : Bool) : (s.setTag k v).dev = s.dev := rfl

/-! ## setSwz -/

@[simp] theorem State.setSwz_cur (s : State) (k : Nat) (z : BitVec 2) : (s.setSwz k z).cur = s.cur := rfl
@[simp] theorem State.setSwz_inputs (s : State) (k : Nat) (z : BitVec 2) : (s.setSwz k z).inputs = s.inputs := rfl
@[simp] theorem State.setSwz_turn (s : State) (k : Nat) (z : BitVec 2) : (s.setSwz k z).turn = s.turn := rfl
@[simp] theorem State.setSwz_focus (s : State) (k : Nat) (z : BitVec 2) : (s.setSwz k z).focus = s.focus := rfl
@[simp] theorem State.setSwz_free (s : State) (k : Nat) (z : BitVec 2) : (s.setSwz k z).free = s.free := rfl
@[simp] theorem State.setSwz_ids (s : State) (k : Nat) (z : BitVec 2) : (s.setSwz k z).ids = s.ids := rfl
@[simp] theorem State.setSwz_hole (s : State) (k : Nat) (z : BitVec 2) : (s.setSwz k z).hole = s.hole := rfl
@[simp] theorem State.setSwz_mem (s : State) (k : Nat) (z : BitVec 2) : (s.setSwz k z).mem = s.mem := rfl
@[simp] theorem State.setSwz_tags (s : State) (k : Nat) (z : BitVec 2) : (s.setSwz k z).tags = s.tags := rfl
@[simp] theorem State.setSwz_poison (s : State) (k : Nat) (z : BitVec 2) : (s.setSwz k z).poison = s.poison := rfl
@[simp] theorem State.setSwz_stackHit (s : State) (k : Nat) (z : BitVec 2) : (s.setSwz k z).stackHit = s.stackHit := rfl
@[simp] theorem State.setSwz_thr (s : State) (k : Nat) (z : BitVec 2) : (s.setSwz k z).thr = s.thr := rfl
@[simp] theorem State.setSwz_warps (s : State) (k : Nat) (z : BitVec 2) : (s.setSwz k z).warps = s.warps := rfl
@[simp] theorem State.setSwz_hk3Order (s : State) (k : Nat) (z : BitVec 2) : (s.setSwz k z).hk3Order = s.hk3Order := rfl
@[simp] theorem State.setSwz_cores (s : State) (k : Nat) (z : BitVec 2) : (s.setSwz k z).cores = s.cores := rfl
@[simp] theorem State.setSwz_dieTlb (s : State) (k : Nat) (z : BitVec 2) : (s.setSwz k z).dieTlb = s.dieTlb := rfl
@[simp] theorem State.setSwz_wgs (s : State) (k : Nat) (z : BitVec 2) : (s.setSwz k z).wgs = s.wgs := rfl
@[simp] theorem State.setSwz_launches (s : State) (k : Nat) (z : BitVec 2) : (s.setSwz k z).launches = s.launches := rfl
@[simp] theorem State.setSwz_parts (s : State) (k : Nat) (z : BitVec 2) : (s.setSwz k z).parts = s.parts := rfl
@[simp] theorem State.setSwz_copy (s : State) (k : Nat) (z : BitVec 2) : (s.setSwz k z).copy = s.copy := rfl
@[simp] theorem State.setSwz_coll (s : State) (k : Nat) (z : BitVec 2) : (s.setSwz k z).coll = s.coll := rfl
@[simp] theorem State.setSwz_welt (s : State) (k : Nat) (z : BitVec 2) : (s.setSwz k z).welt = s.welt := rfl
@[simp] theorem State.setSwz_batches (s : State) (k : Nat) (z : BitVec 2) : (s.setSwz k z).batches = s.batches := rfl
@[simp] theorem State.setSwz_gangs (s : State) (k : Nat) (z : BitVec 2) : (s.setSwz k z).gangs = s.gangs := rfl
@[simp] theorem State.setSwz_gangSeq (s : State) (k : Nat) (z : BitVec 2) : (s.setSwz k z).gangSeq = s.gangSeq := rfl
@[simp] theorem State.setSwz_gangAborted (s : State) (k : Nat) (z : BitVec 2) : (s.setSwz k z).gangAborted = s.gangAborted := rfl
@[simp] theorem State.setSwz_gangsIn (s : State) (k : Nat) (z : BitVec 2) : (s.setSwz k z).gangsIn = s.gangsIn := rfl
@[simp] theorem State.setSwz_agents (s : State) (k : Nat) (z : BitVec 2) : (s.setSwz k z).agents = s.agents := rfl
@[simp] theorem State.setSwz_tagWaits (s : State) (k : Nat) (z : BitVec 2) : (s.setSwz k z).tagWaits = s.tagWaits := rfl
@[simp] theorem State.setSwz_lodge (s : State) (k : Nat) (z : BitVec 2) : (s.setSwz k z).lodge = s.lodge := rfl
@[simp] theorem State.setSwz_cp (s : State) (k : Nat) (z : BitVec 2) : (s.setSwz k z).cp = s.cp := rfl
@[simp] theorem State.setSwz_rings (s : State) (k : Nat) (z : BitVec 2) : (s.setSwz k z).rings = s.rings := rfl
@[simp] theorem State.setSwz_dev (s : State) (k : Nat) (z : BitVec 2) : (s.setSwz k z).dev = s.dev := rfl

/-! ## putBytes -/

@[simp] theorem State.putBytes_cur (s : State) (k : Nat) (bs : List Byte) : (s.putBytes k bs).cur = s.cur := rfl
@[simp] theorem State.putBytes_inputs (s : State) (k : Nat) (bs : List Byte) : (s.putBytes k bs).inputs = s.inputs := rfl
@[simp] theorem State.putBytes_turn (s : State) (k : Nat) (bs : List Byte) : (s.putBytes k bs).turn = s.turn := rfl
@[simp] theorem State.putBytes_focus (s : State) (k : Nat) (bs : List Byte) : (s.putBytes k bs).focus = s.focus := rfl
@[simp] theorem State.putBytes_free (s : State) (k : Nat) (bs : List Byte) : (s.putBytes k bs).free = s.free := rfl
@[simp] theorem State.putBytes_ids (s : State) (k : Nat) (bs : List Byte) : (s.putBytes k bs).ids = s.ids := rfl
@[simp] theorem State.putBytes_hole (s : State) (k : Nat) (bs : List Byte) : (s.putBytes k bs).hole = s.hole := rfl
@[simp] theorem State.putBytes_tags (s : State) (k : Nat) (bs : List Byte) : (s.putBytes k bs).tags = s.tags := rfl
@[simp] theorem State.putBytes_swz (s : State) (k : Nat) (bs : List Byte) : (s.putBytes k bs).swz = s.swz := rfl
@[simp] theorem State.putBytes_stackHit (s : State) (k : Nat) (bs : List Byte) : (s.putBytes k bs).stackHit = s.stackHit := rfl
@[simp] theorem State.putBytes_thr (s : State) (k : Nat) (bs : List Byte) : (s.putBytes k bs).thr = s.thr := rfl
@[simp] theorem State.putBytes_warps (s : State) (k : Nat) (bs : List Byte) : (s.putBytes k bs).warps = s.warps := rfl
@[simp] theorem State.putBytes_hk3Order (s : State) (k : Nat) (bs : List Byte) : (s.putBytes k bs).hk3Order = s.hk3Order := rfl
@[simp] theorem State.putBytes_cores (s : State) (k : Nat) (bs : List Byte) : (s.putBytes k bs).cores = s.cores := rfl
@[simp] theorem State.putBytes_dieTlb (s : State) (k : Nat) (bs : List Byte) : (s.putBytes k bs).dieTlb = s.dieTlb := rfl
@[simp] theorem State.putBytes_wgs (s : State) (k : Nat) (bs : List Byte) : (s.putBytes k bs).wgs = s.wgs := rfl
@[simp] theorem State.putBytes_launches (s : State) (k : Nat) (bs : List Byte) : (s.putBytes k bs).launches = s.launches := rfl
@[simp] theorem State.putBytes_parts (s : State) (k : Nat) (bs : List Byte) : (s.putBytes k bs).parts = s.parts := rfl
@[simp] theorem State.putBytes_copy (s : State) (k : Nat) (bs : List Byte) : (s.putBytes k bs).copy = s.copy := rfl
@[simp] theorem State.putBytes_coll (s : State) (k : Nat) (bs : List Byte) : (s.putBytes k bs).coll = s.coll := rfl
@[simp] theorem State.putBytes_welt (s : State) (k : Nat) (bs : List Byte) : (s.putBytes k bs).welt = s.welt := rfl
@[simp] theorem State.putBytes_batches (s : State) (k : Nat) (bs : List Byte) : (s.putBytes k bs).batches = s.batches := rfl
@[simp] theorem State.putBytes_gangs (s : State) (k : Nat) (bs : List Byte) : (s.putBytes k bs).gangs = s.gangs := rfl
@[simp] theorem State.putBytes_gangSeq (s : State) (k : Nat) (bs : List Byte) : (s.putBytes k bs).gangSeq = s.gangSeq := rfl
@[simp] theorem State.putBytes_gangAborted (s : State) (k : Nat) (bs : List Byte) : (s.putBytes k bs).gangAborted = s.gangAborted := rfl
@[simp] theorem State.putBytes_gangsIn (s : State) (k : Nat) (bs : List Byte) : (s.putBytes k bs).gangsIn = s.gangsIn := rfl
@[simp] theorem State.putBytes_agents (s : State) (k : Nat) (bs : List Byte) : (s.putBytes k bs).agents = s.agents := rfl
@[simp] theorem State.putBytes_tagWaits (s : State) (k : Nat) (bs : List Byte) : (s.putBytes k bs).tagWaits = s.tagWaits := rfl
@[simp] theorem State.putBytes_lodge (s : State) (k : Nat) (bs : List Byte) : (s.putBytes k bs).lodge = s.lodge := rfl
@[simp] theorem State.putBytes_cp (s : State) (k : Nat) (bs : List Byte) : (s.putBytes k bs).cp = s.cp := rfl
@[simp] theorem State.putBytes_rings (s : State) (k : Nat) (bs : List Byte) : (s.putBytes k bs).rings = s.rings := rfl
@[simp] theorem State.putBytes_dev (s : State) (k : Nat) (bs : List Byte) : (s.putBytes k bs).dev = s.dev := rfl

/-! ## zeroRange -/

@[simp] theorem State.zeroRange_cur (s : State) (k n : Nat) : (s.zeroRange k n).cur = s.cur := rfl
@[simp] theorem State.zeroRange_inputs (s : State) (k n : Nat) : (s.zeroRange k n).inputs = s.inputs := rfl
@[simp] theorem State.zeroRange_turn (s : State) (k n : Nat) : (s.zeroRange k n).turn = s.turn := rfl
@[simp] theorem State.zeroRange_focus (s : State) (k n : Nat) : (s.zeroRange k n).focus = s.focus := rfl
@[simp] theorem State.zeroRange_free (s : State) (k n : Nat) : (s.zeroRange k n).free = s.free := rfl
@[simp] theorem State.zeroRange_ids (s : State) (k n : Nat) : (s.zeroRange k n).ids = s.ids := rfl
@[simp] theorem State.zeroRange_hole (s : State) (k n : Nat) : (s.zeroRange k n).hole = s.hole := rfl
@[simp] theorem State.zeroRange_tags (s : State) (k n : Nat) : (s.zeroRange k n).tags = s.tags := rfl
@[simp] theorem State.zeroRange_swz (s : State) (k n : Nat) : (s.zeroRange k n).swz = s.swz := rfl
@[simp] theorem State.zeroRange_stackHit (s : State) (k n : Nat) : (s.zeroRange k n).stackHit = s.stackHit := rfl
@[simp] theorem State.zeroRange_thr (s : State) (k n : Nat) : (s.zeroRange k n).thr = s.thr := rfl
@[simp] theorem State.zeroRange_warps (s : State) (k n : Nat) : (s.zeroRange k n).warps = s.warps := rfl
@[simp] theorem State.zeroRange_hk3Order (s : State) (k n : Nat) : (s.zeroRange k n).hk3Order = s.hk3Order := rfl
@[simp] theorem State.zeroRange_cores (s : State) (k n : Nat) : (s.zeroRange k n).cores = s.cores := rfl
@[simp] theorem State.zeroRange_dieTlb (s : State) (k n : Nat) : (s.zeroRange k n).dieTlb = s.dieTlb := rfl
@[simp] theorem State.zeroRange_wgs (s : State) (k n : Nat) : (s.zeroRange k n).wgs = s.wgs := rfl
@[simp] theorem State.zeroRange_launches (s : State) (k n : Nat) : (s.zeroRange k n).launches = s.launches := rfl
@[simp] theorem State.zeroRange_parts (s : State) (k n : Nat) : (s.zeroRange k n).parts = s.parts := rfl
@[simp] theorem State.zeroRange_copy (s : State) (k n : Nat) : (s.zeroRange k n).copy = s.copy := rfl
@[simp] theorem State.zeroRange_coll (s : State) (k n : Nat) : (s.zeroRange k n).coll = s.coll := rfl
@[simp] theorem State.zeroRange_welt (s : State) (k n : Nat) : (s.zeroRange k n).welt = s.welt := rfl
@[simp] theorem State.zeroRange_batches (s : State) (k n : Nat) : (s.zeroRange k n).batches = s.batches := rfl
@[simp] theorem State.zeroRange_gangs (s : State) (k n : Nat) : (s.zeroRange k n).gangs = s.gangs := rfl
@[simp] theorem State.zeroRange_gangSeq (s : State) (k n : Nat) : (s.zeroRange k n).gangSeq = s.gangSeq := rfl
@[simp] theorem State.zeroRange_gangAborted (s : State) (k n : Nat) : (s.zeroRange k n).gangAborted = s.gangAborted := rfl
@[simp] theorem State.zeroRange_gangsIn (s : State) (k n : Nat) : (s.zeroRange k n).gangsIn = s.gangsIn := rfl
@[simp] theorem State.zeroRange_agents (s : State) (k n : Nat) : (s.zeroRange k n).agents = s.agents := rfl
@[simp] theorem State.zeroRange_tagWaits (s : State) (k n : Nat) : (s.zeroRange k n).tagWaits = s.tagWaits := rfl
@[simp] theorem State.zeroRange_lodge (s : State) (k n : Nat) : (s.zeroRange k n).lodge = s.lodge := rfl
@[simp] theorem State.zeroRange_cp (s : State) (k n : Nat) : (s.zeroRange k n).cp = s.cp := rfl
@[simp] theorem State.zeroRange_rings (s : State) (k n : Nat) : (s.zeroRange k n).rings = s.rings := rfl
@[simp] theorem State.zeroRange_dev (s : State) (k n : Nat) : (s.zeroRange k n).dev = s.dev := rfl

/-! ## clearSlice -/

@[simp] theorem State.clearSlice_cur (s : State) (c o n : Nat) : (s.clearSlice c o n).cur = s.cur := rfl
@[simp] theorem State.clearSlice_inputs (s : State) (c o n : Nat) : (s.clearSlice c o n).inputs = s.inputs := rfl
@[simp] theorem State.clearSlice_turn (s : State) (c o n : Nat) : (s.clearSlice c o n).turn = s.turn := rfl
@[simp] theorem State.clearSlice_focus (s : State) (c o n : Nat) : (s.clearSlice c o n).focus = s.focus := rfl
@[simp] theorem State.clearSlice_free (s : State) (c o n : Nat) : (s.clearSlice c o n).free = s.free := rfl
@[simp] theorem State.clearSlice_ids (s : State) (c o n : Nat) : (s.clearSlice c o n).ids = s.ids := rfl
@[simp] theorem State.clearSlice_hole (s : State) (c o n : Nat) : (s.clearSlice c o n).hole = s.hole := rfl
@[simp] theorem State.clearSlice_stackHit (s : State) (c o n : Nat) : (s.clearSlice c o n).stackHit = s.stackHit := rfl
@[simp] theorem State.clearSlice_thr (s : State) (c o n : Nat) : (s.clearSlice c o n).thr = s.thr := rfl
@[simp] theorem State.clearSlice_warps (s : State) (c o n : Nat) : (s.clearSlice c o n).warps = s.warps := rfl
@[simp] theorem State.clearSlice_hk3Order (s : State) (c o n : Nat) : (s.clearSlice c o n).hk3Order = s.hk3Order := rfl
@[simp] theorem State.clearSlice_cores (s : State) (c o n : Nat) : (s.clearSlice c o n).cores = s.cores := rfl
@[simp] theorem State.clearSlice_dieTlb (s : State) (c o n : Nat) : (s.clearSlice c o n).dieTlb = s.dieTlb := rfl
@[simp] theorem State.clearSlice_wgs (s : State) (c o n : Nat) : (s.clearSlice c o n).wgs = s.wgs := rfl
@[simp] theorem State.clearSlice_launches (s : State) (c o n : Nat) : (s.clearSlice c o n).launches = s.launches := rfl
@[simp] theorem State.clearSlice_parts (s : State) (c o n : Nat) : (s.clearSlice c o n).parts = s.parts := rfl
@[simp] theorem State.clearSlice_copy (s : State) (c o n : Nat) : (s.clearSlice c o n).copy = s.copy := rfl
@[simp] theorem State.clearSlice_coll (s : State) (c o n : Nat) : (s.clearSlice c o n).coll = s.coll := rfl
@[simp] theorem State.clearSlice_welt (s : State) (c o n : Nat) : (s.clearSlice c o n).welt = s.welt := rfl
@[simp] theorem State.clearSlice_batches (s : State) (c o n : Nat) : (s.clearSlice c o n).batches = s.batches := rfl
@[simp] theorem State.clearSlice_gangs (s : State) (c o n : Nat) : (s.clearSlice c o n).gangs = s.gangs := rfl
@[simp] theorem State.clearSlice_gangSeq (s : State) (c o n : Nat) : (s.clearSlice c o n).gangSeq = s.gangSeq := rfl
@[simp] theorem State.clearSlice_gangAborted (s : State) (c o n : Nat) : (s.clearSlice c o n).gangAborted = s.gangAborted := rfl
@[simp] theorem State.clearSlice_gangsIn (s : State) (c o n : Nat) : (s.clearSlice c o n).gangsIn = s.gangsIn := rfl
@[simp] theorem State.clearSlice_agents (s : State) (c o n : Nat) : (s.clearSlice c o n).agents = s.agents := rfl
@[simp] theorem State.clearSlice_tagWaits (s : State) (c o n : Nat) : (s.clearSlice c o n).tagWaits = s.tagWaits := rfl
@[simp] theorem State.clearSlice_lodge (s : State) (c o n : Nat) : (s.clearSlice c o n).lodge = s.lodge := rfl
@[simp] theorem State.clearSlice_cp (s : State) (c o n : Nat) : (s.clearSlice c o n).cp = s.cp := rfl
@[simp] theorem State.clearSlice_rings (s : State) (c o n : Nat) : (s.clearSlice c o n).rings = s.rings := rfl
@[simp] theorem State.clearSlice_dev (s : State) (c o n : Nat) : (s.clearSlice c o n).dev = s.dev := rfl

/-! ## endWord -/

@[simp] theorem State.endWord_inputs (s : State) : (s.endWord).inputs = s.inputs := rfl
@[simp] theorem State.endWord_turn (s : State) : (s.endWord).turn = s.turn := rfl
@[simp] theorem State.endWord_focus (s : State) : (s.endWord).focus = s.focus := rfl
@[simp] theorem State.endWord_free (s : State) : (s.endWord).free = s.free := rfl
@[simp] theorem State.endWord_ids (s : State) : (s.endWord).ids = s.ids := rfl
@[simp] theorem State.endWord_hole (s : State) : (s.endWord).hole = s.hole := rfl
@[simp] theorem State.endWord_mem (s : State) : (s.endWord).mem = s.mem := rfl
@[simp] theorem State.endWord_tags (s : State) : (s.endWord).tags = s.tags := rfl
@[simp] theorem State.endWord_swz (s : State) : (s.endWord).swz = s.swz := rfl
@[simp] theorem State.endWord_poison (s : State) : (s.endWord).poison = s.poison := rfl
@[simp] theorem State.endWord_lost (s : State) : (s.endWord).lost = s.lost := rfl
@[simp] theorem State.endWord_stackHit (s : State) : (s.endWord).stackHit = s.stackHit := rfl
@[simp] theorem State.endWord_thr (s : State) : (s.endWord).thr = s.thr := rfl
@[simp] theorem State.endWord_warps (s : State) : (s.endWord).warps = s.warps := rfl
@[simp] theorem State.endWord_hk3Order (s : State) : (s.endWord).hk3Order = s.hk3Order := rfl
@[simp] theorem State.endWord_cores (s : State) : (s.endWord).cores = s.cores := rfl
@[simp] theorem State.endWord_dieTlb (s : State) : (s.endWord).dieTlb = s.dieTlb := rfl
@[simp] theorem State.endWord_wgs (s : State) : (s.endWord).wgs = s.wgs := rfl
@[simp] theorem State.endWord_launches (s : State) : (s.endWord).launches = s.launches := rfl
@[simp] theorem State.endWord_parts (s : State) : (s.endWord).parts = s.parts := rfl
@[simp] theorem State.endWord_copy (s : State) : (s.endWord).copy = s.copy := rfl
@[simp] theorem State.endWord_coll (s : State) : (s.endWord).coll = s.coll := rfl
@[simp] theorem State.endWord_welt (s : State) : (s.endWord).welt = s.welt := rfl
@[simp] theorem State.endWord_batches (s : State) : (s.endWord).batches = s.batches := rfl
@[simp] theorem State.endWord_gangs (s : State) : (s.endWord).gangs = s.gangs := rfl
@[simp] theorem State.endWord_gangSeq (s : State) : (s.endWord).gangSeq = s.gangSeq := rfl
@[simp] theorem State.endWord_gangAborted (s : State) : (s.endWord).gangAborted = s.gangAborted := rfl
@[simp] theorem State.endWord_gangsIn (s : State) : (s.endWord).gangsIn = s.gangsIn := rfl
@[simp] theorem State.endWord_agents (s : State) : (s.endWord).agents = s.agents := rfl
@[simp] theorem State.endWord_tagWaits (s : State) : (s.endWord).tagWaits = s.tagWaits := rfl
@[simp] theorem State.endWord_lodge (s : State) : (s.endWord).lodge = s.lodge := rfl
@[simp] theorem State.endWord_cp (s : State) : (s.endWord).cp = s.cp := rfl
@[simp] theorem State.endWord_rings (s : State) : (s.endWord).rings = s.rings := rfl
@[simp] theorem State.endWord_dev (s : State) : (s.endWord).dev = s.dev := rfl

/-! ## occupy -/

@[simp] theorem State.occupy_cur (s : State) (u n : Nat) : (s.occupy u n).cur = s.cur := rfl
@[simp] theorem State.occupy_inputs (s : State) (u n : Nat) : (s.occupy u n).inputs = s.inputs := rfl
@[simp] theorem State.occupy_turn (s : State) (u n : Nat) : (s.occupy u n).turn = s.turn := rfl
@[simp] theorem State.occupy_focus (s : State) (u n : Nat) : (s.occupy u n).focus = s.focus := rfl
@[simp] theorem State.occupy_free (s : State) (u n : Nat) : (s.occupy u n).free = s.free := rfl
@[simp] theorem State.occupy_ids (s : State) (u n : Nat) : (s.occupy u n).ids = s.ids := rfl
@[simp] theorem State.occupy_hole (s : State) (u n : Nat) : (s.occupy u n).hole = s.hole := rfl
@[simp] theorem State.occupy_mem (s : State) (u n : Nat) : (s.occupy u n).mem = s.mem := rfl
@[simp] theorem State.occupy_tags (s : State) (u n : Nat) : (s.occupy u n).tags = s.tags := rfl
@[simp] theorem State.occupy_swz (s : State) (u n : Nat) : (s.occupy u n).swz = s.swz := rfl
@[simp] theorem State.occupy_poison (s : State) (u n : Nat) : (s.occupy u n).poison = s.poison := rfl
@[simp] theorem State.occupy_lost (s : State) (u n : Nat) : (s.occupy u n).lost = s.lost := rfl
@[simp] theorem State.occupy_stackHit (s : State) (u n : Nat) : (s.occupy u n).stackHit = s.stackHit := rfl
@[simp] theorem State.occupy_thr (s : State) (u n : Nat) : (s.occupy u n).thr = s.thr := rfl
@[simp] theorem State.occupy_warps (s : State) (u n : Nat) : (s.occupy u n).warps = s.warps := rfl
@[simp] theorem State.occupy_hk3Order (s : State) (u n : Nat) : (s.occupy u n).hk3Order = s.hk3Order := rfl
@[simp] theorem State.occupy_dieTlb (s : State) (u n : Nat) : (s.occupy u n).dieTlb = s.dieTlb := rfl
@[simp] theorem State.occupy_wgs (s : State) (u n : Nat) : (s.occupy u n).wgs = s.wgs := rfl
@[simp] theorem State.occupy_launches (s : State) (u n : Nat) : (s.occupy u n).launches = s.launches := rfl
@[simp] theorem State.occupy_parts (s : State) (u n : Nat) : (s.occupy u n).parts = s.parts := rfl
@[simp] theorem State.occupy_copy (s : State) (u n : Nat) : (s.occupy u n).copy = s.copy := rfl
@[simp] theorem State.occupy_coll (s : State) (u n : Nat) : (s.occupy u n).coll = s.coll := rfl
@[simp] theorem State.occupy_welt (s : State) (u n : Nat) : (s.occupy u n).welt = s.welt := rfl
@[simp] theorem State.occupy_batches (s : State) (u n : Nat) : (s.occupy u n).batches = s.batches := rfl
@[simp] theorem State.occupy_gangs (s : State) (u n : Nat) : (s.occupy u n).gangs = s.gangs := rfl
@[simp] theorem State.occupy_gangSeq (s : State) (u n : Nat) : (s.occupy u n).gangSeq = s.gangSeq := rfl
@[simp] theorem State.occupy_gangAborted (s : State) (u n : Nat) : (s.occupy u n).gangAborted = s.gangAborted := rfl
@[simp] theorem State.occupy_gangsIn (s : State) (u n : Nat) : (s.occupy u n).gangsIn = s.gangsIn := rfl
@[simp] theorem State.occupy_agents (s : State) (u n : Nat) : (s.occupy u n).agents = s.agents := rfl
@[simp] theorem State.occupy_tagWaits (s : State) (u n : Nat) : (s.occupy u n).tagWaits = s.tagWaits := rfl
@[simp] theorem State.occupy_lodge (s : State) (u n : Nat) : (s.occupy u n).lodge = s.lodge := rfl
@[simp] theorem State.occupy_cp (s : State) (u n : Nat) : (s.occupy u n).cp = s.cp := rfl
@[simp] theorem State.occupy_rings (s : State) (u n : Nat) : (s.occupy u n).rings = s.rings := rfl
@[simp] theorem State.occupy_dev (s : State) (u n : Nat) : (s.occupy u n).dev = s.dev := rfl

/-! ## updDev -/

@[simp] theorem State.updDev_cur (s : State) (f : Device → Device) : (s.updDev f).cur = s.cur := rfl
@[simp] theorem State.updDev_inputs (s : State) (f : Device → Device) : (s.updDev f).inputs = s.inputs := rfl
@[simp] theorem State.updDev_turn (s : State) (f : Device → Device) : (s.updDev f).turn = s.turn := rfl
@[simp] theorem State.updDev_focus (s : State) (f : Device → Device) : (s.updDev f).focus = s.focus := rfl
@[simp] theorem State.updDev_free (s : State) (f : Device → Device) : (s.updDev f).free = s.free := rfl
@[simp] theorem State.updDev_ids (s : State) (f : Device → Device) : (s.updDev f).ids = s.ids := rfl
@[simp] theorem State.updDev_hole (s : State) (f : Device → Device) : (s.updDev f).hole = s.hole := rfl
@[simp] theorem State.updDev_mem (s : State) (f : Device → Device) : (s.updDev f).mem = s.mem := rfl
@[simp] theorem State.updDev_tags (s : State) (f : Device → Device) : (s.updDev f).tags = s.tags := rfl
@[simp] theorem State.updDev_swz (s : State) (f : Device → Device) : (s.updDev f).swz = s.swz := rfl
@[simp] theorem State.updDev_poison (s : State) (f : Device → Device) : (s.updDev f).poison = s.poison := rfl
@[simp] theorem State.updDev_lost (s : State) (f : Device → Device) : (s.updDev f).lost = s.lost := rfl
@[simp] theorem State.updDev_stackHit (s : State) (f : Device → Device) : (s.updDev f).stackHit = s.stackHit := rfl
@[simp] theorem State.updDev_thr (s : State) (f : Device → Device) : (s.updDev f).thr = s.thr := rfl
@[simp] theorem State.updDev_warps (s : State) (f : Device → Device) : (s.updDev f).warps = s.warps := rfl
@[simp] theorem State.updDev_hk3Order (s : State) (f : Device → Device) : (s.updDev f).hk3Order = s.hk3Order := rfl
@[simp] theorem State.updDev_cores (s : State) (f : Device → Device) : (s.updDev f).cores = s.cores := rfl
@[simp] theorem State.updDev_dieTlb (s : State) (f : Device → Device) : (s.updDev f).dieTlb = s.dieTlb := rfl
@[simp] theorem State.updDev_wgs (s : State) (f : Device → Device) : (s.updDev f).wgs = s.wgs := rfl
@[simp] theorem State.updDev_launches (s : State) (f : Device → Device) : (s.updDev f).launches = s.launches := rfl
@[simp] theorem State.updDev_parts (s : State) (f : Device → Device) : (s.updDev f).parts = s.parts := rfl
@[simp] theorem State.updDev_copy (s : State) (f : Device → Device) : (s.updDev f).copy = s.copy := rfl
@[simp] theorem State.updDev_coll (s : State) (f : Device → Device) : (s.updDev f).coll = s.coll := rfl
@[simp] theorem State.updDev_welt (s : State) (f : Device → Device) : (s.updDev f).welt = s.welt := rfl
@[simp] theorem State.updDev_batches (s : State) (f : Device → Device) : (s.updDev f).batches = s.batches := rfl
@[simp] theorem State.updDev_gangs (s : State) (f : Device → Device) : (s.updDev f).gangs = s.gangs := rfl
@[simp] theorem State.updDev_gangSeq (s : State) (f : Device → Device) : (s.updDev f).gangSeq = s.gangSeq := rfl
@[simp] theorem State.updDev_gangAborted (s : State) (f : Device → Device) : (s.updDev f).gangAborted = s.gangAborted := rfl
@[simp] theorem State.updDev_gangsIn (s : State) (f : Device → Device) : (s.updDev f).gangsIn = s.gangsIn := rfl
@[simp] theorem State.updDev_agents (s : State) (f : Device → Device) : (s.updDev f).agents = s.agents := rfl
@[simp] theorem State.updDev_tagWaits (s : State) (f : Device → Device) : (s.updDev f).tagWaits = s.tagWaits := rfl
@[simp] theorem State.updDev_lodge (s : State) (f : Device → Device) : (s.updDev f).lodge = s.lodge := rfl
@[simp] theorem State.updDev_cp (s : State) (f : Device → Device) : (s.updDev f).cp = s.cp := rfl
@[simp] theorem State.updDev_rings (s : State) (f : Device → Device) : (s.updDev f).rings = s.rings := rfl

/-! ## Accessors after the update of what they read -/

theorem State.setThread_thread (s : State) (t u : Nat) (th : Thread) :
    (s.setThread t th).thread u = if u = t then th else s.thread u := Tab.get_put ..

@[simp] theorem State.setThread_thread_same (s : State) (t : Nat) (th : Thread) : (s.setThread t th).thread t = th := Tab.get_put_same ..

theorem State.setThread_thread_ne (s : State) {t u : Nat} (h : u ≠ t) (th : Thread) :
    (s.setThread t th).thread u = s.thread u := Tab.get_put_ne _ h _

theorem State.updThread_thread (s : State) (t u : Nat) (f : Thread → Thread) :
    (s.updThread t f).thread u = if u = t then f (s.thread t) else s.thread u := Tab.get_put ..

@[simp] theorem State.updThread_thread_same (s : State) (t : Nat) (f : Thread → Thread) : (s.updThread t f).thread t = f (s.thread t) := Tab.get_put_same ..

theorem State.updThread_thread_ne (s : State) {t u : Nat} (h : u ≠ t) (f : Thread → Thread) :
    (s.updThread t f).thread u = s.thread u := Tab.get_put_ne _ h _

theorem State.updWarp_warp (s : State) (w u : Nat) (f : Warp → Warp) :
    (s.updWarp w f).warp u = if u = w then f (s.warp w) else s.warp u := Tab.get_put ..

@[simp] theorem State.updWarp_warp_same (s : State) (w : Nat) (f : Warp → Warp) : (s.updWarp w f).warp w = f (s.warp w) := Tab.get_put_same ..

theorem State.updWarp_warp_ne (s : State) {w u : Nat} (h : u ≠ w) (f : Warp → Warp) :
    (s.updWarp w f).warp u = s.warp u := Tab.get_put_ne _ h _

theorem State.updCore_coreAt (s : State) (c u : Nat) (f : Core → Core) :
    (s.updCore c f).coreAt u = if u = c then f (s.coreAt c) else s.coreAt u := Tab.get_put ..

@[simp] theorem State.updCore_coreAt_same (s : State) (c : Nat) (f : Core → Core) : (s.updCore c f).coreAt c = f (s.coreAt c) := Tab.get_put_same ..

theorem State.updCore_coreAt_ne (s : State) {c u : Nat} (h : u ≠ c) (f : Core → Core) :
    (s.updCore c f).coreAt u = s.coreAt u := Tab.get_put_ne _ h _

theorem State.updPart_part (s : State) (p u : Nat) (f : Part → Part) :
    (s.updPart p f).part u = if u = p then f (s.part p) else s.part u := Tab.get_put ..

@[simp] theorem State.updPart_part_same (s : State) (p : Nat) (f : Part → Part) : (s.updPart p f).part p = f (s.part p) := Tab.get_put_same ..

theorem State.updPart_part_ne (s : State) {p u : Nat} (h : u ≠ p) (f : Part → Part) :
    (s.updPart p f).part u = s.part u := Tab.get_put_ne _ h _

theorem State.updEngine_engine (s : State) (e u : Nat) (f : CopyEngine → CopyEngine) :
    (s.updEngine e f).engine u = if u = e then f (s.engine e) else s.engine u := Tab.get_put ..

@[simp] theorem State.updEngine_engine_same (s : State) (e : Nat) (f : CopyEngine → CopyEngine) : (s.updEngine e f).engine e = f (s.engine e) := Tab.get_put_same ..

theorem State.updEngine_engine_ne (s : State) {e u : Nat} (h : u ≠ e) (f : CopyEngine → CopyEngine) :
    (s.updEngine e f).engine u = s.engine u := Tab.get_put_ne _ h _

theorem State.updColl_collEng (s : State) (e u : Nat) (f : CollEngine → CollEngine) :
    (s.updColl e f).collEng u = if u = e then f (s.collEng e) else s.collEng u := Tab.get_put ..

@[simp] theorem State.updColl_collEng_same (s : State) (e : Nat) (f : CollEngine → CollEngine) : (s.updColl e f).collEng e = f (s.collEng e) := Tab.get_put_same ..

theorem State.updColl_collEng_ne (s : State) {e u : Nat} (h : u ≠ e) (f : CollEngine → CollEngine) :
    (s.updColl e f).collEng u = s.collEng u := Tab.get_put_ne _ h _

theorem State.updWelt_weltOf (s : State) (d u : Nat) (f : Welt → Welt) :
    (s.updWelt d f).weltOf u = if u = d then f (s.weltOf d) else s.weltOf u := Tab.get_put ..

@[simp] theorem State.updWelt_weltOf_same (s : State) (d : Nat) (f : Welt → Welt) : (s.updWelt d f).weltOf d = f (s.weltOf d) := Tab.get_put_same ..

theorem State.updWelt_weltOf_ne (s : State) {d u : Nat} (h : u ≠ d) (f : Welt → Welt) :
    (s.updWelt d f).weltOf u = s.weltOf u := Tab.get_put_ne _ h _

theorem State.updCx_cx (s : State) (k u : Nat) (f : Context → Context) :
    (s.updCx k f).cx u = if u = k then f (s.cx k) else s.cx u := Tab.get_put ..

@[simp] theorem State.updCx_cx_same (s : State) (k : Nat) (f : Context → Context) : (s.updCx k f).cx k = f (s.cx k) := Tab.get_put_same ..

theorem State.updCx_cx_ne (s : State) {k u : Nat} (h : u ≠ k) (f : Context → Context) :
    (s.updCx k f).cx u = s.cx u := Tab.get_put_ne _ h _

theorem State.updPort_optPort (s : State) (p u : Nat) (f : Port → Port) :
    (s.updPort p f).optPort u = if u = p then f (s.optPort p) else s.optPort u := Tab.get_put ..

@[simp] theorem State.updPort_optPort_same (s : State) (p : Nat) (f : Port → Port) : (s.updPort p f).optPort p = f (s.optPort p) := Tab.get_put_same ..

theorem State.updPort_optPort_ne (s : State) {p u : Nat} (h : u ≠ p) (f : Port → Port) :
    (s.updPort p f).optPort u = s.optPort u := Tab.get_put_ne _ h _

theorem State.updRing_ring (s : State) (n u : Nat) (f : Ring → Ring) :
    (s.updRing n f).ring u = if u = n then f (s.ring n) else s.ring u := Tab.get_put ..

@[simp] theorem State.updRing_ring_same (s : State) (n : Nat) (f : Ring → Ring) : (s.updRing n f).ring n = f (s.ring n) := Tab.get_put_same ..

theorem State.updRing_ring_ne (s : State) {n u : Nat} (h : u ≠ n) (f : Ring → Ring) :
    (s.updRing n f).ring u = s.ring u := Tab.get_put_ne _ h _

/-! ## Accessors after other updates -/

@[simp] theorem State.updWarp_thread (s : State) (w : Nat) (f : Warp → Warp) (y : Nat) : (s.updWarp w f).thread y = s.thread y := rfl
@[simp] theorem State.updCore_thread (s : State) (c : Nat) (f : Core → Core) (y : Nat) : (s.updCore c f).thread y = s.thread y := rfl
@[simp] theorem State.updPart_thread (s : State) (p : Nat) (f : Part → Part) (y : Nat) : (s.updPart p f).thread y = s.thread y := rfl
@[simp] theorem State.updLaunch_thread (s : State) (lid : Nat) (f : Launch → Launch) (y : Nat) : (s.updLaunch lid f).thread y = s.thread y := rfl
@[simp] theorem State.updWg_thread (s : State) (lid g : Nat) (f : Wg → Wg) (y : Nat) : (s.updWg lid g f).thread y = s.thread y := rfl
@[simp] theorem State.updEngine_thread (s : State) (e : Nat) (f : CopyEngine → CopyEngine) (y : Nat) : (s.updEngine e f).thread y = s.thread y := rfl
@[simp] theorem State.updColl_thread (s : State) (e : Nat) (f : CollEngine → CollEngine) (y : Nat) : (s.updColl e f).thread y = s.thread y := rfl
@[simp] theorem State.updWelt_thread (s : State) (d : Nat) (f : Welt → Welt) (y : Nat) : (s.updWelt d f).thread y = s.thread y := rfl
@[simp] theorem State.updCx_thread (s : State) (k : Nat) (f : Context → Context) (y : Nat) : (s.updCx k f).thread y = s.thread y := rfl
@[simp] theorem State.updPort_thread (s : State) (p : Nat) (f : Port → Port) (y : Nat) : (s.updPort p f).thread y = s.thread y := rfl
@[simp] theorem State.updRing_thread (s : State) (n : Nat) (f : Ring → Ring) (y : Nat) : (s.updRing n f).thread y = s.thread y := rfl
@[simp] theorem State.setTag_thread (s : State) (k : Nat) (v : Bool) (y : Nat) : (s.setTag k v).thread y = s.thread y := rfl
@[simp] theorem State.setSwz_thread (s : State) (k : Nat) (z : BitVec 2) (y : Nat) : (s.setSwz k z).thread y = s.thread y := rfl
@[simp] theorem State.putBytes_thread (s : State) (k : Nat) (bs : List Byte) (y : Nat) : (s.putBytes k bs).thread y = s.thread y := rfl
@[simp] theorem State.zeroRange_thread (s : State) (k n : Nat) (y : Nat) : (s.zeroRange k n).thread y = s.thread y := rfl
@[simp] theorem State.clearSlice_thread (s : State) (c o n : Nat) (y : Nat) : (s.clearSlice c o n).thread y = s.thread y := rfl
@[simp] theorem State.endWord_thread (s : State) (y : Nat) : (s.endWord).thread y = s.thread y := rfl
@[simp] theorem State.occupy_thread (s : State) (u n : Nat) (y : Nat) : (s.occupy u n).thread y = s.thread y := rfl
@[simp] theorem State.updDev_thread (s : State) (f : Device → Device) (y : Nat) : (s.updDev f).thread y = s.thread y := rfl
@[simp] theorem State.setThread_warp (s : State) (t : Nat) (th : Thread) (y : Nat) : (s.setThread t th).warp y = s.warp y := rfl
@[simp] theorem State.updThread_warp (s : State) (t : Nat) (f : Thread → Thread) (y : Nat) : (s.updThread t f).warp y = s.warp y := rfl
@[simp] theorem State.updCore_warp (s : State) (c : Nat) (f : Core → Core) (y : Nat) : (s.updCore c f).warp y = s.warp y := rfl
@[simp] theorem State.updPart_warp (s : State) (p : Nat) (f : Part → Part) (y : Nat) : (s.updPart p f).warp y = s.warp y := rfl
@[simp] theorem State.updLaunch_warp (s : State) (lid : Nat) (f : Launch → Launch) (y : Nat) : (s.updLaunch lid f).warp y = s.warp y := rfl
@[simp] theorem State.updWg_warp (s : State) (lid g : Nat) (f : Wg → Wg) (y : Nat) : (s.updWg lid g f).warp y = s.warp y := rfl
@[simp] theorem State.updEngine_warp (s : State) (e : Nat) (f : CopyEngine → CopyEngine) (y : Nat) : (s.updEngine e f).warp y = s.warp y := rfl
@[simp] theorem State.updColl_warp (s : State) (e : Nat) (f : CollEngine → CollEngine) (y : Nat) : (s.updColl e f).warp y = s.warp y := rfl
@[simp] theorem State.updWelt_warp (s : State) (d : Nat) (f : Welt → Welt) (y : Nat) : (s.updWelt d f).warp y = s.warp y := rfl
@[simp] theorem State.updCx_warp (s : State) (k : Nat) (f : Context → Context) (y : Nat) : (s.updCx k f).warp y = s.warp y := rfl
@[simp] theorem State.updPort_warp (s : State) (p : Nat) (f : Port → Port) (y : Nat) : (s.updPort p f).warp y = s.warp y := rfl
@[simp] theorem State.updRing_warp (s : State) (n : Nat) (f : Ring → Ring) (y : Nat) : (s.updRing n f).warp y = s.warp y := rfl
@[simp] theorem State.setTag_warp (s : State) (k : Nat) (v : Bool) (y : Nat) : (s.setTag k v).warp y = s.warp y := rfl
@[simp] theorem State.setSwz_warp (s : State) (k : Nat) (z : BitVec 2) (y : Nat) : (s.setSwz k z).warp y = s.warp y := rfl
@[simp] theorem State.putBytes_warp (s : State) (k : Nat) (bs : List Byte) (y : Nat) : (s.putBytes k bs).warp y = s.warp y := rfl
@[simp] theorem State.zeroRange_warp (s : State) (k n : Nat) (y : Nat) : (s.zeroRange k n).warp y = s.warp y := rfl
@[simp] theorem State.clearSlice_warp (s : State) (c o n : Nat) (y : Nat) : (s.clearSlice c o n).warp y = s.warp y := rfl
@[simp] theorem State.endWord_warp (s : State) (y : Nat) : (s.endWord).warp y = s.warp y := rfl
@[simp] theorem State.occupy_warp (s : State) (u n : Nat) (y : Nat) : (s.occupy u n).warp y = s.warp y := rfl
@[simp] theorem State.updDev_warp (s : State) (f : Device → Device) (y : Nat) : (s.updDev f).warp y = s.warp y := rfl
@[simp] theorem State.setThread_coreAt (s : State) (t : Nat) (th : Thread) (y : Nat) : (s.setThread t th).coreAt y = s.coreAt y := rfl
@[simp] theorem State.updThread_coreAt (s : State) (t : Nat) (f : Thread → Thread) (y : Nat) : (s.updThread t f).coreAt y = s.coreAt y := rfl
@[simp] theorem State.updWarp_coreAt (s : State) (w : Nat) (f : Warp → Warp) (y : Nat) : (s.updWarp w f).coreAt y = s.coreAt y := rfl
@[simp] theorem State.updPart_coreAt (s : State) (p : Nat) (f : Part → Part) (y : Nat) : (s.updPart p f).coreAt y = s.coreAt y := rfl
@[simp] theorem State.updLaunch_coreAt (s : State) (lid : Nat) (f : Launch → Launch) (y : Nat) : (s.updLaunch lid f).coreAt y = s.coreAt y := rfl
@[simp] theorem State.updWg_coreAt (s : State) (lid g : Nat) (f : Wg → Wg) (y : Nat) : (s.updWg lid g f).coreAt y = s.coreAt y := rfl
@[simp] theorem State.updEngine_coreAt (s : State) (e : Nat) (f : CopyEngine → CopyEngine) (y : Nat) : (s.updEngine e f).coreAt y = s.coreAt y := rfl
@[simp] theorem State.updColl_coreAt (s : State) (e : Nat) (f : CollEngine → CollEngine) (y : Nat) : (s.updColl e f).coreAt y = s.coreAt y := rfl
@[simp] theorem State.updWelt_coreAt (s : State) (d : Nat) (f : Welt → Welt) (y : Nat) : (s.updWelt d f).coreAt y = s.coreAt y := rfl
@[simp] theorem State.updCx_coreAt (s : State) (k : Nat) (f : Context → Context) (y : Nat) : (s.updCx k f).coreAt y = s.coreAt y := rfl
@[simp] theorem State.updPort_coreAt (s : State) (p : Nat) (f : Port → Port) (y : Nat) : (s.updPort p f).coreAt y = s.coreAt y := rfl
@[simp] theorem State.updRing_coreAt (s : State) (n : Nat) (f : Ring → Ring) (y : Nat) : (s.updRing n f).coreAt y = s.coreAt y := rfl
@[simp] theorem State.setTag_coreAt (s : State) (k : Nat) (v : Bool) (y : Nat) : (s.setTag k v).coreAt y = s.coreAt y := rfl
@[simp] theorem State.setSwz_coreAt (s : State) (k : Nat) (z : BitVec 2) (y : Nat) : (s.setSwz k z).coreAt y = s.coreAt y := rfl
@[simp] theorem State.putBytes_coreAt (s : State) (k : Nat) (bs : List Byte) (y : Nat) : (s.putBytes k bs).coreAt y = s.coreAt y := rfl
@[simp] theorem State.zeroRange_coreAt (s : State) (k n : Nat) (y : Nat) : (s.zeroRange k n).coreAt y = s.coreAt y := rfl
@[simp] theorem State.clearSlice_coreAt (s : State) (c o n : Nat) (y : Nat) : (s.clearSlice c o n).coreAt y = s.coreAt y := rfl
@[simp] theorem State.endWord_coreAt (s : State) (y : Nat) : (s.endWord).coreAt y = s.coreAt y := rfl
@[simp] theorem State.updDev_coreAt (s : State) (f : Device → Device) (y : Nat) : (s.updDev f).coreAt y = s.coreAt y := rfl
@[simp] theorem State.setThread_part (s : State) (t : Nat) (th : Thread) (y : Nat) : (s.setThread t th).part y = s.part y := rfl
@[simp] theorem State.updThread_part (s : State) (t : Nat) (f : Thread → Thread) (y : Nat) : (s.updThread t f).part y = s.part y := rfl
@[simp] theorem State.updWarp_part (s : State) (w : Nat) (f : Warp → Warp) (y : Nat) : (s.updWarp w f).part y = s.part y := rfl
@[simp] theorem State.updCore_part (s : State) (c : Nat) (f : Core → Core) (y : Nat) : (s.updCore c f).part y = s.part y := rfl
@[simp] theorem State.updLaunch_part (s : State) (lid : Nat) (f : Launch → Launch) (y : Nat) : (s.updLaunch lid f).part y = s.part y := rfl
@[simp] theorem State.updWg_part (s : State) (lid g : Nat) (f : Wg → Wg) (y : Nat) : (s.updWg lid g f).part y = s.part y := rfl
@[simp] theorem State.updEngine_part (s : State) (e : Nat) (f : CopyEngine → CopyEngine) (y : Nat) : (s.updEngine e f).part y = s.part y := rfl
@[simp] theorem State.updColl_part (s : State) (e : Nat) (f : CollEngine → CollEngine) (y : Nat) : (s.updColl e f).part y = s.part y := rfl
@[simp] theorem State.updWelt_part (s : State) (d : Nat) (f : Welt → Welt) (y : Nat) : (s.updWelt d f).part y = s.part y := rfl
@[simp] theorem State.updCx_part (s : State) (k : Nat) (f : Context → Context) (y : Nat) : (s.updCx k f).part y = s.part y := rfl
@[simp] theorem State.updPort_part (s : State) (p : Nat) (f : Port → Port) (y : Nat) : (s.updPort p f).part y = s.part y := rfl
@[simp] theorem State.updRing_part (s : State) (n : Nat) (f : Ring → Ring) (y : Nat) : (s.updRing n f).part y = s.part y := rfl
@[simp] theorem State.setTag_part (s : State) (k : Nat) (v : Bool) (y : Nat) : (s.setTag k v).part y = s.part y := rfl
@[simp] theorem State.setSwz_part (s : State) (k : Nat) (z : BitVec 2) (y : Nat) : (s.setSwz k z).part y = s.part y := rfl
@[simp] theorem State.putBytes_part (s : State) (k : Nat) (bs : List Byte) (y : Nat) : (s.putBytes k bs).part y = s.part y := rfl
@[simp] theorem State.zeroRange_part (s : State) (k n : Nat) (y : Nat) : (s.zeroRange k n).part y = s.part y := rfl
@[simp] theorem State.clearSlice_part (s : State) (c o n : Nat) (y : Nat) : (s.clearSlice c o n).part y = s.part y := rfl
@[simp] theorem State.endWord_part (s : State) (y : Nat) : (s.endWord).part y = s.part y := rfl
@[simp] theorem State.occupy_part (s : State) (u n : Nat) (y : Nat) : (s.occupy u n).part y = s.part y := rfl
@[simp] theorem State.updDev_part (s : State) (f : Device → Device) (y : Nat) : (s.updDev f).part y = s.part y := rfl
@[simp] theorem State.setThread_engine (s : State) (t : Nat) (th : Thread) (y : Nat) : (s.setThread t th).engine y = s.engine y := rfl
@[simp] theorem State.updThread_engine (s : State) (t : Nat) (f : Thread → Thread) (y : Nat) : (s.updThread t f).engine y = s.engine y := rfl
@[simp] theorem State.updWarp_engine (s : State) (w : Nat) (f : Warp → Warp) (y : Nat) : (s.updWarp w f).engine y = s.engine y := rfl
@[simp] theorem State.updCore_engine (s : State) (c : Nat) (f : Core → Core) (y : Nat) : (s.updCore c f).engine y = s.engine y := rfl
@[simp] theorem State.updPart_engine (s : State) (p : Nat) (f : Part → Part) (y : Nat) : (s.updPart p f).engine y = s.engine y := rfl
@[simp] theorem State.updLaunch_engine (s : State) (lid : Nat) (f : Launch → Launch) (y : Nat) : (s.updLaunch lid f).engine y = s.engine y := rfl
@[simp] theorem State.updWg_engine (s : State) (lid g : Nat) (f : Wg → Wg) (y : Nat) : (s.updWg lid g f).engine y = s.engine y := rfl
@[simp] theorem State.updColl_engine (s : State) (e : Nat) (f : CollEngine → CollEngine) (y : Nat) : (s.updColl e f).engine y = s.engine y := rfl
@[simp] theorem State.updWelt_engine (s : State) (d : Nat) (f : Welt → Welt) (y : Nat) : (s.updWelt d f).engine y = s.engine y := rfl
@[simp] theorem State.updCx_engine (s : State) (k : Nat) (f : Context → Context) (y : Nat) : (s.updCx k f).engine y = s.engine y := rfl
@[simp] theorem State.updPort_engine (s : State) (p : Nat) (f : Port → Port) (y : Nat) : (s.updPort p f).engine y = s.engine y := rfl
@[simp] theorem State.updRing_engine (s : State) (n : Nat) (f : Ring → Ring) (y : Nat) : (s.updRing n f).engine y = s.engine y := rfl
@[simp] theorem State.setTag_engine (s : State) (k : Nat) (v : Bool) (y : Nat) : (s.setTag k v).engine y = s.engine y := rfl
@[simp] theorem State.setSwz_engine (s : State) (k : Nat) (z : BitVec 2) (y : Nat) : (s.setSwz k z).engine y = s.engine y := rfl
@[simp] theorem State.putBytes_engine (s : State) (k : Nat) (bs : List Byte) (y : Nat) : (s.putBytes k bs).engine y = s.engine y := rfl
@[simp] theorem State.zeroRange_engine (s : State) (k n : Nat) (y : Nat) : (s.zeroRange k n).engine y = s.engine y := rfl
@[simp] theorem State.clearSlice_engine (s : State) (c o n : Nat) (y : Nat) : (s.clearSlice c o n).engine y = s.engine y := rfl
@[simp] theorem State.endWord_engine (s : State) (y : Nat) : (s.endWord).engine y = s.engine y := rfl
@[simp] theorem State.occupy_engine (s : State) (u n : Nat) (y : Nat) : (s.occupy u n).engine y = s.engine y := rfl
@[simp] theorem State.updDev_engine (s : State) (f : Device → Device) (y : Nat) : (s.updDev f).engine y = s.engine y := rfl
@[simp] theorem State.setThread_collEng (s : State) (t : Nat) (th : Thread) (y : Nat) : (s.setThread t th).collEng y = s.collEng y := rfl
@[simp] theorem State.updThread_collEng (s : State) (t : Nat) (f : Thread → Thread) (y : Nat) : (s.updThread t f).collEng y = s.collEng y := rfl
@[simp] theorem State.updWarp_collEng (s : State) (w : Nat) (f : Warp → Warp) (y : Nat) : (s.updWarp w f).collEng y = s.collEng y := rfl
@[simp] theorem State.updCore_collEng (s : State) (c : Nat) (f : Core → Core) (y : Nat) : (s.updCore c f).collEng y = s.collEng y := rfl
@[simp] theorem State.updPart_collEng (s : State) (p : Nat) (f : Part → Part) (y : Nat) : (s.updPart p f).collEng y = s.collEng y := rfl
@[simp] theorem State.updLaunch_collEng (s : State) (lid : Nat) (f : Launch → Launch) (y : Nat) : (s.updLaunch lid f).collEng y = s.collEng y := rfl
@[simp] theorem State.updWg_collEng (s : State) (lid g : Nat) (f : Wg → Wg) (y : Nat) : (s.updWg lid g f).collEng y = s.collEng y := rfl
@[simp] theorem State.updEngine_collEng (s : State) (e : Nat) (f : CopyEngine → CopyEngine) (y : Nat) : (s.updEngine e f).collEng y = s.collEng y := rfl
@[simp] theorem State.updWelt_collEng (s : State) (d : Nat) (f : Welt → Welt) (y : Nat) : (s.updWelt d f).collEng y = s.collEng y := rfl
@[simp] theorem State.updCx_collEng (s : State) (k : Nat) (f : Context → Context) (y : Nat) : (s.updCx k f).collEng y = s.collEng y := rfl
@[simp] theorem State.updPort_collEng (s : State) (p : Nat) (f : Port → Port) (y : Nat) : (s.updPort p f).collEng y = s.collEng y := rfl
@[simp] theorem State.updRing_collEng (s : State) (n : Nat) (f : Ring → Ring) (y : Nat) : (s.updRing n f).collEng y = s.collEng y := rfl
@[simp] theorem State.setTag_collEng (s : State) (k : Nat) (v : Bool) (y : Nat) : (s.setTag k v).collEng y = s.collEng y := rfl
@[simp] theorem State.setSwz_collEng (s : State) (k : Nat) (z : BitVec 2) (y : Nat) : (s.setSwz k z).collEng y = s.collEng y := rfl
@[simp] theorem State.putBytes_collEng (s : State) (k : Nat) (bs : List Byte) (y : Nat) : (s.putBytes k bs).collEng y = s.collEng y := rfl
@[simp] theorem State.zeroRange_collEng (s : State) (k n : Nat) (y : Nat) : (s.zeroRange k n).collEng y = s.collEng y := rfl
@[simp] theorem State.clearSlice_collEng (s : State) (c o n : Nat) (y : Nat) : (s.clearSlice c o n).collEng y = s.collEng y := rfl
@[simp] theorem State.endWord_collEng (s : State) (y : Nat) : (s.endWord).collEng y = s.collEng y := rfl
@[simp] theorem State.occupy_collEng (s : State) (u n : Nat) (y : Nat) : (s.occupy u n).collEng y = s.collEng y := rfl
@[simp] theorem State.updDev_collEng (s : State) (f : Device → Device) (y : Nat) : (s.updDev f).collEng y = s.collEng y := rfl
@[simp] theorem State.setThread_weltOf (s : State) (t : Nat) (th : Thread) (y : Nat) : (s.setThread t th).weltOf y = s.weltOf y := rfl
@[simp] theorem State.updThread_weltOf (s : State) (t : Nat) (f : Thread → Thread) (y : Nat) : (s.updThread t f).weltOf y = s.weltOf y := rfl
@[simp] theorem State.updWarp_weltOf (s : State) (w : Nat) (f : Warp → Warp) (y : Nat) : (s.updWarp w f).weltOf y = s.weltOf y := rfl
@[simp] theorem State.updCore_weltOf (s : State) (c : Nat) (f : Core → Core) (y : Nat) : (s.updCore c f).weltOf y = s.weltOf y := rfl
@[simp] theorem State.updPart_weltOf (s : State) (p : Nat) (f : Part → Part) (y : Nat) : (s.updPart p f).weltOf y = s.weltOf y := rfl
@[simp] theorem State.updLaunch_weltOf (s : State) (lid : Nat) (f : Launch → Launch) (y : Nat) : (s.updLaunch lid f).weltOf y = s.weltOf y := rfl
@[simp] theorem State.updWg_weltOf (s : State) (lid g : Nat) (f : Wg → Wg) (y : Nat) : (s.updWg lid g f).weltOf y = s.weltOf y := rfl
@[simp] theorem State.updEngine_weltOf (s : State) (e : Nat) (f : CopyEngine → CopyEngine) (y : Nat) : (s.updEngine e f).weltOf y = s.weltOf y := rfl
@[simp] theorem State.updColl_weltOf (s : State) (e : Nat) (f : CollEngine → CollEngine) (y : Nat) : (s.updColl e f).weltOf y = s.weltOf y := rfl
@[simp] theorem State.updCx_weltOf (s : State) (k : Nat) (f : Context → Context) (y : Nat) : (s.updCx k f).weltOf y = s.weltOf y := rfl
@[simp] theorem State.updPort_weltOf (s : State) (p : Nat) (f : Port → Port) (y : Nat) : (s.updPort p f).weltOf y = s.weltOf y := rfl
@[simp] theorem State.updRing_weltOf (s : State) (n : Nat) (f : Ring → Ring) (y : Nat) : (s.updRing n f).weltOf y = s.weltOf y := rfl
@[simp] theorem State.setTag_weltOf (s : State) (k : Nat) (v : Bool) (y : Nat) : (s.setTag k v).weltOf y = s.weltOf y := rfl
@[simp] theorem State.setSwz_weltOf (s : State) (k : Nat) (z : BitVec 2) (y : Nat) : (s.setSwz k z).weltOf y = s.weltOf y := rfl
@[simp] theorem State.putBytes_weltOf (s : State) (k : Nat) (bs : List Byte) (y : Nat) : (s.putBytes k bs).weltOf y = s.weltOf y := rfl
@[simp] theorem State.zeroRange_weltOf (s : State) (k n : Nat) (y : Nat) : (s.zeroRange k n).weltOf y = s.weltOf y := rfl
@[simp] theorem State.clearSlice_weltOf (s : State) (c o n : Nat) (y : Nat) : (s.clearSlice c o n).weltOf y = s.weltOf y := rfl
@[simp] theorem State.endWord_weltOf (s : State) (y : Nat) : (s.endWord).weltOf y = s.weltOf y := rfl
@[simp] theorem State.occupy_weltOf (s : State) (u n : Nat) (y : Nat) : (s.occupy u n).weltOf y = s.weltOf y := rfl
@[simp] theorem State.updDev_weltOf (s : State) (f : Device → Device) (y : Nat) : (s.updDev f).weltOf y = s.weltOf y := rfl
@[simp] theorem State.setThread_ring (s : State) (t : Nat) (th : Thread) (y : Nat) : (s.setThread t th).ring y = s.ring y := rfl
@[simp] theorem State.updThread_ring (s : State) (t : Nat) (f : Thread → Thread) (y : Nat) : (s.updThread t f).ring y = s.ring y := rfl
@[simp] theorem State.updWarp_ring (s : State) (w : Nat) (f : Warp → Warp) (y : Nat) : (s.updWarp w f).ring y = s.ring y := rfl
@[simp] theorem State.updCore_ring (s : State) (c : Nat) (f : Core → Core) (y : Nat) : (s.updCore c f).ring y = s.ring y := rfl
@[simp] theorem State.updPart_ring (s : State) (p : Nat) (f : Part → Part) (y : Nat) : (s.updPart p f).ring y = s.ring y := rfl
@[simp] theorem State.updLaunch_ring (s : State) (lid : Nat) (f : Launch → Launch) (y : Nat) : (s.updLaunch lid f).ring y = s.ring y := rfl
@[simp] theorem State.updWg_ring (s : State) (lid g : Nat) (f : Wg → Wg) (y : Nat) : (s.updWg lid g f).ring y = s.ring y := rfl
@[simp] theorem State.updEngine_ring (s : State) (e : Nat) (f : CopyEngine → CopyEngine) (y : Nat) : (s.updEngine e f).ring y = s.ring y := rfl
@[simp] theorem State.updColl_ring (s : State) (e : Nat) (f : CollEngine → CollEngine) (y : Nat) : (s.updColl e f).ring y = s.ring y := rfl
@[simp] theorem State.updWelt_ring (s : State) (d : Nat) (f : Welt → Welt) (y : Nat) : (s.updWelt d f).ring y = s.ring y := rfl
@[simp] theorem State.updCx_ring (s : State) (k : Nat) (f : Context → Context) (y : Nat) : (s.updCx k f).ring y = s.ring y := rfl
@[simp] theorem State.updPort_ring (s : State) (p : Nat) (f : Port → Port) (y : Nat) : (s.updPort p f).ring y = s.ring y := rfl
@[simp] theorem State.setTag_ring (s : State) (k : Nat) (v : Bool) (y : Nat) : (s.setTag k v).ring y = s.ring y := rfl
@[simp] theorem State.setSwz_ring (s : State) (k : Nat) (z : BitVec 2) (y : Nat) : (s.setSwz k z).ring y = s.ring y := rfl
@[simp] theorem State.putBytes_ring (s : State) (k : Nat) (bs : List Byte) (y : Nat) : (s.putBytes k bs).ring y = s.ring y := rfl
@[simp] theorem State.zeroRange_ring (s : State) (k n : Nat) (y : Nat) : (s.zeroRange k n).ring y = s.ring y := rfl
@[simp] theorem State.clearSlice_ring (s : State) (c o n : Nat) (y : Nat) : (s.clearSlice c o n).ring y = s.ring y := rfl
@[simp] theorem State.endWord_ring (s : State) (y : Nat) : (s.endWord).ring y = s.ring y := rfl
@[simp] theorem State.occupy_ring (s : State) (u n : Nat) (y : Nat) : (s.occupy u n).ring y = s.ring y := rfl
@[simp] theorem State.updDev_ring (s : State) (f : Device → Device) (y : Nat) : (s.updDev f).ring y = s.ring y := rfl

@[simp] theorem State.setThread_cx (s : State) (t : Nat) (th : Thread) (y : Nat) : (s.setThread t th).cx y = s.cx y := rfl
@[simp] theorem State.setThread_optPort (s : State) (t : Nat) (th : Thread) (y : Nat) : (s.setThread t th).optPort y = s.optPort y := rfl
@[simp] theorem State.updThread_cx (s : State) (t : Nat) (f : Thread → Thread) (y : Nat) : (s.updThread t f).cx y = s.cx y := rfl
@[simp] theorem State.updThread_optPort (s : State) (t : Nat) (f : Thread → Thread) (y : Nat) : (s.updThread t f).optPort y = s.optPort y := rfl
@[simp] theorem State.updWarp_cx (s : State) (w : Nat) (f : Warp → Warp) (y : Nat) : (s.updWarp w f).cx y = s.cx y := rfl
@[simp] theorem State.updWarp_optPort (s : State) (w : Nat) (f : Warp → Warp) (y : Nat) : (s.updWarp w f).optPort y = s.optPort y := rfl
@[simp] theorem State.updCore_cx (s : State) (c : Nat) (f : Core → Core) (y : Nat) : (s.updCore c f).cx y = s.cx y := rfl
@[simp] theorem State.updCore_optPort (s : State) (c : Nat) (f : Core → Core) (y : Nat) : (s.updCore c f).optPort y = s.optPort y := rfl
@[simp] theorem State.updPart_cx (s : State) (p : Nat) (f : Part → Part) (y : Nat) : (s.updPart p f).cx y = s.cx y := rfl
@[simp] theorem State.updPart_optPort (s : State) (p : Nat) (f : Part → Part) (y : Nat) : (s.updPart p f).optPort y = s.optPort y := rfl
@[simp] theorem State.updLaunch_cx (s : State) (lid : Nat) (f : Launch → Launch) (y : Nat) : (s.updLaunch lid f).cx y = s.cx y := rfl
@[simp] theorem State.updLaunch_optPort (s : State) (lid : Nat) (f : Launch → Launch) (y : Nat) : (s.updLaunch lid f).optPort y = s.optPort y := rfl
@[simp] theorem State.updWg_cx (s : State) (lid g : Nat) (f : Wg → Wg) (y : Nat) : (s.updWg lid g f).cx y = s.cx y := rfl
@[simp] theorem State.updWg_optPort (s : State) (lid g : Nat) (f : Wg → Wg) (y : Nat) : (s.updWg lid g f).optPort y = s.optPort y := rfl
@[simp] theorem State.updEngine_cx (s : State) (e : Nat) (f : CopyEngine → CopyEngine) (y : Nat) : (s.updEngine e f).cx y = s.cx y := rfl
@[simp] theorem State.updEngine_optPort (s : State) (e : Nat) (f : CopyEngine → CopyEngine) (y : Nat) : (s.updEngine e f).optPort y = s.optPort y := rfl
@[simp] theorem State.updColl_cx (s : State) (e : Nat) (f : CollEngine → CollEngine) (y : Nat) : (s.updColl e f).cx y = s.cx y := rfl
@[simp] theorem State.updColl_optPort (s : State) (e : Nat) (f : CollEngine → CollEngine) (y : Nat) : (s.updColl e f).optPort y = s.optPort y := rfl
@[simp] theorem State.updWelt_cx (s : State) (d : Nat) (f : Welt → Welt) (y : Nat) : (s.updWelt d f).cx y = s.cx y := rfl
@[simp] theorem State.updWelt_optPort (s : State) (d : Nat) (f : Welt → Welt) (y : Nat) : (s.updWelt d f).optPort y = s.optPort y := rfl
@[simp] theorem State.updRing_cx (s : State) (n : Nat) (f : Ring → Ring) (y : Nat) : (s.updRing n f).cx y = s.cx y := rfl
@[simp] theorem State.updRing_optPort (s : State) (n : Nat) (f : Ring → Ring) (y : Nat) : (s.updRing n f).optPort y = s.optPort y := rfl
@[simp] theorem State.setTag_cx (s : State) (k : Nat) (v : Bool) (y : Nat) : (s.setTag k v).cx y = s.cx y := rfl
@[simp] theorem State.setTag_optPort (s : State) (k : Nat) (v : Bool) (y : Nat) : (s.setTag k v).optPort y = s.optPort y := rfl
@[simp] theorem State.setSwz_cx (s : State) (k : Nat) (z : BitVec 2) (y : Nat) : (s.setSwz k z).cx y = s.cx y := rfl
@[simp] theorem State.setSwz_optPort (s : State) (k : Nat) (z : BitVec 2) (y : Nat) : (s.setSwz k z).optPort y = s.optPort y := rfl
@[simp] theorem State.putBytes_cx (s : State) (k : Nat) (bs : List Byte) (y : Nat) : (s.putBytes k bs).cx y = s.cx y := rfl
@[simp] theorem State.putBytes_optPort (s : State) (k : Nat) (bs : List Byte) (y : Nat) : (s.putBytes k bs).optPort y = s.optPort y := rfl
@[simp] theorem State.zeroRange_cx (s : State) (k n : Nat) (y : Nat) : (s.zeroRange k n).cx y = s.cx y := rfl
@[simp] theorem State.zeroRange_optPort (s : State) (k n : Nat) (y : Nat) : (s.zeroRange k n).optPort y = s.optPort y := rfl
@[simp] theorem State.clearSlice_cx (s : State) (c o n : Nat) (y : Nat) : (s.clearSlice c o n).cx y = s.cx y := rfl
@[simp] theorem State.clearSlice_optPort (s : State) (c o n : Nat) (y : Nat) : (s.clearSlice c o n).optPort y = s.optPort y := rfl
@[simp] theorem State.endWord_cx (s : State) (y : Nat) : (s.endWord).cx y = s.cx y := rfl
@[simp] theorem State.endWord_optPort (s : State) (y : Nat) : (s.endWord).optPort y = s.optPort y := rfl
@[simp] theorem State.occupy_cx (s : State) (u n : Nat) (y : Nat) : (s.occupy u n).cx y = s.cx y := rfl
@[simp] theorem State.occupy_optPort (s : State) (u n : Nat) (y : Nat) : (s.occupy u n).optPort y = s.optPort y := rfl
@[simp] theorem State.updDev_cx (s : State) (f : Device → Device) (y : Nat) : (s.updDev f).cx y = s.cx y := rfl
@[simp] theorem State.updDev_optPort (s : State) (f : Device → Device) (y : Nat) : (s.updDev f).optPort y = s.optPort y := rfl
@[simp] theorem State.updCx_optPort (s : State) (k : Nat) (f : Context → Context) (z : Nat) : (s.updCx k f).optPort z = s.optPort z := rfl
@[simp] theorem State.updPort_cx (s : State) (p : Nat) (f : Port → Port) (z : Nat) : (s.updPort p f).cx z = s.cx z := rfl

@[simp] theorem State.setThread_byte (s : State) (t : Nat) (th : Thread) (y : Nat) : (s.setThread t th).byte y = s.byte y := rfl
@[simp] theorem State.updThread_byte (s : State) (t : Nat) (f : Thread → Thread) (y : Nat) : (s.updThread t f).byte y = s.byte y := rfl
@[simp] theorem State.updWarp_byte (s : State) (w : Nat) (f : Warp → Warp) (y : Nat) : (s.updWarp w f).byte y = s.byte y := rfl
@[simp] theorem State.updCore_byte (s : State) (c : Nat) (f : Core → Core) (y : Nat) : (s.updCore c f).byte y = s.byte y := rfl
@[simp] theorem State.updPart_byte (s : State) (p : Nat) (f : Part → Part) (y : Nat) : (s.updPart p f).byte y = s.byte y := rfl
@[simp] theorem State.updLaunch_byte (s : State) (lid : Nat) (f : Launch → Launch) (y : Nat) : (s.updLaunch lid f).byte y = s.byte y := rfl
@[simp] theorem State.updWg_byte (s : State) (lid g : Nat) (f : Wg → Wg) (y : Nat) : (s.updWg lid g f).byte y = s.byte y := rfl
@[simp] theorem State.updEngine_byte (s : State) (e : Nat) (f : CopyEngine → CopyEngine) (y : Nat) : (s.updEngine e f).byte y = s.byte y := rfl
@[simp] theorem State.updColl_byte (s : State) (e : Nat) (f : CollEngine → CollEngine) (y : Nat) : (s.updColl e f).byte y = s.byte y := rfl
@[simp] theorem State.updWelt_byte (s : State) (d : Nat) (f : Welt → Welt) (y : Nat) : (s.updWelt d f).byte y = s.byte y := rfl
@[simp] theorem State.updCx_byte (s : State) (k : Nat) (f : Context → Context) (y : Nat) : (s.updCx k f).byte y = s.byte y := rfl
@[simp] theorem State.updPort_byte (s : State) (p : Nat) (f : Port → Port) (y : Nat) : (s.updPort p f).byte y = s.byte y := rfl
@[simp] theorem State.updRing_byte (s : State) (n : Nat) (f : Ring → Ring) (y : Nat) : (s.updRing n f).byte y = s.byte y := rfl
@[simp] theorem State.endWord_byte (s : State) (y : Nat) : (s.endWord).byte y = s.byte y := rfl
@[simp] theorem State.occupy_byte (s : State) (u n : Nat) (y : Nat) : (s.occupy u n).byte y = s.byte y := rfl
@[simp] theorem State.updDev_byte (s : State) (f : Device → Device) (y : Nat) : (s.updDev f).byte y = s.byte y := rfl

/-! ## Register writes of a thread -/

@[simp] theorem Thread.setReg_reg_same (th : Thread) (n : Nat) (v : Word) : (th.setReg n v).reg n = v := Tab.get_put_same ..

theorem Thread.setReg_reg_ne (th : Thread) {n m : Nat} (h : m ≠ n) (v : Word) : (th.setReg n v).reg m = th.reg m := Tab.get_put_ne _ h _

theorem Thread.setReg_reg (th : Thread) (n m : Nat) (v : Word) : (th.setReg n v).reg m = if m = n then v else th.reg m := Tab.get_put ..

/-- A register that no write of a list names keeps its value. -/
theorem Thread.setRegs_reg_ne {m : Nat} : ∀ (l : List (Nat × Word)) (th : Thread), (∀ e ∈ l, e.1 ≠ m) → (th.setRegs l).reg m = th.reg m
  | [], _, _ => rfl
  | (n, v) :: r, th, h => by
    show ((th.setReg n v).setRegs r).reg m = _
    rw [Thread.setRegs_reg_ne r _ (fun e he => h e (List.mem_cons_of_mem _ he))]
    exact Thread.setReg_reg_ne th (fun e => h (n, v) (List.mem_cons_self ..) e.symm) v

/-- `setRegs` changes registers alone. -/
theorem Thread.setRegs_eq : ∀ (l : List (Nat × Word)) (th : Thread), th.setRegs l = { th with regs := (th.setRegs l).regs }
  | [], _ => rfl
  | (n, v) :: r, th => by
    show (th.setReg n v).setRegs r = { th with regs := ((th.setReg n v).setRegs r).regs }
    rw [Thread.setRegs_eq r (th.setReg n v)]
    rfl

/-- `setPreds` changes predicates alone. -/
theorem Thread.setPreds_eq : ∀ (l : List (Nat × Bool)) (th : Thread), th.setPreds l = { th with preds := (th.setPreds l).preds }
  | [], _ => rfl
  | (n, v) :: r, th => by
    have h1 : ∀ th : Thread, th.setPred n v = { th with preds := (th.setPred n v).preds } := fun th => by
      unfold Thread.setPred; split <;> rfl
    show (th.setPred n v).setPreds r = { th with preds := ((th.setPred n v).setPreds r).preds }
    rw [Thread.setPreds_eq r (th.setPred n v), h1 th]

end Sys2Proof.Machine
end

