-- ==== Sys2Proof/Laws/Simt.lean ====
section
/-! SUPPORT. What issuing a SIMT word can do: taking a trap, passing a word, writing a lane's results back, and a computing word as a whole. -/

namespace Sys2Proof.Machine
open Sys2Proof

/-! ## Changes of threads and warps alone -/

/-- Everything but threads, warps and the order in which HK3 received their events is the same in two states. -/
def State.onlyThreads (s t : State) : Prop := t = { s with thr := t.thr, warps := t.warps, hk3Order := t.hk3Order }

theorem State.onlyThreads.refl (s : State) : s.onlyThreads s := rfl

theorem State.onlyThreads.trans {a b c : State} (h : a.onlyThreads b) (k : b.onlyThreads c) : a.onlyThreads c := by
  unfold State.onlyThreads at *
  rw [k, h]

theorem State.onlyThreads.setThread {a b : State} (h : a.onlyThreads b) (t : Nat) (th : Thread) : a.onlyThreads (b.setThread t th) := by
  unfold State.onlyThreads at *
  rw [h]; rfl

theorem State.onlyThreads.updThread {a b : State} (h : a.onlyThreads b) (t : Nat) (f : Thread → Thread) : a.onlyThreads (b.updThread t f) :=
  h.setThread t _

theorem State.onlyThreads.updWarp {a b : State} (h : a.onlyThreads b) (w : Nat) (f : Warp → Warp) : a.onlyThreads (b.updWarp w f) := by
  unfold State.onlyThreads at *
  rw [h]; rfl

/-- What a hold can do: the warp is held, and the order of HK3's events may change. -/
theorem State.holdWarp_shape (s : State) (w : Nat) (c : Byte) (k : Bool) :
    ∃ o, s.holdWarp w c k = { s.updWarp w (fun x => x.hold c k) with hk3Order := o } := by
  unfold State.holdWarp
  dsimp only
  split
  · exact ⟨s.hk3Order, rfl⟩
  · exact ⟨_, rfl⟩

theorem State.onlyThreads.holdWarp {a b : State} (h : a.onlyThreads b) (w : Nat) (c : Byte) (k : Bool) : a.onlyThreads (b.holdWarp w c k) := by
  obtain ⟨o, e⟩ := b.holdWarp_shape w c k
  have h1 := h.updWarp w (fun x => x.hold c k)
  unfold State.onlyThreads at *
  rw [e, h1]

theorem State.onlyThreads.sendHk3 {a b : State} (h : a.onlyThreads b) (t : Nat) (c : Byte) (pc : DWord) (w m : Word) (ad : DWord) (k : Bool) :
    a.onlyThreads (b.sendHk3 t c pc w m ad k) := (h.updThread t _).holdWarp _ _ _

theorem State.onlyThreads.takeTrap {a b : State} (h : a.onlyThreads b) (t : Nat) (c : Byte) (pc : DWord) (w m : Word) (ad : DWord) :
    a.onlyThreads (b.takeTrap t c pc w m ad) := by
  unfold State.takeTrap
  dsimp only
  split
  · exact h.sendHk3 ..
  · split
    · exact h.sendHk3 ..
    · split
      · exact h.sendHk3 ..
      · exact h.updThread ..

theorem State.onlyThreads.stepTrap {a b : State} (h : a.onlyThreads b) (t : Nat) (w m : Word) : a.onlyThreads (b.stepTrap t w m) := by
  unfold State.stepTrap
  dsimp only
  split
  · split
    · exact h.updThread ..
    · exact h.takeTrap ..
  · exact h

theorem State.onlyThreads.finishWord {a b : State} (h : a.onlyThreads b) (t : Nat) (k : Bool) (w m : Word) :
    a.onlyThreads (b.finishWord t k w m) := (h.updThread ..).stepTrap ..

theorem State.onlyThreads.pass {a b : State} (h : a.onlyThreads b) (t : Nat) (k : Bool) : a.onlyThreads (b.pass t k) :=
  (h.updThread ..).finishWord ..

theorem State.onlyThreads.skip {a b : State} (h : a.onlyThreads b) (t : Nat) : a.onlyThreads (b.skip t) := h.pass t false

theorem State.onlyThreads.foldl {A : Type} {f : State → A → State} (hf : ∀ a b x, State.onlyThreads a b → State.onlyThreads a (f b x)) :
    ∀ {a b : State} (l : List A), a.onlyThreads b → a.onlyThreads (l.foldl f b)
  | _, _, [], h => h
  | _, _, x :: l, h => State.onlyThreads.foldl hf l (hf _ _ x h)

theorem State.onlyThreads.trapWord {a b : State} (h : a.onlyThreads b) (t : Nat) (c : Byte) (ad : DWord) : a.onlyThreads (b.trapWord t c ad) :=
  h.takeTrap ..

theorem State.onlyThreads.trapThreads {a b : State} (h : a.onlyThreads b) (c : Byte) (ts : List Nat) : a.onlyThreads (b.trapThreads c ts) :=
  State.onlyThreads.foldl (fun _ _ x h => h.trapWord x c 0) ts h

theorem State.onlyThreads.reportFailed (i : Instr) (g : Guard) : ∀ {a b : State} (ts : List Nat), a.onlyThreads b →
    a.onlyThreads (b.reportFailed i g ts).1
  | _, _, [], h => h
  | _, b, t :: ts, h => by
    unfold State.reportFailed
    dsimp only
    split
    · split
      · exact State.onlyThreads.reportFailed i g ts h
      · exact State.onlyThreads.reportFailed i g ts ((h.setThread ..).trapWord ..)
    · exact State.onlyThreads.reportFailed i g ts h

theorem State.onlyThreads.cur {a b : State} (h : a.onlyThreads b) : b.cur = a.cur := by rw [h]
theorem State.onlyThreads.mem {a b : State} (h : a.onlyThreads b) : b.mem = a.mem := by rw [h]
theorem State.onlyThreads.cores {a b : State} (h : a.onlyThreads b) : b.cores = a.cores := by rw [h]
theorem State.onlyThreads.dev {a b : State} (h : a.onlyThreads b) : b.dev = a.dev := by rw [h]
theorem State.onlyThreads.launches {a b : State} (h : a.onlyThreads b) : b.launches = a.launches := by rw [h]
theorem State.onlyThreads.byte {a b : State} (h : a.onlyThreads b) (k : Nat) : b.byte k = a.byte k := by rw [h]; rfl
theorem State.onlyThreads.coreAt {a b : State} (h : a.onlyThreads b) (c : Nat) : b.coreAt c = a.coreAt c := by rw [h]; rfl

/-! ## One thread through a trap or a pass -/

/-- What a trap, a pass or a park leaves of a thread: its vector registers, predicates, floating-point state, restart point, liveness,
stores not acknowledged and failed stores. -/
def Thread.sameData (a b : Thread) : Prop :=
  b.regs = a.regs ∧ b.preds = a.preds ∧ b.fpflags = a.fpflags ∧ b.fpmode = a.fpmode ∧ b.srseed = a.srseed ∧
  b.idempc = a.idempc ∧ b.live = a.live ∧ b.acks = a.acks ∧ b.failed = a.failed

theorem Thread.sameData.refl (a : Thread) : a.sameData a := ⟨rfl, rfl, rfl, rfl, rfl, rfl, rfl, rfl, rfl⟩

theorem Thread.sameData.trans {a b c : Thread} (h : a.sameData b) (k : b.sameData c) : a.sameData c := by
  obtain ⟨h1, h2, h3, h4, h5, h6, h7, h8, h9⟩ := h
  obtain ⟨k1, k2, k3, k4, k5, k6, k7, k8, k9⟩ := k
  exact ⟨k1.trans h1, k2.trans h2, k3.trans h3, k4.trans h4, k5.trans h5, k6.trans h6, k7.trans h7, k8.trans h8, k9.trans h9⟩

theorem State.holdWarp_thread (s : State) (w : Nat) (c : Byte) (k : Bool) (u : Nat) : (s.holdWarp w c k).thread u = s.thread u := by
  obtain ⟨o, e⟩ := s.holdWarp_shape w c k
  rw [e]; rfl

theorem State.sendHk3_thread_ne (s : State) {t u : Nat} (h : u ≠ t) (c : Byte) (pc : DWord) (w m : Word) (a : DWord) (k : Bool) :
    (s.sendHk3 t c pc w m a k).thread u = s.thread u := by
  unfold State.sendHk3
  rw [State.holdWarp_thread, State.updThread_thread_ne _ h]

theorem State.sendHk3_sameData (s : State) (t u : Nat) (c : Byte) (pc : DWord) (w m : Word) (a : DWord) (k : Bool) :
    (s.thread u).sameData ((s.sendHk3 t c pc w m a k).thread u) := by
  unfold State.sendHk3
  rw [State.holdWarp_thread, State.updThread_thread]
  split
  · rename_i h; subst h; exact ⟨rfl, rfl, rfl, rfl, rfl, rfl, rfl, rfl, rfl⟩
  · exact .refl _

theorem State.takeTrap_thread_ne (s : State) {t u : Nat} (h : u ≠ t) (c : Byte) (pc : DWord) (w m : Word) (a : DWord) :
    (s.takeTrap t c pc w m a).thread u = s.thread u := by
  unfold State.takeTrap
  dsimp only
  split
  · exact s.sendHk3_thread_ne h ..
  · split
    · exact s.sendHk3_thread_ne h ..
    · split
      · exact s.sendHk3_thread_ne h ..
      · exact s.updThread_thread_ne h _

theorem State.takeTrap_sameData (s : State) (t u : Nat) (c : Byte) (pc : DWord) (w m : Word) (a : DWord) :
    (s.thread u).sameData ((s.takeTrap t c pc w m a).thread u) := by
  unfold State.takeTrap
  dsimp only
  split
  · exact s.sendHk3_sameData ..
  · split
    · exact s.sendHk3_sameData ..
    · split
      · exact s.sendHk3_sameData ..
      · rw [State.updThread_thread]
        split
        · rename_i h; subst h; exact ⟨rfl, rfl, rfl, rfl, rfl, rfl, rfl, rfl, rfl⟩
        · exact .refl _

theorem State.stepTrap_thread_ne (s : State) {t u : Nat} (h : u ≠ t) (w m : Word) : (s.stepTrap t w m).thread u = s.thread u := by
  unfold State.stepTrap
  dsimp only
  split
  · split
    · exact s.updThread_thread_ne h _
    · exact s.takeTrap_thread_ne h ..
  · rfl

theorem State.stepTrap_sameData (s : State) (t u : Nat) (w m : Word) : (s.thread u).sameData ((s.stepTrap t w m).thread u) := by
  unfold State.stepTrap
  dsimp only
  split
  · split
    · rw [State.updThread_thread]
      split
      · rename_i h; subst h; exact ⟨rfl, rfl, rfl, rfl, rfl, rfl, rfl, rfl, rfl⟩
      · exact .refl _
    · exact s.takeTrap_sameData ..
  · exact .refl _

/-- Outside single step, or in handler mode, a word ends without a trap. -/
theorem State.stepTrap_none (s : State) (t : Nat) (w m : Word) (h : (s.warpOfThread t).sstep = false ∨ (s.thread t).h = true) :
    s.stepTrap t w m = s := by
  unfold State.stepTrap
  dsimp only
  rw [if_neg]
  rcases h with h | h <;> simp [h]

theorem State.finishWord_thread_ne (s : State) {t u : Nat} (h : u ≠ t) (k : Bool) (w m : Word) :
    (s.finishWord t k w m).thread u = s.thread u := by
  unfold State.finishWord
  rw [State.stepTrap_thread_ne _ h, State.updThread_thread_ne _ h]

theorem State.finishWord_sameData (s : State) (t u : Nat) (k : Bool) (w m : Word) : (s.thread u).sameData ((s.finishWord t k w m).thread u) := by
  refine Thread.sameData.trans ?_ (State.stepTrap_sameData _ t u w m)
  rw [State.updThread_thread]
  split
  · rename_i h; subst h; split <;> exact ⟨rfl, rfl, rfl, rfl, rfl, rfl, rfl, rfl, rfl⟩
  · exact .refl _

/-- The thread at the end of a word outside single step: parked at its marker if a result is outstanding, and otherwise as it was. -/
theorem State.finishWord_thread (s : State) (t : Nat) (k : Bool) (w m : Word)
    (h : (s.warpOfThread t).sstep = false ∨ (s.thread t).h = true) :
    s.finishWord t k w m = s.updThread t (fun th => if k && th.waiting then { th with park := .marker } else th) := by
  unfold State.finishWord
  rw [State.stepTrap_none]
  rcases h with h | h
  · exact .inl h
  · right; rw [State.updThread_thread_same]; split <;> exact h

theorem State.pass_thread_ne (s : State) {t u : Nat} (h : u ≠ t) (k : Bool) : (s.pass t k).thread u = s.thread u := by
  unfold State.pass State.finish
  rw [State.finishWord_thread_ne _ h, State.updThread_thread_ne _ h]

theorem State.pass_sameData (s : State) (t u : Nat) (k : Bool) : (s.thread u).sameData ((s.pass t k).thread u) := by
  refine Thread.sameData.trans ?_ (State.finishWord_sameData _ t u k _ _)
  rw [State.updThread_thread]
  split
  · rename_i h; subst h; exact ⟨rfl, rfl, rfl, rfl, rfl, rfl, rfl, rfl, rfl⟩
  · exact .refl _

/-- A thread that passes a word outside single step continues at the next address under the loop-back rule. -/
theorem State.pass_next (s : State) (t : Nat) (k : Bool) (h : (s.warpOfThread t).sstep = false ∨ (s.thread t).h = true) :
    ((s.pass t k).thread t).pc = (loopBack (s.thread t).depth (s.thread t).h (s.thread t).lstk s.cur.nextPc).2 ∧
    ((s.pass t k).thread t).lstk = (loopBack (s.thread t).depth (s.thread t).h (s.thread t).lstk s.cur.nextPc).1 := by
  unfold State.pass State.finish
  rw [State.finishWord_thread]
  · rw [State.updThread_thread_same, State.updThread_thread_same]
    constructor <;> (split <;> rfl)
  · rcases h with h | h
    · exact .inl h
    · right; rw [State.updThread_thread_same]; exact h

/-! ## Lists of threads -/

/-- A thread that a fold does not visit stays as it was. -/
theorem State.foldl_thread_ne {A : Type} {f : State → A → State} {key : A → Nat} {u : Nat}
    (hf : ∀ (s : State) (x : A), key x ≠ u → (f s x).thread u = s.thread u) :
    ∀ (l : List A) (s : State), (∀ x ∈ l, key x ≠ u) → (l.foldl f s).thread u = s.thread u
  | [], _, _ => rfl
  | x :: l, s, h => by
    show (l.foldl f (f s x)).thread u = _
    rw [State.foldl_thread_ne hf l _ (fun y hy => h y (List.mem_cons_of_mem _ hy)), hf s x (h x (List.mem_cons_self ..))]

theorem State.foldl_sameData {A : Type} {f : State → A → State} {u : Nat}
    (hf : ∀ (s : State) (x : A), (s.thread u).sameData ((f s x).thread u)) :
    ∀ (l : List A) (s : State), (s.thread u).sameData ((l.foldl f s).thread u)
  | [], _ => .refl _
  | x :: l, s => (hf s x).trans (State.foldl_sameData hf l (f s x))

theorem State.trapThreads_sameData (s : State) (c : Byte) (ts : List Nat) (u : Nat) :
    (s.thread u).sameData ((s.trapThreads c ts).thread u) :=
  State.foldl_sameData (fun s x => s.takeTrap_sameData x u c s.cur.pc0 s.cur.word s.cur.mask 0) ts s

/-- Warps keep all that a trap does not change: only HK3's hold. -/
def Warp.sameBut (a b : Warp) : Prop :=
  b = { a with held := b.held, hkCause := b.hkCause, hkKill := b.hkKill, hkRestart := b.hkRestart, quiet := b.quiet }

theorem Warp.sameBut.refl (a : Warp) : a.sameBut a := rfl

theorem Warp.sameBut.trans {a b c : Warp} (h : a.sameBut b) (k : b.sameBut c) : a.sameBut c := by
  unfold Warp.sameBut at *; rw [k, h]

theorem State.holdWarp_warp (s : State) (w : Nat) (c : Byte) (k : Bool) (v : Nat) : (s.warp v).sameBut ((s.holdWarp w c k).warp v) := by
  obtain ⟨o, e⟩ := s.holdWarp_shape w c k
  rw [e]
  show (s.warp v).sameBut ((s.updWarp w (fun x => x.hold c k)).warp v)
  rw [State.updWarp_warp]
  split
  · rename_i h; subst h; unfold Warp.hold; split <;> rfl
  · rfl

theorem State.sendHk3_warp (s : State) (t : Nat) (c : Byte) (pc : DWord) (w m : Word) (a : DWord) (k : Bool) (v : Nat) :
    (s.warp v).sameBut ((s.sendHk3 t c pc w m a k).warp v) := State.holdWarp_warp (s.updThread t _) _ _ _ v

theorem State.takeTrap_warp (s : State) (t : Nat) (c : Byte) (pc : DWord) (w m : Word) (a : DWord) (v : Nat) :
    (s.warp v).sameBut ((s.takeTrap t c pc w m a).warp v) := by
  unfold State.takeTrap
  dsimp only
  split
  · exact s.sendHk3_warp ..
  · split
    · exact s.sendHk3_warp ..
    · split
      · exact s.sendHk3_warp ..
      · rfl

theorem State.stepTrap_warp (s : State) (t : Nat) (w m : Word) (v : Nat) : (s.warp v).sameBut ((s.stepTrap t w m).warp v) := by
  unfold State.stepTrap
  dsimp only
  split
  · split
    · rw [State.updThread_warp]; exact .refl _
    · exact s.takeTrap_warp ..
  · exact .refl _

theorem State.finishWord_warp (s : State) (t : Nat) (k : Bool) (w m : Word) (v : Nat) :
    (s.warp v).sameBut ((s.finishWord t k w m).warp v) := by
  unfold State.finishWord
  have h := State.stepTrap_warp (s.updThread t (fun th => if k && th.waiting then { th with park := .marker } else th)) t w m v
  rwa [State.updThread_warp] at h

theorem State.pass_warp (s : State) (t : Nat) (k : Bool) (v : Nat) : (s.warp v).sameBut ((s.pass t k).warp v) := by
  unfold State.pass State.finish
  have h := State.finishWord_warp (s.updThread t (fun th => th.goTo s.cur.nextPc)) t k
    (s.updThread t (fun th => th.goTo s.cur.nextPc)).cur.word (s.updThread t (fun th => th.goTo s.cur.nextPc)).cur.mask v
  rwa [State.updThread_warp] at h

theorem State.foldl_warp {A : Type} {f : State → A → State} {v : Nat} (hf : ∀ (s : State) (x : A), (s.warp v).sameBut ((f s x).warp v)) :
    ∀ (l : List A) (s : State), (s.warp v).sameBut ((l.foldl f s).warp v)
  | [], _ => .refl _
  | x :: l, s => (hf s x).trans (State.foldl_warp hf l (f s x))

theorem Warp.sameBut.sstep {a b : Warp} (h : a.sameBut b) : b.sstep = a.sstep := by rw [h]

end Sys2Proof.Machine
end

