-- ==== Sys2Proof/Laws/Cases.lean ====
section
/-! SUPPORT. What the shared operations can do, said once for each: taking a trap, the end of a move, a circuit word, and a request that
arrives at the endpoint. -/

namespace Sys2Proof.Machine
open Sys2Proof

/-- R393, R394, R396, R398: taking a trap either sends the thread to HK3, with its frame and without its outstanding results, or enters its
handler. -/
theorem State.takeTrap_cases (s : State) (t : Nat) (c : Byte) (pc : DWord) (w m : Word) (a : DWord) :
    (∃ kill, ((s.thread t).h = true ∨ toHk3 c = true ∨ s.traphOf t = 0) ∧ s.takeTrap t c pc w m a = s.sendHk3 t c pc w m a kill) ∨
    ((s.thread t).h = false ∧ toHk3 c = false ∧ s.traphOf t ≠ 0 ∧
      s.takeTrap t c pc w m a = s.updThread t (fun th =>
        { th.withFrame c pc w m a with edepth := th.depth, h := true, dm := false, pc := s.traphOf t, park := .none, wdog := none, asked := {},
                                       readyAt := s.cycleOf (coreOfThread t) + 4 })) := by
  unfold State.takeTrap
  cases hh : (s.thread t).h
  · cases hk : toHk3 c
    · by_cases h0 : s.traphOf t = 0
      · exact .inl ⟨true, by simp [h0], by simp [h0]⟩
      · exact .inr ⟨rfl, rfl, h0, by simp; exact fun h => absurd h h0⟩
    · exact .inl ⟨false, by simp, by simp⟩
  · exact .inl ⟨true, by simp, by simp⟩

/-- The end of a move never refuses what the move did not; it answers the state after what was due, or the one fault of absent memory. -/
theorem finishMove_next (t : State) :
    (t.wrapUp.hole = true ∧ finishMove (.next t) = .fault .noSuchMemory) ∨
    (t.wrapUp.hole = false ∧ finishMove (.next t) = .next t.wrapUp) := by
  unfold finishMove
  cases h : t.wrapUp.hole
  · exact .inr ⟨rfl, by simp [h]⟩
  · exact .inl ⟨rfl, by simp [h]⟩

/-- R337, R348: a circuit word does nothing while the context that issues is not in RUN, faults with 0x02 when a field of it breaks a rule,
and otherwise does what it is for. -/
theorem State.circuitWord_cases (s : State) (i : Instr) (f : State → Nat → State) :
    ((s.cx s.cp.last).st ≠ 1 ∧ s.circuitWord i f = s) ∨
    ((s.cx s.cp.last).st = 1 ∧ i.fieldsOk = false ∧ s.circuitWord i f = s.faultContext s.cp.last 2) ∨
    ((s.cx s.cp.last).st = 1 ∧ i.fieldsOk = true ∧ s.circuitWord i f = f s s.cp.last) := by
  unfold State.circuitWord
  by_cases h : (s.cx s.cp.last).st = 1
  · cases hf : i.fieldsOk <;> simp [h]
  · exact .inl ⟨h, by simp [h]⟩

/-- The state in which the endpoint performs a request: the packet has left the Lodge's buffer, its number is checked, and it is open (R305). -/
def State.opened (s : State) (p : Packet) : State :=
  let s1 := (s.fromWire p).seqCheck p
  { s1 with lodge := { s1.lodge with opens := s1.lodge.opens ++ [OpenReq.mk p none] } }

/-- R295, R305: a request that the ATTACHED endpoint of an owned partition has room for is performed. -/
theorem State.deliverReq_performed (s : State) (p : Packet) (ty : BitVec 4) (k : State → State)
    (h1 : p.dst = s.devId) (h2 : p.type = ty) (h3 : s.lodge.epst = 1) (h4 : s.lodge.opens.length < 32768)
    (h5 : (s.diesOf s.epart).isEmpty = false) (h6 : s.epartResets = false) : s.deliverReq p ty k = k (s.opened p) := by
  have c1 : (p.dst != s.devId || p.type != ty || !s.canDeliver) = false := by simp [h1, h2, State.canDeliver, h4]
  have c2 : (((s.fromWire p).seqCheck p).lodge.epst != 1) = false := by
    change (s.lodge.epst != 1) = false
    simp [h3]
  have c3 : (((s.opened p).diesOf (s.opened p).epart).isEmpty || (s.opened p).epartResets) = false := by
    change ((s.diesOf s.epart).isEmpty || s.epartResets) = false
    simp [h5, h6]
  change (if (p.dst != s.devId || p.type != ty || !s.canDeliver) = true then s
    else if (((s.fromWire p).seqCheck p).lodge.epst != 1) = true then ((s.fromWire p).seqCheck p).absentHere p
    else if (((s.opened p).diesOf (s.opened p).epart).isEmpty || (s.opened p).epartResets) = true then (s.opened p).answerTo p 0x12 [] else k (s.opened p)) = _
  rw [c1, c2, c3]
  rfl

end Sys2Proof.Machine
end

