-- ==== Sys2Proof/Laws/Compute.lean ====
section
/-! SUPPORT. What a SIMT word does when it executes, and what a computing word writes: the spec lemmas of State.simt, State.check and State.compute. -/

namespace Sys2Proof.Machine
open Sys2Proof

/-! ## Issuing -/

/-- With nothing to report, every thread goes on. -/
theorem State.reportFailed_clean (i : Instr) (g : Guard) : ∀ (ts : List Nat) (s : State), (∀ t ∈ ts, (s.thread t).failed = []) →
    s.reportFailed i g ts = (s, ts)
  | [], _, _ => rfl
  | t :: ts, s, h => by
    have ih := State.reportFailed_clean i g ts s (fun u hu => h u (List.mem_cons_of_mem _ hu))
    have h0 := h t (List.mem_cons_self ..)
    unfold State.reportFailed
    simp [h0, ih]

/-- The threads of the bundle whose guard is false. -/
def State.bystanders (s : State) (i : Instr) : List Nat := s.cur.threads.filter (fun t => !s.guardTrue i t)

/-- A word that executes runs its body on the participants; the others advance. -/
theorem State.simt_executes {s : State} {i : Instr} {g : Guard} (hg : i.guard? = some g) (h : s.executes i)
    (body : State → List Nat → State × Option Byte) :
    s.simt i body = match body s (s.participants i) with
      | (s1, none) => ((s.bystanders i).foldl State.skip s1).endWord
      | (s1, some c) => (s1.trapThreads c s.cur.threads).endWord := by
  obtain ⟨h1, _, h3, h4⟩ := h
  unfold State.simt State.participants State.bystanders
  have e : s.guardTrue i = fun t => guardHolds g (s.thread t) := funext fun t => by simp [State.guardTrue, hg]
  simp only [hg, h1, h3, State.reportFailed_clean i g _ _ h4, e]
  generalize body s (List.filter (fun t => guardHolds g (s.thread t)) s.cur.threads) = r
  rcases r with ⟨s1, _ | c⟩ <;> rfl

/-- A participant is a thread of the bundle whose guard is true. -/
theorem State.mem_participants {s : State} {i : Instr} {t : Nat} :
    t ∈ s.participants i ↔ t ∈ s.cur.threads ∧ s.guardTrue i t = true := List.mem_filter

theorem State.participants_nodup {s : State} {i : Instr} (h : s.executes i) : (s.participants i).Nodup := h.2.1.filter _

theorem State.not_bystander {s : State} {i : Instr} {t : Nat} (h : t ∈ s.participants i) : ∀ x ∈ s.bystanders i, x ≠ t := by
  intro x hx e
  subst e
  have := (List.mem_filter.1 hx).2
  rw [(State.mem_participants.1 h).2] at this
  exact absurd this (by simp)

/-! ## Checked issue on a sound core -/

theorem State.faultMask_sound {s : State} {c : Nat} (h : (s.coreAt c).dpFault = []) (p : Pipe) (k : Nat) : s.faultMask c p k = 0 := by
  simp [State.faultMask, h]

/-- The passes that checking makes on a core without faults: 1 or 2. -/
def State.passes (s : State) : Nat := if s.drawCheck.2 then 2 else 1

/-- On a sound core every pass gives the values themselves. -/
theorem State.check_sound {V : Type} [DecidableEq V] {s : State} (h : s.soundCore) (p : Pipe) {corrupt : Word → V → V}
    (hc : ∀ v, corrupt 0 v = v) (outs : List (Nat × V)) :
    s.check p corrupt outs = (s.drawCheck.1, some outs, s.passes) := by
  have hm : ∀ k, outs.map (fun o => (o.1, corrupt (s.faultMask s.cur.core p (laneOf o.1 + k)) o.2)) = outs := fun k => by
    have hz : (fun o : Nat × V => (o.1, corrupt (s.faultMask s.cur.core p (laneOf o.1 + k)) o.2)) = id := funext fun o => by
      rw [State.faultMask_sound h, hc]; rfl
    rw [hz, List.map_id]
  have h0 := hm 0
  simp only [Nat.add_zero] at h0
  unfold State.check State.passes
  simp only [h0, hm 1]
  by_cases hd : s.drawCheck.2 = true <;> simp [hd]

theorem LaneOut.on_zero (o : LaneOut) : LaneOut.on 0 o = o := rfl

/-- Drawing a check changes the issuing core's count alone. -/
theorem State.drawCheck_shape (s : State) : s.drawCheck.1 = s ∨ s.drawCheck.1 = s.updCore s.cur.core (fun c => { c with samples := c.samples + 1 }) := by
  unfold State.drawCheck
  split
  · exact .inl rfl
  · exact .inr rfl
  · exact .inl rfl

@[simp] theorem State.drawCheck_thread (s : State) (u : Nat) : s.drawCheck.1.thread u = s.thread u := by
  rcases s.drawCheck_shape with h | h <;> rw [h]; rfl
@[simp] theorem State.drawCheck_warp (s : State) (u : Nat) : s.drawCheck.1.warp u = s.warp u := by
  rcases s.drawCheck_shape with h | h <;> rw [h]; rfl
@[simp] theorem State.drawCheck_cur (s : State) : s.drawCheck.1.cur = s.cur := by
  rcases s.drawCheck_shape with h | h <;> rw [h]; rfl
@[simp] theorem State.drawCheck_byte (s : State) (k : Nat) : s.drawCheck.1.byte k = s.byte k := by
  rcases s.drawCheck_shape with h | h <;> rw [h]; rfl

/-! ## Writing back -/

/-- What a lane's results make of its thread, but for the interlocks and the way on. -/
theorem Thread.write_data (th : Thread) (o : LaneOut) :
    (th.write o).regs = (th.setRegs o.regs).regs ∧ (th.write o).preds = (th.setPreds o.preds).preds ∧
    (th.write o).fpflags = th.fpflags ||| o.flags ∧ (th.write o).fpmode = th.fpmode ∧ (th.write o).srseed = o.seed.getD th.srseed := by
  unfold Thread.write
  rw [Thread.setPreds_eq o.preds, Thread.setRegs_eq o.regs]
  refine ⟨rfl, ?_, rfl, rfl, rfl⟩
  have h : ∀ (l : List (Nat × Bool)) (a b : Thread), a.preds = b.preds → (a.setPreds l).preds = (b.setPreds l).preds := by
    intro l
    induction l with
    | nil => exact fun _ _ h => h
    | cons e l ih =>
      intro a b h
      refine ih _ _ ?_
      show (a.setPred e.1 e.2).preds = (b.setPred e.1 e.2).preds
      unfold Thread.setPred
      split
      · exact h
      · show withBit a.preds e.1 e.2 = withBit b.preds e.1 e.2
        rw [h]
  exact h _ _ _ rfl

theorem Thread.write_acks (th : Thread) (o : LaneOut) :
    (th.write o).idempc = th.idempc ∧ (th.write o).live = th.live ∧ (th.write o).acks = th.acks ∧ (th.write o).failed = th.failed ∧
    (th.write o).depth = th.depth ∧ (th.write o).h = th.h ∧ (th.write o).lstk = th.lstk ∧ (th.write o).outs = th.outs := by
  unfold Thread.write
  rw [Thread.setPreds_eq o.preds, Thread.setRegs_eq o.regs]
  exact ⟨rfl, rfl, rfl, rfl, rfl, rfl, rfl, rfl⟩

theorem State.writeBack_thread_ne (s : State) {t u : Nat} (h : t ≠ u) (i : Instr) (lat : Nat) (o : LaneOut) :
    (s.writeBack i lat (t, o)).thread u = s.thread u := by
  unfold State.writeBack
  rw [State.pass_thread_ne _ (fun e => h e.symm), State.updThread_thread_ne _ (fun e => h e.symm)]

/-- A lane's write-back: its thread holds the results. -/
theorem State.writeBack_data (s : State) (t : Nat) (i : Instr) (lat : Nat) (o : LaneOut) :
    ((s.thread t).write o).sameData ((s.writeBack i lat (t, o)).thread t) := by
  unfold State.writeBack
  refine Thread.sameData.trans ?_ (State.pass_sameData _ t t (markOf i))
  rw [State.updThread_thread_same]
  exact ⟨rfl, rfl, rfl, rfl, rfl, rfl, rfl, rfl, rfl⟩

theorem State.writeBack_onlyThreads {a b : State} (h : a.onlyThreads b) (i : Instr) (lat : Nat) (o : Nat × LaneOut) :
    a.onlyThreads (b.writeBack i lat o) := (h.updThread ..).pass ..

theorem State.writeBack_warp (s : State) (i : Instr) (lat : Nat) (o : Nat × LaneOut) (v : Nat) :
    (s.warp v).sameBut ((s.writeBack i lat o).warp v) := by
  unfold State.writeBack
  have h := State.pass_warp (s.updThread o.1 (fun th => (th.write o.2).readyFrom (s.cycleOf s.cur.core + lat) (o.2.marks i))) o.1 (markOf i) v
  rwa [State.updThread_warp] at h

/-- The write-backs of a list that names its threads once. -/
theorem State.writeBacks_thread (i : Instr) (lat : Nat) (g : Nat → LaneOut) (t : Nat) :
    ∀ (ts : List Nat) (s : State), ts.Nodup → t ∈ ts →
      ∃ s1 : State, s.onlyThreads s1 ∧ s1.thread t = s.thread t ∧ (∀ v, (s.warp v).sameBut (s1.warp v)) ∧
        ((ts.map (fun u => (u, g u))).foldl (fun s o => s.writeBack i lat o) s).thread t = (s1.writeBack i lat (t, g t)).thread t
  | [], _, _, h => absurd h (List.not_mem_nil)
  | x :: ts, s, hn, ht => by
    have hn' := List.nodup_cons.1 hn
    show ∃ s1 : State, _ ∧ _ ∧ _ ∧ ((ts.map (fun u => (u, g u))).foldl (fun s o => s.writeBack i lat o) (s.writeBack i lat (x, g x))).thread t = _
    by_cases hx : x = t
    · subst hx
      refine ⟨s, .refl s, rfl, fun _ => .refl _, ?_⟩
      refine State.foldl_thread_ne (key := Prod.fst) (fun s o ho => s.writeBack_thread_ne ho i lat o.2) _ _ ?_
      intro o ho
      obtain ⟨u, hu, rfl⟩ := List.mem_map.1 ho
      exact fun e => hn'.1 (e ▸ hu)
    · have ht' : t ∈ ts := (List.mem_cons.1 ht).resolve_left (fun e => hx e.symm)
      obtain ⟨s1, h1, h2, h3, h4⟩ := State.writeBacks_thread i lat g t ts (s.writeBack i lat (x, g x)) hn'.2 ht'
      exact ⟨s1, (State.writeBack_onlyThreads (.refl s) i lat (x, g x)).trans h1, h2.trans (s.writeBack_thread_ne hx i lat _),
        fun v => (s.writeBack_warp i lat (x, g x) v).trans (h3 v), h4⟩

/-! ## A computing word -/

/-- A COMPUTING WORD THAT EXECUTES ON A SOUND CORE gives every participant what its function gives, from the state before the word. -/
theorem State.compute_result {s : State} {i : Instr} {g : Guard} (hg : i.guard? = some g) (h : s.executes i) (hs : s.soundCore)
    (p : Pipe) (unit lat occ : Nat) (f : State → List Nat → Nat → LaneOut) {t : Nat} (ht : t ∈ s.participants i) :
    let th := (s.compute i p unit lat occ f).thread t
    ((s.thread t).write (f s (s.participants i) t)).sameData th ∧
    (s.steady t → th.pc = (loopBack (s.thread t).depth (s.thread t).h (s.thread t).lstk s.cur.nextPc).2) := by
  intro th
  have hth : th = (s.compute i p unit lat occ f).thread t := rfl
  unfold State.compute at hth
  rw [State.simt_executes hg h] at hth
  simp only [State.check_sound hs p LaneOut.on_zero] at hth
  have hfold : ∀ z : State, (((s.bystanders i).foldl State.skip z).endWord).thread t = z.thread t := fun z =>
    State.foldl_thread_ne (key := id) (fun s x hx => s.pass_thread_ne (fun e => hx e.symm) false) _ _ (State.not_bystander ht)
  rw [hfold] at hth
  obtain ⟨s1, h1, h2, h3, h4⟩ := State.writeBacks_thread i (lat + (s.passes - 1)) (f s (s.participants i)) t
    (s.participants i) (s.drawCheck.1.occupy unit (occ * s.passes)) (State.participants_nodup h) ht
  rw [h4] at hth
  have e2 : s1.thread t = s.thread t := by rw [h2]; simp
  constructor
  · rw [hth]
    have := State.writeBack_data s1 t i (lat + (s.passes - 1)) (f s (s.participants i) t)
    rwa [e2] at this
  · intro hst
    rw [hth]
    unfold State.writeBack
    have hw := Thread.write_acks (s.thread t) (f s (s.participants i) t)
    have hstep := (h3 (warpOf t)).sstep
    have hn := State.pass_next (s1.updThread t (fun th => (th.write (f s (s.participants i) t)).readyFrom
      (s1.cycleOf s1.cur.core + (lat + (s.passes - 1))) ((f s (s.participants i) t).marks i))) t (markOf i) ?_
    · rw [hn.1, State.updThread_thread_same, e2]
      simp only [Thread.readyFrom, hw.2.2.2.2.1, hw.2.2.2.2.2.1, hw.2.2.2.2.2.2.1, State.updThread_cur, h1.cur, State.occupy_cur,
        State.drawCheck_cur]
    · rcases hst with hst | hst
      · left
        show (s1.warp (warpOf t)).sstep = false
        rw [hstep]
        show (s.drawCheck.1.warp (warpOf t)).sstep = false
        rw [State.drawCheck_warp]
        exact hst
      · right
        rw [State.updThread_thread_same, e2]
        show ((s.thread t).write _).h = true
        rw [hw.2.2.2.2.2.1]
        exact hst

/-! ## What a participant's registers and predicates hold afterwards -/

theorem State.compute_reg {s : State} {i : Instr} {g : Guard} {t : Nat} (h : Runs s i t) (hg : i.guard? = some g) (p : Pipe)
    (unit lat occ : Nat) (f : State → List Nat → Nat → LaneOut) (n : Nat) :
    ((s.compute i p unit lat occ f).thread t).reg n = ((s.thread t).setRegs (f s (s.participants i) t).regs).reg n := by
  unfold Thread.reg
  rw [(State.compute_result hg h.1 h.2.1 p unit lat occ f h.2.2).1.1, (Thread.write_data _ _).1]

theorem State.compute_pred {s : State} {i : Instr} {g : Guard} {t : Nat} (h : Runs s i t) (hg : i.guard? = some g) (p : Pipe)
    (unit lat occ : Nat) (f : State → List Nat → Nat → LaneOut) (n : Nat) :
    ((s.compute i p unit lat occ f).thread t).pred n = ((s.thread t).setPreds (f s (s.participants i) t).preds).pred n := by
  unfold Thread.pred
  rw [(State.compute_result hg h.1 h.2.1 p unit lat occ f h.2.2).1.2.1, (Thread.write_data _ _).2.1]

theorem State.compute_fp {s : State} {i : Instr} {g : Guard} {t : Nat} (h : Runs s i t) (hg : i.guard? = some g) (p : Pipe)
    (unit lat occ : Nat) (f : State → List Nat → Nat → LaneOut) :
    ((s.compute i p unit lat occ f).thread t).fpflags = (s.thread t).fpflags ||| (f s (s.participants i) t).flags ∧
    ((s.compute i p unit lat occ f).thread t).srseed = (f s (s.participants i) t).seed.getD (s.thread t).srseed := by
  have r := (State.compute_result hg h.1 h.2.1 p unit lat occ f h.2.2).1
  have w := Thread.write_data (s.thread t) (f s (s.participants i) t)
  exact ⟨r.2.2.1.trans w.2.2.1, r.2.2.2.2.1.trans w.2.2.2.2⟩

/-- A word of the integer pipe with one register result. -/
theorem State.intWord_reg {s : State} {i : Instr} {g : Guard} {t : Nat} (h : Runs s i t) (hg : i.guard? = some g) (lat occ : Nat)
    (d : BitVec 6) (f : Thread → Word) : ((s.intWord i lat occ d f).thread t).reg d.toNat = f (s.thread t) := by
  unfold State.intWord
  rw [State.compute_reg h hg]
  exact Thread.setReg_reg_same ..

/-- A predicate write reads back, unless it is p7. -/
theorem Thread.setPred_pred_same (th : Thread) {q : Nat} (hq : q < 7) (v : Bool) : (th.setPred q v).pred q = v := by
  have h7 : (q == 7) = false := by simp; omega
  unfold Thread.setPred Thread.pred
  rw [h7]
  simp only [Bool.false_eq_true, if_false, Bool.false_or]
  unfold withBit
  cases v
  · simp [hq]
  · simp [hq]

/-- The last write of a pair reads back whole. -/
theorem Thread.setRegs_pair (th : Thread) (n : Nat) (v : DWord) : (th.setRegs (pairWrites n v)).pair n = v := by
  unfold Thread.pair pairWrites
  show ((th.setReg n _).setReg (n + 1) _).reg (n + 1) ++ ((th.setReg n _).setReg (n + 1) _).reg n = v
  rw [Thread.setReg_reg_same, Thread.setReg_reg_ne _ (by omega), Thread.setReg_reg_same]
  apply BitVec.eq_of_getLsbD_eq
  intro i hi
  rw [BitVec.getLsbD_append]
  by_cases h : i < 32
  · simp [h]
  · have h2 : i - 32 < 32 := by omega
    have h3 : 32 + (i - 32) = i := by omega
    simp [h, h2, h3]

end Sys2Proof.Machine
end

