-- ==== Sys2Proof/Laws/Frame.lean ====
section
/-! SUPPORT. What a computing word leaves unchanged, whatever becomes of it: the frame lemmas behind the statements about registers and memory. -/

namespace Sys2Proof.Machine
open Sys2Proof

/-- Everything but the bundle, threads, warps with the order of their HK3 events, cores and the datapath histograms is the same in two states. -/
def State.onlyIssue (s t : State) : Prop :=
  t = { s with cur := t.cur, thr := t.thr, warps := t.warps, hk3Order := t.hk3Order, cores := t.cores, dev := { s.dev with hist := t.dev.hist } }

theorem State.onlyIssue.refl (s : State) : s.onlyIssue s := rfl

theorem State.onlyIssue.trans {a b c : State} (h : a.onlyIssue b) (k : b.onlyIssue c) : a.onlyIssue c := by
  unfold State.onlyIssue at *
  rw [k, h]

theorem State.onlyThreads.onlyIssue {a b : State} (h : a.onlyThreads b) : a.onlyIssue b := by
  unfold State.onlyIssue
  rw [h]

theorem State.onlyIssue.endWord {a b : State} (h : a.onlyIssue b) : a.onlyIssue b.endWord := by
  unfold State.onlyIssue at *
  rw [h]; rfl

theorem State.onlyIssue.updCore {a b : State} (h : a.onlyIssue b) (c : Nat) (f : Core → Core) : a.onlyIssue (b.updCore c f) := by
  unfold State.onlyIssue at *
  rw [h]; rfl

theorem State.onlyIssue.countMismatch {a b : State} (h : a.onlyIssue b) (c k : Nat) : a.onlyIssue (b.countMismatch c k) := by
  unfold State.onlyIssue at *
  rw [h]; rfl

theorem State.onlyIssue.byte {a b : State} (h : a.onlyIssue b) (k : Nat) : b.byte k = a.byte k := by rw [h]; rfl
theorem State.onlyIssue.mem {a b : State} (h : a.onlyIssue b) : b.mem = a.mem := by rw [h]
theorem State.onlyIssue.tagAt {a b : State} (h : a.onlyIssue b) (k : Nat) : b.tagAt k = a.tagAt k := by rw [h]; rfl
theorem State.onlyIssue.swzAt {a b : State} (h : a.onlyIssue b) (k : Nat) : b.swzAt k = a.swzAt k := by rw [h]; rfl

/-! ## Checked issue -/

theorem State.thirdPass_shape {V : Type} [DecidableEq V] (p : Pipe) (corrupt : Word → V → V) :
    ∀ (l : List (Nat × V)) (s : State), s.onlyIssue (s.thirdPass p corrupt l).1 ∧ (s.thirdPass p corrupt l).1.thr = s.thr ∧
      (s.thirdPass p corrupt l).1.warps = s.warps ∧ (s.thirdPass p corrupt l).1.cur = s.cur
  | [], s => ⟨.refl s, rfl, rfl, rfl⟩
  | (t, v) :: r, s => by
    unfold State.thirdPass
    dsimp only
    split
    · exact State.thirdPass_shape p corrupt r s
    · rename_i x m _
      cases m with
      | none =>
        have h := State.thirdPass_shape p corrupt r s
        split <;> (rename_i heq; simp only [heq] at h; exact h)
      | some k =>
        have h := State.thirdPass_shape p corrupt r (s.countMismatch s.cur.core (p.base + (laneOf t + k) % 32))
        have h0 := (State.onlyIssue.refl s).countMismatch s.cur.core (p.base + (laneOf t + k) % 32)
        split <;> (rename_i heq; simp only [heq] at h; exact ⟨h0.trans h.1, h.2.1, h.2.2.1, h.2.2.2⟩)

/-- A check changes the issuing core's count and the histograms alone. -/
theorem State.check_shape {V : Type} [DecidableEq V] (s : State) (p : Pipe) (corrupt : Word → V → V) (outs : List (Nat × V)) :
    s.onlyIssue (s.check p corrupt outs).1 ∧ (s.check p corrupt outs).1.thr = s.thr ∧ (s.check p corrupt outs).1.warps = s.warps ∧
      (s.check p corrupt outs).1.cur = s.cur := by
  have hd : s.onlyIssue s.drawCheck.1 ∧ s.drawCheck.1.thr = s.thr ∧ s.drawCheck.1.warps = s.warps ∧ s.drawCheck.1.cur = s.cur := by
    rcases s.drawCheck_shape with h | h
    · rw [h]; exact ⟨.refl s, rfl, rfl, rfl⟩
    · rw [h]; exact ⟨(State.onlyIssue.refl s).updCore _ _, rfl, rfl, rfl⟩
  unfold State.check
  dsimp only
  split
  · split
    · exact hd
    · have h := State.thirdPass_shape p corrupt outs s.drawCheck.1
      exact ⟨hd.1.trans h.1, h.2.1.trans hd.2.1, h.2.2.1.trans hd.2.2.1, h.2.2.2.trans hd.2.2.2⟩
  · exact hd

theorem majority_mem {V : Type} [DecidableEq V] {a b c x : V} {m : Option Nat} (h : majority a b c = some (x, m)) : x = a ∨ x = b := by
  unfold majority at h
  split at h
  · cases h; exact .inl rfl
  · split at h
    · cases h; exact .inl rfl
    · split at h
      · cases h; exact .inr rfl
      · cases h

theorem State.thirdPass_all {V : Type} [DecidableEq V] (p : Pipe) (corrupt : Word → V → V) (P : Nat × V → Prop)
    (hP : ∀ m t v, P (t, v) → P (t, corrupt m v)) :
    ∀ (l : List (Nat × V)) (s : State) (xs : List (Nat × V)), (∀ o ∈ l, P o) → (s.thirdPass p corrupt l).2 = some xs → ∀ o ∈ xs, P o
  | [], _, xs, _, h => by
    unfold State.thirdPass at h
    cases h
    exact fun _ ho => absurd ho (List.not_mem_nil)
  | (t, v) :: r, s, xs, hl, h => by
    unfold State.thirdPass at h
    dsimp only at h
    have hv := hl (t, v) (List.mem_cons_self ..)
    split at h
    · cases h
    · rename_i x m heq
      split at h
      · cases h
      · rename_i s2 ys hys
        cases h
        intro o ho
        rcases List.mem_cons.1 ho with e | e
        · subst e
          rcases majority_mem heq with e | e <;> (rw [e]; exact hP _ _ _ hv)
        · exact State.thirdPass_all p corrupt P hP r _ ys (fun o ho => hl o (List.mem_cons_of_mem _ ho)) (congrArg Prod.snd hys) o e

/-- What holds of every lane's value, and survives a datapath's fault, holds of every value that a check lets through. -/
theorem State.check_all {V : Type} [DecidableEq V] (s : State) (p : Pipe) (corrupt : Word → V → V) (outs : List (Nat × V))
    (P : Nat × V → Prop) (hP : ∀ m t v, P (t, v) → P (t, corrupt m v)) (h : ∀ o ∈ outs, P o) {xs : List (Nat × V)}
    (hx : (s.check p corrupt outs).2.1 = some xs) : ∀ o ∈ xs, P o := by
  have hf : ∀ g : Nat → Word, ∀ o ∈ outs.map (fun o => (o.1, corrupt (g (laneOf o.1)) o.2)), P o := by
    intro g o ho
    obtain ⟨y, hy, rfl⟩ := List.mem_map.1 ho
    exact hP _ _ _ (h y hy)
  unfold State.check at hx
  dsimp only at hx
  split at hx
  · split at hx
    · cases hx; exact hf _
    · exact State.thirdPass_all p corrupt P hP outs _ xs h hx
  · cases hx; exact hf _

/-! ## The frame of a computing word -/

/-- A thread keeps its registers outside `D` and its predicates outside `Q`. -/
def Thread.keeps (D Q : List Nat) (a b : Thread) : Prop :=
  (∀ n, n ∉ D → b.reg n = a.reg n) ∧ (∀ q, q < 7 → q ∉ Q → b.pred q = a.pred q)

theorem Thread.keeps.trans {D Q : List Nat} {a b c : Thread} (h : a.keeps D Q b) (k : b.keeps D Q c) : a.keeps D Q c :=
  ⟨fun n hn => (k.1 n hn).trans (h.1 n hn), fun q hq hn => (k.2 q hq hn).trans (h.2 q hq hn)⟩

theorem Thread.sameData.keeps {a b : Thread} (h : a.sameData b) (D Q : List Nat) : a.keeps D Q b :=
  ⟨fun n _ => by unfold Thread.reg; rw [h.1], fun q _ _ => by unfold Thread.pred; rw [h.2.1]⟩

theorem withBit_ne (x : BitVec 7) {p q : Nat} (v : Bool) (h : q ≠ p) : (withBit x p v).getLsbD q = x.getLsbD q := by
  unfold withBit
  by_cases hq : q < 7
  · split
    · simp only [BitVec.getLsbD_or, BitVec.getLsbD_shiftLeft]
      by_cases h1 : q < p
      · simp [h1]
      · have : ¬ (q - p = 0) := by omega
        simp [h1, this]
    · simp only [BitVec.getLsbD_and, BitVec.getLsbD_not, BitVec.getLsbD_shiftLeft]
      by_cases h1 : q < p
      · simp [h1, hq]
      · have : ¬ (q - p = 0) := by omega
        simp [h1, hq, this]
  · rw [BitVec.getLsbD_of_ge _ _ (by omega), BitVec.getLsbD_of_ge _ _ (by omega)]

theorem Thread.setPreds_pred_ne {q : Nat} (hq : q < 7) : ∀ (l : List (Nat × Bool)) (th : Thread), (∀ e ∈ l, e.1 ≠ q) →
    (th.setPreds l).pred q = th.pred q
  | [], _, _ => rfl
  | (p, v) :: r, th, h => by
    show ((th.setPred p v).setPreds r).pred q = _
    rw [Thread.setPreds_pred_ne hq r _ (fun e he => h e (List.mem_cons_of_mem _ he))]
    have hp := h (p, v) (List.mem_cons_self ..)
    unfold Thread.setPred
    split
    · rfl
    · unfold Thread.pred
      show (q == 7 || (withBit th.preds p v).getLsbD q) = _
      rw [withBit_ne _ _ (fun e => hp e.symm)]

/-- A lane's results keep what they do not name. -/
theorem Thread.write_keeps (th : Thread) (o : LaneOut) {D Q : List Nat} (hD : ∀ e ∈ o.regs, e.1 ∈ D) (hQ : ∀ e ∈ o.preds, e.1 ∈ Q) :
    th.keeps D Q (th.write o) := by
  have h := Thread.write_data th o
  constructor
  · intro n hn
    unfold Thread.reg
    rw [h.1]
    exact Thread.setRegs_reg_ne o.regs th (fun e he e2 => hn (e2 ▸ hD e he))
  · intro q hq hn
    have := Thread.setPreds_pred_ne hq o.preds th (fun e he e2 => hn (e2 ▸ hQ e he))
    unfold Thread.pred at *
    rw [h.2.1]
    exact this

theorem State.writeBack_keeps (s : State) (i : Instr) (lat : Nat) (o : Nat × LaneOut) {D Q : List Nat}
    (hD : ∀ e ∈ o.2.regs, e.1 ∈ D) (hQ : ∀ e ∈ o.2.preds, e.1 ∈ Q) (u : Nat) :
    (s.thread u).keeps D Q ((s.writeBack i lat o).thread u) := by
  by_cases hu : o.1 = u
  · subst hu
    exact (Thread.write_keeps _ o.2 hD hQ).trans ((State.writeBack_data s o.1 i lat o.2).keeps D Q)
  · rw [show s.writeBack i lat o = s.writeBack i lat (o.1, o.2) from rfl, State.writeBack_thread_ne s hu]
    exact (Thread.sameData.refl _).keeps D Q

theorem State.foldl_keeps {A : Type} {f : State → A → State} {D Q : List Nat} {u : Nat} :
    ∀ (l : List A) (s : State), (∀ x ∈ l, ∀ s : State, (s.thread u).keeps D Q ((f s x).thread u)) →
      (s.thread u).keeps D Q ((l.foldl f s).thread u)
  | [], s, _ => (Thread.sameData.refl (s.thread u)).keeps D Q
  | x :: l, s, h => (h x (List.mem_cons_self ..) s).trans (State.foldl_keeps l (f s x) (fun y hy => h y (List.mem_cons_of_mem _ hy)))

theorem State.reportFailed_sameData (i : Instr) (g : Guard) (u : Nat) : ∀ (ts : List Nat) (s : State),
    ((s.thread u).keeps [] [] ((s.reportFailed i g ts).1.thread u))
  | [], s => (Thread.sameData.refl _).keeps _ _
  | t :: ts, s => by
    unfold State.reportFailed
    dsimp only
    split
    · split
      · exact State.reportFailed_sameData i g u ts s
      · rename_i c a fs _
        refine Thread.keeps.trans ?_ (State.reportFailed_sameData i g u ts _)
        refine Thread.keeps.trans ?_ ((State.takeTrap_sameData _ t u _ _ _ _ _).keeps [] [])
        rw [State.setThread_thread]
        split
        · rename_i e; subst e; exact ⟨fun _ _ => rfl, fun _ _ _ => rfl⟩
        · exact (Thread.sameData.refl _).keeps _ _
    · exact State.reportFailed_sameData i g u ts s

theorem Thread.keeps.weaken {D Q : List Nat} {a b : Thread} (h : a.keeps [] [] b) : a.keeps D Q b :=
  ⟨fun n _ => h.1 n (List.not_mem_nil), fun q hq _ => h.2 q hq (List.not_mem_nil)⟩

theorem LaneOut.on_keys (m : Word) (o : LaneOut) {D Q : List Nat} (h : (∀ e ∈ o.regs, e.1 ∈ D) ∧ (∀ e ∈ o.preds, e.1 ∈ Q)) :
    (∀ e ∈ (LaneOut.on m o).regs, e.1 ∈ D) ∧ (∀ e ∈ (LaneOut.on m o).preds, e.1 ∈ Q) := by
  unfold LaneOut.on
  split
  · exact h
  · constructor
    · intro e he
      obtain ⟨x, hx, rfl⟩ := List.mem_map.1 he
      exact h.1 x hx
    · intro e he
      obtain ⟨x, hx, rfl⟩ := List.mem_map.1 he
      exact h.2 x hx

/-- THE FRAME OF A SIMT WORD whose body keeps registers outside `D`, predicates outside `Q`, and everything but the issue's own state. -/
theorem State.simt_frame (s : State) (i : Instr) (body : State → List Nat → State × Option Byte) {D Q : List Nat}
    (h1 : ∀ (z : State) (ps : List Nat), z.onlyIssue (body z ps).1) (h2 : ∀ (z : State) (ps : List Nat) (u : Nat), (z.thread u).keeps D Q ((body z ps).1.thread u)) :
    s.onlyIssue (s.simt i body) ∧ ∀ u, (s.thread u).keeps D Q ((s.simt i body).thread u) := by
  have hk : ∀ z : State, (∀ u, (z.thread u).keeps D Q (z.thread u)) := fun z u => (Thread.sameData.refl _).keeps D Q
  unfold State.simt
  split
  · exact ⟨.refl s, hk s⟩
  · rename_i g hg
    split
    · exact ⟨.refl s, hk s⟩
    · split
      · rename_i c hc
        refine ⟨(((State.onlyThreads.refl s).trapThreads c s.cur.threads).onlyIssue).endWord, fun u => ?_⟩
        exact (State.trapThreads_sameData s c s.cur.threads u).keeps D Q
      · have r1 := ((State.onlyThreads.refl s).reportFailed i g s.cur.threads).onlyIssue
        have r2 := fun u => (State.reportFailed_sameData i g u s.cur.threads s).weaken (D := D) (Q := Q)
        dsimp only
        split
        · rename_i s1 hb
          have b1 := h1 (s.reportFailed i g s.cur.threads).1
            ((s.reportFailed i g s.cur.threads).2.filter (fun t => guardHolds g ((s.reportFailed i g s.cur.threads).1.thread t)))
          have b2 := h2 (s.reportFailed i g s.cur.threads).1
            ((s.reportFailed i g s.cur.threads).2.filter (fun t => guardHolds g ((s.reportFailed i g s.cur.threads).1.thread t)))
          rw [hb] at b1 b2
          refine ⟨(r1.trans (b1.trans ((State.onlyThreads.foldl (fun _ _ x h => h.skip x) _ (.refl s1)).onlyIssue))).endWord, fun u => ?_⟩
          refine (r2 u).trans ((b2 u).trans ?_)
          exact (State.foldl_sameData (fun s x => s.pass_sameData x u false) _ s1).keeps D Q
        · rename_i s1 c hb
          have b1 := h1 (s.reportFailed i g s.cur.threads).1
            ((s.reportFailed i g s.cur.threads).2.filter (fun t => guardHolds g ((s.reportFailed i g s.cur.threads).1.thread t)))
          have b2 := h2 (s.reportFailed i g s.cur.threads).1
            ((s.reportFailed i g s.cur.threads).2.filter (fun t => guardHolds g ((s.reportFailed i g s.cur.threads).1.thread t)))
          rw [hb] at b1 b2
          refine ⟨(r1.trans (b1.trans (((State.onlyThreads.refl s1).trapThreads c _).onlyIssue))).endWord, fun u => ?_⟩
          exact (r2 u).trans ((b2 u).trans ((State.trapThreads_sameData s1 c _ u).keeps D Q))

/-- THE FRAME OF A COMPUTING WORD: whatever becomes of it, traps included, registers outside its destinations and predicates outside its
destinations keep their values in every thread, and so does every byte of memory. -/
theorem State.compute_frame (s : State) (i : Instr) (p : Pipe) (unit lat occ : Nat) (f : State → List Nat → Nat → LaneOut) {D Q : List Nat}
    (h : ∀ z ps t, (∀ e ∈ (f z ps t).regs, e.1 ∈ D) ∧ (∀ e ∈ (f z ps t).preds, e.1 ∈ Q)) :
    s.onlyIssue (s.compute i p unit lat occ f) ∧ ∀ u, (s.thread u).keeps D Q ((s.compute i p unit lat occ f).thread u) := by
  have hall : ∀ z ps xs, (State.check z p LaneOut.on (List.map (fun t => (t, f z ps t)) ps)).2.1 = some xs →
      ∀ o ∈ xs, (∀ e ∈ o.2.regs, e.1 ∈ D) ∧ (∀ e ∈ o.2.preds, e.1 ∈ Q) := by
    intro z ps xs hx
    refine State.check_all z p LaneOut.on _ (fun o => (∀ e ∈ o.2.regs, e.1 ∈ D) ∧ (∀ e ∈ o.2.preds, e.1 ∈ Q))
      (fun m t v hv => LaneOut.on_keys m v hv) ?_ hx
    intro o ho
    obtain ⟨t, _, rfl⟩ := List.mem_map.1 ho
    exact h z ps t
  unfold State.compute
  refine State.simt_frame s i _ ?_ ?_
  · intro z ps
    have hc := State.check_shape z p LaneOut.on (ps.map (fun t => (t, f z ps t)))
    split
    · rename_i s1 n heq
      rw [heq] at hc
      have o1 : z.onlyIssue (s1.occupy unit (occ * n)) := hc.1.updCore _ _
      exact o1
    · rename_i s1 outs n heq
      rw [heq] at hc
      have o1 : z.onlyIssue (s1.occupy unit (occ * n)) := hc.1.updCore _ _
      exact o1.trans (State.onlyThreads.foldl (fun _ _ x h => State.writeBack_onlyThreads h i (lat + (n - 1)) x) outs (.refl _)).onlyIssue
  · intro z ps u
    have hc := State.check_shape z p LaneOut.on (ps.map (fun t => (t, f z ps t)))
    have ha := hall z ps
    split
    · rename_i s1 _ heq
      rw [heq] at hc
      show (z.thread u).keeps D Q (s1.thread u)
      have : s1.thread u = z.thread u := by unfold State.thread; rw [hc.2.1]
      rw [this]; exact (Thread.sameData.refl _).keeps D Q
    · rename_i s1 outs n heq
      rw [heq] at hc ha
      have e : (s1.occupy unit (occ * n)).thread u = z.thread u := by
        show s1.thread u = z.thread u
        unfold State.thread; rw [hc.2.1]
      rw [← e]
      exact State.foldl_keeps outs _ (fun o ho s => State.writeBack_keeps s _ _ o (ha outs rfl o ho).1 (ha outs rfl o ho).2 u)

end Sys2Proof.Machine
end

