-- ==== Sys2Proof/Laws/Rows.lean ====
section
/-! SUPPORT. How the decoder's row tables answer a word whose opcode field is known, and the fields of a word made from a number. -/

namespace Sys2Proof

/-- The value of the row's first fixed field, its major opcode, is `op`. -/
def Row.op (op : Nat) (r : Row) : Bool := match r.fixed with | (_, _, c) :: _ => Nat.beq c op | [] => false

/-- Rows that cannot fit may be left out. -/
theorem decodeRows_filter (p : Row → Bool) (w : Word) : ∀ rs : List Row, (∀ r ∈ rs, p r = false → r.fits w = false) →
    decodeRows rs w = decodeRows (rs.filter p) w
  | [], _ => rfl
  | r :: rs, h => by
    have ih := decodeRows_filter p w rs (fun x hx => h x (List.mem_cons_of_mem _ hx))
    by_cases hp : p r = true
    · rw [List.filter_cons_of_pos hp]
      unfold decodeRows
      rw [ih]
    · rw [List.filter_cons_of_neg hp]
      unfold decodeRows
      rw [if_neg (by rw [h r (List.mem_cons_self ..) (by simpa using hp)]; simp), ih]
      cases List.filter p rs <;> rfl

/-- A row does not fit a word whose field differs from the row's. -/
theorem Row.not_fits {r : Row} {w : Word} {lo n c : Nat} {t : List (Nat × Nat × Nat)} (h : r.fixed = (lo, n, c) :: t) (hw : fld w lo n ≠ c) :
    r.fits w = false := by
  unfold Row.fits
  rw [h]
  simp [hw]

theorem fld_20_7 (w : Word) : fld w 20 7 = fld w 20 12 % 128 := by
  unfold fld
  omega

theorem simtRows_heads : simtRows.all (fun r => match r.fixed with
    | (lo, n, c) :: _ => (lo == 20 && n == 7 && c != 1) || (lo == 20 && n == 12 && c == 0x381)
    | [] => false) = true := by decide

theorem circuitRows_heads : circuitRows.all (fun r => match r.fixed with
    | (lo, n, _) :: _ => lo == 27 && n == 5
    | [] => false) = true := by decide

/-- The rows of a major opcode other than the prefix's. -/
theorem decodeSimt_at (op : Nat) (w : Word) (h : fld w 20 7 = op) (h1 : op ≠ 1) :
    decodeSimt w = decodeRows (simtRows.filter (Row.op op)) w := by
  refine decodeRows_filter _ w _ (fun r hr hp => ?_)
  have hh := List.all_eq_true.1 simtRows_heads r hr
  cases hf : r.fixed with
  | nil => rw [hf] at hh; simp at hh
  | cons f t =>
    obtain ⟨lo, n, c⟩ := f
    rw [hf] at hh
    simp only [Bool.or_eq_true, Bool.and_eq_true, beq_iff_eq, bne_iff_ne] at hh
    refine Row.not_fits hf ?_
    rcases hh with ⟨⟨rfl, rfl⟩, _⟩ | ⟨⟨rfl, rfl⟩, rfl⟩
    · intro e
      simp [Row.op, hf, ← e, h] at hp
    · intro e
      have := fld_20_7 w
      rw [e, h] at this
      exact h1 (by simpa using this)

/-- The rows of the prefixes. -/
theorem decodeSimt_pfx (w : Word) (h : fld w 20 12 = 0x381) : decodeSimt w = decodeRows (simtRows.filter (Row.op 0x381)) w := by
  refine decodeRows_filter _ w _ (fun r hr hp => ?_)
  have hh := List.all_eq_true.1 simtRows_heads r hr
  cases hf : r.fixed with
  | nil => rw [hf] at hh; simp at hh
  | cons f t =>
    obtain ⟨lo, n, c⟩ := f
    rw [hf] at hh
    simp only [Bool.or_eq_true, Bool.and_eq_true, beq_iff_eq, bne_iff_ne] at hh
    refine Row.not_fits hf ?_
    rcases hh with ⟨⟨rfl, rfl⟩, hc⟩ | ⟨⟨rfl, rfl⟩, rfl⟩
    · intro e
      have := fld_20_7 w
      rw [e, h] at this
      exact hc (by simpa using this)
    · intro _
      simp [Row.op, hf] at hp

/-- The rows of a major opcode of the circuit processor. -/
theorem decodeCircuit_at (op : Nat) (w : Word) (h : fld w 27 5 = op) :
    decodeCircuit w = decodeRows (circuitRows.filter (Row.op op)) w := by
  refine decodeRows_filter _ w _ (fun r hr hp => ?_)
  have hh := List.all_eq_true.1 circuitRows_heads r hr
  cases hf : r.fixed with
  | nil => rw [hf] at hh; simp at hh
  | cons f t =>
    obtain ⟨lo, n, c⟩ := f
    rw [hf] at hh
    simp only [Bool.and_eq_true, beq_iff_eq] at hh
    refine Row.not_fits hf ?_
    obtain ⟨rfl, rfl⟩ := hh
    intro e
    simp [Row.op, hf, ← e, h] at hp

/-! ## Fields of a word made from a number -/

theorem toNat_word32 {n : Nat} (h : n < 2 ^ 32) : (word32 n).toNat = n := by
  unfold word32
  rw [BitVec.toNat_ofNat, Nat.mod_eq_of_lt h]

theorem guardBits_lt (g : Guard) : guardBits g ≤ 31 * 2 ^ 27 := by
  obtain ⟨s, n, p⟩ := g
  have := p.isLt
  unfold guardBits
  cases s <;> cases n <;> simp only [Bool.toNat_true, Bool.toNat_false] <;> omega

theorem guardBits_mul (g : Guard) : ∃ k, guardBits g = k * 2 ^ 27 ∧ k < 32 ∧ k = g.s.toNat * 16 + g.n.toNat * 8 + g.p.toNat := by
  obtain ⟨s, n, p⟩ := g
  have := p.isLt
  refine ⟨_, ?_, ?_, rfl⟩
  · unfold guardBits; dsimp only; omega
  · cases s <;> cases n <;> simp only [Bool.toNat_true, Bool.toNat_false] <;> omega

theorem low_field {r k lo n : Nat} (h : lo + n ≤ 27) : (r + k * 2 ^ 27) / 2 ^ lo % 2 ^ n = r / 2 ^ lo % 2 ^ n := by
  obtain ⟨j, hj⟩ := Nat.exists_eq_add_of_le h
  have e : k * 2 ^ 27 = 2 ^ lo * (2 ^ n * (k * 2 ^ j)) := by
    rw [hj, Nat.pow_add, Nat.pow_add]
    simp only [Nat.mul_assoc, Nat.mul_left_comm]
  rw [e, Nat.add_mul_div_left _ _ (Nat.two_pow_pos lo), Nat.add_mul_mod_self_left]

/-- A field below the header of a SIMT word. -/
theorem fld_guarded (g : Guard) {r lo n : Nat} (hr : r < 2 ^ 27) (h : lo + n ≤ 27) :
    fld (word32 (r + guardBits g)) lo n = r / 2 ^ lo % 2 ^ n := by
  have hb := guardBits_lt g
  unfold fld
  rw [toNat_word32 (by omega)]
  obtain ⟨k, hk, _⟩ := guardBits_mul g
  rw [hk, low_field h]

theorem fld_plain {r lo n : Nat} (hr : r < 2 ^ 32) (_ : lo + n ≤ 32) : fld (word32 r) lo n = r / 2 ^ lo % 2 ^ n := by
  unfold fld
  rw [toNat_word32 hr]

theorem bf_fld (w : Word) (lo n : Nat) : (bf w lo n).toNat = fld w lo n := by
  unfold bf fld
  rw [BitVec.toNat_ofNat]

theorem bf_guarded (g : Guard) {r lo n : Nat} {x : BitVec n} (hr : r < 2 ^ 27) (h : lo + n ≤ 27) (hx : r / 2 ^ lo % 2 ^ n = x.toNat) :
    bf (word32 (r + guardBits g)) lo n = x := by
  apply BitVec.eq_of_toNat_eq
  rw [bf_fld, fld_guarded g hr h, hx]

theorem bf_plain {r lo n : Nat} {x : BitVec n} (hr : r < 2 ^ 32) (h : lo + n ≤ 32) (hx : r / 2 ^ lo % 2 ^ n = x.toNat) :
    bf (word32 r) lo n = x := by
  apply BitVec.eq_of_toNat_eq
  rw [bf_fld, fld_plain hr h, hx]

/-- The header of a SIMT word. -/
theorem guardOf_guarded (g : Guard) {r : Nat} (hr : r < 2 ^ 27) : guardOf (word32 (r + guardBits g)) = g := by
  have hb := guardBits_lt g
  obtain ⟨s, n, p⟩ := g
  have hp := p.isLt
  have ht := toNat_word32 (n := r + guardBits ⟨s, n, p⟩) (by omega)
  unfold guardOf
  have hf : ∀ lo k, fld (word32 (r + guardBits ⟨s, n, p⟩)) lo k = (r + guardBits ⟨s, n, p⟩) / 2 ^ lo % 2 ^ k := fun lo k => by
    unfold fld; rw [ht]
  have h3 : bf (word32 (r + guardBits ⟨s, n, p⟩)) 27 3 = p := by
    apply BitVec.eq_of_toNat_eq
    rw [bf_fld, hf]
    unfold guardBits
    cases s <;> cases n <;> simp only [Bool.toNat_true, Bool.toNat_false] <;> omega
  rw [h3, hf, hf]
  unfold guardBits
  cases s <;> cases n <;> simp only [Bool.toNat_true, Bool.toNat_false, Guard.mk.injEq, and_true, beq_iff_eq, beq_eq_false_iff_ne] <;> omega

end Sys2Proof
end

