-- ==== Sys2Proof/Laws/PerInstr.lean ====
section
/-! SUPPORT. Statements made of every instruction, one lemma per constructor. RoundTrip: the decoder reads back every word that the encoder
writes, with every operand at every value its field admits. -/

namespace Sys2Proof.Laws.RoundTrip
open Sys2Proof

/-- The decoder of an instruction's opcode space reads its word back. -/
def Statement (i : Instr) : Prop := ∀ w, encode i = some w → i.readBack w = .ok i

theorem simt_00 : simtRows.filter (Row.op 0x0) =
    [⟨[(20, 7, 0x0), (0, 20, 0x0)], fun w => .nop (guardOf w)⟩] := rfl
theorem nop (gd : Guard) : Statement (.nop gd) := by
  intro wd hw
  have h0 : some (word32 (0x0 + guardBits gd)) = some wd := hw
  have hv : wd = (word32 (0x0 + guardBits gd)) := (Option.some.inj h0).symm.trans (congrArg word32 (by omega))
  have hr : 0x0 < 2 ^ 27 := by omega
  show decodeSimt wd = _
  have k0 : fld wd 20 7 = 0x0 := (hv ▸ fld_guarded gd hr (by omega)).trans (by omega)
  have k1 : fld wd 0 20 = 0x0 := (hv ▸ fld_guarded gd hr (by omega)).trans (by omega)
  have hg : guardOf wd = gd := hv ▸ guardOf_guarded gd hr
  rw [decodeSimt_at 0x0 wd k0 (by decide), simt_00]
  simp [decodeRows, Row.fits, k0, k1, hg]
theorem simt_381 : simtRows.filter (Row.op 0x381) =
    [⟨[(20, 12, 0x381), (18, 2, 0x0)], fun w => .pfxExt (bf w 0 18)⟩, ⟨[(20, 12, 0x381), (0, 9, 0x0), (18, 2, 0x1)], fun w => .pfxOrd (bf w 15 3) (bf w 12 3) (bf w 9 3)⟩, ⟨[(20, 12, 0x381), (0, 8, 0x0), (18, 2, 0x2)], fun w => .pfxTok (bf w 10 8) (bf w 8 2)⟩] := rfl
theorem pfxExt (e : BitVec 18) : Statement (.pfxExt e) := by
  have h_e := e.isLt
  intro wd hw
  have h0 : some (word32 (0x38100000 + e.toNat)) = some wd := hw
  have hv : wd = (word32 (0x38100000 + e.toNat)) := (Option.some.inj h0).symm
  have hr : 0x38100000 + e.toNat < 2 ^ 32 := by omega
  show decodeSimt wd = _
  have k0 : fld wd 20 12 = 0x381 := (hv ▸ fld_plain hr (by omega)).trans (by omega)
  have k1 : fld wd 18 2 = 0x0 := (hv ▸ fld_plain hr (by omega)).trans (by omega)
  have b_e : bf wd 0 18 = e := hv ▸ bf_plain hr (by omega) (by omega)
  rw [decodeSimt_pfx wd k0, simt_381]
  simp [decodeRows, Row.fits, k0, k1, b_e]
theorem pfxOrd (o : BitVec 3) (c : BitVec 3) (l : BitVec 3) : Statement (.pfxOrd o c l) := by
  have h_o := o.isLt
  have h_c := c.isLt
  have h_l := l.isLt
  intro wd hw
  have h0 : some (word32 (0x38140000 + o.toNat * 0x8000 + c.toNat * 0x1000 + l.toNat * 0x200)) = some wd := hw
  have hv : wd = (word32 (0x38140000 + o.toNat * 0x8000 + c.toNat * 0x1000 + l.toNat * 0x200)) := (Option.some.inj h0).symm
  have hr : 0x38140000 + o.toNat * 0x8000 + c.toNat * 0x1000 + l.toNat * 0x200 < 2 ^ 32 := by omega
  show decodeSimt wd = _
  have k0 : fld wd 20 12 = 0x381 := (hv ▸ fld_plain hr (by omega)).trans (by omega)
  have k1 : fld wd 0 9 = 0x0 := (hv ▸ fld_plain hr (by omega)).trans (by omega)
  have k2 : fld wd 18 2 = 0x1 := (hv ▸ fld_plain hr (by omega)).trans (by omega)
  have b_o : bf wd 15 3 = o := hv ▸ bf_plain hr (by omega) (by omega)
  have b_c : bf wd 12 3 = c := hv ▸ bf_plain hr (by omega) (by omega)
  have b_l : bf wd 9 3 = l := hv ▸ bf_plain hr (by omega) (by omega)
  rw [decodeSimt_pfx wd k0, simt_381]
  simp [decodeRows, Row.fits, k0, k1, k2, b_o, b_c, b_l]
theorem pfxTok (m : BitVec 8) (h : BitVec 2) : Statement (.pfxTok m h) := by
  have h_m := m.isLt
  have h_h := h.isLt
  intro wd hw
  have h0 : some (word32 (0x38180000 + m.toNat * 0x400 + h.toNat * 0x100)) = some wd := hw
  have hv : wd = (word32 (0x38180000 + m.toNat * 0x400 + h.toNat * 0x100)) := (Option.some.inj h0).symm
  have hr : 0x38180000 + m.toNat * 0x400 + h.toNat * 0x100 < 2 ^ 32 := by omega
  show decodeSimt wd = _
  have k0 : fld wd 20 12 = 0x381 := (hv ▸ fld_plain hr (by omega)).trans (by omega)
  have k1 : fld wd 0 8 = 0x0 := (hv ▸ fld_plain hr (by omega)).trans (by omega)
  have k2 : fld wd 18 2 = 0x2 := (hv ▸ fld_plain hr (by omega)).trans (by omega)
  have b_m : bf wd 10 8 = m := hv ▸ bf_plain hr (by omega) (by omega)
  have b_h : bf wd 8 2 = h := hv ▸ bf_plain hr (by omega) (by omega)
  rw [decodeSimt_pfx wd k0, simt_381]
  simp [decodeRows, Row.fits, k0, k1, k2, b_m, b_h]
theorem simt_02 : simtRows.filter (Row.op 0x2) =
    [⟨[(20, 7, 0x2)], fun w => .bra (guardOf w) (bf w 19 1) (bf w 0 19)⟩] := rfl
theorem bra (gd : Guard) (y : BitVec 1) (o : BitVec 19) : Statement (.bra gd y o) := by
  have h_y := y.isLt
  have h_o := o.isLt
  intro wd hw
  have h0 : some (word32 (0x200000 + guardBits gd + y.toNat * 0x80000 + o.toNat)) = some wd := hw
  have hv : wd = (word32 (0x200000 + y.toNat * 0x80000 + o.toNat + guardBits gd)) := (Option.some.inj h0).symm.trans (congrArg word32 (by omega))
  have hr : 0x200000 + y.toNat * 0x80000 + o.toNat < 2 ^ 27 := by omega
  show decodeSimt wd = _
  have k0 : fld wd 20 7 = 0x2 := (hv ▸ fld_guarded gd hr (by omega)).trans (by omega)
  have hg : guardOf wd = gd := hv ▸ guardOf_guarded gd hr
  have b_y : bf wd 19 1 = y := hv ▸ bf_guarded gd hr (by omega) (by omega)
  have b_o : bf wd 0 19 = o := hv ▸ bf_guarded gd hr (by omega) (by omega)
  rw [decodeSimt_at 0x2 wd k0 (by decide), simt_02]
  simp [decodeRows, Row.fits, k0, hg, b_y, b_o]
theorem simt_03 : simtRows.filter (Row.op 0x3) =
    [⟨[(20, 7, 0x3), (0, 6, 0x0), (12, 7, 0x0)], fun w => .brx (guardOf w) (bf w 19 1) (bf w 6 6)⟩] := rfl
theorem brx (gd : Guard) (y : BitVec 1) (a : BitVec 6) : Statement (.brx gd y a) := by
  have h_y := y.isLt
  have h_a := a.isLt
  intro wd hw
  have h0 : some (word32 (0x300000 + guardBits gd + y.toNat * 0x80000 + a.toNat * 0x40)) = some wd := hw
  have hv : wd = (word32 (0x300000 + y.toNat * 0x80000 + a.toNat * 0x40 + guardBits gd)) := (Option.some.inj h0).symm.trans (congrArg word32 (by omega))
  have hr : 0x300000 + y.toNat * 0x80000 + a.toNat * 0x40 < 2 ^ 27 := by omega
  show decodeSimt wd = _
  have k0 : fld wd 20 7 = 0x3 := (hv ▸ fld_guarded gd hr (by omega)).trans (by omega)
  have k1 : fld wd 0 6 = 0x0 := (hv ▸ fld_guarded gd hr (by omega)).trans (by omega)
  have k2 : fld wd 12 7 = 0x0 := (hv ▸ fld_guarded gd hr (by omega)).trans (by omega)
  have hg : guardOf wd = gd := hv ▸ guardOf_guarded gd hr
  have b_y : bf wd 19 1 = y := hv ▸ bf_guarded gd hr (by omega) (by omega)
  have b_a : bf wd 6 6 = a := hv ▸ bf_guarded gd hr (by omega) (by omega)
  rw [decodeSimt_at 0x3 wd k0 (by decide), simt_03]
  simp [decodeRows, Row.fits, k0, k1, k2, hg, b_y, b_a]
theorem simt_04 : simtRows.filter (Row.op 0x4) =
    [⟨[(20, 7, 0x4), (19, 1, 0x0)], fun w => .call (guardOf w) (bf w 0 19)⟩] := rfl
theorem call (gd : Guard) (o : BitVec 19) : Statement (.call gd o) := by
  have h_o := o.isLt
  intro wd hw
  have h0 : some (word32 (0x400000 + guardBits gd + o.toNat)) = some wd := hw
  have hv : wd = (word32 (0x400000 + o.toNat + guardBits gd)) := (Option.some.inj h0).symm.trans (congrArg word32 (by omega))
  have hr : 0x400000 + o.toNat < 2 ^ 27 := by omega
  show decodeSimt wd = _
  have k0 : fld wd 20 7 = 0x4 := (hv ▸ fld_guarded gd hr (by omega)).trans (by omega)
  have k1 : fld wd 19 1 = 0x0 := (hv ▸ fld_guarded gd hr (by omega)).trans (by omega)
  have hg : guardOf wd = gd := hv ▸ guardOf_guarded gd hr
  have b_o : bf wd 0 19 = o := hv ▸ bf_guarded gd hr (by omega) (by omega)
  rw [decodeSimt_at 0x4 wd k0 (by decide), simt_04]
  simp [decodeRows, Row.fits, k0, k1, hg, b_o]
theorem simt_05 : simtRows.filter (Row.op 0x5) =
    [⟨[(20, 7, 0x5), (0, 6, 0x0), (12, 8, 0x0)], fun w => .callx (guardOf w) (bf w 6 6)⟩] := rfl
theorem callx (gd : Guard) (a : BitVec 6) : Statement (.callx gd a) := by
  have h_a := a.isLt
  intro wd hw
  have h0 : some (word32 (0x500000 + guardBits gd + a.toNat * 0x40)) = some wd := hw
  have hv : wd = (word32 (0x500000 + a.toNat * 0x40 + guardBits gd)) := (Option.some.inj h0).symm.trans (congrArg word32 (by omega))
  have hr : 0x500000 + a.toNat * 0x40 < 2 ^ 27 := by omega
  show decodeSimt wd = _
  have k0 : fld wd 20 7 = 0x5 := (hv ▸ fld_guarded gd hr (by omega)).trans (by omega)
  have k1 : fld wd 0 6 = 0x0 := (hv ▸ fld_guarded gd hr (by omega)).trans (by omega)
  have k2 : fld wd 12 8 = 0x0 := (hv ▸ fld_guarded gd hr (by omega)).trans (by omega)
  have hg : guardOf wd = gd := hv ▸ guardOf_guarded gd hr
  have b_a : bf wd 6 6 = a := hv ▸ bf_guarded gd hr (by omega) (by omega)
  rw [decodeSimt_at 0x5 wd k0 (by decide), simt_05]
  simp [decodeRows, Row.fits, k0, k1, k2, hg, b_a]
theorem simt_06 : simtRows.filter (Row.op 0x6) =
    [⟨[(20, 7, 0x6), (0, 20, 0x0)], fun w => .ret (guardOf w)⟩] := rfl
theorem ret (gd : Guard) : Statement (.ret gd) := by
  intro wd hw
  have h0 : some (word32 (0x600000 + guardBits gd)) = some wd := hw
  have hv : wd = (word32 (0x600000 + guardBits gd)) := (Option.some.inj h0).symm.trans (congrArg word32 (by omega))
  have hr : 0x600000 < 2 ^ 27 := by omega
  show decodeSimt wd = _
  have k0 : fld wd 20 7 = 0x6 := (hv ▸ fld_guarded gd hr (by omega)).trans (by omega)
  have k1 : fld wd 0 20 = 0x0 := (hv ▸ fld_guarded gd hr (by omega)).trans (by omega)
  have hg : guardOf wd = gd := hv ▸ guardOf_guarded gd hr
  rw [decodeSimt_at 0x6 wd k0 (by decide), simt_06]
  simp [decodeRows, Row.fits, k0, k1, hg]
theorem simt_07 : simtRows.filter (Row.op 0x7) =
    [⟨[(20, 7, 0x7)], fun w => .loop (guardOf w) (bf w 14 6) (bf w 0 14)⟩] := rfl
theorem loop (gd : Guard) (d : BitVec 6) (i : BitVec 14) : Statement (.loop gd d i) := by
  have h_d := d.isLt
  have h_i := i.isLt
  intro wd hw
  have h0 : some (word32 (0x700000 + guardBits gd + d.toNat * 0x4000 + i.toNat)) = some wd := hw
  have hv : wd = (word32 (0x700000 + d.toNat * 0x4000 + i.toNat + guardBits gd)) := (Option.some.inj h0).symm.trans (congrArg word32 (by omega))
  have hr : 0x700000 + d.toNat * 0x4000 + i.toNat < 2 ^ 27 := by omega
  show decodeSimt wd = _
  have k0 : fld wd 20 7 = 0x7 := (hv ▸ fld_guarded gd hr (by omega)).trans (by omega)
  have hg : guardOf wd = gd := hv ▸ guardOf_guarded gd hr
  have b_d : bf wd 14 6 = d := hv ▸ bf_guarded gd hr (by omega) (by omega)
  have b_i : bf wd 0 14 = i := hv ▸ bf_guarded gd hr (by omega) (by omega)
  rw [decodeSimt_at 0x7 wd k0 (by decide), simt_07]
  simp [decodeRows, Row.fits, k0, hg, b_d, b_i]
theorem simt_08 : simtRows.filter (Row.op 0x8) =
    [⟨[(20, 7, 0x8)], fun w => .loopi (guardOf w) (bf w 10 10) (bf w 0 10)⟩] := rfl
theorem loopi (gd : Guard) (c : BitVec 10) (l : BitVec 10) : Statement (.loopi gd c l) := by
  have h_c := c.isLt
  have h_l := l.isLt
  intro wd hw
  have h0 : some (word32 (0x800000 + guardBits gd + c.toNat * 0x400 + l.toNat)) = some wd := hw
  have hv : wd = (word32 (0x800000 + c.toNat * 0x400 + l.toNat + guardBits gd)) := (Option.some.inj h0).symm.trans (congrArg word32 (by omega))
  have hr : 0x800000 + c.toNat * 0x400 + l.toNat < 2 ^ 27 := by omega
  show decodeSimt wd = _
  have k0 : fld wd 20 7 = 0x8 := (hv ▸ fld_guarded gd hr (by omega)).trans (by omega)
  have hg : guardOf wd = gd := hv ▸ guardOf_guarded gd hr
  have b_c : bf wd 10 10 = c := hv ▸ bf_guarded gd hr (by omega) (by omega)
  have b_l : bf wd 0 10 = l := hv ▸ bf_guarded gd hr (by omega) (by omega)
  rw [decodeSimt_at 0x8 wd k0 (by decide), simt_08]
  simp [decodeRows, Row.fits, k0, hg, b_c, b_l]
theorem simt_09 : simtRows.filter (Row.op 0x9) =
    [⟨[(20, 7, 0x9), (16, 4, 0x0)], fun w => .rcv (guardOf w) (bf w 0 16)⟩] := rfl
theorem rcv (gd : Guard) (t : BitVec 16) : Statement (.rcv gd t) := by
  have h_t := t.isLt
  intro wd hw
  have h0 : some (word32 (0x900000 + guardBits gd + t.toNat)) = some wd := hw
  have hv : wd = (word32 (0x900000 + t.toNat + guardBits gd)) := (Option.some.inj h0).symm.trans (congrArg word32 (by omega))
  have hr : 0x900000 + t.toNat < 2 ^ 27 := by omega
  show decodeSimt wd = _
  have k0 : fld wd 20 7 = 0x9 := (hv ▸ fld_guarded gd hr (by omega)).trans (by omega)
  have k1 : fld wd 16 4 = 0x0 := (hv ▸ fld_guarded gd hr (by omega)).trans (by omega)
  have hg : guardOf wd = gd := hv ▸ guardOf_guarded gd hr
  have b_t : bf wd 0 16 = t := hv ▸ bf_guarded gd hr (by omega) (by omega)
  rw [decodeSimt_at 0x9 wd k0 (by decide), simt_09]
  simp [decodeRows, Row.fits, k0, k1, hg, b_t]
theorem simt_0a : simtRows.filter (Row.op 0xa) =
    [⟨[(20, 7, 0xa), (0, 20, 0x0)], fun w => .yield (guardOf w)⟩] := rfl
theorem yield (gd : Guard) : Statement (.yield gd) := by
  intro wd hw
  have h0 : some (word32 (0xa00000 + guardBits gd)) = some wd := hw
  have hv : wd = (word32 (0xa00000 + guardBits gd)) := (Option.some.inj h0).symm.trans (congrArg word32 (by omega))
  have hr : 0xa00000 < 2 ^ 27 := by omega
  show decodeSimt wd = _
  have k0 : fld wd 20 7 = 0xa := (hv ▸ fld_guarded gd hr (by omega)).trans (by omega)
  have k1 : fld wd 0 20 = 0x0 := (hv ▸ fld_guarded gd hr (by omega)).trans (by omega)
  have hg : guardOf wd = gd := hv ▸ guardOf_guarded gd hr
  rw [decodeSimt_at 0xa wd k0 (by decide), simt_0a]
  simp [decodeRows, Row.fits, k0, k1, hg]
theorem simt_0b : simtRows.filter (Row.op 0xb) =
    [⟨[(20, 7, 0xb), (0, 20, 0x0)], fun w => .exit (guardOf w)⟩] := rfl
theorem exit (gd : Guard) : Statement (.exit gd) := by
  intro wd hw
  have h0 : some (word32 (0xb00000 + guardBits gd)) = some wd := hw
  have hv : wd = (word32 (0xb00000 + guardBits gd)) := (Option.some.inj h0).symm.trans (congrArg word32 (by omega))
  have hr : 0xb00000 < 2 ^ 27 := by omega
  show decodeSimt wd = _
  have k0 : fld wd 20 7 = 0xb := (hv ▸ fld_guarded gd hr (by omega)).trans (by omega)
  have k1 : fld wd 0 20 = 0x0 := (hv ▸ fld_guarded gd hr (by omega)).trans (by omega)
  have hg : guardOf wd = gd := hv ▸ guardOf_guarded gd hr
  rw [decodeSimt_at 0xb wd k0 (by decide), simt_0b]
  simp [decodeRows, Row.fits, k0, k1, hg]
theorem simt_0c : simtRows.filter (Row.op 0xc) =
    [⟨[(20, 7, 0xc), (0, 20, 0x0)], fun w => .idem (guardOf w)⟩] := rfl
theorem idem (gd : Guard) : Statement (.idem gd) := by
  intro wd hw
  have h0 : some (word32 (0xc00000 + guardBits gd)) = some wd := hw
  have hv : wd = (word32 (0xc00000 + guardBits gd)) := (Option.some.inj h0).symm.trans (congrArg word32 (by omega))
  have hr : 0xc00000 < 2 ^ 27 := by omega
  show decodeSimt wd = _
  have k0 : fld wd 20 7 = 0xc := (hv ▸ fld_guarded gd hr (by omega)).trans (by omega)
  have k1 : fld wd 0 20 = 0x0 := (hv ▸ fld_guarded gd hr (by omega)).trans (by omega)
  have hg : guardOf wd = gd := hv ▸ guardOf_guarded gd hr
  rw [decodeSimt_at 0xc wd k0 (by decide), simt_0c]
  simp [decodeRows, Row.fits, k0, k1, hg]
theorem simt_10 : simtRows.filter (Row.op 0x10) =
    [⟨[(20, 7, 0x10)], fun w => .add (guardOf w) (bf w 18 2) (bf w 12 6) (bf w 6 6) (bf w 0 6)⟩] := rfl
theorem add (gd : Guard) (m : BitVec 2) (d : BitVec 6) (a : BitVec 6) (b : BitVec 6) : Statement (.add gd m d a b) := by
  have h_m := m.isLt
  have h_d := d.isLt
  have h_a := a.isLt
  have h_b := b.isLt
  intro wd hw
  have h0 : some (word32 (0x1000000 + guardBits gd + m.toNat * 0x40000 + d.toNat * 0x1000 + a.toNat * 0x40 + b.toNat)) = some wd := hw
  have hv : wd = (word32 (0x1000000 + m.toNat * 0x40000 + d.toNat * 0x1000 + a.toNat * 0x40 + b.toNat + guardBits gd)) := (Option.some.inj h0).symm.trans (congrArg word32 (by omega))
  have hr : 0x1000000 + m.toNat * 0x40000 + d.toNat * 0x1000 + a.toNat * 0x40 + b.toNat < 2 ^ 27 := by omega
  show decodeSimt wd = _
  have k0 : fld wd 20 7 = 0x10 := (hv ▸ fld_guarded gd hr (by omega)).trans (by omega)
  have hg : guardOf wd = gd := hv ▸ guardOf_guarded gd hr
  have b_m : bf wd 18 2 = m := hv ▸ bf_guarded gd hr (by omega) (by omega)
  have b_d : bf wd 12 6 = d := hv ▸ bf_guarded gd hr (by omega) (by omega)
  have b_a : bf wd 6 6 = a := hv ▸ bf_guarded gd hr (by omega) (by omega)
  have b_b : bf wd 0 6 = b := hv ▸ bf_guarded gd hr (by omega) (by omega)
  rw [decodeSimt_at 0x10 wd k0 (by decide), simt_10]
  simp [decodeRows, Row.fits, k0, hg, b_m, b_d, b_a, b_b]
theorem simt_11 : simtRows.filter (Row.op 0x11) =
    [⟨[(20, 7, 0x11)], fun w => .sub (guardOf w) (bf w 18 2) (bf w 12 6) (bf w 6 6) (bf w 0 6)⟩] := rfl
theorem sub (gd : Guard) (m : BitVec 2) (d : BitVec 6) (a : BitVec 6) (b : BitVec 6) : Statement (.sub gd m d a b) := by
  have h_m := m.isLt
  have h_d := d.isLt
  have h_a := a.isLt
  have h_b := b.isLt
  intro wd hw
  have h0 : some (word32 (0x1100000 + guardBits gd + m.toNat * 0x40000 + d.toNat * 0x1000 + a.toNat * 0x40 + b.toNat)) = some wd := hw
  have hv : wd = (word32 (0x1100000 + m.toNat * 0x40000 + d.toNat * 0x1000 + a.toNat * 0x40 + b.toNat + guardBits gd)) := (Option.some.inj h0).symm.trans (congrArg word32 (by omega))
  have hr : 0x1100000 + m.toNat * 0x40000 + d.toNat * 0x1000 + a.toNat * 0x40 + b.toNat < 2 ^ 27 := by omega
  show decodeSimt wd = _
  have k0 : fld wd 20 7 = 0x11 := (hv ▸ fld_guarded gd hr (by omega)).trans (by omega)
  have hg : guardOf wd = gd := hv ▸ guardOf_guarded gd hr
  have b_m : bf wd 18 2 = m := hv ▸ bf_guarded gd hr (by omega) (by omega)
  have b_d : bf wd 12 6 = d := hv ▸ bf_guarded gd hr (by omega) (by omega)
  have b_a : bf wd 6 6 = a := hv ▸ bf_guarded gd hr (by omega) (by omega)
  have b_b : bf wd 0 6 = b := hv ▸ bf_guarded gd hr (by omega) (by omega)
  rw [decodeSimt_at 0x11 wd k0 (by decide), simt_11]
  simp [decodeRows, Row.fits, k0, hg, b_m, b_d, b_a, b_b]
theorem simt_12 : simtRows.filter (Row.op 0x12) =
    [⟨[(20, 7, 0x12)], fun w => .addi (guardOf w) (bf w 14 6) (bf w 8 6) (bf w 0 8)⟩] := rfl
theorem addi (gd : Guard) (d : BitVec 6) (a : BitVec 6) (i : BitVec 8) : Statement (.addi gd d a i) := by
  have h_d := d.isLt
  have h_a := a.isLt
  have h_i := i.isLt
  intro wd hw
  have h0 : some (word32 (0x1200000 + guardBits gd + d.toNat * 0x4000 + a.toNat * 0x100 + i.toNat)) = some wd := hw
  have hv : wd = (word32 (0x1200000 + d.toNat * 0x4000 + a.toNat * 0x100 + i.toNat + guardBits gd)) := (Option.some.inj h0).symm.trans (congrArg word32 (by omega))
  have hr : 0x1200000 + d.toNat * 0x4000 + a.toNat * 0x100 + i.toNat < 2 ^ 27 := by omega
  show decodeSimt wd = _
  have k0 : fld wd 20 7 = 0x12 := (hv ▸ fld_guarded gd hr (by omega)).trans (by omega)
  have hg : guardOf wd = gd := hv ▸ guardOf_guarded gd hr
  have b_d : bf wd 14 6 = d := hv ▸ bf_guarded gd hr (by omega) (by omega)
  have b_a : bf wd 8 6 = a := hv ▸ bf_guarded gd hr (by omega) (by omega)
  have b_i : bf wd 0 8 = i := hv ▸ bf_guarded gd hr (by omega) (by omega)
  rw [decodeSimt_at 0x12 wd k0 (by decide), simt_12]
  simp [decodeRows, Row.fits, k0, hg, b_d, b_a, b_i]
theorem simt_13 : simtRows.filter (Row.op 0x13) =
    [⟨[(20, 7, 0x13)], fun w => .mul (guardOf w) (bf w 18 2) (bf w 12 6) (bf w 6 6) (bf w 0 6)⟩] := rfl
theorem mul (gd : Guard) (m : BitVec 2) (d : BitVec 6) (a : BitVec 6) (b : BitVec 6) : Statement (.mul gd m d a b) := by
  have h_m := m.isLt
  have h_d := d.isLt
  have h_a := a.isLt
  have h_b := b.isLt
  intro wd hw
  have h0 : some (word32 (0x1300000 + guardBits gd + m.toNat * 0x40000 + d.toNat * 0x1000 + a.toNat * 0x40 + b.toNat)) = some wd := hw
  have hv : wd = (word32 (0x1300000 + m.toNat * 0x40000 + d.toNat * 0x1000 + a.toNat * 0x40 + b.toNat + guardBits gd)) := (Option.some.inj h0).symm.trans (congrArg word32 (by omega))
  have hr : 0x1300000 + m.toNat * 0x40000 + d.toNat * 0x1000 + a.toNat * 0x40 + b.toNat < 2 ^ 27 := by omega
  show decodeSimt wd = _
  have k0 : fld wd 20 7 = 0x13 := (hv ▸ fld_guarded gd hr (by omega)).trans (by omega)
  have hg : guardOf wd = gd := hv ▸ guardOf_guarded gd hr
  have b_m : bf wd 18 2 = m := hv ▸ bf_guarded gd hr (by omega) (by omega)
  have b_d : bf wd 12 6 = d := hv ▸ bf_guarded gd hr (by omega) (by omega)
  have b_a : bf wd 6 6 = a := hv ▸ bf_guarded gd hr (by omega) (by omega)
  have b_b : bf wd 0 6 = b := hv ▸ bf_guarded gd hr (by omega) (by omega)
  rw [decodeSimt_at 0x13 wd k0 (by decide), simt_13]
  simp [decodeRows, Row.fits, k0, hg, b_m, b_d, b_a, b_b]
theorem simt_14 : simtRows.filter (Row.op 0x14) =
    [⟨[(20, 7, 0x14)], fun w => .mad (guardOf w) (bf w 18 2) (bf w 12 6) (bf w 6 6) (bf w 0 6)⟩] := rfl
theorem mad (gd : Guard) (m : BitVec 2) (d : BitVec 6) (a : BitVec 6) (b : BitVec 6) : Statement (.mad gd m d a b) := by
  have h_m := m.isLt
  have h_d := d.isLt
  have h_a := a.isLt
  have h_b := b.isLt
  intro wd hw
  have h0 : some (word32 (0x1400000 + guardBits gd + m.toNat * 0x40000 + d.toNat * 0x1000 + a.toNat * 0x40 + b.toNat)) = some wd := hw
  have hv : wd = (word32 (0x1400000 + m.toNat * 0x40000 + d.toNat * 0x1000 + a.toNat * 0x40 + b.toNat + guardBits gd)) := (Option.some.inj h0).symm.trans (congrArg word32 (by omega))
  have hr : 0x1400000 + m.toNat * 0x40000 + d.toNat * 0x1000 + a.toNat * 0x40 + b.toNat < 2 ^ 27 := by omega
  show decodeSimt wd = _
  have k0 : fld wd 20 7 = 0x14 := (hv ▸ fld_guarded gd hr (by omega)).trans (by omega)
  have hg : guardOf wd = gd := hv ▸ guardOf_guarded gd hr
  have b_m : bf wd 18 2 = m := hv ▸ bf_guarded gd hr (by omega) (by omega)
  have b_d : bf wd 12 6 = d := hv ▸ bf_guarded gd hr (by omega) (by omega)
  have b_a : bf wd 6 6 = a := hv ▸ bf_guarded gd hr (by omega) (by omega)
  have b_b : bf wd 0 6 = b := hv ▸ bf_guarded gd hr (by omega) (by omega)
  rw [decodeSimt_at 0x14 wd k0 (by decide), simt_14]
  simp [decodeRows, Row.fits, k0, hg, b_m, b_d, b_a, b_b]
theorem simt_15 : simtRows.filter (Row.op 0x15) =
    [⟨[(20, 7, 0x15)], fun w => .add64 (guardOf w) (bf w 18 2) (bf w 12 6) (bf w 6 6) (bf w 0 6)⟩] := rfl
theorem add64 (gd : Guard) (m : BitVec 2) (d : BitVec 6) (a : BitVec 6) (b : BitVec 6) : Statement (.add64 gd m d a b) := by
  have h_m := m.isLt
  have h_d := d.isLt
  have h_a := a.isLt
  have h_b := b.isLt
  intro wd hw
  have h0 : some (word32 (0x1500000 + guardBits gd + m.toNat * 0x40000 + d.toNat * 0x1000 + a.toNat * 0x40 + b.toNat)) = some wd := hw
  have hv : wd = (word32 (0x1500000 + m.toNat * 0x40000 + d.toNat * 0x1000 + a.toNat * 0x40 + b.toNat + guardBits gd)) := (Option.some.inj h0).symm.trans (congrArg word32 (by omega))
  have hr : 0x1500000 + m.toNat * 0x40000 + d.toNat * 0x1000 + a.toNat * 0x40 + b.toNat < 2 ^ 27 := by omega
  show decodeSimt wd = _
  have k0 : fld wd 20 7 = 0x15 := (hv ▸ fld_guarded gd hr (by omega)).trans (by omega)
  have hg : guardOf wd = gd := hv ▸ guardOf_guarded gd hr
  have b_m : bf wd 18 2 = m := hv ▸ bf_guarded gd hr (by omega) (by omega)
  have b_d : bf wd 12 6 = d := hv ▸ bf_guarded gd hr (by omega) (by omega)
  have b_a : bf wd 6 6 = a := hv ▸ bf_guarded gd hr (by omega) (by omega)
  have b_b : bf wd 0 6 = b := hv ▸ bf_guarded gd hr (by omega) (by omega)
  rw [decodeSimt_at 0x15 wd k0 (by decide), simt_15]
  simp [decodeRows, Row.fits, k0, hg, b_m, b_d, b_a, b_b]
theorem simt_16 : simtRows.filter (Row.op 0x16) =
    [⟨[(20, 7, 0x16)], fun w => .lea (guardOf w) (bf w 18 2) (bf w 12 6) (bf w 6 6) (bf w 0 6)⟩] := rfl
theorem lea (gd : Guard) (m : BitVec 2) (d : BitVec 6) (a : BitVec 6) (b : BitVec 6) : Statement (.lea gd m d a b) := by
  have h_m := m.isLt
  have h_d := d.isLt
  have h_a := a.isLt
  have h_b := b.isLt
  intro wd hw
  have h0 : some (word32 (0x1600000 + guardBits gd + m.toNat * 0x40000 + d.toNat * 0x1000 + a.toNat * 0x40 + b.toNat)) = some wd := hw
  have hv : wd = (word32 (0x1600000 + m.toNat * 0x40000 + d.toNat * 0x1000 + a.toNat * 0x40 + b.toNat + guardBits gd)) := (Option.some.inj h0).symm.trans (congrArg word32 (by omega))
  have hr : 0x1600000 + m.toNat * 0x40000 + d.toNat * 0x1000 + a.toNat * 0x40 + b.toNat < 2 ^ 27 := by omega
  show decodeSimt wd = _
  have k0 : fld wd 20 7 = 0x16 := (hv ▸ fld_guarded gd hr (by omega)).trans (by omega)
  have hg : guardOf wd = gd := hv ▸ guardOf_guarded gd hr
  have b_m : bf wd 18 2 = m := hv ▸ bf_guarded gd hr (by omega) (by omega)
  have b_d : bf wd 12 6 = d := hv ▸ bf_guarded gd hr (by omega) (by omega)
  have b_a : bf wd 6 6 = a := hv ▸ bf_guarded gd hr (by omega) (by omega)
  have b_b : bf wd 0 6 = b := hv ▸ bf_guarded gd hr (by omega) (by omega)
  rw [decodeSimt_at 0x16 wd k0 (by decide), simt_16]
  simp [decodeRows, Row.fits, k0, hg, b_m, b_d, b_a, b_b]
theorem simt_17 : simtRows.filter (Row.op 0x17) =
    [⟨[(20, 7, 0x17), (18, 2, 0x0)], fun w => .and (guardOf w) (bf w 12 6) (bf w 6 6) (bf w 0 6)⟩] := rfl
theorem and (gd : Guard) (d : BitVec 6) (a : BitVec 6) (b : BitVec 6) : Statement (.and gd d a b) := by
  have h_d := d.isLt
  have h_a := a.isLt
  have h_b := b.isLt
  intro wd hw
  have h0 : some (word32 (0x1700000 + guardBits gd + d.toNat * 0x1000 + a.toNat * 0x40 + b.toNat)) = some wd := hw
  have hv : wd = (word32 (0x1700000 + d.toNat * 0x1000 + a.toNat * 0x40 + b.toNat + guardBits gd)) := (Option.some.inj h0).symm.trans (congrArg word32 (by omega))
  have hr : 0x1700000 + d.toNat * 0x1000 + a.toNat * 0x40 + b.toNat < 2 ^ 27 := by omega
  show decodeSimt wd = _
  have k0 : fld wd 20 7 = 0x17 := (hv ▸ fld_guarded gd hr (by omega)).trans (by omega)
  have k1 : fld wd 18 2 = 0x0 := (hv ▸ fld_guarded gd hr (by omega)).trans (by omega)
  have hg : guardOf wd = gd := hv ▸ guardOf_guarded gd hr
  have b_d : bf wd 12 6 = d := hv ▸ bf_guarded gd hr (by omega) (by omega)
  have b_a : bf wd 6 6 = a := hv ▸ bf_guarded gd hr (by omega) (by omega)
  have b_b : bf wd 0 6 = b := hv ▸ bf_guarded gd hr (by omega) (by omega)
  rw [decodeSimt_at 0x17 wd k0 (by decide), simt_17]
  simp [decodeRows, Row.fits, k0, k1, hg, b_d, b_a, b_b]
theorem simt_18 : simtRows.filter (Row.op 0x18) =
    [⟨[(20, 7, 0x18), (18, 2, 0x0)], fun w => .or (guardOf w) (bf w 12 6) (bf w 6 6) (bf w 0 6)⟩] := rfl
theorem or (gd : Guard) (d : BitVec 6) (a : BitVec 6) (b : BitVec 6) : Statement (.or gd d a b) := by
  have h_d := d.isLt
  have h_a := a.isLt
  have h_b := b.isLt
  intro wd hw
  have h0 : some (word32 (0x1800000 + guardBits gd + d.toNat * 0x1000 + a.toNat * 0x40 + b.toNat)) = some wd := hw
  have hv : wd = (word32 (0x1800000 + d.toNat * 0x1000 + a.toNat * 0x40 + b.toNat + guardBits gd)) := (Option.some.inj h0).symm.trans (congrArg word32 (by omega))
  have hr : 0x1800000 + d.toNat * 0x1000 + a.toNat * 0x40 + b.toNat < 2 ^ 27 := by omega
  show decodeSimt wd = _
  have k0 : fld wd 20 7 = 0x18 := (hv ▸ fld_guarded gd hr (by omega)).trans (by omega)
  have k1 : fld wd 18 2 = 0x0 := (hv ▸ fld_guarded gd hr (by omega)).trans (by omega)
  have hg : guardOf wd = gd := hv ▸ guardOf_guarded gd hr
  have b_d : bf wd 12 6 = d := hv ▸ bf_guarded gd hr (by omega) (by omega)
  have b_a : bf wd 6 6 = a := hv ▸ bf_guarded gd hr (by omega) (by omega)
  have b_b : bf wd 0 6 = b := hv ▸ bf_guarded gd hr (by omega) (by omega)
  rw [decodeSimt_at 0x18 wd k0 (by decide), simt_18]
  simp [decodeRows, Row.fits, k0, k1, hg, b_d, b_a, b_b]
theorem simt_19 : simtRows.filter (Row.op 0x19) =
    [⟨[(20, 7, 0x19), (18, 2, 0x0)], fun w => .xor (guardOf w) (bf w 12 6) (bf w 6 6) (bf w 0 6)⟩] := rfl
theorem xor (gd : Guard) (d : BitVec 6) (a : BitVec 6) (b : BitVec 6) : Statement (.xor gd d a b) := by
  have h_d := d.isLt
  have h_a := a.isLt
  have h_b := b.isLt
  intro wd hw
  have h0 : some (word32 (0x1900000 + guardBits gd + d.toNat * 0x1000 + a.toNat * 0x40 + b.toNat)) = some wd := hw
  have hv : wd = (word32 (0x1900000 + d.toNat * 0x1000 + a.toNat * 0x40 + b.toNat + guardBits gd)) := (Option.some.inj h0).symm.trans (congrArg word32 (by omega))
  have hr : 0x1900000 + d.toNat * 0x1000 + a.toNat * 0x40 + b.toNat < 2 ^ 27 := by omega
  show decodeSimt wd = _
  have k0 : fld wd 20 7 = 0x19 := (hv ▸ fld_guarded gd hr (by omega)).trans (by omega)
  have k1 : fld wd 18 2 = 0x0 := (hv ▸ fld_guarded gd hr (by omega)).trans (by omega)
  have hg : guardOf wd = gd := hv ▸ guardOf_guarded gd hr
  have b_d : bf wd 12 6 = d := hv ▸ bf_guarded gd hr (by omega) (by omega)
  have b_a : bf wd 6 6 = a := hv ▸ bf_guarded gd hr (by omega) (by omega)
  have b_b : bf wd 0 6 = b := hv ▸ bf_guarded gd hr (by omega) (by omega)
  rw [decodeSimt_at 0x19 wd k0 (by decide), simt_19]
  simp [decodeRows, Row.fits, k0, k1, hg, b_d, b_a, b_b]
theorem simt_1a : simtRows.filter (Row.op 0x1a) =
    [⟨[(20, 7, 0x1a), (18, 2, 0x0)], fun w => .andn (guardOf w) (bf w 12 6) (bf w 6 6) (bf w 0 6)⟩] := rfl
theorem andn (gd : Guard) (d : BitVec 6) (a : BitVec 6) (b : BitVec 6) : Statement (.andn gd d a b) := by
  have h_d := d.isLt
  have h_a := a.isLt
  have h_b := b.isLt
  intro wd hw
  have h0 : some (word32 (0x1a00000 + guardBits gd + d.toNat * 0x1000 + a.toNat * 0x40 + b.toNat)) = some wd := hw
  have hv : wd = (word32 (0x1a00000 + d.toNat * 0x1000 + a.toNat * 0x40 + b.toNat + guardBits gd)) := (Option.some.inj h0).symm.trans (congrArg word32 (by omega))
  have hr : 0x1a00000 + d.toNat * 0x1000 + a.toNat * 0x40 + b.toNat < 2 ^ 27 := by omega
  show decodeSimt wd = _
  have k0 : fld wd 20 7 = 0x1a := (hv ▸ fld_guarded gd hr (by omega)).trans (by omega)
  have k1 : fld wd 18 2 = 0x0 := (hv ▸ fld_guarded gd hr (by omega)).trans (by omega)
  have hg : guardOf wd = gd := hv ▸ guardOf_guarded gd hr
  have b_d : bf wd 12 6 = d := hv ▸ bf_guarded gd hr (by omega) (by omega)
  have b_a : bf wd 6 6 = a := hv ▸ bf_guarded gd hr (by omega) (by omega)
  have b_b : bf wd 0 6 = b := hv ▸ bf_guarded gd hr (by omega) (by omega)
  rw [decodeSimt_at 0x1a wd k0 (by decide), simt_1a]
  simp [decodeRows, Row.fits, k0, k1, hg, b_d, b_a, b_b]
theorem simt_1b : simtRows.filter (Row.op 0x1b) =
    [⟨[(20, 7, 0x1b), (18, 2, 0x0)], fun w => .shl (guardOf w) (bf w 12 6) (bf w 6 6) (bf w 0 6)⟩] := rfl
theorem shl (gd : Guard) (d : BitVec 6) (a : BitVec 6) (b : BitVec 6) : Statement (.shl gd d a b) := by
  have h_d := d.isLt
  have h_a := a.isLt
  have h_b := b.isLt
  intro wd hw
  have h0 : some (word32 (0x1b00000 + guardBits gd + d.toNat * 0x1000 + a.toNat * 0x40 + b.toNat)) = some wd := hw
  have hv : wd = (word32 (0x1b00000 + d.toNat * 0x1000 + a.toNat * 0x40 + b.toNat + guardBits gd)) := (Option.some.inj h0).symm.trans (congrArg word32 (by omega))
  have hr : 0x1b00000 + d.toNat * 0x1000 + a.toNat * 0x40 + b.toNat < 2 ^ 27 := by omega
  show decodeSimt wd = _
  have k0 : fld wd 20 7 = 0x1b := (hv ▸ fld_guarded gd hr (by omega)).trans (by omega)
  have k1 : fld wd 18 2 = 0x0 := (hv ▸ fld_guarded gd hr (by omega)).trans (by omega)
  have hg : guardOf wd = gd := hv ▸ guardOf_guarded gd hr
  have b_d : bf wd 12 6 = d := hv ▸ bf_guarded gd hr (by omega) (by omega)
  have b_a : bf wd 6 6 = a := hv ▸ bf_guarded gd hr (by omega) (by omega)
  have b_b : bf wd 0 6 = b := hv ▸ bf_guarded gd hr (by omega) (by omega)
  rw [decodeSimt_at 0x1b wd k0 (by decide), simt_1b]
  simp [decodeRows, Row.fits, k0, k1, hg, b_d, b_a, b_b]
theorem simt_1c : simtRows.filter (Row.op 0x1c) =
    [⟨[(20, 7, 0x1c), (18, 2, 0x0)], fun w => .shr (guardOf w) (bf w 12 6) (bf w 6 6) (bf w 0 6)⟩] := rfl
theorem shr (gd : Guard) (d : BitVec 6) (a : BitVec 6) (b : BitVec 6) : Statement (.shr gd d a b) := by
  have h_d := d.isLt
  have h_a := a.isLt
  have h_b := b.isLt
  intro wd hw
  have h0 : some (word32 (0x1c00000 + guardBits gd + d.toNat * 0x1000 + a.toNat * 0x40 + b.toNat)) = some wd := hw
  have hv : wd = (word32 (0x1c00000 + d.toNat * 0x1000 + a.toNat * 0x40 + b.toNat + guardBits gd)) := (Option.some.inj h0).symm.trans (congrArg word32 (by omega))
  have hr : 0x1c00000 + d.toNat * 0x1000 + a.toNat * 0x40 + b.toNat < 2 ^ 27 := by omega
  show decodeSimt wd = _
  have k0 : fld wd 20 7 = 0x1c := (hv ▸ fld_guarded gd hr (by omega)).trans (by omega)
  have k1 : fld wd 18 2 = 0x0 := (hv ▸ fld_guarded gd hr (by omega)).trans (by omega)
  have hg : guardOf wd = gd := hv ▸ guardOf_guarded gd hr
  have b_d : bf wd 12 6 = d := hv ▸ bf_guarded gd hr (by omega) (by omega)
  have b_a : bf wd 6 6 = a := hv ▸ bf_guarded gd hr (by omega) (by omega)
  have b_b : bf wd 0 6 = b := hv ▸ bf_guarded gd hr (by omega) (by omega)
  rw [decodeSimt_at 0x1c wd k0 (by decide), simt_1c]
  simp [decodeRows, Row.fits, k0, k1, hg, b_d, b_a, b_b]
theorem simt_1d : simtRows.filter (Row.op 0x1d) =
    [⟨[(20, 7, 0x1d), (18, 2, 0x0)], fun w => .sar (guardOf w) (bf w 12 6) (bf w 6 6) (bf w 0 6)⟩] := rfl
theorem sar (gd : Guard) (d : BitVec 6) (a : BitVec 6) (b : BitVec 6) : Statement (.sar gd d a b) := by
  have h_d := d.isLt
  have h_a := a.isLt
  have h_b := b.isLt
  intro wd hw
  have h0 : some (word32 (0x1d00000 + guardBits gd + d.toNat * 0x1000 + a.toNat * 0x40 + b.toNat)) = some wd := hw
  have hv : wd = (word32 (0x1d00000 + d.toNat * 0x1000 + a.toNat * 0x40 + b.toNat + guardBits gd)) := (Option.some.inj h0).symm.trans (congrArg word32 (by omega))
  have hr : 0x1d00000 + d.toNat * 0x1000 + a.toNat * 0x40 + b.toNat < 2 ^ 27 := by omega
  show decodeSimt wd = _
  have k0 : fld wd 20 7 = 0x1d := (hv ▸ fld_guarded gd hr (by omega)).trans (by omega)
  have k1 : fld wd 18 2 = 0x0 := (hv ▸ fld_guarded gd hr (by omega)).trans (by omega)
  have hg : guardOf wd = gd := hv ▸ guardOf_guarded gd hr
  have b_d : bf wd 12 6 = d := hv ▸ bf_guarded gd hr (by omega) (by omega)
  have b_a : bf wd 6 6 = a := hv ▸ bf_guarded gd hr (by omega) (by omega)
  have b_b : bf wd 0 6 = b := hv ▸ bf_guarded gd hr (by omega) (by omega)
  rw [decodeSimt_at 0x1d wd k0 (by decide), simt_1d]
  simp [decodeRows, Row.fits, k0, k1, hg, b_d, b_a, b_b]
theorem simt_1e : simtRows.filter (Row.op 0x1e) =
    [⟨[(20, 7, 0x1e), (18, 2, 0x0)], fun w => .rot (guardOf w) (bf w 12 6) (bf w 6 6) (bf w 0 6)⟩] := rfl
theorem rot (gd : Guard) (d : BitVec 6) (a : BitVec 6) (b : BitVec 6) : Statement (.rot gd d a b) := by
  have h_d := d.isLt
  have h_a := a.isLt
  have h_b := b.isLt
  intro wd hw
  have h0 : some (word32 (0x1e00000 + guardBits gd + d.toNat * 0x1000 + a.toNat * 0x40 + b.toNat)) = some wd := hw
  have hv : wd = (word32 (0x1e00000 + d.toNat * 0x1000 + a.toNat * 0x40 + b.toNat + guardBits gd)) := (Option.some.inj h0).symm.trans (congrArg word32 (by omega))
  have hr : 0x1e00000 + d.toNat * 0x1000 + a.toNat * 0x40 + b.toNat < 2 ^ 27 := by omega
  show decodeSimt wd = _
  have k0 : fld wd 20 7 = 0x1e := (hv ▸ fld_guarded gd hr (by omega)).trans (by omega)
  have k1 : fld wd 18 2 = 0x0 := (hv ▸ fld_guarded gd hr (by omega)).trans (by omega)
  have hg : guardOf wd = gd := hv ▸ guardOf_guarded gd hr
  have b_d : bf wd 12 6 = d := hv ▸ bf_guarded gd hr (by omega) (by omega)
  have b_a : bf wd 6 6 = a := hv ▸ bf_guarded gd hr (by omega) (by omega)
  have b_b : bf wd 0 6 = b := hv ▸ bf_guarded gd hr (by omega) (by omega)
  rw [decodeSimt_at 0x1e wd k0 (by decide), simt_1e]
  simp [decodeRows, Row.fits, k0, k1, hg, b_d, b_a, b_b]
theorem simt_1f : simtRows.filter (Row.op 0x1f) =
    [⟨[(20, 7, 0x1f), (5, 1, 0x0), (18, 2, 0x0)], fun w => .shlImm (guardOf w) (bf w 12 6) (bf w 6 6) (bf w 0 5)⟩, ⟨[(20, 7, 0x1f), (5, 1, 0x0), (18, 2, 0x1)], fun w => .shrImm (guardOf w) (bf w 12 6) (bf w 6 6) (bf w 0 5)⟩, ⟨[(20, 7, 0x1f), (5, 1, 0x0), (18, 2, 0x2)], fun w => .sarImm (guardOf w) (bf w 12 6) (bf w 6 6) (bf w 0 5)⟩, ⟨[(20, 7, 0x1f), (5, 1, 0x0), (18, 2, 0x3)], fun w => .rotImm (guardOf w) (bf w 12 6) (bf w 6 6) (bf w 0 5)⟩] := rfl
theorem shlImm (gd : Guard) (d : BitVec 6) (a : BitVec 6) (c : BitVec 5) : Statement (.shlImm gd d a c) := by
  have h_d := d.isLt
  have h_a := a.isLt
  have h_c := c.isLt
  intro wd hw
  have h0 : some (word32 (0x1f00000 + guardBits gd + d.toNat * 0x1000 + a.toNat * 0x40 + c.toNat)) = some wd := hw
  have hv : wd = (word32 (0x1f00000 + d.toNat * 0x1000 + a.toNat * 0x40 + c.toNat + guardBits gd)) := (Option.some.inj h0).symm.trans (congrArg word32 (by omega))
  have hr : 0x1f00000 + d.toNat * 0x1000 + a.toNat * 0x40 + c.toNat < 2 ^ 27 := by omega
  show decodeSimt wd = _
  have k0 : fld wd 20 7 = 0x1f := (hv ▸ fld_guarded gd hr (by omega)).trans (by omega)
  have k1 : fld wd 5 1 = 0x0 := (hv ▸ fld_guarded gd hr (by omega)).trans (by omega)
  have k2 : fld wd 18 2 = 0x0 := (hv ▸ fld_guarded gd hr (by omega)).trans (by omega)
  have hg : guardOf wd = gd := hv ▸ guardOf_guarded gd hr
  have b_d : bf wd 12 6 = d := hv ▸ bf_guarded gd hr (by omega) (by omega)
  have b_a : bf wd 6 6 = a := hv ▸ bf_guarded gd hr (by omega) (by omega)
  have b_c : bf wd 0 5 = c := hv ▸ bf_guarded gd hr (by omega) (by omega)
  rw [decodeSimt_at 0x1f wd k0 (by decide), simt_1f]
  simp [decodeRows, Row.fits, k0, k1, k2, hg, b_d, b_a, b_c]
theorem shrImm (gd : Guard) (d : BitVec 6) (a : BitVec 6) (c : BitVec 5) : Statement (.shrImm gd d a c) := by
  have h_d := d.isLt
  have h_a := a.isLt
  have h_c := c.isLt
  intro wd hw
  have h0 : some (word32 (0x1f40000 + guardBits gd + d.toNat * 0x1000 + a.toNat * 0x40 + c.toNat)) = some wd := hw
  have hv : wd = (word32 (0x1f40000 + d.toNat * 0x1000 + a.toNat * 0x40 + c.toNat + guardBits gd)) := (Option.some.inj h0).symm.trans (congrArg word32 (by omega))
  have hr : 0x1f40000 + d.toNat * 0x1000 + a.toNat * 0x40 + c.toNat < 2 ^ 27 := by omega
  show decodeSimt wd = _
  have k0 : fld wd 20 7 = 0x1f := (hv ▸ fld_guarded gd hr (by omega)).trans (by omega)
  have k1 : fld wd 5 1 = 0x0 := (hv ▸ fld_guarded gd hr (by omega)).trans (by omega)
  have k2 : fld wd 18 2 = 0x1 := (hv ▸ fld_guarded gd hr (by omega)).trans (by omega)
  have hg : guardOf wd = gd := hv ▸ guardOf_guarded gd hr
  have b_d : bf wd 12 6 = d := hv ▸ bf_guarded gd hr (by omega) (by omega)
  have b_a : bf wd 6 6 = a := hv ▸ bf_guarded gd hr (by omega) (by omega)
  have b_c : bf wd 0 5 = c := hv ▸ bf_guarded gd hr (by omega) (by omega)
  rw [decodeSimt_at 0x1f wd k0 (by decide), simt_1f]
  simp [decodeRows, Row.fits, k0, k1, k2, hg, b_d, b_a, b_c]
theorem sarImm (gd : Guard) (d : BitVec 6) (a : BitVec 6) (c : BitVec 5) : Statement (.sarImm gd d a c) := by
  have h_d := d.isLt
  have h_a := a.isLt
  have h_c := c.isLt
  intro wd hw
  have h0 : some (word32 (0x1f80000 + guardBits gd + d.toNat * 0x1000 + a.toNat * 0x40 + c.toNat)) = some wd := hw
  have hv : wd = (word32 (0x1f80000 + d.toNat * 0x1000 + a.toNat * 0x40 + c.toNat + guardBits gd)) := (Option.some.inj h0).symm.trans (congrArg word32 (by omega))
  have hr : 0x1f80000 + d.toNat * 0x1000 + a.toNat * 0x40 + c.toNat < 2 ^ 27 := by omega
  show decodeSimt wd = _
  have k0 : fld wd 20 7 = 0x1f := (hv ▸ fld_guarded gd hr (by omega)).trans (by omega)
  have k1 : fld wd 5 1 = 0x0 := (hv ▸ fld_guarded gd hr (by omega)).trans (by omega)
  have k2 : fld wd 18 2 = 0x2 := (hv ▸ fld_guarded gd hr (by omega)).trans (by omega)
  have hg : guardOf wd = gd := hv ▸ guardOf_guarded gd hr
  have b_d : bf wd 12 6 = d := hv ▸ bf_guarded gd hr (by omega) (by omega)
  have b_a : bf wd 6 6 = a := hv ▸ bf_guarded gd hr (by omega) (by omega)
  have b_c : bf wd 0 5 = c := hv ▸ bf_guarded gd hr (by omega) (by omega)
  rw [decodeSimt_at 0x1f wd k0 (by decide), simt_1f]
  simp [decodeRows, Row.fits, k0, k1, k2, hg, b_d, b_a, b_c]
theorem rotImm (gd : Guard) (d : BitVec 6) (a : BitVec 6) (c : BitVec 5) : Statement (.rotImm gd d a c) := by
  have h_d := d.isLt
  have h_a := a.isLt
  have h_c := c.isLt
  intro wd hw
  have h0 : some (word32 (0x1fc0000 + guardBits gd + d.toNat * 0x1000 + a.toNat * 0x40 + c.toNat)) = some wd := hw
  have hv : wd = (word32 (0x1fc0000 + d.toNat * 0x1000 + a.toNat * 0x40 + c.toNat + guardBits gd)) := (Option.some.inj h0).symm.trans (congrArg word32 (by omega))
  have hr : 0x1fc0000 + d.toNat * 0x1000 + a.toNat * 0x40 + c.toNat < 2 ^ 27 := by omega
  show decodeSimt wd = _
  have k0 : fld wd 20 7 = 0x1f := (hv ▸ fld_guarded gd hr (by omega)).trans (by omega)
  have k1 : fld wd 5 1 = 0x0 := (hv ▸ fld_guarded gd hr (by omega)).trans (by omega)
  have k2 : fld wd 18 2 = 0x3 := (hv ▸ fld_guarded gd hr (by omega)).trans (by omega)
  have hg : guardOf wd = gd := hv ▸ guardOf_guarded gd hr
  have b_d : bf wd 12 6 = d := hv ▸ bf_guarded gd hr (by omega) (by omega)
  have b_a : bf wd 6 6 = a := hv ▸ bf_guarded gd hr (by omega) (by omega)
  have b_c : bf wd 0 5 = c := hv ▸ bf_guarded gd hr (by omega) (by omega)
  rw [decodeSimt_at 0x1f wd k0 (by decide), simt_1f]
  simp [decodeRows, Row.fits, k0, k1, k2, hg, b_d, b_a, b_c]
theorem simt_20 : simtRows.filter (Row.op 0x20) =
    [⟨[(20, 7, 0x20), (19, 1, 0x0)], fun w => .min (guardOf w) (bf w 18 1) (bf w 12 6) (bf w 6 6) (bf w 0 6)⟩] := rfl
theorem min (gd : Guard) (m : BitVec 1) (d : BitVec 6) (a : BitVec 6) (b : BitVec 6) : Statement (.min gd m d a b) := by
  have h_m := m.isLt
  have h_d := d.isLt
  have h_a := a.isLt
  have h_b := b.isLt
  intro wd hw
  have h0 : some (word32 (0x2000000 + guardBits gd + m.toNat * 0x40000 + d.toNat * 0x1000 + a.toNat * 0x40 + b.toNat)) = some wd := hw
  have hv : wd = (word32 (0x2000000 + m.toNat * 0x40000 + d.toNat * 0x1000 + a.toNat * 0x40 + b.toNat + guardBits gd)) := (Option.some.inj h0).symm.trans (congrArg word32 (by omega))
  have hr : 0x2000000 + m.toNat * 0x40000 + d.toNat * 0x1000 + a.toNat * 0x40 + b.toNat < 2 ^ 27 := by omega
  show decodeSimt wd = _
  have k0 : fld wd 20 7 = 0x20 := (hv ▸ fld_guarded gd hr (by omega)).trans (by omega)
  have k1 : fld wd 19 1 = 0x0 := (hv ▸ fld_guarded gd hr (by omega)).trans (by omega)
  have hg : guardOf wd = gd := hv ▸ guardOf_guarded gd hr
  have b_m : bf wd 18 1 = m := hv ▸ bf_guarded gd hr (by omega) (by omega)
  have b_d : bf wd 12 6 = d := hv ▸ bf_guarded gd hr (by omega) (by omega)
  have b_a : bf wd 6 6 = a := hv ▸ bf_guarded gd hr (by omega) (by omega)
  have b_b : bf wd 0 6 = b := hv ▸ bf_guarded gd hr (by omega) (by omega)
  rw [decodeSimt_at 0x20 wd k0 (by decide), simt_20]
  simp [decodeRows, Row.fits, k0, k1, hg, b_m, b_d, b_a, b_b]
theorem simt_21 : simtRows.filter (Row.op 0x21) =
    [⟨[(20, 7, 0x21), (19, 1, 0x0)], fun w => .max (guardOf w) (bf w 18 1) (bf w 12 6) (bf w 6 6) (bf w 0 6)⟩] := rfl
theorem max (gd : Guard) (m : BitVec 1) (d : BitVec 6) (a : BitVec 6) (b : BitVec 6) : Statement (.max gd m d a b) := by
  have h_m := m.isLt
  have h_d := d.isLt
  have h_a := a.isLt
  have h_b := b.isLt
  intro wd hw
  have h0 : some (word32 (0x2100000 + guardBits gd + m.toNat * 0x40000 + d.toNat * 0x1000 + a.toNat * 0x40 + b.toNat)) = some wd := hw
  have hv : wd = (word32 (0x2100000 + m.toNat * 0x40000 + d.toNat * 0x1000 + a.toNat * 0x40 + b.toNat + guardBits gd)) := (Option.some.inj h0).symm.trans (congrArg word32 (by omega))
  have hr : 0x2100000 + m.toNat * 0x40000 + d.toNat * 0x1000 + a.toNat * 0x40 + b.toNat < 2 ^ 27 := by omega
  show decodeSimt wd = _
  have k0 : fld wd 20 7 = 0x21 := (hv ▸ fld_guarded gd hr (by omega)).trans (by omega)
  have k1 : fld wd 19 1 = 0x0 := (hv ▸ fld_guarded gd hr (by omega)).trans (by omega)
  have hg : guardOf wd = gd := hv ▸ guardOf_guarded gd hr
  have b_m : bf wd 18 1 = m := hv ▸ bf_guarded gd hr (by omega) (by omega)
  have b_d : bf wd 12 6 = d := hv ▸ bf_guarded gd hr (by omega) (by omega)
  have b_a : bf wd 6 6 = a := hv ▸ bf_guarded gd hr (by omega) (by omega)
  have b_b : bf wd 0 6 = b := hv ▸ bf_guarded gd hr (by omega) (by omega)
  rw [decodeSimt_at 0x21 wd k0 (by decide), simt_21]
  simp [decodeRows, Row.fits, k0, k1, hg, b_m, b_d, b_a, b_b]
theorem simt_22 : simtRows.filter (Row.op 0x22) =
    [⟨[(20, 7, 0x22), (0, 6, 0x0), (18, 2, 0x0)], fun w => .clz (guardOf w) (bf w 12 6) (bf w 6 6)⟩, ⟨[(20, 7, 0x22), (0, 6, 0x1), (18, 2, 0x0)], fun w => .ctz (guardOf w) (bf w 12 6) (bf w 6 6)⟩, ⟨[(20, 7, 0x22), (0, 6, 0x2), (18, 2, 0x0)], fun w => .popc (guardOf w) (bf w 12 6) (bf w 6 6)⟩, ⟨[(20, 7, 0x22), (0, 6, 0x3), (18, 2, 0x0)], fun w => .brev (guardOf w) (bf w 12 6) (bf w 6 6)⟩, ⟨[(20, 7, 0x22), (0, 6, 0x4), (18, 2, 0x0)], fun w => .abs (guardOf w) (bf w 12 6) (bf w 6 6)⟩, ⟨[(20, 7, 0x22), (0, 6, 0x5), (18, 2, 0x0)], fun w => .neg (guardOf w) (bf w 12 6) (bf w 6 6)⟩, ⟨[(20, 7, 0x22), (0, 6, 0x6), (18, 2, 0x0)], fun w => .not (guardOf w) (bf w 12 6) (bf w 6 6)⟩, ⟨[(20, 7, 0x22), (0, 6, 0x7), (18, 2, 0x0)], fun w => .sext8 (guardOf w) (bf w 12 6) (bf w 6 6)⟩, ⟨[(20, 7, 0x22), (0, 6, 0x8), (18, 2, 0x0)], fun w => .sext16 (guardOf w) (bf w 12 6) (bf w 6 6)⟩] := rfl
theorem clz (gd : Guard) (d : BitVec 6) (a : BitVec 6) : Statement (.clz gd d a) := by
  have h_d := d.isLt
  have h_a := a.isLt
  intro wd hw
  have h0 : some (word32 (0x2200000 + guardBits gd + d.toNat * 0x1000 + a.toNat * 0x40)) = some wd := hw
  have hv : wd = (word32 (0x2200000 + d.toNat * 0x1000 + a.toNat * 0x40 + guardBits gd)) := (Option.some.inj h0).symm.trans (congrArg word32 (by omega))
  have hr : 0x2200000 + d.toNat * 0x1000 + a.toNat * 0x40 < 2 ^ 27 := by omega
  show decodeSimt wd = _
  have k0 : fld wd 20 7 = 0x22 := (hv ▸ fld_guarded gd hr (by omega)).trans (by omega)
  have k1 : fld wd 0 6 = 0x0 := (hv ▸ fld_guarded gd hr (by omega)).trans (by omega)
  have k2 : fld wd 18 2 = 0x0 := (hv ▸ fld_guarded gd hr (by omega)).trans (by omega)
  have hg : guardOf wd = gd := hv ▸ guardOf_guarded gd hr
  have b_d : bf wd 12 6 = d := hv ▸ bf_guarded gd hr (by omega) (by omega)
  have b_a : bf wd 6 6 = a := hv ▸ bf_guarded gd hr (by omega) (by omega)
  rw [decodeSimt_at 0x22 wd k0 (by decide), simt_22]
  simp [decodeRows, Row.fits, k0, k1, k2, hg, b_d, b_a]
theorem ctz (gd : Guard) (d : BitVec 6) (a : BitVec 6) : Statement (.ctz gd d a) := by
  have h_d := d.isLt
  have h_a := a.isLt
  intro wd hw
  have h0 : some (word32 (0x2200001 + guardBits gd + d.toNat * 0x1000 + a.toNat * 0x40)) = some wd := hw
  have hv : wd = (word32 (0x2200001 + d.toNat * 0x1000 + a.toNat * 0x40 + guardBits gd)) := (Option.some.inj h0).symm.trans (congrArg word32 (by omega))
  have hr : 0x2200001 + d.toNat * 0x1000 + a.toNat * 0x40 < 2 ^ 27 := by omega
  show decodeSimt wd = _
  have k0 : fld wd 20 7 = 0x22 := (hv ▸ fld_guarded gd hr (by omega)).trans (by omega)
  have k1 : fld wd 0 6 = 0x1 := (hv ▸ fld_guarded gd hr (by omega)).trans (by omega)
  have k2 : fld wd 18 2 = 0x0 := (hv ▸ fld_guarded gd hr (by omega)).trans (by omega)
  have hg : guardOf wd = gd := hv ▸ guardOf_guarded gd hr
  have b_d : bf wd 12 6 = d := hv ▸ bf_guarded gd hr (by omega) (by omega)
  have b_a : bf wd 6 6 = a := hv ▸ bf_guarded gd hr (by omega) (by omega)
  rw [decodeSimt_at 0x22 wd k0 (by decide), simt_22]
  simp [decodeRows, Row.fits, k0, k1, k2, hg, b_d, b_a]
theorem popc (gd : Guard) (d : BitVec 6) (a : BitVec 6) : Statement (.popc gd d a) := by
  have h_d := d.isLt
  have h_a := a.isLt
  intro wd hw
  have h0 : some (word32 (0x2200002 + guardBits gd + d.toNat * 0x1000 + a.toNat * 0x40)) = some wd := hw
  have hv : wd = (word32 (0x2200002 + d.toNat * 0x1000 + a.toNat * 0x40 + guardBits gd)) := (Option.some.inj h0).symm.trans (congrArg word32 (by omega))
  have hr : 0x2200002 + d.toNat * 0x1000 + a.toNat * 0x40 < 2 ^ 27 := by omega
  show decodeSimt wd = _
  have k0 : fld wd 20 7 = 0x22 := (hv ▸ fld_guarded gd hr (by omega)).trans (by omega)
  have k1 : fld wd 0 6 = 0x2 := (hv ▸ fld_guarded gd hr (by omega)).trans (by omega)
  have k2 : fld wd 18 2 = 0x0 := (hv ▸ fld_guarded gd hr (by omega)).trans (by omega)
  have hg : guardOf wd = gd := hv ▸ guardOf_guarded gd hr
  have b_d : bf wd 12 6 = d := hv ▸ bf_guarded gd hr (by omega) (by omega)
  have b_a : bf wd 6 6 = a := hv ▸ bf_guarded gd hr (by omega) (by omega)
  rw [decodeSimt_at 0x22 wd k0 (by decide), simt_22]
  simp [decodeRows, Row.fits, k0, k1, k2, hg, b_d, b_a]
theorem brev (gd : Guard) (d : BitVec 6) (a : BitVec 6) : Statement (.brev gd d a) := by
  have h_d := d.isLt
  have h_a := a.isLt
  intro wd hw
  have h0 : some (word32 (0x2200003 + guardBits gd + d.toNat * 0x1000 + a.toNat * 0x40)) = some wd := hw
  have hv : wd = (word32 (0x2200003 + d.toNat * 0x1000 + a.toNat * 0x40 + guardBits gd)) := (Option.some.inj h0).symm.trans (congrArg word32 (by omega))
  have hr : 0x2200003 + d.toNat * 0x1000 + a.toNat * 0x40 < 2 ^ 27 := by omega
  show decodeSimt wd = _
  have k0 : fld wd 20 7 = 0x22 := (hv ▸ fld_guarded gd hr (by omega)).trans (by omega)
  have k1 : fld wd 0 6 = 0x3 := (hv ▸ fld_guarded gd hr (by omega)).trans (by omega)
  have k2 : fld wd 18 2 = 0x0 := (hv ▸ fld_guarded gd hr (by omega)).trans (by omega)
  have hg : guardOf wd = gd := hv ▸ guardOf_guarded gd hr
  have b_d : bf wd 12 6 = d := hv ▸ bf_guarded gd hr (by omega) (by omega)
  have b_a : bf wd 6 6 = a := hv ▸ bf_guarded gd hr (by omega) (by omega)
  rw [decodeSimt_at 0x22 wd k0 (by decide), simt_22]
  simp [decodeRows, Row.fits, k0, k1, k2, hg, b_d, b_a]
theorem abs (gd : Guard) (d : BitVec 6) (a : BitVec 6) : Statement (.abs gd d a) := by
  have h_d := d.isLt
  have h_a := a.isLt
  intro wd hw
  have h0 : some (word32 (0x2200004 + guardBits gd + d.toNat * 0x1000 + a.toNat * 0x40)) = some wd := hw
  have hv : wd = (word32 (0x2200004 + d.toNat * 0x1000 + a.toNat * 0x40 + guardBits gd)) := (Option.some.inj h0).symm.trans (congrArg word32 (by omega))
  have hr : 0x2200004 + d.toNat * 0x1000 + a.toNat * 0x40 < 2 ^ 27 := by omega
  show decodeSimt wd = _
  have k0 : fld wd 20 7 = 0x22 := (hv ▸ fld_guarded gd hr (by omega)).trans (by omega)
  have k1 : fld wd 0 6 = 0x4 := (hv ▸ fld_guarded gd hr (by omega)).trans (by omega)
  have k2 : fld wd 18 2 = 0x0 := (hv ▸ fld_guarded gd hr (by omega)).trans (by omega)
  have hg : guardOf wd = gd := hv ▸ guardOf_guarded gd hr
  have b_d : bf wd 12 6 = d := hv ▸ bf_guarded gd hr (by omega) (by omega)
  have b_a : bf wd 6 6 = a := hv ▸ bf_guarded gd hr (by omega) (by omega)
  rw [decodeSimt_at 0x22 wd k0 (by decide), simt_22]
  simp [decodeRows, Row.fits, k0, k1, k2, hg, b_d, b_a]
theorem neg (gd : Guard) (d : BitVec 6) (a : BitVec 6) : Statement (.neg gd d a) := by
  have h_d := d.isLt
  have h_a := a.isLt
  intro wd hw
  have h0 : some (word32 (0x2200005 + guardBits gd + d.toNat * 0x1000 + a.toNat * 0x40)) = some wd := hw
  have hv : wd = (word32 (0x2200005 + d.toNat * 0x1000 + a.toNat * 0x40 + guardBits gd)) := (Option.some.inj h0).symm.trans (congrArg word32 (by omega))
  have hr : 0x2200005 + d.toNat * 0x1000 + a.toNat * 0x40 < 2 ^ 27 := by omega
  show decodeSimt wd = _
  have k0 : fld wd 20 7 = 0x22 := (hv ▸ fld_guarded gd hr (by omega)).trans (by omega)
  have k1 : fld wd 0 6 = 0x5 := (hv ▸ fld_guarded gd hr (by omega)).trans (by omega)
  have k2 : fld wd 18 2 = 0x0 := (hv ▸ fld_guarded gd hr (by omega)).trans (by omega)
  have hg : guardOf wd = gd := hv ▸ guardOf_guarded gd hr
  have b_d : bf wd 12 6 = d := hv ▸ bf_guarded gd hr (by omega) (by omega)
  have b_a : bf wd 6 6 = a := hv ▸ bf_guarded gd hr (by omega) (by omega)
  rw [decodeSimt_at 0x22 wd k0 (by decide), simt_22]
  simp [decodeRows, Row.fits, k0, k1, k2, hg, b_d, b_a]
theorem not (gd : Guard) (d : BitVec 6) (a : BitVec 6) : Statement (.not gd d a) := by
  have h_d := d.isLt
  have h_a := a.isLt
  intro wd hw
  have h0 : some (word32 (0x2200006 + guardBits gd + d.toNat * 0x1000 + a.toNat * 0x40)) = some wd := hw
  have hv : wd = (word32 (0x2200006 + d.toNat * 0x1000 + a.toNat * 0x40 + guardBits gd)) := (Option.some.inj h0).symm.trans (congrArg word32 (by omega))
  have hr : 0x2200006 + d.toNat * 0x1000 + a.toNat * 0x40 < 2 ^ 27 := by omega
  show decodeSimt wd = _
  have k0 : fld wd 20 7 = 0x22 := (hv ▸ fld_guarded gd hr (by omega)).trans (by omega)
  have k1 : fld wd 0 6 = 0x6 := (hv ▸ fld_guarded gd hr (by omega)).trans (by omega)
  have k2 : fld wd 18 2 = 0x0 := (hv ▸ fld_guarded gd hr (by omega)).trans (by omega)
  have hg : guardOf wd = gd := hv ▸ guardOf_guarded gd hr
  have b_d : bf wd 12 6 = d := hv ▸ bf_guarded gd hr (by omega) (by omega)
  have b_a : bf wd 6 6 = a := hv ▸ bf_guarded gd hr (by omega) (by omega)
  rw [decodeSimt_at 0x22 wd k0 (by decide), simt_22]
  simp [decodeRows, Row.fits, k0, k1, k2, hg, b_d, b_a]
theorem sext8 (gd : Guard) (d : BitVec 6) (a : BitVec 6) : Statement (.sext8 gd d a) := by
  have h_d := d.isLt
  have h_a := a.isLt
  intro wd hw
  have h0 : some (word32 (0x2200007 + guardBits gd + d.toNat * 0x1000 + a.toNat * 0x40)) = some wd := hw
  have hv : wd = (word32 (0x2200007 + d.toNat * 0x1000 + a.toNat * 0x40 + guardBits gd)) := (Option.some.inj h0).symm.trans (congrArg word32 (by omega))
  have hr : 0x2200007 + d.toNat * 0x1000 + a.toNat * 0x40 < 2 ^ 27 := by omega
  show decodeSimt wd = _
  have k0 : fld wd 20 7 = 0x22 := (hv ▸ fld_guarded gd hr (by omega)).trans (by omega)
  have k1 : fld wd 0 6 = 0x7 := (hv ▸ fld_guarded gd hr (by omega)).trans (by omega)
  have k2 : fld wd 18 2 = 0x0 := (hv ▸ fld_guarded gd hr (by omega)).trans (by omega)
  have hg : guardOf wd = gd := hv ▸ guardOf_guarded gd hr
  have b_d : bf wd 12 6 = d := hv ▸ bf_guarded gd hr (by omega) (by omega)
  have b_a : bf wd 6 6 = a := hv ▸ bf_guarded gd hr (by omega) (by omega)
  rw [decodeSimt_at 0x22 wd k0 (by decide), simt_22]
  simp [decodeRows, Row.fits, k0, k1, k2, hg, b_d, b_a]
theorem sext16 (gd : Guard) (d : BitVec 6) (a : BitVec 6) : Statement (.sext16 gd d a) := by
  have h_d := d.isLt
  have h_a := a.isLt
  intro wd hw
  have h0 : some (word32 (0x2200008 + guardBits gd + d.toNat * 0x1000 + a.toNat * 0x40)) = some wd := hw
  have hv : wd = (word32 (0x2200008 + d.toNat * 0x1000 + a.toNat * 0x40 + guardBits gd)) := (Option.some.inj h0).symm.trans (congrArg word32 (by omega))
  have hr : 0x2200008 + d.toNat * 0x1000 + a.toNat * 0x40 < 2 ^ 27 := by omega
  show decodeSimt wd = _
  have k0 : fld wd 20 7 = 0x22 := (hv ▸ fld_guarded gd hr (by omega)).trans (by omega)
  have k1 : fld wd 0 6 = 0x8 := (hv ▸ fld_guarded gd hr (by omega)).trans (by omega)
  have k2 : fld wd 18 2 = 0x0 := (hv ▸ fld_guarded gd hr (by omega)).trans (by omega)
  have hg : guardOf wd = gd := hv ▸ guardOf_guarded gd hr
  have b_d : bf wd 12 6 = d := hv ▸ bf_guarded gd hr (by omega) (by omega)
  have b_a : bf wd 6 6 = a := hv ▸ bf_guarded gd hr (by omega) (by omega)
  rw [decodeSimt_at 0x22 wd k0 (by decide), simt_22]
  simp [decodeRows, Row.fits, k0, k1, k2, hg, b_d, b_a]
theorem simt_23 : simtRows.filter (Row.op 0x23) =
    [⟨[(20, 7, 0x23), (19, 1, 0x0)], fun w => .bfe (guardOf w) (bf w 18 1) (bf w 12 6) (bf w 6 6) (bf w 0 6)⟩] := rfl
theorem bfe (gd : Guard) (m : BitVec 1) (d : BitVec 6) (a : BitVec 6) (b : BitVec 6) : Statement (.bfe gd m d a b) := by
  have h_m := m.isLt
  have h_d := d.isLt
  have h_a := a.isLt
  have h_b := b.isLt
  intro wd hw
  have h0 : some (word32 (0x2300000 + guardBits gd + m.toNat * 0x40000 + d.toNat * 0x1000 + a.toNat * 0x40 + b.toNat)) = some wd := hw
  have hv : wd = (word32 (0x2300000 + m.toNat * 0x40000 + d.toNat * 0x1000 + a.toNat * 0x40 + b.toNat + guardBits gd)) := (Option.some.inj h0).symm.trans (congrArg word32 (by omega))
  have hr : 0x2300000 + m.toNat * 0x40000 + d.toNat * 0x1000 + a.toNat * 0x40 + b.toNat < 2 ^ 27 := by omega
  show decodeSimt wd = _
  have k0 : fld wd 20 7 = 0x23 := (hv ▸ fld_guarded gd hr (by omega)).trans (by omega)
  have k1 : fld wd 19 1 = 0x0 := (hv ▸ fld_guarded gd hr (by omega)).trans (by omega)
  have hg : guardOf wd = gd := hv ▸ guardOf_guarded gd hr
  have b_m : bf wd 18 1 = m := hv ▸ bf_guarded gd hr (by omega) (by omega)
  have b_d : bf wd 12 6 = d := hv ▸ bf_guarded gd hr (by omega) (by omega)
  have b_a : bf wd 6 6 = a := hv ▸ bf_guarded gd hr (by omega) (by omega)
  have b_b : bf wd 0 6 = b := hv ▸ bf_guarded gd hr (by omega) (by omega)
  rw [decodeSimt_at 0x23 wd k0 (by decide), simt_23]
  simp [decodeRows, Row.fits, k0, k1, hg, b_m, b_d, b_a, b_b]
theorem simt_24 : simtRows.filter (Row.op 0x24) =
    [⟨[(20, 7, 0x24), (18, 2, 0x0)], fun w => .bfi (guardOf w) (bf w 12 6) (bf w 6 6) (bf w 0 6)⟩] := rfl
theorem bfi (gd : Guard) (d : BitVec 6) (a : BitVec 6) (b : BitVec 6) : Statement (.bfi gd d a b) := by
  have h_d := d.isLt
  have h_a := a.isLt
  have h_b := b.isLt
  intro wd hw
  have h0 : some (word32 (0x2400000 + guardBits gd + d.toNat * 0x1000 + a.toNat * 0x40 + b.toNat)) = some wd := hw
  have hv : wd = (word32 (0x2400000 + d.toNat * 0x1000 + a.toNat * 0x40 + b.toNat + guardBits gd)) := (Option.some.inj h0).symm.trans (congrArg word32 (by omega))
  have hr : 0x2400000 + d.toNat * 0x1000 + a.toNat * 0x40 + b.toNat < 2 ^ 27 := by omega
  show decodeSimt wd = _
  have k0 : fld wd 20 7 = 0x24 := (hv ▸ fld_guarded gd hr (by omega)).trans (by omega)
  have k1 : fld wd 18 2 = 0x0 := (hv ▸ fld_guarded gd hr (by omega)).trans (by omega)
  have hg : guardOf wd = gd := hv ▸ guardOf_guarded gd hr
  have b_d : bf wd 12 6 = d := hv ▸ bf_guarded gd hr (by omega) (by omega)
  have b_a : bf wd 6 6 = a := hv ▸ bf_guarded gd hr (by omega) (by omega)
  have b_b : bf wd 0 6 = b := hv ▸ bf_guarded gd hr (by omega) (by omega)
  rw [decodeSimt_at 0x24 wd k0 (by decide), simt_24]
  simp [decodeRows, Row.fits, k0, k1, hg, b_d, b_a, b_b]
theorem simt_25 : simtRows.filter (Row.op 0x25) =
    [⟨[(20, 7, 0x25)], fun w => .setp (guardOf w) (bf w 18 2) (bf w 15 3) (bf w 12 3) (bf w 6 6) (bf w 0 6)⟩] := rfl
theorem setp (gd : Guard) (m : BitVec 2) (c : BitVec 3) (q : BitVec 3) (a : BitVec 6) (b : BitVec 6) : Statement (.setp gd m c q a b) := by
  have h_m := m.isLt
  have h_c := c.isLt
  have h_q := q.isLt
  have h_a := a.isLt
  have h_b := b.isLt
  intro wd hw
  have h0 : some (word32 (0x2500000 + guardBits gd + m.toNat * 0x40000 + c.toNat * 0x8000 + q.toNat * 0x1000 + a.toNat * 0x40 + b.toNat)) = some wd := hw
  have hv : wd = (word32 (0x2500000 + m.toNat * 0x40000 + c.toNat * 0x8000 + q.toNat * 0x1000 + a.toNat * 0x40 + b.toNat + guardBits gd)) := (Option.some.inj h0).symm.trans (congrArg word32 (by omega))
  have hr : 0x2500000 + m.toNat * 0x40000 + c.toNat * 0x8000 + q.toNat * 0x1000 + a.toNat * 0x40 + b.toNat < 2 ^ 27 := by omega
  show decodeSimt wd = _
  have k0 : fld wd 20 7 = 0x25 := (hv ▸ fld_guarded gd hr (by omega)).trans (by omega)
  have hg : guardOf wd = gd := hv ▸ guardOf_guarded gd hr
  have b_m : bf wd 18 2 = m := hv ▸ bf_guarded gd hr (by omega) (by omega)
  have b_c : bf wd 15 3 = c := hv ▸ bf_guarded gd hr (by omega) (by omega)
  have b_q : bf wd 12 3 = q := hv ▸ bf_guarded gd hr (by omega) (by omega)
  have b_a : bf wd 6 6 = a := hv ▸ bf_guarded gd hr (by omega) (by omega)
  have b_b : bf wd 0 6 = b := hv ▸ bf_guarded gd hr (by omega) (by omega)
  rw [decodeSimt_at 0x25 wd k0 (by decide), simt_25]
  simp [decodeRows, Row.fits, k0, hg, b_m, b_c, b_q, b_a, b_b]
theorem simt_26 : simtRows.filter (Row.op 0x26) =
    [⟨[(20, 7, 0x26)], fun w => .setpi (guardOf w) (bf w 17 3) (bf w 14 3) (bf w 8 6) (bf w 0 8)⟩] := rfl
theorem setpi (gd : Guard) (c : BitVec 3) (q : BitVec 3) (a : BitVec 6) (i : BitVec 8) : Statement (.setpi gd c q a i) := by
  have h_c := c.isLt
  have h_q := q.isLt
  have h_a := a.isLt
  have h_i := i.isLt
  intro wd hw
  have h0 : some (word32 (0x2600000 + guardBits gd + c.toNat * 0x20000 + q.toNat * 0x4000 + a.toNat * 0x100 + i.toNat)) = some wd := hw
  have hv : wd = (word32 (0x2600000 + c.toNat * 0x20000 + q.toNat * 0x4000 + a.toNat * 0x100 + i.toNat + guardBits gd)) := (Option.some.inj h0).symm.trans (congrArg word32 (by omega))
  have hr : 0x2600000 + c.toNat * 0x20000 + q.toNat * 0x4000 + a.toNat * 0x100 + i.toNat < 2 ^ 27 := by omega
  show decodeSimt wd = _
  have k0 : fld wd 20 7 = 0x26 := (hv ▸ fld_guarded gd hr (by omega)).trans (by omega)
  have hg : guardOf wd = gd := hv ▸ guardOf_guarded gd hr
  have b_c : bf wd 17 3 = c := hv ▸ bf_guarded gd hr (by omega) (by omega)
  have b_q : bf wd 14 3 = q := hv ▸ bf_guarded gd hr (by omega) (by omega)
  have b_a : bf wd 8 6 = a := hv ▸ bf_guarded gd hr (by omega) (by omega)
  have b_i : bf wd 0 8 = i := hv ▸ bf_guarded gd hr (by omega) (by omega)
  rw [decodeSimt_at 0x26 wd k0 (by decide), simt_26]
  simp [decodeRows, Row.fits, k0, hg, b_c, b_q, b_a, b_i]
theorem simt_27 : simtRows.filter (Row.op 0x27) =
    [⟨[(20, 7, 0x27)], fun w => .sel (guardOf w) (bf w 18 2) (bf w 12 6) (bf w 6 6) (bf w 0 6)⟩] := rfl
theorem sel (gd : Guard) (q : BitVec 2) (d : BitVec 6) (a : BitVec 6) (b : BitVec 6) : Statement (.sel gd q d a b) := by
  have h_q := q.isLt
  have h_d := d.isLt
  have h_a := a.isLt
  have h_b := b.isLt
  intro wd hw
  have h0 : some (word32 (0x2700000 + guardBits gd + q.toNat * 0x40000 + d.toNat * 0x1000 + a.toNat * 0x40 + b.toNat)) = some wd := hw
  have hv : wd = (word32 (0x2700000 + q.toNat * 0x40000 + d.toNat * 0x1000 + a.toNat * 0x40 + b.toNat + guardBits gd)) := (Option.some.inj h0).symm.trans (congrArg word32 (by omega))
  have hr : 0x2700000 + q.toNat * 0x40000 + d.toNat * 0x1000 + a.toNat * 0x40 + b.toNat < 2 ^ 27 := by omega
  show decodeSimt wd = _
  have k0 : fld wd 20 7 = 0x27 := (hv ▸ fld_guarded gd hr (by omega)).trans (by omega)
  have hg : guardOf wd = gd := hv ▸ guardOf_guarded gd hr
  have b_q : bf wd 18 2 = q := hv ▸ bf_guarded gd hr (by omega) (by omega)
  have b_d : bf wd 12 6 = d := hv ▸ bf_guarded gd hr (by omega) (by omega)
  have b_a : bf wd 6 6 = a := hv ▸ bf_guarded gd hr (by omega) (by omega)
  have b_b : bf wd 0 6 = b := hv ▸ bf_guarded gd hr (by omega) (by omega)
  rw [decodeSimt_at 0x27 wd k0 (by decide), simt_27]
  simp [decodeRows, Row.fits, k0, hg, b_q, b_d, b_a, b_b]
theorem simt_28 : simtRows.filter (Row.op 0x28) =
    [⟨[(20, 7, 0x28), (0, 6, 0x0), (18, 2, 0x0)], fun w => .mov (guardOf w) (bf w 12 6) (bf w 6 6)⟩, ⟨[(20, 7, 0x28), (0, 12, 0x1), (18, 2, 0x0)], fun w => .p2v (guardOf w) (bf w 12 6)⟩, ⟨[(20, 7, 0x28), (0, 6, 0x2), (12, 8, 0x0)], fun w => .v2p (guardOf w) (bf w 6 6)⟩] := rfl
theorem mov (gd : Guard) (d : BitVec 6) (a : BitVec 6) : Statement (.mov gd d a) := by
  have h_d := d.isLt
  have h_a := a.isLt
  intro wd hw
  have h0 : some (word32 (0x2800000 + guardBits gd + d.toNat * 0x1000 + a.toNat * 0x40)) = some wd := hw
  have hv : wd = (word32 (0x2800000 + d.toNat * 0x1000 + a.toNat * 0x40 + guardBits gd)) := (Option.some.inj h0).symm.trans (congrArg word32 (by omega))
  have hr : 0x2800000 + d.toNat * 0x1000 + a.toNat * 0x40 < 2 ^ 27 := by omega
  show decodeSimt wd = _
  have k0 : fld wd 20 7 = 0x28 := (hv ▸ fld_guarded gd hr (by omega)).trans (by omega)
  have k1 : fld wd 0 6 = 0x0 := (hv ▸ fld_guarded gd hr (by omega)).trans (by omega)
  have k2 : fld wd 18 2 = 0x0 := (hv ▸ fld_guarded gd hr (by omega)).trans (by omega)
  have hg : guardOf wd = gd := hv ▸ guardOf_guarded gd hr
  have b_d : bf wd 12 6 = d := hv ▸ bf_guarded gd hr (by omega) (by omega)
  have b_a : bf wd 6 6 = a := hv ▸ bf_guarded gd hr (by omega) (by omega)
  rw [decodeSimt_at 0x28 wd k0 (by decide), simt_28]
  simp [decodeRows, Row.fits, k0, k1, k2, hg, b_d, b_a]
theorem p2v (gd : Guard) (d : BitVec 6) : Statement (.p2v gd d) := by
  have h_d := d.isLt
  intro wd hw
  have h0 : some (word32 (0x2800001 + guardBits gd + d.toNat * 0x1000)) = some wd := hw
  have hv : wd = (word32 (0x2800001 + d.toNat * 0x1000 + guardBits gd)) := (Option.some.inj h0).symm.trans (congrArg word32 (by omega))
  have hr : 0x2800001 + d.toNat * 0x1000 < 2 ^ 27 := by omega
  show decodeSimt wd = _
  have k0 : fld wd 20 7 = 0x28 := (hv ▸ fld_guarded gd hr (by omega)).trans (by omega)
  have k1 : fld wd 0 12 = 0x1 := (hv ▸ fld_guarded gd hr (by omega)).trans (by omega)
  have k2 : fld wd 18 2 = 0x0 := (hv ▸ fld_guarded gd hr (by omega)).trans (by omega)
  have x0 : (fld wd 0 6 == 0x0) = false := by
    rw [hv, fld_guarded gd hr (by omega), beq_eq_false_iff_ne]; omega
  have hg : guardOf wd = gd := hv ▸ guardOf_guarded gd hr
  have b_d : bf wd 12 6 = d := hv ▸ bf_guarded gd hr (by omega) (by omega)
  rw [decodeSimt_at 0x28 wd k0 (by decide), simt_28]
  simp [decodeRows, Row.fits, k0, k1, k2, x0, hg, b_d]
theorem v2p (gd : Guard) (a : BitVec 6) : Statement (.v2p gd a) := by
  have h_a := a.isLt
  intro wd hw
  have h0 : some (word32 (0x2800002 + guardBits gd + a.toNat * 0x40)) = some wd := hw
  have hv : wd = (word32 (0x2800002 + a.toNat * 0x40 + guardBits gd)) := (Option.some.inj h0).symm.trans (congrArg word32 (by omega))
  have hr : 0x2800002 + a.toNat * 0x40 < 2 ^ 27 := by omega
  show decodeSimt wd = _
  have k0 : fld wd 20 7 = 0x28 := (hv ▸ fld_guarded gd hr (by omega)).trans (by omega)
  have k1 : fld wd 0 6 = 0x2 := (hv ▸ fld_guarded gd hr (by omega)).trans (by omega)
  have k2 : fld wd 12 8 = 0x0 := (hv ▸ fld_guarded gd hr (by omega)).trans (by omega)
  have x0 : (fld wd 0 12 == 0x1) = false := by
    rw [hv, fld_guarded gd hr (by omega), beq_eq_false_iff_ne]; omega
  have hg : guardOf wd = gd := hv ▸ guardOf_guarded gd hr
  have b_a : bf wd 6 6 = a := hv ▸ bf_guarded gd hr (by omega) (by omega)
  rw [decodeSimt_at 0x28 wd k0 (by decide), simt_28]
  simp [decodeRows, Row.fits, k0, k1, k2, x0, hg, b_a]
theorem simt_29 : simtRows.filter (Row.op 0x29) =
    [⟨[(20, 7, 0x29)], fun w => .movi (guardOf w) (bf w 14 6) (bf w 0 14)⟩] := rfl
theorem movi (gd : Guard) (d : BitVec 6) (i : BitVec 14) : Statement (.movi gd d i) := by
  have h_d := d.isLt
  have h_i := i.isLt
  intro wd hw
  have h0 : some (word32 (0x2900000 + guardBits gd + d.toNat * 0x4000 + i.toNat)) = some wd := hw
  have hv : wd = (word32 (0x2900000 + d.toNat * 0x4000 + i.toNat + guardBits gd)) := (Option.some.inj h0).symm.trans (congrArg word32 (by omega))
  have hr : 0x2900000 + d.toNat * 0x4000 + i.toNat < 2 ^ 27 := by omega
  show decodeSimt wd = _
  have k0 : fld wd 20 7 = 0x29 := (hv ▸ fld_guarded gd hr (by omega)).trans (by omega)
  have hg : guardOf wd = gd := hv ▸ guardOf_guarded gd hr
  have b_d : bf wd 14 6 = d := hv ▸ bf_guarded gd hr (by omega) (by omega)
  have b_i : bf wd 0 14 = i := hv ▸ bf_guarded gd hr (by omega) (by omega)
  rw [decodeSimt_at 0x29 wd k0 (by decide), simt_29]
  simp [decodeRows, Row.fits, k0, hg, b_d, b_i]
theorem simt_2a : simtRows.filter (Row.op 0x2a) =
    [⟨[(20, 7, 0x2a), (18, 2, 0x0)], fun w => .prmt (guardOf w) (bf w 12 6) (bf w 6 6) (bf w 0 6)⟩] := rfl
theorem prmt (gd : Guard) (d : BitVec 6) (a : BitVec 6) (b : BitVec 6) : Statement (.prmt gd d a b) := by
  have h_d := d.isLt
  have h_a := a.isLt
  have h_b := b.isLt
  intro wd hw
  have h0 : some (word32 (0x2a00000 + guardBits gd + d.toNat * 0x1000 + a.toNat * 0x40 + b.toNat)) = some wd := hw
  have hv : wd = (word32 (0x2a00000 + d.toNat * 0x1000 + a.toNat * 0x40 + b.toNat + guardBits gd)) := (Option.some.inj h0).symm.trans (congrArg word32 (by omega))
  have hr : 0x2a00000 + d.toNat * 0x1000 + a.toNat * 0x40 + b.toNat < 2 ^ 27 := by omega
  show decodeSimt wd = _
  have k0 : fld wd 20 7 = 0x2a := (hv ▸ fld_guarded gd hr (by omega)).trans (by omega)
  have k1 : fld wd 18 2 = 0x0 := (hv ▸ fld_guarded gd hr (by omega)).trans (by omega)
  have hg : guardOf wd = gd := hv ▸ guardOf_guarded gd hr
  have b_d : bf wd 12 6 = d := hv ▸ bf_guarded gd hr (by omega) (by omega)
  have b_a : bf wd 6 6 = a := hv ▸ bf_guarded gd hr (by omega) (by omega)
  have b_b : bf wd 0 6 = b := hv ▸ bf_guarded gd hr (by omega) (by omega)
  rw [decodeSimt_at 0x2a wd k0 (by decide), simt_2a]
  simp [decodeRows, Row.fits, k0, k1, hg, b_d, b_a, b_b]
theorem simt_2b : simtRows.filter (Row.op 0x2b) =
    [⟨[(20, 7, 0x2b)], fun w => .nlut (guardOf w) (bf w 18 2) (bf w 12 6) (bf w 6 6) (bf w 0 6)⟩] := rfl
theorem nlut (gd : Guard) (m : BitVec 2) (d : BitVec 6) (a : BitVec 6) (b : BitVec 6) : Statement (.nlut gd m d a b) := by
  have h_m := m.isLt
  have h_d := d.isLt
  have h_a := a.isLt
  have h_b := b.isLt
  intro wd hw
  have h0 : some (word32 (0x2b00000 + guardBits gd + m.toNat * 0x40000 + d.toNat * 0x1000 + a.toNat * 0x40 + b.toNat)) = some wd := hw
  have hv : wd = (word32 (0x2b00000 + m.toNat * 0x40000 + d.toNat * 0x1000 + a.toNat * 0x40 + b.toNat + guardBits gd)) := (Option.some.inj h0).symm.trans (congrArg word32 (by omega))
  have hr : 0x2b00000 + m.toNat * 0x40000 + d.toNat * 0x1000 + a.toNat * 0x40 + b.toNat < 2 ^ 27 := by omega
  show decodeSimt wd = _
  have k0 : fld wd 20 7 = 0x2b := (hv ▸ fld_guarded gd hr (by omega)).trans (by omega)
  have hg : guardOf wd = gd := hv ▸ guardOf_guarded gd hr
  have b_m : bf wd 18 2 = m := hv ▸ bf_guarded gd hr (by omega) (by omega)
  have b_d : bf wd 12 6 = d := hv ▸ bf_guarded gd hr (by omega) (by omega)
  have b_a : bf wd 6 6 = a := hv ▸ bf_guarded gd hr (by omega) (by omega)
  have b_b : bf wd 0 6 = b := hv ▸ bf_guarded gd hr (by omega) (by omega)
  rw [decodeSimt_at 0x2b wd k0 (by decide), simt_2b]
  simp [decodeRows, Row.fits, k0, hg, b_m, b_d, b_a, b_b]
theorem simt_2c : simtRows.filter (Row.op 0x2c) =
    [⟨[(20, 7, 0x2c)], fun w => .shfl (guardOf w) (bf w 18 2) (bf w 12 6) (bf w 6 6) (bf w 0 6)⟩] := rfl
theorem shfl (gd : Guard) (m : BitVec 2) (d : BitVec 6) (a : BitVec 6) (b : BitVec 6) : Statement (.shfl gd m d a b) := by
  have h_m := m.isLt
  have h_d := d.isLt
  have h_a := a.isLt
  have h_b := b.isLt
  intro wd hw
  have h0 : some (word32 (0x2c00000 + guardBits gd + m.toNat * 0x40000 + d.toNat * 0x1000 + a.toNat * 0x40 + b.toNat)) = some wd := hw
  have hv : wd = (word32 (0x2c00000 + m.toNat * 0x40000 + d.toNat * 0x1000 + a.toNat * 0x40 + b.toNat + guardBits gd)) := (Option.some.inj h0).symm.trans (congrArg word32 (by omega))
  have hr : 0x2c00000 + m.toNat * 0x40000 + d.toNat * 0x1000 + a.toNat * 0x40 + b.toNat < 2 ^ 27 := by omega
  show decodeSimt wd = _
  have k0 : fld wd 20 7 = 0x2c := (hv ▸ fld_guarded gd hr (by omega)).trans (by omega)
  have hg : guardOf wd = gd := hv ▸ guardOf_guarded gd hr
  have b_m : bf wd 18 2 = m := hv ▸ bf_guarded gd hr (by omega) (by omega)
  have b_d : bf wd 12 6 = d := hv ▸ bf_guarded gd hr (by omega) (by omega)
  have b_a : bf wd 6 6 = a := hv ▸ bf_guarded gd hr (by omega) (by omega)
  have b_b : bf wd 0 6 = b := hv ▸ bf_guarded gd hr (by omega) (by omega)
  rw [decodeSimt_at 0x2c wd k0 (by decide), simt_2c]
  simp [decodeRows, Row.fits, k0, hg, b_m, b_d, b_a, b_b]
theorem simt_2d : simtRows.filter (Row.op 0x2d) =
    [⟨[(20, 7, 0x2d), (0, 6, 0x0)], fun w => .vote (guardOf w) (bf w 18 2) (bf w 12 6) (bf w 6 6)⟩] := rfl
theorem vote (gd : Guard) (m : BitVec 2) (d : BitVec 6) (a : BitVec 6) : Statement (.vote gd m d a) := by
  have h_m := m.isLt
  have h_d := d.isLt
  have h_a := a.isLt
  intro wd hw
  have h0 : some (word32 (0x2d00000 + guardBits gd + m.toNat * 0x40000 + d.toNat * 0x1000 + a.toNat * 0x40)) = some wd := hw
  have hv : wd = (word32 (0x2d00000 + m.toNat * 0x40000 + d.toNat * 0x1000 + a.toNat * 0x40 + guardBits gd)) := (Option.some.inj h0).symm.trans (congrArg word32 (by omega))
  have hr : 0x2d00000 + m.toNat * 0x40000 + d.toNat * 0x1000 + a.toNat * 0x40 < 2 ^ 27 := by omega
  show decodeSimt wd = _
  have k0 : fld wd 20 7 = 0x2d := (hv ▸ fld_guarded gd hr (by omega)).trans (by omega)
  have k1 : fld wd 0 6 = 0x0 := (hv ▸ fld_guarded gd hr (by omega)).trans (by omega)
  have hg : guardOf wd = gd := hv ▸ guardOf_guarded gd hr
  have b_m : bf wd 18 2 = m := hv ▸ bf_guarded gd hr (by omega) (by omega)
  have b_d : bf wd 12 6 = d := hv ▸ bf_guarded gd hr (by omega) (by omega)
  have b_a : bf wd 6 6 = a := hv ▸ bf_guarded gd hr (by omega) (by omega)
  rw [decodeSimt_at 0x2d wd k0 (by decide), simt_2d]
  simp [decodeRows, Row.fits, k0, k1, hg, b_m, b_d, b_a]
theorem simt_30 : simtRows.filter (Row.op 0x30) =
    [⟨[(20, 7, 0x30)], fun w => .fadd (guardOf w) (bf w 18 2) (bf w 12 6) (bf w 6 6) (bf w 0 6)⟩] := rfl
theorem fadd (gd : Guard) (m : BitVec 2) (d : BitVec 6) (a : BitVec 6) (b : BitVec 6) : Statement (.fadd gd m d a b) := by
  have h_m := m.isLt
  have h_d := d.isLt
  have h_a := a.isLt
  have h_b := b.isLt
  intro wd hw
  have h0 : some (word32 (0x3000000 + guardBits gd + m.toNat * 0x40000 + d.toNat * 0x1000 + a.toNat * 0x40 + b.toNat)) = some wd := hw
  have hv : wd = (word32 (0x3000000 + m.toNat * 0x40000 + d.toNat * 0x1000 + a.toNat * 0x40 + b.toNat + guardBits gd)) := (Option.some.inj h0).symm.trans (congrArg word32 (by omega))
  have hr : 0x3000000 + m.toNat * 0x40000 + d.toNat * 0x1000 + a.toNat * 0x40 + b.toNat < 2 ^ 27 := by omega
  show decodeSimt wd = _
  have k0 : fld wd 20 7 = 0x30 := (hv ▸ fld_guarded gd hr (by omega)).trans (by omega)
  have hg : guardOf wd = gd := hv ▸ guardOf_guarded gd hr
  have b_m : bf wd 18 2 = m := hv ▸ bf_guarded gd hr (by omega) (by omega)
  have b_d : bf wd 12 6 = d := hv ▸ bf_guarded gd hr (by omega) (by omega)
  have b_a : bf wd 6 6 = a := hv ▸ bf_guarded gd hr (by omega) (by omega)
  have b_b : bf wd 0 6 = b := hv ▸ bf_guarded gd hr (by omega) (by omega)
  rw [decodeSimt_at 0x30 wd k0 (by decide), simt_30]
  simp [decodeRows, Row.fits, k0, hg, b_m, b_d, b_a, b_b]
theorem simt_31 : simtRows.filter (Row.op 0x31) =
    [⟨[(20, 7, 0x31)], fun w => .fsub (guardOf w) (bf w 18 2) (bf w 12 6) (bf w 6 6) (bf w 0 6)⟩] := rfl
theorem fsub (gd : Guard) (m : BitVec 2) (d : BitVec 6) (a : BitVec 6) (b : BitVec 6) : Statement (.fsub gd m d a b) := by
  have h_m := m.isLt
  have h_d := d.isLt
  have h_a := a.isLt
  have h_b := b.isLt
  intro wd hw
  have h0 : some (word32 (0x3100000 + guardBits gd + m.toNat * 0x40000 + d.toNat * 0x1000 + a.toNat * 0x40 + b.toNat)) = some wd := hw
  have hv : wd = (word32 (0x3100000 + m.toNat * 0x40000 + d.toNat * 0x1000 + a.toNat * 0x40 + b.toNat + guardBits gd)) := (Option.some.inj h0).symm.trans (congrArg word32 (by omega))
  have hr : 0x3100000 + m.toNat * 0x40000 + d.toNat * 0x1000 + a.toNat * 0x40 + b.toNat < 2 ^ 27 := by omega
  show decodeSimt wd = _
  have k0 : fld wd 20 7 = 0x31 := (hv ▸ fld_guarded gd hr (by omega)).trans (by omega)
  have hg : guardOf wd = gd := hv ▸ guardOf_guarded gd hr
  have b_m : bf wd 18 2 = m := hv ▸ bf_guarded gd hr (by omega) (by omega)
  have b_d : bf wd 12 6 = d := hv ▸ bf_guarded gd hr (by omega) (by omega)
  have b_a : bf wd 6 6 = a := hv ▸ bf_guarded gd hr (by omega) (by omega)
  have b_b : bf wd 0 6 = b := hv ▸ bf_guarded gd hr (by omega) (by omega)
  rw [decodeSimt_at 0x31 wd k0 (by decide), simt_31]
  simp [decodeRows, Row.fits, k0, hg, b_m, b_d, b_a, b_b]
theorem simt_32 : simtRows.filter (Row.op 0x32) =
    [⟨[(20, 7, 0x32)], fun w => .fmul (guardOf w) (bf w 18 2) (bf w 12 6) (bf w 6 6) (bf w 0 6)⟩] := rfl
theorem fmul (gd : Guard) (m : BitVec 2) (d : BitVec 6) (a : BitVec 6) (b : BitVec 6) : Statement (.fmul gd m d a b) := by
  have h_m := m.isLt
  have h_d := d.isLt
  have h_a := a.isLt
  have h_b := b.isLt
  intro wd hw
  have h0 : some (word32 (0x3200000 + guardBits gd + m.toNat * 0x40000 + d.toNat * 0x1000 + a.toNat * 0x40 + b.toNat)) = some wd := hw
  have hv : wd = (word32 (0x3200000 + m.toNat * 0x40000 + d.toNat * 0x1000 + a.toNat * 0x40 + b.toNat + guardBits gd)) := (Option.some.inj h0).symm.trans (congrArg word32 (by omega))
  have hr : 0x3200000 + m.toNat * 0x40000 + d.toNat * 0x1000 + a.toNat * 0x40 + b.toNat < 2 ^ 27 := by omega
  show decodeSimt wd = _
  have k0 : fld wd 20 7 = 0x32 := (hv ▸ fld_guarded gd hr (by omega)).trans (by omega)
  have hg : guardOf wd = gd := hv ▸ guardOf_guarded gd hr
  have b_m : bf wd 18 2 = m := hv ▸ bf_guarded gd hr (by omega) (by omega)
  have b_d : bf wd 12 6 = d := hv ▸ bf_guarded gd hr (by omega) (by omega)
  have b_a : bf wd 6 6 = a := hv ▸ bf_guarded gd hr (by omega) (by omega)
  have b_b : bf wd 0 6 = b := hv ▸ bf_guarded gd hr (by omega) (by omega)
  rw [decodeSimt_at 0x32 wd k0 (by decide), simt_32]
  simp [decodeRows, Row.fits, k0, hg, b_m, b_d, b_a, b_b]
theorem simt_33 : simtRows.filter (Row.op 0x33) =
    [⟨[(20, 7, 0x33)], fun w => .fma (guardOf w) (bf w 18 2) (bf w 12 6) (bf w 6 6) (bf w 0 6)⟩] := rfl
theorem fma (gd : Guard) (m : BitVec 2) (d : BitVec 6) (a : BitVec 6) (b : BitVec 6) : Statement (.fma gd m d a b) := by
  have h_m := m.isLt
  have h_d := d.isLt
  have h_a := a.isLt
  have h_b := b.isLt
  intro wd hw
  have h0 : some (word32 (0x3300000 + guardBits gd + m.toNat * 0x40000 + d.toNat * 0x1000 + a.toNat * 0x40 + b.toNat)) = some wd := hw
  have hv : wd = (word32 (0x3300000 + m.toNat * 0x40000 + d.toNat * 0x1000 + a.toNat * 0x40 + b.toNat + guardBits gd)) := (Option.some.inj h0).symm.trans (congrArg word32 (by omega))
  have hr : 0x3300000 + m.toNat * 0x40000 + d.toNat * 0x1000 + a.toNat * 0x40 + b.toNat < 2 ^ 27 := by omega
  show decodeSimt wd = _
  have k0 : fld wd 20 7 = 0x33 := (hv ▸ fld_guarded gd hr (by omega)).trans (by omega)
  have hg : guardOf wd = gd := hv ▸ guardOf_guarded gd hr
  have b_m : bf wd 18 2 = m := hv ▸ bf_guarded gd hr (by omega) (by omega)
  have b_d : bf wd 12 6 = d := hv ▸ bf_guarded gd hr (by omega) (by omega)
  have b_a : bf wd 6 6 = a := hv ▸ bf_guarded gd hr (by omega) (by omega)
  have b_b : bf wd 0 6 = b := hv ▸ bf_guarded gd hr (by omega) (by omega)
  rw [decodeSimt_at 0x33 wd k0 (by decide), simt_33]
  simp [decodeRows, Row.fits, k0, hg, b_m, b_d, b_a, b_b]
theorem simt_34 : simtRows.filter (Row.op 0x34) =
    [⟨[(20, 7, 0x34), (18, 2, 0x0)], fun w => .fmin (guardOf w) (bf w 12 6) (bf w 6 6) (bf w 0 6)⟩] := rfl
theorem fmin (gd : Guard) (d : BitVec 6) (a : BitVec 6) (b : BitVec 6) : Statement (.fmin gd d a b) := by
  have h_d := d.isLt
  have h_a := a.isLt
  have h_b := b.isLt
  intro wd hw
  have h0 : some (word32 (0x3400000 + guardBits gd + d.toNat * 0x1000 + a.toNat * 0x40 + b.toNat)) = some wd := hw
  have hv : wd = (word32 (0x3400000 + d.toNat * 0x1000 + a.toNat * 0x40 + b.toNat + guardBits gd)) := (Option.some.inj h0).symm.trans (congrArg word32 (by omega))
  have hr : 0x3400000 + d.toNat * 0x1000 + a.toNat * 0x40 + b.toNat < 2 ^ 27 := by omega
  show decodeSimt wd = _
  have k0 : fld wd 20 7 = 0x34 := (hv ▸ fld_guarded gd hr (by omega)).trans (by omega)
  have k1 : fld wd 18 2 = 0x0 := (hv ▸ fld_guarded gd hr (by omega)).trans (by omega)
  have hg : guardOf wd = gd := hv ▸ guardOf_guarded gd hr
  have b_d : bf wd 12 6 = d := hv ▸ bf_guarded gd hr (by omega) (by omega)
  have b_a : bf wd 6 6 = a := hv ▸ bf_guarded gd hr (by omega) (by omega)
  have b_b : bf wd 0 6 = b := hv ▸ bf_guarded gd hr (by omega) (by omega)
  rw [decodeSimt_at 0x34 wd k0 (by decide), simt_34]
  simp [decodeRows, Row.fits, k0, k1, hg, b_d, b_a, b_b]
theorem simt_35 : simtRows.filter (Row.op 0x35) =
    [⟨[(20, 7, 0x35), (18, 2, 0x0)], fun w => .fmax (guardOf w) (bf w 12 6) (bf w 6 6) (bf w 0 6)⟩] := rfl
theorem fmax (gd : Guard) (d : BitVec 6) (a : BitVec 6) (b : BitVec 6) : Statement (.fmax gd d a b) := by
  have h_d := d.isLt
  have h_a := a.isLt
  have h_b := b.isLt
  intro wd hw
  have h0 : some (word32 (0x3500000 + guardBits gd + d.toNat * 0x1000 + a.toNat * 0x40 + b.toNat)) = some wd := hw
  have hv : wd = (word32 (0x3500000 + d.toNat * 0x1000 + a.toNat * 0x40 + b.toNat + guardBits gd)) := (Option.some.inj h0).symm.trans (congrArg word32 (by omega))
  have hr : 0x3500000 + d.toNat * 0x1000 + a.toNat * 0x40 + b.toNat < 2 ^ 27 := by omega
  show decodeSimt wd = _
  have k0 : fld wd 20 7 = 0x35 := (hv ▸ fld_guarded gd hr (by omega)).trans (by omega)
  have k1 : fld wd 18 2 = 0x0 := (hv ▸ fld_guarded gd hr (by omega)).trans (by omega)
  have hg : guardOf wd = gd := hv ▸ guardOf_guarded gd hr
  have b_d : bf wd 12 6 = d := hv ▸ bf_guarded gd hr (by omega) (by omega)
  have b_a : bf wd 6 6 = a := hv ▸ bf_guarded gd hr (by omega) (by omega)
  have b_b : bf wd 0 6 = b := hv ▸ bf_guarded gd hr (by omega) (by omega)
  rw [decodeSimt_at 0x35 wd k0 (by decide), simt_35]
  simp [decodeRows, Row.fits, k0, k1, hg, b_d, b_a, b_b]
theorem simt_36 : simtRows.filter (Row.op 0x36) =
    [⟨[(20, 7, 0x36)], fun w => .fsetp (guardOf w) (bf w 18 2) (bf w 15 3) (bf w 12 3) (bf w 6 6) (bf w 0 6)⟩] := rfl
theorem fsetp (gd : Guard) (m : BitVec 2) (c : BitVec 3) (q : BitVec 3) (a : BitVec 6) (b : BitVec 6) : Statement (.fsetp gd m c q a b) := by
  have h_m := m.isLt
  have h_c := c.isLt
  have h_q := q.isLt
  have h_a := a.isLt
  have h_b := b.isLt
  intro wd hw
  have h0 : some (word32 (0x3600000 + guardBits gd + m.toNat * 0x40000 + c.toNat * 0x8000 + q.toNat * 0x1000 + a.toNat * 0x40 + b.toNat)) = some wd := hw
  have hv : wd = (word32 (0x3600000 + m.toNat * 0x40000 + c.toNat * 0x8000 + q.toNat * 0x1000 + a.toNat * 0x40 + b.toNat + guardBits gd)) := (Option.some.inj h0).symm.trans (congrArg word32 (by omega))
  have hr : 0x3600000 + m.toNat * 0x40000 + c.toNat * 0x8000 + q.toNat * 0x1000 + a.toNat * 0x40 + b.toNat < 2 ^ 27 := by omega
  show decodeSimt wd = _
  have k0 : fld wd 20 7 = 0x36 := (hv ▸ fld_guarded gd hr (by omega)).trans (by omega)
  have hg : guardOf wd = gd := hv ▸ guardOf_guarded gd hr
  have b_m : bf wd 18 2 = m := hv ▸ bf_guarded gd hr (by omega) (by omega)
  have b_c : bf wd 15 3 = c := hv ▸ bf_guarded gd hr (by omega) (by omega)
  have b_q : bf wd 12 3 = q := hv ▸ bf_guarded gd hr (by omega) (by omega)
  have b_a : bf wd 6 6 = a := hv ▸ bf_guarded gd hr (by omega) (by omega)
  have b_b : bf wd 0 6 = b := hv ▸ bf_guarded gd hr (by omega) (by omega)
  rw [decodeSimt_at 0x36 wd k0 (by decide), simt_36]
  simp [decodeRows, Row.fits, k0, hg, b_m, b_c, b_q, b_a, b_b]
theorem simt_37 : simtRows.filter (Row.op 0x37) =
    [⟨[(20, 7, 0x37), (0, 6, 0x0), (18, 2, 0x0)], fun w => .fabs (guardOf w) (bf w 12 6) (bf w 6 6)⟩, ⟨[(20, 7, 0x37), (0, 6, 0x1), (18, 2, 0x0)], fun w => .fneg (guardOf w) (bf w 12 6) (bf w 6 6)⟩, ⟨[(20, 7, 0x37), (0, 6, 0x2)], fun w => .frnd (guardOf w) (bf w 18 2) (bf w 12 6) (bf w 6 6)⟩] := rfl
theorem fabs (gd : Guard) (d : BitVec 6) (a : BitVec 6) : Statement (.fabs gd d a) := by
  have h_d := d.isLt
  have h_a := a.isLt
  intro wd hw
  have h0 : some (word32 (0x3700000 + guardBits gd + d.toNat * 0x1000 + a.toNat * 0x40)) = some wd := hw
  have hv : wd = (word32 (0x3700000 + d.toNat * 0x1000 + a.toNat * 0x40 + guardBits gd)) := (Option.some.inj h0).symm.trans (congrArg word32 (by omega))
  have hr : 0x3700000 + d.toNat * 0x1000 + a.toNat * 0x40 < 2 ^ 27 := by omega
  show decodeSimt wd = _
  have k0 : fld wd 20 7 = 0x37 := (hv ▸ fld_guarded gd hr (by omega)).trans (by omega)
  have k1 : fld wd 0 6 = 0x0 := (hv ▸ fld_guarded gd hr (by omega)).trans (by omega)
  have k2 : fld wd 18 2 = 0x0 := (hv ▸ fld_guarded gd hr (by omega)).trans (by omega)
  have hg : guardOf wd = gd := hv ▸ guardOf_guarded gd hr
  have b_d : bf wd 12 6 = d := hv ▸ bf_guarded gd hr (by omega) (by omega)
  have b_a : bf wd 6 6 = a := hv ▸ bf_guarded gd hr (by omega) (by omega)
  rw [decodeSimt_at 0x37 wd k0 (by decide), simt_37]
  simp [decodeRows, Row.fits, k0, k1, k2, hg, b_d, b_a]
theorem fneg (gd : Guard) (d : BitVec 6) (a : BitVec 6) : Statement (.fneg gd d a) := by
  have h_d := d.isLt
  have h_a := a.isLt
  intro wd hw
  have h0 : some (word32 (0x3700001 + guardBits gd + d.toNat * 0x1000 + a.toNat * 0x40)) = some wd := hw
  have hv : wd = (word32 (0x3700001 + d.toNat * 0x1000 + a.toNat * 0x40 + guardBits gd)) := (Option.some.inj h0).symm.trans (congrArg word32 (by omega))
  have hr : 0x3700001 + d.toNat * 0x1000 + a.toNat * 0x40 < 2 ^ 27 := by omega
  show decodeSimt wd = _
  have k0 : fld wd 20 7 = 0x37 := (hv ▸ fld_guarded gd hr (by omega)).trans (by omega)
  have k1 : fld wd 0 6 = 0x1 := (hv ▸ fld_guarded gd hr (by omega)).trans (by omega)
  have k2 : fld wd 18 2 = 0x0 := (hv ▸ fld_guarded gd hr (by omega)).trans (by omega)
  have hg : guardOf wd = gd := hv ▸ guardOf_guarded gd hr
  have b_d : bf wd 12 6 = d := hv ▸ bf_guarded gd hr (by omega) (by omega)
  have b_a : bf wd 6 6 = a := hv ▸ bf_guarded gd hr (by omega) (by omega)
  rw [decodeSimt_at 0x37 wd k0 (by decide), simt_37]
  simp [decodeRows, Row.fits, k0, k1, k2, hg, b_d, b_a]
theorem frnd (gd : Guard) (m : BitVec 2) (d : BitVec 6) (a : BitVec 6) : Statement (.frnd gd m d a) := by
  have h_m := m.isLt
  have h_d := d.isLt
  have h_a := a.isLt
  intro wd hw
  have h0 : some (word32 (0x3700002 + guardBits gd + m.toNat * 0x40000 + d.toNat * 0x1000 + a.toNat * 0x40)) = some wd := hw
  have hv : wd = (word32 (0x3700002 + m.toNat * 0x40000 + d.toNat * 0x1000 + a.toNat * 0x40 + guardBits gd)) := (Option.some.inj h0).symm.trans (congrArg word32 (by omega))
  have hr : 0x3700002 + m.toNat * 0x40000 + d.toNat * 0x1000 + a.toNat * 0x40 < 2 ^ 27 := by omega
  show decodeSimt wd = _
  have k0 : fld wd 20 7 = 0x37 := (hv ▸ fld_guarded gd hr (by omega)).trans (by omega)
  have k1 : fld wd 0 6 = 0x2 := (hv ▸ fld_guarded gd hr (by omega)).trans (by omega)
  have hg : guardOf wd = gd := hv ▸ guardOf_guarded gd hr
  have b_m : bf wd 18 2 = m := hv ▸ bf_guarded gd hr (by omega) (by omega)
  have b_d : bf wd 12 6 = d := hv ▸ bf_guarded gd hr (by omega) (by omega)
  have b_a : bf wd 6 6 = a := hv ▸ bf_guarded gd hr (by omega) (by omega)
  rw [decodeSimt_at 0x37 wd k0 (by decide), simt_37]
  simp [decodeRows, Row.fits, k0, k1, hg, b_m, b_d, b_a]
theorem simt_38 : simtRows.filter (Row.op 0x38) =
    [⟨[(20, 7, 0x38), (0, 6, 0x0), (18, 2, 0x0)], fun w => .rcp (guardOf w) (bf w 12 6) (bf w 6 6)⟩, ⟨[(20, 7, 0x38), (0, 6, 0x1), (18, 2, 0x0)], fun w => .rsq (guardOf w) (bf w 12 6) (bf w 6 6)⟩, ⟨[(20, 7, 0x38), (0, 6, 0x2), (18, 2, 0x0)], fun w => .sqrt (guardOf w) (bf w 12 6) (bf w 6 6)⟩, ⟨[(20, 7, 0x38), (0, 6, 0x3), (18, 2, 0x0)], fun w => .ex2 (guardOf w) (bf w 12 6) (bf w 6 6)⟩, ⟨[(20, 7, 0x38), (0, 6, 0x4), (18, 2, 0x0)], fun w => .lg2 (guardOf w) (bf w 12 6) (bf w 6 6)⟩, ⟨[(20, 7, 0x38), (0, 6, 0x5), (18, 2, 0x0)], fun w => .sin (guardOf w) (bf w 12 6) (bf w 6 6)⟩, ⟨[(20, 7, 0x38), (0, 6, 0x6), (18, 2, 0x0)], fun w => .cos (guardOf w) (bf w 12 6) (bf w 6 6)⟩] := rfl
theorem rcp (gd : Guard) (d : BitVec 6) (a : BitVec 6) : Statement (.rcp gd d a) := by
  have h_d := d.isLt
  have h_a := a.isLt
  intro wd hw
  have h0 : some (word32 (0x3800000 + guardBits gd + d.toNat * 0x1000 + a.toNat * 0x40)) = some wd := hw
  have hv : wd = (word32 (0x3800000 + d.toNat * 0x1000 + a.toNat * 0x40 + guardBits gd)) := (Option.some.inj h0).symm.trans (congrArg word32 (by omega))
  have hr : 0x3800000 + d.toNat * 0x1000 + a.toNat * 0x40 < 2 ^ 27 := by omega
  show decodeSimt wd = _
  have k0 : fld wd 20 7 = 0x38 := (hv ▸ fld_guarded gd hr (by omega)).trans (by omega)
  have k1 : fld wd 0 6 = 0x0 := (hv ▸ fld_guarded gd hr (by omega)).trans (by omega)
  have k2 : fld wd 18 2 = 0x0 := (hv ▸ fld_guarded gd hr (by omega)).trans (by omega)
  have hg : guardOf wd = gd := hv ▸ guardOf_guarded gd hr
  have b_d : bf wd 12 6 = d := hv ▸ bf_guarded gd hr (by omega) (by omega)
  have b_a : bf wd 6 6 = a := hv ▸ bf_guarded gd hr (by omega) (by omega)
  rw [decodeSimt_at 0x38 wd k0 (by decide), simt_38]
  simp [decodeRows, Row.fits, k0, k1, k2, hg, b_d, b_a]
theorem rsq (gd : Guard) (d : BitVec 6) (a : BitVec 6) : Statement (.rsq gd d a) := by
  have h_d := d.isLt
  have h_a := a.isLt
  intro wd hw
  have h0 : some (word32 (0x3800001 + guardBits gd + d.toNat * 0x1000 + a.toNat * 0x40)) = some wd := hw
  have hv : wd = (word32 (0x3800001 + d.toNat * 0x1000 + a.toNat * 0x40 + guardBits gd)) := (Option.some.inj h0).symm.trans (congrArg word32 (by omega))
  have hr : 0x3800001 + d.toNat * 0x1000 + a.toNat * 0x40 < 2 ^ 27 := by omega
  show decodeSimt wd = _
  have k0 : fld wd 20 7 = 0x38 := (hv ▸ fld_guarded gd hr (by omega)).trans (by omega)
  have k1 : fld wd 0 6 = 0x1 := (hv ▸ fld_guarded gd hr (by omega)).trans (by omega)
  have k2 : fld wd 18 2 = 0x0 := (hv ▸ fld_guarded gd hr (by omega)).trans (by omega)
  have hg : guardOf wd = gd := hv ▸ guardOf_guarded gd hr
  have b_d : bf wd 12 6 = d := hv ▸ bf_guarded gd hr (by omega) (by omega)
  have b_a : bf wd 6 6 = a := hv ▸ bf_guarded gd hr (by omega) (by omega)
  rw [decodeSimt_at 0x38 wd k0 (by decide), simt_38]
  simp [decodeRows, Row.fits, k0, k1, k2, hg, b_d, b_a]
theorem sqrt (gd : Guard) (d : BitVec 6) (a : BitVec 6) : Statement (.sqrt gd d a) := by
  have h_d := d.isLt
  have h_a := a.isLt
  intro wd hw
  have h0 : some (word32 (0x3800002 + guardBits gd + d.toNat * 0x1000 + a.toNat * 0x40)) = some wd := hw
  have hv : wd = (word32 (0x3800002 + d.toNat * 0x1000 + a.toNat * 0x40 + guardBits gd)) := (Option.some.inj h0).symm.trans (congrArg word32 (by omega))
  have hr : 0x3800002 + d.toNat * 0x1000 + a.toNat * 0x40 < 2 ^ 27 := by omega
  show decodeSimt wd = _
  have k0 : fld wd 20 7 = 0x38 := (hv ▸ fld_guarded gd hr (by omega)).trans (by omega)
  have k1 : fld wd 0 6 = 0x2 := (hv ▸ fld_guarded gd hr (by omega)).trans (by omega)
  have k2 : fld wd 18 2 = 0x0 := (hv ▸ fld_guarded gd hr (by omega)).trans (by omega)
  have hg : guardOf wd = gd := hv ▸ guardOf_guarded gd hr
  have b_d : bf wd 12 6 = d := hv ▸ bf_guarded gd hr (by omega) (by omega)
  have b_a : bf wd 6 6 = a := hv ▸ bf_guarded gd hr (by omega) (by omega)
  rw [decodeSimt_at 0x38 wd k0 (by decide), simt_38]
  simp [decodeRows, Row.fits, k0, k1, k2, hg, b_d, b_a]
theorem ex2 (gd : Guard) (d : BitVec 6) (a : BitVec 6) : Statement (.ex2 gd d a) := by
  have h_d := d.isLt
  have h_a := a.isLt
  intro wd hw
  have h0 : some (word32 (0x3800003 + guardBits gd + d.toNat * 0x1000 + a.toNat * 0x40)) = some wd := hw
  have hv : wd = (word32 (0x3800003 + d.toNat * 0x1000 + a.toNat * 0x40 + guardBits gd)) := (Option.some.inj h0).symm.trans (congrArg word32 (by omega))
  have hr : 0x3800003 + d.toNat * 0x1000 + a.toNat * 0x40 < 2 ^ 27 := by omega
  show decodeSimt wd = _
  have k0 : fld wd 20 7 = 0x38 := (hv ▸ fld_guarded gd hr (by omega)).trans (by omega)
  have k1 : fld wd 0 6 = 0x3 := (hv ▸ fld_guarded gd hr (by omega)).trans (by omega)
  have k2 : fld wd 18 2 = 0x0 := (hv ▸ fld_guarded gd hr (by omega)).trans (by omega)
  have hg : guardOf wd = gd := hv ▸ guardOf_guarded gd hr
  have b_d : bf wd 12 6 = d := hv ▸ bf_guarded gd hr (by omega) (by omega)
  have b_a : bf wd 6 6 = a := hv ▸ bf_guarded gd hr (by omega) (by omega)
  rw [decodeSimt_at 0x38 wd k0 (by decide), simt_38]
  simp [decodeRows, Row.fits, k0, k1, k2, hg, b_d, b_a]
theorem lg2 (gd : Guard) (d : BitVec 6) (a : BitVec 6) : Statement (.lg2 gd d a) := by
  have h_d := d.isLt
  have h_a := a.isLt
  intro wd hw
  have h0 : some (word32 (0x3800004 + guardBits gd + d.toNat * 0x1000 + a.toNat * 0x40)) = some wd := hw
  have hv : wd = (word32 (0x3800004 + d.toNat * 0x1000 + a.toNat * 0x40 + guardBits gd)) := (Option.some.inj h0).symm.trans (congrArg word32 (by omega))
  have hr : 0x3800004 + d.toNat * 0x1000 + a.toNat * 0x40 < 2 ^ 27 := by omega
  show decodeSimt wd = _
  have k0 : fld wd 20 7 = 0x38 := (hv ▸ fld_guarded gd hr (by omega)).trans (by omega)
  have k1 : fld wd 0 6 = 0x4 := (hv ▸ fld_guarded gd hr (by omega)).trans (by omega)
  have k2 : fld wd 18 2 = 0x0 := (hv ▸ fld_guarded gd hr (by omega)).trans (by omega)
  have hg : guardOf wd = gd := hv ▸ guardOf_guarded gd hr
  have b_d : bf wd 12 6 = d := hv ▸ bf_guarded gd hr (by omega) (by omega)
  have b_a : bf wd 6 6 = a := hv ▸ bf_guarded gd hr (by omega) (by omega)
  rw [decodeSimt_at 0x38 wd k0 (by decide), simt_38]
  simp [decodeRows, Row.fits, k0, k1, k2, hg, b_d, b_a]
theorem sin (gd : Guard) (d : BitVec 6) (a : BitVec 6) : Statement (.sin gd d a) := by
  have h_d := d.isLt
  have h_a := a.isLt
  intro wd hw
  have h0 : some (word32 (0x3800005 + guardBits gd + d.toNat * 0x1000 + a.toNat * 0x40)) = some wd := hw
  have hv : wd = (word32 (0x3800005 + d.toNat * 0x1000 + a.toNat * 0x40 + guardBits gd)) := (Option.some.inj h0).symm.trans (congrArg word32 (by omega))
  have hr : 0x3800005 + d.toNat * 0x1000 + a.toNat * 0x40 < 2 ^ 27 := by omega
  show decodeSimt wd = _
  have k0 : fld wd 20 7 = 0x38 := (hv ▸ fld_guarded gd hr (by omega)).trans (by omega)
  have k1 : fld wd 0 6 = 0x5 := (hv ▸ fld_guarded gd hr (by omega)).trans (by omega)
  have k2 : fld wd 18 2 = 0x0 := (hv ▸ fld_guarded gd hr (by omega)).trans (by omega)
  have hg : guardOf wd = gd := hv ▸ guardOf_guarded gd hr
  have b_d : bf wd 12 6 = d := hv ▸ bf_guarded gd hr (by omega) (by omega)
  have b_a : bf wd 6 6 = a := hv ▸ bf_guarded gd hr (by omega) (by omega)
  rw [decodeSimt_at 0x38 wd k0 (by decide), simt_38]
  simp [decodeRows, Row.fits, k0, k1, k2, hg, b_d, b_a]
theorem cos (gd : Guard) (d : BitVec 6) (a : BitVec 6) : Statement (.cos gd d a) := by
  have h_d := d.isLt
  have h_a := a.isLt
  intro wd hw
  have h0 : some (word32 (0x3800006 + guardBits gd + d.toNat * 0x1000 + a.toNat * 0x40)) = some wd := hw
  have hv : wd = (word32 (0x3800006 + d.toNat * 0x1000 + a.toNat * 0x40 + guardBits gd)) := (Option.some.inj h0).symm.trans (congrArg word32 (by omega))
  have hr : 0x3800006 + d.toNat * 0x1000 + a.toNat * 0x40 < 2 ^ 27 := by omega
  show decodeSimt wd = _
  have k0 : fld wd 20 7 = 0x38 := (hv ▸ fld_guarded gd hr (by omega)).trans (by omega)
  have k1 : fld wd 0 6 = 0x6 := (hv ▸ fld_guarded gd hr (by omega)).trans (by omega)
  have k2 : fld wd 18 2 = 0x0 := (hv ▸ fld_guarded gd hr (by omega)).trans (by omega)
  have hg : guardOf wd = gd := hv ▸ guardOf_guarded gd hr
  have b_d : bf wd 12 6 = d := hv ▸ bf_guarded gd hr (by omega) (by omega)
  have b_a : bf wd 6 6 = a := hv ▸ bf_guarded gd hr (by omega) (by omega)
  rw [decodeSimt_at 0x38 wd k0 (by decide), simt_38]
  simp [decodeRows, Row.fits, k0, k1, k2, hg, b_d, b_a]
theorem simt_39 : simtRows.filter (Row.op 0x39) =
    [⟨[(20, 7, 0x39)], fun w => .hadd2 (guardOf w) (bf w 18 2) (bf w 12 6) (bf w 6 6) (bf w 0 6)⟩] := rfl
theorem hadd2 (gd : Guard) (m : BitVec 2) (d : BitVec 6) (a : BitVec 6) (b : BitVec 6) : Statement (.hadd2 gd m d a b) := by
  have h_m := m.isLt
  have h_d := d.isLt
  have h_a := a.isLt
  have h_b := b.isLt
  intro wd hw
  have h0 : some (word32 (0x3900000 + guardBits gd + m.toNat * 0x40000 + d.toNat * 0x1000 + a.toNat * 0x40 + b.toNat)) = some wd := hw
  have hv : wd = (word32 (0x3900000 + m.toNat * 0x40000 + d.toNat * 0x1000 + a.toNat * 0x40 + b.toNat + guardBits gd)) := (Option.some.inj h0).symm.trans (congrArg word32 (by omega))
  have hr : 0x3900000 + m.toNat * 0x40000 + d.toNat * 0x1000 + a.toNat * 0x40 + b.toNat < 2 ^ 27 := by omega
  show decodeSimt wd = _
  have k0 : fld wd 20 7 = 0x39 := (hv ▸ fld_guarded gd hr (by omega)).trans (by omega)
  have hg : guardOf wd = gd := hv ▸ guardOf_guarded gd hr
  have b_m : bf wd 18 2 = m := hv ▸ bf_guarded gd hr (by omega) (by omega)
  have b_d : bf wd 12 6 = d := hv ▸ bf_guarded gd hr (by omega) (by omega)
  have b_a : bf wd 6 6 = a := hv ▸ bf_guarded gd hr (by omega) (by omega)
  have b_b : bf wd 0 6 = b := hv ▸ bf_guarded gd hr (by omega) (by omega)
  rw [decodeSimt_at 0x39 wd k0 (by decide), simt_39]
  simp [decodeRows, Row.fits, k0, hg, b_m, b_d, b_a, b_b]
theorem simt_3a : simtRows.filter (Row.op 0x3a) =
    [⟨[(20, 7, 0x3a)], fun w => .hmul2 (guardOf w) (bf w 18 2) (bf w 12 6) (bf w 6 6) (bf w 0 6)⟩] := rfl
theorem hmul2 (gd : Guard) (m : BitVec 2) (d : BitVec 6) (a : BitVec 6) (b : BitVec 6) : Statement (.hmul2 gd m d a b) := by
  have h_m := m.isLt
  have h_d := d.isLt
  have h_a := a.isLt
  have h_b := b.isLt
  intro wd hw
  have h0 : some (word32 (0x3a00000 + guardBits gd + m.toNat * 0x40000 + d.toNat * 0x1000 + a.toNat * 0x40 + b.toNat)) = some wd := hw
  have hv : wd = (word32 (0x3a00000 + m.toNat * 0x40000 + d.toNat * 0x1000 + a.toNat * 0x40 + b.toNat + guardBits gd)) := (Option.some.inj h0).symm.trans (congrArg word32 (by omega))
  have hr : 0x3a00000 + m.toNat * 0x40000 + d.toNat * 0x1000 + a.toNat * 0x40 + b.toNat < 2 ^ 27 := by omega
  show decodeSimt wd = _
  have k0 : fld wd 20 7 = 0x3a := (hv ▸ fld_guarded gd hr (by omega)).trans (by omega)
  have hg : guardOf wd = gd := hv ▸ guardOf_guarded gd hr
  have b_m : bf wd 18 2 = m := hv ▸ bf_guarded gd hr (by omega) (by omega)
  have b_d : bf wd 12 6 = d := hv ▸ bf_guarded gd hr (by omega) (by omega)
  have b_a : bf wd 6 6 = a := hv ▸ bf_guarded gd hr (by omega) (by omega)
  have b_b : bf wd 0 6 = b := hv ▸ bf_guarded gd hr (by omega) (by omega)
  rw [decodeSimt_at 0x3a wd k0 (by decide), simt_3a]
  simp [decodeRows, Row.fits, k0, hg, b_m, b_d, b_a, b_b]
theorem simt_3b : simtRows.filter (Row.op 0x3b) =
    [⟨[(20, 7, 0x3b)], fun w => .hfma2 (guardOf w) (bf w 18 2) (bf w 12 6) (bf w 6 6) (bf w 0 6)⟩] := rfl
theorem hfma2 (gd : Guard) (m : BitVec 2) (d : BitVec 6) (a : BitVec 6) (b : BitVec 6) : Statement (.hfma2 gd m d a b) := by
  have h_m := m.isLt
  have h_d := d.isLt
  have h_a := a.isLt
  have h_b := b.isLt
  intro wd hw
  have h0 : some (word32 (0x3b00000 + guardBits gd + m.toNat * 0x40000 + d.toNat * 0x1000 + a.toNat * 0x40 + b.toNat)) = some wd := hw
  have hv : wd = (word32 (0x3b00000 + m.toNat * 0x40000 + d.toNat * 0x1000 + a.toNat * 0x40 + b.toNat + guardBits gd)) := (Option.some.inj h0).symm.trans (congrArg word32 (by omega))
  have hr : 0x3b00000 + m.toNat * 0x40000 + d.toNat * 0x1000 + a.toNat * 0x40 + b.toNat < 2 ^ 27 := by omega
  show decodeSimt wd = _
  have k0 : fld wd 20 7 = 0x3b := (hv ▸ fld_guarded gd hr (by omega)).trans (by omega)
  have hg : guardOf wd = gd := hv ▸ guardOf_guarded gd hr
  have b_m : bf wd 18 2 = m := hv ▸ bf_guarded gd hr (by omega) (by omega)
  have b_d : bf wd 12 6 = d := hv ▸ bf_guarded gd hr (by omega) (by omega)
  have b_a : bf wd 6 6 = a := hv ▸ bf_guarded gd hr (by omega) (by omega)
  have b_b : bf wd 0 6 = b := hv ▸ bf_guarded gd hr (by omega) (by omega)
  rw [decodeSimt_at 0x3b wd k0 (by decide), simt_3b]
  simp [decodeRows, Row.fits, k0, hg, b_m, b_d, b_a, b_b]
theorem simt_3c : simtRows.filter (Row.op 0x3c) =
    [⟨[(20, 7, 0x3c)], fun w => .hmm2 (guardOf w) (bf w 18 2) (bf w 12 6) (bf w 6 6) (bf w 0 6)⟩] := rfl
theorem hmm2 (gd : Guard) (m : BitVec 2) (d : BitVec 6) (a : BitVec 6) (b : BitVec 6) : Statement (.hmm2 gd m d a b) := by
  have h_m := m.isLt
  have h_d := d.isLt
  have h_a := a.isLt
  have h_b := b.isLt
  intro wd hw
  have h0 : some (word32 (0x3c00000 + guardBits gd + m.toNat * 0x40000 + d.toNat * 0x1000 + a.toNat * 0x40 + b.toNat)) = some wd := hw
  have hv : wd = (word32 (0x3c00000 + m.toNat * 0x40000 + d.toNat * 0x1000 + a.toNat * 0x40 + b.toNat + guardBits gd)) := (Option.some.inj h0).symm.trans (congrArg word32 (by omega))
  have hr : 0x3c00000 + m.toNat * 0x40000 + d.toNat * 0x1000 + a.toNat * 0x40 + b.toNat < 2 ^ 27 := by omega
  show decodeSimt wd = _
  have k0 : fld wd 20 7 = 0x3c := (hv ▸ fld_guarded gd hr (by omega)).trans (by omega)
  have hg : guardOf wd = gd := hv ▸ guardOf_guarded gd hr
  have b_m : bf wd 18 2 = m := hv ▸ bf_guarded gd hr (by omega) (by omega)
  have b_d : bf wd 12 6 = d := hv ▸ bf_guarded gd hr (by omega) (by omega)
  have b_a : bf wd 6 6 = a := hv ▸ bf_guarded gd hr (by omega) (by omega)
  have b_b : bf wd 0 6 = b := hv ▸ bf_guarded gd hr (by omega) (by omega)
  rw [decodeSimt_at 0x3c wd k0 (by decide), simt_3c]
  simp [decodeRows, Row.fits, k0, hg, b_m, b_d, b_a, b_b]
theorem simt_3d : simtRows.filter (Row.op 0x3d) =
    [⟨[(20, 7, 0x3d)], fun w => .cvtf (guardOf w) (bf w 18 2) (bf w 12 6) (bf w 6 6) (bf w 3 3) (bf w 2 1) (bf w 1 1) (bf w 0 1)⟩] := rfl
theorem cvtf (gd : Guard) (m : BitVec 2) (d : BitVec 6) (a : BitVec 6) (f : BitVec 3) (r : BitVec 1) (t : BitVec 1) (w : BitVec 1) : Statement (.cvtf gd m d a f r t w) := by
  have h_m := m.isLt
  have h_d := d.isLt
  have h_a := a.isLt
  have h_f := f.isLt
  have h_r := r.isLt
  have h_t := t.isLt
  have h_w := w.isLt
  intro wd hw
  have h0 : some (word32 (0x3d00000 + guardBits gd + m.toNat * 0x40000 + d.toNat * 0x1000 + a.toNat * 0x40 + f.toNat * 0x8 + r.toNat * 0x4 + t.toNat * 0x2 + w.toNat)) = some wd := hw
  have hv : wd = (word32 (0x3d00000 + m.toNat * 0x40000 + d.toNat * 0x1000 + a.toNat * 0x40 + f.toNat * 0x8 + r.toNat * 0x4 + t.toNat * 0x2 + w.toNat + guardBits gd)) := (Option.some.inj h0).symm.trans (congrArg word32 (by omega))
  have hr : 0x3d00000 + m.toNat * 0x40000 + d.toNat * 0x1000 + a.toNat * 0x40 + f.toNat * 0x8 + r.toNat * 0x4 + t.toNat * 0x2 + w.toNat < 2 ^ 27 := by omega
  show decodeSimt wd = _
  have k0 : fld wd 20 7 = 0x3d := (hv ▸ fld_guarded gd hr (by omega)).trans (by omega)
  have hg : guardOf wd = gd := hv ▸ guardOf_guarded gd hr
  have b_m : bf wd 18 2 = m := hv ▸ bf_guarded gd hr (by omega) (by omega)
  have b_d : bf wd 12 6 = d := hv ▸ bf_guarded gd hr (by omega) (by omega)
  have b_a : bf wd 6 6 = a := hv ▸ bf_guarded gd hr (by omega) (by omega)
  have b_f : bf wd 3 3 = f := hv ▸ bf_guarded gd hr (by omega) (by omega)
  have b_r : bf wd 2 1 = r := hv ▸ bf_guarded gd hr (by omega) (by omega)
  have b_t : bf wd 1 1 = t := hv ▸ bf_guarded gd hr (by omega) (by omega)
  have b_w : bf wd 0 1 = w := hv ▸ bf_guarded gd hr (by omega) (by omega)
  rw [decodeSimt_at 0x3d wd k0 (by decide), simt_3d]
  simp [decodeRows, Row.fits, k0, hg, b_m, b_d, b_a, b_f, b_r, b_t, b_w]
theorem simt_3e : simtRows.filter (Row.op 0x3e) =
    [⟨[(20, 7, 0x3e)], fun w => .cvtp (guardOf w) (bf w 18 2) (bf w 12 6) (bf w 6 6) (bf w 3 3) (bf w 2 1) (bf w 1 1) (bf w 0 1)⟩] := rfl
theorem cvtp (gd : Guard) (m : BitVec 2) (d : BitVec 6) (a : BitVec 6) (f : BitVec 3) (r : BitVec 1) (t : BitVec 1) (h : BitVec 1) : Statement (.cvtp gd m d a f r t h) := by
  have h_m := m.isLt
  have h_d := d.isLt
  have h_a := a.isLt
  have h_f := f.isLt
  have h_r := r.isLt
  have h_t := t.isLt
  have h_h := h.isLt
  intro wd hw
  have h0 : some (word32 (0x3e00000 + guardBits gd + m.toNat * 0x40000 + d.toNat * 0x1000 + a.toNat * 0x40 + f.toNat * 0x8 + r.toNat * 0x4 + t.toNat * 0x2 + h.toNat)) = some wd := hw
  have hv : wd = (word32 (0x3e00000 + m.toNat * 0x40000 + d.toNat * 0x1000 + a.toNat * 0x40 + f.toNat * 0x8 + r.toNat * 0x4 + t.toNat * 0x2 + h.toNat + guardBits gd)) := (Option.some.inj h0).symm.trans (congrArg word32 (by omega))
  have hr : 0x3e00000 + m.toNat * 0x40000 + d.toNat * 0x1000 + a.toNat * 0x40 + f.toNat * 0x8 + r.toNat * 0x4 + t.toNat * 0x2 + h.toNat < 2 ^ 27 := by omega
  show decodeSimt wd = _
  have k0 : fld wd 20 7 = 0x3e := (hv ▸ fld_guarded gd hr (by omega)).trans (by omega)
  have hg : guardOf wd = gd := hv ▸ guardOf_guarded gd hr
  have b_m : bf wd 18 2 = m := hv ▸ bf_guarded gd hr (by omega) (by omega)
  have b_d : bf wd 12 6 = d := hv ▸ bf_guarded gd hr (by omega) (by omega)
  have b_a : bf wd 6 6 = a := hv ▸ bf_guarded gd hr (by omega) (by omega)
  have b_f : bf wd 3 3 = f := hv ▸ bf_guarded gd hr (by omega) (by omega)
  have b_r : bf wd 2 1 = r := hv ▸ bf_guarded gd hr (by omega) (by omega)
  have b_t : bf wd 1 1 = t := hv ▸ bf_guarded gd hr (by omega) (by omega)
  have b_h : bf wd 0 1 = h := hv ▸ bf_guarded gd hr (by omega) (by omega)
  rw [decodeSimt_at 0x3e wd k0 (by decide), simt_3e]
  simp [decodeRows, Row.fits, k0, hg, b_m, b_d, b_a, b_f, b_r, b_t, b_h]
theorem simt_3f : simtRows.filter (Row.op 0x3f) =
    [⟨[(20, 7, 0x3f), (0, 2, 0x0)], fun w => .cvti (guardOf w) (bf w 18 2) (bf w 12 6) (bf w 6 6) (bf w 3 3) (bf w 2 1)⟩] := rfl
theorem cvti (gd : Guard) (m : BitVec 2) (d : BitVec 6) (a : BitVec 6) (c : BitVec 3) (w : BitVec 1) : Statement (.cvti gd m d a c w) := by
  have h_m := m.isLt
  have h_d := d.isLt
  have h_a := a.isLt
  have h_c := c.isLt
  have h_w := w.isLt
  intro wd hw
  have h0 : some (word32 (0x3f00000 + guardBits gd + m.toNat * 0x40000 + d.toNat * 0x1000 + a.toNat * 0x40 + c.toNat * 0x8 + w.toNat * 0x4)) = some wd := hw
  have hv : wd = (word32 (0x3f00000 + m.toNat * 0x40000 + d.toNat * 0x1000 + a.toNat * 0x40 + c.toNat * 0x8 + w.toNat * 0x4 + guardBits gd)) := (Option.some.inj h0).symm.trans (congrArg word32 (by omega))
  have hr : 0x3f00000 + m.toNat * 0x40000 + d.toNat * 0x1000 + a.toNat * 0x40 + c.toNat * 0x8 + w.toNat * 0x4 < 2 ^ 27 := by omega
  show decodeSimt wd = _
  have k0 : fld wd 20 7 = 0x3f := (hv ▸ fld_guarded gd hr (by omega)).trans (by omega)
  have k1 : fld wd 0 2 = 0x0 := (hv ▸ fld_guarded gd hr (by omega)).trans (by omega)
  have hg : guardOf wd = gd := hv ▸ guardOf_guarded gd hr
  have b_m : bf wd 18 2 = m := hv ▸ bf_guarded gd hr (by omega) (by omega)
  have b_d : bf wd 12 6 = d := hv ▸ bf_guarded gd hr (by omega) (by omega)
  have b_a : bf wd 6 6 = a := hv ▸ bf_guarded gd hr (by omega) (by omega)
  have b_c : bf wd 3 3 = c := hv ▸ bf_guarded gd hr (by omega) (by omega)
  have b_w : bf wd 2 1 = w := hv ▸ bf_guarded gd hr (by omega) (by omega)
  rw [decodeSimt_at 0x3f wd k0 (by decide), simt_3f]
  simp [decodeRows, Row.fits, k0, k1, hg, b_m, b_d, b_a, b_c, b_w]
theorem simt_40 : simtRows.filter (Row.op 0x40) =
    [⟨[(20, 7, 0x40), (0, 2, 0x0)], fun w => .mxq (guardOf w) (bf w 18 2) (bf w 12 6) (bf w 6 6) (bf w 3 3) (bf w 2 1)⟩] := rfl
theorem mxq (gd : Guard) (m : BitVec 2) (d : BitVec 6) (a : BitVec 6) (f : BitVec 3) (r : BitVec 1) : Statement (.mxq gd m d a f r) := by
  have h_m := m.isLt
  have h_d := d.isLt
  have h_a := a.isLt
  have h_f := f.isLt
  have h_r := r.isLt
  intro wd hw
  have h0 : some (word32 (0x4000000 + guardBits gd + m.toNat * 0x40000 + d.toNat * 0x1000 + a.toNat * 0x40 + f.toNat * 0x8 + r.toNat * 0x4)) = some wd := hw
  have hv : wd = (word32 (0x4000000 + m.toNat * 0x40000 + d.toNat * 0x1000 + a.toNat * 0x40 + f.toNat * 0x8 + r.toNat * 0x4 + guardBits gd)) := (Option.some.inj h0).symm.trans (congrArg word32 (by omega))
  have hr : 0x4000000 + m.toNat * 0x40000 + d.toNat * 0x1000 + a.toNat * 0x40 + f.toNat * 0x8 + r.toNat * 0x4 < 2 ^ 27 := by omega
  show decodeSimt wd = _
  have k0 : fld wd 20 7 = 0x40 := (hv ▸ fld_guarded gd hr (by omega)).trans (by omega)
  have k1 : fld wd 0 2 = 0x0 := (hv ▸ fld_guarded gd hr (by omega)).trans (by omega)
  have hg : guardOf wd = gd := hv ▸ guardOf_guarded gd hr
  have b_m : bf wd 18 2 = m := hv ▸ bf_guarded gd hr (by omega) (by omega)
  have b_d : bf wd 12 6 = d := hv ▸ bf_guarded gd hr (by omega) (by omega)
  have b_a : bf wd 6 6 = a := hv ▸ bf_guarded gd hr (by omega) (by omega)
  have b_f : bf wd 3 3 = f := hv ▸ bf_guarded gd hr (by omega) (by omega)
  have b_r : bf wd 2 1 = r := hv ▸ bf_guarded gd hr (by omega) (by omega)
  rw [decodeSimt_at 0x40 wd k0 (by decide), simt_40]
  simp [decodeRows, Row.fits, k0, k1, hg, b_m, b_d, b_a, b_f, b_r]
theorem simt_41 : simtRows.filter (Row.op 0x41) =
    [⟨[(20, 7, 0x41), (0, 3, 0x0), (18, 2, 0x0)], fun w => .mxd (guardOf w) (bf w 12 6) (bf w 6 6) (bf w 3 3)⟩] := rfl
theorem mxd (gd : Guard) (d : BitVec 6) (a : BitVec 6) (f : BitVec 3) : Statement (.mxd gd d a f) := by
  have h_d := d.isLt
  have h_a := a.isLt
  have h_f := f.isLt
  intro wd hw
  have h0 : some (word32 (0x4100000 + guardBits gd + d.toNat * 0x1000 + a.toNat * 0x40 + f.toNat * 0x8)) = some wd := hw
  have hv : wd = (word32 (0x4100000 + d.toNat * 0x1000 + a.toNat * 0x40 + f.toNat * 0x8 + guardBits gd)) := (Option.some.inj h0).symm.trans (congrArg word32 (by omega))
  have hr : 0x4100000 + d.toNat * 0x1000 + a.toNat * 0x40 + f.toNat * 0x8 < 2 ^ 27 := by omega
  show decodeSimt wd = _
  have k0 : fld wd 20 7 = 0x41 := (hv ▸ fld_guarded gd hr (by omega)).trans (by omega)
  have k1 : fld wd 0 3 = 0x0 := (hv ▸ fld_guarded gd hr (by omega)).trans (by omega)
  have k2 : fld wd 18 2 = 0x0 := (hv ▸ fld_guarded gd hr (by omega)).trans (by omega)
  have hg : guardOf wd = gd := hv ▸ guardOf_guarded gd hr
  have b_d : bf wd 12 6 = d := hv ▸ bf_guarded gd hr (by omega) (by omega)
  have b_a : bf wd 6 6 = a := hv ▸ bf_guarded gd hr (by omega) (by omega)
  have b_f : bf wd 3 3 = f := hv ▸ bf_guarded gd hr (by omega) (by omega)
  rw [decodeSimt_at 0x41 wd k0 (by decide), simt_41]
  simp [decodeRows, Row.fits, k0, k1, k2, hg, b_d, b_a, b_f]
theorem simt_50 : simtRows.filter (Row.op 0x50) =
    [⟨[(20, 7, 0x50), (12, 2, 0x0)], fun w => .mld (guardOf w) (bf w 19 1) (bf w 18 1) (bf w 15 3) (bf w 14 1) (bf w 6 6) (bf w 0 6)⟩] := rfl
theorem mld (gd : Guard) (l : BitVec 1) (q : BitVec 1) (t : BitVec 3) (x : BitVec 1) (a : BitVec 6) (b : BitVec 6) : Statement (.mld gd l q t x a b) := by
  have h_l := l.isLt
  have h_q := q.isLt
  have h_t := t.isLt
  have h_x := x.isLt
  have h_a := a.isLt
  have h_b := b.isLt
  intro wd hw
  have h0 : some (word32 (0x5000000 + guardBits gd + l.toNat * 0x80000 + q.toNat * 0x40000 + t.toNat * 0x8000 + x.toNat * 0x4000 + a.toNat * 0x40 + b.toNat)) = some wd := hw
  have hv : wd = (word32 (0x5000000 + l.toNat * 0x80000 + q.toNat * 0x40000 + t.toNat * 0x8000 + x.toNat * 0x4000 + a.toNat * 0x40 + b.toNat + guardBits gd)) := (Option.some.inj h0).symm.trans (congrArg word32 (by omega))
  have hr : 0x5000000 + l.toNat * 0x80000 + q.toNat * 0x40000 + t.toNat * 0x8000 + x.toNat * 0x4000 + a.toNat * 0x40 + b.toNat < 2 ^ 27 := by omega
  show decodeSimt wd = _
  have k0 : fld wd 20 7 = 0x50 := (hv ▸ fld_guarded gd hr (by omega)).trans (by omega)
  have k1 : fld wd 12 2 = 0x0 := (hv ▸ fld_guarded gd hr (by omega)).trans (by omega)
  have hg : guardOf wd = gd := hv ▸ guardOf_guarded gd hr
  have b_l : bf wd 19 1 = l := hv ▸ bf_guarded gd hr (by omega) (by omega)
  have b_q : bf wd 18 1 = q := hv ▸ bf_guarded gd hr (by omega) (by omega)
  have b_t : bf wd 15 3 = t := hv ▸ bf_guarded gd hr (by omega) (by omega)
  have b_x : bf wd 14 1 = x := hv ▸ bf_guarded gd hr (by omega) (by omega)
  have b_a : bf wd 6 6 = a := hv ▸ bf_guarded gd hr (by omega) (by omega)
  have b_b : bf wd 0 6 = b := hv ▸ bf_guarded gd hr (by omega) (by omega)
  rw [decodeSimt_at 0x50 wd k0 (by decide), simt_50]
  simp [decodeRows, Row.fits, k0, k1, hg, b_l, b_q, b_t, b_x, b_a, b_b]
theorem simt_51 : simtRows.filter (Row.op 0x51) =
    [⟨[(20, 7, 0x51), (0, 4, 0x0)], fun w => .mma (guardOf w) (bf w 19 1) (bf w 18 1) (bf w 12 6) (bf w 6 6) (bf w 4 2)⟩] := rfl
theorem mma (gd : Guard) (e : BitVec 1) (q : BitVec 1) (d : BitVec 6) (a : BitVec 6) (g : BitVec 2) : Statement (.mma gd e q d a g) := by
  have h_e := e.isLt
  have h_q := q.isLt
  have h_d := d.isLt
  have h_a := a.isLt
  have h_g := g.isLt
  intro wd hw
  have h0 : some (word32 (0x5100000 + guardBits gd + e.toNat * 0x80000 + q.toNat * 0x40000 + d.toNat * 0x1000 + a.toNat * 0x40 + g.toNat * 0x10)) = some wd := hw
  have hv : wd = (word32 (0x5100000 + e.toNat * 0x80000 + q.toNat * 0x40000 + d.toNat * 0x1000 + a.toNat * 0x40 + g.toNat * 0x10 + guardBits gd)) := (Option.some.inj h0).symm.trans (congrArg word32 (by omega))
  have hr : 0x5100000 + e.toNat * 0x80000 + q.toNat * 0x40000 + d.toNat * 0x1000 + a.toNat * 0x40 + g.toNat * 0x10 < 2 ^ 27 := by omega
  show decodeSimt wd = _
  have k0 : fld wd 20 7 = 0x51 := (hv ▸ fld_guarded gd hr (by omega)).trans (by omega)
  have k1 : fld wd 0 4 = 0x0 := (hv ▸ fld_guarded gd hr (by omega)).trans (by omega)
  have hg : guardOf wd = gd := hv ▸ guardOf_guarded gd hr
  have b_e : bf wd 19 1 = e := hv ▸ bf_guarded gd hr (by omega) (by omega)
  have b_q : bf wd 18 1 = q := hv ▸ bf_guarded gd hr (by omega) (by omega)
  have b_d : bf wd 12 6 = d := hv ▸ bf_guarded gd hr (by omega) (by omega)
  have b_a : bf wd 6 6 = a := hv ▸ bf_guarded gd hr (by omega) (by omega)
  have b_g : bf wd 4 2 = g := hv ▸ bf_guarded gd hr (by omega) (by omega)
  rw [decodeSimt_at 0x51 wd k0 (by decide), simt_51]
  simp [decodeRows, Row.fits, k0, k1, hg, b_e, b_q, b_d, b_a, b_g]
theorem simt_52 : simtRows.filter (Row.op 0x52) =
    [⟨[(20, 7, 0x52), (19, 1, 0x0)], fun w => .mmas (guardOf w) (bf w 18 1) (bf w 12 6) (bf w 6 6) (bf w 0 6)⟩] := rfl
theorem mmas (gd : Guard) (q : BitVec 1) (d : BitVec 6) (a : BitVec 6) (b : BitVec 6) : Statement (.mmas gd q d a b) := by
  have h_q := q.isLt
  have h_d := d.isLt
  have h_a := a.isLt
  have h_b := b.isLt
  intro wd hw
  have h0 : some (word32 (0x5200000 + guardBits gd + q.toNat * 0x40000 + d.toNat * 0x1000 + a.toNat * 0x40 + b.toNat)) = some wd := hw
  have hv : wd = (word32 (0x5200000 + q.toNat * 0x40000 + d.toNat * 0x1000 + a.toNat * 0x40 + b.toNat + guardBits gd)) := (Option.some.inj h0).symm.trans (congrArg word32 (by omega))
  have hr : 0x5200000 + q.toNat * 0x40000 + d.toNat * 0x1000 + a.toNat * 0x40 + b.toNat < 2 ^ 27 := by omega
  show decodeSimt wd = _
  have k0 : fld wd 20 7 = 0x52 := (hv ▸ fld_guarded gd hr (by omega)).trans (by omega)
  have k1 : fld wd 19 1 = 0x0 := (hv ▸ fld_guarded gd hr (by omega)).trans (by omega)
  have hg : guardOf wd = gd := hv ▸ guardOf_guarded gd hr
  have b_q : bf wd 18 1 = q := hv ▸ bf_guarded gd hr (by omega) (by omega)
  have b_d : bf wd 12 6 = d := hv ▸ bf_guarded gd hr (by omega) (by omega)
  have b_a : bf wd 6 6 = a := hv ▸ bf_guarded gd hr (by omega) (by omega)
  have b_b : bf wd 0 6 = b := hv ▸ bf_guarded gd hr (by omega) (by omega)
  rw [decodeSimt_at 0x52 wd k0 (by decide), simt_52]
  simp [decodeRows, Row.fits, k0, k1, hg, b_q, b_d, b_a, b_b]
theorem simt_53 : simtRows.filter (Row.op 0x53) =
    [⟨[(20, 7, 0x53), (1, 19, 0x0)], fun w => .mclr (guardOf w) (bf w 0 1)⟩] := rfl
theorem mclr (gd : Guard) (q : BitVec 1) : Statement (.mclr gd q) := by
  have h_q := q.isLt
  intro wd hw
  have h0 : some (word32 (0x5300000 + guardBits gd + q.toNat)) = some wd := hw
  have hv : wd = (word32 (0x5300000 + q.toNat + guardBits gd)) := (Option.some.inj h0).symm.trans (congrArg word32 (by omega))
  have hr : 0x5300000 + q.toNat < 2 ^ 27 := by omega
  show decodeSimt wd = _
  have k0 : fld wd 20 7 = 0x53 := (hv ▸ fld_guarded gd hr (by omega)).trans (by omega)
  have k1 : fld wd 1 19 = 0x0 := (hv ▸ fld_guarded gd hr (by omega)).trans (by omega)
  have hg : guardOf wd = gd := hv ▸ guardOf_guarded gd hr
  have b_q : bf wd 0 1 = q := hv ▸ bf_guarded gd hr (by omega) (by omega)
  rw [decodeSimt_at 0x53 wd k0 (by decide), simt_53]
  simp [decodeRows, Row.fits, k0, k1, hg, b_q]
theorem simt_54 : simtRows.filter (Row.op 0x54) =
    [⟨[(20, 7, 0x54), (1, 11, 0x0)], fun w => .mrd (guardOf w) (bf w 18 2) (bf w 12 6) (bf w 0 1)⟩] := rfl
theorem mrd (gd : Guard) (m : BitVec 2) (d : BitVec 6) (q : BitVec 1) : Statement (.mrd gd m d q) := by
  have h_m := m.isLt
  have h_d := d.isLt
  have h_q := q.isLt
  intro wd hw
  have h0 : some (word32 (0x5400000 + guardBits gd + m.toNat * 0x40000 + d.toNat * 0x1000 + q.toNat)) = some wd := hw
  have hv : wd = (word32 (0x5400000 + m.toNat * 0x40000 + d.toNat * 0x1000 + q.toNat + guardBits gd)) := (Option.some.inj h0).symm.trans (congrArg word32 (by omega))
  have hr : 0x5400000 + m.toNat * 0x40000 + d.toNat * 0x1000 + q.toNat < 2 ^ 27 := by omega
  show decodeSimt wd = _
  have k0 : fld wd 20 7 = 0x54 := (hv ▸ fld_guarded gd hr (by omega)).trans (by omega)
  have k1 : fld wd 1 11 = 0x0 := (hv ▸ fld_guarded gd hr (by omega)).trans (by omega)
  have hg : guardOf wd = gd := hv ▸ guardOf_guarded gd hr
  have b_m : bf wd 18 2 = m := hv ▸ bf_guarded gd hr (by omega) (by omega)
  have b_d : bf wd 12 6 = d := hv ▸ bf_guarded gd hr (by omega) (by omega)
  have b_q : bf wd 0 1 = q := hv ▸ bf_guarded gd hr (by omega) (by omega)
  rw [decodeSimt_at 0x54 wd k0 (by decide), simt_54]
  simp [decodeRows, Row.fits, k0, k1, hg, b_m, b_d, b_q]
theorem simt_5c : simtRows.filter (Row.op 0x5c) =
    [⟨[(20, 7, 0x5c)], fun w => .ld (guardOf w) (bf w 17 3) (bf w 11 6) (bf w 5 6) (bf w 0 5)⟩] := rfl
theorem ld (gd : Guard) (z : BitVec 3) (d : BitVec 6) (a : BitVec 6) (i : BitVec 5) : Statement (.ld gd z d a i) := by
  have h_z := z.isLt
  have h_d := d.isLt
  have h_a := a.isLt
  have h_i := i.isLt
  intro wd hw
  have h0 : some (word32 (0x5c00000 + guardBits gd + z.toNat * 0x20000 + d.toNat * 0x800 + a.toNat * 0x20 + i.toNat)) = some wd := hw
  have hv : wd = (word32 (0x5c00000 + z.toNat * 0x20000 + d.toNat * 0x800 + a.toNat * 0x20 + i.toNat + guardBits gd)) := (Option.some.inj h0).symm.trans (congrArg word32 (by omega))
  have hr : 0x5c00000 + z.toNat * 0x20000 + d.toNat * 0x800 + a.toNat * 0x20 + i.toNat < 2 ^ 27 := by omega
  show decodeSimt wd = _
  have k0 : fld wd 20 7 = 0x5c := (hv ▸ fld_guarded gd hr (by omega)).trans (by omega)
  have hg : guardOf wd = gd := hv ▸ guardOf_guarded gd hr
  have b_z : bf wd 17 3 = z := hv ▸ bf_guarded gd hr (by omega) (by omega)
  have b_d : bf wd 11 6 = d := hv ▸ bf_guarded gd hr (by omega) (by omega)
  have b_a : bf wd 5 6 = a := hv ▸ bf_guarded gd hr (by omega) (by omega)
  have b_i : bf wd 0 5 = i := hv ▸ bf_guarded gd hr (by omega) (by omega)
  rw [decodeSimt_at 0x5c wd k0 (by decide), simt_5c]
  simp [decodeRows, Row.fits, k0, hg, b_z, b_d, b_a, b_i]
theorem simt_5d : simtRows.filter (Row.op 0x5d) =
    [⟨[(20, 7, 0x5d)], fun w => .st (guardOf w) (bf w 17 3) (bf w 11 6) (bf w 5 6) (bf w 0 5)⟩] := rfl
theorem st (gd : Guard) (z : BitVec 3) (d : BitVec 6) (a : BitVec 6) (i : BitVec 5) : Statement (.st gd z d a i) := by
  have h_z := z.isLt
  have h_d := d.isLt
  have h_a := a.isLt
  have h_i := i.isLt
  intro wd hw
  have h0 : some (word32 (0x5d00000 + guardBits gd + z.toNat * 0x20000 + d.toNat * 0x800 + a.toNat * 0x20 + i.toNat)) = some wd := hw
  have hv : wd = (word32 (0x5d00000 + z.toNat * 0x20000 + d.toNat * 0x800 + a.toNat * 0x20 + i.toNat + guardBits gd)) := (Option.some.inj h0).symm.trans (congrArg word32 (by omega))
  have hr : 0x5d00000 + z.toNat * 0x20000 + d.toNat * 0x800 + a.toNat * 0x20 + i.toNat < 2 ^ 27 := by omega
  show decodeSimt wd = _
  have k0 : fld wd 20 7 = 0x5d := (hv ▸ fld_guarded gd hr (by omega)).trans (by omega)
  have hg : guardOf wd = gd := hv ▸ guardOf_guarded gd hr
  have b_z : bf wd 17 3 = z := hv ▸ bf_guarded gd hr (by omega) (by omega)
  have b_d : bf wd 11 6 = d := hv ▸ bf_guarded gd hr (by omega) (by omega)
  have b_a : bf wd 5 6 = a := hv ▸ bf_guarded gd hr (by omega) (by omega)
  have b_i : bf wd 0 5 = i := hv ▸ bf_guarded gd hr (by omega) (by omega)
  rw [decodeSimt_at 0x5d wd k0 (by decide), simt_5d]
  simp [decodeRows, Row.fits, k0, hg, b_z, b_d, b_a, b_i]
theorem simt_5e : simtRows.filter (Row.op 0x5e) =
    [⟨[(20, 7, 0x5e)], fun w => .lda (guardOf w) (bf w 17 3) (bf w 11 6) (bf w 5 6) (bf w 0 5)⟩] := rfl
theorem lda (gd : Guard) (z : BitVec 3) (d : BitVec 6) (a : BitVec 6) (i : BitVec 5) : Statement (.lda gd z d a i) := by
  have h_z := z.isLt
  have h_d := d.isLt
  have h_a := a.isLt
  have h_i := i.isLt
  intro wd hw
  have h0 : some (word32 (0x5e00000 + guardBits gd + z.toNat * 0x20000 + d.toNat * 0x800 + a.toNat * 0x20 + i.toNat)) = some wd := hw
  have hv : wd = (word32 (0x5e00000 + z.toNat * 0x20000 + d.toNat * 0x800 + a.toNat * 0x20 + i.toNat + guardBits gd)) := (Option.some.inj h0).symm.trans (congrArg word32 (by omega))
  have hr : 0x5e00000 + z.toNat * 0x20000 + d.toNat * 0x800 + a.toNat * 0x20 + i.toNat < 2 ^ 27 := by omega
  show decodeSimt wd = _
  have k0 : fld wd 20 7 = 0x5e := (hv ▸ fld_guarded gd hr (by omega)).trans (by omega)
  have hg : guardOf wd = gd := hv ▸ guardOf_guarded gd hr
  have b_z : bf wd 17 3 = z := hv ▸ bf_guarded gd hr (by omega) (by omega)
  have b_d : bf wd 11 6 = d := hv ▸ bf_guarded gd hr (by omega) (by omega)
  have b_a : bf wd 5 6 = a := hv ▸ bf_guarded gd hr (by omega) (by omega)
  have b_i : bf wd 0 5 = i := hv ▸ bf_guarded gd hr (by omega) (by omega)
  rw [decodeSimt_at 0x5e wd k0 (by decide), simt_5e]
  simp [decodeRows, Row.fits, k0, hg, b_z, b_d, b_a, b_i]
theorem simt_5f : simtRows.filter (Row.op 0x5f) =
    [⟨[(20, 7, 0x5f)], fun w => .stl (guardOf w) (bf w 17 3) (bf w 11 6) (bf w 5 6) (bf w 0 5)⟩] := rfl
theorem stl (gd : Guard) (z : BitVec 3) (d : BitVec 6) (a : BitVec 6) (i : BitVec 5) : Statement (.stl gd z d a i) := by
  have h_z := z.isLt
  have h_d := d.isLt
  have h_a := a.isLt
  have h_i := i.isLt
  intro wd hw
  have h0 : some (word32 (0x5f00000 + guardBits gd + z.toNat * 0x20000 + d.toNat * 0x800 + a.toNat * 0x20 + i.toNat)) = some wd := hw
  have hv : wd = (word32 (0x5f00000 + z.toNat * 0x20000 + d.toNat * 0x800 + a.toNat * 0x20 + i.toNat + guardBits gd)) := (Option.some.inj h0).symm.trans (congrArg word32 (by omega))
  have hr : 0x5f00000 + z.toNat * 0x20000 + d.toNat * 0x800 + a.toNat * 0x20 + i.toNat < 2 ^ 27 := by omega
  show decodeSimt wd = _
  have k0 : fld wd 20 7 = 0x5f := (hv ▸ fld_guarded gd hr (by omega)).trans (by omega)
  have hg : guardOf wd = gd := hv ▸ guardOf_guarded gd hr
  have b_z : bf wd 17 3 = z := hv ▸ bf_guarded gd hr (by omega) (by omega)
  have b_d : bf wd 11 6 = d := hv ▸ bf_guarded gd hr (by omega) (by omega)
  have b_a : bf wd 5 6 = a := hv ▸ bf_guarded gd hr (by omega) (by omega)
  have b_i : bf wd 0 5 = i := hv ▸ bf_guarded gd hr (by omega) (by omega)
  rw [decodeSimt_at 0x5f wd k0 (by decide), simt_5f]
  simp [decodeRows, Row.fits, k0, hg, b_z, b_d, b_a, b_i]
theorem simt_60 : simtRows.filter (Row.op 0x60) =
    [⟨[(20, 7, 0x60)], fun w => .ldf (guardOf w) (bf w 17 3) (bf w 11 6) (bf w 5 6) (bf w 0 5)⟩] := rfl
theorem ldf (gd : Guard) (z : BitVec 3) (d : BitVec 6) (a : BitVec 6) (i : BitVec 5) : Statement (.ldf gd z d a i) := by
  have h_z := z.isLt
  have h_d := d.isLt
  have h_a := a.isLt
  have h_i := i.isLt
  intro wd hw
  have h0 : some (word32 (0x6000000 + guardBits gd + z.toNat * 0x20000 + d.toNat * 0x800 + a.toNat * 0x20 + i.toNat)) = some wd := hw
  have hv : wd = (word32 (0x6000000 + z.toNat * 0x20000 + d.toNat * 0x800 + a.toNat * 0x20 + i.toNat + guardBits gd)) := (Option.some.inj h0).symm.trans (congrArg word32 (by omega))
  have hr : 0x6000000 + z.toNat * 0x20000 + d.toNat * 0x800 + a.toNat * 0x20 + i.toNat < 2 ^ 27 := by omega
  show decodeSimt wd = _
  have k0 : fld wd 20 7 = 0x60 := (hv ▸ fld_guarded gd hr (by omega)).trans (by omega)
  have hg : guardOf wd = gd := hv ▸ guardOf_guarded gd hr
  have b_z : bf wd 17 3 = z := hv ▸ bf_guarded gd hr (by omega) (by omega)
  have b_d : bf wd 11 6 = d := hv ▸ bf_guarded gd hr (by omega) (by omega)
  have b_a : bf wd 5 6 = a := hv ▸ bf_guarded gd hr (by omega) (by omega)
  have b_i : bf wd 0 5 = i := hv ▸ bf_guarded gd hr (by omega) (by omega)
  rw [decodeSimt_at 0x60 wd k0 (by decide), simt_60]
  simp [decodeRows, Row.fits, k0, hg, b_z, b_d, b_a, b_i]
theorem simt_61 : simtRows.filter (Row.op 0x61) =
    [⟨[(20, 7, 0x61)], fun w => .lde (guardOf w) (bf w 17 3) (bf w 11 6) (bf w 5 6) (bf w 0 5)⟩] := rfl
theorem lde (gd : Guard) (z : BitVec 3) (d : BitVec 6) (a : BitVec 6) (i : BitVec 5) : Statement (.lde gd z d a i) := by
  have h_z := z.isLt
  have h_d := d.isLt
  have h_a := a.isLt
  have h_i := i.isLt
  intro wd hw
  have h0 : some (word32 (0x6100000 + guardBits gd + z.toNat * 0x20000 + d.toNat * 0x800 + a.toNat * 0x20 + i.toNat)) = some wd := hw
  have hv : wd = (word32 (0x6100000 + z.toNat * 0x20000 + d.toNat * 0x800 + a.toNat * 0x20 + i.toNat + guardBits gd)) := (Option.some.inj h0).symm.trans (congrArg word32 (by omega))
  have hr : 0x6100000 + z.toNat * 0x20000 + d.toNat * 0x800 + a.toNat * 0x20 + i.toNat < 2 ^ 27 := by omega
  show decodeSimt wd = _
  have k0 : fld wd 20 7 = 0x61 := (hv ▸ fld_guarded gd hr (by omega)).trans (by omega)
  have hg : guardOf wd = gd := hv ▸ guardOf_guarded gd hr
  have b_z : bf wd 17 3 = z := hv ▸ bf_guarded gd hr (by omega) (by omega)
  have b_d : bf wd 11 6 = d := hv ▸ bf_guarded gd hr (by omega) (by omega)
  have b_a : bf wd 5 6 = a := hv ▸ bf_guarded gd hr (by omega) (by omega)
  have b_i : bf wd 0 5 = i := hv ▸ bf_guarded gd hr (by omega) (by omega)
  rw [decodeSimt_at 0x61 wd k0 (by decide), simt_61]
  simp [decodeRows, Row.fits, k0, hg, b_z, b_d, b_a, b_i]
theorem simt_62 : simtRows.filter (Row.op 0x62) =
    [⟨[(20, 7, 0x62)], fun w => .stf (guardOf w) (bf w 17 3) (bf w 11 6) (bf w 5 6) (bf w 0 5)⟩] := rfl
theorem stf (gd : Guard) (z : BitVec 3) (d : BitVec 6) (a : BitVec 6) (i : BitVec 5) : Statement (.stf gd z d a i) := by
  have h_z := z.isLt
  have h_d := d.isLt
  have h_a := a.isLt
  have h_i := i.isLt
  intro wd hw
  have h0 : some (word32 (0x6200000 + guardBits gd + z.toNat * 0x20000 + d.toNat * 0x800 + a.toNat * 0x20 + i.toNat)) = some wd := hw
  have hv : wd = (word32 (0x6200000 + z.toNat * 0x20000 + d.toNat * 0x800 + a.toNat * 0x20 + i.toNat + guardBits gd)) := (Option.some.inj h0).symm.trans (congrArg word32 (by omega))
  have hr : 0x6200000 + z.toNat * 0x20000 + d.toNat * 0x800 + a.toNat * 0x20 + i.toNat < 2 ^ 27 := by omega
  show decodeSimt wd = _
  have k0 : fld wd 20 7 = 0x62 := (hv ▸ fld_guarded gd hr (by omega)).trans (by omega)
  have hg : guardOf wd = gd := hv ▸ guardOf_guarded gd hr
  have b_z : bf wd 17 3 = z := hv ▸ bf_guarded gd hr (by omega) (by omega)
  have b_d : bf wd 11 6 = d := hv ▸ bf_guarded gd hr (by omega) (by omega)
  have b_a : bf wd 5 6 = a := hv ▸ bf_guarded gd hr (by omega) (by omega)
  have b_i : bf wd 0 5 = i := hv ▸ bf_guarded gd hr (by omega) (by omega)
  rw [decodeSimt_at 0x62 wd k0 (by decide), simt_62]
  simp [decodeRows, Row.fits, k0, hg, b_z, b_d, b_a, b_i]
theorem simt_63 : simtRows.filter (Row.op 0x63) =
    [⟨[(20, 7, 0x63)], fun w => .sto (guardOf w) (bf w 17 3) (bf w 11 6) (bf w 5 6) (bf w 0 5)⟩] := rfl
theorem sto (gd : Guard) (z : BitVec 3) (d : BitVec 6) (a : BitVec 6) (i : BitVec 5) : Statement (.sto gd z d a i) := by
  have h_z := z.isLt
  have h_d := d.isLt
  have h_a := a.isLt
  have h_i := i.isLt
  intro wd hw
  have h0 : some (word32 (0x6300000 + guardBits gd + z.toNat * 0x20000 + d.toNat * 0x800 + a.toNat * 0x20 + i.toNat)) = some wd := hw
  have hv : wd = (word32 (0x6300000 + z.toNat * 0x20000 + d.toNat * 0x800 + a.toNat * 0x20 + i.toNat + guardBits gd)) := (Option.some.inj h0).symm.trans (congrArg word32 (by omega))
  have hr : 0x6300000 + z.toNat * 0x20000 + d.toNat * 0x800 + a.toNat * 0x20 + i.toNat < 2 ^ 27 := by omega
  show decodeSimt wd = _
  have k0 : fld wd 20 7 = 0x63 := (hv ▸ fld_guarded gd hr (by omega)).trans (by omega)
  have hg : guardOf wd = gd := hv ▸ guardOf_guarded gd hr
  have b_z : bf wd 17 3 = z := hv ▸ bf_guarded gd hr (by omega) (by omega)
  have b_d : bf wd 11 6 = d := hv ▸ bf_guarded gd hr (by omega) (by omega)
  have b_a : bf wd 5 6 = a := hv ▸ bf_guarded gd hr (by omega) (by omega)
  have b_i : bf wd 0 5 = i := hv ▸ bf_guarded gd hr (by omega) (by omega)
  rw [decodeSimt_at 0x63 wd k0 (by decide), simt_63]
  simp [decodeRows, Row.fits, k0, hg, b_z, b_d, b_a, b_i]
theorem simt_64 : simtRows.filter (Row.op 0x64) =
    [⟨[(20, 7, 0x64), (3, 3, 0x0), (12, 8, 0x0)], fun w => .sete (guardOf w) (bf w 6 6) (bf w 0 3)⟩, ⟨[(20, 7, 0x64), (3, 3, 0x0), (12, 8, 0x40)], fun w => .setf (guardOf w) (bf w 6 6) (bf w 0 3)⟩, ⟨[(20, 7, 0x64), (3, 3, 0x0), (18, 2, 0x2)], fun w => .tagrd (guardOf w) (bf w 12 6) (bf w 6 6) (bf w 0 3)⟩] := rfl
theorem sete (gd : Guard) (a : BitVec 6) (z : BitVec 3) : Statement (.sete gd a z) := by
  have h_a := a.isLt
  have h_z := z.isLt
  intro wd hw
  have h0 : some (word32 (0x6400000 + guardBits gd + a.toNat * 0x40 + z.toNat)) = some wd := hw
  have hv : wd = (word32 (0x6400000 + a.toNat * 0x40 + z.toNat + guardBits gd)) := (Option.some.inj h0).symm.trans (congrArg word32 (by omega))
  have hr : 0x6400000 + a.toNat * 0x40 + z.toNat < 2 ^ 27 := by omega
  show decodeSimt wd = _
  have k0 : fld wd 20 7 = 0x64 := (hv ▸ fld_guarded gd hr (by omega)).trans (by omega)
  have k1 : fld wd 3 3 = 0x0 := (hv ▸ fld_guarded gd hr (by omega)).trans (by omega)
  have k2 : fld wd 12 8 = 0x0 := (hv ▸ fld_guarded gd hr (by omega)).trans (by omega)
  have hg : guardOf wd = gd := hv ▸ guardOf_guarded gd hr
  have b_a : bf wd 6 6 = a := hv ▸ bf_guarded gd hr (by omega) (by omega)
  have b_z : bf wd 0 3 = z := hv ▸ bf_guarded gd hr (by omega) (by omega)
  rw [decodeSimt_at 0x64 wd k0 (by decide), simt_64]
  simp [decodeRows, Row.fits, k0, k1, k2, hg, b_a, b_z]
theorem setf (gd : Guard) (a : BitVec 6) (z : BitVec 3) : Statement (.setf gd a z) := by
  have h_a := a.isLt
  have h_z := z.isLt
  intro wd hw
  have h0 : some (word32 (0x6440000 + guardBits gd + a.toNat * 0x40 + z.toNat)) = some wd := hw
  have hv : wd = (word32 (0x6440000 + a.toNat * 0x40 + z.toNat + guardBits gd)) := (Option.some.inj h0).symm.trans (congrArg word32 (by omega))
  have hr : 0x6440000 + a.toNat * 0x40 + z.toNat < 2 ^ 27 := by omega
  show decodeSimt wd = _
  have k0 : fld wd 20 7 = 0x64 := (hv ▸ fld_guarded gd hr (by omega)).trans (by omega)
  have k1 : fld wd 3 3 = 0x0 := (hv ▸ fld_guarded gd hr (by omega)).trans (by omega)
  have k2 : fld wd 12 8 = 0x40 := (hv ▸ fld_guarded gd hr (by omega)).trans (by omega)
  have hg : guardOf wd = gd := hv ▸ guardOf_guarded gd hr
  have b_a : bf wd 6 6 = a := hv ▸ bf_guarded gd hr (by omega) (by omega)
  have b_z : bf wd 0 3 = z := hv ▸ bf_guarded gd hr (by omega) (by omega)
  rw [decodeSimt_at 0x64 wd k0 (by decide), simt_64]
  simp [decodeRows, Row.fits, k0, k1, k2, hg, b_a, b_z]
theorem tagrd (gd : Guard) (d : BitVec 6) (a : BitVec 6) (z : BitVec 3) : Statement (.tagrd gd d a z) := by
  have h_d := d.isLt
  have h_a := a.isLt
  have h_z := z.isLt
  intro wd hw
  have h0 : some (word32 (0x6480000 + guardBits gd + d.toNat * 0x1000 + a.toNat * 0x40 + z.toNat)) = some wd := hw
  have hv : wd = (word32 (0x6480000 + d.toNat * 0x1000 + a.toNat * 0x40 + z.toNat + guardBits gd)) := (Option.some.inj h0).symm.trans (congrArg word32 (by omega))
  have hr : 0x6480000 + d.toNat * 0x1000 + a.toNat * 0x40 + z.toNat < 2 ^ 27 := by omega
  show decodeSimt wd = _
  have k0 : fld wd 20 7 = 0x64 := (hv ▸ fld_guarded gd hr (by omega)).trans (by omega)
  have k1 : fld wd 3 3 = 0x0 := (hv ▸ fld_guarded gd hr (by omega)).trans (by omega)
  have k2 : fld wd 18 2 = 0x2 := (hv ▸ fld_guarded gd hr (by omega)).trans (by omega)
  have x0 : (fld wd 12 8 == 0x0) = false := by
    rw [hv, fld_guarded gd hr (by omega), beq_eq_false_iff_ne]; omega
  have x1 : (fld wd 12 8 == 0x40) = false := by
    rw [hv, fld_guarded gd hr (by omega), beq_eq_false_iff_ne]; omega
  have hg : guardOf wd = gd := hv ▸ guardOf_guarded gd hr
  have b_d : bf wd 12 6 = d := hv ▸ bf_guarded gd hr (by omega) (by omega)
  have b_a : bf wd 6 6 = a := hv ▸ bf_guarded gd hr (by omega) (by omega)
  have b_z : bf wd 0 3 = z := hv ▸ bf_guarded gd hr (by omega) (by omega)
  rw [decodeSimt_at 0x64 wd k0 (by decide), simt_64]
  simp [decodeRows, Row.fits, k0, k1, k2, x0, x1, hg, b_d, b_a, b_z]
theorem simt_65 : simtRows.filter (Row.op 0x65) =
    [⟨[(20, 7, 0x65)], fun w => .tild (guardOf w) (bf w 18 2) (bf w 12 6) (bf w 6 6) (bf w 0 6)⟩] := rfl
theorem tild (gd : Guard) (m : BitVec 2) (d : BitVec 6) (a : BitVec 6) (b : BitVec 6) : Statement (.tild gd m d a b) := by
  have h_m := m.isLt
  have h_d := d.isLt
  have h_a := a.isLt
  have h_b := b.isLt
  intro wd hw
  have h0 : some (word32 (0x6500000 + guardBits gd + m.toNat * 0x40000 + d.toNat * 0x1000 + a.toNat * 0x40 + b.toNat)) = some wd := hw
  have hv : wd = (word32 (0x6500000 + m.toNat * 0x40000 + d.toNat * 0x1000 + a.toNat * 0x40 + b.toNat + guardBits gd)) := (Option.some.inj h0).symm.trans (congrArg word32 (by omega))
  have hr : 0x6500000 + m.toNat * 0x40000 + d.toNat * 0x1000 + a.toNat * 0x40 + b.toNat < 2 ^ 27 := by omega
  show decodeSimt wd = _
  have k0 : fld wd 20 7 = 0x65 := (hv ▸ fld_guarded gd hr (by omega)).trans (by omega)
  have hg : guardOf wd = gd := hv ▸ guardOf_guarded gd hr
  have b_m : bf wd 18 2 = m := hv ▸ bf_guarded gd hr (by omega) (by omega)
  have b_d : bf wd 12 6 = d := hv ▸ bf_guarded gd hr (by omega) (by omega)
  have b_a : bf wd 6 6 = a := hv ▸ bf_guarded gd hr (by omega) (by omega)
  have b_b : bf wd 0 6 = b := hv ▸ bf_guarded gd hr (by omega) (by omega)
  rw [decodeSimt_at 0x65 wd k0 (by decide), simt_65]
  simp [decodeRows, Row.fits, k0, hg, b_m, b_d, b_a, b_b]
theorem simt_66 : simtRows.filter (Row.op 0x66) =
    [⟨[(20, 7, 0x66)], fun w => .tist (guardOf w) (bf w 18 2) (bf w 12 6) (bf w 6 6) (bf w 0 6)⟩] := rfl
theorem tist (gd : Guard) (m : BitVec 2) (d : BitVec 6) (a : BitVec 6) (b : BitVec 6) : Statement (.tist gd m d a b) := by
  have h_m := m.isLt
  have h_d := d.isLt
  have h_a := a.isLt
  have h_b := b.isLt
  intro wd hw
  have h0 : some (word32 (0x6600000 + guardBits gd + m.toNat * 0x40000 + d.toNat * 0x1000 + a.toNat * 0x40 + b.toNat)) = some wd := hw
  have hv : wd = (word32 (0x6600000 + m.toNat * 0x40000 + d.toNat * 0x1000 + a.toNat * 0x40 + b.toNat + guardBits gd)) := (Option.some.inj h0).symm.trans (congrArg word32 (by omega))
  have hr : 0x6600000 + m.toNat * 0x40000 + d.toNat * 0x1000 + a.toNat * 0x40 + b.toNat < 2 ^ 27 := by omega
  show decodeSimt wd = _
  have k0 : fld wd 20 7 = 0x66 := (hv ▸ fld_guarded gd hr (by omega)).trans (by omega)
  have hg : guardOf wd = gd := hv ▸ guardOf_guarded gd hr
  have b_m : bf wd 18 2 = m := hv ▸ bf_guarded gd hr (by omega) (by omega)
  have b_d : bf wd 12 6 = d := hv ▸ bf_guarded gd hr (by omega) (by omega)
  have b_a : bf wd 6 6 = a := hv ▸ bf_guarded gd hr (by omega) (by omega)
  have b_b : bf wd 0 6 = b := hv ▸ bf_guarded gd hr (by omega) (by omega)
  rw [decodeSimt_at 0x66 wd k0 (by decide), simt_66]
  simp [decodeRows, Row.fits, k0, hg, b_m, b_d, b_a, b_b]
theorem simt_67 : simtRows.filter (Row.op 0x67) =
    [⟨[(20, 7, 0x67), (17, 3, 0x6)], fun w => .pref (guardOf w) (bf w 11 6) (bf w 5 6) (bf w 0 5)⟩] := rfl
theorem pref (gd : Guard) (l : BitVec 6) (a : BitVec 6) (i : BitVec 5) : Statement (.pref gd l a i) := by
  have h_l := l.isLt
  have h_a := a.isLt
  have h_i := i.isLt
  intro wd hw
  have h0 : some (word32 (0x67c0000 + guardBits gd + l.toNat * 0x800 + a.toNat * 0x20 + i.toNat)) = some wd := hw
  have hv : wd = (word32 (0x67c0000 + l.toNat * 0x800 + a.toNat * 0x20 + i.toNat + guardBits gd)) := (Option.some.inj h0).symm.trans (congrArg word32 (by omega))
  have hr : 0x67c0000 + l.toNat * 0x800 + a.toNat * 0x20 + i.toNat < 2 ^ 27 := by omega
  show decodeSimt wd = _
  have k0 : fld wd 20 7 = 0x67 := (hv ▸ fld_guarded gd hr (by omega)).trans (by omega)
  have k1 : fld wd 17 3 = 0x6 := (hv ▸ fld_guarded gd hr (by omega)).trans (by omega)
  have hg : guardOf wd = gd := hv ▸ guardOf_guarded gd hr
  have b_l : bf wd 11 6 = l := hv ▸ bf_guarded gd hr (by omega) (by omega)
  have b_a : bf wd 5 6 = a := hv ▸ bf_guarded gd hr (by omega) (by omega)
  have b_i : bf wd 0 5 = i := hv ▸ bf_guarded gd hr (by omega) (by omega)
  rw [decodeSimt_at 0x67 wd k0 (by decide), simt_67]
  simp [decodeRows, Row.fits, k0, k1, hg, b_l, b_a, b_i]
theorem simt_68 : simtRows.filter (Row.op 0x68) =
    [⟨[(20, 7, 0x68), (0, 20, 0x0)], fun w => .cinvInv (guardOf w)⟩, ⟨[(20, 7, 0x68), (0, 20, 0x40000)], fun w => .cinvWb (guardOf w)⟩, ⟨[(20, 7, 0x68), (0, 20, 0x80000)], fun w => .cinvIc (guardOf w)⟩] := rfl
theorem cinvInv (gd : Guard) : Statement (.cinvInv gd) := by
  intro wd hw
  have h0 : some (word32 (0x6800000 + guardBits gd)) = some wd := hw
  have hv : wd = (word32 (0x6800000 + guardBits gd)) := (Option.some.inj h0).symm.trans (congrArg word32 (by omega))
  have hr : 0x6800000 < 2 ^ 27 := by omega
  show decodeSimt wd = _
  have k0 : fld wd 20 7 = 0x68 := (hv ▸ fld_guarded gd hr (by omega)).trans (by omega)
  have k1 : fld wd 0 20 = 0x0 := (hv ▸ fld_guarded gd hr (by omega)).trans (by omega)
  have hg : guardOf wd = gd := hv ▸ guardOf_guarded gd hr
  rw [decodeSimt_at 0x68 wd k0 (by decide), simt_68]
  simp [decodeRows, Row.fits, k0, k1, hg]
theorem cinvWb (gd : Guard) : Statement (.cinvWb gd) := by
  intro wd hw
  have h0 : some (word32 (0x6840000 + guardBits gd)) = some wd := hw
  have hv : wd = (word32 (0x6840000 + guardBits gd)) := (Option.some.inj h0).symm.trans (congrArg word32 (by omega))
  have hr : 0x6840000 < 2 ^ 27 := by omega
  show decodeSimt wd = _
  have k0 : fld wd 20 7 = 0x68 := (hv ▸ fld_guarded gd hr (by omega)).trans (by omega)
  have k1 : fld wd 0 20 = 0x40000 := (hv ▸ fld_guarded gd hr (by omega)).trans (by omega)
  have hg : guardOf wd = gd := hv ▸ guardOf_guarded gd hr
  rw [decodeSimt_at 0x68 wd k0 (by decide), simt_68]
  simp [decodeRows, Row.fits, k0, k1, hg]
theorem cinvIc (gd : Guard) : Statement (.cinvIc gd) := by
  intro wd hw
  have h0 : some (word32 (0x6880000 + guardBits gd)) = some wd := hw
  have hv : wd = (word32 (0x6880000 + guardBits gd)) := (Option.some.inj h0).symm.trans (congrArg word32 (by omega))
  have hr : 0x6880000 < 2 ^ 27 := by omega
  show decodeSimt wd = _
  have k0 : fld wd 20 7 = 0x68 := (hv ▸ fld_guarded gd hr (by omega)).trans (by omega)
  have k1 : fld wd 0 20 = 0x80000 := (hv ▸ fld_guarded gd hr (by omega)).trans (by omega)
  have hg : guardOf wd = gd := hv ▸ guardOf_guarded gd hr
  rw [decodeSimt_at 0x68 wd k0 (by decide), simt_68]
  simp [decodeRows, Row.fits, k0, k1, hg]
theorem simt_6c : simtRows.filter (Row.op 0x6c) =
    [⟨[(20, 7, 0x6c), (5, 1, 0x0), (18, 2, 0x0)], fun w => .atom (guardOf w) (bf w 12 6) (bf w 6 6) (bf w 4 1) (bf w 0 4)⟩] := rfl
theorem atom (gd : Guard) (d : BitVec 6) (a : BitVec 6) (w : BitVec 1) (o : BitVec 4) : Statement (.atom gd d a w o) := by
  have h_d := d.isLt
  have h_a := a.isLt
  have h_w := w.isLt
  have h_o := o.isLt
  intro wd hw
  have h0 : some (word32 (0x6c00000 + guardBits gd + d.toNat * 0x1000 + a.toNat * 0x40 + w.toNat * 0x10 + o.toNat)) = some wd := hw
  have hv : wd = (word32 (0x6c00000 + d.toNat * 0x1000 + a.toNat * 0x40 + w.toNat * 0x10 + o.toNat + guardBits gd)) := (Option.some.inj h0).symm.trans (congrArg word32 (by omega))
  have hr : 0x6c00000 + d.toNat * 0x1000 + a.toNat * 0x40 + w.toNat * 0x10 + o.toNat < 2 ^ 27 := by omega
  show decodeSimt wd = _
  have k0 : fld wd 20 7 = 0x6c := (hv ▸ fld_guarded gd hr (by omega)).trans (by omega)
  have k1 : fld wd 5 1 = 0x0 := (hv ▸ fld_guarded gd hr (by omega)).trans (by omega)
  have k2 : fld wd 18 2 = 0x0 := (hv ▸ fld_guarded gd hr (by omega)).trans (by omega)
  have hg : guardOf wd = gd := hv ▸ guardOf_guarded gd hr
  have b_d : bf wd 12 6 = d := hv ▸ bf_guarded gd hr (by omega) (by omega)
  have b_a : bf wd 6 6 = a := hv ▸ bf_guarded gd hr (by omega) (by omega)
  have b_w : bf wd 4 1 = w := hv ▸ bf_guarded gd hr (by omega) (by omega)
  have b_o : bf wd 0 4 = o := hv ▸ bf_guarded gd hr (by omega) (by omega)
  rw [decodeSimt_at 0x6c wd k0 (by decide), simt_6c]
  simp [decodeRows, Row.fits, k0, k1, k2, hg, b_d, b_a, b_w, b_o]
theorem simt_6d : simtRows.filter (Row.op 0x6d) =
    [⟨[(20, 7, 0x6d), (19, 1, 0x0)], fun w => .cas (guardOf w) (bf w 18 1) (bf w 12 6) (bf w 6 6) (bf w 0 6)⟩] := rfl
theorem cas (gd : Guard) (w : BitVec 1) (d : BitVec 6) (a : BitVec 6) (b : BitVec 6) : Statement (.cas gd w d a b) := by
  have h_w := w.isLt
  have h_d := d.isLt
  have h_a := a.isLt
  have h_b := b.isLt
  intro wd hw
  have h0 : some (word32 (0x6d00000 + guardBits gd + w.toNat * 0x40000 + d.toNat * 0x1000 + a.toNat * 0x40 + b.toNat)) = some wd := hw
  have hv : wd = (word32 (0x6d00000 + w.toNat * 0x40000 + d.toNat * 0x1000 + a.toNat * 0x40 + b.toNat + guardBits gd)) := (Option.some.inj h0).symm.trans (congrArg word32 (by omega))
  have hr : 0x6d00000 + w.toNat * 0x40000 + d.toNat * 0x1000 + a.toNat * 0x40 + b.toNat < 2 ^ 27 := by omega
  show decodeSimt wd = _
  have k0 : fld wd 20 7 = 0x6d := (hv ▸ fld_guarded gd hr (by omega)).trans (by omega)
  have k1 : fld wd 19 1 = 0x0 := (hv ▸ fld_guarded gd hr (by omega)).trans (by omega)
  have hg : guardOf wd = gd := hv ▸ guardOf_guarded gd hr
  have b_w : bf wd 18 1 = w := hv ▸ bf_guarded gd hr (by omega) (by omega)
  have b_d : bf wd 12 6 = d := hv ▸ bf_guarded gd hr (by omega) (by omega)
  have b_a : bf wd 6 6 = a := hv ▸ bf_guarded gd hr (by omega) (by omega)
  have b_b : bf wd 0 6 = b := hv ▸ bf_guarded gd hr (by omega) (by omega)
  rw [decodeSimt_at 0x6d wd k0 (by decide), simt_6d]
  simp [decodeRows, Row.fits, k0, k1, hg, b_w, b_d, b_a, b_b]
theorem simt_6e : simtRows.filter (Row.op 0x6e) =
    [⟨[(20, 7, 0x6e), (5, 1, 0x0), (18, 2, 0x0)], fun w => .red (guardOf w) (bf w 12 6) (bf w 6 6) (bf w 4 1) (bf w 0 4)⟩] := rfl
theorem red (gd : Guard) (d : BitVec 6) (a : BitVec 6) (w : BitVec 1) (o : BitVec 4) : Statement (.red gd d a w o) := by
  have h_d := d.isLt
  have h_a := a.isLt
  have h_w := w.isLt
  have h_o := o.isLt
  intro wd hw
  have h0 : some (word32 (0x6e00000 + guardBits gd + d.toNat * 0x1000 + a.toNat * 0x40 + w.toNat * 0x10 + o.toNat)) = some wd := hw
  have hv : wd = (word32 (0x6e00000 + d.toNat * 0x1000 + a.toNat * 0x40 + w.toNat * 0x10 + o.toNat + guardBits gd)) := (Option.some.inj h0).symm.trans (congrArg word32 (by omega))
  have hr : 0x6e00000 + d.toNat * 0x1000 + a.toNat * 0x40 + w.toNat * 0x10 + o.toNat < 2 ^ 27 := by omega
  show decodeSimt wd = _
  have k0 : fld wd 20 7 = 0x6e := (hv ▸ fld_guarded gd hr (by omega)).trans (by omega)
  have k1 : fld wd 5 1 = 0x0 := (hv ▸ fld_guarded gd hr (by omega)).trans (by omega)
  have k2 : fld wd 18 2 = 0x0 := (hv ▸ fld_guarded gd hr (by omega)).trans (by omega)
  have hg : guardOf wd = gd := hv ▸ guardOf_guarded gd hr
  have b_d : bf wd 12 6 = d := hv ▸ bf_guarded gd hr (by omega) (by omega)
  have b_a : bf wd 6 6 = a := hv ▸ bf_guarded gd hr (by omega) (by omega)
  have b_w : bf wd 4 1 = w := hv ▸ bf_guarded gd hr (by omega) (by omega)
  have b_o : bf wd 0 4 = o := hv ▸ bf_guarded gd hr (by omega) (by omega)
  rw [decodeSimt_at 0x6e wd k0 (by decide), simt_6e]
  simp [decodeRows, Row.fits, k0, k1, k2, hg, b_d, b_a, b_w, b_o]
theorem simt_6f : simtRows.filter (Row.op 0x6f) =
    [⟨[(20, 7, 0x6f), (3, 15, 0x0)], fun w => .fence (guardOf w) (bf w 18 2) (bf w 0 3)⟩] := rfl
theorem fence (gd : Guard) (m : BitVec 2) (c : BitVec 3) : Statement (.fence gd m c) := by
  have h_m := m.isLt
  have h_c := c.isLt
  intro wd hw
  have h0 : some (word32 (0x6f00000 + guardBits gd + m.toNat * 0x40000 + c.toNat)) = some wd := hw
  have hv : wd = (word32 (0x6f00000 + m.toNat * 0x40000 + c.toNat + guardBits gd)) := (Option.some.inj h0).symm.trans (congrArg word32 (by omega))
  have hr : 0x6f00000 + m.toNat * 0x40000 + c.toNat < 2 ^ 27 := by omega
  show decodeSimt wd = _
  have k0 : fld wd 20 7 = 0x6f := (hv ▸ fld_guarded gd hr (by omega)).trans (by omega)
  have k1 : fld wd 3 15 = 0x0 := (hv ▸ fld_guarded gd hr (by omega)).trans (by omega)
  have hg : guardOf wd = gd := hv ▸ guardOf_guarded gd hr
  have b_m : bf wd 18 2 = m := hv ▸ bf_guarded gd hr (by omega) (by omega)
  have b_c : bf wd 0 3 = c := hv ▸ bf_guarded gd hr (by omega) (by omega)
  rw [decodeSimt_at 0x6f wd k0 (by decide), simt_6f]
  simp [decodeRows, Row.fits, k0, k1, hg, b_m, b_c]
theorem simt_70 : simtRows.filter (Row.op 0x70) =
    [⟨[(20, 7, 0x70)], fun w => .barv (guardOf w) (bf w 18 2) (bf w 11 7) (bf w 10 1) (bf w 0 10)⟩] := rfl
theorem barv (gd : Guard) (k : BitVec 2) (b : BitVec 7) (x : BitVec 1) (v : BitVec 10) : Statement (.barv gd k b x v) := by
  have h_k := k.isLt
  have h_b := b.isLt
  have h_x := x.isLt
  have h_v := v.isLt
  intro wd hw
  have h0 : some (word32 (0x7000000 + guardBits gd + k.toNat * 0x40000 + b.toNat * 0x800 + x.toNat * 0x400 + v.toNat)) = some wd := hw
  have hv : wd = (word32 (0x7000000 + k.toNat * 0x40000 + b.toNat * 0x800 + x.toNat * 0x400 + v.toNat + guardBits gd)) := (Option.some.inj h0).symm.trans (congrArg word32 (by omega))
  have hr : 0x7000000 + k.toNat * 0x40000 + b.toNat * 0x800 + x.toNat * 0x400 + v.toNat < 2 ^ 27 := by omega
  show decodeSimt wd = _
  have k0 : fld wd 20 7 = 0x70 := (hv ▸ fld_guarded gd hr (by omega)).trans (by omega)
  have hg : guardOf wd = gd := hv ▸ guardOf_guarded gd hr
  have b_k : bf wd 18 2 = k := hv ▸ bf_guarded gd hr (by omega) (by omega)
  have b_b : bf wd 11 7 = b := hv ▸ bf_guarded gd hr (by omega) (by omega)
  have b_x : bf wd 10 1 = x := hv ▸ bf_guarded gd hr (by omega) (by omega)
  have b_v : bf wd 0 10 = v := hv ▸ bf_guarded gd hr (by omega) (by omega)
  rw [decodeSimt_at 0x70 wd k0 (by decide), simt_70]
  simp [decodeRows, Row.fits, k0, hg, b_k, b_b, b_x, b_v]
theorem simt_71 : simtRows.filter (Row.op 0x71) =
    [⟨[(20, 7, 0x71), (18, 2, 0x0)], fun w => .barw (guardOf w) (bf w 11 7) (bf w 10 1) (bf w 0 10)⟩] := rfl
theorem barw (gd : Guard) (b : BitVec 7) (x : BitVec 1) (v : BitVec 10) : Statement (.barw gd b x v) := by
  have h_b := b.isLt
  have h_x := x.isLt
  have h_v := v.isLt
  intro wd hw
  have h0 : some (word32 (0x7100000 + guardBits gd + b.toNat * 0x800 + x.toNat * 0x400 + v.toNat)) = some wd := hw
  have hv : wd = (word32 (0x7100000 + b.toNat * 0x800 + x.toNat * 0x400 + v.toNat + guardBits gd)) := (Option.some.inj h0).symm.trans (congrArg word32 (by omega))
  have hr : 0x7100000 + b.toNat * 0x800 + x.toNat * 0x400 + v.toNat < 2 ^ 27 := by omega
  show decodeSimt wd = _
  have k0 : fld wd 20 7 = 0x71 := (hv ▸ fld_guarded gd hr (by omega)).trans (by omega)
  have k1 : fld wd 18 2 = 0x0 := (hv ▸ fld_guarded gd hr (by omega)).trans (by omega)
  have hg : guardOf wd = gd := hv ▸ guardOf_guarded gd hr
  have b_b : bf wd 11 7 = b := hv ▸ bf_guarded gd hr (by omega) (by omega)
  have b_x : bf wd 10 1 = x := hv ▸ bf_guarded gd hr (by omega) (by omega)
  have b_v : bf wd 0 10 = v := hv ▸ bf_guarded gd hr (by omega) (by omega)
  rw [decodeSimt_at 0x71 wd k0 (by decide), simt_71]
  simp [decodeRows, Row.fits, k0, k1, hg, b_b, b_x, b_v]
theorem simt_72 : simtRows.filter (Row.op 0x72) =
    [⟨[(20, 7, 0x72), (18, 2, 0x0)], fun w => .bariInit (guardOf w) (bf w 11 7) (bf w 10 1) (bf w 0 10)⟩, ⟨[(20, 7, 0x72), (0, 11, 0x0), (18, 2, 0x1)], fun w => .bariInval (guardOf w) (bf w 11 7)⟩] := rfl
theorem bariInit (gd : Guard) (b : BitVec 7) (x : BitVec 1) (v : BitVec 10) : Statement (.bariInit gd b x v) := by
  have h_b := b.isLt
  have h_x := x.isLt
  have h_v := v.isLt
  intro wd hw
  have h0 : some (word32 (0x7200000 + guardBits gd + b.toNat * 0x800 + x.toNat * 0x400 + v.toNat)) = some wd := hw
  have hv : wd = (word32 (0x7200000 + b.toNat * 0x800 + x.toNat * 0x400 + v.toNat + guardBits gd)) := (Option.some.inj h0).symm.trans (congrArg word32 (by omega))
  have hr : 0x7200000 + b.toNat * 0x800 + x.toNat * 0x400 + v.toNat < 2 ^ 27 := by omega
  show decodeSimt wd = _
  have k0 : fld wd 20 7 = 0x72 := (hv ▸ fld_guarded gd hr (by omega)).trans (by omega)
  have k1 : fld wd 18 2 = 0x0 := (hv ▸ fld_guarded gd hr (by omega)).trans (by omega)
  have hg : guardOf wd = gd := hv ▸ guardOf_guarded gd hr
  have b_b : bf wd 11 7 = b := hv ▸ bf_guarded gd hr (by omega) (by omega)
  have b_x : bf wd 10 1 = x := hv ▸ bf_guarded gd hr (by omega) (by omega)
  have b_v : bf wd 0 10 = v := hv ▸ bf_guarded gd hr (by omega) (by omega)
  rw [decodeSimt_at 0x72 wd k0 (by decide), simt_72]
  simp [decodeRows, Row.fits, k0, k1, hg, b_b, b_x, b_v]
theorem bariInval (gd : Guard) (b : BitVec 7) : Statement (.bariInval gd b) := by
  have h_b := b.isLt
  intro wd hw
  have h0 : some (word32 (0x7240000 + guardBits gd + b.toNat * 0x800)) = some wd := hw
  have hv : wd = (word32 (0x7240000 + b.toNat * 0x800 + guardBits gd)) := (Option.some.inj h0).symm.trans (congrArg word32 (by omega))
  have hr : 0x7240000 + b.toNat * 0x800 < 2 ^ 27 := by omega
  show decodeSimt wd = _
  have k0 : fld wd 20 7 = 0x72 := (hv ▸ fld_guarded gd hr (by omega)).trans (by omega)
  have k1 : fld wd 0 11 = 0x0 := (hv ▸ fld_guarded gd hr (by omega)).trans (by omega)
  have k2 : fld wd 18 2 = 0x1 := (hv ▸ fld_guarded gd hr (by omega)).trans (by omega)
  have hg : guardOf wd = gd := hv ▸ guardOf_guarded gd hr
  have b_b : bf wd 11 7 = b := hv ▸ bf_guarded gd hr (by omega) (by omega)
  rw [decodeSimt_at 0x72 wd k0 (by decide), simt_72]
  simp [decodeRows, Row.fits, k0, k1, k2, hg, b_b]
theorem simt_73 : simtRows.filter (Row.op 0x73) =
    [⟨[(20, 7, 0x73)], fun w => .bart (guardOf w) (bf w 18 2) (bf w 11 7) (bf w 10 1) (bf w 0 10)⟩] := rfl
theorem bart (gd : Guard) (k : BitVec 2) (b : BitVec 7) (x : BitVec 1) (v : BitVec 10) : Statement (.bart gd k b x v) := by
  have h_k := k.isLt
  have h_b := b.isLt
  have h_x := x.isLt
  have h_v := v.isLt
  intro wd hw
  have h0 : some (word32 (0x7300000 + guardBits gd + k.toNat * 0x40000 + b.toNat * 0x800 + x.toNat * 0x400 + v.toNat)) = some wd := hw
  have hv : wd = (word32 (0x7300000 + k.toNat * 0x40000 + b.toNat * 0x800 + x.toNat * 0x400 + v.toNat + guardBits gd)) := (Option.some.inj h0).symm.trans (congrArg word32 (by omega))
  have hr : 0x7300000 + k.toNat * 0x40000 + b.toNat * 0x800 + x.toNat * 0x400 + v.toNat < 2 ^ 27 := by omega
  show decodeSimt wd = _
  have k0 : fld wd 20 7 = 0x73 := (hv ▸ fld_guarded gd hr (by omega)).trans (by omega)
  have hg : guardOf wd = gd := hv ▸ guardOf_guarded gd hr
  have b_k : bf wd 18 2 = k := hv ▸ bf_guarded gd hr (by omega) (by omega)
  have b_b : bf wd 11 7 = b := hv ▸ bf_guarded gd hr (by omega) (by omega)
  have b_x : bf wd 10 1 = x := hv ▸ bf_guarded gd hr (by omega) (by omega)
  have b_v : bf wd 0 10 = v := hv ▸ bf_guarded gd hr (by omega) (by omega)
  rw [decodeSimt_at 0x73 wd k0 (by decide), simt_73]
  simp [decodeRows, Row.fits, k0, hg, b_k, b_b, b_x, b_v]
theorem simt_74 : simtRows.filter (Row.op 0x74) =
    [⟨[(20, 7, 0x74), (18, 2, 0x0)], fun w => .cpy (guardOf w) (bf w 15 3) (bf w 12 3) (bf w 6 6) (bf w 0 6)⟩] := rfl
theorem cpy (gd : Guard) (q : BitVec 3) (t : BitVec 3) (a : BitVec 6) (b : BitVec 6) : Statement (.cpy gd q t a b) := by
  have h_q := q.isLt
  have h_t := t.isLt
  have h_a := a.isLt
  have h_b := b.isLt
  intro wd hw
  have h0 : some (word32 (0x7400000 + guardBits gd + q.toNat * 0x8000 + t.toNat * 0x1000 + a.toNat * 0x40 + b.toNat)) = some wd := hw
  have hv : wd = (word32 (0x7400000 + q.toNat * 0x8000 + t.toNat * 0x1000 + a.toNat * 0x40 + b.toNat + guardBits gd)) := (Option.some.inj h0).symm.trans (congrArg word32 (by omega))
  have hr : 0x7400000 + q.toNat * 0x8000 + t.toNat * 0x1000 + a.toNat * 0x40 + b.toNat < 2 ^ 27 := by omega
  show decodeSimt wd = _
  have k0 : fld wd 20 7 = 0x74 := (hv ▸ fld_guarded gd hr (by omega)).trans (by omega)
  have k1 : fld wd 18 2 = 0x0 := (hv ▸ fld_guarded gd hr (by omega)).trans (by omega)
  have hg : guardOf wd = gd := hv ▸ guardOf_guarded gd hr
  have b_q : bf wd 15 3 = q := hv ▸ bf_guarded gd hr (by omega) (by omega)
  have b_t : bf wd 12 3 = t := hv ▸ bf_guarded gd hr (by omega) (by omega)
  have b_a : bf wd 6 6 = a := hv ▸ bf_guarded gd hr (by omega) (by omega)
  have b_b : bf wd 0 6 = b := hv ▸ bf_guarded gd hr (by omega) (by omega)
  rw [decodeSimt_at 0x74 wd k0 (by decide), simt_74]
  simp [decodeRows, Row.fits, k0, k1, hg, b_q, b_t, b_a, b_b]
theorem simt_75 : simtRows.filter (Row.op 0x75) =
    [⟨[(20, 7, 0x75), (19, 1, 0x0)], fun w => .tcpy (guardOf w) (bf w 18 1) (bf w 15 3) (bf w 12 3) (bf w 6 6) (bf w 0 6)⟩] := rfl
theorem tcpy (gd : Guard) (m : BitVec 1) (q : BitVec 3) (t : BitVec 3) (a : BitVec 6) (b : BitVec 6) : Statement (.tcpy gd m q t a b) := by
  have h_m := m.isLt
  have h_q := q.isLt
  have h_t := t.isLt
  have h_a := a.isLt
  have h_b := b.isLt
  intro wd hw
  have h0 : some (word32 (0x7500000 + guardBits gd + m.toNat * 0x40000 + q.toNat * 0x8000 + t.toNat * 0x1000 + a.toNat * 0x40 + b.toNat)) = some wd := hw
  have hv : wd = (word32 (0x7500000 + m.toNat * 0x40000 + q.toNat * 0x8000 + t.toNat * 0x1000 + a.toNat * 0x40 + b.toNat + guardBits gd)) := (Option.some.inj h0).symm.trans (congrArg word32 (by omega))
  have hr : 0x7500000 + m.toNat * 0x40000 + q.toNat * 0x8000 + t.toNat * 0x1000 + a.toNat * 0x40 + b.toNat < 2 ^ 27 := by omega
  show decodeSimt wd = _
  have k0 : fld wd 20 7 = 0x75 := (hv ▸ fld_guarded gd hr (by omega)).trans (by omega)
  have k1 : fld wd 19 1 = 0x0 := (hv ▸ fld_guarded gd hr (by omega)).trans (by omega)
  have hg : guardOf wd = gd := hv ▸ guardOf_guarded gd hr
  have b_m : bf wd 18 1 = m := hv ▸ bf_guarded gd hr (by omega) (by omega)
  have b_q : bf wd 15 3 = q := hv ▸ bf_guarded gd hr (by omega) (by omega)
  have b_t : bf wd 12 3 = t := hv ▸ bf_guarded gd hr (by omega) (by omega)
  have b_a : bf wd 6 6 = a := hv ▸ bf_guarded gd hr (by omega) (by omega)
  have b_b : bf wd 0 6 = b := hv ▸ bf_guarded gd hr (by omega) (by omega)
  rw [decodeSimt_at 0x75 wd k0 (by decide), simt_75]
  simp [decodeRows, Row.fits, k0, k1, hg, b_m, b_q, b_t, b_a, b_b]
theorem simt_76 : simtRows.filter (Row.op 0x76) =
    [⟨[(20, 7, 0x76), (19, 1, 0x0)], fun w => .gcpy (guardOf w) (bf w 18 1) (bf w 15 3) (bf w 12 3) (bf w 6 6) (bf w 0 6)⟩] := rfl
theorem gcpy (gd : Guard) (m : BitVec 1) (q : BitVec 3) (t : BitVec 3) (a : BitVec 6) (b : BitVec 6) : Statement (.gcpy gd m q t a b) := by
  have h_m := m.isLt
  have h_q := q.isLt
  have h_t := t.isLt
  have h_a := a.isLt
  have h_b := b.isLt
  intro wd hw
  have h0 : some (word32 (0x7600000 + guardBits gd + m.toNat * 0x40000 + q.toNat * 0x8000 + t.toNat * 0x1000 + a.toNat * 0x40 + b.toNat)) = some wd := hw
  have hv : wd = (word32 (0x7600000 + m.toNat * 0x40000 + q.toNat * 0x8000 + t.toNat * 0x1000 + a.toNat * 0x40 + b.toNat + guardBits gd)) := (Option.some.inj h0).symm.trans (congrArg word32 (by omega))
  have hr : 0x7600000 + m.toNat * 0x40000 + q.toNat * 0x8000 + t.toNat * 0x1000 + a.toNat * 0x40 + b.toNat < 2 ^ 27 := by omega
  show decodeSimt wd = _
  have k0 : fld wd 20 7 = 0x76 := (hv ▸ fld_guarded gd hr (by omega)).trans (by omega)
  have k1 : fld wd 19 1 = 0x0 := (hv ▸ fld_guarded gd hr (by omega)).trans (by omega)
  have hg : guardOf wd = gd := hv ▸ guardOf_guarded gd hr
  have b_m : bf wd 18 1 = m := hv ▸ bf_guarded gd hr (by omega) (by omega)
  have b_q : bf wd 15 3 = q := hv ▸ bf_guarded gd hr (by omega) (by omega)
  have b_t : bf wd 12 3 = t := hv ▸ bf_guarded gd hr (by omega) (by omega)
  have b_a : bf wd 6 6 = a := hv ▸ bf_guarded gd hr (by omega) (by omega)
  have b_b : bf wd 0 6 = b := hv ▸ bf_guarded gd hr (by omega) (by omega)
  rw [decodeSimt_at 0x76 wd k0 (by decide), simt_76]
  simp [decodeRows, Row.fits, k0, k1, hg, b_m, b_q, b_t, b_a, b_b]
theorem simt_77 : simtRows.filter (Row.op 0x77) =
    [⟨[(20, 7, 0x77), (0, 6, 0x0), (18, 2, 0x0)], fun w => .chain (guardOf w) (bf w 15 3) (bf w 12 3) (bf w 6 6)⟩] := rfl
theorem chain (gd : Guard) (q : BitVec 3) (t : BitVec 3) (a : BitVec 6) : Statement (.chain gd q t a) := by
  have h_q := q.isLt
  have h_t := t.isLt
  have h_a := a.isLt
  intro wd hw
  have h0 : some (word32 (0x7700000 + guardBits gd + q.toNat * 0x8000 + t.toNat * 0x1000 + a.toNat * 0x40)) = some wd := hw
  have hv : wd = (word32 (0x7700000 + q.toNat * 0x8000 + t.toNat * 0x1000 + a.toNat * 0x40 + guardBits gd)) := (Option.some.inj h0).symm.trans (congrArg word32 (by omega))
  have hr : 0x7700000 + q.toNat * 0x8000 + t.toNat * 0x1000 + a.toNat * 0x40 < 2 ^ 27 := by omega
  show decodeSimt wd = _
  have k0 : fld wd 20 7 = 0x77 := (hv ▸ fld_guarded gd hr (by omega)).trans (by omega)
  have k1 : fld wd 0 6 = 0x0 := (hv ▸ fld_guarded gd hr (by omega)).trans (by omega)
  have k2 : fld wd 18 2 = 0x0 := (hv ▸ fld_guarded gd hr (by omega)).trans (by omega)
  have hg : guardOf wd = gd := hv ▸ guardOf_guarded gd hr
  have b_q : bf wd 15 3 = q := hv ▸ bf_guarded gd hr (by omega) (by omega)
  have b_t : bf wd 12 3 = t := hv ▸ bf_guarded gd hr (by omega) (by omega)
  have b_a : bf wd 6 6 = a := hv ▸ bf_guarded gd hr (by omega) (by omega)
  rw [decodeSimt_at 0x77 wd k0 (by decide), simt_77]
  simp [decodeRows, Row.fits, k0, k1, k2, hg, b_q, b_t, b_a]
theorem simt_78 : simtRows.filter (Row.op 0x78) =
    [⟨[(20, 7, 0x78), (9, 5, 0x0)], fun w => .tkwait (guardOf w) (bf w 14 6) (bf w 8 1) (bf w 0 8)⟩] := rfl
theorem tkwait (gd : Guard) (d : BitVec 6) (t : BitVec 1) (i : BitVec 8) : Statement (.tkwait gd d t i) := by
  have h_d := d.isLt
  have h_t := t.isLt
  have h_i := i.isLt
  intro wd hw
  have h0 : some (word32 (0x7800000 + guardBits gd + d.toNat * 0x4000 + t.toNat * 0x100 + i.toNat)) = some wd := hw
  have hv : wd = (word32 (0x7800000 + d.toNat * 0x4000 + t.toNat * 0x100 + i.toNat + guardBits gd)) := (Option.some.inj h0).symm.trans (congrArg word32 (by omega))
  have hr : 0x7800000 + d.toNat * 0x4000 + t.toNat * 0x100 + i.toNat < 2 ^ 27 := by omega
  show decodeSimt wd = _
  have k0 : fld wd 20 7 = 0x78 := (hv ▸ fld_guarded gd hr (by omega)).trans (by omega)
  have k1 : fld wd 9 5 = 0x0 := (hv ▸ fld_guarded gd hr (by omega)).trans (by omega)
  have hg : guardOf wd = gd := hv ▸ guardOf_guarded gd hr
  have b_d : bf wd 14 6 = d := hv ▸ bf_guarded gd hr (by omega) (by omega)
  have b_t : bf wd 8 1 = t := hv ▸ bf_guarded gd hr (by omega) (by omega)
  have b_i : bf wd 0 8 = i := hv ▸ bf_guarded gd hr (by omega) (by omega)
  rw [decodeSimt_at 0x78 wd k0 (by decide), simt_78]
  simp [decodeRows, Row.fits, k0, k1, hg, b_d, b_t, b_i]
theorem simt_7a : simtRows.filter (Row.op 0x7a) =
    [⟨[(20, 7, 0x7a)], fun w => .rcpy (guardOf w) (bf w 18 2) (bf w 15 3) (bf w 12 3) (bf w 6 6) (bf w 0 6)⟩] := rfl
theorem rcpy (gd : Guard) (m : BitVec 2) (q : BitVec 3) (t : BitVec 3) (a : BitVec 6) (b : BitVec 6) : Statement (.rcpy gd m q t a b) := by
  have h_m := m.isLt
  have h_q := q.isLt
  have h_t := t.isLt
  have h_a := a.isLt
  have h_b := b.isLt
  intro wd hw
  have h0 : some (word32 (0x7a00000 + guardBits gd + m.toNat * 0x40000 + q.toNat * 0x8000 + t.toNat * 0x1000 + a.toNat * 0x40 + b.toNat)) = some wd := hw
  have hv : wd = (word32 (0x7a00000 + m.toNat * 0x40000 + q.toNat * 0x8000 + t.toNat * 0x1000 + a.toNat * 0x40 + b.toNat + guardBits gd)) := (Option.some.inj h0).symm.trans (congrArg word32 (by omega))
  have hr : 0x7a00000 + m.toNat * 0x40000 + q.toNat * 0x8000 + t.toNat * 0x1000 + a.toNat * 0x40 + b.toNat < 2 ^ 27 := by omega
  show decodeSimt wd = _
  have k0 : fld wd 20 7 = 0x7a := (hv ▸ fld_guarded gd hr (by omega)).trans (by omega)
  have hg : guardOf wd = gd := hv ▸ guardOf_guarded gd hr
  have b_m : bf wd 18 2 = m := hv ▸ bf_guarded gd hr (by omega) (by omega)
  have b_q : bf wd 15 3 = q := hv ▸ bf_guarded gd hr (by omega) (by omega)
  have b_t : bf wd 12 3 = t := hv ▸ bf_guarded gd hr (by omega) (by omega)
  have b_a : bf wd 6 6 = a := hv ▸ bf_guarded gd hr (by omega) (by omega)
  have b_b : bf wd 0 6 = b := hv ▸ bf_guarded gd hr (by omega) (by omega)
  rw [decodeSimt_at 0x7a wd k0 (by decide), simt_7a]
  simp [decodeRows, Row.fits, k0, hg, b_m, b_q, b_t, b_a, b_b]
theorem simt_7b : simtRows.filter (Row.op 0x7b) =
    [⟨[(20, 7, 0x7b), (3, 3, 0x0), (18, 2, 0x0)], fun w => .coll (guardOf w) (bf w 15 3) (bf w 12 3) (bf w 6 6) (bf w 0 3)⟩] := rfl
theorem coll (gd : Guard) (q : BitVec 3) (t : BitVec 3) (a : BitVec 6) (o : BitVec 3) : Statement (.coll gd q t a o) := by
  have h_q := q.isLt
  have h_t := t.isLt
  have h_a := a.isLt
  have h_o := o.isLt
  intro wd hw
  have h0 : some (word32 (0x7b00000 + guardBits gd + q.toNat * 0x8000 + t.toNat * 0x1000 + a.toNat * 0x40 + o.toNat)) = some wd := hw
  have hv : wd = (word32 (0x7b00000 + q.toNat * 0x8000 + t.toNat * 0x1000 + a.toNat * 0x40 + o.toNat + guardBits gd)) := (Option.some.inj h0).symm.trans (congrArg word32 (by omega))
  have hr : 0x7b00000 + q.toNat * 0x8000 + t.toNat * 0x1000 + a.toNat * 0x40 + o.toNat < 2 ^ 27 := by omega
  show decodeSimt wd = _
  have k0 : fld wd 20 7 = 0x7b := (hv ▸ fld_guarded gd hr (by omega)).trans (by omega)
  have k1 : fld wd 3 3 = 0x0 := (hv ▸ fld_guarded gd hr (by omega)).trans (by omega)
  have k2 : fld wd 18 2 = 0x0 := (hv ▸ fld_guarded gd hr (by omega)).trans (by omega)
  have hg : guardOf wd = gd := hv ▸ guardOf_guarded gd hr
  have b_q : bf wd 15 3 = q := hv ▸ bf_guarded gd hr (by omega) (by omega)
  have b_t : bf wd 12 3 = t := hv ▸ bf_guarded gd hr (by omega) (by omega)
  have b_a : bf wd 6 6 = a := hv ▸ bf_guarded gd hr (by omega) (by omega)
  have b_o : bf wd 0 3 = o := hv ▸ bf_guarded gd hr (by omega) (by omega)
  rw [decodeSimt_at 0x7b wd k0 (by decide), simt_7b]
  simp [decodeRows, Row.fits, k0, k1, k2, hg, b_q, b_t, b_a, b_o]
theorem simt_7c : simtRows.filter (Row.op 0x7c) =
    [⟨[(20, 7, 0x7c), (1, 5, 0x0), (18, 2, 0x0)], fun w => .sigrFill (guardOf w) (bf w 12 6) (bf w 6 6) (bf w 0 1)⟩, ⟨[(20, 7, 0x7c), (12, 8, 0x40)], fun w => .sigrArr (guardOf w) (bf w 6 6) (bf w 0 6)⟩, ⟨[(20, 7, 0x7c), (12, 8, 0x80)], fun w => .sigrArrel (guardOf w) (bf w 6 6) (bf w 0 6)⟩] := rfl
theorem sigrFill (gd : Guard) (d : BitVec 6) (a : BitVec 6) (z : BitVec 1) : Statement (.sigrFill gd d a z) := by
  have h_d := d.isLt
  have h_a := a.isLt
  have h_z := z.isLt
  intro wd hw
  have h0 : some (word32 (0x7c00000 + guardBits gd + d.toNat * 0x1000 + a.toNat * 0x40 + z.toNat)) = some wd := hw
  have hv : wd = (word32 (0x7c00000 + d.toNat * 0x1000 + a.toNat * 0x40 + z.toNat + guardBits gd)) := (Option.some.inj h0).symm.trans (congrArg word32 (by omega))
  have hr : 0x7c00000 + d.toNat * 0x1000 + a.toNat * 0x40 + z.toNat < 2 ^ 27 := by omega
  show decodeSimt wd = _
  have k0 : fld wd 20 7 = 0x7c := (hv ▸ fld_guarded gd hr (by omega)).trans (by omega)
  have k1 : fld wd 1 5 = 0x0 := (hv ▸ fld_guarded gd hr (by omega)).trans (by omega)
  have k2 : fld wd 18 2 = 0x0 := (hv ▸ fld_guarded gd hr (by omega)).trans (by omega)
  have hg : guardOf wd = gd := hv ▸ guardOf_guarded gd hr
  have b_d : bf wd 12 6 = d := hv ▸ bf_guarded gd hr (by omega) (by omega)
  have b_a : bf wd 6 6 = a := hv ▸ bf_guarded gd hr (by omega) (by omega)
  have b_z : bf wd 0 1 = z := hv ▸ bf_guarded gd hr (by omega) (by omega)
  rw [decodeSimt_at 0x7c wd k0 (by decide), simt_7c]
  simp [decodeRows, Row.fits, k0, k1, k2, hg, b_d, b_a, b_z]
theorem sigrArr (gd : Guard) (a : BitVec 6) (b : BitVec 6) : Statement (.sigrArr gd a b) := by
  have h_a := a.isLt
  have h_b := b.isLt
  intro wd hw
  have h0 : some (word32 (0x7c40000 + guardBits gd + a.toNat * 0x40 + b.toNat)) = some wd := hw
  have hv : wd = (word32 (0x7c40000 + a.toNat * 0x40 + b.toNat + guardBits gd)) := (Option.some.inj h0).symm.trans (congrArg word32 (by omega))
  have hr : 0x7c40000 + a.toNat * 0x40 + b.toNat < 2 ^ 27 := by omega
  show decodeSimt wd = _
  have k0 : fld wd 20 7 = 0x7c := (hv ▸ fld_guarded gd hr (by omega)).trans (by omega)
  have k1 : fld wd 12 8 = 0x40 := (hv ▸ fld_guarded gd hr (by omega)).trans (by omega)
  have x0 : (fld wd 18 2 == 0x0) = false := by
    rw [hv, fld_guarded gd hr (by omega), beq_eq_false_iff_ne]; omega
  have hg : guardOf wd = gd := hv ▸ guardOf_guarded gd hr
  have b_a : bf wd 6 6 = a := hv ▸ bf_guarded gd hr (by omega) (by omega)
  have b_b : bf wd 0 6 = b := hv ▸ bf_guarded gd hr (by omega) (by omega)
  rw [decodeSimt_at 0x7c wd k0 (by decide), simt_7c]
  simp [decodeRows, Row.fits, k0, k1, x0, hg, b_a, b_b]
theorem sigrArrel (gd : Guard) (a : BitVec 6) (b : BitVec 6) : Statement (.sigrArrel gd a b) := by
  have h_a := a.isLt
  have h_b := b.isLt
  intro wd hw
  have h0 : some (word32 (0x7c80000 + guardBits gd + a.toNat * 0x40 + b.toNat)) = some wd := hw
  have hv : wd = (word32 (0x7c80000 + a.toNat * 0x40 + b.toNat + guardBits gd)) := (Option.some.inj h0).symm.trans (congrArg word32 (by omega))
  have hr : 0x7c80000 + a.toNat * 0x40 + b.toNat < 2 ^ 27 := by omega
  show decodeSimt wd = _
  have k0 : fld wd 20 7 = 0x7c := (hv ▸ fld_guarded gd hr (by omega)).trans (by omega)
  have k1 : fld wd 12 8 = 0x80 := (hv ▸ fld_guarded gd hr (by omega)).trans (by omega)
  have x0 : (fld wd 18 2 == 0x0) = false := by
    rw [hv, fld_guarded gd hr (by omega), beq_eq_false_iff_ne]; omega
  have hg : guardOf wd = gd := hv ▸ guardOf_guarded gd hr
  have b_a : bf wd 6 6 = a := hv ▸ bf_guarded gd hr (by omega) (by omega)
  have b_b : bf wd 0 6 = b := hv ▸ bf_guarded gd hr (by omega) (by omega)
  rw [decodeSimt_at 0x7c wd k0 (by decide), simt_7c]
  simp [decodeRows, Row.fits, k0, k1, x0, hg, b_a, b_b]
theorem simt_7d : simtRows.filter (Row.op 0x7d) =
    [⟨[(20, 7, 0x7d), (18, 2, 0x0)], fun w => .lnchLaunch (guardOf w) (bf w 12 6) (bf w 6 6) (bf w 0 6)⟩, ⟨[(20, 7, 0x7d), (0, 6, 0x0), (18, 2, 0x1)], fun w => .lnchGang (guardOf w) (bf w 12 6) (bf w 6 6)⟩, ⟨[(20, 7, 0x7d), (13, 7, 0x40)], fun w => .lnchBwrec (guardOf w) (bf w 12 1) (bf w 6 6) (bf w 0 6)⟩] := rfl
theorem lnchLaunch (gd : Guard) (d : BitVec 6) (a : BitVec 6) (b : BitVec 6) : Statement (.lnchLaunch gd d a b) := by
  have h_d := d.isLt
  have h_a := a.isLt
  have h_b := b.isLt
  intro wd hw
  have h0 : some (word32 (0x7d00000 + guardBits gd + d.toNat * 0x1000 + a.toNat * 0x40 + b.toNat)) = some wd := hw
  have hv : wd = (word32 (0x7d00000 + d.toNat * 0x1000 + a.toNat * 0x40 + b.toNat + guardBits gd)) := (Option.some.inj h0).symm.trans (congrArg word32 (by omega))
  have hr : 0x7d00000 + d.toNat * 0x1000 + a.toNat * 0x40 + b.toNat < 2 ^ 27 := by omega
  show decodeSimt wd = _
  have k0 : fld wd 20 7 = 0x7d := (hv ▸ fld_guarded gd hr (by omega)).trans (by omega)
  have k1 : fld wd 18 2 = 0x0 := (hv ▸ fld_guarded gd hr (by omega)).trans (by omega)
  have hg : guardOf wd = gd := hv ▸ guardOf_guarded gd hr
  have b_d : bf wd 12 6 = d := hv ▸ bf_guarded gd hr (by omega) (by omega)
  have b_a : bf wd 6 6 = a := hv ▸ bf_guarded gd hr (by omega) (by omega)
  have b_b : bf wd 0 6 = b := hv ▸ bf_guarded gd hr (by omega) (by omega)
  rw [decodeSimt_at 0x7d wd k0 (by decide), simt_7d]
  simp [decodeRows, Row.fits, k0, k1, hg, b_d, b_a, b_b]
theorem lnchGang (gd : Guard) (d : BitVec 6) (a : BitVec 6) : Statement (.lnchGang gd d a) := by
  have h_d := d.isLt
  have h_a := a.isLt
  intro wd hw
  have h0 : some (word32 (0x7d40000 + guardBits gd + d.toNat * 0x1000 + a.toNat * 0x40)) = some wd := hw
  have hv : wd = (word32 (0x7d40000 + d.toNat * 0x1000 + a.toNat * 0x40 + guardBits gd)) := (Option.some.inj h0).symm.trans (congrArg word32 (by omega))
  have hr : 0x7d40000 + d.toNat * 0x1000 + a.toNat * 0x40 < 2 ^ 27 := by omega
  show decodeSimt wd = _
  have k0 : fld wd 20 7 = 0x7d := (hv ▸ fld_guarded gd hr (by omega)).trans (by omega)
  have k1 : fld wd 0 6 = 0x0 := (hv ▸ fld_guarded gd hr (by omega)).trans (by omega)
  have k2 : fld wd 18 2 = 0x1 := (hv ▸ fld_guarded gd hr (by omega)).trans (by omega)
  have hg : guardOf wd = gd := hv ▸ guardOf_guarded gd hr
  have b_d : bf wd 12 6 = d := hv ▸ bf_guarded gd hr (by omega) (by omega)
  have b_a : bf wd 6 6 = a := hv ▸ bf_guarded gd hr (by omega) (by omega)
  rw [decodeSimt_at 0x7d wd k0 (by decide), simt_7d]
  simp [decodeRows, Row.fits, k0, k1, k2, hg, b_d, b_a]
theorem lnchBwrec (gd : Guard) (o : BitVec 1) (a : BitVec 6) (b : BitVec 6) : Statement (.lnchBwrec gd o a b) := by
  have h_o := o.isLt
  have h_a := a.isLt
  have h_b := b.isLt
  intro wd hw
  have h0 : some (word32 (0x7d80000 + guardBits gd + o.toNat * 0x1000 + a.toNat * 0x40 + b.toNat)) = some wd := hw
  have hv : wd = (word32 (0x7d80000 + o.toNat * 0x1000 + a.toNat * 0x40 + b.toNat + guardBits gd)) := (Option.some.inj h0).symm.trans (congrArg word32 (by omega))
  have hr : 0x7d80000 + o.toNat * 0x1000 + a.toNat * 0x40 + b.toNat < 2 ^ 27 := by omega
  show decodeSimt wd = _
  have k0 : fld wd 20 7 = 0x7d := (hv ▸ fld_guarded gd hr (by omega)).trans (by omega)
  have k1 : fld wd 13 7 = 0x40 := (hv ▸ fld_guarded gd hr (by omega)).trans (by omega)
  have x0 : (fld wd 18 2 == 0x0) = false := by
    rw [hv, fld_guarded gd hr (by omega), beq_eq_false_iff_ne]; omega
  have x1 : (fld wd 18 2 == 0x1) = false := by
    rw [hv, fld_guarded gd hr (by omega), beq_eq_false_iff_ne]; omega
  have hg : guardOf wd = gd := hv ▸ guardOf_guarded gd hr
  have b_o : bf wd 12 1 = o := hv ▸ bf_guarded gd hr (by omega) (by omega)
  have b_a : bf wd 6 6 = a := hv ▸ bf_guarded gd hr (by omega) (by omega)
  have b_b : bf wd 0 6 = b := hv ▸ bf_guarded gd hr (by omega) (by omega)
  rw [decodeSimt_at 0x7d wd k0 (by decide), simt_7d]
  simp [decodeRows, Row.fits, k0, k1, x0, x1, hg, b_o, b_a, b_b]
theorem simt_7e : simtRows.filter (Row.op 0x7e) =
    [⟨[(20, 7, 0x7e), (15, 5, 0x0)], fun w => .glog (guardOf w) (bf w 12 3) (bf w 6 6) (bf w 0 6)⟩, ⟨[(20, 7, 0x7e), (15, 5, 0x8)], fun w => .wfold (guardOf w) (bf w 12 3) (bf w 6 6) (bf w 0 6)⟩, ⟨[(20, 7, 0x7e), (0, 6, 0x0), (12, 8, 0x80)], fun w => .lscale (guardOf w) (bf w 6 6)⟩] := rfl
theorem glog (gd : Guard) (t : BitVec 3) (a : BitVec 6) (b : BitVec 6) : Statement (.glog gd t a b) := by
  have h_t := t.isLt
  have h_a := a.isLt
  have h_b := b.isLt
  intro wd hw
  have h0 : some (word32 (0x7e00000 + guardBits gd + t.toNat * 0x1000 + a.toNat * 0x40 + b.toNat)) = some wd := hw
  have hv : wd = (word32 (0x7e00000 + t.toNat * 0x1000 + a.toNat * 0x40 + b.toNat + guardBits gd)) := (Option.some.inj h0).symm.trans (congrArg word32 (by omega))
  have hr : 0x7e00000 + t.toNat * 0x1000 + a.toNat * 0x40 + b.toNat < 2 ^ 27 := by omega
  show decodeSimt wd = _
  have k0 : fld wd 20 7 = 0x7e := (hv ▸ fld_guarded gd hr (by omega)).trans (by omega)
  have k1 : fld wd 15 5 = 0x0 := (hv ▸ fld_guarded gd hr (by omega)).trans (by omega)
  have hg : guardOf wd = gd := hv ▸ guardOf_guarded gd hr
  have b_t : bf wd 12 3 = t := hv ▸ bf_guarded gd hr (by omega) (by omega)
  have b_a : bf wd 6 6 = a := hv ▸ bf_guarded gd hr (by omega) (by omega)
  have b_b : bf wd 0 6 = b := hv ▸ bf_guarded gd hr (by omega) (by omega)
  rw [decodeSimt_at 0x7e wd k0 (by decide), simt_7e]
  simp [decodeRows, Row.fits, k0, k1, hg, b_t, b_a, b_b]
theorem wfold (gd : Guard) (t : BitVec 3) (a : BitVec 6) (b : BitVec 6) : Statement (.wfold gd t a b) := by
  have h_t := t.isLt
  have h_a := a.isLt
  have h_b := b.isLt
  intro wd hw
  have h0 : some (word32 (0x7e40000 + guardBits gd + t.toNat * 0x1000 + a.toNat * 0x40 + b.toNat)) = some wd := hw
  have hv : wd = (word32 (0x7e40000 + t.toNat * 0x1000 + a.toNat * 0x40 + b.toNat + guardBits gd)) := (Option.some.inj h0).symm.trans (congrArg word32 (by omega))
  have hr : 0x7e40000 + t.toNat * 0x1000 + a.toNat * 0x40 + b.toNat < 2 ^ 27 := by omega
  show decodeSimt wd = _
  have k0 : fld wd 20 7 = 0x7e := (hv ▸ fld_guarded gd hr (by omega)).trans (by omega)
  have k1 : fld wd 15 5 = 0x8 := (hv ▸ fld_guarded gd hr (by omega)).trans (by omega)
  have hg : guardOf wd = gd := hv ▸ guardOf_guarded gd hr
  have b_t : bf wd 12 3 = t := hv ▸ bf_guarded gd hr (by omega) (by omega)
  have b_a : bf wd 6 6 = a := hv ▸ bf_guarded gd hr (by omega) (by omega)
  have b_b : bf wd 0 6 = b := hv ▸ bf_guarded gd hr (by omega) (by omega)
  rw [decodeSimt_at 0x7e wd k0 (by decide), simt_7e]
  simp [decodeRows, Row.fits, k0, k1, hg, b_t, b_a, b_b]
theorem lscale (gd : Guard) (a : BitVec 6) : Statement (.lscale gd a) := by
  have h_a := a.isLt
  intro wd hw
  have h0 : some (word32 (0x7e80000 + guardBits gd + a.toNat * 0x40)) = some wd := hw
  have hv : wd = (word32 (0x7e80000 + a.toNat * 0x40 + guardBits gd)) := (Option.some.inj h0).symm.trans (congrArg word32 (by omega))
  have hr : 0x7e80000 + a.toNat * 0x40 < 2 ^ 27 := by omega
  show decodeSimt wd = _
  have k0 : fld wd 20 7 = 0x7e := (hv ▸ fld_guarded gd hr (by omega)).trans (by omega)
  have k1 : fld wd 0 6 = 0x0 := (hv ▸ fld_guarded gd hr (by omega)).trans (by omega)
  have k2 : fld wd 12 8 = 0x80 := (hv ▸ fld_guarded gd hr (by omega)).trans (by omega)
  have x0 : (fld wd 15 5 == 0x0) = false := by
    rw [hv, fld_guarded gd hr (by omega), beq_eq_false_iff_ne]; omega
  have x1 : (fld wd 15 5 == 0x8) = false := by
    rw [hv, fld_guarded gd hr (by omega), beq_eq_false_iff_ne]; omega
  have hg : guardOf wd = gd := hv ▸ guardOf_guarded gd hr
  have b_a : bf wd 6 6 = a := hv ▸ bf_guarded gd hr (by omega) (by omega)
  rw [decodeSimt_at 0x7e wd k0 (by decide), simt_7e]
  simp [decodeRows, Row.fits, k0, k1, k2, x0, x1, hg, b_a]
theorem simt_7f : simtRows.filter (Row.op 0x7f) =
    [⟨[(20, 7, 0x7f), (0, 6, 0x0), (18, 2, 0x0)], fun w => .csrr (guardOf w) (bf w 12 6) (bf w 6 6)⟩, ⟨[(20, 7, 0x7f), (0, 6, 0x1), (18, 2, 0x0)], fun w => .csrw (guardOf w) (bf w 12 6) (bf w 6 6)⟩, ⟨[(20, 7, 0x7f), (0, 6, 0x2), (18, 2, 0x0)], fun w => .trap (guardOf w) (bf w 6 12)⟩, ⟨[(20, 7, 0x7f), (0, 6, 0x3), (18, 2, 0x0)], fun w => .bkpt (guardOf w) (bf w 6 12)⟩, ⟨[(20, 7, 0x7f), (0, 20, 0x4)], fun w => .rte (guardOf w)⟩, ⟨[(20, 7, 0x7f), (0, 20, 0x5)], fun w => .wdog (guardOf w)⟩, ⟨[(20, 7, 0x7f), (0, 6, 0x6), (12, 8, 0x0)], fun w => .dbgmbSend (guardOf w) (bf w 6 6)⟩, ⟨[(20, 7, 0x7f), (0, 12, 0x6), (18, 2, 0x1)], fun w => .dbgmbRecv (guardOf w) (bf w 12 6)⟩, ⟨[(20, 7, 0x7f), (0, 6, 0x6), (18, 2, 0x2)], fun w => .dbgmbXchg (guardOf w) (bf w 12 6) (bf w 6 6)⟩] := rfl
theorem csrr (gd : Guard) (d : BitVec 6) (a : BitVec 6) : Statement (.csrr gd d a) := by
  have h_d := d.isLt
  have h_a := a.isLt
  intro wd hw
  have h0 : some (word32 (0x7f00000 + guardBits gd + d.toNat * 0x1000 + a.toNat * 0x40)) = some wd := hw
  have hv : wd = (word32 (0x7f00000 + d.toNat * 0x1000 + a.toNat * 0x40 + guardBits gd)) := (Option.some.inj h0).symm.trans (congrArg word32 (by omega))
  have hr : 0x7f00000 + d.toNat * 0x1000 + a.toNat * 0x40 < 2 ^ 27 := by omega
  show decodeSimt wd = _
  have k0 : fld wd 20 7 = 0x7f := (hv ▸ fld_guarded gd hr (by omega)).trans (by omega)
  have k1 : fld wd 0 6 = 0x0 := (hv ▸ fld_guarded gd hr (by omega)).trans (by omega)
  have k2 : fld wd 18 2 = 0x0 := (hv ▸ fld_guarded gd hr (by omega)).trans (by omega)
  have hg : guardOf wd = gd := hv ▸ guardOf_guarded gd hr
  have b_d : bf wd 12 6 = d := hv ▸ bf_guarded gd hr (by omega) (by omega)
  have b_a : bf wd 6 6 = a := hv ▸ bf_guarded gd hr (by omega) (by omega)
  rw [decodeSimt_at 0x7f wd k0 (by decide), simt_7f]
  simp [decodeRows, Row.fits, k0, k1, k2, hg, b_d, b_a]
theorem csrw (gd : Guard) (d : BitVec 6) (a : BitVec 6) : Statement (.csrw gd d a) := by
  have h_d := d.isLt
  have h_a := a.isLt
  intro wd hw
  have h0 : some (word32 (0x7f00001 + guardBits gd + d.toNat * 0x1000 + a.toNat * 0x40)) = some wd := hw
  have hv : wd = (word32 (0x7f00001 + d.toNat * 0x1000 + a.toNat * 0x40 + guardBits gd)) := (Option.some.inj h0).symm.trans (congrArg word32 (by omega))
  have hr : 0x7f00001 + d.toNat * 0x1000 + a.toNat * 0x40 < 2 ^ 27 := by omega
  show decodeSimt wd = _
  have k0 : fld wd 20 7 = 0x7f := (hv ▸ fld_guarded gd hr (by omega)).trans (by omega)
  have k1 : fld wd 0 6 = 0x1 := (hv ▸ fld_guarded gd hr (by omega)).trans (by omega)
  have k2 : fld wd 18 2 = 0x0 := (hv ▸ fld_guarded gd hr (by omega)).trans (by omega)
  have hg : guardOf wd = gd := hv ▸ guardOf_guarded gd hr
  have b_d : bf wd 12 6 = d := hv ▸ bf_guarded gd hr (by omega) (by omega)
  have b_a : bf wd 6 6 = a := hv ▸ bf_guarded gd hr (by omega) (by omega)
  rw [decodeSimt_at 0x7f wd k0 (by decide), simt_7f]
  simp [decodeRows, Row.fits, k0, k1, k2, hg, b_d, b_a]
theorem trap (gd : Guard) (c : BitVec 12) : Statement (.trap gd c) := by
  have h_c := c.isLt
  intro wd hw
  have h0 : some (word32 (0x7f00002 + guardBits gd + c.toNat * 0x40)) = some wd := hw
  have hv : wd = (word32 (0x7f00002 + c.toNat * 0x40 + guardBits gd)) := (Option.some.inj h0).symm.trans (congrArg word32 (by omega))
  have hr : 0x7f00002 + c.toNat * 0x40 < 2 ^ 27 := by omega
  show decodeSimt wd = _
  have k0 : fld wd 20 7 = 0x7f := (hv ▸ fld_guarded gd hr (by omega)).trans (by omega)
  have k1 : fld wd 0 6 = 0x2 := (hv ▸ fld_guarded gd hr (by omega)).trans (by omega)
  have k2 : fld wd 18 2 = 0x0 := (hv ▸ fld_guarded gd hr (by omega)).trans (by omega)
  have hg : guardOf wd = gd := hv ▸ guardOf_guarded gd hr
  have b_c : bf wd 6 12 = c := hv ▸ bf_guarded gd hr (by omega) (by omega)
  rw [decodeSimt_at 0x7f wd k0 (by decide), simt_7f]
  simp [decodeRows, Row.fits, k0, k1, k2, hg, b_c]
theorem bkpt (gd : Guard) (c : BitVec 12) : Statement (.bkpt gd c) := by
  have h_c := c.isLt
  intro wd hw
  have h0 : some (word32 (0x7f00003 + guardBits gd + c.toNat * 0x40)) = some wd := hw
  have hv : wd = (word32 (0x7f00003 + c.toNat * 0x40 + guardBits gd)) := (Option.some.inj h0).symm.trans (congrArg word32 (by omega))
  have hr : 0x7f00003 + c.toNat * 0x40 < 2 ^ 27 := by omega
  show decodeSimt wd = _
  have k0 : fld wd 20 7 = 0x7f := (hv ▸ fld_guarded gd hr (by omega)).trans (by omega)
  have k1 : fld wd 0 6 = 0x3 := (hv ▸ fld_guarded gd hr (by omega)).trans (by omega)
  have k2 : fld wd 18 2 = 0x0 := (hv ▸ fld_guarded gd hr (by omega)).trans (by omega)
  have hg : guardOf wd = gd := hv ▸ guardOf_guarded gd hr
  have b_c : bf wd 6 12 = c := hv ▸ bf_guarded gd hr (by omega) (by omega)
  rw [decodeSimt_at 0x7f wd k0 (by decide), simt_7f]
  simp [decodeRows, Row.fits, k0, k1, k2, hg, b_c]
theorem rte (gd : Guard) : Statement (.rte gd) := by
  intro wd hw
  have h0 : some (word32 (0x7f00004 + guardBits gd)) = some wd := hw
  have hv : wd = (word32 (0x7f00004 + guardBits gd)) := (Option.some.inj h0).symm.trans (congrArg word32 (by omega))
  have hr : 0x7f00004 < 2 ^ 27 := by omega
  show decodeSimt wd = _
  have k0 : fld wd 20 7 = 0x7f := (hv ▸ fld_guarded gd hr (by omega)).trans (by omega)
  have k1 : fld wd 0 20 = 0x4 := (hv ▸ fld_guarded gd hr (by omega)).trans (by omega)
  have x0 : (fld wd 0 6 == 0x0) = false := by
    rw [hv, fld_guarded gd hr (by omega), beq_eq_false_iff_ne]; omega
  have x1 : (fld wd 0 6 == 0x1) = false := by
    rw [hv, fld_guarded gd hr (by omega), beq_eq_false_iff_ne]; omega
  have x2 : (fld wd 0 6 == 0x2) = false := by
    rw [hv, fld_guarded gd hr (by omega), beq_eq_false_iff_ne]; omega
  have x3 : (fld wd 0 6 == 0x3) = false := by
    rw [hv, fld_guarded gd hr (by omega), beq_eq_false_iff_ne]; omega
  have hg : guardOf wd = gd := hv ▸ guardOf_guarded gd hr
  rw [decodeSimt_at 0x7f wd k0 (by decide), simt_7f]
  simp [decodeRows, Row.fits, k0, k1, x0, x1, x2, x3, hg]
theorem wdog (gd : Guard) : Statement (.wdog gd) := by
  intro wd hw
  have h0 : some (word32 (0x7f00005 + guardBits gd)) = some wd := hw
  have hv : wd = (word32 (0x7f00005 + guardBits gd)) := (Option.some.inj h0).symm.trans (congrArg word32 (by omega))
  have hr : 0x7f00005 < 2 ^ 27 := by omega
  show decodeSimt wd = _
  have k0 : fld wd 20 7 = 0x7f := (hv ▸ fld_guarded gd hr (by omega)).trans (by omega)
  have k1 : fld wd 0 20 = 0x5 := (hv ▸ fld_guarded gd hr (by omega)).trans (by omega)
  have x0 : (fld wd 0 6 == 0x0) = false := by
    rw [hv, fld_guarded gd hr (by omega), beq_eq_false_iff_ne]; omega
  have x1 : (fld wd 0 6 == 0x1) = false := by
    rw [hv, fld_guarded gd hr (by omega), beq_eq_false_iff_ne]; omega
  have x2 : (fld wd 0 6 == 0x2) = false := by
    rw [hv, fld_guarded gd hr (by omega), beq_eq_false_iff_ne]; omega
  have x3 : (fld wd 0 6 == 0x3) = false := by
    rw [hv, fld_guarded gd hr (by omega), beq_eq_false_iff_ne]; omega
  have hg : guardOf wd = gd := hv ▸ guardOf_guarded gd hr
  rw [decodeSimt_at 0x7f wd k0 (by decide), simt_7f]
  simp [decodeRows, Row.fits, k0, k1, x0, x1, x2, x3, hg]
theorem dbgmbSend (gd : Guard) (a : BitVec 6) : Statement (.dbgmbSend gd a) := by
  have h_a := a.isLt
  intro wd hw
  have h0 : some (word32 (0x7f00006 + guardBits gd + a.toNat * 0x40)) = some wd := hw
  have hv : wd = (word32 (0x7f00006 + a.toNat * 0x40 + guardBits gd)) := (Option.some.inj h0).symm.trans (congrArg word32 (by omega))
  have hr : 0x7f00006 + a.toNat * 0x40 < 2 ^ 27 := by omega
  show decodeSimt wd = _
  have k0 : fld wd 20 7 = 0x7f := (hv ▸ fld_guarded gd hr (by omega)).trans (by omega)
  have k1 : fld wd 0 6 = 0x6 := (hv ▸ fld_guarded gd hr (by omega)).trans (by omega)
  have k2 : fld wd 12 8 = 0x0 := (hv ▸ fld_guarded gd hr (by omega)).trans (by omega)
  have x0 : (fld wd 0 20 == 0x4) = false := by
    rw [hv, fld_guarded gd hr (by omega), beq_eq_false_iff_ne]; omega
  have x1 : (fld wd 0 20 == 0x5) = false := by
    rw [hv, fld_guarded gd hr (by omega), beq_eq_false_iff_ne]; omega
  have hg : guardOf wd = gd := hv ▸ guardOf_guarded gd hr
  have b_a : bf wd 6 6 = a := hv ▸ bf_guarded gd hr (by omega) (by omega)
  rw [decodeSimt_at 0x7f wd k0 (by decide), simt_7f]
  simp [decodeRows, Row.fits, k0, k1, k2, x0, x1, hg, b_a]
theorem dbgmbRecv (gd : Guard) (d : BitVec 6) : Statement (.dbgmbRecv gd d) := by
  have h_d := d.isLt
  intro wd hw
  have h0 : some (word32 (0x7f40006 + guardBits gd + d.toNat * 0x1000)) = some wd := hw
  have hv : wd = (word32 (0x7f40006 + d.toNat * 0x1000 + guardBits gd)) := (Option.some.inj h0).symm.trans (congrArg word32 (by omega))
  have hr : 0x7f40006 + d.toNat * 0x1000 < 2 ^ 27 := by omega
  show decodeSimt wd = _
  have k0 : fld wd 20 7 = 0x7f := (hv ▸ fld_guarded gd hr (by omega)).trans (by omega)
  have k1 : fld wd 0 12 = 0x6 := (hv ▸ fld_guarded gd hr (by omega)).trans (by omega)
  have k2 : fld wd 18 2 = 0x1 := (hv ▸ fld_guarded gd hr (by omega)).trans (by omega)
  have x0 : (fld wd 0 6 == 0x0) = false := by
    rw [hv, fld_guarded gd hr (by omega), beq_eq_false_iff_ne]; omega
  have x1 : (fld wd 0 6 == 0x1) = false := by
    rw [hv, fld_guarded gd hr (by omega), beq_eq_false_iff_ne]; omega
  have x2 : (fld wd 0 6 == 0x2) = false := by
    rw [hv, fld_guarded gd hr (by omega), beq_eq_false_iff_ne]; omega
  have x3 : (fld wd 0 6 == 0x3) = false := by
    rw [hv, fld_guarded gd hr (by omega), beq_eq_false_iff_ne]; omega
  have x4 : (fld wd 0 20 == 0x4) = false := by
    rw [hv, fld_guarded gd hr (by omega), beq_eq_false_iff_ne]; omega
  have x5 : (fld wd 0 20 == 0x5) = false := by
    rw [hv, fld_guarded gd hr (by omega), beq_eq_false_iff_ne]; omega
  have x6 : (fld wd 12 8 == 0x0) = false := by
    rw [hv, fld_guarded gd hr (by omega), beq_eq_false_iff_ne]; omega
  have hg : guardOf wd = gd := hv ▸ guardOf_guarded gd hr
  have b_d : bf wd 12 6 = d := hv ▸ bf_guarded gd hr (by omega) (by omega)
  rw [decodeSimt_at 0x7f wd k0 (by decide), simt_7f]
  simp [decodeRows, Row.fits, k0, k1, k2, x0, x1, x2, x3, x4, x5, x6, hg, b_d]
theorem dbgmbXchg (gd : Guard) (d : BitVec 6) (a : BitVec 6) : Statement (.dbgmbXchg gd d a) := by
  have h_d := d.isLt
  have h_a := a.isLt
  intro wd hw
  have h0 : some (word32 (0x7f80006 + guardBits gd + d.toNat * 0x1000 + a.toNat * 0x40)) = some wd := hw
  have hv : wd = (word32 (0x7f80006 + d.toNat * 0x1000 + a.toNat * 0x40 + guardBits gd)) := (Option.some.inj h0).symm.trans (congrArg word32 (by omega))
  have hr : 0x7f80006 + d.toNat * 0x1000 + a.toNat * 0x40 < 2 ^ 27 := by omega
  show decodeSimt wd = _
  have k0 : fld wd 20 7 = 0x7f := (hv ▸ fld_guarded gd hr (by omega)).trans (by omega)
  have k1 : fld wd 0 6 = 0x6 := (hv ▸ fld_guarded gd hr (by omega)).trans (by omega)
  have k2 : fld wd 18 2 = 0x2 := (hv ▸ fld_guarded gd hr (by omega)).trans (by omega)
  have x0 : (fld wd 0 20 == 0x4) = false := by
    rw [hv, fld_guarded gd hr (by omega), beq_eq_false_iff_ne]; omega
  have x1 : (fld wd 0 20 == 0x5) = false := by
    rw [hv, fld_guarded gd hr (by omega), beq_eq_false_iff_ne]; omega
  have x2 : (fld wd 12 8 == 0x0) = false := by
    rw [hv, fld_guarded gd hr (by omega), beq_eq_false_iff_ne]; omega
  have hg : guardOf wd = gd := hv ▸ guardOf_guarded gd hr
  have b_d : bf wd 12 6 = d := hv ▸ bf_guarded gd hr (by omega) (by omega)
  have b_a : bf wd 6 6 = a := hv ▸ bf_guarded gd hr (by omega) (by omega)
  rw [decodeSimt_at 0x7f wd k0 (by decide), simt_7f]
  simp [decodeRows, Row.fits, k0, k1, k2, x0, x1, x2, hg, b_d, b_a]
theorem circuit_00 : circuitRows.filter (Row.op 0x0) =
    [⟨[(27, 5, 0x0), (8, 19, 0x0)], fun w => .halt (bf w 0 8)⟩] := rfl
theorem halt (c : BitVec 8) : Statement (.halt c) := by
  have h_c := c.isLt
  intro wd hw
  have h0 : some (word32 (0x0 + c.toNat)) = some wd := hw
  have hv : wd = (word32 (0x0 + c.toNat)) := (Option.some.inj h0).symm
  have hr : 0x0 + c.toNat < 2 ^ 32 := by omega
  show decodeCircuit wd = _
  have k0 : fld wd 27 5 = 0x0 := (hv ▸ fld_plain hr (by omega)).trans (by omega)
  have k1 : fld wd 8 19 = 0x0 := (hv ▸ fld_plain hr (by omega)).trans (by omega)
  have b_c : bf wd 0 8 = c := hv ▸ bf_plain hr (by omega) (by omega)
  rw [decodeCircuit_at 0x0 wd k0, circuit_00]
  simp [decodeRows, Row.fits, k0, k1, b_c]
theorem circuit_01 : circuitRows.filter (Row.op 0x1) =
    [⟨[(27, 5, 0x1), (16, 4, 0x0)], fun w => .circuitMovi (bf w 23 4) (bf w 21 2) (bf w 20 1) (bf w 0 16)⟩] := rfl
theorem circuitMovi (d : BitVec 4) (h : BitVec 2) (k : BitVec 1) (i : BitVec 16) : Statement (.circuitMovi d h k i) := by
  have h_d := d.isLt
  have h_h := h.isLt
  have h_k := k.isLt
  have h_i := i.isLt
  intro wd hw
  have h0 : some (word32 (0x8000000 + d.toNat * 0x800000 + h.toNat * 0x200000 + k.toNat * 0x100000 + i.toNat)) = some wd := hw
  have hv : wd = (word32 (0x8000000 + d.toNat * 0x800000 + h.toNat * 0x200000 + k.toNat * 0x100000 + i.toNat)) := (Option.some.inj h0).symm
  have hr : 0x8000000 + d.toNat * 0x800000 + h.toNat * 0x200000 + k.toNat * 0x100000 + i.toNat < 2 ^ 32 := by omega
  show decodeCircuit wd = _
  have k0 : fld wd 27 5 = 0x1 := (hv ▸ fld_plain hr (by omega)).trans (by omega)
  have k1 : fld wd 16 4 = 0x0 := (hv ▸ fld_plain hr (by omega)).trans (by omega)
  have b_d : bf wd 23 4 = d := hv ▸ bf_plain hr (by omega) (by omega)
  have b_h : bf wd 21 2 = h := hv ▸ bf_plain hr (by omega) (by omega)
  have b_k : bf wd 20 1 = k := hv ▸ bf_plain hr (by omega) (by omega)
  have b_i : bf wd 0 16 = i := hv ▸ bf_plain hr (by omega) (by omega)
  rw [decodeCircuit_at 0x1 wd k0, circuit_01]
  simp [decodeRows, Row.fits, k0, k1, b_d, b_h, b_k, b_i]
theorem circuit_02 : circuitRows.filter (Row.op 0x2) =
    [⟨[(27, 5, 0x2)], fun w => .circuitAdd (bf w 23 4) (bf w 19 4) (bf w 15 4) (bf w 0 15)⟩] := rfl
theorem circuitAdd (d : BitVec 4) (a : BitVec 4) (b : BitVec 4) (i : BitVec 15) : Statement (.circuitAdd d a b i) := by
  have h_d := d.isLt
  have h_a := a.isLt
  have h_b := b.isLt
  have h_i := i.isLt
  intro wd hw
  have h0 : some (word32 (0x10000000 + d.toNat * 0x800000 + a.toNat * 0x80000 + b.toNat * 0x8000 + i.toNat)) = some wd := hw
  have hv : wd = (word32 (0x10000000 + d.toNat * 0x800000 + a.toNat * 0x80000 + b.toNat * 0x8000 + i.toNat)) := (Option.some.inj h0).symm
  have hr : 0x10000000 + d.toNat * 0x800000 + a.toNat * 0x80000 + b.toNat * 0x8000 + i.toNat < 2 ^ 32 := by omega
  show decodeCircuit wd = _
  have k0 : fld wd 27 5 = 0x2 := (hv ▸ fld_plain hr (by omega)).trans (by omega)
  have b_d : bf wd 23 4 = d := hv ▸ bf_plain hr (by omega) (by omega)
  have b_a : bf wd 19 4 = a := hv ▸ bf_plain hr (by omega) (by omega)
  have b_b : bf wd 15 4 = b := hv ▸ bf_plain hr (by omega) (by omega)
  have b_i : bf wd 0 15 = i := hv ▸ bf_plain hr (by omega) (by omega)
  rw [decodeCircuit_at 0x2 wd k0, circuit_02]
  simp [decodeRows, Row.fits, k0, b_d, b_a, b_b, b_i]
theorem circuit_03 : circuitRows.filter (Row.op 0x3) =
    [⟨[(27, 5, 0x3), (0, 15, 0x0)], fun w => .circuitSub (bf w 23 4) (bf w 19 4) (bf w 15 4)⟩] := rfl
theorem circuitSub (d : BitVec 4) (a : BitVec 4) (b : BitVec 4) : Statement (.circuitSub d a b) := by
  have h_d := d.isLt
  have h_a := a.isLt
  have h_b := b.isLt
  intro wd hw
  have h0 : some (word32 (0x18000000 + d.toNat * 0x800000 + a.toNat * 0x80000 + b.toNat * 0x8000)) = some wd := hw
  have hv : wd = (word32 (0x18000000 + d.toNat * 0x800000 + a.toNat * 0x80000 + b.toNat * 0x8000)) := (Option.some.inj h0).symm
  have hr : 0x18000000 + d.toNat * 0x800000 + a.toNat * 0x80000 + b.toNat * 0x8000 < 2 ^ 32 := by omega
  show decodeCircuit wd = _
  have k0 : fld wd 27 5 = 0x3 := (hv ▸ fld_plain hr (by omega)).trans (by omega)
  have k1 : fld wd 0 15 = 0x0 := (hv ▸ fld_plain hr (by omega)).trans (by omega)
  have b_d : bf wd 23 4 = d := hv ▸ bf_plain hr (by omega) (by omega)
  have b_a : bf wd 19 4 = a := hv ▸ bf_plain hr (by omega) (by omega)
  have b_b : bf wd 15 4 = b := hv ▸ bf_plain hr (by omega) (by omega)
  rw [decodeCircuit_at 0x3 wd k0, circuit_03]
  simp [decodeRows, Row.fits, k0, k1, b_d, b_a, b_b]
theorem circuit_04 : circuitRows.filter (Row.op 0x4) =
    [⟨[(27, 5, 0x4), (0, 15, 0x0)], fun w => .circuitAnd (bf w 23 4) (bf w 19 4) (bf w 15 4)⟩] := rfl
theorem circuitAnd (d : BitVec 4) (a : BitVec 4) (b : BitVec 4) : Statement (.circuitAnd d a b) := by
  have h_d := d.isLt
  have h_a := a.isLt
  have h_b := b.isLt
  intro wd hw
  have h0 : some (word32 (0x20000000 + d.toNat * 0x800000 + a.toNat * 0x80000 + b.toNat * 0x8000)) = some wd := hw
  have hv : wd = (word32 (0x20000000 + d.toNat * 0x800000 + a.toNat * 0x80000 + b.toNat * 0x8000)) := (Option.some.inj h0).symm
  have hr : 0x20000000 + d.toNat * 0x800000 + a.toNat * 0x80000 + b.toNat * 0x8000 < 2 ^ 32 := by omega
  show decodeCircuit wd = _
  have k0 : fld wd 27 5 = 0x4 := (hv ▸ fld_plain hr (by omega)).trans (by omega)
  have k1 : fld wd 0 15 = 0x0 := (hv ▸ fld_plain hr (by omega)).trans (by omega)
  have b_d : bf wd 23 4 = d := hv ▸ bf_plain hr (by omega) (by omega)
  have b_a : bf wd 19 4 = a := hv ▸ bf_plain hr (by omega) (by omega)
  have b_b : bf wd 15 4 = b := hv ▸ bf_plain hr (by omega) (by omega)
  rw [decodeCircuit_at 0x4 wd k0, circuit_04]
  simp [decodeRows, Row.fits, k0, k1, b_d, b_a, b_b]
theorem circuit_05 : circuitRows.filter (Row.op 0x5) =
    [⟨[(27, 5, 0x5), (23, 4, 0x0)], fun w => .beq (bf w 19 4) (bf w 15 4) (bf w 0 15)⟩] := rfl
theorem beq (a : BitVec 4) (b : BitVec 4) (o : BitVec 15) : Statement (.beq a b o) := by
  have h_a := a.isLt
  have h_b := b.isLt
  have h_o := o.isLt
  intro wd hw
  have h0 : some (word32 (0x28000000 + a.toNat * 0x80000 + b.toNat * 0x8000 + o.toNat)) = some wd := hw
  have hv : wd = (word32 (0x28000000 + a.toNat * 0x80000 + b.toNat * 0x8000 + o.toNat)) := (Option.some.inj h0).symm
  have hr : 0x28000000 + a.toNat * 0x80000 + b.toNat * 0x8000 + o.toNat < 2 ^ 32 := by omega
  show decodeCircuit wd = _
  have k0 : fld wd 27 5 = 0x5 := (hv ▸ fld_plain hr (by omega)).trans (by omega)
  have k1 : fld wd 23 4 = 0x0 := (hv ▸ fld_plain hr (by omega)).trans (by omega)
  have b_a : bf wd 19 4 = a := hv ▸ bf_plain hr (by omega) (by omega)
  have b_b : bf wd 15 4 = b := hv ▸ bf_plain hr (by omega) (by omega)
  have b_o : bf wd 0 15 = o := hv ▸ bf_plain hr (by omega) (by omega)
  rw [decodeCircuit_at 0x5 wd k0, circuit_05]
  simp [decodeRows, Row.fits, k0, k1, b_a, b_b, b_o]
theorem circuit_06 : circuitRows.filter (Row.op 0x6) =
    [⟨[(27, 5, 0x6), (23, 4, 0x0)], fun w => .bne (bf w 19 4) (bf w 15 4) (bf w 0 15)⟩] := rfl
theorem bne (a : BitVec 4) (b : BitVec 4) (o : BitVec 15) : Statement (.bne a b o) := by
  have h_a := a.isLt
  have h_b := b.isLt
  have h_o := o.isLt
  intro wd hw
  have h0 : some (word32 (0x30000000 + a.toNat * 0x80000 + b.toNat * 0x8000 + o.toNat)) = some wd := hw
  have hv : wd = (word32 (0x30000000 + a.toNat * 0x80000 + b.toNat * 0x8000 + o.toNat)) := (Option.some.inj h0).symm
  have hr : 0x30000000 + a.toNat * 0x80000 + b.toNat * 0x8000 + o.toNat < 2 ^ 32 := by omega
  show decodeCircuit wd = _
  have k0 : fld wd 27 5 = 0x6 := (hv ▸ fld_plain hr (by omega)).trans (by omega)
  have k1 : fld wd 23 4 = 0x0 := (hv ▸ fld_plain hr (by omega)).trans (by omega)
  have b_a : bf wd 19 4 = a := hv ▸ bf_plain hr (by omega) (by omega)
  have b_b : bf wd 15 4 = b := hv ▸ bf_plain hr (by omega) (by omega)
  have b_o : bf wd 0 15 = o := hv ▸ bf_plain hr (by omega) (by omega)
  rw [decodeCircuit_at 0x6 wd k0, circuit_06]
  simp [decodeRows, Row.fits, k0, k1, b_a, b_b, b_o]
theorem circuit_07 : circuitRows.filter (Row.op 0x7) =
    [⟨[(27, 5, 0x7), (23, 4, 0x0)], fun w => .blt (bf w 19 4) (bf w 15 4) (bf w 0 15)⟩] := rfl
theorem blt (a : BitVec 4) (b : BitVec 4) (o : BitVec 15) : Statement (.blt a b o) := by
  have h_a := a.isLt
  have h_b := b.isLt
  have h_o := o.isLt
  intro wd hw
  have h0 : some (word32 (0x38000000 + a.toNat * 0x80000 + b.toNat * 0x8000 + o.toNat)) = some wd := hw
  have hv : wd = (word32 (0x38000000 + a.toNat * 0x80000 + b.toNat * 0x8000 + o.toNat)) := (Option.some.inj h0).symm
  have hr : 0x38000000 + a.toNat * 0x80000 + b.toNat * 0x8000 + o.toNat < 2 ^ 32 := by omega
  show decodeCircuit wd = _
  have k0 : fld wd 27 5 = 0x7 := (hv ▸ fld_plain hr (by omega)).trans (by omega)
  have k1 : fld wd 23 4 = 0x0 := (hv ▸ fld_plain hr (by omega)).trans (by omega)
  have b_a : bf wd 19 4 = a := hv ▸ bf_plain hr (by omega) (by omega)
  have b_b : bf wd 15 4 = b := hv ▸ bf_plain hr (by omega) (by omega)
  have b_o : bf wd 0 15 = o := hv ▸ bf_plain hr (by omega) (by omega)
  rw [decodeCircuit_at 0x7 wd k0, circuit_07]
  simp [decodeRows, Row.fits, k0, k1, b_a, b_b, b_o]
theorem circuit_08 : circuitRows.filter (Row.op 0x8) =
    [⟨[(27, 5, 0x8), (15, 12, 0x0)], fun w => .jmp (bf w 0 15)⟩] := rfl
theorem jmp (o : BitVec 15) : Statement (.jmp o) := by
  have h_o := o.isLt
  intro wd hw
  have h0 : some (word32 (0x40000000 + o.toNat)) = some wd := hw
  have hv : wd = (word32 (0x40000000 + o.toNat)) := (Option.some.inj h0).symm
  have hr : 0x40000000 + o.toNat < 2 ^ 32 := by omega
  show decodeCircuit wd = _
  have k0 : fld wd 27 5 = 0x8 := (hv ▸ fld_plain hr (by omega)).trans (by omega)
  have k1 : fld wd 15 12 = 0x0 := (hv ▸ fld_plain hr (by omega)).trans (by omega)
  have b_o : bf wd 0 15 = o := hv ▸ bf_plain hr (by omega) (by omega)
  rw [decodeCircuit_at 0x8 wd k0, circuit_08]
  simp [decodeRows, Row.fits, k0, k1, b_o]
theorem circuit_09 : circuitRows.filter (Row.op 0x9) =
    [⟨[(27, 5, 0x9), (15, 4, 0x0)], fun w => .ldc (bf w 23 4) (bf w 19 4) (bf w 0 15)⟩] := rfl
theorem ldc (d : BitVec 4) (a : BitVec 4) (i : BitVec 15) : Statement (.ldc d a i) := by
  have h_d := d.isLt
  have h_a := a.isLt
  have h_i := i.isLt
  intro wd hw
  have h0 : some (word32 (0x48000000 + d.toNat * 0x800000 + a.toNat * 0x80000 + i.toNat)) = some wd := hw
  have hv : wd = (word32 (0x48000000 + d.toNat * 0x800000 + a.toNat * 0x80000 + i.toNat)) := (Option.some.inj h0).symm
  have hr : 0x48000000 + d.toNat * 0x800000 + a.toNat * 0x80000 + i.toNat < 2 ^ 32 := by omega
  show decodeCircuit wd = _
  have k0 : fld wd 27 5 = 0x9 := (hv ▸ fld_plain hr (by omega)).trans (by omega)
  have k1 : fld wd 15 4 = 0x0 := (hv ▸ fld_plain hr (by omega)).trans (by omega)
  have b_d : bf wd 23 4 = d := hv ▸ bf_plain hr (by omega) (by omega)
  have b_a : bf wd 19 4 = a := hv ▸ bf_plain hr (by omega) (by omega)
  have b_i : bf wd 0 15 = i := hv ▸ bf_plain hr (by omega) (by omega)
  rw [decodeCircuit_at 0x9 wd k0, circuit_09]
  simp [decodeRows, Row.fits, k0, k1, b_d, b_a, b_i]
theorem circuit_0a : circuitRows.filter (Row.op 0xa) =
    [⟨[(27, 5, 0xa), (23, 4, 0x0)], fun w => .stc (bf w 19 4) (bf w 15 4) (bf w 0 15)⟩] := rfl
theorem stc (a : BitVec 4) (b : BitVec 4) (i : BitVec 15) : Statement (.stc a b i) := by
  have h_a := a.isLt
  have h_b := b.isLt
  have h_i := i.isLt
  intro wd hw
  have h0 : some (word32 (0x50000000 + a.toNat * 0x80000 + b.toNat * 0x8000 + i.toNat)) = some wd := hw
  have hv : wd = (word32 (0x50000000 + a.toNat * 0x80000 + b.toNat * 0x8000 + i.toNat)) := (Option.some.inj h0).symm
  have hr : 0x50000000 + a.toNat * 0x80000 + b.toNat * 0x8000 + i.toNat < 2 ^ 32 := by omega
  show decodeCircuit wd = _
  have k0 : fld wd 27 5 = 0xa := (hv ▸ fld_plain hr (by omega)).trans (by omega)
  have k1 : fld wd 23 4 = 0x0 := (hv ▸ fld_plain hr (by omega)).trans (by omega)
  have b_a : bf wd 19 4 = a := hv ▸ bf_plain hr (by omega) (by omega)
  have b_b : bf wd 15 4 = b := hv ▸ bf_plain hr (by omega) (by omega)
  have b_i : bf wd 0 15 = i := hv ▸ bf_plain hr (by omega) (by omega)
  rw [decodeCircuit_at 0xa wd k0, circuit_0a]
  simp [decodeRows, Row.fits, k0, k1, b_a, b_b, b_i]
theorem circuit_0b : circuitRows.filter (Row.op 0xb) =
    [⟨[(27, 5, 0xb), (0, 19, 0x0), (23, 4, 0x0)], fun w => .creq (bf w 19 4)⟩] := rfl
theorem creq (a : BitVec 4) : Statement (.creq a) := by
  have h_a := a.isLt
  intro wd hw
  have h0 : some (word32 (0x58000000 + a.toNat * 0x80000)) = some wd := hw
  have hv : wd = (word32 (0x58000000 + a.toNat * 0x80000)) := (Option.some.inj h0).symm
  have hr : 0x58000000 + a.toNat * 0x80000 < 2 ^ 32 := by omega
  show decodeCircuit wd = _
  have k0 : fld wd 27 5 = 0xb := (hv ▸ fld_plain hr (by omega)).trans (by omega)
  have k1 : fld wd 0 19 = 0x0 := (hv ▸ fld_plain hr (by omega)).trans (by omega)
  have k2 : fld wd 23 4 = 0x0 := (hv ▸ fld_plain hr (by omega)).trans (by omega)
  have b_a : bf wd 19 4 = a := hv ▸ bf_plain hr (by omega) (by omega)
  rw [decodeCircuit_at 0xb wd k0, circuit_0b]
  simp [decodeRows, Row.fits, k0, k1, k2, b_a]
theorem circuit_0c : circuitRows.filter (Row.op 0xc) =
    [⟨[(27, 5, 0xc), (12, 7, 0x0)], fun w => .cwait (bf w 23 4) (bf w 19 4) (bf w 0 12)⟩] := rfl
theorem cwait (d : BitVec 4) (a : BitVec 4) (t : BitVec 12) : Statement (.cwait d a t) := by
  have h_d := d.isLt
  have h_a := a.isLt
  have h_t := t.isLt
  intro wd hw
  have h0 : some (word32 (0x60000000 + d.toNat * 0x800000 + a.toNat * 0x80000 + t.toNat)) = some wd := hw
  have hv : wd = (word32 (0x60000000 + d.toNat * 0x800000 + a.toNat * 0x80000 + t.toNat)) := (Option.some.inj h0).symm
  have hr : 0x60000000 + d.toNat * 0x800000 + a.toNat * 0x80000 + t.toNat < 2 ^ 32 := by omega
  show decodeCircuit wd = _
  have k0 : fld wd 27 5 = 0xc := (hv ▸ fld_plain hr (by omega)).trans (by omega)
  have k1 : fld wd 12 7 = 0x0 := (hv ▸ fld_plain hr (by omega)).trans (by omega)
  have b_d : bf wd 23 4 = d := hv ▸ bf_plain hr (by omega) (by omega)
  have b_a : bf wd 19 4 = a := hv ▸ bf_plain hr (by omega) (by omega)
  have b_t : bf wd 0 12 = t := hv ▸ bf_plain hr (by omega) (by omega)
  rw [decodeCircuit_at 0xc wd k0, circuit_0c]
  simp [decodeRows, Row.fits, k0, k1, b_d, b_a, b_t]
theorem circuit_0d : circuitRows.filter (Row.op 0xd) =
    [⟨[(27, 5, 0xd), (0, 15, 0x0), (23, 4, 0x0)], fun w => .cbind (bf w 19 4) (bf w 15 4)⟩] := rfl
theorem cbind (a : BitVec 4) (b : BitVec 4) : Statement (.cbind a b) := by
  have h_a := a.isLt
  have h_b := b.isLt
  intro wd hw
  have h0 : some (word32 (0x68000000 + a.toNat * 0x80000 + b.toNat * 0x8000)) = some wd := hw
  have hv : wd = (word32 (0x68000000 + a.toNat * 0x80000 + b.toNat * 0x8000)) := (Option.some.inj h0).symm
  have hr : 0x68000000 + a.toNat * 0x80000 + b.toNat * 0x8000 < 2 ^ 32 := by omega
  show decodeCircuit wd = _
  have k0 : fld wd 27 5 = 0xd := (hv ▸ fld_plain hr (by omega)).trans (by omega)
  have k1 : fld wd 0 15 = 0x0 := (hv ▸ fld_plain hr (by omega)).trans (by omega)
  have k2 : fld wd 23 4 = 0x0 := (hv ▸ fld_plain hr (by omega)).trans (by omega)
  have b_a : bf wd 19 4 = a := hv ▸ bf_plain hr (by omega) (by omega)
  have b_b : bf wd 15 4 = b := hv ▸ bf_plain hr (by omega) (by omega)
  rw [decodeCircuit_at 0xd wd k0, circuit_0d]
  simp [decodeRows, Row.fits, k0, k1, k2, b_a, b_b]
theorem circuit_0e : circuitRows.filter (Row.op 0xe) =
    [⟨[(27, 5, 0xe), (0, 19, 0x0), (23, 4, 0x0)], fun w => .crel (bf w 19 4)⟩] := rfl
theorem crel (a : BitVec 4) : Statement (.crel a) := by
  have h_a := a.isLt
  intro wd hw
  have h0 : some (word32 (0x70000000 + a.toNat * 0x80000)) = some wd := hw
  have hv : wd = (word32 (0x70000000 + a.toNat * 0x80000)) := (Option.some.inj h0).symm
  have hr : 0x70000000 + a.toNat * 0x80000 < 2 ^ 32 := by omega
  show decodeCircuit wd = _
  have k0 : fld wd 27 5 = 0xe := (hv ▸ fld_plain hr (by omega)).trans (by omega)
  have k1 : fld wd 0 19 = 0x0 := (hv ▸ fld_plain hr (by omega)).trans (by omega)
  have k2 : fld wd 23 4 = 0x0 := (hv ▸ fld_plain hr (by omega)).trans (by omega)
  have b_a : bf wd 19 4 = a := hv ▸ bf_plain hr (by omega) (by omega)
  rw [decodeCircuit_at 0xe wd k0, circuit_0e]
  simp [decodeRows, Row.fits, k0, k1, k2, b_a]
theorem circuit_0f : circuitRows.filter (Row.op 0xf) =
    [⟨[(27, 5, 0xf), (0, 19, 0x0), (23, 4, 0x0)], fun w => .portOff (bf w 19 4)⟩, ⟨[(27, 5, 0xf), (0, 19, 0x1), (23, 4, 0x0)], fun w => .portOn (bf w 19 4)⟩, ⟨[(27, 5, 0xf), (0, 19, 0x2), (23, 4, 0x0)], fun w => .portClr (bf w 19 4)⟩] := rfl
theorem portOff (a : BitVec 4) : Statement (.portOff a) := by
  have h_a := a.isLt
  intro wd hw
  have h0 : some (word32 (0x78000000 + a.toNat * 0x80000)) = some wd := hw
  have hv : wd = (word32 (0x78000000 + a.toNat * 0x80000)) := (Option.some.inj h0).symm
  have hr : 0x78000000 + a.toNat * 0x80000 < 2 ^ 32 := by omega
  show decodeCircuit wd = _
  have k0 : fld wd 27 5 = 0xf := (hv ▸ fld_plain hr (by omega)).trans (by omega)
  have k1 : fld wd 0 19 = 0x0 := (hv ▸ fld_plain hr (by omega)).trans (by omega)
  have k2 : fld wd 23 4 = 0x0 := (hv ▸ fld_plain hr (by omega)).trans (by omega)
  have b_a : bf wd 19 4 = a := hv ▸ bf_plain hr (by omega) (by omega)
  rw [decodeCircuit_at 0xf wd k0, circuit_0f]
  simp [decodeRows, Row.fits, k0, k1, k2, b_a]
theorem portOn (a : BitVec 4) : Statement (.portOn a) := by
  have h_a := a.isLt
  intro wd hw
  have h0 : some (word32 (0x78000001 + a.toNat * 0x80000)) = some wd := hw
  have hv : wd = (word32 (0x78000001 + a.toNat * 0x80000)) := (Option.some.inj h0).symm
  have hr : 0x78000001 + a.toNat * 0x80000 < 2 ^ 32 := by omega
  show decodeCircuit wd = _
  have k0 : fld wd 27 5 = 0xf := (hv ▸ fld_plain hr (by omega)).trans (by omega)
  have k1 : fld wd 0 19 = 0x1 := (hv ▸ fld_plain hr (by omega)).trans (by omega)
  have k2 : fld wd 23 4 = 0x0 := (hv ▸ fld_plain hr (by omega)).trans (by omega)
  have b_a : bf wd 19 4 = a := hv ▸ bf_plain hr (by omega) (by omega)
  rw [decodeCircuit_at 0xf wd k0, circuit_0f]
  simp [decodeRows, Row.fits, k0, k1, k2, b_a]
theorem portClr (a : BitVec 4) : Statement (.portClr a) := by
  have h_a := a.isLt
  intro wd hw
  have h0 : some (word32 (0x78000002 + a.toNat * 0x80000)) = some wd := hw
  have hv : wd = (word32 (0x78000002 + a.toNat * 0x80000)) := (Option.some.inj h0).symm
  have hr : 0x78000002 + a.toNat * 0x80000 < 2 ^ 32 := by omega
  show decodeCircuit wd = _
  have k0 : fld wd 27 5 = 0xf := (hv ▸ fld_plain hr (by omega)).trans (by omega)
  have k1 : fld wd 0 19 = 0x2 := (hv ▸ fld_plain hr (by omega)).trans (by omega)
  have k2 : fld wd 23 4 = 0x0 := (hv ▸ fld_plain hr (by omega)).trans (by omega)
  have b_a : bf wd 19 4 = a := hv ▸ bf_plain hr (by omega) (by omega)
  rw [decodeCircuit_at 0xf wd k0, circuit_0f]
  simp [decodeRows, Row.fits, k0, k1, k2, b_a]
theorem circuit_10 : circuitRows.filter (Row.op 0x10) =
    [⟨[(27, 5, 0x10), (0, 19, 0x0)], fun w => .pstat (bf w 23 4) (bf w 19 4)⟩] := rfl
theorem pstat (d : BitVec 4) (a : BitVec 4) : Statement (.pstat d a) := by
  have h_d := d.isLt
  have h_a := a.isLt
  intro wd hw
  have h0 : some (word32 (0x80000000 + d.toNat * 0x800000 + a.toNat * 0x80000)) = some wd := hw
  have hv : wd = (word32 (0x80000000 + d.toNat * 0x800000 + a.toNat * 0x80000)) := (Option.some.inj h0).symm
  have hr : 0x80000000 + d.toNat * 0x800000 + a.toNat * 0x80000 < 2 ^ 32 := by omega
  show decodeCircuit wd = _
  have k0 : fld wd 27 5 = 0x10 := (hv ▸ fld_plain hr (by omega)).trans (by omega)
  have k1 : fld wd 0 19 = 0x0 := (hv ▸ fld_plain hr (by omega)).trans (by omega)
  have b_d : bf wd 23 4 = d := hv ▸ bf_plain hr (by omega) (by omega)
  have b_a : bf wd 19 4 = a := hv ▸ bf_plain hr (by omega) (by omega)
  rw [decodeCircuit_at 0x10 wd k0, circuit_10]
  simp [decodeRows, Row.fits, k0, k1, b_d, b_a]
theorem circuit_11 : circuitRows.filter (Row.op 0x11) =
    [⟨[(27, 5, 0x11), (0, 19, 0x0), (23, 4, 0x0)], fun w => .slot (bf w 19 4)⟩] := rfl
theorem slot (a : BitVec 4) : Statement (.slot a) := by
  have h_a := a.isLt
  intro wd hw
  have h0 : some (word32 (0x88000000 + a.toNat * 0x80000)) = some wd := hw
  have hv : wd = (word32 (0x88000000 + a.toNat * 0x80000)) := (Option.some.inj h0).symm
  have hr : 0x88000000 + a.toNat * 0x80000 < 2 ^ 32 := by omega
  show decodeCircuit wd = _
  have k0 : fld wd 27 5 = 0x11 := (hv ▸ fld_plain hr (by omega)).trans (by omega)
  have k1 : fld wd 0 19 = 0x0 := (hv ▸ fld_plain hr (by omega)).trans (by omega)
  have k2 : fld wd 23 4 = 0x0 := (hv ▸ fld_plain hr (by omega)).trans (by omega)
  have b_a : bf wd 19 4 = a := hv ▸ bf_plain hr (by omega) (by omega)
  rw [decodeCircuit_at 0x11 wd k0, circuit_11]
  simp [decodeRows, Row.fits, k0, k1, k2, b_a]
theorem circuit_12 : circuitRows.filter (Row.op 0x12) =
    [⟨[(27, 5, 0x12), (0, 12, 0x0), (23, 4, 0x0)], fun w => .srun (bf w 19 4) (bf w 15 4) (bf w 12 3)⟩] := rfl
theorem srun (a : BitVec 4) (b : BitVec 4) (k : BitVec 3) : Statement (.srun a b k) := by
  have h_a := a.isLt
  have h_b := b.isLt
  have h_k := k.isLt
  intro wd hw
  have h0 : some (word32 (0x90000000 + a.toNat * 0x80000 + b.toNat * 0x8000 + k.toNat * 0x1000)) = some wd := hw
  have hv : wd = (word32 (0x90000000 + a.toNat * 0x80000 + b.toNat * 0x8000 + k.toNat * 0x1000)) := (Option.some.inj h0).symm
  have hr : 0x90000000 + a.toNat * 0x80000 + b.toNat * 0x8000 + k.toNat * 0x1000 < 2 ^ 32 := by omega
  show decodeCircuit wd = _
  have k0 : fld wd 27 5 = 0x12 := (hv ▸ fld_plain hr (by omega)).trans (by omega)
  have k1 : fld wd 0 12 = 0x0 := (hv ▸ fld_plain hr (by omega)).trans (by omega)
  have k2 : fld wd 23 4 = 0x0 := (hv ▸ fld_plain hr (by omega)).trans (by omega)
  have b_a : bf wd 19 4 = a := hv ▸ bf_plain hr (by omega) (by omega)
  have b_b : bf wd 15 4 = b := hv ▸ bf_plain hr (by omega) (by omega)
  have b_k : bf wd 12 3 = k := hv ▸ bf_plain hr (by omega) (by omega)
  rw [decodeCircuit_at 0x12 wd k0, circuit_12]
  simp [decodeRows, Row.fits, k0, k1, k2, b_a, b_b, b_k]
theorem circuit_13 : circuitRows.filter (Row.op 0x13) =
    [⟨[(27, 5, 0x13), (1, 26, 0x0)], fun w => .sstop (bf w 0 1)⟩] := rfl
theorem sstop (e : BitVec 1) : Statement (.sstop e) := by
  have h_e := e.isLt
  intro wd hw
  have h0 : some (word32 (0x98000000 + e.toNat)) = some wd := hw
  have hv : wd = (word32 (0x98000000 + e.toNat)) := (Option.some.inj h0).symm
  have hr : 0x98000000 + e.toNat < 2 ^ 32 := by omega
  show decodeCircuit wd = _
  have k0 : fld wd 27 5 = 0x13 := (hv ▸ fld_plain hr (by omega)).trans (by omega)
  have k1 : fld wd 1 26 = 0x0 := (hv ▸ fld_plain hr (by omega)).trans (by omega)
  have b_e : bf wd 0 1 = e := hv ▸ bf_plain hr (by omega) (by omega)
  rw [decodeCircuit_at 0x13 wd k0, circuit_13]
  simp [decodeRows, Row.fits, k0, k1, b_e]
theorem circuit_14 : circuitRows.filter (Row.op 0x14) =
    [⟨[(27, 5, 0x14), (0, 15, 0x0), (23, 4, 0x0)], fun w => .csigFill (bf w 19 4) (bf w 15 4)⟩, ⟨[(27, 5, 0x14), (0, 15, 0x1), (23, 4, 0x0)], fun w => .csigArr (bf w 19 4) (bf w 15 4)⟩, ⟨[(27, 5, 0x14), (0, 15, 0x2), (23, 4, 0x0)], fun w => .csigMsg (bf w 19 4) (bf w 15 4)⟩] := rfl
theorem csigFill (a : BitVec 4) (b : BitVec 4) : Statement (.csigFill a b) := by
  have h_a := a.isLt
  have h_b := b.isLt
  intro wd hw
  have h0 : some (word32 (0xa0000000 + a.toNat * 0x80000 + b.toNat * 0x8000)) = some wd := hw
  have hv : wd = (word32 (0xa0000000 + a.toNat * 0x80000 + b.toNat * 0x8000)) := (Option.some.inj h0).symm
  have hr : 0xa0000000 + a.toNat * 0x80000 + b.toNat * 0x8000 < 2 ^ 32 := by omega
  show decodeCircuit wd = _
  have k0 : fld wd 27 5 = 0x14 := (hv ▸ fld_plain hr (by omega)).trans (by omega)
  have k1 : fld wd 0 15 = 0x0 := (hv ▸ fld_plain hr (by omega)).trans (by omega)
  have k2 : fld wd 23 4 = 0x0 := (hv ▸ fld_plain hr (by omega)).trans (by omega)
  have b_a : bf wd 19 4 = a := hv ▸ bf_plain hr (by omega) (by omega)
  have b_b : bf wd 15 4 = b := hv ▸ bf_plain hr (by omega) (by omega)
  rw [decodeCircuit_at 0x14 wd k0, circuit_14]
  simp [decodeRows, Row.fits, k0, k1, k2, b_a, b_b]
theorem csigArr (a : BitVec 4) (b : BitVec 4) : Statement (.csigArr a b) := by
  have h_a := a.isLt
  have h_b := b.isLt
  intro wd hw
  have h0 : some (word32 (0xa0000001 + a.toNat * 0x80000 + b.toNat * 0x8000)) = some wd := hw
  have hv : wd = (word32 (0xa0000001 + a.toNat * 0x80000 + b.toNat * 0x8000)) := (Option.some.inj h0).symm
  have hr : 0xa0000001 + a.toNat * 0x80000 + b.toNat * 0x8000 < 2 ^ 32 := by omega
  show decodeCircuit wd = _
  have k0 : fld wd 27 5 = 0x14 := (hv ▸ fld_plain hr (by omega)).trans (by omega)
  have k1 : fld wd 0 15 = 0x1 := (hv ▸ fld_plain hr (by omega)).trans (by omega)
  have k2 : fld wd 23 4 = 0x0 := (hv ▸ fld_plain hr (by omega)).trans (by omega)
  have b_a : bf wd 19 4 = a := hv ▸ bf_plain hr (by omega) (by omega)
  have b_b : bf wd 15 4 = b := hv ▸ bf_plain hr (by omega) (by omega)
  rw [decodeCircuit_at 0x14 wd k0, circuit_14]
  simp [decodeRows, Row.fits, k0, k1, k2, b_a, b_b]
theorem csigMsg (a : BitVec 4) (b : BitVec 4) : Statement (.csigMsg a b) := by
  have h_a := a.isLt
  have h_b := b.isLt
  intro wd hw
  have h0 : some (word32 (0xa0000002 + a.toNat * 0x80000 + b.toNat * 0x8000)) = some wd := hw
  have hv : wd = (word32 (0xa0000002 + a.toNat * 0x80000 + b.toNat * 0x8000)) := (Option.some.inj h0).symm
  have hr : 0xa0000002 + a.toNat * 0x80000 + b.toNat * 0x8000 < 2 ^ 32 := by omega
  show decodeCircuit wd = _
  have k0 : fld wd 27 5 = 0x14 := (hv ▸ fld_plain hr (by omega)).trans (by omega)
  have k1 : fld wd 0 15 = 0x2 := (hv ▸ fld_plain hr (by omega)).trans (by omega)
  have k2 : fld wd 23 4 = 0x0 := (hv ▸ fld_plain hr (by omega)).trans (by omega)
  have b_a : bf wd 19 4 = a := hv ▸ bf_plain hr (by omega) (by omega)
  have b_b : bf wd 15 4 = b := hv ▸ bf_plain hr (by omega) (by omega)
  rw [decodeCircuit_at 0x14 wd k0, circuit_14]
  simp [decodeRows, Row.fits, k0, k1, k2, b_a, b_b]
theorem circuit_15 : circuitRows.filter (Row.op 0x15) =
    [⟨[(27, 5, 0x15)], fun w => .wev (bf w 23 4) (bf w 19 4) (bf w 15 4) (bf w 12 3) (bf w 0 12)⟩] := rfl
theorem wev (d : BitVec 4) (a : BitVec 4) (b : BitVec 4) (k : BitVec 3) (t : BitVec 12) : Statement (.wev d a b k t) := by
  have h_d := d.isLt
  have h_a := a.isLt
  have h_b := b.isLt
  have h_k := k.isLt
  have h_t := t.isLt
  intro wd hw
  have h0 : some (word32 (0xa8000000 + d.toNat * 0x800000 + a.toNat * 0x80000 + b.toNat * 0x8000 + k.toNat * 0x1000 + t.toNat)) = some wd := hw
  have hv : wd = (word32 (0xa8000000 + d.toNat * 0x800000 + a.toNat * 0x80000 + b.toNat * 0x8000 + k.toNat * 0x1000 + t.toNat)) := (Option.some.inj h0).symm
  have hr : 0xa8000000 + d.toNat * 0x800000 + a.toNat * 0x80000 + b.toNat * 0x8000 + k.toNat * 0x1000 + t.toNat < 2 ^ 32 := by omega
  show decodeCircuit wd = _
  have k0 : fld wd 27 5 = 0x15 := (hv ▸ fld_plain hr (by omega)).trans (by omega)
  have b_d : bf wd 23 4 = d := hv ▸ bf_plain hr (by omega) (by omega)
  have b_a : bf wd 19 4 = a := hv ▸ bf_plain hr (by omega) (by omega)
  have b_b : bf wd 15 4 = b := hv ▸ bf_plain hr (by omega) (by omega)
  have b_k : bf wd 12 3 = k := hv ▸ bf_plain hr (by omega) (by omega)
  have b_t : bf wd 0 12 = t := hv ▸ bf_plain hr (by omega) (by omega)
  rw [decodeCircuit_at 0x15 wd k0, circuit_15]
  simp [decodeRows, Row.fits, k0, b_d, b_a, b_b, b_k, b_t]
theorem queueDoorbell (ring : Fin 64) (tail : Word) : Statement (.queueDoorbell ring tail) := fun _ h => nomatch h
theorem launch (ring : Fin 64) (cmd : BitVec 512) : Statement (.launch ring cmd) := fun _ h => nomatch h
theorem copy (ring : Fin 64) (cmd : BitVec 512) : Statement (.copy ring cmd) := fun _ h => nomatch h
theorem circuit (ring : Fin 64) (cmd : BitVec 512) : Statement (.circuit ring cmd) := fun _ h => nomatch h
theorem tokenWait (ring : Fin 64) (cmd : BitVec 512) : Statement (.tokenWait ring cmd) := fun _ h => nomatch h
theorem tokenSignal (ring : Fin 64) (cmd : BitVec 512) : Statement (.tokenSignal ring cmd) := fun _ h => nomatch h
theorem taperun (ring : Fin 64) (cmd : BitVec 512) : Statement (.taperun ring cmd) := fun _ h => nomatch h
theorem tapeLaunch (ring : Fin 64) : Statement (.tapeLaunch ring) := fun _ h => nomatch h
theorem foldWait (ring : Fin 64) (cmd : BitVec 512) : Statement (.foldWait ring cmd) := fun _ h => nomatch h
theorem queueFence (ring : Fin 64) (cmd : BitVec 512) : Statement (.queueFence ring cmd) := fun _ h => nomatch h
theorem checkpointSave (ring : Fin 64) (cmd : BitVec 512) : Statement (.checkpointSave ring cmd) := fun _ h => nomatch h
theorem checkpointRestore (ring : Fin 64) (cmd : BitVec 512) : Statement (.checkpointRestore ring cmd) := fun _ h => nomatch h
theorem pstateRun (ring : Fin 64) (cmd : BitVec 512) : Statement (.pstateRun ring cmd) := fun _ h => nomatch h
theorem pstateTrim (ring : Fin 64) (cmd : BitVec 512) : Statement (.pstateTrim ring cmd) := fun _ h => nomatch h
theorem pstateHold (ring : Fin 64) (cmd : BitVec 512) : Statement (.pstateHold ring cmd) := fun _ h => nomatch h
theorem pstateRetain (ring : Fin 64) (cmd : BitVec 512) : Statement (.pstateRetain ring cmd) := fun _ h => nomatch h
theorem pstateOff (ring : Fin 64) (cmd : BitVec 512) : Statement (.pstateOff ring cmd) := fun _ h => nomatch h
theorem resetQueue (ring : Fin 64) (cmd : BitVec 512) : Statement (.resetQueue ring cmd) := fun _ h => nomatch h
theorem resetEngine (ring : Fin 64) (cmd : BitVec 512) : Statement (.resetEngine ring cmd) := fun _ h => nomatch h
theorem resetPartition (ring : Fin 64) (cmd : BitVec 512) : Statement (.resetPartition ring cmd) := fun _ h => nomatch h
theorem resetDie (ring : Fin 64) (cmd : BitVec 512) : Statement (.resetDie ring cmd) := fun _ h => nomatch h
theorem resetFunction (ring : Fin 64) (cmd : BitVec 512) : Statement (.resetFunction ring cmd) := fun _ h => nomatch h
theorem resetDevice (ring : Fin 64) (cmd : BitVec 512) : Statement (.resetDevice ring cmd) := fun _ h => nomatch h
theorem resetLodge (ring : Fin 64) (cmd : BitVec 512) : Statement (.resetLodge ring cmd) := fun _ h => nomatch h
theorem devctlRstDevice (v : DWord) : Statement (.devctlRstDevice v) := fun _ h => nomatch h
theorem devctlRstLodge (v : DWord) : Statement (.devctlRstLodge v) := fun _ h => nomatch h
theorem functionLevelReset (f : Func) : Statement (.functionLevelReset f) := fun _ h => nomatch h
theorem attach : Statement (.attach) := fun _ h => nomatch h
theorem detach : Statement (.detach) := fun _ h => nomatch h
theorem hbeat : Statement (.hbeat) := fun _ h => nomatch h
theorem partcfgWrite (v : DWord) : Statement (.partcfgWrite v) := fun _ h => nomatch h
theorem registerWrite (f : Func) (off : BitVec 20) (v : DWord) : Statement (.registerWrite f off v) := fun _ h => nomatch h
theorem regrcb (f : Func) (a : MbArgs) : Statement (.regrcb f a) := fun _ h => nomatch h
theorem unrcb (f : Func) (a : MbArgs) : Statement (.unrcb f a) := fun _ h => nomatch h
theorem unpin (f : Func) (a : MbArgs) : Statement (.unpin f a) := fun _ h => nomatch h
theorem histrd (f : Func) (a : MbArgs) : Statement (.histrd f a) := fun _ h => nomatch h
theorem histclr (f : Func) (a : MbArgs) : Statement (.histclr f a) := fun _ h => nomatch h
theorem retire (f : Func) (a : MbArgs) : Statement (.retire f a) := fun _ h => nomatch h
theorem quote (f : Func) (a : MbArgs) : Statement (.quote f a) := fun _ h => nomatch h
theorem idcert (f : Func) (a : MbArgs) : Statement (.idcert f a) := fun _ h => nomatch h
theorem fwload (f : Func) (a : MbArgs) : Statement (.fwload f a) := fun _ h => nomatch h
theorem extend (f : Func) (a : MbArgs) : Statement (.extend f a) := fun _ h => nomatch h
theorem dbgw (f : Func) (a : MbArgs) : Statement (.dbgw f a) := fun _ h => nomatch h
theorem dbgin (f : Func) (a : MbArgs) : Statement (.dbgin f a) := fun _ h => nomatch h
theorem dbgout (f : Func) (a : MbArgs) : Statement (.dbgout f a) := fun _ h => nomatch h
theorem powerOn (failStep : Nat) : Statement (.powerOn failStep) := fun _ h => nomatch h
theorem startOverrun (step : Nat) : Statement (.startOverrun step) := fun _ h => nomatch h
theorem thermalTrip (temp : Byte) : Statement (.thermalTrip temp) := fun _ h => nomatch h
theorem lodgePowerRemoval : Statement (.lodgePowerRemoval) := fun _ h => nomatch h
theorem transitPacket (link : Fin 7) (p : Packet) : Statement (.transitPacket link p) := fun _ h => nomatch h
theorem read (p : Packet) : Statement (.read p) := fun _ h => nomatch h
theorem write (p : Packet) : Statement (.write p) := fun _ h => nomatch h
theorem atomic (p : Packet) : Statement (.atomic p) := fun _ h => nomatch h
theorem signal (p : Packet) : Statement (.signal p) := fun _ h => nomatch h
theorem reply (p : Packet) : Statement (.reply p) := fun _ h => nomatch h
theorem absent (p : Packet) : Statement (.absent p) := fun _ h => nomatch h
theorem withdraw (p : Packet) : Statement (.withdraw p) := fun _ h => nomatch h
theorem endpointReply (k : Nat) : Statement (.endpointReply k) := fun _ h => nomatch h
theorem resendTimer (k : Nat) : Statement (.resendTimer k) := fun _ h => nomatch h
theorem linkDown (link : Fin 6) : Statement (.linkDown link) := fun _ h => nomatch h
theorem heartbeatTimeout : Statement (.heartbeatTimeout) := fun _ h => nomatch h
theorem drainComplete : Statement (.drainComplete) := fun _ h => nomatch h
theorem gangLaunch (p : Packet) : Statement (.gangLaunch p) := fun _ h => nomatch h
theorem gangAck (p : Packet) : Statement (.gangAck p) := fun _ h => nomatch h
theorem gangAbort (p : Packet) : Statement (.gangAbort p) := fun _ h => nomatch h
theorem gangWindowClose (seq : Word) : Statement (.gangWindowClose seq) := fun _ h => nomatch h
theorem grant (p : Packet) : Statement (.grant p) := fun _ h => nomatch h
theorem msg (p : Packet) : Statement (.msg p) := fun _ h => nomatch h
theorem activeSetEntry (core : Fin 1024) : Statement (.activeSetEntry core) := fun _ h => nomatch h
theorem watchdogFire (core : Fin 1024) (slot : Fin 64) : Statement (.watchdogFire core slot) := fun _ h => nomatch h
theorem rcvDeadline (core : Fin 1024) (slot : Fin 64) : Statement (.rcvDeadline core slot) := fun _ h => nomatch h
theorem resultReturn (core : Fin 1024) (slot : Fin 64) (lane : Fin 32) (k : Nat) : Statement (.resultReturn core slot lane k) := fun _ h => nomatch h
theorem replyTrap (core : Fin 1024) (slot : Fin 64) (lane : Fin 32) : Statement (.replyTrap core slot lane) := fun _ h => nomatch h
theorem hk3Event (core : Fin 1024) (slot : Fin 64) : Statement (.hk3Event core slot) := fun _ h => nomatch h
theorem hk3Restart (core : Fin 1024) (slot : Fin 64) : Statement (.hk3Restart core slot) := fun _ h => nomatch h
theorem restartCountExpiry (core : Fin 1024) (slot : Fin 64) : Statement (.restartCountExpiry core slot) := fun _ h => nomatch h
theorem preemptRequest (lid g : Nat) : Statement (.preemptRequest lid g) := fun _ h => nomatch h
theorem preemptStop (lid g : Nat) : Statement (.preemptStop lid g) := fun _ h => nomatch h
theorem preemptSave (lid g : Nat) : Statement (.preemptSave lid g) := fun _ h => nomatch h
theorem preemptResume (lid g : Nat) (core : Fin 1024) : Statement (.preemptResume lid g core) := fun _ h => nomatch h
theorem workgroupDispatch (lid : Nat) (core : Fin 1024) : Statement (.workgroupDispatch lid core) := fun _ h => nomatch h
theorem leaseDispatch (lid : Nat) (core : Fin 1024) : Statement (.leaseDispatch lid core) := fun _ h => nomatch h
theorem warpSlotFree (core : Fin 1024) (slot : Fin 64) : Statement (.warpSlotFree core slot) := fun _ h => nomatch h
theorem governorWindow (core : Fin 1024) : Statement (.governorWindow core) := fun _ h => nomatch h
theorem histogramWrite : Statement (.histogramWrite) := fun _ h => nomatch h
theorem taggedWordArrival (k : Nat) : Statement (.taggedWordArrival k) := fun _ h => nomatch h
theorem taggedWordResend (k : Nat) : Statement (.taggedWordResend k) := fun _ h => nomatch h
theorem onDemandFill (part : Fin 8) (va : DWord) (ans : Option PageFill) : Statement (.onDemandFill part va ans) := fun _ h => nomatch h
theorem pageMove (part : Fin 8) (va : DWord) (pf : PageFill) : Statement (.pageMove part va pf) := fun _ h => nomatch h
theorem tableResize (part : Fin 8) (size : Fin 3) (nbase : BitVec 52) (nn : BitVec 6) : Statement (.tableResize part size nbase nn) := fun _ h => nomatch h
theorem copyCommandStart (eng : Fin 32) (q : Fin 8) : Statement (.copyCommandStart eng q) := fun _ h => nomatch h
theorem engineBurst (eng : Fin 34) (q : Fin 8) : Statement (.engineBurst eng q) := fun _ h => nomatch h
theorem chainRecord (eng : Fin 32) (q : Fin 8) : Statement (.chainRecord eng q) := fun _ h => nomatch h
theorem copyFaultAnswer (eng : Fin 34) (q : Fin 8) : Statement (.copyFaultAnswer eng q) := fun _ h => nomatch h
theorem copyComplete (eng : Fin 32) (q : Fin 8) : Statement (.copyComplete eng q) := fun _ h => nomatch h
theorem collStart (eng : Fin 2) (q : Fin 8) : Statement (.collStart eng q) := fun _ h => nomatch h
theorem collTimeout (eng : Fin 2) (q : Fin 8) : Statement (.collTimeout eng q) := fun _ h => nomatch h
theorem collComplete (eng : Fin 2) (q : Fin 8) : Statement (.collComplete eng q) := fun _ h => nomatch h
theorem batchClose (die : Fin 8) (k : Nat) : Statement (.batchClose die k) := fun _ h => nomatch h
theorem gridAccept (die : Fin 8) : Statement (.gridAccept die) := fun _ h => nomatch h
theorem glogAppend (die : Fin 8) : Statement (.glogAppend die) := fun _ h => nomatch h
theorem weltFold (die : Fin 8) : Statement (.weltFold die) := fun _ h => nomatch h
theorem laserReady (port : Fin 16) : Statement (.laserReady port) := fun _ h => nomatch h
theorem lockComplete (port : Fin 16) : Statement (.lockComplete port) := fun _ h => nomatch h
theorem lockTimeout (port : Fin 16) : Statement (.lockTimeout port) := fun _ h => nomatch h
theorem handshake (port : Fin 16) (dev : BitVec 12) (pp : BitVec 4) (sseq : BitVec 16) : Statement (.handshake port dev pp sseq) := fun _ h => nomatch h
theorem lossOfLight (port : Fin 16) : Statement (.lossOfLight port) := fun _ h => nomatch h
theorem lightArrival (port : Fin 16) (time : Int) : Statement (.lightArrival port time) := fun _ h => nomatch h
theorem rotationStart (cx : Fin 8) (time : Int) : Statement (.rotationStart cx time) := fun _ h => nomatch h
theorem slotBoundary (cx : Fin 8) : Statement (.slotBoundary cx) := fun _ h => nomatch h
theorem windowOpen (port : Fin 16) : Statement (.windowOpen port) := fun _ h => nomatch h
theorem windowClose (port : Fin 16) : Statement (.windowClose port) := fun _ h => nomatch h
theorem frameReceive (port : Fin 16) (fr : Frame) : Statement (.frameReceive port fr) := fun _ h => nomatch h
theorem cwaitTimeout (cx : Fin 8) : Statement (.cwaitTimeout cx) := fun _ h => nomatch h
theorem wevEvent (cx : Fin 8) : Statement (.wevEvent cx) := fun _ h => nomatch h
theorem wevTimeout (cx : Fin 8) : Statement (.wevTimeout cx) := fun _ h => nomatch h
theorem illegalWord (w : Word) : Statement (.illegalWord w) := fun _ h => nomatch h
theorem instructionFetch (cause : Byte) : Statement (.instructionFetch cause) := fun _ h => nomatch h
theorem linkUp (link : Fin 6) : Statement (.linkUp link) := fun _ h => nomatch h
theorem powerFail : Statement (.powerFail) := fun _ h => nomatch h
theorem accessAcknowledge (core : Fin 1024) (slot : Fin 64) (lane : Fin 32) : Statement (.accessAcknowledge core slot lane) := fun _ h => nomatch h

end Sys2Proof.Laws.RoundTrip
end

