-- ==== Sys2Proof/Tests/Slice0.lean ====
section
/-! SUPPORT. Own tests: words of every family read from their bits, ill-formed terms that the well-formedness check refuses, single steps
whose results the manual gives, and for every statement that has hypotheses a state and operands that meet them. -/

namespace Sys2Proof.Tests
open Sys2Proof Sys2Proof.Machine
set_option Elab.async false

/-! ## Words written out from their fields: S, N, P, the major, and the low twenty bits by format (R29, R32, R36) -/

theorem test_decode_control :
    decodeSimt 0b0_0_111_0000000_00000000000000000000 = .ok (.nop always) ∧
    decodeSimt 0b0_1_010_0000010_1_1111111111111111110 = .ok (.bra ⟨false, true, 2⟩ 1 (-2)) ∧
    decodeSimt 0b0_0_111_0000011_1_0000000_001100_000000 = .ok (.brx always 1 12) ∧
    decodeSimt 0b1_0_111_0000100_0_0000000000000010000 = .ok (.call ⟨true, false, 7⟩ 16) ∧
    decodeSimt 0b0_0_111_0000110_00000000000000000000 = .ok (.ret always) ∧
    decodeSimt 0b0_0_111_0000111_000011_00000000000101 = .ok (.loop always 3 5) ∧
    decodeSimt 0b0_0_111_0001000_1111111111_0000000001 = .ok (.loopi always 1023 1) ∧
    decodeSimt 0b0_0_001_0001001_0000_0000000000000100 = .ok (.rcv ⟨false, false, 1⟩ 4) ∧
    decodeSimt 0b0_0_111_0001010_00000000000000000000 = .ok (.yield always) ∧
    decodeSimt 0b0_0_111_0001100_00000000000000000000 = .ok (.idem always) := by decide +kernel

theorem test_decode_prefixes :
    decodeSimt 0b0_0_111_0000001_00_111111111111111111 = .ok (.pfxExt 0x3FFFF) ∧
    decodeSimt 0b0_0_111_0000001_01_100_011_010_000000000 = .ok (.pfxOrd 4 3 2) ∧
    decodeSimt 0b0_0_111_0000001_10_10000001_01_00000000 = .ok (.pfxTok 0x81 1) ∧
    decodeSimt 0b0_0_111_0000001_11_000000000000000000 = .error .reservedWord := by decide +kernel

theorem test_decode_integer :
    decodeSimt 0b0_0_111_0010000_01_000100_000101_000110 = .ok (.add always 1 4 5 6) ∧
    decodeSimt 0b0_0_111_0010010_000001_000010_10000000 = .ok (.addi always 1 2 0x80) ∧
    decodeSimt 0b0_0_111_0011111_10_000011_000011_0_00111 = .ok (.sarImm always 3 3 7) ∧
    decodeSimt 0b0_0_111_0100010_00_000001_000010_000010 = .ok (.popc always 1 2) ∧
    decodeSimt 0b0_0_111_0100011_01_000001_000010_000011 = .ok (.bfe always 1 1 2 3) ∧
    decodeSimt 0b0_0_111_0100101_01_110_010_001000_001001 = .ok (.setp always 1 6 2 8 9) ∧
    decodeSimt 0b0_0_111_0101000_00_000101_000110_000000 = .ok (.mov always 5 6) ∧
    decodeSimt 0b0_0_111_0101001_000101_11111111111111 = .ok (.movi always 5 0x3FFF) ∧
    decodeSimt 0b0_0_111_0101101_11_000010_000011_000000 = .ok (.vote always 3 2 3) := by decide +kernel

theorem test_decode_float :
    decodeSimt 0b0_0_111_0110011_01_000100_000101_000110 = .ok (.fma always 1 4 5 6) ∧
    decodeSimt 0b0_0_111_0111101_00_000111_000011_010_1_0_0 = .ok (.cvtf always 0 7 3 2 1 0 0) ∧
    decodeSimt 0b0_0_001_1000000_00_000101_000100_011_0_00 = .ok (.mxq ifP1 0 5 4 3 0) := by decide +kernel

theorem test_decode_matrix_and_memory :
    decodeSimt 0b0_0_111_1010100_01_010000_00000000000_1 = .ok (.mrd always 1 16 1) ∧
    decodeSimt 0b0_0_111_1011100_101_000010_000000_00000 = .ok (.ld always 5 2 0 0) ∧
    decodeSimt 0b0_0_001_1011101_100_000111_000100_00000 = .ok (.st ifP1 4 7 4 0) ∧
    decodeSimt 0b0_0_111_1100000_100_000111_000100_11111 = .ok (.ldf always 4 7 4 0x1F) ∧
    decodeSimt 0b0_0_111_1100100_10_000011_000100_000_101 = .ok (.tagrd always 3 4 5) ∧
    decodeSimt 0b0_0_111_1101000_01_000000000000000000 = .ok (.cinvWb always) := by decide +kernel

theorem test_decode_sync_copy_and_launch :
    decodeSimt 0b0_0_111_1101100_00_000011_000100_0_1_0110 = .ok (.atom always 3 4 1 6) ∧
    decodeSimt 0b0_0_111_1101111_10_000000000000000_100 = .ok (.fence always 2 4) ∧
    decodeSimt 0b0_0_111_1110000_10_1011111_1_000101_0000 = .ok (.barv always 2 95 1 0x50) ∧
    decodeSimt 0b0_0_111_1110100_00_011_101_000100_001000 = .ok (.cpy always 3 5 4 8) ∧
    decodeSimt 0b0_0_001_1111000_000111_00000_1_00000001 = .ok (.tkwait ifP1 7 1 1) ∧
    decodeSimt 0b0_0_111_1111100_01_000000_000100_000011 = .ok (.sigrArr always 4 3) ∧
    decodeSimt 0b0_0_111_1111101_10_00000_1_000100_000011 = .ok (.lnchBwrec always 1 4 3) ∧
    decodeSimt 0b0_0_111_1111110_10_000000_000100_000000 = .ok (.lscale always 4) := by decide +kernel

theorem test_decode_system :
    decodeSimt 0b0_0_111_1111111_00_000000_001101_000000 = .ok (.csrr always 0 13) ∧
    decodeSimt 0b0_0_111_1111111_00_000000_100000_000001 = .ok (.csrw always 0 0x20) ∧
    decodeSimt 0b0_0_111_1111111_00_000000000101_000010 = .ok (.trap always 5) ∧
    decodeSimt 0b0_0_111_1111111_00_000000_000000_000100 = .ok (.rte always) ∧
    decodeSimt 0b0_0_111_1111111_10_000010_000100_000110 = .ok (.dbgmbXchg always 2 4) := by decide +kernel

/-- R349: circuit words: the opcode, then c-register numbers and an immediate. -/
theorem test_decode_circuit :
    decodeCircuit 0b00000_0000000000000000000_00001001 = .ok (.halt 9) ∧
    decodeCircuit 0b00001_1001_00_0_0000_1111000000000000 = .ok (.circuitMovi 9 0 0 0xF000) ∧
    decodeCircuit 0b00010_0001_0010_0011_111111111111111 = .ok (.circuitAdd 1 2 3 0x7FFF) ∧
    decodeCircuit 0b00101_0000_0010_0011_000000000000100 = .ok (.beq 2 3 4) ∧
    decodeCircuit 0b01001_0010_0001_0000_000000000000000 = .ok (.ldc 2 1 0) ∧
    decodeCircuit 0b01100_0111_0010_0000000_001111101000 = .ok (.cwait 7 2 1000) ∧
    decodeCircuit 0b01111_0000_0101_0000000000000000_001 = .ok (.portOn 5) ∧
    decodeCircuit 0b10010_0000_0001_0010_100_000000000000 = .ok (.srun 1 2 4) ∧
    decodeCircuit 0b10100_0000_0001_0010_000000000000010 = .ok (.csigMsg 1 2) ∧
    decodeCircuit 0b10101_1101_1100_0000_100_000000000000 = .ok (.wev 13 12 0 4 0) := by decide +kernel

/-- R37, R38, R349: reserved majors, nonzero reserved fields, a guarded PFX, and too few bytes. -/
theorem test_decode_refuses :
    decodeSimt 0b0_0_111_0000000_00000000000000000001 = .error .reservedWord ∧
    decodeSimt 0b0_0_111_0001101_00000000000000000000 = .error .reservedWord ∧
    decodeSimt 0b0_0_000_0000001_00_000000000000000001 = .error .reservedWord ∧
    decodeSimt 0b0_0_111_0000100_1_0000000000000000001 = .error .reservedWord ∧
    decodeCircuit 0b10110_000000000000000000000000000 = .error .reservedWord ∧
    decodeCircuit 0b01000_0001_0000_0000_000000000000001 = .error .reservedWord ∧
    decodeSimtBytes [0, 0, 0] = .error .truncated ∧
    decodeSimtBytes [0x46, 0x41, 0x04, 0x39, 7] = .ok (.add always 1 4 5 6, [7]) := by decide +kernel

/-! ## Ill-formed terms, one for each check of the fields (R30, R33 to R35, R37, R102, R153, R256, R337) -/

theorem test_wf_guard_and_prefixes :
    (Instr.nop ⟨false, true, 7⟩).wf = false ∧ (Instr.nop ⟨false, true, 6⟩).wf = true ∧
    (Instr.pfxOrd 5 0 0).wf = false ∧ (Instr.pfxOrd 0 5 0).wf = false ∧ (Instr.pfxOrd 0 0 4).wf = false ∧ (Instr.pfxOrd 4 4 3).wf = true ∧
    (Instr.pfxTok 1 2).wf = false ∧ (Instr.pfxTok 1 1).wf = true := by decide +kernel

theorem test_wf_control_and_integer :
    (Instr.loopi always 3 0).wf = false ∧ (Instr.loopi always 0 1).wf = true ∧ (Instr.add64 always 3 2 4 6).wf = false ∧
    (Instr.nlut always 3 1 2 4).wf = false ∧ (Instr.vote always 0 8 1).wf = false ∧ (Instr.vote always 2 8 8).wf = false ∧
    (Instr.vote always 3 8 1).wf = false ∧ (Instr.vote always 2 63 7).wf = true ∧ (Instr.vote always 3 7 63).wf = true := by decide +kernel

theorem test_wf_float :
    (Instr.cvtf always 0 1 2 0 0 0 0).wf = false ∧ (Instr.cvtf always 0 1 2 5 0 0 0).wf = false ∧ (Instr.cvtf always 1 1 2 3 1 0 0).wf = false ∧
    (Instr.cvtf always 1 1 2 3 0 0 1).wf = false ∧ (Instr.cvtf always 0 1 2 3 1 0 1).wf = false ∧ (Instr.cvtf always 0 1 2 3 0 1 1).wf = false ∧
    (Instr.cvtp always 0 1 2 0 0 0 0).wf = false ∧ (Instr.cvtp always 1 1 2 3 1 0 0).wf = false ∧ (Instr.cvtp always 0 1 2 1 0 0 1).wf = false ∧
    (Instr.cvti always 0 1 2 6 0).wf = false ∧ (Instr.mxq always 0 1 2 1 0).wf = false ∧ (Instr.mxq always 1 1 2 3 1).wf = false ∧
    (Instr.mxd always 1 2 5).wf = false ∧ (Instr.cvtp always 0 1 2 4 0 0 1).wf = true := by decide +kernel

theorem test_wf_matrix :
    (Instr.mld always 0 0 0 0 0 0).wf = false ∧ (Instr.mld always 0 0 7 0 0 0).wf = false ∧ (Instr.mld always 0 0 5 1 0 0).wf = false ∧
    (Instr.mld always 0 0 6 0 0 0).wf = false ∧ (Instr.mld always 0 0 3 0 0 1).wf = false ∧ (Instr.mld always 0 0 6 1 0 1).wf = true ∧
    (Instr.mma always 0 0 0 0 1).wf = false ∧ (Instr.mma always 1 0 0 0 2).wf = false ∧ (Instr.mma always 1 0 0 0 1).wf = true := by
  decide +kernel

theorem test_wf_memory_and_sync :
    (Instr.ld always 7 1 2 0).wf = false ∧ (Instr.st always 1 1 2 0).wf = false ∧ (Instr.stl always 3 1 2 0).wf = false ∧
    (Instr.lda always 7 1 2 0).wf = false ∧ (Instr.ldf always 6 1 2 0).wf = false ∧ (Instr.sto always 2 1 2 0).wf = false ∧
    (Instr.sete always 2 6).wf = false ∧ (Instr.tagrd always 1 2 3).wf = false ∧ (Instr.pref always 2 2 0).wf = false ∧
    (Instr.atom always 1 2 0 10).wf = false ∧ (Instr.atom always 2 2 1 9).wf = false ∧ (Instr.red always 1 2 0 8).wf = false ∧
    (Instr.fence always 0 5).wf = false ∧ (Instr.barv always 0 96 0 0).wf = false ∧ (Instr.barv always 0 95 1 1).wf = false ∧
    (Instr.barw always 1 0 2).wf = false ∧ (Instr.bariInit always 96 0 1).wf = false ∧ (Instr.bariInval always 96).wf = false ∧
    (Instr.bart always 3 0 0 0).wf = false ∧ (Instr.barw always 95 0 1).wf = true := by decide +kernel

theorem test_wf_copy_system_and_circuit :
    (Instr.tkwait always 1 0 0).wf = false ∧ (Instr.rcpy always 3 0 0 0 0).wf = false ∧ (Instr.coll always 0 0 0 6).wf = false ∧
    (Instr.csrr always 0 0x16).wf = false ∧ (Instr.csrw always 0 0x31).wf = false ∧ (Instr.csrr always 0 0x30).wf = true ∧
    (Instr.srun 0 0 5).wf = false ∧ (Instr.wev 0 0 0 6 0).wf = false ∧ (Instr.wev 15 0 0 0 0).wf = false ∧
    (Instr.wev 14 0 0 5 0).wf = true := by decide +kernel

/-- R58: the registers of a word: beyond the allotment, a pair at an odd number, a block of four at a number that is not its multiple. -/
theorem test_wf_registers :
    (Instr.mov always 16 0).decodeCause {} 16 = some 1 ∧ (Instr.mov always 15 0).decodeCause {} 16 = none ∧
    (Instr.add64 always 0 3 4 6).decodeCause {} 64 = some 1 ∧ (Instr.ld always 6 2 4 0).decodeCause {} 64 = some 1 ∧
    (Instr.ld always 5 2 5 0).decodeCause {} 64 = some 1 ∧ (Instr.ld always 6 4 4 0).decodeCause {} 64 = none := by decide +kernel

/-! ## Single steps on small states, with results that the manual gives -/

/-- Threads of warp 0 of core 0, each as `f` says, whose bundle is to execute a word at address 0 of a page that permits everything. -/
def bundle (w : Word) (ts : List Nat) (f : Nat → Thread) : State :=
  let s := State.reset.withSimtWord w.toNat
  { s with thr := ts.map (fun t => (t, { f t with live := true })), cur := { word := w, mem := ts.map (fun t => (t, 0)) } }

/-- An instruction's own word. -/
def wordOf (i : Instr) : Word := (encode i).getD 0

/-- The state after an instruction has executed, and the state that lists nothing for a stop. -/
def afterExec (i : Instr) (s : State) : State := match exec i s with | .next s' => s' | _ => {}

/-- The state after a word of some threads. -/
def afterWord (i : Instr) (ts : List Nat) (f : Nat → Thread) : State := afterExec i (bundle (wordOf i) ts f)

/-- A thread with some registers. -/
def withRegs (rs : List (Nat × Word)) : Thread := Thread.setRegs {} rs

/-- What thread 0 holds in a register after a word of its own. -/
def gives (i : Instr) (rs : List (Nat × Word)) (d : Nat) : Word := ((afterWord i [0] (fun _ => withRegs rs)).thread 0).reg d

/-- R121: the 96-bit addition of the chapter on integers, word by word. -/
theorem test_add_carry_chain :
    gives (.add always 3 10 2 6) [(2, 0xFFFFFFFF), (6, 1)] 10 = 0 ∧
    ((afterWord (.add always 3 10 2 6) [0] (fun _ => withRegs [(2, 0xFFFFFFFF), (6, 1)])).thread 0).pred 6 = true ∧
    ((afterWord (.add always 3 11 3 7) [0] (fun _ => { withRegs [(3, 0xFFFFFFFF)] with preds := 0x40 })).thread 0).pred 6 = true ∧
    ((afterWord (.add always 3 12 4 8) [0] (fun _ => { withRegs [(4, 1)] with preds := 0x40 })).thread 0).reg 12 = 2 := by decide +kernel

/-- R121: saturation at both ends. -/
theorem test_add_saturates :
    gives (.add always 1 1 2 3) [(2, 0x7FFFFFFF), (3, 1)] 1 = 0x7FFFFFFF ∧ gives (.sub always 1 1 2 3) [(2, 0x80000000), (3, 1)] 1 = 0x80000000 ∧
    gives (.add always 2 1 2 3) [(2, 0xFFFFFFFF), (3, 2)] 1 = 0xFFFFFFFF ∧ gives (.sub always 2 1 2 3) [(2, 1), (3, 2)] 1 = 0 := by decide +kernel

/-- R122, R124, R125, R135: immediates and pairs. -/
theorem test_immediates_and_pairs :
    gives (.addi always 1 2 0x80) [(2, 1)] 1 = 0xFFFFFF81 ∧ gives (.movi always 1 0x3FFF) [] 1 = 0xFFFFFFFF ∧
    gives (.add64 always 1 2 4 6) [(4, 0xFFFFFFFF), (6, 1)] 3 = 1 ∧ gives (.lea always 2 2 4 6) [(4, 16), (6, 0xFFFFFFFC)] 2 = 0 := by
  decide +kernel

/-- R123: the high word of a signed product, and R127: counts of 32 and more. -/
theorem test_products_and_shifts :
    gives (.mul always 1 1 2 3) [(2, 0xFFFFFFFF), (3, 2)] 1 = 0xFFFFFFFF ∧ gives (.mul always 2 1 2 3) [(2, 0xFFFFFFFF), (3, 2)] 1 = 1 ∧
    gives (.shl always 1 2 3) [(2, 1), (3, 32)] 1 = 0 ∧ gives (.sar always 1 2 3) [(2, 0x80000000), (3, 40)] 1 = 0xFFFFFFFF ∧
    gives (.rotImm always 1 2 31) [(2, 1)] 1 = 0x80000000 := by decide +kernel

/-- R130, R137: the worked cases of BFE, BFI and NLUT. -/
theorem test_fields_and_tables :
    gives (.bfe always 0 1 2 3) [(2, 0x800000F0), (3, 0x81C)] 1 = 0x08 ∧ gives (.bfe always 1 1 2 3) [(2, 0x800000F0), (3, 0x81C)] 1 = 0xFFFFFFF8 ∧
    gives (.bfi always 1 2 3) [(1, 0x12345678), (2, 0xAB), (3, 0x81C)] 1 = 0xB2345678 ∧
    gives (.nlut always 1 4 2 8) [(2, 0x41AC82E2), (8, 0x01010101), (9, 0x01010101), (10, 0x02020202), (11, 0x10080404)] 4 = 0x01020208 := by
  decide +kernel

/-- R126, R128, R129, R134: a source that is also the destination, zero counts, and the predicates as a word. -/
theorem test_unary_words :
    gives (.andn always 1 1 2) [(1, 0xFF), (2, 0x0F)] 1 = 0xF0 ∧ gives (.clz always 1 2) [] 1 = 32 ∧ gives (.ctz always 1 2) [(2, 8)] 1 = 3 ∧
    gives (.abs always 1 2) [(2, 0x80000000)] 1 = 0x80000000 ∧ gives (.sext8 always 1 2) [(2, 0x180)] 1 = 0xFFFFFF80 ∧
    gives (.brev always 1 1) [(1, 1)] 1 = 0x80000000 ∧ gives (.p2v always 1) [] 1 = 0x80 ∧
    gives (.min always 0 1 2 3) [(2, 0xFFFFFFFF), (3, 1)] 1 = 0xFFFFFFFF := by decide +kernel

/-- R138: a lane beyond the bundle leaves the thread its own value; R134: a ballot names the participants whose predicate holds. -/
theorem test_lanes :
    ((afterWord (.shfl always 2 1 2 3) [0, 1] (fun t => withRegs [(2, BitVec.ofNat 32 (100 + t)), (3, 1)])).thread 0).reg 1 = 101 ∧
    ((afterWord (.shfl always 2 1 2 3) [0, 1] (fun t => withRegs [(2, BitVec.ofNat 32 (100 + t)), (3, 1)])).thread 1).reg 1 = 101 ∧
    ((afterWord (.vote always 2 1 0) [0, 1, 2] (fun t => { preds := if t = 1 then 0 else 1 })).thread 2).reg 1 = 5 := by decide +kernel

/-- R147, R163: the worked case of CVTF: RNE, SR with its seed, and overflow with and without saturation. -/
theorem test_cvtf_worked_case :
    gives (.cvtf always 0 8 3 2 0 0 0) [(3, 0x3F80C000)] 8 = 0x3F81 ∧
    (let t := (afterWord (.cvtf always 0 7 3 2 1 0 0) [0] (fun _ => { withRegs [(3, 0x3F80C000)] with srseed := 1 })).thread 0
     t.reg 7 = 0x3F80 ∧ t.srseed = 0x42021 ∧ t.fpflags = 0x10) ∧
    gives (.cvtf always 0 9 2 3 0 0 0) [(2, 0x43FA0000)] 9 = 0x7F ∧
    (let t := (afterWord (.cvtf always 0 9 2 3 0 1 0) [0] (fun _ => withRegs [(2, 0x43FA0000)])).thread 0
     t.reg 9 = 0x7E ∧ t.fpflags = 0x14) := by decide +kernel

/-- R155: 2^24 + 1 is a tie to even; an infinity less itself is the NaN with NV. -/
theorem test_float_sums :
    gives (.fadd always 0 1 2 3) [(2, 0x4B800000), (3, 0x3F800000)] 1 = 0x4B800000 ∧
    gives (.fadd always 2 1 2 3) [(2, 0x4B800000), (3, 0x3F800000)] 1 = 0x4B800001 ∧
    gives (.fsub always 0 1 2 3) [(2, 0x7F800000), (3, 0x7F800000)] 1 = 0x7FC00000 ∧
    ((afterWord (.fsub always 0 1 2 3) [0] (fun _ => withRegs [(2, 0x7F800000), (3, 0x7F800000)])).thread 0).fpflags = 1 := by decide +kernel

/-- R166, R167: the worked case of MXQ and MXD. -/
theorem test_mxq_worked_case :
    let v : List Word := [0x40400000, 0xBF000000, 0x42C80000, 0, 0x3FA00000, 0xC0E00000, 0x3A800000, 0x41A00000]
    let s := afterWord (.mxq ifP1 0 5 4 3 0) [0, 1, 2, 3, 4, 5, 6, 7, 8]
      (fun t => { withRegs [(4, v.getD t 0), (5, 9)] with preds := if t < 8 then 2 else 0 })
    (List.range 9).map (fun t => (s.thread t).reg 5) = [0x7D54, 0x7DC0, 0x7D7C, 0x7D00, 0x7D4A, 0x7DDE, 0x7D02, 0x7D6A, 9] ∧
    (s.thread 2).fpflags = 0x10 ∧ (s.thread 0).fpflags = 0 ∧ gives (.mxd always 6 5 3) [(5, 0x7D7C)] 6 = 0x42C00000 := by decide +kernel

/-- R102: a LOOPI pushes its entry; R91: the end of its body takes the thread back with one less; the last pass leaves the loop. -/
theorem test_loops :
    ((afterWord (.loopi always 3 2) [0] (fun _ => {})).thread 0).lstk = [⟨4, 12, 3, 0, false⟩] ∧
    (let t := (afterWord (.addi always 4 4 1) [0] (fun _ => { lstk := [⟨0, 4, 2, 0, false⟩] })).thread 0
     t.pc = 0 ∧ t.lstk = [⟨0, 4, 1, 0, false⟩] ∧ t.reg 4 = 1) ∧
    (let t := (afterWord (.addi always 4 4 1) [0] (fun _ => { lstk := [⟨0, 4, 1, 0, false⟩] })).thread 0
     t.pc = 4 ∧ t.lstk = []) := by decide +kernel

/-- R97, R99: a taken branch counts from its own word; a call keeps its return address; R103: a lane that is alone does not wait. -/
theorem test_control_transfer :
    ((afterWord (.bra always 0 16) [0] (fun _ => {})).thread 0).pc = 64 ∧
    ((afterWord (.call always 16) [0] (fun _ => {})).thread 0).depth = 1 ∧
    ((afterWord (.rcv always 4) [0] (fun _ => {})).thread 0).pc = 4 ∧
    ((afterWord (.rcv ifP1 4) [0, 1] (fun t => { preds := if t = 0 then 2 else 0 })).thread 0).pc = 0 := by decide +kernel

/-- R395, R416: TRAP without a handler is HK3's: the frame is written and the warp is held; R399: RTE outside a handler is cause 0x01. -/
theorem test_traps :
    (let s := afterWord (.trap always 5) [0] (fun _ => {})
     (s.thread 0).trcause = 0x11 ∧ (s.thread 0).trword = wordOf (.trap always 5) ∧ (s.warp 0).held = true) ∧
    ((afterWord (.rte always) [0] (fun _ => {})).thread 0).trcause = 1 := by decide +kernel

/-- R236: a store of two bytes at a displacement, in the local slice, and R34: a sign-extended load of one byte. -/
theorem test_store_and_load :
    (let s := afterWord (.st always 2 1 2 0x1F) [0] (fun _ => withRegs [(1, 0x1234ABCD), (2, 0x102), (3, 0xFF000000)])
     s.byte 0x100 = 0xCD ∧ s.byte 0x101 = 0xAB ∧ s.byte 0x102 = 0) ∧
    (let i := Instr.ld always 1 1 2 0
     let s := bundle (wordOf i) [0] (fun _ => withRegs [(2, 0x100), (3, 0xFF000000)])
     ((afterExec i { s with mem := ⟨0x100, 0x80⟩ :: s.mem }).thread 0).outs.map (fun o => (o.dst, o.res)) = [([1], some (.val [0xFFFFFF80]))]) := by
  decide +kernel

/-- R19, R23: the slice window ends at the carve-out, and above it comes cause 0x04. -/
theorem test_aperture_ends :
    let at_ := fun (carve : Nat) =>
      let i := Instr.ld always 5 4 2 0
      let s := bundle (wordOf i) [0] (fun _ => withRegs [(2, 0x780000), (3, 0xFF000000)])
      (afterExec i (s.updCore 0 (fun c => { c with carve := carve }))).thread 0
    (at_ 0).trcause = 0 ∧ (at_ 0).pc = 4 ∧ (at_ 524288).trcause = 4 ∧ (at_ 1048576).trcause = 4 := by decide +kernel

/-- R246: the worked case of ATOM.FADD: three lanes at one word in lane order. -/
theorem test_atomic_group :
    let i := Instr.atom always 5 8 0 9
    let s := bundle (wordOf i) [0, 1, 2] (fun t => withRegs [(5, if t = 2 then 0x40000000 else 0x3F800000), (8, 0x1000), (9, 0xFF000000)])
    let s' := afterExec i { s with mem := ⟨0x1002, 0x80⟩ :: ⟨0x1003, 0x4B⟩ :: s.mem }
    (List.range 4).map (fun j => s'.byte (0x1000 + j)) = [1, 0, 0x80, 0x4B] ∧
    (List.range 3).map (fun t => (s'.thread t).outs.map (fun o => o.res)) =
      [[some (.val [0x4B800000])], [some (.val [0x4B800000])], [some (.val [0x4B800000])]] ∧ (s'.thread 0).fpflags = 0 := by decide +kernel

/-- R182: the worked product of the chapter on the matrix unit, on the slot that the MLD before it has loaded: two roundings, not one. -/
theorem test_matrix_product :
    let w := fun (t : Nat) => if t = 0 then 0x4B80#32 else if t = 1 ∨ t = 9 then 0x3F80#32 else 0#32
    let s := afterWord (.mld always 0 0 2 0 32 0) [0, 1, 9] (fun t => withRegs [(32, w t)])
    let i := Instr.mma ifP1 0 0 16 0 0
    let rs := (List.range 16).map (fun k => (k, 0x3F803F80#32))
    let s1 := { s with thr := [(0, { withRegs rs with live := true, preds := 2 }), (1, { withRegs [(16, 0x40000000)] with live := true })],
                       cur := { word := wordOf i, mem := [(0, 0), (1, 0)] } }
    let s2 := afterExec i s1
    (((s.coreAt 0).tile 0).elem 0 0, ((s.coreAt 0).tile 0).elem 9 0) = (0x4B80, 0x3F80) ∧
    (s2.thread 0).reg 16 = 0x4B800000 ∧ (s2.thread 0).reg 17 = 0 ∧ (s2.thread 0).fpflags = 0x10 ∧ (s2.thread 1).reg 16 = 0x40000000 := by
  decide +kernel

/-- A bundle of one warp of a workgroup with four barriers. -/
def barrierBundle (i : Instr) (ts : List Nat) (f : Nat → Thread) (b : Barrier) : State :=
  { bundle (wordOf i) ts f with
    wgs := [{ lid := 1, g := 0, core := 0, slot := 0, warps := 1, bars := [(3, b)] }],
    launches := [{ lid := 1, part := 0, lseq := 1, rcb := 0, kd := { warps0 := 1, regs0 := 64, nbar := 4 }, chk := 3, fdom := 0, prio := 0xFF, seed := 0,
                   grid := .gang 1 0, origin := .batch, next := 1, total := 1 }] }

/-- The barrier 3 after a word of it. -/
def barrierAfter (i : Instr) (ts : List Nat) (f : Nat → Thread) (b : Barrier) : Option Barrier :=
  let s := afterExec i (barrierBundle i ts f b)
  (s.wg? 1 0).map (fun w => s.barAt w 3)

/-- R258 to R262: the worked case of drop, join and transaction bytes, with the 32 lanes of a warp. -/
theorem test_barrier_worked_case :
    let lanes := List.range 32
    barrierAfter (.bariInit always 3 0 64) [0] (fun _ => {}) {} = some ⟨true, false, 0, 0, 64, 64⟩ ∧
    barrierAfter (.barv always 0 3 0 1) lanes (fun _ => {}) ⟨true, false, 0, 0, 64, 64⟩ = some ⟨true, false, 0, 0, 32, 64⟩ ∧
    barrierAfter (.barv always 2 3 0 1) lanes (fun _ => {}) ⟨true, false, 0, 0, 32, 64⟩ = some ⟨true, true, 0, 0, 32, 32⟩ ∧
    barrierAfter (.bart always 0 3 0 768) [0] (fun _ => {}) ⟨true, true, 0, 0, 32, 32⟩ = some ⟨true, true, 0, 768, 32, 32⟩ ∧
    barrierAfter (.barv always 3 3 0 1) lanes (fun _ => {}) ⟨true, true, 0, 768, 32, 32⟩ = some ⟨true, true, 32, 768, 32, 32⟩ ∧
    barrierAfter (.barv always 0 3 0 1) lanes (fun _ => {}) ⟨true, true, 32, 768, 32, 32⟩ = some ⟨true, true, 32, 768, 0, 32⟩ ∧
    (let i := Instr.barw always 3 1 0xC0
     let s := afterExec i (barrierBundle i lanes (fun _ => withRegs [(12, 1)]) ⟨true, true, 32, 768, 0, 32⟩)
     (s.thread 0).pc = 0 ∧ (s.thread 0).park ≠ .none) := by decide +kernel

/-- R217, R221: a word of a slice is filled by a store that sets its tag; reading the tag does not change it. -/
theorem test_tags :
    let i := Instr.sto always 4 1 2 0
    let s := afterExec i (bundle (wordOf i) [0] (fun _ => withRegs [(1, 5), (2, 0x1000), (3, 0xFF000000)]))
    s.tagAt 0x1000 = true ∧ s.tagAt 0x1008 = false ∧ s.byte 0x1000 = 5 ∧
    (let j := Instr.tagrd always 1 2 4
     ((afterExec j { s with cur := { word := wordOf j, mem := [(0, 0)] }, thr := [(0, { withRegs [(2, 0x1000), (3, 0xFF000000)] with live := true })] }).thread
       0).outs.map (fun o => o.res) = [some (.val [1])]) := by decide +kernel

/-- R219: the worked case of TILD: swizzle 3 at 0x320 reads the chunk at 0x310 when the line's id is 3, and traps with 0x07 when it is not. -/
theorem test_swizzled_read :
    let i := Instr.tild always 3 4 2 8
    let s := bundle (wordOf i) [0] (fun _ => withRegs [(2, 0x320), (3, 0xFF000000)])
    ((afterExec i { s with mem := ⟨0x310, 0x77⟩ :: s.mem, swz := [(3, 3)] }).thread 0).outs.map (fun o => o.res) =
      [some (.val [0x77, 0, 0, 0])] ∧
    ((afterExec i { s with swz := [(3, 2)] }).thread 0).trcause = 7 := by decide +kernel

/-- R50: the parameter word and the lane; R52: %WDOGLIM is written by handlers only. -/
theorem test_special_registers :
    (let i := Instr.csrr always 2 0x0D
     let s := afterExec i ((bundle (wordOf i) [0] (fun _ => {})).updWarp 0 (fun w => { w with param := 0x123456789ABCDEF0 }))
     (s.thread 0).reg 2 = 0x9ABCDEF0 ∧ (s.thread 0).reg 3 = 0x12345678) ∧
    ((afterWord (.csrr always 1 1) [5] (fun _ => {})).thread 5).reg 1 = 5 ∧
    ((afterWord (.csrw always 1 0x20) [0] (fun _ => withRegs [(1, 9)])).thread 0).trcause = 5 ∧
    ((afterWord (.csrw always 1 0x20) [0] (fun _ => { withRegs [(1, 9)] with h := true })).warp 0).wdoglim = 9 ∧
    ((afterWord (.csrw always 1 0x0E) [0] (fun _ => { withRegs [(1, 9)] with h := true })).thread 0).trcause = 1 := by decide +kernel

/-- R273: a CPY counts its command on its token and queues it on the engine of its core; R288: TKWAIT then waits. -/
theorem test_copy_and_token_wait :
    let i := Instr.cpy always 2 3 4 8
    let s := afterWord i [0] (fun _ => withRegs [(4, 0x1000), (5, 0xFF000000), (6, 0x2000), (7, 0xFF000000), (8, 64)])
    ((s.warp 0).tok 3).out = 1 ∧ ((s.engine 0).queue 2).map (fun c => (c.x.len, c.x.dst)) = [(64, 0xFF00000000002000)] ∧
    (let j := Instr.tkwait always 0 0 8
     ((afterExec j { s with cur := { pc0 := 4, pc := 4, word := wordOf j, mem := [(0, 0)] } }).thread 0).pc = 4) := by decide +kernel

/-- A circuit word that context 0 is to run with some c-registers. -/
def cxState (i : Instr) (rs : List (Nat × DWord)) : State :=
  let s := State.reset.withCircuitWord (wordOf i).toNat
  { s.updCx 0 (fun c => { c with regs := rs }) with cp := { (s.updCx 0 (fun c => { c with regs := rs })).cp with last := 0 } }

/-- What context 0 holds after a circuit word. -/
def cxAfter (i : Instr) (rs : List (Nat × DWord)) : Context := (afterExec i (cxState i rs)).cx 0

/-- R352: moves with and without KEEP, an addition with its immediate, and a taken branch. -/
theorem test_circuit_words :
    (cxAfter (.circuitMovi 3 1 1 0x5002) [(3, 0x0203)]).reg 3 = 0x50020203 ∧
    (cxAfter (.circuitAdd 1 2 3 0x7FFF) [(2, 5), (3, 7)]).reg 1 = 11 ∧
    (cxAfter (.bne 8 0 4) [(8, 1)]).pc = 16 ∧ (cxAfter (.bne 8 0 4) []).pc = 4 ∧
    (cxAfter (.halt 1) []).st = 0 ∧ (cxAfter (.halt 1) []).exit = 1 := by decide +kernel

/-- R331, R353: PORT.ON of an enabled port locks it for the context; a port that is not enabled is cause 0x01. -/
theorem test_circuit_ports :
    let i := Instr.portOn 2
    let s := cxState i [(2, 3)]
    ((afterExec i { s with cp := { s.cp with ports := [(3, { en := true })] } }).optPort 3).st = 1 ∧
    ((afterExec i s).cx 0).st = 3 ∧ ((afterExec i s).cx 0).cause = 1 := by decide +kernel

/-- A step fetches, decodes and runs the word at the program counter (R39), in both opcode spaces. -/
theorem test_step_runs_the_word :
    (match step (State.reset.withFetchWord 32 0x39204005) with | .next s => (s.thread 0).reg 1 | _ => 0) = 5 ∧
    (match step (State.reset.withFetchWord 32 0x0C80F000) with | .next s => (s.cx 0).reg 9 | _ => 0) = 0xF000 := by decide +kernel

/-! ## States that meet the hypotheses of the statements -/

/-- The hypotheses of `Runs`, as one test. -/
def ready (i : Instr) (s : State) (t : Nat) : Bool :=
  !s.cur.mem.isEmpty && decide s.cur.threads.Nodup && decide (i.decodeCause s.cur.pfx s.bundleAllot = none) &&
  s.cur.threads.all (fun u => decide ((s.thread u).failed = [])) && decide ((s.coreAt s.cur.core).dpFault = []) && (s.participants i).contains t

/-- A thread of one of the 1,024 cores, which takes no single-step trap. -/
def calm (s : State) (t : Nat) : Bool := (s.warpOfThread t).sstep == false && decide (coreOfThread t < 1024)

theorem calm_iff {s : State} {t : Nat} : calm s t = true ↔ (s.warpOfThread t).sstep = false ∧ coreOfThread t < 1024 := by simp [calm]

theorem runs_of_ready {i : Instr} {s : State} {t : Nat} (h : ready i s t = true) : Runs s i t := by
  simp only [ready, Bool.and_eq_true, Bool.not_eq_true', decide_eq_true_eq, List.all_eq_true, List.contains_eq_mem] at h
  obtain ⟨⟨⟨⟨⟨h1, h2⟩, h3⟩, h4⟩, h5⟩, h6⟩ := h
  exact ⟨⟨h1, h2, h3, h4⟩, h5, h6⟩

theorem issues_of_ready {i : Instr} {s : State} {t : Nat} (h : ready i s t = true) (hc : calm s t = true) : Issues s i t := by
  have := runs_of_ready h
  exact ⟨this.1, this.2.2, .inl (calm_iff.mp hc).1⟩

theorem alone_of_ready {i : Instr} {s : State} {t : Nat} (h : ready i s t = true) (hc : calm s t = true) (hp : s.participants i = [t]) :
    Alone s i t := by
  have := runs_of_ready h
  exact ⟨this.1, this.2.1, hp, .inl (calm_iff.mp hc).1, (calm_iff.mp hc).2⟩

/-- Thread 0 alone is to execute a word with its registers at 0. -/
def plain (i : Instr) : State := bundle (wordOf i) [0] (fun _ => {})

/-- A list of words each of which thread 0 can execute by itself. -/
def allRun (is : List Instr) : Bool := is.all (fun i => ready i (plain i) 0 && calm (plain i) 0 && decide ((plain i).participants i = [0]))

theorem of_allRun {is : List Instr} (h : allRun is = true) : ∀ i ∈ is, Runs (plain i) i 0 ∧ Issues (plain i) i 0 ∧ Alone (plain i) i 0 := by
  intro i hi
  have := List.all_eq_true.mp h i hi
  simp only [Bool.and_eq_true, decide_eq_true_eq] at this
  exact ⟨runs_of_ready this.1.1, issues_of_ready this.1.1 this.1.2, alone_of_ready this.1.1 this.1.2 this.2⟩

/-- For AddAndSubtractInEachMode, ShiftsAndRotations, BitwiseUnaryAndExtremeWords, with the registers at both ends of the allotment of 64. -/
theorem witness_integer_words_a : allRun
    [.add always 0 63 0 63, .add always 1 0 63 0, .add always 2 1 1 1, .add always 3 1 2 3, .sub always 0 0 0 0, .sub always 1 63 63 63,
     .sub always 2 1 2 3, .sub always 3 1 2 3, .shl always 63 0 1, .shr always 0 63 1, .sar always 1 1 1, .rot always 1 2 3,
     .shlImm always 1 2 0, .shrImm always 1 2 31, .sarImm always 63 63 31, .rotImm always 0 0 1] = true := by decide +kernel

theorem witness_integer_words_b : allRun
    [.and always 0 1 63, .or always 1 2 3, .xor always 1 1 1, .andn always 1 2 3, .not always 1 2, .mov always 63 63, .p2v always 63,
     .min always 0 1 2 3, .min always 1 1 2 3, .max always 0 1 2 3, .max always 1 1 2 3, .clz always 1 2, .ctz always 1 2, .popc always 1 2,
     .brev always 1 2, .abs always 1 2, .neg always 1 2, .sext8 always 1 2, .sext16 always 1 2] = true := by decide +kernel

/-- For ImmediatesProductsAndPairs, FieldAndTableWords, PredicatesAreSetAndVoted, ShuffleAcrossLanes: pairs up to x62, predicates up to p7. -/
theorem witness_integer_words_c : allRun
    [.addi always 63 63 0x80, .movi always 63 0x2000, .mul always 0 1 2 3, .mul always 3 1 2 3, .mad always 0 1 2 3, .mad always 2 1 2 3,
     .add64 always 0 62 62 62, .add64 always 1 62 0 63, .add64 always 2 0 62 63, .lea always 0 62 62 63, .lea always 3 0 0 1,
     .bfe always 0 1 2 3, .bfe always 1 1 2 3, .bfi always 1 2 3, .prmt always 1 2 3, .nlut always 0 1 2 60, .nlut always 2 63 63 0,
     .sel always 0 1 2 3, .sel always 3 1 2 3] = true := by decide +kernel

theorem witness_integer_words_d : allRun
    [.setp always 0 0 0 1 2, .setp always 1 7 6 1 2, .setp always 3 3 7 63 63, .setpi always 0 0 63 0x80, .setpi always 7 6 0 0xFF, .v2p always 63,
     .vote always 0 7 7, .vote always 1 0 0, .vote always 2 63 7, .vote always 3 7 63, .shfl always 0 1 2 3, .shfl always 1 1 2 3,
     .shfl always 2 1 2 3, .shfl always 3 63 63 63] = true := by decide +kernel

/-- For the statements about floating-point words. -/
theorem witness_float_words_a : allRun
    [.fadd always 0 1 2 3, .fadd always 3 63 63 63, .fsub always 0 1 2 3, .fsub always 3 1 2 3, .fmul always 1 1 2 3, .fma always 2 1 2 3,
     .fma always 3 63 0 63, .fmin always 1 2 3, .fmax always 1 2 3, .fabs always 1 2, .fneg always 1 2, .frnd always 0 1 2, .frnd always 3 1 2,
     .fsetp always 0 0 0 1 2, .fsetp always 3 7 7 63 63, .rcp always 1 2, .rsq always 1 2, .sqrt always 1 2, .ex2 always 1 2, .lg2 always 1 2,
     .sin always 1 2, .cos always 63 63] = true := by decide +kernel

theorem witness_float_words_b : allRun
    [.hadd2 always 0 1 2 3, .hadd2 always 3 1 2 3, .hmul2 always 1 1 2 3, .hfma2 always 2 1 2 3, .hmm2 always 0 1 2 3, .hmm2 always 3 1 2 3,
     .cvtf always 3 1 2 1 0 1 0, .cvtf always 0 1 2 4 1 1 0, .cvtf always 0 1 2 4 0 0 1, .cvtp always 0 1 2 1 1 0 0, .cvtp always 3 1 62 4 0 1 1,
     .cvti always 0 1 2 0 0, .cvti always 3 1 2 5 1, .mxq always 0 1 2 3 1, .mxq always 3 63 63 6 0, .mxd always 1 2 3, .mxd always 1 2 6] = true := by
  decide +kernel

/-- For ControlWordsLeaveRegistersAndMemory, LoopsAndSimpleControlWords, FencesWaitForWhatIsOutstanding and others. -/
theorem witness_control_words : allRun
    [.nop always, .bra always 1 0x3FFFF, .brx always 0 62, .call always 0x40000, .callx always 0, .ret always, .loop always 63 0x3FFF, .loopi always 0 1,
     .loopi always 1023 1023, .rcv always 0xFFFF, .yield always, .exit always, .idem always, .pref always 1 62 0x10, .cinvInv always, .cinvWb always,
     .cinvIc always, .fence always 0 0, .fence always 3 4, .trap always 0xFFF, .bkpt always 0, .rte always, .wdog always, .csrr always 63 0x30,
     .csrr always 62 0x2B, .csrw always 62 0x11, .csrw always 0 0x18] = true := by decide +kernel

/-- R141, R142, R145: codes of every kind that the float statements tell apart. -/
theorem witness_float_codes :
    nanCode fp32 0x7FC00000 ∧ ¬ signalling fp32 0x7FC00000 ∧ signalling fp32 0x7F800001 ∧ infinite fp32 0xFF800000 ∧ finiteCode fp32 0x7F7FFFFF ∧
    finiteCode fp32 0x80000000 ∧ negative fp32 0x80000000 = true ∧ invalidProduct fp32 0 0x7F800000 ∧ infiniteProduct fp32 0x3F800000 0x7F800000 ∧
    nanCode e4m3 0x7F ∧ finiteCode e4m3 0x7E ∧ nanCode fp16 0x7E00 ∧ infinite bf16 0x7F80 ∧ finiteCode e2m1 7 := by
  unfold infiniteProduct invalidProduct signalling nanCode infinite finiteCode magnitude; decide +kernel

/-- For ComputingWordsWriteOnlyTheirDestinations: words of each shape of destination that run with no trap to come. -/
theorem witness_frame_words :
    [Instr.add always 3 1 2 3, .mul always 0 1 2 3, .add64 always 0 2 4 6, .setp always 0 0 0 1 2, .v2p always 1, .vote always 2 1 0, .vote always 3 1 0,
     .fma always 0 1 2 3, .cvti always 0 1 2 0 1, .mxq always 0 1 2 3 0].all (fun i =>
       (destinations i).isSome && ready i (plain i) 0 && calm (plain i) 0) = true := by decide +kernel

/-- For ControlWordsLeaveRegistersAndMemory: a thread of the bundle whose guard is false. -/
theorem witness_guard_false :
    let s := bundle (wordOf (.bra ifP1 1 5)) [0, 1] (fun t => { preds := if t = 0 then 2 else 0 })
    ready (.bra ifP1 1 5) s 0 = true ∧ 1 ∉ s.participants (.bra ifP1 1 5) ∧ calm s 1 = true ∧ 1 ∈ s.cur.threads := by decide +kernel

/-- A launch whose RCB 5 has a trap handler at 0x800, and thread 0 of its warp. -/
def guest (i : Instr) (ts : List Nat) (f : Nat → Thread) : State :=
  let r : Rcb := { id := 5, addr := 0, traph := 0x800 }
  { (bundle (wordOf i) ts f).updWarp 0 (fun w => { w with rcb := 5 }) with
    launches := [{ lid := 1, part := 0, lseq := 1, rcb := 5, kd := { warps0 := 1, regs0 := 64, nbar := 4 }, chk := 3, fdom := 1, prio := 0xFF, seed := 0,
                   grid := .gang 1 0, origin := .batch, next := 1, total := 1, rcbs := [r] }],
    wgs := [{ lid := 1, g := 0, core := 0, slot := 0, warps := 1 }] }

/-- For TrapsAreTaken: with a handler, without one, and in a handler; and words that do not decode. -/
theorem witness_traps :
    (let i := Instr.trap always 1
     ready i (guest i [0] (fun _ => {})) 0 = true ∧ (guest i [0] (fun _ => {})).traphOf 0 = 0x800 ∧
     ready i (plain i) 0 = true ∧ (plain i).traphOf 0 = 0 ∧
     ready i (guest i [0] (fun _ => { h := true })) 0 = true) ∧
    (let i := Instr.bkpt always 1
     ready i (guest i [0] (fun _ => {})) 0 = true) ∧
    (let i := Instr.add64 always 0 1 2 4
     i.guard? = some always ∧ (plain i).cur.threads.Nodup ∧ 0 ∈ (plain i).cur.threads ∧ i.decodeCause (plain i).cur.pfx (plain i).bundleAllot = some 1) ∧
    (let i := Instr.loopi always 1 0
     i.guard? = some always ∧ (plain i).cur.threads.Nodup ∧ 0 ∈ (plain i).cur.threads ∧ i.decodeCause (plain i).cur.pfx (plain i).bundleAllot = some 2) ∧
    ((Instr.nop ⟨false, true, 7⟩).guard? = some ⟨false, true, 7⟩) := by decide +kernel

/-- The conclusions on the first of these: the thread is in its handler with its frame. -/
theorem witness_trap_taken :
    let i := Instr.trap always 1
    let t := (afterExec i (guest i [0] (fun _ => { depth := 3 }))).thread 0
    t.h = true ∧ t.pc = 0x800 ∧ t.edepth = 3 ∧ t.trcause = 0x11 ∧ t.trword = wordOf i ∧ t.trmask = 1 := by decide +kernel

/-- For PrefixesJoinTheGroup: no prefix yet; a token that is complete and one that is not; a second PFX of one kind. -/
theorem witness_prefixes :
    let s := plain (.nop always)
    s.cur.mem ≠ [] ∧ s.cur.pfx.ext = none ∧ s.cur.pfx.ord = none ∧ s.cur.pfx.tok = none ∧
    (Instr.pfxOrd 4 4 3).wf = true ∧ (Instr.pfxTok 0x80 1).wf = true ∧
    s.cur.mem.filter (fun x => (s.warp (warpKey s.cur.core x.2)).tokensDone 0x80) ≠ [] ∧
    (let s1 := s.updWarp 0 (fun w => { w with toks := [(7, { out := 1 })] })
     s1.cur.pfx.tok = none ∧ s1.cur.mem.filter (fun x => (s1.warp (warpKey s1.cur.core x.2)).tokensDone 0x80) = []) ∧
    (let s2 := { s with cur := { s.cur with pfx := { ext := some 1 } } }
     s2.cur.mem ≠ [] ∧ s2.cur.pfx.ext ≠ none ∧ s2.cur.threads.Nodup ∧ 0 ∈ s2.cur.threads) := by decide +kernel

/-- For ReconvergenceAndExit: a warp all of whose live threads arrive, one of which a thread stays away, and an EXIT. -/
theorem witness_reconvergence :
    (let i := Instr.rcv always 0
     let s := bundle (wordOf i) [0, 31] (fun _ => {})
     ready i s 31 = true ∧ calm s 31 = true ∧ (s.warp 0).rcv = [] ∧
     (∀ u ∈ s.liveThreads 0, u ∈ s.participants i ∧ (s.thread u).depth = (s.thread 31).depth) ∧ ∀ u ∈ s.participants i, u ∈ s.liveThreads 0) ∧
    (let i := Instr.rcv always 4
     let s := bundle (wordOf i) [0, 31] (fun _ => {})
     let s1 := { s with cur := { s.cur with mem := [(0, 0)] } }
     ready i s1 0 = true ∧ calm s1 0 = true ∧ (∀ u ∈ s1.participants i, warpOf u = 0) ∧
     ∃ u ∈ s1.liveThreads 0, u ∉ s1.cur.threads ∧ (s1.thread u).park = .none) ∧
    (let i := Instr.exit ifP1
     ready i (bundle (wordOf i) [0] (fun _ => { preds := 2 })) 0 = true) := by decide +kernel

/-- A thread state with a full loop stack. -/
def fullStack : Thread := { lstk := [⟨4, 8, 1, 0, false⟩, ⟨4, 8, 1, 0, false⟩, ⟨4, 8, 1, 0, false⟩, ⟨4, 8, 1, 0, false⟩] }

/-- For LoopsAndSimpleControlWords: counts 0 and more, stacks of four and fewer entries, with a prefix too. -/
theorem witness_loops :
    (let i := Instr.loop always 1 3
     let s := fun (n : Word) (th : Thread) => bundle (wordOf i) [0] (fun _ => th.setReg 1 n)
     ready i (s 0 {}) 0 = true ∧ ((s 0 {}).thread 0).reg 1 = 0 ∧
     ready i (s 1 fullStack) 0 = true ∧ ((s 1 fullStack).thread 0).reg 1 ≠ 0 ∧ 4 ≤ ((s 1 fullStack).thread 0).lstk.length ∧
     ready i (s 1 { fullStack with lstk := fullStack.lstk.drop 1 }) 0 = true ∧
     ((s 1 { fullStack with lstk := fullStack.lstk.drop 1 }).thread 0).lstk.length = 3) ∧
    (let i := Instr.loopi always 0 1
     ready i (plain i) 0 = true ∧ calm (plain i) 0 = true) ∧
    (let i := Instr.loop always 1 3
     let s := { plain i with cur := { (plain i).cur with pfx := { ext := some 0 } } }
     ready i s 0 = true) := by decide +kernel

/-- For BranchesCallsAndReturns: legal targets, the last word of the window, targets beyond it, a misaligned one, DEPTH 0, 1 and 255. -/
theorem witness_branches :
    let top : DWord := 0x00FFFFFFFFFFFFFC
    let near := fun (i : Instr) => { plain i with cur := { (plain i).cur with pc := top, pc0 := top } }
    let target := fun (i : Instr) (lo hi : Word) => bundle (wordOf i) [0] (fun _ => withRegs [(2, lo), (3, hi)])
    (let i := Instr.bra always 1 0
     ready i (near i) 0 = true ∧ (near i).cur.pc + 4 * (0 : BitVec 19).signExtend 64 ≤ 0x00FFFFFFFFFFFFFF) ∧
    (let i := Instr.bra always 1 1
     ready i (near i) 0 = true ∧ 0x00FFFFFFFFFFFFFF < (near i).cur.pc + 4 * (1 : BitVec 19).signExtend 64) ∧
    (let i := Instr.brx always 0 2
     ready i (target i 0xFFFFFFFC 0x00FFFFFF) 0 = true ∧ ((target i 0xFFFFFFFC 0x00FFFFFF).thread 0).pair 2 = top ∧
     ready i (target i 2 0) 0 = true ∧ ((target i 2 0).thread 0).pair 2 = 2 ∧
     ready i (target i 0 0x01000000) 0 = true ∧ ((target i 0 0x01000000).thread 0).pair 2 = 0x0100000000000000) ∧
    (let i := Instr.call always 4
     let s := fun (n : Nat) => bundle (wordOf i) [0] (fun _ => { depth := n })
     ready i (s 254) 0 = true ∧ ready i (s 255) 0 = true ∧ ((s 255).thread 0).depth = 255) ∧
    (let i := Instr.callx always 2
     ready i (bundle (wordOf i) [0] (fun _ => { withRegs [(2, 0x40)] with depth := 255 })) 0 = true) ∧
    (let i := Instr.ret always
     let s := bundle (wordOf i) [0] (fun _ => { depth := 1, rcache := [(0, 0x100)] })
     ready i s 0 = true ∧ (s.thread 0).rcache.find? (fun e => e.1 == (s.thread 0).depth - 1) = some (0, 0x100) ∧ (s.thread 0).h = false ∧
     ready i (plain i) 0 = true ∧ ((plain i).thread 0).depth = 0) := by decide +kernel

/-- For StepRunsTheDecodedInstruction: a bundle and a context whose next words decode, and what they answer. -/
theorem witness_step :
    (let i := Instr.addi always 1 0 5
     let s := { plain i with cur := { (plain i).cur with word := 0 } }
     s.cur.threads = [0] ∧ s.fetchAt s.cur.core (s.warpOfThread 0).part s.cur.pc = .word (wordOf i) ∧ decodeSimt (wordOf i) = .ok i ∧
     ∃ u, exec i (s.atWord (s.warpOfThread 0).part (wordOf i)) = .next u) ∧
    (let i := Instr.circuitMovi 9 0 0 0xF000
     let s := { State.reset.withCircuitWord (wordOf i).toNat with inputs := [.circuit] }
     s.cur.mem = [] ∧ s.inputs = .circuit :: [] ∧ s.circuitsRun = true ∧ s.nextContext = some 0 ∧ (s.cx 0).pcOk = true ∧
     decodeCircuit (s.storeWord (s.cx 0).pc) = .ok i) := by
  refine ⟨⟨by decide +kernel, by decide +kernel, by decide +kernel, _, rfl⟩, by decide +kernel⟩

/-- For EveryStepKeepsMemoryCanonical and StepAnswersOrReachesAbsentMemory: a step that answers, and one that reaches absent memory. -/
theorem witness_steps_of_both_kinds :
    (Memory.wf State.reset.mem = true ∧ (match step State.reset with | .next t => t.hole == false | _ => false) = true) ∧
    (let i := Instr.ld always 4 1 2 0
     let s := bundle (wordOf i) [0] (fun _ => withRegs [(2, 0x10000)])
     let s1 := s.storeNat (Home.outer (({ on := 8 } : Desc).entryAt 0 1)).key 16 (1 + 2 + 8 + 64 + 0xFFFFFFFFF * 2 ^ 16 + 2 ^ 88)
     (match step s1 with | .fault .noSuchMemory => true | _ => false) = true) := by decide +kernel

/-! ## Accesses: apertures, pages and places -/

/-- A page-table entry for virtual page `vpn` of 64 KiB is stored in outer memory; `e` gives its lower fields. -/
def withPage (s : State) (vpn e : Nat) : State :=
  s.storeNat (Home.outer (({ on := 8 } : Desc).entryAt 0 vpn)).key 16 (e + vpn * 2 ^ 88)

/-- Thread 0 alone is to execute a word whose address pair x2 holds `a`. -/
def accessAt (i : Instr) (a : DWord) : State := bundle (wordOf i) [0] (fun _ => withRegs [(2, a.extractLsb' 0 32), (3, a.extractLsb' 32 32)])

/-- The hypotheses of `Reaches`, for a place that `cond` describes. -/
def reaching (i : Instr) (s : State) (t : Nat) (a : DWord) (n : Nat) (rd wr tag : Bool) (cond : Place → Bool) : Bool :=
  ready i s t && calm s t && decide (s.participants i = [t]) && decide (accessOf s (s.thread t) i = some (a, n, rd, wr, tag)) &&
  !s.watched t a n rd wr &&
  match s.checkAccess t a n n rd wr tag with | .place p => cond p && (!p.so s.cur.pfx || !(s.thread t).soOpen) | _ => false

theorem reaches_of {i : Instr} {s : State} {t : Nat} {a : DWord} {n : Nat} {rd wr tag : Bool} {cond : Place → Bool}
    (h : reaching i s t a n rd wr tag cond = true) : ∃ p, Reaches s i t a n rd wr tag p ∧ cond p = true := by
  simp only [reaching, Bool.and_eq_true, decide_eq_true_eq, Bool.not_eq_true'] at h
  obtain ⟨⟨⟨⟨⟨h1, h2⟩, h3⟩, h4⟩, h5⟩, h6⟩ := h
  split at h6
  · rename_i p hp
    simp only [Bool.and_eq_true, Bool.or_eq_true, Bool.not_eq_true'] at h6
    exact ⟨p, ⟨alone_of_ready h1 h2 h3, h4, hp, h5, fun hs => h6.2.resolve_left (by simp [hs])⟩, h6.1⟩
  · exact absurd h6 (by decide)

/-- A place of a slice of this device that refuses nothing. -/
def inSlice (s : State) (n : Nat) (p : Place) : Bool := p.home.isSlice && !s.refusedAt p.home n && !s.marked p.home.key n

/-- An address in the local slice. -/
def sliceAt (o : Nat) : DWord := 0xFF00000000000000 + BitVec.ofNat 64 o

/-- For AccessChecksComeInOrder: outside every window, and the last access inside each. -/
theorem witness_access_windows :
    let i := Instr.ld always 5 4 2 0
    ready i (accessAt i (sliceAt (8388608 - 7))) 0 = true ∧ ((accessAt i (sliceAt (8388608 - 7))).participants i = [0]) ∧
    ready i (accessAt i 0x00FFFFFFFFFFFFFC) 0 = true ∧
    ¬ insideWindows (accessAt i 0) 0 (sliceAt (8388608 - 7)) 8 ∧ insideWindows (accessAt i 0) 0 (sliceAt (8388608 - 8)) 8 ∧
    insideWindows (accessAt i 0) 0 0x00FFFFFFFFFFFFF8 8 ∧ ¬ insideWindows (accessAt i 0) 0 0x00FFFFFFFFFFFFFC 8 := by
  unfold insideWindows; decide +kernel

/-- For AccessChecksComeInOrder: misaligned, unmapped, on demand, without permission. -/
theorem witness_access_checks :
    (let i := Instr.st always 2 4 2 0
     ready i (accessAt i (sliceAt 1)) 0 = true ∧ (sliceAt 1).toNat % 2 ≠ 0 ∧ insideWindows (accessAt i (sliceAt 1)) 0 (sliceAt 1) 2) ∧
    (let i := Instr.atom always 4 2 0 0
     let s := accessAt i 0x10000
     ready i s 0 = true ∧ s.translate 0 0 0x40000000 = .unmapped ∧ ready i (accessAt i 0x40000000) 0 = true ∧
     (withPage s 1 5).translate 0 0 0x10000 = .onDemand ∧ ready i (withPage s 1 5) 0 = true ∧
     (match (withPage s 1 (1 + 2 + 8)).translate 0 0 0x10000 with | .mapped e _ => e.getLsbD 3 && !e.getLsbD 4 | _ => false) = true ∧
     (match (withPage s 1 (1 + 2 + 16)).translate 0 0 0x10000 with | .mapped e _ => !e.getLsbD 3 && e.getLsbD 4 | _ => false) = true) := by
  unfold insideWindows; decide +kernel

/-- For LoadsReturnTheBytesFound: each size, at a slice, at stacked DRAM, at host memory, at a page of another device, served by the L1 and not. -/
theorem witness_loads :
    (List.range 7).all (fun z => let i := Instr.ld always (BitVec.ofNat 3 z) 4 2 0
      reaching i (accessAt i (sliceAt 0x1000)) 0 (sliceAt 0x1000) (accessBytes (BitVec.ofNat 3 z)) true false false
        (inSlice (accessAt i (sliceAt 0x1000)) 16)) = true ∧
    (let i := Instr.ld always 6 60 2 0x10
     reaching i (accessAt i (sliceAt 0x1100)) 0 (sliceAt 0x1000) 16 true false false (fun p => p.home.isSlice) = true) ∧
    (let i := Instr.ld always 4 4 2 0
     let dram := withPage (accessAt i 0x10020) 1 (1 + 2 + 8 + 16 + 512)
     reaching i dram 0 0x10020 4 true false false (fun p => !p.home.isRemote && !dram.refusedAt p.home.sectorHome 32) = true ∧
     reaching i (dram.updCore 0 (fun c => { c with carve := 524288 })) 0 0x10020 4 true false false
       (fun p => (dram.updCore 0 (fun c => { c with carve := 524288 })).l1Serves 0 {} p) = true ∧
     reaching i { dram with poison := [(2 ^ 60 / 32 + 1, true)] } 0 0x10020 4 true false false
       (fun p => ({ dram with poison := [(2 ^ 60 / 32 + 1, true)] } : State).marked p.home.key 4) = true ∧
     reaching i (withPage (accessAt i 0x10020) 1 (1 + 2 + 8 + 192 + 5 * 2 ^ 76)) 0 0x10020 4 true false false
       (fun p => p.home == .remote 5 32) = true ∧
     reaching i (withPage (accessAt i 0x10020) 1 (1 + 2 + 8 + 256)) 0 0x10020 4 true false false (fun p => p.home.isHost) = true) ∧
    (let i := Instr.lda always 4 4 2 0
     reaching i (accessAt i (sliceAt 0x1000)) 0 (sliceAt 0x1000) 4 true false false (fun p => p.home.isSlice) = true) := by decide +kernel

/-- For StoresWriteTheirFootprint: every store size, at a slice, through the L1, at another device, and STL whose release waits or does not. -/
theorem witness_stores :
    [0, 2, 4, 5, 6].all (fun z => let i := Instr.st always z 4 2 0
      reaching i (accessAt i (sliceAt 0x1000)) 0 (sliceAt 0x1000) (accessBytes z) false true false
        (inSlice (accessAt i (sliceAt 0x1000)) 16)) = true ∧
    (let i := Instr.st always 4 4 2 0
     let s := withPage (accessAt i 0x10020) 1 (1 + 2 + 16 + 512)
     reaching i (s.updCore 0 (fun c => { c with carve := 524288 })) 0 0x10020 4 false true false
       (fun p => (s.updCore 0 (fun c => { c with carve := 524288 })).l1Serves 0 {} p) = true ∧
     reaching i (withPage (accessAt i 0x10020) 1 (1 + 2 + 16 + 192 + 5 * 2 ^ 76)) 0 0x10020 4 false true false
       (fun p => p.home == .remote 5 32) = true) ∧
    (let i := Instr.stl always 4 4 2 0
     let s := accessAt i (sliceAt 0x1000)
     let s1 := s.updThread 0 (fun th => { th with acks := [⟨1, false, false, none⟩] })
     let late := { s1 with cur := { s1.cur with pfx := { ord := some (0, 4, 0) } } }
     reaching i s 0 (sliceAt 0x1000) 4 false true false (fun p => (s.releaseAt 0 (max 0 (p.home.scope 0))).2) = true ∧
     reaching i late 0 (sliceAt 0x1000) 4 false true false (fun p => !(late.releaseAt 0 (max 4 (p.home.scope 0))).2) = true) := by decide +kernel

/-- What a store to the slice leaves (O31's conclusion on one state): its bytes, its acknowledgement and its thread at the next word. -/
theorem witness_store_done :
    let i := Instr.st always 6 4 2 0
    let s := bundle (wordOf i) [0] (fun _ => withRegs [(2, 0x7FFFF0), (3, 0xFF000000), (4, 0x03020100), (7, 0x0F0E0D0C)])
    let s' := afterExec i s
    (List.range 16).map (fun j => s'.byte (0x7FFFF0 + j)) = [0, 1, 2, 3, 0, 0, 0, 0, 0, 0, 0, 0, 12, 13, 14, 15] ∧
    (s'.thread 0).pc = 4 ∧ (s'.thread 0).acks.map (fun a => a.fail) = [none] := by decide +kernel

/-- For TagAndTileWordsAtASlice: the first and the last word of a slice, and a line whose id matches and one whose id does not. -/
theorem witness_tag_and_tile_words :
    [0, 8388600].all (fun o =>
      (let i := Instr.sto always 5 4 2 0
       reaching i (accessAt i (sliceAt o)) 0 (sliceAt o) 8 false true true
         (fun p => inSlice (accessAt i (sliceAt o)) 8 p && ((accessAt i (sliceAt o)).releaseAt 0 (max 0 (p.home.scope 0))).2)) &&
      (let i := Instr.sete always 2 5
       reaching i (accessAt i (sliceAt o)) 0 (sliceAt o) 8 false true true (inSlice (accessAt i (sliceAt o)) 8)) &&
      (let i := Instr.setf always 2 5
       reaching i (accessAt i (sliceAt o)) 0 (sliceAt o) 8 false true true (inSlice (accessAt i (sliceAt o)) 8)) &&
      (let i := Instr.tagrd always 4 2 5
       reaching i (accessAt i (sliceAt o)) 0 (sliceAt o) 8 true false true (inSlice (accessAt i (sliceAt o)) 8))) = true ∧
    [0, 8388592].all (fun o =>
      (let i := Instr.tild always 3 4 2 8
       reaching i (accessAt i (sliceAt o)) 0 (sliceAt o) 16 true false true
         (fun p => inSlice (accessAt i (sliceAt o)) 16 p && (accessAt i (sliceAt o)).swzAt p.home.key != 3 && p.home.key % 16 == 0)) &&
      (let i := Instr.tild always 0 4 2 8
       reaching i (accessAt i (sliceAt o)) 0 (sliceAt o) 16 true false true
         (fun p => inSlice (accessAt i (sliceAt o)) 16 p && (accessAt i (sliceAt o)).swzAt p.home.key == 0)) &&
      (let i := Instr.tist always 3 4 2 8
       reaching i (accessAt i (sliceAt o)) 0 (sliceAt o) 16 false true true
         (fun p => inSlice (accessAt i (sliceAt o)) 16 p && p.home.key % 16 == 0))) = true ∧
    (accessAt (.sto always 5 4 2 0) 0).tagWaits = [] := by decide +kernel

/-- For TaggedWordsWaitAndAreServed, the first half: LDF, LDE and STF at a slice. -/
theorem witness_tagged_words :
    (let i := Instr.ldf always 5 4 2 0
     reaching i (accessAt i (sliceAt 8)) 0 (sliceAt 8) 8 true false true (fun p => p.home.isSlice) = true) ∧
    (let i := Instr.lde always 4 4 2 0
     reaching i (accessAt i (sliceAt 4)) 0 (sliceAt 4) 4 true true true (fun p => p.home.isSlice) = true) ∧
    (let i := Instr.stf always 4 4 2 0
     reaching i (accessAt i (sliceAt 4)) 0 (sliceAt 4) 4 true true true
       (fun p => p.home.isSlice && ((accessAt i (sliceAt 4)).releaseAt 0 (max 0 (p.home.scope 0))).2) = true) := by decide +kernel

/-- A tagged word of thread 0 on its way to its unit, and its thread parked at it. -/
def taggedState (kind : Nat) (who : ReqOwner) (full : Bool) : State :=
  { bundle 0 [0] (fun _ => { park := .word .tag 4 0 false 1, outs := [⟨7, .regs, [4, 5], none, 0, 0, false, 0, 0⟩] }) with
    tagWaits := [⟨7, kind, 0x1008, 8, [1, 2, 3, 4, 5, 6, 7, 8], who, 0, 0⟩], tags := if full then [(0x201, true)] else [] }

/-- For the second half: words whose condition does not hold, a load that is served and a store that is. -/
theorem witness_tagged_words_served :
    (let s := taggedState 0 (.result 0 7 8 5) false
     let x : TagWait := ⟨7, 0, 0x1008, 8, [1, 2, 3, 4, 5, 6, 7, 8], .result 0 7 8 5, 0, 0⟩
     s.tagWaits = x :: [] ∧ x.key < 1024 * 8388608 ∧ s.refusedAt x.home x.n = false ∧ s.marked x.key x.n = false ∧ x.data.length = x.n ∧
     s.tagAt x.key = false) ∧
    (let s := taggedState 1 (.result 0 7 8 5) true
     s.tagAt 0x1008 = true ∧ (s.thread 0).outs.map (fun o => (o.id, o.dst.length)) = [(7, (registersFrom 0 5).length)] ∧
     (s.thread 0).park = .word .tag 4 0 false 1 ∧ calm s 0 = true ∧
     (let s' := afterExec (.taggedWordArrival 0) s
      (s'.thread 0).pc = 4 ∧ s'.tagAt 0x1008 = false ∧ s'.tagWaits = [] ∧ (s'.thread 0).outs = [])) ∧
    (let s := taggedState 2 (.tagStore 0 (sliceAt 0x1008)) false
     s.tagAt 0x1008 = false ∧
     (let s' := afterExec (.taggedWordArrival 0) s
      (s'.thread 0).pc = 4 ∧ s'.tagAt 0x1008 = true ∧ s'.byte 0x100F = 8)) ∧
    (let s := taggedState 2 (.tagStore 0 (sliceAt 0x1008)) true
     s.tagAt 0x1008 = true ∧ (afterExec (.taggedWordArrival 0) s).tagWaits.map (fun w => w.phase) = [1]) := by decide +kernel

/-- For AtomicWords: each operation width at a slice; a HOST page with an operation that it accepts and one that it does not; another device. -/
theorem witness_atomics :
    (List.range 10).all (fun o => let i := Instr.atom always 4 2 0 (BitVec.ofNat 4 o)
      reaching i (accessAt i (sliceAt 0x1000)) 0 (sliceAt 0x1000) 4 true true false (inSlice (accessAt i (sliceAt 0x1000)) 4)) = true ∧
    (let i := Instr.cas always 1 4 2 6
     reaching i (accessAt i (sliceAt 0x1000)) 0 (sliceAt 0x1000) 8 true true false (inSlice (accessAt i (sliceAt 0x1000)) 8) = true) ∧
    (let i := Instr.red always 4 2 1 7
     reaching i (accessAt i (sliceAt 0x1000)) 0 (sliceAt 0x1000) 8 true true false (inSlice (accessAt i (sliceAt 0x1000)) 8) = true) ∧
    (let host := fun (i : Instr) => withPage (accessAt i 0x10020) 1 (1 + 2 + 8 + 16 + 256)
     let hostOk := fun (i : Instr) => reaching i (host i) 0 0x10020 4 true true false (fun p => p.home.isHost)
     hostOk (.atom always 4 2 0 0) = true ∧ hostOk (.atom always 4 2 0 8) = true ∧ hostOk (.atom always 4 2 0 9) = true ∧
     hostOk (.red always 4 2 0 1) = true) ∧
    (let i := Instr.atom always 4 2 0 0
     reaching i (withPage (accessAt i 0x10020) 1 (1 + 2 + 8 + 16 + 192 + 5 * 2 ^ 76)) 0 0x10020 4 true true false
       (fun p => p.home == .remote 5 32) = true) ∧
    (let i := Instr.atom always 5 8 0 9
     let s := bundle (wordOf i) [0, 1, 31] (fun t => withRegs [(5, BitVec.ofNat 32 t), (8, 0x1000), (9, 0xFF000000)])
     ready i s 0 = true ∧ s.cur.pfx.ord = none ∧ s.participants i = [0, 1, 31] ∧ s.marked 0x1000 4 = false ∧ (s.l1At 0 128).dirty = 0 ∧
     ∀ t ∈ s.participants i, (s.thread t).pair 8 = 0xFF00000000001000 ∧ coreOfThread t = s.cur.core ∧
       s.watched t 0xFF00000000001000 4 true true = false ∧ calm s t = true) := by decide +kernel

/-- For FencesWaitForWhatIsOutstanding: nothing outstanding, a store that is not acknowledged, and a dirty byte at the last key that is memory's. -/
theorem witness_fences :
    (let i := Instr.fence always 2 4
     ready i (plain i) 0 = true ∧ (plain i).participants i = [0] ∧ ((plain i).thread 0).acks = [] ∧ ((plain i).thread 0).outs = [] ∧
     (afterExec i (plain i)).backOpen 0 = false ∧ ((afterExec i (plain i)).thread 0).fencing = none) ∧
    (let i := Instr.fence always 1 0
     let s := bundle (wordOf i) [0] (fun _ => { acks := [⟨1, false, false, none⟩] })
     ready i s 0 = true ∧ (s.thread 0).acks ≠ [] ∧ ((afterExec i s).thread 0).fencing = some (1, 1)) ∧
    ([Instr.fence always 0 2, .fence always 2 4].all fun i =>
      let s := (plain i).setL1 0 (2 ^ 58 - 1) { bytes := 0xAB <<< 248, dirty := 1 <<< 31 }
      ready i s 0 && calm s 0 && (afterExec i s).byte (2 ^ 63 - 1) == 0xAB) = true := by decide +kernel

/-- The hypotheses of `OneWorkgroup` for barrier 3 of a workgroup of one warp. -/
def oneGroup (i : Instr) (s : State) : Bool :=
  ready i s 0 && !(s.participants i).isEmpty && (s.participants i).all (fun t => (s.warpOfThread t).lid == 1 && (s.warpOfThread t).g == 0) &&
  decide ((s.wg? 1 0).map (fun w => w.st) = some .running) && decide (3 < s.nbar 1) && s.cur.threads.all (calm s)

/-- For BarrierWords: good and bad events of each word, with an immediate and with a register. -/
theorem witness_barriers :
    let b : Barrier := ⟨true, false, 0, 0, 32, 32⟩
    [Instr.barv always 0 3 0 1, .barv always 1 3 0 32, .barv always 2 3 0 33, .barv always 3 3 1 0xC0, .bart always 0 3 0 1023, .bart always 1 3 0 0,
     .bart always 2 3 0 0, .bariInit always 3 0 1, .bariInval always 3, .barw always 3 0 0, .barw always 3 0 1, .barw always 3 1 0xC0].all
       (fun i => oneGroup i (barrierBundle i [0] (fun _ => withRegs [(12, 1)]) b) && oneGroup i (barrierBundle i [0] (fun _ => {}) {})) = true ∧
    (let s := barrierBundle (.barw always 3 0 0) [0] (fun _ => {}) b
     (s.wg? 1 0).map (fun w => ((s.barAt w 3).init, (s.barAt w 3).ph, (s.barAt w 2).init)) = some (true, false, false) ∧ s.nbar 1 = 4) := by
  decide +kernel

/-! ## The matrix unit, special registers and commands -/

/-- A bundle whose core's slot 0 is as `f` says. -/
def withTile (i : Instr) (ts : List Nat) (tile : Tile) : State :=
  (bundle (wordOf i) ts (fun _ => {})).updCore 0 (fun c => { c with tiles := if tile = {} then [] else [(0, tile)] })

/-- A slot of workgroup 0 of launch 1, and one of another. -/
def mineSlot (ty : BitVec 3) (mx : Bool) : Tile := { owned := true, lid := 1, g := 0, type := ty, mx := mx }
/-- A slot of another workgroup. -/
def otherSlot : Tile := { owned := true, lid := 2, g := 0, type := 1 }

/-- For TileWordsLoadClearAndRead: an EMPTY slot, the workgroup's own with its type and with another, and another workgroup's. -/
theorem witness_tile_words :
    (let i := Instr.mld always 0 0 1 0 32 0
     [{}, mineSlot 1 false, mineSlot 2 false, otherSlot].all (fun x => ready i (withTile i [0, 31] x) 31) = true ∧
     ((withTile i [0, 31] (mineSlot 1 false)).coreAt 0).tile 0 = mineSlot 1 false ∧
     (mineSlot 1 false).ownedBy ((withTile i [0, 31] {}).ownerOf 31) = true ∧ otherSlot.ownedBy ((withTile i [0, 31] {}).ownerOf 31) = false ∧
     OneWarp (withTile i [0, 31] {})) ∧
    (let i := Instr.mld always 1 0 6 1 32 40
     ready i (withTile i [0] {}) 0 = true) ∧
    (let i := Instr.mclr always 0
     ready i (withTile i [0] (mineSlot 1 false)) 0 = true ∧ ready i (withTile i [0] otherSlot) 0 = true) ∧
    [(0 : BitVec 2), 1, 2, 3].all (fun m => let i := Instr.mrd always m 16 0
      ready i (withTile i [0, 15, 16] (mineSlot 3 true)) 15 && ready i (withTile i [0, 15, 16] otherSlot) 16) = true := by
  unfold OneWarp; decide +kernel

/-- For MatrixProductsAddToTheirRows: products of each kind, and slots whose kind does not match. -/
theorem witness_products :
    (let i := Instr.mma always 0 0 16 0 0
     [mineSlot 1 false, mineSlot 3 false, mineSlot 5 false, mineSlot 3 true, otherSlot].all (fun x => ready i (withTile i [0, 1] x) 1) = true ∧
     OneWarp (withTile i [0, 1] {}) ∧ ((withTile i [0, 1] (mineSlot 5 false)).coreAt 0).arrFault = [] ∧
     ((withTile i [0, 1] (mineSlot 5 false)).coreAt 0).addFault = 0) ∧
    (let i := Instr.mma always 1 0 32 0 1
     ready i (withTile i [0] (mineSlot 3 false)) 0 = true ∧ ready i (withTile i [0] (mineSlot 2 false)) 0 = true ∧ tileWidth 2 = 16) ∧
    (let i := Instr.mmas always 0 16 0 40
     ready i (withTile i [0] (mineSlot 6 true)) 0 = true ∧ ready i (withTile i [0] (mineSlot 3 false)) 0 = true) := by
  unfold OneWarp; decide +kernel

/-- For ReturnFromATrap: each kind of %TRPC, and a thread outside a handler. -/
theorem witness_returns :
    let i := Instr.rte always
    let s := fun (v : DWord) (h : Bool) => bundle (wordOf i) [0] (fun _ => { h := h, trpc := v })
    ready i (s 0x00FFFFFFFFFFFFFC true) 0 = true ∧ ready i (s 0x00FFFFFFFFFFFFFE true) 0 = true ∧ ready i (s 0x0100000000000000 true) 0 = true ∧
    ready i (s 0 false) 0 = true ∧ ((s 4 true).thread 0).h = true ∧ ((afterExec i (s 4 true)).thread 0).pc = 4 := by decide +kernel

/-- For SpecialRegistersReadAndWritten: every register is read by some word; the numbers that no rule assigns. -/
theorem witness_special_reads :
    (specialRegisters (plain (.nop always)) 0).all (fun e => let i := Instr.csrr always 62 (BitVec.ofNat 6 e.1)
      ready i (plain i) 0 && decide ((BitVec.ofNat 6 e.1).toNat = e.1)) = true ∧
    [0x16, 0x17, 0x1B, 0x1F, 0x23, 0x2C, 0x2F, 0x31, 0x3F].all (fun n =>
      (specialRegisters (plain (.nop always)) 0).all (fun e => e.1 != n) && (Instr.csrr always 0 (BitVec.ofNat 6 n)).decodeCause {} 64 == some 2) = true := by
  decide +kernel

/-- Each writable register, in a handler where it must be; the first and last read-only one; a handler's register from other code. -/
theorem witness_special_writes :
    writable.all (fun n => let i := Instr.csrw always 62 (BitVec.ofNat 6 n)
      let s := bundle (wordOf i) [0, 1] (fun _ => { h := true })
      ready i s 1 && decide ((s.participants i).getLast? = some 1) && calm s 1) = true ∧
    [0x00, 0x10, 0x15, 0x1C, 0x1D, 0x30].all (fun n => let i := Instr.csrw always 62 (BitVec.ofNat 6 n)
      ready i (plain i) 0 && !writable.contains n) = true ∧
    handlerOnly.all (fun n => let i := Instr.csrw always 62 (BitVec.ofNat 6 n)
      ready i (plain i) 0 && !((plain i).thread 0).h) = true := by decide +kernel

/-- For WatchdogAndDebugMailboxWords: the enable at 0 and 1, a queue with 15 and with 16 entries, an inbound word and none. -/
theorem witness_debug_mailbox :
    let post : DbgPost := ⟨0, 0, 0, 0⟩
    let s := fun (i : Instr) (en : Byte) (n : Nat) (v : Option DWord) =>
      let s := (bundle (wordOf i) [0, 1] (fun _ => {})).updCore 0 (fun c => { c with dbgOut := List.replicate n post })
      { (s.updWarp 0 (fun w => { w with dbgIn := v })) with dev := { s.dev with dbgen := en } }
    [Instr.dbgmbSend always 2, .dbgmbRecv always 4, .dbgmbXchg always 4 2].all (fun i =>
      ready i (s i 0 0 none) 0 && ready i (s i 1 15 none) 0 && ready i (s i 1 16 (some 5)) 0 && calm (s i 1 0 none) 1 &&
      decide ((s i 1 0 none).participants i = [0, 1])) = true ∧
    (s (.nop always) 1 15 none).dev.dbgen.getLsbD ((s (.nop always) 1 15 none).warp 0).part = true ∧ OneWarp (s (.nop always) 1 0 none) := by
  unfold OneWarp; decide +kernel

/-- A word of thread 0 alone with registers, for a command. -/
def commandState (i : Instr) (rs : List (Nat × Word)) : State := barrierBundle i [0] (fun _ => withRegs rs) {}

/-- The hypotheses of `issuesCommand`. -/
theorem witness_command_words :
    [Instr.cpy always 7 7 4 8, .tcpy always 1 0 0 4 8, .gcpy always 0 0 0 8 16, .chain always 0 0 4, .rcpy always 2 0 0 4 8, .coll always 0 1 6 5,
     .glog always 1 4 8, .wfold always 1 4 9].all (fun i => let s := commandState i []
       ready i s 0 && decide (s.participants i = [0]) && calm s 0 && decide (((s.warp 0).tok 1).out < 255)) = true := by decide +kernel

/-- For CopyWordsQueueTheirCommands: checks that all hold, at the end of the slice and of the global window, and first checks that fail. -/
theorem witness_copy_checks :
    (let i := Instr.cpy always 2 3 4 8
     let s := commandState i [(4, 0x7FFFC0), (5, 0xFF000000), (6, 0xFFFFFFC0), (7, 0x00FFFFFF), (8, 64), (9, 0x8003)]
     ∃ checks x, copyCommand s 0 i = some (2, 3, checks, x, none) ∧ ∀ e ∈ checks, e.1) ∧
    (let i := Instr.cpy always 2 3 4 8
     let s := commandState i [(4, 0x7FFFC1), (5, 0xFF000000), (8, 64)]
     ∃ checks x, copyCommand s 0 i = some (2, 3, checks, x, none) ∧ firstFailing checks 4) ∧
    (let i := Instr.cpy always 2 3 4 8
     let s := commandState i [(9, 0x8004)]
     ∃ checks x, copyCommand s 0 i = some (2, 3, checks, x, none) ∧ firstFailing checks 0x0B) ∧
    (let i := Instr.rcpy always 0 2 3 4 8
     let s := commandState i [(8, 1), (9, 0x40)]
     ∃ checks x, copyCommand s 0 i = some (2, 3, checks, x, none) ∧ ∀ e ∈ checks, e.1) ∧
    (let i := Instr.chain always 2 3 4
     let s := commandState i [(4, 32)]
     ∃ checks x h, copyCommand s 0 i = some (2, 3, checks, x, h) ∧ firstFailing checks 3) := by
  refine ⟨⟨_, _, rfl, ?_⟩, ⟨_, _, rfl, ?_⟩, ⟨_, _, rfl, ?_⟩, ⟨_, _, rfl, ?_⟩, ⟨_, _, _, rfl, ?_⟩⟩ <;>
    simp only [controlChecks, List.cons_append, List.nil_append, List.forall_mem_cons, List.not_mem_nil, false_implies, implies_true, firstFailing, inOneRow] <;> decide +kernel

/-- For LossScaleAndTokenWaits: exponents at both ends and beyond, a full ring; tokens outstanding, complete, failed. -/
theorem witness_loss_scale :
    let i := Instr.lscale always 4
    let s := fun (v : Word) (n : Nat) =>
      let s := bundle (wordOf i) [0, 1] (fun _ => withRegs [(4, v)])
      if n = 0 then s else { s with welt := [(0, { reserved := List.replicate n 0 })] }
    [s 127 0, s (BitVec.ofInt 32 (-126)) 0, s 128 0, s (BitVec.ofInt 32 (-127)) 0, s 0 508400, s 0 508399].all
      (fun s => ready i s 1 && calm s 1 && decide (s.participants i = [0, 1])) = true ∧
    ((s 127 0).thread 0).reg 4 = 127 ∧ (∀ n, 0 < n → ((s 0 n).weltOf 0).reserved.length + ((s 0 n).weltOf 0).ring.length = n) := by
  refine ⟨by decide +kernel, by decide +kernel, fun n hn => ?_⟩
  have h : n ≠ 0 := by omega
  simp [h, State.weltOf, Tab.get]

theorem witness_token_waits :
    let i := Instr.tkwait always 5 1 0x81
    let s := fun (toks : Tab Token) => (bundle (wordOf i) [0] (fun _ => {})).updWarp 0 (fun w => { w with toks := toks })
    [s [], s [(7, { out := 1 })], s [(0, { err := 4 }), (7, { err := 6 })]].all (fun s => ready i s 0 && calm s 0) = true ∧
    ((afterExec i (s [(0, { err := 4 }), (7, { err := 6 })])).thread 0).reg 5 = 0x481 ∧
    ready (.tkwait always 0 0 1) (plain (.tkwait always 0 0 1)) 0 = true := by decide +kernel

/-- The hypotheses of SignalsFillOrArrive on one word, for a place that `cond` describes. -/
def signals (i : Instr) (s : State) (a : DWord) (n : Nat) (cond : Place → Bool) : Bool :=
  ready i s 0 && calm s 0 && decide (s.participants i = [0]) && decide ((s.thread 0).pair 2 = a) && !s.watched 0 a n false true &&
  (match s.checkAccess 0 a n n false true false with | .place p => cond p && (!p.so s.cur.pfx || !(s.thread 0).soOpen) | _ => false)

/-- For SignalsFillOrArrive: a slice word, stacked DRAM, another device; an arrival at a line that a workgroup owns and at one that none owns. -/
theorem witness_signals :
    (let i := Instr.sigrFill always 4 2 1
     let s := accessAt i (sliceAt 8)
     signals i s (sliceAt 8) 8 (fun p => inSlice s 8 p && (s.releaseAt 0 (max 0 (p.home.scope 0))).2) = true) ∧
    (let i := Instr.sigrFill always 4 2 0
     signals i (withPage (accessAt i 0x10020) 1 (1 + 2 + 16 + 512)) 0x10020 4 (fun p => !p.home.isSlice && !p.home.isRemote) = true ∧
     signals i (withPage (accessAt i 0x10020) 1 (1 + 2 + 16 + 192 + 5 * 2 ^ 76)) 0x10020 4 (fun p => p.home == .remote 5 32) = true) ∧
    (let i := Instr.sigrArr always 2 4
     let s := accessAt i (sliceAt 8)
     signals i s (sliceAt 8) 8 (fun p => inSlice s 8 p && (s.releaseAt 0 0).2) = true ∧ s.sliceOwner 0 8 = none ∧
     (let s1 := { s with wgs := (commandState i []).wgs,
                         launches := (commandState i []).launches.map (fun (l : Launch) => { l with kd := { l.kd with slice := 4096 } }) }
      (s1.sliceOwner 0 8).map (fun (w : Wg) => (w.lid, w.g)) = some (1, 0))) ∧
    (let i := Instr.sigrArrel always 2 4
     let s := accessAt i (sliceAt 8)
     signals i s (sliceAt 8) 8 (fun p => inSlice s 8 p && (s.releaseAt 0 4).2) = true) := by decide +kernel

/-- For LaunchWords: operands that pass, and the first that fails; a batch that takes the request, none, and no place left. -/
theorem witness_launch_requests :
    (let i := Instr.lnchLaunch always 2 4 8
     let s := fun (rs : List (Nat × Word)) => bundle (wordOf i) [0] (fun _ => withRegs rs)
     let checks := fun (s : State) => (((s.thread 0).pair 4 ≤ 0x00FFFFFFFFFFFFFF : Bool), decide (((s.thread 0).pair 4).toNat % 64 = 0),
       decide (1 ≤ ((s.thread 0).reg 8).toNat % 65536), decide (((s.thread 0).reg 8).toNat / 65536 = 0))
     ready i (s [(4, 64), (8, 1)]) 0 = true ∧ checks (s [(4, 64), (8, 1)]) = (true, true, true, true) ∧
     checks (s [(5, 0x01000000), (8, 1)]) = (false, true, true, true) ∧ checks (s [(4, 32), (8, 0xFFFF)]) = (true, false, true, true) ∧
     checks (s [(8, 0)]) = (true, true, false, true) ∧ ((s [(4, 64), (8, 1)]).releaseAt 0 3).2 = true ∧
     (let s' := afterExec i (s [(4, 64), (8, 1)])
      (s'.batchesOf 0).map (fun b => (b.kd, b.isOpen, b.reqs.length)) = [(64, true, 1)] ∧ (s'.thread 0).pc = 4)) := by decide +kernel

/-- LNCH.GANG: a block that is good and one that is not, read from the slice; LNCH.BWREC: a tape with room, a full one and none. -/
theorem witness_gangs_and_tapes :
    (let i := Instr.lnchGang always 4 2
     let s := accessAt i (sliceAt 0)
     let good := s.putBytes 0 ([0, 0, 0, 0, 0, 0, 0, 0, 0, 0, 0, 0, 0, 0, 0, 0, 1, 0, 0, 0, 0, 0, 1, 0, 1, 0, 0, 0, 0, 0, 0, 0] ++ [0, 16, 0, 0, 0, 0, 0, 0xFF])
     ready i s 0 = true ∧ ((s.thread 0).pair 2).toNat % 64 = 0 ∧
     (match (s.dropRange 0 0 (sliceAt 0) 64).readRange 0 (sliceAt 0) 64 with
      | .bytes b => b.length == 64 && leNat ((b.drop 16).take 4) == 0 | _ => false) = true ∧
     (match (good.dropRange 0 0 (sliceAt 0) 64).readRange 0 (sliceAt 0) 64 with | .bytes b => leNat ((b.drop 22).take 2) == 1 | _ => false) = true ∧
     (match good.readRange 0 (sliceAt 4096) 2 with | .bytes b => b.length == 2 | _ => false) = true ∧
     inOneRow s 0 true 0xFF00000000000000 1 ∧ (good.releaseAt 0 4).2 = true ∧
     (afterExec i good).gangs.map (fun g => g.devs) = [[0]] ∧ (afterExec i s).gangs = []) ∧
    (let i := Instr.lnchBwrec always 1 4 8
     let s := fun (r : Rcb) => { bundle (wordOf i) [0] (fun _ => withRegs [(4, 64), (8, 1)]) with
       launches := [{ lid := 1, part := 0, lseq := 1, rcb := 5, kd := {}, chk := 3, fdom := 1, prio := 0, seed := 0, grid := .gang 1 0, origin := .batch,
                      next := 1, total := 1, rcbs := [r] }], parts := [(0, { desc := [(0, { on := 8 })], rcbs := [r] })] }
     let at5 := fun (r : Rcb) => (s r).updWarp 0 (fun w => { w with rcb := 5 })
     let full : Rcb := { id := 5, addr := 0x8000, tape := 0x4000, tapesz := 64, tapen := 1 }
     ready i (at5 full) 0 = true ∧ ((at5 full).launch? 1).isSome = true ∧ (at5 full).tapeOf ((at5 full).warp 0) = some full ∧
     (at5 { full with tapen := 0 }).tapeOf ((at5 { full with tapen := 0 }).warp 0) = some { full with tapen := 0 } ∧ (at5 { full with tape := 0 }).tapeOf ((at5 { full with tape := 0 }).warp 0) = none ∧
     ((afterExec i (at5 full)).thread 0).trcause = 5 ∧ ((afterExec i (at5 { full with tapen := 0 })).thread 0).pc = 4) := by
  unfold inOneRow; decide +kernel

/-! ## The circuit processor -/

/-- Context 0 is to run a word on a device whose partition 0 has tables, with some c-registers. -/
def cxBundle (i : Instr) (rs : List (Nat × DWord)) : State :=
  let s := (State.reset.withSimtWord 0).withCircuitWord (wordOf i).toNat
  let s1 := s.updCx 0 (fun c => { c with regs := rs })
  { s1 with cp := { s1.cp with last := 0 } }

/-- The same with a port of the circuit processor. -/
def portBundle (i : Instr) (rs : List (Nat × DWord)) (n : Nat) (p : Port) : State :=
  let s := cxBundle i rs
  { s with cp := { s.cp with ports := [(n, p)] } }

/-- The same with a rotation of context 0. -/
def rotBundle (i : Instr) (rs : List (Nat × DWord)) (r : Rotation) : State := (cxBundle i rs).updCx 0 (fun c => { c with rot := r })

/-- The hypotheses of `CxRuns` and `Detached`. -/
def cxReady (i : Instr) (s : State) : Bool :=
  decide ((s.cx s.cp.last).st = 1) && i.fieldsOk && decide ((s.cx s.cp.last).cmd = none) && decide (s.waitingFor s.cp.last = none)

theorem cxRuns_of {i : Instr} {s : State} (h : cxReady i s = true) : CxRuns s i ∧ Detached s := by
  simp only [cxReady, Bool.and_eq_true, decide_eq_true_eq] at h
  exact ⟨⟨h.1.1.1, h.1.1.2⟩, h.1.2, h.2⟩

/-- For CircuitGeneralWords: every word, and reserved codes. -/
theorem witness_circuit_general :
    [Instr.circuitMovi 15 3 0 0xFFFF, .circuitMovi 0 0 1 1, .circuitAdd 15 15 15 0x4000, .circuitSub 1 2 3, .circuitAnd 1 2 3, .beq 1 2 0x7FFF,
     .bne 1 2 1, .blt 1 2 0x4000, .jmp 0, .halt 255].all (fun i => cxReady i (cxBundle i [(2, 1)])) = true ∧
    [Instr.srun 1 2 5, .srun 1 2 7, .wev 15 0 0 0 0, .wev 0 0 0 6 0].all (fun i =>
      i.isCircuit && !i.fieldsOk && decide (((cxBundle i []).cx 0).st = 1)) = true := by decide +kernel

/-- For CircuitMemoryAndSignalWords: addresses beyond the window, misaligned, unmapped, on demand, without permission, at this device, refused,
marked, at another device. -/
theorem witness_circuit_access :
    let pages := fun (e : Nat) => withPage (cxBundle (.ldc 2 1 0) [(1, 0x10008)]) 1 e
    [Instr.ldc 2 1 0, .ldc 2 1 0x7FFF, .stc 1 2 0, .csigFill 1 2, .csigArr 1 2, .csigMsg 1 2].all (fun i => cxReady i (cxBundle i [(1, 0x10008)])) = true ∧
    0x00FFFFFFFFFFFFFF < (0x0100000000000000 : DWord) ∧ (0x10009 : DWord).toNat % 8 ≠ 0 ∧
    (pages 0).translateAgent 0 0x40000008 = .unmapped ∧ (pages 5).translateAgent 0 0x10008 = .onDemand ∧
    (match (pages (1 + 2 + 8 + 128 + 5 * 2 ^ 76)).translateAgent 0 0x10008 with
     | .mapped e size => e.getLsbD 3 && !e.getLsbD 4 && (pteHome e (sizeShift size) 0x10008 == .slice 5 8) | _ => false) = true ∧
    (match (pages (1 + 2 + 8 + 16 + 192 + 5 * 2 ^ 76)).translateAgent 0 0x10008 with
     | .mapped e size => pteHome e (sizeShift size) 0x10008 == .remote 5 8 | _ => false) = true ∧
    (pages 0).refusedAt (.slice 5 8) 8 = false ∧ (pages 0).marked (Home.slice 5 8).key 8 = false ∧
    ({ pages 0 with poison := [(((Home.slice 5 8).key) / 32, true)] } : State).marked (Home.slice 5 8).key 8 = true ∧
    (pages 0).savedOwner 0 0x10008 = none ∧ (pages 0).sliceOwner 5 8 = none := by decide +kernel

/-- What LDC and CSIG.FILL do at a slice of this device. -/
theorem witness_circuit_memory :
    (let i := Instr.ldc 2 1 0
     let s := withPage (cxBundle i [(1, 0x10008)]) 1 (1 + 2 + 8 + 128)
     ((afterExec i (s.putBytes 8 [1, 2, 3, 4, 5, 6, 7, 8])).cx 0).reg 2 = 0x0807060504030201) ∧
    (let i := Instr.csigFill 1 2
     let s := withPage (cxBundle i [(1, 0x10008), (2, 0xFF00)]) 1 (1 + 2 + 16 + 128)
     (afterExec i s).tagAt 8 = true ∧ (afterExec i s).byte 9 = 0xFF ∧ ((afterExec i s).cx 0).pc = 4) ∧
    (let i := Instr.csigMsg 1 2
     ((afterExec i (cxBundle i [(1, 0x7FFF), (2, 5)])).cx 0).pc = 4 ∧ ((afterExec i (cxBundle i [(1, 0x8000), (2, 5)])).cx 0).cause = 1) := by decide +kernel

/-- For EventWaitsOfCircuits: each kind, with an event that holds and one that does not. -/
theorem witness_event_waits :
    let pc := fun (i : Instr) (s : State) => ((afterExec i s).cx 0).pc
    (List.range 6).all (fun k => let i := Instr.wev 2 3 4 (BitVec.ofNat 3 k) 1
      cxReady i (cxBundle i []) && decide (((cxBundle i []).cx 0).rot.st ≠ 2)) = true ∧
    (let i := Instr.wev 2 3 4 0 0
     pc i (cxBundle i [(3, 33)]) = 4 ∧ ((afterExec i (cxBundle i [(3, 34)])).cx 0).cause = 1) ∧
    (let i := Instr.wev 2 3 4 2 0
     pc i (cxBundle i []) = 0 ∧
     pc i ((cxBundle i []).updCx 0 (fun c => { c with msgs := [(5, 9)] })) = 4) ∧
    (let i := Instr.wev 2 3 4 3 0
     ((afterExec i (withPage (cxBundle i [(3, 0x10008)]) 1 (1 + 2 + 8 + 128))).tagWaits.map (fun w => (w.key, w.n))) = [(8, 8)] ∧
     ((afterExec i (withPage (cxBundle i [(3, 0x10008)]) 1 (1 + 2 + 8))).cx 0).cause = 0x18) ∧
    (let i := Instr.wev 2 3 4 4 0
     pc i (cxBundle i []) = 4 ∧ pc i (cxBundle i [(3, 1)]) = 0) ∧
    (let i := Instr.wev 2 3 4 5 0
     ((afterExec i (rotBundle i [(3, 16)] { st := 3, ns := 2 })).cx 0).cause = 1 ∧ pc i (rotBundle i [(3, 2)] { st := 3, ns := 2, s := 1 }) = 0 ∧
     ((afterExec i (rotBundle i [(3, 3)] { st := 3, ns := 2 })).cx 0).cause = 1) := by decide +kernel

/-- WEV for a barrier of the workgroup that owns a slice line: over, not over, and not initialised. -/
theorem witness_barrier_event :
    let i := Instr.wev 2 3 4 1 0
    let g := barrierBundle (.nop always) [0] (fun _ => {}) ⟨true, true, 0, 0, 1, 1⟩
    let s := fun (y : DWord) => { withPage (cxBundle i [(3, 0x10008), (4, y)]) 1 (1 + 2 + 8 + 128) with
      wgs := g.wgs, launches := g.launches.map (fun (l : Launch) => { l with kd := { l.kd with slice := 4096 } }) }
    cxReady i (s 3) = true ∧ ((s 3).sliceOwner 0 8).isSome = true ∧ ((afterExec i (s 3)).cx 0).pc = 4 ∧ ((afterExec i (s 0x103)).cx 0).st = 2 ∧
    ((afterExec i (s 2)).cx 0).cause = 0x0B := by decide +kernel

/-- For CircuitEntriesPortsAndBindings: a free entry, an asked one, a granted static one on a LIVE port, a bad spec, a port of another context. -/
theorem witness_ports :
    let spec : DWord := 0x50020203
    let rs : List (Nat × DWord) := [(3, spec), (2, 3), (5, 0x00010206)]
    let free : Port := { en := true }
    let live : Port := { en := true, st := 3, owner := some 0, peer := some (2, 5, 2), entries := [(0, ⟨2, 0, 0, 1000, 2, 2, 5, 0⟩)] }
    let asked : Port := { en := true, owner := some 0, entries := [(0, ⟨1, 7, 0, 0, 2, 2, 5, 0⟩)] }
    let other : Port := { en := true, owner := some 1 }
    goodSpec spec ∧ usable (portBundle (.creq 3) rs 3 free) 3 ∧ ¬ usable (portBundle (.creq 3) rs 3 other) 3 ∧
    ¬ goodSpec 0x400 ∧ ¬ goodSpec 0x100000000 ∧
    [Instr.creq 3, .cwait 4 3 200, .crel 3, .pstat 4 3, .portOn 2, .portOff 2, .portClr 2, .cbind 2 5].all (fun i =>
      [free, live, asked, other].all (fun p => cxReady i (portBundle i rs 3 p))) = true ∧
    (let i := Instr.creq 3
     ((afterExec i (portBundle i rs 3 free)).optPort 3).entries.map (fun e => e.2.st) = [1] ∧
     ((afterExec i (portBundle i rs 3 asked)).cx 0).cause = 1) ∧
    (let i := Instr.cwait 4 3 200
     ((afterExec i (portBundle i rs 3 live)).cx 0).reg 4 = 0x2050020203) ∧
    (let i := Instr.cbind 2 5
     (afterExec i (portBundle i rs 3 live)).cp.binds.map (fun b => (b.eng, b.queue, b.port)) = [(6, 2, 3)]) := by
  unfold goodSpec usable; decide +kernel

/-- For RotationsAreLoadedArmedAndStopped: a rotation of each state, a legal table and one that is not, addresses that fault. -/
theorem witness_rotations :
    (let i := Instr.slot 1
     let table : List Byte := leBytes 8 2 ++ leBytes 8 (3000 * 2 ^ 32 + 10000) ++ leBytes 8 (1500 * 2 ^ 32 + 1501)
     let s := withPage (cxBundle i [(1, 0x10000)]) 1 (1 + 2 + 8 + 128)
     cxReady i s = true ∧ ((afterExec i (s.putBytes 0 table)).cx 0).rot.ns = 2 ∧ ((afterExec i (s.putBytes 0 table)).cx 0).rot.len = [10000, 1501] ∧
     ((afterExec i s).cx 0).cause = 1 ∧ ((s.cx 0).rot.st < 2) ∧
     (List.range 16).all (fun j => s.cxPlace 0 (0x10000 + BitVec.ofNat 64 (8 * j)) 8 true false == .place (.slice 0 (8 * j))) = true) ∧
    (let i := Instr.srun 1 2 4
     cxReady i (rotBundle i [] { st := 1, ns := 1, len := [10000], guard := [3000] }) = true ∧
     ((afterExec i (rotBundle i [] { st := 1, ns := 1, len := [10000], guard := [3000] })).cx 0).rot.st = 2 ∧
     ((afterExec i (rotBundle i [] {})).cx 0).cause = 1) ∧
    (let i := Instr.sstop 1
     [0, 1, 2, 3].all (fun n => cxReady i (rotBundle i [] { st := n, ns := 1 })) = true ∧
     ((afterExec i (rotBundle i [] { st := 3, ns := 1 })).cx 0).rot.stop = 1 ∧ ((afterExec i (rotBundle i [] { st := 2, ns := 1 })).cx 0).rot.st = 1) := by
  decide +kernel

/-! ## What happens to threads, warps and cores between words -/

/-- For clausesResultsReturn: a value and a cause that come back; the register file after them. -/
theorem witness_results :
    let o : Outst := ⟨7, .regs, [4, 5], some (.val [1, 2]), 0, 0, false, 0, 0⟩
    let s := bundle 0 [31] (fun _ => { outs := [o] })
    let s1 := bundle 0 [31] (fun _ => { outs := [{ o with res := some (.bad 6) }] })
    ((s.thread 31).known (s.cycleOf 0))[0]? = some o ∧ (∀ x ∈ (s.thread 31).outs, x.id = o.id → x = o) ∧ o.dst.Nodup ∧ toHk3 6 = false ∧
    ((s1.thread 31).known (s1.cycleOf 0))[0]? = some { o with res := some (.bad 6) } ∧
    ((afterExec (.resultReturn 0 0 31 0) s).thread 31).reg 5 = 2 ∧ ((afterExec (.resultReturn 0 0 31 0) s).thread 31).outs = [] ∧
    ((afterExec (.resultReturn 0 0 31 0) s1).thread 31).heldTraps.map (fun h => h.cause) = [6] := by decide +kernel

/-- For clausesAccessesAreAcknowledged: the second of two accesses is answered, with a failure. -/
theorem witness_acknowledgements :
    let a : Ack := ⟨2, false, true, some (6, 32)⟩
    let s := bundle 0 [0] (fun _ => { acks := [⟨1, false, false, none⟩, a] })
    (s.thread 0).acks = [⟨1, false, false, none⟩] ++ a :: [] ∧ (s.thread 0).live = true ∧ (s.thread 0).fencing = none ∧
    ((afterExec (.accessAcknowledge 0 0 0) s).thread 0).acks.map (fun x => x.id) = [1] ∧
    ((afterExec (.accessAcknowledge 0 0 0) s).thread 0).failed = [(6, 32)] := by decide +kernel

/-- For clausesHeldTrapsAreTaken, clausesFailedFetchesTrap, clausesTheWatchdogFires: threads with a handler. -/
theorem witness_traps_between_words :
    let idle := fun (th : Thread) => { guest (.nop always) [0, 1] (fun t => if t = 0 then th else {}) with cur := {} }
    (let s := idle { pc := 0x40, heldTraps := [⟨6, 9, 32, 1⟩] }
     (s.thread 0).live = true ∧ 0 ∉ s.cur.threads ∧ (s.warpOfThread 0).held = false ∧ handled s 0 6 ∧
     ((afterExec (.replyTrap 0 0 0) s).thread 0).pc = 0x800 ∧ ((afterExec (.replyTrap 0 0 0) s).thread 0).trpc = 0x40) ∧
    (let s := guest (.nop always) [0, 1] (fun _ => {})
     s.cur.threads.Nodup ∧ 1 ∈ s.cur.threads ∧ handled s 1 6 ∧ ((afterExec (.instructionFetch 6) s).thread 1).trcause = 6) ∧
    (let s := idle { age := 0x01000000 }
     (s.warp 0).wdoglim ≠ 0 ∧ (s.liveThreads 0).filter (fun t => decide ((s.warp 0).wdoglim.toNat ≤ (s.thread t).age)) = [0] ∧
     s.traphOf 0 ≠ 0 ∧ ((afterExec (.watchdogFire 0 0) s).thread 0).trcause = 0x0D ∧ ((afterExec (.watchdogFire 0 0) s).thread 1).trcause = 0) := by
  unfold handled; decide +kernel

/-- For clausesRcvDeadlinesRelease. -/
theorem witness_rcv_deadlines :
    let i := Instr.rcv always 4
    let s := bundle (wordOf i) [0, 1] (fun _ => {})
    let s1 := afterExec i { s with cur := { s.cur with mem := [(0, 0)] } }
    let s2 := s1.updCore 0 (fun c => { c with cycle := 256 })
    (s2.warp 0).rcv = [⟨0, 0, some 256⟩] ∧ s2.cycleOf 0 = 256 ∧ 0 ∈ s2.arrivals 0 ⟨0, 0, some 256⟩ ∧ calm s2 0 = true ∧
    ((afterExec (.rcvDeadline 0 0) s2).thread 0).pc = 4 ∧ ((afterExec (.rcvDeadline 0 0) s2).thread 1).pc = 0 := by decide +kernel

/-- For clausesTheActiveSetIsFilled: a free place, and a full set that one warp may leave. -/
theorem witness_active_set :
    let s := (bundle 0 [0] (fun _ => {})).updCore 0 (fun c => { c with active := [], pending := [0] })
    let s0 := { s with cur := {} }
    let full := (s0.updCore 0 (fun c => { c with active := (List.range 8).map (fun k => (k + 1, 0)) })).updWarp 3 (fun w => { w with leaveAt := some 0 })
    (s0.coreAt 0).entryAt ≠ (s0.coreAt 0).cycle + 1 ∧ (s0.coreAt 0).pending.find? (s0.warpReady 0) = some 0 ∧ (s0.coreAt 0).active.length < 8 ∧
    (full.coreAt 0).pending.find? (full.warpReady 0) = some 0 ∧ 8 ≤ (full.coreAt 0).active.length ∧ full.leaving 0 = some 3 ∧
    ((afterExec (.activeSetEntry 0) s0).coreAt 0).active = [(0, 3)] ∧ ((afterExec (.activeSetEntry 0) full).coreAt 0).pending = [3] := by decide +kernel

/-- For clausesTheGovernorsWindowStarts, at the last cycle of a window and after it. -/
theorem witness_governor :
    let s := (bundle 0 [0] (fun _ => {})).updCore 0 (fun c => { c with cycle := 64, govmodeNext := true })
    s.dev.pst < 2 ∧ (s.coreAt 0).windowAt ≤ s.cycleOf 0 ∧ ((afterExec (.governorWindow 0) s).coreAt 0).govmode = true ∧
    ((afterExec (.governorWindow 0) s).coreAt 0).windowAt = 128 := by decide +kernel

/-- For clausesHk3Decides and clausesHk3RestartsAWarp: a warp that may restart, one that may not, a restart, and a count that expires. -/
theorem witness_hk3 :
    let s := fun (th : Thread) (w : Warp → Warp) => { (guest (.nop always) [0] (fun _ => th)).updWarp 0 w with cur := {} }
    let fresh := s { idempc := 0x20, pc := 0x40 } (fun w => { w with held := true })
    let bare := s {} (fun w => { w with held := true })
    let restarting := s { idempc := 0x20, pc := 0x40, h := true } (fun w => { w with held := true, hkRestart := true })
    let quiet := s {} (fun w => { w with quiet := 2 ^ 24, restarts := 4 })
    ((fresh.warp 0).held = true ∧ (fresh.warp 0).hkRestart = false ∧ (fresh.warp 0).hkKill = false ∧ (∀ t ∈ fresh.liveThreads 0, (fresh.thread t).idempc ≠ 0) ∧
     ((afterExec (.hk3Event 0 0) fresh).warp 0).hkRestart = true) ∧
    ((∃ t ∈ bare.liveThreads 0, (bare.thread t).idempc = 0) ∧ (bare.launch? 1).isSome = true ∧ (bare.warps.map Prod.fst).Nodup ∧
     (afterExec (.hk3Event 0 0) bare).launches = [] ∧ ((afterExec (.hk3Event 0 0) bare).warp 0).used = false) ∧
    ((restarting.warp 0).hkRestart = true ∧ (∀ t ∈ restarting.liveThreads 0, (restarting.thread t).park = .none) ∧
     ((afterExec (.hk3Restart 0 0) restarting).thread 0).pc = 0x20 ∧ ((afterExec (.hk3Restart 0 0) restarting).thread 0).h = false) ∧
    ((quiet.warp 0).held = false ∧ 2 ^ 24 ≤ (quiet.warp 0).quiet ∧ ((afterExec (.restartCountExpiry 0 0) quiet).warp 0).restarts = 0) := by
  decide +kernel

/-! ## Launches and workgroups -/

/-- A region control block with a pool of stacks. -/
def rcb5 : Rcb := { id := 5, addr := 0, stkpool := 0x100000, stksz := 0x100000 }

/-- A launch of one warp for each workgroup, of partition 0. -/
def launch1 : Launch :=
  { lid := 1, part := 0, lseq := 1, rcb := 5, kd := { warps0 := 1, regs0 := 64, nbar := 4, entry0 := 0x100 }, chk := 3, fdom := 1, prio := 0xFF, seed := 9,
    grid := .gang 2 0, origin := .batch, total := 2, rcbs := [rcb5] }

/-- For clausesWorkgroupsAreDispatched. -/
theorem witness_dispatch :
    let s := { State.reset with launches := [launch1], parts := [(0, { rcbs := [rcb5] })] }
    let leased := s.updCore 1023 (fun c => { c with leases := [(0, (1, 0))] })
    s.launch? 1 = some launch1 ∧ launch1.waiting = true ∧ (s.spot 1023 launch1).isSome = true ∧ s.isNext launch1 = true ∧
    (afterExec (.workgroupDispatch 1 1023) s).wgs.map (fun w => (w.core, w.slot)) = [(1023, 0)] ∧
    ((afterExec (.workgroupDispatch 1 1023) s).thread (threadKey 1023 0 5)).pc = 0x100 ∧
    ((leased.coreAt 1023).leases.any (fun e => e.2.1 == 1)) = true := by decide +kernel

/-- For clausesWarpSlotsAreFreed: the last slot of a workgroup, and one with another slot of the workgroup in use. -/
theorem witness_slots_freed :
    let s := { guest (.nop always) [] (fun _ => {}) with cur := {} }
    let two := s.updWarp 1 (fun w => { w with used := true, lid := 1 })
    s.slotDone 0 = true ∧ s.lodge.outs = [] ∧ (∀ c ∈ s.cores, c.2.l1 = []) ∧ two.slotDone 0 = true ∧
    (afterExec (.warpSlotFree 0 0) s).launches = [] ∧ (afterExec (.warpSlotFree 0 0) s).wgs = [] ∧
    (afterExec (.warpSlotFree 0 0) two).wgs.length = 1 := by decide +kernel

/-- A batch of one request of thread 0, with its result outstanding. -/
def batchState (isOpen : Bool) (cycle : Nat) : State :=
  let s := bundle 0 [0] (fun _ => { outs := [⟨7, .regs, [2, 3], none, 0, 0, false, 0, 0⟩] })
  { s.updCore 0 (fun c => { c with cycle := cycle }) with
    batches := [(0, [{ part := 0, kd := 0x40, rcb := 5, isOpen := isOpen, core := 0, openedAt := 0, reqs := [⟨0, 7, 2, 0⟩] }])] }

/-- For clausesBatchesBecomeGrids: a batch at its 1,024th cycle, and a closed one that HK1 refuses. -/
theorem witness_batches :
    (let s := batchState true 1024
     (s.batchesOf 0)[0]?.map (fun b => decide (b.isOpen = true ∧ b.openedAt + 1024 ≤ s.cycleOf b.core)) = some true ∧
     ((afterExec (.batchClose 0 0) s).batchesOf 0).map (fun b => b.isOpen) = [false]) ∧
    (let s := batchState false 0
     s.running = true ∧ s.gridsWaiting < 4096 ∧ s.validate 66 0 5 0x40 = .fail 2 ∧ (afterExec (.gridAccept 0) s).launches = [] ∧
     ((afterExec (.gridAccept 0) s).thread 0).outs.map (fun o => o.res) = [some (.val [0, 0x02000000])]) := by decide +kernel

/-! ## The host's rings and the things that a partition does -/

/-- A device at rest whose partition 0 maps one page at address 0, with one RCB and a legal kernel descriptor at 0x40. -/
def hosted : State :=
  let s := { State.reset.withSimtWord 0 with thr := [], warps := [], cores := [] }
  let kd : List Byte := leBytes 8 0x100 ++ leBytes 8 0 ++ [1, 0, 16, 0, 1, 4, 0, 3] ++ leBytes 4 4096
  (s.updPart 0 (fun p => { p with rcbs := [rcb5] })).putBytes ((Home.stacked 0 0).key + 0x40) kd

/-- A command from its fields: first byte, bytes and value. -/
def command (fs : List (Nat × Nat)) : BitVec 512 := BitVec.ofNat 512 ((fs.map (fun f => f.2 * 2 ^ (8 * f.1))).sum)

/-- Ring 3 of a device holds one command. -/
def ringed (s : State) (c : BitVec 512) : State :=
  { s.putBytes ((Home.stacked 0 0).key + 0x1000) (leBytes 64 c.toNat) with
    rings := [(3, { base := 0x1000, cpl := 0x2000, en := true, tail := 1 })] }

/-- The hypotheses of `Starts` on it. -/
def starts (s : State) (c : BitVec 512) (code : Nat) : Bool := cmdCode c == code && s.canStart 3 c && (s.ring 3).act.isEmpty

theorem starts_of {s : State} {c : BitVec 512} {code : Nat} (h : starts s c code = true) : Starts s 3 c code := by
  simp only [starts, Bool.and_eq_true, beq_iff_eq, List.isEmpty_iff] at h
  exact ⟨h.1.1, h.1.2, by simp [h.2]⟩

/-- For clausesDoorbellsAndCompletions: TAIL at 2^LOG2N ahead and beyond, and the record of a command that is over. -/
theorem witness_doorbells :
    ((afterExec (.queueDoorbell 3 16) hosted).ring 3).tail = 16 ∧ ((afterExec (.queueDoorbell 3 17) hosted).ring 3).ovr = true ∧
    (let s := hosted.updRing 3 (fun r => { r with cpl := 0x2000, act := [⟨17, command [(0, 1), (4, 0x77)], .done⟩] })
     ((s.ring 3).act.find? (fun a => a.idx == 17)).isSome = true ∧ s.agentHome 0 0x2010 = some (.stacked 0 0x2010) ∧
     ((s.complete1 3 17 6 0 41).getBytes ((Home.stacked 0 0x2010).key) 16) = [0x77, 0, 0, 0, 6, 0, 1, 0, 41, 0, 0, 0, 0, 0, 0, 0]) := by decide +kernel

/-- For clausesLaunchCommands: a launch that is accepted, one that is refused, a bad command and a code that no command has. -/
theorem witness_launch_commands :
    let good := command [(0, 1), (2, 5), (8, 0x40), (24, 2), (28, 1), (32, 1), (36, 9)]
    let badRcb := command [(0, 1), (2, 6), (8, 0x40), (24, 2), (28, 1), (32, 1)]
    let zero := command [(0, 1), (2, 5), (8, 0x40)]
    let unknown := command [(0, 12)]
    let run := fun (c : BitVec 512) => afterExec (.launch 3 c) (ringed hosted c)
    starts (ringed hosted good) good 1 = true ∧ launchOk good = true ∧
    (match (ringed hosted good).validate 3 0 5 0x40 with | .ok k => k.warps0 == 1 && k.slice == 4096 | _ => false) = true ∧
    (run good).launches.map (fun l => (l.total, l.seed, l.lseq)) = [(2, 9, 1)] ∧ ((run good).ring 3).act.length = 1 ∧
    starts (ringed hosted badRcb) badRcb 1 = true ∧ launchOk badRcb = true ∧ (ringed hosted badRcb).validate 3 0 6 0x40 = .fail 2 ∧
    ((run badRcb).ring 3).act = [] ∧ starts (ringed hosted zero) zero 1 = true ∧ launchOk zero = false ∧
    starts (ringed hosted unknown) unknown 12 = true ∧ ¬ (1 ≤ cmdCode unknown ∧ cmdCode unknown ≤ 11) ∧ ((run unknown).ring 3).act = [] := by
  decide +kernel

/-- For clausesCopyAndCircuitCommands. -/
theorem witness_copy_and_circuit_commands :
    (let c := command [(0, 2), (2, 5), (8, 0x4000), (16, 0x8000), (24, 100), (32, 31), (33, 7)]
     let s := ringed hosted c
     starts s c 2 = true ∧ cmdHeader c 0 true = true ∧ cmdZeros c [(8, 8), (16, 8), (24, 8), (32, 1), (33, 1)] = true ∧ s.copyRoom 31 7 0 0 5 = true ∧
     rowOk 0 false 0x4000 100 = true ∧ ((s.part 0).rcb? 5).isSome = true ∧
     (((afterExec (.copy 3 c) s).engine 31).queue 7).map (fun x => x.x.len) = [100]) ∧
    (let c := command [(0, 3), (8, 7), (10, 0x100), (16, 0x1234)]
     let s := ringed hosted c
     let busy := s.updCx 7 (fun x => { x with st := 2 })
     starts s c 3 = true ∧ cmdHeader c 2 false = true ∧ cmdZeros c [(8, 1), (10, 2), (16, 8)] = true ∧ s.waitingFor 7 = none ∧ (s.cx 7).st = 0 ∧
     ((afterExec (.circuit 3 c) s).cx 7).st = 1 ∧ ((afterExec (.circuit 3 c) s).cx 7).pc = 0x100 ∧ (afterExec (.circuit 3 c) s).cxReg 7 1 = 0x1234 ∧
     starts busy c 3 = true ∧ ((afterExec (.circuit 3 c) busy).cx 7).st = 2) := by decide +kernel

/-- For clausesWaitingCommands: a token with and without its value, a raised token, a tape, folds of two dies, and a fence alone and behind a copy. -/
theorem witness_waiting_commands :
    (let c := command [(0, 4), (8, 1023), (16, 5)]
     let s := ringed hosted c
     let full := s.updPart 0 (fun p => { p with qtok := [(1023, 5)] })
     starts s c 4 = true ∧ cmdHeader c 0 false = true ∧ cmdZeros c [(8, 2), (16, 8)] = true ∧ s.queueToken 0 1023 < 5 ∧ 5 ≤ full.queueToken 0 1023 ∧
     ((afterExec (.tokenWait 3 c) s).ring 3).act.map (fun a => a.wait) = [.token 1023 5] ∧ ((afterExec (.tokenWait 3 c) full).ring 3).act = []) ∧
    (let c := command [(0, 5), (8, 0), (16, 5)]
     starts (ringed hosted c) c 5 = true ∧ (afterExec (.tokenSignal 3 c) (ringed hosted c)).queueToken 0 0 = 5) ∧
    (let c := command [(0, 6), (2, 5)]
     let s := (ringed hosted c).updPart 0 (fun p => { p with rcbs := [{ rcb5 with tape := 0x4000, tapesz := 128, tapen := 2 }] })
     starts s c 6 = true ∧ cmdHeader c 0 true = true ∧ ((afterExec (.taperun 3 c) s).ring 3).act.map (fun a => a.wait) = [.tape 5 2 0] ∧
     (let d := command [(0, 6), (2, 6)]
      starts (ringed hosted d) d 6 = true ∧ ((ringed hosted d).part 0).rcb? 6 = none ∧ ((afterExec (.taperun 3 d) (ringed hosted d)).ring 3).act = [])) ∧
    (let c := command [(0, 7), (8, 0x81), (16, 41)]
     starts (ringed hosted c) c 7 = true ∧ ((afterExec (.foldWait 3 c) (ringed hosted c)).weltOf 7).q.length = 1 ∧
     ((afterExec (.foldWait 3 c) (ringed hosted c)).weltOf 1).q.length = 0) ∧
    (let c := command [(0, 8)]
     let s := ringed hosted c
     starts s c 8 = true ∧ ((afterExec (.queueFence 3 c) s).ring 3).act = []) := by decide +kernel

/-- For clausesPowerStateCommands: RUN, TRIM and HOLD, RETAIN and OFF of an idle device, RETAIN of one that works. -/
theorem witness_power_states :
    let cmd := fun (x : Nat) => command [(0, 10), (8, x), (10, 900), (12, 3)]
    let st := fun (x : Nat) => ringed hosted (cmd x)
    (List.range 5).all (fun x => starts (st x) (cmd x) 10 && cmdHeader (cmd x) 0 false && cmdZeros (cmd x) [(8, 1), (10, 2), (12, 1)]) = true ∧
    (st 0).ownsAll 0 = true ∧ (st 0).dev.trip = false ∧ (st 3).busyWork = false ∧ { st 3 with launches := [launch1] }.busyWork = true ∧
    capOk (cmd 1) = true ∧ (afterExec (.pstateTrim 3 (cmd 1)) (st 1)).dev.pst = 1 ∧ (afterExec (.pstateTrim 3 (cmd 1)) (st 1)).dev.cap = 900 ∧
    (afterExec (.pstateHold 3 (cmd 2)) (st 2)).dev.pst = 2 ∧ (afterExec (.pstateRetain 3 (cmd 3)) (st 3)).dev.pst = 3 ∧
    (afterExec (.pstateOff 3 (cmd 4)) ((st 4).updRing 3 (fun r => { r with cpl := 0xFF00000000000000 }))).dev.state = 0 ∧ (afterExec (.pstateRun 3 (cmd 0)) (st 0)).dev.pst = 0 := by decide +kernel

/-- For clausesCheckpointCommands: a save and a restore with fields in order, in HOLD and in RUN. -/
theorem witness_checkpoints :
    let cmd := fun (flg : Nat) => command [(0, 9), (8, flg), (16, 0x10000), (24, imageBytes), (32, 77)]
    let s := fun (flg pst : Nat) =>
      let s := (ringed hosted (cmd flg)).updRing 3 (fun r => { r with cpl := 0xFF00000000000000 })
      { s with dev := { s.dev with pst := pst } }
    [0, 1].all (fun flg => starts (s flg 2) (cmd flg) 9 && checkpointOk (cmd flg)) = true ∧ starts (s 0 0) (cmd 0) 9 = true ∧
    cmdField (cmd 1) 8 1 / 2 % 2 = 0 ∧ globalTop < ((s 0 2).ring 3).cpl ∧ 0x10000 + imageBytes ≤ 2 ^ 64 ∧ (s 0 2).dev.pst = 2 := by decide +kernel

/-! ## Batches, tapes and the gradient log at work -/

/-- For clausesBatchesBecomeGrids: a closed batch that HK1 accepts as a grid of two workgroups. -/
theorem witness_batch_accepted :
    let s := { (hosted.updThread 0 (fun th => { th with live := true, outs := [⟨7, .regs, [2, 3], none, 0, 0, false, 0, 0⟩] })) with
      batches := [(0, [{ part := 0, kd := 0x40, rcb := 5, isOpen := false, core := 0, openedAt := 0, reqs := [⟨0, 7, 2, 0⟩] }])] }
    s.running = true ∧ s.gridsWaiting < 4096 ∧ (match s.validate 66 0 5 0x40 with | .ok k => k.warps0 == 1 | _ => false) = true ∧
    (afterExec (.gridAccept 0) s).launches.map (fun l => (l.lseq, l.total)) = [(1, 2)] ∧
    ((afterExec (.gridAccept 0) s).thread 0).outs.map (fun o => o.res) = [some (.val [1, 0])] ∧ (afterExec (.gridAccept 0) s).batchesOf 0 = [] := by
  decide +kernel

/-- For clausesTapeRecordsAreLaunched: the newer of two records on a tape. -/
theorem witness_tape_records :
    let r : Rcb := { rcb5 with tape := 0x4000, tapesz := 128, tapen := 2 }
    let a : Act := ⟨0, command [(0, 6), (2, 5)], .tape 5 2 0⟩
    let s := (hosted.updPart 0 (fun p => { p with rcbs := [r] })).putBytes ((Home.stacked 0 0).key + 0x4040)
      (leBytes 8 0x40 ++ leBytes 8 0x7000 ++ leBytes 4 3 ++ leBytes 2 5)
    let s := { s with rings := [(3, { base := 0x1000, cpl := 0x2000, en := true, tail := 1, act := [a] })] }
    let rec_ := match s.agentRead 3 0 0x4040 64 with | .bytes bs => bs | _ => []
    ((s.ring 3).act.find? (fun a => match a.wait with | .tape _ l _ => l != 0 | _ => false)).map (fun a => a.idx) = some 0 ∧ (s.part 0).rcb? 5 = some r ∧
    s.running = true ∧ s.tapeLaunches 3 0 = [] ∧ rec_.length = 64 ∧ (match s.validate 3 0 (fieldAt rec_ 20 2) (dwordAt rec_ 0) with | .ok _ => true | _ => false) = true ∧
    fieldAt rec_ 16 4 = 3 ∧ (afterExec (.tapeLaunch 3) s).launches.map (fun l => (l.total, l.rcb)) = [(3, 5)] ∧
    ((afterExec (.tapeLaunch 3) s).part 0).rcbs.map (fun x => x.tapen) = [1] ∧
    ((afterExec (.tapeLaunch 3) s).ring 3).act.map (fun a => a.wait) = [.tape 5 1 0] := by decide +kernel

/-- A die's Welt engine with one command, in a partition whose RCB 5 has one gradient tile at 0x8000. -/
def foldState (kind : WeltKind) (ring : List GRec) : State :=
  { hosted.updPart 0 (fun p => { p with rcbs := [{ rcb5 with gacc := 0x8000, gnt := 1 }] }) with
    welt := [(0, { q := [{ id := 50, part := 0, core := 0, owner := .token 1 0 0 2, rcb := 5, kind := kind }], ring := ring, reserved := [9] })] }

/-- A gradient record of a tile, with 1.0 as its first value. -/
def gradient (tile lseq : Nat) : GRec :=
  { kind := 1, esc := 0, rcb := 5, tile := tile, lseq := lseq, wg := 0, tid := 0, rseq := 0, data := 0x3F800000 :: List.replicate 511 0, place := 9,
    buf := some (0x8000, 1) }

/-- For the gradient log: an append to a tile that the buffer has, and to one that it has not. -/
theorem witness_log_appended :
    (let s := (foldState (.glog { gradient 0 1 with data := [] } 0x10000) []).putBytes ((Home.stacked 0 0).key + 0x10000) [0, 0, 0x80, 0x3F]
     s.running = true ∧ (gradient 0 1).buf = some (0x8000, 1) ∧ (gradient 0 1).tile < 1 ∧
     (match s.farRead ⟨0, 0, true, [], none⟩ 0x10000 2048 with | .bytes _ => true | _ => false) = true ∧
     ((afterExec (.glogAppend 0) s).weltOf 0).ring.map (fun r => (r.tile, r.data.take 2)) = [(0, [0x3F800000, 0])] ∧ ((afterExec (.glogAppend 0) s).weltOf 0).reserved = []) ∧
    { gradient 3 41 with esc := -2, wg := 7, tid := 33, rseq := 6 }.header =
      [1, 0xFE, 5, 0, 3, 0, 0, 0, 41, 0, 0, 0, 0, 0, 0, 0, 7, 0, 0, 0, 33, 0, 0, 0, 6] ++ List.replicate 39 0 ∧
    (let s := foldState (.glog { gradient 1 1 with data := [] } 0x10000) []
     ((afterExec (.glogAppend 0) s).weltOf 0).ring = [] ∧ ((afterExec (.glogAppend 0) s).weltOf 0).reserved = []) := by decide +kernel

/-- R391: 1.0 and 2.0 with the record's exponent one above the state word's: 1.0 + 2.0 × 2^-1, and a rescale by 2^3. -/
theorem test_fold_record :
    foldRecord [0x3F800000] 0 { gradient 0 1 with esc := 1, data := [0x40000000] } = ([0x40000000], 0) ∧
    foldRecord [0x3F800000] 0 { gradient 0 1 with kind := 2, esc := 3, data := [] } = ([0x41000000], 3) := by decide +kernel

/-- For the folds: one that waits for a launch, one with no record, and one of a record whose RCB has no buffer. -/
theorem witness_log_folded :
    (let s := { foldState (.fold 1 false 0) [gradient 0 1] with launches := [launch1] }
     ¬ (∀ l ∈ s.launches, l.part = 0 → 1 < l.lseq) ∧ ((afterExec (.weltFold 0) s).weltOf 0).q.length = 1) ∧
    (let s := foldState (.fold 0 false 0) [gradient 0 1]
     (∀ x ∈ (s.weltOf 0).ring, 0 < x.lseq) ∧ ((afterExec (.weltFold 0) s).weltOf 0).ring = [gradient 0 1] ∧ ((afterExec (.weltFold 0) s).weltOf 0).q = []) ∧
    (let s := foldState (.fold 1 false 0) [{ gradient 0 1 with buf := none }]
     (match s.foldFrom 0 50 0 ((foldSteps ((s.weltOf 0).through 1)).drop 0) with
      | .done s1 => (s1.weltOf 0).q.all (fun e => e.away == 0) | _ => false) = true ∧
     ((afterExec (.weltFold 0) s).weltOf 0).ring = []) ∧
    (sortRecs [gradient 0 3, gradient 1 2, gradient 2 4]).map (fun r => r.tile) = [1, 0, 2] := by decide +kernel

/-! ## Pre-emption at work -/

/-- A launch of low and one of high priority, whose 60 barriers leave no room for each other, in a partition of die 0; all cores but 0 are
retired, and core 0 runs the workgroup of the first. -/
def preempted (st : WgState) : State :=
  let r : Rcb := { rcb5 with save := 0x10000, savesz := 0x80000 }
  let low : Launch := { launch1 with prio := 1, total := 1, next := 1, rcbs := [r], kd := { launch1.kd with nbar := 60, regs0 := 16 } }
  let high : Launch := { launch1 with lid := 2, lseq := 2, prio := 9, rcbs := [r], kd := { launch1.kd with nbar := 60, regs0 := 16 } }
  let s := { (hosted.updPart 0 (fun p => { p with rcbs := [r] })).updDev (fun d => { d with partcfg := 0x249248 }) with
    launches := [low, high], wgs := [{ lid := 1, g := 0, core := 0, slot := 0, warps := 1, st := st, regions := [(0, 0x100000)], regionBytes := 4096 }],
    warps := [(0, { used := true, lid := 1, g := 0, rcb := 5, allot := 16 })], thr := [(0, { live := true, pc := 0x100, park := .marker })] }
  { s with cores := (List.range 127).map (fun k => (k + 1, { retired := true })) }

/-- For clausesWorkgroupsAreAskedAndStopped: the victim, and stops at a park point, after 4,096 cycles and before them. -/
theorem witness_preemption_request :
    let s := preempted .running
    let asked := preempted (.asked 0)
    let busy := asked.updThread 0 (fun th => { th with park := .none })
    (match s.victim 0 with | some v => v.lid == 1 && v.g == 0 | none => false) = true ∧ s.partOf ((s.wg? 1 0).getD ⟨0, 0, 0, 0, 0, .running, [], [], 0, [], [], [], (0, 0)⟩) = 0 ∧
    asked.wgs.map asked.atParkPoint = [true] ∧ (∀ w ∈ asked.wgs, ∀ t ∈ asked.wgThreads w, t ∉ asked.cur.threads) ∧
    (afterExec (.preemptStop 1 0) asked).wgs.map (fun w => w.st) = [.stopped] ∧
    busy.wgs.map busy.atParkPoint = [false] ∧ (afterExec (.preemptStop 1 0) busy).wgs.map (fun w => w.st) = [.asked 0] ∧
    (afterExec (.preemptStop 1 0) (busy.updCore 0 (fun c => { c with cycle := 4096 }))).wgs.map (fun w => w.st) = [.stopped] := by decide +kernel

/-- For clausesWorkgroupsAreSaved and clausesWorkgroupsAreResumed: a place in the save area; a record of which thread 0 lives. -/
theorem witness_save_and_resume :
    (let s := (preempted .stopped).updThread 0 (fun th => { th with park := .none })
     ∀ w ∈ s.wgs, s.recordPlace w = some 0x10000 ∧ s.enginesClear w = true ∧ s.pagesIdle w = true ∧
       (∀ t ∈ s.wgThreads w, (s.thread t).park = .none ∧ (s.thread t).settled = true) ∧ w.slotsLeft = [0] ∧ (s.warp 0).held = false ∧
       s.agentCan 0 0x10000 (Kd.recordSize { launch1.kd with nbar := 60, regs0 := 16 } (s.slotsOwned w).length) = true ∧ s.slicePages w = []) ∧
    (let s0 := preempted (.saved 0x10000)
     let s := { s0 with launches := s0.launches.take 1, warps := [], thr := [] }
     ∀ w ∈ s.wgs, s.nextSaved 0 w = true ∧ s.canResume 0 w (s.slotBits 0 0x10000) = true ∧
       s.agentCan 0 0x10000 (Kd.recordSize { launch1.kd with nbar := 60, regs0 := 16 } (s.savedSlots 0 0x10000)) = true ∧
       w.regions.map Prod.fst = [0]) ∧
    (let th : Thread := { live := true, pc := 0x140, depth := 255, lstk := [⟨4, 8, 3, 255, false⟩, ⟨0, 12, 2, 1, true⟩], preds := 5, h := true, edepth := 2,
                          trcause := 6, trword := 7, trmask := 1, trpc := 0x80, traddr := 9, srseed := 77, idempc := 0x20 }
     let back := Thread.decode th.encode
     back = { th with readyAt := back.readyAt }) := by decide +kernel

/-! ## Resets, power, registers and the mailbox -/

/-- The hypotheses of `ResetStarts` for ring 3. -/
def resets (s : State) (c : BitVec 512) (rung : Nat) : Bool :=
  starts s c 11 && resetOk c && cmdField c 8 1 == rung && s.targetIn (s.ring 3).part rung (cmdField c 9 1) (cmdField c 10 1)

theorem resets_of {s : State} {c : BitVec 512} {rung : Nat} (h : resets s c rung = true) : ResetStarts s 3 c rung := by
  simp only [resets, Bool.and_eq_true, beq_iff_eq] at h
  exact ⟨starts_of h.1.1.1, h.1.1.2, h.1.2, h.2⟩

/-- A RESET of a rung, target, class and option on ring 3 of the device. -/
def resetCommand (rung t cls opt : Nat) : BitVec 512 := command [(0, 11), (8, rung), (9, t), (10, cls), (11, opt)]

/-- For clausesLowerRungs and clausesUpperRungs: every rung, its first and last target, and every class of engine. -/
theorem witness_resets :
    [(1, 3, 0, 0), (1, 63, 0, 0), (2, 31, 0, 0), (2, 1, 1, 0), (2, 7, 2, 0), (2, 7, 3, 0), (3, 0, 0, 0), (4, 7, 0, 0), (5, 0, 0, 0), (5, 0, 0, 1), (6, 0, 0, 0),
     (7, 0, 0, 0)].all (fun x => let c := resetCommand x.1 x.2.1 x.2.2.1 x.2.2.2; resets (ringed hosted c) c x.1) = true ∧
    (let c := resetCommand 1 5 0 0
     let s := { ringed hosted c with rings := (ringed hosted c).rings ++ [(5, { en := true, tail := 7 })] }
     (((afterExec (.resetQueue 3 c) s).ring 5).en = false ∧ ((afterExec (.resetQueue 3 c) s).ring 5).head = 7)) ∧
    (let c := resetCommand 2 7 3 0
     let s := (ringed hosted c).updCx 7 (fun x => { x with st := 1 })
     s.waitingFor 7 = none ∧ ((afterExec (.resetEngine 3 c) s).cx 7).st = 3 ∧ ((afterExec (.resetEngine 3 c) s).cx 7).cause = 0x12) ∧
    (let c := resetCommand 3 0 0 0
     let s := { ringed hosted c with launches := [launch1] }
     (afterExec (.resetPartition 3 c) s).launches = [] ∧ ((afterExec (.resetPartition 3 c) s).part 0).rcbs = []) := by decide +kernel

/-- The rungs of a function, the device and the Lodge, by command and by DEVCTL. -/
theorem witness_upper_resets :
    (let c := resetCommand 5 0 0 1
     ((afterExec (.resetFunction 3 c) (ringed hosted c)).part 0).desc = (hosted.part 0).desc) ∧
    (let s := hosted
     let v : DWord := 0x050A0300
     v.extractLsb' 26 2 = 1 ∧ s.dev.state = 3 ∧ (afterExec (.devctlRstDevice v) s).dev.state = 5 ∧
     (afterExec (.devctlRstDevice v) s).dev.dbgen = 0x0A ∧ (afterExec (.devctlRstDevice v) s).dev.zero = true) ∧
    (let s := { State.reset with dev := { State.reset.dev with state := 4 } }
     (afterExec (.devctlRstDevice 0x04000000) s).dev.state = 1) ∧
    (0x08000000 : DWord).extractLsb' 26 2 = 2 ∧ State.reset.funcEnabled (.vf 0) = true ∧ State.reset.dev.state = 3 ∧ State.reset.lodge.epst = 1 ∧
    (afterExec (.functionLevelReset (.vf 0)) { hosted with launches := [launch1] }).launches = [] ∧
    (afterExec (.functionLevelReset .pf) hosted).dev.resetting = true ∧
    (hosted.dev.resets = [] ∧ hosted.dev.resetting = false ∧ hosted.dev.starting = none ∧ hosted.lodge.outs = [] ∧ hosted.thr = []) := by decide +kernel

/-- For clausesResetsTakeTurns: RESETs that are accepted while a reset runs, and the ends of resets of the Lodge and of the device. -/
theorem witness_resets_take_turns :
    (let c := resetCommand 3 0 0 0
     let s := { ringed hosted c with dev := { hosted.dev with resets := [⟨none, 7, 0, 0, false⟩], resetting := true, state := 5, stateWas := 3 } }
     resets s c 3 = true ∧ ((afterExec (.resetPartition 3 c) s).ring 3).act.map (fun a => a.wait) = [.reset] ∧
     (afterExec (.resetPartition 3 c) s).dev.resets.map (fun j => j.rung) = [7, 3]) ∧
    (let s := fun (rung : Nat) => { hosted with
       dev := { hosted.dev with resets := [⟨some (3, 0), rung, 0, 0, false⟩], resetting := true, state := 5, stateWas := 3 } }
     (s 7).resetEnd.dev.state = 3 ∧ (s 7).resetEnd.dev.resets = [] ∧ (s 6).resetEnd.dev.starting.isSome = true) := by decide +kernel

/-- For clausesPowerAndAttachment. -/
theorem witness_power_and_attachment :
    let dev := fun (d : Device) => { State.reset with dev := d }
    let off : Device := { State.reset.dev with state := 0 }
    (off.cfail.toNat < 3 ∧ (afterExec (.powerOn 0) (dev off)).dev.starting.isSome = true ∧ (afterExec (.powerOn 7) (dev off)).dev.fstep = 7 ∧
     (afterExec (.powerOn 8) (dev off)).dev.starting.isSome = true) ∧
    (let s := dev { off with starting := some (true, true) }
     s.dev.starting.isSome = true ∧ (afterExec (.startOverrun 6) s).dev.fstep = 6) ∧
    ((afterExec (.thermalTrip 105) hosted).dev.pst = 3 ∧ hosted.dev.state = 3 ∧ hosted.dev.starting = none ∧
     (afterExec (.thermalTrip 104) hosted).dev.trip = false) ∧
    (let l := fun (x : Lodge) => { State.reset with lodge := x }
     let zero : Lodge := { State.reset.lodge with epst := 0 }
     let one : Lodge := { State.reset.lodge with epst := 1, ldcfg := 0x5000000 }
     let two : Lodge := { State.reset.lodge with epst := 2 }
     (afterExec .attach (l zero)).lodge.epst = 1 ∧ one.hbms = 5 ∧ Lodge.hbms { one with ldcfg := 5 } = 0 ∧
     (afterExec .detach (l one)).lodge.epst = 2 ∧ (afterExec .heartbeatTimeout (l one)).lodge.epst = 2 ∧ two.opens = [] ∧
     (afterExec .drainComplete (l two)).lodge.epst = 0) := by decide +kernel

/-- For clausesRegistersAreWritten: a ring's base with EN = 0 and 1, a ring of another partition, LDCFG, a port, an argument, and PARTCFG. -/
theorem witness_registers :
    (let s := State.reset
     s.dev.state ≠ 4 ∧ ((afterExec (.registerWrite .pf (BitVec.ofNat 20 (64 * 63)) 0x1234) s).ring 63).base = 0x1200 ∧ (s.ring 63).part ≠ 5 ∧
     ((afterExec (.registerWrite (.vf 5) (BitVec.ofNat 20 (64 * 63)) 0x1234) s).ring 63).base = 0 ∧
     (afterExec (.registerWrite .pf 0x1000 5) s).lodge.ldcfg = 0x1000000 ∧ s.lodge.epst = 1 ∧
     (afterExec (.registerWrite .pf 0x1000 5) { s with lodge := { s.lodge with epst := 0 } }).lodge.ldcfg = 5 ∧ ((afterExec (.registerWrite .pf 0x20F8 0x70001) s).optPort 15).swid = 7 ∧
     (afterExec (.registerWrite .pf 0x4008 9) s).dev.mb.a0 = 9) ∧
    (let s := { State.reset with rings := [(63, { en := true })] }
     ((afterExec (.registerWrite .pf (BitVec.ofNat 20 (64 * 63)) 0x1234) s).ring 63).base = 0 ∧ (s.ring 63).en = true ∧
     (afterExec (.partcfgWrite 0x249248) s).dev.partcfg = 0) ∧
    partcfgOk 0x249248 = false ∧ partcfgOk 0x249000 = true ∧ (afterExec (.partcfgWrite 0x249000) State.reset).dev.partcfg = 0x249000 := by decide +kernel

/-- The hypotheses of `MailboxActs`. -/
def acts (s : State) (f : Func) (code : Byte) (pfOnly : Bool) : Bool :=
  s.funcEnabled f && decide (s.dev.mbWait = none) && s.mbServes code && (!pfOnly || decide (f = .pf))

theorem acts_of {s : State} {f : Func} {code : Byte} {pfOnly : Bool} (h : acts s f code pfOnly = true) : MailboxActs s f code pfOnly := by
  simp only [acts, Bool.and_eq_true, Bool.or_eq_true, Bool.not_eq_true', decide_eq_true_eq] at h
  refine ⟨h.1.1.1, h.1.1.2, h.1.2, fun hp => ?_⟩
  rcases h.2 with h | h
  · simp [hp] at h
  · exact h

/-- For clausesRegionControlBlocks: a legal RCB with a parent, one with a bad field, one that leaves and one with a child. -/
theorem witness_region_control_blocks :
    let s := (hosted.putBytes ((Home.stacked 0 0).key + 0x4000) ([9, 0, 5, 0, 0, 3, 1])).putBytes ((Home.stacked 0 0).key + 0x4080) [0, 0, 0, 0, 0, 3]
    let child := s.updPart 0 (fun p => { p with rcbs := p.rcbs ++ [{ rcb5 with id := 9, parent := 5, level := 1 }] })
    let r := Rcb.ofBytes 0x4000 (match s.agentRead 64 0 0x4000 128 with | .bytes bs => bs | _ => [])
    acts s .pf 1 false = true ∧ acts s (.vf 0) 2 false = true ∧ (match s.agentRead 64 0 0x4000 128 with | .bytes bs => bs.length == 128 && r.legal bs | _ => false) = true ∧
    (match s.agentRead 64 0 0x4080 128 with | .bytes bs => !(Rcb.ofBytes 0x4080 bs).legal bs | _ => false) = true ∧ s.rcbPart 9 = none ∧
    ((s.part 0).withRcb r).isSome = true ∧ (((afterExec (.regrcb .pf { a0 := 0x4000 }) s).part 0).rcb? 9).map (fun x => (x.level, x.parent)) = some (1, 5) ∧
    (afterExec (.regrcb .pf { a0 := 0x4080 }) s).dev.mbstat = 1 ∧ s.rcbPart 5 = some 0 ∧ funcMay (.vf 0) 0 = true ∧
    (∀ x ∈ (s.part 0).rcbs, x.parent ≠ 5) ∧ ((afterExec (.unrcb (.vf 0) { a0 := 5 }) s).part 0).rcb? 5 = none ∧
    (child.part 0).rcbs.any (fun x => x.parent == 5) = true ∧ (afterExec (.unrcb (.vf 0) { a0 := 5 }) child).dev.mbstat = 5 := by decide +kernel

/-- For clausesPagesCountersAndCores. -/
theorem witness_pages_counters_and_cores :
    let s := hosted
    acts s .pf 3 false = true ∧ acts s .pf 4 true = true ∧ acts s .pf 5 true = true ∧ acts s .pf 6 true = true ∧
    (s.pteSpot 0 0x10008).isSome = true ∧ sizeShift ((s.pteSpot 0 0x10008).map (fun x => x.2.2) |>.getD 0) = 21 ∧
    (afterExec (.unpin .pf { a0 := 0x10008, a1 := 21 }) s).dev.mbstat = 0 ∧ (0x1000 : DWord).toNat + 262144 ≤ 2 ^ 64 ∧
    ((afterExec (.retire .pf { a0 := 1023 }) s).coreAt 1023).retired = true ∧ s.funcEnabled (.vf 0) = true ∧ s.mbServes 6 = true ∧
    (afterExec (.retire (.vf 0) { a0 := 1023 }) s).dev.mbstat = 5 ∧
    (afterExec (.histclr .pf {}) { s with dev := { s.dev with hist := [(0, 5)] } }).dev.hist = [] := by decide +kernel

/-- For clausesFirmwareAndAttestation and clausesDebugFunctions. -/
theorem witness_attestation_and_debug :
    let s := hosted
    (acts s .pf 7 false = true ∧ acts s .pf 8 false = true ∧ acts s .pf 9 true = true ∧ acts s .pf 10 true = true ∧ (0 : DWord).toNat + 50464 ≤ 2 ^ 64 ∧
     (afterExec (.extend .pf { a0 := 7, a1 := 0x100 }) s).dev.mbstat = 0) ∧
    (let d := { s with dev := { s.dev with dbgen := 1 } }
     let post := d.updCore 1023 (fun c => { c with dbgOut := [⟨5, 6, 0x40, 7⟩] })
     let w := d.updWarp (warpKey 1023 63) (fun w => { w with used := true })
     acts d .pf 11 false = true ∧ acts d .pf 12 false = true ∧ acts d .pf 13 false = true ∧ d.dev.dbgen.getLsbD (d.dieParted (dieOf 1023)) = true ∧
     s.dev.dbgen.getLsbD (s.dieParted (dieOf 1023)) = false ∧ ((afterExec (.dbgw .pf { a0 := 1023, a1 := 0x22, a2 := 6 }) d).coreAt 1023).whalt = 6 ∧
     (afterExec (.dbgw .pf { a0 := 1023, a1 := 0x22, a2 := 6 }) s).dev.mbstat = 5 ∧ (w.warp (warpKey 1023 63)).dbgIn = none ∧
     w.liveThreads (warpKey 1023 63) = [] ∧ ((afterExec (.dbgin .pf { a0 := 1023, a1 := 63, a2 := 8 }) w).warp (warpKey 1023 63)).dbgIn = some 8 ∧
     ((afterExec (.dbgout .pf { a0 := 1023, a1 := 0x100 }) post).coreAt 1023).dbgOut = []) := by decide +kernel

/-! ## Packets -/

/-- Device 0 of a ring of four along x, its links 0 and 1 up, with virtual page 1 mapped as `e` says and RCB 5. -/
def netted (e : Nat) : State :=
  let s := withPage hosted 1 e
  { s with lodge := { s.lodge with epst := 1, epoch := false, ldcfg := 0x1003000, linkup := 3 } }

/-- A packet from device 1 to device 0. -/
def packet (ty : BitVec 4) (addr : DWord) (b : Body) : Packet :=
  { src := 1, dst := 0, tier := 2, type := ty, seq := 0, len := 0, first := true, tag := 5, addr := addr, body := b }

/-- The hypotheses of `Delivered` and `EpMaps`. -/
def delivered (s : State) (p : Packet) (ty : BitVec 4) : Bool :=
  decide (p.dst = s.devId) && decide (p.type = ty) && decide (s.lodge.epst = 1) && decide (s.lodge.opens.length < 32768) && !(s.diesOf s.epart).isEmpty &&
    !s.epartResets

theorem delivered_of {s : State} {p : Packet} {ty : BitVec 4} (h : delivered s p ty = true) : Delivered s p ty := by
  simp only [delivered, Bool.and_eq_true, decide_eq_true_eq, Bool.not_eq_true'] at h
  exact ⟨h.1.1.1.1.1, h.1.1.1.1.2, h.1.1.1.2, h.1.1.2, h.1.2, h.2⟩

def epMaps (s : State) (va : DWord) (rd wr : Bool) (h : Home) : Bool :=
  match s.translateAgent s.epart va.toNat with
  | .mapped e size => pteAllows e rd wr && decide (pteHome e (sizeShift size) va.toNat = h) && !h.isRemote &&
    !s.homeResets h
  | _ => false

theorem epMaps_of {s : State} {va : DWord} {rd wr : Bool} {h : Home} (m : epMaps s va rd wr h = true) : EpMaps s va rd wr h := by
  unfold epMaps at m
  split at m
  · rename_i e size ht
    simp only [Bool.and_eq_true, decide_eq_true_eq, Bool.not_eq_true'] at m
    exact ⟨e, size, ht, m.1.1.1, m.1.1.2, m.1.2, m.2⟩
  · exact absurd m (by decide)

/-- The answers in a device's open table. -/
def answers (s : State) : List (Option (Byte × List Byte)) := s.lodge.opens.map (fun o => o.ans)

/-- For clausesReadRequests: 8 bytes found, the end of a page, beyond the window, unmapped, on demand, forbidden and marked. -/
theorem witness_read_requests :
    let p := packet 0 0x10008 (.read 8 .plain)
    let s := netted (1 + 2 + 8 + 128)
    delivered s p 0 = true ∧ epMaps s p.addr true false (.slice 0 8) = true ∧ s.refusedAt (.slice 0 8) 8 = false ∧ s.marked 8 8 = false ∧
    answers (afterExec (.read p) (s.putBytes 8 [1, 2])) = [some (0, [1, 2, 0, 0, 0, 0, 0, 0])] ∧ (0x1FFF8 : DWord).toNat % 65536 + 8 ≤ 65536 ∧
    2 ^ 56 < (0x00FFFFFFFFFFFFF9 : DWord).toNat + 8 ∧ answers (afterExec (.read { p with addr := 0x00FFFFFFFFFFFFF9 }) s) = [some (4, [])] ∧
    s.translateAgent 0 0x40000000 = .unmapped ∧ answers (afterExec (.read { p with addr := 0x40000000 }) s) = [some (6, [])] ∧
    (netted 5).translateAgent 0 0x10008 = .onDemand ∧ answers (afterExec (.read p) (netted 5)) = [some (0xFE, [])] ∧
    (match (netted (1 + 2 + 16)).translateAgent 0 0x10008 with | .mapped e _ => !pteAllows e true false | _ => false) = true ∧
    answers (afterExec (.read p) (netted (1 + 2 + 16))) = [some (5, [])] ∧
    answers (afterExec (.read p) { s with poison := [(0, true)] }) = [some (0x13, [])] := by decide +kernel

/-- For clausesWriteRequests, clausesAtomicRequests and clausesSignalRequests. -/
theorem witness_requests :
    (let p := packet 2 0x10008 (.write [1, 2, 3] .plain)
     let s := netted (1 + 2 + 16)
     delivered s p 2 = true ∧ epMaps s p.addr false true (.stacked 0 8) = true ∧ s.refusedAt (.stacked 0 8) 3 = false ∧
     (afterExec (.write p) s).getBytes ((Home.stacked 0 8).key) 3 = [1, 2, 3] ∧ answers (afterExec (.write p) s) = [some (0, [])]) ∧
    (let p := packet 3 0x10008 (.atomic .add false [(5, 0), (6, 0)])
     let s := netted (1 + 2 + 8 + 16 + 128)
     delivered s p 3 = true ∧ epMaps s p.addr true true (.slice 0 8) = true ∧ answers (afterExec (.atomic p) (s.putBytes 8 [1])) = [some (0, [1, 0, 0, 0])] ∧
     (afterExec (.atomic p) (s.putBytes 8 [1])).byte 8 = 12) ∧
    (let p := packet 3 0x10008 (.atomic .min false [(5, 0)])
     let s := netted (1 + 2 + 8 + 16 + 256)
     delivered s p 3 = true ∧ epMaps s p.addr true true (.host 8) = true ∧ answers (afterExec (.atomic p) s) = [some (5, [])]) ∧
    (let p := packet 4 0x10008 (.signal 0 true 0x1234)
     let s := netted (1 + 2 + 16 + 128)
     let d := netted (1 + 2 + 16)
     delivered s p 4 = true ∧ epMaps s p.addr false true (.slice 0 8) = true ∧ s.tagWaits = [] ∧ (afterExec (.signal p) s).tagAt 8 = true ∧
     (afterExec (.signal p) s).byte 9 = 0x12 ∧ epMaps d p.addr false true (.stacked 0 8) = true ∧ answers (afterExec (.signal p) d) = [some (0x18, [])]) := by
  decide +kernel

/-- For clausesWithdrawalsAndReplies. -/
theorem witness_withdrawals :
    let p := packet 8 0 .withdraw
    let s := netted 0
    let o : OpenReq := ⟨packet 0 0x10008 (.read 8 .ldf), none⟩
    let held := { s with tagWaits := [⟨3, 0, 8, 8, [], .peer 1 5 2, 1, 0⟩], lodge := { s.lodge with opens := [o] } }
    let ready := { s with lodge := { s.lodge with opens := [o, { o with ans := some (0, [7]) }] } }
    p.dst = s.devId ∧ answers (afterExec (.withdraw p) held) = [some (0xFD, [])] ∧ (afterExec (.withdraw p) held).tagWaits = [] ∧
    (∀ w ∈ s.tagWaits, w.who ≠ .peer 1 5 2) ∧ (ready.lodge.opens.filter (fun o => o.ans.isSome))[0]? = some { o with ans := some (0, [7]) } ∧
    (afterExec (.endpointReply 0) ready).lodge.opens = [o] ∧
    (afterExec (.endpointReply 0) ready).lodge.wire.map (fun e => (e.1, e.2.body, e.2.dst)) = [(0, .reply 0 [7], 1)] := by decide +kernel

/-- For clausesRepliesArrive: an acknowledgement, a result, 0xFE, an orphan and ABSENT. -/
theorem witness_replies :
    let r : OutReq := ⟨5, .ack 0 9 0x1003F, packet 2 0x1003F (.write [1] .plain), 0⟩
    let base := (netted 0).updThread 0 (fun th => { th with acks := [⟨9, false, false, none⟩], outs := [⟨7, .regs, [4], none, 0, 0, false, 0, 0⟩] })
    let s := { base with lodge := { base.lodge with outs := [r] } }
    let l := { base with lodge := { base.lodge with outs := [⟨5, .result 0 7 4 4, packet 0 0 (.read 4 .plain), 0⟩] } }
    let p := fun (st : Byte) (bs : List Byte) => packet 1 0 (.reply st bs)
    (∀ e ∈ s.thr, e.2.fencing = none) ∧ s.lodge.outstanding 5 2 = some r ∧ s.devId = 0 ∧
    ((afterExec (.reply (p 6 [])) s).thread 0).acks = [⟨9, false, true, some (6, 0x10020)⟩] ∧
    ((afterExec (.absent (packet 7 0 .absent)) s).thread 0).acks = [⟨9, false, true, some (0x12, 0x10020)⟩] ∧
    (afterExec (.reply (p 0xFE [])) s).lodge.outs.map (fun x => x.phase) = [2] ∧ (l.lodge.outstanding 5 2).isSome = true ∧ ((l.thread 0).out? 7).isSome = true ∧
    ((afterExec (.reply (p 0 [1, 2, 0, 0])) l).thread 0).outs.map (fun o => o.res) = [some (.val [0x201])] ∧
    base.lodge.outstanding 5 2 = none ∧ (afterExec (.reply (p 0 [])) base).lodge.orphcnt = 1 := by decide +kernel

/-- For clausesTransitAndLinks: reserved TIER, TYPE and LEN, a way that is down, a way that is up, links down and up, a request sent again. -/
theorem witness_transit :
    let s := netted 0
    let p := { packet 0 0 (.read 8 .plain) with dst := 3 }
    let down := { s with lodge := { s.lodge with linkdown := 2, linkup := 1 } }
    let wait := { s with lodge := { s.lodge with linkup := 0, ports := [(1, { waiting := [(0, p)] })] } }
    let again := { s with lodge := { s.lodge with outs := [⟨0, .ack 0 9 0, p, 2⟩] } }
    s.route 3 = .link 1 ∧ (afterExec (.transitPacket 0 { p with tier := 0 }) s).lodge.seqerr = 1 ∧ (afterExec (.transitPacket 0 { p with type := 9 }) s).lodge.seqerr = 1 ∧
    (afterExec (.transitPacket 0 { p with len := 5 }) s).lodge.seqerr = 1 ∧ (afterExec (.transitPacket 0 p) s).lodge.wire = [(1, p)] ∧
    down.lodge.isDown 1 = true ∧ (afterExec (.transitPacket 0 p) down).lodge.wire.map (fun e => (e.1, e.2.type, e.2.dst)) = [(0, 7, 1)] ∧
    (afterExec (.linkDown 1) s).lodge.isDown 1 = true ∧ (∀ e ∈ (wait.lodge.port 1).waiting, e.1 < 7 ∧ e.2.tier ≠ 0) ∧
    (afterExec (.linkUp 1) wait).lodge.wire = [(1, p)] ∧ again.lodge.freeSlot 2 = some 0 ∧
    (afterExec (.resendTimer 0) again).lodge.outs.map (fun x => (x.phase, x.pkt.tag)) = [(0, 0)] := by decide +kernel

/-- For clausesGangs: a LAUNCH that is accepted, one that was aborted, the last and another ACK, ABORTs and a window that closes. -/
theorem witness_gangs :
    let s := (netted 0).updThread 0 (fun th => { th with outs := [⟨7, .regs, [4, 5], none, 0, 0, false, 0, 0⟩] })
    let blk : List Byte := leBytes 8 0x40 ++ leBytes 8 0x7000 ++ leBytes 4 3 ++ leBytes 2 5 ++ List.replicate 10 0
    let p := { packet 6 (gangAddr 0 77) (.gang blk) with tier := 1 }
    let ack := { packet 6 (gangAddr 1 77) (.gang []) with tier := 1 }
    let abort := { packet 6 (gangAddr 2 77) (.gang []) with tier := 1 }
    let g : Gang := { seq := 77, devs := [1, 2], acked := [2], tid := 0, id := 7, win := 9 }
    let all := { s with gangs := [g] }
    let some1 := { s with gangs := [{ g with acked := [] }] }
    let part := { s with launches := [{ launch1 with origin := .gang 1 77, next := 1 }] }
    delivered s p 6 = true ∧ s.running = true ∧ (match s.gangVerdict blk with | .ok _ => true | _ => false) = true ∧
    (afterExec (.gangLaunch p) s).launches.map (fun l => (l.total, l.seed)) = [(3, 77)] ∧
    (afterExec (.gangLaunch p) s).lodge.wire.map (fun e => e.2.addr) = [gangAddr 1 77] ∧
    (afterExec (.gangLaunch p) { s with gangAborted := [(1, 77)] }).launches = [] ∧ gangKind ack.addr = 1 ∧ gangSeqOf ack.addr = 77 ∧
    ((afterExec (.gangAck ack) all).thread 0).outs.map (fun o => o.res) = [some (.val [77, 0])] ∧ (afterExec (.gangAck ack) all).gangs = [] ∧
    (afterExec (.gangAck ack) some1).gangs.map (fun g => g.acked) = [[1]] ∧ gangKind abort.addr = 2 ∧ launch1.freed ≠ 1 ∧
    (afterExec (.gangAbort abort) part).launches.map (fun l => l.total) = [1] ∧ (afterExec (.gangAbort abort) s).gangAborted = [(1, 77)] ∧
    (let late := { s with gangs := [{ g with elapsed := 9 }] }
     ((afterExec (.gangWindowClose 77) late).thread 0).outs.map (fun o => o.res) = [some (.val [77, 0x15000000])] ∧
     (afterExec (.gangWindowClose 77) all).gangs = [g] ∧ (afterExec (.gangAck ack) late).gangs.map (fun g => g.acked) = [[2]]) ∧
    (let lost := { packet 7 (gangAddr 0 77) .absent with tier := 1, tag := 0 }
     s.lodge.outstanding 0 1 = none ∧ ((afterExec (.absent lost) all).thread 0).outs.map (fun o => o.res) = [some (.val [77, 0x15000000])]) := by
  decide +kernel

/-- For clausesCircuitPackets: a GRANT, a refusal, a MSG that is kept, one too many, and a packet of another kind. -/
theorem witness_circuit_packets :
    let s := netted 0
    let port := fun (x : Port) => { s with cp := { s.cp with ports := [(3, x)] } }
    let asked := port { st := 1, entries := [(0, { st := 1, reqId := 9, pdev := 4, pport := 2, wid := 1 })] }
    let full := s.updCx 7 (fun c => { c with msgs := List.replicate 16 (1, 0) })
    let p := fun (a : DWord) => packet 5 a .circuit
    delivered s (p 0) 5 = true ∧ asked.askedEntry 9 = some (3, 0) ∧ (((afterExec (.grant (p 0x2000000700000009)) asked).optPort 3).entry 0).st = 2 ∧
    (((afterExec (.grant (p 0x2001000700000009)) asked).optPort 3).entry 0).st = 3 ∧ ((p 0x2001000700000009).addr.extractLsb' 60 4 = 2) ∧
    ((afterExec (.msg (p 0x5E00000000000008)) s).cx 7).msgs = [(1, 8)] ∧ (s.cx 7).msgs.length < 16 ∧
    (afterExec (.msg (p 0x5E00000000000008)) full).cp.msgdrop = 1 ∧ 16 ≤ (full.cx 7).msgs.length ∧ (afterExec (.msg (p 0x1000000000000000)) s).cp.badmsg = 1 := by
  decide +kernel

/-! ## HK2's pages and the engines at work -/

/-- For clausesTaggedWordsAreSentAgain: a refused LDF whose word is not full yet, one at a unit that holds 256, and one that is served. -/
theorem witness_tagged_words_again :
    let x : TagWait := ⟨3, 0, 8, 8, [], .peer 1 5 2, 2, 0⟩
    let o : OpenReq := ⟨packet 0 0x10008 (.read 8 .ldf), none⟩
    let s := { netted 0 with tagWaits := [x] }
    let full := { netted 0 with tagWaits := x :: List.replicate 256 { x with phase := 1, key := 16 } }
    let ready := { (netted 0).setTag 8 true with tagWaits := [x], lodge := { (netted 0).lodge with opens := [o] } }
    s.refusedAt x.home x.n = false ∧ s.tagAt x.key = false ∧ (afterExec (.taggedWordResend 0) s).tagWaits.map (fun w => w.phase) = [1] ∧
    (afterExec (.taggedWordResend 0) full).tagWaits.map (fun w => w.phase) = List.replicate 256 1 ++ [2] ∧
    (full.tagWaits.tail.filter (fun y => y.phase == 1 && y.key / sliceBytes == x.key / sliceBytes)).length = 256 ∧
    ready.tagAt 8 = true ∧ ready.marked 8 8 = false ∧ answers (afterExec (.taggedWordResend 0) ready) = [some (0, [0, 0, 0, 0, 0, 0, 0, 0])] := by
  decide +kernel

/-- For clausesOnDemandPagesAreFilled and clausesPagesMove: an on-demand page, a page that moves, and one with MVC at 3. -/
theorem witness_pages :
    let va : DWord := 0x10008
    let pf : PageFill := ⟨0, 3, 7, [(5, 0x99)], [], []⟩
    let od := (netted 5).updThread 0 (fun th => { th with park := .page va })
    let entry := fun (e : Nat) => ((netted e).pteSpot 0 0x10008).map (fun x => (x.2.1.toNat % 2 ^ 76, x.2.2))
    entry 5 = some (5, 0) ∧ od.pageSaved 0 0x10008 0 = false ∧ samePage 0 0x10008 va = true ∧ (od.warpOfThread 0).part = 0 ∧
    ((bytesWithin pf 0).map Prod.fst).Nodup ∧ ((afterExec (.onDemandFill 0 va (some pf)) od).thread 0).park = .none ∧
    (afterExec (.onDemandFill 0 va (some pf)) od).translateAgent 0 0x10008 ≠ .onDemand ∧
    (afterExec (.onDemandFill 0 va none) od).translateAgent 0 0x10008 = .unmapped ∧
    entry (1 + 2 + 8 + 2 ^ 13) = some (11 + 2 ^ 13, 0) ∧ pteField (BitVec.ofNat 128 (11 + 2 ^ 13 + 3 * 2 ^ 14)) 14 2 = 3 ∧
    (match (afterExec (.pageMove 0 va pf) (netted (1 + 2 + 8 + 2 ^ 13))).pteSpot 0 0x10008 with
     | some (_, e, _) => pteField e 14 2 == 0 && !e.getLsbD 1 && e.getLsbD 2 | none => false) = true ∧
    (netted (1 + 2 + 8 + 2 ^ 13)).moveOf 0 0x10008 = none ∧
    (afterExec (.pageMove 0 va pf) (netted (1 + 2 + 8 + 2 ^ 13))).dev.moves.map (fun m => (m.va, m.copied)) = [(0x10000, false)] ∧
    (let m : PageMove := { id := 5, part := 0, size := 0, vpn := 1, old := BitVec.ofNat 128 (1 + 2 + 8 + 2 ^ 13 + 2 ^ 88), pf := pf }
     let s := fun (copied : Bool) => { netted (1 + 4 + 8 + 2 ^ 13) with dev := { (netted 0).dev with moves := [{ m with copied := copied }] } }
     let used := { s false with tagWaits := [⟨3, 0, (Home.stacked 0 8).key, 8, [], .peer 1 5 2, 1, 0⟩] }
     let done := afterExec (.pageMove 0 va pf) (s true)
     (s false).moveOf 0 0x10008 = some m ∧ (s false).stillUses m.old m.size m.va = false ∧ used.stillUses m.old m.size m.va = true ∧
     pageHome m.old m.size m.va = .stacked 0 0 ∧ (s false).lodge.outs = [] ∧ (s false).dev.stores = [] ∧ done.dev.moves = [] ∧
     (match done.pteSpot 0 0x10008 with
      | some (_, e, _) => pteField e 14 2 == 1 && pteField e 76 12 == 3 && pteField e 16 40 == 7 && e.getLsbD 1 | none => false) = true) ∧
    (match (afterExec (.pageMove 0 va pf) (netted (1 + 2 + 8 + 2 ^ 13 + 3 * 2 ^ 14))).pteSpot 0 0x10008 with
     | some (_, e, _) => pteField e 64 1 == 1 && pteField e 76 12 == 0 | none => false) = true ∧ Memory.wf (netted 5).mem = true := by decide +kernel

/-- For clausesTablesAreResized: a resize that begins, one index that moves, and the end. -/
theorem witness_table_resize :
    let desc := fun (d : Desc) => State.reset.updPart 0 (fun p => { p with desc := [(1, d)] })
    let d0 : Desc := { on := 7, obase := 0 }
    let step := fun (d : Desc) => ((afterExec (.tableResize 0 1 0x10000 8) (desc d)).part 0).descOf 1
    tableBytes 8 = 12288 ∧ 0 + tableBytes 7 ≤ 0x10000 ∧ step d0 = { d0 with rsz := true, nn := 8, nbase := 0x10000, migptr := 0 } ∧
    step { d0 with rsz := true, nn := 8, nbase := 0x10000, migptr := 127 } = { d0 with rsz := true, nn := 8, nbase := 0x10000, migptr := 128 } ∧
    step { d0 with rsz := true, nn := 8, nbase := 0x10000, migptr := 128 } = { d0 with on := 8, obase := 0x10000, nn := 8, nbase := 0x10000 } := by
  decide +kernel

/-- A copy engine with one command of warp 0's workgroup, whose token 2 counts it. -/
def engineState (c : CopyCmd) : State :=
  { guest (.nop always) [] (fun _ => {}) with copy := [(31, { q := [(7, [c])] })], cur := {} }.updWarp 0 (fun w => { w with toks := [(2, { out := 1 })] })

/-- A copy of 300 bytes in core 0's slice, of that token. -/
def copy300 : CopyCmd :=
  { id := 50, part := 0, core := 0, owner := .token 1 0 0 2, rcb := 5,
    x := { kind := .cpy, src := 0xFF00000000001000, dst := 0xFF00000000002000, len := 300 } }

/-- The hypotheses of `InQueue`. -/
theorem inQueue_one (s : State) (e q : Nat) (c : CopyCmd) (h : (s.engine e).queue q = [c]) : InQueue s e q c := by simp [InQueue, h]

/-- For clausesCopyCommandsStart: a copy, one that the hazard table holds back, a tensor with its descriptor, and a chain. -/
theorem witness_copy_starts :
    let q := fun (s : State) => (s.engine 31).queue 7
    let s := engineState copy300
    let held := { s with copy := [(31, { q := [(7, [copy300]), (6, [{ copy300 with id := 40, going := true, started := true }])] })] }
    let tensor := { copy300 with x := { kind := .tld, src := 0xFF00000000004000, dst := 0xFF00000000002000 } }
    let chain := { copy300 with chain := some 0xFF00000000004000 }
    let desc : List Byte := leBytes 8 0x10000 ++ leBytes 4 256 ++ leBytes 4 1 ++ leBytes 4 1 ++ leBytes 4 1 ++ List.replicate 24 0 ++
      leBytes 2 256 ++ leBytes 2 1 ++ leBytes 2 1 ++ leBytes 2 1 ++ [0, 1, 0, 0, 0, 0, 0, 0]
    let t := (engineState tensor).putBytes 0x4000 desc
    nextToStart (q s) = some copy300 ∧ q s = [copy300] ∧ s.enginesRun = true ∧ s.hazardFree 31 copy300 = true ∧ held.hazardFree 31 copy300 = false ∧
    nextToStart (q held) = some copy300 ∧ (q (afterExec (.copyCommandStart 31 7) s)).map (fun c => (c.started, c.going)) = [(true, true)] ∧
    (q (afterExec (.copyCommandStart 31 7) held)).map (fun c => (c.started, c.going)) = [(true, false)] ∧
    nextToStart (q t) = some tensor ∧ (match t.structRead tensor tensor.x.src with | .bytes bs => bs == desc && descCause bs == none | _ => false) = true ∧
    (q (afterExec (.copyCommandStart 31 7) t)).map (fun c => (c.started, c.x.ready, c.x.len)) = [(true, true, 256)] ∧
    nextToStart (q (engineState chain)) = some chain ∧ (q (afterExec (.copyCommandStart 31 7) (engineState chain))).map (fun c => c.started) = [true] := by
  decide +kernel

/-- For clausesBurstsMoveBytes: the first burst of 256 bytes, the last of 44, and one of 20 between pages. -/
theorem witness_bursts :
    let q := fun (s : State) => (s.engine 31).queue 7
    let going := fun (c : CopyCmd) => { c with started := true, going := true }
    let first := going copy300
    let last := { going copy300 with off := 256 }
    let pages := going { copy300 with x := { kind := .cpy, src := 0x10008, dst := 0x10044, len := 20 } }
    let s := (engineState first).putBytes 0x10FF [7, 8]
    let p := withPage (engineState pages) 1 (1 + 2 + 8 + 16)
    (q s).find? (s.canBurst 31 7) = some first ∧ s.marked 0x1000 300 = false ∧ 0x1000 + 300 + (s.coreAt 0).carve ≤ sliceBytes ∧
    (afterExec (.engineBurst 31 7) s).byte 0x20FF = 7 ∧ (afterExec (.engineBurst 31 7) s).byte 0x2100 = 0 ∧
    (q (afterExec (.engineBurst 31 7) s)).map (fun c => (c.off, c.finished)) = [(256, false)] ∧
    (q (engineState last)).find? ((engineState last).canBurst 31 7) = some last ∧
    (q (afterExec (.engineBurst 31 7) (engineState last))).map (fun c => (c.off, c.finished)) = [(300, true)] ∧
    (q p).find? (p.canBurst 31 7) = some pages ∧
    (match p.cmdPlace pages 0x10008 20 true false, p.cmdPlace pages 0x10044 20 false true with
     | .place a, .place b => a.home == .stacked 0 8 && b.home == .stacked 0 0x44 && !p.refusedAt a.home 20 && !p.marked a.home.key 20 && !p.refusedAt b.home 20
     | _, _ => false) = true ∧
    (afterExec (.engineBurst 31 7) (p.putBytes ((Home.stacked 0 8).key) [9])).byte ((Home.stacked 0 0x44).key) = 9 := by decide +kernel

/-- For clausesChainRecordsAreRead: a record without OWN, and a copy. -/
theorem witness_chain_records :
    let q := fun (s : State) => (s.engine 31).queue 7
    let c := { copy300 with chain := some 0xFF00000000004000, started := true }
    let s := engineState c
    let good : List Byte := leBytes 8 1 ++ leBytes 8 0xFF00000000005000 ++ leBytes 8 0xFF00000000001000 ++ leBytes 8 0xFF00000000002000 ++ leBytes 4 64 ++ List.replicate 28 0
    let t := s.putBytes 0x4000 good
    q s = [c] ∧ (match s.structRead c 0xFF00000000004000 with | .bytes bs => fieldAt bs 0 1 % 2 == 0 | _ => false) = true ∧
    (q (afterExec (.chainRecord 31 7) s)).map (fun c => c.finished) = [true] ∧
    (match t.structRead c 0xFF00000000004000 with
     | .bytes bs => bs == good && (recordXfer bs).2 && (recordXfer bs).1.check (t.coreAt 0).carve (t.nbar 1) (ccwOk (BitVec.ofNat 32 (fieldAt bs 4 4))) == none
     | _ => false) = true ∧
    (match t.cmdPlace c 0xFF00000000004000 2 false true with | .place _ => true | _ => false) = true ∧
    (q (afterExec (.chainRecord 31 7) t)).map (fun c => (c.inRecord, c.x.len, c.nextRec)) = [(true, 64, 0xFF00000000005000)] := by decide +kernel

/-- For clausesCopyFaultsAndCompletion. -/
theorem witness_copy_faults :
    let q := fun (s : State) => (s.engine 31).queue 7
    let c := { copy300 with started := true, going := true, stalled := some (0x10008, false) }
    let s := withPage (engineState c) 1 (1 + 2 + 8)
    let bad := { c with stalled := some (0x40000000, false) }
    let ended := { copy300 with finished := true, err := 6 }
    (match s.translateAgent 0 0x10008 with | .mapped e _ => pteAllows e true false | _ => false) = true ∧
    (q (afterExec (.copyFaultAnswer 31 7) s)).map (fun c => c.stalled) = [none] ∧ (engineState bad).translateAgent 0 0x40000000 = .unmapped ∧
    (q (afterExec (.copyFaultAnswer 31 7) (engineState bad))).map (fun c => (c.err, c.finished)) = [(6, true)] ∧
    (q (engineState ended)).find? (fun c => c.finished) = some ended ∧ ((engineState ended).wg? 1 0).isSome = true ∧ ((engineState ended).launch? 1).isSome = true ∧
    q (afterExec (.copyComplete 31 7) (engineState ended)) = [] ∧ (afterExec (.copyComplete 31 7) (engineState ended)).tokenAt 1 0 0 2 = { out := 0, err := 6 } := by
  decide +kernel

/-- A collective engine with one command of warp 0's workgroup, whose descriptor lies at 0x4000 of the slice. -/
def collState (c : CollCmd) : State :=
  { guest (.nop always) [] (fun _ => {}) with coll := [(1, { q := [(7, [c])] })], cur := {} }.updWarp 0 (fun w => { w with toks := [(2, { out := 1 })] })

/-- A broadcast of that token. -/
def coll5 : CollCmd := { id := 50, part := 0, core := 0, owner := .token 1 0 0 2, rcb := 5, op := 5, addr := 0xFF00000000004000 }

/-- A descriptor: one rank, 4-byte elements, with its count at 0x5000 and its rank at 0x5100. -/
def descriptor (sbuf rbuf cnts rank tmo : Nat) : List Byte :=
  leBytes 8 sbuf ++ leBytes 8 rbuf ++ leBytes 8 cnts ++ leBytes 8 0xFF00000000005100 ++ List.replicate 24 0 ++ leBytes 4 9 ++ leBytes 2 1 ++ leBytes 2 rank ++
  [0, 0, 0, 0, 0, 0] ++ leBytes 2 tmo ++ List.replicate 56 0

/-- For clausesCollectivesStart: an address that cannot be read, a rank out of range, a misaligned table, a table beyond the slice, and a descriptor
whose messages are exchanged. -/
theorem witness_collective_starts :
    let h := fun (s : State) => ((s.collEng 1).queue 7).head?
    let with_ := fun (bs : List Byte) => ((collState coll5).putBytes 0x4000 bs).putBytes 0x5000 [2]
    let run := fun (s : State) => (h (afterExec (.collStart 1 7) s)).map (fun c => (c.stopped, c.running, c.err))
    let good := descriptor 0xFF00000000006000 0xFF00000000007000 0xFF00000000005000 0 0
    let far := { coll5 with addr := 0x0100000000000000 }
    h (collState coll5) = some coll5 ∧ (collState coll5).enginesRun = true ∧
    (match (with_ good).farRead coll5.reader coll5.addr 128 with | .bytes bs => bs == good && (CollDesc.decode bs).fieldsOk 5 bs | _ => false) = true ∧
    (match (collState far).farRead far.reader far.addr 128 with | .bad x => x != 0 | _ => false) = true ∧
    run (collState far) = some (true, false, 4) ∧ run (with_ (descriptor 0xFF00000000006000 0xFF00000000007000 0xFF00000000005000 1 0)) = some (true, false, 2) ∧
    run (with_ (descriptor 0xFF00000000006000 0xFF00000000007000 0xFF00000000005001 0 0)) = some (true, false, 3) ∧
    run (with_ (descriptor 0xFF00000000006000 0xFF00000000007000 0xFF007FFFFFFFFFFC 0 0)) = some (true, false, 4) ∧
    run (with_ good) = some (false, true, 0) ∧ (match (with_ good).farRead coll5.reader 0xFF00000000005000 4 with | .bytes bs => bs == [2, 0, 0, 0] | _ => false) = true ∧
    (match (with_ good).farRead coll5.reader 0xFF00000000006000 8 with | .bytes bs => bs.length == 8 | _ => false) = true := by decide +kernel

/-- For clausesCollectivesEnd: a timeout, an end whose STAT has been written, and one that writes it; an answer for a stalled command. -/
theorem witness_collective_ends :
    let h := fun (s : State) => ((s.collEng 1).queue 7).head?
    let timed := { coll5 with phase := .running, d := { tmo := 5 } }
    let ended := { coll5 with stopped := true, err := 6, statDone := true }
    let last := { coll5 with stopped := true, err := 6 }
    let stalled := { coll5 with stalled := some (0x10008, true) }
    (h (collState timed)).map (fun c => c.d.tmo) = some 5 ∧ (h (afterExec (.collTimeout 1 7) (collState timed))).map (fun c => (c.stopped, c.err)) = some (true, 0x12) ∧
    ended.exchanged = true ∧ h (afterExec (.collComplete 1 7) (collState ended)) = none ∧ last.exchanged = true ∧
    (match (collState last).collPlace last (last.addr + 120) 8 false true with | .place p => p.home == .slice 0 0x4078 | _ => false) = true ∧
    (collState last).refusedAt (.slice 0 0x4078) 8 = false ∧ (∀ x ∈ (collState last).wgs, x.isSaved = false) ∧
    (afterExec (.collComplete 1 7) (collState last)).getBytes 0x4078 8 = [1, 6, 0, 0, 0xFF, 0xFF, 0, 0] ∧
    (afterExec (.collComplete 1 7) (collState last)).tokenAt 1 0 0 2 = { out := 0, err := 6 } ∧
    (match (withPage (collState stalled) 1 (1 + 2 + 16)).translateAgent 0 0x10008 with | .mapped e _ => pteAllows e false true | _ => false) = true ∧
    (h (afterExec (.copyFaultAnswer 33 7) (withPage (collState stalled) 1 (1 + 2 + 16)))).map (fun c => c.stalled) = some none := by decide +kernel

/-! ## Ports, rotations and waiting contexts at work -/

/-- A device whose port 15 is as given. -/
def ported (x : Port) : State := { netted 0 with cp := { (netted 0).cp with ports := [(15, x)] } }

/-- For clausesPortsLockAndLoseLight and clausesPortsShakeHands. -/
theorem witness_ports_move :
    let p := fun (s : State) => s.optPort 15
    let peer : Option (BitVec 12 × BitVec 4 × BitVec 2) := some (4, 2, 1)
    let x : Port := { st := 1, light := true, laser := true, peer := peer }
    let trained : Port := { x with st := 2 }
    let waiting := (ported trained).updCx 0 (fun c => { c with st := 2, wait := .cwait 3 15 0 })
    (p (afterExec (.laserReady 15) (ported { x with laser := false }))).laser = true ∧ (p (afterExec (.laserReady 15) (ported {}))).laser = false ∧
    (p (afterExec (.lockComplete 15) (ported x))).st = 2 ∧ (p (afterExec (.lockComplete 15) (ported x))).cache = [(4, 2)] ∧
    (p (afterExec (.lockTimeout 15) (ported x))).st = 4 ∧ (p (afterExec (.lossOfLight 15) (ported trained))).st = 1 ∧ x.owner = none ∧
    (p (afterExec (.lightArrival 15 0) (ported {}))).light = true ∧ (0 : BitVec 16).toNat = (ported trained).portSseq 15 ∧
    (p (afterExec (.handshake 15 4 2 0) (ported trained))).st = 3 ∧ (p (afterExec (.handshake 15 4 3 0) (ported trained))).st = 4 ∧
    (p (afterExec (.handshake 15 4 2 1) (ported trained))).st = 4 ∧ (trained.entry 0).st ≠ 3 ∧ ((afterExec (.handshake 15 4 3 0) waiting).cx 0).st = 1 := by
  decide +kernel

/-- For clausesRotationsTurn and clausesWindowsAndFrames: an armed rotation, a boundary in a slot, at the end, and with a stop due; a window and frames. -/
theorem witness_rotations_turn :
    let run : Rotation := { st := 3, ns := 2, s := 1, len := [500, 600], guard := [10, 10], start := ⟨4, 0, 0⟩, b := 1000 }
    let e : Entry := { st := 2, pdev := 4, pport := 2, wid := 1 }
    let x : Port := { st := 3, owner := some 7, entries := [(1, e)], peer := some (4, 2, 1), light := true, laser := true }
    let s := fun (r : Rotation) => (ported x).updCx 7 (fun c => { c with st := 1, rot := r })
    let rot := fun (s : State) => (s.cx 7).rot
    let still := ported { x with owner := none, entries := [] }
    let fr := fun (n : BitVec 16) => (⟨1, 0x10008, n, 0, 5, .write [9] .plain⟩ : Frame)
    let mapped := let m := netted (1 + 2 + 16)
                  { m with cp := { m.cp with ports := [(15, { st := 3, peer := some (4, 2, 1) })] } }
    (rot (afterExec (.rotationStart 7 99) (s { run with st := 2, s := 0 }))).st = 3 ∧ (rot (afterExec (.rotationStart 7 99) (s { run with st := 2, s := 0 }))).b = 99 ∧
    (s run).rotationPorts 7 = [15] ∧ (rot (afterExec (.slotBoundary 7) (s run))).s = 2 ∧ (rot (afterExec (.slotBoundary 7) (s run))).b = 1500 ∧
    ((afterExec (.slotBoundary 7) (s run)).optPort 15).peer = none ∧ (rot (afterExec (.slotBoundary 7) (s { run with s := 2 }))).k = 1 ∧
    (rot (afterExec (.slotBoundary 7) (s { run with stop := 1 }))).st = 1 ∧ (rot (afterExec (.slotBoundary 7) (s { run with s := 2, reps := 1 }))).st = 1 ∧
    (s run).rotationOf 15 = some run ∧ x.slotPeer 1 = x.peer ∧ ((afterExec (.windowOpen 15) (s run)).optPort 15).window = true ∧
    (afterExec (.frameReceive 15 (fr 1)) still).cp.sseqdrop = 1 ∧ still.portSseq 15 = 0 ∧ delivered mapped (packet 0 0 .circuit) 0 = true ∧
    epMaps mapped 0x10008 false true (.stacked 0 8) = true ∧ mapped.refusedAt (.stacked 0 8) 1 = false ∧
    (afterExec (.frameReceive 15 (fr 0)) mapped).byte ((Home.stacked 0 8).key) = 9 ∧
    (afterExec (.frameReceive 15 (fr 0)) mapped).lodge.wire.map (fun e => e.2.body) = [.reply 0 []] := by decide +kernel

/-- For clausesWaitingContextsGoOn. -/
theorem witness_waiting_contexts :
    let s := fun (w : CxWait) (m : List (BitVec 12 × BitVec 48)) => (ported { st := 1 }).updCx 7 (fun c => { c with st := 2, wait := w, msgs := m })
    let e : Event := ⟨2, 0, 0⟩
    let c := fun (s : State) => s.cx 7
    (s (.cwait 3 15 9) []).cwaitOutcome 15 = none ∧ (c (afterExec (.cwaitTimeout 7) (s (.cwait 3 15 9) []))).st = 1 ∧
    ((c (afterExec (.cwaitTimeout 7) (s (.cwait 3 15 9) []))).reg 3).toNat / 4096 % 4 = 3 ∧
    (c (afterExec (.wevEvent 7) (s (.wev 3 e 0) [(1, 8)]))).reg 4 = 0x0001000000000008 ∧ (c (afterExec (.wevEvent 7) (s (.wev 3 e 0) [(1, 8)]))).msgs = [] ∧
    (c (afterExec (.wevTimeout 7) (s (.wev 3 e 5) []))).reg 3 = 1 ∧ (c (s (.wev 3 e 5) [])).rot.st ≠ 2 := by decide +kernel

/-! ## Words that the frame and access statements cover -/

/-- For StepRunsTheDecodedInstruction: a core that chooses a bundle whose word is in its instruction cache. -/
theorem witness_step_of_a_core :
    let i := Instr.addi always 1 0 5
    let s := { (plain i).updCore 0 (fun c => { c with active := [(0, 0)] }) with cur := {}, inputs := [.core 0] }
    let s0 := { s with inputs := [] }
    s.cur.mem = [] ∧ s0.running = true ∧ s0.coreAlive 0 = true ∧ decodeSimt (wordOf i) = .ok i ∧
    (s0.choose 0 64 (s0.ready 0)).1.map (fun b => let s1 := s0.startBundle 0 b
      (s1.cur.threads, s1.fetchAt 0 (s1.warpOfThread 0).part b.pc)) = some ([0], .word (wordOf i)) := by decide +kernel

/-- For TranscendentalWordsKeepTheirBounds: ordinary inputs, the ends of [0.5, 2] and their neighbours, 2^15 and its neighbour, and the largest below 128. -/
theorem witness_transcendental_inputs :
    let s := fun (i : Instr) (v : Word) => bundle (wordOf i) [0] (fun _ => withRegs [(2, v)])
    ([0x3F800000, 0xC2FE0000, 0x42FFFFFF, 0x80000001].all fun v =>
      ready (.ex2 always 1 2) (s (.ex2 always 1 2) v) 0 && decide (codeValue fp32 v.toNat < 128) && decide (magnitude fp32 v.toNat ≤ fp32.maxCode)) = true ∧
    ([0x3F000000, 0x40000000].all fun v => ready (.lg2 always 1 2) (s (.lg2 always 1 2) v) 0 && decide (0 < codeValue fp32 v.toNat) &&
      decide (1 / 2 ≤ codeValue fp32 v.toNat) && decide (codeValue fp32 v.toNat ≤ 2)) = true ∧
    ([0x3EFFFFFF, 0x40000001, 1].all fun v => ready (.lg2 always 1 2) (s (.lg2 always 1 2) v) 0 && decide (0 < codeValue fp32 v.toNat) &&
      (decide (codeValue fp32 v.toNat < 1 / 2) || decide (2 < codeValue fp32 v.toNat))) = true ∧
    ([Instr.sin always 1 2, .cos always 1 2].all fun i => ready i (s i 0xC7000000) 0 && decide (|codeValue fp32 0xC7000000| ≤ 2 ^ 15) &&
      ready i (s i 0x47000001) 0 && decide (2 ^ 15 < |codeValue fp32 0x47000001|)) = true := by decide +kernel

/-- For ComputingWordsKeepTheRest: a marked word with an outstanding result, a guard-false thread and a participant. -/
theorem witness_computing_frame :
    let i := Instr.add ⟨true, false, 1⟩ 1 1 2 3
    let s := bundle (wordOf i) [0, 1, 2] (fun t => { preds := if t = 1 then 0 else 2, outs := if t = 2 then [⟨7, .regs, [9], none, 0, 0, false, 0, 0⟩] else [] })
    ready i s 0 = true ∧ ready i s 2 = true ∧ s.participants i = [0, 2] ∧ calm s 0 = true ∧ calm s 1 = true ∧ calm s 2 = true ∧
    ((afterExec i s).thread 2).park = .marker ∧ ((afterExec i s).thread 0).park = .none ∧ ((afterExec i s).thread 1).pc = 4 := by decide +kernel

/-- For ControlWordsLeaveRegistersAndMemory: threads that are free and one that waits at an RCV; a CALL that writes a fifth address, and one below. -/
theorem witness_control_frames :
    (let i := Instr.rcv ifP1 0
     let s := bundle (wordOf i) [0, 1, 2] (fun t => { preds := if t = 0 then 2 else 0, park := if t = 2 then .word .rcv 4 0 false 1 else .none })
     let s1 := { s with cur := { s.cur with mem := [(0, 0), (1, 0)] } }
     ready i s1 0 = true ∧ s1.participants i = [0] ∧ 1 ∈ s1.cur.threads ∧ (s1.thread 1).park = .none ∧ calm s1 1 = true ∧ 2 ∉ s1.cur.threads) ∧
    (let i := Instr.exit ifP1
     let s := bundle (wordOf i) [0, 1] (fun t => { preds := if t = 0 then 2 else 0 })
     ready i s 0 = true ∧ 1 ∈ s.cur.threads ∧ 1 ∉ s.participants i ∧ calm s 1 = true ∧ (s.thread 1).park = .none) ∧
    (let i := Instr.call always 4
     let s := withPage (bundle (wordOf i) [0] (fun _ => { depth := 4, rcache := [(0, 4), (1, 4), (2, 4), (3, 4)] })) 0 (1 + 2 + 8 + 16)
     s.participants i = [0] ∧ (s.thread 0).rcache.length = 4 ∧ (List.range 4).all (fun d =>
       match s.checkPage 0 0 ((s.warpOfThread 0).returnSlot 0 d) false true true with | .place _ => true | _ => false) = true ∧
     ready i s 0 = true ∧ ((afterExec i s).thread 0).depth = 5) := by decide +kernel

/-- For BranchesCallsAndReturns: a RET whose address is not cached. -/
theorem witness_uncached_return :
    let i := Instr.ret always
    let s := withPage (bundle (wordOf i) [0] (fun _ => { depth := 2, rcache := [(0, 4)] })) 0 (1 + 2 + 8 + 16)
    ready i s 0 = true ∧ calm s 0 = true ∧ s.participants i = [0] ∧ (s.thread 0).h = false ∧ (∀ e ∈ (s.thread 0).rcache, e.1 ≠ 1) ∧
    (match s.checkPage 0 0 ((s.warpOfThread 0).returnSlot 0 1) true false true with | .place _ => true | _ => false) = true ∧
    ((afterExec i s).thread 0).park = .word .ret 4 (wordOf i) false 1 ∧ ((afterExec i s).thread 0).outs.map (fun o => o.kind) = [.ret] := by
  decide +kernel

/-- For LoadsReturnTheBytesFound: a byte of a stack, as it is and hit by another kind of write. -/
theorem witness_stack_loads :
    let i := Instr.ld always 4 4 2 0
    let s := (withPage (accessAt i 0xFE00000000000020) 0 (1 + 2 + 8 + 16)).updWarp 0 (fun w => { w with stack := 4096 })
    reaching i s 0 0xFE00000000000020 4 true false false (fun p => p.isStack && !s.refusedAt p.home.sectorHome 32) = true := by decide +kernel

/-- For TrapsAreTaken, clausesResultsReturn: reports of tagged words, one with a value and one with a cause. -/
theorem witness_tag_reports :
    let s := fun (r : Res) => { bundle 0 [0] (fun _ => { park := .word .tag 4 9 false 1, outs := [⟨7, .tag, [4, 5], some r, 9, 32, false, 0, 0⟩] }) with cur := {} }
    ((s (.val [1, 2])).thread 0).known ((s (.val [1, 2])).cycleOf 0) = ((s (.val [1, 2])).thread 0).outs ∧ calm (s (.val [1, 2])) 0 = true ∧
    ((afterExec (.resultReturn 0 0 0 0) (s (.val [1, 2]))).thread 0).pc = 4 ∧ ((afterExec (.resultReturn 0 0 0 0) (s (.val [1, 2]))).thread 0).reg 5 = 2 ∧
    toHk3 6 = false ∧ ((afterExec (.resultReturn 0 0 0 0) (s (.bad 6))).thread 0).park = .none ∧
    ((afterExec (.resultReturn 0 0 0 0) (s (.bad 6))).thread 0).heldTraps.map (fun h => (h.cause, h.addr)) = [(6, 32)] := by decide +kernel

/-! ## Commands, resets, packets and engines: further cases of the statements -/

/-- For clausesGangLaunchesAreNumbered: a block beyond the windows' pages traps, on an on-demand page waits, and on another device is asked for. -/
theorem witness_gang_blocks_not_yet :
    let i := Instr.lnchGang always 4 2
    let s := fun (e : Nat) => withPage (accessAt i 0x10000) 1 e
    let r := fun (s : State) => (s.dropRange 0 0 0x10000 64).readRange 0 0x10000 64
    ready i (s 3) 0 = true ∧ (match r (s 3) with | .trap c => c == 5 | _ => false) = true ∧ ready i (s 5) 0 = true ∧
    (match r (s 5) with | .page v => v == 0x10000 | _ => false) = true ∧ ready i (s (1 + 2 + 8 + 192 + 5 * 2 ^ 76)) 0 = true ∧
    (match r (s (1 + 2 + 8 + 192 + 5 * 2 ^ 76)) with | .away _ => true | _ => false) = true ∧
    ((afterExec i (s 5)).thread 0).park = .page 0x10000 ∧ ((afterExec i (s 3)).thread 0).trcause = 5 ∧
    ((afterExec i (s (1 + 2 + 8 + 192 + 5 * 2 ^ 76))).thread 0).asked.away = 1 := by decide +kernel

/-- For clausesPortsAndBindings: a started PUTC for another device, which is no peer of the port. -/
theorem witness_stray_putc :
    let i := Instr.cbind 2 5
    let c : CopyCmd := { copy300 with x := { copy300.x with kind := .putc, dev := 4 }, started := true, going := true }
    let s := { cxBundle i [(2, 1), (5, 3)] with copy := [(1, { q := [(3, [c])] })] }
    (∃ x ∈ (s.engine 1).queue 3, x.x.kind = .putc ∧ x.going = true ∧ x.finished = false ∧ s.peerDev 2 ≠ some x.x.dev) ∧
    s.windowOpen 2 = false := by
  exact ⟨⟨_, List.mem_singleton.mpr rfl, by decide +kernel, by decide +kernel, by decide +kernel, by decide +kernel⟩, by decide +kernel⟩

/-- For clausesWaitingCommands: TOKEN-SIGNAL with a page of this device, on demand, and at another device. -/
theorem witness_token_signals :
    let c := command [(0, 5), (8, 1), (16, 9), (24, 0x10008)]
    let s := fun (e : Nat) => (withPage (ringed hosted c) 1 e).updRing 3 (fun r => { r with cpl := 0xFF00000000000000 })
    let ours := s (1 + 2 + 8 + 16)
    starts ours c 5 = true ∧ ours.agentWriteBad 0 0x10008 8 = none ∧ ours.agentHome 0 0x10008 = some (.stacked 0 8) ∧
    (afterExec (.tokenSignal 3 c) ours).getBytes (Home.stacked 0 8).key 8 = [9, 0, 0, 0, 0, 0, 0, 0] ∧
    [5, 1 + 2 + 16 + 192 + 5 * 2 ^ 76].all (fun e => starts (s e) c 5 && decide ((s e).agentWriteBad 0 0x10008 8 = none) &&
      decide ((s e).agentHome 0 0x10008 = none) && decide (((afterExec (.tokenSignal 3 c) (s e)).ring 3).act.map (fun a => a.wait) = [.write]) &&
      decide ((afterExec (.tokenSignal 3 c) (s e)).queueToken 0 1 = 9)) = true ∧
    starts (s 11) c 5 = true ∧ (s 11).agentWriteBad 0 0x10008 8 = some 5 := by decide +kernel

/-- For clausesPowerStateCommands: commands in RETAIN and OFF, which begin a start. -/
theorem witness_power_states_below_hold :
    let cmd := fun (x : Nat) => command [(0, 10), (8, x), (10, 900), (12, 3)]
    let st := fun (x p : Nat) => let s := ringed hosted (cmd x); { s with dev := { s.dev with pst := p } }
    [(0, 3), (1, 3), (2, 3), (4, 3), (0, 4), (3, 4)].all (fun e => starts (st e.1 e.2) (cmd e.1) 10 && !(st e.1 e.2).busyWork) = true ∧
    (afterExec (.pstateRun 3 (cmd 0)) (st 0 3)).dev.starting.isSome = true ∧ (afterExec (.pstateRetain 3 (cmd 3)) (st 3 4)).dev.starting.isSome = true := by
  decide +kernel

/-- For clausesCheckpointsAreAccepted and clausesCheckpointSteps: a save and a restore that begin, one step of each, and the end of each. -/
theorem witness_checkpoint_steps :
    let cmd := fun (flg : Nat) => command [(0, 9), (8, flg), (16, 0x10000), (24, imageBytes), (32, 77)]
    let s := fun (flg : Nat) => let s := ringed hosted (cmd flg); { s with dev := { s.dev with pst := 2 } }
    let at_ := fun (flg : Nat) (c : Ckpt) => { hosted with dev := { hosted.dev with pst := 2, ckpt := some { c with cmd := cmd flg, restore := flg == 1 } } }
    let c : Ckpt := { ring := 3, idx := 0, cmd := 0, restore := false }
    starts (s 0) (cmd 0) 9 = true ∧ starts (s 1) (cmd 1) 9 = true ∧ (s 0).dev.ckpt = none ∧
    (afterExec (.checkpointSave 3 (cmd 0)) (s 0)).dev.ckpt = some { c with cmd := cmd 0 } ∧
    (afterExec (.checkpointRestore 3 (cmd 1)) (s 1)).dev.ckpt = some { c with cmd := cmd 1, restore := true } ∧
    (at_ 0 c).ckPaths (cmd 0) = [] ∧ c.pick.1 < chunkCount ∧ c.again = [] ∧ c.flying = [] ∧ 0x10000 + imageBytes ≤ 2 ^ 64 ∧
    (at_ 1 { c with next := chunkCount }).ckptStep.dev.ckpt = none ∧ (at_ 1 { c with next := chunkCount }).ckptStep.dieTlb = [] := by decide +kernel

/-- For clausesPowerAndAttachment and clausesUpperRungs: a store whose REPLY has not come fails with 0x12 as the endpoint leaves. -/
theorem witness_open_stores_fail :
    let r : OutReq := ⟨3, .ack 0 1 0x10020, packet 0 0x10020 (.write [1] .plain), 0⟩
    let s := { (bundle 0 [0] (fun _ => { acks := [⟨1, false, false, none⟩] })) with cur := {}, lodge := { State.reset.lodge with outs := [r] } }
    (∀ r ∈ s.lodge.outs, ∃ t id a, r.owner = .ack t id a) ∧ s.lodge.epst = 1 ∧ (s.thread 0).fencing = none ∧
    ((afterExec .detach s).thread 0).acks.map (fun a => (a.id, a.ready, a.fail.map Prod.fst)) = [(1, true, some 0x12)] := by
  refine ⟨?_, by decide +kernel⟩
  intro r hr
  exact ⟨0, 1, 0x10020, by rw [List.mem_singleton.mp hr]⟩

/-- For clausesReadRequests: a page of another device, and a die under reset. -/
theorem witness_reads_of_absent_homes :
    let p := packet 0 0x10008 (.read 4 .plain)
    let away := netted (1 + 2 + 8 + 192 + 5 * 2 ^ 76)
    let here := netted (1 + 2 + 8)
    let resetting := { here with dev := { here.dev with resets := [⟨none, 4, 0, 0, false⟩], resetting := true, state := 5 } }
    delivered away p 0 = true ∧ (match away.translateAgent 0 0x10008 with | .mapped e z => (pteHome e (sizeShift z) 0x10008).isRemote | _ => false) = true ∧
    answers (afterExec (.read p) away) = [some (6, [])] ∧
    (match resetting.translateAgent 0 0x10008 with
     | .mapped e z => pteAllows e true false && resetting.homeResets (pteHome e (sizeShift z) 0x10008) | _ => false) = true ∧
    delivered resetting p 0 = true ∧ answers (afterExec (.read p) resetting) = [some (0x12, [])] := by decide +kernel

/-- For clausesTablesAreResized: an index with an entry of one way, which moves to its own way's place. -/
theorem witness_resize_moves_an_entry :
    let s := (netted 11).updPart 0 (fun p => { p with desc := [(0, { on := 8, rsz := true, nn := 9, nbase := 0x10000, migptr := 158 })] })
    let d := (s.part 0).descOf 0
    let e := s.pteAt (d.obase + 16 * 158)
    e.getLsbD 0 = true ∧ (List.range 3).all (fun j => j == 0 || !(s.pteAt (d.obase + 16 * (j * 2 ^ d.on + 158))).getLsbD 0) = true ∧
    d.migptr < 2 ^ d.on ∧ (s.pteAt ({ d with migptr := 159 }.entryAt 0 (pteVpn e 0))).getLsbD 0 = false ∧
    (s.migrateIndex { d with migptr := 159 } 0 158).isSome = true ∧
    ((afterExec (.tableResize 0 0 0x10000 9) s).pteAt ({ d with migptr := 159 }.entryAt 0 (pteVpn e 0))) = e := by decide +kernel

/-- For clausesCopyCommandsStart and clausesChainRecordsAreRead: a copy of length 0, a PUTC whose circuit is not there, a bad chain record. -/
theorem witness_copies_that_do_not_move :
    let q := fun (s : State) => (s.engine 31).queue 7
    let none_ := { copy300 with x := { copy300.x with len := 0 } }
    let putc := { copy300 with x := { copy300.x with kind := .putc, dev := 4 } }
    let c := { copy300 with chain := some 0xFF00000000004000, started := true }
    let s := (engineState c).putBytes 0x4000 (0x31 :: List.replicate 63 0)
    nextToStart (q (engineState none_)) = some none_ ∧ (engineState none_).queueHeld 31 7 = false ∧
    (q (afterExec (.copyCommandStart 31 7) (engineState none_))).map (fun c => (c.readDone, c.finished)) = [(true, true)] ∧
    nextToStart (q (engineState putc)) = some putc ∧ (engineState putc).circuitOf 31 7 = none ∧
    (q (afterExec (.copyCommandStart 31 7) (engineState putc))).map (fun c => (c.started, c.going)) = [(true, false)] ∧
    (match s.structRead c 0xFF00000000004000 with | .bytes bs => fieldAt bs 0 1 % 2 == 1 && !(recordXfer bs).2 | _ => false) = true ∧
    (match s.cmdPlace c 0xFF00000000004000 2 false true with | .place p => p.home == .slice 0 0x4000 | _ => false) = true ∧
    (afterExec (.chainRecord 31 7) s).getBytes 0x4000 2 = [0x30, 2] ∧
    (q (afterExec (.chainRecord 31 7) s)).map (fun c => (c.finished, c.err)) = [(true, 2)] := by decide +kernel

/-- For clausesCollectivesStart: ranks that are not distinct, buffers beyond the slice, buffers that overlap, and a collective that was aborted. -/
theorem witness_collective_stops :
    let with_ := fun (c : CollCmd) (bs : List Byte) => ((collState c).putBytes 0x4000 bs).putBytes 0x5000 [2]
    let run := fun (s : State) => ((((afterExec (.collStart 1 7) s).collEng 1).queue 7).head?).map (fun (c : CollCmd) => (c.stopped, c.err))
    let good := descriptor 0xFF00000000006000 0xFF00000000007000 0xFF00000000005000 0 0
    let two := good.set 60 2
    let aborted := let s := with_ coll5 good; { s with coll := s.coll.map (fun e => (e.1, { e.2 with aborts := [9] })) }
    (two.drop 60).take 2 = [2, 0] ∧ run (with_ coll5 two) = some (true, 2) ∧
    run (with_ coll5 (descriptor 0xFF00000000006000 0xFF007FFFFFFFFFFC 0xFF00000000005000 0 0)) = some (true, 4) ∧
    (with_ coll5 good).enginesRun = true ∧ coll5.phase = .waiting ∧ run aborted = some (true, 0x12) := by decide +kernel

theorem fixLen_length (n : Nat) (bs : List Byte) : (fixLen n bs).length = n := by simp [fixLen]

/-- A range that was not written reads as before. -/
theorem getBytes_putBytes_out (s : State) (k j n : Nat) (bs : List Byte) (h : j + n ≤ k ∨ k + bs.length ≤ j) :
    (s.putBytes k bs).getBytes j n = s.getBytes j n :=
  List.map_congr_left fun i hi => byte_putBytes_out s k (j + i) bs (by have := List.mem_range.mp hi; omega)

/-- The later bytes of a range. -/
theorem getBytes_drop (s : State) (k n m : Nat) : (s.getBytes k (n + m)).drop n = s.getBytes (k + n) m := by
  simp [State.getBytes, List.range_add, Nat.add_assoc]

/-- The state in which a restore of checkpoint 0 finds the digest of a first chunk of zeros in its slot. -/
def restoring : State :=
  let c : Ckpt := { ring := 3, idx := 0, cmd := command [(0, 9), (8, 1), (16, 0x10000), (24, imageBytes)], restore := true }
  let s := { State.reset with dev := { State.reset.dev with pst := 2, ckpt := some c } }
  s.hostWrite 0x11020 (fixLen 32 (Config.shake256 (s.hostRead 0x12000 chunkBytes) 32))

/-- For clausesCheckpointSteps: the slot carries CKN, and the digest that it holds is that of its bytes. -/
theorem witness_restore_finds_its_chunk :
    (restoring.dev.ckpt.map (fun c => (c.restore, c.next, cmdField c.cmd 32 8, cmdField c.cmd 16 8))) = some (true, 0, 0, 0x10000) ∧
    BitVec.ofNat 64 (0x10000 + slotOffset 0) = 0x11000 ∧ chunkTags 0 = false ∧ leNat (restoring.hostRead 0x11000 8) = 0 ∧
    fixLen 32 (Config.shake256 (restoring.hostRead 0x12000 chunkBytes) 32) = ((restoring.hostRead 0x11000 64).drop 32).take 32 := by
  refine ⟨by decide +kernel, by decide +kernel, by decide +kernel, ?_, ?_⟩
  · have h : restoring.hostRead 0x11000 8 = State.reset.hostRead 0x11000 8 :=
      getBytes_putBytes_out _ _ _ _ _ (.inl (by decide +kernel))
    rw [h]; decide +kernel
  · have h : restoring.hostRead 0x12000 chunkBytes = State.reset.hostRead 0x12000 chunkBytes :=
      getBytes_putBytes_out _ _ _ _ _ (.inr (by rw [fixLen_length]; decide +kernel))
    have hk : hostKey 0x11020 = hostKey 0x11000 + 32 := by decide +kernel
    have hd : (restoring.hostRead 0x11000 64).drop 32 = restoring.getBytes (hostKey 0x11020) 32 := by rw [hk]; exact getBytes_drop _ _ 32 32
    rw [h, hd]
    have e := getBytes_putBytes { State.reset with dev := restoring.dev } (hostKey 0x11020) (fixLen 32 (Config.shake256 (State.reset.hostRead 0x12000 chunkBytes) 32))
    rw [fixLen_length] at e
    exact ((List.take_of_length_le (by simp [State.getBytes])).trans e).symm

end Sys2Proof.Tests
end

/-! SUPPORT. The frame of a SIMT word: what issuing keeps whatever becomes of the word, how a thread passes a word, and what the computing words do;
with the frame of the computing words, the traps, the reset state and the frame of the control words. -/

namespace Sys2Proof.Machine
open Sys2Proof

/-! ## Properties that issuing a word keeps -/

theorem sameRegisters_refl (a : Thread) : sameRegisters a a := ⟨rfl, rfl, rfl, rfl, rfl⟩

theorem sameRegisters_trans {a b c : Thread} (h : sameRegisters a b) (k : sameRegisters b c) : sameRegisters a c := by
  obtain ⟨h1, h2, h3, h4, h5⟩ := h
  obtain ⟨k1, k2, k3, k4, k5⟩ := k
  exact ⟨k1.trans h1, k2.trans h2, k3.trans h3, k4.trans h4, k5.trans h5⟩

/-- Two cores hold the same watchpoints, halt mask, next governor mode and tile slots. -/
def Core.sameFrame (a b : Core) : Prop := b.watch = a.watch ∧ b.whalt = a.whalt ∧ b.govmodeNext = a.govmodeNext ∧ b.tiles = a.tiles

/-- A PROPERTY THAT ISSUING A WORD KEEPS, but for what the word itself does: it survives a change of one of the threads `ts` that leaves its
registers, a hold of a warp, a change of a core that leaves its frame, a count of a mismatch, and the end of the bundle. Every trap, pass and
check is made of these. -/
structure State.Stable (ts : List Nat) (P : State → Prop) : Prop where
  thread : ∀ {z t f}, t ∈ ts → sameRegisters (z.thread t) (f (z.thread t)) → P z → P (z.updThread t f)
  hold : ∀ {z} w c k, P z → P (z.holdWarp w c k)
  core : ∀ {z} c f, (∀ x : Core, x.sameFrame (f x)) → P z → P (z.updCore c f)
  count : ∀ {z} c k, P z → P (z.countMismatch c k)
  endWord : ∀ {z}, P z → P z.endWord

namespace State.Stable
variable {ts : List Nat} {P : State → Prop} {z : State} {t : Nat}

theorem sendHk3 (hP : Stable ts P) (ht : t ∈ ts) (c : Byte) (pc : DWord) (w m : Word) (a : DWord) (k : Bool) (h : P z) :
    P (z.sendHk3 t c pc w m a k) := hP.hold _ _ _ (hP.thread ht ⟨rfl, rfl, rfl, rfl, rfl⟩ h)

theorem takeTrap (hP : Stable ts P) (ht : t ∈ ts) (c : Byte) (pc : DWord) (w m : Word) (a : DWord) (h : P z) :
    P (z.takeTrap t c pc w m a) := by
  rcases z.takeTrap_cases t c pc w m a with ⟨k, _, e⟩ | ⟨_, _, _, e⟩
  · rw [e]; exact hP.sendHk3 ht _ _ _ _ _ _ h
  · rw [e]; exact hP.thread ht ⟨rfl, rfl, rfl, rfl, rfl⟩ h

theorem stepTrap (hP : Stable ts P) (ht : t ∈ ts) (w m : Word) (h : P z) : P (z.stepTrap t w m) := by
  unfold State.stepTrap
  dsimp only
  split
  · split
    · exact hP.thread ht ⟨rfl, rfl, rfl, rfl, rfl⟩ h
    · exact hP.takeTrap ht _ _ _ _ _ h
  · exact h

theorem finishWord (hP : Stable ts P) (ht : t ∈ ts) (k : Bool) (w m : Word) (h : P z) : P (z.finishWord t k w m) := by
  refine hP.stepTrap ht w m (hP.thread ht ?_ h)
  split <;> exact ⟨rfl, rfl, rfl, rfl, rfl⟩

theorem pass (hP : Stable ts P) (ht : t ∈ ts) (k : Bool) (h : P z) : P (z.pass t k) :=
  hP.finishWord ht k _ _ (hP.thread ht ⟨rfl, rfl, rfl, rfl, rfl⟩ h)

theorem foldl {A : Type} {f : State → A → State} {l : List A} (hf : ∀ z, ∀ x ∈ l, P z → P (f z x)) : ∀ {z : State}, P z → P (l.foldl f z) := by
  induction l with
  | nil => exact fun h => h
  | cons x l ih => exact fun h => ih (fun z y hy => hf z y (List.mem_cons_of_mem _ hy)) (hf _ x (List.mem_cons_self ..) h)

theorem trapThreads (hP : Stable ts P) (c : Byte) {us : List Nat} (hu : ∀ u ∈ us, u ∈ ts) (h : P z) : P (z.trapThreads c us) :=
  foldl (fun _ u hm h => hP.takeTrap (hu u hm) _ _ _ _ _ h) h

theorem skips (hP : Stable ts P) {us : List Nat} (hu : ∀ u ∈ us, u ∈ ts) (h : P z) : P (us.foldl State.skip z) :=
  foldl (fun _ u hm h => hP.pass (hu u hm) false h) h

theorem occupy (hP : Stable ts P) (unit n : Nat) (h : P z) : P (z.occupy unit n) := hP.core _ _ (fun _ => ⟨rfl, rfl, rfl, rfl⟩) h

/-- Reporting failed stores keeps a stable property, and only threads of the bundle go on. -/
theorem reportFailed (hP : Stable ts P) (i : Instr) (g : Guard) : ∀ (us : List Nat) {z : State}, (∀ u ∈ us, u ∈ ts) → P z →
    P (z.reportFailed i g us).1 ∧ ∀ u ∈ (z.reportFailed i g us).2, u ∈ us
  | [], _, _, h => ⟨h, fun _ hu => hu⟩
  | x :: us, z, hu, h => by
    have hx := hu x (List.mem_cons_self ..)
    have ih := fun {z : State} => reportFailed hP i g us (z := z) (fun u hm => hu u (List.mem_cons_of_mem _ hm))
    have hcons : ∀ {l : List Nat}, (∀ u ∈ l, u ∈ us) → ∀ u ∈ x :: l, u ∈ x :: us := fun hl u hm =>
      (List.mem_cons.1 hm).elim (fun e => e ▸ List.mem_cons_self ..) (fun hm => List.mem_cons_of_mem _ (hl u hm))
    unfold State.reportFailed
    dsimp only
    split
    · split
      · exact ⟨(ih h).1, hcons (ih h).2⟩
      · rename_i c a fs _
        have hz : P ((z.setThread x { z.thread x with failed := fs }).trapWord x c a) :=
          hP.takeTrap hx _ _ _ _ _ (hP.thread (f := fun th => { th with failed := fs }) hx ⟨rfl, rfl, rfl, rfl, rfl⟩ h)
        exact ⟨(ih hz).1, fun u hm => List.mem_cons_of_mem _ ((ih hz).2 u hm)⟩
    · exact ⟨(ih h).1, hcons (ih h).2⟩

theorem thirdPass {V : Type} [DecidableEq V] (hP : Stable ts P) (p : Pipe) (corrupt : Word → V → V) :
    ∀ (l : List (Nat × V)) {z : State}, P z → P (z.thirdPass p corrupt l).1
  | [], _, h => h
  | (t, v) :: l, z, h => by
    unfold State.thirdPass
    dsimp only
    split
    · exact thirdPass hP p corrupt l h
    · rename_i x m _
      cases m with
      | none =>
        have ih := thirdPass hP p corrupt l h
        split <;> (rename_i e; rw [e] at ih; exact ih)
      | some k =>
        have ih := thirdPass hP p corrupt l (hP.count z.cur.core (p.base + (laneOf t + k) % 32) h)
        split <;> (rename_i e; rw [e] at ih; exact ih)

/-- Checking a word's results keeps a stable property. -/
theorem check {V : Type} [DecidableEq V] (hP : Stable ts P) (p : Pipe) (corrupt : Word → V → V) (outs : List (Nat × V)) (h : P z) :
    P (z.check p corrupt outs).1 := by
  have hd : P z.drawCheck.1 := by
    rcases z.drawCheck_shape with e | e
    · rw [e]; exact h
    · rw [e]; exact hP.core _ _ (fun _ => ⟨rfl, rfl, rfl, rfl⟩) h
  unfold State.check
  dsimp only
  split
  · split
    · exact hd
    · exact hP.thirdPass p corrupt outs hd
  · exact hd

/-- What holds of a thread's registers and survives a change that leaves them is stable. -/
theorem ofRegisters {R : Thread → Prop} (hR : ∀ {a b}, sameRegisters a b → R a → R b) (ts : List Nat) (u : Nat) :
    Stable ts (fun z => R (z.thread u)) where
  thread := fun {z t f} _ hf h => by
    show R ((z.updThread t f).thread u)
    rw [State.updThread_thread]
    split
    · rename_i e; subst e; exact hR hf h
    · exact h
  hold := fun {z} w c k h => by
    show R ((z.holdWarp w c k).thread u)
    rwa [State.holdWarp_thread]
  core := fun _ _ _ h => h
  count := fun _ _ h => h
  endWord := fun h => h

/-- A thread that is none of `ts` stays as it is. -/
theorem other {ts : List Nat} {u : Nat} (hu : u ∉ ts) (th : Thread) : Stable ts (fun z => z.thread u = th) where
  thread := fun {z t f} ht _ h => by
    show (z.updThread t f).thread u = th
    rwa [State.updThread_thread_ne _ (ne_of_mem_of_not_mem ht hu).symm]
  hold := fun {z} w c k h => by
    show (z.holdWarp w c k).thread u = th
    rw [State.holdWarp_thread, h]
  core := fun _ _ _ h => h
  count := fun _ _ h => h
  endWord := fun h => h

end State.Stable

theorem restKept_refl (s : State) : restKept s s :=
  ⟨fun _ => ⟨rfl, rfl, rfl⟩, fun _ => rfl, fun _ => ⟨rfl, rfl, rfl⟩, fun _ => ⟨rfl, rfl, rfl, rfl⟩⟩

/-- R11: memory, tags, tile slots and special registers are what no trap, pass or check changes. -/
theorem State.Stable.rest (s : State) (ts : List Nat) : Stable ts (restKept s) where
  thread := fun _ _ h => h
  hold := fun {z} w c k ⟨hb, ht, hc, hw⟩ => by
    obtain ⟨o, e⟩ := z.holdWarp_shape w c k
    have hsame := fun v => z.holdWarp_warp w c k v
    rw [e] at hsame ⊢
    refine ⟨hb, ht, hc, fun v => ?_⟩
    obtain ⟨h1, h2, h3, h4⟩ := hw v
    rw [hsame v]
    exact ⟨h1, h2, h3, h4⟩
  core := fun {z} c f hf ⟨hb, ht, hc, hw⟩ => by
    have hframe : ∀ x, (z.coreAt x).sameFrame ((z.updCore c f).coreAt x) := fun x => by
      rw [State.updCore_coreAt]
      split
      · rename_i e; subst e; exact hf _
      · exact ⟨rfl, rfl, rfl, rfl⟩
    refine ⟨hb, fun x => (hframe x).2.2.2.trans (ht x), fun x => ?_, hw⟩
    obtain ⟨f1, f2, f3, _⟩ := hframe x
    obtain ⟨c1, c2, c3⟩ := hc x
    exact ⟨f1.trans c1, f2.trans c2, f3.trans c3⟩
  count := fun _ _ h => h
  endWord := fun h => h

/-! ## A word's body, and the threads it acts on -/

/-- A guard's value depends on a thread's predicates alone. -/
theorem guardHolds_of_sameRegisters {a b : Thread} (g : Guard) (h : sameRegisters a b) : guardHolds g b = guardHolds g a := by
  unfold guardHolds Thread.pred
  rw [h.2.1]

/-- The threads that a word acts on after failed stores are reported are participants. -/
theorem State.participant_of_reportFailed {s : State} {i : Instr} {g : Guard} (hg : i.guard? = some g) {t : Nat}
    (ht : t ∈ (s.reportFailed i g s.cur.threads).2.filter (fun t => guardHolds g ((s.reportFailed i g s.cur.threads).1.thread t))) :
    t ∈ s.participants i := by
  obtain ⟨ht, hguard⟩ := List.mem_filter.1 ht
  obtain ⟨hsame, hmem⟩ := (State.Stable.ofRegisters (fun k h => sameRegisters_trans h k) s.cur.threads t).reportFailed i g s.cur.threads
    (fun _ hu => hu) (sameRegisters_refl (s.thread t))
  rw [guardHolds_of_sameRegisters g hsame] at hguard
  exact State.mem_participants.2 ⟨hmem t ht, by simpa [State.guardTrue, hg] using hguard⟩

/-- ISSUING A SIMT WORD keeps a stable property that its body keeps for threads that are participants. -/
theorem State.Stable.simt {s : State} {P : State → Prop} (hP : Stable s.cur.threads P) (i : Instr) (body : State → List Nat → State × Option Byte)
    (hbody : ∀ z ps, (∀ t ∈ ps, t ∈ s.participants i) → P z → P (body z ps).1) (h : P s) : P (s.simt i body) := by
  unfold State.simt
  split
  · exact h
  · rename_i g hg
    split
    · exact h
    · split
      · exact hP.endWord (hP.trapThreads _ (fun _ hu => hu) h)
      · have hr := hP.reportFailed i g s.cur.threads (fun _ hu => hu) h
        have hb := hbody _ _ (fun t ht => State.participant_of_reportFailed hg ht) hr.1
        dsimp only
        split
        · rename_i e
          rw [e] at hb
          exact hP.endWord (hP.skips (fun u hu => hr.2 u (List.mem_filter.1 hu).1) hb)
        · rename_i e
          rw [e] at hb
          exact hP.endWord (hP.trapThreads _ hr.2 hb)

/-! ## Computing words -/

/-- A lane's results lie within a word's destinations: its registers among `ds`, its predicates among `ps`, a flag only of a word that may set
one, and a new %SRSEED only of a word that rounds stochastically (R116, R147, R148). -/
def LaneOut.within (i : Instr) (ds ps : List Nat) (o : LaneOut) : Prop :=
  (∀ e ∈ o.regs, e.1 ∈ ds) ∧ (∀ e ∈ o.preds, e.1 ∈ ps) ∧ (mayFlag i = false → o.flags = 0) ∧ (stochastic i = false → o.seed = none)

/-- The state `s'` is what a computing word makes of `s` whose lanes' results lie within `ds` and `ps`. -/
def ComputesWithin (i : Instr) (ds ps : List Nat) (s s' : State) : Prop :=
  ∃ p unit lat occ f, s' = s.compute i p unit lat occ f ∧ ∀ z qs t, (f z qs t).within i ds ps

theorem LaneOut.one_within (i : Instr) (d : BitVec 6) (v : Word) : (LaneOut.one d v).within i [d.toNat] [] := by
  simp [LaneOut.within, LaneOut.one]

theorem floatOut_within {i : Instr} (d : BitVec 6) (r : Nat × BitVec 5) (h : mayFlag i = true ∨ r.2 = 0) : (floatOut d r).within i [d.toNat] [] := by
  simp only [LaneOut.within, floatOut]
  rcases h with h | h <;> simp [h]

theorem State.intWord_computes (s : State) (i : Instr) (lat occ : Nat) (d : BitVec 6) (f : Thread → Word) :
    ComputesWithin i [d.toNat] [] s (s.intWord i lat occ d f) :=
  ⟨.int, 0, lat, occ, _, rfl, fun _ _ _ => LaneOut.one_within i d _⟩

theorem State.fpWord_computes (s : State) {i : Instr} (lat : Nat) (d : BitVec 6) {f : Thread → Nat × BitVec 5}
    (h : mayFlag i = true ∨ ∀ th, (f th).2 = 0) : ComputesWithin i [d.toNat] [] s (s.fpWord i lat d f) :=
  ⟨.fp, 1, lat, 1, _, rfl, fun _ _ _ => floatOut_within d _ (h.imp_right fun h => h _)⟩

theorem State.sfuWord_computes (s : State) {i : Instr} (d a : BitVec 6) (f : Word → Nat × BitVec 5) (h : mayFlag i = true) :
    ComputesWithin i [d.toNat] [] s (s.sfuWord i d a f) :=
  ⟨.fp, 2, 18, _, _, rfl, fun _ _ _ => floatOut_within d _ (.inl h)⟩

theorem carryOut_within (i : Instr) (m : BitVec 2) (d : BitVec 6) {r : Word × Option Bool} (h : m ≠ 3 → r.2 = none) :
    (carryOut d r).within i [d.toNat] (if m = 3 then [6] else []) := by
  by_cases hm : m = 3
  · cases hr : r.2 <;> simp [LaneOut.within, carryOut, hm, hr]
  · simp [LaneOut.within, carryOut, h hm]

theorem twoBits_cases : ∀ m : BitVec 2, m ≠ 3 → m = 0 ∨ m = 1 ∨ m = 2 := by decide

theorem addWord_carry {m : BitVec 2} (h : m ≠ 3) (a b : Word) (c : Bool) : (addWord m a b c).2 = none := by
  rcases twoBits_cases m h with rfl | rfl | rfl <;> rfl

theorem subWord_carry {m : BitVec 2} (h : m ≠ 3) (a b : Word) (c : Bool) : (subWord m a b c).2 = none := by
  rcases twoBits_cases m h with rfl | rfl | rfl <;> rfl

theorem withSeed_within {i : Instr} (d : BitVec 6) (c : Nat × BitVec 5) (r : BitVec 1) (th : Thread) (hf : mayFlag i = true)
    (hr : stochastic i = (r == 1)) : ({ floatOut d c with seed := srSeed r th } : LaneOut).within i [d.toNat] [] := by
  simp only [LaneOut.within, floatOut, srSeed, hf, hr]
  exact ⟨by simp, by simp, by simp, fun h => if_neg (ne_true_of_eq_false h)⟩

/-- EVERY WORD WITH DESTINATIONS IS A COMPUTING WORD, whose lanes' results lie within them (R116, R121 to R139, R151 to R167). -/
theorem exec_computes {i : Instr} {ds ps : List Nat} (h : destinations i = some (ds, ps)) (s : State) :
    ∃ s', exec i s = .next s' ∧ ComputesWithin i ds ps s s' := by
  cases i
  case vote g m d a =>
    refine ⟨_, rfl, _, _, _, _, _, rfl, fun z qs t => ?_⟩
    have h : (if m = 2 then ([d.toNat], []) else ([], [d.toNat])) = (ds, ps) := Option.some.inj h
    by_cases hm : m = 2
    · obtain ⟨rfl, rfl⟩ := Prod.mk.inj (if_pos hm ▸ h)
      simp only [hm]
      exact LaneOut.one_within _ d _
    · obtain ⟨rfl, rfl⟩ := Prod.mk.inj (if_neg hm ▸ h)
      simp only [beq_false_of_ne hm]
      simp [LaneOut.within]
  all_goals cases h
  case addi | mul | mad | and | or | xor | andn | shl | shr | sar | rot | shlImm | shrImm | sarImm | rotImm | min | max | clz | ctz | popc | brev
      | abs | neg | not | sext8 | sext16 | bfe | bfi | sel | mov | p2v | movi | prmt | nlut => exact ⟨_, rfl, State.intWord_computes ..⟩
  case fadd | fsub | fmul | fma | fmin | fmax | frnd | hadd2 | hmul2 | hfma2 | hmm2 | cvti | mxd =>
    exact ⟨_, rfl, State.fpWord_computes s _ _ (.inl rfl)⟩
  case fabs | fneg => exact ⟨_, rfl, State.fpWord_computes s _ _ (.inr fun _ => rfl)⟩
  case rcp | rsq | sqrt | ex2 | lg2 | sin | cos => exact ⟨_, rfl, State.sfuWord_computes s _ _ _ rfl⟩
  all_goals refine ⟨_, rfl, _, _, _, _, _, rfl, fun z qs t => ?_⟩
  case add g m d a b => exact carryOut_within _ m d (fun hm => addWord_carry hm ..)
  case sub g m d a b => exact carryOut_within _ m d (fun hm => subWord_carry hm ..)
  case add64 | lea => simp [LaneOut.within, pairWrites]
  case setp | setpi | fsetp => simp [LaneOut.within, mayFlag]
  case v2p => simp [LaneOut.within, List.range_succ]
  case shfl => exact LaneOut.one_within ..
  case cvtf g m d a f r u w =>
    dsimp only
    split
    · exact floatOut_within d _ (.inl rfl)
    · exact withSeed_within d _ r _ rfl rfl
  case cvtp g m d a f r u w => exact withSeed_within d _ r _ rfl rfl
  case mxq g m d a f r =>
    dsimp only
    split <;> exact withSeed_within d _ r _ rfl rfl

theorem LaneOut.on_within {i : Instr} {ds ps : List Nat} (m : Word) {o : LaneOut} (h : o.within i ds ps) : (LaneOut.on m o).within i ds ps := by
  obtain ⟨hregs, hpreds, hflags, hseed⟩ := h
  have hkeys := LaneOut.on_keys m o (D := ds) (Q := ps) ⟨hregs, hpreds⟩
  have hsame : (LaneOut.on m o).flags = o.flags ∧ (LaneOut.on m o).seed = o.seed := by
    unfold LaneOut.on
    split <;> exact ⟨rfl, rfl⟩
  exact ⟨hkeys.1, hkeys.2, fun hf => hsame.1.trans (hflags hf), fun hr => hsame.2.trans (hseed hr)⟩

/-- A COMPUTING WORD keeps a stable property that survives the write of results within the word's destinations to participants, whatever
becomes of the word. -/
theorem State.Stable.compute {s : State} {P : State → Prop} (hP : Stable s.cur.threads P) {i : Instr} {ds qs : List Nat} (p : Pipe) (unit lat occ : Nat)
    {f : State → List Nat → Nat → LaneOut} (hf : ∀ z ps t, (f z ps t).within i ds qs)
    (hwrite : ∀ z t (o : LaneOut) n ms, t ∈ s.participants i → o.within i ds qs → P z → P (z.updThread t (fun th => (th.write o).readyFrom n ms)))
    (h : P s) : P (s.compute i p unit lat occ f) := by
  refine hP.simt i _ (fun z ps hps hz => ?_) h
  have hc := hP.check p LaneOut.on (ps.map (fun t => (t, f z ps t))) hz
  have hall := fun xs => State.check_all z p LaneOut.on (ps.map (fun t => (t, f z ps t)))
    (fun o => o.1 ∈ s.participants i ∧ o.2.within i ds qs) (fun m _ _ hv => ⟨hv.1, LaneOut.on_within m hv.2⟩)
    (fun o ho => by obtain ⟨t, ht, rfl⟩ := List.mem_map.1 ho; exact ⟨hps t ht, hf z ps t⟩) (xs := xs)
  split
  · rename_i e
    rw [e] at hc
    exact hP.occupy _ _ hc
  · rename_i outs n e
    rw [e] at hc
    have hw := hall outs (by rw [e])
    refine foldl (fun y o ho hy => ?_) (hP.occupy _ _ hc)
    exact hP.pass (State.mem_participants.1 (hw o ho).1).1 _ (hwrite _ _ _ _ _ (hw o ho).1 (hw o ho).2 hy)

/-- What a computing word leaves of a thread's registers, whatever becomes of it: those that are none of its destinations, %FPMODE, the flags that
were set, every flag if it sets none, and %SRSEED if it does not round stochastically (R116, R147, R148). -/
def Thread.keepsBut (i : Instr) (ds ps : List Nat) (a b : Thread) : Prop :=
  (∀ n, n ∉ ds → b.reg n = a.reg n) ∧ (∀ p, p ∉ ps → b.pred p = a.pred p) ∧ b.fpmode = a.fpmode ∧ b.fpflags &&& a.fpflags = a.fpflags ∧
  (mayFlag i = false → b.fpflags = a.fpflags) ∧ (stochastic i = false → b.srseed = a.srseed)

theorem Thread.keepsBut.refl (i : Instr) (ds ps : List Nat) (a : Thread) : a.keepsBut i ds ps a :=
  ⟨fun _ _ => rfl, fun _ _ => rfl, rfl, BitVec.and_self, fun _ => rfl, fun _ => rfl⟩

theorem Thread.keepsBut.trans {i : Instr} {ds ps : List Nat} {a b c : Thread} (h : a.keepsBut i ds ps b) (k : b.keepsBut i ds ps c) :
    a.keepsBut i ds ps c := by
  obtain ⟨h1, h2, h3, h4, h5, h6⟩ := h
  obtain ⟨k1, k2, k3, k4, k5, k6⟩ := k
  refine ⟨fun n hn => (k1 n hn).trans (h1 n hn), fun p hp => (k2 p hp).trans (h2 p hp), k3.trans h3, ?_, fun hf => (k5 hf).trans (h5 hf),
    fun hr => (k6 hr).trans (h6 hr)⟩
  rw [← h4, ← BitVec.and_assoc, k4]

theorem Thread.keepsBut.of_sameRegisters {a b : Thread} (h : sameRegisters a b) (i : Instr) (ds ps : List Nat) : a.keepsBut i ds ps b := by
  obtain ⟨h1, h2, h3, h4, h5⟩ := h
  exact ⟨fun n _ => by unfold Thread.reg; rw [h1], fun p _ => by unfold Thread.pred; rw [h2], h4, by rw [h3, BitVec.and_self], fun _ => h3,
    fun _ => h5⟩

/-- Results within a word's destinations leave the rest. -/
theorem Thread.write_keepsBut (th : Thread) {i : Instr} {ds ps : List Nat} {o : LaneOut} (h : o.within i ds ps) (n : Nat) (ms : List Nat) :
    th.keepsBut i ds ps ((th.write o).readyFrom n ms) := by
  obtain ⟨hregs, hpreds, hflags, hseed⟩ := h
  obtain ⟨_, _, wf, wm, ws⟩ := th.write_data o
  have hk := th.write_keeps o hregs hpreds
  refine ⟨hk.1, fun p hp => ?_, wm, ?_, fun hf => ?_, fun hr => ?_⟩
  · by_cases h7 : p < 7
    · exact hk.2 p h7 hp
    · unfold Thread.pred
      rw [BitVec.getLsbD_of_ge _ _ (by omega), BitVec.getLsbD_of_ge _ _ (by omega)]
  · show (th.write o).fpflags &&& th.fpflags = th.fpflags
    rw [wf]
    ext j
    simp +contextual
  · show (th.write o).fpflags = th.fpflags
    rw [wf, hflags hf]
    exact BitVec.or_zero
  · show (th.write o).srseed = th.srseed
    rw [ws, hseed hr]; rfl

/-! ## Passing a word -/

/-- A thread behind a word that it passes to `v`: under the loop-back rule, parked if the word carries the marker and a result is outstanding. -/
def Thread.passed (th : Thread) (k : Bool) (v : DWord) : Thread := if k && th.waiting then { th.goTo v with park := .marker } else th.goTo v

/-- A steady thread passes its word with no trap to follow. -/
theorem State.pass_thread (s : State) (t : Nat) (k : Bool) (h : s.steady t) : (s.pass t k).thread t = (s.thread t).passed k s.cur.nextPc := by
  unfold State.pass State.finish
  rw [State.finishWord_thread]
  · rw [State.updThread_thread_same, State.updThread_thread_same]; rfl
  · rcases h with h | h
    · exact .inl h
    · exact .inr (by rw [State.updThread_thread_same]; exact h)

/-- Steadiness is of the thread's warp and the thread alone. -/
theorem State.steady_of_eq {s z : State} {t : Nat} (hw : (s.warp (warpOf t)).sameBut (z.warp (warpOf t))) (ht : z.thread t = s.thread t)
    (h : s.steady t) : z.steady t := by
  unfold State.steady State.warpOfThread at *
  rwa [hw.sstep, ht]

theorem State.skips_thread_ne {s : State} {t : Nat} {ts : List Nat} (h : ∀ x ∈ ts, x ≠ t) : (ts.foldl State.skip s).thread t = s.thread t :=
  State.foldl_thread_ne (key := id) (fun s _ hx => s.pass_thread_ne (Ne.symm hx) false) ts s h

/-- Threads whose guard is false advance, each once. -/
theorem State.skips_thread {t : Nat} : ∀ (ts : List Nat) (s : State), ts.Nodup → t ∈ ts → s.steady t →
    (ts.foldl State.skip s).thread t = (s.thread t).goTo s.cur.nextPc
  | [], _, _, ht, _ => absurd ht (List.not_mem_nil)
  | x :: ts, s, hn, ht, hs => by
    obtain ⟨hx, hn⟩ := List.nodup_cons.1 hn
    show (ts.foldl State.skip (s.skip x)).thread t = _
    by_cases e : x = t
    · subst e
      rw [State.skips_thread_ne (fun _ hy => ne_of_mem_of_not_mem hy hx)]
      exact s.pass_thread x false hs
    · have hne : (s.skip x).thread t = s.thread t := s.pass_thread_ne (Ne.symm e) false
      have hsteady : (s.skip x).steady t := State.steady_of_eq (s.pass_warp x false _) hne hs
      have ih := State.skips_thread ts (s.skip x) hn ((List.mem_cons.1 ht).resolve_left (Ne.symm e)) hsteady
      rwa [((State.onlyThreads.refl s).skip x).cur, hne] at ih

/-- The loop-back rule of R91 is what a thread that continues at an address does. -/
theorem loopsBack_loopBack (depth : Nat) (h : Bool) : ∀ (l : List LoopEntry) (v : DWord),
    loopsBack depth h l v (loopBack depth h l v).1 (loopBack depth h l v).2
  | [], _ => ⟨rfl, rfl⟩
  | e :: es, v => by
    have hacts : (e.acts depth h && v == e.stop) = true ↔ e.depth = depth ∧ e.h = h ∧ v = e.stop := by simp [LoopEntry.acts, and_assoc]
    unfold loopsBack loopBack
    refine ⟨fun hn => ?_, fun ha hc => ?_, fun ha hc => ?_⟩
    · rw [if_neg (fun hy => hn (hacts.1 hy))]; exact ⟨rfl, rfl⟩
    · rw [if_pos (hacts.2 ha), if_pos hc]; exact ⟨rfl, rfl⟩
    · rw [if_pos (hacts.2 ha), if_neg (by omega)]; exact loopsBack_loopBack depth h es v

theorem Thread.goTo_goesOnAt (th : Thread) (v : DWord) : goesOnAt th (th.goTo v) v := loopsBack_loopBack th.depth th.h th.lstk v

theorem Thread.passed_goesOnAt (th : Thread) (k : Bool) (v : DWord) : goesOnAt th (th.passed k v) v := by
  unfold Thread.passed
  split <;> exact th.goTo_goesOnAt v

/-- Passing a word changes a thread's place and park alone. -/
theorem Thread.passed_eq (th : Thread) (k : Bool) (v : DWord) :
    th.passed k v = { th with pc := (th.passed k v).pc, lstk := (th.passed k v).lstk, park := (th.passed k v).park } := by
  unfold Thread.passed
  split <;> rfl

theorem Thread.passed_park (th : Thread) (k : Bool) (v : DWord) :
    (th.passed k v).park = if k = true ∧ th.outs ≠ [] then .marker else th.park := by
  unfold Thread.passed Thread.waiting
  by_cases h : k = true ∧ th.outs ≠ []
  · rw [if_pos h, if_pos (by simp [h])]
  · rw [if_neg h, if_neg (by simpa using h)]; rfl

theorem marked_iff (i : Instr) : marked i ↔ markOf i = true := by
  unfold marked markOf
  cases i.guard? <;> simp

/-- A thread that holds other results and passes its word: it goes on under the loop-back rule, keeps everything but its results, place and park,
and parks if the word carries the marker and a result is outstanding (R31, R91). -/
theorem Thread.passed_with_results (th : Thread) (rs : Tab Word) (qs : BitVec 7) (fl : BitVec 5) (sd : Word) (rd : Tab Nat) (k : Bool) (v : DWord) :
    let b := Thread.passed { th with regs := rs, preds := qs, fpflags := fl, srseed := sd, rdy := rd } k v
    goesOnAt th b v ∧ sameException th b ∧
    b = { th with regs := b.regs, preds := b.preds, fpflags := b.fpflags, srseed := b.srseed, rdy := b.rdy, pc := b.pc, lstk := b.lstk, park := b.park } ∧
    b.park = if k = true ∧ th.outs ≠ [] then .marker else th.park := by
  refine ⟨Thread.passed_goesOnAt { th with regs := rs, preds := qs, fpflags := fl, srseed := sd, rdy := rd } k v, ?_, ?_, Thread.passed_park _ k v⟩
  · rw [Thread.passed_eq]; exact ⟨rfl, rfl, rfl, rfl, rfl, rfl, rfl, rfl⟩
  · rw [Thread.passed_eq]

/-! ## A computing word that takes no trap -/

/-- What a lane's results make of a thread: registers, predicates, flags, %SRSEED and interlocks change. -/
theorem Thread.write_eq (th : Thread) (o : LaneOut) (n : Nat) (ms : List Nat) :
    (th.write o).readyFrom n ms = { th with
      regs := ((th.write o).readyFrom n ms).regs, preds := ((th.write o).readyFrom n ms).preds, fpflags := ((th.write o).readyFrom n ms).fpflags,
      srseed := ((th.write o).readyFrom n ms).srseed, rdy := ((th.write o).readyFrom n ms).rdy } := by
  unfold Thread.write
  rw [Thread.setPreds_eq o.preds, Thread.setRegs_eq o.regs]
  rfl

/-- Writing back a list of results changes threads it names, and of warps only HK3's hold. -/
theorem State.writeBacks_frame (s : State) (i : Instr) (lat : Nat) (outs : List (Nat × LaneOut)) :
    s.onlyThreads (outs.foldl (fun s o => s.writeBack i lat o) s) ∧
    (∀ v, (s.warp v).sameBut ((outs.foldl (fun s o => s.writeBack i lat o) s).warp v)) ∧
    ∀ u, (∀ o ∈ outs, o.1 ≠ u) → (outs.foldl (fun s o => s.writeBack i lat o) s).thread u = s.thread u :=
  ⟨State.onlyThreads.foldl (fun _ _ o h => State.writeBack_onlyThreads h i lat o) outs (.refl s),
    fun _ => State.foldl_warp (fun s o => s.writeBack_warp i lat o _) outs s,
    fun _ h => State.foldl_thread_ne (key := Prod.fst) (fun s o ho => s.writeBack_thread_ne ho i lat o.2) outs s h⟩

/-- A steady participant passes the word with its results. -/
theorem State.writeBack_thread (s : State) (t : Nat) (i : Instr) (lat : Nat) (o : LaneOut) (h : s.steady t) :
    (s.writeBack i lat (t, o)).thread t =
      (((s.thread t).write o).readyFrom (s.cycleOf s.cur.core + lat) (o.marks i)).passed (markOf i) s.cur.nextPc := by
  unfold State.writeBack
  rw [State.pass_thread]
  · rw [State.updThread_thread_same]; rfl
  · rcases h with h | h
    · exact .inl h
    · right
      rw [State.updThread_thread_same, Thread.write_eq]
      exact h

section
variable {s : State} {i : Instr} {g : Guard} (hg : i.guard? = some g) (h : s.executes i) (hs : s.soundCore) (p : Pipe) (unit lat occ : Nat)
  (f : State → List Nat → Nat → LaneOut)
include hg h hs

/-- On a sound core a computing word that executes writes every participant's results back, and then the others advance. -/
theorem State.compute_runs : s.compute i p unit lat occ f =
    ((s.bystanders i).foldl State.skip (((s.participants i).map (fun t => (t, f s (s.participants i) t))).foldl
      (fun z o => z.writeBack i (lat + (s.passes - 1)) o) (s.drawCheck.1.occupy unit (occ * s.passes)))).endWord := by
  unfold State.compute
  rw [State.simt_executes hg h]
  simp only [State.check_sound hs p LaneOut.on_zero]

theorem State.compute_thread_of_bystander {u : Nat} (hu : u ∈ s.cur.threads) (hp : u ∉ s.participants i) (hst : s.steady u) :
    (s.compute i p unit lat occ f).thread u = (s.thread u).goTo s.cur.nextPc := by
  rw [State.compute_runs hg h hs]
  obtain ⟨honly, hwarp, hother⟩ := State.writeBacks_frame (s.drawCheck.1.occupy unit (occ * s.passes)) i (lat + (s.passes - 1))
    ((s.participants i).map (fun t => (t, f s (s.participants i) t)))
  have hthread := (hother u (fun o ho => by
    obtain ⟨t, ht, rfl⟩ := List.mem_map.1 ho
    exact ne_of_mem_of_not_mem ht hp)).trans (s.drawCheck_thread u)
  have hmem : u ∈ s.bystanders i := List.mem_filter.2 ⟨hu, by simpa [State.mem_participants, hu] using hp⟩
  have hsame : (s.warp (warpOf u)).sameBut _ := (s.drawCheck_warp _ ▸ hwarp (warpOf u) : _)
  rw [State.endWord_thread, State.skips_thread (s.bystanders i) _ (List.Nodup.filter _ h.2.1) hmem (State.steady_of_eq hsame hthread hst),
    hthread, honly.cur, State.occupy_cur, State.drawCheck_cur]

theorem State.compute_thread_of_participant {u : Nat} (hu : u ∈ s.participants i) (hst : s.steady u) : ∃ n,
    (s.compute i p unit lat occ f).thread u = (((s.thread u).write (f s (s.participants i) u)).readyFrom n ((f s (s.participants i) u).marks i)).passed
      (markOf i) s.cur.nextPc := by
  rw [State.compute_runs hg h hs]
  obtain ⟨z, honly, hthread, hwarp, hz⟩ := State.writeBacks_thread i (lat + (s.passes - 1)) (f s (s.participants i)) u (s.participants i)
    (s.drawCheck.1.occupy unit (occ * s.passes)) (State.participants_nodup h) hu
  have hthread := hthread.trans (s.drawCheck_thread u)
  have hsame : (s.warp (warpOf u)).sameBut _ := (s.drawCheck_warp _ ▸ hwarp (warpOf u) : _)
  refine ⟨z.cycleOf z.cur.core + (lat + (s.passes - 1)), ?_⟩
  rw [State.endWord_thread, State.skips_thread_ne (State.not_bystander hu), hz, State.writeBack_thread _ _ _ _ _ (State.steady_of_eq hsame hthread hst),
    hthread, honly.cur, State.occupy_cur, State.drawCheck_cur]

end

theorem destinations_guard {i : Instr} {ds ps : List Nat} (h : destinations i = some (ds, ps)) : ∃ g, i.guard? = some g := by
  cases i
  all_goals try cases h -- a word without destinations
  all_goals exact ⟨_, rfl⟩

/-- Settles O23: every word with destinations is a computing word, and what it leaves alone is stable under issuing; on a sound core each thread's
next state is known exactly. -/
theorem computingWordsWriteOnlyTheirDestinations : Obligations.ComputingWordsWriteOnlyTheirDestinations := by
  intro i ds ps s hd
  obtain ⟨s', he, p, unit, lat, occ, f, rfl, hf⟩ := exec_computes hd s
  have hin : ∀ {t}, t ∈ s.participants i → t ∈ s.cur.threads := fun ht => (State.mem_participants.1 ht).1
  refine ⟨_, he, ?_, fun u => ?_, fun u hu => ?_, fun hx hs hst => ⟨fun u hu => ?_, fun u hu hp => ?_, fun u hu => ?_⟩⟩
  · exact (State.Stable.rest s _).compute p unit lat occ hf (fun _ _ _ _ _ _ _ h => h) (restKept_refl s)
  · exact (State.Stable.ofRegisters (R := (s.thread u).keepsBut i ds ps) (fun k h => h.trans (.of_sameRegisters k i ds ps)) _ u).compute p unit lat occ hf
      (fun z t o n ms _ ho h => by
        show (s.thread u).keepsBut i ds ps ((z.updThread t _).thread u)
        rw [State.updThread_thread]
        split
        · rename_i e; subst e; exact h.trans (Thread.write_keepsBut _ ho n ms)
        · exact h) (.refl i ds ps _)
  · exact (State.Stable.ofRegisters (R := sameRegisters (s.thread u)) (fun k h => sameRegisters_trans h k) _ u).compute p unit lat occ hf
      (fun z t o n ms ht _ h => by
        show sameRegisters (s.thread u) ((z.updThread t _).thread u)
        rwa [State.updThread_thread_ne _ (ne_of_mem_of_not_mem ht hu).symm]) (sameRegisters_refl _)
  · exact (State.Stable.other hu (s.thread u)).compute p unit lat occ hf
      (fun z t o n ms ht _ h => by
        show (z.updThread t _).thread u = s.thread u
        rwa [State.updThread_thread_ne _ (ne_of_mem_of_not_mem (hin ht) hu).symm]) rfl
  · obtain ⟨g, hg⟩ := destinations_guard hd
    rw [onlyAdvances, State.compute_thread_of_bystander hg hx hs p unit lat occ f hu hp (hst u hu)]
    exact ⟨(s.thread u).goTo_goesOnAt _, rfl⟩
  · obtain ⟨g, hg⟩ := destinations_guard hd
    obtain ⟨n, e⟩ := State.compute_thread_of_participant hg hx hs p unit lat occ f hu (hst u (hin hu))
    rw [Thread.write_eq] at e
    rw [e, marked_iff]
    obtain ⟨hgoes, hexc, hkeeps, hpark⟩ := Thread.passed_with_results (s.thread u) _ _ _ _ _ (markOf i) s.cur.nextPc
    refine ⟨hgoes, hexc, hkeeps, fun hm ho => hpark.trans (if_pos ⟨hm, ho⟩), fun hn => hpark.trans (if_neg fun hy => ?_)⟩
    exact hn.elim (fun hm => hm hy.1) (fun ho => hy.2 ho)

/-! ## Taking a trap -/

/-- HK3 holds the warp and will kill it (R400, R401). -/
def Warp.toKill (x : Warp) : Prop := x.held = true ∧ x.hkKill = true ∧ x.hkRestart = false

theorem Warp.hold_toKill (x : Warp) (c : Byte) : (x.hold c true).toKill := by
  unfold Warp.hold
  split
  · rename_i h
    simp only [Bool.and_eq_true, Bool.not_eq_true'] at h
    exact ⟨h.1, Bool.or_true _, h.2⟩
  · exact ⟨rfl, rfl, rfl⟩

/-- A warp that is to be killed stays so. -/
theorem Warp.toKill.hold {x : Warp} (h : x.toKill) (c : Byte) (k : Bool) : (x.hold c k).toKill := by
  obtain ⟨hheld, hkill, hrestart⟩ := h
  unfold Warp.hold
  rw [if_pos (by simp [hheld, hrestart])]
  exact ⟨hheld, by simp [hkill], hrestart⟩

theorem State.holdWarp_warp_eq (s : State) (w : Nat) (c : Byte) (k : Bool) (v : Nat) :
    (s.holdWarp w c k).warp v = if v = w then (s.warp w).hold c k else s.warp v := by
  obtain ⟨o, e⟩ := s.holdWarp_shape w c k
  rw [e]
  exact s.updWarp_warp w v (fun x => x.hold c k)

/-- R396, R398, R400: a trap whose cause is none of HK3's kills the warp of a thread in handler mode or without a handler, and otherwise enters the
handler. -/
theorem State.takeTrap_of_handled (s : State) (t : Nat) {c : Byte} (hc : toHk3 c = false) (pc : DWord) (w m : Word) (a : DWord) :
    s.takeTrap t c pc w m a =
      if (s.thread t).h = true ∨ s.traphOf t = 0 then s.sendHk3 t c pc w m a true
      else s.updThread t (fun th =>
        { th.withFrame c pc w m a with edepth := th.depth, h := true, dm := false, pc := s.traphOf t, park := .none, wdog := none, asked := {},
                                       readyAt := s.cycleOf (coreOfThread t) + 4 }) := by
  unfold State.takeTrap
  simp only [hc, Bool.false_eq_true, if_false, beq_iff_eq]
  by_cases hh : (s.thread t).h = true
  · rw [if_pos hh, if_pos (.inl hh)]
  · by_cases h0 : s.traphOf t = 0
    · rw [if_neg hh, if_pos h0, if_pos (.inr h0)]
    · rw [if_neg hh, if_neg h0, if_neg (by tauto)]

theorem State.sendHk3_thread (s : State) (t : Nat) (c : Byte) (pc : DWord) (w m : Word) (a : DWord) (k : Bool) :
    (s.sendHk3 t c pc w m a k).thread t =
      { (s.thread t).withFrame c pc w m a with outs := [], park := .none, wdog := none, asked := {} } := by
  rw [State.sendHk3, State.holdWarp_thread, State.updThread_thread_same]

/-- That a warp is to be killed is stable. -/
theorem State.Stable.toKill (ts : List Nat) (v : Nat) : Stable ts (fun z => (z.warp v).toKill) where
  thread := fun _ _ h => h
  hold := fun {z} w c k h => by
    show ((z.holdWarp w c k).warp v).toKill
    rw [State.holdWarp_warp_eq]
    split
    · rename_i e; subst e; exact h.hold c k
    · exact h
  core := fun _ _ _ h => h
  count := fun _ _ h => h
  endWord := fun h => h

/-- Thread `t` of the bundle of `s` has taken a trap there: it is as the trap leaves it, and a trap that a handler cannot take kills its warp. -/
def State.tookTrap (s : State) (t : Nat) (c : Byte) (a : DWord) (z : State) : Prop :=
  z.thread t = (s.trapWord t c a).thread t ∧ ((s.thread t).h = true ∨ s.traphOf t = 0 → (z.warp (warpOf t)).toKill)

/-- That a thread has taken a trap is stable under what becomes of other threads. -/
theorem State.Stable.tookTrap (s : State) {ts : List Nat} {t : Nat} (ht : t ∉ ts) (c : Byte) (a : DWord) : Stable ts (s.tookTrap t c a) where
  thread := fun hu hf h => ⟨(other ht _).thread hu hf h.1, h.2⟩
  hold := fun w c k h => ⟨(other ht _).hold w c k h.1, fun hk => (Stable.toKill ts _).hold w c k (h.2 hk)⟩
  core := fun _ _ _ h => h
  count := fun _ _ h => h
  endWord := fun h => h

/-- R396, R398, R400: what a trap that has been taken shows. -/
theorem State.trapped_of_tookTrap {s z : State} {t : Nat} {c : Byte} {a : DWord} (hc : toHk3 c = false) (h : s.tookTrap t c a z) : trapped s z t c a := by
  obtain ⟨hthread, hkill⟩ := h
  have hwarp : (s.thread t).h = true ∨ s.traphOf t = 0 → (z.warpOfThread t).held = true ∧
      ((s.warpOfThread t).held = false → (z.warpOfThread t).hkKill = true) := fun hk => ⟨(hkill hk).1, fun _ => (hkill hk).2.1⟩
  have hframe := hthread
  rw [State.trapWord, State.takeTrap_of_handled s t hc] at hframe
  unfold trapped
  split at hframe
  · rename_i hk
    rw [hframe, State.sendHk3_thread]
    exact ⟨rfl, rfl, rfl, rfl, rfl, ⟨rfl, rfl, rfl, rfl, rfl⟩, rfl, rfl, fun hk => ⟨⟨rfl, rfl⟩, hwarp hk⟩,
      fun hh h0 => (hk.elim (fun hy => Bool.false_ne_true (hh.symm.trans hy)) h0).elim⟩
  · rename_i hk
    rw [hframe, State.updThread_thread_same]
    exact ⟨rfl, rfl, rfl, rfl, rfl, ⟨rfl, rfl, rfl, rfl, rfl⟩, rfl, rfl, fun hy => (hk hy).elim, fun _ _ => ⟨rfl, rfl, rfl, rfl⟩⟩

/-- Where a thread's trap goes does not depend on other threads' traps. -/
theorem State.traphOf_of_onlyThreads {s z : State} (h : s.onlyThreads z) {t : Nat} (hw : (s.warp (warpOf t)).sameBut (z.warp (warpOf t))) :
    z.traphOf t = s.traphOf t := by
  unfold State.traphOf State.viewOf State.view State.launch? State.part State.warpOfThread
  rw [hw, h]

/-- A thread of the bundle that takes a trap of its own core, after traps of other threads. -/
theorem State.trapWord_tookTrap {s z : State} (h : s.onlyThreads z) {t : Nat} (hw : (s.warp (warpOf t)).sameBut (z.warp (warpOf t)))
    (ht : z.thread t = s.thread t) {c : Byte} (hc : toHk3 c = false) (a : DWord) : s.tookTrap t c a (z.trapWord t c a) := by
  have htraph := State.traphOf_of_onlyThreads h hw
  have hcycle : z.cycleOf (coreOfThread t) = s.cycleOf (coreOfThread t) := by unfold State.cycleOf; rw [h.coreAt]
  unfold State.tookTrap State.trapWord
  rw [State.takeTrap_of_handled z t hc, State.takeTrap_of_handled s t hc, h.cur, htraph, ht, hcycle]
  split
  · refine ⟨?_, fun _ => ?_⟩
    · rw [State.sendHk3_thread, State.sendHk3_thread, ht]
    · rw [State.sendHk3, State.holdWarp_warp_eq, if_pos rfl]
      exact Warp.hold_toKill ..
  · rename_i hk
    exact ⟨by rw [State.updThread_thread_same, State.updThread_thread_same, ht], fun hy => (hk hy).elim⟩

/-- Threads that trap together have each taken the trap. -/
theorem State.trapThreads_tookTrap {s : State} {t : Nat} {c : Byte} (hc : toHk3 c = false) : ∀ (ts : List Nat) {z : State}, s.onlyThreads z →
    (∀ v, (s.warp v).sameBut (z.warp v)) → z.thread t = s.thread t → ts.Nodup → t ∈ ts → s.tookTrap t c 0 (z.trapThreads c ts)
  | [], _, _, _, _, _, ht => absurd ht (List.not_mem_nil)
  | x :: ts, z, h, hw, he, hn, ht => by
    obtain ⟨hx, hn⟩ := List.nodup_cons.1 hn
    show s.tookTrap t c 0 ((z.trapWord x c 0).trapThreads c ts)
    by_cases e : x = t
    · subst e
      exact (Stable.tookTrap s hx c 0).trapThreads c (fun _ hu => hu) (State.trapWord_tookTrap h (hw _) he hc 0)
    · exact State.trapThreads_tookTrap hc ts (h.trapWord x c 0) (fun v => (hw v).trans (z.takeTrap_warp x c _ _ _ 0 v))
        ((z.takeTrap_thread_ne (Ne.symm e) ..).trans he) hn ((List.mem_cons.1 ht).resolve_left (Ne.symm e))

/-! ## TRAP, BKPT and the traps of decoding -/

/-- Lanes that all trap, trap together. -/
theorem State.eachLane_trap (k : Bool) (c : Byte) : ∀ (ts : List Nat) (s : State), s.eachLane k (fun s _ => (s, .trap c 0)) ts = s.trapThreads c ts
  | [], _ => rfl
  | t :: ts, s => State.eachLane_trap k c ts (s.trapWord t c 0)

/-- A word that only traps its participants has each of them take the trap. -/
theorem State.laneWord_trap {s : State} {i : Instr} {g : Guard} (hg : i.guard? = some g) (h : s.executes i) {t : Nat} (ht : t ∈ s.participants i)
    {c : Byte} (hc : toHk3 c = false) : trapped s (s.laneWord i (fun s _ => (s, .trap c 0))) t c 0 := by
  refine State.trapped_of_tookTrap hc ?_
  unfold State.laneWord
  rw [State.simt_executes hg h, State.eachLane_trap]
  have hstable := State.Stable.tookTrap s (ts := s.bystanders i) (t := t) (fun hb => State.not_bystander ht t hb rfl) c 0
  exact hstable.endWord (hstable.skips (fun _ hu => hu)
    (State.trapThreads_tookTrap hc _ (.refl s) (fun _ => .refl _) rfl (State.participants_nodup h) ht))

/-- A trap of the whole bundle is taken by each of its threads, and changes no memory. -/
theorem State.trapBundle_trapped {s : State} (hn : s.cur.threads.Nodup) {t : Nat} (ht : t ∈ s.cur.threads) {c : Byte} (hc : toHk3 c = false) :
    trapped s (s.trapBundle c).endWord t c 0 ∧ ∀ k, (s.trapBundle c).endWord.byte k = s.byte k :=
  ⟨State.trapped_of_tookTrap hc (State.trapThreads_tookTrap hc _ (.refl s) (fun _ => .refl _) rfl hn ht),
    ((State.onlyThreads.refl s).trapThreads c s.cur.threads).byte⟩

theorem mem_isEmpty_of_thread {s : State} {t : Nat} (ht : t ∈ s.cur.threads) : s.cur.mem.isEmpty = false := by
  cases hm : s.cur.mem with
  | nil => simp [Issue.threads, hm] at ht
  | cons => rfl

/-- EVERY WORD WITH A GUARD IS ISSUED AS A SIMT WORD (R11). -/
theorem exec_simt {i : Instr} {g : Guard} (hg : i.guard? = some g) (s : State) : ∃ body, exec i s = .next (s.simt i body) := by
  rcases hd : destinations i with _ | ⟨ds, ps⟩
  · cases i
    all_goals try cases hg -- an event or a word without a guard
    all_goals try cases hd -- a computing word
    all_goals exact ⟨_, rfl⟩
  · obtain ⟨s', he, p, unit, lat, occ, f, rfl, _⟩ := exec_computes hd s
    exact ⟨_, he⟩

/-- R37, R58: a word with a decode trap has every thread of its bundle take it. -/
theorem exec_of_decodeCause {i : Instr} {g : Guard} (hg : i.guard? = some g) {s : State} (hm : s.cur.mem.isEmpty = false) {c : Byte}
    (hc : i.decodeCause s.cur.pfx s.bundleAllot = some c) : exec i s = .next (s.trapBundle c).endWord := by
  obtain ⟨body, he⟩ := exec_simt hg s
  rw [he, State.simt]
  simp [hg, hm, hc]

theorem eq_or_of_ite_eq_some {A : Type} {p : Prop} [Decidable p] {a c : A} {x : Option A} (h : (if p then some a else x) = some c) :
    c = a ∨ x = some c := by
  split at h
  · exact .inl (Option.some.inj h).symm
  · exact .inr h

/-- R58: decoding traps with causes 0x02 and 0x01. -/
theorem decodeCause_cases {i : Instr} {p : Prefixes} {m : Nat} {c : Byte} (h : i.decodeCause p m = some c) : c = 2 ∨ c = 1 := by
  unfold Instr.decodeCause at h
  rcases eq_or_of_ite_eq_some h with h | h
  · exact .inl h
  rcases eq_or_of_ite_eq_some h with h | h
  · exact .inl h
  rcases eq_or_of_ite_eq_some h with h | h
  · exact .inl h
  rcases eq_or_of_ite_eq_some h with h | h
  · exact .inr h
  · exact nomatch h

theorem toHk3_of_decodeCause {i : Instr} {p : Prefixes} {m : Nat} {c : Byte} (h : i.decodeCause p m = some c) : toHk3 c = false := by
  rcases decodeCause_cases h with rfl | rfl <;> rfl

/-- R30, R37: a word whose guard is p7 negated takes cause 0x02. -/
theorem decodeCause_of_never {i : Instr} {g : Guard} (hg : i.guard? = some g) (hn : g.n = true) (hp : g.p = 7) (p : Prefixes) (m : Nat) :
    i.decodeCause p m = some 2 := by
  unfold Instr.decodeCause
  simp [hg, Guard.ok, hn, hp]

/-- Settles O27: TRAP and BKPT are lane words that trap their participants, and a decode trap is one of the whole bundle. -/
theorem trapsAreTaken : Obligations.TrapsAreTaken := by
  refine ⟨fun g c s t => ⟨fun h ht => ⟨_, rfl, ?_⟩, fun h ht => ⟨_, rfl, ?_⟩⟩, fun i g c s t hg hn ht hc => ?_, fun w s t hn ht => ⟨_, rfl, ?_⟩,
    fun i g hg hn hp p m => decodeCause_of_never hg hn hp p m⟩
  · exact State.laneWord_trap (g := g) rfl h ht rfl
  · exact State.laneWord_trap (g := g) rfl h ht rfl
  · exact ⟨_, exec_of_decodeCause hg (mem_isEmpty_of_thread ht) hc, State.trapBundle_trapped hn ht (toHk3_of_decodeCause hc)⟩
  · rw [mem_isEmpty_of_thread ht]
    exact State.trapBundle_trapped (s := { s with cur := { s.cur with word := w } }) hn ht rfl

/-! ## The reset state -/

/-- Settles O6: the reset state lists nothing in its tables, so every read of one gives the table's initial value. -/
theorem resetAndInitialValues : Obligations.ResetAndInitialValues := by
  refine ⟨fun _ => rfl, fun _ => rfl, rfl, rfl, fun _ => ⟨rfl, rfl, rfl, rfl, fun _ => rfl⟩, fun _ => rfl, fun _ => rfl, rfl, rfl, rfl, fun _ => rfl,
    fun _ => rfl, fun n hn => ?_, rfl, rfl, rfl, rfl, rfl, rfl, rfl, rfl, rfl, rfl, rfl, rfl, rfl, rfl, rfl⟩
  have h7 : (n == 7) = false := beq_false_of_ne (by omega)
  simp [Thread.pred, h7, Thread.init]

/-! ## The frame of the control words -/

/-- Thread 0 of core 0 stands twice in the issuing bundle, with three cached return addresses; its return area begins at address 0, which the
core's TLB maps to die 0's stacked DRAM with R and W. -/
def calledTwice : State :=
  { State.reset with
    cur := { mem := [(0, 0), (0, 0)] },
    thr := [(0, { live := true, depth := 3, rcache := [(2, 4), (1, 4), (0, 4)] })],
    cores := [(0, { Core.init with tlb := [{ part := 0, size := 0, vpn := 0, pte := 2 + 8 + 16 }] })] }

/-- The second CALL of the thread pushes a fifth address, so the oldest is written to its slot of the return area (R99). -/
theorem calledTwice_call : ∃ s', exec (.call always 0) calledTwice = .next s' ∧ s'.byte (2 ^ 60) = 4 :=
  ⟨_, rfl, by decide +kernel⟩

theorem calledTwice_participants : ∀ u ∈ calledTwice.participants (.call always 0), (calledTwice.thread u).rcache.length < 4 := by decide +kernel

/-- Refutes O24: clausesFrameOfCallsAndReturns does not ask that the bundle's threads differ, as `State.executes` does. A CALL of `calledTwice`
calls twice in its one thread, which has three cached addresses; the second call writes a cached address to memory. -/
theorem not_controlWordsLeaveRegistersAndMemory : ¬ Obligations.ControlWordsLeaveRegistersAndMemory := by
  rintro ⟨_, _, hcalls⟩
  obtain ⟨s', he, _, _, _, _, _, _, _, hmem, _⟩ := hcalls always 0 0 calledTwice (.call always 0) (List.mem_cons_self ..)
  obtain ⟨s'', he', hb⟩ := calledTwice_call
  rw [he] at he'
  cases he'
  have hsame := hmem (by simp) calledTwice_participants (2 ^ 60)
  rw [hb] at hsame
  exact absurd hsame (by decide +kernel)

end Sys2Proof.Machine

/-! SUPPORT. That every word, every event and every move of the machine answers a next state. -/

namespace Sys2Proof.Machine
open Sys2Proof

/-! ## Words and events answer -/

/-- A move answers a next state: it neither refuses nor stops with a fault. -/
def Move.answers (r : Host.Outcome State Fault Refusal) : Prop := ∃ t, r = .next t

/-- An event answers whatever the state. -/
def Due.answers (a : Due) : Prop := ∀ s, Move.answers (a s)

/-- EVERY WORD AND EVERY EVENT ANSWERS: the meaning of each instruction is a next state, whatever its operands. -/
theorem exec_answers (i : Instr) (s : State) : Move.answers (exec i s) := by
  cases i <;> exact ⟨_, rfl⟩

theorem State.runFetched_answers (s : State) (w : Word) : Move.answers (s.runFetched w) := by
  unfold State.runFetched
  split
  · exact exec_answers _ s
  · exact ⟨_, rfl⟩

theorem State.runWord_answers (s : State) : Move.answers s.runWord := by
  unfold State.runWord
  split
  · exact ⟨_, rfl⟩
  · dsimp only
    split
    · exact State.runFetched_answers ..
    · exact ⟨_, rfl⟩
    · exact ⟨_, rfl⟩
    · exact ⟨_, rfl⟩

theorem State.issueCycle_answers (s : State) (held : Bool) : Move.answers (s.issueCycle held) := by
  obtain ⟨t, ht⟩ := s.freshBundle.runWord_answers
  unfold State.issueCycle
  dsimp only
  rw [ht]
  exact ⟨_, rfl⟩

theorem State.coreTurn_answers (s : State) (c : Nat) : ∀ r ∈ s.coreTurn c, Move.answers r := by
  intro r hr
  unfold State.coreTurn at hr
  split at hr
  · cases hr
  · split at hr
    · cases hr; exact State.issueCycle_answers ..
    · cases hr; exact ⟨_, rfl⟩

theorem State.coresTurn_answers (s : State) : ∀ r ∈ s.coresTurn, Move.answers r := by
  intro r hr
  obtain ⟨c, _, hc⟩ := List.exists_of_findSome?_eq_some hr
  exact s.coreTurn_answers c r hc

theorem State.runCircuit_answers (s : State) (k : Nat) : Move.answers (s.runCircuit k) := by
  unfold State.runCircuit
  dsimp only
  split
  · exact ⟨_, rfl⟩
  · split
    · exact exec_answers ..
    · exact ⟨_, rfl⟩

theorem State.circuitTurn_answers (s : State) : ∀ r ∈ s.circuitTurn, Move.answers r := by
  intro r hr
  unfold State.circuitTurn at hr
  split at hr
  · cases hr
  · obtain ⟨k, _, rfl⟩ := Option.map_eq_some_iff.1 hr
    exact s.runCircuit_answers k

/-! ## The controllers' events answer -/

/-- Every event of a list answers. -/
def AllAnswer (l : List Due) : Prop := ∀ a ∈ l, a.answers

namespace AllAnswer

theorem nil : AllAnswer [] := nofun

theorem cons {a : Due} {l : List Due} (h : a.answers) (k : AllAnswer l) : AllAnswer (a :: l) := List.forall_mem_cons.2 ⟨h, k⟩

theorem one {a : Due} (h : a.answers) : AllAnswer [a] := cons h nil

theorem append {l m : List Due} (h : AllAnswer l) (k : AllAnswer m) : AllAnswer (l ++ m) := List.forall_mem_append.2 ⟨h, k⟩

theorem ite {c : Prop} [Decidable c] {l m : List Due} (h : AllAnswer l) (k : AllAnswer m) : AllAnswer (if c then l else m) := by
  split
  · exact h
  · exact k

theorem flatMap {A : Type} {xs : List A} {f : A → List Due} (h : ∀ x, AllAnswer (f x)) : AllAnswer (xs.flatMap f) := fun a ha => by
  obtain ⟨x, _, hx⟩ := List.mem_flatMap.1 ha
  exact h x a hx

theorem map {A : Type} {xs : List A} {f : A → Due} (h : ∀ x, (f x).answers) : AllAnswer (xs.map f) := fun a ha => by
  obtain ⟨x, _, rfl⟩ := List.mem_map.1 ha
  exact h x

end AllAnswer

theorem packetEvent_answers (p : Packet) : (packetEvent p).answers := by
  unfold packetEvent
  split
  case h_6 => split <;> exact fun _ => ⟨_, rfl⟩
  case h_7 =>
    split
    · exact fun _ => ⟨_, rfl⟩
    · split <;> exact fun _ => ⟨_, rfl⟩
  all_goals exact fun _ => ⟨_, rfl⟩

theorem commandEvent_answers (n : Fin 64) (cmd : BitVec 512) : (commandEvent n cmd).answers := by
  unfold commandEvent
  split
  case h_8 => split <;> exact fun _ => ⟨_, rfl⟩
  case h_9 => split <;> exact fun _ => ⟨_, rfl⟩
  case h_10 => split <;> exact fun _ => ⟨_, rfl⟩
  all_goals exact fun _ => ⟨_, rfl⟩

theorem State.commandDue_answers (s : State) (k : Nat) (n : Fin 64) : (s.commandDue k n).answers := by
  unfold State.commandDue
  split
  · exact fun _ => ⟨_, rfl⟩
  · exact commandEvent_answers _ _

theorem State.threadEvents_answer (s : State) : AllAnswer s.threadEvents :=
  .flatMap fun _ => ((AllAnswer.ite .nil (.one fun _ => ⟨_, rfl⟩)).append (.ite (.one fun _ => ⟨_, rfl⟩) .nil)).append
    (.ite .nil (.one fun _ => ⟨_, rfl⟩))

theorem State.warpEvents_answer (s : State) : AllAnswer s.warpEvents :=
  .flatMap fun _ => ((AllAnswer.ite (.one (by split <;> exact fun _ => ⟨_, rfl⟩)) .nil).append (.ite (.one fun _ => ⟨_, rfl⟩) .nil)).append
    (.ite (.one fun _ => ⟨_, rfl⟩) .nil)

theorem State.unitEvents_answer (s : State) : AllAnswer s.unitEvents :=
  (((AllAnswer.ite (.one fun _ => ⟨_, rfl⟩) .nil).append (.ite (.one fun _ => ⟨_, rfl⟩) .nil)).append
    (.flatMap fun _ => .cons (fun _ => ⟨_, rfl⟩) (.map fun _ _ => ⟨_, rfl⟩))).append
    (.flatMap fun _ => .cons (fun _ => ⟨_, rfl⟩) (.one fun _ => ⟨_, rfl⟩))

theorem State.engineEvents_answer (s : State) : AllAnswer s.engineEvents := by
  refine AllAnswer.append (.flatMap fun _ => .flatMap fun _ => ?_) (.flatMap fun _ => .flatMap fun _ => ?_)
  · exact .cons (fun _ => ⟨_, rfl⟩) (.cons (fun _ => ⟨_, rfl⟩) (.cons (fun _ => ⟨_, rfl⟩) (.cons (fun _ => ⟨_, rfl⟩) (.one fun _ => ⟨_, rfl⟩))))
  · exact .cons (fun _ => ⟨_, rfl⟩) (.cons (fun _ => ⟨_, rfl⟩) (.cons (fun _ => ⟨_, rfl⟩) (.one fun _ => ⟨_, rfl⟩)))

theorem State.lodgeEvents_answer (s : State) : AllAnswer s.lodgeEvents := by
  refine AllAnswer.append (.append (.append (.ite (.one fun _ => ⟨_, rfl⟩) .nil) (.ite (.one fun _ => ⟨_, rfl⟩) .nil)) ?_)
    (.ite (.one fun _ => ⟨_, rfl⟩) .nil)
  split
  · exact .one (packetEvent_answers _)
  · exact .nil

theorem State.ringEvents_answer (s : State) : AllAnswer s.ringEvents :=
  .flatMap fun _ => (AllAnswer.ite (.one (s.commandDue_answers _ _)) .nil).append (.ite (.one fun _ => ⟨_, rfl⟩) .nil)

theorem State.gangEvents_answer (s : State) : AllAnswer s.gangEvents :=
  ((AllAnswer.ite .nil (.one fun _ => ⟨_, rfl⟩)).append (.ite (.one fun _ => ⟨_, rfl⟩) .nil)).append (.map fun _ _ => ⟨_, rfl⟩)

theorem State.placeEvents_answer (s : State) : AllAnswer s.placeEvents := by
  refine AllAnswer.append (.flatMap fun l => .append ?_ (.ite ?_ .nil)) (.flatMap fun w => ?_)
  · split
    · exact .one fun _ => ⟨_, rfl⟩
    · exact .nil
  · split
    · exact .one fun _ => ⟨_, rfl⟩
    · exact .nil
  · split
    · exact .ite (.one fun _ => ⟨_, rfl⟩) .nil
    · exact .one fun _ => ⟨_, rfl⟩
    · exact .one fun _ => ⟨_, rfl⟩
    · refine .ite ?_ .nil
      split
      · exact .one fun _ => ⟨_, rfl⟩
      · exact .nil

theorem State.contextEvents_answer (s : State) : AllAnswer s.contextEvents := .map fun _ _ => ⟨_, rfl⟩

theorem State.internalEvents_answer (s : State) : AllAnswer s.internalEvents :=
  s.threadEvents_answer.append s.warpEvents_answer |>.append s.unitEvents_answer |>.append s.engineEvents_answer |>.append s.lodgeEvents_answer
    |>.append s.ringEvents_answer |>.append s.gangEvents_answer |>.append s.placeEvents_answer |>.append s.contextEvents_answer

theorem mem_of_mem_rotated {A : Type} {l : List A} {k : Nat} {a : A} (h : a ∈ rotated l k) : a ∈ l :=
  (List.mem_append.1 h).elim List.mem_of_mem_drop List.mem_of_mem_take

theorem State.internalTurn_answers (s : State) : ∀ r ∈ s.internalTurn, Move.answers r := by
  intro r hr
  unfold State.internalTurn at hr
  repeat' split at hr
  · cases hr; exact ⟨_, rfl⟩
  · cases hr; exact ⟨_, rfl⟩
  · cases hr; exact ⟨_, rfl⟩
  · cases hr; exact ⟨_, rfl⟩
  · obtain ⟨a, ha, rfl⟩ := Option.map_eq_some_iff.1 hr
    exact s.internalEvents_answer a (mem_of_mem_rotated (List.mem_of_find?_eq_some ha)) s

/-! ## Every move answers -/

/-- Whichever agent moves first in an order, its move answers. -/
theorem State.firstTurn_answers (z : State) {order : List (Option (Host.Outcome State Fault Refusal))}
    (h : ∀ o ∈ order, o = z.coresTurn ∨ o = z.circuitTurn ∨ o = z.internalTurn) {r : Host.Outcome State Fault Refusal}
    (hr : order.findSome? (fun x => x) = some r) : Move.answers r := by
  obtain ⟨o, ho, hor⟩ := List.exists_of_findSome?_eq_some hr
  rcases h o ho with rfl | rfl | rfl
  · exact z.coresTurn_answers r hor
  · exact z.circuitTurn_answers r hor
  · exact z.internalTurn_answers r hor

theorem State.ownMove_answers (s : State) : Move.answers s.ownMove := by
  unfold State.ownMove
  lift_lets
  intro s0 s1 order
  have horder : ∀ o ∈ order, o = s1.coresTurn ∨ o = s1.circuitTurn ∨ o = s1.internalTurn := by
    intro o ho
    unfold order at ho
    split at ho <;> simp only [List.mem_cons, List.not_mem_nil, or_false] at ho <;> tauto
  split
  · rename_i r hr
    exact s1.firstTurn_answers horder hr
  · exact ⟨s1, rfl⟩

theorem State.inputMove_answers (s : State) (x : Input) : Move.answers (s.inputMove x) := by
  have hgo : ∀ o : Option (Host.Outcome State Fault Refusal), (∀ r ∈ o, Move.answers r) →
      Move.answers (match o with | some r => r | none => .next s) := by
    rintro (_ | r) h
    · exact ⟨_, rfl⟩
    · exact h r rfl
  unfold State.inputMove
  cases x with
  | event i =>
    dsimp only
    split
    · exact exec_answers i s
    · exact ⟨_, rfl⟩
  | core c => exact hgo _ (s.coreTurn_answers c)
  | circuit => exact hgo _ s.circuitTurn_answers
  | tick => exact ⟨_, rfl⟩
  | together word triggers => exact ⟨_, rfl⟩

/-- EVERY MOVE ANSWERS. -/
theorem State.move_answers (s : State) : Move.answers s.move := by
  unfold State.move
  split
  · exact s.issueCycle_answers false
  · split
    · exact State.inputMove_answers _ _
    · exact s.ownMove_answers

/-- Settles O5: every move answers, and the end of the move gives its state or the fault of absent memory. -/
theorem stepAnswersOrReachesAbsentMemory : Obligations.StepAnswersOrReachesAbsentMemory := by
  intro s
  obtain ⟨t, ht⟩ := s.move_answers
  rw [step, ht]
  rcases finishMove_next t with ⟨_, h⟩ | ⟨hhole, h⟩
  · exact .inr h
  · exact .inl ⟨t.wrapUp, h, hhole⟩

end Sys2Proof.Machine

/-! SUPPORT. A memory word with one participant: what its issue leaves of the state, what the checks of its access give, and what becomes of it
when they stop it. -/

namespace Sys2Proof.Machine
open Sys2Proof

/-! ## The state in which a memory word makes its accesses -/

/-- A core as a word's issue leaves it: its count of drawn checks and its units' times may have changed (R85, R6). -/
def Core.issued (a b : Core) : Prop := b = { a with samples := b.samples, busy := b.busy }

/-- A state as a word's issue leaves it before the word acts: but for the issuing core, the counter of identities and the word's own passes and
identity (R87, R198) it is as it was. -/
def State.issued (s z : State) : Prop :=
  z = { s with cores := z.cores, ids := z.ids, cur := { s.cur with late := z.cur.late, bundle := z.cur.bundle } } ∧
  ∀ c, (s.coreAt c).issued (z.coreAt c)

namespace State.issued
variable {s z : State}

theorem refl (s : State) : s.issued s := ⟨rfl, fun _ => rfl⟩

theorem updCore (h : s.issued z) (c : Nat) (f : Core → Core) (hf : ∀ x : Core, x.issued (f x)) : s.issued (z.updCore c f) := by
  obtain ⟨hz, hcores⟩ := h
  refine ⟨by unfold State.updCore; rw [hz], fun k => ?_⟩
  rw [State.updCore_coreAt]
  split
  · rename_i e
    subst e
    have hk := hf (z.coreAt k)
    unfold Core.issued at *
    rw [hk, hcores k]
  · exact hcores k

theorem drawCheck (s : State) : s.issued s.drawCheck.1 := by
  rcases s.drawCheck_shape with e | e
  · rw [e]; exact refl s
  · rw [e]; exact (refl s).updCore _ _ (fun _ => rfl)

theorem occupy (h : s.issued z) (unit n : Nat) : s.issued (z.occupy unit n) := h.updCore _ _ (fun _ => rfl)

theorem withPasses (h : s.issued z) (k : Nat) : s.issued (z.withPasses k) := by
  obtain ⟨hz, hcores⟩ := h
  refine ⟨?_, hcores⟩
  unfold State.withPasses
  rw [hz]
  rfl

theorem thread (h : s.issued z) (t : Nat) : z.thread t = s.thread t := by rw [h.1]; rfl
theorem warp (h : s.issued z) (w : Nat) : z.warp w = s.warp w := by rw [h.1]; rfl
theorem warpOfThread (h : s.issued z) (t : Nat) : z.warpOfThread t = s.warpOfThread t := h.warp _
theorem traphOf (h : s.issued z) (t : Nat) : z.traphOf t = s.traphOf t := by rw [h.1]; rfl
theorem pc0 (h : s.issued z) : z.cur.pc0 = s.cur.pc0 := by rw [h.1]
theorem word (h : s.issued z) : z.cur.word = s.cur.word := by rw [h.1]
theorem mask (h : s.issued z) : z.cur.mask = s.cur.mask := by rw [h.1]; rfl
theorem carve (h : s.issued z) (c : Nat) : (z.coreAt c).carve = (s.coreAt c).carve := by rw [h.2 c]
theorem tlb (h : s.issued z) (c : Nat) : (z.coreAt c).tlb = (s.coreAt c).tlb := by rw [h.2 c]
theorem dieTlb (h : s.issued z) : z.dieTlb = s.dieTlb := by rw [h.1]
theorem probe (h : s.issued z) (part va : Nat) : z.probe part va = s.probe part va := by rw [h.1]; rfl

theorem translate (h : s.issued z) (core part va : Nat) : z.translate core part va = s.translate core part va := by
  unfold State.translate State.lookup
  rw [h.tlb, h.dieTlb, h.probe]

theorem checkPage (h : s.issued z) (core part : Nat) (va : DWord) (rd wr st : Bool) :
    z.checkPage core part va rd wr st = s.checkPage core part va rd wr st := by
  unfold State.checkPage
  rw [h.translate]

/-- A word's issue does not change what the checks of its accesses give. -/
theorem checkAccess (h : s.issued z) (t : Nat) (a : DWord) (n al : Nat) (rd wr tag : Bool) :
    z.checkAccess t a n al rd wr tag = s.checkAccess t a n al rd wr tag := by
  unfold State.checkAccess State.apertureFor
  simp only [h.warpOfThread, h.carve, h.checkPage]

/-- A trap taken after the issue is one taken in the state before it. -/
theorem trapped_before (h : s.issued z) {z' : State} {t : Nat} {c : Byte} {a : DWord} (k : trapped z z' t c a) : trapped s z' t c a := by
  unfold trapped at *
  simpa only [h.thread, h.warpOfThread, h.traphOf, h.pc0, h.word, h.mask] using k

end State.issued

/-! ## The checks of an access -/

theorem State.apertureFor_none_iff (s : State) (t : Nat) (a : DWord) (n : Nat) : s.apertureFor t a n = .none ↔ ¬ insideWindows s t a n := by
  unfold State.apertureFor apertureOf insideWindows
  have hslice : sliceBytes = 8388608 := rfl
  dsimp only
  repeat' split
  all_goals simp only [reduceCtorEq, false_iff, true_iff, not_not]; omega

/-- R19, R209: an access outside every aperture takes cause 0x04. -/
theorem State.checkAccess_outside {s : State} {t : Nat} {a : DWord} {n : Nat} (h : ¬ insideWindows s t a n) (al : Nat) (rd wr tag : Bool) :
    s.checkAccess t a n al rd wr tag = .trap 4 := by
  unfold State.checkAccess
  rw [(s.apertureFor_none_iff t a n).2 h]

/-- R22, R209: a misaligned access inside an aperture takes cause 0x03. -/
theorem State.checkAccess_misaligned {s : State} {t : Nat} {a : DWord} {n al : Nat} (h : insideWindows s t a n) (hal : a.toNat % al ≠ 0)
    (rd wr tag : Bool) : s.checkAccess t a n al rd wr tag = .trap 3 := by
  have hin := mt (s.apertureFor_none_iff t a n).1 (not_not.2 h)
  have hbad : (a.toNat % al != 0) = true := bne_iff_ne.2 hal
  unfold State.checkAccess
  dsimp only
  cases e : s.apertureFor t a n with
  | none => exact absurd e hin
  | slice off => exact if_pos hbad
  | stack off => exact if_pos hbad
  | global => exact if_pos hbad

/-- R209: an aligned access of the global window that its page stops, ends as its page says. -/
theorem State.checkAccess_page {s : State} {t : Nat} {a : DWord} {n al : Nat} (h : a.toNat + n ≤ 2 ^ 56) (hal : a.toNat % al = 0) {rd wr : Bool}
    (tag : Bool) {c : Checked} (hc : s.checkPage (coreOfThread t) (s.warpOfThread t).part a rd wr false = c) (hplace : ∀ p, c ≠ .place p) :
    s.checkAccess t a n al rd wr tag = c := by
  have hglobal : s.apertureFor t a n = .global := if_pos h
  have hok : ¬ (a.toNat % al != 0) = true := by simp [hal]
  unfold State.checkAccess
  dsimp only
  rw [hglobal, hc]
  dsimp only
  rw [if_neg hok]
  cases c with
  | place p => exact absurd rfl (hplace p)
  | trap _ => rfl
  | page _ => rfl

section
variable {s : State} {core part : Nat} {va : DWord}

theorem State.checkPage_unmapped (h : s.translate core part va.toNat = .unmapped) (rd wr st : Bool) :
    s.checkPage core part va rd wr st = .trap 6 := by
  unfold State.checkPage
  rw [h]

theorem State.checkPage_onDemand (h : s.translate core part va.toNat = .onDemand) (rd wr st : Bool) :
    s.checkPage core part va rd wr st = .page va := by
  unfold State.checkPage
  rw [h]

/-- R200, R202: a mapped page refuses an access that lacks a permission it needs. -/
theorem State.checkPage_forbidden {e : BitVec 128} {size : Nat} (h : s.translate core part va.toNat = .mapped e size) {rd wr : Bool}
    (hperm : (rd = true ∧ e.getLsbD 3 = false) ∨ (wr = true ∧ e.getLsbD 4 = false)) (st : Bool) :
    s.checkPage core part va rd wr st = .trap 5 := by
  have hno : pteAllows e rd wr = false := by
    unfold pteAllows
    rcases hperm with ⟨hr, he⟩ | ⟨hw, he⟩
    · rw [hr, he]; rfl
    · rw [hw, he]; exact Bool.and_false _
  unfold State.checkPage
  rw [h]
  dsimp only
  rw [hno]
  rfl

end

@[simp] theorem State.notify_thread (s : State) (part : Nat) (va : DWord) (t : Nat) : (s.notify part va).thread t = s.thread t := by
  unfold State.notify
  split <;> rfl

/-- A page of which HK2 is told is among its notices, also when it was before (R210). -/
theorem State.mem_notify (s : State) (part : Nat) (va : DWord) : (part, va) ∈ (s.notify part va).dev.notices := by
  unfold State.notify
  split
  · rename_i h; exact List.contains_iff_mem.1 h
  · exact List.mem_append_right _ (List.mem_singleton_self _)

/-- What becomes of a thread whose access the checks stop: it traps, or parks at an on-demand page of which HK2 is told (R209, R210). -/
def State.accessFails (z : State) (t : Nat) (a : DWord) : Checked → State
  | .trap c => z.trapWord t c (sectorOf a)
  | .page va => (z.notify (z.warpOfThread t).part va).updThread t (fun th => { th with park := .page va })
  | .place _ => z

theorem State.accessAt_fails {c : Checked} (hplace : ∀ p, c ≠ .place p) (z : State) (pre : State → Place → Option Byte) (t : Nat) (a : DWord)
    (n : Nat) (rd wr k : Bool) (act : State → Place → State × Adv) :
    (z.accessAt c pre t a n rd wr act).1.goOn t k (z.accessAt c pre t a n rd wr act).2 = z.accessFails t a c := by
  cases c with
  | place p => exact absurd rfl (hplace p)
  | trap _ => rfl
  | page _ => rfl

/-! ## Memory words with one participant -/

@[simp] theorem faultyAddr_zero (a : DWord) : faultyAddr 0 a = a := by simp [faultyAddr]

/-- The state in which a word of one participant makes its access of `n` bytes at `a`: its address has been checked, the load-store unit is
occupied, and the word has its passes and identity (R84, R87, R198, R242). -/
def State.accessing (s : State) (t : Nat) (a : DWord) (n : Nat) : State :=
  (s.drawCheck.1.occupy 5 (s.drawCheck.1.lsuCycles [(t, a)] n * s.passes)).withPasses s.passes

theorem State.issued_accessing (s : State) (t : Nat) (a : DWord) (n : Nat) : s.issued (s.accessing t a n) :=
  ((State.issued.drawCheck s).occupy _ _).withPasses _

/-- A participant's part of a word is done, and the other threads of the bundle advance. -/
def State.othersAdvance (s : State) (i : Instr) (z : State) : State := ((s.bystanders i).foldl State.skip z).endWord

section
variable {s : State} {i : Instr} {g : Guard} {t : Nat} (hg : i.guard? = some g) (h : Alone s i t)
include hg h

/-- A MEMORY WORD OF ONE PARTICIPANT makes that participant's access, and the thread goes on as the access says. -/
theorem State.memWord_alone (n : Nat) (addr : Thread → DWord) {f : State → Nat → DWord → State × Adv} {r : State × Adv}
    (hr : f (s.accessing t (addr (s.thread t)) n) t (addr (s.thread t)) = r) :
    s.memWord i n addr f = s.othersAdvance i (r.1.goOn t (markOf i) r.2) := by
  obtain ⟨hx, hsound, hone, _⟩ := h
  subst hr
  unfold State.memWord
  rw [State.simt_executes hg hx, hone]
  simp only [State.check_sound hsound .addr faultyAddr_zero]
  rfl

/-- AN ATOMIC WORD OF ONE PARTICIPANT whose checks give no place performs nothing, and the thread goes on as its check says. -/
theorem State.atomic_alone_fails (w : AtomWord) (a : BitVec 6) (x y : Thread → DWord) {c : Checked} (hplace : ∀ p, c ≠ .place p)
    (hc : s.checkAccess t ((s.thread t).pair a.toNat) (atomBytes w.wide) (atomBytes w.wide) true true false = c) :
    s.atomic i w a x y =
      s.othersAdvance i ((s.accessing t ((s.thread t).pair a.toNat) (atomBytes w.wide)).accessFails t ((s.thread t).pair a.toNat) c) := by
  obtain ⟨hx, hsound, hone, _⟩ := h
  have hz := (s.issued_accessing t ((s.thread t).pair a.toNat) (atomBytes w.wide)).checkAccess t ((s.thread t).pair a.toNat) (atomBytes w.wide)
    (atomBytes w.wide) true true false
  unfold State.accessing at hz
  unfold State.atomic
  rw [State.simt_executes hg hx, hone]
  simp only [State.check_sound hsound .addr faultyAddr_zero, List.map_cons, List.map_nil, hz, hc]
  cases c with
  | place p => exact absurd rfl (hplace p)
  | trap _ => rfl
  | page _ => rfl

end

theorem State.othersAdvance_dev (s : State) (i : Instr) (z : State) : (s.othersAdvance i z).dev = z.dev :=
  (State.onlyThreads.foldl (fun _ _ x h => h.skip x) _ (.refl z)).dev

theorem mem_participants_of_alone {s : State} {i : Instr} {t : Nat} (h : Alone s i t) : t ∈ s.participants i := by
  obtain ⟨_, _, hone, _⟩ := h
  rw [hone]
  exact List.mem_singleton_self t

section
variable {s : State} {i : Instr} {t : Nat} (h : Alone s i t)
include h

theorem State.othersAdvance_thread (z : State) : (s.othersAdvance i z).thread t = z.thread t :=
  State.skips_thread_ne (State.not_bystander (mem_participants_of_alone h))

/-- A trap that the participant has taken stays taken while the others advance. -/
theorem State.othersAdvance_tookTrap {s0 z : State} {c : Byte} {a : DWord} (k : s0.tookTrap t c a z) : s0.tookTrap t c a (s.othersAdvance i z) := by
  have hstable := State.Stable.tookTrap s0 (ts := s.bystanders i) (t := t)
    (fun hb => State.not_bystander (mem_participants_of_alone h) t hb rfl) c a
  exact hstable.endWord (hstable.skips (fun _ hu => hu) k)

end

/-! ## The words that make one access -/

theorem accessBytes_eq : ∀ z : BitVec 3, accessBytes z = szBytes z := by decide

/-- R40: the displacement of a memory word is signed, over all the bits that its extension gives it. -/
theorem extInt_none {p : Prefixes} (hp : p.ext = none) (f : BitVec 5) : extInt p 5 f.toNat = f.toInt := by
  have hwidth : extWidth p 5 = 5 := by simp [extWidth, hp]
  have hvalue : extNat p 5 f.toNat = f.toNat := by simp [extNat, hp]
  simp only [extInt, hwidth, hvalue, BitVec.toInt_eq_toNat_cond]
  split_ifs <;> omega

theorem extInt_some {p : Prefixes} {e : BitVec 18} (hp : p.ext = some e) (f : BitVec 5) : extInt p 5 f.toNat = (e ++ f).toInt := by
  have hwidth : extWidth p 5 = 23 := by simp [extWidth, hp]
  have hvalue : extNat p 5 f.toNat = (e ++ f).toNat := by
    rw [BitVec.toNat_append, ← Nat.shiftLeft_add_eq_or_of_lt f.isLt, Nat.shiftLeft_eq]
    simp [extNat, hp]
  simp only [extInt, hwidth, hvalue, BitVec.toInt_eq_toNat_cond]
  split_ifs <;> omega

theorem memoryAddress_eq (p : Prefixes) (th : Thread) (z : BitVec 3) (a : BitVec 6) (i : BitVec 5) : memoryAddress p th z a i = mAddr p th z a i := by
  unfold memoryAddress mAddr
  rw [accessBytes_eq]
  cases hp : p.ext with
  | none => rw [extInt_none hp]
  | some e => rw [extInt_some hp]

/-- The bytes of an atomic word's location, by its width bit (R243). -/
theorem atomBytes_eq (w : BitVec 1) : (if w = 1 then 8 else 4) = atomBytes (w == 1) := by
  unfold atomBytes
  by_cases h : w = 1 <;> simp [h]

/-- EVERY WORD WITH AN ACCESS is a memory word that makes it, or an atomic word at its address (R216, R236 to R238, R245). -/
theorem exec_access {i : Instr} {s : State} {th : Thread} {a : DWord} {n : Nat} {rd wr tag : Bool}
    (h : accessOf s th i = some (a, n, rd, wr, tag)) : ∃ g, i.guard? = some g ∧
      ((∃ (addr : Thread → DWord) (pre : State → Place → Option Byte) (act : Nat → DWord → State → Place → State × Adv), addr th = a ∧
        exec i s = .next (s.memWord i n addr (fun z u ea => z.accessIf pre u ea n n rd wr tag (act u ea)))) ∨
       (∃ w r x y, th.pair (r : BitVec 6).toNat = a ∧ atomBytes w.wide = n ∧ (rd = true ∧ wr = true ∧ tag = false) ∧
        exec i s = .next (s.atomic i w r x y))) := by
  cases i
  case ld | lda | st | stl | ldf | lde | stf | sto =>
    cases h
    rw [accessBytes_eq, memoryAddress_eq]
    exact ⟨_, rfl, .inl ⟨_, _, _, rfl, rfl⟩⟩
  case sete | setf | tagrd =>
    cases h
    rw [accessBytes_eq]
    exact ⟨_, rfl, .inl ⟨_, _, _, rfl, rfl⟩⟩
  case tild | tist =>
    cases h
    exact ⟨_, rfl, .inl ⟨_, _, _, rfl, rfl⟩⟩
  case atom | cas | red =>
    cases h
    rw [atomBytes_eq]
    exact ⟨_, rfl, .inr ⟨_, _, _, _, rfl, rfl, ⟨rfl, rfl, rfl⟩, rfl⟩⟩
  all_goals cases h

section
variable {i : Instr} {s : State} {t : Nat} {a : DWord} {n : Nat} {rd wr tag : Bool} (h : Alone s i t)
  (ha : accessOf s (s.thread t) i = some (a, n, rd, wr, tag))
include h ha

/-- AN ACCESS THAT ITS CHECKS STOP: nothing is accessed; the participant traps or parks, and the other threads advance. -/
theorem exec_of_failed_check {c : Checked} (hplace : ∀ p, c ≠ .place p) (hc : s.checkAccess t a n n rd wr tag = c) :
    exec i s = .next (s.othersAdvance i ((s.accessing t a n).accessFails t a c)) := by
  obtain ⟨g, hg, ⟨addr, pre, act, rfl, he⟩ | ⟨w, r, x, y, rfl, rfl, ⟨rfl, rfl, rfl⟩, he⟩⟩ := exec_access ha
  · rw [he, State.memWord_alone hg h n addr rfl]
    unfold State.accessIf
    rw [(s.issued_accessing t _ n).checkAccess, hc, State.accessAt_fails hplace]
  · rw [he, State.atomic_alone_fails hg h w r x y hplace hc]

/-- A check that gives a cause which is none of HK3's has the participant trap with it, at the access's sector (R395). -/
theorem trapped_of_failed_check {c : Byte} (hk : toHk3 c = false) (hc : s.checkAccess t a n n rd wr tag = .trap c) :
    Answers i s fun s' => trapped s s' t c (sectorOf a) := by
  refine ⟨_, exec_of_failed_check h ha (c := .trap c) nofun hc, (s.issued_accessing t a n).trapped_before (State.trapped_of_tookTrap hk ?_)⟩
  exact State.othersAdvance_tookTrap h (State.trapWord_tookTrap (.refl _) (.refl _) rfl hk _)

/-- R210: a check that gives an on-demand page has the participant park at it, and HK2 is told. -/
theorem parked_of_failed_check {va : DWord} (hc : s.checkAccess t a n n rd wr tag = .page va) :
    Answers i s fun s' => s'.thread t = { s.thread t with park := .page va } ∧ ((s.warpOfThread t).part, va) ∈ s'.dev.notices := by
  refine ⟨_, exec_of_failed_check h ha (c := .page va) nofun hc, ?_, ?_⟩
  · rw [State.othersAdvance_thread h, State.accessFails, State.updThread_thread_same, State.notify_thread, (s.issued_accessing t a n).thread]
  · rw [State.othersAdvance_dev, State.accessFails, ← (s.issued_accessing t a n).warpOfThread]
    exact State.mem_notify ..

end

/-- Settles O30: each check gives what it gives in the state before the word, since a word's issue changes nothing that the checks read. -/
theorem accessChecksComeInOrder : Obligations.AccessChecksComeInOrder := by
  intro i s t a n rd wr tag h ha w x sector
  refine ⟨fun hout => ?_, fun hin hal => ?_, fun hglobal hal => ⟨fun hx => ?_, fun hx => ?_, fun e size hx hperm => ?_⟩⟩
  · exact trapped_of_failed_check h ha rfl (State.checkAccess_outside hout ..)
  · exact trapped_of_failed_check h ha rfl (State.checkAccess_misaligned hin hal ..)
  · exact trapped_of_failed_check h ha rfl (State.checkAccess_page hglobal hal tag (State.checkPage_unmapped hx ..) nofun)
  · obtain ⟨s', he, hthread, hnotice⟩ :=
      parked_of_failed_check h ha (State.checkAccess_page hglobal hal tag (State.checkPage_onDemand hx ..) nofun)
    exact ⟨s', he, by rw [hthread], by rw [hthread], by rw [hthread]; exact sameRegisters_refl _, hnotice⟩
  · exact trapped_of_failed_check h ha rfl (State.checkAccess_page hglobal hal tag (State.checkPage_forbidden hx hperm _) nofun)

end Sys2Proof.Machine

/-! SUPPORT. That the decoders and the encoder agree: every encoding reads back, and every word that a decoder reads is the encoding of what it
reads, since the fields of a row leave no bit of the word out. -/

namespace Sys2Proof.Laws.RoundTrip
open Sys2Proof

/-- Every instruction that has a word is read back from it; an event has none. -/
theorem of_instr (i : Instr) : Statement i := by
  cases i with
  | nop gd => exact nop gd | pfxExt e => exact pfxExt e | pfxOrd o c l => exact pfxOrd o c l | pfxTok m h => exact pfxTok m h
  | bra gd y o => exact bra gd y o | brx gd y a => exact brx gd y a | call gd o => exact call gd o | callx gd a => exact callx gd a
  | ret gd => exact ret gd | loop gd d i => exact loop gd d i | loopi gd c l => exact loopi gd c l | rcv gd t => exact rcv gd t
  | yield gd => exact yield gd | exit gd => exact exit gd | idem gd => exact idem gd | add gd m d a b => exact add gd m d a b
  | sub gd m d a b => exact sub gd m d a b | addi gd d a i => exact addi gd d a i | mul gd m d a b => exact mul gd m d a b
  | mad gd m d a b => exact mad gd m d a b | add64 gd m d a b => exact add64 gd m d a b | lea gd m d a b => exact lea gd m d a b
  | and gd d a b => exact and gd d a b | or gd d a b => exact or gd d a b | xor gd d a b => exact xor gd d a b
  | andn gd d a b => exact andn gd d a b | shl gd d a b => exact shl gd d a b | shr gd d a b => exact shr gd d a b
  | sar gd d a b => exact sar gd d a b | rot gd d a b => exact rot gd d a b | shlImm gd d a c => exact shlImm gd d a c
  | shrImm gd d a c => exact shrImm gd d a c | sarImm gd d a c => exact sarImm gd d a c | rotImm gd d a c => exact rotImm gd d a c
  | min gd m d a b => exact min gd m d a b | max gd m d a b => exact max gd m d a b | clz gd d a => exact clz gd d a
  | ctz gd d a => exact ctz gd d a | popc gd d a => exact popc gd d a | brev gd d a => exact brev gd d a | abs gd d a => exact abs gd d a
  | neg gd d a => exact neg gd d a | not gd d a => exact not gd d a | sext8 gd d a => exact sext8 gd d a
  | sext16 gd d a => exact sext16 gd d a | bfe gd m d a b => exact bfe gd m d a b | bfi gd d a b => exact bfi gd d a b
  | setp gd m c q a b => exact setp gd m c q a b | setpi gd c q a i => exact setpi gd c q a i | sel gd q d a b => exact sel gd q d a b
  | mov gd d a => exact mov gd d a | p2v gd d => exact p2v gd d | v2p gd a => exact v2p gd a | movi gd d i => exact movi gd d i
  | prmt gd d a b => exact prmt gd d a b | nlut gd m d a b => exact nlut gd m d a b | shfl gd m d a b => exact shfl gd m d a b
  | vote gd m d a => exact vote gd m d a | fadd gd m d a b => exact fadd gd m d a b | fsub gd m d a b => exact fsub gd m d a b
  | fmul gd m d a b => exact fmul gd m d a b | fma gd m d a b => exact fma gd m d a b | fmin gd d a b => exact fmin gd d a b
  | fmax gd d a b => exact fmax gd d a b | fsetp gd m c q a b => exact fsetp gd m c q a b | fabs gd d a => exact fabs gd d a
  | fneg gd d a => exact fneg gd d a | frnd gd m d a => exact frnd gd m d a | rcp gd d a => exact rcp gd d a
  | rsq gd d a => exact rsq gd d a | sqrt gd d a => exact sqrt gd d a | ex2 gd d a => exact ex2 gd d a | lg2 gd d a => exact lg2 gd d a
  | sin gd d a => exact sin gd d a | cos gd d a => exact cos gd d a | hadd2 gd m d a b => exact hadd2 gd m d a b
  | hmul2 gd m d a b => exact hmul2 gd m d a b | hfma2 gd m d a b => exact hfma2 gd m d a b | hmm2 gd m d a b => exact hmm2 gd m d a b
  | cvtf gd m d a f r t w => exact cvtf gd m d a f r t w | cvtp gd m d a f r t h => exact cvtp gd m d a f r t h
  | cvti gd m d a c w => exact cvti gd m d a c w | mxq gd m d a f r => exact mxq gd m d a f r | mxd gd d a f => exact mxd gd d a f
  | mld gd l q t x a b => exact mld gd l q t x a b | mma gd e q d a g => exact mma gd e q d a g
  | mmas gd q d a b => exact mmas gd q d a b | mclr gd q => exact mclr gd q | mrd gd m d q => exact mrd gd m d q
  | ld gd z d a i => exact ld gd z d a i | st gd z d a i => exact st gd z d a i | lda gd z d a i => exact lda gd z d a i
  | stl gd z d a i => exact stl gd z d a i | ldf gd z d a i => exact ldf gd z d a i | lde gd z d a i => exact lde gd z d a i
  | stf gd z d a i => exact stf gd z d a i | sto gd z d a i => exact sto gd z d a i | sete gd a z => exact sete gd a z
  | setf gd a z => exact setf gd a z | tagrd gd d a z => exact tagrd gd d a z | tild gd m d a b => exact tild gd m d a b
  | tist gd m d a b => exact tist gd m d a b | pref gd l a i => exact pref gd l a i | cinvInv gd => exact cinvInv gd
  | cinvWb gd => exact cinvWb gd | cinvIc gd => exact cinvIc gd | atom gd d a w o => exact atom gd d a w o
  | cas gd w d a b => exact cas gd w d a b | red gd d a w o => exact red gd d a w o | fence gd m c => exact fence gd m c
  | barv gd k b x v => exact barv gd k b x v | barw gd b x v => exact barw gd b x v | bariInit gd b x v => exact bariInit gd b x v
  | bariInval gd b => exact bariInval gd b | bart gd k b x v => exact bart gd k b x v | cpy gd q t a b => exact cpy gd q t a b
  | tcpy gd m q t a b => exact tcpy gd m q t a b | gcpy gd m q t a b => exact gcpy gd m q t a b | chain gd q t a => exact chain gd q t a
  | tkwait gd d t i => exact tkwait gd d t i | rcpy gd m q t a b => exact rcpy gd m q t a b | coll gd q t a o => exact coll gd q t a o
  | sigrFill gd d a z => exact sigrFill gd d a z | sigrArr gd a b => exact sigrArr gd a b | sigrArrel gd a b => exact sigrArrel gd a b
  | lnchLaunch gd d a b => exact lnchLaunch gd d a b | lnchGang gd d a => exact lnchGang gd d a
  | lnchBwrec gd o a b => exact lnchBwrec gd o a b | glog gd t a b => exact glog gd t a b | wfold gd t a b => exact wfold gd t a b
  | lscale gd a => exact lscale gd a | csrr gd d a => exact csrr gd d a | csrw gd d a => exact csrw gd d a | trap gd c => exact trap gd c
  | bkpt gd c => exact bkpt gd c | rte gd => exact rte gd | wdog gd => exact wdog gd | dbgmbSend gd a => exact dbgmbSend gd a
  | dbgmbRecv gd d => exact dbgmbRecv gd d | dbgmbXchg gd d a => exact dbgmbXchg gd d a | halt c => exact halt c
  | circuitMovi d h k i => exact circuitMovi d h k i | circuitAdd d a b i => exact circuitAdd d a b i
  | circuitSub d a b => exact circuitSub d a b | circuitAnd d a b => exact circuitAnd d a b | beq a b o => exact beq a b o
  | bne a b o => exact bne a b o | blt a b o => exact blt a b o | jmp o => exact jmp o | ldc d a i => exact ldc d a i
  | stc a b i => exact stc a b i | creq a => exact creq a | cwait d a t => exact cwait d a t | cbind a b => exact cbind a b
  | crel a => exact crel a | portOff a => exact portOff a | portOn a => exact portOn a | portClr a => exact portClr a
  | pstat d a => exact pstat d a | slot a => exact slot a | srun a b k => exact srun a b k | sstop e => exact sstop e
  | csigFill a b => exact csigFill a b | csigArr a b => exact csigArr a b | csigMsg a b => exact csigMsg a b
  | wev d a b k t => exact wev d a b k t
  | _ => exact fun _ h => nomatch h

end Sys2Proof.Laws.RoundTrip

namespace Sys2Proof

/-! ## A word as the sum of its fields -/

/-- The bits of a word from bit `lo` on, as a number. A field is a difference of two of these, so the sum of fields that lie end to end
telescopes. -/
def above (w : Word) (lo : Nat) : Int := (w.toNat / 2 ^ lo : Nat)

theorem above_32 (w : Word) : above w 32 = 0 := by
  unfold above
  rw [Nat.div_eq_of_lt w.isLt]
  rfl

theorem fld_eq_above (w : Word) (lo n : Nat) : (fld w lo n : Int) = above w lo - 2 ^ n * above w (lo + n) := by
  have h : 2 ^ n * (w.toNat / 2 ^ (lo + n)) + fld w lo n = w.toNat / 2 ^ lo := by
    rw [Nat.pow_add, ← Nat.div_div_eq_div_mul]
    exact Nat.div_add_mod ..
  rw [eq_sub_iff_add_eq']
  unfold above
  exact_mod_cast h

theorem fld_beq_iff (w : Word) (lo n c : Nat) : (fld w lo n == c) = true ↔ above w lo - 2 ^ n * above w (lo + n) = c := by
  rw [beq_iff_eq, ← fld_eq_above, Int.ofNat_inj]

theorem bf_eq_above (w : Word) (lo n : Nat) : ((bf w lo n).toNat : Int) = above w lo - 2 ^ n * above w (lo + n) := by
  rw [bf_fld, fld_eq_above]

theorem bool_of_bit (n : Nat) : (n % 2 == 1).toNat = n % 2 := by
  rcases Nat.mod_two_eq_zero_or_one n with h | h <;> rw [h] <;> rfl

/-- R29: the header's bits are those from bit 27 on. -/
theorem guardBits_guardOf (w : Word) : (guardBits (guardOf w) : Int) = above w 27 * 2 ^ 27 := by
  have hw := w.isLt
  unfold guardBits guardOf above
  simp only [bf_fld, fld, Nat.reducePow, bool_of_bit]
  omega

theorem word32_of_above {n : Nat} {w : Word} (h : (n : Int) = above w 0) : word32 n = w := by
  have hn : n = w.toNat := by simpa [above] using Int.ofNat_inj.1 h
  unfold word32
  rw [hn, BitVec.ofNat_toNat, BitVec.setWidth_eq]

/-! ## Rows of the opcode tables -/

/-- A word that has a row's fixed fields is the encoding of the instruction that the row builds of it, one of the row's opcode space. -/
def Row.Faithful (circuit : Bool) (r : Row) : Prop :=
  ∀ w, r.fits w = true → encode (r.build w) = some w ∧ (r.build w).isCircuit = circuit

/-- What a table of faithful rows decodes is encoded by the word that it was read from. -/
theorem encode_of_decodeRows {circuit : Bool} {w : Word} {i : Instr} : ∀ {rs : List Row}, (∀ r ∈ rs, r.Faithful circuit) →
    decodeRows rs w = .ok i → encode i = some w ∧ i.isCircuit = circuit
  | r :: rs, hrows, h => by
    obtain ⟨hr, hrs⟩ := List.forall_mem_cons.1 hrows
    unfold decodeRows at h
    split at h
    · rename_i hfits
      cases h
      exact hr w hfits
    · exact encode_of_decodeRows hrs h

/-- The fixed fields and operands of every row, and a SIMT row's header, lie end to end from bit 0 to bit 31 (R32 to R36, R54 to R56, R349). -/
theorem rows_faithful : (∀ r ∈ simtRows, r.Faithful false) ∧ ∀ r ∈ circuitRows, r.Faithful true := by
  unfold simtRows simtRows1 simtRows2 simtRows3 simtRows4 simtRows5 simtRows6 circuitRows circuitRows1 circuitRows2
  simp only [List.cons_append, List.nil_append, List.forall_mem_cons, List.not_mem_nil, false_implies, implies_true, and_true]
  and_intros
  all_goals -- the rows
    intro w h
    refine ⟨congrArg some (word32_of_above ?_), rfl⟩
    have h32 := above_32 w
    simp only [Row.fits, List.all_cons, List.all_nil, Bool.and_true, Bool.and_eq_true, fld_beq_iff, Int.cast_ofNat_Int, Int.natCast_add,
      Int.natCast_mul, bf_eq_above, guardBits_guardOf, Nat.reduceAdd] at h ⊢
    omega

/-- Settles O2, by the round trip of each constructor. -/
theorem everyEncodingReadsBack : Obligations.EveryEncodingReadsBack := Laws.RoundTrip.of_instr

/-- Settles O3: the rows of both tables are faithful. -/
theorem everyDecodedWordIsItsEncoding : Obligations.EveryDecodedWordIsItsEncoding :=
  ⟨fun _ _ => encode_of_decodeRows rows_faithful.1, fun _ _ => encode_of_decodeRows rows_faithful.2⟩

end Sys2Proof

/-! SUPPORT. A step as the run of the word that it fetches, and the PFX words. -/

namespace Sys2Proof.Machine
open Sys2Proof

/-! ## A fetched word runs -/

/-- R78: ending demotions changes threads alone. -/
theorem State.freshBundle_eq (s : State) : s.freshBundle = { s with thr := s.freshBundle.thr } := by
  have hfold : ∀ (ts : List Nat) (z : State), ∃ x, ts.foldl (fun s t => s.updThread t (fun th => { th with dm := false })) z = { z with thr := x } := by
    intro ts
    induction ts with
    | nil => exact fun z => ⟨z.thr, rfl⟩
    | cons t ts ih =>
      intro z
      obtain ⟨x, hx⟩ := ih (z.updThread t fun th => { th with dm := false })
      exact ⟨x, hx⟩
  unfold State.freshBundle
  split
  · obtain ⟨x, hx⟩ := hfold s.cur.threads s
    rw [hx]
  · rfl

theorem State.freshBundle_cur (s : State) : s.freshBundle.cur = s.cur := by rw [s.freshBundle_eq]

theorem State.freshBundle_warpOfThread (s : State) (t : Nat) : s.freshBundle.warpOfThread t = s.warpOfThread t := by
  rw [s.freshBundle_eq]; rfl

theorem State.freshBundle_fetchAt (s : State) (core part : Nat) (pc : DWord) : s.freshBundle.fetchAt core part pc = s.fetchAt core part pc := by
  rw [s.freshBundle_eq]; rfl

theorem State.noteFetch_cur (s : State) (core part : Nat) (pc : DWord) (w : Word) : (s.noteFetch core part pc w).cur = s.cur := by
  unfold State.noteFetch State.touch
  split
  · split <;> rfl
  · rfl

section
variable {s : State} {t : Nat} {ts : List Nat} {w : Word} {i : Instr} {u : State} (hts : s.cur.threads = t :: ts)
  (hf : s.fetchAt s.cur.core (s.warpOfThread t).part s.cur.pc = .word w) (hd : decodeSimt w = .ok i)
  (hu : exec i (s.atWord (s.warpOfThread t).part w) = .next u)
include hts hf hd

/-- R111: the word that a bundle's first thread fetches runs, if it decodes. -/
theorem State.runWord_of_fetched : s.freshBundle.runWord = exec i (s.atWord (s.warpOfThread t).part w) := by
  unfold State.runWord State.runFetched State.atWord
  simp only [s.freshBundle_cur, s.freshBundle_warpOfThread, s.freshBundle_fetchAt, State.noteFetch_cur, hts, hf, hd]

include hu

/-- A cycle in which a bundle's word runs ends with what the word has made of the state. -/
theorem State.issueCycle_of_fetched (held : Bool) : s.issueCycle held = .next (s.cycleDone u held) := by
  unfold State.issueCycle
  dsimp only
  rw [State.runWord_of_fetched hts hf hd, hu]
  rfl

end

theorem mem_isEmpty_of_threads {s : State} {t : Nat} {ts : List Nat} (h : s.cur.threads = t :: ts) : s.cur.mem.isEmpty = false :=
  mem_isEmpty_of_thread (h ▸ List.mem_cons_self ..)

/-- What the environment asks for happens while no bundle is issuing. -/
theorem State.move_of_input {s : State} {x : Input} {xs : List Input} (hm : s.cur.mem = []) (hi : s.inputs = x :: xs) :
    s.move = { s with inputs := xs }.inputMove x := by
  unfold State.move
  rw [hm, hi]
  rfl

/-- A core that chooses a bundle spends its turn on it. -/
theorem State.coreTurn_of_chosen {s : State} {c : Nat} {b : Bundle} {held : Bool} (hr : s.running = true) (ha : s.coreAlive c = true)
    (hc : s.choose c 64 (s.ready c) = (some b, held)) : s.coreTurn c = some ((s.startBundle c b).issueCycle held) := by
  unfold State.coreTurn
  rw [hr, ha, hc]
  rfl

/-- The context whose turn it is runs the word at its PC, if it decodes (R347, R348). -/
theorem State.circuitTurn_of_decoded {s : State} {k : Nat} {i : Instr} (hr : s.circuitsRun = true) (hk : s.nextContext = some k)
    (hpc : (s.cx k).pcOk = true) (hd : decodeCircuit (s.storeWord (s.cx k).pc) = .ok i) :
    s.circuitTurn = some (exec i { s with cp := { s.cp with last := k } }) := by
  unfold State.circuitTurn State.runCircuit
  simp [hr, hk, hpc, hd]

/-- Settles O4: each clause is the move's turn, at the word that it fetches. -/
theorem stepRunsTheDecodedInstruction : Obligations.StepRunsTheDecodedInstruction := by
  refine ⟨fun s t ts w i hts hf hd u hu => ?_, fun s c xs b held t ts w i => ?_, fun s k xs i hm hi hr hk hpc hd => ?_⟩
  · have hmove : s.move = s.issueCycle false := by
      unfold State.move
      rw [mem_isEmpty_of_threads hts]
      rfl
    rw [step, hmove, State.issueCycle_of_fetched hts hf hd hu]
  · intro s0 s1 hm hi hr ha hc hts hf hd u hu
    have hturn : s.move = s1.issueCycle held := by
      rw [State.move_of_input hm hi, State.inputMove, State.coreTurn_of_chosen hr ha hc]
    rw [step, hturn, State.issueCycle_of_fetched (s := s1) hts hf hd hu]
  · have hturn : s.move = exec i { s with inputs := xs, cp := { s.cp with last := k } } := by
      rw [State.move_of_input hm hi, State.inputMove, State.circuitTurn_of_decoded (s := { s with inputs := xs }) hr hk hpc hd]
    rw [step, hturn]

/-! ## Prefixes -/

theorem State.prefixWord_of_addPrefix {s : State} {i : Instr} {p : Prefixes} (hm : s.cur.mem ≠ []) (h : addPrefix s.cur.pfx i = some p) :
    s.prefixWord i = { s with cur := { s.cur with pfx := p, pc := s.cur.pc + 4 } } := by
  unfold State.prefixWord
  rw [if_neg (by simpa using hm), h]

theorem State.prefixWord_of_refused {s : State} {i : Instr} (hm : s.cur.mem ≠ []) (h : addPrefix s.cur.pfx i = none) :
    s.prefixWord i = (s.trapBundle 2).endWord := by
  unfold State.prefixWord
  rw [if_neg (by simpa using hm), h]

/-- Settles O25: each PFX word joins the prefixes or is refused; for one of kind 10 the threads that go on are those whose tokens are complete. -/
theorem prefixesJoinTheGroup : Obligations.PrefixesJoinTheGroup := by
  intro e o c l m h s hm
  refine ⟨fun hx => ⟨_, rfl, ?_⟩, fun hx hwf => ⟨_, rfl, ?_⟩, fun hx hwf => ⟨_, rfl, ?_⟩, fun hx hn t ht => ⟨_, rfl, ?_⟩⟩
  · exact State.prefixWord_of_addPrefix hm (by simp [addPrefix, hx])
  · have hok : (Instr.pfxOrd o c l).fieldsOk = true := hwf
    exact State.prefixWord_of_addPrefix hm (by simp [addPrefix, hx, hok])
  · have hok : (Instr.pfxTok m h).fieldsOk = true := hwf
    rw [State.prefixWord_of_addPrefix (p := { s.cur.pfx with tok := some (m, h) }) hm (by simp [addPrefix, hx, hok])]
    dsimp only
    rw [if_neg (by simpa using hm)]
    by_cases hgo : s.cur.mem.filter (fun x => (s.warp (warpKey s.cur.core x.2)).tokensDone m) = []
    · rw [hgo]
      exact ⟨fun _ => rfl, fun hne => (hne rfl).elim, fun _ => rfl⟩
    · rw [if_neg (by simpa using hgo)]
      refine ⟨fun he => (hgo he).elim, fun _ => rfl, fun u => ?_⟩
      split <;> rfl
  · rw [State.prefixWord_of_refused hm (by simp [addPrefix, Option.isSome_iff_ne_none.2 hx])]
    exact (State.trapBundle_trapped hn ht rfl).1

end Sys2Proof.Machine

/-! SUPPORT. The special registers: what CSRR reads and what CSRW writes, lane by lane, and what each lane leaves of the others. -/

namespace Sys2Proof.Machine
open Sys2Proof

/-! ## Lanes that act in turn -/

/-- A lane word that executes runs its lanes and then has the other threads advance. -/
theorem State.laneWord_executes {s : State} {i : Instr} {g : Guard} (hg : i.guard? = some g) (h : s.executes i) (f : State → Nat → State × Adv) :
    s.laneWord i f = ((s.bystanders i).foldl State.skip (s.eachLane (markOf i) f (s.participants i))).endWord := by
  unfold State.laneWord
  rw [State.simt_executes hg h]

theorem State.eachLane_cons (s : State) (k : Bool) (f : State → Nat → State × Adv) (t : Nat) (ts : List Nat) :
    s.eachLane k f (t :: ts) = ((f s t).1.goOn t k (f s t).2).eachLane k f ts := rfl

theorem State.eachLane_append (k : Bool) (f : State → Nat → State × Adv) : ∀ (us vs : List Nat) (s : State),
    s.eachLane k f (us ++ vs) = (s.eachLane k f us).eachLane k f vs
  | [], _, _ => rfl
  | u :: us, vs, s => State.eachLane_append k f us vs ((f s u).1.goOn u k (f s u).2)

/-- R30: a steady thread whose guard is false advances once the lanes have acted, if these have left it and its warp alone. -/
theorem State.bystander_onlyAdvances {s z : State} {i : Instr} (h : s.executes i) (honly : s.onlyThreads z) {u : Nat}
    (hwarp : (s.warp (warpOf u)).sameBut (z.warp (warpOf u))) (hthread : z.thread u = s.thread u) (hu : u ∈ s.cur.threads)
    (hp : u ∉ s.participants i) (hst : s.steady u) : onlyAdvances s ((s.bystanders i).foldl State.skip z).endWord u := by
  have hmem : u ∈ s.bystanders i := List.mem_filter.2 ⟨hu, by simpa [State.mem_participants, hu] using hp⟩
  rw [onlyAdvances, State.endWord_thread, State.skips_thread (s.bystanders i) z (List.Nodup.filter _ h.2.1) hmem (State.steady_of_eq hwarp hthread hst),
    hthread, honly.cur]
  exact ⟨(s.thread u).goTo_goesOnAt _, rfl⟩

/-- A steady thread that passes its word before other threads advance. -/
theorem State.pass_skips (s : State) {t : Nat} (k : Bool) {us : List Nat} (hus : ∀ u ∈ us, u ≠ t) (hst : s.steady t) :
    let z := us.foldl State.skip (s.pass t k)
    s.onlyThreads z ∧ (s.warp (warpOf t)).sameBut (z.warp (warpOf t)) ∧ z.thread t = (s.thread t).passed k s.cur.nextPc :=
  ⟨State.onlyThreads.foldl (fun _ _ u h => h.skip u) us ((State.onlyThreads.refl s).pass t k),
    (s.pass_warp t k _).trans (State.foldl_warp (fun z u => z.pass_warp u false _) us _),
    (State.skips_thread_ne hus).trans (s.pass_thread t k hst)⟩

/-- What every lane's part and way on keep holds after the lanes. -/
theorem State.eachLane_keeps {k : Bool} {f : State → Nat → State × Adv} {P : State → Prop} : ∀ {us : List Nat} {s : State},
    (∀ z, ∀ u ∈ us, P z → P ((f z u).1.goOn u k (f z u).2)) → P s → P (s.eachLane k f us)
  | [], _, _, h => h
  | u :: us, s, hf, h =>
    State.eachLane_keeps (us := us) (fun z v hv => hf z v (List.mem_cons_of_mem u hv)) (hf s u (List.mem_cons_self ..) h)

namespace State.Stable
variable {ts : List Nat} {P : State → Prop}

/-- How a lane goes on keeps a stable property. -/
theorem goOn (hP : Stable ts P) {t : Nat} (ht : t ∈ ts) (k : Bool) {z : State} (h : P z) : ∀ a : Adv, P (z.goOn t k a)
  | .pass => hP.pass ht k h
  | .jump _ => hP.finishWord ht k _ _ (hP.thread ht ⟨rfl, rfl, rfl, rfl, rfl⟩ h)
  | .branch _ => hP.finishWord ht k _ _ (hP.thread ht ⟨rfl, rfl, rfl, rfl, rfl⟩ h)
  | .stay => h
  | .set => hP.finishWord ht k _ _ h
  | .trap _ _ => hP.takeTrap ht _ _ _ _ _ h

/-- A LANE WORD keeps a stable property that each participant's part keeps, whatever becomes of the word. -/
theorem laneWord {s : State} (hP : Stable s.cur.threads P) (i : Instr) {f : State → Nat → State × Adv}
    (hf : ∀ z, ∀ t ∈ s.participants i, P z → P (f z t).1) (h : P s) : P (s.laneWord i f) :=
  hP.simt i _ (fun _ _ hps hz => State.eachLane_keeps (fun z t ht hz =>
    hP.goOn (State.mem_participants.1 (hps t ht)).1 _ (hf z t (hps t ht) hz) _) hz) h

end State.Stable

/-! ## Reading a special register (R50, R53) -/

/-- The registers that a thread has, by number, with their widths, are those that the statement lists. -/
theorem specialRegisters_read (s : State) (t : Nat) :
    ∀ e ∈ specialRegisters s t, s.special t e.1 = e.2.2 ∧ e.2.1 = if csrWide e.1 then 64 else 32 := by
  unfold specialRegisters
  simp only [List.cons_append, List.nil_append, List.forall_mem_cons, List.not_mem_nil, false_implies, implies_true, and_true]
  and_intros
  all_goals rfl

theorem specialRegisters_numbers (s : State) (t : Nat) : (specialRegisters s t).map Prod.fst =
    [0x00, 0x01, 0x02, 0x03, 0x04, 0x05, 0x06, 0x07, 0x08, 0x09, 0x0A, 0x0B, 0x0C, 0x0D, 0x0E, 0x0F, 0x10, 0x11, 0x12, 0x13, 0x14, 0x15,
     0x18, 0x19, 0x1A, 0x1C, 0x1D, 0x1E, 0x20, 0x21, 0x22, 0x24, 0x25, 0x26, 0x27, 0x28, 0x29, 0x2A, 0x2B, 0x30] := rfl

/-- R53: a number that none of the registers has is unassigned. -/
theorem csrAssigned_of_not_listed {s : State} {t : Nat} {a : BitVec 6} (h : ∀ e ∈ specialRegisters s t, e.1 ≠ a.toNat) :
    csrAssigned a.toNat = false := by
  have hmem : a.toNat ∉ (specialRegisters s t).map Prod.fst := fun hm => by
    obtain ⟨e, he, hea⟩ := List.mem_map.1 hm
    exact h e he hea
  rw [specialRegisters_numbers] at hmem
  revert hmem
  clear h
  revert a
  decide

/-- R37: a word with a reserved field takes cause 0x02, whatever its guard and prefixes. -/
theorem decodeCause_of_reserved {i : Instr} (h : i.fieldsOk = false) (p : Prefixes) (m : Nat) : i.decodeCause p m = some 2 := by
  unfold Instr.decodeCause
  simp [h]


/-- What a thread reads of its registers is of the thread, its warp, its core and the device alone. -/
theorem State.special_of_same {s z : State} (h : s.onlyThreads z) {t : Nat} (hw : (s.warp (warpOf t)).sameBut (z.warp (warpOf t)))
    (ht : z.thread t = s.thread t) (m : Nat) : z.special t m = s.special t m := by
  have hdev : z.devId = s.devId := by rw [h]; rfl
  unfold State.special State.warpOfThread
  dsimp only
  rw [h.coreAt, ht, hw, hdev]

/-- A thread that has gone on reads all its registers as before, but for the depth of its loop stack. -/
theorem State.special_of_passed {s z : State} (h : s.onlyThreads z) {t : Nat} (hw : (s.warp (warpOf t)).sameBut (z.warp (warpOf t)))
    {pc : DWord} {l : List LoopEntry} {k : Park} (ht : z.thread t = { s.thread t with pc := pc, lstk := l, park := k }) {m : Nat} (hm : m ≠ 0x0F) :
    z.special t m = s.special t m := by
  have hdev : z.devId = s.devId := by rw [h]; rfl
  unfold State.special State.warpOfThread
  dsimp only
  rw [h.coreAt, ht, hw, hdev]
  split
  case h_16 => exact (hm rfl).elim
  all_goals rfl

/-- What a lane of CSRR writes (R51, R53). -/
def csrrOut (d a : BitVec 6) (s : State) (t : Nat) : LaneOut := { regs := sprWrites a d (s.special t a.toNat) }

/-- A lane of CSRR: it writes its results, ready four cycles later, and passes. -/
def csrrLane (g : Guard) (d a : BitVec 6) (s : State) (t : Nat) : State × Adv :=
  (s.updThread t (fun th => (th.write (csrrOut d a s t)).readyFrom (s.cycleOf s.cur.core + 4) ((csrrOut d a s t).marks (.csrr g d a))), .pass)

theorem exec_csrr (g : Guard) (d a : BitVec 6) (s : State) : exec (.csrr g d a) s = .next (s.laneWord (.csrr g d a) (csrrLane g d a)) := rfl

/-- The lanes of CSRR write back, each from the state before the word: no lane changes what another reads. -/
theorem State.eachLane_csrr (g : Guard) (d a : BitVec 6) (s : State) : ∀ (ts : List Nat) (z : State), ts.Nodup → s.onlyThreads z →
    (∀ v, (s.warp v).sameBut (z.warp v)) → (∀ t ∈ ts, z.thread t = s.thread t) →
    z.eachLane (markOf (.csrr g d a)) (csrrLane g d a) ts =
      (ts.map (fun t => (t, csrrOut d a s t))).foldl (fun z o => z.writeBack (.csrr g d a) 4 o) z
  | [], _, _, _, _, _ => rfl
  | t :: ts, z, hn, h, hw, ht => by
    obtain ⟨hnot, hn⟩ := List.nodup_cons.1 hn
    have hout : csrrOut d a z t = csrrOut d a s t := by
      unfold csrrOut
      rw [State.special_of_same h (hw _) (ht t (List.mem_cons_self ..))]
    have hlane : (csrrLane g d a z t).1.goOn t (markOf (.csrr g d a)) (csrrLane g d a z t).2 = z.writeBack (.csrr g d a) 4 (t, csrrOut d a s t) := by
      rw [← hout]; rfl
    rw [State.eachLane_cons, hlane]
    refine State.eachLane_csrr g d a s ts _ hn (State.writeBack_onlyThreads h ..) (fun v => (hw v).trans (State.writeBack_warp ..)) fun u hu => ?_
    rw [State.writeBack_thread_ne _ (ne_of_mem_of_not_mem hu hnot).symm, ht u (List.mem_cons_of_mem _ hu)]

section
variable {s : State} {g : Guard} {d a : BitVec 6} (h : s.executes (.csrr g d a))
include h

theorem State.csrr_runs : s.laneWord (.csrr g d a) (csrrLane g d a) = ((s.bystanders (.csrr g d a)).foldl State.skip
    (((s.participants (.csrr g d a)).map (fun t => (t, csrrOut d a s t))).foldl (fun z o => z.writeBack (.csrr g d a) 4 o) s)).endWord := by
  rw [State.laneWord_executes (g := g) rfl h, State.eachLane_csrr g d a s _ s (State.participants_nodup h) (.refl s) (fun _ => .refl _) fun _ _ => rfl]

/-- A participant of CSRR is as its write-back leaves it. -/
theorem State.csrr_participant {t : Nat} (ht : t ∈ s.participants (.csrr g d a)) : ∃ z : State, s.onlyThreads z ∧ z.thread t = s.thread t ∧
    (∀ v, (s.warp v).sameBut (z.warp v)) ∧
    (s.laneWord (.csrr g d a) (csrrLane g d a)).thread t = (z.writeBack (.csrr g d a) 4 (t, csrrOut d a s t)).thread t := by
  rw [State.csrr_runs h, State.endWord_thread, State.skips_thread_ne (State.not_bystander ht)]
  exact State.writeBacks_thread _ 4 (csrrOut d a s) t _ s (State.participants_nodup h) ht

/-- R30, R31: CSRR is behind every thread of its bundle. -/
theorem State.csrr_movesPast : movesPast s (s.laneWord (.csrr g d a) (csrrLane g d a)) (.csrr g d a) := by
  refine fun hsteady => ⟨fun u hu hp => ?_, fun u hu => ?_⟩
  · obtain ⟨honly, hwarp, hother⟩ := s.writeBacks_frame (.csrr g d a) 4 ((s.participants (.csrr g d a)).map (fun t => (t, csrrOut d a s t)))
    have hthread := hother u fun o ho => by
      obtain ⟨t, ht, rfl⟩ := List.mem_map.1 ho
      exact ne_of_mem_of_not_mem ht hp
    rw [State.csrr_runs h]
    exact State.bystander_onlyAdvances h honly (hwarp _) hthread hu hp (hsteady u hu)
  · obtain ⟨z, honly, hthread, hwarp, he⟩ := State.csrr_participant h hu
    rw [he, State.writeBack_thread _ _ _ _ _ (State.steady_of_eq (hwarp _) hthread (hsteady u (State.mem_participants.1 hu).1)), hthread, honly.cur,
      Thread.write_eq, marked_iff]
    obtain ⟨hgoes, _, _, hpark⟩ := Thread.passed_with_results (s.thread u) _ _ _ _ _ (markOf (.csrr g d a)) s.cur.nextPc
    refine ⟨hgoes, fun hm ho => hpark.trans (if_pos ⟨hm, ho⟩), fun hn => hpark.trans (if_neg fun hy => ?_)⟩
    exact hn.elim (fun hm => hm hy.1) (fun ho => hy.2 ho)

/-- A participant of CSRR holds its results, and its other registers, predicates and flags as they were. -/
theorem State.csrr_data {t : Nat} (ht : t ∈ s.participants (.csrr g d a)) :
    let th := (s.laneWord (.csrr g d a) (csrrLane g d a)).thread t
    th.regs = ((s.thread t).setRegs (sprWrites a d (s.special t a.toNat))).regs ∧ th.preds = (s.thread t).preds ∧
    th.fpflags = (s.thread t).fpflags := by
  obtain ⟨z, _, hthread, _, he⟩ := State.csrr_participant h ht
  obtain ⟨hregs, hpreds, hflags, _⟩ := z.writeBack_data t (.csrr g d a) 4 (csrrOut d a s t)
  obtain ⟨wregs, wpreds, wflags, _⟩ := (z.thread t).write_data (csrrOut d a s t)
  rw [hthread] at hregs hpreds hflags wregs wpreds wflags
  intro th
  rw [show th = _ from he]
  exact ⟨hregs.trans wregs, hpreds.trans wpreds, hflags.trans (wflags.trans BitVec.or_zero)⟩

end

/-- R51: a 32-bit register is written to d, and a 64-bit register to d and the register after it. -/
theorem setRegs_sprWrites (th : Thread) (a d : BitVec 6) (v : DWord) (k : Nat) :
    (th.setRegs (sprWrites a d v)).reg k =
      if k = d.toNat then v.extractLsb' 0 32 else if csrWide a.toNat = true ∧ k = d.toNat + 1 then v.extractLsb' 32 32 else th.reg k := by
  unfold sprWrites csrRegs
  cases csrWide a.toNat
  · show (th.setReg d.toNat (v.setWidth 32)).reg k = _
    rw [Thread.setReg_reg]
    simp [BitVec.setWidth_eq_extractLsb']
  · show ((th.setReg d.toNat (v.extractLsb' 0 32)).setReg (d.toNat + 1) (v.extractLsb' 32 32)).reg k = _
    rw [Thread.setReg_reg, Thread.setReg_reg]
    by_cases hk : k = d.toNat
    · rw [if_neg (by omega), if_pos hk, if_pos hk]
    · simp [hk]

/-- R51, R53, R415: what CSRR reads, and the numbers that it cannot. -/
theorem specialRegistersRead : clausesSpecialRegistersRead := by
  refine fun g d a s t => ⟨fun hx ht n v hv => ⟨_, rfl, ?_⟩, fun hn m => ?_⟩
  · obtain ⟨hval, hwidth⟩ := specialRegisters_read s t _ hv
    obtain ⟨hregs, hpreds, hflags⟩ := State.csrr_data hx ht
    dsimp only at hval hwidth
    have hreg : ∀ k, ((s.laneWord (.csrr g d a) (csrrLane g d a)).thread t).reg k = _ := fun k =>
      (congrArg (Tab.get 0 · k) hregs).trans (setRegs_sprWrites (s.thread t) a d (s.special t a.toNat) k)
    rw [hval] at hreg
    have hwide : n = 64 ↔ csrWide a.toNat = true := by
      rw [hwidth]
      cases csrWide a.toNat <;> simp
    refine ⟨State.csrr_movesPast hx, ?_, fun u hu => ?_, ?_, fun h64 => ?_, fun k hk hk1 => ?_, hpreds, hflags⟩
    · exact (State.Stable.rest s _).laneWord _ (fun _ _ _ h => h) (restKept_refl s)
    · exact (State.Stable.ofRegisters (fun k h => sameRegisters_trans h k) _ u).laneWord _ (fun z t ht h => by
        show sameRegisters (s.thread u) ((z.updThread t _).thread u)
        rwa [State.updThread_thread_ne _ (ne_of_mem_of_not_mem ht hu).symm]) (sameRegisters_refl _)
    · exact (hreg _).trans (if_pos rfl)
    · exact (hreg _).trans ((if_neg (by omega)).trans (if_pos ⟨hwide.1 h64, rfl⟩))
    · exact (hreg k).trans ((if_neg hk).trans (if_neg fun ⟨hy, he⟩ => hk1 (hwide.2 hy) he))
  · have hfree := csrAssigned_of_not_listed hn
    exact ⟨decodeCause_of_reserved (i := .csrr g d a) hfree _ m, decodeCause_of_reserved (i := .csrw g d a) hfree _ m⟩

/-! ## Writing a special register (R52, R395, R413) -/

/-- A thread whose writable special registers may differ, but only number `n`. -/
def Thread.specialsBut (n : Nat) (a b : Thread) : Prop :=
  b = { a with trpc := b.trpc, fpflags := b.fpflags, fpmode := b.fpmode, srseed := b.srseed } ∧
  (n ≠ 0x11 → b.trpc = a.trpc) ∧ (n ≠ 0x18 → b.fpflags = a.fpflags) ∧ (n ≠ 0x19 → b.fpmode = a.fpmode) ∧ (n ≠ 0x1A → b.srseed = a.srseed)

/-- A core whose writable special registers may differ, but only number `n`. -/
def Core.specialsBut (n : Nat) (a b : Core) : Prop :=
  let x := fun (c : Core) (k : Nat) => Tab.get Watch.init c.watch k
  b = { a with watch := b.watch, whalt := b.whalt, govmodeNext := b.govmodeNext } ∧
  (n ≠ 0x1E → b.govmodeNext = a.govmodeNext) ∧ (n ≠ 0x22 → b.whalt = a.whalt) ∧
  ∀ k, (n ≠ 0x24 + k → (x b k).addr = (x a k).addr) ∧ (n ≠ 0x28 + k → (x b k).mask = (x a k).mask)

/-- A warp whose writable special registers may differ, but only number `n`. -/
def Warp.specialsBut (n : Nat) (a b : Warp) : Prop :=
  b = { a with wdoglim := b.wdoglim, sstep := b.sstep } ∧ (n ≠ 0x20 → b.wdoglim = a.wdoglim) ∧ (n ≠ 0x21 → b.sstep = a.sstep)

theorem Thread.specialsBut.refl (n : Nat) (a : Thread) : a.specialsBut n a := ⟨rfl, fun _ => rfl, fun _ => rfl, fun _ => rfl, fun _ => rfl⟩
theorem Core.specialsBut.refl (n : Nat) (a : Core) : a.specialsBut n a := ⟨rfl, fun _ => rfl, fun _ => rfl, fun _ => ⟨fun _ => rfl, fun _ => rfl⟩⟩
theorem Warp.specialsBut.refl (n : Nat) (a : Warp) : a.specialsBut n a := ⟨rfl, fun _ => rfl, fun _ => rfl⟩

/-- R413: a watchpoint's address and mask are two registers; writing one leaves the other and the other watchpoints. -/
theorem Core.specialsBut_watch {n j part fdom : Nat} {f : Watch → Watch} (c : Core)
    (haddr : n ≠ 0x24 + j → ∀ x, (f x).addr = x.addr) (hmask : n ≠ 0x28 + j → ∀ x, (f x).mask = x.mask) :
    c.specialsBut n { c with watch := Tab.put Watch.init c.watch j { f (Tab.get Watch.init c.watch j) with part := part, fdom := fdom } } := by
  refine ⟨rfl, fun _ => rfl, fun _ => rfl, fun k => ?_⟩
  dsimp only
  rw [Tab.get_put]
  split
  · rename_i e
    subst e
    exact ⟨fun h => haddr h _, fun h => hmask h _⟩
  · exact ⟨fun _ => rfl, fun _ => rfl⟩

/-- WHAT WRITING A SPECIAL REGISTER CAN DO: that register alone changes, of the thread, of its core or of its warp; a number that is not writable
does nothing. -/
theorem State.setSpecial_cases (s : State) (t n : Nat) (v : DWord) :
    (∃ f, s.setSpecial t n v = s.updThread t f ∧ ∀ th : Thread, th.specialsBut n (f th)) ∨
    (∃ f, s.setSpecial t n v = s.updCore (coreOfThread t) f ∧ ∀ c : Core, c.specialsBut n (f c)) ∨
    (∃ f, s.setSpecial t n v = s.updWarp (warpOf t) f ∧ ∀ w : Warp, w.specialsBut n (f w)) ∨
    s.setSpecial t n v = s := by
  unfold State.setSpecial
  dsimp only
  split
  case h_1 | h_2 | h_3 | h_4 => exact .inl ⟨_, rfl, fun _ => ⟨rfl, by simp, by simp, by simp, by simp⟩⟩
  case h_5 | h_8 => exact .inr (.inl ⟨_, rfl, fun _ => ⟨rfl, by simp, by simp, fun _ => ⟨fun _ => rfl, fun _ => rfl⟩⟩⟩)
  case h_6 | h_7 => exact .inr (.inr (.inl ⟨_, rfl, fun _ => ⟨rfl, by simp, by simp⟩⟩))
  case h_9 | h_10 | h_11 | h_12 => exact .inr (.inl ⟨_, rfl, fun c =>
    Core.specialsBut_watch (f := fun x => { x with addr := v &&& ~~~7#64 }) c (fun h => (h rfl).elim) (fun _ _ => rfl)⟩)
  case h_13 | h_14 | h_15 | h_16 => exact .inr (.inl ⟨_, rfl, fun c =>
    Core.specialsBut_watch (f := fun x => { x with mask := v &&& ~~~4#64 }) c (fun _ _ => rfl) (fun h => (h rfl).elim)⟩)
  case h_17 => exact .inr (.inr (.inr rfl))

/-- A thread reads every register but `n` as before if no other has changed. -/
theorem State.special_of_specialsBut {s z : State} {t n m : Nat} (hdev : z.devId = s.devId) (ht : (s.thread t).specialsBut n (z.thread t))
    (hc : (s.coreAt (coreOfThread t)).specialsBut n (z.coreAt (coreOfThread t))) (hw : (s.warpOfThread t).specialsBut n (z.warpOfThread t))
    (hm : m ≠ n) : z.special t m = s.special t m := by
  obtain ⟨ht, h11, h18, h19, h1a⟩ := ht
  obtain ⟨hc, h1e, h22, hwatch⟩ := hc
  obtain ⟨hw, h20, h21⟩ := hw
  unfold State.special
  dsimp only
  rw [hdev, hc, hw, ht]
  split
  case h_18 => exact h11 hm.symm
  case h_23 => exact congrArg _ (h18 hm.symm)
  case h_24 => exact congrArg _ (h19 hm.symm)
  case h_25 => exact congrArg _ (h1a hm.symm)
  case h_28 => exact congrArg (fun b : Bool => if b then (1 : DWord) else 0) (h1e hm.symm)
  case h_29 => exact congrArg _ (h20 hm.symm)
  case h_30 => exact congrArg (fun b : Bool => if b then (1 : DWord) else 0) (h21 hm.symm)
  case h_31 => exact h22 hm.symm
  case h_32 | h_33 | h_34 | h_35 => exact (hwatch _).1 hm.symm
  case h_36 | h_37 | h_38 | h_39 => exact (hwatch _).2 hm.symm
  all_goals rfl

theorem State.setSpecial_special_ne (s : State) (t u n : Nat) (v : DWord) {m : Nat} (hm : m ≠ n) :
    (s.setSpecial u n v).special t m = s.special t m := by
  rcases s.setSpecial_cases u n v with ⟨f, e, hf⟩ | ⟨f, e, hf⟩ | ⟨f, e, hf⟩ | e
  · rw [e]
    refine State.special_of_specialsBut rfl ?_ (.refl n _) (.refl n _) hm
    rw [State.updThread_thread]
    split
    · rename_i he; subst he; exact hf _
    · exact .refl n _
  · rw [e]
    refine State.special_of_specialsBut rfl (.refl n _) ?_ (.refl n _) hm
    rw [State.updCore_coreAt]
    split
    · rename_i he; rw [he]; exact hf _
    · exact .refl n _
  · rw [e]
    refine State.special_of_specialsBut rfl (.refl n _) (.refl n _) ?_ hm
    unfold State.warpOfThread
    rw [State.updWarp_warp]
    split
    · rename_i he; rw [he]; exact hf _
    · exact .refl n _
  · rw [e]


/-- The low bits of a double word, extended again, are those bits alone. -/
theorem setWidth_zeroExtend (v : DWord) {k : Nat} (hk : k ≤ 64) : (v.setWidth k).zeroExtend 64 = v &&& BitVec.ofNat 64 (2 ^ k - 1) := by
  have hpow : 2 ^ k ≤ 2 ^ 64 := Nat.pow_le_pow_right (by decide) hk
  apply BitVec.eq_of_toNat_eq
  have h1 : (2 ^ k - 1) % 2 ^ 64 = 2 ^ k - 1 := Nat.mod_eq_of_lt (by have := Nat.two_pow_pos k; omega)
  rw [BitVec.toNat_and, BitVec.toNat_ofNat, h1, Nat.and_two_pow_sub_one_eq_mod, BitVec.toNat_setWidth, BitVec.toNat_setWidth]
  exact Nat.mod_eq_of_lt (lt_of_lt_of_le (Nat.mod_lt _ (Nat.two_pow_pos k)) hpow)

theorem lowBit_eq (v : DWord) : (if v.getLsbD 0 then (1 : DWord) else 0) = v &&& 1 := by
  rw [show (1 : DWord) = 1#64 from rfl, BitVec.and_one_eq_setWidth_ofBool_getLsbD]
  cases v.getLsbD 0 <;> rfl

/-- R413: the watchpoint that is written, with the writer's partition and fault domain. -/
theorem State.setWatch_watch (s : State) (core n part fdom : Nat) (f : Watch → Watch) :
    Tab.get Watch.init ((s.setWatch core n part fdom f).coreAt core).watch n =
      { f (Tab.get Watch.init (s.coreAt core).watch n) with part := part, fdom := fdom } := by
  unfold State.setWatch
  rw [State.updCore_coreAt_same, Tab.get_put_same]

theorem State.setSpecial_watch (s : State) (t : Nat) {n : Nat} (v : DWord) (hlo : 0x24 ≤ n) (hhi : n ≤ 0x2B) :
    let x := Tab.get Watch.init ((s.setSpecial t n v).coreAt (coreOfThread t)).watch (n % 4)
    x.part = (s.warpOfThread t).part ∧ x.fdom = (s.viewOf (s.warpOfThread t)).fdom (s.warpOfThread t).rcb := by
  interval_cases n
  all_goals exact ⟨congrArg Watch.part (State.setWatch_watch ..), congrArg Watch.fdom (State.setWatch_watch ..)⟩

/-- R395: a writable register reads as what was written, less its reserved bits. -/
theorem State.setSpecial_special_same (s : State) (t : Nat) (v : DWord) : ∀ n ∈ writable, (s.setSpecial t n v).special t n = v &&& keptBits n := by
  unfold writable
  simp only [List.forall_mem_cons, List.not_mem_nil, false_implies, implies_true, and_true]
  refine ⟨?_, ?_, ?_, ?_, ?_, ?_, ?_, ?_, congrArg Watch.addr (State.setWatch_watch ..), congrArg Watch.addr (State.setWatch_watch ..),
    congrArg Watch.addr (State.setWatch_watch ..), congrArg Watch.addr (State.setWatch_watch ..), congrArg Watch.mask (State.setWatch_watch ..),
    congrArg Watch.mask (State.setWatch_watch ..), congrArg Watch.mask (State.setWatch_watch ..), congrArg Watch.mask (State.setWatch_watch ..)⟩
  · show ((s.updThread t _).thread t).trpc = _
    rw [State.updThread_thread_same]
    exact BitVec.and_allOnes.symm
  · show ((s.updThread t _).thread t).fpflags.zeroExtend 64 = _
    rw [State.updThread_thread_same]
    exact setWidth_zeroExtend v (by decide)
  · show ((s.updThread t _).thread t).fpmode.zeroExtend 64 = _
    rw [State.updThread_thread_same]
    exact setWidth_zeroExtend v (by decide)
  · show ((s.updThread t _).thread t).srseed.zeroExtend 64 = _
    rw [State.updThread_thread_same]
    exact setWidth_zeroExtend v (by decide)
  · show (if ((s.updCore _ _).coreAt _).govmodeNext then (1 : DWord) else 0) = _
    rw [State.updCore_coreAt_same]
    exact lowBit_eq v
  · show ((s.updWarp _ _).warp _).wdoglim.zeroExtend 64 = _
    rw [State.updWarp_warp_same]
    exact setWidth_zeroExtend v (by decide)
  · show (if ((s.updWarp _ _).warp _).sstep then (1 : DWord) else 0) = _
    rw [State.updWarp_warp_same]
    exact lowBit_eq v
  · show ((s.updCore _ _).coreAt _).whalt = _
    rw [State.updCore_coreAt_same]
    exact BitVec.and_allOnes.symm

/-! ## What a thread's trap and write depend on -/

/-- What decides how thread `t` traps and what it writes to a watchpoint is the same in two states. -/
structure State.sameFor (t : Nat) (s z : State) : Prop where
  cur : z.cur = s.cur
  thread : z.thread t = s.thread t
  part : (z.warpOfThread t).part = (s.warpOfThread t).part
  rcb : (z.warpOfThread t).rcb = (s.warpOfThread t).rcb
  view : z.viewOf (z.warpOfThread t) = s.viewOf (s.warpOfThread t)
  cycle : z.cycleOf (coreOfThread t) = s.cycleOf (coreOfThread t)

namespace State.sameFor
variable {t : Nat} {a b c : State}

theorem refl (t : Nat) (s : State) : sameFor t s s := ⟨rfl, rfl, rfl, rfl, rfl, rfl⟩

theorem trans (h : sameFor t a b) (k : sameFor t b c) : sameFor t a c :=
  ⟨k.cur.trans h.cur, k.thread.trans h.thread, k.part.trans h.part, k.rcb.trans h.rcb, k.view.trans h.view, k.cycle.trans h.cycle⟩

/-- Traps and passes of other threads are nothing to a thread. -/
theorem of_onlyThreads (h : a.onlyThreads b) (hw : (a.warp (warpOf t)).sameBut (b.warp (warpOf t))) (ht : b.thread t = a.thread t) :
    sameFor t a b where
  cur := h.cur
  thread := ht
  part := by unfold State.warpOfThread; rw [hw]
  rcb := by unfold State.warpOfThread; rw [hw]
  view := by unfold State.viewOf State.view State.launch? State.part State.warpOfThread; rw [hw, h]
  cycle := by unfold State.cycleOf; rw [h.coreAt]

/-- Nor are special registers that another thread writes. -/
theorem setSpecial {u : Nat} (hu : t ≠ u) (s : State) (n : Nat) (v : DWord) : sameFor t s (s.setSpecial u n v) := by
  rcases s.setSpecial_cases u n v with ⟨f, e, hf⟩ | ⟨f, e, hf⟩ | ⟨f, e, hf⟩ | e
  · rw [e]
    exact of_onlyThreads ((State.onlyThreads.refl s).updThread u f) (.refl _) (s.updThread_thread_ne hu f)
  · rw [e]
    refine ⟨rfl, rfl, rfl, rfl, rfl, ?_⟩
    unfold State.cycleOf
    rw [State.updCore_coreAt]
    split
    · rename_i he; rw [he, (hf _).1]
    · rfl
  · rw [e]
    have hw : ∀ k, ∃ x y, (s.updWarp (warpOf u) f).warp k = { s.warp k with wdoglim := x, sstep := y } := fun k => by
      rw [State.updWarp_warp]
      split
      · rename_i he; rw [he]; exact ⟨_, _, (hf _).1⟩
      · exact ⟨_, _, rfl⟩
    obtain ⟨x, y, hw⟩ := hw (warpOf t)
    refine ⟨rfl, rfl, ?_, ?_, ?_, rfl⟩
    · unfold State.warpOfThread; rw [hw]
    · unfold State.warpOfThread; rw [hw]
    · unfold State.warpOfThread; rw [hw]; rfl
  · rw [e]; exact refl t s

theorem traphOf (h : sameFor t a b) : b.traphOf t = a.traphOf t := by
  show (b.viewOf (b.warpOfThread t)).traph (b.warpOfThread t).rcb = _
  rw [h.view, h.rcb]
  rfl

/-- A thread that takes a trap takes it as it would have in a state that is the same for it. -/
theorem tookTrap (h : sameFor t a b) {k : Byte} (hk : toHk3 k = false) (ad : DWord) : a.tookTrap t k ad (b.trapWord t k ad) := by
  obtain ⟨hthread, hkill⟩ := State.trapWord_tookTrap (.refl b) (.refl _) rfl hk ad
  rw [h.thread, h.traphOf] at hkill
  refine ⟨?_, hkill⟩
  unfold State.trapWord
  rw [State.takeTrap_of_handled b t hk, State.takeTrap_of_handled a t hk, h.thread, h.traphOf, h.cur, h.cycle]
  split
  · rw [State.sendHk3_thread, State.sendHk3_thread, h.thread]
  · rw [State.updThread_thread_same, State.updThread_thread_same, h.thread]

end State.sameFor

/-- That a thread has trapped survives what other threads write to special registers. -/
theorem State.tookTrap_setSpecial {s z : State} {t u : Nat} (hu : t ≠ u) {c : Byte} {a : DWord} (h : s.tookTrap t c a z) (n : Nat) (v : DWord) :
    s.tookTrap t c a (z.setSpecial u n v) := by
  obtain ⟨hthread, hkill⟩ := h
  refine ⟨(State.sameFor.setSpecial hu z n v).thread.trans hthread, fun hk => ?_⟩
  rcases z.setSpecial_cases u n v with ⟨f, e, hf⟩ | ⟨f, e, hf⟩ | ⟨f, e, hf⟩ | e
  · rw [e]; exact hkill hk
  · rw [e]; exact hkill hk
  · rw [e, State.updWarp_warp]
    split
    · rename_i he
      rw [(hf _).1, ← he]
      exact hkill hk
    · exact hkill hk
  · rw [e]; exact hkill hk

/-! ## The lanes of CSRW (R52, R395) -/

/-- What a thread gives a special register: a pair for one of 64 bits, and else a register (R51). -/
def csrwValue (d a : BitVec 6) (th : Thread) : DWord := if csrRegs a = 2 then th.pair d.toNat else (th.reg d.toNat).zeroExtend 64

/-- A lane of CSRW. -/
def csrwLane (d a : BitVec 6) (s : State) (t : Nat) : State × Adv :=
  if !sprWritable a.toNat then (s, .trap 1 0)
  else if sprHandlerOnly a.toNat && !(s.thread t).h then (s, .trap 5 0)
  else (s.setSpecial t a.toNat (csrwValue d a (s.thread t)), .pass)

theorem exec_csrw (g : Guard) (d a : BitVec 6) (s : State) : exec (.csrw g d a) s = .next (s.laneWord (.csrw g d a) (csrwLane d a)) := rfl

theorem sprWritable_iff : ∀ a : BitVec 6, sprWritable a.toNat = true ↔ a.toNat ∈ writable := by decide
theorem sprHandlerOnly_iff : ∀ a : BitVec 6, sprHandlerOnly a.toNat = true ↔ a.toNat ∈ handlerOnly := by decide
theorem writable_of_handlerOnly : ∀ n ∈ handlerOnly, n ∈ writable := by decide

section
variable {d a : BitVec 6}

theorem csrwLane_readOnly (hn : a.toNat ∉ writable) : csrwLane d a = fun s _ => (s, .trap 1 0) := by
  have hw : sprWritable a.toNat = false := Bool.eq_false_iff.2 fun h => hn ((sprWritable_iff a).1 h)
  funext s t
  unfold csrwLane
  rw [hw]
  rfl

theorem csrwLane_forbidden {s : State} {t : Nat} (hn : a.toNat ∈ handlerOnly) (hh : (s.thread t).h = false) : csrwLane d a s t = (s, .trap 5 0) := by
  unfold csrwLane
  rw [(sprWritable_iff a).2 (writable_of_handlerOnly _ hn), (sprHandlerOnly_iff a).2 hn, hh]
  rfl

theorem csrwLane_writes {s : State} {t : Nat} (hn : a.toNat ∈ writable) (hh : a.toNat ∈ handlerOnly → (s.thread t).h = true) :
    csrwLane d a s t = (s.setSpecial t a.toNat (csrwValue d a (s.thread t)), .pass) := by
  have hok : (sprHandlerOnly a.toNat && !(s.thread t).h) = false := by
    by_cases ho : a.toNat ∈ handlerOnly
    · simp [hh ho]
    · rw [Bool.eq_false_iff.2 fun h => ho ((sprHandlerOnly_iff a).1 h)]
      rfl
  unfold csrwLane
  rw [(sprWritable_iff a).2 hn, hok]
  rfl

/-- WHAT A LANE OF CSRW CAN DO: its thread traps, or writes the register and passes. -/
theorem csrwLane_cases (d a : BitVec 6) (s : State) (t : Nat) :
    (∃ c, csrwLane d a s t = (s, .trap c 0)) ∨ csrwLane d a s t = (s.setSpecial t a.toNat (csrwValue d a (s.thread t)), .pass) := by
  by_cases hn : a.toNat ∈ writable
  · by_cases hh : a.toNat ∈ handlerOnly → (s.thread t).h = true
    · exact .inr (csrwLane_writes hn hh)
    · obtain ⟨ho, hh⟩ := Classical.not_imp.1 hh
      exact .inl ⟨5, csrwLane_forbidden ho (by simpa using hh)⟩
  · exact .inl ⟨1, by rw [csrwLane_readOnly hn]⟩

/-- A lane of CSRW leaves another thread as it is, with every register that the word does not name. -/
theorem csrwLane_other (z : State) {t u : Nat} (hu : t ≠ u) (k : Bool) :
    let z' := (csrwLane d a z u).1.goOn u k (csrwLane d a z u).2
    State.sameFor t z z' ∧ ∀ m, m ≠ a.toNat → z'.special t m = z.special t m := by
  rcases csrwLane_cases d a z u with ⟨c, e⟩ | e
  · rw [e]
    have honly := (State.onlyThreads.refl z).trapWord u c 0
    have hwarp := z.takeTrap_warp u c z.cur.pc0 z.cur.word z.cur.mask 0 (warpOf t)
    have hthread := z.takeTrap_thread_ne hu c z.cur.pc0 z.cur.word z.cur.mask 0
    exact ⟨.of_onlyThreads honly hwarp hthread, fun m _ => State.special_of_same honly hwarp hthread m⟩
  · rw [e]
    have honly := (State.onlyThreads.refl (z.setSpecial u a.toNat (csrwValue d a (z.thread u)))).pass u k
    have hwarp := (z.setSpecial u a.toNat (csrwValue d a (z.thread u))).pass_warp u k (warpOf t)
    have hthread := (z.setSpecial u a.toNat (csrwValue d a (z.thread u))).pass_thread_ne hu k
    exact ⟨(State.sameFor.setSpecial hu z _ _).trans (.of_onlyThreads honly hwarp hthread),
      fun m hm => (State.special_of_same honly hwarp hthread m).trans (z.setSpecial_special_ne t u _ _ hm)⟩

/-- Lanes of CSRW leave a thread that is none of theirs as it is, with every register that the word does not name. -/
theorem State.eachLane_csrw_other (s : State) {t : Nat} {us : List Nat} (ht : t ∉ us) (k : Bool) :
    sameFor t s (s.eachLane k (csrwLane d a) us) ∧ ∀ m, m ≠ a.toNat → (s.eachLane k (csrwLane d a) us).special t m = s.special t m := by
  refine State.eachLane_keeps (P := fun z => sameFor t s z ∧ ∀ m, m ≠ a.toNat → z.special t m = s.special t m) (fun z u hu h => ?_)
    ⟨.refl t s, fun _ _ => rfl⟩
  obtain ⟨hsame, hspecial⟩ := csrwLane_other (d := d) (a := a) z (ne_of_mem_of_not_mem hu ht).symm k
  exact ⟨h.1.trans hsame, fun m hm => (hspecial m hm).trans (h.2 m hm)⟩

end

/-! ## CSRW as a whole -/

/-- Memory and every thread's vector registers and predicates are as they were. -/
def State.sameMemoryAndRegisters (s z : State) : Prop :=
  (∀ k, z.byte k = s.byte k) ∧ ∀ u, (z.thread u).regs = (s.thread u).regs ∧ (z.thread u).preds = (s.thread u).preds

theorem State.Stable.memoryAndRegisters (s : State) (ts : List Nat) : Stable ts s.sameMemoryAndRegisters where
  thread := fun {z t f} _ hf ⟨hbyte, hreg⟩ => by
    refine ⟨hbyte, fun u => ?_⟩
    rw [State.updThread_thread]
    split
    · rename_i e; subst e; exact ⟨hf.1.trans (hreg u).1, hf.2.1.trans (hreg u).2⟩
    · exact hreg u
  hold := fun {z} w c k ⟨hbyte, hreg⟩ =>
    ⟨fun j => (((State.onlyThreads.refl z).holdWarp w c k).byte j).trans (hbyte j), fun u => by rw [State.holdWarp_thread]; exact hreg u⟩
  core := fun _ _ _ h => h
  count := fun _ _ h => h
  endWord := fun h => h

theorem State.sameMemoryAndRegisters.setSpecial {s z : State} (h : s.sameMemoryAndRegisters z) (t n : Nat) (v : DWord) :
    s.sameMemoryAndRegisters (z.setSpecial t n v) := by
  obtain ⟨hbyte, hreg⟩ := h
  rcases z.setSpecial_cases t n v with ⟨f, e, hf⟩ | ⟨f, e, hf⟩ | ⟨f, e, hf⟩ | e
  · rw [e]
    refine ⟨hbyte, fun u => ?_⟩
    rw [State.updThread_thread]
    split
    · rename_i he; subst he; rw [(hf _).1]; exact hreg u
    · exact hreg u
  all_goals rw [e]; exact ⟨hbyte, hreg⟩

/-- CSRW changes no memory, vector register or predicate, whatever becomes of it. -/
theorem State.csrw_sameMemoryAndRegisters (s : State) (g : Guard) (d a : BitVec 6) :
    s.sameMemoryAndRegisters (s.laneWord (.csrw g d a) (csrwLane d a)) := by
  refine (State.Stable.memoryAndRegisters s _).laneWord _ (fun z t _ h => ?_) ⟨fun _ => rfl, fun _ => ⟨rfl, rfl⟩⟩
  rcases csrwLane_cases d a z t with ⟨c, e⟩ | e
  · rw [e]; exact h
  · rw [e]; exact h.setSpecial ..

/-- A write of a special register leaves its thread's place, depth and mode. -/
theorem State.setSpecial_place (s : State) (t n : Nat) (v : DWord) :
    ((s.setSpecial t n v).thread t).depth = (s.thread t).depth ∧ ((s.setSpecial t n v).thread t).h = (s.thread t).h ∧
    ((s.setSpecial t n v).thread t).lstk = (s.thread t).lstk ∧ (s.setSpecial t n v).cur = s.cur := by
  rcases s.setSpecial_cases t n v with ⟨f, e, hf⟩ | ⟨f, e, hf⟩ | ⟨f, e, hf⟩ | e
  · rw [e, State.updThread_thread_same, (hf _).1]; exact ⟨rfl, rfl, rfl, rfl⟩
  all_goals rw [e]; exact ⟨rfl, rfl, rfl, rfl⟩

theorem State.sstep_of_special {s z : State} {t : Nat} (h : z.special t 0x21 = s.special t 0x21) :
    (z.warpOfThread t).sstep = (s.warpOfThread t).sstep := by
  have h : (if (z.warpOfThread t).sstep then (1 : DWord) else 0) = if (s.warpOfThread t).sstep then 1 else 0 := h
  cases hz : (z.warpOfThread t).sstep <;> cases hs : (s.warpOfThread t).sstep <;> simp [hz, hs] at h ⊢

section
variable {s : State} {g : Guard} {d a : BitVec 6} {t : Nat} (h : s.executes (.csrw g d a))
include h

/-- R52: a participant outside handler mode takes cause 0x05 for a register that only a handler may write. -/
theorem State.csrw_forbidden (ht : t ∈ s.participants (.csrw g d a)) (hn : a.toNat ∈ handlerOnly) (hh : (s.thread t).h = false) :
    trapped s (s.laneWord (.csrw g d a) (csrwLane d a)) t 5 0 := by
  refine State.trapped_of_tookTrap rfl ?_
  have hb := State.Stable.tookTrap s (ts := s.bystanders (.csrw g d a)) (t := t) (fun hb => State.not_bystander ht t hb rfl) 5 0
  rw [State.laneWord_executes (g := g) rfl h]
  refine hb.endWord (hb.skips (fun _ hu => hu) ?_)
  have hnodup := State.participants_nodup h
  obtain ⟨us, vs, e⟩ := List.append_of_mem ht
  rw [e] at hnodup ⊢
  have hus : t ∉ us := fun hu => (List.disjoint_of_nodup_append hnodup) hu (List.mem_cons_self ..)
  have hvs : t ∉ vs := (List.nodup_cons.1 (List.nodup_append.1 hnodup).2.1).1
  rw [State.eachLane_append, State.eachLane_cons]
  have hz := (s.eachLane_csrw_other (d := d) (a := a) hus (markOf (.csrw g d a))).1
  rw [csrwLane_forbidden hn (hz.thread ▸ hh)]
  have hv := State.Stable.tookTrap s hvs 5 0
  refine State.eachLane_keeps (fun z u hu hk => ?_) (hz.tookTrap rfl 0)
  rcases csrwLane_cases d a z u with ⟨c, e⟩ | e
  · rw [e]; exact hv.goOn hu _ hk (.trap c 0)
  · rw [e]; exact hv.goOn hu _ (State.tookTrap_setSpecial (ne_of_mem_of_not_mem hu hvs).symm hk _ _) .pass

/-- The last lane of CSRW, when it may write: the state in which its thread has written the register and has yet to pass. -/
theorem State.csrw_lastLane (hlast : (s.participants (.csrw g d a)).getLast? = some t) (hn : a.toNat ∈ writable)
    (hh : a.toNat ∈ handlerOnly → (s.thread t).h = true) : ∃ z : State, sameFor t s z ∧ (∀ m, m ≠ a.toNat → z.special t m = s.special t m) ∧
      s.laneWord (.csrw g d a) (csrwLane d a) = ((s.bystanders (.csrw g d a)).foldl State.skip
        ((z.setSpecial t a.toNat (csrwValue d a (s.thread t))).pass t (markOf (.csrw g d a)))).endWord := by
  have hnodup := State.participants_nodup h
  obtain ⟨us, e⟩ := List.getLast?_eq_some_iff.1 hlast
  have hus : t ∉ us := fun hu => List.disjoint_of_nodup_append (e ▸ hnodup) hu (List.mem_singleton_self t)
  obtain ⟨hsame, hspecial⟩ := s.eachLane_csrw_other (d := d) (a := a) hus (markOf (.csrw g d a))
  refine ⟨_, hsame, hspecial, ?_⟩
  rw [State.laneWord_executes (g := g) rfl h, e, State.eachLane_append, State.eachLane_cons, csrwLane_writes hn (hsame.thread ▸ hh), hsame.thread]
  rfl

/-- R52, R395: the last participant's write is what the register keeps; no other register of its thread changes, but for the depth of the loop
stack, and the thread passes the word. -/
theorem State.csrw_written (hlast : (s.participants (.csrw g d a)).getLast? = some t) (hst : s.steady t) (hn : a.toNat ∈ writable)
    (hh : a.toNat ∈ handlerOnly → (s.thread t).h = true) :
    let s' := s.laneWord (.csrw g d a) (csrwLane d a)
    s'.special t a.toNat = csrwValue d a (s.thread t) &&& keptBits a.toNat ∧ (∀ m, m ≠ a.toNat → m ≠ 0x0F → s'.special t m = s.special t m) ∧
    goesOnAt (s.thread t) (s'.thread t) (s.cur.pc + 4) ∧
    (0x24 ≤ a.toNat → a.toNat ≤ 0x2B → let x := Tab.get Watch.init (s'.coreAt (coreOfThread t)).watch (a.toNat % 4)
      x.part = (s.warpOfThread t).part ∧ x.fdom = (s.viewOf (s.warpOfThread t)).fdom (s.warpOfThread t).rcb) := by
  obtain ⟨z, hsame, hspecial, e⟩ := State.csrw_lastLane h hlast hn hh
  have ht : t ∈ s.participants (.csrw g d a) := List.mem_of_getLast? hlast
  rw [e]
  generalize csrwValue d a (s.thread t) = v
  obtain ⟨hdepth, hmode, hlstk, hcur⟩ := z.setSpecial_place t a.toNat v
  have hread := z.setSpecial_special_same t v _ hn
  have hother : ∀ m, m ≠ a.toNat → (z.setSpecial t a.toNat v).special t m = s.special t m := fun m hm =>
    (z.setSpecial_special_ne t t a.toNat v hm).trans (hspecial m hm)
  have hwatch := fun hlo hhi => z.setSpecial_watch t (n := a.toNat) v hlo hhi
  rw [hsame.thread] at hdepth hmode hlstk
  rw [hsame.cur] at hcur
  rw [hsame.view, hsame.part, hsame.rcb] at hwatch
  generalize z.setSpecial t a.toNat v = y at hdepth hmode hlstk hcur hread hother hwatch ⊢
  have hsteady : y.steady t := by
    by_cases hm : (s.thread t).h = true
    · exact .inr (hmode.trans hm)
    · exact .inl ((State.sstep_of_special (hother 0x21 fun hn => hm (hh (hn ▸ by decide)))).trans (hst.resolve_right hm))
  obtain ⟨honly, hwarp, hthread⟩ := y.pass_skips (markOf (.csrw g d a)) (State.not_bystander ht) hsteady
  generalize (s.bystanders (.csrw g d a)).foldl State.skip (y.pass t (markOf (.csrw g d a))) = x at honly hwarp hthread ⊢
  have hpassed := hthread.trans (Thread.passed_eq ..)
  refine ⟨?_, fun m hm hf => (State.special_of_passed honly hwarp hpassed hf).trans (hother m hm), ?_, fun hlo hhi => ?_⟩
  · exact (State.special_of_passed honly hwarp hpassed (fun hf => absurd (hf ▸ hn) (by decide))).trans hread
  · rw [State.endWord_thread, hthread, hcur, goesOnAt, ← hdepth, ← hmode, ← hlstk]
    exact Thread.passed_goesOnAt (y.thread t) _ _
  · have hcore : x.endWord.coreAt (coreOfThread t) = y.coreAt (coreOfThread t) := honly.coreAt _
    rw [hcore]
    exact hwatch hlo hhi

end

/-- R52, R395, R413, R415: what CSRW writes, and whom it traps. -/
theorem specialRegistersWritten : clausesSpecialRegistersWritten := by
  intro g d a s t
  refine ⟨fun hx hlast hst hn hh => ⟨_, rfl, s.csrw_sameMemoryAndRegisters g d a, State.csrw_written hx hlast hst hn hh⟩,
    fun hx ht hn => ⟨_, rfl, s.csrw_sameMemoryAndRegisters g d a, ?_⟩,
    fun hx ht hn hh => ⟨_, rfl, s.csrw_sameMemoryAndRegisters g d a, State.csrw_forbidden hx ht hn hh⟩⟩
  show trapped s (s.laneWord (.csrw g d a) (csrwLane d a)) t 1 0
  rw [csrwLane_readOnly hn]
  exact State.laneWord_trap (g := g) rfl hx ht rfl

/-- Settles O41: CSRR lane by lane from the state before the word, and CSRW by the last lane's write and the lanes that trap. -/
theorem specialRegistersReadAndWritten : Obligations.SpecialRegistersReadAndWritten := ⟨specialRegistersRead, specialRegistersWritten⟩

end Sys2Proof.Machine

/-! SUPPORT. Words that the manual writes out, and a tagged word of a size code that has no bytes. -/

namespace Sys2Proof

/-! ## Words that the manual writes out -/

theorem decodeSimt_of_encode {i : Instr} {w : Word} (hs : i.isCircuit = false) (h : encode i = some w) : decodeSimt w = .ok i := by
  have hread := everyEncodingReadsBack i w h
  rwa [Instr.readBack, hs] at hread

theorem decodeCircuit_of_encode {i : Instr} {w : Word} (hs : i.isCircuit = true) (h : encode i = some w) : decodeCircuit w = .ok i := by
  have hread := everyEncodingReadsBack i w h
  rwa [Instr.readBack, hs] at hread

/-- Settles O1: each word is the encoding of its instruction, and encodings read back. -/
theorem wordsOfTheManualDecode : Obligations.WordsOfTheManualDecode := by
  unfold Obligations.WordsOfTheManualDecode
  and_intros
  iterate 19 exact decodeSimt_of_encode rfl rfl
  all_goals exact decodeCircuit_of_encode rfl rfl -- the words of the circuit processor

end Sys2Proof

namespace Sys2Proof.Machine
open Sys2Proof

/-! ## A tagged word of no bytes (R34, R217) -/

/-- Thread 0 of core 0, whose v0 holds 5, waits at an LDF into v0 of size code 7, which is on its way to the tag of key 0; the tag is full. -/
def reservedSizeWaits : State :=
  { State.reset with
    tags := [(0, true)],
    thr := [(0, { regs := [(0, 5)], park := .word .tag 0 0 false 0,
                  outs := [{ id := 0, kind := .tag, dst := [0], res := none, word := 0, sector := 0, so := false, acq := 0, due := 0 }] })],
    tagWaits := [{ id := 0, kind := 0, key := 0, n := 0, data := [], who := .result 0 0 0 7, phase := 0, bundle := 0 }] }

/-- Size code 7 has no bytes, so the LDF is served with no value and v0 keeps its 5. -/
theorem reservedSizeWaits_served : ∃ s', exec (.taggedWordArrival 0) reservedSizeWaits = .next s' ∧ (s'.thread 0).reg 0 = 5 :=
  ⟨_, rfl, by decide +kernel⟩

/-- Refutes O34: its second part holds of every size code that the word on its way names, the reserved code 7 among them. `accessBytes 7` is 0, so
that `reservedSizeWaits` meets its hypotheses; `registersFrom` gives code 7 one register, which `loadedRegister` would set from the four bytes at
the place, all 0, but the word that is served writes no register. -/
theorem not_taggedWordsWaitAndAreServed : ¬ Obligations.TaggedWordsWaitAndAreServed := by
  rintro ⟨_, harrives⟩
  obtain ⟨_, hserved, _⟩ := harrives reservedSizeWaits _ [] rfl (by decide) rfl (by simp) rfl rfl rfl
  obtain ⟨s', he, _, _, _, _, _, hloaded⟩ :=
    hserved 0 7 _ 0 0 0 false rfl rfl (.inl rfl) rfl rfl rfl rfl (by decide) (by decide) rfl (.inl rfl)
  obtain ⟨s'', he', hkept⟩ := reservedSizeWaits_served
  rw [he] at he'
  cases he'
  have hzero := hloaded 0 0 rfl
  rw [hkept] at hzero
  exact absurd hzero (by decide +kernel)

end Sys2Proof.Machine

/-! SUPPORT. What the lanes of a word leave of a thread that is none of theirs, and a lane word as one participant sees it. -/

namespace Sys2Proof.Machine
open Sys2Proof

/-! ## How a lane goes on -/

theorem State.goOn_onlyThreads (s : State) (u : Nat) (k : Bool) : ∀ a : Adv, s.onlyThreads (s.goOn u k a)
  | .pass => (State.onlyThreads.refl s).pass u k
  | .jump _ => ((State.onlyThreads.refl s).updThread u _).finishWord ..
  | .branch _ => ((State.onlyThreads.refl s).updThread u _).finishWord ..
  | .stay => .refl s
  | .set => (State.onlyThreads.refl s).finishWord ..
  | .trap c a => (State.onlyThreads.refl s).trapWord u c a

theorem State.goOn_warp (s : State) (u : Nat) (k : Bool) (v : Nat) : ∀ a : Adv, (s.warp v).sameBut ((s.goOn u k a).warp v)
  | .pass => s.pass_warp u k v
  | .jump _ => State.finishWord_warp (s.updThread u _) u k _ _ v
  | .branch _ => State.finishWord_warp (s.updThread u _) u k _ _ v
  | .stay => .refl _
  | .set => s.finishWord_warp u k _ _ v
  | .trap _ _ => s.takeTrap_warp ..

theorem State.goOn_thread_ne (s : State) {t u : Nat} (h : t ≠ u) (k : Bool) (a : Adv) : (s.goOn u k a).thread t = s.thread t :=
  (State.Stable.other (ts := [u]) (by simpa using h) (s.thread t)).goOn (List.mem_singleton_self u) k rfl a

/-! ## A thread that is left untouched -/

/-- THREAD `t` IS LEFT UNTOUCHED between two states: it is as it was, and so is what decides how it traps and whether it single-steps; a warp of it
that is to be killed stays so. -/
structure State.untouched (t : Nat) (s z : State) : Prop where
  same : State.sameFor t s z
  sstep : (z.warpOfThread t).sstep = (s.warpOfThread t).sstep
  kill : (s.warp (warpOf t)).toKill → (z.warp (warpOf t)).toKill

namespace State.untouched
variable {t u : Nat} {s z a b c : State}

theorem refl (t : Nat) (s : State) : untouched t s s := ⟨.refl t s, rfl, fun h => h⟩

theorem trans (h : untouched t a b) (k : untouched t b c) : untouched t a c :=
  ⟨h.same.trans k.same, k.sstep.trans h.sstep, fun hk => k.kill (h.kill hk)⟩

theorem thread (h : untouched t s z) : z.thread t = s.thread t := h.same.thread
theorem cur (h : untouched t s z) : z.cur = s.cur := h.same.cur

theorem steady (h : untouched t s z) (hs : s.steady t) : z.steady t := by
  unfold State.steady at *
  rwa [h.sstep, h.thread]

/-- A trap that a thread has taken stays taken while it is left untouched. -/
theorem tookTrap {k : Byte} {ad : DWord} (h : untouched t a b) (hs : s.tookTrap t k ad a) : s.tookTrap t k ad b :=
  ⟨h.thread.trans hs.1, fun hk => h.kill (hs.2 hk)⟩

/-- Another thread's change, way on, trap or held warp is nothing to a thread. -/
theorem updThread (hu : t ≠ u) (s : State) (f : Thread → Thread) : untouched t s (s.updThread u f) :=
  ⟨.of_onlyThreads ((State.onlyThreads.refl s).updThread u f) (.refl _) (s.updThread_thread_ne hu f), rfl, fun h => h⟩

theorem goOn (hu : t ≠ u) (s : State) (k : Bool) (a : Adv) : untouched t s (s.goOn u k a) :=
  ⟨.of_onlyThreads (s.goOn_onlyThreads u k a) (s.goOn_warp u k _ a) (s.goOn_thread_ne hu k a), (s.goOn_warp u k _ a).sstep,
    fun h => (State.Stable.toKill [u] _).goOn (List.mem_singleton_self u) k h a⟩

/-- A warp's episodes, restarts, and inbound debug word, and when it leaves the active set, are nothing to its threads. -/
theorem updWarp (t : Nat) (s : State) (w : Nat) {f : Warp → Warp}
    (hf : ∀ x, f x = { x with rcv := (f x).rcv, restarts := (f x).restarts, leaveNow := (f x).leaveNow, dbgIn := (f x).dbgIn }) :
    untouched t s (s.updWarp w f) := by
  have hw : ∀ v, ∃ r n l d, (s.updWarp w f).warp v = { s.warp v with rcv := r, restarts := n, leaveNow := l, dbgIn := d } := fun v => by
    rw [State.updWarp_warp]
    split
    · rename_i e; rw [e]; exact ⟨_, _, _, _, hf _⟩
    · exact ⟨_, _, _, _, rfl⟩
  obtain ⟨r, n, l, d, hw⟩ := hw (warpOf t)
  have hview : (s.updWarp w f).viewOf ((s.updWarp w f).warpOfThread t) = s.viewOf (s.warpOfThread t) := by
    unfold State.warpOfThread; rw [hw]; rfl
  refine ⟨⟨rfl, rfl, ?_, ?_, hview, rfl⟩, ?_, fun hk => ?_⟩
  · unfold State.warpOfThread; rw [hw]
  · unfold State.warpOfThread; rw [hw]
  · unfold State.warpOfThread; rw [hw]
  · rw [hw]; exact hk

/-- What a core's units and tile slots do is nothing to a thread; its cycle count would be. -/
theorem updCore (t : Nat) (s : State) (k : Nat) {f : Core → Core} (hf : ∀ x, (f x).cycle = x.cycle) : untouched t s (s.updCore k f) := by
  refine ⟨⟨rfl, rfl, rfl, rfl, rfl, ?_⟩, rfl, fun h => h⟩
  unfold State.cycleOf
  rw [State.updCore_coreAt]
  split
  · rename_i e; rw [e, hf]
  · rfl

/-- Lanes of other threads that leave a thread untouched, and go on, leave it so together. -/
theorem eachLane {k : Bool} {f : State → Nat → State × Adv} : ∀ {us : List Nat} {s : State}, (∀ z, ∀ u ∈ us, untouched t z (f z u).1) → t ∉ us →
    untouched t s (s.eachLane k f us)
  | [], s, _, _ => .refl t s
  | u :: us, s, hf, ht => by
    obtain ⟨hu, hus⟩ : t ≠ u ∧ t ∉ us := by simpa using ht
    exact ((hf s u (List.mem_cons_self ..)).trans (.goOn hu _ k _)).trans (eachLane (fun z v hv => hf z v (List.mem_cons_of_mem u hv)) hus)

theorem foldl {A : Type} {f : State → A → State} : ∀ {xs : List A} {s : State}, (∀ z, ∀ x ∈ xs, untouched t z (f z x)) → untouched t s (xs.foldl f s)
  | [], s, _ => .refl t s
  | x :: _, s, hf => (hf s x (List.mem_cons_self ..)).trans (foldl (fun z y hy => hf z y (List.mem_cons_of_mem x hy)))

theorem skips {us : List Nat} (s : State) (ht : ∀ u ∈ us, u ≠ t) : untouched t s (us.foldl State.skip s) :=
  foldl fun z u hu => .goOn (ht u hu).symm z false .pass

end State.untouched

/-! ## A lane word as one participant sees it -/

/-- A thread's own lane acts in a state in which it is untouched, and the lanes after it leave it so. -/
theorem State.eachLane_at (k : Bool) {f : State → Nat → State × Adv} {t : Nat} {ts : List Nat} (s : State) (hn : ts.Nodup) (ht : t ∈ ts)
    (hf : ∀ z u, t ≠ u → untouched t z (f z u).1) :
    ∃ z, untouched t s z ∧ untouched t ((f z t).1.goOn t k (f z t).2) (s.eachLane k f ts) := by
  obtain ⟨us, vs, rfl⟩ := List.append_of_mem ht
  have hus : t ∉ us := fun hu => List.disjoint_of_nodup_append hn hu (List.mem_cons_self ..)
  have hvs : t ∉ vs := (List.nodup_cons.1 (List.nodup_append.1 hn).2.1).1
  refine ⟨s.eachLane k f us, .eachLane (fun z u hu => hf z u (ne_of_mem_of_not_mem hu hus).symm) hus, ?_⟩
  rw [State.eachLane_append, State.eachLane_cons]
  exact .eachLane (fun z u hu => hf z u (ne_of_mem_of_not_mem hu hvs).symm) hvs

section
variable {s : State} {i : Instr} {g : Guard} {t : Nat} {f : State → Nat → State × Adv} (hg : i.guard? = some g) (h : s.executes i)
  (ht : t ∈ s.participants i) (hf : ∀ z u, t ≠ u → State.untouched t z (f z u).1)
include hg h ht hf

/-- A LANE WORD AS ONE PARTICIPANT SEES IT: until its lane acts, and from then on, it is left untouched. -/
theorem State.laneWord_at : ∃ z z', untouched t s z ∧ untouched t ((f z t).1.goOn t (markOf i) (f z t).2) z' ∧ s.laneWord i f = z'.endWord := by
  obtain ⟨z, hz, hdone⟩ := s.eachLane_at (markOf i) (State.participants_nodup h) ht hf
  exact ⟨z, _, hz, hdone.trans (.skips _ (State.not_bystander ht)), State.laneWord_executes hg h f⟩

/-- A participant whose lane traps has taken the trap. -/
theorem State.laneWord_lane_trapped {c : Byte} {a : DWord} (hc : toHk3 c = false) (hlane : ∀ z, untouched t s z → f z t = (z, .trap c a)) :
    trapped s (s.laneWord i f) t c a := by
  obtain ⟨z, z', hz, hdone, he⟩ := State.laneWord_at hg h ht hf
  rw [hlane z hz] at hdone
  rw [he]
  exact State.trapped_of_tookTrap hc (hdone.tookTrap (hz.same.tookTrap hc a) : s.tookTrap t c a z')

end

/-! ## The end of a word -/

/-- A thread at the end of its word: it parks if the word carries the park marker and a result is outstanding (R31). -/
def Thread.afterWord (th : Thread) (k : Bool) : Thread := if k && th.waiting then { th with park := .marker } else th

/-- A word's end changes a thread's park alone. -/
theorem Thread.afterWord_eq (th : Thread) (k : Bool) : th.afterWord k = { th with park := (th.afterWord k).park } := by
  unfold Thread.afterWord
  split <;> rfl

/-- A steady thread ends its word with no trap to follow. -/
theorem State.finish_thread (s : State) (t : Nat) (k : Bool) (h : s.steady t) : (s.finish t k).thread t = (s.thread t).afterWord k := by
  unfold State.finish
  rw [State.finishWord_thread _ _ _ _ _ h, State.updThread_thread_same]
  rfl

/-- How a steady thread goes on, but for a trap. -/
theorem State.goOn_jump_thread (s : State) (t : Nat) (k : Bool) (v : DWord) (h : s.steady t) :
    (s.goOn t k (.jump v)).thread t = ((s.thread t).goTo v).afterWord k := by
  unfold State.goOn
  rw [State.finish_thread, State.updThread_thread_same]
  rcases h with h | h
  · exact .inl h
  · exact .inr (by rw [State.updThread_thread_same]; exact h)

theorem State.goOn_branch_thread (s : State) (t : Nat) (k : Bool) (v : DWord) (h : s.steady t) :
    (s.goOn t k (.branch v)).thread t = ((s.thread t).branchTo v).afterWord k := by
  unfold State.goOn
  rw [State.finish_thread, State.updThread_thread_same]
  rcases h with h | h
  · exact .inl h
  · exact .inr (by rw [State.updThread_thread_same]; exact h)

/-- A change of a thread that leaves it in its mode leaves it steady. -/
theorem State.steady_updThread {s : State} {t : Nat} (h : s.steady t) {f : Thread → Thread} (hf : (f (s.thread t)).h = (s.thread t).h) :
    (s.updThread t f).steady t := by
  rcases h with h | h
  · exact .inl h
  · exact .inr (by rw [State.updThread_thread_same, hf]; exact h)

/-! ## Words that every participant passes (R30, R31, R91) -/

/-- Two threads go on alike: they have the same loop stack at the same depth and mode, the same outstanding results, and the same park. -/
def Thread.sameWay (a b : Thread) : Prop := b.depth = a.depth ∧ b.h = a.h ∧ b.lstk = a.lstk ∧ b.outs = a.outs ∧ b.park = a.park

theorem Thread.sameWay.refl (a : Thread) : a.sameWay a := ⟨rfl, rfl, rfl, rfl, rfl⟩

/-- A thread that goes on as another does when it passes the word. -/
theorem Thread.sameWay.passed {a b : Thread} (h : a.sameWay b) (i : Instr) (v : DWord) :
    goesOnAt a (b.passed (markOf i) v) v ∧ (marked i → a.outs ≠ [] → (b.passed (markOf i) v).park = .marker) ∧
    (¬ marked i ∨ a.outs = [] → (b.passed (markOf i) v).park = a.park) := by
  obtain ⟨hdepth, hmode, hlstk, houts, hpark⟩ := h
  have hpassed := b.passed_park (markOf i) v
  rw [houts, hpark] at hpassed
  rw [marked_iff]
  refine ⟨?_, fun hm ho => hpassed.trans (if_pos ⟨hm, ho⟩), fun hn => hpassed.trans (if_neg fun hy => ?_)⟩
  · rw [goesOnAt, ← hdepth, ← hmode, ← hlstk]
    exact b.passed_goesOnAt _ _
  · exact hn.elim (fun hm => hm hy.1) (fun ho => hy.2 ho)

/-- A LANE THAT PASSES: its thread goes on as it stood, past the word, and every other thread is left untouched. -/
structure LanePasses (f : State → Nat → State × Adv) : Prop where
  adv : ∀ (z : State) (u : Nat), (f z u).2 = .pass
  cur : ∀ (z : State) (u : Nat), (f z u).1.cur = z.cur
  sstep : ∀ (z : State) (u : Nat), ((f z u).1.warpOfThread u).sstep = (z.warpOfThread u).sstep
  way : ∀ (z : State) (u : Nat), (z.thread u).sameWay ((f z u).1.thread u)
  others : ∀ (z : State) (u t : Nat), t ≠ u → State.untouched t z (f z u).1

theorem lanePasses_pass : LanePasses (fun s _ => (s, .pass)) :=
  ⟨fun _ _ => rfl, fun _ _ => rfl, fun _ _ => rfl, fun _ _ => .refl _, fun z _ t _ => .refl t z⟩

/-- A lane that changes its own thread, but not how it goes on, and passes. -/
theorem lanePasses_updThread {F : State → Nat → Thread → Thread} (hF : ∀ z u (th : Thread), th.sameWay (F z u th)) :
    LanePasses (fun z u => (z.updThread u (F z u), .pass)) where
  adv _ _ := rfl
  cur _ _ := rfl
  sstep _ _ := rfl
  way z u := by rw [State.updThread_thread_same]; exact hF z u _
  others z u _ ht := .updThread ht z _

section
variable {s : State} {f : State → Nat → State × Adv} {k : Bool} {t : Nat} {ts : List Nat}

/-- Where a steady thread stands after lanes that pass, its own among them. -/
theorem State.eachLane_passes_thread (hf : LanePasses f) (hn : ts.Nodup) (ht : t ∈ ts) (hst : s.steady t) :
    ∃ z, untouched t s z ∧ (s.eachLane k f ts).thread t = ((f z t).1.thread t).passed k s.cur.nextPc := by
  obtain ⟨z, hz, hdone⟩ := s.eachLane_at k hn ht (fun z u hu => hf.others z u t hu)
  have hsteady : (f z t).1.steady t := by
    obtain ⟨_, hmode, _⟩ := hf.way z t
    rcases hz.steady hst with hw | hh
    · exact .inl ((hf.sstep z t).trans hw)
    · exact .inr (hmode.trans hh)
  refine ⟨z, hz, ?_⟩
  rw [hdone.thread, hf.adv]
  show ((f z t).1.pass t k).thread t = _
  rw [State.pass_thread _ t k hsteady, hf.cur, hz.cur]

end

section
variable {s z z' : State} {i : Instr} {f : State → Nat → State × Adv} (hf : LanePasses f) (h : s.executes i)
  (hz : ∀ u, State.untouched u s z) (hz' : ∀ u, State.untouched u (z.eachLane (markOf i) f (s.participants i)) z')
include hf h hz hz'

/-- Where a steady participant stands after a word that every participant passes. -/
theorem State.lanes_thread {t : Nat} (ht : t ∈ s.participants i) (hst : s.steady t) :
    ∃ y, untouched t s y ∧ (s.thread t).sameWay ((f y t).1.thread t) ∧
      ((s.bystanders i).foldl State.skip z').endWord.thread t = ((f y t).1.thread t).passed (markOf i) s.cur.nextPc := by
  obtain ⟨y, hy, hthread⟩ := State.eachLane_passes_thread (k := markOf i) hf (State.participants_nodup h) ht ((hz t).steady hst)
  have hleft := (hz t).trans hy
  refine ⟨y, hleft, hleft.thread ▸ hf.way y t, ?_⟩
  rw [State.endWord_thread, State.skips_thread_ne (State.not_bystander ht), (hz' t).thread, hthread, (hz t).cur]

/-- A WORD THAT EVERY PARTICIPANT PASSES is behind every thread of its bundle, whatever else it does that leaves the threads untouched. -/
theorem State.movesPast_of_lanes : movesPast s ((s.bystanders i).foldl State.skip z').endWord i := by
  refine fun hsteady => ⟨fun u hu hp => ?_, fun u hu => ?_⟩
  · have hleft : untouched u s z' := ((hz u).trans (.eachLane (fun y v hv => hf.others y v u (ne_of_mem_of_not_mem hv hp).symm) hp)).trans (hz' u)
    have hmem : u ∈ s.bystanders i := List.mem_filter.2 ⟨hu, by simpa [State.mem_participants, hu] using hp⟩
    rw [onlyAdvances, State.endWord_thread, State.skips_thread (s.bystanders i) z' (h.2.1.filter _) hmem (hleft.steady (hsteady u hu)), hleft.thread,
      hleft.cur]
    exact ⟨(s.thread u).goTo_goesOnAt _, rfl⟩
  · obtain ⟨_, _, hway, hthread⟩ := State.lanes_thread hf h hz hz' hu (hsteady u (State.mem_participants.1 hu).1)
    rw [hthread]
    exact hway.passed i _

end

end Sys2Proof.Machine

/-! SUPPORT. NOP, YIELD and IDEM, which every participant passes, and the words that enter a loop. -/

namespace Sys2Proof.Machine
open Sys2Proof

/-! ## NOP, YIELD and IDEM (R96, R106, R109) -/

/-- R96, R109: a lane word that every participant passes, as one of them sees it. -/
theorem State.laneWord_passes {s : State} {i : Instr} {g : Guard} {t : Nat} {f : State → Nat → State × Adv} (hf : LanePasses f)
    (hg : i.guard? = some g) (h : Issues s i t) :
    movesPast s (s.laneWord i f) i ∧
      ∃ y, untouched t s y ∧ (s.thread t).sameWay ((f y t).1.thread t) ∧
        (s.laneWord i f).thread t = ((f y t).1.thread t).passed (markOf i) s.cur.nextPc := by
  obtain ⟨hx, ht, hst⟩ := h
  rw [State.laneWord_executes hg hx]
  exact ⟨State.movesPast_of_lanes hf hx (fun u => .refl u s) (fun u => .refl u _),
    State.lanes_thread hf hx (fun u => .refl u s) (fun u => .refl u _) ht hst⟩

/-- A lane of YIELD: its thread is demoted. -/
def yieldLane (s : State) (t : Nat) : State × Adv := (s.updThread t (fun th => { th with dm := true }), .pass)

theorem yieldLane_passes : LanePasses yieldLane := lanePasses_updThread (F := fun _ _ th => { th with dm := true }) fun _ _ _ => ⟨rfl, rfl, rfl, rfl, rfl⟩

theorem State.eachLane_eq_foldl (k : Bool) (f : State → Nat → State × Adv) : ∀ (ts : List Nat) (s : State),
    s.eachLane k f ts = ts.foldl (fun z t => (f z t).1.goOn t k (f z t).2) s
  | [], _ => rfl
  | t :: ts, s => State.eachLane_eq_foldl k f ts ((f s t).1.goOn t k (f s t).2)

theorem State.yieldLeave_untouched (t : Nat) (s : State) (w : Nat) : untouched t s (s.yieldLeave w) := by
  unfold State.yieldLeave
  split
  · exact .updWarp t s w fun _ => rfl
  · exact .refl t s

/-- R83, R106: YIELD demotes its participants, which pass it; then warps may leave the active set. -/
theorem exec_yield {s : State} {g : Guard} (h : s.executes (.yield g)) :
    ∃ z, (∀ u, State.untouched u (s.eachLane g.s yieldLane (s.participants (.yield g))) z) ∧
      exec (.yield g) s = .next ((s.bystanders (.yield g)).foldl State.skip z).endWord := by
  refine ⟨(((s.participants (.yield g)).map warpOf).eraseDups).foldl (fun z w => z.yieldLeave w) (s.eachLane g.s yieldLane (s.participants (.yield g))),
    fun u => .foldl fun z w _ => z.yieldLeave_untouched u w, ?_⟩
  rw [State.eachLane_eq_foldl]
  show Host.Outcome.next (s.simt (.yield g) _) = _
  rw [State.simt_executes (g := g) rfl h]
  rfl

/-- A lane of IDEM: the restart point is recorded, and a new one resets the restart count of the warp (R401). -/
def idemLane (s : State) (t : Nat) : State × Adv :=
  let s1 := s.updThread t (fun th => { th with idempc := s.cur.pc, idemDepth := th.depth, idemLstk := th.lstk })
  (if (s.thread t).idempc == s.cur.pc && (s.thread t).idemDepth == (s.thread t).depth then s1 else s1.updWarp (warpOf t) (fun x => { x with restarts := 0 }),
    .pass)

theorem exec_idem (g : Guard) (s : State) : exec (.idem g) s = .next (s.laneWord (.idem g) idemLane) := rfl

/-- What a lane of IDEM makes of the machine: the thread's restart point, and what is nothing to a thread. -/
theorem idemLane_state (s : State) (t : Nat) : ∃ z, (idemLane s t).1 = z ∧
    (∀ u, State.untouched u (s.updThread t (fun th => { th with idempc := s.cur.pc, idemDepth := th.depth, idemLstk := th.lstk })) z) := by
  refine ⟨_, rfl, fun u => ?_⟩
  unfold idemLane
  dsimp only
  split
  · exact .refl u _
  · exact .updWarp u _ _ fun _ => rfl

theorem idemLane_thread (s : State) (t : Nat) :
    (idemLane s t).1.thread t = { s.thread t with idempc := s.cur.pc, idemDepth := (s.thread t).depth, idemLstk := (s.thread t).lstk } := by
  obtain ⟨z, e, hz⟩ := idemLane_state s t
  rw [e, (hz t).thread, State.updThread_thread_same]

theorem idemLane_passes : LanePasses idemLane where
  adv _ _ := rfl
  cur z u := by
    obtain ⟨y, e, hy⟩ := idemLane_state z u
    rw [e, (hy u).cur]
    rfl
  sstep z u := by
    obtain ⟨y, e, hy⟩ := idemLane_state z u
    rw [e, (hy u).sstep]
    rfl
  way z u := by
    rw [idemLane_thread]
    exact ⟨rfl, rfl, rfl, rfl, rfl⟩
  others z u t ht := by
    obtain ⟨y, e, hy⟩ := idemLane_state z u
    rw [e]
    exact (State.untouched.updThread ht z _).trans (hy t)

/-- R96, R106, R109. -/
theorem nopYieldAndIdem : clausesNopYieldAndIdem := by
  refine fun g s t => ⟨fun h => ⟨_, rfl, ?_⟩, fun h => ?_, fun h => ⟨_, exec_idem g s, ?_⟩⟩
  · obtain ⟨hpast, y, hy, hway, hthread⟩ := State.laneWord_passes lanePasses_pass (i := .nop g) rfl h
    rw [hthread]
    exact ⟨(hway.passed (.nop g) _).1, hpast, by rw [Thread.passed_eq, hy.thread]⟩
  · obtain ⟨hx, ht, hst⟩ := h
    obtain ⟨z, hz, he⟩ := exec_yield hx
    obtain ⟨y, _, hway, hthread⟩ := State.lanes_thread yieldLane_passes hx (fun u => .refl u s) hz ht hst
    refine ⟨_, he, hthread ▸ (hway.passed (.yield g) _).1, State.movesPast_of_lanes yieldLane_passes hx (fun u => .refl u s) hz, ?_⟩
    rw [hthread, Thread.passed_eq, yieldLane, State.updThread_thread_same]
  · obtain ⟨hpast, y, hy, hway, hthread⟩ := State.laneWord_passes idemLane_passes (i := .idem g) rfl h
    rw [hthread]
    refine ⟨(hway.passed (.idem g) _).1, hpast, ?_⟩
    rw [Thread.passed_eq, idemLane_thread, hy.thread, hy.cur]
    exact ⟨rfl, rfl, rfl⟩

/-! ## Loops (R102) -/

section
variable {s : State} {t n len : Nat}

theorem State.takeLoop_skips (z : State) (t len : Nat) : z.takeLoop t 0 len = (z, .jump (z.cur.pc + 4 + BitVec.ofNat 64 (4 * len))) := rfl

theorem State.takeLoop_full {z : State} (hn : n ≠ 0) (hfull : 4 ≤ (z.thread t).lstk.length) : z.takeLoop t n len = (z, .trap 9 0) := by
  unfold State.takeLoop
  dsimp only
  rw [if_neg hn, if_pos hfull]

/-- A thread that has entered the body of a loop of `len` words at `a`, to run it `n` times. -/
def Thread.entersLoop (th : Thread) (a : DWord) (n len : Nat) : Thread :=
  { th with lstk := { start := a, stop := a + BitVec.ofNat 64 (4 * len), count := BitVec.ofNat 32 n, depth := th.depth, h := th.h } :: th.lstk, pc := a }

theorem State.takeLoop_enters {z : State} (hn : n ≠ 0) (hroom : (z.thread t).lstk.length < 4) :
    z.takeLoop t n len = (z.updThread t (fun th => th.entersLoop (z.cur.pc + 4) n len), .set) := by
  unfold State.takeLoop
  dsimp only
  rw [if_neg hn, if_neg (by omega)]
  rfl

/-- A lane that enters a loop leaves every other thread untouched. -/
theorem State.takeLoop_others (z : State) {u : Nat} (hu : t ≠ u) (n len : Nat) : untouched t z (z.takeLoop u n len).1 := by
  by_cases hn : n = 0
  · rw [hn, State.takeLoop_skips]; exact .refl t z
  · by_cases hfull : 4 ≤ (z.thread u).lstk.length
    · rw [State.takeLoop_full hn hfull]; exact .refl t z
    · rw [State.takeLoop_enters hn (by omega)]; exact untouched.updThread hu z (fun th => th.entersLoop (z.cur.pc + 4) n len)

theorem loopEnd_eq (a : DWord) (len : Nat) : a + BitVec.ofNat 64 (4 * len) = a + 4 * BitVec.ofNat 64 len := by
  rw [BitVec.ofNat_mul]
  rfl

theorem Thread.afterWord_goesOnAt (th : Thread) (k : Bool) (v : DWord) : goesOnAt th ((th.goTo v).afterWord k) v := by
  rw [Thread.afterWord_eq]
  exact th.goTo_goesOnAt v

variable {i : Instr} {g : Guard} {f : State → Nat → State × Adv} (hg : i.guard? = some g) (h : Issues s i t)
  (hf : ∀ z u, t ≠ u → State.untouched t z (f z u).1) (hlane : ∀ z, State.untouched t s z → f z t = z.takeLoop t n len)
include hg h hf hlane

/-- R102: a loop word whose lanes take the loop: a count of 0 skips the body, a full loop stack traps, and else the thread enters the body. -/
theorem State.laneWord_takeLoop :
    let th := s.thread t
    let a := s.cur.pc + 4
    let e := a + 4 * BitVec.ofNat 64 len
    let s' := s.laneWord i f
    (n = 0 → goesOnAt th (s'.thread t) e) ∧ (n ≠ 0 → 4 ≤ th.lstk.length → trapped s s' t 9 0) ∧
    (n ≠ 0 → th.lstk.length < 4 → (s'.thread t).pc = a ∧
      (s'.thread t).lstk = { start := a, stop := e, count := BitVec.ofNat 32 n, depth := th.depth, h := th.h } :: th.lstk) := by
  obtain ⟨hx, ht, hst⟩ := h
  obtain ⟨z, z', hz, hdone, he⟩ := State.laneWord_at hg hx ht hf
  refine ⟨fun hn => ?_, fun hn hfull => ?_, fun hn hroom => ?_⟩
  · rw [hlane z hz, hn, State.takeLoop_skips] at hdone
    rw [he, State.endWord_thread, hdone.thread, State.goOn_jump_thread z t _ _ (hz.steady hst), hz.thread, hz.cur, loopEnd_eq]
    exact Thread.afterWord_goesOnAt ..
  · exact State.laneWord_lane_trapped hg hx ht hf rfl fun y hy => (hlane y hy).trans (State.takeLoop_full hn (by rwa [hy.thread]))
  · rw [hlane z hz, State.takeLoop_enters hn (by rwa [hz.thread])] at hdone
    rw [he, State.endWord_thread, hdone.thread]
    show ((State.finish _ _ _).thread t).pc = _ ∧ ((State.finish _ _ _).thread t).lstk = _
    rw [State.finish_thread _ _ _ (State.steady_updThread (hz.steady hst) rfl), State.updThread_thread_same, Thread.afterWord_eq, hz.thread, hz.cur,
      ← loopEnd_eq]
    exact ⟨rfl, rfl⟩

end

/-- R40, R102: the length of a LOOP, of 14 bits or of 32 with the group's extension. -/
theorem loopLength_eq (p : Prefixes) (k : BitVec 14) :
    extNat p 14 k.toNat % 2 ^ 32 = match p.ext with | none => k.toNat | some e => (e ++ k).toNat := by
  unfold extNat
  cases p.ext with
  | none =>
    have hk := k.isLt
    exact Nat.mod_eq_of_lt (a := k.toNat) (by omega)
  | some e =>
    dsimp only
    rw [BitVec.toNat_append, ← Nat.shiftLeft_add_eq_or_of_lt k.isLt, Nat.shiftLeft_eq]
    exact Nat.mod_eq_of_lt (by have := k.isLt; have := e.isLt; omega)

/-- A lane of LOOP. -/
def loopLane (d : BitVec 6) (k : BitVec 14) (s : State) (t : Nat) : State × Adv :=
  s.takeLoop t ((s.thread t).reg d.toNat).toNat (extNat s.cur.pfx 14 k.toNat % 2 ^ 32)

theorem exec_loop (g : Guard) (d : BitVec 6) (k : BitVec 14) (s : State) : exec (.loop g d k) s = .next (s.laneWord (.loop g d k) (loopLane d k)) := rfl

theorem exec_loopi (g : Guard) (c l : BitVec 10) (s : State) :
    exec (.loopi g c l) s = .next (s.laneWord (.loopi g c l) (fun z u => z.takeLoop u c.toNat l.toNat)) := rfl

/-- R102. -/
theorem loopsPushSkipOrTrap : clausesLoopsPushSkipOrTrap := by
  refine fun g d k c l s t => ⟨fun h => ?_, fun h => ?_⟩
  · have hlane : ∀ z, State.untouched t s z →
        loopLane d k z t = z.takeLoop t ((s.thread t).reg d.toNat).toNat (extNat s.cur.pfx 14 k.toNat % 2 ^ 32) := fun z hz => by
      rw [loopLane, hz.thread, hz.cur]
    rw [loopLength_eq] at hlane
    obtain ⟨hskip, hfull, henter⟩ := State.laneWord_takeLoop (i := .loop g d k) (f := loopLane d k) rfl h (fun z u hu => z.takeLoop_others hu _ _) hlane
    exact ⟨fun hn => ⟨_, exec_loop .., hskip hn⟩, fun hn hl => ⟨_, exec_loop .., hfull hn hl⟩, fun hn hl => ⟨_, exec_loop .., henter hn hl⟩⟩
  · obtain ⟨hskip, hfull, henter⟩ :=
      State.laneWord_takeLoop (i := .loopi g c l) rfl h (fun z u hu => z.takeLoop_others hu c.toNat l.toNat) (fun _ _ => rfl)
    exact ⟨fun hn => ⟨_, exec_loopi .., hskip hn⟩, fun hn hl => ⟨_, exec_loopi .., hfull hn hl⟩, fun hn hl => ⟨_, exec_loopi .., henter hn hl⟩⟩

/-- Settles O28: NOP, YIELD and IDEM are passed by every participant, and a loop word's lanes take the loop. -/
theorem loopsAndSimpleControlWords : Obligations.LoopsAndSimpleControlWords := ⟨nopYieldAndIdem, loopsPushSkipOrTrap⟩

end Sys2Proof.Machine

/-! SUPPORT. RCV and EXIT: how threads arrive at an episode, when it is released, and what is left of a thread that ends. -/

namespace Sys2Proof.Machine
open Sys2Proof

/-! ## A warp's threads -/

theorem mem_warpThreads {w u : Nat} : u ∈ warpThreads w ↔ warpOf u = w := by
  unfold warpThreads warpOf
  rw [List.mem_map]
  refine ⟨fun ⟨l, hl, e⟩ => ?_, fun h => ⟨u % 32, List.mem_range.2 (by omega), by omega⟩⟩
  have := List.mem_range.1 hl
  omega

theorem State.mem_liveThreads {s : State} {w u : Nat} : u ∈ s.liveThreads w ↔ warpOf u = w ∧ (s.thread u).live = true := by
  rw [State.liveThreads, List.mem_filter, mem_warpThreads]

theorem State.liveThreads_nodup (s : State) (w : Nat) : (s.liveThreads w).Nodup :=
  (List.nodup_range.map fun _ _ h => Nat.add_left_cancel h).filter _

theorem State.liveThreads_congr {s z : State} (h : ∀ u, (z.thread u).live = (s.thread u).live) (w : Nat) : z.liveThreads w = s.liveThreads w :=
  List.filter_congr fun u _ => h u

/-! ## A thread that completes the word at which it is parked -/

/-- A step that leaves every thread but its own untouched, over a list, as a thread of the list sees it. -/
theorem State.foldl_at {f : State → Nat → State} {t : Nat} {ts : List Nat} (s : State) (hn : ts.Nodup) (ht : t ∈ ts)
    (hf : ∀ z u, t ≠ u → untouched t z (f z u)) : ∃ z, untouched t s z ∧ untouched t (f z t) (ts.foldl f s) := by
  have h := State.eachLane_at false (f := fun z u => (f z u, .stay)) s hn ht hf
  rwa [State.eachLane_eq_foldl] at h

/-- A thread that completes a word changes nothing of another. -/
theorem State.untouched.completeWord {t u : Nat} (hu : t ≠ u) (s : State) : untouched t s (s.completeWord u) := by
  unfold State.completeWord
  split
  · rename_i k next w mark mask _
    have h1 := untouched.updThread hu s (fun th => { th with park := .none }.goTo next)
    refine h1.trans ⟨.of_onlyThreads ((State.onlyThreads.refl _).finishWord ..) (State.finishWord_warp ..) (State.finishWord_thread_ne _ hu ..),
      (State.finishWord_warp ..).sstep, fun h => (State.Stable.toKill [u] _).finishWord (List.mem_singleton_self u) mark w mask h⟩
  · exact .refl t s

/-- A steady thread that completes the word at which it is parked goes on after it. -/
theorem State.completeWord_thread {s : State} {t : Nat} {k : Wait} {next : DWord} {w mask : Word} {mark : Bool}
    (hp : (s.thread t).park = .word k next w mark mask) (hs : s.steady t) :
    (s.completeWord t).thread t = ({ s.thread t with park := .none }.goTo next).afterWord mark := by
  unfold State.completeWord
  rw [hp]
  dsimp only
  rw [State.finishWord_thread _ _ _ _ _ (State.steady_updThread hs rfl), State.updThread_thread_same, State.updThread_thread_same]
  rfl

theorem State.completeWord_acks (s : State) (t u : Nat) : ((s.completeWord u).thread t).acks = (s.thread t).acks := by
  unfold State.completeWord
  split
  · obtain ⟨_, _, _, _, _, _, _, hacks, _⟩ := State.finishWord_sameData (s.updThread u _) u t _ _ _
    rw [hacks, State.updThread_thread]
    split
    · rename_i e; rw [e]; rfl
    · rfl
  · rfl

theorem State.completeWord_rcv (s : State) (u w : Nat) : ((s.completeWord u).warp w).rcv = (s.warp w).rcv := by
  unfold State.completeWord
  split
  · rw [State.finishWord_warp]; rfl
  · rfl

/-! ## Episodes (R104) -/

section
variable {s : State} {t w : Nat} {e : Episode}

theorem State.releaseEpisode_rcv (s : State) (w : Nat) (e : Episode) : ((s.releaseEpisode w e).warp w).rcv = (s.warp w).rcv.filter (fun y => y != e) := by
  refine List.foldlRecOn _ _ (motive := fun z : State => (z.warp w).rcv = _) ?_ fun z h u _ => (z.completeWord_rcv u w).trans h
  rw [State.updWarp_warp_same]

/-- A thread that has not arrived at an episode is untouched by its release. -/
theorem State.untouched.releaseEpisode (ht : t ∉ s.arrivals w e) : untouched t s (s.releaseEpisode w e) :=
  (untouched.updWarp t s w fun _ => rfl).trans (.foldl fun z _ hu => .completeWord (ne_of_mem_of_not_mem hu ht).symm z)

/-- A steady thread that has arrived at an episode goes on after the RCV with its release. -/
theorem State.releaseEpisode_thread {k : Wait} {next : DWord} {x mask : Word} {mark : Bool} (ht : t ∈ s.arrivals w e)
    (hp : (s.thread t).park = .word k next x mark mask) (hs : s.steady t) :
    ((s.releaseEpisode w e).thread t) = ({ s.thread t with park := .none }.goTo next).afterWord mark := by
  have hopen : untouched t s (s.updWarp w (fun x => { x with rcv := x.rcv.filter (fun y => y != e) })) := .updWarp t s w fun _ => rfl
  obtain ⟨z, hz, hdone⟩ := State.foldl_at (f := State.completeWord) (s.updWarp w (fun x => { x with rcv := x.rcv.filter (fun y => y != e) }))
    ((s.liveThreads_nodup w).filter _) ht fun z u hu => .completeWord hu z
  have hleft := hopen.trans hz
  refine hdone.thread.trans ?_
  rw [State.completeWord_thread (by rw [hleft.thread]; exact hp) (hleft.steady hs), hleft.thread]

/-- An episode to which a live thread has not come stays open. -/
theorem State.releaseComplete_absent {u : Nat} (hu : u ∈ s.liveThreads w) (hp : ∀ d n, (s.thread u).arrivedAt d n = false) : s.releaseComplete w = s := by
  refine List.foldl_fixed' (fun e => ?_) _
  have hless : (s.arrivals w e).length < (s.liveThreads w).length :=
    List.length_filter_lt_length_iff_exists.2 ⟨u, hu, by simp [hp]⟩
  refine if_neg fun h => ?_
  simp only [Bool.and_eq_true, beq_iff_eq] at h
  omega

/-- The one open episode of a warp all of whose live threads have arrived is released. -/
theorem State.releaseComplete_all (hr : (s.warp w).rcv = [e]) (ht : t ∈ s.liveThreads w)
    (hall : ∀ u ∈ s.liveThreads w, (s.thread u).arrivedAt e.depth (e.pc + 4) = true) : s.releaseComplete w = s.releaseEpisode w e := by
  have harr : s.arrivals w e = s.liveThreads w := List.filter_eq_self.2 hall
  have hne : (s.liveThreads w).isEmpty = false := List.isEmpty_eq_false_iff_exists_mem.2 ⟨t, ht⟩
  unfold State.releaseComplete
  rw [hr, List.foldl_cons, List.foldl_nil, if_pos (by simp [harr, hne])]

/-- A thread that is not live is no part of an episode. -/
theorem State.releaseComplete_thread_dead (hd : (s.thread t).live = false) (w : Nat) : (s.releaseComplete w).thread t = s.thread t := by
  refine List.foldlRecOn _ _ (motive := fun z : State => z.thread t = s.thread t) rfl fun z hz e _ => ?_
  split
  · have ht : t ∉ z.arrivals w e := fun h => by
      have := (State.mem_liveThreads.1 (List.mem_of_mem_filter h)).2
      rw [hz, hd] at this
      exact Bool.false_ne_true this
    exact (State.untouched.releaseEpisode ht).thread.trans hz
  · exact hz

theorem State.releaseComplete_acks (s : State) (w t : Nat) : ((s.releaseComplete w).thread t).acks = (s.thread t).acks := by
  refine List.foldlRecOn _ _ (motive := fun z : State => (z.thread t).acks = (s.thread t).acks) rfl fun z hz e _ => ?_
  split
  · exact List.foldlRecOn _ _ (motive := fun y : State => (y.thread t).acks = _) hz fun y hy u _ => (y.completeWord_acks t u).trans hy
  · exact hz

end

/-! ## RCV (R103, R104) -/

/-- A thread parked at the RCV that issues. -/
def Thread.toRcv (th : Thread) (c : Issue) (mark : Bool) : Thread := { th with park := .word .rcv (c.pc + 4) c.word mark c.mask }

/-- A participant's part of an RCV: it arrives, and if it is the first at its key it opens the episode. -/
def rcvLane (tmo : BitVec 16) (mark : Bool) (s : State) (t : Nat) : State :=
  (if (s.warp (warpOf t)).rcv.any (fun e => e.pc == s.cur.pc && e.depth == (s.thread t).depth) then s
    else s.updWarp (warpOf t) (fun x => { x with rcv := x.rcv ++
      [Episode.mk s.cur.pc (s.thread t).depth (if tmo = 0 then none else some (s.cycleOf s.cur.core + 64 * tmo.toNat))] })).parkWord t .rcv mark

section
variable {tmo : BitVec 16} {mark : Bool} {s : State} {t u : Nat} {ts : List Nat}

/-- What an arrival does: it may open an episode, and it parks its thread. -/
theorem rcvLane_state (tmo : BitVec 16) (mark : Bool) (s : State) (t : Nat) :
    ∃ z, (∀ u, State.untouched u s z) ∧ rcvLane tmo mark s t = z.updThread t (fun th => th.toRcv s.cur mark) := by
  unfold rcvLane
  split
  · exact ⟨s, fun u => .refl u s, rfl⟩
  · exact ⟨_, fun u => .updWarp u s (warpOf t) fun _ => rfl, rfl⟩

theorem rcvLane_thread : (rcvLane tmo mark s t).thread t = (s.thread t).toRcv s.cur mark := by
  obtain ⟨z, hz, e⟩ := rcvLane_state tmo mark s t
  rw [e, State.updThread_thread_same, (hz t).thread]

theorem rcvLane_others (hu : t ≠ u) : State.untouched t s (rcvLane tmo mark s u) := by
  obtain ⟨z, hz, e⟩ := rcvLane_state tmo mark s u
  rw [e]
  exact (hz t).trans (.updThread hu z _)

theorem rcvLane_cur : (rcvLane tmo mark s t).cur = s.cur := by
  obtain ⟨z, hz, e⟩ := rcvLane_state tmo mark s t
  rw [e]
  exact (hz t).cur

/-- A participant of RCV is parked at it. -/
theorem rcvLanes_thread (hn : ts.Nodup) (ht : t ∈ ts) : (ts.foldl (rcvLane tmo mark) s).thread t = (s.thread t).toRcv s.cur mark := by
  obtain ⟨z, hz, hdone⟩ := State.foldl_at (f := rcvLane tmo mark) s hn ht fun _ _ => rcvLane_others
  rw [hdone.thread, rcvLane_thread, hz.thread, hz.cur]

theorem rcvLanes_others (ht : t ∉ ts) : State.untouched t s (ts.foldl (rcvLane tmo mark) s) :=
  .foldl fun _ _ hu => rcvLane_others (ne_of_mem_of_not_mem hu ht).symm

theorem rcvLanes_steady (hn : ts.Nodup) (ht : t ∈ ts) (hs : s.steady t) : (ts.foldl (rcvLane tmo mark) s).steady t := by
  obtain ⟨z, hz, hdone⟩ := State.foldl_at (f := rcvLane tmo mark) s hn ht fun _ _ => rcvLane_others
  obtain ⟨y, hy, e⟩ := rcvLane_state tmo mark z t
  rw [e] at hdone
  exact hdone.steady (State.steady_updThread ((hz.trans (hy t)).steady hs) rfl)

theorem rcvLanes_live (hn : ts.Nodup) (u : Nat) : ((ts.foldl (rcvLane tmo mark) s).thread u).live = (s.thread u).live := by
  by_cases hu : u ∈ ts
  · rw [rcvLanes_thread hn hu]; rfl
  · rw [(rcvLanes_others hu).thread]

/-- The episodes of a warp at which a participant arrives: an open one of its key stays as it is, and else one is opened. -/
theorem rcvLane_rcv : ∃ l, ((rcvLane tmo mark s t).warp (warpOf t)).rcv =
    if (s.warp (warpOf t)).rcv.any (fun e => e.pc == s.cur.pc && e.depth == (s.thread t).depth) then (s.warp (warpOf t)).rcv
    else (s.warp (warpOf t)).rcv ++ [⟨s.cur.pc, (s.thread t).depth, l⟩] := by
  refine ⟨if tmo = 0 then none else some (s.cycleOf s.cur.core + 64 * tmo.toNat), ?_⟩
  unfold rcvLane State.parkWord
  rw [State.updThread_warp, apply_ite (State.warp · (warpOf t)), apply_ite Warp.rcv, State.updWarp_warp_same]

theorem rcvLane_rcv_ne {w : Nat} (hw : w ≠ warpOf t) : (rcvLane tmo mark s t).warp w = s.warp w := by
  unfold rcvLane State.parkWord
  rw [State.updThread_warp]
  split
  · rfl
  · exact State.updWarp_warp_ne _ hw _

/-- An arrival closes no episode. -/
theorem rcvLane_keeps (u w : Nat) {p : Episode → Bool} (h : (s.warp w).rcv.any p = true) : ((rcvLane tmo mark s u).warp w).rcv.any p = true := by
  by_cases hw : w = warpOf u
  · obtain ⟨l, e⟩ := rcvLane_rcv (tmo := tmo) (mark := mark) (s := s) (t := u)
    rw [hw] at h ⊢
    rw [e]
    split
    · exact h
    · rw [List.any_append, h, Bool.true_or]
  · rwa [rcvLane_rcv_ne hw]

/-- After the arrival of a thread, an episode of its key is open. -/
theorem rcvLane_opens : ((rcvLane tmo mark s t).warp (warpOf t)).rcv.any (fun e => e.pc == s.cur.pc && e.depth == (s.thread t).depth) = true := by
  obtain ⟨l, e⟩ := rcvLane_rcv (tmo := tmo) (mark := mark) (s := s) (t := t)
  rw [e]
  split
  · assumption
  · simp

theorem rcvLanes_open (hn : ts.Nodup) (ht : t ∈ ts) :
    ((ts.foldl (rcvLane tmo mark) s).warp (warpOf t)).rcv.any (fun e => e.pc == s.cur.pc && e.depth == (s.thread t).depth) = true := by
  obtain ⟨us, vs, rfl⟩ := List.append_of_mem ht
  have hus : t ∉ us := fun hu => List.disjoint_of_nodup_append hn hu (List.mem_cons_self ..)
  have hz : State.untouched t s (us.foldl (rcvLane tmo mark) s) := rcvLanes_others hus
  rw [List.foldl_append, List.foldl_cons]
  refine List.foldlRecOn _ _ (motive := fun z : State => (z.warp (warpOf t)).rcv.any _ = true) ?_ fun z h u _ => rcvLane_keeps u _ h
  rw [← hz.cur, ← hz.thread]
  exact rcvLane_opens

/-- Threads of a warp without episodes that arrive at one DEPTH open one episode. -/
theorem rcvLanes_one {w d : Nat} (hn : ts.Nodup) (hne : ts ≠ []) (hr : (s.warp w).rcv = []) (hts : ∀ u ∈ ts, warpOf u = w ∧ (s.thread u).depth = d) :
    ∃ l, ((ts.foldl (rcvLane tmo mark) s).warp w).rcv = [⟨s.cur.pc, d, l⟩] := by
  obtain ⟨v, vs, rfl⟩ := List.exists_cons_of_ne_nil hne
  obtain ⟨rfl, rfl⟩ := hts v (List.mem_cons_self ..)
  obtain ⟨l, e⟩ := rcvLane_rcv (tmo := tmo) (mark := mark) (s := s) (t := v)
  rw [hr] at e
  refine ⟨l, ?_⟩
  have hall : ∀ u, ((rcvLane tmo mark s v).thread u).depth = (s.thread u).depth := fun u => by
    by_cases hu : u = v
    · rw [hu, rcvLane_thread]; rfl
    · rw [(rcvLane_others hu).thread]
  have hlanes := List.foldlRecOn vs (rcvLane tmo mark) (b := rcvLane tmo mark s v)
    (motive := fun z : State => (z.cur = s.cur ∧ ∀ u, (z.thread u).depth = (s.thread u).depth) ∧
      (z.warp (warpOf v)).rcv = [⟨s.cur.pc, (s.thread v).depth, l⟩]) ⟨⟨rcvLane_cur, hall⟩, e⟩ fun z ⟨⟨hc, hd⟩, hz⟩ u hu => by
    obtain ⟨hwu, hdu⟩ := hts u (List.mem_cons_of_mem v hu)
    refine ⟨⟨rcvLane_cur.trans hc, fun x => ?_⟩, ?_⟩
    · by_cases hx : x = u
      · rw [hx, rcvLane_thread]; exact hd u
      · rw [(rcvLane_others hx).thread]; exact hd x
    · obtain ⟨l', e'⟩ := rcvLane_rcv (tmo := tmo) (mark := mark) (s := z) (t := u)
      rw [hwu, hz, hc, hd, hdu, if_pos (by simp)] at e'
      exact e'
  exact hlanes.2

/-- A thread parked at an RCV has arrived at its key. -/
theorem Thread.toRcv_arrivedAt (th : Thread) (c : Issue) (mark : Bool) : (th.toRcv c mark).arrivedAt th.depth (c.pc + 4) = true := by
  simp [Thread.toRcv, Thread.arrivedAt]

theorem exec_rcv {g : Guard} (hx : s.executes (.rcv g tmo)) (ht : t ∈ s.participants (.rcv g tmo))
    (hw : ∀ u ∈ s.participants (.rcv g tmo), warpOf u = warpOf t) :
    exec (.rcv g tmo) s = .next ((s.bystanders (.rcv g tmo)).foldl State.skip
      (((s.participants (.rcv g tmo)).foldl (rcvLane tmo g.s) s).releaseComplete (warpOf t))).endWord := by
  show Host.Outcome.next (s.simt (.rcv g tmo) _) = _
  rw [State.simt_executes (g := g) rfl hx]
  obtain ⟨v, vs, hps⟩ := List.exists_cons_of_ne_nil (List.ne_nil_of_mem ht)
  have hv := hw v (hps ▸ List.mem_cons_self ..)
  rw [hps, ← hv]
  rfl

theorem State.skips_rcv (s : State) (us : List Nat) (w : Nat) : ((us.foldl State.skip s).warp w).rcv = (s.warp w).rcv := by
  rw [State.foldl_warp (f := State.skip) (fun z u => z.pass_warp u false w) us s]

end

/-- R103, R104: when every live thread of the warp arrives, they pass the RCV. -/
theorem rcvReleasesAllLive {g : Guard} {tmo : BitVec 16} {s : State} {t : Nat} (h : Issues s (.rcv g tmo) t) (hr : (s.warp (warpOf t)).rcv = [])
    (hlive : ∀ u ∈ s.liveThreads (warpOf t), u ∈ s.participants (.rcv g tmo) ∧ (s.thread u).depth = (s.thread t).depth)
    (hparts : ∀ u ∈ s.participants (.rcv g tmo), u ∈ s.liveThreads (warpOf t)) :
    Answers (.rcv g tmo) s fun s' => goesOnAt (s.thread t) (s'.thread t) (s.cur.pc + 4) ∧ (s'.warp (warpOf t)).rcv = [] := by
  obtain ⟨hx, ht, hst⟩ := h
  have hn := State.participants_nodup hx
  have hwarp : ∀ u ∈ s.participants (.rcv g tmo), warpOf u = warpOf t := fun u hu => (State.mem_liveThreads.1 (hparts u hu)).1
  refine ⟨_, exec_rcv hx ht hwarp, ?_⟩
  obtain ⟨l, hone⟩ := rcvLanes_one (tmo := tmo) (mark := g.s) hn (List.ne_nil_of_mem ht) hr fun u hu => ⟨hwarp u hu, (hlive u (hparts u hu)).2⟩
  have hlives := State.liveThreads_congr (fun u => rcvLanes_live (tmo := tmo) (mark := g.s) (s := s) hn u) (warpOf t)
  have hall : ∀ u ∈ ((s.participants (.rcv g tmo)).foldl (rcvLane tmo g.s) s).liveThreads (warpOf t),
      (((s.participants (.rcv g tmo)).foldl (rcvLane tmo g.s) s).thread u).arrivedAt (s.thread t).depth (s.cur.pc + 4) = true := fun u hu => by
    obtain ⟨hu, hd⟩ := hlive u (hlives ▸ hu)
    rw [rcvLanes_thread hn hu, ← hd]
    exact Thread.toRcv_arrivedAt ..
  have hmem := hlives ▸ hparts t ht
  have hthread := rcvLanes_thread (tmo := tmo) (mark := g.s) (s := s) hn ht
  rw [State.releaseComplete_all hone hmem hall]
  constructor
  · rw [State.endWord_thread, State.skips_thread_ne (State.not_bystander ht),
      State.releaseEpisode_thread (List.mem_filter.2 ⟨hmem, hall t hmem⟩) (by rw [hthread]; rfl) (rcvLanes_steady hn ht hst), hthread]
    exact Thread.afterWord_goesOnAt ({ s.thread t with park := .none }) ..
  · rw [State.endWord_warp, State.skips_rcv, State.releaseEpisode_rcv, hone]
    simp

/-- R103, R104: while a live thread of the warp is elsewhere, the participants wait at the RCV. -/
theorem rcvWaitsForAbsent {g : Guard} {tmo : BitVec 16} {s : State} {t u : Nat} (hx : s.executes (.rcv g tmo)) (ht : t ∈ s.participants (.rcv g tmo))
    (hwarp : ∀ v ∈ s.participants (.rcv g tmo), warpOf v = warpOf t) (hu : u ∈ s.liveThreads (warpOf t)) (hout : u ∉ s.cur.threads)
    (hp : (s.thread u).park = .none) :
    Answers (.rcv g tmo) s fun s' => s'.thread t = (s.thread t).toRcv s.cur g.s ∧
      (s'.warp (warpOf t)).rcv.any (fun e => e.pc == s.cur.pc && e.depth == (s.thread t).depth) = true := by
  have hn := State.participants_nodup hx
  have hleft : State.untouched u s ((s.participants (.rcv g tmo)).foldl (rcvLane tmo g.s) s) :=
    rcvLanes_others fun h => hout (State.mem_participants.1 h).1
  have habsent : ∀ d n, (((s.participants (.rcv g tmo)).foldl (rcvLane tmo g.s) s).thread u).arrivedAt d n = false := fun d n => by
    rw [hleft.thread, Thread.arrivedAt, hp, Bool.and_false]
  refine ⟨_, exec_rcv hx ht hwarp, ?_⟩
  rw [State.releaseComplete_absent (by rw [State.liveThreads_congr (rcvLanes_live hn)]; exact hu) habsent]
  constructor
  · rw [State.endWord_thread, State.skips_thread_ne (State.not_bystander ht), rcvLanes_thread hn ht]
  · rw [State.endWord_warp, State.skips_rcv]
    exact rcvLanes_open hn ht

/-! ## EXIT (R107) -/

/-- What is left of a thread when one exits: the exit may release episodes. -/
theorem State.exitThread_thread (s : State) (u t : Nat) :
    (s.exitThread u).thread t = (s.updThread u Thread.ended).thread t ∨
      (s.exitThread u).thread t = ((s.updThread u Thread.ended).releaseComplete (warpOf u)).thread t := by
  unfold State.exitThread
  dsimp only
  split
  · left; split <;> rfl
  · exact .inr rfl

/-- A thread that is not live stays as it is when another exits. -/
theorem State.exitThread_thread_dead {s : State} {t u : Nat} (hu : t ≠ u) (hd : (s.thread t).live = false) : (s.exitThread u).thread t = s.thread t := by
  have hsame := s.updThread_thread_ne hu Thread.ended
  rcases s.exitThread_thread u t with e | e
  · rw [e, hsame]
  · rw [e, State.releaseComplete_thread_dead (by rw [hsame]; exact hd), hsame]

theorem State.exitThread_acks {s : State} {t u : Nat} (hu : t ≠ u) : ((s.exitThread u).thread t).acks = (s.thread t).acks := by
  have hsame := s.updThread_thread_ne hu Thread.ended
  rcases s.exitThread_thread u t with e | e
  · rw [e, hsame]
  · rw [e, State.releaseComplete_acks, hsame]

theorem State.exitThread_thread_same (s : State) (t : Nat) : (s.exitThread t).thread t = (s.thread t).ended := by
  have hsame := s.updThread_thread_same t Thread.ended
  rcases s.exitThread_thread t t with e | e
  · rw [e, hsame]
  · rw [e, State.releaseComplete_thread_dead (by rw [hsame]; rfl), hsame]

/-- A thread that has ended ends its word as it is. -/
theorem State.finish_thread_ended {s : State} {t : Nat} {th : Thread} (h : s.thread t = th.ended) (k : Bool) : (s.finish t k).thread t = th.ended := by
  have hmark : (if k && th.ended.waiting then { th.ended with park := .marker } else th.ended) = th.ended := by
    rw [if_neg]; simp [Thread.waiting, Thread.ended, Thread.init]
  unfold State.finish State.finishWord State.stepTrap
  dsimp only
  rw [State.updThread_thread_same, h, hmark, if_neg (by simp [Thread.ended, Thread.init]), State.updThread_thread_same, h, hmark]

/-- A lane of EXIT. -/
def exitLane (s : State) (t : Nat) : State × Adv := (s.exitThread t, .set)

theorem exec_exit (g : Guard) (s : State) : exec (.exit g) s = .next (s.laneWord (.exit g) exitLane) := rfl

/-- R107: what is left of a participant of EXIT. -/
theorem exitLanes_thread {s : State} {t : Nat} {ts : List Nat} (k : Bool) (hn : ts.Nodup) (ht : t ∈ ts) :
    (s.eachLane k exitLane ts).thread t = (s.thread t).ended := by
  obtain ⟨us, vs, rfl⟩ := List.append_of_mem ht
  have hus : ∀ u ∈ us, t ≠ u := fun u hu e => List.disjoint_of_nodup_append hn hu (e ▸ List.mem_cons_self ..)
  have hvs : ∀ u ∈ vs, t ≠ u := fun u hu e => (List.nodup_cons.1 (List.nodup_append.1 hn).2.1).1 (e ▸ hu)
  rw [State.eachLane_eq_foldl, List.foldl_append, List.foldl_cons]
  have hbefore := List.foldlRecOn us (fun z u => (exitLane z u).1.goOn u k (exitLane z u).2) (b := s)
    (motive := fun z : State => (z.thread t).acks = (s.thread t).acks) rfl fun z hz u hu => by
    rw [State.goOn_thread_ne _ (hus u hu)]
    exact (State.exitThread_acks (hus u hu)).trans hz
  refine List.foldlRecOn vs _ (motive := fun z : State => z.thread t = (s.thread t).ended) ?_ fun z hz u hu => ?_
  · refine State.finish_thread_ended ((State.exitThread_thread_same _ t).trans ?_) k
    unfold Thread.ended
    rw [hbefore]
  · rw [State.goOn_thread_ne _ (hvs u hu)]
    exact (State.exitThread_thread_dead (hvs u hu) (by rw [hz]; rfl)).trans hz

/-- Settles O26: the arrivals at an episode, its release by the last of them, and the end of a thread. -/
theorem reconvergenceAndExit : Obligations.ReconvergenceAndExit := by
  refine fun g tmo s t => ⟨rcvReleasesAllLive, fun ⟨hx, ht, _⟩ hwarp ⟨u, hu, hout, hp⟩ => ?_, fun hx ht => ⟨_, exec_exit g s, ?_⟩⟩
  · obtain ⟨s', he, hthread, hopen⟩ := rcvWaitsForAbsent hx ht hwarp hu hout hp
    exact ⟨s', he, by rw [hthread]; rfl, by rw [hthread]; rfl, hopen⟩
  · have hended : (s.laneWord (.exit g) exitLane).thread t = (s.thread t).ended := by
      rw [State.laneWord_executes (g := g) rfl hx, State.endWord_thread, State.skips_thread_ne (State.not_bystander ht),
        exitLanes_thread _ (State.participants_nodup hx) ht]
    beta_reduce
    rw [hended]
    exact ⟨rfl, fun _ => rfl, rfl, rfl, rfl, rfl⟩

end Sys2Proof.Machine

/-! SUPPORT. Accesses to memory leave the threads alone: the L1, the homes, and the requests to other devices. -/

namespace Sys2Proof.Machine
open Sys2Proof

/-! ## Requests of this device change its endpoint alone -/

theorem State.forwardAnswer_shape (s : State) (k : Nat) (p : Packet) : ∃ l, s.forwardAnswer k p = { s with lodge := l } := by
  unfold State.forwardAnswer
  split
  · exact ⟨_, rfl⟩
  · split <;> exact ⟨_, rfl⟩
  · exact ⟨_, rfl⟩

theorem State.forward_shape (s : State) (k : Nat) (p : Packet) : ∃ l, s.forward k p = { s with lodge := l } := by
  unfold State.forward
  cases s.route p.dst <;> dsimp only <;> split <;> exact s.forwardAnswer_shape ..

theorem State.sendSequenced_shape (s : State) (tier : BitVec 2) (ty : BitVec 4) (dst : BitVec 12) (tag : BitVec 14) (a : DWord) (b : Body) :
    ∃ l, s.sendSequenced tier ty dst tag a b = { s with lodge := l } := by
  obtain ⟨l, e⟩ := State.forward_shape { s with lodge := { s.lodge with
    seqTx := Tab.put 0 s.lodge.seqTx (dst.toNat * 4 + tier.toNat) ((Tab.get 0 s.lodge.seqTx (dst.toNat * 4 + tier.toNat) + 1) % 65536),
    seqFirst := Tab.put false s.lodge.seqFirst (dst.toNat * 4 + tier.toNat) true } } 6 _
  exact ⟨l, e⟩

theorem State.sendNow_shape (s : State) (o : ReqOwner) (p : Packet) : ∃ l, s.sendNow o p = { s with lodge := l } := by
  unfold State.sendNow
  split
  · exact ⟨_, rfl⟩
  · split
    · exact ⟨_, rfl⟩
    · rename_i slot _
      obtain ⟨l, e⟩ := State.sendSequenced_shape
        { s with lodge := { s.lodge with outs := s.lodge.outs ++ [OutReq.mk slot o { p with tag := s.lodge.tagOf slot } 0] } }
        p.tier p.type p.dst (s.lodge.tagOf slot) p.addr p.body
      exact ⟨l, e⟩

/-- R299: a request of this device changes its endpoint alone. -/
theorem State.request_shape (s : State) (o : ReqOwner) (tier : BitVec 2) (ty : BitVec 4) (dst : BitVec 12) (a : DWord) (b : Body) :
    ∃ l, s.request o tier ty dst a b = { s with lodge := l } := s.sendNow_shape ..

/-! ## What an access leaves of every thread -/

namespace State.untouched
variable {t : Nat}

/-- What changes neither threads nor warps, nor the tables a trap looks at, is nothing to a thread. -/
theorem of_fields {s z : State} (hthr : z.thr = s.thr) (hwarps : z.warps = s.warps) (hparts : z.parts = s.parts) (hlaunches : z.launches = s.launches)
    (hcores : z.cores = s.cores) (hcur : z.cur = s.cur) : untouched t s z := by
  have hwarp : ∀ w, z.warp w = s.warp w := fun w => by unfold State.warp; rw [hwarps]
  refine ⟨⟨hcur, ?_, ?_, ?_, ?_, ?_⟩, ?_, fun hk => by rwa [hwarp]⟩
  · unfold State.thread; rw [hthr]
  · unfold State.warpOfThread; rw [hwarp]
  · unfold State.warpOfThread; rw [hwarp]
  · unfold State.viewOf State.view State.launch? State.part State.warpOfThread; rw [hwarp, hparts, hlaunches]
  · unfold State.cycleOf State.coreAt; rw [hcores]
  · unfold State.warpOfThread; rw [hwarp]

theorem lodge (s : State) (l : Lodge) : untouched t s { s with lodge := l } := .of_fields rfl rfl rfl rfl rfl rfl

theorem request (s : State) (o : ReqOwner) (tier : BitVec 2) (ty : BitVec 4) (dst : BitVec 12) (a : DWord) (b : Body) :
    untouched t s (s.request o tier ty dst a b) := by
  obtain ⟨l, e⟩ := s.request_shape o tier ty dst a b
  rw [e]
  exact .lodge s l

theorem freshId (s : State) : untouched t s s.freshId.2 := .of_fields rfl rfl rfl rfl rfl rfl

theorem putBytes (s : State) (k : Nat) (bs : List Byte) : untouched t s (s.putBytes k bs) := .of_fields rfl rfl rfl rfl rfl rfl

theorem touch (s : State) (h : Home) (n : Nat) : untouched t s (s.touch h n) := by
  unfold State.touch
  split
  · exact .of_fields rfl rfl rfl rfl rfl rfl
  · exact .refl t s

theorem hitStacks (s : State) (h : Home) (n : Nat) : untouched t s (s.hitStacks h n) := by
  obtain ⟨r, f, e⟩ := hitStacks_shape s h n
  rw [e]
  exact .of_fields rfl rfl rfl rfl rfl rfl

theorem stackWritten (s : State) (h : Home) (n : Nat) : untouched t s (s.stackWritten h n) := .of_fields rfl rfl rfl rfl rfl rfl

theorem notify (s : State) (p : Nat) (a : DWord) : untouched t s (s.notify p a) := by
  unfold State.notify
  split
  · exact .refl t s
  · exact .of_fields rfl rfl rfl rfl rfl rfl

theorem countAccess (s : State) (d : Nat) (p : Place) (k a : Nat) : untouched t s (s.countAccess d p k a) := by
  unfold State.countAccess
  refine iteInduction (motive := untouched t s) (fun _ => .refl t s) fun _ => ?_
  refine iteInduction (motive := untouched t s) (fun _ => ?_) fun _ => .of_fields rfl rfl rfl rfl rfl rfl
  split <;> exact .of_fields rfl rfl rfl rfl rfl rfl

/-- Neither is what the L1 holds. -/
theorem setL1 (s : State) (c k : Nat) (x : L1Sector) : untouched t s (s.setL1 c k x) := .updCore t s c fun _ => rfl

theorem forgetFills (s : State) (c : Nat) (p : Nat → Bool → Bool) : untouched t s (s.forgetFills c p) := .lodge s _

theorem writeBackSector (s : State) (c k : Nat) : untouched t s (s.writeBackSector c k) := by
  unfold State.writeBackSector
  dsimp only
  split
  · exact .refl t s
  · refine ((forgetFills s c _).trans (setL1 _ c k _)).trans (.foldl fun z r _ => ?_)
    split
    · exact .putBytes ..
    · exact (freshId z).trans (.request ..)

theorem dropSector (s : State) (c k : Nat) : untouched t s (s.dropSector c k) :=
  ((writeBackSector s c k).trans (.forgetFills ..)).trans (.setL1 ..)

theorem roomInL1 (s : State) (c k : Nat) : untouched t s (s.roomInL1 c k) := by
  unfold State.roomInL1
  dsimp only
  split
  · exact .refl t s
  · split
    · exact .refl t s
    · exact (of_fields rfl rfl rfl rfl rfl rfl : untouched t s { s with free := s.free + 1 }).trans (.foldl fun z k _ => .dropSector z c k)

theorem readHome (s : State) (h : Home) (n : Nat) : untouched t s (s.readHome h n).1 := by
  unfold State.readHome
  split
  · exact .refl t s
  · split <;> exact .touch ..

theorem l1Read (s : State) (c : Nat) (h : Home) (n : Nat) (uo : Bool) (pol : BitVec 3) : untouched t s (s.l1Read c h n uo pol).1 := by
  have hread := readHome (t := t) s h.sectorHome 32
  unfold State.l1Read
  dsimp only
  split
  · exact .refl t s
  · split
    · exact .refl t s
    · split
      · rename_i s1 bs e
        rw [e] at hread
        exact (hread.trans (.roomInL1 ..)).trans (.setL1 ..)
      · exact hread

theorem l1Write (s : State) (c : Nat) (h : Home) (bs : List Byte) (uo : Bool) (pol : BitVec 3) (u : Nat) :
    untouched t s (s.l1Write c h bs uo pol u) := (roomInL1 s c h.sector).trans (.setL1 ..)

theorem writeHome (s : State) (h : Home) (bs : List Byte) : untouched t s (s.writeHome h bs).1 := by
  rcases writeHome_cases s h bs with ⟨_, e⟩ | ⟨_, e⟩ <;> rw [e]
  · exact .refl t s
  · exact ((touch s h _).trans (.hitStacks ..)).trans (.putBytes ..)

/-- A read of a place, by the L1 or at its home, is nothing to a thread. -/
theorem readPlace (s : State) (c : Nat) (p : Place) (n : Nat) (l1 : Bool) : untouched t s (s.readPlace c p n l1).1 := by
  have hfound : untouched t s (if l1 then s.l1Read c p.home n (p.kind == 2) (polOf s.cur.pfx p)
      else if p.home.isRemote then (s.dropSector c p.home.sector, Got.later) else (s.dropSector c p.home.sector).readHome p.home n).1 := by
    split
    · exact .l1Read ..
    · split
      · exact .dropSector ..
      · exact (dropSector s c p.home.sector).trans (.readHome ..)
  unfold State.readPlace
  dsimp only
  split
  · exact hfound
  · exact hfound

/-- Nor is a hold of a warp that HK3 is told of. -/
theorem holdWarp (s : State) (w : Nat) (c : Byte) (k : Bool) : untouched t s (s.holdWarp w c k) :=
  ⟨.of_onlyThreads ((State.onlyThreads.refl s).holdWarp w c k) (s.holdWarp_warp w c k _) (s.holdWarp_thread w c k t),
    (s.holdWarp_warp w c k _).sstep, fun h => (State.Stable.toKill [] _).hold w c k h⟩

end State.untouched

end Sys2Proof.Machine

/-! SUPPORT. Branches, calls and returns: legal targets, the return addresses that leave the cache, and the lanes of the five words. -/

namespace Sys2Proof.Machine
open Sys2Proof

/-! ## Targets (R97) -/

theorem targetCause_legal {v : DWord} (ha : v.toNat % 4 = 0) (hv : v ≤ 0x00FFFFFFFFFFFFFF) : targetCause v = none := by
  unfold targetCause globalTop
  rw [if_neg (by simpa using ha), if_neg (BitVec.not_lt.2 hv)]

theorem targetCause_misaligned {v : DWord} (ha : v.toNat % 4 ≠ 0) : targetCause v = some 3 := if_pos (by simpa using ha)

theorem targetCause_beyond {v : DWord} (ha : v.toNat % 4 = 0) (hv : 0x00FFFFFFFFFFFFFF < v) : targetCause v = some 4 := by
  unfold targetCause globalTop
  rw [if_neg (by simpa using ha), if_pos hv]

theorem bTarget_eq (c : Issue) (o : BitVec 19) : bTarget c o = c.pc + 4 * o.signExtend 64 := by
  rw [bTarget, BitVec.mul_comm]

/-! ## Branches (R92, R97, R98) -/

theorem unwind_eq_dropWhile (depth : Nat) (h : Bool) (g : DWord) : ∀ l : List LoopEntry,
    unwind depth h l g = l.dropWhile (fun e => e.depth == depth && e.h == h && !(decide (e.start ≤ g) && decide (g < e.stop)))
  | [] => rfl
  | e :: es => by
    rw [unwind, List.dropWhile_cons, unwind_eq_dropWhile depth h g es]
    rfl

/-- A thread that a branch demotes, if it does, and delays. -/
def Thread.branching (th : Thread) (d : Bool) (n : Nat) : Thread := { th with dm := th.dm || d, readyAt := n }

section
variable {s z : State} {t u n : Nat} {y : BitVec 1} {v : DWord} {c : Byte}

theorem State.takeBranch_legal (hv : targetCause v = none) :
    z.takeBranch t y v n = (z.updThread t (fun th => th.branching (y == 1 && decide (v ≤ z.cur.pc0)) (z.cycleOf z.cur.core + n)), .branch v) := by
  unfold State.takeBranch
  rw [hv]
  rfl

theorem State.takeBranch_illegal (hv : targetCause v = some c) : z.takeBranch t y v n = (z, .trap c 0) := by
  unfold State.takeBranch
  rw [hv]

theorem State.takeBranch_others (z : State) (hu : t ≠ u) (y : BitVec 1) (v : DWord) (n : Nat) : untouched t z (z.takeBranch u y v n).1 := by
  cases hv : targetCause v with
  | none => rw [State.takeBranch_legal hv]; exact State.untouched.updThread hu z fun _ => _
  | some c => rw [State.takeBranch_illegal hv]; exact .refl t z

variable {i : Instr} {g : Guard} {f : State → Nat → State × Adv} (hg : i.guard? = some g) (h : Issues s i t)
  (hf : ∀ z u, t ≠ u → State.untouched t z (f z u).1) (hlane : ∀ z, State.untouched t s z → f z t = z.takeBranch t y v n)
include hg h hf hlane

/-- R97, R98: a branch with a legal target. -/
theorem State.laneWord_branch (hv : targetCause v = none) :
    let th := s.thread t
    let th' := (s.laneWord i f).thread t
    branchesTo th th' v ∧ sameException th th' ∧ th'.dm = (th.dm || (y == 1 && decide (v ≤ s.cur.pc0))) := by
  obtain ⟨hx, ht, hst⟩ := h
  obtain ⟨z, z', hz, hdone, he⟩ := State.laneWord_at hg hx ht hf
  rw [hlane z hz, State.takeBranch_legal hv] at hdone
  rw [he, State.endWord_thread, hdone.thread, State.goOn_branch_thread _ _ _ _ (State.steady_updThread (hz.steady hst) rfl), State.updThread_thread_same,
    Thread.afterWord_eq, hz.thread, hz.cur]
  exact ⟨⟨rfl, unwind_eq_dropWhile ..⟩, ⟨rfl, rfl, rfl, rfl, rfl, rfl, rfl, rfl⟩, rfl⟩

/-- R97: a branch with an illegal target traps. -/
theorem State.laneWord_branch_trapped (hv : targetCause v = some c) (hc : toHk3 c = false) : trapped s (s.laneWord i f) t c 0 := by
  obtain ⟨hx, ht, _⟩ := h
  exact State.laneWord_lane_trapped hg hx ht hf hc fun z hz => (hlane z hz).trans (State.takeBranch_illegal hv)

end

/-- The lanes of BRA and BRX. -/
def braLane (y : BitVec 1) (o : BitVec 19) (s : State) (t : Nat) : State × Adv := s.takeBranch t y (bTarget s.cur o) 2
def brxLane (y : BitVec 1) (a : BitVec 6) (s : State) (t : Nat) : State × Adv := s.takeBranch t y ((s.thread t).pair a.toNat) 4

theorem exec_bra (g : Guard) (y : BitVec 1) (o : BitVec 19) (s : State) : exec (.bra g y o) s = .next (s.laneWord (.bra g y o) (braLane y o)) := rfl
theorem exec_brx (g : Guard) (y : BitVec 1) (a : BitVec 6) (s : State) : exec (.brx g y a) s = .next (s.laneWord (.brx g y a) (brxLane y a)) := rfl

/-- R97, R98. -/
theorem branchesUnwindLoopsOrTrap : clausesBranchesUnwindLoopsOrTrap := by
  intro g y o a s t
  have hbra : ∀ z, State.untouched t s z → braLane y o z t = z.takeBranch t y (s.cur.pc + 4 * o.signExtend 64) 2 := fun z hz => by
    rw [braLane, hz.cur, bTarget_eq]
  have hbrx : ∀ z, State.untouched t s z → brxLane y a z t = z.takeBranch t y ((s.thread t).pair a.toNat) 4 := fun z hz => by
    rw [brxLane, hz.thread]
  have hbraOthers : ∀ z u, t ≠ u → State.untouched t z (braLane y o z u).1 := fun z u hu => z.takeBranch_others hu ..
  have hbrxOthers : ∀ z u, t ≠ u → State.untouched t z (brxLane y a z u).1 := fun z u hu => z.takeBranch_others hu ..
  exact ⟨fun h ha hv => ⟨_, exec_bra .., State.laneWord_branch (g := g) rfl h hbraOthers hbra (targetCause_legal ha hv)⟩,
    fun h ha hv => ⟨_, exec_brx .., State.laneWord_branch (g := g) rfl h hbrxOthers hbrx (targetCause_legal ha hv)⟩,
    fun h ha hv => ⟨_, exec_bra .., State.laneWord_branch_trapped (g := g) rfl h hbraOthers hbra (targetCause_beyond ha hv) rfl⟩,
    fun h ha => ⟨_, exec_brx .., State.laneWord_branch_trapped (g := g) rfl h hbrxOthers hbrx (targetCause_misaligned ha) rfl⟩,
    fun h ha hv => ⟨_, exec_brx .., State.laneWord_branch_trapped (g := g) rfl h hbrxOthers hbrx (targetCause_beyond ha hv) rfl⟩⟩

/-! ## Addresses that leave the cache (R99, R213, R459) -/

/-- A thread has written to memory: of it, only the stores that are not acknowledged or have failed differ, and other threads are untouched. -/
structure State.wroteOut (t : Nat) (s z : State) : Prop where
  thread : z.thread t = { s.thread t with acks := (z.thread t).acks, failed := (z.thread t).failed }
  sstep : (z.warpOfThread t).sstep = (s.warpOfThread t).sstep
  others : ∀ u, u ≠ t → State.untouched u s z

namespace State.wroteOut
variable {t : Nat} {a b c s z : State}

theorem of_untouched (h : ∀ u, untouched u s z) : wroteOut t s z := ⟨by rw [(h t).thread], (h t).sstep, fun u _ => h u⟩

theorem trans (h : wroteOut t a b) (k : wroteOut t b c) : wroteOut t a c :=
  ⟨by rw [k.thread, h.thread], k.sstep.trans h.sstep, fun u hu => (h.others u hu).trans (k.others u hu)⟩

theorem updThread (s : State) {f : Thread → Thread} (hf : ∀ th, f th = { th with acks := (f th).acks, failed := (f th).failed }) :
    wroteOut t s (s.updThread t f) := ⟨by rw [State.updThread_thread_same]; exact hf _, rfl, fun _ hu => .updThread hu s f⟩

theorem storeFailed (s : State) (k : Byte) (x : DWord) : wroteOut t s (s.storeFailed t k x) := by
  unfold State.storeFailed
  split
  · exact .updThread s fun _ => rfl
  · split
    · exact .of_untouched fun u => .holdWarp ..
    · exact .of_untouched fun u => .refl u s

theorem addAck (s : State) (so ready : Bool) (fail : Option (Byte × DWord)) : wroteOut t s (s.addAck t so ready fail) := by
  have hadd : wroteOut t s (s.updThread t fun th => { th with acks := th.acks ++ [Ack.mk s.ids so ready fail] }) := .updThread s fun _ => rfl
  exact hadd.trans (.of_untouched fun _ => .freshId _)

/-- R459: what a store marks of the stacks it hits. -/
theorem hits (s : State) (p : Place) (n : Nat) : wroteOut t s (if p.isStack then s.stackWritten p.home n else s.hitStacks p.home n) := by
  split
  · exact .of_untouched fun _ => .stackWritten ..
  · exact .of_untouched fun _ => .hitStacks ..

/-- A store at a place, by the L1, at its home or at another device. -/
theorem storeAt (s : State) (x : DWord) (p : Place) (bs : List Byte) (l1 : Bool) : wroteOut t s (s.storeAt t x p bs l1).1 := by
  have hdrop : wroteOut t s (s.dropSector (coreOfThread t) p.home.sector) := .of_untouched fun _ => .dropSector ..
  unfold State.storeAt
  dsimp only
  split
  · exact (of_untouched fun _ => .l1Write ..).trans (.hits _ p _)
  · split
    · exact ((hdrop.trans (.addAck ..)).trans (.of_untouched fun _ => .request ..)).trans (.hits _ p _)
    · refine (hdrop.trans ((of_untouched fun u => .writeHome _ p.home bs).trans ?_)).trans (.addAck ..)
      split
      · exact .of_untouched fun _ => .stackWritten ..
      · exact .of_untouched fun u => .refl u _

/-- An address that leaves the cache. -/
theorem spill (s : State) (e : Nat × DWord) : wroteOut t s (s.spill t e).1 := by
  unfold State.spill
  dsimp only
  split
  · exact .storeFailed ..
  · exact .of_untouched fun _ => .notify ..
  · exact (of_untouched fun _ => .countAccess ..).trans (.storeAt ..)

end State.wroteOut

section
variable {s z : State} {t u n : Nat}

/-- The older addresses that leave a thread's cache: the thread as it was, but for its stores and its cache, which keeps an address not named. -/
structure State.spilled (t : Nat) (e : Nat × DWord) (s z : State) : Prop where
  thread : z.thread t = { s.thread t with acks := (z.thread t).acks, failed := (z.thread t).failed, rcache := (z.thread t).rcache }
  sstep : (z.warpOfThread t).sstep = (s.warpOfThread t).sstep
  newest : (z.thread t).rcache.head? = some e

/-- One address leaves the cache, or stays when its page is missing. -/
def State.spillOne (t : Nat) (s : State) (e : Nat × DWord) : State :=
  match s.spill t e with
  | (s1, true) => s1.updThread t (fun th => { th with rcache := th.rcache.filter (fun x => x != e) })
  | (s1, false) => s1

theorem State.spillTo_eq (s : State) (t keep : Nat) : s.spillTo t keep = (((s.thread t).rcache.drop keep).reverse).foldl (State.spillOne t) s := rfl

theorem State.spillOne_cases (t : Nat) (s : State) (e : Nat × DWord) : s.spillOne t e = (s.spill t e).1 ∨
    s.spillOne t e = (s.spill t e).1.updThread t (fun th => { th with rcache := th.rcache.filter (fun x => x != e) }) := by
  unfold State.spillOne
  split <;> rename_i heq <;> rw [heq]
  · exact .inr rfl
  · exact .inl rfl

theorem State.spillTo_others (s : State) (hu : t ≠ u) (keep : Nat) : untouched t s (s.spillTo u keep) := by
  rw [State.spillTo_eq]
  refine .foldl fun z e _ => ?_
  have hone := (State.wroteOut.spill (t := u) z e).others t hu
  rcases State.spillOne_cases u z e with h | h <;> rw [h]
  · exact hone
  · exact hone.trans (.updThread hu _ _)

theorem head?_filter_of_pos {A : Type} {l : List A} {a : A} {p : A → Bool} (h : l.head? = some a) (hp : p a = true) : (l.filter p).head? = some a := by
  obtain ⟨l, rfl⟩ := List.head?_eq_some_iff.1 h
  rw [List.filter_cons_of_pos hp, List.head?_cons]

/-- R99: of the addresses that leave the cache, none is the newest. -/
theorem State.spillTo_spilled {e : Nat × DWord} {c : List (Nat × DWord)} (hc : (s.thread t).rcache = e :: c) (hold : ∀ x ∈ c, x ≠ e) (keep : Nat) :
    s.spilled t e (s.spillTo t (keep + 1)) := by
  rw [State.spillTo_eq, hc, List.drop_succ_cons]
  refine List.foldlRecOn _ _ (motive := s.spilled t e) ⟨rfl, rfl, by rw [hc]; rfl⟩ fun z ⟨hthread, hsstep, hnewest⟩ x hx => ?_
  have hne : x ≠ e := hold x (List.mem_of_mem_drop (List.mem_reverse.1 hx))
  have hone := State.wroteOut.spill (t := t) z x
  have hcache : ((z.spill t x).1.thread t).rcache.head? = some e := by rw [hone.thread]; exact hnewest
  have hkept : ((z.spill t x).1.thread t) = { s.thread t with
      acks := ((z.spill t x).1.thread t).acks, failed := ((z.spill t x).1.thread t).failed, rcache := ((z.spill t x).1.thread t).rcache } := by
    rw [hone.thread, hthread]
  rcases State.spillOne_cases t z x with h | h <;> rw [h]
  · exact ⟨hkept, hone.sstep.trans hsstep, hcache⟩
  · refine ⟨?_, hone.sstep.trans hsstep, ?_⟩
    · rw [State.updThread_thread_same, hkept]
    · rw [State.updThread_thread_same]
      exact head?_filter_of_pos hcache (by simpa using hne.symm)

end

/-! ## Calls (R99, R100) -/

/-- A thread that has called the word at `v` from the one before `next`. -/
def Thread.calls (th : Thread) (v next : DWord) (n : Nat) : Thread :=
  { th with depth := th.depth + 1, pc := v, readyAt := n, rcache := (th.depth, next) :: th.rcache.filter (fun e => decide (e.1 < th.depth)) }

section
variable {s z : State} {t u n : Nat} {v : DWord} {c : Byte}

theorem State.takeCall_illegal (hv : targetCause v = some c) : z.takeCall t v n = (z, .trap c 0) := by
  unfold State.takeCall
  rw [hv]

theorem State.takeCall_deepest (hv : targetCause v = none) (hd : (z.thread t).depth = 255) : z.takeCall t v n = (z, .trap 0x0A 0) := by
  unfold State.takeCall
  rw [hv]
  exact if_pos hd

theorem State.takeCall_legal (hv : targetCause v = none) (hd : (z.thread t).depth ≠ 255) :
    z.takeCall t v n = ((z.updThread t (fun th => th.calls v (z.cur.pc + 4) (z.cycleOf z.cur.core + n))).spillTo t 4, .set) := by
  unfold State.takeCall
  rw [hv]
  exact if_neg hd

theorem State.takeCall_others (z : State) (hu : t ≠ u) (v : DWord) (n : Nat) : untouched t z (z.takeCall u v n).1 := by
  cases hv : targetCause v with
  | none =>
    by_cases hd : (z.thread u).depth = 255
    · rw [State.takeCall_deepest hv hd]; exact .refl t z
    · rw [State.takeCall_legal hv hd]; exact (State.untouched.updThread hu z _).trans (State.spillTo_others _ hu 4)
  | some c => rw [State.takeCall_illegal hv]; exact .refl t z

variable {i : Instr} {g : Guard} {f : State → Nat → State × Adv} (hg : i.guard? = some g) (h : Issues s i t)
  (hf : ∀ z u, t ≠ u → State.untouched t z (f z u).1) (hlane : ∀ z, State.untouched t s z → f z t = z.takeCall t v n)
include hg h hf hlane

/-- R99, R100: a call with a legal target and room for one more. -/
theorem State.laneWord_call (hv : targetCause v = none) (hd : (s.thread t).depth ≠ 255) :
    let th := s.thread t
    let th' := (s.laneWord i f).thread t
    th'.pc = v ∧ th'.depth = th.depth + 1 ∧ th'.lstk = th.lstk ∧ th'.rcache.head? = some (th.depth, s.cur.pc + 4) ∧ sameRegisters th th' ∧
      sameException th th' := by
  obtain ⟨hx, ht, hst⟩ := h
  obtain ⟨z, z', hz, hdone, he⟩ := State.laneWord_at hg hx ht hf
  rw [hlane z hz, State.takeCall_legal hv (by rwa [hz.thread])] at hdone
  have hcalls : (z.updThread t (fun th => th.calls v (z.cur.pc + 4) (z.cycleOf z.cur.core + n))).thread t =
      (s.thread t).calls v (s.cur.pc + 4) (z.cycleOf z.cur.core + n) := by rw [State.updThread_thread_same, hz.thread, hz.cur]
  obtain ⟨hthread, hsstep, hnewest⟩ := State.spillTo_spilled (e := ((s.thread t).depth, s.cur.pc + 4)) (by rw [hcalls]; rfl)
    (fun x hx hxe => by rw [hxe] at hx; simp at hx) 3
  rw [hcalls] at hthread
  generalize (z.updThread t (fun th => th.calls v (z.cur.pc + 4) (z.cycleOf z.cur.core + n))).spillTo t 4 = y at hdone hthread hsstep hnewest
  have hsteady : y.steady t := by
    rcases hz.steady hst with hw | hh
    · exact .inl (hsstep.trans hw)
    · exact .inr (by rw [hthread]; exact hz.thread ▸ hh)
  have hend : (s.laneWord i f).thread t = (y.thread t).afterWord (markOf i) := by
    rw [he, State.endWord_thread, hdone.thread]
    exact State.finish_thread y t _ hsteady
  rw [hend, Thread.afterWord_eq]
  refine ⟨by rw [hthread]; rfl, by rw [hthread]; rfl, by rw [hthread]; rfl, hnewest, by rw [hthread]; exact ⟨rfl, rfl, rfl, rfl, rfl⟩, ?_⟩
  rw [hthread]
  exact ⟨rfl, rfl, rfl, rfl, rfl, rfl, rfl, rfl⟩

/-- R100: a call at DEPTH 255 traps. -/
theorem State.laneWord_call_trapped (hv : targetCause v = none) (hd : (s.thread t).depth = 255) : trapped s (s.laneWord i f) t 0x0A 0 := by
  obtain ⟨hx, ht, _⟩ := h
  exact State.laneWord_lane_trapped hg hx ht hf rfl fun z hz => (hlane z hz).trans (State.takeCall_deepest hv (by rwa [hz.thread]))

end

/-- The lanes of CALL and CALLX. -/
def callLane (o : BitVec 19) (s : State) (t : Nat) : State × Adv := s.takeCall t (bTarget s.cur o) 2
def callxLane (a : BitVec 6) (s : State) (t : Nat) : State × Adv := s.takeCall t ((s.thread t).pair a.toNat) 4

theorem exec_call (g : Guard) (o : BitVec 19) (s : State) : exec (.call g o) s = .next (s.laneWord (.call g o) (callLane o)) := rfl
theorem exec_callx (g : Guard) (a : BitVec 6) (s : State) : exec (.callx g a) s = .next (s.laneWord (.callx g a) (callxLane a)) := rfl

/-! ## Returns (R101) -/

/-- A result of a thread is outstanding from here on. -/
theorem State.untouched.addOut {t u : Nat} (hu : t ≠ u) (s : State) (k : OutKind) (dst : List Nat) (r : Option Res) (x : DWord) (so : Bool) (acq lat : Nat) :
    untouched t s (s.addOut u k dst r x so acq lat) := (untouched.updThread hu s _).trans (.freshId _)

section
variable {s z : State} {t u : Nat} {mark : Bool}

/-- What a load does: its place is read, its result becomes outstanding, and a remote place is asked. -/
theorem State.loadInto_state (s : State) (t : Nat) (a : DWord) (p : Place) (n : Nat) (z : BitVec 3) (dst : List Nat) (l1 so : Bool) (acq : Nat) :
    ∃ (y : State) (r : Option Res) (lat : Nat) (l : Lodge), (∀ u, untouched u s y) ∧
      (s.loadInto t a p n z dst l1 so acq).1 = { y.addOut t .regs dst r (sectorOf a) so acq lat with lodge := l } := by
  have hread := fun u => State.untouched.readPlace (t := u) s (coreOfThread t) p n l1
  unfold State.loadInto
  dsimp only
  split
  · rename_i y bs e; rw [e] at hread; exact ⟨y, _, _, _, hread, rfl⟩
  · rename_i y c e; rw [e] at hread; exact ⟨y, _, _, _, hread, rfl⟩
  · rename_i y e
    rw [e] at hread
    split
    · split
      · obtain ⟨l, hl⟩ := State.request_shape (y.addOut t .regs dst none (sectorOf a) so acq (s.loadLat (coreOfThread t) p n l1)) _ 1 0 _ _ _
        exact ⟨y, _, _, l, hread, hl⟩
      · obtain ⟨l, hl⟩ := State.request_shape (y.addOut t .regs dst none (sectorOf a) so acq (s.loadLat (coreOfThread t) p n l1)) _ 1 0 _ _ _
        exact ⟨y, _, _, l, hread, hl⟩
    · exact ⟨y, _, _, _, hread, rfl⟩

theorem State.takeReturn_empty (hd : (z.thread t).depth = 0) : z.takeReturn t mark = (z, .trap 8 0) :=
  if_pos (by simp [hd])

/-- A thread that may return: its DEPTH is not 0, and in handler mode above the handler's. -/
def Thread.mayReturn (th : Thread) : Prop := th.depth ≠ 0 ∧ (th.h = true → th.edepth < th.depth - 1)

theorem Thread.mayReturn_iff (th : Thread) : th.mayReturn ↔ ¬ (decide (th.depth = 0) || (th.h && decide (th.depth - 1 ≤ th.edepth))) = true := by
  rw [Bool.or_eq_true, Bool.and_eq_true, decide_eq_true_iff, decide_eq_true_iff, not_or, not_and, Nat.not_le]
  exact Iff.rfl

theorem State.takeReturn_cached (hm : (z.thread t).mayReturn) {e : Nat × DWord}
    (he : (z.thread t).rcache.find? (fun e => e.1 == (z.thread t).depth - 1) = some e) :
    z.takeReturn t mark = (z.updThread t (fun th => { th.returnTo e.2 with readyAt := z.cycleOf z.cur.core + 2 }), .set) := by
  unfold State.takeReturn
  dsimp only
  rw [if_neg ((Thread.mayReturn_iff _).1 hm), he]
  rfl

/-- The load of a return address that is not cached, and the thread that waits for it. -/
def State.readReturn (s : State) (t : Nat) (mark : Bool) (p : Place) : State :=
  let va := (s.warpOfThread t).returnSlot (laneOf t) ((s.thread t).depth - 1)
  let r := (s.countAccess (dieOf (coreOfThread t)) p (s.warpOfThread t).part va.toNat).loadInto t va p 8 5 [] (s.l1Put (coreOfThread t) p) false 0
  (r.1.updThread t (fun th => { th with outs := th.outs.map (fun o => if o.id + 1 == r.1.ids then { o with kind := .ret } else o) })).parkWord t .ret mark

/-- The answers of a RET whose address is not cached: the return area's page traps, is missing, or is read. -/
theorem State.takeReturn_uncached (hm : (z.thread t).mayReturn) (he : (z.thread t).rcache.find? (fun e => e.1 == (z.thread t).depth - 1) = none) :
    z.takeReturn t mark =
      match z.checkPage (coreOfThread t) (z.warpOfThread t).part ((z.warpOfThread t).returnSlot (laneOf t) ((z.thread t).depth - 1)) true false true with
      | .trap c => (z, .trap c (sectorOf ((z.warpOfThread t).returnSlot (laneOf t) ((z.thread t).depth - 1))))
      | .page v => ((z.notify (z.warpOfThread t).part v).updThread t (fun th => { th with park := .page v }), .stay)
      | .place p => (z.readReturn t mark p, .stay) := by
  unfold State.takeReturn
  dsimp only
  rw [if_neg ((Thread.mayReturn_iff _).1 hm), he]
  rfl

/-- What reading a return address does: a result of kind RET becomes outstanding, and the thread parks. -/
theorem State.readReturn_state (s : State) (t : Nat) (mark : Bool) (p : Place) : ∃ (y : State) (r : Option Res) (lat : Nat) (l : Lodge),
    (∀ u, untouched u s y) ∧ s.readReturn t mark p =
      (({ y.addOut t .regs [] r (sectorOf ((s.warpOfThread t).returnSlot (laneOf t) ((s.thread t).depth - 1))) false 0 lat with lodge := l }.updThread t
        (fun th => { th with outs := th.outs.map (fun o : Outst => if o.id + 1 == y.ids + 1 then { o with kind := .ret } else o) })).parkWord t .ret mark) := by
  obtain ⟨y, r, lat, l, hy, e⟩ := State.loadInto_state (s.countAccess (dieOf (coreOfThread t)) p (s.warpOfThread t).part
    ((s.warpOfThread t).returnSlot (laneOf t) ((s.thread t).depth - 1)).toNat) t ((s.warpOfThread t).returnSlot (laneOf t) ((s.thread t).depth - 1)) p 8 5 []
    (s.l1Put (coreOfThread t) p) false 0
  refine ⟨y, r, lat, l, fun u => (State.untouched.countAccess ..).trans (hy u), ?_⟩
  unfold State.readReturn
  dsimp only
  rw [e]
  rfl

theorem State.readReturn_others (s : State) (hu : t ≠ u) (mark : Bool) (p : Place) : untouched t s (s.readReturn u mark p) := by
  obtain ⟨y, r, lat, l, hy, e⟩ := s.readReturn_state u mark p
  rw [e]
  exact ((((hy t).trans (.addOut hu y ..)).trans (.lodge _ l)).trans (.updThread hu _ _)).trans (.updThread hu _ _)

/-- R101: the thread that waits for its return address. -/
theorem State.readReturn_thread (s : State) (t : Nat) (mark : Bool) (p : Place) :
    (s.readReturn t mark p).thread t =
        { s.thread t with park := .word .ret (s.cur.pc + 4) s.cur.word mark s.cur.mask, outs := ((s.readReturn t mark p).thread t).outs } ∧
      ∃ o ∈ ((s.readReturn t mark p).thread t).outs, o.kind = .ret ∧ o.dst = [] := by
  obtain ⟨y, r, lat, l, hy, e⟩ := s.readReturn_state t mark p
  rw [e]
  unfold State.parkWord
  rw [State.updThread_thread_same, State.updThread_thread_same]
  generalize sectorOf ((s.warpOfThread t).returnSlot (laneOf t) ((s.thread t).depth - 1)) = x
  have hadd : ({ y.addOut t .regs [] r x false 0 lat with lodge := l } : State).thread t = { s.thread t with
      outs := (s.thread t).outs ++ [Outst.mk y.ids .regs [] r y.cur.word x false 0 (y.cycleOf (coreOfThread t) + lat + y.cur.late)] } := by
    rw [← (hy t).thread]
    exact y.updThread_thread_same t fun th => { th with
      outs := th.outs ++ [Outst.mk y.ids .regs [] r y.cur.word x false 0 (y.cycleOf (coreOfThread t) + lat + y.cur.late)] }
  rw [hadd]
  refine ⟨by rw [← (hy t).cur]; rfl, ?_⟩
  simp

theorem State.takeReturn_others (z : State) (hu : t ≠ u) (mark : Bool) : untouched t z (z.takeReturn u mark).1 := by
  by_cases hm : (z.thread u).mayReturn
  · cases he : (z.thread u).rcache.find? (fun e => e.1 == (z.thread u).depth - 1) with
    | some e => rw [State.takeReturn_cached hm he]; exact State.untouched.updThread hu z fun _ => _
    | none =>
      rw [State.takeReturn_uncached hm he]
      split
      · exact .refl t z
      · exact (State.untouched.notify ..).trans (State.untouched.updThread hu _ fun _ => _)
      · exact z.readReturn_others hu ..
  · unfold State.takeReturn
    dsimp only
    rw [if_pos (Classical.not_not.1 (mt (Thread.mayReturn_iff _).2 hm))]
    exact .refl t z

end

/-- The lane of RET. -/
def retLane (g : Guard) (s : State) (t : Nat) : State × Adv := s.takeReturn t g.s

theorem exec_ret (g : Guard) (s : State) : exec (.ret g) s = .next (s.laneWord (.ret g) (retLane g)) := rfl

theorem retLane_others (g : Guard) {t : Nat} (z : State) (u : Nat) (hu : t ≠ u) : State.untouched t z (retLane g z u).1 := z.takeReturn_others hu _

/-- R101: a RET with a cached address. -/
theorem retReturns {g : Guard} {s : State} {t : Nat} (h : Issues s (.ret g) t) (hm : (s.thread t).mayReturn) {e : Nat × DWord}
    (he : (s.thread t).rcache.find? (fun e => e.1 == (s.thread t).depth - 1) = some e) :
    let th := s.thread t
    let th' := (s.laneWord (.ret g) (retLane g)).thread t
    th'.depth = th.depth - 1 ∧ loopsBack (th.depth - 1) th.h th.lstk e.2 th'.lstk th'.pc ∧
      th'.idempc = (if th.depth - 1 < th.idemDepth then 0 else th.idempc) ∧ sameRegisters th th' := by
  obtain ⟨hx, ht, hst⟩ := h
  obtain ⟨z, z', hz, hdone, hend⟩ := State.laneWord_at (g := g) rfl hx ht (retLane_others g)
  rw [retLane, State.takeReturn_cached (by rwa [hz.thread]) (by rwa [hz.thread])] at hdone
  rw [hend, State.endWord_thread, hdone.thread]
  show ((State.finish _ t _).thread t).depth = _ ∧ loopsBack _ _ _ _ ((State.finish _ t _).thread t).lstk ((State.finish _ t _).thread t).pc ∧
    ((State.finish _ t _).thread t).idempc = _ ∧ sameRegisters _ ((State.finish _ t _).thread t)
  rw [State.finish_thread _ _ _ (State.steady_updThread (hz.steady hst) rfl), State.updThread_thread_same, Thread.afterWord_eq, hz.thread]
  exact ⟨rfl, loopsBack_loopBack .., rfl, rfl, rfl, rfl, rfl, rfl⟩

/-- R99 to R101. -/
theorem callsAndReturns : clausesCallsAndReturns := by
  intro g o a s t
  have hcall : ∀ z, State.untouched t s z → callLane o z t = z.takeCall t (s.cur.pc + 4 * o.signExtend 64) 2 := fun z hz => by
    rw [callLane, hz.cur, bTarget_eq]
  have hcallx : ∀ z, State.untouched t s z → callxLane a z t = z.takeCall t ((s.thread t).pair a.toNat) 4 := fun z hz => by
    rw [callxLane, hz.thread]
  have hcallOthers : ∀ z u, t ≠ u → State.untouched t z (callLane o z u).1 := fun z u hu => z.takeCall_others hu ..
  have hcallxOthers : ∀ z u, t ≠ u → State.untouched t z (callxLane a z u).1 := fun z u hu => z.takeCall_others hu ..
  exact ⟨fun h ⟨ha, hv⟩ hd => ⟨_, exec_call .., State.laneWord_call (g := g) rfl h hcallOthers hcall (targetCause_legal ha hv) hd⟩,
    fun h ⟨ha, hv⟩ hd => ⟨_, exec_callx .., State.laneWord_call (g := g) rfl h hcallxOthers hcallx (targetCause_legal ha hv) hd⟩,
    fun h ⟨ha, hv⟩ hd => ⟨_, exec_call .., State.laneWord_call_trapped (g := g) rfl h hcallOthers hcall (targetCause_legal ha hv) hd⟩,
    fun h ⟨ha, hv⟩ hd => ⟨_, exec_callx .., State.laneWord_call_trapped (g := g) rfl h hcallxOthers hcallx (targetCause_legal ha hv) hd⟩,
    fun ⟨hx, ht, _⟩ hd => ⟨_, exec_ret .., State.laneWord_lane_trapped (g := g) rfl hx ht (retLane_others g) rfl
      fun z hz => State.takeReturn_empty (by rwa [hz.thread])⟩,
    fun e h hd hh he => ⟨_, exec_ret .., retReturns h ⟨hd, hh⟩ he⟩⟩

/-- R101, R459: a RET whose address is not cached waits for what the return area holds. -/
theorem retWaits {g : Guard} {s : State} {t : Nat} {p : Place} (h : Issues s (.ret g) t) (hone : s.participants (.ret g) = [t])
    (hm : (s.thread t).mayReturn) (hno : ∀ e ∈ (s.thread t).rcache, e.1 ≠ (s.thread t).depth - 1)
    (hplace : s.checkPage (coreOfThread t) (s.warpOfThread t).part ((s.warpOfThread t).returnSlot (laneOf t) ((s.thread t).depth - 1)) true false true =
      .place p) :
    let th := s.thread t
    let th' := (s.laneWord (.ret g) (retLane g)).thread t
    th'.park = .word .ret (s.cur.pc + 4) s.cur.word g.s s.cur.mask ∧ th'.pc = th.pc ∧ th'.depth = th.depth ∧ th'.lstk = th.lstk ∧
      sameRegisters th th' ∧ ∃ o ∈ th'.outs, o.kind = .ret ∧ o.dst = [] := by
  obtain ⟨hx, ht, _⟩ := h
  have hnone : (s.thread t).rcache.find? (fun e => e.1 == (s.thread t).depth - 1) = none :=
    List.find?_eq_none.2 fun e he => by simpa using hno e he
  have hlane : retLane g s t = (s.readReturn t g.s p, .stay) := by
    rw [retLane, State.takeReturn_uncached hm hnone, hplace]
  obtain ⟨hthread, hout⟩ := s.readReturn_thread t g.s p
  have hend : (s.laneWord (.ret g) (retLane g)).thread t = (s.readReturn t g.s p).thread t := by
    rw [State.laneWord_executes (g := g) rfl hx, State.endWord_thread, State.skips_thread_ne (State.not_bystander ht), hone, State.eachLane_cons, hlane]
    rfl
  rw [← hend] at hthread hout
  refine ⟨?_, ?_, ?_, ?_, ?_, hout⟩
  · rw [hthread]
  · rw [hthread]
  · rw [hthread]
  · rw [hthread]
  · rw [hthread]; exact ⟨rfl, rfl, rfl, rfl, rfl⟩

/-- R101, R459. -/
theorem returnFromTheReturnArea : clausesReturnFromTheReturnArea :=
  fun g _ _ _ h hone hd hh hno hplace => ⟨_, exec_ret g _, retWaits h hone ⟨hd, hh⟩ hno hplace⟩

/-- Settles O29: branches by the target's check, calls by the return address that stays in the cache, and returns from the cache or the return area. -/
theorem branchesCallsAndReturns : Obligations.BranchesCallsAndReturns :=
  ⟨branchesUnwindLoopsOrTrap, callsAndReturns, returnFromTheReturnArea⟩

end Sys2Proof.Machine

/-! SUPPORT. Packed elements in blocks of registers (R174), and what loading a lane writes of a tile (R179). -/

namespace Sys2Proof.Machine
open Sys2Proof

/-! ## Folds that write one place once -/

section
variable {A B C : Type} {f : B → A → B} {Q : B → C} {I : B → Prop} {p : A → Prop} {v : C}

/-- What a fold leaves alone. -/
theorem foldl_misses : ∀ {l : List A} {b : B}, (∀ b, ∀ a ∈ l, I b → I (f b a)) → (∀ b, ∀ a ∈ l, I b → Q (f b a) = Q b) → I b →
    Q (l.foldl f b) = Q b
  | [], _, _, _, _ => rfl
  | a :: l, b, hI, hQ, hb => by
    rw [List.foldl_cons, foldl_misses (fun b a ha => hI b a (List.mem_cons_of_mem _ ha)) (fun b a ha => hQ b a (List.mem_cons_of_mem _ ha))
      (hI b a (List.mem_cons_self ..) hb)]
    exact hQ b a (List.mem_cons_self ..) hb

/-- What a fold writes: a value that every element which writes the place agrees on. -/
theorem foldl_hits [DecidablePred p] : ∀ {l : List A} {b : B}, (∀ b, ∀ a ∈ l, I b → I (f b a)) → (∀ b, ∀ a ∈ l, I b → p a → Q (f b a) = v) →
    (∀ b, ∀ a ∈ l, I b → ¬ p a → Q (f b a) = Q b) → I b → (∃ a ∈ l, p a) → Q (l.foldl f b) = v
  | [], _, _, _, _, _, h => absurd h (by simp)
  | a :: l, b, hI, hhit, hmiss, hb, h => by
    have hI' := fun b x (hx : x ∈ l) => hI b x (List.mem_cons_of_mem a hx)
    have hmiss' := fun b x (hx : x ∈ l) => hmiss b x (List.mem_cons_of_mem a hx)
    have hb' := hI b a (List.mem_cons_self ..) hb
    rw [List.foldl_cons]
    by_cases hl : ∃ x ∈ l, p x
    · exact foldl_hits hI' (fun b x hx => hhit b x (List.mem_cons_of_mem a hx)) hmiss' hb' hl
    · have ha : p a := by
        obtain ⟨x, hx, hp⟩ := h
        rcases List.mem_cons.1 hx with rfl | hx
        · exact hp
        · exact absurd ⟨x, hx, hp⟩ hl
      rw [foldl_misses hI' (fun b x hx hb => hmiss' b x hx hb fun hp => hl ⟨x, hx, hp⟩) hb']
      exact hhit b a (List.mem_cons_self ..) hb ha

end

section
variable {V A : Type} [DecidableEq V] {d : V} {l : List A} {idx : A → Nat} {val : A → V} {w : Tab V} {i : Nat} {v : V}

theorem Tab.get_foldl_put_of_mem (hv : ∀ a ∈ l, idx a = i → val a = v) (h : ∃ a ∈ l, idx a = i) :
    Tab.get d (l.foldl (fun w a => Tab.put d w (idx a) (val a)) w) i = v :=
  foldl_hits (I := fun _ => True) (p := fun a => idx a = i) (Q := fun w => Tab.get d w i) (fun _ _ _ _ => trivial)
    (fun w a ha _ he => by rw [he, Tab.get_put_same, hv a ha he]) (fun w a _ _ he => Tab.get_put_ne w (Ne.symm he) _) trivial h

theorem Tab.get_foldl_put_of_not_mem (h : ∀ a ∈ l, idx a ≠ i) :
    Tab.get d (l.foldl (fun w a => Tab.put d w (idx a) (val a)) w) i = Tab.get d w i :=
  foldl_misses (I := fun _ => True) (Q := fun w => Tab.get d w i) (fun _ _ _ _ => trivial) (fun w a ha _ => Tab.get_put_ne w (h a ha).symm _) trivial

end

/-! ## Packed bit strings -/

/-- The bits of an element that lies in one register. -/
theorem packedAt_eq (x : Nat) {w e : Nat} (h : w * e % 32 + w ≤ 32) :
    packedAt x w e = x / 2 ^ (32 * (w * e / 32)) % 2 ^ 32 / 2 ^ (w * e % 32) % 2 ^ w := by
  refine Nat.eq_of_testBit_eq fun i => ?_
  rw [packedAt, Nat.testBit_mod_two_pow, Nat.testBit_mod_two_pow, Nat.testBit_div_two_pow, Nat.testBit_div_two_pow, Nat.testBit_mod_two_pow,
    Nat.testBit_div_two_pow]
  by_cases hi : i < w
  · rw [decide_eq_true hi, decide_eq_true (show i + w * e % 32 < 32 by omega), Bool.true_and, Bool.true_and, Bool.true_and]
    congr 1
    have := Nat.div_add_mod (w * e) 32
    omega
  · rw [decide_eq_false hi, Bool.false_and, Bool.false_and]

section
variable {th : Thread} {d n w e j : Nat}

theorem Thread.block_succ (th : Thread) (d n : Nat) : th.block d (n + 1) = th.block d n + (th.reg (d + n)).toNat * 2 ^ (32 * n) := by
  unfold Thread.block
  rw [List.range_succ, List.foldl_append]
  rfl

theorem Thread.block_lt (th : Thread) (d : Nat) : ∀ n, th.block d n < 2 ^ (32 * n)
  | 0 => Nat.one_pos
  | n + 1 => by
    have hlow := th.block_lt d n
    have hreg : (th.reg (d + n)).toNat + 1 ≤ 2 ^ 32 := (th.reg (d + n)).isLt
    rw [Thread.block_succ, show 32 * (n + 1) = 32 + 32 * n by omega, Nat.pow_add 2 32]
    calc th.block d n + (th.reg (d + n)).toNat * 2 ^ (32 * n)
        < ((th.reg (d + n)).toNat + 1) * 2 ^ (32 * n) := by
          rw [Nat.add_mul (th.reg (d + n)).toNat 1, Nat.one_mul, Nat.add_comm]
          exact Nat.add_lt_add_left hlow _
      _ ≤ 2 ^ 32 * 2 ^ (32 * n) := Nat.mul_le_mul_right _ hreg

/-- R174: a register of a block. -/
theorem Thread.block_reg (th : Thread) (d : Nat) : ∀ {n j : Nat}, j < n → th.block d n / 2 ^ (32 * j) % 2 ^ 32 = (th.reg (d + j)).toNat
  | n + 1, j, h => by
    rw [Thread.block_succ]
    rcases Nat.lt_succ_iff_lt_or_eq.1 h with hj | rfl
    · have hsplit : (th.reg (d + n)).toNat * 2 ^ (32 * n) = 2 ^ (32 * j) * (2 ^ 32 * ((th.reg (d + n)).toNat * 2 ^ (32 * (n - j - 1)))) := by
        rw [show 32 * n = 32 * j + (32 + 32 * (n - j - 1)) by omega, Nat.pow_add, Nat.pow_add]
        ac_rfl
      rw [hsplit, Nat.add_mul_div_left _ _ (Nat.two_pow_pos _), Nat.add_mul_mod_self_left]
      exact th.block_reg d hj
    · rw [Nat.add_mul_div_right _ _ (Nat.two_pow_pos _), Nat.div_eq_of_lt (th.block_lt d j), Nat.zero_add]
      exact Nat.mod_eq_of_lt (th.reg (d + j)).isLt

/-- R174: an element of a block of registers. -/
theorem Thread.packedAt_block (th : Thread) (d : Nat) (h : w * e % 32 + w ≤ 32) (hn : w * e / 32 < n) :
    packedAt (th.block d n) w e = packedElement th d w e := by
  rw [packedAt_eq _ h, Thread.block_reg th d hn]
  rfl

/-- An element of packed elements. -/
theorem packedAt_packElems (w : Nat) : ∀ (l : List Nat) (e : Nat), packedAt (packElems w l) w e = l.getD e 0 % 2 ^ w
  | [], e => by simp [packedAt, packElems]
  | x :: xs, 0 => by simp [packedAt, packElems]
  | x :: xs, e + 1 => by
    have hnext : packElems w (x :: xs) / 2 ^ w = packElems w xs := by
      rw [packElems, Nat.add_mul_div_left _ _ (Nat.two_pow_pos w), Nat.div_eq_of_lt (Nat.mod_lt x (Nat.two_pow_pos w)), Nat.zero_add]
    rw [List.getD_cons_succ, ← packedAt_packElems w xs e, packedAt, packedAt, Nat.mul_succ, Nat.add_comm (w * e), Nat.pow_add, ← Nat.div_div_eq_div_mul,
      hnext]

theorem Thread.setRegs_append (th : Thread) : ∀ (l m : List (Nat × Word)), th.setRegs (l ++ m) = (th.setRegs l).setRegs m
  | [], _ => rfl
  | (n, v) :: l, m => Thread.setRegs_append (th.setReg n v) l m

/-- A register of a block that is written. -/
theorem Thread.setRegs_blockWrites (th : Thread) (d x : Nat) : ∀ {n j : Nat}, j < n →
    (th.setRegs (blockWrites d n x)).reg (d + j) = BitVec.ofNat 32 (x / 2 ^ (32 * j))
  | n + 1, j, h => by
    have hlast : blockWrites d (n + 1) x = blockWrites d n x ++ [(d + n, BitVec.ofNat 32 (x / 2 ^ (32 * n)))] := by
      simp [blockWrites, List.range_succ]
    rw [hlast, Thread.setRegs_append]
    show ((th.setRegs (blockWrites d n x)).setReg (d + n) _).reg (d + j) = _
    rcases Nat.lt_succ_iff_lt_or_eq.1 h with hj | rfl
    · rw [Thread.setReg_reg_ne _ (by omega)]
      exact th.setRegs_blockWrites d x hj
    · exact Thread.setReg_reg_same ..

/-- R174: an element of packed elements in a block of registers. -/
theorem packedElement_of_blockWrites {u : Thread} {l : List Nat} (hu : ∀ m, u.reg m = (th.setRegs (blockWrites d n (packElems w l))).reg m)
    (h : w * e % 32 + w ≤ 32) (hn : w * e / 32 < n) : packedElement u d w e = l.getD e 0 % 2 ^ w := by
  rw [packedElement, hu, Thread.setRegs_blockWrites th d _ hn, BitVec.toNat_ofNat, ← packedAt_eq _ h, packedAt_packElems]

end

/-! ## The widths of elements (R173) -/

theorem tileWidth_cases (ty : BitVec 3) : tileWidth ty = 4 ∨ tileWidth ty = 8 ∨ tileWidth ty = 16 := by
  unfold tileWidth
  split <;> simp

/-- An element lies in one register. -/
theorem tileWidth_fits (ty : BitVec 3) (e : Nat) : tileWidth ty * e % 32 + tileWidth ty ≤ 32 := by
  rcases tileWidth_cases ty with h | h | h <;> rw [h] <;> omega

/-- A tile has 32, 64 or 128 rows. -/
theorem tileRows_cases (ty : BitVec 3) : (tileWidth ty = 4 ∧ tileRows ty = 128) ∨ (tileWidth ty = 8 ∧ tileRows ty = 64) ∨
    (tileWidth ty = 16 ∧ tileRows ty = 32) := by
  unfold tileRows
  rcases tileWidth_cases ty with h | h | h <;> simp [h]

/-- A tile has at most four blocks of 32 rows. -/
theorem tileRows_div_le (ty : BitVec 3) : tileRows ty / 32 ≤ 4 := by
  rcases tileRows_cases ty with ⟨_, h⟩ | ⟨_, h⟩ | ⟨_, h⟩ <;> rw [h] <;> decide

/-- A row lies in a block of the tile. -/
theorem tileRows_div_lt {ty : BitVec 3} {k : Nat} (hk : k < tileRows ty) : k / 32 < tileRows ty / 32 :=
  Nat.div_lt_div_of_lt_of_dvd (by rcases tileRows_cases ty with ⟨_, h⟩ | ⟨_, h⟩ | ⟨_, h⟩ <;> rw [h] <;> decide) hk

/-- A column is held in 16 registers. -/
theorem tileWidth_column {ty : BitVec 3} {k : Nat} (hk : k < tileRows ty) : tileWidth ty * k / 32 < 16 := by
  rcases tileRows_cases ty with ⟨hw, hr⟩ | ⟨hw, hr⟩ | ⟨hw, hr⟩ <;> rw [hr] at hk <;> rw [hw] <;> omega

/-- A lane's rows are held in 8 registers. -/
theorem tileWidth_rows {ty : BitVec 3} {j n : Nat} (hj : j < tileRows ty / 32) (hn : n < 16) : tileWidth ty * (16 * j + n) / 32 < 8 := by
  rcases tileRows_cases ty with ⟨hw, hr⟩ | ⟨hw, hr⟩ | ⟨hw, hr⟩ <;> rw [hr] at hj <;> rw [hw] <;> omega

theorem packedAt_lt (x : Nat) (ty : BitVec 3) (e : Nat) : packedAt x (tileWidth ty) e < 2 ^ 16 := by
  refine Nat.lt_of_lt_of_le (Nat.mod_lt _ (Nat.two_pow_pos _)) (Nat.pow_le_pow_right Nat.two_pos ?_)
  rcases tileWidth_cases ty with h | h | h <;> omega

/-! ## What loading a lane writes (R169, R179) -/

section
variable {t : Tile} {es : List (Nat × Nat × Nat)} {k n v : Nat}

/-- An element that a list of writes names once, up to its value. -/
theorem Tile.setElems_elem_of_mem (hv : v < 2 ^ 16) (hn : n < 16) (hcols : ∀ e ∈ es, e.2.1 < 16) (hval : ∀ e ∈ es, e.1 = k → e.2.1 = n → e.2.2 = v)
    (h : ∃ e ∈ es, e.1 = k ∧ e.2.1 = n) : (t.setElems es).elem k n = v := by
  have hget : Tab.get 0 (t.setElems es).w (16 * k + n) = BitVec.ofNat 16 v := by
    refine Tab.get_foldl_put_of_mem (idx := fun e : Nat × Nat × Nat => 16 * e.1 + e.2.1) (val := fun e => BitVec.ofNat 16 e.2.2) (fun e he hi => ?_) ?_
    · have := hcols e he
      rw [hval e he (by omega) (by omega)]
    · obtain ⟨e, he, rfl, rfl⟩ := h
      exact ⟨e, he, rfl⟩
  rw [Tile.elem, hget, BitVec.toNat_ofNat, Nat.mod_eq_of_lt hv]

theorem Tile.setElems_elem_of_not_mem (hn : n < 16) (hcols : ∀ e ∈ es, e.2.1 < 16) (h : ∀ e ∈ es, ¬ (e.1 = k ∧ e.2.1 = n)) :
    (t.setElems es).elem k n = t.elem k n := by
  have hget : Tab.get 0 (t.setElems es).w (16 * k + n) = Tab.get 0 t.w (16 * k + n) := by
    refine Tab.get_foldl_put_of_not_mem (idx := fun e : Nat × Nat × Nat => 16 * e.1 + e.2.1) (val := fun e => BitVec.ofNat 16 e.2.2) fun e he hi => ?_
    have := hcols e he
    exact h e he ⟨by omega, by omega⟩
  rw [Tile.elem, hget]
  rfl

end

/-- Whose a slot is, and of what kind: all of it but its elements and scales. -/
def Tile.kind (t : Tile) : Bool × Nat × Nat × BitVec 3 × Bool := (t.owned, t.lid, t.g, t.type, t.mx)

/-- One lane's part of an MLD: its elements and, with scales, its column's scales. -/
def Tile.loadLane (t : Tile) (north : Bool) (ty : BitVec 3) (mx : Bool) (lane x : Nat) (v : Word) : Tile :=
  if mx && decide (lane < 16) then (t.setElems (mldElems north ty lane x)).setScales lane v else t.setElems (mldElems north ty lane x)

/-- The lane that supplies an element, and the element's index in what it supplies (R174). -/
def mldLane (north : Bool) (k n : Nat) : Nat := if north then n else k % 32
def mldIndex (north : Bool) (k n : Nat) : Nat := if north then k else 16 * (k / 32) + n

section
variable {t : Tile} {north mx : Bool} {ty : BitVec 3} {lane x k n c : Nat} {v : Word}

/-- R174: the elements that a lane supplies. -/
theorem mem_mldElems {e : Nat × Nat × Nat} (he : e ∈ mldElems north ty lane x) :
    e.2.1 < 16 ∧ (lane < 32 → lane = mldLane north e.1 e.2.1 ∧ e.2.2 = packedAt x (tileWidth ty) (mldIndex north e.1 e.2.1)) := by
  unfold mldElems at he
  dsimp only at he
  cases north with
  | true =>
    rw [if_pos rfl] at he
    split at he
    · obtain ⟨k, _, rfl⟩ := List.mem_map.1 he
      exact ⟨by assumption, fun _ => ⟨rfl, rfl⟩⟩
    · exact absurd he (by simp)
  | false =>
    rw [if_neg Bool.false_ne_true] at he
    obtain ⟨j, _, he⟩ := List.mem_flatMap.1 he
    obtain ⟨n, hn, rfl⟩ := List.mem_map.1 he
    refine ⟨List.mem_range.1 hn, fun hl => ?_⟩
    have hrow : (lane + 32 * j) % 32 = lane := by omega
    have hblock : (lane + 32 * j) / 32 = j := by omega
    simp only [mldLane, mldIndex, Bool.false_eq_true, if_false, hrow, hblock, and_self]

theorem exists_mldElems (hl : lane < 32) (hk : k < tileRows ty) (hn : n < 16) (hlane : lane = mldLane north k n) :
    ∃ e ∈ mldElems north ty lane x, e.1 = k ∧ e.2.1 = n := by
  unfold mldElems
  dsimp only
  cases north with
  | true =>
    obtain rfl : lane = n := hlane
    rw [if_pos rfl, if_pos hn]
    exact ⟨_, List.mem_map.2 ⟨k, List.mem_range.2 hk, rfl⟩, rfl, rfl⟩
  | false =>
    obtain rfl : lane = k % 32 := hlane
    rw [if_neg Bool.false_ne_true]
    exact ⟨(k % 32 + 32 * (k / 32), n, _),
      List.mem_flatMap.2 ⟨k / 32, List.mem_range.2 (tileRows_div_lt hk), List.mem_map.2 ⟨n, List.mem_range.2 hn, rfl⟩⟩, Nat.mod_add_div k 32, rfl⟩

theorem Tile.loadLane_elem (t : Tile) (k n : Nat) : (t.loadLane north ty mx lane x v).elem k n = (t.setElems (mldElems north ty lane x)).elem k n := by
  unfold Tile.loadLane
  split <;> rfl

/-- R179: an element that the lane supplies. -/
theorem Tile.loadLane_elem_same (hl : lane < 32) (hk : k < tileRows ty) (hn : n < 16) (hlane : lane = mldLane north k n) :
    (t.loadLane north ty mx lane x v).elem k n = packedAt x (tileWidth ty) (mldIndex north k n) := by
  rw [Tile.loadLane_elem]
  refine Tile.setElems_elem_of_mem (packedAt_lt ..) hn (fun e he => (mem_mldElems he).1) (fun e he h1 h2 => ?_) (exists_mldElems hl hk hn hlane)
  rw [((mem_mldElems he).2 hl).2, h1, h2]

/-- An element that another lane supplies. -/
theorem Tile.loadLane_elem_ne (hl : lane < 32) (hn : n < 16) (hlane : lane ≠ mldLane north k n) :
    (t.loadLane north ty mx lane x v).elem k n = t.elem k n := by
  rw [Tile.loadLane_elem]
  refine Tile.setElems_elem_of_not_mem hn (fun e he => (mem_mldElems he).1) fun e he ⟨h1, h2⟩ => hlane ?_
  rw [((mem_mldElems he).2 hl).1, h1, h2]

/-- A lane changes nothing of whose the slot is and of its kind. -/
theorem Tile.loadLane_kind (t : Tile) : (t.loadLane north ty mx lane x v).kind = t.kind := by
  unfold Tile.loadLane
  split <;> rfl

/-- R179: the scales that a lane supplies with a scaled tile. -/
theorem Tile.loadLane_scale_same (hmx : mx = true) (hl : lane < 16) (hc : c < tileRows t.type / 32) :
    (t.loadLane north ty mx lane x v).scale lane c = v.extractLsb' (8 * c) 8 := by
  unfold Tile.loadLane
  rw [if_pos (by simp [hmx, hl])]
  exact Tab.get_foldl_put_of_mem (idx := fun b => 4 * lane + b) (val := fun b => v.extractLsb' (8 * b) 8) (fun b _ hb => by rw [Nat.add_left_cancel hb])
    ⟨c, List.mem_range.2 hc, rfl⟩

/-- The scales of another column, and of any column without a scaled tile. -/
theorem Tile.loadLane_scale_ne (h : mx = false ∨ lane ≠ n) (hc : c < 4) : (t.loadLane north ty mx lane x v).scale n c = t.scale n c := by
  unfold Tile.loadLane
  split
  · rename_i hm
    obtain ⟨hmx, _⟩ := Bool.and_eq_true_iff.1 hm
    have hne : lane ≠ n := h.resolve_left (by simp [hmx])
    refine Tab.get_foldl_put_of_not_mem (idx := fun b => 4 * lane + b) (val := fun b => v.extractLsb' (8 * b) 8) fun b hb => ?_
    have hb := List.mem_range.1 hb
    have hfour := tileRows_div_le (t.setElems (mldElems north ty lane x)).type
    omega
  · rfl

end

end Sys2Proof.Machine

/-! SUPPORT. MLD, MCLR and MRD: the tile slot that each leaves, the threads that pass the word, and what MRD gives them. -/

namespace Sys2Proof.Machine
open Sys2Proof

/-! ## The threads of a matrix word -/

theorem State.ownerOf_eq (s : State) {t u : Nat} (h : warpOf u = warpOf t) : s.ownerOf u = s.ownerOf t := by
  unfold State.ownerOf State.warpOfThread
  rw [h]

theorem laneOf_lt (t : Nat) : laneOf t < 32 := Nat.mod_lt _ (by decide)

section
variable {s : State} {i : Instr} {t u : Nat}

theorem warpOf_of_oneWarp (h : OneWarp s) (ht : t ∈ s.participants i) (hu : u ∈ s.participants i) : warpOf u = warpOf t :=
  h u (State.mem_participants.1 hu).1 t (State.mem_participants.1 ht).1

/-- A lane of a bundle of one warp is one thread. -/
theorem eq_of_laneOf_eq (h : OneWarp s) (ht : t ∈ s.participants i) (hu : u ∈ s.participants i) (hl : laneOf u = laneOf t) : u = t := by
  have hw := warpOf_of_oneWarp h ht hu
  unfold warpOf at hw
  unfold laneOf at hl
  omega

end

/-! ## Participants that pass a word which changes no thread -/

theorem Thread.sameData.sameRegisters {a b : Thread} (h : a.sameData b) : sameRegisters a b := by
  obtain ⟨hregs, hpreds, hflags, hmode, hseed, _⟩ := h
  exact ⟨hregs, hpreds, hflags, hmode, hseed⟩

/-- What is left when the participants of a word pass it, in a state, and the others advance. -/
def State.passWord (s : State) (i : Instr) (z : State) : State :=
  ((s.bystanders i).foldl State.skip (z.eachLane (markOf i) (fun s _ => (s, .pass)) (s.participants i))).endWord

section
variable {s z : State} {i : Instr}

theorem State.passWord_onlyThreads (s z : State) (i : Instr) :
    z.onlyThreads ((s.bystanders i).foldl State.skip (z.eachLane (markOf i) (fun s _ => (s, .pass)) (s.participants i))) := by
  rw [State.eachLane_eq_foldl]
  exact .foldl (fun _ _ u h => h.skip u) _ (.foldl (fun _ _ u h => h.pass u _) _ (.refl z))

theorem State.passWord_coreAt (s z : State) (i : Instr) (c : Nat) : (s.passWord i z).coreAt c = z.coreAt c :=
  (State.passWord_onlyThreads s z i).coreAt c

theorem State.passWord_registersAndMemoryKept (hz : ∀ u, State.untouched u s z) (hb : ∀ k, z.byte k = s.byte k) :
    registersAndMemoryKept s (s.passWord i z) := by
  refine ⟨fun u => ?_, fun k => ((State.passWord_onlyThreads s z i).byte k).trans (hb k)⟩
  have hpass : (z.thread u).sameData ((z.eachLane (markOf i) (fun s _ => (s, .pass)) (s.participants i)).thread u) := by
    rw [State.eachLane_eq_foldl]
    exact State.foldl_sameData (fun y v => y.pass_sameData v u _) _ _
  rw [← (hz u).thread]
  exact (hpass.trans (State.foldl_sameData (f := State.skip) (fun y v => y.pass_sameData v u _) (s.bystanders i) _)).sameRegisters

theorem State.passWord_movesPast (hx : s.executes i) (hz : ∀ u, State.untouched u s z) : movesPast s (s.passWord i z) i :=
  State.movesPast_of_lanes lanePasses_pass hx hz fun u => .refl u _

end

/-! ## Tile slots -/

section
variable (s : State) (c k n m : Nat) (tile : Tile)

theorem State.setTile_tile : ((s.setTile c n tile).coreAt k).tile m = if k = c ∧ m = n then tile else (s.coreAt k).tile m := by
  unfold State.setTile
  rw [State.updCore_coreAt]
  by_cases hk : k = c
  · rw [if_pos hk, hk]
    show Tab.get Tile.init (Tab.put Tile.init (s.coreAt c).tiles n tile) m = _
    rw [Tab.get_put]
    simp [Core.tile]
  · rw [if_neg hk, if_neg (fun h => hk h.1)]

theorem State.occupy_tile : ((s.occupy n m).coreAt k).tile c = (s.coreAt k).tile c := by
  unfold State.occupy
  rw [State.updCore_coreAt]
  split
  · rename_i e; rw [e]; rfl
  · rfl

end

theorem State.untouched.setTile (t : Nat) (s : State) (c n : Nat) (tile : Tile) : untouched t s (s.setTile c n tile) := .updCore t s c fun _ => rfl

theorem State.untouched.occupy (t : Nat) (s : State) (n m : Nat) : untouched t s (s.occupy n m) := .updCore t s _ fun _ => rfl

/-! ## MLD (R169, R179) -/

/-- The slot before the lanes of an MLD write it: kept, or taken anew. -/
def mldBase (old : Tile) (o : Nat × Nat) (ty : BitVec 3) (mx : Bool) : Tile :=
  if old.owned && old.type == ty && old.mx == mx then old else { owned := true, lid := o.1, g := o.2, type := ty, mx := mx }

/-- What an MLD's lane supplies. -/
def State.mldLoad (s : State) (l : BitVec 1) (ty : BitVec 3) (mx : Bool) (a b : BitVec 6) (tl : Tile) (u : Nat) : Tile :=
  tl.loadLane (l == 1) ty mx (laneOf u) ((s.thread u).block a.toNat (if l == 1 then 16 else 8)) ((s.thread u).reg b.toNat)

/-- The slot after an MLD. -/
def State.mldTile (s : State) (l : BitVec 1) (ty : BitVec 3) (mx : Bool) (a b : BitVec 6) (ps : List Nat) (base : Tile) : Tile :=
  ps.foldl (s.mldLoad l ty mx a b) base

/-- The machine after an MLD has written its slot. -/
def State.loaded (s : State) (l q : BitVec 1) (tile : Tile) : State :=
  ((s.setTile s.cur.core q.toNat tile).occupy 3 (if l == 1 then 4 else 2)).occupy (8 + q.toNat) (if l == 1 then 4 else 2)

section
variable {g : Guard} {l q x : BitVec 1} {ty : BitVec 3} {a b : BitVec 6} {s : State} {t : Nat}

/-- R169: an MLD whose slot another workgroup owns does nothing. -/
theorem exec_mld_waits (h1 : OneWarp s) (hx : s.executes (.mld g l q ty x a b)) (ht : t ∈ s.participants (.mld g l q ty x a b))
    (hown : ((s.coreAt s.cur.core).tile q.toNat).owned = true) (hmine : ((s.coreAt s.cur.core).tile q.toNat).ownedBy (s.ownerOf t) = false) :
    exec (.mld g l q ty x a b) s = .next ((s.bystanders (.mld g l q ty x a b)).foldl State.skip s).endWord := by
  show Host.Outcome.next (s.simt (.mld g l q ty x a b) _) = _
  rw [State.simt_executes (g := g) rfl hx]
  obtain ⟨p, ps, hps⟩ := List.exists_cons_of_ne_nil (List.ne_nil_of_mem ht)
  have hp := s.ownerOf_eq (warpOf_of_oneWarp h1 ht (hps ▸ List.mem_cons_self ..))
  rw [hps]
  dsimp only
  rw [hp, if_pos (by simp [hown, hmine])]

/-- R169, R179: an MLD whose slot is EMPTY or the workgroup's own loads it. -/
theorem exec_mld_loads (h1 : OneWarp s) (hx : s.executes (.mld g l q ty x a b)) (ht : t ∈ s.participants (.mld g l q ty x a b))
    (hmine : ((s.coreAt s.cur.core).tile q.toNat).owned = true → ((s.coreAt s.cur.core).tile q.toNat).ownedBy (s.ownerOf t) = true) :
    exec (.mld g l q ty x a b) s = .next (s.passWord (.mld g l q ty x a b) (s.loaded l q (s.mldTile l ty (x == 1) a b (s.participants (.mld g l q ty x a b))
      (mldBase ((s.coreAt s.cur.core).tile q.toNat) (s.ownerOf t) ty (x == 1))))) := by
  show Host.Outcome.next (s.simt (.mld g l q ty x a b) _) = _
  rw [State.simt_executes (g := g) rfl hx, State.passWord, State.eachLane_eq_foldl]
  obtain ⟨p, ps, hps⟩ := List.exists_cons_of_ne_nil (List.ne_nil_of_mem ht)
  have hp := s.ownerOf_eq (warpOf_of_oneWarp h1 ht (hps ▸ List.mem_cons_self ..))
  rw [hps]
  dsimp only
  rw [hp, if_neg (by simpa using hmine)]
  rfl

theorem State.loaded_tile (s : State) (l q : BitVec 1) (tile : Tile) (c n : Nat) :
    ((s.loaded l q tile).coreAt c).tile n = if c = s.cur.core ∧ n = q.toNat then tile else (s.coreAt c).tile n := by
  unfold State.loaded
  rw [State.occupy_tile, State.occupy_tile, State.setTile_tile]

theorem State.loaded_untouched (s : State) (l q : BitVec 1) (tile : Tile) (u : Nat) : State.untouched u s (s.loaded l q tile) :=
  ((State.untouched.setTile u s _ _ tile).trans (.occupy ..)).trans (.occupy ..)

theorem State.loaded_byte (s : State) (l q : BitVec 1) (tile : Tile) (k : Nat) : (s.loaded l q tile).byte k = s.byte k := by
  unfold State.loaded
  rw [State.occupy_byte, State.occupy_byte]
  exact s.updCore_byte ..

section
variable {old : Tile} {o : Nat × Nat} {mx : Bool}

theorem mldBase_kept (ho : old.owned = true) (ht : old.type = ty) (hm : old.mx = mx) : mldBase old o ty mx = old := by
  unfold mldBase
  rw [if_pos (by simp [ho, ht, hm])]

theorem mldBase_taken (h : ¬ (old.owned = true ∧ old.type = ty ∧ old.mx = mx)) :
    mldBase old o ty mx = { owned := true, lid := o.1, g := o.2, type := ty, mx := mx } := by
  unfold mldBase
  rw [if_neg (by simpa [and_assoc] using h)]

/-- R169: the workgroup owns the slot that it loads, of the word's type. -/
theorem mldBase_kind (h : old.owned = true → old.ownedBy o = true) : (mldBase old o ty mx).kind = (true, o.1, o.2, ty, mx) := by
  by_cases hk : old.owned = true ∧ old.type = ty ∧ old.mx = mx
  · obtain ⟨ho, ht, hm⟩ := hk
    have hmine := h ho
    simp only [Tile.ownedBy, Bool.and_eq_true, beq_iff_eq] at hmine
    obtain ⟨⟨_, hlid⟩, hgroup⟩ := hmine
    rw [mldBase_kept ho ht hm, Tile.kind, ho, hlid, hgroup, ht, hm]
  · rw [mldBase_taken hk]
    rfl

end

section
variable {i : Instr} {u : Nat} {mx : Bool} {k n c : Nat} {base : Tile}

theorem State.mldTile_kind (s : State) (ps : List Nat) : (s.mldTile l ty mx a b ps base).kind = base.kind :=
  foldl_misses (I := fun _ => True) (Q := Tile.kind) (fun _ _ _ _ => trivial) (fun tl _ _ _ => tl.loadLane_kind) trivial

/-- R174: the element that a lane of an MLD supplies. -/
theorem packedAt_mldBlock (th : Thread) (hk : k < tileRows ty) (hn : n < 16) :
    packedAt (th.block a.toNat (if l == 1 then 16 else 8)) (tileWidth ty) (mldIndex (l == 1) k n) =
      packedElement th a.toNat (tileWidth ty) (mldIndex (l == 1) k n) := by
  refine Thread.packedAt_block th _ (tileWidth_fits ..) ?_
  cases l == 1 with
  | true => exact tileWidth_column hk
  | false => exact tileWidth_rows (tileRows_div_lt hk) hn

/-- R179: an element that a participant supplies. -/
theorem State.mldTile_elem (h1 : OneWarp s) (hu : u ∈ s.participants i) (hk : k < tileRows ty) (hn : n < 16) (hl : laneOf u = mldLane (l == 1) k n) :
    (s.mldTile l ty mx a b (s.participants i) base).elem k n = packedElement (s.thread u) a.toNat (tileWidth ty) (mldIndex (l == 1) k n) :=
  foldl_hits (I := fun _ => True) (Q := fun tl => Tile.elem tl k n) (p := fun v => laneOf v = mldLane (l == 1) k n) (fun _ _ _ _ => trivial)
    (fun tl v hv _ he => by
      rw [State.mldLoad, Tile.loadLane_elem_same (laneOf_lt v) hk hn he, eq_of_laneOf_eq h1 hu hv (he.trans hl.symm)]
      exact packedAt_mldBlock _ hk hn)
    (fun tl v _ _ he => Tile.loadLane_elem_ne (laneOf_lt v) hn he) trivial ⟨u, hu, hl⟩

/-- An element that no participant supplies. -/
theorem State.mldTile_elem_rest {ps : List Nat} (hn : n < 16) (hl : ∀ v ∈ ps, laneOf v ≠ mldLane (l == 1) k n) :
    (s.mldTile l ty mx a b ps base).elem k n = base.elem k n :=
  foldl_misses (I := fun _ => True) (Q := fun tl => Tile.elem tl k n) (fun _ _ _ _ => trivial)
    (fun _ v hv _ => Tile.loadLane_elem_ne (laneOf_lt v) hn (hl v hv)) trivial

/-- R179: the scales of a column that a participant supplies. -/
theorem State.mldTile_scale (h1 : OneWarp s) (hu : u ∈ s.participants i) (hmx : mx = true) (hn : laneOf u < 16) (hty : base.type = ty)
    (hc : c < tileRows ty / 32) :
    (s.mldTile l ty mx a b (s.participants i) base).scale (laneOf u) c = ((s.thread u).reg b.toNat).extractLsb' (8 * c) 8 := by
  have hfour : c < 4 := Nat.lt_of_lt_of_le hc (tileRows_div_le ty)
  refine foldl_hits (I := fun tl : Tile => tl.type = ty) (Q := fun tl => Tile.scale tl (laneOf u) c) (p := fun v => laneOf v = laneOf u)
    (fun tl v _ htl => ?_) (fun tl v hv htl he => ?_) (fun tl v _ _ he => Tile.loadLane_scale_ne (.inr he) hfour) hty ⟨u, hu, rfl⟩
  · have hkind := tl.loadLane_kind (north := l == 1) (ty := ty) (mx := mx) (lane := laneOf v)
      (x := (s.thread v).block a.toNat (if l == 1 then 16 else 8)) (v := (s.thread v).reg b.toNat)
    exact (congrArg (fun e => e.2.2.2.1) hkind).trans htl
  · rw [eq_of_laneOf_eq h1 hu hv he]
    exact Tile.loadLane_scale_same hmx hn (by rwa [htl])

theorem State.mldTile_scale_rest {ps : List Nat} (hl : mx = false ∨ ∀ v ∈ ps, laneOf v ≠ n) (hc : c < 4) :
    (s.mldTile l ty mx a b ps base).scale n c = base.scale n c :=
  foldl_misses (I := fun _ => True) (Q := fun tl => Tile.scale tl n c) (fun _ _ _ _ => trivial)
    (fun _ v hv _ => Tile.loadLane_scale_ne (hl.imp_right fun h => h v hv) hc) trivial

end

/-- R168, R169, R173, R174, R179: what an MLD leaves in its slot. -/
theorem mldLoads (h1 : OneWarp s) (hx : s.executes (.mld g l q ty x a b)) (ht : t ∈ s.participants (.mld g l q ty x a b))
    (hmine : ((s.coreAt s.cur.core).tile q.toNat).owned = true → ((s.coreAt s.cur.core).tile q.toNat).ownedBy (s.ownerOf t) = true) :
    Answers (.mld g l q ty x a b) s fun s' =>
      let i := Instr.mld g l q ty x a b
      let tile := (s.coreAt s.cur.core).tile q.toNat
      let kept := tile.owned = true ∧ tile.type = ty ∧ tile.mx = (x == 1)
      let new := (s'.coreAt s.cur.core).tile q.toNat
      movesPast s s' i ∧ registersAndMemoryKept s s' ∧ (∀ c n, (c ≠ s.cur.core ∨ n ≠ q.toNat) → (s'.coreAt c).tile n = (s.coreAt c).tile n) ∧
      new.ownedBy (s.ownerOf t) = true ∧ new.type = ty ∧ new.mx = (x == 1) ∧
      (∀ k n, k < tileRows ty → n < 16 →
        (∀ u ∈ s.participants i, laneOf u = mldLane (l == 1) k n →
          new.elem k n = packedElement (s.thread u) a.toNat (tileWidth ty) (mldIndex (l == 1) k n)) ∧
        ((∀ u ∈ s.participants i, laneOf u ≠ mldLane (l == 1) k n) → (kept → new.elem k n = tile.elem k n) ∧ (¬ kept → new.elem k n = 0))) ∧
      (∀ n c, n < 16 → c < tileRows ty / 32 →
        (x = 1 → ∀ u ∈ s.participants i, laneOf u = n → new.scale n c = ((s.thread u).reg b.toNat).extractLsb' (8 * c) 8) ∧
        ((x = 0 ∨ ∀ u ∈ s.participants i, laneOf u ≠ n) → (kept → new.scale n c = tile.scale n c) ∧ (¬ kept → new.scale n c = 0x7F))) := by
  refine ⟨_, exec_mld_loads h1 hx ht hmine, ?_⟩
  have hbase := mldBase_kind (ty := ty) (mx := x == 1) hmine
  have hkind := (s.mldTile_kind (l := l) (ty := ty) (a := a) (b := b) (mx := x == 1) (s.participants (.mld g l q ty x a b))).trans hbase
  simp only [Tile.kind, Prod.mk.injEq] at hkind hbase
  obtain ⟨howned, hlid, hgrp, htype, hmx⟩ := hkind
  obtain ⟨_, _, _, hbtype, _⟩ := hbase
  dsimp only
  simp only [State.passWord_coreAt, State.loaded_tile, and_self, if_true]
  refine ⟨State.passWord_movesPast hx (s.loaded_untouched l q _), State.passWord_registersAndMemoryKept (s.loaded_untouched l q _) (s.loaded_byte l q _),
    fun c n hcn => if_neg (by tauto), by rw [Tile.ownedBy, howned, hlid, hgrp]; simp, htype, hmx, fun k n hk hn => ⟨fun u hu hl => ?_, fun hl => ?_⟩,
    fun n c hn hc => ⟨fun hx1 u hu hl => ?_, fun hl => ?_⟩⟩
  · exact State.mldTile_elem h1 hu hk hn hl
  · rw [State.mldTile_elem_rest hn hl]
    exact ⟨fun ⟨ho, hty, hm⟩ => by rw [mldBase_kept ho hty hm], fun hk => by rw [mldBase_taken hk]; rfl⟩
  · subst hl
    exact State.mldTile_scale h1 hu (by simp [hx1]) hn hbtype hc
  · have hfour : c < 4 := Nat.lt_of_lt_of_le hc (tileRows_div_le ty)
    rw [State.mldTile_scale_rest (hl.imp_left fun h => by simp [h]) hfour]
    exact ⟨fun ⟨ho, hty, hm⟩ => by rw [mldBase_kept ho hty hm], fun hk => by rw [mldBase_taken hk]; rfl⟩

/-- R169: an MLD waits while another workgroup owns its slot. -/
theorem mldWaits (h1 : OneWarp s) (hx : s.executes (.mld g l q ty x a b)) (ht : t ∈ s.participants (.mld g l q ty x a b))
    (hown : ((s.coreAt s.cur.core).tile q.toNat).owned = true) (hmine : ((s.coreAt s.cur.core).tile q.toNat).ownedBy (s.ownerOf t) = false) :
    Answers (.mld g l q ty x a b) s fun s' =>
      (∀ c n, (s'.coreAt c).tile n = (s.coreAt c).tile n) ∧ registersAndMemoryKept s s' ∧ (s'.thread t).pc = (s.thread t).pc := by
  have honly : s.onlyThreads ((s.bystanders (.mld g l q ty x a b)).foldl State.skip s) := .foldl (fun _ _ u h => h.skip u) _ (.refl s)
  refine ⟨_, exec_mld_waits h1 hx ht hown hmine, fun c n => ?_, ⟨fun u => ?_, honly.byte⟩, ?_⟩
  · rw [State.endWord_coreAt, honly.coreAt]
  · exact (State.foldl_sameData (f := State.skip) (fun y v => y.pass_sameData v u _) (s.bystanders (.mld g l q ty x a b)) s).sameRegisters
  · rw [State.endWord_thread, State.skips_thread_ne (State.not_bystander ht)]

end

/-! ## MCLR (R170, R181) -/

section
variable {g : Guard} {q : BitVec 1} {s : State} {t : Nat}

/-- R170, R181: an MCLR of the owning workgroup empties the slot, and its participants pass. -/
theorem exec_mclr (h1 : OneWarp s) (hx : s.executes (.mclr g q)) (ht : t ∈ s.participants (.mclr g q)) :
    exec (.mclr g q) s = .next (s.passWord (.mclr g q)
      ((if ((s.coreAt s.cur.core).tile q.toNat).ownedBy (s.ownerOf t) then s.setTile s.cur.core q.toNat Tile.init else s).occupy 3 1)) := by
  have hany : (s.participants (.mclr g q)).any (fun u => ((s.coreAt s.cur.core).tile q.toNat).ownedBy (s.ownerOf u)) =
      ((s.coreAt s.cur.core).tile q.toNat).ownedBy (s.ownerOf t) := by
    rw [Bool.eq_iff_iff, List.any_eq_true]
    refine ⟨fun ⟨u, hu, h⟩ => ?_, fun h => ⟨t, ht, h⟩⟩
    rwa [s.ownerOf_eq (warpOf_of_oneWarp h1 ht hu)] at h
  show Host.Outcome.next (s.simt (.mclr g q) _) = _
  rw [State.simt_executes (g := g) rfl hx, State.passWord, State.eachLane_eq_foldl]
  dsimp only
  rw [if_neg (by simpa using List.ne_nil_of_mem ht), hany]
  rfl

/-- R170, R181. -/
theorem mclrEmpties (h1 : OneWarp s) (hx : s.executes (.mclr g q)) (ht : t ∈ s.participants (.mclr g q)) :
    Answers (.mclr g q) s fun s' =>
      let tile := (s.coreAt s.cur.core).tile q.toNat
      movesPast s s' (.mclr g q) ∧ registersAndMemoryKept s s' ∧
      (∀ c n, (c ≠ s.cur.core ∨ n ≠ q.toNat) → (s'.coreAt c).tile n = (s.coreAt c).tile n) ∧
      (tile.ownedBy (s.ownerOf t) = true → ((s'.coreAt s.cur.core).tile q.toNat).owned = false) ∧
      (tile.ownedBy (s.ownerOf t) = false → (s'.coreAt s.cur.core).tile q.toNat = tile) := by
  have hz : ∀ u, State.untouched u s
      ((if ((s.coreAt s.cur.core).tile q.toNat).ownedBy (s.ownerOf t) then s.setTile s.cur.core q.toNat Tile.init else s).occupy 3 1) := fun u => by
    refine State.untouched.trans ?_ (.occupy ..)
    split
    · exact .setTile ..
    · exact .refl u s
  refine ⟨_, exec_mclr h1 hx ht, State.passWord_movesPast hx hz, State.passWord_registersAndMemoryKept hz fun k => ?_, fun c n hcn => ?_, fun hm => ?_,
    fun hm => ?_⟩
  · split <;> rfl
  · rw [State.passWord_coreAt, State.occupy_tile]
    split
    · rw [State.setTile_tile, if_neg (by tauto)]
    · rfl
  · rw [State.passWord_coreAt, State.occupy_tile, if_pos hm, State.setTile_tile, if_pos ⟨rfl, rfl⟩]
    rfl
  · rw [State.passWord_coreAt, State.occupy_tile, if_neg (by simp [hm])]

end

end Sys2Proof.Machine

/-! SUPPORT. MRD: the lanes that write back, the registers that each kind gives, and the obligation about tile words. -/

namespace Sys2Proof.Machine
open Sys2Proof

/-! ## Lanes that write their results back -/

/-- A lane that writes its results back and passes. -/
def writeLane (i : Instr) (lat : Nat) (out : Nat → LaneOut) (s : State) (t : Nat) : State × Adv :=
  (s.updThread t (fun th => (th.write (out t)).readyFrom (s.cycleOf s.cur.core + lat) ((out t).marks i)), .pass)

section
variable {i : Instr} {lat : Nat} {out : Nat → LaneOut} {s z : State} {t u : Nat}

theorem writeLane_passes : LanePasses (writeLane i lat out) :=
  lanePasses_updThread (F := fun z u th => (th.write (out u)).readyFrom (z.cycleOf z.cur.core + lat) ((out u).marks i)) fun z u th => by
    rw [Thread.write_eq]
    exact ⟨rfl, rfl, rfl, rfl, rfl⟩

theorem State.writeBacks_eq (z : State) (ps : List Nat) :
    (ps.map (fun u => (u, out u))).foldl (fun y o => y.writeBack i lat o) z = z.eachLane (markOf i) (writeLane i lat out) ps := by
  rw [State.eachLane_eq_foldl, List.foldl_map]
  rfl

/-- What is left when the participants of a word write their results back, in a state, and the others advance. -/
def State.writeWord (s : State) (i : Instr) (lat : Nat) (out : Nat → LaneOut) (z : State) : State :=
  ((s.bystanders i).foldl State.skip (((s.participants i).map (fun u => (u, out u))).foldl (fun y o => y.writeBack i lat o) z)).endWord

theorem State.writeWord_movesPast (hx : s.executes i) (hz : ∀ u, State.untouched u s z) : movesPast s (s.writeWord i lat out z) i := by
  unfold State.writeWord
  rw [State.writeBacks_eq]
  exact State.movesPast_of_lanes writeLane_passes hx hz fun u => .refl u _

theorem State.writeWord_onlyThreads (s z : State) (i : Instr) (lat : Nat) (out : Nat → LaneOut) : z.onlyThreads
    ((s.bystanders i).foldl State.skip (((s.participants i).map (fun u => (u, out u))).foldl (fun y o => y.writeBack i lat o) z)) :=
  .foldl (fun _ _ u h => h.skip u) _ (z.writeBacks_frame i lat _).1

/-- A thread that is no participant keeps its registers. -/
theorem State.writeWord_others (hz : ∀ u, State.untouched u s z) (hu : u ∉ s.participants i) :
    sameRegisters (s.thread u) ((s.writeWord i lat out z).thread u) := by
  obtain ⟨_, _, hother⟩ := z.writeBacks_frame i lat ((s.participants i).map (fun u => (u, out u)))
  have hsame := hother u fun o ho => by
    obtain ⟨v, hv, rfl⟩ := List.mem_map.1 ho
    exact ne_of_mem_of_not_mem hv hu
  rw [← (hz u).thread, ← hsame]
  exact (State.foldl_sameData (f := State.skip) (fun y v => y.pass_sameData v u _) (s.bystanders i) _).sameRegisters

/-- A participant holds its results. -/
theorem State.writeWord_thread (hx : s.executes i) (hz : ∀ u, State.untouched u s z) (ht : t ∈ s.participants i) :
    ((s.thread t).write (out t)).sameData ((s.writeWord i lat out z).thread t) := by
  obtain ⟨y, _, hy, _, hthread⟩ := State.writeBacks_thread i lat out t (s.participants i) z (State.participants_nodup hx) ht
  unfold State.writeWord
  rw [State.endWord_thread, State.skips_thread_ne (State.not_bystander ht), hthread, ← (hz t).thread, ← hy]
  exact y.writeBack_data ..

end

/-! ## What MRD writes (R180) -/

theorem mem_blockWrites {d n x : Nat} {e : Nat × Word} (h : e ∈ blockWrites d n x) : d ≤ e.1 ∧ e.1 < d + n := by
  obtain ⟨j, hj, rfl⟩ := List.mem_map.1 h
  have := List.mem_range.1 hj
  exact ⟨Nat.le_add_right .., Nat.add_lt_add_left this d⟩

/-- The registers that an MRD of a kind writes. -/
def mrdSize (m : Nat) : Nat := match m with | 0 => 8 | 1 => 16 | _ => 1

section
variable {d lane : Nat} {tile : Tile} {own : Bool} {th u : Thread} {j k n c : Nat}

/-- R180: the registers that an MRD may write. -/
theorem mem_mrdWrites {e : Nat × Word} : ∀ m, e ∈ mrdWrites m d lane tile own → d ≤ e.1 ∧ e.1 < d + mrdSize m
  | 0 => fun h => mem_blockWrites h
  | 1 => fun h => by
    have h : e ∈ if lane < 16 then blockWrites d 16 _ else [] := h
    split at h
    · exact mem_blockWrites h
    · exact absurd h List.not_mem_nil
  | 2 => fun h => by
    have h : e ∈ if lane < 16 then [(d, _)] else [] := h
    split at h
    · rw [List.mem_singleton.1 h]; exact ⟨Nat.le_refl _, Nat.lt_succ_self _⟩
    · exact absurd h List.not_mem_nil
  | _ + 3 => fun h => by
    rw [List.mem_singleton.1 h]
    exact ⟨Nat.le_refl _, Nat.lt_succ_self _⟩

/-- A list of rows of 16, read at row j and place n. -/
theorem getD_flatMap_rows (f : Nat → Nat → Nat) (hn : n < 16) : ∀ {r j : Nat}, j < r →
    ((List.range r).flatMap (fun j => (List.range 16).map (f j))).getD (16 * j + n) 0 = f j n
  | r + 1, j, h => by
    have hlen : ((List.range r).flatMap (fun j => (List.range 16).map (f j))).length = 16 * r := by
      simp [List.length_flatMap, Nat.mul_comm]
    rw [List.range_succ (n := r), List.flatMap_append, List.flatMap_singleton]
    rcases Nat.lt_succ_iff_lt_or_eq.1 h with hj | rfl
    · rw [List.getD_append _ _ _ _ (by omega)]
      exact getD_flatMap_rows f hn hj
    · rw [List.getD_append_right _ _ _ _ (by omega), hlen, Nat.add_sub_cancel_left]
      simp [List.getD, hn]

/-- R180: MRD of a lane's rows. -/
theorem mrdWrites_rows (hu : ∀ m, u.reg m = (th.setRegs (mrdWrites 0 d lane tile own)).reg m) (hj : j < tileRows tile.type / 32) (hn : n < 16) :
    packedElement u d (tileWidth tile.type) (16 * j + n) = tile.elem (lane + 32 * j) n % 2 ^ tileWidth tile.type := by
  rw [packedElement_of_blockWrites hu (tileWidth_fits ..) (tileWidth_rows hj hn), getD_flatMap_rows (fun j n => tile.elem (lane + 32 * j) n) hn hj]

/-- R180: MRD of a lane's column. -/
theorem mrdWrites_column (hu : ∀ m, u.reg m = (th.setRegs (mrdWrites 1 d lane tile own)).reg m) (hl : lane < 16) (hk : k < tileRows tile.type) :
    packedElement u d (tileWidth tile.type) k = tile.elem k lane % 2 ^ tileWidth tile.type := by
  have hwrites : mrdWrites 1 d lane tile own =
      blockWrites d 16 (packElems (tileWidth tile.type) ((List.range (tileRows tile.type)).map (fun k => tile.elem k lane))) := if_pos hl
  rw [hwrites] at hu
  rw [packedElement_of_blockWrites hu (tileWidth_fits ..) (tileWidth_column hk)]
  simp [List.getD, hk]

theorem mrdWrites_scales (hl : lane < 16) : mrdWrites 2 d lane tile own =
    [(d, if tile.mx then BitVec.ofNat 32 (packElems 8 ((List.range (tileRows tile.type / 32)).map (fun b => (tile.scale lane b).toNat))) else 0x7F7F7F7F)] :=
  if_pos hl

/-- R180: a byte of a column's scales. -/
theorem extractLsb'_packScales (lane : Nat) (hc : c < 4) :
    (BitVec.ofNat 32 (packElems 8 ((List.range (tileRows tile.type / 32)).map (fun b => (tile.scale lane b).toNat)))).extractLsb' (8 * c) 8 =
      if c < tileRows tile.type / 32 then tile.scale lane c else 0 := by
  refine BitVec.eq_of_toNat_eq ?_
  rw [BitVec.extractLsb'_toNat, BitVec.toNat_ofNat, Nat.shiftRight_eq_div_pow]
  have hbyte := packedAt_eq (packElems 8 ((List.range (tileRows tile.type / 32)).map (fun b => (tile.scale lane b).toNat))) (w := 8) (e := c) (by omega)
  rw [packedAt_packElems, Nat.div_eq_of_lt (show 8 * c < 32 by omega), Nat.mod_eq_of_lt (show 8 * c < 32 by omega), Nat.mul_zero, Nat.pow_zero, Nat.div_one]
    at hbyte
  rw [← hbyte]
  by_cases h : c < tileRows tile.type / 32
  · have hlt := (tile.scale lane c).isLt
    simp [List.getD, h, Nat.mod_eq_of_lt hlt]
  · simp [List.getD, h]

/-- R180: the status of a slot. -/
theorem mrdStatus (ty : BitVec 3) (owned own mx : Bool) :
    BitVec.ofNat 32 ((if owned then 1 else 0) + (if own then 2 + 4 * ty.toNat + (if mx then 32 else 0) else 0)) =
      (if own = true then (if mx = true then 0x20#32 else 0) ||| ty.zeroExtend 32 <<< 2 ||| 2 else 0) ||| (if owned = true then 1 else 0) := by
  revert ty owned own mx
  decide

end

/-! ## MRD (R171, R180) -/

/-- What an MRD gives a lane. -/
def State.mrdOut (s : State) (m : BitVec 2) (d : BitVec 6) (q : BitVec 1) (t : Nat) : LaneOut :=
  { regs := mrdWrites m.toNat d.toNat (laneOf t) ((s.coreAt s.cur.core).tile q.toNat) (((s.coreAt s.cur.core).tile q.toNat).ownedBy (s.ownerOf t)) }

/-- The cycles for which an MRD of a kind occupies the array's port. -/
def mrdCycles (m : Nat) : Nat := match m with | 0 => 2 | 1 => 4 | _ => 1

section
variable {g : Guard} {m : BitVec 2} {d : BitVec 6} {q : BitVec 1} {s : State} {t : Nat}

/-- R171: an MRD of another workgroup's slot traps the bundle. -/
theorem exec_mrd_traps (h1 : OneWarp s) (hx : s.executes (.mrd g m d q)) (ht : t ∈ s.participants (.mrd g m d q)) (hm : m ≠ 3)
    (hmine : ((s.coreAt s.cur.core).tile q.toNat).ownedBy (s.ownerOf t) = false) :
    exec (.mrd g m d q) s = .next (s.trapThreads 1 s.cur.threads).endWord := by
  show Host.Outcome.next (s.simt (.mrd g m d q) _) = _
  rw [State.simt_executes (g := g) rfl hx]
  obtain ⟨p, ps, hps⟩ := List.exists_cons_of_ne_nil (List.ne_nil_of_mem ht)
  have hp := s.ownerOf_eq (warpOf_of_oneWarp h1 ht (hps ▸ List.mem_cons_self ..))
  rw [hps]
  dsimp only
  rw [hp, if_pos (by simpa [hmine] using hm)]

/-- R180: an MRD of the workgroup's own slot, or of a status, writes its participants' registers. -/
theorem exec_mrd_reads (h1 : OneWarp s) (hx : s.executes (.mrd g m d q)) (ht : t ∈ s.participants (.mrd g m d q))
    (h : m = 3 ∨ ((s.coreAt s.cur.core).tile q.toNat).ownedBy (s.ownerOf t) = true) :
    exec (.mrd g m d q) s =
      .next (s.writeWord (.mrd g m d q) 12 (s.mrdOut m d q) (s.occupy 3 (mrdCycles m.toNat))) := by
  show Host.Outcome.next (s.simt (.mrd g m d q) _) = _
  rw [State.simt_executes (g := g) rfl hx, State.writeWord]
  obtain ⟨p, ps, hps⟩ := List.exists_cons_of_ne_nil (List.ne_nil_of_mem ht)
  have hp := s.ownerOf_eq (warpOf_of_oneWarp h1 ht (hps ▸ List.mem_cons_self ..))
  rw [hps]
  dsimp only
  rw [hp, if_neg (by rcases h with h | h <;> simp [h])]
  rfl

/-- R171: each thread of the bundle takes the trap. -/
theorem mrdTraps (h1 : OneWarp s) (hx : s.executes (.mrd g m d q)) (ht : t ∈ s.participants (.mrd g m d q)) (hm : m ≠ 3)
    (hmine : ((s.coreAt s.cur.core).tile q.toNat).ownedBy (s.ownerOf t) = false) {u : Nat} (hu : u ∈ s.cur.threads) :
    Answers (.mrd g m d q) s fun s' => trapped s s' u 1 0 := by
  have htook := State.trapThreads_tookTrap (t := u) (c := 1) rfl s.cur.threads (.refl s) (fun _ => .refl _) rfl hx.2.1 hu
  exact ⟨_, exec_mrd_traps h1 hx ht hm hmine,
    State.trapped_of_tookTrap rfl ((State.Stable.tookTrap s (ts := []) (List.not_mem_nil) 1 0).endWord htook)⟩

/-- What an MRD leaves of its participant: its registers but those it writes, and all its other data. -/
theorem mrdOut_thread {th : Thread} (hsame : ((s.thread t).write (s.mrdOut m d q t)).sameData th) :
    (∀ n, th.reg n = ((s.thread t).setRegs (s.mrdOut m d q t).regs).reg n) ∧ th.preds = (s.thread t).preds ∧ th.fpflags = (s.thread t).fpflags ∧
      th.fpmode = (s.thread t).fpmode ∧ th.srseed = (s.thread t).srseed := by
  obtain ⟨wregs, wpreds, wflags, wmode, wseed⟩ := (s.thread t).write_data (s.mrdOut m d q t)
  obtain ⟨hregs, hpreds, hflags, hmode, hseed, _⟩ := hsame
  refine ⟨fun n => ?_, hpreds.trans wpreds, hflags.trans (wflags.trans BitVec.or_zero), hmode.trans wmode, hseed.trans wseed⟩
  unfold Thread.reg
  rw [hregs, wregs]

end

/-- R174, R180: what an MRD gives its participant of a slot. -/
theorem mrdOut_values {m : BitVec 2} {d : BitVec 6} {q : BitVec 1} {s : State} {t : Nat} {th : Thread}
    (hsame : ((s.thread t).write (s.mrdOut m d q t)).sameData th) :
    let tile := (s.coreAt s.cur.core).tile q.toNat
    let mine := tile.ownedBy (s.ownerOf t)
    let w := tileWidth tile.type
    (∀ n, (n < d.toNat ∨ d.toNat + mrdSize m.toNat ≤ n) → th.reg n = (s.thread t).reg n) ∧
    (m = 0 → ∀ j n, j < tileRows tile.type / 32 → n < 16 → packedElement th d.toNat w (16 * j + n) = tile.elem (laneOf t + 32 * j) n % 2 ^ w) ∧
    (m = 1 → laneOf t < 16 → ∀ k, k < tileRows tile.type → packedElement th d.toNat w k = tile.elem k (laneOf t) % 2 ^ w) ∧
    (m = 2 → laneOf t < 16 → tile.mx = true → ∀ c, c < 4 →
      (th.reg d.toNat).extractLsb' (8 * c) 8 = if c < tileRows tile.type / 32 then tile.scale (laneOf t) c else 0) ∧
    (m = 2 → laneOf t < 16 → tile.mx = false → th.reg d.toNat = 0x7F7F7F7F) ∧
    (m = 1 ∨ m = 2 → 16 ≤ laneOf t → sameRegisters (s.thread t) th) ∧
    (m = 3 → th.reg d.toNat =
      (if mine = true then (if tile.mx = true then 0x20#32 else 0) ||| tile.type.zeroExtend 32 <<< 2 ||| 2 else 0) |||
        (if tile.owned = true then 1 else 0)) := by
  obtain ⟨hreg, hpreds, hflags, hmode, hseed⟩ := mrdOut_thread hsame
  refine ⟨fun n hn => ?_, ?_, ?_, ?_, ?_, fun hm hl => ?_, ?_⟩
  · refine (hreg n).trans (Thread.setRegs_reg_ne _ _ fun e he hen => ?_)
    obtain ⟨hlo, hhi⟩ := mem_mrdWrites _ he
    omega
  · rintro rfl j n hj hn
    exact mrdWrites_rows (own := ((s.coreAt s.cur.core).tile q.toNat).ownedBy (s.ownerOf t)) hreg hj hn
  · rintro rfl hl k hk
    exact mrdWrites_column (own := ((s.coreAt s.cur.core).tile q.toNat).ownedBy (s.ownerOf t)) hreg hl hk
  · rintro rfl hl hmx c hc
    rw [hreg, State.mrdOut, show (2 : BitVec 2).toNat = 2 from rfl, mrdWrites_scales hl, if_pos hmx]
    exact (congrArg (BitVec.extractLsb' (8 * c) 8) (Thread.setReg_reg_same ..)).trans (extractLsb'_packScales _ hc)
  · rintro rfl hl hmx
    rw [hreg, State.mrdOut, show (2 : BitVec 2).toNat = 2 from rfl, mrdWrites_scales hl, if_neg (by simp [hmx])]
    exact Thread.setReg_reg_same ..
  · have hnone : (s.mrdOut m d q t).regs = [] := by
      rcases hm with rfl | rfl
      · exact if_neg (by omega)
      · exact if_neg (by omega)
    obtain ⟨wregs, _⟩ := (s.thread t).write_data (s.mrdOut m d q t)
    obtain ⟨hregs, _⟩ := hsame
    rw [hnone] at wregs
    exact ⟨hregs.trans wregs, hpreds, hflags, hmode, hseed⟩
  · rintro rfl
    rw [hreg, ← mrdStatus]
    exact Thread.setReg_reg_same ..

/-- Settles O38: MLD by its lanes, each of which supplies its own elements and scales; MCLR; and MRD by the packed strings that it writes back. -/
theorem tileWordsLoadClearAndRead : Obligations.TileWordsLoadClearAndRead := by
  intro g l q x ty m d a b s t h1
  refine ⟨fun hx ht hmine => ?_, mldWaits h1, mclrEmpties h1, fun hx ht => ⟨fun hm hmine u hu => mrdTraps h1 hx ht hm hmine hu, fun h => ?_⟩⟩
  · have hlane : ∀ k n, mldLane (l == 1) k n = if l = 1 then n else k % 32 := fun k n => by simp [mldLane]
    have hindex : ∀ k n, mldIndex (l == 1) k n = if l = 1 then k else 16 * (k / 32) + n := fun k n => by simp [mldIndex]
    have hloads := mldLoads h1 hx ht hmine
    simp only [hlane, hindex] at hloads
    exact hloads
  · have hz : ∀ u, State.untouched u s (s.occupy 3 (mrdCycles m.toNat)) := fun u => .occupy ..
    have honly := s.writeWord_onlyThreads (s.occupy 3 (mrdCycles m.toNat)) (.mrd g m d q) 12 (s.mrdOut m d q)
    have hsame := State.writeWord_thread (lat := 12) (out := s.mrdOut m d q) hx hz ht
    obtain ⟨_, hpreds, hflags, _⟩ := mrdOut_thread hsame
    obtain ⟨hrest, hrows, hcolumn, hscales, hunscaled, hnone, hstatus⟩ := mrdOut_values hsame
    refine ⟨_, exec_mrd_reads h1 hx ht h, State.writeWord_movesPast hx hz, fun k => (honly.byte k).trans (State.occupy_byte ..), fun c n => ?_,
      fun u hu => State.writeWord_others hz hu, hrest, hpreds, hflags, hrows, hcolumn, hscales, hunscaled, hnone, hstatus⟩
    exact (congrArg (fun x : Core => x.tile n) (honly.coreAt c)).trans (State.occupy_tile ..)

end Sys2Proof.Machine

/-! SUPPORT. What the integer words compute of a thread's own registers, as chapter 4 gives it: sums, shifts, immediates, products and pairs. -/

namespace Sys2Proof.Machine
open Sys2Proof

/-! ## A word of the integer pipe answers its result -/

theorem Answers.imp {i : Instr} {s : State} {P Q : State → Prop} (h : Answers i s P) (hPQ : ∀ s', P s' → Q s') : Answers i s Q := by
  obtain ⟨s', he, hP⟩ := h
  exact ⟨s', he, hPQ s' hP⟩

section
variable {s : State} {i : Instr} {g : Guard} {t : Nat} {p : Pipe} {unit lat occ : Nat} {f : State → List Nat → Nat → LaneOut} {d : BitVec 6}

/-- A computing word with one register result. -/
theorem Runs.answers_one (h : Runs s i t) (hg : i.guard? = some g) (he : exec i s = .next (s.compute i p unit lat occ f)) {v : Word}
    (hf : f s (s.participants i) t = .one d v) : Answers i s fun s' => (s'.thread t).reg d.toNat = v := by
  refine ⟨_, he, (State.compute_reg h hg ..).trans ?_⟩
  rw [hf]
  exact Thread.setReg_reg_same ..

/-- A computing word with a pair result. -/
theorem Runs.answers_pair (h : Runs s i t) (hg : i.guard? = some g) (he : exec i s = .next (s.compute i p unit lat occ f)) {v : DWord}
    (hf : (f s (s.participants i) t).regs = pairWrites d.toNat v) : Answers i s fun s' => (s'.thread t).pair d.toNat = v := by
  refine ⟨_, he, Eq.trans ?_ ((s.thread t).setRegs_pair d.toNat v)⟩
  unfold Thread.pair
  rw [← hf, State.compute_reg h hg, State.compute_reg h hg]

/-- R121: a computing word with a register result and, in some modes, a carry. -/
theorem Runs.answers_carry (h : Runs s i t) (hg : i.guard? = some g) (he : exec i s = .next (s.compute i p unit lat occ f)) {r : Word × Option Bool}
    (hf : f s (s.participants i) t = carryOut d r) :
    Answers i s fun s' => (s'.thread t).reg d.toNat = r.1 ∧ (s'.thread t).pred 6 = r.2.getD ((s.thread t).pred 6) := by
  refine ⟨_, he, ?_, ?_⟩
  · rw [State.compute_reg h hg, hf]
    exact Thread.setReg_reg_same ..
  · rw [State.compute_pred h hg, hf]
    obtain ⟨v, _ | c⟩ := r
    · rfl
    · exact Thread.setPred_pred_same _ (by decide) c

end

/-! ## Sums and differences (R121) -/

theorem natCast_toNat_ofInt (v : Int) : ((BitVec.ofInt 32 v).toNat : Int) = v % 2 ^ 32 := by
  rw [BitVec.toNat_ofInt]
  exact Int.toNat_of_nonneg (Int.emod_nonneg v (by decide))

theorem clamp32_eq (x : Int) : clamp32 x = max (-2147483648) (min 2147483647 x) := by
  unfold clamp32
  split_ifs <;> omega

theorem toInt_ofInt_clamp32 (x : Int) : (BitVec.ofInt 32 (clamp32 x)).toInt = max (-2147483648) (min 2147483647 x) := by
  rw [clamp32_eq]
  exact BitVec.toInt_ofInt_eq_self (by decide) (by omega) (by omega)

section
variable (a b : Word) (c : Bool)

theorem addWord_wraps : (addWord 0 a b c).1.toNat = (a.toNat + b.toNat) % 2 ^ 32 := BitVec.toNat_add a b

theorem addWord_saturates_signed : (addWord 1 a b c).1.toInt = max (-2147483648) (min 2147483647 (a.toInt + b.toInt)) := toInt_ofInt_clamp32 _

theorem addWord_saturates : (addWord 2 a b c).1.toNat = min (a.toNat + b.toNat) (2 ^ 32 - 1) := by
  show (if 2 ^ 32 ≤ a.toNat + b.toNat then 0xFFFFFFFF#32 else a + b).toNat = _
  split
  · show 2 ^ 32 - 1 = _
    omega
  · rw [BitVec.toNat_add]
    omega

theorem addWord_sum_with_carry : (addWord 3 a b c).1.toNat = (a.toNat + b.toNat + c.toNat) % 2 ^ 32 := BitVec.toNat_ofNat ..

theorem subWord_wraps : ((subWord 0 a b c).1.toNat : Int) = ((a.toNat : Int) - b.toNat) % 2 ^ 32 := by
  show ((a - b).toNat : Int) = _
  rw [BitVec.toNat_sub]
  omega

theorem subWord_saturates_signed : (subWord 1 a b c).1.toInt = max (-2147483648) (min 2147483647 (a.toInt - b.toInt)) := toInt_ofInt_clamp32 _

theorem subWord_saturates : (subWord 2 a b c).1.toNat = a.toNat - b.toNat := by
  show (if a.toNat < b.toNat then 0#32 else a - b).toNat = _
  split
  · show 0 = _
    omega
  · rw [BitVec.toNat_sub]
    omega

theorem subWord_difference_with_borrow : ((subWord 3 a b c).1.toNat : Int) = ((a.toNat : Int) - b.toNat - c.toNat) % 2 ^ 32 := by
  show ((a - b - BitVec.ofNat 32 c.toNat).toNat : Int) = _
  rw [BitVec.toNat_sub, BitVec.toNat_sub, BitVec.toNat_ofNat]
  omega

end

/-- Settles O9, by what each mode of ADD and SUB gives and by the carry, which mode 11 alone writes. -/
theorem addAndSubtractInEachMode : Obligations.AddAndSubtractInEachMode := by
  intro g m d a b s t
  refine ⟨fun h => (h.answers_carry rfl rfl rfl).imp fun s' ⟨hr, hc⟩ => ?_, fun h => (h.answers_carry rfl rfl rfl).imp fun s' ⟨hr, hc⟩ => ?_⟩
  · dsimp only
    rw [hr, hc]
    refine ⟨?_, ?_, ?_, ?_, fun hm => by rw [addWord_carry hm]; rfl⟩
    · rintro rfl; exact addWord_wraps ..
    · rintro rfl; exact addWord_saturates_signed ..
    · rintro rfl; exact addWord_saturates ..
    · rintro rfl; exact ⟨addWord_sum_with_carry .., rfl⟩
  · dsimp only
    rw [hr, hc]
    refine ⟨?_, ?_, ?_, ?_, fun hm => by rw [subWord_carry hm]; rfl⟩
    · rintro rfl; exact subWord_wraps ..
    · rintro rfl; exact subWord_saturates_signed ..
    · rintro rfl; exact subWord_saturates ..
    · rintro rfl; exact ⟨subWord_difference_with_borrow .., rfl⟩

/-! ## Shifts and rotations (R127) -/

/-- A count of 32 or more leaves copies of the sign, as an arithmetic shift of any length does. -/
theorem shiftWord_sar (a : Word) (n : Nat) : shiftWord .sar a n = a.sshiftRight n := by
  show (if n < 32 then a.sshiftRight n else if a.msb then 0xFFFFFFFF#32 else 0#32) = _
  split
  · rfl
  · refine BitVec.eq_of_getLsbD_eq fun k hk => ?_
    rw [BitVec.getLsbD_sshiftRight, if_neg (show ¬ n + k < 32 by omega)]
    cases hm : a.msb with
    | false => simp
    | true => exact (BitVec.getLsbD_allOnes (v := 32) (i := k)).trans (by simp [hk])

/-- R127: each operation gives what its row of the table says, for every count. -/
theorem shiftTable_shiftWord (a : Word) (n : Nat) : ∀ op : ShiftOp, shiftTable op a n (shiftWord op a n)
  | .shl => by
    show (if n < 32 then a <<< n else 0#32).toNat = if n < 32 then _ else 0
    split
    · rw [BitVec.toNat_shiftLeft, Nat.shiftLeft_eq]
    · rfl
  | .shr => by
    show (if n < 32 then a >>> n else 0#32).toNat = _
    split
    · rw [BitVec.toNat_ushiftRight, Nat.shiftRight_eq_div_pow]
    · exact (Nat.div_eq_of_lt (a.isLt.trans_le (Nat.pow_le_pow_right Nat.two_pos (by omega)))).symm
  | .sar => by
    show (shiftWord .sar a n).toInt = _
    rw [shiftWord_sar, BitVec.toInt_sshiftRight, Int.shiftRight_eq_div_pow]
    norm_cast
  | .rot => by
    intro k hk
    show (a.rotateLeft (n % 32)).getLsbD _ = _
    rw [BitVec.getLsbD_rotateLeft]
    by_cases hwrap : (k + n) % 32 < n % 32 % 32
    · rw [decide_eq_true hwrap, cond_true]
      congr 1
      omega
    · rw [decide_eq_false hwrap, cond_false, decide_eq_true (Nat.mod_lt _ (by decide)), Bool.true_and]
      congr 1
      omega

/-- A word of the integer pipe that shifts or rotates gives its operation's result. -/
theorem Runs.answers_shift {s : State} {i : Instr} {g : Guard} {t lat occ n : Nat} {d : BitVec 6} {a : Word} {f : Thread → Word} (op : ShiftOp)
    (h : Runs s i t) (hg : i.guard? = some g) (he : exec i s = .next (s.intWord i lat occ d f)) (hf : f (s.thread t) = shiftWord op a n) :
    Answers i s fun s' => shiftTable op a n ((s'.thread t).reg d.toNat) :=
  (h.answers_one hg he (congrArg (LaneOut.one d) hf)).imp fun s' hr => by
    rw [hr]
    exact shiftTable_shiftWord a n op

/-- Settles O10: the words by register and by immediate share the table's operations. -/
theorem shiftsAndRotations : Obligations.ShiftsAndRotations := by
  intro g d a b c s t
  exact ⟨fun h => h.answers_shift .shl rfl rfl rfl, fun h => h.answers_shift .shr rfl rfl rfl, fun h => h.answers_shift .sar rfl rfl rfl,
    fun h => h.answers_shift .rot rfl rfl rfl, fun h => h.answers_shift .shl rfl rfl rfl, fun h => h.answers_shift .shr rfl rfl rfl,
    fun h => h.answers_shift .sar rfl rfl rfl, fun h => h.answers_shift .rot rfl rfl rfl⟩

/-! ## Immediates and products (R40, R122, R123) -/

/-- The two cases of a number of w bits that is read as signed. -/
theorem ite_eq_toInt {w : Nat} (x : BitVec w) :
    (if x.toNat < 2 ^ (w - 1) then (x.toNat : Int) else (x.toNat : Int) - 2 ^ w) = x.toInt := by
  rw [BitVec.toInt_eq_toNat_cond]
  cases w with
  | zero => simp [BitVec.of_length_zero]
  | succ w =>
    have hpow : 2 ^ (w + 1) = 2 * 2 ^ w := by ring
    have hiff : x.toNat < 2 ^ (w + 1 - 1) ↔ 2 * x.toNat < 2 ^ (w + 1) := by
      rw [Nat.add_sub_cancel, hpow]
      omega
    simp only [hiff]
    push_cast
    rfl

/-- R40: an immediate of any width without an extension is its field, read as signed. -/
theorem extInt_of_none {p : Prefixes} (hp : p.ext = none) {w : Nat} (f : BitVec w) : extInt p w f.toNat = f.toInt := by
  rw [← ite_eq_toInt]
  simp only [extInt, extWidth, extNat, hp]
  rfl

/-- R40: an extension stands above the immediate's field. -/
theorem extInt_of_some {p : Prefixes} {e : BitVec 18} (hp : p.ext = some e) {w : Nat} (f : BitVec w) : extInt p w f.toNat = (e ++ f).toInt := by
  have hvalue : e.toNat * 2 ^ w + f.toNat = (e ++ f).toNat := by
    rw [BitVec.toNat_append, ← Nat.shiftLeft_add_eq_or_of_lt f.isLt, Nat.shiftLeft_eq]
  rw [← ite_eq_toInt, ← hvalue, Nat.add_comm 18 w]
  simp only [extInt, extWidth, extNat, hp]
  rfl

theorem extInt_immediate8 (p : Prefixes) (i : BitVec 8) : extInt p 8 i.toNat = immediate8 p i := by
  unfold immediate8
  cases hp : p.ext with
  | none => exact extInt_of_none hp i
  | some e => exact extInt_of_some hp i

/-- R122: the sum of ADDI. -/
theorem toNat_add_immWord (x : Word) (p : Prefixes) (i : BitVec 8) :
    ((x + immWord p 8 i.toNat).toNat : Int) = (x.toNat + immediate8 p i) % 2 ^ 32 := by
  rw [BitVec.toNat_add, immWord, extInt_immediate8, Int.natCast_emod, Nat.cast_add, natCast_toNat_ofInt]
  exact Int.add_emod_emod ..

/-- R135: MOVI's word. -/
theorem immWord_eq (p : Prefixes) (k : BitVec 14) :
    immWord p 14 k.toNat = match p.ext with | none => k.signExtend 32 | some e => e ++ k := by
  unfold immWord
  cases hp : p.ext with
  | none => rw [extInt_of_none hp]; rfl
  | some e => rw [extInt_of_some hp]; exact BitVec.ofInt_toInt

theorem mulArg_eq {signed : Bool} {p : Prop} [Decidable p] (h : signed = true ↔ p) (x : Word) :
    mulArg signed x = if p then x.toInt else (x.toNat : Int) := by
  unfold mulArg
  simp only [h]

/-- R123: the low word of an exact product plus addend, or in the other modes its high word. -/
theorem toNat_mulWord (m : BitVec 2) (a b d : Word) (mad : Bool) :
    let left := fun (v : Word) => if m = 1 ∨ m = 3 then v.toInt else (v.toNat : Int)
    let right := fun (v : Word) => if m = 1 then v.toInt else (v.toNat : Int)
    let f := left a * right b + if mad then left d else 0
    ((mulWord m a b d mad).toNat : Int) = if m = 0 then f % 2 ^ 32 else f / 2 ^ 32 % 2 ^ 32 := by
  have hleft : ∀ v, mulArg (m == 1 || m == 3) v = if m = 1 ∨ m = 3 then v.toInt else (v.toNat : Int) := mulArg_eq (by simp)
  have hright : mulArg (m == 1) b = if m = 1 then b.toInt else (b.toNat : Int) := mulArg_eq (by simp) b
  intro left right f
  have hf : mulWord m a b d mad = if m == 0 then BitVec.ofInt 32 f else BitVec.ofInt 32 (f / 4294967296) := by
    unfold mulWord
    rw [hleft, hleft, hright]
  rw [hf]
  by_cases hm : m = 0
  · rw [if_pos (beq_iff_eq.2 hm), if_pos hm, natCast_toNat_ofInt]
  · rw [if_neg (by simpa using hm), if_neg hm, natCast_toNat_ofInt]
    rfl

/-! ## Pairs (R124, R125) -/

theorem add64Arg_eq (m : BitVec 2) (th : Thread) (b : BitVec 6) : add64Arg m th b =
    if m = 0 then th.pair b.toNat else if m = 1 then (th.reg b.toNat).signExtend 64 else (th.reg b.toNat).zeroExtend 64 := by
  by_cases h3 : m = 3
  · subst h3
    rfl
  · rcases twoBits_cases m h3 with rfl | rfl | rfl <;> rfl

/-- R125: LEA's sum, of an address and a signed index in units of 2^n. -/
theorem add_signExtend_shiftLeft (x : DWord) (y : Word) (n : Nat) :
    x + (y.signExtend 64) <<< n = BitVec.ofInt 64 (x.toNat + y.toInt * 2 ^ n) := by
  have hpow : BitVec.ofInt 64 (2 ^ n) = BitVec.twoPow 64 n := by
    refine BitVec.eq_of_toNat_eq ?_
    rw [show (2 ^ n : Int) = ((2 ^ n : Nat) : Int) by push_cast; rfl, BitVec.ofInt_natCast, BitVec.toNat_ofNat, BitVec.toNat_twoPow]
  rw [BitVec.ofInt_add, BitVec.ofInt_mul, BitVec.ofInt_natCast, BitVec.ofNat_toNat, hpow, BitVec.shiftLeft_eq_mul_twoPow, BitVec.setWidth_eq]
  rfl

/-- R122, R123, R135: the clauses of ADDI, MOVI, MUL and MAD, each by its word. -/
theorem addImmediateMoveImmediateAndMultiply : clausesAddImmediateMoveImmediateAndMultiply := by
  intro g m d a b i k s t
  refine ⟨fun h => (h.answers_one rfl rfl rfl).imp fun s' hr => ?_, fun h => (h.answers_one rfl rfl rfl).imp fun s' hr => ?_,
    fun h => (h.answers_one rfl rfl rfl).imp fun s' hr => ?_, fun h => (h.answers_one rfl rfl rfl).imp fun s' hr => ?_⟩
  · rw [hr]
    exact toNat_add_immWord ..
  · rw [hr]
    exact immWord_eq ..
  · rw [hr]
    exact (toNat_mulWord ..).trans (by simp)
  · rw [hr]
    exact toNat_mulWord ..

/-- R124, R125: the clauses of ADD64 and LEA. -/
theorem pairAddition : clausesPairAddition := by
  intro g m d a b s t
  refine ⟨fun h => (h.answers_pair rfl rfl rfl).imp fun s' hr => ?_, fun h => (h.answers_pair rfl rfl rfl).imp fun s' hr => ?_⟩
  · rw [hr, add64Arg_eq]
  · rw [hr]
    exact add_signExtend_shiftLeft ..

/-- Settles O13: the immediates as integers, the exact products, and the sums of pairs. -/
theorem immediatesProductsAndPairs : Obligations.ImmediatesProductsAndPairs := ⟨addImmediateMoveImmediateAndMultiply, pairAddition⟩

end Sys2Proof.Machine

/-! SUPPORT. What the field and table words compute, bit by bit, byte by byte and nibble by nibble, and the exchange of values between lanes. -/

namespace Sys2Proof.Machine
open Sys2Proof

/-! ## Fields (R130) -/

theorem fieldPos_eq (y : Word) : fieldPos y = (y.extractLsb' 0 8).toNat := by
  rw [BitVec.extractLsb'_toNat, Nat.shiftRight_zero]
  rfl

theorem fieldLen_eq (y : Word) : fieldLen y = min (y.extractLsb' 8 8).toNat 32 := by
  rw [BitVec.extractLsb'_toNat, Nat.shiftRight_eq_div_pow]
  rfl

theorem fieldLen_le (y : Word) : fieldLen y ≤ 32 := Nat.min_le_right ..

section
variable (x : Word) (pos : Nat) {len k : Nat}

/-- R130: the field of a word followed by zeros. -/
theorem getLsbD_zeroField (hk : k < 32) :
    (BitVec.ofInt 32 ((x.toNat : Int) / (2 ^ pos : Nat) % (2 ^ len : Nat))).getLsbD k = (decide (k < len) && extendedBit 0 x (pos + k)) := by
  have hext : extendedBit 0 x (pos + k) = x.getLsbD (pos + k) := by
    unfold extendedBit
    split
    · rfl
    · exact (BitVec.getLsbD_of_ge x (pos + k) (by omega)).symm
  rw [← Int.natCast_ediv, ← Int.natCast_emod, BitVec.ofInt_natCast, BitVec.getLsbD_ofNat, Nat.testBit_mod_two_pow, Nat.testBit_div_two_pow,
    decide_eq_true hk, Bool.true_and, hext, Nat.add_comm]
  rfl

/-- A bit of the field of a word that continues with copies of its sign. -/
theorem getLsbD_ofInt_signedDiv (hk : k < len) (hlen : len ≤ 32) :
    (BitVec.ofInt len (x.toInt / (2 ^ pos : Nat))).getLsbD k = extendedBit 1 x (pos + k) := by
  rw [← Int.shiftRight_eq_div_pow, ← BitVec.toInt_sshiftRight]
  show ((x.sshiftRight pos).signExtend len).getLsbD k = _
  rw [BitVec.getLsbD_signExtend, if_pos (by omega), BitVec.getLsbD_sshiftRight, BitVec.msb_eq_getLsbD_last]
  simp [extendedBit, hk, show ¬ 32 ≤ k by omega]

/-- The field read as a signed number of its own length. -/
theorem signedField_eq (f : Int) (hlen : 0 < len) :
    (if f % (2 ^ len : Nat) < (2 ^ (len - 1) : Nat) then f % (2 ^ len : Nat) else f % (2 ^ len : Nat) - (2 ^ len : Nat)) =
      (BitVec.ofInt len f).toInt := by
  obtain ⟨n, rfl⟩ := Nat.exists_eq_add_of_lt hlen
  have hhalf : (((2 ^ (0 + n + 1) : Nat) : Int) + 1) / 2 = (2 ^ (0 + n + 1 - 1) : Nat) := by
    rw [Nat.add_sub_cancel, Nat.pow_succ]
    omega
  rw [BitVec.toInt_ofInt, Int.bmod_def, hhalf]

/-- R130: the field of a word followed by copies of its own highest bit. -/
theorem getLsbD_signedField (hk : k < 32) (hlen : 0 < len) (hmax : len ≤ 32) :
    (BitVec.ofInt 32 (BitVec.ofInt len (x.toInt / (2 ^ pos : Nat))).toInt).getLsbD k =
      if k < len then extendedBit 1 x (pos + k) else extendedBit 1 x (pos + len - 1) := by
  show ((BitVec.ofInt len (x.toInt / (2 ^ pos : Nat))).signExtend 32).getLsbD k = _
  rw [BitVec.getLsbD_signExtend, decide_eq_true hk, Bool.true_and]
  split
  · exact getLsbD_ofInt_signedDiv x pos ‹_› hmax
  · rw [BitVec.msb_eq_getLsbD_last, getLsbD_ofInt_signedDiv x pos (by omega) hmax, Nat.add_sub_assoc hlen]

end

theorem oneBit_cases : ∀ m : BitVec 1, m = 0 ∨ m = 1 := by decide

/-- R130: BFE bit by bit. -/
theorem getLsbD_bfeWord (m : BitVec 1) (x y : Word) {k : Nat} (hk : k < 32) : (bfeWord m x y).getLsbD k =
    if k < fieldLen y then extendedBit m x (fieldPos y + k)
    else m == 1 && decide (0 < fieldLen y) && extendedBit m x (fieldPos y + fieldLen y - 1) := by
  by_cases hlen : fieldLen y = 0
  · simp [bfeWord, hlen]
  rcases oneBit_cases m with rfl | rfl
  · have hword : bfeWord 0 x y = BitVec.ofInt 32 ((x.toNat : Int) / (2 ^ fieldPos y : Nat) % (2 ^ fieldLen y : Nat)) := if_neg hlen
    rw [hword, getLsbD_zeroField x _ hk]
    by_cases hin : k < fieldLen y <;> simp [hin]
  · have hword : bfeWord 1 x y = BitVec.ofInt 32 (BitVec.ofInt (fieldLen y) (x.toInt / (2 ^ fieldPos y : Nat))).toInt := by
      rw [← signedField_eq _ (Nat.pos_of_ne_zero hlen)]
      exact if_neg hlen
    rw [hword, getLsbD_signedField x _ hk (Nat.pos_of_ne_zero hlen) (fieldLen_le y)]
    simp [Nat.pos_of_ne_zero hlen]

/-- R130: BFI bit by bit. -/
theorem getLsbD_bfiWord (z x y : Word) {k : Nat} (hk : k < 32) : (bfiWord z x y).getLsbD k =
    if fieldPos y ≤ k ∧ k < fieldPos y + fieldLen y then x.getLsbD (k - fieldPos y) else z.getLsbD k := by
  unfold bfiWord
  dsimp only
  by_cases hpos : fieldPos y < 32
  · have hmask : (BitVec.ofNat 32 ((2 ^ fieldLen y - 1) * 2 ^ fieldPos y)).getLsbD k =
        decide (fieldPos y ≤ k ∧ k < fieldPos y + fieldLen y) := by
      rw [BitVec.getLsbD_ofNat, Nat.testBit_mul_two_pow, Nat.testBit_two_pow_sub_one, decide_eq_true hk, Bool.true_and, ← Bool.decide_and]
      exact decide_eq_decide.2 (by omega)
    rw [if_pos hpos, BitVec.getLsbD_or, BitVec.getLsbD_and, BitVec.getLsbD_and, BitVec.getLsbD_not, hmask, BitVec.getLsbD_shiftLeft]
    by_cases hin : fieldPos y ≤ k ∧ k < fieldPos y + fieldLen y
    · simp [hin, hk]
    · simp [hin, hk]
  · rw [if_neg hpos, if_neg (by omega)]

/-! ## Byte and nibble tables (R136, R137) -/

theorem toNat_extractLsb'_eq_packedAt {n : Nat} (x : BitVec n) (w j : Nat) : (x.extractLsb' (w * j) w).toNat = packedAt x.toNat w j := by
  rw [BitVec.extractLsb'_toNat, Nat.shiftRight_eq_div_pow]
  rfl

theorem packedAt_lt_two_pow (x w j : Nat) : packedAt x w j < 2 ^ w := Nat.mod_lt _ (Nat.two_pow_pos w)

/-- An element that lies in the low bits of a string. -/
theorem packedAt_mod_two_pow (x : Nat) {n w j : Nat} (h : w * j + w ≤ n) : packedAt (x % 2 ^ n) w j = packedAt x w j := by
  refine Nat.eq_of_testBit_eq fun i => ?_
  unfold packedAt
  rw [Nat.testBit_mod_two_pow, Nat.testBit_mod_two_pow, Nat.testBit_div_two_pow, Nat.testBit_div_two_pow, Nat.testBit_mod_two_pow]
  by_cases hi : i < w
  · rw [decide_eq_true (show i + w * j < n by omega), Bool.true_and]
  · rw [decide_eq_false hi, Bool.false_and, Bool.false_and]

/-- Digits of w bits are packed elements. -/
theorem ofDigits_eq_packElems {w : Nat} : ∀ {l : List Nat}, (∀ x ∈ l, x < 2 ^ w) → ofDigits (2 ^ w) l = packElems w l
  | [], _ => rfl
  | x :: xs, h => by
    rw [ofDigits, packElems, ofDigits_eq_packElems (fun y hy => h y (List.mem_cons_of_mem x hy)), Nat.mod_eq_of_lt (h x (List.mem_cons_self ..))]

/-- A digit of a word that is made of digits. -/
theorem toNat_extractLsb'_ofDigits {w n j : Nat} (f : Nat → Nat) (hf : ∀ j, f j < 2 ^ w) (hj : j < n) (hn : w * n ≤ 32) :
    ((BitVec.ofNat 32 (ofDigits (2 ^ w) ((List.range n).map f))).extractLsb' (w * j) w).toNat = f j := by
  have hfits : w * j + w ≤ 32 := (Nat.mul_succ w j).symm.trans_le ((Nat.mul_le_mul_left w hj).trans hn)
  have hdigits : ∀ x ∈ (List.range n).map f, x < 2 ^ w := fun x hx => by
    obtain ⟨i, _, rfl⟩ := List.mem_map.1 hx
    exact hf i
  rw [toNat_extractLsb'_eq_packedAt, BitVec.toNat_ofNat, packedAt_mod_two_pow _ hfits, ofDigits_eq_packElems hdigits, packedAt_packElems]
  simp [List.getD, hj, Nat.mod_eq_of_lt (hf j)]

theorem byteAt_lt (v k : Nat) : byteAt v k < 2 ^ 8 := packedAt_lt_two_pow v 8 k
theorem nibbleAt_lt (v k : Nat) : nibbleAt v k < 2 ^ 4 := packedAt_lt_two_pow v 4 k

/-- R136: a byte of PRMT's result, by its selector: a byte of the source, or eight copies of that byte's sign. -/
theorem extractLsb'_prmtWord (z x y : Word) {j : Nat} (hj : j < 4) :
    let c := (z.extractLsb' (4 * j) 4).toNat
    let v := (y ++ x).extractLsb' (8 * (c % 8)) 8
    (prmtWord z x y).extractLsb' (8 * j) 8 = if c < 8 then v else if v.msb then 0xFF#8 else 0#8 := by
  intro c v
  have hc : nibbleAt z.toNat j = c := (toNat_extractLsb'_eq_packedAt z 4 j).symm
  have hsource : y.toNat * 2 ^ 32 + x.toNat = (y ++ x).toNat := by
    rw [BitVec.toNat_append, ← Nat.shiftLeft_add_eq_or_of_lt x.isLt, Nat.shiftLeft_eq]
  have hv : byteAt (y.toNat * 2 ^ 32 + x.toNat) (c % 8) = v.toNat := by
    rw [hsource]
    exact (toNat_extractLsb'_eq_packedAt (y ++ x) 8 (c % 8)).symm
  have hmsb : v.msb = decide (128 ≤ v.toNat) := BitVec.msb_eq_decide v
  refine BitVec.eq_of_toNat_eq ((toNat_extractLsb'_ofDigits (w := 8) _ (fun j => ?_) hj (by decide)).trans ?_)
  · dsimp only
    split_ifs
    · decide
    · decide
    · exact byteAt_lt ..
  · dsimp only
    rw [hc, hv, hmsb]
    by_cases hlow : c < 8
    · rw [if_neg (by omega), if_pos hlow]
    · rw [if_pos (by omega), if_neg hlow]
      by_cases hneg : 128 ≤ v.toNat <;> simp [hneg]

theorem Thread.pair_toNat (th : Thread) (n : Nat) : (th.pair n).toNat = (th.reg n).toNat + (th.reg (n + 1)).toNat * 2 ^ 32 := by
  unfold Thread.pair
  rw [BitVec.toNat_append, ← Nat.shiftLeft_add_eq_or_of_lt (th.reg n).isLt, Nat.shiftLeft_eq, Nat.add_comm]

/-- R137: NLUT's table is a block of four registers, or in its nibble mode a pair. -/
theorem nlutTable_eq_block {m : BitVec 2} (hm : m ≠ 2) (th : Thread) (b : BitVec 6) : nlutTable m th b = th.block b.toNat 4 := by
  have hblock : nlutTable m th b = (th.pair b.toNat).toNat + (th.pair (b.toNat + 2)).toNat * 2 ^ 64 := if_neg (by simpa using hm)
  rw [hblock, Thread.pair_toNat, Thread.pair_toNat, Thread.block_succ, Thread.block_succ, Thread.block_succ, Thread.block_succ]
  show _ = 0 + (th.reg b.toNat).toNat * 1 + (th.reg (b.toNat + 1)).toNat * 2 ^ 32 + (th.reg (b.toNat + 2)).toNat * 2 ^ 64 +
    (th.reg (b.toNat + 2 + 1)).toNat * 2 ^ 96
  omega

/-- A byte of a table of four registers. -/
theorem byteAt_block (th : Thread) (b : Nat) {k : Nat} (hk : k < 16) :
    byteAt (th.block b 4) k = ((th.reg (b + k / 4)).extractLsb' (8 * (k % 4)) 8).toNat := by
  rw [toNat_extractLsb'_eq_packedAt]
  refine (th.packedAt_block b (w := 8) (e := k) (by omega) (by omega)).trans ?_
  unfold packedElement packedAt
  rw [show 8 * k / 32 = k / 4 by omega, show 8 * k % 32 = 8 * (k % 4) by omega]

/-- R137: a byte of NLUT's result is the table's byte at a nibble of vA: the lower or the upper nibble of that byte. -/
theorem extractLsb'_nlutWord_byte {m : BitVec 2} {up : Nat} (hm : m = 0 ∧ up = 0 ∨ m = 1 ∧ up = 1) (x : Word) (th : Thread) (b : BitVec 6)
    {j : Nat} (hj : j < 4) : (nlutWord m x (nlutTable m th b)).extractLsb' (8 * j) 8 =
      (th.reg (b.toNat + (x.extractLsb' (8 * j + 4 * up) 4).toNat / 4)).extractLsb' (8 * ((x.extractLsb' (8 * j + 4 * up) 4).toNat % 4)) 8 := by
  have hword : nlutWord m x (nlutTable m th b) =
      BitVec.ofNat 32 (ofDigits (2 ^ 8) ((List.range 4).map (fun j => byteAt (nlutTable m th b) (nibbleAt x.toNat (2 * j + up))))) := by
    rcases hm with ⟨rfl, rfl⟩ | ⟨rfl, rfl⟩ <;> rfl
  have hnibble : nibbleAt x.toNat (2 * j + up) = (x.extractLsb' (8 * j + 4 * up) 4).toNat := by
    rw [show 8 * j + 4 * up = 4 * (2 * j + up) by omega]
    exact (toNat_extractLsb'_eq_packedAt x 4 (2 * j + up)).symm
  refine BitVec.eq_of_toNat_eq ?_
  rw [hword, toNat_extractLsb'_ofDigits _ (fun _ => byteAt_lt ..) hj (by decide), hnibble,
    nlutTable_eq_block (by rcases hm with ⟨rfl, _⟩ | ⟨rfl, _⟩ <;> decide), byteAt_block _ _ (BitVec.isLt _)]

/-- R137: a nibble of NLUT's result in its nibble mode. -/
theorem extractLsb'_nlutWord_nibble (x : Word) (th : Thread) (b : BitVec 6) {j : Nat} (hj : j < 8) :
    (nlutWord 2 x (nlutTable 2 th b)).extractLsb' (4 * j) 4 = (th.pair b.toNat).extractLsb' (4 * (x.extractLsb' (4 * j) 4).toNat) 4 := by
  have hnibble : nibbleAt x.toNat j = (x.extractLsb' (4 * j) 4).toNat := (toNat_extractLsb'_eq_packedAt x 4 j).symm
  refine BitVec.eq_of_toNat_eq ((toNat_extractLsb'_ofDigits (w := 4) _ (fun _ => nibbleAt_lt ..) hj (by decide)).trans ?_)
  rw [hnibble]
  exact (toNat_extractLsb'_eq_packedAt (th.pair b.toNat) 4 _).symm

/-- Settles O11: BFE and BFI by their bits, PRMT by its selectors, and NLUT by the bytes and nibbles of its table. -/
theorem fieldAndTableWords : Obligations.FieldAndTableWords := by
  intro g m n d a b s t
  simp only [← fieldPos_eq, ← fieldLen_eq]
  refine ⟨fun h => (h.answers_one rfl rfl rfl).imp fun s' hr k hk => ?_, fun h => (h.answers_one rfl rfl rfl).imp fun s' hr k hk => ?_,
    fun h => (h.answers_one rfl rfl rfl).imp fun s' hr j hj => ?_, fun h => (h.answers_one rfl rfl rfl).imp fun s' hr => ?_⟩
  · rw [hr]
    exact getLsbD_bfeWord m _ _ hk
  · rw [hr]
    exact getLsbD_bfiWord _ _ _ hk
  · rw [hr]
    exact extractLsb'_prmtWord _ _ _ hj
  · rw [hr]
    refine ⟨?_, ?_, ?_⟩
    · rintro rfl j hj
      exact extractLsb'_nlutWord_byte (.inl ⟨rfl, rfl⟩) _ _ b hj
    · rintro rfl j hj
      exact extractLsb'_nlutWord_byte (.inr ⟨rfl, rfl⟩) _ _ b hj
    · rintro rfl j hj
      exact extractLsb'_nlutWord_nibble _ _ b hj

/-! ## Exchange between lanes (R138) -/

/-- The place that SHFL reads, as an integer that may lie outside the warp. -/
def shflPlace (m : BitVec 2) (l c : Nat) : Int :=
  if m = 0 then (c % 32 : Nat) else if m = 1 then (l : Int) - c else if m = 2 then (l : Int) + c else (l ^^^ (c % 32) : Nat)

/-- SHFL has a source lane exactly where that place is one of the warp's 32. -/
theorem shflSource_eq (m : BitVec 2) {l : Nat} (hl : l < 32) (c : Word) :
    shflSource m l c = if 0 ≤ shflPlace m l c.toNat ∧ shflPlace m l c.toNat < 32 then some (shflPlace m l c.toNat).toNat else none := by
  have hinside : ∀ {n : Nat}, n < 32 → some n = if 0 ≤ (n : Int) ∧ (n : Int) < 32 then some (Int.toNat n) else none := fun {n} hn => by
    rw [if_pos (by omega), Int.toNat_natCast]
  by_cases h3 : m = 3
  · subst h3
    exact hinside (Nat.xor_lt_two_pow (n := 5) hl (Nat.mod_lt _ (by decide)))
  · rcases twoBits_cases m h3 with rfl | rfl | rfl
    · exact hinside (Nat.mod_lt _ (by decide))
    · show (if c.toNat ≤ l then some (l - c.toNat) else none) =
        if 0 ≤ (l : Int) - c.toNat ∧ (l : Int) - c.toNat < 32 then some ((l : Int) - c.toNat).toNat else none
      by_cases hc : c.toNat ≤ l
      · rw [if_pos hc, ← Int.natCast_sub hc]
        exact hinside (by omega)
      · rw [if_neg hc, if_neg (by omega)]
    · show (if l + c.toNat < 32 then some (l + c.toNat) else none) =
        if 0 ≤ (l : Int) + c.toNat ∧ (l : Int) + c.toNat < 32 then some ((l : Int) + c.toNat).toNat else none
      by_cases hc : l + c.toNat < 32
      · rw [if_pos hc, ← Int.natCast_add]
        exact hinside hc
      · rw [if_neg hc, if_neg (by omega)]

/-- R138: what a thread receives. -/
theorem shflWord_eq (s : State) (ps : List Nat) (m : BitVec 2) (a b : BitVec 6) (t : Nat) :
    let src := shflPlace m (laneOf t) ((s.thread t).reg b.toNat).toNat
    let u := warpOf t * 32 + src.toNat
    shflWord s ps m a b t = if 0 ≤ src ∧ src < 32 ∧ u ∈ ps then (s.thread u).reg a.toNat else (s.thread t).reg a.toNat := by
  intro src u
  unfold shflWord
  rw [shflSource_eq m (laneOf_lt t)]
  by_cases hsrc : 0 ≤ src ∧ src < 32
  · rw [if_pos hsrc]
    simp [hsrc, u, src]
  · rw [if_neg hsrc, if_neg fun h => hsrc ⟨h.1, h.2.1⟩]

/-- Settles O12, by the source lane as a place in or outside the warp. -/
theorem shuffleAcrossLanes : Obligations.ShuffleAcrossLanes := by
  intro g m d a b s t l c src u h
  refine (h.answers_one rfl rfl rfl).imp fun s' hr => ?_
  rw [hr, shflWord_eq]
  exact ⟨fun hin => if_pos hin, fun hout => if_neg hout⟩

end Sys2Proof.Machine

/-! SUPPORT. The values of floating-point codes (R141, R142): magnitude codes as the points of one rising grid of exact values. -/

namespace Sys2Proof.Machine
open Sys2Proof

/-! ## Powers of two -/

theorem two_zpow_pos (n : Int) : (0 : ℚ) < 2 ^ n := zpow_pos two_pos n

/-- A quantum is a whole number of smaller ones. -/
theorem two_zpow_natCast_sub {e q : Int} (h : q ≤ e) : ((2 ^ (e - q).toNat : Nat) : ℚ) * 2 ^ q = 2 ^ e := by
  have hcast : ((e - q).toNat : Int) = e - q := Int.toNat_of_nonneg (by omega)
  push_cast
  rw [← zpow_natCast, hcast, ← zpow_add₀ two_ne_zero, sub_add_cancel]

/-- The binary exponent of a positive number is where it lies among the powers of two. -/
theorem int_log_eq {K : Type*} [Field K] [LinearOrder K] [IsStrictOrderedRing K] [FloorSemiring K] {x : K} {l : Int}
    (hlo : (2 : K) ^ l ≤ x) (hhi : x < 2 ^ (l + 1)) : Int.log 2 x = l := by
  have hx : 0 < x := (zpow_pos two_pos l).trans_le hlo
  have h1 : l ≤ Int.log 2 x := (Int.zpow_le_iff_le_log (b := 2) (by norm_num) hx).1 (by exact_mod_cast hlo)
  have h2 : Int.log 2 x < l + 1 := (Int.lt_zpow_iff_log_lt (b := 2) (by norm_num) hx).1 (by exact_mod_cast hhi)
  omega

/-- The binary exponent of m × 2^e, as the model computes it. -/
theorem log2_zpow_bounds {m : Nat} (hm : m ≠ 0) (e : Int) :
    (2 : ℚ) ^ ((m.log2 : Int) + e) ≤ m * 2 ^ e ∧ (m : ℚ) * 2 ^ e < 2 ^ ((m.log2 : Int) + e + 1) := by
  have hlo : ((2 ^ m.log2 : Nat) : ℚ) ≤ m := by exact_mod_cast Nat.log2_self_le hm
  have hhi : (m : ℚ) < ((2 ^ (m.log2 + 1) : Nat) : ℚ) := by exact_mod_cast Nat.lt_log2_self
  rw [zpow_add₀ two_ne_zero, show (m.log2 : Int) + e + 1 = ((m.log2 + 1 : Nat) : Int) + e by push_cast; ring, zpow_add₀ two_ne_zero,
    zpow_natCast, zpow_natCast]
  push_cast at hlo hhi
  exact ⟨mul_le_mul_of_nonneg_right hlo (two_zpow_pos e).le, mul_lt_mul_of_pos_right hhi (two_zpow_pos e)⟩

theorem int_log_dyadic {m : Nat} (hm : m ≠ 0) (e : Int) : Int.log 2 ((m : ℚ) * 2 ^ e) = m.log2 + e :=
  int_log_eq (log2_zpow_bounds hm e).1 (log2_zpow_bounds hm e).2

/-! ## Formats -/

/-- What the formats of R141 have in common. -/
structure Fmt.Sound (f : Fmt) : Prop where
  two_le_p : 2 ≤ f.p
  p_lt_width : f.p < f.width
  half_le_max : 2 ^ (f.p - 1) ≤ f.maxCode
  max_lt : f.maxCode < 2 ^ (f.width - 1)
  inf_eq : ∀ i, f.inf = some i → i = f.maxCode + 1 ∧ i < 2 ^ (f.width - 1)
  nan_lt : f.nan < 2 ^ f.width

theorem fp32_sound : fp32.Sound := ⟨by decide, by decide, by decide, by decide, by decide, by decide⟩
theorem fp16_sound : fp16.Sound := ⟨by decide, by decide, by decide, by decide, by decide, by decide⟩
theorem bf16_sound : bf16.Sound := ⟨by decide, by decide, by decide, by decide, by decide, by decide⟩
theorem e4m3_sound : e4m3.Sound := ⟨by decide, by decide, by decide, by decide, by decide, by decide⟩
theorem e5m2_sound : e5m2.Sound := ⟨by decide, by decide, by decide, by decide, by decide, by decide⟩
theorem e2m1_sound : e2m1.Sound := ⟨by decide, by decide, by decide, by decide, by decide, by decide⟩

theorem fmtOf_sound (c : BitVec 3) : (fmtOf c).Sound := by
  unfold fmtOf
  split
  · exact fp16_sound
  · exact bf16_sound
  · exact e4m3_sound
  · exact e5m2_sound
  · exact e2m1_sound

/-! ## The value of a magnitude code (R141) -/

/-- R141: the exact value of a magnitude code. -/
def Fmt.val (f : Fmt) (k : Nat) : ℚ := (f.finite k).1 * 2 ^ (f.finite k).2

/-- R141: the exponent of the last place of a magnitude code. -/
def Fmt.quantum (f : Fmt) (k : Nat) : Int := (f.finite k).2

section
variable {f : Fmt}

/-- Inside a binade, and over the subnormal numbers, codes count quanta. -/
theorem Fmt.finite_grid {s n : Nat} (hn : n < 2 * 2 ^ (f.p - 1)) (hs : s = 0 ∨ 2 ^ (f.p - 1) ≤ n) :
    f.finite (s * 2 ^ (f.p - 1) + n) = (n, (s : Int) + (f.emin - f.p + 1)) := by
  unfold Fmt.finite
  have hpos : 0 < 2 ^ (f.p - 1) := Nat.two_pow_pos _
  generalize 2 ^ (f.p - 1) = h at *
  dsimp only
  rw [Nat.mul_comm s h, Nat.mul_add_div hpos, Nat.mul_add_mod]
  by_cases hlow : n < h
  · obtain rfl : s = 0 := hs.resolve_right (by omega)
    rw [Nat.div_eq_of_lt hlow]
    simp
  · have hdiv : n / h = 1 := Nat.div_eq_of_lt_le (by omega) (by omega)
    have hmod : h + n % h = n := by rw [Nat.mod_eq_sub_div_mul, hdiv]; omega
    rw [hdiv, if_neg (by omega), hmod]
    refine Prod.ext rfl ?_
    push_cast
    ring

/-- Every magnitude code counts the quanta of its binade. -/
theorem Fmt.exists_grid (f : Fmt) (k : Nat) : ∃ s n, k = s * 2 ^ (f.p - 1) + n ∧ n < 2 * 2 ^ (f.p - 1) ∧ (s = 0 ∨ 2 ^ (f.p - 1) ≤ n) := by
  have hpos : 0 < 2 ^ (f.p - 1) := Nat.two_pow_pos _
  generalize 2 ^ (f.p - 1) = h at *
  have hk := Nat.div_add_mod k h
  have hmod := Nat.mod_lt k hpos
  cases he : k / h with
  | zero => exact ⟨0, k, by omega, by rw [he] at hk; omega, .inl rfl⟩
  | succ s =>
    rw [he] at hk
    exact ⟨s, h + k % h, by linarith [Nat.mul_comm h (s + 1), Nat.succ_mul s h], by omega, .inr (by omega)⟩

theorem Fmt.val_grid {s n : Nat} (hn : n < 2 * 2 ^ (f.p - 1)) (hs : s = 0 ∨ 2 ^ (f.p - 1) ≤ n) :
    f.val (s * 2 ^ (f.p - 1) + n) = n * 2 ^ ((s : Int) + (f.emin - f.p + 1)) := by
  rw [Fmt.val, Fmt.finite_grid hn hs]

theorem Fmt.quantum_grid {s n : Nat} (hn : n < 2 * 2 ^ (f.p - 1)) (hs : s = 0 ∨ 2 ^ (f.p - 1) ≤ n) :
    f.quantum (s * 2 ^ (f.p - 1) + n) = (s : Int) + (f.emin - f.p + 1) := by
  rw [Fmt.quantum, Fmt.finite_grid hn hs]

/-- The next magnitude code lies one quantum above. -/
theorem Fmt.val_succ (f : Fmt) (k : Nat) : f.val (k + 1) = f.val k + 2 ^ f.quantum k := by
  obtain ⟨s, n, rfl, hn, hs⟩ := f.exists_grid k
  rw [Fmt.val_grid hn hs, Fmt.quantum_grid hn hs, add_assoc]
  by_cases hlast : n + 1 < 2 * 2 ^ (f.p - 1)
  · rw [Fmt.val_grid hlast (hs.imp_right fun h => by omega)]
    push_cast
    ring
  · have htop : n + 1 = 2 ^ (f.p - 1) + 2 ^ (f.p - 1) := by omega
    have hcast : (n : ℚ) + 1 = 2 ^ (f.p - 1) + 2 ^ (f.p - 1) := by exact_mod_cast htop
    rw [htop, ← add_assoc, ← Nat.succ_mul, Fmt.val_grid (by have := Nat.two_pow_pos (f.p - 1); omega) (.inr le_rfl),
      show ((s.succ : Nat) : Int) + (f.emin - f.p + 1) = (s + (f.emin - f.p + 1)) + 1 by push_cast; ring, zpow_add_one₀ two_ne_zero]
    push_cast
    linear_combination (-(2 : ℚ) ^ ((s : Int) + (f.emin - f.p + 1))) * hcast

theorem Fmt.val_zero (f : Fmt) : f.val 0 = 0 := by
  simp [Fmt.val, Fmt.finite]

theorem Fmt.val_strictMono (f : Fmt) : StrictMono f.val :=
  strictMono_nat_of_lt_succ fun k => by
    rw [f.val_succ]
    exact lt_add_of_pos_right _ (two_zpow_pos _)

theorem Fmt.val_nonneg (f : Fmt) (k : Nat) : 0 ≤ f.val k := f.val_zero.symm.trans_le (f.val_strictMono.monotone k.zero_le)

theorem Fmt.val_eq_zero {k : Nat} : f.val k = 0 ↔ k = 0 := by
  rw [← f.val_zero, f.val_strictMono.injective.eq_iff]

/-- Quanta grow with the code. -/
theorem Fmt.quantum_mono (f : Fmt) : Monotone f.quantum := by
  intro j k hjk
  unfold Fmt.quantum Fmt.finite
  have hdiv := Nat.div_le_div_right (c := 2 ^ (f.p - 1)) hjk
  dsimp only
  split_ifs <;> dsimp only <;> omega

end

/-! ## Codes -/

/-- The sign that a sign bit stands for. -/
def sgn (neg : Bool) : ℚ := if neg then -1 else 1

@[simp] theorem sgn_true : sgn true = -1 := rfl
@[simp] theorem sgn_false : sgn false = 1 := rfl
@[simp] theorem abs_sgn (neg : Bool) : |sgn neg| = 1 := by cases neg <;> simp
theorem sgn_ne_zero (neg : Bool) : sgn neg ≠ 0 := by cases neg <;> simp

section
variable {f : Fmt} (hf : f.Sound)
include hf

/-- R141: a code's value is its sign times the value of its magnitude. -/
theorem Fmt.Sound.codeValue_eq (c : Nat) : codeValue f c = sgn (f.negOf c) * f.val (f.magOf c) := by
  obtain ⟨w, hw⟩ : ∃ w, f.width - 1 = f.p - 1 + w := ⟨f.width - f.p, by have := hf.two_le_p; have := hf.p_lt_width; omega⟩
  have hfrac : f.magOf c % 2 ^ (f.p - 1) = c % 2 ^ (f.p - 1) := by
    rw [Fmt.magOf, hw, pow_add, Nat.mod_mul_right_mod]
  have hexp : f.magOf c / 2 ^ (f.p - 1) = c / 2 ^ (f.p - 1) % 2 ^ (f.width - f.p) := by
    rw [Fmt.magOf, hw, pow_add, Nat.mod_mul_right_div_self, show f.width - f.p = w by have := hf.two_le_p; have := hf.p_lt_width; omega]
  have hp : (f.p : Int) - 1 = ((f.p - 1 : Nat) : Int) := by have := hf.two_le_p; omega
  have hsgn : (if c / 2 ^ (f.width - 1) % 2 = 1 then (-1 : ℚ) else 1) = sgn (f.negOf c) := by simp [sgn, Fmt.negOf]
  unfold codeValue Fmt.val Fmt.finite
  dsimp only
  rw [hsgn, hexp, hfrac]
  generalize hE : c / 2 ^ (f.p - 1) % 2 ^ (f.width - f.p) = E at *
  have hpow : (2 : ℚ) ^ (f.p - 1) ≠ 0 := by positivity
  split_ifs with h0
  · have hmag : f.magOf c = c % 2 ^ (f.p - 1) := by
      have := Nat.div_add_mod (f.magOf c) (2 ^ (f.p - 1))
      rw [hexp, hfrac, h0] at this
      omega
    rw [hmag, show f.emin - (f.p : Int) + 1 = f.emin - ((f.p - 1 : Nat) : Int) by omega, zpow_sub₀ two_ne_zero, zpow_natCast]
    push_cast
    field_simp
  · rw [show (E : Int) - (1 - f.emin) = ((E : Int) - 1 + f.emin - f.p + 1) + ((f.p - 1 : Nat) : Int) by omega, zpow_add₀ two_ne_zero, zpow_natCast]
    push_cast
    field_simp

theorem Fmt.Sound.abs_codeValue (c : Nat) : |codeValue f c| = f.val (f.magOf c) := by
  rw [hf.codeValue_eq, abs_mul, abs_sgn, one_mul, abs_of_nonneg (f.val_nonneg _)]

theorem Fmt.Sound.width_pos : 0 < f.width := by have := hf.p_lt_width; omega

theorem Fmt.Sound.two_pow_width : 2 ^ f.width = 2 * 2 ^ (f.width - 1) := by
  rw [← pow_succ', Nat.sub_add_cancel hf.width_pos]

end

theorem signed_eq_code (f : Fmt) (neg : Bool) (mag : Nat) : signed f neg mag = f.code neg mag := by
  cases neg <;> simp [signed, Fmt.code]

section
variable {f : Fmt} {mag : Nat} (hmag : mag < 2 ^ (f.width - 1)) (neg : Bool)
include hmag

theorem Fmt.magOf_code : f.magOf (f.code neg mag) = mag := by
  cases neg <;> simp [Fmt.magOf, Fmt.code, Nat.mod_eq_of_lt hmag]

theorem Fmt.negOf_code : f.negOf (f.code neg mag) = neg := by
  have hpos : 0 < 2 ^ (f.width - 1) := Nat.two_pow_pos _
  cases neg
  · simp [Fmt.negOf, Fmt.code, Nat.div_eq_of_lt hmag]
  · simp [Fmt.negOf, Fmt.code, Nat.add_div_left, Nat.div_eq_of_lt hmag]

theorem Fmt.Sound.code_lt (hf : f.Sound) : f.code neg mag < 2 ^ f.width := by
  rw [hf.two_pow_width]
  cases neg <;> simp [Fmt.code] <;> omega

theorem Fmt.Sound.codeValue_code (hf : f.Sound) : codeValue f (f.code neg mag) = sgn neg * f.val mag := by
  rw [hf.codeValue_eq, Fmt.magOf_code hmag, Fmt.negOf_code hmag]

end

/-- A code of the format's width is its sign and magnitude. -/
theorem Fmt.Sound.code_negOf_magOf {f : Fmt} (hf : f.Sound) {c : Nat} (hc : c < 2 ^ f.width) : f.code (f.negOf c) (f.magOf c) = c := by
  rw [hf.two_pow_width] at hc
  have hdiv : c / 2 ^ (f.width - 1) < 2 := Nat.div_lt_of_lt_mul (by omega)
  have hsum := Nat.div_add_mod c (2 ^ (f.width - 1))
  unfold Fmt.code Fmt.negOf Fmt.magOf
  generalize c / 2 ^ (f.width - 1) = q at *
  interval_cases q
  · simpa using hsum
  · simpa using hsum

theorem Fmt.magOf_lt (f : Fmt) (c : Nat) : f.magOf c < 2 ^ (f.width - 1) := Nat.mod_lt _ (Nat.two_pow_pos _)

end Sys2Proof.Machine

/-! SUPPORT. Rounding (R144 to R147): a rounded magnitude is one of the two neighbours of the exact one on its format's grid. -/

namespace Sys2Proof.Machine
open Sys2Proof

/-! ## Which neighbour a mode takes -/

/-- R147: a stochastic mode carries 16 random bits. -/
def RMode.Drawn (mode : RMode) : Prop := ∀ r, mode = .sr r → r < 65536

/-- R144, R147: whether a magnitude that lies a fraction `t` of a quantum above `k` quanta is rounded up. -/
def RMode.up (mode : RMode) (neg : Bool) (k : Nat) (t : ℚ) : Prop :=
  match mode with
  | .rne => 1 / 2 < t ∨ (t = 1 / 2 ∧ k % 2 = 1)
  | .rz => False
  | .ru => neg = false ∧ 0 < t
  | .rd => neg = true ∧ 0 < t
  | .sr b => 1 ≤ t + b / 65536

theorem RMode.up.pos {mode : RMode} (hd : mode.Drawn) {neg : Bool} {k : Nat} {t : ℚ} (h : mode.up neg k t) : 0 < t := by
  cases mode with
  | rne => rcases h with h | ⟨rfl, _⟩ <;> linarith
  | rz => exact h.elim
  | ru => exact h.2
  | rd => exact h.2
  | sr b =>
    have hb : (b : ℚ) < 65536 := by exact_mod_cast hd b rfl
    have hup : 1 ≤ t + b / 65536 := h
    linarith

theorem RMode.up_of_even_add (mode : RMode) (neg : Bool) {c : Nat} (hc : c % 2 = 0) (k : Nat) (t : ℚ) : mode.up neg (c + k) t ↔ mode.up neg k t := by
  cases mode <;> simp only [RMode.up, show (c + k) % 2 = k % 2 by omega]

/-- The model's test of a remainder `r` over `d` for rounding up. -/
def RMode.upBit (mode : RMode) (neg : Bool) (d k r : Nat) : Bool :=
  match mode with
  | .rne => decide (d < 2 * r) || (2 * r == d && k % 2 == 1)
  | .rz => false
  | .ru => !neg && r != 0
  | .rd => neg && r != 0
  | .sr b => decide (d * 65536 ≤ r * 65536 + b * d)

theorem RMode.upBit_iff (mode : RMode) (neg : Bool) {d : Nat} (hd : 0 < d) (k r : Nat) : mode.upBit neg d k r = true ↔ mode.up neg k (r / d) := by
  have hdQ : (0 : ℚ) < d := by exact_mod_cast hd
  have hpos : (0 : ℚ) < r / d ↔ r ≠ 0 := by
    rw [div_pos_iff_of_pos_right hdQ, Nat.cast_pos, Nat.pos_iff_ne_zero]
  cases mode with
  | rne =>
    have hlt : (1 : ℚ) / 2 < r / d ↔ d < 2 * r := by
      rw [div_lt_div_iff₀ two_pos hdQ, one_mul, mul_comm]
      exact_mod_cast Iff.rfl
    have heq : (r : ℚ) / d = 1 / 2 ↔ 2 * r = d := by
      rw [div_eq_div_iff hdQ.ne' two_ne_zero, one_mul, mul_comm]
      exact_mod_cast Iff.rfl
    simp only [RMode.upBit, RMode.up, hlt, heq]
    simp
  | rz => simp [RMode.upBit, RMode.up]
  | ru => simp only [RMode.upBit, RMode.up, hpos]; simp
  | rd => simp only [RMode.upBit, RMode.up, hpos]; simp
  | sr b =>
    have hle : (1 : ℚ) ≤ r / d + b / 65536 ↔ d * 65536 ≤ r * 65536 + b * d := by
      rw [div_add_div _ _ hdQ.ne' (by norm_num), le_div_iff₀ (by positivity), one_mul, mul_comm (d : ℚ) b]
      exact_mod_cast Iff.rfl
    simp [RMode.upBit, RMode.up, hle]

/-- The model's rounding below the last place is a quotient, or the next one. -/
theorem roundTo_of_lt {mode : RMode} {neg : Bool} {m : Nat} {e q : Int} (h : ¬ q ≤ e) :
    let d := 2 ^ (q - e).toNat
    roundTo mode neg m e q = (if mode.upBit neg d (m / d) (m % d) then m / d + 1 else m / d, m % d != 0) := by
  rw [roundTo, if_neg h]
  rfl

/-- The model's rounding to a multiple of 2^q: the quotient, or the next one when the mode rounds its remainder up. -/
theorem roundTo_cases {mode : RMode} (hd : mode.Drawn) (neg : Bool) (m : Nat) (e q : Int) :
    ∃ (k : Nat) (t : ℚ), 0 ≤ t ∧ t < 1 ∧ (m : ℚ) * 2 ^ e = (k + t) * 2 ^ q ∧
      ((roundTo mode neg m e q).1 = k ∧ ¬ mode.up neg k t ∨ (roundTo mode neg m e q).1 = k + 1 ∧ mode.up neg k t) ∧
      ((roundTo mode neg m e q).2 = true ↔ t ≠ 0) := by
  by_cases hqe : q ≤ e
  · refine ⟨m * 2 ^ (e - q).toNat, 0, le_rfl, one_pos, ?_, .inl ⟨?_, fun h => (h.pos hd).false⟩, ?_⟩
    · rw [add_zero, Nat.cast_mul, mul_assoc, two_zpow_natCast_sub hqe]
    · rw [roundTo, if_pos hqe]
    · simp [roundTo, if_pos hqe]
  · rw [roundTo_of_lt hqe]
    obtain ⟨d, hd2⟩ : ∃ d, d = 2 ^ (q - e).toNat := ⟨_, rfl⟩
    have hdpos : 0 < d := hd2 ▸ Nat.two_pow_pos _
    have hdQ : (0 : ℚ) < d := by exact_mod_cast hdpos
    have hlt : ((m % d : Nat) : ℚ) < d := by exact_mod_cast Nat.mod_lt m hdpos
    have hpow : (2 : ℚ) ^ q = d * 2 ^ e := by rw [hd2, two_zpow_natCast_sub (by omega)]
    have hsplit : (m : ℚ) = d * (m / d : Nat) + (m % d : Nat) := by exact_mod_cast (Nat.div_add_mod m d).symm
    have hup := mode.upBit_iff neg hdpos (m / d) (m % d)
    rw [← hd2]
    refine ⟨m / d, (m % d : Nat) / d, by positivity, (div_lt_one hdQ).2 hlt, ?_, ?_, by simp [hdpos.ne']⟩
    · rw [hpow]
      conv_lhs => rw [hsplit]
      field_simp
    · rw [← hup]
      dsimp only
      split_ifs with h
      · exact .inr ⟨rfl, h⟩
      · exact .inl ⟨rfl, h⟩

/-! ## A magnitude on its format's grid -/

/-- The exact magnitude `A` lies a fraction `t` of a quantum above code `j`, and `mag` is the neighbour that the mode takes. -/
structure Fmt.OnGrid (f : Fmt) (mode : RMode) (neg : Bool) (A : ℚ) (j mag : Nat) (t : ℚ) : Prop where
  nonneg : 0 ≤ t
  lt_one : t < 1
  eq : A = f.val j + t * 2 ^ f.quantum j
  mag_eq : mag = j ∧ ¬ mode.up neg j t ∨ mag = j + 1 ∧ mode.up neg j t

/-- R146: the model's test of tininess after rounding. -/
def Fmt.tinyBit (f : Fmt) (mode : RMode) (neg : Bool) (m : Nat) (e : Int) : Bool :=
  let l : Int := (m.log2 : Int) + e
  decide (l < f.emin) && !(l + 1 == f.emin && (roundTo mode neg m e (l - f.p + 1)).1 == 2 ^ f.p)

/-- R145: whether an overflow gives an infinity in a mode, if the format has one. -/
def RMode.toInf (mode : RMode) (neg : Bool) : Bool :=
  match mode with | .rne => true | .rz => false | .ru => !neg | .rd => neg | .sr _ => true

/-- R145: what stands for an infinity: a format without one has its NaN in its place. -/
def Fmt.infCode (f : Fmt) (neg : Bool) : Nat := match f.inf with | some i => f.code neg i | none => f.nan

theorem overflowCode_eq (f : Fmt) (mode : RMode) (sat neg : Bool) {A : ℚ} (hA : 0 < A) :
    overflowCode f mode sat (sgn neg * A) = if sat || !mode.toInf neg then f.code neg f.maxCode else f.infCode neg := by
  have hneg : sgn neg * A < 0 ↔ neg = true := by cases neg <;> simp [hA, hA.le]
  have hpos : 0 < sgn neg * A ↔ neg = false := by cases neg <;> simp [hA, hA.le]
  have hwhen : (sat = true ∨ mode = .rz ∨ (mode = .ru ∧ neg = true) ∨ (mode = .rd ∧ neg = false)) ↔ (sat || !mode.toInf neg) = true := by
    cases mode <;> simp [RMode.toInf]
  unfold overflowCode Fmt.infCode
  simp only [hneg, hpos, hwhen, signed_eq_code, Bool.decide_eq_true] <;> rfl

/-- A nonzero value rounded to a format: the neighbour that the mode takes, or an overflow. -/
theorem Fmt.Sound.round_eq {f : Fmt} (hf : f.Sound) {mode : RMode} (hd : mode.Drawn) (sat neg : Bool) {m : Nat} (hm : m ≠ 0) (e : Int) :
    ∃ (j mag : Nat) (t : ℚ), f.OnGrid mode neg (m * 2 ^ e) j mag t ∧ f.quantum j = max (Int.log 2 ((m : ℚ) * 2 ^ e)) f.emin - f.p + 1 ∧
      f.round mode sat neg m e =
        if f.maxCode < mag then (overflowCode f mode sat (sgn neg * (m * 2 ^ e)), flagOF ||| flagNX)
        else (f.code neg mag, flagIf (f.tinyBit mode neg m e && decide (t ≠ 0)) flagUF ||| flagIf (decide (t ≠ 0)) flagNX) := by
  have hp := hf.two_le_p
  obtain ⟨hlo, hhi⟩ := log2_zpow_bounds hm e
  have hlog := int_log_dyadic hm e
  have hA : 0 < (m : ℚ) * 2 ^ e := by have := two_zpow_pos e; positivity
  obtain ⟨l, hl⟩ : ∃ l : Int, l = m.log2 + e := ⟨_, rfl⟩
  rw [← hl] at hlo hhi hlog
  obtain ⟨q, hq⟩ : ∃ q : Int, q = (if l < f.emin then f.emin else l) - f.p + 1 := ⟨_, rfl⟩
  have hqmax : q = max l f.emin - f.p + 1 := by rw [hq]; split_ifs <;> omega
  obtain ⟨s, hs⟩ : ∃ s : Nat, s = (q - (f.emin - f.p + 1)).toNat := ⟨_, rfl⟩
  have hqs : q = s + (f.emin - f.p + 1) := by omega
  obtain ⟨k, t, ht0, ht1, hval, hup, hinexact⟩ := roundTo_cases hd neg m e q
  have hQ := two_zpow_pos q
  have hk : k < 2 * 2 ^ (f.p - 1) := by
    have h1 : (k : ℚ) * 2 ^ q < 2 ^ (((f.p - 1 : Nat) : Int) + 1) * 2 ^ q := by
      rw [← zpow_add₀ two_ne_zero]
      calc (k : ℚ) * 2 ^ q ≤ (k + t) * 2 ^ q := by nlinarith
        _ < 2 ^ (l + 1) := hval ▸ hhi
        _ ≤ _ := zpow_le_zpow_right₀ one_le_two (by omega)
    have h2 := lt_of_mul_lt_mul_right h1 hQ.le
    rw [zpow_add_one₀ two_ne_zero, zpow_natCast, mul_comm] at h2
    exact_mod_cast h2
  have hsk : s = 0 ∨ 2 ^ (f.p - 1) ≤ k := by
    refine or_iff_not_imp_left.2 fun hs0 => ?_
    have h1 : (2 : ℚ) ^ ((f.p - 1 : Nat) : Int) * 2 ^ q < (k + 1) * 2 ^ q := by
      rw [← zpow_add₀ two_ne_zero]
      calc (2 : ℚ) ^ (((f.p - 1 : Nat) : Int) + q) ≤ 2 ^ l := zpow_le_zpow_right₀ one_le_two (by omega)
        _ ≤ (k + t) * 2 ^ q := hval ▸ hlo
        _ < (k + 1) * 2 ^ q := by nlinarith
    have h2 := lt_of_mul_lt_mul_right h1 hQ.le
    rw [zpow_natCast] at h2
    exact Nat.lt_succ_iff.1 (by exact_mod_cast h2)
  have heven : s * 2 ^ (f.p - 1) % 2 = 0 := by
    rw [show f.p - 1 = (f.p - 2) + 1 by omega, pow_succ, ← mul_assoc]
    exact Nat.mul_mod_left ..
  have hquantum : f.quantum (s * 2 ^ (f.p - 1) + k) = q := by rw [Fmt.quantum_grid hk hsk, hqs]
  refine ⟨s * 2 ^ (f.p - 1) + k, s * 2 ^ (f.p - 1) + (roundTo mode neg m e q).1, t, ⟨ht0, ht1, ?_, ?_⟩, ?_, ?_⟩
  · rw [hquantum, hval, Fmt.val_grid hk hsk, ← hqs]
    ring
  · rw [mode.up_of_even_add neg heven]
    rcases hup with ⟨h, hn⟩ | ⟨h, hu⟩
    · exact .inl ⟨by rw [h], hn⟩
    · exact .inr ⟨by rw [h, add_assoc], hu⟩
  · rw [hquantum, hlog, hqmax]
  · have hbool : (roundTo mode neg m e q).2 = decide (t ≠ 0) := by rw [Bool.eq_iff_iff, hinexact, decide_eq_true_iff]
    rw [overflowCode_eq f mode sat neg hA, ← hbool]
    unfold Fmt.round
    dsimp only
    rw [← hl, ← hq, ← hs]
    rw [Fmt.tinyBit, ← hl]
    rfl

end Sys2Proof.Machine

/-! SUPPORT. That the model's rounding is the rounding of R144 to R147: overflow, tininess, and the nearest and directed results. -/

namespace Sys2Proof.Machine
open Sys2Proof

/-- The binary exponent of a normal magnitude code. -/
theorem Fmt.Sound.log_val {f : Fmt} (hf : f.Sound) {k : Nat} (hk : 2 ^ (f.p - 1) ≤ k) : Int.log 2 (f.val k) = f.quantum k + f.p - 1 := by
  have hp := hf.two_le_p
  obtain ⟨s, n, rfl, hn, hs⟩ := f.exists_grid k
  have hlow : 2 ^ (f.p - 1) ≤ n := hs.elim (fun h => by subst h; omega) id
  have h1 : (2 : ℚ) ^ (f.p - 1) ≤ n := by exact_mod_cast hlow
  have h2 : (n : ℚ) < 2 * 2 ^ (f.p - 1) := by exact_mod_cast hn
  rw [Fmt.val_grid hn hs, Fmt.quantum_grid hn hs]
  generalize (s : Int) + (f.emin - f.p + 1) = q
  have hQ := two_zpow_pos q
  refine int_log_eq ?_ ?_
  · rw [show q + f.p - 1 = ((f.p - 1 : Nat) : Int) + q by omega, zpow_add₀ two_ne_zero, zpow_natCast]
    exact mul_le_mul_of_nonneg_right h1 hQ.le
  · rw [show q + f.p - 1 + 1 = ((f.p - 1 : Nat) : Int) + 1 + q by omega, zpow_add₀ two_ne_zero, zpow_add_one₀ two_ne_zero, zpow_natCast]
    exact mul_lt_mul_of_pos_right (by linarith) hQ

section
variable {f : Fmt} {mode : RMode} {neg : Bool} {A : ℚ} {j mag : Nat} {t : ℚ}

/-! ## The neighbours of a magnitude -/

theorem Fmt.OnGrid.val_le (h : f.OnGrid mode neg A j mag t) : f.val j ≤ A := by
  have := mul_nonneg h.nonneg (two_zpow_pos (f.quantum j)).le
  linarith [h.eq]

theorem Fmt.OnGrid.lt_val_succ (h : f.OnGrid mode neg A j mag t) : A < f.val (j + 1) := by
  rw [f.val_succ, h.eq]
  have := mul_lt_mul_of_pos_right h.lt_one (two_zpow_pos (f.quantum j))
  linarith

/-- Every code lies at or below the lower neighbour, or at or above the upper one. -/
theorem Fmt.val_le_or_succ_le (f : Fmt) (j k : Nat) : f.val k ≤ f.val j ∨ f.val (j + 1) ≤ f.val k :=
  (le_or_gt k j).imp (fun h => f.val_strictMono.monotone h) (fun h => f.val_strictMono.monotone h)

theorem Fmt.OnGrid.exact_iff (h : f.OnGrid mode neg A j mag t) (hd : mode.Drawn) : f.val mag = A ↔ t = 0 := by
  have hQ := two_zpow_pos (f.quantum j)
  rcases h.mag_eq with ⟨rfl, _⟩ | ⟨rfl, hup⟩
  · rw [h.eq]
    simp [hQ.ne']
  · exact iff_of_false h.lt_val_succ.ne' (hup.pos hd).ne'

/-! ## Overflow (R145) -/

theorem Fmt.Sound.magOf_max (hf : f.Sound) : f.magOf f.maxCode = f.maxCode := Nat.mod_eq_of_lt hf.max_lt

theorem Fmt.Sound.codeValue_max (hf : f.Sound) : codeValue f f.maxCode = f.val f.maxCode := by
  have h := hf.codeValue_code hf.max_lt false
  simpa [Fmt.code] using h

/-- The exact magnitude of a stochastic result. -/
theorem Fmt.OnGrid.floor_eq {b : Nat} (h : f.OnGrid (.sr b) neg A j mag t) (hb : b < 65536)
    (hq : f.quantum j = max (Int.log 2 A) f.emin - f.p + 1) :
    let q := (2 : ℚ) ^ (max (Int.log 2 A) f.emin - f.p + 1)
    ⌊(A + b * q / 65536) / q⌋ * q = f.val mag := by
  have hQ := two_zpow_pos (f.quantum j)
  intro q
  have hqdef : q = 2 ^ f.quantum j := by rw [hq]
  obtain ⟨n, hn⟩ : ∃ n : Nat, f.val j = n * q := ⟨_, by rw [hqdef]; rfl⟩
  have hbQ : (b : ℚ) < 65536 := by exact_mod_cast hb
  have hb0 : (0 : ℚ) ≤ b := b.cast_nonneg
  have hsplit : (A + b * q / 65536) / q = n + (t + b / 65536) := by
    have hq0 : q ≠ 0 := hqdef ▸ hQ.ne'
    rw [h.eq, hn, ← hqdef]
    field_simp
    ring
  have ht0 := h.nonneg
  have ht1 := h.lt_one
  rw [hsplit]
  rcases h.mag_eq with ⟨rfl, hup⟩ | ⟨rfl, hup⟩
  · have hlt : t + b / 65536 < 1 := not_le.1 hup
    have hfloor : ⌊(n : ℚ) + (t + b / 65536)⌋ = n := Int.floor_eq_iff.2 ⟨by push_cast; linarith [div_nonneg hb0 (by norm_num : (0:ℚ) ≤ 65536)], by push_cast; linarith⟩
    rw [hfloor, hn]
    push_cast
    ring
  · have hge : 1 ≤ t + b / 65536 := hup
    have hfloor : ⌊(n : ℚ) + (t + b / 65536)⌋ = n + 1 := Int.floor_eq_iff.2 ⟨by push_cast; linarith, by push_cast; linarith⟩
    rw [hfloor, f.val_succ, hn, ← hqdef]
    push_cast
    ring

/-- A neighbour lies beyond the greatest finite code when the magnitude does by a quantum, or is rounded up from that code. -/
theorem Fmt.OnGrid.max_lt_iff (h : f.OnGrid mode neg A j mag t) :
    f.maxCode < mag ↔ f.val f.maxCode + 2 ^ f.quantum f.maxCode ≤ A ∨
      (f.val f.maxCode ≤ A ∧ mode.up neg f.maxCode ((A - f.val f.maxCode) / 2 ^ f.quantum f.maxCode)) := by
  have hQ := two_zpow_pos (f.quantum f.maxCode)
  have hmag := h.mag_eq
  rcases lt_trichotomy j f.maxCode with hlt | rfl | hgt
  · have hA := h.lt_val_succ.trans_le (f.val_strictMono.monotone hlt)
    refine iff_of_false (by omega) ?_
    rintro (hle | ⟨hle, _⟩) <;> linarith
  · have hlt : ¬ f.val f.maxCode + 2 ^ f.quantum f.maxCode ≤ A := by
      rw [← f.val_succ]
      exact not_le.2 h.lt_val_succ
    have ht : (A - f.val f.maxCode) / 2 ^ f.quantum f.maxCode = t := by
      rw [h.eq]
      field_simp
      ring
    rw [ht, or_iff_right hlt, and_iff_right h.val_le]
    rcases hmag with ⟨rfl, hup⟩ | ⟨rfl, hup⟩
    · simp [hup]
    · simp [hup]
  · refine iff_of_true (by omega) (.inl ?_)
    rw [← f.val_succ]
    exact (f.val_strictMono.monotone hgt).trans h.val_le

/-- R145: a result overflows exactly when its neighbour lies beyond the greatest finite code. -/
theorem Fmt.Sound.overflows_iff (hf : f.Sound) (hd : mode.Drawn) (hA : 0 < A) (h : f.OnGrid mode neg A j mag t)
    (hq : f.quantum j = max (Int.log 2 A) f.emin - f.p + 1) : overflows f mode (sgn neg * A) ↔ f.maxCode < mag := by
  have habs : |sgn neg * A| = A := by rw [abs_mul, abs_sgn, one_mul, abs_of_pos hA]
  have hulp : Int.log 2 (f.val f.maxCode) - f.p + 1 = f.quantum f.maxCode := by
    rw [hf.log_val hf.half_le_max]
    ring
  have hQ := two_zpow_pos (f.quantum f.maxCode)
  have htop : 0 ≤ f.val f.maxCode := f.val_nonneg _
  cases mode with
  | sr b =>
    unfold overflows
    simp only [habs, hf.codeValue_max]
    rw [h.floor_eq (hd b rfl) hq, f.val_strictMono.lt_iff_lt]
  | rne =>
    rw [h.max_lt_iff]
    unfold overflows RMode.up
    simp only [habs, hf.codeValue_max, hulp, lt_div_iff₀ hQ, div_eq_iff hQ.ne']
    generalize (2 : ℚ) ^ f.quantum f.maxCode = q at *
    constructor
    · rintro (hlt | ⟨heq, hodd⟩)
      · exact .inr ⟨by linarith, .inl (by linarith)⟩
      · exact .inr ⟨by linarith, .inr ⟨by linarith, hodd⟩⟩
    · rintro (hle | ⟨hle, hlt | ⟨heq, hodd⟩⟩)
      · exact .inl (by linarith)
      · exact .inl (by linarith)
      · exact .inr ⟨by linarith, hodd⟩
  | rz =>
    rw [h.max_lt_iff]
    unfold overflows RMode.up
    simp only [habs, hf.codeValue_max, hulp, and_false, or_false]
  | ru =>
    rw [h.max_lt_iff]
    unfold overflows RMode.up
    simp only [hf.codeValue_max, hulp, div_pos_iff_of_pos_right hQ]
    cases neg <;> simp only [sgn_true, sgn_false] <;> constructor
    · rintro (hlt | hle)
      · exact .inr ⟨hlt.le.trans_eq (one_mul A), trivial, by linarith⟩
      · linarith
    · rintro (hle | ⟨hle, _, hlt⟩) <;> exact .inl (by linarith)
    · rintro (hlt | hle)
      · linarith
      · exact .inl (by linarith)
    · rintro (hle | ⟨_, hno, _⟩)
      · exact .inr (by linarith)
      · cases hno
  | rd =>
    rw [h.max_lt_iff]
    unfold overflows RMode.up
    simp only [hf.codeValue_max, hulp, div_pos_iff_of_pos_right hQ]
    cases neg <;> simp only [sgn_true, sgn_false] <;> constructor
    · rintro (hlt | hle)
      · linarith
      · exact .inl (by linarith)
    · rintro (hle | ⟨_, hno, _⟩)
      · exact .inr (by linarith)
      · cases hno
    · rintro (hlt | hle)
      · exact .inr ⟨by linarith, trivial, by linarith⟩
      · linarith
    · rintro (hle | ⟨hle, _, hlt⟩) <;> exact .inl (by linarith)

/-! ## The nearest and the directed results (R144) -/

/-- RNE: no code's magnitude is nearer, and of two equally near the even one is taken. -/
theorem Fmt.OnGrid.nearest (h : f.OnGrid .rne neg A j mag t) (k : Nat) :
    |A - f.val mag| ≤ |A - f.val k| ∧ (|A - f.val mag| = |A - f.val k| → f.val mag = f.val k ∨ mag % 2 = 0) := by
  have hle := h.val_le
  have hlt := h.lt_val_succ
  have hsucc := f.val_succ j
  have heq := h.eq
  have hQ := two_zpow_pos (f.quantum j)
  generalize (2 : ℚ) ^ f.quantum j = q at *
  rcases h.mag_eq with ⟨rfl, hup⟩ | ⟨rfl, hup⟩
  · -- rounded down: the remainder is at most a half, and an odd code has less
    obtain ⟨hhalf, heven⟩ : t ≤ 1 / 2 ∧ (t = 1 / 2 → mag % 2 = 0) :=
      ⟨not_lt.1 fun hlt => hup (.inl hlt), fun ht => by have : ¬ mag % 2 = 1 := fun ho => hup (.inr ⟨ht, ho⟩); omega⟩
    rw [abs_of_nonneg (by linarith : 0 ≤ A - f.val mag)]
    rcases f.val_le_or_succ_le mag k with hk | hk
    · rw [abs_of_nonneg (by linarith : 0 ≤ A - f.val k)]
      exact ⟨by linarith, fun he => .inl (by linarith)⟩
    · rw [abs_of_neg (by linarith : A - f.val k < 0)]
      refine ⟨by nlinarith, fun he => .inr (heven (le_antisymm hhalf ?_))⟩
      by_contra hlt
      nlinarith
  · -- rounded up: the remainder is at least a half, and an even code has more
    obtain ⟨hhalf, hodd⟩ : 1 / 2 ≤ t ∧ (t = 1 / 2 → j % 2 = 1) := by
      rcases hup with hup | ⟨ht, ho⟩
      · exact ⟨hup.le, fun ht => absurd ht hup.ne'⟩
      · exact ⟨ht.ge, fun _ => ho⟩
    rw [abs_of_neg (by linarith : A - f.val (j + 1) < 0)]
    rcases f.val_le_or_succ_le j k with hk | hk
    · rw [abs_of_nonneg (by linarith : 0 ≤ A - f.val k)]
      refine ⟨by nlinarith, fun he => .inr ?_⟩
      have ht : t = 1 / 2 := le_antisymm (by by_contra hlt; nlinarith) hhalf
      have := hodd ht
      omega
    · rw [abs_of_neg (by linarith : A - f.val k < 0)]
      exact ⟨by linarith, fun he => .inl (by linarith)⟩

/-- The lower neighbour is the greatest code at or below. -/
theorem Fmt.OnGrid.below (h : f.OnGrid mode neg A j mag t) (hup : ¬ mode.up neg j t) : f.val mag ≤ A ∧ ∀ k, f.val k ≤ A → f.val k ≤ f.val mag := by
  obtain ⟨rfl, _⟩ := h.mag_eq.resolve_right fun hu => hup hu.2
  refine ⟨h.val_le, fun k hk => (f.val_le_or_succ_le mag k).resolve_right fun hs => ?_⟩
  linarith [h.lt_val_succ]

/-- The neighbour away from zero is the least code at or above. -/
theorem Fmt.OnGrid.above (h : f.OnGrid mode neg A j mag t) (hup : mode.up neg j t ↔ 0 < t) : A ≤ f.val mag ∧ ∀ k, A ≤ f.val k → f.val mag ≤ f.val k := by
  rcases h.mag_eq with ⟨rfl, hu⟩ | ⟨rfl, hu⟩
  · have ht : t = 0 := le_antisymm (not_lt.1 fun ht => hu (hup.2 ht)) h.nonneg
    have heq : A = f.val mag := by rw [h.eq, ht]; ring
    exact ⟨heq.le, fun k hk => heq ▸ hk⟩
  · refine ⟨h.lt_val_succ.le, fun k hk => (f.val_le_or_succ_le j k).resolve_left fun hj => ?_⟩
    have := mul_pos (hup.1 hu) (two_zpow_pos (f.quantum j))
    linarith [h.eq]

theorem Fmt.OnGrid.le_of_below (h : f.OnGrid mode neg A j mag t) (hup : ¬ mode.up neg j t) {v : ℚ} {k : Nat} (hv : |v| = f.val k) (hle : v ≤ A) :
    v ≤ f.val mag := by
  rcases le_or_gt v 0 with h0 | h0
  · exact h0.trans (f.val_nonneg mag)
  · rw [abs_of_pos h0] at hv
    exact hv ▸ (h.below hup).2 k (hv ▸ hle)

theorem Fmt.OnGrid.le_of_above (h : f.OnGrid mode neg A j mag t) (hA : 0 < A) (hup : mode.up neg j t ↔ 0 < t) {v : ℚ} {k : Nat} (hv : |v| = f.val k)
    (hle : A ≤ v) : f.val mag ≤ v := by
  rw [abs_of_pos (hA.trans_le hle)] at hv
  exact hv ▸ (h.above hup).2 k (hv ▸ hle)

/-- R144, R147: the neighbour that the mode takes is the value rounded by it. -/
theorem Fmt.Sound.rounded_code (hf : f.Sound) (hd : mode.Drawn) (hA : 0 < A) (h : f.OnGrid mode neg A j mag t)
    (hq : f.quantum j = max (Int.log 2 A) f.emin - f.p + 1) (hmax : mag ≤ f.maxCode) : rounded f mode (sgn neg * A) (f.code neg mag) := by
  have hlt : mag < 2 ^ (f.width - 1) := hmax.trans_lt hf.max_lt
  have habs : |sgn neg * A| = A := by rw [abs_mul, abs_sgn, one_mul, abs_of_pos hA]
  have hval := hf.codeValue_code hlt neg
  have habsVal : |codeValue f (f.code neg mag)| = f.val mag := by rw [hf.abs_codeValue, Fmt.magOf_code hlt]
  have hnonneg : ∀ k, 0 ≤ f.val k := f.val_nonneg
  refine ⟨?_, hf.code_lt hlt neg, ?_, ?_⟩
  · show f.magOf _ ≤ _
    rw [Fmt.magOf_code hlt]
    exact hmax
  · show f.negOf _ = true ↔ _
    rw [Fmt.negOf_code hlt]
    cases neg <;> simp [hA, hA.le]
  cases mode with
  | rne =>
    have hdist : |sgn neg * A - codeValue f (f.code neg mag)| = |A - f.val mag| := by
      rw [hval, ← mul_sub, abs_mul, abs_sgn, one_mul]
    intro k _
    have hfar : |A - f.val (f.magOf k)| ≤ |sgn neg * A - codeValue f k| := by
      have := abs_abs_sub_abs_le (sgn neg * A) (codeValue f k)
      rwa [habs, hf.abs_codeValue] at this
    obtain ⟨hle, htie⟩ := h.nearest (f.magOf k)
    rw [hdist]
    refine ⟨hle.trans hfar, fun heq => ?_⟩
    rcases htie (le_antisymm hle (hfar.trans heq.ge)) with hsame | heven
    · left
      rw [hval, hf.codeValue_eq k, ← hsame]
      rw [hf.codeValue_eq k, ← hsame] at heq
      have hmag0 := hnonneg mag
      -- with the other sign it would be as near only if it were zero
      by_cases hneg : f.negOf k = neg
      · rw [hneg]
      · have hopp : sgn (f.negOf k) = -sgn neg := by revert hneg; cases f.negOf k <;> cases neg <;> simp
        have hsum : |sgn neg * A - -sgn neg * f.val mag| = A + f.val mag := by
          rw [show sgn neg * A - -sgn neg * f.val mag = sgn neg * (A + f.val mag) by ring, abs_mul, abs_sgn, one_mul, abs_of_pos (by linarith)]
        rw [hopp, hsum] at heq
        have hzero : f.val mag = 0 := by rcases abs_cases (A - f.val mag) with ⟨he, _⟩ | ⟨he, _⟩ <;> linarith
        simp [hzero]
    · right
      have h2 : 2 ^ (f.width - 1) % 2 = 0 := by
        have := hf.two_le_p
        have := hf.p_lt_width
        rw [show f.width - 1 = f.width - 2 + 1 by omega, pow_succ]
        exact Nat.mul_mod_left ..
      unfold Fmt.code
      split_ifs <;> omega
  | rz =>
    obtain ⟨hle, hmost⟩ := h.below (fun h => h)
    simp only [habs, habsVal]
    refine ⟨hle, fun k _ => ?_⟩
    rw [hf.abs_codeValue]
    exact hmost _
  | ru =>
    simp only [hval]
    cases neg with
    | false =>
      simp only [sgn_false, one_mul]
      have hup : RMode.up .ru false j t ↔ 0 < t := and_iff_right rfl
      exact ⟨(h.above hup).1, fun k _ hk => h.le_of_above hA hup (hf.abs_codeValue k) hk⟩
    | true =>
      simp only [sgn_true, neg_one_mul]
      have hup : ¬ RMode.up .ru true j t := fun hu => Bool.noConfusion hu.1
      exact ⟨neg_le_neg (h.below hup).1, fun k _ hk =>
        neg_le.1 (h.le_of_below hup ((abs_neg _).trans (hf.abs_codeValue k)) (neg_le.1 hk))⟩
  | rd =>
    simp only [hval]
    cases neg with
    | false =>
      simp only [sgn_false, one_mul]
      have hup : ¬ RMode.up .rd false j t := fun hu => Bool.noConfusion hu.1
      exact ⟨(h.below hup).1, fun k _ hk => h.le_of_below hup (hf.abs_codeValue k) hk⟩
    | true =>
      simp only [sgn_true, neg_one_mul]
      have hup : RMode.up .rd true j t ↔ 0 < t := and_iff_right rfl
      exact ⟨neg_le_neg (h.above hup).1, fun k _ hk =>
        le_neg.1 (h.le_of_above hA hup ((abs_neg _).trans (hf.abs_codeValue k)) (le_neg.1 hk))⟩
  | sr b =>
    simp only [habs, habsVal]
    exact (h.floor_eq (hd b rfl) hq).symm

end

end Sys2Proof.Machine

/-! SUPPORT. Underflow (R146), and the model's rounding as R144 to R146 state it. -/

namespace Sys2Proof.Machine
open Sys2Proof

/-! ## Tininess (R146) -/

section
variable {f : Fmt} {mode : RMode} {neg : Bool} {A : ℚ}

/-- R146: tininess as a bound on the magnitude alone. -/
def RMode.leavesBelow (mode : RMode) (neg : Bool) (low q A : ℚ) : Prop :=
  match mode with
  | .rne => A < low - q / 2
  | .rz => A < low
  | .ru => if neg then A < low else A ≤ low - q
  | .rd => if neg then A ≤ low - q else A < low
  | .sr _ => False

theorem tiny_iff (hA : 0 < A) : tiny f mode (sgn neg * A) ↔ mode.leavesBelow neg (2 ^ f.emin) (2 ^ (f.emin - f.p)) A := by
  have habs : |sgn neg * A| = A := by rw [abs_mul, abs_sgn, one_mul, abs_of_pos hA]
  unfold tiny RMode.leavesBelow
  simp only [habs]
  cases mode <;> cases neg <;> simp [hA, hA.not_gt]

/-- On a grid of N quanta q up to `low`, the last of them is where the mode decides. -/
theorem RMode.leavesBelow_iff (hmode : ∀ r, mode ≠ .sr r) {q t : ℚ} (hq : 0 < q) {N k : Nat} (heven : N % 2 = 0) (hk : k < N) (ht1 : t < 1) :
    mode.leavesBelow neg (N * q) q ((k + t) * q) ↔ ¬ (k + 1 = N ∧ mode.up neg k t) := by
  have hbelow : (k + t) * q < N * q := by
    have : (k : ℚ) + 1 ≤ N := by exact_mod_cast hk
    exact mul_lt_mul_of_pos_right (by linarith) hq
  by_cases hlast : k + 1 = N
  · have hN : (N : ℚ) = k + 1 := by exact_mod_cast hlast.symm
    have hodd : k % 2 = 1 := by omega
    have hfull : (k + t) * q ≤ N * q - q ↔ t ≤ 0 := by
      rw [hN, show (k + 1) * q - q = k * q by ring, mul_le_mul_iff_left₀ hq]
      exact add_le_iff_nonpos_right _
    rw [and_iff_right hlast]
    cases mode with
    | sr r => exact absurd rfl (hmode r)
    | rne =>
      simp only [leavesBelow, up, hodd, and_true, hN, not_or, not_lt]
      constructor
      · intro hlt
        have : t < 1 / 2 := by by_contra hge; nlinarith
        exact ⟨this.le, this.ne⟩
      · rintro ⟨hle, hne⟩
        have := lt_of_le_of_ne hle hne
        nlinarith
    | rz => simpa [leavesBelow, up] using hbelow
    | ru =>
      cases neg
      · simpa [leavesBelow, up] using hfull
      · simpa [leavesBelow, up] using hbelow
    | rd =>
      cases neg
      · simpa [leavesBelow, up] using hbelow
      · simpa [leavesBelow, up] using hfull
  · have hN : (k : ℚ) + 2 ≤ N := by exact_mod_cast (by omega : k + 2 ≤ N)
    refine iff_of_true ?_ fun h => hlast h.1
    have hfar : (k + t) * q ≤ N * q - q := by nlinarith
    cases mode with
    | sr r => exact absurd rfl (hmode r)
    | rne => simp only [leavesBelow]; linarith
    | rz => exact hbelow
    | _ => simp only [leavesBelow]; split_ifs <;> assumption

/-- R146: the model finds a value tiny when a grid one binade below the normal numbers does not round it up to the least of them. -/
theorem Fmt.Sound.tinyBit_iff (hf : f.Sound) (hd : mode.Drawn) (hmode : ∀ r, mode ≠ .sr r) {m : Nat} (hm : m ≠ 0) (e : Int) :
    f.tinyBit mode neg m e = true ↔ tiny f mode (sgn neg * (m * 2 ^ e)) := by
  have hp := hf.two_le_p
  obtain ⟨hlo, hhi⟩ := log2_zpow_bounds hm e
  have hA : 0 < (m : ℚ) * 2 ^ e := by have := two_zpow_pos e; positivity
  obtain ⟨l, hl⟩ : ∃ l : Int, l = m.log2 + e := ⟨_, rfl⟩
  have hQ := two_zpow_pos (f.emin - f.p)
  have hlowQ : (2 : ℚ) ^ f.emin = 2 ^ f.p * 2 ^ (f.emin - f.p) := by
    rw [← zpow_natCast, ← zpow_add₀ two_ne_zero]
    congr 1
    ring
  rw [tiny_iff hA, Fmt.tinyBit]
  rw [← hl] at hlo hhi ⊢
  rcases lt_trichotomy (l + 1) f.emin with hlt | heq | hgt
  · refine iff_of_true (by simp [hlt.ne]; omega) ?_
    have hA2 : (m : ℚ) * 2 ^ e < 2 ^ (f.emin - 1) := hhi.trans_le (zpow_le_zpow_right₀ one_le_two (by omega))
    have hhalf : (2 : ℚ) ^ f.emin = 2 * 2 ^ (f.emin - 1) := by rw [mul_comm, ← zpow_add_one₀ two_ne_zero, sub_add_cancel]
    have hq : (2 : ℚ) ^ (f.emin - f.p) ≤ 2 ^ (f.emin - 1) := zpow_le_zpow_right₀ one_le_two (by omega)
    unfold RMode.leavesBelow
    cases mode with
    | sr r => exact absurd rfl (hmode r)
    | rne => dsimp only; linarith
    | rz => dsimp only; linarith
    | _ => dsimp only; split_ifs <;> linarith
  · obtain ⟨k, t, ht0, ht1, hval, hup, _⟩ := roundTo_cases hd neg m e (l - f.p + 1)
    rw [show l - f.p + 1 = f.emin - f.p by omega] at hval hup ⊢
    have hk : k < 2 ^ f.p := by
      have h1 : (k : ℚ) * 2 ^ (f.emin - f.p) < 2 ^ f.p * 2 ^ (f.emin - f.p) := by
        rw [hval, heq, hlowQ] at hhi
        linarith [mul_nonneg ht0 hQ.le]
      exact_mod_cast lt_of_mul_lt_mul_right h1 hQ.le
    have heven : 2 ^ f.p % 2 = 0 := by
      rw [show f.p = f.p - 1 + 1 by omega, pow_succ]
      exact Nat.mul_mod_left ..
    have hreach : (roundTo mode neg m e (f.emin - f.p)).1 = 2 ^ f.p ↔ k + 1 = 2 ^ f.p ∧ mode.up neg k t := by
      rcases hup with ⟨h, hu⟩ | ⟨h, hu⟩ <;> rw [h]
      · exact iff_of_false hk.ne fun hx => hu hx.2
      · exact (and_iff_left hu).symm
    have hbit : (decide (l < f.emin) && !(l + 1 == f.emin && (roundTo mode neg m e (f.emin - f.p)).1 == 2 ^ f.p)) = true ↔
        ¬ (k + 1 = 2 ^ f.p ∧ mode.up neg k t) := by
      rw [← hreach]
      simp [heq]
      omega
    rw [hbit, hval, hlowQ]
    exact_mod_cast (RMode.leavesBelow_iff hmode hQ heven hk ht1).symm
  · refine iff_of_false (by simp; omega) ?_
    have hA2 : (2 : ℚ) ^ f.emin ≤ m * 2 ^ e := (zpow_le_zpow_right₀ one_le_two (by omega)).trans hlo
    unfold RMode.leavesBelow
    cases mode with
    | sr r => exact absurd rfl (hmode r)
    | rne => dsimp only; linarith
    | rz => dsimp only; linarith
    | _ => dsimp only; split_ifs <;> linarith

end

/-! ## The rounded result and its flags -/

theorem flags_of_normal (u x : Bool) : (flagIf u flagUF ||| flagIf x flagNX).getLsbD 0 = false ∧ (flagIf u flagUF ||| flagIf x flagNX).getLsbD 1 = false ∧
    (flagIf u flagUF ||| flagIf x flagNX).getLsbD 2 = false ∧ (flagIf u flagUF ||| flagIf x flagNX).getLsbD 3 = u ∧
    (flagIf u flagUF ||| flagIf x flagNX).getLsbD 4 = x := by revert u x; decide

/-- R144 to R146: the model's rounding of a nonzero value m × 2^e. -/
theorem Fmt.Sound.round_roundsTo {f : Fmt} (hf : f.Sound) {mode : RMode} (hd : mode.Drawn) (sat neg : Bool) {m : Nat} (hm : m ≠ 0) (e : Int) :
    roundsTo f mode sat (sgn neg * (m * 2 ^ e)) (f.round mode sat neg m e).1 (f.round mode sat neg m e).2 := by
  have hA : 0 < (m : ℚ) * 2 ^ e := by have := two_zpow_pos e; positivity
  obtain ⟨j, mag, t, hgrid, hq, hround⟩ := hf.round_eq hd sat neg hm e
  have hover := hf.overflows_iff hd hA hgrid hq
  unfold roundsTo
  rw [hround, hover]
  refine ⟨fun hlt => by rw [if_pos hlt]; exact ⟨rfl, rfl⟩, fun hle => ?_⟩
  rw [if_neg hle]
  obtain ⟨h0, h1, h2, h3, h4⟩ := flags_of_normal (f.tinyBit mode neg m e && decide (t ≠ 0)) (decide (t ≠ 0))
  have hmax := not_lt.1 hle
  have hexact : codeValue f (f.code neg mag) ≠ sgn neg * (m * 2 ^ e) ↔ t ≠ 0 := by
    rw [hf.codeValue_code (hmax.trans_lt hf.max_lt), Ne, mul_right_inj' (sgn_ne_zero neg), hgrid.exact_iff hd]
  refine ⟨hf.rounded_code hd hA hgrid hq hmax, h0, h1, h2, fun hmode => ?_, ?_⟩
  · rw [h3, Bool.and_eq_true, hf.tinyBit_iff hd hmode hm, decide_eq_true_iff, hexact]
  · rw [h4, decide_eq_true_iff, hexact]

theorem Fmt.Sound.infCode_lt {f : Fmt} (hf : f.Sound) (neg : Bool) : f.infCode neg < 2 ^ f.width := by
  unfold Fmt.infCode
  split
  · rename_i i hi
    exact hf.code_lt (hf.inf_eq i hi).2 neg
  · exact hf.nan_lt

theorem Fmt.Sound.overflowCode_lt {f : Fmt} (hf : f.Sound) (mode : RMode) (sat : Bool) (x : ℚ) : overflowCode f mode sat x < 2 ^ f.width := by
  unfold overflowCode
  simp only [signed_eq_code]
  split_ifs
  · exact hf.code_lt hf.max_lt _
  · exact hf.infCode_lt _

/-- A rounded result fits its format. -/
theorem Fmt.Sound.lt_of_roundsTo {f : Fmt} (hf : f.Sound) {mode : RMode} {sat : Bool} {x : ℚ} {c : Nat} {fl : BitVec 5}
    (h : roundsTo f mode sat x c fl) : c < 2 ^ f.width := by
  by_cases ho : overflows f mode x
  · rw [(h.1 ho).1]
    exact hf.overflowCode_lt ..
  · exact (h.2 ho).1.2.1

end Sys2Proof.Machine

/-! SUPPORT. Sums and products of codes (R155): each is a special case or the exact result rounded once. -/

namespace Sys2Proof.Machine
open Sys2Proof

/-! ## The value of a code, by its class (R142) -/

/-- A code that is no NaN is finite or infinite. -/
theorem finite_or_infinite {f : Fmt} {c : Nat} (h : ¬ nanCode f c) : finiteCode f c ∨ infinite f c :=
  (not_and_or.1 h).imp not_not.1 not_not.1

section
variable {f : Fmt} (hf : f.Sound) {c : Nat}
include hf

theorem Fmt.Sound.not_finite_of_infinite (h : infinite f c) : ¬ finiteCode f c := by
  obtain ⟨hmax, _⟩ := hf.inf_eq _ h
  show ¬ magnitude f c ≤ f.maxCode
  omega

omit hf in
theorem Fmt.value_of_infinite (h : infinite f c) : f.value c = .inf (f.negOf c) := by
  have hi : f.inf = some (f.magOf c) := h
  unfold Fmt.value
  simp only [hi, lt_irrefl, if_false, if_true]

theorem Fmt.Sound.value_of_finite (h : finiteCode f c) : f.value c = .fin (f.negOf c) (f.finite (f.magOf c)).1 (f.finite (f.magOf c)).2 := by
  have hle : f.magOf c ≤ f.maxCode := h
  unfold Fmt.value
  dsimp only
  split
  · rename_i i hi
    obtain ⟨rfl, _⟩ := hf.inf_eq i hi
    rw [if_neg (by omega), if_neg (by omega)]
  · rw [if_neg (by omega)]

theorem Fmt.Sound.value_of_nan (h : nanCode f c) : ∃ s, f.value c = .nan s ∧ (s = true ↔ signalling f c) := by
  have hgt : f.maxCode < f.magOf c := not_le.1 h.1
  have hsig : signalling f c ↔ f.inf ≠ none ∧ f.magOf c / 2 ^ (f.p - 2) % 2 = 0 := by
    have hw : f.width - 1 = f.p - 2 + ((f.width - f.p) + 1) := by have := hf.two_le_p; have := hf.p_lt_width; omega
    rw [signalling, and_iff_right h, Fmt.magOf, hw, pow_add, Nat.mod_mul_right_div_self, pow_succ', Nat.mod_mul_right_mod]
  unfold Fmt.value
  dsimp only
  split
  · rename_i i hi
    obtain ⟨rfl, _⟩ := hf.inf_eq i hi
    have hne : f.magOf c ≠ f.maxCode + 1 := fun he => h.2 (hi.trans (congrArg some he.symm))
    exact ⟨_, if_pos (by omega), by rw [hsig]; simp [hi]⟩
  · rename_i hi
    exact ⟨_, if_pos hgt, by rw [hsig]; simp [hi]⟩

theorem Fmt.Sound.isNan_value : (f.value c).isNan = true ↔ nanCode f c := by
  by_cases hn : nanCode f c
  · obtain ⟨s, hs, _⟩ := hf.value_of_nan hn
    simp [hs, hn, FVal.isNan]
  · rcases not_and_or.1 hn with hfin | hinf
    · simp [hf.value_of_finite (not_not.1 hfin), hn, FVal.isNan]
    · simp [Fmt.value_of_infinite (not_not.1 hinf), hn, FVal.isNan]

theorem Fmt.Sound.isSig_value : (f.value c).isSig = true ↔ signalling f c := by
  by_cases hn : nanCode f c
  · obtain ⟨s, hs, hsig⟩ := hf.value_of_nan hn
    rw [hs, ← hsig]
    rfl
  · refine iff_of_false ?_ fun hs => hn hs.1
    rcases not_and_or.1 hn with hfin | hinf
    · simp [hf.value_of_finite (not_not.1 hfin), FVal.isSig]
    · simp [Fmt.value_of_infinite (not_not.1 hinf), FVal.isSig]

theorem Fmt.Sound.codeValue_finite : codeValue f c = sgn (f.negOf c) * ((f.finite (f.magOf c)).1 * 2 ^ (f.finite (f.magOf c)).2) := hf.codeValue_eq c

omit hf in
theorem Fmt.finite_eq_zero : (f.finite (f.magOf c)).1 = 0 ↔ f.magOf c = 0 := by
  have h := Fmt.val_eq_zero (f := f) (k := f.magOf c)
  rwa [Fmt.val, mul_eq_zero_iff_right (two_zpow_pos _).ne', Nat.cast_eq_zero] at h

theorem Fmt.Sound.codeValue_eq_zero : codeValue f c = 0 ↔ f.magOf c = 0 := by
  rw [hf.codeValue_eq, mul_eq_zero_iff_left (sgn_ne_zero _), Fmt.val_eq_zero]

/-- An infinity is the code of its sign. -/
theorem Fmt.Sound.code_of_infinite (h : infinite f c) (hc : c < 2 ^ f.width) : f.infCode (f.negOf c) = c := by
  unfold Fmt.infCode
  rw [show f.inf = some (f.magOf c) from h]
  exact hf.code_negOf_magOf hc

end

/-! ## Packing -/

section
variable (f : Fmt) (mode : RMode)

theorem Fmt.pack_nan (s : Bool) : f.pack mode (.nan s) = (f.nan, 0) := rfl
theorem Fmt.pack_inf (neg : Bool) : f.pack mode (.inf neg) = (f.infCode neg, 0) := rfl
theorem Fmt.pack_zero (neg : Bool) (e : Int) : f.pack mode (.fin neg 0 e) = (f.code neg 0, 0) := rfl
theorem Fmt.pack_fin (neg : Bool) {m : Nat} (hm : m ≠ 0) (e : Int) : f.pack mode (.fin neg m e) = f.round mode false neg m e := if_neg hm

end

theorem nanGives_flagIf {f : Fmt} {sig : Prop} {b : Bool} (h : b = true ↔ sig) : nanGives f sig f.nan (flagIf b flagNV) := by
  refine ⟨rfl, fun hs => ?_, fun hs => ?_⟩
  · rw [h.2 hs]; rfl
  · rw [Bool.eq_false_iff.2 (fun hb => hs (h.1 hb))]; rfl

/-! ## Sums -/

theorem addVal_of_nan (mode : RMode) {a b : FVal} (h : a.isNan = true ∨ b.isNan = true) :
    addVal mode a b = (.nan false, flagIf (a.isSig || b.isSig) flagNV) := by
  cases a with
  | nan s => rfl
  | inf n =>
    cases b with
    | nan s => simp [addVal, FVal.isSig]
    | _ => simp [FVal.isNan] at h
  | fin n m e =>
    cases b with
    | nan s => simp [addVal, FVal.isSig]
    | _ => simp [FVal.isNan] at h

/-- A scaled integer stands for its dyadic value. -/
theorem scaled_mul_two_zpow (neg : Bool) (m : Nat) {e q : Int} (h : q ≤ e) : (scaled neg m e q : ℚ) * 2 ^ q = sgn neg * (m * 2 ^ e) := by
  rw [← two_zpow_natCast_sub h]
  cases neg <;> simp [scaled, mul_assoc]

/-- R155: an exact sum of two finite values: zero with the sign that the rule gives, or a value m × 2^q with m ≠ 0. -/
theorem addFin_cases (mode : RMode) (n1 : Bool) (m1 : Nat) (e1 : Int) (n2 : Bool) (m2 : Nat) (e2 : Int) :
    let x := sgn n1 * ((m1 : ℚ) * 2 ^ e1) + sgn n2 * (m2 * 2 ^ e2)
    (x = 0 ∧ addFin mode n1 m1 e1 n2 m2 e2 = .fin (if m1 = 0 ∧ m2 = 0 ∧ n1 = n2 then n1 else mode == .rd) 0 0) ∨
    (x ≠ 0 ∧ ∃ neg m q, m ≠ 0 ∧ addFin mode n1 m1 e1 n2 m2 e2 = .fin neg m q ∧ x = sgn neg * (m * 2 ^ q)) := by
  intro x
  obtain ⟨q, hq⟩ : ∃ q, q = if e1 < e2 then e1 else e2 := ⟨_, rfl⟩
  have hq1 : q ≤ e1 := by rw [hq]; split_ifs <;> omega
  have hq2 : q ≤ e2 := by rw [hq]; split_ifs <;> omega
  obtain ⟨z, hz⟩ : ∃ z : Int, z = scaled n1 m1 e1 q + scaled n2 m2 e2 q := ⟨_, rfl⟩
  have hx : x = z * 2 ^ q := by
    rw [hz, Int.cast_add, add_mul, scaled_mul_two_zpow n1 m1 hq1, scaled_mul_two_zpow n2 m2 hq2]
  have hQ := two_zpow_pos q
  unfold addFin
  simp only [← hq, ← hz]
  by_cases h0 : z = 0
  · left
    refine ⟨by rw [hx, h0]; simp, ?_⟩
    rw [if_pos h0]
    by_cases hs : m1 = 0 ∧ m2 = 0 ∧ n1 = n2
    · simp [hs]
    · rw [if_neg hs, if_neg (by simpa [and_assoc] using hs)]
  · right
    refine ⟨by rw [hx]; exact mul_ne_zero (by exact_mod_cast h0) hQ.ne', decide (z < 0), z.natAbs, q, by simpa using h0, if_neg h0, ?_⟩
    rw [hx, ← mul_assoc]
    congr 1
    rcases lt_or_ge z 0 with hneg | hpos
    · have habs : ((z.natAbs : Int) : ℚ) = ((-z : Int) : ℚ) := by rw [Int.ofNat_natAbs_of_nonpos hneg.le]
      push_cast at habs
      simp [hneg, abs_of_neg (by exact_mod_cast hneg : (z : ℚ) < 0)]
    · simp [hpos.not_gt, abs_of_nonneg (by exact_mod_cast hpos : (0 : ℚ) ≤ z)]

theorem flags_or_zero (x : BitVec 5) : x ||| 0 = x := BitVec.or_zero
theorem zero_or_flags (x : BitVec 5) : 0 ||| x = x := BitVec.zero_or

/-- R155: a sum of two codes. -/
theorem Fmt.Sound.add_gives {f : Fmt} (hf : f.Sound) {mode : RMode} (hd : mode.Drawn) {a b : Nat} (ha : a < 2 ^ f.width) (hb : b < 2 ^ f.width) :
    sumGives f mode a b (f.add mode a b).1 (f.add mode a b).2 := by
  unfold sumGives Fmt.add
  dsimp only
  refine ⟨fun hn => ?_, fun ia ib hab => ?_, fun ia ib hab => ?_, fun ia fb => ?_, fun fa ib => ?_, fun fa fb hx => ?_, fun fa fb hx => ?_⟩
  · rw [addVal_of_nan mode (hn.imp hf.isNan_value.2 hf.isNan_value.2), Fmt.pack_nan, flags_or_zero]
    exact nanGives_flagIf (by rw [Bool.or_eq_true, hf.isSig_value, hf.isSig_value])
  · subst hab
    rw [Fmt.value_of_infinite ia]
    simp [addVal, Fmt.pack_inf, hf.code_of_infinite ia ha]
  · have hne : f.negOf a ≠ f.negOf b := fun he => hab <| by
      rw [← hf.code_of_infinite ia ha, ← hf.code_of_infinite ib hb, he]
    rw [Fmt.value_of_infinite ia, Fmt.value_of_infinite ib]
    simp [addVal, Fmt.pack_nan, hne]
  · rw [Fmt.value_of_infinite ia, hf.value_of_finite fb]
    simp [addVal, Fmt.pack_inf, hf.code_of_infinite ia ha]
  · rw [hf.value_of_finite fa, Fmt.value_of_infinite ib]
    simp [addVal, Fmt.pack_inf, hf.code_of_infinite ib hb]
  · rw [hf.value_of_finite fa, hf.value_of_finite fb]
    rw [hf.codeValue_finite, hf.codeValue_finite] at hx ⊢
    obtain ⟨h0, _⟩ | ⟨_, neg, m, q, hm, hsum, hval⟩ := addFin_cases mode (f.negOf a) (f.finite (f.magOf a)).1 (f.finite (f.magOf a)).2
      (f.negOf b) (f.finite (f.magOf b)).1 (f.finite (f.magOf b)).2
    · exact absurd h0 hx
    · simp only [addVal, hsum, Fmt.pack_fin f mode neg hm, zero_or_flags, hval]
      exact hf.round_roundsTo hd false neg hm q
  · rw [hf.value_of_finite fa, hf.value_of_finite fb]
    rw [hf.codeValue_finite, hf.codeValue_finite] at hx
    obtain ⟨_, hsum⟩ | ⟨h0, _⟩ := addFin_cases mode (f.negOf a) (f.finite (f.magOf a)).1 (f.finite (f.magOf a)).2
      (f.negOf b) (f.finite (f.magOf b)).1 (f.finite (f.magOf b)).2
    · simp only [addVal, hsum, Fmt.pack_zero, zero_or_flags, Fmt.finite_eq_zero]
      have hsame : (f.magOf a = 0 ∧ f.magOf b = 0 ∧ f.negOf a = f.negOf b) ↔ magnitude f a = 0 ∧ a = b := by
        constructor
        · rintro ⟨h1, h2, h3⟩
          refine ⟨h1, ?_⟩
          rw [← hf.code_negOf_magOf ha, ← hf.code_negOf_magOf hb, h1, h2, h3]
        · rintro ⟨h1, rfl⟩
          exact ⟨h1, h1, rfl⟩
      simp only [hsame]
      refine ⟨trivial, ?_⟩
      split_ifs with hs hrd
      · rw [← hs.1]
        exact hf.code_negOf_magOf ha
      · simp [hrd, Fmt.code]
      · simp [hrd, Fmt.code]
    · exact absurd hx h0


/-- R155: a difference is the sum with the second code's sign inverted. -/
theorem Fmt.Sound.sub_eq {f : Fmt} (hf : f.Sound) (mode : RMode) (a : Nat) {b : Nat} (hb : b < 2 ^ f.width) : f.sub mode a b = f.add mode a (opposite f b) := by
  have hopp : opposite f b = f.code (!f.negOf b) (f.magOf b) := by
    have hcode := hf.code_negOf_magOf hb
    have hmag := f.magOf_lt b
    unfold opposite
    conv_lhs => rw [← hcode]
    cases f.negOf b
    · simp [Fmt.code, hmag, add_comm]
    · simp [Fmt.code]
  have hval : f.value (opposite f b) = (f.value b).negate := by
    rw [hopp]
    unfold Fmt.value
    simp only [Fmt.magOf_code (f.magOf_lt b), Fmt.negOf_code (f.magOf_lt b)]
    split <;> split_ifs <;> rfl
  unfold Fmt.sub Fmt.add
  rw [hval]

theorem Fmt.Sound.opposite_lt {f : Fmt} (hf : f.Sound) {b : Nat} (hb : b < 2 ^ f.width) : opposite f b < 2 ^ f.width := by
  rw [hf.two_pow_width] at *
  unfold opposite
  split_ifs <;> omega

/-! ## Products -/

theorem not_invalidProduct_of_nan {f : Fmt} {a b : Nat} (hn : nanCode f a ∨ nanCode f b) : ¬ invalidProduct f a b := by
  have hno : ∀ {c}, nanCode f c → ¬ infinite f c ∧ magnitude f c ≠ 0 := fun {c} hc =>
    ⟨hc.2, fun h0 => hc.1 (by rw [finiteCode, h0]; exact Nat.zero_le _)⟩
  rintro (⟨h1, h2⟩ | ⟨h1, h2⟩)
  · exact hn.elim (fun h => (hno h).1 h1) (fun h => (hno h).2 h2)
  · exact hn.elim (fun h => (hno h).2 h1) (fun h => (hno h).1 h2)

section
variable {f : Fmt} (hf : f.Sound) {a b : Nat}
include hf

/-- R155: a NaN operand, or 0 × ∞, makes a product invalid; NV is set but for quiet NaNs. -/
theorem Fmt.Sound.mulVal_of_bad (h : nanCode f a ∨ nanCode f b ∨ invalidProduct f a b) :
    ∃ s, mulVal (f.value a) (f.value b) = (.nan false, flagIf s flagNV) ∧ (s = true ↔ signalling f a ∨ signalling f b ∨ invalidProduct f a b) := by
  by_cases hn : nanCode f a ∨ nanCode f b
  · have hinv := not_invalidProduct_of_nan hn
    refine ⟨(f.value a).isSig || (f.value b).isSig, ?_, by rw [Bool.or_eq_true, hf.isSig_value, hf.isSig_value]; simp [hinv]⟩
    rcases hn with h | h
    · obtain ⟨s, hs, _⟩ := hf.value_of_nan h
      rw [hs]
      rfl
    · obtain ⟨s, hs, _⟩ := hf.value_of_nan h
      rw [hs]
      cases f.value a <;> simp [mulVal, FVal.isSig]
  · have hinv := h.resolve_left (fun h => hn (.inl h)) |>.resolve_left (fun h => hn (.inr h))
    refine ⟨true, ?_, by simp [hinv]⟩
    rcases hinv with ⟨hinf, h0⟩ | ⟨h0, hinf⟩
    · rw [Fmt.value_of_infinite hinf, hf.value_of_finite (by rw [finiteCode, h0]; exact Nat.zero_le _)]
      simp [mulVal, Fmt.finite_eq_zero.2 h0, flagIf]
    · rw [Fmt.value_of_infinite hinf, hf.value_of_finite (by rw [finiteCode, h0]; exact Nat.zero_le _)]
      simp [mulVal, Fmt.finite_eq_zero.2 h0, flagIf]

theorem Fmt.Sound.mulVal_of_infinite (h : infiniteProduct f a b) : mulVal (f.value a) (f.value b) = (.inf (productNegative f a b), 0) := by
  obtain ⟨hinf, hinv, hna, hnb⟩ := h
  rcases finite_or_infinite hna with fa | ia <;> rcases finite_or_infinite hnb with fb | ib
  · exact (hinf.elim (fun h => hf.not_finite_of_infinite h fa) (fun h => hf.not_finite_of_infinite h fb)).elim
  · have h0 : f.magOf a ≠ 0 := fun h0 => hinv (.inr ⟨h0, ib⟩)
    rw [hf.value_of_finite fa, Fmt.value_of_infinite ib]
    simp [mulVal, Fmt.finite_eq_zero, h0]
    rfl
  · have h0 : f.magOf b ≠ 0 := fun h0 => hinv (.inl ⟨ia, h0⟩)
    rw [Fmt.value_of_infinite ia, hf.value_of_finite fb]
    simp [mulVal, Fmt.finite_eq_zero, h0]
    rfl
  · rw [Fmt.value_of_infinite ia, Fmt.value_of_infinite ib]
    rfl

/-- R155: a finite product is exact. -/
theorem Fmt.Sound.mulVal_of_finite (ha : finiteCode f a) (hb : finiteCode f b) :
    ∃ m e, mulVal (f.value a) (f.value b) = (.fin (productNegative f a b) m e, 0) ∧
      codeValue f a * codeValue f b = sgn (productNegative f a b) * ((m : ℚ) * 2 ^ e) := by
  rw [hf.value_of_finite ha, hf.value_of_finite hb, hf.codeValue_finite, hf.codeValue_finite]
  refine ⟨_, _, rfl, ?_⟩
  have hsgn : sgn (productNegative f a b) = sgn (f.negOf a) * sgn (f.negOf b) := by
    show sgn (f.negOf a != f.negOf b) = _
    cases f.negOf a <;> cases f.negOf b <;> simp
  rw [hsgn, zpow_add₀ two_ne_zero]
  push_cast
  ring

theorem Fmt.Sound.mulVal_of_good (h : ¬ (nanCode f a ∨ nanCode f b ∨ invalidProduct f a b)) :
    ∃ v, mulVal (f.value a) (f.value b) = (v, 0) ∧ v.isSig = false := by
  obtain ⟨hna, hnb, hinv⟩ : ¬ nanCode f a ∧ ¬ nanCode f b ∧ ¬ invalidProduct f a b := by simpa [not_or] using h
  by_cases hinf : infinite f a ∨ infinite f b
  · exact ⟨_, hf.mulVal_of_infinite ⟨hinf, hinv, hna, hnb⟩, rfl⟩
  · obtain ⟨m, e, hmul, _⟩ := hf.mulVal_of_finite ((finite_or_infinite hna).resolve_right fun h => hinf (.inl h))
      ((finite_or_infinite hnb).resolve_right fun h => hinf (.inr h))
    exact ⟨_, hmul, rfl⟩

omit hf in
theorem flagIf_or (s t : Bool) (fl : BitVec 5) : flagIf s fl ||| flagIf t fl = flagIf (s || t) fl := by
  cases s <;> cases t <;> simp [flagIf]

/-- R155: a fused product whose factors or addend make it invalid. -/
theorem Fmt.Sound.fma_of_bad {mode : RMode} {d : Nat} (hn : nanCode f a ∨ nanCode f b ∨ nanCode f d ∨ invalidProduct f a b) :
    nanGives f (signalling f a ∨ signalling f b ∨ signalling f d ∨ invalidProduct f a b) (f.fma mode a b d).1 (f.fma mode a b d).2 := by
  unfold Fmt.fma
  dsimp only
  by_cases hbad : nanCode f a ∨ nanCode f b ∨ invalidProduct f a b
  · obtain ⟨s, hs, hsig⟩ := hf.mulVal_of_bad hbad
    rw [hs, addVal_of_nan mode (.inl rfl), Fmt.pack_nan, flags_or_zero, flagIf_or]
    refine nanGives_flagIf ?_
    rw [Bool.or_eq_true, Bool.or_eq_true, hsig, hf.isSig_value, FVal.isSig]
    tauto
  · have hnd : nanCode f d := by tauto
    have hgood : ¬ signalling f a ∧ ¬ signalling f b ∧ ¬ invalidProduct f a b := by
      unfold signalling
      tauto
    obtain ⟨v, hv, hvsig⟩ := hf.mulVal_of_good hbad
    rw [hv, addVal_of_nan mode (.inr (hf.isNan_value.2 hnd)), Fmt.pack_nan, flags_or_zero, zero_or_flags]
    refine nanGives_flagIf ?_
    rw [Bool.or_eq_true, hvsig, hf.isSig_value]
    tauto

variable {mode : RMode} (hd : mode.Drawn)
include hd

/-- R155: a product of two codes. -/
theorem Fmt.Sound.mul_gives : productGives f mode a b (f.mul mode a b).1 (f.mul mode a b).2 := by
  unfold productGives Fmt.mul
  dsimp only
  refine ⟨fun hn => ?_, fun hinv => ?_, fun hinf i hi => ?_, fun fa fb hx => ?_, fun fa fb hx => ?_⟩
  · obtain ⟨s, hs, hsig⟩ := hf.mulVal_of_bad (hn.imp_right .inl)
    rw [hs, Fmt.pack_nan, flags_or_zero]
    exact nanGives_flagIf (by rw [hsig, iff_false_intro (not_invalidProduct_of_nan hn), or_false])
  · obtain ⟨s, hs, hsig⟩ := hf.mulVal_of_bad (.inr (.inr hinv))
    rw [hs, hsig.2 (.inr (.inr hinv))]
    exact ⟨rfl, flags_or_zero _⟩
  · rw [hf.mulVal_of_infinite hinf, Fmt.pack_inf, signed_eq_code, Fmt.infCode, hi]
    exact ⟨rfl, flags_or_zero _⟩
  · obtain ⟨m, e, hmul, hval⟩ := hf.mulVal_of_finite fa fb
    have hm : m ≠ 0 := by
      rintro rfl
      exact hx (by rw [hval]; simp)
    rw [hmul, hval]
    dsimp only
    rw [Fmt.pack_fin f mode _ hm, zero_or_flags]
    exact hf.round_roundsTo hd false _ hm e
  · obtain ⟨m, e, hmul, hval⟩ := hf.mulVal_of_finite fa fb
    have hm : m = 0 := by
      rw [hval, mul_eq_zero_iff_left (sgn_ne_zero _), mul_eq_zero_iff_right (two_zpow_pos _).ne'] at hx
      exact_mod_cast hx
    rw [hmul, hm, signed_eq_code]
    exact ⟨rfl, flags_or_zero _⟩

/-- R155: a product plus an addend, rounded once. -/
theorem Fmt.Sound.fma_gives {d : Nat} (hdw : d < 2 ^ f.width) : fusedGives f mode a b d (f.fma mode a b d).1 (f.fma mode a b d).2 := by
  unfold fusedGives Fmt.fma
  dsimp only
  refine ⟨hf.fma_of_bad, fun hinf hdinf hsgn => ?_, fun hinf hadd i hi => ?_, fun ⟨fa, fb⟩ hdinf => ?_, fun ⟨fa, fb⟩ fd hx => ?_,
    fun ⟨fa, fb⟩ fd hx => ?_⟩
  · rw [hf.mulVal_of_infinite hinf, Fmt.value_of_infinite hdinf]
    have hne : (productNegative f a b == f.negOf d) = false := beq_false_of_ne hsgn
    simp only [addVal, hne, Bool.false_eq_true, if_false, Fmt.pack_nan]
    exact ⟨trivial, by decide⟩
  · rw [hf.mulVal_of_infinite hinf, signed_eq_code]
    have hsum : addVal mode (.inf (productNegative f a b)) (f.value d) = (.inf (productNegative f a b), 0) := by
      rcases hadd with fd | ⟨id, hsame⟩
      · rw [hf.value_of_finite fd]
        rfl
      · rw [Fmt.value_of_infinite id, hsame]
        exact if_pos (beq_self_eq_true (f.negOf d))
    simp only [hsum, Fmt.pack_inf, Fmt.infCode, hi]
    exact ⟨trivial, by decide⟩
  · obtain ⟨m, e, hmul, _⟩ := hf.mulVal_of_finite fa fb
    rw [hmul, Fmt.value_of_infinite hdinf]
    simp only [addVal, Fmt.pack_inf, hf.code_of_infinite hdinf hdw]
    exact ⟨trivial, by decide⟩
  · obtain ⟨m, e, hmul, hprod⟩ := hf.mulVal_of_finite fa fb
    rw [hmul, hf.value_of_finite fd]
    rw [hprod, hf.codeValue_finite] at hx ⊢
    obtain ⟨h0, _⟩ | ⟨_, neg, n, q, hn, hsum, hval⟩ := addFin_cases mode (productNegative f a b) m e
      (f.negOf d) (f.finite (f.magOf d)).1 (f.finite (f.magOf d)).2
    · exact absurd h0 hx
    · simp only [addVal, hsum, Fmt.pack_fin f mode neg hn, zero_or_flags, hval]
      exact hf.round_roundsTo hd false neg hn q
  · obtain ⟨m, e, hmul, hprod⟩ := hf.mulVal_of_finite fa fb
    rw [hmul, hf.value_of_finite fd]
    rw [hprod, hf.codeValue_finite] at hx
    obtain ⟨_, hsum⟩ | ⟨h0, _⟩ := addFin_cases mode (productNegative f a b) m e
      (f.negOf d) (f.finite (f.magOf d)).1 (f.finite (f.magOf d)).2
    · simp only [addVal, hsum, Fmt.pack_zero, zero_or_flags, Fmt.finite_eq_zero]
      refine ⟨trivial, fun hd0 hsame => ?_, fun hdiff => ?_⟩
      · have hd0' : f.magOf d = 0 := hd0
        have hm : m = 0 := by
          rw [Fmt.finite_eq_zero.2 hd0', Nat.cast_zero, zero_mul, mul_zero, add_zero, mul_eq_zero_iff_left (sgn_ne_zero _),
            mul_eq_zero_iff_right (two_zpow_pos _).ne'] at hx
          exact_mod_cast hx
        have hsame' : productNegative f a b = f.negOf d := hsame
        rw [if_pos ⟨hm, hd0', hsame'⟩, hsame', ← hd0']
        exact hf.code_negOf_magOf hdw
      · rw [if_neg fun h => hdiff ⟨h.2.1, h.2.2⟩]
        cases mode <;> simp [Fmt.code]
    · exact absurd hx h0

end

end Sys2Proof.Machine

/-! SUPPORT. The words of the floating-point pipe answer what their functions give (R151), and FADD, FSUB, FMUL and FMA (R155). -/

namespace Sys2Proof.Machine
open Sys2Proof

/-! ## A word of the floating-point pipe answers its result -/

section
variable {s : State} {i : Instr} {g : Guard} {t : Nat} {p : Pipe} {unit lat occ : Nat} {f : State → List Nat → Nat → LaneOut} {d : BitVec 6}

/-- A computing word with one code and its flags. -/
theorem Runs.answers_code (h : Runs s i t) (hg : i.guard? = some g) (he : exec i s = .next (s.compute i p unit lat occ f)) {r : Nat × BitVec 5}
    (hregs : (f s (s.participants i) t).regs = [(d.toNat, BitVec.ofNat 32 r.1)]) (hflags : (f s (s.participants i) t).flags = r.2) (hr : r.1 < 2 ^ 32)
    {P : Nat → BitVec 5 → Prop} (hP : P r.1 r.2) : AnswersFloat s i t d P := by
  refine ⟨_, he, r.2, ?_, ?_⟩
  · rw [(State.compute_fp h hg ..).1, hflags]
  · have hreg : ((s.thread t).setRegs [(d.toNat, BitVec.ofNat 32 r.1)]).reg d.toNat = BitVec.ofNat 32 r.1 := Thread.setReg_reg_same ..
    rw [State.compute_reg h hg, hregs, hreg, BitVec.toNat_ofNat, Nat.mod_eq_of_lt hr]
    exact hP

/-- R151: a word of the FP pipe whose result depends on its thread alone. -/
theorem Runs.answers_fpWord {F : Thread → Nat × BitVec 5} (h : Runs s i t) (hg : i.guard? = some g) (he : exec i s = .next (s.fpWord i lat d F))
    (hr : (F (s.thread t)).1 < 2 ^ 32) {P : Nat → BitVec 5 → Prop} (hP : P (F (s.thread t)).1 (F (s.thread t)).2) : AnswersFloat s i t d P :=
  h.answers_code hg he rfl rfl hr hP

/-- R147: the generator's state after a computing word. -/
theorem Runs.answers_seed (h : Runs s i t) (hg : i.guard? = some g) (he : exec i s = .next (s.compute i p unit lat occ f)) {v : Word}
    (hv : (f s (s.participants i) t).seed.getD (s.thread t).srseed = v) : Answers i s fun s' => (s'.thread t).srseed = v :=
  ⟨_, he, (State.compute_fp h hg ..).2.trans hv⟩

end

theorem modeOf_eq (m : BitVec 2) : modeOf m = roundingMode m := rfl

theorem roundingMode_ne_sr (m : BitVec 2) (r : Nat) : roundingMode m ≠ .sr r := by
  unfold roundingMode
  split <;> simp

theorem roundingMode_drawn (m : BitVec 2) : (roundingMode m).Drawn := fun r h => absurd h (roundingMode_ne_sr m r)

/-! ## Results fit their format -/

section
variable {f : Fmt} (hf : f.Sound) {mode : RMode}
include hf

theorem Fmt.Sound.pack_lt (hd : mode.Drawn) (v : FVal) : (f.pack mode v).1 < 2 ^ f.width := by
  cases v with
  | nan s => exact hf.nan_lt
  | inf neg => exact hf.infCode_lt neg
  | fin neg m e =>
    by_cases hm : m = 0
    · rw [hm]
      exact hf.code_lt (Nat.two_pow_pos _) neg
    · rw [f.pack_fin mode neg hm]
      exact hf.lt_of_roundsTo (hf.round_roundsTo hd false neg hm e)

theorem Fmt.Sound.add_lt (hd : mode.Drawn) (a b : Nat) : (f.add mode a b).1 < 2 ^ f.width := hf.pack_lt hd _
theorem Fmt.Sound.mul_lt (hd : mode.Drawn) (a b : Nat) : (f.mul mode a b).1 < 2 ^ f.width := hf.pack_lt hd _
theorem Fmt.Sound.fma_lt (hd : mode.Drawn) (a b d : Nat) : (f.fma mode a b d).1 < 2 ^ f.width := hf.pack_lt hd _

end

/-- Settles O16: each word's exact result is a special case or is rounded once to a neighbour on FP32's grid. -/
theorem floatArithmeticRoundsTheExactResultOnce : Obligations.FloatArithmeticRoundsTheExactResultOnce := by
  intro g m d a b s t x y z
  have hd := roundingMode_drawn m
  have hx : x < 2 ^ fp32.width := BitVec.isLt _
  have hy : y < 2 ^ fp32.width := BitVec.isLt _
  have hz : z < 2 ^ fp32.width := BitVec.isLt _
  refine ⟨fun h => h.answers_fpWord rfl rfl (fp32_sound.add_lt hd ..) (fp32_sound.add_gives hd hx hy), fun h => ?_,
    fun h => h.answers_fpWord rfl rfl (fp32_sound.mul_lt hd ..) (fp32_sound.mul_gives hd),
    fun h => h.answers_fpWord rfl rfl (fp32_sound.fma_lt hd ..) (fp32_sound.fma_gives hd hz)⟩
  refine h.answers_fpWord rfl rfl ?_ ?_
  · show (fp32.sub (roundingMode m) x y).1 < _
    rw [fp32_sound.sub_eq _ x hy]
    exact fp32_sound.add_lt hd ..
  · show sumGives fp32 _ x _ (fp32.sub (roundingMode m) x y).1 (fp32.sub (roundingMode m) x y).2
    rw [fp32_sound.sub_eq _ x hy]
    exact fp32_sound.add_gives hd hx (fp32_sound.opposite_lt hy)

end Sys2Proof.Machine

/-! SUPPORT. Comparisons of codes (R156, R157), and the packed words (R160 to R162). -/

namespace Sys2Proof.Machine
open Sys2Proof

/-! ## The order of codes (R156, R157) -/

/-- A format whose finite values lie below the place that stands for an infinity. -/
def Fmt.Bounded (f : Fmt) : Prop := f.val f.maxCode < 2 ^ 200

theorem fp32_bounded : fp32.Bounded := by norm_num [Fmt.Bounded, Fmt.val, Fmt.finite, fp32]
theorem fp16_bounded : fp16.Bounded := by norm_num [Fmt.Bounded, Fmt.val, Fmt.finite, fp16]
theorem bf16_bounded : bf16.Bounded := by norm_num [Fmt.Bounded, Fmt.val, Fmt.finite, bf16]

/-- The place of a magnitude on the line of R156, the codes beyond the finite ones after them all. -/
def Fmt.line (f : Fmt) (k : Nat) : ℚ := if k ≤ f.maxCode then f.val k else 2 ^ 200 + (k - (f.maxCode + 1) : Nat)

section
variable {f : Fmt} (hf : f.Sound) (hb : f.Bounded)

include hb in
theorem Fmt.Bounded.line_strictMono : StrictMono f.line := strictMono_nat_of_lt_succ fun k => by
  unfold Fmt.line
  rcases lt_trichotomy k f.maxCode with hlt | rfl | hgt
  · rw [if_pos hlt.le, if_pos (Nat.succ_le_of_lt hlt)]
    exact f.val_strictMono k.lt_succ_self
  · have := show f.val f.maxCode < 2 ^ 200 from hb
    rw [if_pos le_rfl, if_neg (by omega), Nat.sub_self]
    simpa using this
  · rw [if_neg hgt.not_ge, if_neg (by omega), show k + 1 - (f.maxCode + 1) = k - (f.maxCode + 1) + 1 by omega]
    push_cast
    linarith

include hf in
theorem Fmt.Sound.lineValue_eq {c : Nat} (hc : ¬ nanCode f c) : lineValue f c = sgn (f.negOf c) * f.line (f.magOf c) := by
  unfold lineValue Fmt.line
  rcases finite_or_infinite hc with hfin | hinf
  · have hle : f.magOf c ≤ f.maxCode := hfin
    have hne : ¬ f.inf = some (magnitude f c) := fun h => hf.not_finite_of_infinite h hfin
    rw [if_neg hne, if_pos hle, hf.codeValue_eq]
  · have hi : f.magOf c = f.maxCode + 1 := (hf.inf_eq _ hinf).1
    have hinf' : f.inf = some (magnitude f c) := hinf
    have hgt : ¬ f.magOf c ≤ f.maxCode := by omega
    rw [if_pos hinf', if_neg hgt, hi, Nat.sub_self, Nat.cast_zero, add_zero]
    rfl

/-- A strictly rising function of magnitudes, with its sign, rises with the signed magnitude. -/
theorem sgn_mul_lt_iff {g : Nat → ℚ} (hg : StrictMono g) (h0 : g 0 = 0) (n1 n2 : Bool) (i j : Nat) :
    sgn n1 * g i < sgn n2 * g j ↔ (if n1 then -(i : Int) else i) < (if n2 then -(j : Int) else j) := by
  have hnonneg : ∀ k, 0 ≤ g k := fun k => h0 ▸ hg.monotone k.zero_le
  have hi := hnonneg i
  have hj := hnonneg j
  cases n1 <;> cases n2 <;> simp only [sgn_true, sgn_false, one_mul, neg_one_mul, if_true, if_false, Bool.false_eq_true]
  · rw [hg.lt_iff_lt, Nat.cast_lt]
  · exact iff_of_false (by linarith) (by omega)
  · have hpos : ∀ k, 0 < g k ↔ 0 < k := fun k => by rw [← h0, hg.lt_iff_lt]
    constructor
    · intro h
      by_contra hle
      obtain ⟨rfl, rfl⟩ : i = 0 ∧ j = 0 := by omega
      rw [h0] at h
      linarith
    · intro h
      rcases (by omega : 0 < i ∨ 0 < j) with hk | hk
      · have := (hpos i).2 hk
        linarith
      · have := (hpos j).2 hk
        linarith
  · rw [neg_lt_neg_iff, neg_lt_neg_iff, hg.lt_iff_lt, Nat.cast_lt]

theorem Fmt.line_zero (f : Fmt) : f.line 0 = 0 := by
  rw [Fmt.line, if_pos (Nat.zero_le _), f.val_zero]

include hf hb in
/-- R157: codes that are no NaN compare as their signed magnitudes. -/
theorem Fmt.Sound.lineValue_lt_iff {a b : Nat} (ha : ¬ nanCode f a) (hb' : ¬ nanCode f b) : lineValue f a < lineValue f b ↔ f.numeric a < f.numeric b := by
  rw [hf.lineValue_eq ha, hf.lineValue_eq hb']
  exact sgn_mul_lt_iff hb.line_strictMono f.line_zero ..

include hf hb in
theorem Fmt.Sound.lineValue_le_iff {a b : Nat} (ha : ¬ nanCode f a) (hb' : ¬ nanCode f b) : lineValue f a ≤ lineValue f b ↔ f.numeric a ≤ f.numeric b := by
  rw [← not_lt, ← not_lt, hf.lineValue_lt_iff hb hb' ha]

include hf hb in
theorem Fmt.Sound.lineValue_eq_iff {a b : Nat} (ha : ¬ nanCode f a) (hb' : ¬ nanCode f b) : lineValue f a = lineValue f b ↔ f.numeric a = f.numeric b := by
  rw [le_antisymm_iff, le_antisymm_iff, hf.lineValue_le_iff hb ha hb', hf.lineValue_le_iff hb hb' ha]

theorem Fmt.numeric_le_of_order_le {a b : Nat} (h : f.order a ≤ f.order b) : f.numeric a ≤ f.numeric b ∧ (f.negOf b = true → f.negOf a = true) := by
  unfold Fmt.order at h
  unfold Fmt.numeric
  generalize f.negOf a = n1 at h ⊢
  generalize f.negOf b = n2 at h ⊢
  constructor
  · split_ifs at h ⊢ <;> omega
  · rintro rfl
    by_contra hn
    rw [if_pos rfl, if_neg hn] at h
    omega

include hf hb in
/-- R156: a code of no greater order lies below, −0 below +0. -/
theorem Fmt.Sound.below_of_order_le {a b : Nat} (ha : ¬ nanCode f a) (hb' : ¬ nanCode f b) (h : f.order a ≤ f.order b) :
    lineValue f a < lineValue f b ∨ (lineValue f a = lineValue f b ∧ (negative f b → negative f a)) := by
  obtain ⟨hle, hneg⟩ := Fmt.numeric_le_of_order_le h
  rcases ((hf.lineValue_le_iff hb ha hb').2 hle).lt_or_eq with hlt | heq
  · exact .inl hlt
  · exact .inr ⟨heq, hneg⟩

include hf hb in
/-- R156: a minimum or maximum of two codes. -/
theorem Fmt.Sound.minmax_gives (greatest : Bool) (a b : Nat) : extremeGives f greatest a b (f.minmax greatest a b).1 (f.minmax greatest a b).2 := by
  have hflags : (f.minmax greatest a b).2 = flagIf ((f.value a).isSig || (f.value b).isSig) flagNV := by
    unfold Fmt.minmax
    dsimp only
    split_ifs <;> rfl
  have hsig : ((f.value a).isSig || (f.value b).isSig) = true ↔ signalling f a ∨ signalling f b := by
    rw [Bool.or_eq_true, hf.isSig_value, hf.isSig_value]
  have hnan : ∀ c, (f.value c).isNan = true ↔ nanCode f c := fun _ => hf.isNan_value
  rw [hflags]
  refine ⟨(nanGives_flagIf (f := f) hsig).2.1, (nanGives_flagIf (f := f) hsig).2.2, fun ha hb => ?_, fun ha hb => ?_, fun ha hb => ?_, fun ha hb' => ?_⟩
  · simp [Fmt.minmax, (hnan a).2 ha, (hnan b).2 hb]
  · simp [Fmt.minmax, (hnan a).2 ha, Bool.eq_false_iff.2 fun h => hb ((hnan b).1 h)]
  · simp [Fmt.minmax, (hnan b).2 hb, Bool.eq_false_iff.2 fun h => ha ((hnan a).1 h)]
  · have hval : (f.minmax greatest a b).1 = if greatest then (if f.order a < f.order b then b else a) else if f.order b < f.order a then b else a := by
      unfold Fmt.minmax
      simp only [Bool.eq_false_iff.2 fun h => ha ((hnan a).1 h), Bool.eq_false_iff.2 fun h => hb' ((hnan b).1 h)]
      cases greatest <;> rfl
    have hself : ∀ {c}, ¬ nanCode f c → lineValue f c < lineValue f c ∨ (lineValue f c = lineValue f c ∧ (negative f c → negative f c)) :=
      fun _ => .inr ⟨rfl, id⟩
    have hbelow := fun {x y} => hf.below_of_order_le (a := x) (b := y) hb
    rw [hval]
    cases greatest
    · simp only [Bool.false_eq_true, if_false, forall_true_left, false_implies, and_true]
      split_ifs with h
      · exact ⟨.inr rfl, hbelow hb' ha h.le, hself hb'⟩
      · exact ⟨.inl rfl, hself ha, hbelow ha hb' (not_lt.1 h)⟩
    · simp only [if_true, Bool.true_eq_false, forall_true_left, false_implies, true_and]
      split_ifs with h
      · exact ⟨.inr rfl, hbelow ha hb' h.le, hself hb'⟩
      · exact ⟨.inl rfl, hself ha, hbelow hb' ha (not_lt.1 h)⟩

end

/-! ## Packed words (R160 to R162) -/

/-- R160: a packed word gives its two elements by themselves. -/
theorem packedGives_packed {P : Nat → Nat → BitVec 5 → Prop} {F : Nat → Nat × BitVec 5} (hlt : ∀ k, (F k).1 < 2 ^ 16) (hP : ∀ k, P k (F k).1 (F k).2) :
    (packed F).1 < 2 ^ 32 ∧ packedGives P (packed F).1 (packed F).2 := by
  have h0 := hlt 0
  have h1 := hlt 1
  have e0 : element (packed F).1 0 = (F 0).1 := by
    show ((F 0).1 + 65536 * (F 1).1) / 65536 ^ 0 % 65536 = _
    omega
  have e1 : element (packed F).1 1 = (F 1).1 := by
    show ((F 0).1 + 65536 * (F 1).1) / 65536 ^ 1 % 65536 = _
    omega
  refine ⟨?_, (F 0).2, (F 1).2, rfl, ?_, ?_⟩
  · show (F 0).1 + 65536 * (F 1).1 < _
    omega
  · rw [e0]
    exact hP 0
  · rw [e1]
    exact hP 1

theorem Runs.answers_packed {s : State} {i : Instr} {g : Guard} {t lat : Nat} {d : BitVec 6} {F : Thread → Nat → Nat × BitVec 5} (h : Runs s i t)
    (hg : i.guard? = some g) (he : exec i s = .next (s.fpWord i lat d fun th => packed (F th))) (hlt : ∀ k, (F (s.thread t) k).1 < 2 ^ 16)
    {P : Nat → Nat → BitVec 5 → Prop} (hP : ∀ k, P k (F (s.thread t) k).1 (F (s.thread t) k).2) : AnswersFloat s i t d (packedGives P) :=
  have hres := packedGives_packed hlt hP
  h.answers_fpWord hg he hres.1 hres.2

theorem packedFmt_eq : ∀ m : BitVec 2, packedFmt m = if m = 0 ∨ m = 2 then bf16 else fp16 := by decide

theorem packedMode_eq (m : BitVec 2) (th : Thread) : packedMode m th = if m = 0 ∨ m = 1 then .rne else roundingMode th.fpmode := by
  have hbit : ∀ m : BitVec 2, m.getLsbD 1 = true ↔ ¬ (m = 0 ∨ m = 1) := by decide
  unfold packedMode
  rw [modeOf_eq]
  by_cases hm : m = 0 ∨ m = 1
  · rw [if_pos hm, if_neg fun h => (hbit m).1 h hm]
  · rw [if_neg hm, if_pos ((hbit m).2 hm)]

theorem packedMode_drawn (m : BitVec 2) (th : Thread) : (packedMode m th).Drawn := by
  unfold packedMode
  split
  · exact roundingMode_drawn _
  · exact fun r h => nomatch h

/-- The 16-bit formats of the packed words. -/
structure Fmt.Half (f : Fmt) : Prop where
  sound : f.Sound
  bounded : f.Bounded
  width_eq : f.width = 16

theorem half_ite (q : Prop) [Decidable q] : (if q then bf16 else fp16).Half := by
  split
  · exact ⟨bf16_sound, bf16_bounded, rfl⟩
  · exact ⟨fp16_sound, fp16_bounded, rfl⟩

theorem Fmt.Sound.minmax_lt {f : Fmt} (hf : f.Sound) (greatest : Bool) {a b : Nat} (ha : a < 2 ^ f.width) (hb : b < 2 ^ f.width) :
    (f.minmax greatest a b).1 < 2 ^ f.width := by
  have hnan := hf.nan_lt
  unfold Fmt.minmax
  dsimp only
  split_ifs <;> assumption

/-- R56: M[1] of HMM2 chooses FP16, and M[0] the maximum. -/
theorem hmm2_modes : ∀ m : BitVec 2, (if m.getLsbD 1 then fp16 else bf16) = (if m = 0 ∨ m = 1 then bf16 else fp16) ∧
    m.getLsbD 0 = decide (m = 1 ∨ m = 3) := by decide

/-- Settles O19: a packed word's halves are codes of its format, each of which the format's operation treats as O16 says of FP32. -/
theorem packedWordsTreatEachElementAlone : Obligations.PackedWordsTreatEachElementAlone := by
  intro g m d a b s t th x y z f r
  have hf : f.Half := half_ite _
  have hd := packedMode_drawn m th
  have hlt : ∀ w k, element w k < 2 ^ f.width := fun w k => by rw [hf.width_eq]; exact Nat.mod_lt _ (by decide)
  have hfit : ∀ {c}, c < 2 ^ f.width → c < 2 ^ 16 := fun {c} h => by rwa [hf.width_eq] at h
  have hfmt : packedFmt m = f := packedFmt_eq m
  have hmode : packedMode m th = r := packedMode_eq m th
  clear_value f r
  subst hfmt hmode
  refine ⟨fun h => h.answers_packed rfl rfl (fun k => hfit (hf.sound.add_lt hd ..)) fun k => hf.sound.add_gives hd (hlt _ k) (hlt _ k),
    fun h => h.answers_packed rfl rfl (fun k => hfit (hf.sound.mul_lt hd ..)) fun k => hf.sound.mul_gives hd,
    fun h => h.answers_packed rfl rfl (fun k => hfit (hf.sound.fma_lt hd ..)) fun k => hf.sound.fma_gives hd (hlt _ k), fun h => ?_⟩
  obtain ⟨hfmt2, hgreatest⟩ := hmm2_modes m
  have hh : (if m = 0 ∨ m = 1 then bf16 else fp16).Half := half_ite _
  rw [← hfmt2] at hh ⊢
  rw [← hgreatest]
  exact h.answers_packed rfl rfl (fun k => hh.width_eq ▸ hh.sound.minmax_lt _ (hh.width_eq ▸ Nat.mod_lt _ (by decide)) (hh.width_eq ▸ Nat.mod_lt _ (by decide)))
    fun k => hh.sound.minmax_gives hh.bounded ..

end Sys2Proof.Machine

/-! SUPPORT. Exact results, rounding to integers (R158, R165), and the extremes, sign, integral and comparison words (R156 to R158). -/

namespace Sys2Proof.Machine
open Sys2Proof

theorem rne_drawn : RMode.Drawn .rne := fun _ h => nomatch h

/-! ## Representable values -/

section
variable {f : Fmt}

theorem Fmt.finite_fst_lt (f : Fmt) (k : Nat) : (f.finite k).1 < 2 * 2 ^ (f.p - 1) := by
  obtain ⟨s, n, rfl, hn, hs⟩ := f.exists_grid k
  rw [Fmt.finite_grid hn hs]
  exact hn

theorem Fmt.le_finite_snd (f : Fmt) (k : Nat) : f.emin - f.p + 1 ≤ (f.finite k).2 := by
  obtain ⟨s, n, rfl, hn, hs⟩ := f.exists_grid k
  rw [Fmt.finite_grid hn hs]
  dsimp only
  omega

/-- Every p-bit number of least quanta or more is some code's value. -/
theorem Fmt.exists_val (f : Fmt) (s : Nat) : ∀ {n : Nat}, n < 2 * 2 ^ (f.p - 1) → ∃ k, f.val k = n * 2 ^ ((s : Int) + (f.emin - f.p + 1)) := by
  induction s with
  | zero => exact fun {n} hn => ⟨0 * 2 ^ (f.p - 1) + n, Fmt.val_grid hn (.inl rfl)⟩
  | succ s ih =>
    intro n hn
    by_cases hlow : 2 ^ (f.p - 1) ≤ n
    · exact ⟨_, Fmt.val_grid hn (.inr hlow)⟩
    · obtain ⟨k, hk⟩ := ih (n := 2 * n) (by omega)
      refine ⟨k, hk.trans ?_⟩
      rw [show ((s + 1 : Nat) : Int) + (f.emin - f.p + 1) = s + (f.emin - f.p + 1) + 1 by push_cast; ring, zpow_add_one₀ two_ne_zero]
      push_cast
      ring

theorem Fmt.exists_val_of_le (f : Fmt) {n : Nat} (hn : n < 2 * 2 ^ (f.p - 1)) {e : Int} (he : f.emin - f.p + 1 ≤ e) : ∃ k, f.val k = n * 2 ^ e := by
  obtain ⟨k, hk⟩ := f.exists_val (e - (f.emin - f.p + 1)).toNat hn
  refine ⟨k, hk.trans ?_⟩
  rw [Int.toNat_of_nonneg (by omega), sub_add_cancel]

/-- A value that some finite code has is rounded to that code, exactly. -/
theorem Fmt.Sound.round_of_val (hf : f.Sound) {mode : RMode} (hd : mode.Drawn) (sat neg : Bool) {m : Nat} (hm : m ≠ 0) {e : Int} {k : Nat}
    (hk : k ≤ f.maxCode) (hval : (m : ℚ) * 2 ^ e = f.val k) : f.round mode sat neg m e = (f.code neg k, 0) := by
  obtain ⟨j, mag, t, hgrid, _, hround⟩ := hf.round_eq hd sat neg hm e
  have hle := hgrid.val_le
  have hlt := hgrid.lt_val_succ
  rw [hval, f.val_strictMono.le_iff_le] at hle
  rw [hval, f.val_strictMono.lt_iff_lt] at hlt
  obtain rfl : j = k := by omega
  have ht : t = 0 := by
    have h := hgrid.eq
    rw [hval, left_eq_add, mul_eq_zero_iff_right (two_zpow_pos _).ne'] at h
    exact h
  obtain ⟨rfl, _⟩ := hgrid.mag_eq.resolve_right fun h => (h.2.pos hd).ne' ht
  rw [hround, if_neg hk.not_gt]
  simp [ht, flagIf]

end

/-! ## Rounding to an integer -/

/-- An integer with a sign. -/
def signedInt (neg : Bool) (n : Nat) : Int := if neg then -n else n

theorem signedInt_cast (neg : Bool) (n : Nat) : ((signedInt neg n : Int) : ℚ) = sgn neg * n := by
  cases neg <;> simp [signedInt]

theorem signedInt_even (neg : Bool) (n : Nat) : signedInt neg n % 2 = 0 ↔ n % 2 = 0 := by
  unfold signedInt
  split_ifs <;> omega

/-- R144: the model's rounding to a multiple of 1 rounds to an integer by the mode. -/
theorem roundTo_integer {mode : RMode} (hmode : ∀ r, mode ≠ .sr r) (neg : Bool) (m : Nat) (e : Int) :
    let x := sgn neg * ((m : ℚ) * 2 ^ e)
    let n := signedInt neg (roundTo mode neg m e 0).1
    integerOf mode x n ∧ ((roundTo mode neg m e 0).2 = true ↔ x ≠ n) := by
  have hd : mode.Drawn := fun r h => absurd h (hmode r)
  obtain ⟨k, t, ht0, ht1, hval, hup, hinexact⟩ := roundTo_cases hd neg m e 0
  rw [zpow_zero, mul_one] at hval
  intro x n
  have hx : x = sgn neg * (k + t) := by rw [← hval]
  have hk0 : (0 : ℚ) ≤ k := k.cast_nonneg
  have hcast : (n : ℚ) = sgn neg * ((roundTo mode neg m e 0).1 : Nat) := signedInt_cast ..
  have hdist : |x - n| = |k + t - ((roundTo mode neg m e 0).1 : Nat)| := by rw [hx, hcast, ← mul_sub, abs_mul, abs_sgn, one_mul]
  have habsx : |x| = k + t := by rw [hx, abs_mul, abs_sgn, one_mul, abs_of_nonneg (by linarith)]
  have habsn : |(n : ℚ)| = ((roundTo mode neg m e 0).1 : Nat) := by rw [hcast, abs_mul, abs_sgn, one_mul, abs_of_nonneg (Nat.cast_nonneg _)]
  have heven : n % 2 = 0 ↔ (roundTo mode neg m e 0).1 % 2 = 0 := signedInt_even ..
  generalize (roundTo mode neg m e 0).1 = r at *
  have hr : (r : ℚ) = k ∧ ¬ mode.up neg k t ∨ (r : ℚ) = k + 1 ∧ mode.up neg k t :=
    hup.imp (fun h => ⟨by rw [h.1], h.2⟩) (fun h => ⟨by rw [h.1]; push_cast; rfl, h.2⟩)
  constructor
  · unfold integerOf
    cases mode with
    | sr r => exact absurd rfl (hmode r)
    | rne =>
      simp only [hdist, heven]
      rcases hup with ⟨rfl, hu⟩ | ⟨rfl, hu⟩
      · rw [add_sub_cancel_left, abs_of_nonneg ht0]
        refine ⟨not_lt.1 fun h => hu (.inl h), fun ht => ?_⟩
        have : ¬ r % 2 = 1 := fun ho => hu (.inr ⟨ht, ho⟩)
        omega
      · push_cast
        rw [add_sub_add_left_eq_sub, abs_of_nonpos (by linarith)]
        rcases hu with hlt | ⟨rfl, hodd⟩
        · exact ⟨by linarith, fun ht => by linarith⟩
        · exact ⟨by norm_num, fun _ => by omega⟩
    | rz =>
      obtain ⟨hk, _⟩ := hr.resolve_right fun h => h.2
      simp only [habsx, habsn, hk]
      refine ⟨by linarith, by linarith, ?_⟩
      rw [hcast, hx, hk, show sgn neg * k * (sgn neg * (k + t)) = (sgn neg * sgn neg) * (k * (k + t)) by ring,
        show sgn neg * sgn neg = 1 by cases neg <;> norm_num, one_mul]
      exact mul_nonneg hk0 (by linarith)
    | ru =>
      simp only [hcast, hx]
      cases neg
      · simp only [sgn_false, one_mul]
        rcases hr with ⟨hk, hu⟩ | ⟨hk, hu⟩
        · have : t = 0 := le_antisymm (not_lt.1 fun h => hu ⟨rfl, h⟩) ht0
          constructor <;> linarith
        · constructor <;> linarith [hu.2]
      · obtain ⟨hk, _⟩ := hr.resolve_right fun h => Bool.noConfusion h.2.1
        simp only [sgn_true, hk]
        constructor <;> linarith
    | rd =>
      simp only [hcast, hx]
      cases neg
      · obtain ⟨hk, _⟩ := hr.resolve_right fun h => Bool.noConfusion h.2.1
        simp only [sgn_false, hk]
        constructor <;> linarith
      · simp only [sgn_true]
        rcases hr with ⟨hk, hu⟩ | ⟨hk, hu⟩
        · have : t = 0 := le_antisymm (not_lt.1 fun h => hu ⟨rfl, h⟩) ht0
          constructor <;> linarith
        · constructor <;> linarith [hu.2]
  · rw [hinexact, Ne, Ne, not_iff_not, hcast, hx, mul_right_inj' (sgn_ne_zero neg)]
    rcases hr with ⟨hk, _⟩ | ⟨hk, hu⟩
    · rw [hk, add_eq_left]
    · exact iff_of_false (hu.pos hd).ne' (by rw [hk]; linarith)

/-! ## Integral values (R158) -/

/-- Every integer of 24 bits is an FP32 value. -/
theorem fp32_exists_natCast {n : Nat} (hn : n < 2 ^ 24) : ∃ k ≤ fp32.maxCode, fp32.val k = n := by
  obtain ⟨k, hk⟩ := fp32.exists_val_of_le (n := n) hn (e := 0) (by decide)
  rw [zpow_zero, mul_one] at hk
  refine ⟨k, fp32.val_strictMono.le_iff_le.1 ?_, hk⟩
  have hnQ : (n : ℚ) < 2 ^ 24 := by exact_mod_cast hn
  have htop : (2 : ℚ) ^ 24 ≤ fp32.val fp32.maxCode := by norm_num [Fmt.val, Fmt.finite, fp32]
  linarith

/-- R158: a finite FP32 value rounded to an integer is a finite FP32 value. -/
theorem exists_val_roundTo {mode : RMode} (hd : mode.Drawn) (neg : Bool) {c : Nat} (hc : c ≤ fp32.maxCode) :
    ∃ k ≤ fp32.maxCode, fp32.val k = (roundTo mode neg (fp32.finite c).1 (fp32.finite c).2 0).1 := by
  have hm := fp32.finite_fst_lt c
  have hval : fp32.val c = (fp32.finite c).1 * 2 ^ (fp32.finite c).2 := rfl
  generalize (fp32.finite c).1 = m at *
  generalize (fp32.finite c).2 = e at *
  by_cases he : 0 ≤ e
  · refine ⟨c, hc, ?_⟩
    rw [hval, roundTo, if_pos he, Nat.cast_mul, ← two_zpow_natCast_sub he, zpow_zero, mul_one]
  · obtain ⟨k, t, ht0, ht1, hA, hup, _⟩ := roundTo_cases hd neg m e 0
    refine fp32_exists_natCast ?_
    have hhalf : (m : ℚ) * 2 ^ e ≤ m * 2 ^ (-1 : Int) := mul_le_mul_of_nonneg_left (zpow_le_zpow_right₀ one_le_two (by omega)) m.cast_nonneg
    have hmQ : (m : ℚ) < 2 ^ 24 := by exact_mod_cast hm
    have hk : (k : ℚ) < 2 ^ 23 := by
      rw [hA, zpow_zero, mul_one, zpow_neg_one] at hhalf
      linarith
    have hk' : k < 2 ^ 23 := by exact_mod_cast hk
    rcases hup with ⟨h, _⟩ | ⟨h, _⟩ <;> omega

theorem frndWord_of_finite {mode : RMode} (hmode : ∀ r, mode ≠ .sr r) {a : Nat} (ha : a < 2 ^ 32) (hfin : finiteCode fp32 a) :
    ∃ c r, c ≤ fp32.maxCode ∧ fp32.val c = (r : Nat) ∧ frndWord mode a = (fp32.code (fp32.negOf a) c, 0) ∧
      integerOf mode (codeValue fp32 a) (signedInt (fp32.negOf a) r) := by
  have hd : mode.Drawn := fun r h => absurd h (hmode r)
  simp only [frndWord, fp32_sound.value_of_finite hfin, Fmt.finite_eq_zero]
  by_cases h0 : fp32.magOf a = 0
  · refine ⟨0, 0, Nat.zero_le _, by rw [fp32.val_zero, Nat.cast_zero], ?_, ?_⟩
    · rw [if_pos h0]
      conv_lhs => rw [← fp32_sound.code_negOf_magOf ha, h0]
    · rw [fp32_sound.codeValue_eq_zero.2 h0, show signedInt (fp32.negOf a) 0 = 0 by simp [signedInt]]
      cases mode with
      | sr r => exact absurd rfl (hmode r)
      | _ => norm_num [integerOf]
  · obtain ⟨c, hc, hval⟩ := exists_val_roundTo hd (fp32.negOf a) (c := fp32.magOf a) hfin
    refine ⟨c, _, hc, hval, ?_, fp32_sound.codeValue_finite ▸ (roundTo_integer hmode _ _ _).1⟩
    rw [if_neg h0]
    split_ifs with hr
    · rw [hr, Nat.cast_zero, Fmt.val_eq_zero] at hval
      rw [hval]
    · rw [fp32_sound.round_of_val rne_drawn false _ hr hc (by rw [hval, zpow_zero, mul_one])]

/-- R158: FRND. -/
theorem frndWord_gives {mode : RMode} (hmode : ∀ r, mode ≠ .sr r) {a : Nat} (ha : a < 2 ^ 32) :
    (frndWord mode a).1 < 2 ^ 32 ∧ integralGives mode a (frndWord mode a).1 (frndWord mode a).2 := by
  by_cases hn : nanCode fp32 a
  · obtain ⟨s, hs, hsig⟩ := fp32_sound.value_of_nan hn
    simp only [frndWord, hs]
    exact ⟨by decide, fun _ => nanGives_flagIf hsig, fun h => absurd h hn.2, fun h => absurd h hn.1⟩
  rcases finite_or_infinite hn with hfin | hinf
  · obtain ⟨c, r, hc, hval, hword, hint⟩ := frndWord_of_finite hmode ha hfin
    have hlt := hc.trans_lt fp32_sound.max_lt
    rw [hword]
    refine ⟨fp32_sound.code_lt hlt _, fun h => absurd h hn, fun h => absurd hfin (fp32_sound.not_finite_of_infinite h), fun _ => ⟨rfl, ?_, ?_, ?_⟩⟩
    · show fp32.magOf _ ≤ _
      rwa [Fmt.magOf_code hlt]
    · exact Fmt.negOf_code hlt _
    · have hcode : codeValue fp32 (fp32.code (fp32.negOf a) c) = (signedInt (fp32.negOf a) r : Int) := by
        rw [fp32_sound.codeValue_code hlt, hval, signedInt_cast]
      refine ⟨_, hcode, ?_⟩
      unfold integerOf at hint
      cases mode with
      | rz =>
        rw [hcode]
        exact ⟨hint.1, hint.2.1⟩
      | _ => exact hint
  · simp only [frndWord, Fmt.value_of_infinite hinf]
    exact ⟨ha, fun h => absurd h hn, fun _ => ⟨rfl, rfl⟩, fun h => absurd h (fp32_sound.not_finite_of_infinite hinf)⟩

/-! ## Signs (R158) -/

theorem fp32_magOf_toNat (v : Word) : fp32.magOf v.toNat = (v &&& 0x7FFFFFFF#32).toNat := by
  rw [BitVec.toNat_and]
  exact (Nat.and_two_pow_sub_one_eq_mod v.toNat 31).symm

theorem fp32_negate_toNat (v : Word) : fp32.code (!fp32.negOf v.toNat) (fp32.magOf v.toNat) = (v ^^^ 0x80000000#32).toNat := by
  have hneg : fp32.negOf v.toNat = v.msb := by
    show (v.toNat / 2 ^ 31 % 2 == 1) = _
    rw [BitVec.msb_eq_decide, Bool.eq_iff_iff]
    have := v.isLt
    simp
    omega
  have hmag : fp32.magOf v.toNat = (v.setWidth 31).toNat := (BitVec.toNat_setWidth 31 v).symm
  conv_rhs => rw [← BitVec.cons_msb_setWidth v, show 0x80000000#32 = BitVec.cons true 0#31 by decide, BitVec.cons_xor_cons, BitVec.xor_zero, BitVec.toNat_cons']
  rw [hneg, hmag, Bool.xor_true]
  cases v.msb <;> rfl

/-! ## Comparison (R157) -/

theorem Thread.setPred_seven (th : Thread) (v : Bool) : th.setPred 7 v = th := rfl

/-- R131: a word that sets one predicate; a write to p7 is discarded (R46). -/
theorem Runs.answers_predicate {s : State} {i : Instr} {g : Guard} {t : Nat} {p : Pipe} {unit lat occ : Nat} {f : State → List Nat → Nat → LaneOut}
    (h : Runs s i t) (hg : i.guard? = some g) (he : exec i s = .next (s.compute i p unit lat occ f)) {q : BitVec 3} {v : Bool}
    (hpreds : (f s (s.participants i) t).preds = [(q.toNat, v)]) : Answers i s fun s' => (q = 7 → (s'.thread t).preds = (s.thread t).preds) ∧
      (q ≠ 7 → (s'.thread t).pred q.toNat = v) ∧ (s'.thread t).fpflags = (s.thread t).fpflags ||| (f s (s.participants i) t).flags := by
  refine ⟨_, he, fun hq => ?_, fun hq => ?_, (State.compute_fp h hg ..).1⟩
  · subst hq
    rw [(State.compute_result hg h.1 h.2.1 p unit lat occ f h.2.2).1.2.1, (Thread.write_data _ _).2.1, hpreds]
    rfl
  · rw [State.compute_pred h hg, hpreds]
    exact Thread.setPred_pred_same _ (by have := q.isLt; have : q.toNat ≠ 7 := fun h => hq (BitVec.eq_of_toNat_eq h); omega) v

theorem combine_eq (m : BitVec 2) (old v : Bool) :
    combine m old v = if m = 0 then v else if m = 1 then old && v else if m = 2 then old || v else old != v := by
  revert m old v
  decide

/-- R157: the model's comparison decides the condition. -/
theorem fcompare_fst (c : BitVec 3) (a b : Nat) : (fcompare c a b).1 = true ↔ floatCondition c a b := by
  have hun : ((fp32.value a).isNan || (fp32.value b).isNan) = true ↔ nanCode fp32 a ∨ nanCode fp32 b := by
    rw [Bool.or_eq_true, fp32_sound.isNan_value, fp32_sound.isNan_value]
  unfold fcompare floatCondition
  dsimp only
  generalize c.toNat = n
  by_cases hn : nanCode fp32 a ∨ nanCode fp32 b
  · rw [hun.2 hn]
    rcases n with _ | _ | _ | _ | _ | _ | _ | n <;> simp [hn]
  · obtain ⟨ha, hb⟩ := not_or.1 hn
    rw [Bool.eq_false_iff.2 fun h => hn (hun.1 h)]
    have hlt := fun {x y} => fp32_sound.lineValue_lt_iff (a := x) (b := y) fp32_bounded
    have hle := fun {x y} => fp32_sound.lineValue_le_iff (a := x) (b := y) fp32_bounded
    rcases n with _ | _ | _ | _ | _ | _ | _ | n <;>
      simp [hn, hlt ha hb, hlt hb ha, hle ha hb, hle hb ha, fp32_sound.lineValue_eq_iff fp32_bounded ha hb]

theorem fcompare_snd (c : BitVec 3) (a b : Nat) :
    (fcompare c a b).2 = flagIf ((fp32.value a).isSig || (fp32.value b).isSig ||
      (((fp32.value a).isNan || (fp32.value b).isNan) && (decide (2 ≤ c.toNat) && decide (c.toNat ≤ 5)))) flagNV := rfl

/-- Settles O21: codes are ordered as their values, FRND's integer is a code, and FSETP's comparison is that of the values. -/
theorem floatExtremesSignsAndComparisons : Obligations.FloatExtremesSignsAndComparisons := by
  constructor
  · intro g m d a b s t v x y
    have hx : x < 2 ^ 32 := BitVec.isLt _
    have hy : y < 2 ^ 32 := BitVec.isLt _
    have hmin := fun b => fp32_sound.minmax_gives fp32_bounded b x y
    have hlt := fun b => fp32_sound.minmax_lt b hx hy
    obtain ⟨hrnd, hgives⟩ := frndWord_gives (roundingMode_ne_sr m) hx
    refine ⟨fun h => h.answers_fpWord rfl rfl (hlt false) (hmin false), fun h => h.answers_fpWord rfl rfl (hlt true) (hmin true), fun h => ?_, fun h => ?_,
      fun h => h.answers_fpWord rfl rfl hrnd hgives⟩
    · exact h.answers_fpWord rfl rfl ((fp32.magOf_lt x).trans (by decide)) ⟨fp32_magOf_toNat v, rfl⟩
    · exact h.answers_fpWord rfl rfl (fp32_sound.code_lt (fp32.magOf_lt x) _) ⟨fp32_negate_toNat v, rfl⟩
  · intro g m c q a b s t x y old invalid h
    have hbad : invalid ↔ ((fp32.value x).isSig || (fp32.value y).isSig ||
        (((fp32.value x).isNan || (fp32.value y).isNan) && (decide (2 ≤ c.toNat) && decide (c.toNat ≤ 5)))) = true := by
      simp only [Bool.or_eq_true, Bool.and_eq_true, fp32_sound.isSig_value, fp32_sound.isNan_value, decide_eq_true_iff, or_assoc]
      rfl
    refine (h.answers_predicate rfl rfl rfl).imp fun s' ⟨h7, hpred, hflags⟩ => ⟨h7, fun hq => ⟨(fcompare c x y).1, fcompare_fst c x y, ?_⟩, fun hi => ?_, fun hi => ?_⟩
    · rw [hpred hq]
      exact combine_eq ..
    · rw [hflags]
      show _ ||| (fcompare c x y).2 = _
      rw [fcompare_snd, hbad.1 hi]
      rfl
    · rw [hflags]
      show _ ||| (fcompare c x y).2 = _
      rw [fcompare_snd, Bool.eq_false_iff.2 fun h => hi (hbad.2 h)]
      exact flags_or_zero _

end Sys2Proof.Machine

/-! SUPPORT. The conversion words (R147, R163 to R165). -/

namespace Sys2Proof.Machine
open Sys2Proof

/-! ## Fields and modes -/

/-- A word that executes has no reserved field (R58). -/
theorem State.executes.fieldsOk {s : State} {i : Instr} (h : s.executes i) : i.fieldsOk = true := by
  obtain ⟨_, _, hcause, _⟩ := h
  by_contra hno
  rw [decodeCause_of_reserved (Bool.eq_false_iff.2 hno)] at hcause
  cases hcause

theorem shiftLeft_eq_ofNat (x : Word) (k : Nat) : x <<< k = BitVec.ofNat 32 (x.toNat * 2 ^ k) :=
  BitVec.eq_of_toNat_eq (by rw [BitVec.toNat_shiftLeft, Nat.shiftLeft_eq, BitVec.toNat_ofNat])

theorem ushiftRight_eq_ofNat (x : Word) (k : Nat) : x >>> k = BitVec.ofNat 32 (x.toNat / 2 ^ k) :=
  BitVec.eq_of_toNat_eq (by rw [BitVec.toNat_ushiftRight, Nat.shiftRight_eq_div_pow, BitVec.toNat_ofNat,
    Nat.mod_eq_of_lt ((Nat.div_le_self ..).trans_lt x.isLt)])

/-- R147: the generator's step. -/
theorem srStep_eq (s : Word) : srStep s = nextSeed s := by
  unfold srStep nextSeed
  simp only [shiftLeft_eq_ofNat, ushiftRight_eq_ofNat]
  rfl

theorem convMode_eq (m : BitVec 2) (r : BitVec 1) (seed : Word) (k : Nat) : convMode m r (srStep seed) k = conversionMode m r seed k := by
  unfold convMode conversionMode
  rw [srStep_eq, modeOf_eq]
  simp only [beq_iff_eq]
  rfl

theorem conversionMode_drawn (m : BitVec 2) (r : BitVec 1) (seed : Word) (k : Nat) : (conversionMode m r seed k).Drawn := by
  unfold conversionMode
  split
  · rintro b ⟨⟩
    exact Nat.mod_lt _ (by decide)
  · exact roundingMode_drawn m

theorem srSeed_getD (r : BitVec 1) (th : Thread) : (srSeed r th).getD th.srseed = if r = 1 then nextSeed th.srseed else th.srseed := by
  unfold srSeed
  rw [← srStep_eq]
  by_cases hr : r = 1
  · rw [if_pos hr, if_pos (beq_iff_eq.2 hr)]
    rfl
  · rw [if_neg hr, if_neg fun h => hr (beq_iff_eq.1 h)]
    rfl

/-! ## Between floating-point formats (R163) -/

section
variable {f : Fmt} (hf : f.Sound) {mode : RMode} (hd : mode.Drawn) (sat : Bool) (a : Nat)
include hf hd

/-- R163: narrowing an FP32 code. -/
theorem Fmt.Sound.narrow_gives : narrowGives f mode sat a (narrow f mode sat a).1 (narrow f mode sat a).2 := by
  refine ⟨fun hn => ?_, fun hinf hsat => ?_, fun hinf hsat => ⟨fun i hi => ?_, fun hi => ?_⟩, fun h0 => ?_, fun hfin hx => ?_⟩
  · obtain ⟨s, hs, hsig⟩ := fp32_sound.value_of_nan hn
    simp only [narrow, hs]
    exact nanGives_flagIf hsig
  · simp [narrow, Fmt.value_of_infinite hinf, hsat, signed_eq_code]
    rfl
  · simp [narrow, Fmt.value_of_infinite hinf, hsat, hi, signed_eq_code]
    rfl
  · simp [narrow, Fmt.value_of_infinite hinf, hsat, hi]
  · have hfin : finiteCode fp32 a := by rw [finiteCode, h0]; exact Nat.zero_le _
    have hm : fp32.magOf a = 0 := h0
    simp only [narrow, fp32_sound.value_of_finite hfin, if_pos (Fmt.finite_eq_zero.2 hm), signed_eq_code]
    exact ⟨rfl, trivial⟩
  · have hm : ¬ fp32.magOf a = 0 := fun h => hx (fp32_sound.codeValue_eq_zero.2 h)
    simp only [narrow, fp32_sound.value_of_finite hfin, Fmt.finite_eq_zero, hm, if_false]
    rw [fp32_sound.codeValue_finite]
    exact hf.round_roundsTo hd sat _ (fun h => hm (Fmt.finite_eq_zero.1 h)) _

theorem Fmt.Sound.narrow_lt : (narrow f mode sat a).1 < 2 ^ f.width := by
  unfold narrow
  split
  · exact hf.nan_lt
  · rename_i neg _
    have hinf := hf.infCode_lt neg
    unfold Fmt.infCode at hinf
    split_ifs
    · exact hf.code_lt hf.max_lt _
    · split <;> simp_all
  · split_ifs with hm
    · exact hf.code_lt (Nat.two_pow_pos _) _
    · exact hf.lt_of_roundsTo (hf.round_roundsTo hd sat _ hm _)

end

/-- A format all of whose finite values FP32 holds. -/
structure Fmt.Narrow (f : Fmt) : Prop where
  sound : f.Sound
  p_le : f.p ≤ 24
  least : -149 ≤ f.emin - f.p + 1
  max_le : f.val f.maxCode ≤ fp32.val fp32.maxCode

theorem fmtOf_narrow (c : BitVec 3) : (fmtOf c).Narrow := by
  have hmax : ∀ f : Fmt, f = fp16 ∨ f = bf16 ∨ f = e4m3 ∨ f = e5m2 ∨ f = e2m1 → f.val f.maxCode ≤ fp32.val fp32.maxCode := by
    rintro f (rfl | rfl | rfl | rfl | rfl) <;> norm_num [Fmt.val, Fmt.finite, fp32, fp16, bf16, e4m3, e5m2, e2m1]
  refine ⟨fmtOf_sound c, ?_, ?_, hmax _ ?_⟩ <;> revert c <;> decide

section
variable {f : Fmt} (hf : f.Narrow)
include hf

/-- R163: every finite value of a narrower format is an FP32 value. -/
theorem Fmt.Narrow.exists_fp32 {k : Nat} (hk : k ≤ f.maxCode) : ∃ j ≤ fp32.maxCode, fp32.val j = f.val k := by
  have hle := f.le_finite_snd k
  have hlt : (f.finite k).1 < 2 * 2 ^ (fp32.p - 1) := (f.finite_fst_lt k).trans_le
    (Nat.mul_le_mul_left 2 (Nat.pow_le_pow_right Nat.two_pos (Nat.sub_le_sub_right hf.p_le 1)))
  obtain ⟨j, hj⟩ := fp32.exists_val_of_le hlt (e := (f.finite k).2) (hf.least.trans hle)
  refine ⟨j, fp32.val_strictMono.le_iff_le.1 ?_, hj⟩
  exact hj.trans_le ((f.val_strictMono.monotone hk).trans hf.max_le)

/-- R163: widening is exact. -/
theorem Fmt.Narrow.widen_gives (c : Nat) : (widen f c).1 < 2 ^ 32 ∧ widenGives f c (widen f c).1 (widen f c).2 := by
  by_cases hn : nanCode f c
  · obtain ⟨s, hs, hsig⟩ := hf.sound.value_of_nan hn
    simp only [widen, hs]
    exact ⟨by decide, fun _ => nanGives_flagIf hsig, fun h => absurd h hn.2, fun h => absurd h hn.1⟩
  rcases finite_or_infinite hn with hfin | hinf
  · obtain ⟨j, hj, hval⟩ := hf.exists_fp32 (k := f.magOf c) hfin
    have hjlt := hj.trans_lt fp32_sound.max_lt
    have hword : widen f c = (fp32.code (f.negOf c) j, 0) := by
      simp only [widen, hf.sound.value_of_finite hfin]
      by_cases h0 : (f.finite (f.magOf c)).1 = 0
      · have hj0 : j = 0 := by
          rw [← Fmt.val_eq_zero (f := fp32), hval, Fmt.val_eq_zero]
          exact Fmt.finite_eq_zero.1 h0
        rw [h0, Fmt.pack_zero, hj0]
      · rw [Fmt.pack_fin _ _ _ h0, fp32_sound.round_of_val rne_drawn false _ h0 hj hval.symm]
    rw [hword]
    refine ⟨fp32_sound.code_lt hjlt _, fun h => absurd h hn, fun h => absurd hfin (hf.sound.not_finite_of_infinite h), fun _ => ⟨rfl, ?_, ?_, ?_⟩⟩
    · show fp32.magOf _ ≤ _
      rwa [Fmt.magOf_code hjlt]
    · exact Fmt.negOf_code hjlt _
    · rw [fp32_sound.codeValue_code hjlt, hf.sound.codeValue_eq, hval]
  · simp only [widen, Fmt.value_of_infinite hinf, Fmt.pack_inf]
    exact ⟨fp32_sound.infCode_lt _, fun h => absurd h hn, fun _ => ⟨(signed_eq_code ..).symm, rfl⟩, fun h => absurd h (hf.sound.not_finite_of_infinite hinf)⟩

end

/-! ## CVTF and CVTP (R163, R164) -/

/-- R153: the formats of CVTF and CVTP. -/
theorem fmtOf_of_cvtFormatOk : ∀ c : BitVec 3, cvtFormatOk c = true → fmtOf c = if c = 1 then fp16 else if c = 2 then bf16 else if c = 3 then e4m3 else e5m2 := by
  decide

theorem fmtOf_width_le (c : BitVec 3) : (fmtOf c).width ≤ 16 := by
  revert c
  decide

theorem fmtOf_width_le_8 : ∀ c : BitVec 3, ¬ (c = 1 ∨ c = 2) → (fmtOf c).width ≤ 8 := by decide

theorem toNat_append_eq {m n : Nat} (x : BitVec m) (y : BitVec n) : (x ++ y).toNat = x.toNat * 2 ^ n + y.toNat := by
  rw [BitVec.toNat_append, ← Nat.shiftLeft_add_eq_or_of_lt y.isLt, Nat.shiftLeft_eq]

/-- R164: where CVTP places its elements. -/
theorem cvtpPlace_eq (c : BitVec 3) (h : BitVec 1) (z : Word) {e0 e1 : Nat} (h0 : e0 < 2 ^ (fmtOf c).width) (h1 : e1 < 2 ^ (fmtOf c).width) :
    cvtpPlace c h z.toNat e0 e1 < 2 ^ 32 ∧ BitVec.ofNat 32 (cvtpPlace c h z.toNat e0 e1) =
      if c = 1 ∨ c = 2 then BitVec.ofNat 16 e1 ++ BitVec.ofNat 16 e0
      else if h = 0 then z.extractLsb' 16 16 ++ BitVec.ofNat 8 e1 ++ BitVec.ofNat 8 e0
      else BitVec.ofNat 8 e1 ++ BitVec.ofNat 8 e0 ++ z.extractLsb' 0 16 := by
  have hz := z.isLt
  unfold cvtpPlace
  by_cases hc : c = 1 ∨ c = 2
  · have h16 : (fmtOf c).width = 16 := by rcases hc with rfl | rfl <;> rfl
    rw [h16] at h0 h1
    rw [if_pos (by simpa using hc), if_pos hc]
    refine ⟨by omega, BitVec.eq_of_toNat_eq ?_⟩
    rw [toNat_append_eq, BitVec.toNat_ofNat, BitVec.toNat_ofNat, BitVec.toNat_ofNat]
    omega
  · have h8 := fmtOf_width_le_8 c hc
    have h0' := h0.trans_le (Nat.pow_le_pow_right Nat.two_pos h8)
    have h1' := h1.trans_le (Nat.pow_le_pow_right Nat.two_pos h8)
    rw [if_neg (by simpa using hc), if_neg hc]
    by_cases hh : h = 0
    · rw [if_pos (by simpa using hh), if_pos hh]
      refine ⟨by omega, BitVec.eq_of_toNat_eq ?_⟩
      rw [toNat_append_eq, toNat_append_eq, BitVec.extractLsb'_toNat, Nat.shiftRight_eq_div_pow]
      simp only [BitVec.toNat_ofNat]
      omega
    · rw [if_neg (by simpa using hh), if_neg hh]
      refine ⟨by omega, BitVec.eq_of_toNat_eq ?_⟩
      rw [toNat_append_eq, toNat_append_eq, BitVec.extractLsb'_toNat, Nat.shiftRight_eq_div_pow]
      simp only [BitVec.toNat_ofNat]
      omega

section
variable {g : Guard} {m : BitVec 2} {d a : BitVec 6} {f : BitVec 3} {r v w : BitVec 1} {s : State} {t : Nat}

theorem cvtf_fields (h : Runs s (.cvtf g m d a f r v w) t) : cvtFormatOk f = true ∧ (w = 1 → r ≠ 1) := by
  have hok : (Instr.cvtf g m d a f r v w).fieldsOk = true := h.1.fieldsOk
  simp only [Instr.fieldsOk, Bool.and_eq_true, Bool.or_eq_true, beq_iff_eq] at hok
  obtain ⟨⟨hf, _⟩, hw⟩ := hok
  refine ⟨hf, ?_⟩
  rintro rfl rfl
  simp at hw

theorem cvtp_fields (h : Runs s (.cvtp g m d a f r v w) t) : cvtFormatOk f = true := by
  have hok : (Instr.cvtp g m d a f r v w).fieldsOk = true := h.1.fieldsOk
  simp only [Instr.fieldsOk, Bool.and_eq_true] at hok
  exact hok.1.1

end

theorem bit_cases : ∀ w : BitVec 1, w = 0 ∨ w = 1 := by decide

theorem floatFormatConversions : clausesFloatFormatConversions := by
  intro g m d a f r v w s t th x y z fm
  have hsound := fmtOf_sound f
  have hfit : ∀ {c}, c < 2 ^ (fmtOf f).width → c < 2 ^ 32 := fun {c} h => h.trans_le (Nat.pow_le_pow_right Nat.two_pos ((fmtOf_width_le f).trans (by decide)))
  have hd := fun k => convMode_eq m r th.srseed k ▸ conversionMode_drawn m r th.srseed k
  have hlt := fun k => hsound.narrow_lt (hd k) (v == 1)
  have hnarrow : fmtOf f = fm → ∀ k c, narrowGives fm (conversionMode m r th.srseed k) (decide (v = 1)) c
      (narrow (fmtOf f) (convMode m r (srStep th.srseed) k) (v == 1) c).1 (narrow (fmtOf f) (convMode m r (srStep th.srseed) k) (v == 1) c).2 := by
    intro hfm k c
    rw [← hfm, ← convMode_eq]
    exact hsound.narrow_gives (hd k) _ c
  refine ⟨fun h => ?_, fun h => ?_⟩
  · obtain ⟨hf, hw⟩ := cvtf_fields h
    have hfm : fmtOf f = fm := fmtOf_of_cvtFormatOk f hf
    rcases bit_cases w with rfl | rfl
    · exact ⟨h.answers_code rfl rfl rfl rfl (hfit (hlt 0 x)) ⟨fun _ => hnarrow hfm 0 x, fun h => absurd h (by decide)⟩, h.answers_seed rfl rfl (srSeed_getD r th)⟩
    · obtain ⟨hfit32, hwiden⟩ := (fmtOf_narrow f).widen_gives (x % 2 ^ (fmtOf f).width)
      refine ⟨h.answers_code rfl rfl rfl rfl hfit32 ⟨fun h => absurd h (by decide), fun _ => hfm ▸ hwiden⟩, h.answers_seed rfl rfl ?_⟩
      rw [if_neg (hw rfl)]
      rfl
  · have hfm : fmtOf f = fm := fmtOf_of_cvtFormatOk f (cvtp_fields h)
    obtain ⟨hfit32, hplace⟩ := cvtpPlace_eq f w z (hlt 0 x) (hlt 1 y)
    exact ⟨h.answers_code rfl rfl rfl rfl hfit32 ⟨_, _, _, _, rfl, hnarrow hfm 0 x, hnarrow hfm 1 y, hplace⟩, h.answers_seed rfl rfl (srSeed_getD r th)⟩

end Sys2Proof.Machine

/-! SUPPORT. The integer conversions (R165) and the microscaling words (R166, R167). -/

namespace Sys2Proof.Machine
open Sys2Proof

/-- R145: a magnitude up to the greatest finite one does not overflow. -/
theorem Fmt.Sound.not_overflows {f : Fmt} (hf : f.Sound) {mode : RMode} (hd : mode.Drawn) (neg : Bool) {m : Nat} (hm : m ≠ 0) {e : Int}
    (hle : (m : ℚ) * 2 ^ e ≤ f.val f.maxCode) : ¬ overflows f mode (sgn neg * (m * 2 ^ e)) := by
  have hA : 0 < (m : ℚ) * 2 ^ e := by have := two_zpow_pos e; positivity
  have hQ := two_zpow_pos (f.quantum f.maxCode)
  obtain ⟨j, mag, t, hgrid, hq, _⟩ := hf.round_eq hd false neg hm e
  rw [hf.overflows_iff hd hA hgrid hq, hgrid.max_lt_iff]
  rintro (h | ⟨_, hup⟩)
  · linarith
  · have := (div_pos_iff_of_pos_right hQ).1 (hup.pos hd)
    linarith

/-! ## CVTI (R165) -/

theorem fp32_negOf_toNat (v : Word) : fp32.negOf v.toNat = v.msb := by
  show (v.toNat / 2 ^ 31 % 2 == 1) = _
  rw [BitVec.msb_eq_decide, Bool.eq_iff_iff]
  have := v.isLt
  simp
  omega

/-- R49: the bounds and the width of an integer type. -/
theorem intType_eq : ∀ c : BitVec 3, (intType c).1 = (typeBounds c).1 ∧ (intType c).2.1 = (typeBounds c).2 ∧
    (intType c).2.2 = if c = 0 ∨ c = 1 then 32 else if c = 2 ∨ c = 3 then 16 else 8 := by decide

theorem intType_bounds : ∀ c : BitVec 3, (intType c).1 = 0 ∧ (intType c).2.1 = 2 ^ (intType c).2.2 - 1 ∨
    2 * (intType c).1 = -2 ^ (intType c).2.2 ∧ 2 * (intType c).2.1 = 2 ^ (intType c).2.2 - 2 := by decide

theorem intType_le : ∀ c : BitVec 3, -4294967296 ≤ (intType c).1 ∧ (intType c).2.1 ≤ 4294967296 := by decide

/-- R165: FP32 to an integer type. -/
theorem toIntType_gives {mode : RMode} (hmode : ∀ r, mode ≠ .sr r) (c : BitVec 3) (v : Word) :
    let r := ((toIntType mode c v.toNat).1.toNat : Int)
    let fl := (toIntType mode c v.toNat).2
    let lo := (intType c).1
    let hi := (intType c).2.1
    (nanCode fp32 v.toNat → r = 0 ∧ fl = flagNV) ∧
    (infinite fp32 v.toNat → r = (if v.msb then lo else hi) % 2 ^ 32 ∧ fl = flagNV) ∧
    (finiteCode fp32 v.toNat → ∃ n, integerOf mode (codeValue fp32 v.toNat) n ∧
      (n < lo → r = lo % 2 ^ 32 ∧ fl = flagNV) ∧ (hi < n → r = hi % 2 ^ 32 ∧ fl = flagNV) ∧
      (lo ≤ n → n ≤ hi → r = n % 2 ^ 32 ∧ fl = if codeValue fp32 v.toNat = n then 0 else flagNX)) := by
  intro r fl lo hi
  have hlohi : lo ≤ hi := by revert c; decide
  refine ⟨fun hn => ?_, fun hinf => ?_, fun hfin => ?_⟩
  · obtain ⟨s, hs, _⟩ := fp32_sound.value_of_nan hn
    simp only [r, fl, toIntType, hs]
    exact ⟨rfl, trivial⟩
  · simp only [r, fl, toIntType, Fmt.value_of_infinite hinf, natCast_toNat_ofInt, fp32_negOf_toNat]
    exact ⟨rfl, trivial⟩
  · obtain ⟨hint, hexact⟩ := roundTo_integer hmode (fp32.negOf v.toNat) (fp32.finite (fp32.magOf v.toNat)).1 (fp32.finite (fp32.magOf v.toNat)).2
    rw [← fp32_sound.codeValue_finite] at hint hexact
    refine ⟨_, hint, ?_⟩
    have hword : toIntType mode c v.toNat =
        let n := signedInt (fp32.negOf v.toNat) (roundTo mode (fp32.negOf v.toNat) (fp32.finite (fp32.magOf v.toNat)).1 (fp32.finite (fp32.magOf v.toNat)).2 0).1
        if n < lo then (BitVec.ofInt 32 lo, flagNV) else if hi < n then (BitVec.ofInt 32 hi, flagNV)
        else (BitVec.ofInt 32 n, flagIf (roundTo mode (fp32.negOf v.toNat) (fp32.finite (fp32.magOf v.toNat)).1 (fp32.finite (fp32.magOf v.toNat)).2 0).2 flagNX) := by
      simp only [toIntType, fp32_sound.value_of_finite hfin]
      rfl
    simp only [r, fl, hword]
    generalize signedInt _ _ = n at *
    refine ⟨fun h => ?_, fun h => ?_, fun h1 h2 => ?_⟩
    · rw [if_pos h, natCast_toNat_ofInt]
      exact ⟨rfl, rfl⟩
    · rw [if_neg (by omega), if_pos h, natCast_toNat_ofInt]
      exact ⟨rfl, rfl⟩
    · rw [if_neg (by omega), if_neg (by omega), natCast_toNat_ofInt]
      refine ⟨rfl, ?_⟩
      split_ifs with hx
      · rw [Bool.eq_false_iff.2 fun h => hexact.1 h hx]
        rfl
      · rw [hexact.2 hx]
        rfl

theorem and_flagNX (fl : BitVec 5) : fl &&& flagNX = if fl.getLsbD 4 = true then flagNX else 0 := by revert fl; decide

/-- R165: the low bits of a register as a value of an integer type. -/
def typeValue (c : BitVec 3) (v : Word) : Int :=
  let u : Int := ((v.toNat % 2 ^ (intType c).2.2 : Nat) : Int)
  if (intType c).2.1 < u then u - 2 ^ (intType c).2.2 else u

theorem fromIntType_eq (mode : RMode) (c : BitVec 3) (v : Word) : fromIntType mode c v = if typeValue c v = 0 then (0, 0) else
    ((fp32.round mode false (decide (typeValue c v < 0)) (typeValue c v).natAbs 0).1,
      (fp32.round mode false (decide (typeValue c v < 0)) (typeValue c v).natAbs 0).2 &&& flagNX) := rfl

theorem typeValue_bounds (c : BitVec 3) (v : Word) : (intType c).1 ≤ typeValue c v ∧ typeValue c v ≤ (intType c).2.1 ∧
    (typeValue c v - v.toNat) % 2 ^ (intType c).2.2 = 0 := by
  have hbounds := intType_bounds c
  unfold typeValue
  dsimp only
  generalize (intType c).2.2 = w at *
  obtain ⟨p, hp⟩ : ∃ p : Nat, p = 2 ^ w := ⟨_, rfl⟩
  have hcast : (2 : Int) ^ w = p := by rw [hp]; push_cast; rfl
  have hpos : 0 < p := hp ▸ Nat.two_pow_pos w
  have hlt := Nat.mod_lt v.toNat hpos
  have hdvd : (((v.toNat % p : Nat) : Int) - v.toNat) % p = 0 := by
    rw [Int.natCast_mod, Int.sub_emod, Int.emod_emod]
    simp
  rw [hcast] at hbounds ⊢
  rw [← hp]
  generalize v.toNat % p = u at *
  refine ⟨by split_ifs <;> omega, by split_ifs <;> omega, ?_⟩
  split_ifs
  · rw [show (u : Int) - p - v.toNat = u - v.toNat - p by ring, Int.sub_emod_right, hdvd]
  · exact hdvd

/-- An integer as a sign and a magnitude. -/
theorem sgn_mul_natAbs (n : Int) : sgn (decide (n < 0)) * ((n.natAbs : ℚ) * 2 ^ (0 : Int)) = n := by
  rw [zpow_zero, mul_one, Nat.cast_natAbs]
  rcases lt_or_ge n 0 with h | h
  · simp [h, abs_of_neg h]
  · simp [h.not_gt, abs_of_nonneg h]

theorem natAbs_le_fp32_max {n : Int} (h : n.natAbs ≤ 4294967296) : (n.natAbs : ℚ) * 2 ^ (0 : Int) ≤ fp32.val fp32.maxCode := by
  have hQ : (n.natAbs : ℚ) ≤ 4294967296 := by exact_mod_cast h
  have htop : (4294967296 : ℚ) ≤ fp32.val fp32.maxCode := by norm_num [Fmt.val, Fmt.finite, fp32]
  rw [zpow_zero, mul_one]
  exact hQ.trans htop

/-- R165: a nonzero integer of up to 32 bits rounded to FP32. -/
theorem exists_round_natAbs {mode : RMode} (hd : mode.Drawn) {n : Int} (h0 : n ≠ 0) (hn : n.natAbs ≤ 4294967296) :
    ∃ r, fp32.round mode false (decide (n < 0)) n.natAbs 0 = r ∧ r.1 < 2 ^ fp32.width ∧ rounded fp32 mode n r.1 ∧
      (r.2.getLsbD 4 = true ↔ codeValue fp32 r.1 ≠ n) := by
  have habs : n.natAbs ≠ 0 := Int.natAbs_ne_zero.2 h0
  have hround := fp32_sound.round_roundsTo hd false (decide (n < 0)) habs 0
  have hover := fp32_sound.not_overflows hd (decide (n < 0)) habs (natAbs_le_fp32_max hn)
  have hlt := fp32_sound.lt_of_roundsTo hround
  rw [sgn_mul_natAbs] at hround hover
  obtain ⟨hrounded, _, _, _, _, hexact⟩ := hround.2 hover
  exact ⟨_, rfl, hlt, hrounded, hexact⟩

/-- R165: an integer type to FP32. -/
theorem fromIntType_gives {mode : RMode} (hd : mode.Drawn) (c : BitVec 3) (v : Word) :
    (fromIntType mode c v).1 < 2 ^ 32 ∧ ∃ n : Int, (intType c).1 ≤ n ∧ n ≤ (intType c).2.1 ∧ (n - v.toNat) % 2 ^ (intType c).2.2 = 0 ∧
      (n = 0 → (fromIntType mode c v).1 = 0 ∧ (fromIntType mode c v).2 = 0) ∧
      (n ≠ 0 → rounded fp32 mode n (fromIntType mode c v).1 ∧ (fromIntType mode c v).2 = if codeValue fp32 (fromIntType mode c v).1 = n then 0 else flagNX) := by
  obtain ⟨hlo, hhi, hmod⟩ := typeValue_bounds c v
  obtain ⟨hle1, hle2⟩ := intType_le c
  have hword := fromIntType_eq mode c v
  generalize typeValue c v = n at *
  by_cases h0 : n = 0
  · rw [hword, if_pos h0]
    exact ⟨by decide, n, hlo, hhi, hmod, fun _ => ⟨rfl, rfl⟩, fun h => absurd h0 h⟩
  · obtain ⟨r, hr, hlt, hrounded, hexact⟩ := exists_round_natAbs hd h0 (by omega)
    rw [if_neg h0, hr] at hword
    rw [hword]
    refine ⟨hlt, n, hlo, hhi, hmod, fun h => absurd h h0, fun _ => ⟨hrounded, ?_⟩⟩
    dsimp only
    rw [and_flagNX]
    simp only [hexact, ite_not]

theorem integerConversions : clausesIntegerConversions := by
  intro g m d a c s t v x lo hi width
  obtain ⟨hlo, hhi, hwidth⟩ := intType_eq c
  refine ⟨fun h => ?_, fun h => ?_⟩
  · have hgives := toIntType_gives (roundingMode_ne_sr m) c v
    rw [hlo, hhi] at hgives
    obtain ⟨hnan, hinf, hfin⟩ := hgives
    refine h.answers_fpWord rfl rfl (BitVec.isLt _) ⟨fun hn => ?_, hinf, hfin⟩
    obtain ⟨hr, hfl⟩ := hnan hn
    exact ⟨by exact_mod_cast hr, hfl⟩
  · obtain ⟨hlt, hgives⟩ := fromIntType_gives (roundingMode_drawn m) c v
    rw [hlo, hhi, hwidth] at hgives
    exact h.answers_fpWord rfl rfl hlt hgives

/-- Settles O22: narrowing rounds once, widening is exact, and an integer is rounded and clamped, or its value rounded. -/
theorem conversions : Obligations.Conversions := ⟨floatFormatConversions, integerConversions⟩

end Sys2Proof.Machine

/-! SUPPORT. The microscaling words (R166, R167). -/

namespace Sys2Proof.Machine
open Sys2Proof

/-- R153, R166: the element formats and their greatest exponents. -/
theorem fmtOf_of_mxFormatOk : ∀ c : BitVec 3, mxFormatOk c = true →
    fmtOf c = (if c = 3 then e4m3 else if c = 4 then e5m2 else e2m1) ∧ emaxOf c = if c = 3 then 8 else if c = 4 then 15 else 2 := by decide

theorem Fmt.Sound.finite_ne_zero {f : Fmt} (hf : f.Sound) {c : Nat} (h0 : codeValue f c ≠ 0) : (f.finite (f.magOf c)).1 ≠ 0 :=
  fun h => h0 (hf.codeValue_eq_zero.2 (Fmt.finite_eq_zero.1 h))

theorem mxWidth_le : ∀ c : BitVec 3, mxFormatOk c = true → (fmtOf c).width ≤ 8 := by decide

/-! ## MXD (R167) -/

theorem mul_two_zpow_sgn (neg : Bool) (m : Nat) (e k : Int) : sgn neg * ((m : ℚ) * 2 ^ (e + k)) = sgn neg * (m * 2 ^ e) * 2 ^ k := by
  rw [zpow_add₀ two_ne_zero]
  ring

/-- R167: an element's value times its scale, rounded RNE. -/
theorem mxExpand_gives (f : BitVec 3) (s c : Nat) :
    (mxExpand f s c).1 < 2 ^ 32 ∧ (s = 255 → (mxExpand f s c).1 = fp32.nan ∧ (mxExpand f s c).2 = 0) ∧
    (s ≠ 255 → nanCode (fmtOf f) c → nanGives fp32 (signalling (fmtOf f) c) (mxExpand f s c).1 (mxExpand f s c).2) ∧
    (s ≠ 255 → infinite (fmtOf f) c → (mxExpand f s c).1 = signed fp32 (negative (fmtOf f) c) 0x7F800000 ∧ (mxExpand f s c).2 = 0) ∧
    (s ≠ 255 → finiteCode (fmtOf f) c → codeValue (fmtOf f) c = 0 → (mxExpand f s c).1 = signed fp32 (negative (fmtOf f) c) 0 ∧ (mxExpand f s c).2 = 0) ∧
    (s ≠ 255 → finiteCode (fmtOf f) c → codeValue (fmtOf f) c ≠ 0 →
      roundsTo fp32 .rne false (codeValue (fmtOf f) c * (2 : ℚ) ^ ((s : Int) - 127)) (mxExpand f s c).1 (mxExpand f s c).2) := by
  have hf := fmtOf_sound f
  by_cases hs : s = 255
  · have hword : mxExpand f s c = (fp32.nan, 0) := if_pos hs
    rw [hword]
    exact ⟨by decide, fun _ => ⟨rfl, rfl⟩, fun h => absurd hs h, fun h => absurd hs h, fun h => absurd hs h, fun h => absurd hs h⟩
  by_cases hn : nanCode (fmtOf f) c
  · obtain ⟨b, hb, hsig⟩ := hf.value_of_nan hn
    have hword : mxExpand f s c = (fp32.nan, flagIf b flagNV) := by simp only [mxExpand, hs, if_false, hb]
    rw [hword]
    exact ⟨fp32_sound.nan_lt, fun h => absurd h hs, fun _ _ => nanGives_flagIf hsig, fun _ h => absurd h hn.2, fun _ h => absurd h hn.1, fun _ h => absurd h hn.1⟩
  rcases finite_or_infinite hn with hfin | hinf
  · have hinf := fun h => hf.not_finite_of_infinite (c := c) h hfin
    by_cases h0 : codeValue (fmtOf f) c = 0
    · have hm := Fmt.finite_eq_zero.2 (hf.codeValue_eq_zero.1 h0)
      have hword : mxExpand f s c = (fp32.code ((fmtOf f).negOf c) 0, 0) := by
        simp only [mxExpand, hs, if_false, hf.value_of_finite hfin, hm, Fmt.pack_zero]
      rw [hword]
      exact ⟨fp32_sound.code_lt (Nat.two_pow_pos _) _, fun h => absurd h hs, fun _ h => absurd h hn, fun _ h => absurd h hinf,
        fun _ _ _ => ⟨(signed_eq_code ..).symm, rfl⟩, fun _ _ h => absurd h0 h⟩
    · have hm := hf.finite_ne_zero h0
      have hround := fp32_sound.round_roundsTo rne_drawn false ((fmtOf f).negOf c) hm (((fmtOf f).finite ((fmtOf f).magOf c)).2 + ((s : Int) - 127))
      rw [mul_two_zpow_sgn, ← hf.codeValue_finite] at hround
      have hword : mxExpand f s c = fp32.round .rne false ((fmtOf f).negOf c) ((fmtOf f).finite ((fmtOf f).magOf c)).1
          (((fmtOf f).finite ((fmtOf f).magOf c)).2 + ((s : Int) - 127)) := by
        simp only [mxExpand, hs, if_false, hf.value_of_finite hfin, Fmt.pack_fin _ _ _ hm, add_sub_assoc]
      rw [← hword] at hround
      exact ⟨fp32_sound.lt_of_roundsTo hround, fun h => absurd h hs, fun _ h => absurd h hn, fun _ h => absurd h hinf, fun _ _ h => absurd h h0,
        fun _ _ _ => hround⟩
  · have hword : mxExpand f s c = (fp32.code ((fmtOf f).negOf c) 0x7F800000, 0) := by
      simp only [mxExpand, hs, if_false, Fmt.value_of_infinite hinf]
    have hfin := hf.not_finite_of_infinite hinf
    rw [hword]
    exact ⟨fp32_sound.code_lt (by decide) _, fun h => absurd h hs, fun _ h => absurd h hn, fun _ _ => ⟨(signed_eq_code ..).symm, rfl⟩,
      fun _ h => absurd h hfin, fun _ h => absurd h hfin⟩

/-! ## MXQ (R166) -/

/-- R166: the least exponent that covers a block so far and one more value. -/
def blockStep (acc : Option Int) (a : Nat) : Option Int :=
  match fp32.value a with
  | .fin _ m e =>
    if m = 0 then acc
    else let l : Int := (m.log2 : Int) + e
      match acc with | none => some l | some x => some (if x < l then l else x)
  | _ => acc

theorem blockLog_eq (vs : List Nat) : blockLog vs = vs.foldl blockStep none := rfl

theorem blockStep_zero {a : Nat} (ha : finiteCode fp32 a) (h0 : codeValue fp32 a = 0) (acc : Option Int) : blockStep acc a = acc := by
  simp only [blockStep, fp32_sound.value_of_finite ha, Fmt.finite_eq_zero.2 (fp32_sound.codeValue_eq_zero.1 h0), if_true]

theorem log_codeValue {a : Nat} (h0 : codeValue fp32 a ≠ 0) :
    Int.log 2 |codeValue fp32 a| = ((fp32.finite (fp32.magOf a)).1.log2 : Int) + (fp32.finite (fp32.magOf a)).2 := by
  rw [fp32_sound.abs_codeValue, Fmt.val]
  exact int_log_dyadic (fp32_sound.finite_ne_zero h0) _

theorem blockStep_nonzero {a : Nat} (ha : finiteCode fp32 a) (h0 : codeValue fp32 a ≠ 0) (acc : Option Int) :
    blockStep acc a = some (acc.elim (Int.log 2 |codeValue fp32 a|) fun x => max x (Int.log 2 |codeValue fp32 a|)) := by
  have hm := fp32_sound.finite_ne_zero h0
  simp only [blockStep, fp32_sound.value_of_finite ha, hm, if_false, ← log_codeValue h0]
  cases acc with
  | none => rfl
  | some x =>
    simp only [Option.elim_some]
    congr 1
    split_ifs <;> omega

/-- R166: none for a block of zeros, and else the greatest exponent of its values. -/
theorem blockLog_cases (vs : List Nat) (hvs : ∀ a ∈ vs, finiteCode fp32 a) :
    (blockLog vs = none ∧ ∀ a ∈ vs, codeValue fp32 a = 0) ∨
    ∃ l, blockLog vs = some l ∧ (∃ a ∈ vs, codeValue fp32 a ≠ 0 ∧ Int.log 2 |codeValue fp32 a| = l) ∧
      ∀ a ∈ vs, codeValue fp32 a ≠ 0 → Int.log 2 |codeValue fp32 a| ≤ l := by
  rw [blockLog_eq]
  induction vs using List.reverseRecOn with
  | nil => exact .inl ⟨rfl, fun a ha => absurd ha List.not_mem_nil⟩
  | append_singleton vs b ih =>
    have hb := hvs b (by simp)
    have ih := ih fun a ha => hvs a (by simp [ha])
    rw [List.foldl_append, List.foldl_cons, List.foldl_nil]
    by_cases h0 : codeValue fp32 b = 0
    · rw [blockStep_zero hb h0]
      refine ih.imp (fun ⟨hnone, hall⟩ => ⟨hnone, fun a ha => ?_⟩) fun ⟨l, hl, ⟨a, ha, hne, hlog⟩, hmax⟩ =>
        ⟨l, hl, ⟨a, by simp [ha], hne, hlog⟩, fun a ha hne => ?_⟩
      · rcases List.mem_append.1 ha with ha | ha
        · exact hall a ha
        · rw [List.mem_singleton.1 ha, h0]
      · rcases List.mem_append.1 ha with ha | ha
        · exact hmax a ha hne
        · exact absurd (List.mem_singleton.1 ha ▸ h0) hne
    · rw [blockStep_nonzero hb h0]
      right
      rcases ih with ⟨hnone, hall⟩ | ⟨l, hl, ⟨a, ha, hne, hlog⟩, hmax⟩
      · rw [hnone]
        refine ⟨_, rfl, ⟨b, by simp, h0, rfl⟩, fun a ha hne => ?_⟩
        rcases List.mem_append.1 ha with ha | ha
        · exact absurd (hall a ha) hne
        · rw [List.mem_singleton.1 ha]
          rfl
      · rw [hl]
        refine ⟨_, rfl, ?_, fun c hc hcne => ?_⟩
        · simp only [Option.elim_some]
          rcases le_total l (Int.log 2 |codeValue fp32 b|) with hle | hle
          · exact ⟨b, by simp, h0, (max_eq_right hle).symm⟩
          · exact ⟨a, by simp [ha], hne, hlog.trans (max_eq_left hle).symm⟩
        · simp only [Option.elim_some]
          rcases List.mem_append.1 hc with hc | hc
          · exact (hmax c hc hcne).trans (le_max_left ..)
          · rw [List.mem_singleton.1 hc]
            exact le_max_right ..

/-- R166: the scale exponent of a block of finite values. -/
theorem blockScale_gives (f : BitVec 3) {vs : List Nat} (hvs : ∀ a ∈ vs, finiteCode fp32 a) :
    -127 ≤ blockScale f vs ∧ blockScale f vs ≤ 127 ∧ ((∀ a ∈ vs, codeValue fp32 a = 0) → blockScale f vs = -127) ∧
    ∀ a ∈ vs, codeValue fp32 a ≠ 0 → (∀ b ∈ vs, |codeValue fp32 b| ≤ |codeValue fp32 a|) →
      blockScale f vs = max (-127) (min 127 (Int.log 2 |codeValue fp32 a| - emaxOf f)) := by
  unfold blockScale
  rcases blockLog_cases vs hvs with ⟨hnone, hall⟩ | ⟨l, hl, ⟨b, hb, hne, hlog⟩, hmax⟩
  · rw [hnone]
    exact ⟨le_rfl, by norm_num, fun _ => rfl, fun a ha hane => absurd (hall a ha) hane⟩
  · have hclamp : (if l - emaxOf f < -127 then (-127 : Int) else if 127 < l - emaxOf f then 127 else l - emaxOf f) = max (-127) (min 127 (l - emaxOf f)) := by
      split_ifs <;> omega
    rw [hl]
    dsimp only
    rw [hclamp]
    refine ⟨by omega, by omega, fun hall => absurd (hall b hb) hne, fun a ha hane hbig => ?_⟩
    have h1 := hmax a ha hane
    have h2 : l ≤ Int.log 2 |codeValue fp32 a| := hlog ▸ Int.log_mono_right (abs_pos.2 hne) (hbig b hb)
    rw [le_antisymm h1 h2]

theorem blockBad_iff (vs : List Nat) : blockBad vs = true ↔ ¬ ∀ a ∈ vs, finiteCode fp32 a := by
  have hone : ∀ a, (match fp32.value a with | .fin .. => false | _ => true) = true ↔ ¬ finiteCode fp32 a := by
    intro a
    by_cases hfin : finiteCode fp32 a
    · simp [fp32_sound.value_of_finite hfin, hfin]
    · by_cases hn : nanCode fp32 a
      · obtain ⟨s, hs, _⟩ := fp32_sound.value_of_nan hn
        simp [hs, hfin]
      · simp [Fmt.value_of_infinite ((finite_or_infinite hn).resolve_left hfin), hfin]
  unfold blockBad
  rw [List.any_eq_true]
  push Not
  exact exists_congr fun a => and_congr_right fun _ => hone a

/-- R166: an element under a scale exponent. -/
theorem mxElement_gives (f : BitVec 3) {mode : RMode} (hd : mode.Drawn) (x : Int) {a : Nat} (ha : finiteCode fp32 a) :
    (mxElement f mode x a).1 < 2 ^ (fmtOf f).width ∧
    (codeValue fp32 a = 0 → (mxElement f mode x a).1 = signed (fmtOf f) (fp32.negOf a) 0 ∧ (mxElement f mode x a).2 = 0) ∧
    (codeValue fp32 a ≠ 0 → ∃ fl, roundsTo (fmtOf f) mode true (codeValue fp32 a * (2 : ℚ) ^ (-x)) (mxElement f mode x a).1 fl ∧
      (mxElement f mode x a).2 = fl &&& (flagUF ||| flagNX)) := by
  have hf := fmtOf_sound f
  by_cases h0 : codeValue fp32 a = 0
  · have hword : mxElement f mode x a = ((fmtOf f).code (fp32.negOf a) 0, 0) := by
      simp only [mxElement, fp32_sound.value_of_finite ha, Fmt.finite_eq_zero.2 (fp32_sound.codeValue_eq_zero.1 h0), if_true]
    rw [hword]
    exact ⟨hf.code_lt (Nat.two_pow_pos _) _, fun _ => ⟨(signed_eq_code ..).symm, rfl⟩, fun h => absurd h0 h⟩
  · have hm := fp32_sound.finite_ne_zero h0
    have hround := hf.round_roundsTo hd true (fp32.negOf a) hm ((fp32.finite (fp32.magOf a)).2 + -x)
    rw [mul_two_zpow_sgn, ← fp32_sound.codeValue_finite, ← sub_eq_add_neg] at hround
    have hword : mxElement f mode x a = (((fmtOf f).round mode true (fp32.negOf a) (fp32.finite (fp32.magOf a)).1 ((fp32.finite (fp32.magOf a)).2 - x)).1,
        ((fmtOf f).round mode true (fp32.negOf a) (fp32.finite (fp32.magOf a)).1 ((fp32.finite (fp32.magOf a)).2 - x)).2 &&& (flagUF ||| flagNX)) := by
      simp only [mxElement, fp32_sound.value_of_finite ha, hm, if_false]
    generalize (fmtOf f).round mode true (fp32.negOf a) (fp32.finite (fp32.magOf a)).1 ((fp32.finite (fp32.magOf a)).2 - x) = r at *
    rw [hword]
    exact ⟨hf.lt_of_roundsTo hround, fun h => absurd h h0, fun _ => ⟨_, hround, rfl⟩⟩

section
variable {g : Guard} {m : BitVec 2} {d a : BitVec 6} {f : BitVec 3} {r : BitVec 1} {s : State} {t : Nat}

theorem mxq_fields (h : Runs s (.mxq g m d a f r) t) : mxFormatOk f = true := by
  have hok : (Instr.mxq g m d a f r).fieldsOk = true := h.1.fieldsOk
  simp only [Instr.fieldsOk, Bool.and_eq_true] at hok
  exact hok.1

theorem mxd_fields (h : Runs s (.mxd g d a f) t) : mxFormatOk f = true := h.1.fieldsOk

/-- R166: what MXQ gives a thread. -/
def mxqOut (m : BitVec 2) (a : BitVec 6) (f : BitVec 3) (r : BitVec 1) (s : State) (ps : List Nat) (t : Nat) : Nat × BitVec 5 :=
  let vs := ps.map fun u => (s.thread u).code a
  if blockBad vs then (0xFF00, flagNV)
  else
    let e := mxElement f (convMode m r (srStep (s.thread t).srseed) 0) (blockScale f vs) ((s.thread t).code a)
    ((blockScale f vs + 127).toNat * 256 + e.1, e.2)

theorem exec_mxq (g : Guard) (m : BitVec 2) (d a : BitVec 6) (f : BitVec 3) (r : BitVec 1) (s : State) :
    exec (.mxq g m d a f r) s = .next (s.compute (.mxq g m d a f r) .fp 1 10 2 fun s ps t =>
      { floatOut d (mxqOut m a f r s ps t) with seed := srSeed r (s.thread t) }) := by
  show execMxq g m d a f r s = _
  unfold execMxq mxqOut
  congr 2
  funext s ps t
  dsimp only
  split_ifs <;> rfl

end

/-- Settles O20: a block's scale comes from its greatest exponent, and each element is rounded once under it. -/
theorem microscaledBlocks : Obligations.MicroscaledBlocks := by
  intro g m d a f r s t x fm emax value ps finite
  refine ⟨fun h => ⟨?_, h.answers_seed rfl (exec_mxq ..) (srSeed_getD r _)⟩, fun h => ?_⟩
  · obtain ⟨hfm, hemax⟩ := fmtOf_of_mxFormatOk f (mxq_fields h)
    have hfm' : fmtOf f = fm := hfm
    have hemax' : emaxOf f = emax := hemax
    have hfinite : (∀ c ∈ ps.map (fun u => (s.thread u).code a), finiteCode fp32 c) ↔ finite := List.forall_mem_map
    have hbad := blockBad_iff (ps.map fun u => (s.thread u).code a)
    rw [hfinite] at hbad
    by_cases hfin : finite
    · have hgood : ¬ blockBad (ps.map fun u => (s.thread u).code a) = true := fun hb => hbad.1 hb hfin
      have hword : mxqOut m a f r s ps t = ((blockScale f (ps.map fun u => (s.thread u).code a) + 127).toNat * 256 +
          (mxElement f (convMode m r (srStep (s.thread t).srseed) 0) (blockScale f (ps.map fun u => (s.thread u).code a)) x.toNat).1,
          (mxElement f (convMode m r (srStep (s.thread t).srseed) 0) (blockScale f (ps.map fun u => (s.thread u).code a)) x.toNat).2) := if_neg hgood
      obtain ⟨hge, hle, hzero, hscale⟩ := blockScale_gives f (hfinite.2 hfin)
      obtain ⟨helt, he0, he1⟩ := mxElement_gives f (convMode_eq m r (s.thread t).srseed 0 ▸ conversionMode_drawn m r (s.thread t).srseed 0)
        (blockScale f (ps.map fun u => (s.thread u).code a)) (a := x.toNat) (hfin t h.2.2)
      simp only [List.forall_mem_map] at hzero hscale
      generalize blockScale f (ps.map fun u => (s.thread u).code a) = X at *
      have h256 := helt.trans_le (Nat.pow_le_pow_right Nat.two_pos (mxWidth_le f (mxq_fields h)))
      generalize mxElement f (convMode m r (srStep (s.thread t).srseed) 0) X x.toNat = e at *
      rw [fp32_negOf_toNat, hfm'] at he0
      rw [convMode_eq, hfm'] at he1
      rw [hemax'] at hscale
      refine h.answers_code rfl (exec_mxq ..) (r := mxqOut m a f r s ps t) rfl rfl ?_ ⟨fun hno => absurd hfin hno, fun _ => ?_⟩
      · rw [hword]
        dsimp only
        omega
      · have hrem : ((X + 127).toNat * 256 + e.1) % 256 = e.1 := by omega
        rw [hword]
        dsimp only
        rw [hrem]
        exact ⟨X, by omega, hzero, hscale, he0, he1⟩
    · have hword : mxqOut m a f r s ps t = (0xFF00, flagNV) := if_pos (hbad.2 hfin)
      refine h.answers_code rfl (exec_mxq ..) (r := (0xFF00, flagNV)) ?_ ?_ (by decide) ⟨fun _ => ⟨rfl, rfl⟩, fun hno => absurd hno hfin⟩
      · show [(d.toNat, BitVec.ofNat 32 (mxqOut m a f r s ps t).1)] = _
        rw [hword]
      · show (mxqOut m a f r s ps t).2 = _
        rw [hword]
  · obtain ⟨hfm, _⟩ := fmtOf_of_mxFormatOk f (mxd_fields h)
    have hfm' : fmtOf f = fm := hfm
    have hgives := mxExpand_gives f (x.toNat / 256 % 256) (x.toNat % 2 ^ (fmtOf f).width)
    have he : (x.extractLsb' 8 8).toNat = x.toNat / 256 % 256 := by
      rw [BitVec.extractLsb'_toNat, Nat.shiftRight_eq_div_pow]
    obtain ⟨hlt, hgives⟩ := hgives
    refine h.answers_fpWord rfl rfl hlt ?_
    dsimp only
    rw [he, ← hfm']
    exact hgives

end Sys2Proof.Machine

/-! SUPPORT. The choice among the FP32 values that a bound admits (R159), and the integer square root. -/

namespace Sys2Proof.Machine
open Sys2Proof

/-! ## The integer square root -/

theorem sqrt_le_newton {x g : Nat} (hg : 0 < g) : Nat.sqrt x ≤ (g + x / g) / 2 := by
  have hr := Nat.sqrt_le x
  generalize Nat.sqrt x = r at *
  have hsum : 2 * r ≤ g + x / g := by
    rcases le_total (2 * r) g with h | h
    · exact h.trans (Nat.le_add_right ..)
    · have hdiv : 2 * r - g ≤ x / g := by
        rw [Nat.le_div_iff_mul_le hg]
        refine le_trans ?_ hr
        zify [h]
        nlinarith [sq_nonneg ((r : Int) - g)]
      omega
  omega

/-- Newton's iteration from above halves its error. -/
theorem newton_le {x g : Nat} (hg : Nat.sqrt x < g) : (g + x / g) / 2 ≤ (g + Nat.sqrt x) / 2 := by
  have hx : x / g ≤ Nat.sqrt x := by
    refine Nat.lt_succ_iff.1 (Nat.div_lt_of_lt_mul ?_)
    exact (Nat.lt_succ_sqrt x).trans_le (Nat.mul_le_mul_right _ hg)
  omega

theorem isqrtFrom_eq (x f : Nat) : ∀ g, Nat.sqrt x ≤ g → g < Nat.sqrt x + 2 ^ f → isqrtFrom x f g = Nat.sqrt x := by
  induction f with
  | zero => exact fun g hle hlt => by rw [isqrtFrom]; omega
  | succ f ih =>
    intro g hle hlt
    rw [isqrtFrom]
    rw [pow_succ] at hlt
    rcases hle.eq_or_lt with heq | hgt
    · rcases Nat.eq_zero_or_pos g with h0 | hpos
      · rw [if_neg (by rw [h0]; exact Nat.not_lt_zero _), heq]
      · have := sqrt_le_newton (x := x) hpos
        rw [if_neg (by omega), heq]
    · have h1 := sqrt_le_newton (x := x) (g := g) (by omega)
      have h2 := newton_le hgt
      rw [if_pos (by omega)]
      exact ih _ h1 (by omega)

/-- The model's integer square root. -/
theorem isqrt_eq (x : Nat) : isqrt x = Nat.sqrt x := by
  unfold isqrt
  split_ifs with h0
  · rw [h0, Nat.sqrt_zero]
  · have hlt : x < 2 ^ (x.log2 / 2 + 1) * 2 ^ (x.log2 / 2 + 1) := by
      rw [← pow_add]
      exact Nat.lt_log2_self.trans_le (Nat.pow_le_pow_right Nat.two_pos (by omega))
    refine isqrtFrom_eq x _ _ (Nat.sqrt_lt.2 hlt).le ?_
    exact (Nat.pow_lt_pow_right (by norm_num) (by omega)).trans_le (Nat.le_add_left ..)

/-! ## FP32 values in their order -/

/-- The value of the code of an order: −0 has order −1. -/
def orderVal (n : Int) : ℚ := if n < 0 then -fp32.val (-n - 1).toNat else fp32.val n.toNat

/-- The orders of the finite codes. -/
def finiteOrder (n : Int) : Prop := -(fp32.maxCode : Int) - 1 ≤ n ∧ n ≤ fp32.maxCode

theorem orderVal_lt {m n : Int} (h : m < n) (hz : ¬ (m = -1 ∧ n = 0)) : orderVal m < orderVal n := by
  have hmono := fp32.val_strictMono
  unfold orderVal
  split_ifs with h1 h2 h2
  · exact neg_lt_neg (hmono (by omega))
  · have hm := fp32.val_nonneg (-m - 1).toNat
    have hn := fp32.val_nonneg n.toNat
    refine lt_of_le_of_ne (by linarith) fun he => hz ?_
    have hm0 : fp32.val (-m - 1).toNat = 0 := by linarith
    have hn0 : fp32.val n.toNat = 0 := by linarith
    rw [Fmt.val_eq_zero] at hm0 hn0
    omega
  · omega
  · exact hmono (by omega)

theorem orderVal_mono {m n : Int} (h : m ≤ n) : orderVal m ≤ orderVal n := by
  rcases h.eq_or_lt with rfl | hlt
  · rfl
  · by_cases hz : m = -1 ∧ n = 0
    · obtain ⟨rfl, rfl⟩ := hz
      simp [orderVal, Fmt.val_zero]
    · exact (orderVal_lt hlt hz).le

theorem orderVal_order {c : Nat} : orderVal (fp32.order c) = codeValue fp32 c := by
  rw [fp32_sound.codeValue_eq]
  unfold orderVal Fmt.order
  cases fp32.negOf c
  · simp
  · have hneg : -(fp32.magOf c : Int) - 1 < 0 := by omega
    simp [hneg]

theorem finiteOrder_order {c : Nat} (hc : finiteCode fp32 c) : finiteOrder (fp32.order c) := by
  have hle : fp32.magOf c ≤ fp32.maxCode := hc
  unfold finiteOrder Fmt.order
  split_ifs <;> omega

/-- An order's code. -/
theorem codeOfOrder_spec {n : Int} (hn : finiteOrder n) :
    codeOfOrder n < 2 ^ 32 ∧ finiteCode fp32 (codeOfOrder n) ∧ codeValue fp32 (codeOfOrder n) = orderVal n ∧ (0 ≤ n → codeOfOrder n = n.toNat) := by
  obtain ⟨hlo, hhi⟩ := hn
  unfold codeOfOrder orderVal
  split_ifs with h
  · have hlt : (-n - 1).toNat < 2 ^ (fp32.width - 1) := lt_of_le_of_lt (by omega) fp32_sound.max_lt
    refine ⟨fp32_sound.code_lt hlt true, ?_, ?_, fun h' => absurd h h'.not_gt⟩
    · show fp32.magOf _ ≤ _
      rw [Fmt.magOf_code hlt]
      omega
    · rw [fp32_sound.codeValue_code hlt, sgn_true, neg_one_mul]
  · have hlt : n.toNat < 2 ^ (fp32.width - 1) := lt_of_le_of_lt (by omega) fp32_sound.max_lt
    have hcode : fp32.code false n.toNat = n.toNat := by simp [Fmt.code]
    have hfin : finiteCode fp32 (fp32.code false n.toNat) := by
      show fp32.magOf _ ≤ _
      rw [Fmt.magOf_code hlt]
      omega
    have hval := fp32_sound.codeValue_code hlt false
    have hfit := fp32_sound.code_lt hlt false
    rw [sgn_false, one_mul] at hval
    rw [hcode] at hfin hval hfit
    exact ⟨hfit, hfin, hval, fun _ => rfl⟩

/-! ## Rounding the ends of an interval -/

theorem orderOf_zero (mode : RMode) (e : Int) : orderOf mode 0 e = 0 := rfl

/-- A code of FP32 by its order, for the ends of an interval. -/
theorem orderOf_ne_zero (mode : RMode) {x : Int} (hx : x ≠ 0) (e : Int) :
    orderOf mode x e = fp32.order (fp32.round mode true (decide (x < 0)) x.natAbs e).1 := if_neg hx

theorem sgn_mul_natAbs_zpow (x e : Int) : sgn (decide (x < 0)) * ((x.natAbs : ℚ) * 2 ^ e) = x * 2 ^ e := by
  rw [← mul_assoc]
  congr 1
  simpa using sgn_mul_natAbs x

theorem order_max (neg : Bool) : fp32.order (signed fp32 neg fp32.maxCode) = if neg then -(fp32.maxCode : Int) - 1 else fp32.maxCode := by
  cases neg <;> rfl

theorem mul_two_zpow_neg_iff {x e : Int} : (x : ℚ) * 2 ^ e < 0 ↔ x < 0 := by
  have hQ := two_zpow_pos e
  rw [← Int.cast_lt_zero (R := ℚ)]
  constructor <;> intro h <;> nlinarith

theorem orderVal_max : orderVal fp32.maxCode = fp32.val fp32.maxCode := rfl
theorem orderVal_min : orderVal (-(fp32.maxCode : Int) - 1) = -fp32.val fp32.maxCode := rfl
theorem orderVal_zero : orderVal 0 = 0 := fp32.val_zero

theorem orderVal_le_max {n : Int} (hn : finiteOrder n) : orderVal n ≤ fp32.val fp32.maxCode := orderVal_max ▸ orderVal_mono hn.2
theorem neg_max_le_orderVal {n : Int} (hn : finiteOrder n) : -fp32.val fp32.maxCode ≤ orderVal n := orderVal_min ▸ orderVal_mono hn.1

/-- R145: a saturated overflow gives the end of the finite values. -/
theorem order_of_overflow {mode : RMode} {x e : Int} {c : Nat} (hc : c = overflowCode fp32 mode true (x * 2 ^ e)) :
    fp32.order c = if x < 0 then -(fp32.maxCode : Int) - 1 else fp32.maxCode := by
  rw [hc, overflowCode, if_pos (.inl rfl), order_max]
  simp only [decide_eq_true_eq, mul_two_zpow_neg_iff]

/-- R145: a directed rounding overflows beyond an end of the finite values, and gives that end. -/
theorem directed_overflow {mode : RMode} (hmode : mode = .ru ∨ mode = .rd) {x e : Int} {c : Nat} (hover : overflows fp32 mode (x * 2 ^ e))
    (hc : c = overflowCode fp32 mode true (x * 2 ^ e)) :
    (fp32.val fp32.maxCode < x * 2 ^ e ∧ 0 ≤ x ∧ fp32.order c = fp32.maxCode) ∨
      ((x : ℚ) * 2 ^ e < -fp32.val fp32.maxCode ∧ x < 0 ∧ fp32.order c = -(fp32.maxCode : Int) - 1) := by
  have htop := fp32.val_nonneg fp32.maxCode
  have hquantum := two_zpow_pos (Int.log 2 (fp32.val fp32.maxCode) - fp32.p + 1)
  have hside : fp32.val fp32.maxCode < x * 2 ^ e ∨ (x : ℚ) * 2 ^ e < -fp32.val fp32.maxCode := by
    unfold overflows at hover
    simp only [fp32_sound.codeValue_max] at hover
    rcases hmode with rfl | rfl
    · exact hover.imp_right fun h => by linarith
    · exact hover.symm.imp_left fun h => by linarith
  rw [order_of_overflow hc]
  rcases hside with hbig | hsmall
  · have hpos : ¬ x < 0 := fun h => by linarith [(mul_two_zpow_neg_iff (e := e)).2 h]
    exact .inl ⟨hbig, not_lt.1 hpos, if_neg hpos⟩
  · have hneg : x < 0 := mul_two_zpow_neg_iff.1 (by linarith)
    exact .inr ⟨hsmall, hneg, if_pos hneg⟩

theorem order_nonneg_iff (c : Nat) : 0 ≤ fp32.order c ↔ ¬ negative fp32 c = true := by
  show _ ↔ ¬ fp32.negOf c = true
  unfold Fmt.order
  split_ifs with h
  · exact iff_of_false (by omega) (not_not.2 h)
  · exact iff_of_true (by omega) h

/-- R159: the least order whose value is no less than x × 2^e, or an end of the finite values. -/
theorem orderOf_ru (x e : Int) : finiteOrder (orderOf .ru x e) ∧ ((x : ℚ) * 2 ^ e ≤ fp32.val fp32.maxCode → x * 2 ^ e ≤ orderVal (orderOf .ru x e)) ∧
    (∀ n, finiteOrder n → n ≠ -1 → x * 2 ^ e ≤ orderVal n → orderOf .ru x e ≤ n) ∧ (0 ≤ x → 0 ≤ orderOf .ru x e) := by
  by_cases h0 : x = 0
  · subst h0
    rw [orderOf_zero, Int.cast_zero, zero_mul]
    refine ⟨by unfold finiteOrder; omega, fun _ => orderVal_zero.ge, fun n hn hne hle => ?_, fun _ => le_rfl⟩
    by_contra hlt
    have := orderVal_lt (m := n) (n := 0) (by omega) (by omega)
    rw [orderVal_zero] at this
    linarith
  · have hround := fp32_sound.round_roundsTo (mode := .ru) (fun _ h => nomatch h) true (decide (x < 0)) (Int.natAbs_ne_zero.2 h0) e
    rw [sgn_mul_natAbs_zpow] at hround
    rw [orderOf_ne_zero _ h0]
    generalize fp32.round .ru true (decide (x < 0)) x.natAbs e = r at *
    by_cases hover : overflows fp32 .ru (x * 2 ^ e)
    · obtain ⟨hbig, _, hend⟩ | ⟨hsmall, hneg, hend⟩ := directed_overflow (.inl rfl) hover (hround.1 hover).1
      · rw [hend]
        exact ⟨⟨by omega, le_rfl⟩, fun h => absurd h hbig.not_ge, fun n hn _ hle => absurd (hle.trans (orderVal_le_max hn)) hbig.not_ge,
          fun _ => Int.natCast_nonneg _⟩
      · rw [hend]
        exact ⟨⟨le_rfl, by omega⟩, fun _ => orderVal_min ▸ hsmall.le, fun n hn _ _ => hn.1, fun h => absurd hneg h.not_gt⟩
    · obtain ⟨⟨hfin, _, hsign, hle, hleast⟩, _⟩ := hround.2 hover
      rw [mul_two_zpow_neg_iff] at hsign
      refine ⟨finiteOrder_order hfin, fun _ => orderVal_order ▸ hle, fun n hn _ hxn => ?_, fun h => (order_nonneg_iff _).2 fun h' => ?_⟩
      · obtain ⟨_, hfinn, hvaln, _⟩ := codeOfOrder_spec hn
        have hval := hleast _ hfinn (hvaln ▸ hxn)
        rw [hvaln, ← orderVal_order] at hval
        by_contra hlt
        refine absurd hval (orderVal_lt (by omega) fun ⟨_, hz⟩ => ?_).not_ge
        -- an order of 0 would be the code +0 of a positive number rounded up
        have hpos := (order_nonneg_iff r.1).1 hz.ge
        rw [hsign] at hpos
        rw [← orderVal_order, hz, orderVal_zero] at hle
        have : ¬ (x : ℚ) * 2 ^ e < 0 := fun h => hpos (mul_two_zpow_neg_iff.1 h)
        have hx : (x : ℚ) * 2 ^ e = 0 := by linarith
        rw [mul_eq_zero_iff_right (two_zpow_pos e).ne'] at hx
        exact h0 (by exact_mod_cast hx)
      · exact absurd (hsign.1 h') h.not_gt

/-- R159: the greatest order whose value is no more than x × 2^e, or an end of the finite values. -/
theorem orderOf_rd (x e : Int) : finiteOrder (orderOf .rd x e) ∧ (-fp32.val fp32.maxCode ≤ (x : ℚ) * 2 ^ e → orderVal (orderOf .rd x e) ≤ x * 2 ^ e) ∧
    ∀ n, finiteOrder n → orderVal n ≤ x * 2 ^ e → n ≤ orderOf .rd x e := by
  by_cases h0 : x = 0
  · subst h0
    rw [orderOf_zero, Int.cast_zero, zero_mul]
    refine ⟨by unfold finiteOrder; omega, fun _ => orderVal_zero.le, fun n hn hle => ?_⟩
    by_contra hlt
    have := orderVal_lt (m := 0) (n := n) (by omega) (by omega)
    rw [orderVal_zero] at this
    linarith
  · have hround := fp32_sound.round_roundsTo (mode := .rd) (fun _ h => nomatch h) true (decide (x < 0)) (Int.natAbs_ne_zero.2 h0) e
    rw [sgn_mul_natAbs_zpow] at hround
    rw [orderOf_ne_zero _ h0]
    generalize fp32.round .rd true (decide (x < 0)) x.natAbs e = r at *
    by_cases hover : overflows fp32 .rd (x * 2 ^ e)
    · obtain ⟨hbig, _, hend⟩ | ⟨hsmall, _, hend⟩ := directed_overflow (.inr rfl) hover (hround.1 hover).1
      · rw [hend]
        exact ⟨⟨by omega, le_rfl⟩, fun _ => orderVal_max ▸ hbig.le, fun n hn _ => hn.2⟩
      · rw [hend]
        exact ⟨⟨le_rfl, by omega⟩, fun h => absurd h hsmall.not_ge, fun n hn hle => absurd ((neg_max_le_orderVal hn).trans hle) hsmall.not_ge⟩
    · obtain ⟨⟨hfin, _, hsign, hle, hmost⟩, _⟩ := hround.2 hover
      rw [mul_two_zpow_neg_iff] at hsign
      refine ⟨finiteOrder_order hfin, fun _ => orderVal_order ▸ hle, fun n hn hxn => ?_⟩
      obtain ⟨_, hfinn, hvaln, _⟩ := codeOfOrder_spec hn
      have hval := hmost _ hfinn (hvaln ▸ hxn)
      rw [hvaln, ← orderVal_order] at hval
      by_contra hlt
      refine absurd hval (orderVal_lt (by omega) fun ⟨hz, _⟩ => ?_).not_ge
      -- an order of −1 would be the code −0 of a negative number rounded down
      have hneg := hsign.1 (not_not.1 fun h => absurd ((order_nonneg_iff r.1).2 h) (by omega))
      rw [← orderVal_order, hz, show orderVal (-1) = 0 by simp [orderVal, Fmt.val_zero]] at hle
      linarith [(mul_two_zpow_neg_iff (e := e)).2 hneg]

/-! ## The choice within an interval -/

/-- The SFU's choice is a code of FP32, whatever its interval. -/
theorem sfuChoose_lt (fn : Nat) (a : Word) (lo hi e : Int) : sfuChoose fn a lo hi e < 2 ^ 32 := by
  have hl := (orderOf_ru lo e).1
  have hh := (orderOf_rd hi e).1
  unfold sfuChoose
  dsimp only
  generalize orderOf .ru lo e = l at *
  generalize orderOf .rd hi e = h at *
  split_ifs with hlt
  · exact (codeOfOrder_spec hl).1
  · have hmod0 := Int.emod_nonneg (Config.sfuPick fn a : Int) (show h - l + 1 ≠ 0 by omega)
    have hmod1 := Int.emod_lt_of_pos (Config.sfuPick fn a : Int) (show 0 < h - l + 1 by omega)
    exact (codeOfOrder_spec ⟨by have := hl.1; omega, by have := hh.2; omega⟩).1

/-- R159: where a finite value lies in the interval, so does the part's own choice. -/
theorem sfuChoose_between (fn : Nat) (a : Word) {lo hi e : Int} {w : Nat} (hw : finiteCode fp32 w) (h1 : lo * 2 ^ e ≤ codeValue fp32 w)
    (h2 : codeValue fp32 w ≤ hi * 2 ^ e) : sfuChoose fn a lo hi e < 2 ^ 32 ∧ finiteCode fp32 (sfuChoose fn a lo hi e) ∧
      lo * 2 ^ e ≤ codeValue fp32 (sfuChoose fn a lo hi e) ∧ codeValue fp32 (sfuChoose fn a lo hi e) ≤ hi * 2 ^ e ∧
      (0 ≤ lo → fp32.negOf (sfuChoose fn a lo hi e) = false) := by
  obtain ⟨hlfin, hlval, hlleast, hlsign⟩ := orderOf_ru lo e
  obtain ⟨hhfin, hhval, hhmost⟩ := orderOf_rd hi e
  -- an order of the given value other than that of −0
  obtain ⟨n, hn, hne, hval⟩ : ∃ n, finiteOrder n ∧ n ≠ -1 ∧ orderVal n = codeValue fp32 w := by
    by_cases h0 : codeValue fp32 w = 0
    · exact ⟨0, by unfold finiteOrder; omega, by omega, orderVal_zero.trans h0.symm⟩
    · refine ⟨fp32.order w, finiteOrder_order hw, fun h => h0 ?_, orderVal_order⟩
      rw [← orderVal_order, h]
      simp [orderVal, Fmt.val_zero]
  have hln := hlleast n hn hne (hval ▸ h1)
  have hnh := hhmost n hn (hval ▸ h2)
  have hlo := hlval (h1.trans (hval ▸ orderVal_le_max hn))
  have hhi := hhval ((hval ▸ neg_max_le_orderVal hn : _ ≤ codeValue fp32 w).trans h2)
  unfold sfuChoose
  simp only [if_neg (show ¬ orderOf .rd hi e < orderOf .ru lo e by omega)]
  generalize orderOf .ru lo e = l at *
  generalize orderOf .rd hi e = h at *
  have hmod0 := Int.emod_nonneg (Config.sfuPick fn a : Int) (show h - l + 1 ≠ 0 by omega)
  have hmod1 := Int.emod_lt_of_pos (Config.sfuPick fn a : Int) (show 0 < h - l + 1 by omega)
  generalize (Config.sfuPick fn a : Int) % (h - l + 1) = k at *
  obtain ⟨hfit, hfin, hcode, hpos⟩ := codeOfOrder_spec (n := l + k) ⟨by have := hlfin.1; omega, by have := hhfin.2; omega⟩
  rw [hcode]
  refine ⟨hfit, hfin, hlo.trans (orderVal_mono (by omega)), (orderVal_mono (by omega)).trans hhi, fun h => ?_⟩
  have := hlsign h
  rw [hpos (by omega)]
  have hlt : (l + k).toNat < 2 ^ (fp32.width - 1) := lt_of_le_of_lt (by have := hhfin.2; omega) fp32_sound.max_lt
  simpa [Fmt.code] using Fmt.negOf_code hlt false

end Sys2Proof.Machine

/-! SUPPORT. What the SFU's choice near an exact value keeps (R159). -/

namespace Sys2Proof.Machine
open Sys2Proof

/-- The nearest magnitude code lies within half a quantum. -/
theorem Fmt.OnGrid.error_le {f : Fmt} {neg : Bool} {A : ℚ} {j mag : Nat} {t : ℚ} (h : f.OnGrid .rne neg A j mag t) :
    |A - f.val mag| ≤ 2 ^ f.quantum j / 2 := by
  have hQ := two_zpow_pos (f.quantum j)
  have h0 := h.nonneg
  have h1 := h.lt_one
  rcases h.mag_eq with ⟨rfl, hup⟩ | ⟨rfl, hup⟩
  · have ht : t ≤ 1 / 2 := not_lt.1 fun ht => hup (.inl ht)
    rw [h.eq, add_sub_cancel_left, abs_of_nonneg (by positivity)]
    nlinarith
  · have ht : 1 / 2 ≤ t := hup.elim le_of_lt fun hu => hu.1.ge
    rw [h.eq, f.val_succ, abs_le]
    constructor <;> nlinarith

theorem ulpExp_eq (m : Nat) (e : Int) : ulpExp m e = max ((m.log2 : Int) + e) (-126) - 23 := by
  rw [ulpExp]
  split_ifs <;> omega

theorem fp32_val_max : fp32.val fp32.maxCode = (2 ^ 24 - 1) * 2 ^ 104 := by
  rw [Fmt.val, show fp32.finite fp32.maxCode = (16777215, 104) by decide]
  norm_num

/-- Some finite magnitude lies within half a last place of any number in the finite range. -/
theorem exists_val_near {m : Nat} (hm : m ≠ 0) (e : Int) : ∃ mag ≤ fp32.maxCode,
    |m * 2 ^ e - fp32.val mag| ≤ 2 ^ ulpExp m e / 2 ∨ (mag = fp32.maxCode ∧ fp32.val mag ≤ (m : ℚ) * 2 ^ e) := by
  obtain ⟨j, mag, t, hgrid, hq, _⟩ := fp32_sound.round_eq rne_drawn false false hm e
  have hulp : fp32.quantum j = ulpExp m e := by
    rw [hq, int_log_dyadic hm, show fp32.emin = -126 by rfl, show fp32.p = 24 by rfl, ulpExp_eq]
    push_cast
    omega
  rcases le_or_gt mag fp32.maxCode with hle | hgt
  · exact ⟨mag, hle, .inl (hulp ▸ hgrid.error_le)⟩
  · refine ⟨_, le_rfl, .inr ⟨rfl, ?_⟩⟩
    have hQ := two_zpow_pos (fp32.quantum fp32.maxCode)
    rcases hgrid.max_lt_iff.1 hgt with h | ⟨h, _⟩ <;> linarith

/-- The last place of a number beyond the finite range. -/
theorem hundred_four_le_ulpExp {m : Nat} (hm : m ≠ 0) {e : Int} (h : fp32.val fp32.maxCode < m * 2 ^ e) : (2 : ℚ) ^ 104 ≤ 2 ^ ulpExp m e := by
  have hlow : (2 : ℚ) ^ (127 : Int) < 2 ^ ((m.log2 : Int) + e + 1) := by
    refine lt_trans ?_ (log2_zpow_bounds hm e).2
    refine lt_of_le_of_lt ?_ h
    rw [fp32_val_max]
    norm_num
  have hlog := (zpow_lt_zpow_iff_right₀ (one_lt_two (α := ℚ))).1 hlow
  rw [← zpow_natCast]
  refine zpow_le_zpow_right₀ one_le_two ?_
  rw [ulpExp_eq]
  push_cast
  omega

/-- The last place of a number no less than m × 2^e. -/
theorem two_zpow_ulpExp_le {m : Nat} (hm : m ≠ 0) {e : Int} {V : ℝ} (hV : (m : ℝ) * 2 ^ e ≤ V) :
    (2 : ℝ) ^ ulpExp m e ≤ 2 ^ (max (Int.log 2 |V|) (-126) - 23) := by
  have hpos : (0 : ℝ) < m * 2 ^ e := by positivity
  have hlog : (m.log2 : Int) + e ≤ Int.log 2 |V| := by
    refine (Int.zpow_le_iff_le_log (b := 2) (by norm_num) (abs_pos.2 (hpos.trans_le hV).ne')).1 ?_
    have hlow := (log2_zpow_bounds hm e).1
    calc ((2 : Nat) : ℝ) ^ ((m.log2 : Int) + e) = ((2 ^ ((m.log2 : Int) + e) : ℚ) : ℝ) := by push_cast; rfl
      _ ≤ ((m * 2 ^ e : ℚ) : ℝ) := by exact_mod_cast hlow
      _ = m * 2 ^ e := by push_cast; rfl
      _ ≤ |V| := hV.trans (le_abs_self V)
  refine zpow_le_zpow_right₀ one_le_two ?_
  rw [ulpExp_eq]
  omega

/-- A positive value with a sign. -/
theorem code_magOf_of_positive {c : Nat} (hc : c < 2 ^ 32) (hfin : finiteCode fp32 c) (hpos : fp32.negOf c = false) (neg : Bool) :
    (if neg then fp32.code true (fp32.magOf c) else c) < 2 ^ 32 ∧ finiteCode fp32 (if neg then fp32.code true (fp32.magOf c) else c) ∧
      codeValue fp32 (if neg then fp32.code true (fp32.magOf c) else c) = sgn neg * codeValue fp32 c := by
  have hcode := fp32_sound.code_negOf_magOf (c := c) hc
  cases neg
  · exact ⟨hc, hfin, by rw [if_neg (by simp), sgn_false, one_mul]⟩
  · rw [if_pos rfl]
    refine ⟨fp32_sound.code_lt (fp32.magOf_lt c) true, ?_, ?_⟩
    · show fp32.magOf _ ≤ _
      rw [Fmt.magOf_code (fp32.magOf_lt c)]
      exact hfin
    · rw [fp32_sound.codeValue_code (fp32.magOf_lt c), fp32_sound.codeValue_eq c, hpos, sgn_false, one_mul]

/-- R159: every value that `sfuNear` may choose lies within n ulp of the exact result, wherever in its interval that lies. -/
theorem sfuNear_withinUlps (fn : Nat) (a : Word) (neg : Bool) {lo hi n : Nat} {e : Int} {V : ℝ} (hlo : lo ≠ 0) (he : e ≤ ulpExp lo e)
    (hgap : 2 * (hi - lo) ≤ 2 ^ (ulpExp lo e - e).toNat) (hn : 1 ≤ n) (hmax : (lo : ℚ) * 2 ^ e ≤ fp32.val fp32.maxCode + (n - 1 / 2) * 2 ^ 104)
    (h1 : (lo : ℝ) * 2 ^ e ≤ V) (h2 : V ≤ hi * 2 ^ e) :
    sfuNear fn a neg lo hi e n < 2 ^ 32 ∧ withinUlps n ((sgn neg : ℚ) * V) (sfuNear fn a neg lo hi e n) := by
  have hQ := two_zpow_pos e
  have hU : ((2 ^ (ulpExp lo e - e).toNat : Nat) : ℚ) * 2 ^ e = 2 ^ ulpExp lo e := two_zpow_natCast_sub he
  have hUpos := two_zpow_pos (ulpExp lo e)
  have hnQ : (1 : ℚ) ≤ n := by exact_mod_cast hn
  have hnU : (2 : ℚ) ^ ulpExp lo e ≤ n * 2 ^ ulpExp lo e := le_mul_of_one_le_left hUpos.le hnQ
  -- the ends of the interval of choice
  have hhi : (((lo + n * 2 ^ (ulpExp lo e - e).toNat : Nat) : Int) : ℚ) * 2 ^ e = lo * 2 ^ e + n * 2 ^ ulpExp lo e := by
    rw [← hU]; push_cast; ring
  have hle : (((hi - n * 2 ^ (ulpExp lo e - e).toNat : Nat) : Int) : ℚ) * 2 ^ e = max 0 ((hi : ℚ) * 2 ^ e - n * 2 ^ ulpExp lo e) := by
    rw [← hU, ← mul_assoc, ← sub_mul]
    rcases le_total hi (n * 2 ^ (ulpExp lo e - e).toNat) with h | h
    · have hQ' : (hi : ℚ) ≤ n * (2 ^ (ulpExp lo e - e).toNat : Nat) := by exact_mod_cast h
      rw [Nat.sub_eq_zero_of_le h, max_eq_left (mul_nonpos_of_nonpos_of_nonneg (by linarith) hQ.le)]
      simp
    · have hQ' : (n * (2 ^ (ulpExp lo e - e).toNat : Nat) : ℚ) ≤ hi := by exact_mod_cast h
      rw [max_eq_right (mul_nonneg (by linarith) hQ.le), Int.cast_natCast, Nat.cast_sub h, Nat.cast_mul]
  have hgapQ : (hi : ℚ) * 2 ^ e ≤ lo * 2 ^ e + 2 ^ ulpExp lo e / 2 := by
    have : (2 : ℚ) * hi ≤ 2 * lo + (2 ^ (ulpExp lo e - e).toNat : Nat) := by exact_mod_cast (by omega)
    rw [← hU]
    nlinarith
  have htop : (hi : ℚ) * 2 ^ e - n * 2 ^ ulpExp lo e ≤ fp32.val fp32.maxCode := by
    rcases le_or_gt ((lo : ℚ) * 2 ^ e) (fp32.val fp32.maxCode) with hle | hgt
    · linarith
    · have hbig := hundred_four_le_ulpExp hlo hgt
      nlinarith
  obtain ⟨w, hw, hwlo, hwhi⟩ : ∃ w, finiteCode fp32 w ∧ max 0 ((hi : ℚ) * 2 ^ e - n * 2 ^ ulpExp lo e) ≤ codeValue fp32 w ∧
      codeValue fp32 w ≤ lo * 2 ^ e + n * 2 ^ ulpExp lo e := by
    obtain ⟨mag, hmag, hnear⟩ := exists_val_near hlo e
    have hlt := hmag.trans_lt fp32_sound.max_lt
    refine ⟨fp32.code false mag, (Fmt.magOf_code hlt false).trans_le hmag, ?_⟩
    rw [fp32_sound.codeValue_code hlt, sgn_false, one_mul]
    have hnn := fp32.val_nonneg mag
    rcases hnear with hnear | ⟨rfl, hge⟩
    · obtain ⟨hl, hr⟩ := abs_le.1 hnear
      exact ⟨max_le hnn (by linarith), by linarith⟩
    · exact ⟨max_le hnn (by linarith), by linarith⟩
  have hchoose := sfuChoose_between fn a hw (hle.trans_le hwlo) (hwhi.trans_eq hhi.symm)
  rw [hle, hhi] at hchoose
  obtain ⟨hclt, hcfin, hclo, hchi, hcneg⟩ := hchoose
  unfold sfuNear
  dsimp only
  generalize sfuChoose fn a _ _ e = c at *
  obtain ⟨hlt, hfin, hval⟩ := code_magOf_of_positive hclt hcfin (hcneg (Int.natCast_nonneg _)) neg
  refine ⟨hlt, hfin, ?_⟩
  have hsgn : |((sgn neg : ℚ) : ℝ)| = 1 := by exact_mod_cast abs_sgn neg
  have hulp := two_zpow_ulpExp_le hlo h1
  rw [hval, Rat.cast_mul, ← mul_sub, abs_mul, abs_mul, hsgn, one_mul, one_mul]
  refine le_trans ?_ (mul_le_mul_of_nonneg_left hulp (Nat.cast_nonneg n))
  have hclo' := (Rat.cast_le (K := ℝ)).2 ((le_max_right _ _).trans hclo)
  have hchi' := (Rat.cast_le (K := ℝ)).2 hchi
  push_cast at hclo' hchi'
  rw [abs_le]
  constructor <;> linarith

theorem sfuNear_lt (fn : Nat) (a : Word) (neg : Bool) (lo hi : Nat) (e : Int) (n : Nat) : sfuNear fn a neg lo hi e n < 2 ^ 32 := by
  unfold sfuNear
  cases neg
  · exact sfuChoose_lt ..
  · exact fp32_sound.code_lt (fp32.magOf_lt _) true

/-- Some finite value lies within 2^−23 of any number of magnitude at most 2. -/
theorem exists_value_near {z e : Int} (hz : |z * (2 : ℚ) ^ e| ≤ 2) : ∃ w, finiteCode fp32 w ∧ |codeValue fp32 w - z * 2 ^ e| ≤ 1 / 2 ^ 23 := by
  by_cases h0 : z = 0
  · refine ⟨0, Nat.zero_le _, ?_⟩
    rw [h0, fp32_sound.codeValue_eq_zero.2 rfl]
    norm_num
  · have hm := Int.natAbs_ne_zero.2 h0
    obtain ⟨mag, hmag, hnear⟩ := exists_val_near hm e
    have hlt := hmag.trans_lt fp32_sound.max_lt
    have habs : |z * (2 : ℚ) ^ e| = z.natAbs * 2 ^ e := by
      rw [abs_mul, abs_of_pos (two_zpow_pos e), Nat.cast_natAbs, Int.cast_abs]
    rw [habs] at hz
    have hlog : (z.natAbs.log2 : Int) + e ≤ 1 := by
      refine (zpow_le_zpow_iff_right₀ (one_lt_two (α := ℚ))).1 ?_
      rw [zpow_one]
      exact (log2_zpow_bounds hm e).1.trans hz
    have hulp : (2 : ℚ) ^ ulpExp z.natAbs e ≤ 2 ^ (-22 : Int) := by
      refine zpow_le_zpow_right₀ one_le_two ?_
      rw [ulpExp_eq]
      omega
    have hval : |z.natAbs * 2 ^ e - fp32.val mag| ≤ 1 / 2 ^ 23 := by
      rcases hnear with hnear | ⟨rfl, hge⟩
      · refine hnear.trans ((div_le_div_of_nonneg_right hulp two_pos.le).trans ?_)
        norm_num [zpow_neg]
      · have htop : (2 : ℚ) < fp32.val fp32.maxCode := by
          obtain ⟨k, hk, hval⟩ := fp32_exists_natCast (n := 3) (by norm_num)
          exact lt_of_lt_of_le (by norm_num [hval]) (fp32.val_strictMono.monotone hk)
        linarith
    refine ⟨fp32.code (decide (z < 0)) mag, (Fmt.magOf_code hlt _).trans_le hmag, ?_⟩
    rw [fp32_sound.codeValue_code hlt, ← sgn_mul_natAbs_zpow, ← mul_sub, abs_mul, abs_sgn, one_mul, abs_sub_comm]
    exact hval

/-- R159: every value that `sfuWithin` may choose lies within its absolute error of the exact result. -/
theorem sfuWithin_error_le (fn : Nat) (a : Word) {lo hi d e : Int} {V : ℝ} (hlo : |lo * (2 : ℚ) ^ e| ≤ 2)
    (hgap : ((hi : ℚ) - lo) * 2 ^ e + 1 / 2 ^ 23 ≤ d * 2 ^ e) (hd : (1 : ℚ) / 2 ^ 23 ≤ d * 2 ^ e)
    (h1 : (lo : ℝ) * 2 ^ e ≤ V) (h2 : V ≤ hi * 2 ^ e) :
    sfuWithin fn a lo hi d e < 2 ^ 32 ∧ finiteCode fp32 (sfuWithin fn a lo hi d e) ∧
      |(codeValue fp32 (sfuWithin fn a lo hi d e) : ℝ) - V| ≤ d * 2 ^ e := by
  obtain ⟨w, hw, hnear⟩ := exists_value_near hlo
  obtain ⟨hl, hr⟩ := abs_le.1 hnear
  obtain ⟨hlt, hfin, hclo, hchi, _⟩ := sfuChoose_between fn a (lo := hi - d) (hi := lo + d) (e := e) hw (by push_cast; linarith) (by push_cast; linarith)
  refine ⟨hlt, hfin, ?_⟩
  unfold sfuWithin
  generalize sfuChoose fn a _ _ e = c at *
  have hclo' := (Rat.cast_le (K := ℝ)).2 hclo
  have hchi' := (Rat.cast_le (K := ℝ)).2 hchi
  push_cast at hclo' hchi'
  rw [abs_le]
  constructor <;> linarith

theorem sfuWithin_lt (fn : Nat) (a : Word) (lo hi d e : Int) : sfuWithin fn a lo hi d e < 2 ^ 32 := sfuChoose_lt ..

end Sys2Proof.Machine

/-! SUPPORT. The special inputs of the SFU words, and RCP (R159). -/

namespace Sys2Proof.Machine
open Sys2Proof

/-! ## Special inputs -/

/-- R159: what an SFU word owes for one input: a code of FP32, the table's special values, the bounds of RCP and RSQ, and neither UF nor NX. -/
structure SfuSound (fn : Nat) (a : Nat) (r : Nat × BitVec 5) : Prop where
  lt : r.1 < 2 ^ 32
  special : specialGives fn a r.1 r.2
  reciprocal : reciprocalGives fn a r.1 r.2
  flags : r.2 &&& 0x18#5 = 0

/-- R159: the table's results for an infinity of a sign. -/
def sfuOfInfinite (fn : Nat) (neg : Bool) : Nat × BitVec 5 :=
  match fn with
  | 0 => (fp32.code neg 0, 0)
  | 1 => if neg then (fp32.nan, flagNV) else (0, 0)
  | 2 | 4 => if neg then (fp32.nan, flagNV) else (0x7F800000, 0)
  | 3 => if neg then (0, 0) else (0x7F800000, 0)
  | _ => (fp32.nan, flagNV)

/-- R159: the table's results for a zero of a sign. -/
def sfuOfZero (fn : Nat) (neg : Bool) : Nat × BitVec 5 :=
  match fn with
  | 0 | 1 => (fp32.code neg 0x7F800000, flagDZ)
  | 2 | 5 => (fp32.code neg 0, 0)
  | 4 => (0xFF800000, flagDZ)
  | _ => (0x3F800000, 0)

/-- R159: `c` is the FP32 value nearest to the square root of x. -/
def rootNearest (x : ℚ) (c : Nat) : Prop :=
  finiteCode fp32 c ∧ 0 ≤ codeValue fp32 c ∧ ∀ k, finiteCode fp32 k → 0 ≤ codeValue fp32 k →
    let mid := (codeValue fp32 c + codeValue fp32 k) / 2
    (codeValue fp32 k < codeValue fp32 c → mid ^ 2 ≤ x) ∧ (codeValue fp32 c < codeValue fp32 k → x ≤ mid ^ 2)

section
variable {fn a : Nat} {r : Nat × BitVec 5}

theorem signed_negative (a k : Nat) : signed fp32 (negative fp32 a) k = fp32.code (fp32.negOf a) k := signed_eq_code ..

theorem finiteCode_of_zero (h : fp32.magOf a = 0) : finiteCode fp32 a := by
  show fp32.magOf a ≤ _
  rw [h]
  exact Nat.zero_le _

theorem SfuSound.of_nan (hn : nanCode fp32 a) {s : Bool} (hs : s = true ↔ signalling fp32 a) : SfuSound fn a (fp32.nan, flagIf s flagNV) := by
  have hfin : ¬ finiteCode fp32 a := hn.1
  have hinf : ¬ infinite fp32 a := hn.2
  refine ⟨fp32_sound.nan_lt, ⟨fun _ => nanGives_flagIf hs, fun h0 => absurd (finiteCode_of_zero h0) hfin, fun hi => absurd hi hinf,
    fun hf => absurd hf hfin, fun hf => absurd hf hfin, fun hf => absurd hf hfin, fun hf => absurd hf hfin, fun hf => absurd hf hfin,
    fun hf => absurd hf hfin⟩, ⟨fun _ hf => absurd hf hfin, fun _ hf => absurd hf hfin⟩, ?_⟩
  have hflags : ∀ s, flagIf s flagNV &&& 0x18#5 = 0 := by decide
  exact hflags s

theorem sfuOfInfinite_lt (hfn : fn < 7) : ∀ neg, (sfuOfInfinite fn neg).1 < 2 ^ 32 ∧ (sfuOfInfinite fn neg).2 &&& 0x18#5 = 0 := by
  revert fn
  decide

theorem sfuOfZero_lt (hfn : fn < 7) : ∀ neg, (sfuOfZero fn neg).1 < 2 ^ 32 ∧ (sfuOfZero fn neg).2 &&& 0x18#5 = 0 := by
  revert fn
  decide

theorem SfuSound.of_infinite (hfn : fn < 7) (hi : infinite fp32 a) : SfuSound fn a (sfuOfInfinite fn (fp32.negOf a)) := by
  have hfin : ¬ finiteCode fp32 a := fp32_sound.not_finite_of_infinite hi
  obtain ⟨hlt, hflags⟩ := sfuOfInfinite_lt hfn (fp32.negOf a)
  refine ⟨hlt, ⟨fun hn => absurd hi hn.2, fun h0 => absurd (finiteCode_of_zero h0) hfin, fun _ => ?_, fun hf => absurd hf hfin,
    fun hf => absurd hf hfin, fun hf => absurd hf hfin, fun hf => absurd hf hfin, fun hf => absurd hf hfin, fun hf => absurd hf hfin⟩,
    ⟨fun _ hf => absurd hf hfin, fun _ hf => absurd hf hfin⟩, hflags⟩
  have hneg : negative fp32 a ↔ fp32.negOf a = true := Iff.rfl
  interval_cases fn <;> cases h : fp32.negOf a <;> simp [hneg, h, sfuOfInfinite, signed, Fmt.code]

theorem codeValue_one : codeValue fp32 0x3F800000 = 1 := by
  rw [fp32_sound.codeValue_eq, Fmt.val, show fp32.finite (fp32.magOf 0x3F800000) = (2 ^ 23, -23) by decide, show fp32.negOf 0x3F800000 = false by decide]
  norm_num

theorem SfuSound.of_zero (hfn : fn < 7) (ha : a < 2 ^ 32) (h0 : fp32.magOf a = 0) : SfuSound fn a (sfuOfZero fn (fp32.negOf a)) := by
  have hfin := finiteCode_of_zero h0
  have hx : codeValue fp32 a = 0 := fp32_sound.codeValue_eq_zero.2 h0
  have hcode : fp32.code (fp32.negOf a) 0 = a := h0 ▸ fp32_sound.code_negOf_magOf ha
  obtain ⟨hlt, hflags⟩ := sfuOfZero_lt hfn (fp32.negOf a)
  refine ⟨hlt, ⟨fun hn => absurd hfin hn.1, fun _ => ?_, fun hi => absurd hfin (fp32_sound.not_finite_of_infinite hi), fun _ h => absurd h0 h,
    fun _ hneg => absurd hx hneg.ne, fun _ _ hpos => absurd hx hpos.ne', fun _ _ hbig => ?_, fun _ hex n hn _ _ => ?_, fun _ _ h1 => ?_⟩,
    ⟨fun _ _ h => absurd hx h, fun _ _ hpos => absurd hx hpos.ne'⟩, hflags⟩
  · interval_cases fn <;> simp only [sfuOfZero, signed_negative, hcode, and_self]
  · rw [hx] at hbig
    norm_num at hbig
  · subst hex
    have hn0 : n = 0 := by rw [hx] at hn; exact_mod_cast hn.symm
    rw [hn0]
    exact ⟨rfl, show fp32.magOf 0x3F800000 ≤ _ by decide, codeValue_one.trans (zpow_zero _).symm⟩
  · rw [hx] at h1
    norm_num at h1

/-- R159: an ordinary input owes what its own row says. -/
theorem SfuSound.of_nonzero (hfin : finiteCode fp32 a) (h0 : codeValue fp32 a ≠ 0) (hlt : r.1 < 2 ^ 32) (hflags : r.2 &&& 0x18#5 = 0)
    (hneg : codeValue fp32 a < 0 → fn = 1 ∨ fn = 2 ∨ fn = 4 → r = (fp32.nan, flagNV))
    (hrcp : fn = 0 → (overflows fp32 .rne (1 / codeValue fp32 a) → r = (fp32.code (fp32.negOf a) 0x7F800000, flagOF)) ∧
      (¬ overflows fp32 .rne (1 / codeValue fp32 a) → withinUlps 1 (1 / (codeValue fp32 a : ℝ)) r.1 ∧ r.2 = 0))
    (hrsq : fn = 1 → 0 < codeValue fp32 a → withinUlps 2 (1 / Real.sqrt (codeValue fp32 a)) r.1 ∧ r.2 = 0)
    (hsqrt : fn = 2 → 0 < codeValue fp32 a → rootNearest (codeValue fp32 a) r.1 ∧ r.2 = 0)
    (hex2 : fn = 3 → (128 ≤ codeValue fp32 a → r = (0x7F800000, flagOF)) ∧ ∀ n : Int, codeValue fp32 a = n → -149 ≤ n → n ≤ 127 →
      r.2 = 0 ∧ finiteCode fp32 r.1 ∧ codeValue fp32 r.1 = (2 : ℚ) ^ n)
    (hlg2 : fn = 4 → codeValue fp32 a = 1 → r = (0, 0)) : SfuSound fn a r := by
  have gives : ∀ {c : Nat} {v : BitVec 5}, r = (c, v) → r.1 = c ∧ r.2 = v := fun h => ⟨congrArg Prod.fst h, congrArg Prod.snd h⟩
  refine ⟨hlt, ⟨fun hn => absurd hfin hn.1, fun h => absurd (fp32_sound.codeValue_eq_zero.2 h) h0,
    fun hi => absurd hfin (fp32_sound.not_finite_of_infinite hi), fun _ _ h ho => ?_, fun _ h1 h2 => gives (hneg h1 h2), fun _ h hpos => ?_,
    fun _ h h1 => gives ((hex2 h).1 h1), fun _ h => (hex2 h).2, fun _ h h1 => gives (hlg2 h h1)⟩, ⟨fun h _ _ => (hrcp h).2, fun h _ => hrsq h⟩, hflags⟩
  · rw [signed_negative]
    exact gives ((hrcp h).1 ho)
  · obtain ⟨⟨h1, h2, h3⟩, hfl⟩ := hsqrt h hpos
    exact ⟨hfl, h1, h2, h3⟩

end

/-! ## RCP -/

/-- R145: the least magnitude that RNE takes for an overflow. -/
theorem fp32_overflows_rne_iff (x : ℚ) : overflows fp32 .rne x ↔ (2 ^ 25 - 1) * 2 ^ 103 ≤ |x| := by
  have hlog : Int.log 2 (fp32.val fp32.maxCode) = 127 := by
    rw [fp32_val_max]
    exact int_log_eq (by norm_num) (by norm_num)
  have hsum : fp32.val fp32.maxCode + 2 ^ ((127 : Int) - fp32.p + 1) / 2 = (2 ^ 25 - 1) * 2 ^ 103 := by
    rw [fp32_val_max, show (127 : Int) - fp32.p + 1 = (104 : Nat) by decide, zpow_natCast]
    norm_num
  unfold overflows
  simp only [fp32_sound.codeValue_max, hlog, hsum]
  rw [le_iff_lt_or_eq, eq_comm (a := |x|), and_iff_left (show fp32.maxCode % 2 = 1 by decide)]

theorem roundsTo_flagOF_iff {f : Fmt} {mode : RMode} {sat : Bool} {x : ℚ} {c : Nat} {fl : BitVec 5} (h : roundsTo f mode sat x c fl) :
    fl &&& flagOF ≠ 0 ↔ overflows f mode x := by
  have hbit : ∀ fl : BitVec 5, fl.getLsbD 2 = false → fl &&& flagOF = 0 := by decide
  by_cases ho : overflows f mode x
  · rw [(h.1 ho).2]
    exact iff_of_true (by decide) ho
  · obtain ⟨_, _, _, hof, _⟩ := h.2 ho
    exact iff_of_false (fun hne => hne (hbit fl hof)) ho

/-- A number and the half above its floor lie on the same side of an integer. -/
theorem natCast_le_half_iff {X N : Nat} : (N : ℚ) ≤ X + 1 / 2 ↔ N ≤ X := by
  constructor
  · intro h
    by_contra hlt
    have : (X : ℚ) + 1 ≤ N := by exact_mod_cast not_le.1 hlt
    linarith
  · intro h
    have : (N : ℚ) ≤ X := by exact_mod_cast h
    linarith

theorem natCast_le_div_iff {m k N : Nat} (hm : m ≠ 0) : (N : ℚ) ≤ (k : ℚ) / m ↔ N ≤ k / m := by
  have hpos : (0 : ℚ) < m := by exact_mod_cast Nat.pos_of_ne_zero hm
  rw [le_div_iff₀ hpos, Nat.le_div_iff_mul_le (Nat.pos_of_ne_zero hm)]
  exact_mod_cast Iff.rfl

/-- A dividend's quotient, and the next integer unless it is exact. -/
theorem div_le_ceil {m k : Nat} (hm : m ≠ 0) : (k : ℚ) / m ≤ (if m * (k / m) = k then k / m else k / m + 1 : Nat) := by
  have hpos : (0 : ℚ) < m := by exact_mod_cast Nat.pos_of_ne_zero hm
  rw [div_le_iff₀ hpos]
  split_ifs with h
  · rw [mul_comm]
    exact_mod_cast h.ge
  · exact_mod_cast (Nat.lt_mul_of_div_lt (Nat.lt_succ_self (k / m)) (Nat.pos_of_ne_zero hm)).le

theorem reciprocal_eq (m : Nat) (e : Int) (j : Nat) : 1 / ((m : ℚ) * 2 ^ e) = ((2 ^ j : Nat) : ℚ) / m * 2 ^ (-(j : Int) - e) := by
  rw [zpow_sub₀ two_ne_zero, zpow_neg, zpow_natCast]
  push_cast
  field_simp

theorem one_div_sgn_mul (neg : Bool) (x : ℚ) : 1 / (sgn neg * x) = sgn neg * (1 / x) := by
  have hinv : (sgn neg)⁻¹ = sgn neg := by cases neg <;> norm_num [sgn]
  rw [one_div, mul_inv, hinv, one_div]

/-- R159: RCP's test for an overflow of the exact reciprocal. -/
theorem rcp_overflow_iff (neg : Bool) {m : Nat} (hm : m ≠ 0) {e : Int} (he : -149 ≤ e) :
    (fp32.round .rne false neg (2 * (2 ^ 120 / m) + 1) (-120 - e - 1)).2 &&& flagOF ≠ 0 ↔ overflows fp32 .rne (1 / (sgn neg * (m * 2 ^ e))) := by
  have hQ := two_zpow_pos (-120 - e)
  -- the threshold is a whole number of units
  have hT : ((2 : ℚ) ^ 25 - 1) * 2 ^ 103 = ((2 ^ 25 - 1) * 2 ^ (103 - (-120 - e)).toNat : Nat) * 2 ^ (-120 - e) := by
    have := two_zpow_natCast_sub (e := 103) (q := -120 - e) (by omega)
    rw [Nat.cast_mul, mul_assoc, this]
    norm_num
  have hx : |1 / (sgn neg * ((m : ℚ) * 2 ^ e))| = ((2 ^ 120 : Nat) : ℚ) / m * 2 ^ (-120 - e) := by
    rw [one_div_sgn_mul, abs_mul, abs_sgn, one_mul, abs_of_nonneg (by positivity)]
    exact reciprocal_eq m e 120
  have hy : |sgn neg * (((2 * (2 ^ 120 / m) + 1 : Nat) : ℚ) * 2 ^ (-120 - e - 1))| = ((2 ^ 120 / m : Nat) + 1 / 2) * 2 ^ (-120 - e) := by
    rw [abs_mul, abs_sgn, one_mul, abs_of_nonneg (by positivity), zpow_sub_one₀ two_ne_zero]
    push_cast
    ring
  rw [roundsTo_flagOF_iff (fp32_sound.round_roundsTo rne_drawn false neg (by omega) _), fp32_overflows_rne_iff, fp32_overflows_rne_iff, hx, hy, hT,
    mul_le_mul_iff_left₀ hQ, mul_le_mul_iff_left₀ hQ, natCast_le_half_iff, natCast_le_div_iff hm]

theorem le_ulpExp {m j : Nat} (h : 2 ^ j ≤ m) (e : Int) : e + j - 23 ≤ ulpExp m e := by
  have hlog : j ≤ m.log2 := (Nat.le_log2 (Nat.pos_of_ne_zero fun h0 => by simp [h0] at h).ne').2 h
  rw [ulpExp_eq]
  omega

theorem le_two_pow_ulpExp {m j k : Nat} (h : 2 ^ j ≤ m) (e : Int) (hk : k + 23 ≤ j) : 2 ^ k ≤ 2 ^ (ulpExp m e - e).toNat := by
  have := le_ulpExp h e
  exact Nat.pow_le_pow_right Nat.two_pos (by omega)

/-- R159: RCP's choice where the reciprocal does not overflow. -/
theorem rcpNear_withinUlps (a : Word) (neg : Bool) {m : Nat} (hm : m ≠ 0) (hm24 : m < 2 ^ 24) (e : Int)
    (ho : ¬ overflows fp32 .rne (1 / (sgn neg * (m * 2 ^ e)))) :
    withinUlps 1 ((1 / (sgn neg * (m * 2 ^ e)) : ℚ) : ℝ)
      (sfuNear 0 a neg (2 ^ 120 / m) (if m * (2 ^ 120 / m) = 2 ^ 120 then 2 ^ 120 / m else 2 ^ 120 / m + 1) (-120 - e) 1) := by
  have hQ := two_zpow_pos (-120 - e)
  have hbits : 2 ^ 96 ≤ 2 ^ 120 / m := by
    rw [Nat.le_div_iff_mul_le (Nat.pos_of_ne_zero hm)]
    omega
  have hlo : ((2 ^ 120 / m : Nat) : ℚ) * 2 ^ (-120 - e) ≤ 1 / (m * 2 ^ e) := by
    rw [reciprocal_eq m e 120]
    exact mul_le_mul_of_nonneg_right ((natCast_le_div_iff hm).2 le_rfl) hQ.le
  have hhi : 1 / ((m : ℚ) * 2 ^ e) ≤ (if m * (2 ^ 120 / m) = 2 ^ 120 then 2 ^ 120 / m else 2 ^ 120 / m + 1 : Nat) * 2 ^ (-120 - e) := by
    rw [reciprocal_eq m e 120]
    exact mul_le_mul_of_nonneg_right (div_le_ceil hm) hQ.le
  have hmax : 1 / ((m : ℚ) * 2 ^ e) < (2 ^ 25 - 1) * 2 ^ 103 := by
    rw [fp32_overflows_rne_iff, not_le, one_div_sgn_mul, abs_mul, abs_sgn, one_mul, abs_of_nonneg (by positivity)] at ho
    exact ho
  have hulp := le_ulpExp hbits (-120 - e)
  have hgap := le_two_pow_ulpExp (k := 1) hbits (-120 - e) (by norm_num)
  have hnext : (if m * (2 ^ 120 / m) = 2 ^ 120 then 2 ^ 120 / m else 2 ^ 120 / m + 1) ≤ 2 ^ 120 / m + 1 := by split_ifs <;> omega
  generalize (if m * (2 ^ 120 / m) = 2 ^ 120 then 2 ^ 120 / m else 2 ^ 120 / m + 1) = hi at *
  generalize 2 ^ 120 / m = lo at *
  rw [one_div_sgn_mul, Rat.cast_mul]
  generalize 1 / ((m : ℚ) * 2 ^ e) = V at *
  have hlo' := (Rat.cast_le (K := ℝ)).2 hlo
  have hhi' := (Rat.cast_le (K := ℝ)).2 hhi
  push_cast at hlo' hhi'
  refine (sfuNear_withinUlps 0 a neg (by omega) (by omega) (hgap.trans' (by omega)) le_rfl ?_ hlo' hhi').2
  rw [fp32_val_max]
  norm_num at hmax ⊢
  linarith

theorem sfu_input (a : Nat) : nanCode fp32 a ∨ infinite fp32 a ∨ fp32.magOf a = 0 ∨ finiteCode fp32 a ∧ codeValue fp32 a ≠ 0 := by
  by_cases hn : nanCode fp32 a
  · exact .inl hn
  · rcases finite_or_infinite hn with hf | hi
    · by_cases h0 : fp32.magOf a = 0
      · exact .inr (.inr (.inl h0))
      · exact .inr (.inr (.inr ⟨hf, fun h => h0 (fp32_sound.codeValue_eq_zero.1 h)⟩))
    · exact .inr (.inl hi)

theorem fp32_value_of_zero {a : Nat} (h0 : fp32.magOf a = 0) : ∃ e, fp32.value a = .fin (fp32.negOf a) 0 e :=
  ⟨_, by rw [fp32_sound.value_of_finite (finiteCode_of_zero h0), Fmt.finite_eq_zero.2 h0]⟩

/-- The value of an ordinary input. -/
theorem fp32_value_of_nonzero {a : Nat} (hfin : finiteCode fp32 a) (h0 : codeValue fp32 a ≠ 0) :
    ∃ m e, fp32.value a = .fin (fp32.negOf a) m e ∧ codeValue fp32 a = sgn (fp32.negOf a) * (m * 2 ^ e) ∧ m ≠ 0 ∧ m < 2 ^ 24 ∧
      -149 ≤ e ∧ e ≤ 104 :=
  ⟨_, _, fp32_sound.value_of_finite hfin, fp32_sound.codeValue_finite, fp32_sound.finite_ne_zero h0, fp32.finite_fst_lt _, fp32.le_finite_snd _,
    fp32.quantum_mono (show fp32.magOf a ≤ fp32.maxCode from hfin)⟩

theorem noFlags : (0 : BitVec 5) &&& 0x18#5 = 0 := by decide
theorem invalidFlags : flagNV &&& 0x18#5 = 0 := by decide
theorem overflowFlags : flagOF &&& 0x18#5 = 0 := by decide

theorem rcp_sound (a : Word) : SfuSound 0 a.toNat (rcpWord a) := by
  rcases sfu_input a.toNat with hn | hi | h0 | ⟨hfin, h0⟩
  · obtain ⟨s, hs, hsig⟩ := fp32_sound.value_of_nan hn
    simpa only [rcpWord, hs] using SfuSound.of_nan hn hsig
  · simpa only [rcpWord, Fmt.value_of_infinite hi, sfuOfInfinite] using SfuSound.of_infinite (fn := 0) (by norm_num) hi
  · obtain ⟨e, hv⟩ := fp32_value_of_zero h0
    simpa only [rcpWord, hv, if_true, sfuOfZero] using SfuSound.of_zero (fn := 0) (by norm_num) a.isLt h0
  · obtain ⟨m, e, hv, hx, hm, hm24, he, _⟩ := fp32_value_of_nonzero hfin h0
    have hover := rcp_overflow_iff (fp32.negOf a.toNat) hm he
    have hnear := rcpNear_withinUlps a (fp32.negOf a.toNat) hm hm24 e
    rw [← hx] at hover hnear
    rw [Rat.cast_div, Rat.cast_one] at hnear
    simp only [rcpWord, hv, if_neg hm]
    by_cases ho : overflows fp32 .rne (1 / codeValue fp32 a.toNat)
    · rw [if_pos (hover.2 ho)]
      exact .of_nonzero hfin h0 (fp32_sound.code_lt (by decide) _) overflowFlags (fun _ h => by omega) (fun _ => ⟨fun _ => rfl, fun h => absurd ho h⟩)
        nofun nofun nofun nofun
    · rw [if_neg (mt hover.1 ho)]
      exact .of_nonzero hfin h0 (sfuNear_lt ..) noFlags (fun _ h => by omega) (fun _ => ⟨fun h => absurd h ho, fun _ => ⟨hnear ho, rfl⟩⟩)
        nofun nofun nofun nofun

end Sys2Proof.Machine

/-! SUPPORT. RSQ and SQRT (R159). -/

namespace Sys2Proof.Machine
open Sys2Proof

/-! ## RSQ -/

/-- The root of a quotient, rounded down, and the integer no less than the root. -/
theorem sqrt_div_spec {m : Nat} (hm : m ≠ 0) (x : Nat) :
    ∃ hi, hi = (if m * (Nat.sqrt (x / m) * Nat.sqrt (x / m)) = x then Nat.sqrt (x / m) else Nat.sqrt (x / m) + 1) ∧
      Nat.sqrt (x / m) ^ 2 * m ≤ x ∧ x ≤ hi ^ 2 * m ∧ hi ≤ Nat.sqrt (x / m) + 1 := by
  have hpos := Nat.pos_of_ne_zero hm
  refine ⟨_, rfl, (Nat.le_div_iff_mul_le hpos).1 (Nat.sqrt_le' _), ?_, by split_ifs <;> omega⟩
  split_ifs with heq
  · rw [mul_comm, sq, heq]
  · exact ((Nat.div_lt_iff_lt_mul hpos).1 (Nat.lt_succ_sqrt' _)).le

theorem sqrt_div_bits {m k : Nat} (hm : m ≠ 0) (hm24 : m < 2 ^ 24) (hk : k = 240 ∨ k = 241) :
    2 ^ 108 ≤ Nat.sqrt (2 ^ k / m) ∧ Nat.sqrt (2 ^ k / m) < 2 ^ 121 := by
  constructor
  · rw [Nat.le_sqrt, Nat.le_div_iff_mul_le (Nat.pos_of_ne_zero hm), ← pow_add]
    calc 2 ^ (108 + 108) * m ≤ 2 ^ 216 * 2 ^ 24 := Nat.mul_le_mul_left _ hm24.le
      _ ≤ 2 ^ k := by rw [← pow_add]; exact Nat.pow_le_pow_right two_pos (by omega)
  · rw [Nat.sqrt_lt, ← pow_add]
    exact (Nat.div_le_self ..).trans_lt (Nat.pow_lt_pow_right (by norm_num) (by omega))

/-- The reciprocal of a root, from a bound on its square. -/
theorem le_one_div_sqrt {X c : ℝ} (h : c ^ 2 ≤ 1 / X) : c ≤ 1 / Real.sqrt X := by
  rw [one_div, ← Real.sqrt_inv, ← one_div]
  exact Real.le_sqrt_of_sq_le h

theorem one_div_sqrt_le {X c : ℝ} (hc : 0 ≤ c) (h : 1 / X ≤ c ^ 2) : 1 / Real.sqrt X ≤ c := by
  rw [one_div, ← Real.sqrt_inv, ← one_div]
  exact Real.sqrt_le_iff.2 ⟨hc, h⟩

/-- R159: RSQ's choice. Its unit is 2^h, and k + 2h is the exponent of the reciprocal. -/
theorem rsqNear_withinUlps (a : Word) {m k : Nat} (hm : m ≠ 0) (hm24 : m < 2 ^ 24) (hk : k = 240 ∨ k = 241) {e h : Int} (he : -149 ≤ e) (hh : 2 * h = -e - k) :
    withinUlps 2 (1 / Real.sqrt ((m * 2 ^ e : ℚ) : ℝ))
      (sfuNear 1 a false (Nat.sqrt (2 ^ k / m)) (if m * (Nat.sqrt (2 ^ k / m) * Nat.sqrt (2 ^ k / m)) = 2 ^ k then Nat.sqrt (2 ^ k / m)
        else Nat.sqrt (2 ^ k / m) + 1) h 2) := by
  have hmR : (0 : ℝ) < m := by exact_mod_cast Nat.pos_of_ne_zero hm
  have hx : (1 : ℝ) / ((m * 2 ^ e : ℚ) : ℝ) = ((2 ^ k : Nat) : ℝ) / m * (2 ^ h) ^ 2 := by
    rw [← zpow_natCast, ← zpow_mul, mul_comm h, Nat.cast_two, hh, zpow_sub₀ two_ne_zero, zpow_neg, zpow_natCast]
    push_cast
    field_simp
  obtain ⟨hi, hhi, hbelow, hceil, hnext⟩ := sqrt_div_spec hm (2 ^ k)
  obtain ⟨hbits, hsize⟩ := sqrt_div_bits hm hm24 hk
  rw [← hhi]
  clear hhi
  generalize Nat.sqrt (2 ^ k / m) = r at *
  have hlo : (r : ℝ) * 2 ^ h ≤ 1 / Real.sqrt ((m * 2 ^ e : ℚ) : ℝ) := by
    refine le_one_div_sqrt ?_
    rw [hx, mul_pow]
    refine mul_le_mul_of_nonneg_right ((le_div_iff₀ hmR).2 ?_) (sq_nonneg _)
    exact_mod_cast hbelow
  have hup : 1 / Real.sqrt ((m * 2 ^ e : ℚ) : ℝ) ≤ hi * 2 ^ h := by
    refine one_div_sqrt_le (by positivity) ?_
    rw [hx, mul_pow]
    refine mul_le_mul_of_nonneg_right ((div_le_iff₀ hmR).2 ?_) (sq_nonneg _)
    exact_mod_cast hceil
  have hulp := le_ulpExp hbits h
  have hgap := le_two_pow_ulpExp (k := 1) hbits h (by norm_num)
  have hmax : (r : ℚ) * 2 ^ h ≤ fp32.val fp32.maxCode + (((2 : Nat) : ℚ) - 1 / 2) * 2 ^ 104 := by
    have hr : (r : ℚ) ≤ 2 ^ 121 := by exact_mod_cast hsize.le
    have hone : (2 : ℚ) ^ h ≤ 1 := zpow_le_one_of_nonpos₀ one_le_two (by omega)
    calc (r : ℚ) * 2 ^ h ≤ 2 ^ 121 * 1 := mul_le_mul hr hone (two_zpow_pos h).le (by norm_num)
      _ ≤ _ := by rw [fp32_val_max]; norm_num
  have hnear := (sfuNear_withinUlps 1 a false (n := 2) (by omega) (by omega) (hgap.trans' (by omega)) (by norm_num) hmax hlo hup).2
  rwa [sgn_false, Rat.cast_one, one_mul] at hnear

theorem rsq_sound (a : Word) : SfuSound 1 a.toNat (rsqWord a) := by
  rcases sfu_input a.toNat with hn | hi | h0 | ⟨hfin, h0⟩
  · obtain ⟨s, hs, hsig⟩ := fp32_sound.value_of_nan hn
    simpa only [rsqWord, hs] using SfuSound.of_nan hn hsig
  · simpa only [rsqWord, Fmt.value_of_infinite hi, sfuOfInfinite] using SfuSound.of_infinite (fn := 1) (by norm_num) hi
  · obtain ⟨e, hv⟩ := fp32_value_of_zero h0
    simpa only [rsqWord, hv, if_true, sfuOfZero] using SfuSound.of_zero (fn := 1) (by norm_num) a.isLt h0
  · obtain ⟨m, e, hv, hx, hm, hm24, he, _⟩ := fp32_value_of_nonzero hfin h0
    have hQ : 0 < (m : ℚ) * 2 ^ e := by positivity
    simp only [rsqWord, hv, if_neg hm, isqrt_eq]
    cases hneg : fp32.negOf a.toNat with
    | true =>
      rw [hneg, sgn_true] at hx
      exact .of_nonzero hfin h0 fp32_sound.nan_lt invalidFlags (fun _ _ => rfl) nofun (fun _ h => by linarith) nofun nofun nofun
    | false =>
      rw [hneg, sgn_false, one_mul] at hx
      obtain ⟨k, hk⟩ : ∃ k, k = if e % 2 = 0 then 240 else 241 := ⟨_, rfl⟩
      have hnear := rsqNear_withinUlps a hm hm24 (k := k) (e := e) (h := (-e - k) / 2) (by split_ifs at hk <;> simp [hk]) he (by split_ifs at hk <;> omega)
      rw [← hx] at hnear
      rw [← hk, if_neg (by simp)]
      exact .of_nonzero hfin h0 (by dsimp only; exact sfuNear_lt ..) noFlags (fun h => by linarith) nofun (fun _ _ => ⟨hnear, rfl⟩) nofun nofun nofun

/-! ## SQRT -/

theorem Fmt.quantum_succ_le (f : Fmt) (k : Nat) : f.quantum (k + 1) ≤ f.quantum k + 1 := by
  have hdiv : (k + 1) / 2 ^ (f.p - 1) ≤ k / 2 ^ (f.p - 1) + 1 := by
    rw [Nat.succ_div]
    split_ifs <;> omega
  unfold Fmt.quantum Fmt.finite
  dsimp only
  generalize (k + 1) / 2 ^ (f.p - 1) = b at *
  generalize k / 2 ^ (f.p - 1) = a at *
  split_ifs <;> dsimp only <;> omega

/-- The middle of two adjacent values is a whole number of any unit small enough. -/
theorem Fmt.exists_mid (f : Fmt) (k : Nat) {h : Int} (hq : h + 1 ≤ f.quantum k) : ∃ N : Nat, (f.val k + f.val (k + 1)) / 2 = N * 2 ^ h := by
  refine ⟨(2 * (f.finite k).1 + 1) * 2 ^ (f.quantum k - 1 - h).toNat, ?_⟩
  rw [Nat.cast_mul, mul_assoc, two_zpow_natCast_sub (by omega), f.val_succ, zpow_sub_one₀ two_ne_zero, show f.val k = (f.finite k).1 * 2 ^ f.quantum k from rfl]
  push_cast
  ring

theorem mid_le_of_nearer {A u v : ℚ} (huv : u < v) (h : |A - v| ≤ |A - u|) : (u + v) / 2 ≤ A := by
  by_contra hlt
  rw [abs_of_neg (by linarith)] at h
  rcases abs_cases (A - u) with ⟨h', _⟩ | ⟨h', _⟩ <;> linarith

theorem le_mid_of_nearer {A u v : ℚ} (huv : u < v) (h : |A - u| ≤ |A - v|) : A ≤ (u + v) / 2 := by
  by_contra hlt
  rw [abs_of_pos (by linarith : 0 < A - u)] at h
  rcases abs_cases (A - v) with ⟨h', _⟩ | ⟨h', _⟩ <;> linarith

/-- A magnitude that lies on the root's side of every whole number of units rounds to the value nearest to the root. -/
theorem rootNearest_code {x A t : ℚ} {j mag : Nat} {h : Int} (hgrid : fp32.OnGrid .rne false A j mag t) (hmax : mag ≤ fp32.maxCode)
    (hq : h + 2 ≤ fp32.quantum j) (hside : ∀ N : Nat, ((N : ℚ) * 2 ^ h ≤ A → (N * 2 ^ h) ^ 2 ≤ x) ∧ (A ≤ N * 2 ^ h → x ≤ (N * 2 ^ h) ^ 2)) :
    rootNearest x (fp32.code false mag) := by
  have hlt := hmax.trans_lt fp32_sound.max_lt
  have hjmag : j ≤ mag := by rcases hgrid.mag_eq with ⟨h, _⟩ | ⟨h, _⟩ <;> omega
  have hmono := fp32.val_strictMono
  unfold rootNearest
  rw [fp32_sound.codeValue_code hlt, sgn_false, one_mul]
  refine ⟨(Fmt.magOf_code hlt false).trans_le hmax, fp32.val_nonneg mag, fun k _ hk => ?_⟩
  rw [← abs_of_nonneg hk, fp32_sound.abs_codeValue]
  generalize fp32.magOf k = k
  have hk0 := fp32.val_nonneg k
  have hm0 := fp32.val_nonneg mag
  refine ⟨fun hless => ?_, fun hmore => ?_⟩
  · obtain ⟨n, rfl⟩ := Nat.exists_eq_add_one_of_ne_zero (by have := hmono.lt_iff_lt.1 hless; omega : mag ≠ 0)
    have hkn : fp32.val k ≤ fp32.val n := hmono.monotone (Nat.lt_succ_iff.1 (hmono.lt_iff_lt.1 hless))
    obtain ⟨N, hN⟩ := fp32.exists_mid n (h := h) (by
      have h1 := fp32.quantum_mono hjmag
      have h2 := fp32.quantum_succ_le n
      omega)
    have hA := (hside N).1 (hN ▸ mid_le_of_nearer (hmono n.lt_succ_self) (hgrid.nearest n).1)
    exact (pow_le_pow_left₀ (by linarith) (by linarith : _ ≤ (N : ℚ) * 2 ^ h) 2).trans hA
  · have hkn : fp32.val (mag + 1) ≤ fp32.val k := hmono.monotone (hmono.lt_iff_lt.1 hmore)
    obtain ⟨N, hN⟩ := fp32.exists_mid mag (h := h) (by have := fp32.quantum_mono hjmag; omega)
    have hA := (hside N).2 (hN ▸ le_mid_of_nearer (hmono mag.lt_succ_self) (hgrid.nearest (mag + 1)).1)
    have := fp32.val_nonneg (mag + 1)
    exact hA.trans (pow_le_pow_left₀ (by linarith) (by linarith : (N : ℚ) * 2 ^ h ≤ _) 2)

/-- The integer root doubled, with a sticky bit, lies on the root's side of every integer doubled. -/
theorem sticky_root_side (X N : Nat) :
    let y := 2 * Nat.sqrt X + (if Nat.sqrt X * Nat.sqrt X = X then 0 else 1)
    (2 * N ≤ y → N * N ≤ X) ∧ (y ≤ 2 * N → X ≤ N * N) := by
  have hlow := Nat.sqrt_le X
  have hup := Nat.lt_succ_sqrt X
  generalize Nat.sqrt X = r at *
  intro y
  refine ⟨fun h => ?_, fun h => ?_⟩
  · have hN : N ≤ r := by simp only [y] at h; split_ifs at h <;> omega
    exact (Nat.mul_le_mul hN hN).trans hlow
  · simp only [y] at h
    split_ifs at h with heq
    · have hN : r ≤ N := by omega
      exact heq.symm.le.trans (Nat.mul_le_mul hN hN)
    · have hN : r + 1 ≤ N := by omega
      exact hup.le.trans (Nat.mul_le_mul hN hN)

/-- A finite magnitude rounded to the nearest. -/
theorem fp32_round_rne (neg : Bool) {m : Nat} (hm : m ≠ 0) {e : Int} (hle : (m : ℚ) * 2 ^ e ≤ fp32.val fp32.maxCode) :
    ∃ (j mag : Nat) (t : ℚ), fp32.OnGrid .rne neg (m * 2 ^ e) j mag t ∧ (m.log2 : Int) + e - 23 ≤ fp32.quantum j ∧ mag ≤ fp32.maxCode ∧
      (fp32.round .rne false neg m e).1 = fp32.code neg mag := by
  have hA : 0 < (m : ℚ) * 2 ^ e := by positivity
  obtain ⟨j, mag, t, hgrid, hq, hround⟩ := fp32_sound.round_eq rne_drawn false neg hm e
  have hover := fp32_sound.not_overflows rne_drawn neg hm hle
  rw [fp32_sound.overflows_iff rne_drawn hA hgrid hq] at hover
  rw [int_log_dyadic hm, show fp32.p = 24 by rfl] at hq
  refine ⟨j, mag, t, hgrid, by push_cast at hq; omega, not_lt.1 hover, ?_⟩
  rw [hround, if_neg hover]

/-- R159: SQRT of a positive value. Its unit is 2^h, and e = k + 2h. -/
theorem sqrt_rootNearest {m k : Nat} (hm : m ≠ 0) (hm24 : m < 2 ^ 24) (hk : k = 80 ∨ k = 81) {e h : Int} (he : e ≤ 104) (hh : 2 * h = e - k) :
    let X := m * 2 ^ k
    ∃ c < 2 ^ 32, (fp32.round .rne false false (2 * Nat.sqrt X + (if Nat.sqrt X * Nat.sqrt X = X then 0 else 1)) (h - 1)).1 = c ∧
      rootNearest (m * 2 ^ e) c := by
  intro X
  have hside := fun N => sticky_root_side X N
  have hQ := two_zpow_pos h
  have hbits : 2 ^ 40 ≤ Nat.sqrt X := by
    rw [Nat.le_sqrt, ← pow_add]
    exact (Nat.pow_le_pow_right two_pos (by omega)).trans (Nat.le_mul_of_pos_left _ (Nat.pos_of_ne_zero hm))
  have hsize : Nat.sqrt X < 2 ^ 53 := by
    rw [Nat.sqrt_lt, ← pow_add]
    calc m * 2 ^ k < 2 ^ 24 * 2 ^ k := Nat.mul_lt_mul_of_pos_right hm24 (Nat.two_pow_pos k)
      _ ≤ 2 ^ (53 + 53) := by rw [← pow_add]; exact Nat.pow_le_pow_right two_pos (by omega)
  have hx : (m : ℚ) * 2 ^ e = X * (2 ^ h) ^ 2 := by
    rw [← zpow_natCast, ← zpow_mul, mul_comm h, Nat.cast_two, hh, Nat.cast_mul, mul_assoc, Nat.cast_pow, Nat.cast_two, ← zpow_natCast,
      ← zpow_add₀ two_ne_zero, add_sub_cancel]
  obtain ⟨y, hy⟩ : ∃ y, y = 2 * Nat.sqrt X + (if Nat.sqrt X * Nat.sqrt X = X then 0 else 1) := ⟨_, rfl⟩
  have hybits : 2 ^ 41 ≤ y ∧ y ≤ 2 ^ 54 := by rw [hy]; split_ifs <;> omega
  simp only [← hy] at hside ⊢
  have hle : (y : ℚ) * 2 ^ (h - 1) ≤ fp32.val fp32.maxCode := by
    have h1 : (y : ℚ) ≤ 2 ^ 54 := by exact_mod_cast hybits.2
    have h2 : (2 : ℚ) ^ (h - 1) ≤ 2 ^ 11 := by exact_mod_cast zpow_le_zpow_right₀ (one_le_two (α := ℚ)) (by omega : h - 1 ≤ 11)
    calc (y : ℚ) * 2 ^ (h - 1) ≤ 2 ^ 54 * 2 ^ 11 := mul_le_mul h1 h2 (two_zpow_pos _).le (by norm_num)
      _ ≤ _ := by rw [fp32_val_max]; norm_num
  obtain ⟨j, mag, t, hgrid, hq, hmax, hround⟩ := fp32_round_rne false (by omega) hle
  have hlog : 41 ≤ y.log2 := (Nat.le_log2 (by omega)).2 hybits.1
  rw [hx]
  have hunit : (y : ℚ) * 2 ^ (h - 1) = y / 2 * 2 ^ h := by rw [zpow_sub_one₀ two_ne_zero]; ring
  refine ⟨_, fp32_sound.code_lt (hmax.trans_lt fp32_sound.max_lt) false, hround, ?_⟩
  refine rootNearest_code hgrid hmax (h := h) (by omega) fun N => ?_
  obtain ⟨hbelow, habove⟩ := hside N
  rw [hunit, mul_le_mul_iff_left₀ hQ, mul_le_mul_iff_left₀ hQ, mul_pow, mul_le_mul_iff_left₀ (by positivity), mul_le_mul_iff_left₀ (by positivity), sq,
    le_div_iff₀ two_pos, div_le_iff₀ two_pos]
  exact ⟨fun h => by exact_mod_cast hbelow (by rw [mul_comm]; exact_mod_cast h), fun h => by exact_mod_cast habove (by rw [mul_comm 2]; exact_mod_cast h)⟩

theorem sqrt_sound (a : Word) : SfuSound 2 a.toNat (sqrtWord a.toNat) := by
  rcases sfu_input a.toNat with hn | hi | h0 | ⟨hfin, h0⟩
  · obtain ⟨s, hs, hsig⟩ := fp32_sound.value_of_nan hn
    simpa only [sqrtWord, hs] using SfuSound.of_nan hn hsig
  · have hcode : fp32.code (fp32.negOf a.toNat) 0x7F800000 = a.toNat := fp32_sound.code_of_infinite hi a.isLt
    have hinf := SfuSound.of_infinite (fn := 2) (by norm_num) hi
    simp only [sqrtWord, Fmt.value_of_infinite hi]
    cases hneg : fp32.negOf a.toNat with
    | true =>
      rw [hneg] at hinf
      exact hinf
    | false =>
      rw [hneg] at hcode hinf
      rw [← hcode] at hinf ⊢
      exact hinf
  · obtain ⟨e, hv⟩ := fp32_value_of_zero h0
    have hcode : fp32.code (fp32.negOf a.toNat) 0 = a.toNat := h0 ▸ fp32_sound.code_negOf_magOf a.isLt
    have hzero := SfuSound.of_zero (fn := 2) (by norm_num) a.isLt h0
    simpa only [sqrtWord, hv, if_true, sfuOfZero, hcode] using hzero
  · obtain ⟨m, e, hv, hx, hm, hm24, _, he⟩ := fp32_value_of_nonzero hfin h0
    have hQ : 0 < (m : ℚ) * 2 ^ e := by positivity
    simp only [sqrtWord, hv, if_neg hm, isqrt_eq]
    cases hneg : fp32.negOf a.toNat with
    | true =>
      rw [hneg, sgn_true] at hx
      exact .of_nonzero hfin h0 fp32_sound.nan_lt invalidFlags (fun _ _ => rfl) nofun nofun (fun _ h => by linarith) nofun nofun
    | false =>
      rw [hneg, sgn_false, one_mul] at hx
      obtain ⟨k, hk⟩ : ∃ k, k = if e % 2 = 0 then 80 else 81 := ⟨_, rfl⟩
      obtain ⟨c, hlt, hround, hroot⟩ := sqrt_rootNearest hm hm24 (k := k) (e := e) (h := (e - k) / 2) (by split_ifs at hk <;> simp [hk]) he
        (by split_ifs at hk <;> omega)
      rw [← hx] at hroot
      rw [← hk, if_neg (by simp), hround]
      exact .of_nonzero hfin h0 hlt noFlags (fun h => by linarith) nofun nofun (fun _ _ => ⟨hroot, rfl⟩) nofun nofun

end Sys2Proof.Machine

/-! SUPPORT. EX2, LG2, SIN and COS on special inputs (R159), and O17. -/

namespace Sys2Proof.Machine
open Sys2Proof

/-! ## EX2 -/

/-- R159: EX2's input over 2^72, rounded down. -/
def ex2Fixed (neg : Bool) (m : Nat) (e : Int) : Int :=
  if (-72) ≤ e then signedInt neg m * 2 ^ (e + 72).toNat else signedInt neg m / 2 ^ (-72 - e).toNat

/-- R159: EX2's result for a finite input that is x over 2^72, rounded down. -/
theorem ex2Word_eq {a : Word} {neg : Bool} {m : Nat} {e x : Int} (hv : fp32.value a.toNat = .fin neg m e) (hx : ex2Fixed neg m e = x) :
    ex2Word a = if !neg && decide (128 ≤ x / 2 ^ 72) then (0x7F800000, flagOF)
      else if (x % 2 ^ 72).toNat = 0 && decide (-149 ≤ x / 2 ^ 72) && (decide (-72 ≤ e) || m == 0) then ((fp32.round .rne false false 1 (x / 2 ^ 72)).1, 0)
      else if x / 2 ^ 72 < -400 then (sfuChoose 3 a 0 2 (-149), 0)
      else (sfuNear 3 a false (exp2Frac (x % 2 ^ 72).toNat) (exp2Frac (x % 2 ^ 72).toNat + exp2Frac (x % 2 ^ 72).toNat / 2 ^ 60 + 1) (x / 2 ^ 72 - 96) 2, 0) := by
  subst hx
  simp only [ex2Word, hv]
  rfl

theorem ex2Fixed_exact (neg : Bool) (m : Nat) {e : Int} (he : -72 ≤ e) : (ex2Fixed neg m e : ℚ) = sgn neg * (m * 2 ^ e) * 2 ^ 72 := by
  have h := two_zpow_natCast_sub (e := e) (q := -72) he
  rw [ex2Fixed, if_pos he, Int.cast_mul, signedInt_cast, ← mul_assoc, ← h]
  push_cast
  rw [sub_neg_eq_add]
  norm_num [zpow_neg]
  ring

theorem ex2Fixed_floor (neg : Bool) (m : Nat) (e : Int) :
    (ex2Fixed neg m e : ℚ) ≤ sgn neg * (m * 2 ^ e) * 2 ^ 72 ∧ sgn neg * (m * 2 ^ e) * 2 ^ 72 < ex2Fixed neg m e + 1 := by
  by_cases he : -72 ≤ e
  · rw [ex2Fixed_exact neg m he]
    exact ⟨le_rfl, lt_add_one _⟩
  · have h := two_zpow_natCast_sub (e := -72) (q := e) (by omega)
    have hpos : (0 : Int) < 2 ^ (-72 - e).toNat := by positivity
    have hposQ : (0 : ℚ) < 2 ^ (-72 - e).toNat := by positivity
    have hx : sgn neg * ((m : ℚ) * 2 ^ e) * 2 ^ 72 = signedInt neg m / 2 ^ (-72 - e).toNat := by
      rw [eq_div_iff hposQ.ne', signedInt_cast]
      push_cast at h
      calc sgn neg * ((m : ℚ) * 2 ^ e) * 2 ^ 72 * 2 ^ (-72 - e).toNat = sgn neg * m * 2 ^ 72 * (2 ^ (-72 - e).toNat * 2 ^ e) := by ring
        _ = sgn neg * m := by rw [h, mul_assoc, show (2 : ℚ) ^ 72 * 2 ^ (-72 : Int) = 1 by norm_num [zpow_neg], mul_one]
    rw [hx, ex2Fixed, if_neg he, le_div_iff₀ hposQ, div_lt_iff₀ hposQ]
    constructor
    · exact_mod_cast Int.ediv_mul_le _ hpos.ne'
    · exact_mod_cast Int.lt_ediv_add_one_mul_self _ hpos

/-- An input's integral part and its fraction over 2^72. -/
theorem ex2Fixed_parts {X : ℚ} {x : Int} (h1 : (x : ℚ) ≤ X * 2 ^ 72) (h2 : X * 2 ^ 72 < x + 1) :
    (((x / 2 ^ 72 : Int) : ℚ) ≤ X) ∧ X < ((x / 2 ^ 72 : Int) : ℚ) + 1 := by
  have hdiv : x / 2 ^ 72 * 2 ^ 72 ≤ x ∧ x + 1 ≤ (x / 2 ^ 72 + 1) * 2 ^ 72 := by omega
  obtain ⟨h3, h4⟩ := hdiv
  have h3' : ((x / 2 ^ 72 : Int) : ℚ) * 2 ^ 72 ≤ x := by exact_mod_cast h3
  have h4' : (x : ℚ) + 1 ≤ (((x / 2 ^ 72 : Int) : ℚ) + 1) * 2 ^ 72 := by exact_mod_cast h4
  constructor <;> linarith

/-- A power of two in FP32's range rounds to itself. -/
theorem fp32_round_two_pow {n : Int} (h1 : -149 ≤ n) (h2 : n ≤ 127) :
    ∃ c < 2 ^ 32, (fp32.round .rne false false 1 n).1 = c ∧ finiteCode fp32 c ∧ codeValue fp32 c = (2 : ℚ) ^ n := by
  obtain ⟨k, hk⟩ := fp32.exists_val_of_le (n := 1) (by decide) (e := n) (by rw [show fp32.emin - fp32.p + 1 = -149 by decide]; exact h1)
  have hmax : k ≤ fp32.maxCode := by
    refine fp32.val_strictMono.le_iff_le.1 ?_
    rw [hk, fp32_val_max, Nat.cast_one, one_mul]
    refine (zpow_le_zpow_right₀ one_le_two h2).trans ?_
    norm_num
  have hlt := hmax.trans_lt fp32_sound.max_lt
  refine ⟨fp32.code false k, fp32_sound.code_lt hlt false, ?_, (Fmt.magOf_code hlt false).trans_le hmax, ?_⟩
  · rw [fp32_sound.round_of_val rne_drawn false false one_ne_zero hmax hk.symm]
  · rw [fp32_sound.codeValue_code hlt, hk, sgn_false, Nat.cast_one, one_mul, one_mul]

/-- R159: EX2 below 128: the exact power of an integer, or a choice about the power of the input over 2^72, rounded down to `x`. -/
def ex2Gives (a : Word) (X : ℚ) (c : Nat) : Prop :=
  (∃ n : Int, X = n ∧ -149 ≤ n ∧ n ≤ 127 ∧ finiteCode fp32 c ∧ codeValue fp32 c = (2 : ℚ) ^ n) ∨
  (¬ (∃ n : Int, X = n ∧ -149 ≤ n) ∧ ∃ x : Int, (x : ℚ) ≤ X * 2 ^ 72 ∧ X * 2 ^ 72 < x + 1 ∧
    (x / 2 ^ 72 < -400 ∧ c = sfuChoose 3 a 0 2 (-149) ∨
      -400 ≤ x / 2 ^ 72 ∧ x / 2 ^ 72 ≤ 127 ∧ c = sfuNear 3 a false (exp2Frac (x % 2 ^ 72).toNat)
        (exp2Frac (x % 2 ^ 72).toNat + exp2Frac (x % 2 ^ 72).toNat / 2 ^ 60 + 1) (x / 2 ^ 72 - 96) 2))

/-- The model's test of an integral input. -/
theorem ex2_integral_iff {neg : Bool} {m : Nat} {e x : Int} (h1 : (x : ℚ) ≤ sgn neg * (m * 2 ^ e) * 2 ^ 72)
    (h2 : sgn neg * ((m : ℚ) * 2 ^ e) * 2 ^ 72 < x + 1) (hexact : -72 ≤ e → (x : ℚ) = sgn neg * (m * 2 ^ e) * 2 ^ 72) (hm : m < 2 ^ 24) :
    (x % 2 ^ 72 = 0 ∧ (-72 ≤ e ∨ m = 0)) ↔ ∃ n : Int, sgn neg * ((m : ℚ) * 2 ^ e) = n := by
  constructor
  · rintro ⟨hx, he | h0⟩
    · obtain ⟨k, rfl⟩ := Int.dvd_of_emod_eq_zero hx
      refine ⟨k, mul_right_cancel₀ (by norm_num : (2 : ℚ) ^ 72 ≠ 0) ?_⟩
      rw [← hexact he]
      push_cast
      ring
    · exact ⟨0, by rw [h0]; simp⟩
  · rintro ⟨n, hn⟩
    rw [hn] at h1 h2
    have h1' : x ≤ n * 2 ^ 72 := by exact_mod_cast h1
    have h2' : n * 2 ^ 72 < x + 1 := by exact_mod_cast h2
    refine ⟨by omega, or_iff_not_imp_left.2 fun he => ?_⟩
    -- below 2^−72 the only integer is zero
    have hmQ : (m : ℚ) < 2 ^ 24 := by exact_mod_cast hm
    have hsmall : (2 : ℚ) ^ e ≤ 1 / 2 ^ 24 := (zpow_le_zpow_right₀ one_le_two (by omega : e ≤ -24)).trans (by norm_num [zpow_neg])
    have habs : |(n : ℚ)| = m * 2 ^ e := by rw [← hn, abs_mul, abs_sgn, one_mul, abs_of_nonneg (by positivity)]
    have hlt : |(n : ℚ)| < 1 := by
      rw [habs]
      have := two_zpow_pos e
      nlinarith
    have hn0 : n = 0 := Int.abs_lt_one_iff.1 (by exact_mod_cast hlt)
    rw [hn0, Int.cast_zero, abs_zero, eq_comm, mul_eq_zero_iff_right (two_zpow_pos e).ne'] at habs
    exact_mod_cast habs

/-- R159: EX2 of a finite input. -/
theorem ex2Word_finite {a : Word} {neg : Bool} {m : Nat} {e : Int} (hv : fp32.value a.toNat = .fin neg m e) (hm : m < 2 ^ 24) {X : ℚ}
    (hX : X = sgn neg * (m * 2 ^ e)) :
    (128 ≤ X → ex2Word a = (0x7F800000, flagOF)) ∧ (X < 128 → ∃ c < 2 ^ 32, ex2Word a = (c, 0) ∧ ex2Gives a X c) := by
  obtain ⟨x, hx⟩ : ∃ x, ex2Fixed neg m e = x := ⟨_, rfl⟩
  obtain ⟨h1, h2⟩ := ex2Fixed_floor neg m e
  have hexact := ex2Fixed_exact neg m (e := e)
  rw [hx] at h1 h2 hexact
  have hint := ex2_integral_iff h1 h2 hexact hm
  rw [← hX] at h1 h2 hint
  obtain ⟨h3, h4⟩ := ex2Fixed_parts h1 h2
  rw [ex2Word_eq hv hx]
  refine ⟨fun hbig => if_pos ?_, fun hsmall => ?_⟩
  · have hneg : neg = false := by
      by_contra hn
      have : 0 ≤ (m : ℚ) * 2 ^ e := by positivity
      rw [Bool.not_eq_false] at hn
      rw [hn, sgn_true] at hX
      linarith
    have hi : 128 ≤ x / 2 ^ 72 := by
      have : ((128 : Int) : ℚ) < ((x / 2 ^ 72 + 1 : Int) : ℚ) := by push_cast; linarith
      have := Int.cast_lt.1 this
      omega
    rw [hneg, decide_eq_true hi]
    rfl
  · have hi : x / 2 ^ 72 ≤ 127 := by
      have : ((x / 2 ^ 72 : Int) : ℚ) < ((128 : Int) : ℚ) := by push_cast; linarith
      have := Int.cast_lt.1 this
      omega
    have hno : ¬ (128 ≤ x / 2 ^ 72) := by omega
    have hfrac : (x % 2 ^ 72).toNat = 0 ↔ x % 2 ^ 72 = 0 := by omega
    simp only [hno, hfrac, decide_false, Bool.and_false, Bool.false_eq_true, if_false, Bool.and_eq_true, Bool.or_eq_true, decide_eq_true_eq, beq_iff_eq]
    split_ifs with hcond hlow
    · obtain ⟨⟨hf, hi'⟩, hor⟩ := hcond
      obtain ⟨c, hlt, hround, hfin, hval⟩ := fp32_round_two_pow hi' hi
      refine ⟨c, hlt, by rw [hround], .inl ⟨x / 2 ^ 72, ?_, hi', hi, hfin, hval⟩⟩
      obtain ⟨n, hn⟩ := hint.1 ⟨hf, hor⟩
      have h5 : x / 2 ^ 72 ≤ n := by rw [hn] at h3; exact_mod_cast h3
      have h6 : n < x / 2 ^ 72 + 1 := by rw [hn] at h4; exact_mod_cast h4
      rw [hn, show n = x / 2 ^ 72 by omega]
    · refine ⟨_, sfuChoose_lt .., rfl, .inr ⟨?_, x, h1, h2, .inl ⟨hlow, rfl⟩⟩⟩
      rintro ⟨n, hn, hn'⟩
      rw [hn] at h4
      have : n < x / 2 ^ 72 + 1 := by exact_mod_cast h4
      omega
    · refine ⟨_, sfuNear_lt .., rfl, .inr ⟨?_, x, h1, h2, .inr ⟨by omega, hi, rfl⟩⟩⟩
      rintro ⟨n, hn, hn'⟩
      obtain ⟨hf, hor⟩ := hint.2 ⟨n, hn⟩
      rw [hn] at h4
      have : n < x / 2 ^ 72 + 1 := by exact_mod_cast h4
      exact hcond ⟨⟨hf, by omega⟩, hor⟩

theorem ex2_sound (a : Word) : SfuSound 3 a.toNat (ex2Word a) := by
  rcases sfu_input a.toNat with hn | hi | h0 | ⟨hfin, h0⟩
  · obtain ⟨s, hs, hsig⟩ := fp32_sound.value_of_nan hn
    simpa only [ex2Word, hs] using SfuSound.of_nan hn hsig
  · simpa only [ex2Word, Fmt.value_of_infinite hi, sfuOfInfinite] using SfuSound.of_infinite (fn := 3) (by norm_num) hi
  · obtain ⟨e, hv⟩ := fp32_value_of_zero h0
    have hzero := SfuSound.of_zero (fn := 3) (by norm_num) a.isLt h0
    have hword : ex2Word a = (0x3F800000, 0) := by
      rw [ex2Word_eq (x := 0) hv (by simp [ex2Fixed, signedInt])]
      have hround : (fp32.round .rne false false 1 0).1 = 0x3F800000 := by decide
      simp [hround]
    rwa [hword]
  · obtain ⟨m, e, hv, hx, hm, hm24, _⟩ := fp32_value_of_nonzero hfin h0
    obtain ⟨hbig, hsmall⟩ := ex2Word_finite hv hm24 hx
    rcases le_or_gt 128 (codeValue fp32 a.toNat) with h | h
    · rw [hbig h]
      refine .of_nonzero hfin h0 (by norm_num) overflowFlags (fun _ h => by omega) nofun nofun nofun (fun _ => ⟨fun _ => rfl, fun n hn _ hn' => ?_⟩) nofun
      rw [hn] at h
      have : (128 : Int) ≤ n := by exact_mod_cast h
      omega
    · obtain ⟨c, hlt, hword, hgives⟩ := hsmall h
      rw [hword]
      refine .of_nonzero hfin h0 hlt noFlags (fun _ h => by omega) nofun nofun nofun (fun _ => ⟨fun h' => absurd h' h.not_ge, fun n hn hn1 hn2 => ?_⟩) nofun
      rcases hgives with ⟨n', hn', _, _, hc, hval⟩ | ⟨hno, _⟩
      · obtain rfl : n' = n := by rw [hn] at hn'; exact_mod_cast hn'.symm
        exact ⟨rfl, hc, hval⟩
      · exact absurd ⟨n, hn, hn1⟩ hno

/-! ## LG2 -/

theorem log2Bits_one (f acc : Nat) : log2Bits f (2 ^ 127) acc = 2 ^ f * acc := by
  induction f generalizing acc with
  | zero => simp [log2Bits]
  | succ f ih =>
    have hz : 2 ^ 127 * 2 ^ 127 / 2 ^ 127 = 2 ^ 127 := by norm_num
    rw [log2Bits, hz, if_neg (by norm_num), ih, pow_succ]
    ring

/-- R159: the base-2 logarithm over 2^80, rounded down. -/
def lg2Fixed (m : Nat) (e : Int) : Int := ((m.log2 : Int) + e) * 2 ^ 80 + log2Bits 80 (m * 2 ^ (127 - m.log2)) 0

/-- R159: LG2's choice for a positive value m × 2^e whose logarithm over 2^80 is `v`, rounded down. -/
def lg2Code (a : Word) (m : Nat) (e v : Int) : Nat :=
  if v = 0 then 0
  else if (m.log2 : Int) + e = 0 || (m.log2 : Int) + e = -1 || ((m.log2 : Int) + e = 1 && m = 2 ^ m.log2) then sfuWithin 4 a v (v + 2) (2 ^ 58) (-80)
  else if m = 2 ^ m.log2 then sfuNear 4 a (decide (v < 0)) v.natAbs v.natAbs (-80) 2
  else if v < 0 then sfuNear 4 a true (v.natAbs - 2) v.natAbs (-80) 2
  else sfuNear 4 a false v.natAbs (v.natAbs + 2) (-80) 2

theorem lg2Word_eq {a : Word} {m : Nat} {e : Int} (hv : fp32.value a.toNat = .fin false m e) (hm : m ≠ 0) :
    lg2Word a = (lg2Code a m e (lg2Fixed m e), 0) := by
  simp only [lg2Word, hv, if_neg hm, Bool.false_eq_true, if_false]
  rw [lg2Code, ← lg2Fixed]
  split_ifs <;> rfl

theorem lg2Code_lt (a : Word) (m : Nat) (e v : Int) : lg2Code a m e v < 2 ^ 32 := by
  unfold lg2Code
  split_ifs
  · exact Nat.two_pow_pos 32
  · exact sfuWithin_lt ..
  all_goals exact sfuNear_lt ..

/-- A power of two's logarithm is exact. -/
theorem lg2Fixed_of_two_pow {m : Nat} (hm : m = 2 ^ m.log2) (hm24 : m < 2 ^ 24) (e : Int) : lg2Fixed m e = (m.log2 + e) * 2 ^ 80 := by
  have hlog : m.log2 < 24 := (Nat.pow_lt_pow_iff_right (by norm_num)).1 (hm ▸ hm24)
  have hy : m * 2 ^ (127 - m.log2) = 2 ^ 127 := by
    nth_rw 1 [hm]
    rw [← pow_add, Nat.add_sub_cancel' (by omega)]
  rw [lg2Fixed, hy, log2Bits_one, Nat.mul_zero, Nat.cast_zero, add_zero]

theorem log2_of_one {m : Nat} {e : Int} (hone : (m : ℚ) * 2 ^ e = 1) : (m.log2 : Int) + e = 0 ∧ m = 2 ^ m.log2 := by
  have hm : m ≠ 0 := fun h => by simp [h] at hone
  have hlog : (m.log2 : Int) + e = 0 := by rw [← int_log_dyadic hm, hone, Int.log_one_right]
  refine ⟨hlog, ?_⟩
  have hmQ : (m : ℚ) = 2 ^ m.log2 := by
    rw [← zpow_natCast, show (m.log2 : Int) = -e by omega, zpow_neg]
    exact eq_inv_of_mul_eq_one_left hone
  exact_mod_cast hmQ

theorem lg2_sound (a : Word) : SfuSound 4 a.toNat (lg2Word a) := by
  rcases sfu_input a.toNat with hn | hi | h0 | ⟨hfin, h0⟩
  · obtain ⟨s, hs, hsig⟩ := fp32_sound.value_of_nan hn
    simpa only [lg2Word, hs] using SfuSound.of_nan hn hsig
  · have hcode : fp32.code (fp32.negOf a.toNat) 0x7F800000 = a.toNat := fp32_sound.code_of_infinite hi a.isLt
    have hinf := SfuSound.of_infinite (fn := 4) (by norm_num) hi
    simp only [lg2Word, Fmt.value_of_infinite hi]
    cases hneg : fp32.negOf a.toNat with
    | true =>
      rw [hneg] at hinf
      exact hinf
    | false =>
      rw [hneg] at hcode hinf
      rw [← hcode] at hinf ⊢
      exact hinf
  · obtain ⟨e, hv⟩ := fp32_value_of_zero h0
    have hinf : fp32.code true 0x7F800000 = 0xFF800000 := by decide
    simpa only [lg2Word, hv, if_true, sfuOfZero, hinf] using SfuSound.of_zero (fn := 4) (by norm_num) a.isLt h0
  · obtain ⟨m, e, hv, hx, hm, hm24, _⟩ := fp32_value_of_nonzero hfin h0
    have hQ : 0 < (m : ℚ) * 2 ^ e := by positivity
    cases hneg : fp32.negOf a.toNat with
    | true =>
      rw [hneg, sgn_true] at hx
      have hword : lg2Word a = (fp32.nan, flagNV) := by
        rw [hneg] at hv
        simp only [lg2Word, hv, if_neg hm, if_true]
      rw [hword]
      exact .of_nonzero hfin h0 fp32_sound.nan_lt invalidFlags (fun _ _ => rfl) nofun nofun nofun nofun (fun _ h => by linarith)
    | false =>
      rw [hneg] at hv
      rw [hneg, sgn_false, one_mul] at hx
      rw [lg2Word_eq hv hm]
      refine .of_nonzero hfin h0 (lg2Code_lt ..) noFlags (fun h => by linarith) nofun nofun nofun nofun fun _ hone => ?_
      obtain ⟨hlog, hpow⟩ := log2_of_one (hx ▸ hone)
      rw [lg2Code, if_pos (by rw [lg2Fixed_of_two_pow hpow hm24, hlog, zero_mul])]

/-! ## SIN and COS -/

/-- R159: the input of SIN and COS over 2^100, rounded toward zero. -/
def trigFixed (neg : Bool) (m : Nat) (e : Int) : Int :=
  signedInt neg (if (-100) ≤ e then m * 2 ^ (e + 100).toNat else m / 2 ^ (-100 - e).toNat)

/-- R159: whether a magnitude lies beyond 2^15. -/
def trigBeyond (m : Nat) (e : Int) : Bool := decide (15 < (m.log2 : Int) + e) || ((m.log2 : Int) + e == 15 && m != 2 ^ m.log2)

/-- R159: the choice of SIN (function 5) or COS (function 6) for a nonzero value. -/
def trigCode (cosine : Bool) (a : Word) (neg : Bool) (m : Nat) (e : Int) : Nat :=
  if trigBeyond m e then sfuChoose (if cosine then 6 else 5) a (-1) 1 0
  else sfuWithin (if cosine then 6 else 5) a (trigOf cosine (trigFixed neg m e) - 2 ^ 50) (trigOf cosine (trigFixed neg m e) + 2 ^ 50) (2 ^ 79) (-100)

theorem trigWord_eq (cosine : Bool) {a : Word} {neg : Bool} {m : Nat} {e : Int} (hv : fp32.value a.toNat = .fin neg m e) (hm : m ≠ 0) :
    trigWord cosine a = (trigCode cosine a neg m e, 0) := by
  have hfixed : (if neg then -(if (-100) ≤ e then ((m * 2 ^ (e + 100).toNat : Nat) : Int) else ((m / 2 ^ (-100 - e).toNat : Nat) : Int))
      else (if (-100) ≤ e then ((m * 2 ^ (e + 100).toNat : Nat) : Int) else ((m / 2 ^ (-100 - e).toNat : Nat) : Int))) = trigFixed neg m e := by
    unfold trigFixed signedInt
    split_ifs <;> rfl
  simp only [trigWord, hv, if_neg hm, hfixed]
  rw [trigCode, trigBeyond]
  split_ifs <;> rfl

theorem trigCode_lt (cosine : Bool) (a : Word) (neg : Bool) (m : Nat) (e : Int) : trigCode cosine a neg m e < 2 ^ 32 := by
  rw [trigCode, apply_ite (· < 2 ^ 32)]
  split
  · exact sfuChoose_lt ..
  · exact sfuWithin_lt ..

theorem trig_sound (cosine : Bool) (a : Word) : SfuSound (if cosine then 6 else 5) a.toNat (trigWord cosine a) := by
  have hfn : (if cosine then 6 else 5) < 7 := by cases cosine <;> decide
  rcases sfu_input a.toNat with hn | hi | h0 | ⟨hfin, h0⟩
  · obtain ⟨s, hs, hsig⟩ := fp32_sound.value_of_nan hn
    simpa only [trigWord, hs] using SfuSound.of_nan hn hsig
  · have hinf := SfuSound.of_infinite hfn hi
    simp only [trigWord, Fmt.value_of_infinite hi]
    cases cosine <;> exact hinf
  · obtain ⟨e, hv⟩ := fp32_value_of_zero h0
    have hcode : fp32.code (fp32.negOf a.toNat) 0 = a.toNat := h0 ▸ fp32_sound.code_negOf_magOf a.isLt
    have hzero := SfuSound.of_zero hfn a.isLt h0
    simp only [trigWord, hv, if_true]
    cases cosine with
    | true => exact hzero
    | false => simpa only [Bool.false_eq_true, if_false, sfuOfZero, hcode] using hzero
  · obtain ⟨m, e, hv, _, hm, _⟩ := fp32_value_of_nonzero hfin h0
    rw [trigWord_eq cosine hv hm]
    cases cosine <;> exact .of_nonzero hfin h0 (trigCode_lt ..) noFlags (fun _ h => by simp at h) nofun nofun nofun nofun nofun

/-! ## The seven words -/

/-- R159: the words of the SFU by their functions' numbers. -/
def sfuFunction (fn : Nat) (a : Word) : Nat × BitVec 5 :=
  match fn with
  | 0 => rcpWord a
  | 1 => rsqWord a
  | 2 => sqrtWord a.toNat
  | 3 => ex2Word a
  | 4 => lg2Word a
  | 5 => trigWord false a
  | _ => trigWord true a

theorem sfuFunction_sound {fn : Nat} (hfn : fn < 7) (a : Word) : SfuSound fn a.toNat (sfuFunction fn a) := by
  interval_cases fn
  · exact rcp_sound a
  · exact rsq_sound a
  · exact sqrt_sound a
  · exact ex2_sound a
  · exact lg2_sound a
  · exact trig_sound false a
  · exact trig_sound true a

/-- An SFU word answers what its function gives. -/
theorem Runs.answers_sfuWord {s : State} {i : Instr} {g : Guard} {t : Nat} {d a : BitVec 6} {f : Word → Nat × BitVec 5} (h : Runs s i t)
    (hg : i.guard? = some g) (he : exec i s = .next (s.sfuWord i d a f)) (hlt : (f ((s.thread t).reg a.toNat)).1 < 2 ^ 32) {P : Nat → BitVec 5 → Prop}
    (hP : P (f ((s.thread t).reg a.toNat)).1 (f ((s.thread t).reg a.toNat)).2) : AnswersFloat s i t d P :=
  h.answers_code hg he rfl rfl hlt hP

/-- Settles O17: every word's code and flags are its function's, and each function's cases are the table's. -/
theorem specialFunctionsAreFixedFunctionsOfTheInput : Obligations.SpecialFunctionsAreFixedFunctionsOfTheInput := by
  refine ⟨sfuFunction, fun fn a hfn => ⟨(sfuFunction_sound hfn a).special, (sfuFunction_sound hfn a).reciprocal, (sfuFunction_sound hfn a).flags⟩,
    fun g d a s t => ?_⟩
  have hlt := fun fn hfn => (sfuFunction_sound (fn := fn) hfn ((s.thread t).reg a.toNat)).lt
  exact ⟨fun h => h.answers_sfuWord rfl rfl (hlt 0 (by norm_num)) rfl, fun h => h.answers_sfuWord rfl rfl (hlt 1 (by norm_num)) rfl,
    fun h => h.answers_sfuWord rfl rfl (hlt 2 (by norm_num)) rfl, fun h => h.answers_sfuWord rfl rfl (hlt 3 (by norm_num)) rfl,
    fun h => h.answers_sfuWord rfl rfl (hlt 4 (by norm_num)) rfl, fun h => h.answers_sfuWord rfl rfl (hlt 5 (by norm_num)) rfl,
    fun h => h.answers_sfuWord rfl rfl (hlt 6 (by norm_num)) rfl⟩

end Sys2Proof.Machine

/-! SUPPORT. The accuracy of EX2 (R159). -/

namespace Sys2Proof.Machine
open Sys2Proof

/-! ## Products of roots over 2^96 -/

/-- `v` over 2^96 lies below the real P by at most `n` relative errors of 2^−96. -/
structure NearBelow (n : Nat) (P : ℝ) (v : Nat) : Prop where
  le : (v : ℝ) ≤ P * 2 ^ 96
  ge : (1 - n / 2 ^ 96) * (P * 2 ^ 96) ≤ v

section
variable {n k : Nat} {P R : ℝ} {v r : Nat}

theorem NearBelow.mono (h : NearBelow n P v) (hP : 0 ≤ P) (hnk : n ≤ k) : NearBelow k P v := by
  refine ⟨h.le, le_trans ?_ h.ge⟩
  have : (n : ℝ) ≤ k := by exact_mod_cast hnk
  have hP' : 0 ≤ P * 2 ^ 96 := by positivity
  exact mul_le_mul_of_nonneg_right (by linarith [div_le_div_of_nonneg_right this (by positivity : (0 : ℝ) ≤ 2 ^ 96)]) hP'

/-- A floor costs one more error. -/
theorem NearBelow.of_floor {x : ℝ} (hP : 1 ≤ P) (hle : x ≤ P * 2 ^ 96) (hge : (1 - n / 2 ^ 96) * (P * 2 ^ 96) ≤ x) (hv : (v : ℝ) ≤ x) (hv' : x < v + 1) :
    NearBelow (n + 1) P v := by
  refine ⟨hv.trans hle, ?_⟩
  push_cast
  have : (1 - ((n : ℝ) + 1) / 2 ^ 96) * (P * 2 ^ 96) = (1 - n / 2 ^ 96) * (P * 2 ^ 96) - P := by ring
  linarith

/-- The root of a number close below P. -/
theorem NearBelow.sqrt (h : NearBelow n P v) (hP : 1 ≤ P) (hn : n ≤ 2 ^ 96) : NearBelow (n + 1) (Real.sqrt P) (isqrt (v * 2 ^ 96)) := by
  have hn' : (n : ℝ) / 2 ^ 96 ≤ 1 := by
    rw [div_le_one (by positivity)]
    exact_mod_cast hn
  have hP' : 0 ≤ P := by linarith
  have hroot : Real.sqrt P ^ 2 = P := Real.sq_sqrt hP'
  have h0 : 0 ≤ Real.sqrt P := Real.sqrt_nonneg P
  rw [isqrt_eq]
  refine .of_floor (x := Real.sqrt (v * 2 ^ 96)) (Real.one_le_sqrt.2 hP) ?_ ?_ ?_ ?_
  · refine Real.sqrt_le_iff.2 ⟨by positivity, ?_⟩
    rw [mul_pow, hroot]
    nlinarith [h.le]
  · refine Real.le_sqrt_of_sq_le ?_
    have hfrac : 0 ≤ (n : ℝ) / 2 ^ 96 := by positivity
    rw [mul_pow, mul_pow, hroot]
    nlinarith [h.ge]
  · refine Real.le_sqrt_of_sq_le ?_
    exact_mod_cast Nat.sqrt_le' (v * 2 ^ 96)
  · refine (Real.sqrt_lt' (by positivity)).2 ?_
    exact_mod_cast Nat.lt_succ_sqrt' (v * 2 ^ 96)

/-- The product of two such numbers. -/
theorem NearBelow.mul (h : NearBelow n P v) (h' : NearBelow k R r) (hP : 1 ≤ P) (hR : 1 ≤ R) (hn : n ≤ 2 ^ 96) :
    NearBelow (n + k + 1) (P * R) (v * r / 2 ^ 96) := by
  have hn' : (n : ℝ) / 2 ^ 96 ≤ 1 := by
    rw [div_le_one (by positivity)]
    exact_mod_cast hn
  have hn0 : 0 ≤ (n : ℝ) / 2 ^ 96 := by positivity
  have hk0 : 0 ≤ (k : ℝ) / 2 ^ 96 := by positivity
  have hpow : (0 : ℝ) < 2 ^ 96 := by positivity
  refine .of_floor (x := (v * r : ℝ) / 2 ^ 96) (one_le_mul_of_one_le_of_one_le hP hR) ?_ ?_ ?_ ?_
  · rw [div_le_iff₀ hpow]
    calc (v : ℝ) * r ≤ (P * 2 ^ 96) * (R * 2 ^ 96) := mul_le_mul h.le h'.le (by positivity) (by positivity)
      _ = P * R * 2 ^ 96 * 2 ^ 96 := by ring
  · rw [le_div_iff₀ hpow]
    have hR0 : 0 ≤ R * 2 ^ 96 := by positivity
    have hleft : 0 ≤ (1 - (n : ℝ) / 2 ^ 96) * (P * 2 ^ 96) := mul_nonneg (by linarith) (by positivity)
    calc (1 - ((n + k : Nat) : ℝ) / 2 ^ 96) * (P * R * 2 ^ 96) * 2 ^ 96
        = ((1 - n / 2 ^ 96) * (1 - k / 2 ^ 96) - n / 2 ^ 96 * (k / 2 ^ 96)) * ((P * 2 ^ 96) * (R * 2 ^ 96)) := by push_cast; ring
      _ ≤ ((1 - n / 2 ^ 96) * (1 - k / 2 ^ 96)) * ((P * 2 ^ 96) * (R * 2 ^ 96)) :=
          mul_le_mul_of_nonneg_right (sub_le_self _ (mul_nonneg hn0 hk0)) (by positivity)
      _ = (1 - n / 2 ^ 96) * (P * 2 ^ 96) * ((1 - k / 2 ^ 96) * (R * 2 ^ 96)) := by ring
      _ ≤ (1 - n / 2 ^ 96) * (P * 2 ^ 96) * r := mul_le_mul_of_nonneg_left h'.ge hleft
      _ ≤ v * r := mul_le_mul_of_nonneg_right h.ge (Nat.cast_nonneg r)
  · rw [le_div_iff₀ hpow]
    exact_mod_cast Nat.div_mul_le_self (v * r) (2 ^ 96)
  · rw [div_lt_iff₀ hpow]
    exact_mod_cast Nat.lt_mul_of_div_lt (Nat.lt_succ_self (v * r / 2 ^ 96)) (by positivity : 0 < 2 ^ 96)

end

/-! ## The fraction's power -/

/-- A fraction's exponent over 2^72. -/
noncomputable def exp2Part (n : Nat) : ℝ := (2 : ℝ) ^ ((n : ℝ) / 2 ^ 72)

theorem exp2Part_add (m n : Nat) : exp2Part (m + n) = exp2Part m * exp2Part n := by
  rw [exp2Part, Nat.cast_add, add_div, Real.rpow_add two_pos]
  rfl

theorem exp2Part_zero : exp2Part 0 = 1 := by simp [exp2Part]

theorem one_le_exp2Part (n : Nat) : 1 ≤ exp2Part n := Real.one_le_rpow one_le_two (by positivity)

theorem sqrt_exp2Part (n : Nat) : Real.sqrt (exp2Part (2 ^ (n + 1))) = exp2Part (2 ^ n) := by
  rw [pow_succ, mul_two, exp2Part_add, Real.sqrt_mul_self (zero_le_one.trans (one_le_exp2Part _))]

/-- One bit of the fraction. -/
def exp2Step (f acc : Nat) (kr : Nat × Nat) : Nat := if f.testBit (71 - kr.1) then acc * kr.2 / 2 ^ 96 else acc

theorem exp2Frac_eq (f : Nat) : exp2Frac f = ((List.range' 0 72).zip (exp2Roots 72 (2 ^ 97))).foldl (exp2Step f) (2 ^ 96) := by
  rw [← List.range_eq_range']
  rfl

theorem mod_two_pow_succ_eq (f n : Nat) : f % 2 ^ (n + 1) = (if f.testBit n then 2 ^ n else 0) + f % 2 ^ n := by
  rw [pow_succ, Nat.mod_mul, Nat.testBit_eq_decide_div_mod_eq, add_comm]
  rcases Nat.mod_two_eq_zero_or_one (f / 2 ^ n) with h | h <;> simp [h]

/-- The product of the roots that the last n bits of a fraction name. -/
theorem exp2Fold_nearBelow (f n : Nat) : ∀ (j c acc a b : Nat) (P : ℝ),
    j + n = 72 → NearBelow b (exp2Part (2 ^ n)) c → b ≤ j → NearBelow a P acc → 1 ≤ P → a ≤ 100 * j →
      NearBelow (a + 100 * n) (P * exp2Part (f % 2 ^ n)) (((List.range' j n).zip (exp2Roots n c)).foldl (exp2Step f) acc) := by
  induction n with
  | zero =>
    intro j c acc a b P _ _ _ hacc _ _
    simpa [exp2Part_zero, Nat.mod_one] using hacc
  | succ n ih =>
    intro j c acc a b P hj hc hb hacc hP ha
    have hroot := hc.sqrt (one_le_exp2Part _) (by omega)
    rw [sqrt_exp2Part] at hroot
    rw [List.range'_succ, exp2Roots, List.zip_cons_cons, List.foldl_cons]
    rw [exp2Step, show 71 - (j, isqrt (c * 2 ^ 96)).1 = n by simp only; omega, mod_two_pow_succ_eq]
    cases hbit : f.testBit n with
    | false =>
      have h := ih (j + 1) _ acc a (b + 1) P (by omega) hroot (by omega) hacc hP (by omega)
      simp only [Bool.false_eq_true, if_false, zero_add]
      exact h.mono (by have := one_le_exp2Part (f % 2 ^ n); positivity) (by omega)
    | true =>
      have hone := one_le_exp2Part (2 ^ n)
      have hmul := hacc.mul hroot hP hone (by omega)
      have h := ih (j + 1) _ _ _ (b + 1) _ (by omega) hroot (by omega) hmul (one_le_mul_of_one_le_of_one_le hP hone) (by omega)
      simp only [if_true, exp2Part_add, ← mul_assoc]
      exact h.mono (by have := one_le_exp2Part (f % 2 ^ n); positivity) (by omega)

/-- The power of a fraction lies little above the product of its roots. -/
theorem exp2Frac_nearBelow {f : Nat} (hf : f < 2 ^ 72) : NearBelow 7200 (exp2Part f) (exp2Frac f) := by
  have hc : NearBelow 0 (exp2Part (2 ^ 72)) (2 ^ 97) := by
    have htwo : exp2Part (2 ^ 72) = 2 := by
      rw [exp2Part, Nat.cast_pow, Nat.cast_two, div_self (by positivity), Real.rpow_one]
    constructor <;> rw [htwo] <;> norm_num
  have hacc : NearBelow 0 1 (2 ^ 96) := by constructor <;> norm_num
  have h := exp2Fold_nearBelow f 72 0 _ _ _ _ 1 (by norm_num) hc le_rfl hacc le_rfl (by norm_num)
  rw [Nat.mod_eq_of_lt hf, one_mul] at h
  rw [exp2Frac_eq]
  exact h

end Sys2Proof.Machine

/-! SUPPORT. EX2 keeps its bound (R159). -/

namespace Sys2Proof.Machine
open Sys2Proof

/-- The power of a number that is x over 2^72, rounded down. -/
theorem two_rpow_split {X : ℚ} {x : Int} (h1 : (x : ℚ) ≤ X * 2 ^ 72) (h2 : X * 2 ^ 72 < x + 1) :
    (2 : ℝ) ^ (x / 2 ^ 72 : Int) * exp2Part (x % 2 ^ 72).toNat ≤ (2 : ℝ) ^ (X : ℝ) ∧
      (2 : ℝ) ^ (X : ℝ) ≤ (2 : ℝ) ^ (x / 2 ^ 72 : Int) * exp2Part (x % 2 ^ 72).toNat * (1 + 1 / 2 ^ 72) := by
  have h1' : (x : ℝ) ≤ X * 2 ^ 72 := by exact_mod_cast h1
  have h2' : (X : ℝ) * 2 ^ 72 < x + 1 := by exact_mod_cast h2
  obtain ⟨t, ht⟩ : ∃ t : ℝ, t = X - x / 2 ^ 72 := ⟨_, rfl⟩
  have ht0 : 0 ≤ t := by
    rw [ht, sub_nonneg, div_le_iff₀ (by positivity)]
    exact h1'
  have ht1 : t ≤ 1 / 2 ^ 72 := by
    rw [ht, sub_le_iff_le_add, ← add_div, le_div_iff₀ (by positivity)]
    linarith
  have hparts : (x : ℝ) = ((x / 2 ^ 72 : Int) : ℝ) * 2 ^ 72 + ((x % 2 ^ 72).toNat : ℝ) := by
    have hnat : ((x % 2 ^ 72).toNat : ℝ) = ((x % 2 ^ 72 : Int) : ℝ) := by
      rw [← Int.cast_natCast, Int.toNat_of_nonneg (Int.emod_nonneg _ (by norm_num))]
    have hdiv : x = x / 2 ^ 72 * 2 ^ 72 + x % 2 ^ 72 := by omega
    rw [hnat]
    calc (x : ℝ) = ((x / 2 ^ 72 * 2 ^ 72 + x % 2 ^ 72 : Int) : ℝ) := congrArg _ hdiv
      _ = _ := by rw [Int.cast_add, Int.cast_mul]; norm_num
  have hX : (X : ℝ) = ((x / 2 ^ 72 : Int) : ℝ) + ((x % 2 ^ 72).toNat : ℝ) / 2 ^ 72 + t := by
    rw [ht, hparts]
    field_simp
    ring
  have hpos : (0 : ℝ) < (2 : ℝ) ^ (x / 2 ^ 72 : Int) * exp2Part (x % 2 ^ 72).toNat :=
    mul_pos (zpow_pos two_pos _) (Real.rpow_pos_of_pos two_pos _)
  have hsplit : (2 : ℝ) ^ (X : ℝ) = (2 : ℝ) ^ (x / 2 ^ 72 : Int) * exp2Part (x % 2 ^ 72).toNat * 2 ^ t := by
    rw [hX, Real.rpow_add two_pos, Real.rpow_add two_pos, Real.rpow_intCast]
    rfl
  rw [hsplit]
  refine ⟨le_mul_of_one_le_right hpos.le (Real.one_le_rpow one_le_two ht0), mul_le_mul_of_nonneg_left ?_ hpos.le⟩
  have hbern := rpow_one_add_le_one_add_mul_self (s := 1) (by norm_num) ht0 (ht1.trans (by norm_num))
  rw [one_add_one_eq_two, mul_one] at hbern
  linarith

/-- The product of roots, and a bound above it, enclose the power. -/
theorem exp2Frac_bounds {X : ℚ} {x : Int} (h1 : (x : ℚ) ≤ X * 2 ^ 72) (h2 : X * 2 ^ 72 < x + 1) :
    ∃ y, y = exp2Frac (x % 2 ^ 72).toNat ∧ (2 ^ 95 ≤ y ∧ y ≤ 2 ^ 97) ∧ (y : ℝ) * 2 ^ (x / 2 ^ 72 - 96) ≤ (2 : ℝ) ^ (X : ℝ) ∧
      (2 : ℝ) ^ (X : ℝ) ≤ (y + y / 2 ^ 60 + 1 : Nat) * 2 ^ (x / 2 ^ 72 - 96) := by
  obtain ⟨hlow, hup⟩ := two_rpow_split h1 h2
  have hf : (x % 2 ^ 72).toNat < 2 ^ 72 := by omega
  have hnear := exp2Frac_nearBelow hf
  have hone := one_le_exp2Part (x % 2 ^ 72).toNat
  have htwo : exp2Part (x % 2 ^ 72).toNat ≤ 2 := by
    have hle : ((x % 2 ^ 72).toNat : ℝ) / 2 ^ 72 ≤ 1 := by
      rw [div_le_one (by positivity)]
      exact_mod_cast hf.le
    exact (Real.rpow_le_rpow_of_exponent_le one_le_two hle).trans_eq (Real.rpow_one 2)
  obtain ⟨hle, hge⟩ := hnear
  generalize exp2Part (x % 2 ^ 72).toNat = P at *
  refine ⟨_, rfl, ?_⟩
  generalize exp2Frac (x % 2 ^ 72).toNat = y at *
  have hunit : (2 : ℝ) ^ (x / 2 ^ 72 : Int) = 2 ^ 96 * 2 ^ (x / 2 ^ 72 - 96 : Int) := by
    rw [zpow_sub₀ two_ne_zero]
    norm_num
    ring
  have hQ : (0 : ℝ) < 2 ^ (x / 2 ^ 72 - 96 : Int) := zpow_pos two_pos _
  rw [hunit] at hlow hup
  refine ⟨⟨?_, ?_⟩, ?_, ?_⟩
  · have : ((2 ^ 95 : Nat) : ℝ) ≤ y := by
      rw [Nat.cast_pow, Nat.cast_ofNat]
      norm_num at hge
      linarith
    exact_mod_cast this
  · have : (y : ℝ) ≤ ((2 ^ 97 : Nat) : ℝ) := by
      rw [Nat.cast_pow, Nat.cast_ofNat]
      linarith
    exact_mod_cast this
  · refine le_trans ?_ hlow
    nlinarith
  · refine hup.trans ?_
    have hfloor : (y : ℝ) / 2 ^ 60 ≤ (y / 2 ^ 60 : Nat) + 1 := by
      rw [div_le_iff₀ (by positivity)]
      exact_mod_cast (Nat.lt_mul_of_div_lt (Nat.lt_succ_self (y / 2 ^ 60)) (by positivity)).le
    have hsum : P * 2 ^ 96 * (1 + 1 / 2 ^ 72) ≤ ((y + y / 2 ^ 60 + 1 : Nat) : ℝ) := by
      push_cast at hge ⊢
      norm_num at hge hfloor ⊢
      linarith
    calc 2 ^ 96 * 2 ^ (x / 2 ^ 72 - 96 : Int) * P * (1 + 1 / 2 ^ 72) = P * 2 ^ 96 * (1 + 1 / 2 ^ 72) * 2 ^ (x / 2 ^ 72 - 96 : Int) := by ring
      _ ≤ _ := mul_le_mul_of_nonneg_right hsum hQ.le

/-- R159: EX2's choices below 128 lie within 2 ulp of the power. -/
theorem ex2Gives_withinUlps {a : Word} {X : ℚ} {c : Nat} (h : ex2Gives a X c) : withinUlps 2 ((2 : ℝ) ^ (X : ℝ)) c := by
  rcases h with ⟨n, hn, _, _, hfin, hval⟩ | ⟨_, x, h1, h2, ⟨hlow, rfl⟩ | ⟨hlow, hhigh, rfl⟩⟩
  · refine ⟨hfin, ?_⟩
    rw [hval, hn, Rat.cast_intCast, Real.rpow_intCast, Rat.cast_zpow, Rat.cast_ofNat, sub_self, abs_zero]
    positivity
  · obtain ⟨_, hX⟩ := ex2Fixed_parts h1 h2
    have hzero : codeValue fp32 0 = 0 := fp32_sound.codeValue_eq_zero.2 rfl
    obtain ⟨_, hfin, hlo, hhi, _⟩ := sfuChoose_between 3 a (lo := 0) (hi := 2) (e := -149) (finiteCode_of_zero rfl : finiteCode fp32 0)
      (by rw [hzero]; norm_num) (by rw [hzero]; positivity)
    generalize sfuChoose 3 a 0 2 (-149) = c at *
    have hlo' := (Rat.cast_le (K := ℝ)).2 hlo
    have hhi' := (Rat.cast_le (K := ℝ)).2 hhi
    push_cast at hlo' hhi'
    rw [zero_mul] at hlo'
    have hV0 : (0 : ℝ) < 2 ^ (X : ℝ) := Real.rpow_pos_of_pos two_pos _
    have hV : (2 : ℝ) ^ (X : ℝ) ≤ 2 * 2 ^ (-149 : Int) := by
      have hX' : (X : ℝ) ≤ ((-148 : Int) : ℝ) := by
        have hi : ((x / 2 ^ 72 : Int) : ℚ) + 1 ≤ ((-148 : Int) : ℚ) := by exact_mod_cast (by omega : x / 2 ^ 72 + 1 ≤ -148)
        exact_mod_cast (hX.trans_le hi).le
      refine (Real.rpow_le_rpow_of_exponent_le one_le_two hX').trans_eq ?_
      rw [Real.rpow_intCast]
      norm_num [zpow_neg]
    refine ⟨hfin, ?_⟩
    calc |(codeValue fp32 c : ℝ) - 2 ^ (X : ℝ)| ≤ 2 * 2 ^ (-149 : Int) := by rw [abs_le]; constructor <;> linarith
      _ ≤ _ := by
        push_cast
        refine mul_le_mul_of_nonneg_left (zpow_le_zpow_right₀ one_le_two ?_) two_pos.le
        omega
  · obtain ⟨y, hy, ⟨hbits, hsize⟩, hV1, hV2⟩ := exp2Frac_bounds h1 h2
    rw [← hy]
    generalize x / 2 ^ 72 = i at *
    have hulp := le_ulpExp hbits (i - 96)
    have hgap := le_two_pow_ulpExp (k := 72) hbits (i - 96) (by norm_num)
    have hmax : (y : ℚ) * 2 ^ (i - 96) ≤ fp32.val fp32.maxCode + (((2 : Nat) : ℚ) - 1 / 2) * 2 ^ 104 := by
      have hy : (y : ℚ) ≤ 2 ^ 97 := by exact_mod_cast hsize
      have hpow : (2 : ℚ) ^ (i - 96) ≤ 2 ^ (31 : Int) := zpow_le_zpow_right₀ one_le_two (by omega)
      calc (y : ℚ) * 2 ^ (i - 96) ≤ 2 ^ 97 * 2 ^ (31 : Int) := mul_le_mul hy hpow (two_zpow_pos _).le (by norm_num)
        _ ≤ _ := by rw [fp32_val_max]; norm_num
    have hnear := (sfuNear_withinUlps 3 a false (n := 2) (by omega) (by omega) (hgap.trans' (by omega)) (by norm_num) hmax hV1 hV2).2
    rwa [sgn_false, Rat.cast_one, one_mul] at hnear

end Sys2Proof.Machine

/-! SUPPORT. LG2 keeps its bound (R159). -/

namespace Sys2Proof.Machine
open Sys2Proof

/-! ## The bits of a logarithm -/

/-- The base-2 logarithm of a number over 2^127. -/
noncomputable def log2Part (y : Nat) : ℝ := Real.logb 2 (y / 2 ^ 127)

theorem logb_one_add_le : Real.logb 2 (1 + 1 / 2 ^ 127) ≤ 1 / 2 ^ 126 := by
  have hlog : Real.log (1 + 1 / 2 ^ 127) ≤ 1 / 2 ^ 127 := by
    have := Real.log_le_sub_one_of_pos (x := 1 + 1 / 2 ^ 127) (by positivity)
    linarith
  have htwo : (1 : ℝ) / 2 ≤ Real.log 2 := by linarith [Real.log_two_gt_d9]
  rw [Real.logb, div_le_iff₀ (by linarith)]
  refine hlog.trans ?_
  calc (1 : ℝ) / 2 ^ 127 = 1 / 2 ^ 126 * (1 / 2) := by norm_num
    _ ≤ _ := mul_le_mul_of_nonneg_left htwo (by positivity)

/-- What a floor takes from a logarithm. -/
theorem log2Part_floor {y : Nat} {A : ℝ} (hy : 2 ^ 127 ≤ y) (h1 : (y : ℝ) ≤ A * 2 ^ 127) (h2 : A * 2 ^ 127 < y + 1) :
    log2Part y ≤ Real.logb 2 A ∧ Real.logb 2 A ≤ log2Part y + 1 / 2 ^ 126 := by
  have hpow : (0 : ℝ) < 2 ^ 127 := by positivity
  have hyR : (2 : ℝ) ^ 127 ≤ y := by exact_mod_cast hy
  have hY : (1 : ℝ) ≤ y / 2 ^ 127 := (one_le_div hpow).2 hyR
  have hA : (y : ℝ) / 2 ^ 127 ≤ A := (div_le_iff₀ hpow).2 h1
  refine ⟨Real.logb_le_logb_of_le one_lt_two (by linarith) hA, ?_⟩
  have hup : A ≤ y / 2 ^ 127 * (1 + 1 / 2 ^ 127) := by
    have : A ≤ y / 2 ^ 127 + 1 / 2 ^ 127 := by
      rw [← add_div, le_div_iff₀ hpow]
      exact h2.le
    have hinv : (1 : ℝ) / 2 ^ 127 ≤ y / 2 ^ 127 * (1 / 2 ^ 127) := le_mul_of_one_le_left (by positivity) hY
    linarith
  calc Real.logb 2 A ≤ Real.logb 2 (y / 2 ^ 127 * (1 + 1 / 2 ^ 127)) := Real.logb_le_logb_of_le one_lt_two (by linarith) hup
    _ = log2Part y + Real.logb 2 (1 + 1 / 2 ^ 127) := Real.logb_mul (by positivity) (by positivity)
    _ ≤ _ := add_le_add_right logb_one_add_le _

/-- One squaring: the next bit of the logarithm, and the number whose logarithm has the others. -/
theorem log2_square_step {y z s : Nat} (hy : 2 ^ 127 ≤ y) (hz : z = y * y / 2 ^ (127 + s)) (hlow : 2 ^ 127 ≤ z) :
    log2Part z ≤ 2 * log2Part y - s ∧ 2 * log2Part y - s ≤ log2Part z + 1 / 2 ^ 126 := by
  have hyR : (0 : ℝ) < y := by exact_mod_cast (by positivity : 0 < 2 ^ 127).trans_le hy
  have hA : Real.logb 2 ((y / 2 ^ 127) ^ 2 / 2 ^ s) = 2 * log2Part y - s := by
    rw [Real.logb_div (by positivity) (by positivity), Real.logb_pow, Real.logb_pow, Real.logb_self_eq_one one_lt_two, mul_one]
    rfl
  have hx : ((y : ℝ) / 2 ^ 127) ^ 2 / 2 ^ s * 2 ^ 127 = y * y / 2 ^ (127 + s) := by
    rw [pow_add]
    field_simp
  rw [← hA]
  refine log2Part_floor hlow ?_ ?_
  · rw [hx, le_div_iff₀ (by positivity), hz]
    exact_mod_cast Nat.div_mul_le_self ..
  · rw [hx, div_lt_iff₀ (by positivity), hz]
    exact_mod_cast Nat.lt_mul_of_div_lt (Nat.lt_succ_self (y * y / 2 ^ (127 + s))) (Nat.two_pow_pos _)

theorem log2Part_nonneg {y : Nat} (hy : 2 ^ 127 ≤ y) : 0 ≤ log2Part y :=
  Real.logb_nonneg one_lt_two ((one_le_div (by positivity)).2 (by exact_mod_cast hy))

theorem log2Part_lt_one {y : Nat} (hy : 2 ^ 127 ≤ y) (hy' : y < 2 ^ 128) : log2Part y < 1 := by
  have hpos : (0 : ℝ) < y := by exact_mod_cast (by positivity : 0 < 2 ^ 127).trans_le hy
  have hlt : (y : ℝ) < 2 ^ 128 := by exact_mod_cast hy'
  rw [log2Part, Real.logb_lt_iff_lt_rpow one_lt_two (by positivity), Real.rpow_one, div_lt_iff₀ (by positivity)]
  linarith

/-- The bits found are the logarithm's, rounded down, but for the errors of the squarings. -/
theorem log2Bits_spec (f : Nat) : ∀ (y acc : Nat), 2 ^ 127 ≤ y → y < 2 ^ 128 → ∃ B : Nat, log2Bits f y acc = acc * 2 ^ f + B ∧ B < 2 ^ f ∧
    (B : ℝ) ≤ 2 ^ f * log2Part y ∧ 2 ^ f * log2Part y ≤ B + 1 + 2 ^ f / 2 ^ 126 := by
  induction f with
  | zero =>
    intro y acc hy hy'
    have := log2Part_lt_one hy hy'
    refine ⟨0, by simp [log2Bits], by norm_num, by simpa using log2Part_nonneg hy, ?_⟩
    norm_num
    linarith
  | succ f ih =>
    intro y acc hy hy'
    -- the square's own bit, and the number that remains
    obtain ⟨s, z, hs, hz, hlow, hhigh, hrec⟩ : ∃ s z : Nat, s ≤ 1 ∧ z = y * y / 2 ^ (127 + s) ∧ 2 ^ 127 ≤ z ∧ z < 2 ^ 128 ∧
        log2Bits (f + 1) y acc = log2Bits f z (2 * acc + s) := by
      have hsq : 2 ^ 127 * 2 ^ 127 ≤ y * y := Nat.mul_le_mul hy hy
      have hsq' : y * y < 2 ^ 128 * 2 ^ 128 := Nat.mul_lt_mul'' hy' hy'
      rw [log2Bits]
      by_cases hbit : 2 ^ 128 ≤ y * y / 2 ^ 127
      · refine ⟨1, y * y / 2 ^ 127 / 2, le_rfl, by rw [Nat.div_div_eq_div_mul, ← pow_succ], by omega, by omega, if_pos hbit⟩
      · exact ⟨0, y * y / 2 ^ 127, by norm_num, by rw [add_zero], by omega, by omega, if_neg hbit⟩
    obtain ⟨h1, h2⟩ := log2_square_step hy hz hlow
    obtain ⟨B, hB, hlt, hBle, hBge⟩ := ih z (2 * acc + s) hlow hhigh
    have hpow : (0 : ℝ) < 2 ^ f := by positivity
    have h1' := mul_le_mul_of_nonneg_left h1 hpow.le
    have h2' := mul_le_mul_of_nonneg_left h2 hpow.le
    refine ⟨s * 2 ^ f + B, by rw [hrec, hB]; ring, ?_, ?_, ?_⟩
    · rw [pow_succ]
      nlinarith
    · push_cast
      rw [pow_succ]
      linarith
    · push_cast
      rw [pow_succ]
      linarith

/-! ## LG2's fixed-point logarithm -/

theorem logb_two_zpow (n : Int) : Real.logb 2 ((2 : ℝ) ^ n) = n := by
  rw [← Real.rpow_intCast, Real.logb_rpow two_pos (by norm_num)]

theorem lg2Fixed_spec {m : Nat} (hm : m ≠ 0) (hm24 : m < 2 ^ 24) (e : Int) :
    (((m.log2 : Int) + e) * 2 ^ 80 ≤ lg2Fixed m e ∧ lg2Fixed m e < ((m.log2 : Int) + e + 1) * 2 ^ 80) ∧
      (lg2Fixed m e : ℝ) * 2 ^ (-80 : Int) ≤ Real.logb 2 ((m * 2 ^ e : ℚ) : ℝ) ∧
      Real.logb 2 ((m * 2 ^ e : ℚ) : ℝ) ≤ (lg2Fixed m e + 2 : Int) * 2 ^ (-80 : Int) := by
  have hlog : m.log2 < 24 := (Nat.log2_lt hm).2 hm24
  have hsplit : 2 ^ m.log2 * 2 ^ (127 - m.log2) = 2 ^ 127 := by rw [← pow_add, Nat.add_sub_cancel' (by omega)]
  have hlo : 2 ^ 127 ≤ m * 2 ^ (127 - m.log2) := hsplit ▸ Nat.mul_le_mul_right _ (Nat.log2_self_le hm)
  have hhi : m * 2 ^ (127 - m.log2) < 2 ^ 128 := by
    calc m * 2 ^ (127 - m.log2) < 2 ^ (m.log2 + 1) * 2 ^ (127 - m.log2) := Nat.mul_lt_mul_of_pos_right Nat.lt_log2_self (Nat.two_pow_pos _)
      _ = 2 ^ 128 := by rw [pow_succ, mul_right_comm, hsplit, ← pow_succ]
  have hV : Real.logb 2 ((m * 2 ^ e : ℚ) : ℝ) = ((m.log2 : Int) + e : Int) + log2Part (m * 2 ^ (127 - m.log2)) := by
    have hmR : (0 : ℝ) < m := by exact_mod_cast Nat.pos_of_ne_zero hm
    have hy : ((m * 2 ^ (127 - m.log2) : Nat) : ℝ) / 2 ^ 127 = m / 2 ^ (m.log2 : Int) := by
      have hsplitR : (2 : ℝ) ^ m.log2 * 2 ^ (127 - m.log2) = 2 ^ 127 := by exact_mod_cast hsplit
      rw [← hsplitR, zpow_natCast]
      push_cast
      field_simp
    rw [log2Part, hy, Real.logb_div hmR.ne' (by positivity), logb_two_zpow]
    push_cast
    rw [Real.logb_mul hmR.ne' (by positivity), logb_two_zpow]
    ring
  obtain ⟨B, hB, hlt, hBle, hBge⟩ := log2Bits_spec 80 _ 0 hlo hhi
  rw [hV]
  generalize log2Part (m * 2 ^ (127 - m.log2)) = L at *
  rw [zero_mul, zero_add] at hB
  rw [lg2Fixed, hB]
  generalize (m.log2 : Int) + e = l
  refine ⟨⟨by omega, by omega⟩, ?_, ?_⟩
  · rw [show (2 : ℝ) ^ (-80 : Int) = 1 / 2 ^ 80 by norm_num [zpow_neg], mul_one_div, div_le_iff₀ (by positivity)]
    push_cast
    linarith
  · rw [show (2 : ℝ) ^ (-80 : Int) = 1 / 2 ^ 80 by norm_num [zpow_neg], mul_one_div, le_div_iff₀ (by positivity)]
    push_cast
    norm_num at hBge ⊢
    linarith

end Sys2Proof.Machine

/-! SUPPORT. LG2's choices (R159). -/

namespace Sys2Proof.Machine
open Sys2Proof

/-- A power of two, by its value. -/
theorem eq_two_pow_log2_iff (m : Nat) (e : Int) : m = 2 ^ m.log2 ↔ (m : ℚ) * 2 ^ e = 2 ^ ((m.log2 : Int) + e) := by
  rw [zpow_add₀ two_ne_zero, zpow_natCast, mul_left_inj' (two_zpow_pos e).ne']
  exact_mod_cast Iff.rfl

/-- The model's test of a value in [1/2, 2]. -/
theorem lg2_inside_iff {m : Nat} (hm : m ≠ 0) (e : Int) :
    ((m.log2 : Int) + e = 0 || (m.log2 : Int) + e = -1 || ((m.log2 : Int) + e = 1 && m = 2 ^ m.log2)) = true ↔
      1 / 2 ≤ (m : ℚ) * 2 ^ e ∧ (m : ℚ) * 2 ^ e ≤ 2 := by
  obtain ⟨hlo, hhi⟩ := log2_zpow_bounds hm e
  simp only [Bool.or_eq_true, Bool.and_eq_true, decide_eq_true_eq, eq_two_pow_log2_iff m e]
  generalize (m.log2 : Int) + e = l at *
  generalize (m : ℚ) * 2 ^ e = X at *
  constructor
  · rintro ((rfl | rfl) | ⟨rfl, rfl⟩)
    · norm_num at hlo hhi
      constructor <;> linarith
    · norm_num [zpow_neg] at hlo hhi
      constructor <;> linarith
    · norm_num
  · rintro ⟨h1, h2⟩
    have hle : l ≤ 1 := (zpow_le_zpow_iff_right₀ (one_lt_two (α := ℚ))).1 (by rw [zpow_one]; exact hlo.trans h2)
    have hge : -1 < l + 1 := (zpow_lt_zpow_iff_right₀ (one_lt_two (α := ℚ))).1 (lt_of_le_of_lt (by norm_num [zpow_neg] at h1 ⊢; linarith) hhi)
    rcases (by omega : l = -1 ∨ l = 0 ∨ l = 1) with rfl | rfl | rfl
    · simp
    · simp
    · rw [zpow_one] at hlo ⊢
      exact .inr ⟨rfl, le_antisymm h2 hlo⟩

/-- Outside [1/2, 2] the logarithm's integral part is at least 1 or less than −1. -/
theorem lg2_outside {m : Nat} (hm : m ≠ 0) {e : Int} (h : (m : ℚ) * 2 ^ e < 1 / 2 ∨ 2 < (m : ℚ) * 2 ^ e) :
    1 ≤ (m.log2 : Int) + e ∨ (m.log2 : Int) + e ≤ -2 := by
  have hnot := mt (lg2_inside_iff hm e).1 fun h' => h.elim (fun h => h.not_ge h'.1) (fun h => h.not_ge h'.2)
  simp only [Bool.or_eq_true, decide_eq_true_eq, not_or] at hnot
  omega

theorem logb_of_two_pow {m : Nat} (hm : m = 2 ^ m.log2) (hm24 : m < 2 ^ 24) (e : Int) :
    Real.logb 2 ((m * 2 ^ e : ℚ) : ℝ) = lg2Fixed m e * 2 ^ (-80 : Int) := by
  have hval : ((m * 2 ^ e : ℚ) : ℝ) = 2 ^ ((m.log2 : Int) + e) := by
    nth_rw 1 [hm]
    rw [zpow_add₀ two_ne_zero, zpow_natCast]
    push_cast
    rfl
  rw [hval, logb_two_zpow, lg2Fixed_of_two_pow hm hm24]
  push_cast
  rw [mul_assoc]
  norm_num [zpow_neg]

/-- R159: within [1/2, 2] LG2's choice lies within 2^−22. -/
theorem lg2Within_error_le (a : Word) {v : Int} {V : ℝ} (h1 : (v : ℝ) * 2 ^ (-80 : Int) ≤ V) (h2 : V ≤ (v + 2 : Int) * 2 ^ (-80 : Int))
    (hv : -2 ^ 80 - 2 ≤ v ∧ v ≤ 2 ^ 80) : finiteCode fp32 (sfuWithin 4 a v (v + 2) (2 ^ 58) (-80)) ∧
      |(codeValue fp32 (sfuWithin 4 a v (v + 2) (2 ^ 58) (-80)) : ℝ) - V| ≤ 1 / 2 ^ 22 := by
  have hunit : (2 : ℚ) ^ (-80 : Int) = 1 / 2 ^ 80 := by norm_num [zpow_neg]
  have habs : |(v : ℚ) * 2 ^ (-80 : Int)| ≤ 2 := by
    have h3 : (-2 ^ 80 - 2 : ℚ) ≤ v := by exact_mod_cast hv.1
    have h4 : (v : ℚ) ≤ 2 ^ 80 := by exact_mod_cast hv.2
    rw [hunit, mul_one_div, abs_le]
    constructor
    · rw [le_div_iff₀ (by positivity)]
      linarith
    · rw [div_le_iff₀ (by positivity)]
      linarith
  obtain ⟨_, hfin, herr⟩ := sfuWithin_error_le 4 a (d := 2 ^ 58) habs (by rw [hunit]; push_cast; norm_num) (by rw [hunit]; norm_num) h1 h2
  refine ⟨hfin, herr.trans_eq ?_⟩
  norm_num [zpow_neg]

/-- R159: outside it, LG2's choice about a magnitude lies within 2 ulp. -/
theorem lg2Near_withinUlps (a : Word) (neg : Bool) {lo hi : Nat} {V : ℝ} (h1 : (lo : ℝ) * 2 ^ (-80 : Int) ≤ V) (h2 : V ≤ hi * 2 ^ (-80 : Int))
    (hbits : 2 ^ 79 ≤ lo) (hsize : lo ≤ 2 ^ 100) (hgap : hi ≤ lo + 2) :
    withinUlps 2 ((sgn neg : ℚ) * V) (sfuNear 4 a neg lo hi (-80) 2) := by
  have hulp := le_ulpExp hbits (-80)
  have hgap' := le_two_pow_ulpExp (k := 2) hbits (-80) (by norm_num)
  refine (sfuNear_withinUlps 4 a neg (by omega) (by omega) (hgap'.trans' (by omega)) (by norm_num) ?_ h1 h2).2
  have hlo : (lo : ℚ) ≤ 2 ^ 100 := by exact_mod_cast hsize
  have hunit : (2 : ℚ) ^ (-80 : Int) ≤ 1 := zpow_le_one_of_nonpos₀ one_le_two (by norm_num)
  calc (lo : ℚ) * 2 ^ (-80 : Int) ≤ 2 ^ 100 * 1 := mul_le_mul hlo hunit (two_zpow_pos _).le (by norm_num)
    _ ≤ _ := by rw [fp32_val_max]; norm_num

/-- R159: LG2's bounds for a positive value. -/
theorem lg2Code_bounds (a : Word) {m : Nat} (hm : m ≠ 0) (hm24 : m < 2 ^ 24) {e : Int} (he : -149 ≤ e) (he' : e ≤ 104) :
    finiteCode fp32 (lg2Code a m e (lg2Fixed m e)) ∧
      ((m : ℚ) * 2 ^ e < 1 / 2 ∨ 2 < (m : ℚ) * 2 ^ e → withinUlps 2 (Real.logb 2 ((m * 2 ^ e : ℚ) : ℝ)) (lg2Code a m e (lg2Fixed m e))) ∧
      (1 / 2 ≤ (m : ℚ) * 2 ^ e → (m : ℚ) * 2 ^ e ≤ 2 →
        |(codeValue fp32 (lg2Code a m e (lg2Fixed m e)) : ℝ) - Real.logb 2 ((m * 2 ^ e : ℚ) : ℝ)| ≤ 1 / 2 ^ 22) := by
  have hlog : m.log2 < 24 := (Nat.log2_lt hm).2 hm24
  have hinside := lg2_inside_iff hm e
  obtain ⟨hpart, h1, h2⟩ := lg2Fixed_spec hm hm24 e
  have hexact := fun h => lg2Fixed_of_two_pow (m := m) h hm24 e
  have hexactV := fun h => logb_of_two_pow (m := m) h hm24 e
  have hout := lg2_outside (e := e) hm
  generalize Real.logb 2 ((m * 2 ^ e : ℚ) : ℝ) = V at *
  generalize (m : ℚ) * 2 ^ e = X at *
  generalize lg2Fixed m e = v at *
  by_cases hin : 1 / 2 ≤ X ∧ X ≤ 2
  · have hno : ¬ (X < 1 / 2 ∨ 2 < X) := fun h => h.elim (fun h => h.not_ge hin.1) (fun h => h.not_ge hin.2)
    have hcond := hinside.2 hin
    suffices h : finiteCode fp32 (lg2Code a m e v) ∧ |(codeValue fp32 (lg2Code a m e v) : ℝ) - V| ≤ 1 / 2 ^ 22 from
      ⟨h.1, fun h' => absurd h' hno, fun _ _ => h.2⟩
    rw [lg2Code]
    split_ifs with hv
    · subst hv
      refine ⟨finiteCode_of_zero rfl, ?_⟩
      rw [fp32_sound.codeValue_eq_zero.2 rfl]
      norm_num [zpow_neg] at h1 h2
      rw [Rat.cast_zero, zero_sub, abs_neg, abs_of_nonneg h1]
      refine h2.trans ?_
      norm_num
    · refine lg2Within_error_le a h1 h2 ?_
      simp only [Bool.or_eq_true, Bool.and_eq_true, decide_eq_true_eq] at hcond
      rcases hcond with (hl | hl) | ⟨hl, hpow⟩
      · omega
      · omega
      · have := hexact hpow
        omega
  · have hcond := mt hinside.1 hin
    have houtside : X < 1 / 2 ∨ 2 < X := by
      by_contra h
      obtain ⟨h3, h4⟩ := not_or.1 h
      exact hin ⟨not_lt.1 h3, not_lt.1 h4⟩
    suffices h : withinUlps 2 V (lg2Code a m e v) from ⟨h.1, fun _ => h, fun h3 h4 => absurd ⟨h3, h4⟩ hin⟩
    have hl := hout houtside
    rw [lg2Code, if_neg (by omega), if_neg hcond]
    split_ifs with hpow hneg
    · have hnear := lg2Near_withinUlps a (decide (v < 0)) (lo := v.natAbs) le_rfl le_rfl (by omega) (by omega) (by omega)
      have hval : ((sgn (decide (v < 0)) : ℚ) : ℝ) * (v.natAbs * 2 ^ (-80 : Int)) = V := by
        rw [hexactV hpow]
        have hQ := congrArg (Rat.cast (K := ℝ)) (sgn_mul_natAbs_zpow v (-80))
        simpa only [Rat.cast_mul, Rat.cast_natCast, Rat.cast_intCast, Rat.cast_zpow, Rat.cast_ofNat] using hQ
      rwa [hval] at hnear
    · obtain ⟨n, rfl⟩ : ∃ n : Nat, v = -n := ⟨v.natAbs, by omega⟩
      rw [Int.natAbs_neg, Int.natAbs_natCast]
      have hcast : ((n - 2 : Nat) : ℝ) = n - 2 := by rw [Nat.cast_sub (by omega), Nat.cast_two]
      push_cast at h1 h2
      have hnear := lg2Near_withinUlps a true (lo := n - 2) (hi := n) (V := -V) (by rw [hcast]; linarith) (by linarith) (by omega) (by omega) (by omega)
      rwa [sgn_true, Rat.cast_neg, Rat.cast_one, neg_one_mul, neg_neg] at hnear
    · obtain ⟨n, rfl⟩ := Int.eq_ofNat_of_zero_le (not_lt.1 hneg)
      rw [Int.natAbs_natCast]
      push_cast at h1 h2
      have hnear := lg2Near_withinUlps a false (lo := n) (hi := n + 2) h1 (by push_cast; exact h2) (by omega) (by omega) le_rfl
      rwa [sgn_false, Rat.cast_one, one_mul] at hnear

end Sys2Proof.Machine

/-! SUPPORT. The Taylor sum of SIN and COS (R159). -/

namespace Sys2Proof.Machine
open Sys2Proof

/-! ## The exact sum -/

/-- The Taylor sum over the reals: the term, and its index. -/
noncomputable def trigSeries (x2 : ℝ) : Nat → ℝ → Nat → ℝ
  | 0, _, _ => 0
  | f + 1, T, n => T + trigSeries x2 f (-T * x2 / ((n + 1) * (n + 2))) (n + 2)

/-- Each term of the sum follows from the one before. -/
theorem taylor_next (x s : ℝ) (n : Nat) : -(s * x ^ n / n.factorial) * x ^ 2 / (((n : ℝ) + 1) * (n + 2)) = -s * x ^ (n + 2) / (n + 2).factorial := by
  have hfac : (n.factorial : ℝ) ≠ 0 := by exact_mod_cast n.factorial_ne_zero
  rw [show n + 2 = n + 1 + 1 from rfl, Nat.factorial_succ, Nat.factorial_succ]
  push_cast
  field_simp
  ring

theorem trigSeries_eq (x : ℝ) (f : Nat) : ∀ (s : ℝ) (n : Nat), trigSeries (x ^ 2) f (s * x ^ n / n.factorial) n =
    ∑ i ∈ Finset.range f, (-1) ^ i * s * x ^ (2 * i + n) / (2 * i + n).factorial := by
  induction f with
  | zero => exact fun s n => rfl
  | succ f ih =>
    intro s n
    rw [trigSeries, taylor_next, ih, Finset.sum_range_succ', add_comm]
    congr 1
    · refine Finset.sum_congr rfl fun i _ => ?_
      rw [show 2 * (i + 1) + n = 2 * i + (n + 2) by ring, pow_succ]
      ring
    · simp

/-- A power series' terms beyond the fortieth, for squares up to 10. -/
theorem ten_pow_div_factorial_le (i : Nat) : (10 : ℝ) ^ (i + 40) / (2 * (i + 40)).factorial ≤ 1 / 2 ^ 60 * (1 / 2) ^ i := by
  have hfac : 2 ^ 60 * 10 ^ 40 ≤ Nat.factorial 80 := by norm_num [Nat.factorial]
  have hgrow : Nat.factorial 80 * 81 ^ (2 * i) ≤ (2 * (i + 40)).factorial := by
    rw [show 2 * (i + 40) = 80 + 2 * i by ring]
    exact Nat.factorial_mul_pow_le_factorial
  have hpow : 20 ^ i ≤ 81 ^ (2 * i) := by
    rw [pow_mul]
    exact Nat.pow_le_pow_left (by norm_num) i
  have hall : 10 ^ (i + 40) * 2 ^ 60 * 2 ^ i ≤ (2 * (i + 40)).factorial := by
    calc 10 ^ (i + 40) * 2 ^ 60 * 2 ^ i = 2 ^ 60 * 10 ^ 40 * 20 ^ i := by rw [show 20 = 10 * 2 by norm_num, mul_pow]; ring
      _ ≤ Nat.factorial 80 * 81 ^ (2 * i) := Nat.mul_le_mul hfac hpow
      _ ≤ _ := hgrow
  have hallR : (10 : ℝ) ^ (i + 40) * 2 ^ 60 * 2 ^ i ≤ (2 * (i + 40)).factorial := by exact_mod_cast hall
  rw [div_le_iff₀ (by positivity), one_div_pow, div_mul_div_comm, one_mul, one_div_mul_eq_div, le_div_iff₀ (by positivity), ← mul_assoc]
  exact hallR

/-- A series whose terms from the fortieth on are small is near its first forty. -/
theorem sum_range_forty_near {a : Nat → ℝ} {s C : ℝ} (hs : HasSum a s) (ha : ∀ i, |a (i + 40)| ≤ C * (1 / 2) ^ i) :
    |s - ∑ i ∈ Finset.range 40, a i| ≤ C * 2 :=
  ((hasSum_nat_add_iff' 40).2 hs).norm_le_of_bounded (hasSum_geometric_two.mul_left C) ha

theorem pow_two_mul_le {x : ℝ} (hx : x ^ 2 ≤ 10) (k : Nat) : |x| ^ (2 * k) ≤ 10 ^ k := by
  rw [pow_mul, sq_abs]
  exact pow_le_pow_left₀ (sq_nonneg x) hx k

theorem cos_near_series {x : ℝ} (hx : x ^ 2 ≤ 10) : |Real.cos x - trigSeries (x ^ 2) 40 1 0| ≤ 1 / 2 ^ 59 := by
  have hseries := trigSeries_eq x 40 1 0
  simp only [pow_zero, Nat.factorial_zero, Nat.cast_one, mul_one, div_one, add_zero] at hseries
  rw [hseries]
  refine (sum_range_forty_near (Real.hasSum_cos x) (C := 1 / 2 ^ 60) fun i => ?_).trans (by norm_num)
  refine le_trans ?_ (ten_pow_div_factorial_le i)
  rw [abs_div, abs_mul, abs_pow, abs_pow, abs_neg, abs_one, one_pow, one_mul, Nat.abs_cast]
  exact div_le_div_of_nonneg_right (pow_two_mul_le hx _) (Nat.cast_nonneg _)

theorem sin_near_series {x : ℝ} (hx : x ^ 2 ≤ 10) : |Real.sin x - trigSeries (x ^ 2) 40 x 1| ≤ 1 / 2 ^ 57 := by
  have hseries := trigSeries_eq x 40 1 1
  simp only [Nat.factorial_one, Nat.cast_one, div_one, one_mul, mul_one, pow_one] at hseries
  have habs : |x| ≤ 4 := abs_le_of_sq_le_sq (by linarith) (by norm_num)
  rw [hseries]
  refine (sum_range_forty_near (Real.hasSum_sin x) (C := 4 * (1 / 2 ^ 60)) fun i => ?_).trans (by norm_num)
  rw [mul_assoc]
  refine le_trans ?_ (mul_le_mul_of_nonneg_left (ten_pow_div_factorial_le i) (by norm_num))
  rw [abs_div, abs_mul, abs_pow, abs_pow, abs_neg, abs_one, one_pow, one_mul, Nat.abs_cast, ← mul_div_assoc]
  have hfac : ((2 * (i + 40)).factorial : ℝ) ≤ (2 * (i + 40) + 1).factorial := by exact_mod_cast Nat.factorial_le (Nat.le_succ _)
  refine div_le_div₀ (by positivity) ?_ (by positivity) hfac
  rw [pow_succ, mul_comm]
  exact mul_le_mul habs (pow_two_mul_le hx _) (by positivity) (by norm_num)

end Sys2Proof.Machine

/-! SUPPORT. SIN and COS in fixed point over 2^100 (R159). -/

namespace Sys2Proof.Machine
open Sys2Proof

/-! ## The fixed-point sum -/

theorem ediv_near (p d : Int) (hd : 0 < d) : |((p / d : Int) : ℝ) - p / d| ≤ 1 := by
  have hdR : (0 : ℝ) < d := by exact_mod_cast hd
  have h1 : ((p / d : Int) : ℝ) ≤ p / d := by
    rw [le_div_iff₀ hdR]
    exact_mod_cast Int.ediv_mul_le p hd.ne'
  have h2 : (p : ℝ) / d < (p / d : Int) + 1 := by
    rw [div_lt_iff₀ hdR]
    exact_mod_cast Int.lt_ediv_add_one_mul_self p hd
  rw [abs_le]
  constructor <;> linarith

/-- A square over 2^100, rounded down. -/
structure SquareOver (r2 : Int) (x2 : ℝ) : Prop where
  near : |(r2 : ℝ) / 2 ^ 100 - x2| ≤ 1 / 2 ^ 100
  nonneg : 0 ≤ x2
  le_ten : x2 ≤ 10
  abs_le_ten : |(r2 : ℝ) / 2 ^ 100| ≤ 10

/-- One term's error follows from that of the one before. -/
theorem trigStep_error {τ r2 : Int} {T x2 E : ℝ} (n : Nat) (hr : SquareOver r2 x2) (hτ : |(τ : ℝ) - 2 ^ 100 * T| ≤ E) (hT : |T| ≤ 16) :
    |((-(τ * r2 / 2 ^ 100) / ((n + 1) * (n + 2)) : Int) : ℝ) - 2 ^ 100 * (-T * x2 / (((n : ℝ) + 1) * (n + 2)))| ≤
      1 + (17 + 10 * E) / (((n : ℝ) + 1) * (n + 2)) := by
  have hdZ : (0 : Int) < (n + 1) * (n + 2) := by positivity
  have hd : (0 : ℝ) < ((n : ℝ) + 1) * (n + 2) := by positivity
  have hquot := ediv_near (-(τ * r2 / 2 ^ 100)) _ hdZ
  have hprod := ediv_near (τ * r2) (2 ^ 100) (by norm_num)
  generalize hp : τ * r2 / 2 ^ 100 = p at *
  generalize hq : -p / ((n + 1) * (n + 2) : Int) = q at *
  push_cast at hquot hprod
  -- the product's error
  have hsplit : (p : ℝ) - 2 ^ 100 * (T * x2) = (p - τ * r2 / 2 ^ 100) + ((τ - 2 ^ 100 * T) * (r2 / 2 ^ 100) + 2 ^ 100 * T * (r2 / 2 ^ 100 - x2)) := by ring
  have hp' : |(p : ℝ) - 2 ^ 100 * (T * x2)| ≤ 17 + 10 * E := by
    have h1 : |((τ : ℝ) - 2 ^ 100 * T) * (r2 / 2 ^ 100)| ≤ E * 10 := by
      rw [abs_mul]
      exact mul_le_mul hτ hr.abs_le_ten (abs_nonneg _) ((abs_nonneg _).trans hτ)
    have h2 : |2 ^ 100 * T * ((r2 : ℝ) / 2 ^ 100 - x2)| ≤ 16 := by
      rw [abs_mul, abs_mul, abs_of_pos (by positivity : (0 : ℝ) < 2 ^ 100)]
      calc 2 ^ 100 * |T| * |(r2 : ℝ) / 2 ^ 100 - x2| ≤ 2 ^ 100 * 16 * (1 / 2 ^ 100) :=
            mul_le_mul (mul_le_mul_of_nonneg_left hT (by positivity)) hr.near (abs_nonneg _) (by positivity)
        _ = 16 := by norm_num
    rw [hsplit]
    refine (abs_add_le _ _).trans ?_
    have := abs_add_le (((τ : ℝ) - 2 ^ 100 * T) * (r2 / 2 ^ 100)) (2 ^ 100 * T * ((r2 : ℝ) / 2 ^ 100 - x2))
    linarith
  have hsum : (q : ℝ) - 2 ^ 100 * (-T * x2 / (((n : ℝ) + 1) * (n + 2))) =
      (q - -p / (((n : ℝ) + 1) * (n + 2))) + -((p - 2 ^ 100 * (T * x2)) / (((n : ℝ) + 1) * (n + 2))) := by
    field_simp
    ring
  rw [hsum]
  refine (abs_add_le _ _).trans (add_le_add hquot ?_)
  rw [abs_neg, abs_div, abs_of_pos hd]
  exact div_le_div_of_nonneg_right hp' hd.le

/-- From the second term on, every term and its error stay small, so the sum's error grows by one term's. -/
theorem trigSum_error {r2 : Int} {x2 : ℝ} (hr : SquareOver r2 x2) (f : Nat) : ∀ (τ acc : Int) (T : ℝ) (n : Nat),
    2 ≤ n → |(τ : ℝ) - 2 ^ 100 * T| ≤ 16 → |T| ≤ 16 → |(trigSum r2 f τ n acc : ℝ) - (acc + 2 ^ 100 * trigSeries x2 f T n)| ≤ (16 : ℝ) * f := by
  induction f with
  | zero =>
    intro τ acc T n _ _ _
    simp [trigSum, trigSeries]
  | succ f ih =>
    intro τ acc T n hn hτ hT
    have hnR : (2 : ℝ) ≤ n := by exact_mod_cast hn
    have hd : (12 : ℝ) ≤ ((n : ℝ) + 1) * (n + 2) := by nlinarith
    have hstep := (trigStep_error n hr hτ hT).trans (by
      have : (17 + 10 * (16 : ℝ)) / (((n : ℝ) + 1) * (n + 2)) ≤ 177 / 12 := by
        rw [show (17 + 10 * (16 : ℝ)) = 177 by norm_num]
        exact div_le_div_of_nonneg_left (by norm_num) (by norm_num) hd
      linarith : _ ≤ (16 : ℝ))
    have hT' : |-T * x2 / (((n : ℝ) + 1) * (n + 2))| ≤ 16 := by
      rw [abs_div, abs_mul, abs_neg, abs_of_nonneg hr.nonneg, abs_of_pos (by linarith : (0 : ℝ) < ((n : ℝ) + 1) * (n + 2)), div_le_iff₀ (by linarith)]
      have := mul_le_mul hT hr.le_ten hr.nonneg (by norm_num)
      linarith
    have h := ih _ (acc + τ) _ (n + 2) (by omega) hstep hT'
    rw [trigSum, trigSeries]
    push_cast at h ⊢
    have hsplit : ∀ S Q : ℝ, S - (acc + 2 ^ 100 * (T + Q)) = (S - (acc + τ + 2 ^ 100 * Q)) + (τ - 2 ^ 100 * T) := fun S Q => by ring
    rw [hsplit, show (16 : ℝ) * (f + 1) = 16 * f + 16 by ring]
    exact (abs_add_le _ _).trans (add_le_add h hτ)

/-- The whole sum's error, from an exact first term. -/
theorem trigSum_near {r2 : Int} {x2 : ℝ} (f : Nat) (hr : SquareOver r2 x2) {τ : Int} {T : ℝ} {n : Nat} (hτ : (τ : ℝ) = 2 ^ 100 * T)
    (hT : |T| * 10 ≤ 16 * (((n : ℝ) + 1) * (n + 2))) (hT' : |T| ≤ 16) :
    |(trigSum r2 (f + 1) τ n 0 : ℝ) - 2 ^ 100 * trigSeries x2 (f + 1) T n| ≤ (16 : ℝ) * f := by
  have hd : (2 : ℝ) ≤ ((n : ℝ) + 1) * (n + 2) := by
    have : (0 : ℝ) ≤ n := Nat.cast_nonneg n
    nlinarith
  have hstep := (trigStep_error (E := 0) n hr (by rw [hτ, sub_self, abs_zero]) hT').trans (by
    have : (17 + 10 * (0 : ℝ)) / (((n : ℝ) + 1) * (n + 2)) ≤ 17 / 2 := by
      rw [show (17 + 10 * (0 : ℝ)) = 17 by norm_num]
      exact div_le_div_of_nonneg_left (by norm_num) (by norm_num) hd
    linarith : _ ≤ (16 : ℝ))
  have hnext : |-T * x2 / (((n : ℝ) + 1) * (n + 2))| ≤ 16 := by
    rw [abs_div, abs_mul, abs_neg, abs_of_nonneg hr.nonneg, abs_of_pos (by linarith : (0 : ℝ) < ((n : ℝ) + 1) * (n + 2)), div_le_iff₀ (by linarith)]
    have := mul_le_mul_of_nonneg_left hr.le_ten (abs_nonneg T)
    linarith
  have h := trigSum_error hr f _ (0 + τ) _ (n + 2) (by omega) hstep hnext
  rw [trigSum, trigSeries]
  push_cast at h ⊢
  rw [zero_add, hτ] at h
  have hsplit : ∀ Q : ℝ, 2 ^ 100 * (T + Q) = 0 + 2 ^ 100 * T + 2 ^ 100 * Q := fun Q => by ring
  rw [zero_add, hsplit]
  exact h

end Sys2Proof.Machine

/-! SUPPORT. SIN and COS keep their bounds (R159). -/

namespace Sys2Proof.Machine
open Sys2Proof

/-! ## Reduction by the circle -/

theorem piOver_near : |(piOver : ℝ) / 2 ^ 100 - Real.pi| ≤ 1 / 10 ^ 20 := by
  have h1 := Real.pi_gt_d20
  have h2 := Real.pi_lt_d20
  rw [piOver, abs_le]
  constructor <;> norm_num at h1 h2 ⊢ <;> linarith

/-- A number over 2^100 is its remainder about zero and a whole number of the model's circles. -/
theorem circle_reduce {v : Int} (hv : |v| ≤ 2 ^ 115 + 1) : ∃ k r : Int, r = (v + piOver) % (2 * piOver) - piOver ∧ v = r + k * (2 * piOver) ∧
    |r| ≤ piOver ∧ |k| ≤ 2 ^ 13 := by
  rw [abs_le] at hv
  refine ⟨(v + piOver) / (2 * piOver), _, rfl, ?_⟩
  simp only [abs_le]
  unfold piOver
  omega

theorem circle_near {v k r : Int} {X : ℝ} (hX : |(v : ℝ) / 2 ^ 100 - X| ≤ 1 / 2 ^ 100) (hr : v = r + k * (2 * piOver)) (hk : |k| ≤ 2 ^ 13) :
    |X - k * (2 * Real.pi) - r / 2 ^ 100| ≤ 1 / 2 ^ 52 := by
  have hkR : |(k : ℝ)| ≤ 2 ^ 13 := by exact_mod_cast hk
  have hsplit : X - k * (2 * Real.pi) - r / 2 ^ 100 = -((v : ℝ) / 2 ^ 100 - X) + 2 * k * ((piOver : ℝ) / 2 ^ 100 - Real.pi) := by
    rw [hr]
    push_cast
    ring
  rw [hsplit]
  refine (abs_add_le _ _).trans ?_
  rw [abs_neg, abs_mul, abs_mul, abs_two]
  have := mul_le_mul (mul_le_mul_of_nonneg_left hkR two_pos.le) piOver_near (abs_nonneg _) (by positivity)
  refine (add_le_add hX this).trans ?_
  norm_num

theorem square_over {r : Int} (hr : |r| ≤ piOver) : SquareOver (r * r / 2 ^ 100) ((r / 2 ^ 100 : ℝ) ^ 2) := by
  have hten : ((r : ℝ) / 2 ^ 100) ^ 2 ≤ 10 := by
    have hrR : |(r : ℝ)| ≤ piOver := by exact_mod_cast hr
    have hsq := pow_le_pow_left₀ (abs_nonneg _) hrR 2
    rw [sq_abs] at hsq
    rw [div_pow, div_le_iff₀ (by positivity)]
    refine hsq.trans ?_
    rw [piOver]
    norm_num
  have hnear : |((r * r / 2 ^ 100 : Int) : ℝ) / 2 ^ 100 - ((r : ℝ) / 2 ^ 100) ^ 2| ≤ 1 / 2 ^ 100 := by
    have h := ediv_near (r * r) (2 ^ 100) (by norm_num)
    generalize r * r / 2 ^ 100 = r2 at *
    have hsplit : (r2 : ℝ) / 2 ^ 100 - ((r : ℝ) / 2 ^ 100) ^ 2 = (r2 - ((r * r : Int) : ℝ) / ((2 ^ 100 : Int) : ℝ)) / 2 ^ 100 := by
      push_cast
      ring
    rw [hsplit, abs_div, abs_of_pos (by positivity : (0 : ℝ) < 2 ^ 100)]
    exact div_le_div_of_nonneg_right h (by positivity)
  have hnonneg : (0 : ℝ) ≤ (r * r / 2 ^ 100 : Int) := by exact_mod_cast Int.ediv_nonneg (mul_self_nonneg r) (by norm_num)
  have hle : ((r * r / 2 ^ 100 : Int) : ℝ) / 2 ^ 100 ≤ ((r : ℝ) / 2 ^ 100) ^ 2 := by
    rw [div_pow, div_le_div_iff₀ (by positivity) (by positivity)]
    have hfloor : r * r / 2 ^ 100 * 2 ^ 100 ≤ r * r := Int.ediv_mul_le _ (by norm_num)
    generalize r * r / 2 ^ 100 = r2 at *
    have hfloorR : (r2 : ℝ) * 2 ^ 100 ≤ r * r := by exact_mod_cast hfloor
    nlinarith
  exact ⟨hnear, sq_nonneg _, hten, by rw [abs_of_nonneg (by positivity)]; exact hle.trans hten⟩

/-- The three errors of a sum: its arithmetic's, its series', and its argument's. -/
theorem sum_of_errors {A S C C' : ℝ} (h1 : |A - 2 ^ 100 * S| ≤ (16 : ℝ) * (39 : Nat)) (h2 : |C - S| ≤ 1 / 2 ^ 57) (h3 : |C' - C| ≤ 1 / 2 ^ 52) :
    |A - 2 ^ 100 * C'| ≤ 2 ^ 50 := by
  obtain ⟨h4, h5⟩ := abs_le.1 h1
  obtain ⟨h6, h7⟩ := abs_le.1 h2
  obtain ⟨h8, h9⟩ := abs_le.1 h3
  push_cast at h4 h5
  rw [abs_le]
  constructor <;> linarith

/-- R159: the model's sums lie within 2^−50 of the cosine and the sine. -/
theorem trigOf_near {v : Int} {X : ℝ} (hX : |X| ≤ 2 ^ 15) (hv : |(v : ℝ) / 2 ^ 100 - X| ≤ 1 / 2 ^ 100) :
    |(trigOf true v : ℝ) - 2 ^ 100 * Real.cos X| ≤ 2 ^ 50 ∧ |(trigOf false v : ℝ) - 2 ^ 100 * Real.sin X| ≤ 2 ^ 50 := by
  have hvZ : |v| ≤ 2 ^ 115 + 1 := by
    have hvR : |(v : ℝ) / 2 ^ 100| ≤ 2 ^ 15 + 1 / 2 ^ 100 := by
      have := abs_add_le ((v : ℝ) / 2 ^ 100 - X) X
      rw [sub_add_cancel] at this
      linarith
    rw [abs_div, abs_of_pos (by positivity : (0 : ℝ) < 2 ^ 100), div_le_iff₀ (by positivity)] at hvR
    have : (|v| : ℝ) ≤ ((2 ^ 115 + 1 : Int) : ℝ) := hvR.trans (by norm_num)
    exact_mod_cast this
  obtain ⟨k, r, hr, hvr, hrange, hk⟩ := circle_reduce hvZ
  have hsquare := square_over hrange
  have hcircle := circle_near hv hvr hk
  have hrho : |(r : ℝ) / 2 ^ 100| ≤ 4 := abs_le_of_sq_le_sq (by have := hsquare.le_ten; linarith) (by norm_num)
  unfold trigOf
  simp only [← hr, if_true, Bool.false_eq_true, if_false]
  constructor
  · have hsum := trigSum_near (τ := 2 ^ 100) (T := 1) (n := 0) 39 hsquare (by norm_num) (by norm_num) (by norm_num)
    have hseries := cos_near_series hsquare.le_ten
    have hcos := Real.abs_cos_sub_cos_le (X - k * (2 * Real.pi)) (r / 2 ^ 100)
    rw [Real.cos_sub_int_mul_two_pi] at hcos
    exact sum_of_errors hsum (hseries.trans (by norm_num)) (hcos.trans hcircle)
  · have hsum := trigSum_near (τ := r) (T := (r : ℝ) / 2 ^ 100) (n := 1) 39 hsquare (by field_simp) (by norm_num; linarith) (by linarith)
    have hseries := sin_near_series hsquare.le_ten
    have hsin := Real.abs_sin_sub_sin_le (X - k * (2 * Real.pi)) (r / 2 ^ 100)
    rw [Real.sin_sub_int_mul_two_pi] at hsin
    exact sum_of_errors hsum hseries (hsin.trans hcircle)

/-! ## The choices of SIN and COS -/

theorem trigFixed_near (neg : Bool) (m : Nat) (e : Int) :
    |(trigFixed neg m e : ℝ) / 2 ^ 100 - ((sgn neg * (m * 2 ^ e) : ℚ) : ℝ)| ≤ 1 / 2 ^ 100 := by
  have hpow : (0 : ℝ) < 2 ^ 100 := by positivity
  -- the magnitude over 2^100, rounded down
  obtain ⟨n, hn, hle, hlt⟩ : ∃ n : Nat, trigFixed neg m e = signedInt neg n ∧ (n : ℝ) ≤ m * 2 ^ e * 2 ^ 100 ∧ (m : ℝ) * 2 ^ e * 2 ^ 100 < n + 1 := by
    refine ⟨_, rfl, ?_⟩
    split_ifs with he
    · have h := congrArg (Rat.cast (K := ℝ)) (two_zpow_natCast_sub (e := e) (q := -100) he)
      have hval : ((m * 2 ^ (e + 100).toNat : Nat) : ℝ) = m * 2 ^ e * 2 ^ 100 := by
        push_cast at h ⊢
        rw [← h, sub_neg_eq_add]
        norm_num [zpow_neg]
        ring
      rw [hval]
      exact ⟨le_rfl, lt_add_one _⟩
    · have h := congrArg (Rat.cast (K := ℝ)) (two_zpow_natCast_sub (e := -100) (q := e) (by omega))
      have hj : (0 : ℝ) < 2 ^ (-100 - e).toNat := by positivity
      have hval : (m : ℝ) * 2 ^ e * 2 ^ 100 = m / 2 ^ (-100 - e).toNat := by
        push_cast at h
        rw [eq_div_iff hj.ne']
        calc (m : ℝ) * 2 ^ e * 2 ^ 100 * 2 ^ (-100 - e).toNat = m * 2 ^ 100 * (2 ^ (-100 - e).toNat * 2 ^ e) := by ring
          _ = (m : ℝ) := by rw [h, mul_assoc, show (2 : ℝ) ^ 100 * 2 ^ (-100 : Int) = 1 by norm_num [zpow_neg], mul_one]
      rw [hval, le_div_iff₀ hj, div_lt_iff₀ hj]
      constructor
      · exact_mod_cast Nat.div_mul_le_self ..
      · exact_mod_cast Nat.lt_mul_of_div_lt (Nat.lt_succ_self (m / 2 ^ (-100 - e).toNat)) (Nat.two_pow_pos _)
  have hsigned : ((signedInt neg n : Int) : ℝ) = (sgn neg : ℚ) * n := by exact_mod_cast congrArg (Rat.cast (K := ℝ)) (signedInt_cast neg n)
  have hsgn : |((sgn neg : ℚ) : ℝ)| = 1 := by exact_mod_cast abs_sgn neg
  have hsplit : ((sgn neg : ℚ) : ℝ) * n / 2 ^ 100 - ((sgn neg * (m * 2 ^ e) : ℚ) : ℝ) = (sgn neg : ℚ) * ((n - m * 2 ^ e * 2 ^ 100) / 2 ^ 100) := by
    push_cast
    field_simp
  rw [hn, hsigned, hsplit, abs_mul, hsgn, one_mul, abs_div, abs_of_pos hpow]
  refine div_le_div_of_nonneg_right ?_ hpow.le
  rw [abs_le]
  constructor <;> linarith

theorem trigBeyond_iff {m : Nat} (hm : m ≠ 0) (e : Int) : trigBeyond m e = true ↔ 2 ^ 15 < (m : ℚ) * 2 ^ e := by
  obtain ⟨hlo, hhi⟩ := log2_zpow_bounds hm e
  simp only [trigBeyond, Bool.or_eq_true, Bool.and_eq_true, decide_eq_true_eq, beq_iff_eq, bne_iff_ne, ne_eq, eq_two_pow_log2_iff m e]
  generalize (m.log2 : Int) + e = l at *
  generalize (m : ℚ) * 2 ^ e = X at *
  rw [show (2 : ℚ) ^ 15 = 2 ^ (15 : Int) by norm_num]
  constructor
  · rintro (h | ⟨rfl, h⟩)
    · exact lt_of_lt_of_le (zpow_lt_zpow_right₀ one_lt_two h) hlo
    · exact lt_of_le_of_ne hlo (Ne.symm h)
  · intro h
    have hl : 15 < l + 1 := (zpow_lt_zpow_iff_right₀ (one_lt_two (α := ℚ))).1 (h.trans hhi)
    rcases (by omega : 15 < l ∨ l = 15) with h15 | rfl
    · exact .inl h15
    · exact .inr ⟨rfl, h.ne'⟩

/-- R159: a choice about a fixed-point sum near the exact result. -/
theorem trigWithin_error_le (fn : Nat) (a : Word) {t : Int} {V : ℝ} (hV : |V| ≤ 1) (ht : |(t : ℝ) - 2 ^ 100 * V| ≤ 2 ^ 50) :
    finiteCode fp32 (sfuWithin fn a (t - 2 ^ 50) (t + 2 ^ 50) (2 ^ 79) (-100)) ∧
      |(codeValue fp32 (sfuWithin fn a (t - 2 ^ 50) (t + 2 ^ 50) (2 ^ 79) (-100)) : ℝ) - V| ≤ 1 / 2 ^ 21 := by
  obtain ⟨h1, h2⟩ := abs_le.1 ht
  obtain ⟨h3, h4⟩ := abs_le.1 hV
  have hunit : (2 : ℚ) ^ (-100 : Int) = 1 / 2 ^ 100 := by norm_num [zpow_neg]
  have hunitR : (2 : ℝ) ^ (-100 : Int) = 1 / 2 ^ 100 := by norm_num [zpow_neg]
  have hsmall : |(((t - 2 ^ 50 : Int) : ℚ)) * 2 ^ (-100 : Int)| ≤ 2 := by
    have h5 : ((-2 ^ 101 : Int) : ℝ) ≤ ((t - 2 ^ 50 : Int) : ℝ) := by
      push_cast
      linarith
    have h6 : ((t - 2 ^ 50 : Int) : ℝ) ≤ ((2 ^ 101 : Int) : ℝ) := by
      push_cast
      linarith
    have h7 : |t - 2 ^ 50| ≤ 2 ^ 101 := abs_le.2 ⟨by exact_mod_cast h5, by exact_mod_cast h6⟩
    have h8 : |((t - 2 ^ 50 : Int) : ℚ)| ≤ 2 ^ 101 := by exact_mod_cast h7
    rw [abs_mul, hunit, abs_of_pos (by positivity : (0 : ℚ) < 1 / 2 ^ 100), mul_one_div, div_le_iff₀ (by positivity)]
    refine h8.trans ?_
    norm_num
  obtain ⟨_, hfin, herr⟩ := sfuWithin_error_le fn a (lo := t - 2 ^ 50) (hi := t + 2 ^ 50) (d := 2 ^ 79) (e := -100) (V := V) hsmall
    (by rw [hunit]; push_cast; norm_num) (by rw [hunit]; push_cast; norm_num)
    (by rw [hunitR, mul_one_div, div_le_iff₀ (by positivity)]; push_cast; linarith)
    (by rw [hunitR, mul_one_div, le_div_iff₀ (by positivity)]; push_cast; linarith)
  refine ⟨hfin, herr.trans_eq ?_⟩
  rw [hunitR]
  push_cast
  norm_num

/-- R159: a choice for an input beyond 2^15. -/
theorem trigChoose_abs_le (fn : Nat) (a : Word) : finiteCode fp32 (sfuChoose fn a (-1) 1 0) ∧ |codeValue fp32 (sfuChoose fn a (-1) 1 0)| ≤ 1 := by
  have hzero : codeValue fp32 0 = 0 := fp32_sound.codeValue_eq_zero.2 rfl
  obtain ⟨_, hfin, hlo, hhi, _⟩ := sfuChoose_between fn a (lo := -1) (hi := 1) (e := 0) (finiteCode_of_zero rfl : finiteCode fp32 0)
    (by rw [hzero]; norm_num) (by rw [hzero]; norm_num)
  generalize sfuChoose fn a (-1) 1 0 = c at *
  norm_num at hlo hhi
  exact ⟨hfin, abs_le.2 ⟨hlo, hhi⟩⟩

/-- R159: SIN and COS of a nonzero value. -/
theorem trigCode_gives (cosine : Bool) (a : Word) (neg : Bool) {m : Nat} (hm : m ≠ 0) (e : Int) :
    trigGives (if cosine then Real.cos ((sgn neg * (m * 2 ^ e) : ℚ) : ℝ) else Real.sin ((sgn neg * (m * 2 ^ e) : ℚ) : ℝ)) (sgn neg * (m * 2 ^ e))
      (trigCode cosine a neg m e) 0 := by
  have habs : |sgn neg * ((m : ℚ) * 2 ^ e)| = m * 2 ^ e := by rw [abs_mul, abs_sgn, one_mul, abs_of_nonneg (by positivity)]
  have hbeyond := trigBeyond_iff hm e
  have hfixed := trigFixed_near neg m e
  rw [← habs] at hbeyond
  unfold trigCode
  generalize sgn neg * ((m : ℚ) * 2 ^ e) = X at *
  by_cases hX : 2 ^ 15 < |X|
  · rw [if_pos (hbeyond.2 hX)]
    obtain ⟨hfin, hle⟩ := trigChoose_abs_le (if cosine then 6 else 5) a
    exact ⟨rfl, hfin, fun h => absurd hX h.not_gt, fun _ => hle⟩
  · rw [if_neg (mt hbeyond.1 hX)]
    have hXR : |(X : ℝ)| ≤ 2 ^ 15 := by exact_mod_cast not_lt.1 hX
    obtain ⟨hcos, hsin⟩ := trigOf_near hXR hfixed
    have hsum : ∀ c : Bool, finiteCode fp32 (sfuWithin (if c then 6 else 5) a (trigOf c (trigFixed neg m e) - 2 ^ 50) (trigOf c (trigFixed neg m e) + 2 ^ 50)
          (2 ^ 79) (-100)) ∧ |(codeValue fp32 (sfuWithin (if c then 6 else 5) a (trigOf c (trigFixed neg m e) - 2 ^ 50)
            (trigOf c (trigFixed neg m e) + 2 ^ 50) (2 ^ 79) (-100)) : ℝ) - (if c then Real.cos X else Real.sin X)| ≤ 1 / 2 ^ 21
      | true => trigWithin_error_le 6 a (Real.abs_cos_le_one X) hcos
      | false => trigWithin_error_le 5 a (Real.abs_sin_le_one X) hsin
    exact ⟨rfl, (hsum cosine).1, fun _ => (hsum cosine).2, fun h => absurd h hX⟩

/-- R159: SIN and COS of a finite value. -/
theorem trigWord_gives (cosine : Bool) {a : Word} (hfin : finiteCode fp32 a.toNat) :
    trigGives (if cosine then Real.cos (codeValue fp32 a.toNat) else Real.sin (codeValue fp32 a.toNat)) (codeValue fp32 a.toNat)
      (trigWord cosine a).1 (trigWord cosine a).2 := by
  by_cases h0 : codeValue fp32 a.toNat = 0
  · obtain ⟨e, hv⟩ := fp32_value_of_zero (fp32_sound.codeValue_eq_zero.1 h0)
    have hword : trigWord cosine a = (if cosine then 0x3F800000 else a.toNat, 0) := by simp only [trigWord, hv, if_true]
    rw [hword, h0]
    have hbig : ¬ (2 : ℚ) ^ 15 < |(0 : ℚ)| := by norm_num
    cases cosine with
    | true => exact ⟨rfl, show fp32.magOf 0x3F800000 ≤ _ by decide, fun _ => by simp [codeValue_one], fun h => absurd h hbig⟩
    | false => exact ⟨rfl, hfin, fun _ => by simp [h0], fun h => absurd h hbig⟩
  · obtain ⟨m, e, hv, hx, hm, _⟩ := fp32_value_of_nonzero hfin h0
    rw [trigWord_eq cosine hv hm, hx]
    exact trigCode_gives cosine a _ hm e

end Sys2Proof.Machine

/-! O18: the accuracy of EX2, LG2, SIN and COS (R159). -/

namespace Sys2Proof.Machine
open Sys2Proof

/-- R159: EX2 of a finite value below 128. -/
theorem ex2Word_gives {a : Word} (hfin : finiteCode fp32 a.toNat) (hx : codeValue fp32 a.toNat < 128) :
    withinUlps 2 ((2 : ℝ) ^ (codeValue fp32 a.toNat : ℝ)) (ex2Word a).1 ∧ (ex2Word a).2 = 0 := by
  obtain ⟨c, _, hword, hgives⟩ := (ex2Word_finite (fp32_sound.value_of_finite hfin) (fp32.finite_fst_lt _) fp32_sound.codeValue_finite).2 hx
  rw [hword]
  exact ⟨ex2Gives_withinUlps hgives, rfl⟩

/-- R159: LG2 of a positive value. -/
theorem lg2Word_gives {a : Word} (hfin : finiteCode fp32 a.toNat) (hx : 0 < codeValue fp32 a.toNat) :
    (lg2Word a).2 = 0 ∧ finiteCode fp32 (lg2Word a).1 ∧
      (codeValue fp32 a.toNat < 1 / 2 ∨ 2 < codeValue fp32 a.toNat → withinUlps 2 (Real.logb 2 (codeValue fp32 a.toNat)) (lg2Word a).1) ∧
      (1 / 2 ≤ codeValue fp32 a.toNat → codeValue fp32 a.toNat ≤ 2 →
        |(codeValue fp32 (lg2Word a).1 : ℝ) - Real.logb 2 (codeValue fp32 a.toNat)| ≤ 1 / 2 ^ 22) := by
  obtain ⟨m, e, hv, hval, hm, hm24, he, he'⟩ := fp32_value_of_nonzero hfin hx.ne'
  cases hneg : fp32.negOf a.toNat with
  | true =>
    rw [hneg, sgn_true] at hval
    have : 0 ≤ (m : ℚ) * 2 ^ e := by positivity
    linarith
  | false =>
    rw [hneg] at hv
    rw [hneg, sgn_false, one_mul] at hval
    rw [lg2Word_eq hv hm, hval]
    exact ⟨rfl, lg2Code_bounds a hm hm24 he he'⟩

/-- Settles O18: each word's choice keeps its bound wherever in its interval the exact result lies. -/
theorem transcendentalWordsKeepTheirBounds : Obligations.TranscendentalWordsKeepTheirBounds := by
  intro g d a s t k x hfin
  have hlt := fun fn hfn => (sfuFunction_sound (fn := fn) hfn ((s.thread t).reg a.toNat)).lt
  exact ⟨fun hx h => h.answers_sfuWord rfl rfl (hlt 3 (by norm_num)) (ex2Word_gives hfin hx),
    fun hx h => h.answers_sfuWord rfl rfl (hlt 4 (by norm_num)) (lg2Word_gives hfin hx),
    fun h => h.answers_sfuWord rfl rfl (hlt 5 (by norm_num)) (trigWord_gives false hfin),
    fun h => h.answers_sfuWord rfl rfl (hlt 6 (by norm_num)) (trigWord_gives true hfin)⟩

end Sys2Proof.Machine

/-! SUPPORT. MMA and MMAS on a sound array: the array's run, the lanes that write their rows back, and the trap of a slot that does not match. -/

namespace Sys2Proof.Machine
open Sys2Proof

/-! ## The lanes of a product -/

/-- R187: the interlock through which C reaches a word that continues the sum. -/
def Thread.accumulates (k sum next : Nat) (th : Thread) : Thread :=
  { th with rdy := Tab.put 0 (Tab.put 0 th.rdy (100 + k) sum) (200 + k) next }

section
variable (k sum next : Nat)

theorem Thread.accumulates_setRegs : ∀ (l : List (Nat × Word)) (th : Thread),
    (th.accumulates k sum next).setRegs l = (th.setRegs l).accumulates k sum next
  | [], _ => rfl
  | (n, v) :: l, th => Thread.accumulates_setRegs l (th.setReg n v)

theorem Thread.accumulates_setPreds : ∀ (l : List (Nat × Bool)) (th : Thread),
    (th.accumulates k sum next).setPreds l = (th.setPreds l).accumulates k sum next
  | [], _ => rfl
  | (n, v) :: l, th => by
    have hset : (th.accumulates k sum next).setPred n v = (th.setPred n v).accumulates k sum next := by
      unfold Thread.setPred
      split <;> rfl
    show ((th.accumulates k sum next).setPred n v).setPreds l = _
    rw [hset]
    exact Thread.accumulates_setPreds l (th.setPred n v)

theorem Thread.accumulates_write (th : Thread) (o : LaneOut) : (th.accumulates k sum next).write o = (th.write o).accumulates k sum next := by
  unfold Thread.write
  rw [Thread.accumulates_setRegs, Thread.accumulates_setPreds]
  rfl

end

/-- A lane of a product: its results are written back and it passes, with its C interlocked. -/
def productLane (i : Instr) (lat k sum next : Nat) (out : Nat → LaneOut) (s : State) (t : Nat) : State × Adv :=
  writeLane i lat out (s.updThread t (Thread.accumulates k sum next)) t

section
variable {i : Instr} {lat k sum next : Nat} {out : Nat → LaneOut}

theorem productLane_passes : LanePasses (productLane i lat k sum next out) where
  adv _ _ := rfl
  cur _ _ := rfl
  sstep _ _ := rfl
  way z u := by
    have hway := (writeLane_passes (i := i) (lat := lat) (out := out)).way (z.updThread u (Thread.accumulates k sum next)) u
    rw [State.updThread_thread_same] at hway
    exact hway
  others z _ _ ht := (State.untouched.updThread ht z _).trans (writeLane_passes.others _ _ _ ht)

/-- A participant of a product holds its results. -/
theorem productLane_data (z : State) (t : Nat) : ((z.thread t).write (out t)).sameData ((productLane i lat k sum next out z t).1.thread t) := by
  unfold productLane writeLane
  rw [State.updThread_thread_same, State.updThread_thread_same, Thread.accumulates_write]
  exact ⟨rfl, rfl, rfl, rfl, rfl, rfl, rfl, rfl, rfl⟩

end

/-! ## A word whose participants all pass -/

section
variable {s z : State} {i : Instr} {f : State → Nat → State × Adv} {t u : Nat} (hf : LanePasses f) (hz : ∀ u, State.untouched u s z)
include hf hz

/-- A participant of a word that its lanes pass keeps what its lane gave it. -/
theorem State.lanes_data (hx : s.executes i) (ht : t ∈ s.participants i) {th : Thread}
    (hdata : ∀ y : State, y.thread t = s.thread t → th.sameData ((f y t).1.thread t)) :
    th.sameData ((s.othersAdvance i (z.eachLane (markOf i) f (s.participants i))).thread t) := by
  obtain ⟨y, hy, hdone⟩ := z.eachLane_at (markOf i) (State.participants_nodup hx) ht (fun y u hu => hf.others y u t hu)
  unfold State.othersAdvance
  rw [State.endWord_thread, State.skips_thread_ne (State.not_bystander ht), hdone.thread, hf.adv]
  exact (hdata y (hy.thread.trans (hz t).thread)).trans (State.pass_sameData ..)

/-- A thread that is no participant keeps its registers. -/
theorem State.lanes_others (hu : u ∉ s.participants i) :
    sameRegisters (s.thread u) ((s.othersAdvance i (z.eachLane (markOf i) f (s.participants i))).thread u) := by
  have hleft : State.untouched u s (z.eachLane (markOf i) f (s.participants i)) :=
    (hz u).trans (.eachLane (fun y v hv => hf.others y v u (ne_of_mem_of_not_mem hv hu).symm) hu)
  rw [← hleft.thread]
  exact (State.foldl_sameData (f := State.skip) (fun y v => y.pass_sameData v u _) (s.bystanders i) _).sameRegisters

end

/-- Memory, tile slots and special registers are kept by a product's lanes. -/
theorem restKept_productLanes {s z : State} {i : Instr} {lat k sum next : Nat} {out : Nat → LaneOut} (h : restKept s z) :
    restKept s (s.othersAdvance i (z.eachLane (markOf i) (productLane i lat k sum next out) (s.participants i))) := by
  have hrest := State.Stable.rest s s.cur.threads
  have hlanes : restKept s (z.eachLane (markOf i) (productLane i lat k sum next out) (s.participants i)) :=
    State.eachLane_keeps (fun y u hu hy => hrest.goOn (State.mem_participants.1 hu).1 _
      (show restKept s (productLane i lat k sum next out y u).1 from hy) _) h
  exact hrest.endWord (hrest.skips (fun u hu => (List.mem_filter.1 hu).1) hlanes)

/-! ## The array's runs (R189 to R191) -/

/-- THE WORD'S USE OF THE ARRAY: nothing of a thread, of memory, of a tile slot or of a special register is changed. -/
def State.quiet (s z : State) : Prop := (∀ u, State.untouched u s z) ∧ restKept s z

namespace State.quiet
variable {s z : State}

theorem refl (s : State) : quiet s s := ⟨fun u => .refl u s, restKept_refl s⟩

theorem updCore (h : quiet s z) (c : Nat) {f : Core → Core} (hcycle : ∀ x, (f x).cycle = x.cycle) (hframe : ∀ x : Core, x.sameFrame (f x)) :
    quiet s (z.updCore c f) :=
  ⟨fun u => (h.1 u).trans (.updCore u z c hcycle), (State.Stable.rest s []).core c f hframe h.2⟩

theorem occupy (h : quiet s z) (unit n : Nat) : quiet s (z.occupy unit n) := h.updCore _ (fun _ => rfl) fun _ => ⟨rfl, rfl, rfl, rfl⟩

theorem arrayRan (h : quiet s z) (n : Nat) : quiet s (z.arrayRan n) := h.updCore _ (fun _ => rfl) fun _ => ⟨rfl, rfl, rfl, rfl⟩

theorem govCharge (h : quiet s z) (t a n : Nat) (ps : List Nat) : quiet s (z.govCharge t a n ps) := by
  unfold State.govCharge
  exact h.updCore _ (fun _ => rfl) fun _ => ⟨rfl, rfl, rfl, rfl⟩

theorem free (h : quiet s z) (n : Nat) : quiet s { z with free := n } := ⟨fun u => (h.1 u).trans (.of_fields rfl rfl rfl rfl rfl rfl), h.2⟩

end State.quiet

/-- R189: the sub-arrays and adders of the issuing core have no physical fault. -/
def State.soundArray (s : State) : Prop := (s.coreAt s.cur.core).arrFault = [] ∧ (s.coreAt s.cur.core).addFault = 0

section
variable {s : State}

theorem State.soundArray.govCharge (h : s.soundArray) (t a n : Nat) (ps : List Nat) : (s.govCharge t a n ps).soundArray := by
  unfold State.soundArray State.govCharge
  rw [State.updCore_cur, State.updCore_coreAt_same]
  exact h

/-- R190: a sound array's first run stands, and no mismatch is counted. -/
theorem State.soundArray.arrayRun (h : s.soundArray) (run : Nat) (rows : List Row) : s.arrayRun run rows = (s, false) := by
  obtain ⟨harr, hadd⟩ := h
  unfold State.arrayRun Core.arrayTests
  simp [harr, hadd]

theorem State.soundArray.arrayCheck (h : s.soundArray) (rows : List Row) : s.arrayCheck rows = (s.arrayRan 1, some 0, 1) := by
  unfold State.arrayCheck
  rw [h.arrayRun]
  split <;> rfl

theorem State.soundArray.errOf (h : s.soundArray) (t : Nat) : (s.coreAt s.cur.core).errOf 0 t = fun _ _ => 0 := by
  funext j g
  unfold Core.errOf Core.subErr
  rw [h.1]
  rfl

theorem State.soundArray.garbled (h : s.soundArray) (o : LaneOut) : s.garbled o = o := by
  unfold State.garbled
  simp [h.2]

end

/-! ## MMA and MMAS (R171, R185) -/

/-- R182: a participant's row of a product. -/
def State.rowJob (s : State) (north : Bool) (q : BitVec 1) (seg a : Nat) (sa : Thread → Option Word) (t : Nat) : RowJob :=
  { tile := (s.coreAt s.cur.core).tile q.toNat, north := north, seg := seg, a := (s.thread t).block a (if north then 8 else 16), sa := sa (s.thread t) }

/-- What a product on a sound array gives a participant. -/
def State.productOut (s : State) (north : Bool) (q : BitVec 1) (seg d a : Nat) (sa : Thread → Option Word) (t : Nat) : LaneOut :=
  (s.rowJob north q seg a sa t).run (fun _ _ => 0) (s.thread t) d

/-- The machine when one run of a product on a sound array is charged and its units are occupied (R187, R191). -/
def State.arrayUsed (s : State) (q : BitVec 1) (p a n : Nat) (ps : List Nat) : State :=
  let z := (((s.govCharge p a n ps).arrayRan 1).occupy 4 8).occupy (10 + q.toNat) 8
  { z with free := z.free + 64 }

theorem State.arrayUsed_quiet (s : State) (q : BitVec 1) (p a n : Nat) (ps : List Nat) : s.quiet (s.arrayUsed q p a n ps) :=
  (((((State.quiet.refl s).govCharge p a n ps).arrayRan 1).occupy 4 8).occupy (10 + q.toNat) 8).free _

section
variable {s : State} {i : Instr} {g : Guard} {north mx : Bool} {q : BitVec 1} {seg d a t : Nat} {sa : Thread → Option Word}
  (hg : i.guard? = some g) (h1 : OneWarp s) (hx : s.executes i) (ht : t ∈ s.participants i)
include hg h1 hx ht

/-- R171, R185: a product on another's slot, or on one whose kind does not match, traps the bundle. -/
theorem State.product_traps (hbad : ((s.coreAt s.cur.core).tile q.toNat).mismatch (s.ownerOf t) north mx seg = true) :
    s.product i north mx q seg d a sa = (s.trapThreads 1 s.cur.threads).endWord := by
  unfold State.product
  rw [State.simt_executes hg hx]
  obtain ⟨p, ps, hps⟩ := List.exists_cons_of_ne_nil (List.ne_nil_of_mem ht)
  have hp := s.ownerOf_eq (warpOf_of_oneWarp h1 ht (hps ▸ List.mem_cons_self ..))
  rw [hps]
  dsimp only
  rw [hp, if_pos hbad]

/-- R171, R185: each thread of the bundle takes the trap. -/
theorem State.product_trapped (hbad : ((s.coreAt s.cur.core).tile q.toNat).mismatch (s.ownerOf t) north mx seg = true) {u : Nat}
    (hu : u ∈ s.cur.threads) : trapped s (s.product i north mx q seg d a sa) u 1 0 := by
  rw [State.product_traps hg h1 hx ht hbad]
  exact (State.trapBundle_trapped (c := 1) hx.2.1 hu rfl).1

/-- A product on its workgroup's slot and a sound array writes its participants' rows back. -/
theorem State.product_runs (hgood : ((s.coreAt s.cur.core).tile q.toNat).mismatch (s.ownerOf t) north mx seg = false) (hs : s.soundArray) :
    ∃ z lat k sum next, State.quiet s z ∧ s.product i north mx q seg d a sa =
      s.othersAdvance i (z.eachLane (markOf i) (productLane i lat k sum next (s.productOut north q seg d a sa)) (s.participants i)) := by
  unfold State.product
  rw [State.simt_executes hg hx]
  obtain ⟨p, ps, hps⟩ := List.exists_cons_of_ne_nil (List.ne_nil_of_mem ht)
  have hp := s.ownerOf_eq (warpOf_of_oneWarp h1 ht (hps ▸ List.mem_cons_self ..))
  rw [hps]
  dsimp only
  rw [hp, if_neg (by simp [hgood]), (hs.govCharge ..).arrayCheck]
  simp only [hs.errOf, hs.garbled, State.eachLane_eq_foldl]
  refine ⟨s.arrayUsed q p a (aRead north ((s.coreAt s.cur.core).tile q.toNat).type) (p :: ps), 24, 2 * (d / 8) + (if north then 1 else 0),
    (s.coreAt s.cur.core).cycle + 24, (s.coreAt s.cur.core).cycle + 8, s.arrayUsed_quiet .., ?_⟩
  rw [List.map_map, List.foldl_map]
  rfl

/-- What a product on its workgroup's slot and a sound array leaves: the word is passed, and each participant holds its results. -/
theorem State.product_frame (hgood : ((s.coreAt s.cur.core).tile q.toNat).mismatch (s.ownerOf t) north mx seg = false) (hs : s.soundArray) :
    let s' := s.product i north mx q seg d a sa
    movesPast s s' i ∧ restKept s s' ∧ (∀ u, u ∉ s.participants i → sameRegisters (s.thread u) (s'.thread u)) ∧
      ((s.thread t).write (s.productOut north q seg d a sa t)).sameData (s'.thread t) := by
  obtain ⟨z, lat, k, sum, next, ⟨hleft, hrest⟩, hz⟩ := State.product_runs (d := d) (a := a) (sa := sa) hg h1 hx ht hgood hs
  rw [hz]
  exact ⟨State.movesPast_of_lanes productLane_passes hx hleft fun u => .refl u _, restKept_productLanes hrest,
    fun u hu => State.lanes_others productLane_passes hleft hu,
    State.lanes_data productLane_passes hleft hx ht fun y hy => hy ▸ productLane_data y t⟩

end

end Sys2Proof.Machine

/-! SUPPORT. The chunk of a list of products: its NaNs, its infinities and its exact sum (R182, R183). -/

namespace Sys2Proof.Machine
open Sys2Proof

/-! ## Exact sums -/

/-- The value of m × 2^e. -/
def dyadic (x : Int × Int) : ℚ := x.1 * 2 ^ x.2

theorem dyadic_addExact (a b : Int × Int) : dyadic (addExact a b) = dyadic a + dyadic b := by
  unfold dyadic addExact
  dsimp only
  obtain ⟨q, hq⟩ : ∃ q, q = if a.2 < b.2 then a.2 else b.2 := ⟨_, rfl⟩
  have hqa : q ≤ a.2 := by rw [hq]; split_ifs <;> omega
  have hqb : q ≤ b.2 := by rw [hq]; split_ifs <;> omega
  rw [← hq, ← two_zpow_natCast_sub hqa, ← two_zpow_natCast_sub hqb]
  push_cast
  ring

/-- A finite value as m × 2^e with its sign in m. -/
theorem dyadic_signed (n : Bool) (m : Nat) (e : Int) : dyadic (if n then -(m : Int) else (m : Int), e) = sgn n * (m * 2 ^ e) := by
  unfold dyadic
  cases n <;> simp

theorem dyadic_eq_zero {x : Int × Int} : dyadic x = 0 ↔ x.1 = 0 := by
  rw [dyadic, mul_eq_zero_iff_right (two_zpow_pos _).ne', Int.cast_eq_zero]

/-- m × 2^e by its sign and magnitude. -/
theorem dyadic_eq_sgn_natAbs (x : Int × Int) : dyadic x = sgn (decide (x.1 < 0)) * (x.1.natAbs * 2 ^ x.2) := by
  rw [← dyadic_signed, dyadic]
  congr 2
  by_cases h : x.1 < 0
  · simp only [h, decide_true, if_true]; omega
  · simp only [h, decide_false, Bool.false_eq_true, if_false]; omega

/-! ## A product that joins a chunk (R183) -/

section
variable {f : Fmt} (hf : f.Sound) (c : Chunk) {a b : Nat}
include hf

theorem Fmt.Sound.mac_of_nan (h : nanCode f a ∨ nanCode f b) : c.mac (f.value a) (f.value b) = { c with nan := true } :=
  if_pos (by rwa [Bool.or_eq_true, hf.isNan_value, hf.isNan_value])

theorem Fmt.Sound.mac_of_invalid (h : invalidProduct f a b) : c.mac (f.value a) (f.value b) = { c with zeroInf := true } := by
  obtain ⟨s, hs, _⟩ := hf.mulVal_of_bad (.inr (.inr h))
  have hnum : ¬ (nanCode f a ∨ nanCode f b) := fun hn => not_invalidProduct_of_nan hn h
  rw [Chunk.mac, if_neg (by rwa [Bool.or_eq_true, hf.isNan_value, hf.isNan_value]), hs]

theorem Fmt.Sound.mac_of_infinite (h : infiniteProduct f a b) : c.mac (f.value a) (f.value b) =
    { c with pos := c.pos || !productNegative f a b, neg := c.neg || productNegative f a b, allNegZero := false } := by
  obtain ⟨_, _, hna, hnb⟩ := id h
  rw [Chunk.mac, if_neg (by rw [Bool.or_eq_true, hf.isNan_value, hf.isNan_value]; exact not_or.2 ⟨hna, hnb⟩), hf.mulVal_of_infinite h]

theorem Fmt.Sound.mac_of_finite (ha : finiteCode f a) (hb : finiteCode f b) : ∃ z x, c.mac (f.value a) (f.value b) = { c with allNegZero := z, sum := x } ∧
    dyadic x = dyadic c.sum + codeValue f a * codeValue f b ∧
    (z = true ↔ c.allNegZero = true ∧ codeValue f a * codeValue f b = 0 ∧ productNegative f a b = true) := by
  obtain ⟨m, e, hmul, hval⟩ := hf.mulVal_of_finite ha hb
  have hzero : codeValue f a * codeValue f b = 0 ↔ m = 0 := by
    rw [hval, mul_eq_zero_iff_left (sgn_ne_zero _), mul_eq_zero_iff_right (two_zpow_pos _).ne', Nat.cast_eq_zero]
  refine ⟨_, _, by
    rw [Chunk.mac, if_neg (by rw [Bool.or_eq_true, hf.isNan_value, hf.isNan_value]; exact not_or.2 ⟨fun h => h.1 ha, fun h => h.1 hb⟩), hmul], ?_, ?_⟩
  · by_cases hm : m = 0
    · rw [if_pos hm, hzero.2 hm, add_zero]
    · rw [if_neg hm, dyadic_addExact, dyadic_signed, hval]
  · rw [hzero, Bool.and_eq_true, Bool.and_eq_true, beq_iff_eq]
    tauto

end

/-! ## The chunk of a list of products (R183) -/

/-- The chunk holds an infinity of a sign. -/
def Chunk.infOf (c : Chunk) (n : Bool) : Bool := if n then c.neg else c.pos

/-- R155: what two codes' product is: NaN, invalid, infinite or finite. -/
theorem product_cases (f : Fmt) (a b : Nat) : (nanCode f a ∨ nanCode f b) ∨ invalidProduct f a b ∨ infiniteProduct f a b ∨ (finiteCode f a ∧ finiteCode f b) := by
  by_cases hn : nanCode f a ∨ nanCode f b
  · exact .inl hn
  · obtain ⟨hna, hnb⟩ := not_or.1 hn
    by_cases hinv : invalidProduct f a b
    · exact .inr (.inl hinv)
    · by_cases hinf : infinite f a ∨ infinite f b
      · exact .inr (.inr (.inl ⟨hinf, hinv, hna, hnb⟩))
      · obtain ⟨hia, hib⟩ := not_or.1 hinf
        exact .inr (.inr (.inr ⟨(finite_or_infinite hna).resolve_right hia, (finite_or_infinite hnb).resolve_right hib⟩))

section
variable {f : Fmt} (hf : f.Sound) (c : Chunk) (a b : Nat)
include hf

/-- What a product adds to a chunk's NaNs and infinities. -/
theorem Fmt.Sound.mac_flags : let c' := c.mac (f.value a) (f.value b)
    (c'.nan = true ↔ c.nan = true ∨ nanCode f a ∨ nanCode f b) ∧ (c'.zeroInf = true ↔ c.zeroInf = true ∨ invalidProduct f a b) ∧
    ∀ n, c'.infOf n = true ↔ c.infOf n = true ∨ (infiniteProduct f a b ∧ productNegative f a b = n) := by
  intro c'
  rcases product_cases f a b with h | h | h | ⟨ha, hb⟩
  · have hinv := not_invalidProduct_of_nan h
    have hinf : ¬ infiniteProduct f a b := fun ⟨_, _, hna, hnb⟩ => h.elim hna hnb
    simp only [c', hf.mac_of_nan c h, h, hinv, hinf, Chunk.infOf, or_true, or_false, false_and, implies_true, and_self]
  · have hnum : ¬ (nanCode f a ∨ nanCode f b) := fun hn => not_invalidProduct_of_nan hn h
    have hinf : ¬ infiniteProduct f a b := fun hi => hi.2.1 h
    simp only [c', hf.mac_of_invalid c h, h, hnum, hinf, Chunk.infOf, or_true, or_false, false_and, implies_true, and_self]
  · obtain ⟨_, hinv, hna, hnb⟩ := id h
    simp only [c', hf.mac_of_infinite c h, h, hna, hnb, hinv, Chunk.infOf, or_false, true_and]
    rintro (_ | _) <;> simp
  · obtain ⟨z, x, he, _⟩ := hf.mac_of_finite c ha hb
    have hna := fun h : infinite f a => hf.not_finite_of_infinite h ha
    have hnb := fun h : infinite f b => hf.not_finite_of_infinite h hb
    have hinv : ¬ invalidProduct f a b := fun h => h.elim (fun h => hna h.1) fun h => hnb h.2
    have hinf : ¬ infiniteProduct f a b := fun h => h.1.elim hna hnb
    have hnum : ¬ (nanCode f a ∨ nanCode f b) := fun h => h.elim (fun h => h.1 ha) fun h => h.1 hb
    simp only [c', he, hnum, hinv, hinf, Chunk.infOf, or_false, false_and, implies_true, and_self]

end

/-- R183: THE CHUNK OF A LIST OF PRODUCTS knows which of them are NaN, invalid and infinite, and of finite products the exact sum and whether
every one is −0. -/
structure Chunk.Holds (f : Fmt) (c : Chunk) (ps : List (Nat × Nat)) : Prop where
  nan : c.nan = true ↔ ∃ p ∈ ps, nanCode f p.1 ∨ nanCode f p.2
  zeroInf : c.zeroInf = true ↔ ∃ p ∈ ps, invalidProduct f p.1 p.2
  inf : ∀ n, c.infOf n = true ↔ ∃ p ∈ ps, infiniteProduct f p.1 p.2 ∧ productNegative f p.1 p.2 = n
  sum : (∀ p ∈ ps, finiteCode f p.1 ∧ finiteCode f p.2) → dyadic c.sum = (ps.map (fun p => codeValue f p.1 * codeValue f p.2)).sum
  negZero : (∀ p ∈ ps, finiteCode f p.1 ∧ finiteCode f p.2) →
    (c.allNegZero = true ↔ ∀ p ∈ ps, codeValue f p.1 * codeValue f p.2 = 0 ∧ productNegative f p.1 p.2 = true)

section
variable {f : Fmt}

theorem Chunk.holds_nil (f : Fmt) : ({} : Chunk).Holds f [] where
  nan := by simp
  zeroInf := by simp
  inf := by simp [Chunk.infOf]
  sum _ := by simp [dyadic]
  negZero _ := by simp

theorem Chunk.Holds.mac (hf : f.Sound) {c : Chunk} {ps : List (Nat × Nat)} (h : c.Holds f ps) (p : Nat × Nat) :
    (c.mac (f.value p.1) (f.value p.2)).Holds f (ps ++ [p]) := by
  obtain ⟨hnan, hzero, hinf⟩ := hf.mac_flags c p.1 p.2
  have hmore : ∀ P : Nat × Nat → Prop, (∃ x ∈ ps ++ [p], P x) ↔ (∃ x ∈ ps, P x) ∨ P p := fun P => by
    simp [or_and_right, exists_or]
  refine ⟨by rw [hnan, hmore, h.nan], by rw [hzero, hmore, h.zeroInf], fun n => by rw [hinf, hmore, h.inf], fun hfin => ?_, fun hfin => ?_⟩
  all_goals
    rw [List.forall_mem_append, List.forall_mem_singleton] at hfin
    obtain ⟨z, x, he, hsum, hneg⟩ := hf.mac_of_finite c hfin.2.1 hfin.2.2
    rw [he]
  · rw [hsum, h.sum hfin.1]
    simp
  · rw [hneg, h.negZero hfin.1, List.forall_mem_append, List.forall_mem_singleton]

theorem Chunk.Holds.foldl (hf : f.Sound) : ∀ (ps : List (Nat × Nat)) {qs : List (Nat × Nat)} {c : Chunk}, c.Holds f qs →
    (ps.foldl (fun c p => c.mac (f.value p.1) (f.value p.2)) c).Holds f (qs ++ ps)
  | [], qs, _, h => by rwa [List.append_nil]
  | p :: ps, qs, c, h => by
    have hrest := Chunk.Holds.foldl hf ps (h.mac hf p)
    rwa [List.append_assoc] at hrest

end

end Sys2Proof.Machine

/-! SUPPORT. The s of a chunk under its scale, and its sum with C, rounded once (R182 to R184). -/

namespace Sys2Proof.Machine
open Sys2Proof

/-! ## The s of a chunk (R182, R183) -/

/-- The value that the model computes shows the s of a chunk. -/
def shownAs : ChunkSum → FVal → Prop
  | .nan _, s => s = .nan false
  | .inf n, s => s = .inf n
  | .exact x z, s => ∃ n m e, s = .fin n m e ∧ x = sgn n * ((m : ℚ) * 2 ^ e) ∧ (m = 0 → n = z)

/-- The s is a NaN from an invalid operation. -/
def fromInvalid : ChunkSum → Bool
  | .nan i => i
  | .inf _ | .exact _ _ => false

/-- 0 × ∞, or infinities of both signs, among a chunk's products. -/
def Chunk.invalid (c : Chunk) : Bool := c.zeroInf || (c.pos && c.neg)

/-- What a chunk's scale stands for: no scale, a scale of 0xFF, or 2^k. -/
def scaleMeans (sc : Option (Option Int)) (bad : Prop) (k : Int) : Prop :=
  match sc with
  | none => ¬ bad ∧ k = 0
  | some none => bad
  | some (some j) => ¬ bad ∧ j = k

/-- A chunk's exact s under its scale. -/
def Chunk.scaledValue (c : Chunk) (sc : Option (Option Int)) : FVal :=
  match sc with
  | none => c.value
  | some none => .nan false
  | some (some k) => c.value.scale k

theorem Chunk.scaledValue_of_bad (c : Chunk) {sc : Option (Option Int)} {bad : Prop} {k : Int} (h : scaleMeans sc bad k) (hbad : bad) :
    c.scaledValue sc = .nan false := by
  match sc, h with
  | some none, _ => rfl
  | none, ⟨hgood, _⟩ => exact absurd hbad hgood
  | some (some _), ⟨hgood, _⟩ => exact absurd hbad hgood

theorem Chunk.scaledValue_of_good (c : Chunk) {sc : Option (Option Int)} {bad : Prop} {k : Int} (h : scaleMeans sc bad k) (hgood : ¬ bad) :
    c.scaledValue sc = c.value.scale k := by
  match sc, h with
  | some none, hbad => exact absurd hbad hgood
  | some (some _), ⟨_, rfl⟩ => rfl
  | none, ⟨_, hk⟩ =>
    rw [hk]
    show c.value = c.value.scale 0
    cases c.value with
    | fin n m e => simp [FVal.scale]
    | _ => rfl

section
variable {f : Fmt} {c : Chunk} {ps : List (Nat × Nat)} (h : c.Holds f ps)
include h

theorem Chunk.Holds.invalid_iff : c.invalid = true ↔ invalidChunk f ps := by
  rw [Chunk.invalid, Bool.or_eq_true, Bool.and_eq_true, h.zeroInf, invalidChunk, ← h.inf true, ← h.inf false]
  simp only [Chunk.infOf, if_true, Bool.false_eq_true, if_false, and_comm]

/-- R183: a chunk without NaN, invalid or infinite products has finite ones alone. -/
theorem Chunk.Holds.finite (hnan : c.nan = false) (hzero : c.zeroInf = false) (hinf : ∀ n, c.infOf n = false) :
    ∀ p ∈ ps, finiteCode f p.1 ∧ finiteCode f p.2 := by
  intro p hp
  rcases product_cases f p.1 p.2 with hn | hi | hi | hfin
  · exact absurd (h.nan.2 ⟨p, hp, hn⟩) (by simp [hnan])
  · exact absurd (h.zeroInf.2 ⟨p, hp, hi⟩) (by simp [hzero])
  · exact absurd ((h.inf _).2 ⟨p, hp, hi, rfl⟩) (by simp [hinf])
  · exact hfin

/-- R183: a chunk with infinities of one sign. -/
theorem Chunk.Holds.gives_inf {bad : Prop} {k : Int} {n : Bool} (hgood : ¬ bad) (hnan : c.nan = false) (hinv : c.invalid = false)
    (hinf : c.infOf n = true) : chunkGives f bad k ps (.inf n) :=
  ⟨hgood, fun hi => by simp [h.invalid_iff.2 hi] at hinv,
    fun p hp => not_or.1 fun hn => absurd (h.nan.2 ⟨p, hp, hn⟩) (by simp [hnan]), (h.inf n).1 hinf⟩

/-- R182, R183: the model's value of a chunk shows the chunk's s. -/
theorem Chunk.Holds.gives {bad : Prop} {k : Int} {sc : Option (Option Int)} (hsc : scaleMeans sc bad k) :
    ∃ v, chunkGives f bad k ps v ∧ shownAs v (c.scaledValue sc) ∧ fromInvalid v = c.invalid := by
  have hnanSum : bad ∨ c.nan = true ∨ c.invalid = true → chunkGives f bad k ps (.nan c.invalid) := fun hb =>
    ⟨hb.imp_right fun hb => hb.symm.imp h.invalid_iff.1 h.nan.1, h.invalid_iff⟩
  by_cases hbad : bad
  · exact ⟨.nan c.invalid, hnanSum (.inl hbad), c.scaledValue_of_bad hsc hbad, rfl⟩
  rw [c.scaledValue_of_good hsc hbad]
  unfold Chunk.value
  cases hnan : c.nan with
  | true => exact ⟨.nan c.invalid, hnanSum (.inr (.inl hnan)), rfl, rfl⟩
  | false =>
    cases hinv : c.invalid with
    | true =>
      rw [if_pos (show (false || c.zeroInf || (c.pos && c.neg)) = true from hinv)]
      exact ⟨.nan c.invalid, hnanSum (.inr (.inr hinv)), rfl, hinv⟩
    | false =>
      rw [if_neg (show ¬ (false || c.zeroInf || (c.pos && c.neg)) = true from Bool.eq_false_iff.1 hinv)]
      cases hpos : c.pos with
      | true => exact ⟨.inf false, h.gives_inf hbad hnan hinv hpos, rfl, rfl⟩
      | false =>
        cases hneg : c.neg with
        | true => exact ⟨.inf true, h.gives_inf hbad hnan hinv hneg, rfl, rfl⟩
        | false =>
          have hzero : c.zeroInf = false := (Bool.or_eq_false_iff.1 hinv).1
          have hfin := h.finite hnan hzero fun n => by cases n <;> assumption
          refine ⟨.exact (2 ^ k * (ps.map (fun p => codeValue f p.1 * codeValue f p.2)).sum) c.allNegZero,
            ⟨hbad, hfin, rfl, h.negZero hfin⟩, ?_, rfl⟩
          rw [← h.sum hfin]
          by_cases h0 : c.sum.1 = 0
          · exact ⟨c.allNegZero, 0, 0 + k, by simp [h0, FVal.scale], by simp [dyadic_eq_zero.2 h0], fun _ => rfl⟩
          · refine ⟨decide (c.sum.1 < 0), c.sum.1.natAbs, c.sum.2 + k, by simp [h0, FVal.scale], ?_, fun hm => absurd (Int.natAbs_eq_zero.1 hm) h0⟩
            rw [dyadic_eq_sgn_natAbs, zpow_add₀ two_ne_zero]
            ring

end

/-! ## Adding a chunk's s (R182 to R184) -/

theorem fp32_eq_negZero {acc : Nat} (h : acc < 2 ^ 32) : acc = 0x80000000 ↔ fp32.magOf acc = 0 ∧ fp32.negOf acc = true := by
  constructor
  · rintro rfl
    decide
  · rintro ⟨hm, hn⟩
    have hcode := fp32_sound.code_negOf_magOf (c := acc) h
    rw [hm, hn] at hcode
    exact hcode.symm

/-- R182 to R184: the model's sum of C and a chunk's s, rounded once: its code and flags. -/
def addChunk (acc : Nat) (inv : Bool) (s : FVal) : Nat × BitVec 5 :=
  let r := addVal .rne (fp32.value acc) s
  let o := fp32.pack .rne r.1
  (o.1, flagIf inv flagNV ||| r.2 ||| o.2)

section
variable {acc m : Nat} {inv n z : Bool} {e : Int} {s : FVal}

theorem addChunk_of_nan (h : nanCode fp32 acc ∨ s.isNan = true) (hs : s.isSig = false) :
    nanGives fp32 (inv = true ∨ signalling fp32 acc) (addChunk acc inv s).1 (addChunk acc inv s).2 := by
  unfold addChunk
  dsimp only
  rw [addVal_of_nan .rne (h.imp_left fp32_sound.isNan_value.2), Fmt.pack_nan, flags_or_zero, flagIf_or]
  exact nanGives_flagIf (by rw [hs, Bool.or_false, Bool.or_eq_true, fp32_sound.isSig_value])

theorem addChunk_of_nan_valid (h : nanCode fp32 acc) (hs : s.isSig = false) :
    nanGives fp32 (signalling fp32 acc) (addChunk acc false s).1 (addChunk acc false s).2 := by
  simpa only [Bool.false_eq_true, false_or] using addChunk_of_nan (inv := false) (.inl h) hs

theorem addChunk_opposite_inf (h : infinite fp32 acc) (hn : fp32.negOf acc ≠ n) : addChunk acc false (.inf n) = (fp32.nan, flagNV) := by
  unfold addChunk
  rw [Fmt.value_of_infinite h]
  simp only [addVal, beq_false_of_ne hn, Bool.false_eq_true, if_false]
  rfl

theorem addChunk_inf (h : finiteCode fp32 acc ∨ (infinite fp32 acc ∧ fp32.negOf acc = n)) :
    addChunk acc false (.inf n) = (if n then 0xFF800000 else 0x7F800000, 0) := by
  have hsum : addVal .rne (fp32.value acc) (.inf n) = (.inf n, 0) := by
    rcases h with hfin | ⟨hinf, rfl⟩
    · rw [fp32_sound.value_of_finite hfin]
      rfl
    · rw [Fmt.value_of_infinite hinf]
      exact if_pos (beq_self_eq_true (fp32.negOf acc))
  unfold addChunk
  rw [hsum]
  cases n <;> rfl

theorem addChunk_fin_to_inf (h : infinite fp32 acc) (hacc : acc < 2 ^ 32) : addChunk acc false (.fin n m e) = (acc, 0) := by
  unfold addChunk
  rw [Fmt.value_of_infinite h]
  simp only [addVal, Fmt.pack_inf, fp32_sound.code_of_infinite h hacc]
  rfl

theorem addChunk_fin (h : finiteCode fp32 acc) (hx : codeValue fp32 acc + sgn n * (m * 2 ^ e) ≠ 0) :
    roundsTo fp32 .rne false (codeValue fp32 acc + sgn n * (m * 2 ^ e)) (addChunk acc false (.fin n m e)).1 (addChunk acc false (.fin n m e)).2 := by
  unfold addChunk
  rw [fp32_sound.value_of_finite h]
  rw [fp32_sound.codeValue_finite] at hx ⊢
  obtain ⟨h0, _⟩ | ⟨_, neg, j, q, hj, hsum, hval⟩ := addFin_cases .rne (fp32.negOf acc) (fp32.finite (fp32.magOf acc)).1
    (fp32.finite (fp32.magOf acc)).2 n m e
  · exact absurd h0 hx
  · simp only [addVal, hsum, fp32.pack_fin .rne neg hj, hval]
    rw [show flagIf false flagNV ||| (0 : BitVec 5) = 0 from rfl, zero_or_flags]
    exact fp32_sound.round_roundsTo (fun _ h => by cases h) false neg hj q

/-- R183: an exact zero is −0 when C and every product of the chunk are. -/
theorem addChunk_fin_zero (h : finiteCode fp32 acc) (hacc : acc < 2 ^ 32) (hz : m = 0 → n = z) (hx : codeValue fp32 acc + sgn n * (m * 2 ^ e) = 0) :
    addChunk acc false (.fin n m e) = (if acc = 0x80000000 ∧ z = true then 0x80000000 else 0, 0) := by
  have hm : fp32.magOf acc = 0 → m = 0 := fun h0 => by
    rw [fp32_sound.codeValue_eq_zero.2 h0, zero_add, mul_eq_zero_iff_left (sgn_ne_zero _), mul_eq_zero_iff_right (two_zpow_pos _).ne'] at hx
    exact_mod_cast hx
  have hsign : (fp32.magOf acc = 0 ∧ m = 0 ∧ fp32.negOf acc = n) ∧ fp32.negOf acc = true ↔ acc = 0x80000000 ∧ z = true := by
    rw [fp32_eq_negZero hacc]
    constructor
    · rintro ⟨⟨h0, hm0, rfl⟩, hneg⟩
      exact ⟨⟨h0, hneg⟩, (hz hm0).symm.trans hneg⟩
    · rintro ⟨⟨h0, hneg⟩, hz'⟩
      exact ⟨⟨h0, hm h0, by rw [hneg, hz (hm h0), hz']⟩, hneg⟩
  unfold addChunk
  rw [fp32_sound.value_of_finite h]
  rw [fp32_sound.codeValue_finite] at hx
  obtain ⟨_, hsum⟩ | ⟨h0, _⟩ := addFin_cases .rne (fp32.negOf acc) (fp32.finite (fp32.magOf acc)).1 (fp32.finite (fp32.magOf acc)).2 n m e
  · simp only [addVal, hsum, Fmt.pack_zero, Fmt.finite_eq_zero]
    refine Prod.ext ?_ rfl
    simp only [← hsign]
    by_cases hcond : fp32.magOf acc = 0 ∧ m = 0 ∧ fp32.negOf acc = n
    · rw [if_pos hcond]
      simp only [and_iff_right hcond]
      cases fp32.negOf acc <;> rfl
    · rw [if_neg hcond, if_neg fun h => hcond h.1]
      rfl
  · exact absurd hx h0

theorem addChunk_lt (acc : Nat) (inv : Bool) (s : FVal) : (addChunk acc inv s).1 < 2 ^ 32 := fp32_sound.pack_lt (fun _ h => by cases h) _

end

/-- R182 to R184: the model adds a chunk's s as the rules say. -/
theorem addChunk_adds {v : ChunkSum} {s : FVal} (h : shownAs v s) {acc : Nat} (hacc : acc < 2 ^ 32) :
    chunkAdds acc v (addChunk acc (fromInvalid v) s).1 (addChunk acc (fromInvalid v) s).2 := by
  cases v with
  | nan i =>
    obtain rfl : s = .nan false := h
    exact addChunk_of_nan (.inr rfl) rfl
  | inf n =>
    obtain rfl : s = .inf n := h
    refine ⟨fun hn => addChunk_of_nan_valid hn rfl, fun hi hne => ?_, fun hadd => ?_⟩
    · rw [fromInvalid, addChunk_opposite_inf hi hne]
      exact ⟨rfl, rfl⟩
    · rw [fromInvalid, addChunk_inf hadd]
      exact ⟨rfl, rfl⟩
  | exact x z =>
    obtain ⟨n, m, e, rfl, rfl, hz⟩ := h
    refine ⟨fun hn => addChunk_of_nan_valid hn rfl, fun hi => ?_, fun hfin hx => addChunk_fin hfin hx, fun hfin hx => ?_⟩
    · rw [fromInvalid, addChunk_fin_to_inf hi hacc]
      exact ⟨rfl, rfl⟩
    · rw [fromInvalid, addChunk_fin_zero hfin hacc hz hx]
      exact ⟨rfl, rfl⟩

end Sys2Proof.Machine

/-! SUPPORT. The chunks of an output, added in order (R182). -/

namespace Sys2Proof.Machine
open Sys2Proof

/-! ## The chunks of an output (R182) -/

/-- R183: the chunk of a list of products of codes. -/
def chunkOf (f : Fmt) (ps : List (Nat × Nat)) : Chunk := ps.foldl (fun c p => c.mac (f.value p.1) (f.value p.2)) {}

theorem chunkOf_holds {f : Fmt} (hf : f.Sound) (ps : List (Nat × Nat)) : (chunkOf f ps).Holds f ps := (Chunk.holds_nil f).foldl hf ps

/-- A chunk as a sound array takes it: its pairs of elements and its scale. -/
def chunkTerm (f : Fmt) (ps : List (Nat × Nat)) (sc : Option (Option Int)) : List (FVal × FVal) × Option (Option Int) × Int :=
  (ps.map (fun p => (f.value p.1, f.value p.2)), sc, 0)

/-- The model adds a chunk to C. -/
def addChunkOf (f : Fmt) (acc : Nat) (ps : List (Nat × Nat)) (sc : Option (Option Int)) : Nat × BitVec 5 :=
  addChunk acc (chunkOf f ps).invalid ((chunkOf f ps).scaledValue sc)

/-- R182: the model's sum adds the chunks in order. -/
theorem outputOf_cons (f : Fmt) (acc : Nat) (ps : List (Nat × Nat)) (sc : Option (Option Int)) (r : List (List (FVal × FVal) × Option (Option Int) × Int)) :
    outputOf acc (chunkTerm f ps sc :: r) =
      ((outputOf (addChunkOf f acc ps sc).1 r).1, (addChunkOf f acc ps sc).2 ||| (outputOf (addChunkOf f acc ps sc).1 r).2) := by
  have hchunk : (ps.map (fun p => (f.value p.1, f.value p.2))).foldl (fun (c : Chunk) p => c.mac p.1 p.2) {} = chunkOf f ps := List.foldl_map ..
  unfold addChunkOf
  rw [← hchunk]
  match sc with
  | none => rfl
  | some none => rfl
  | some (some _) => rfl

section
variable {f : Fmt} (hf : f.Sound) {pairs : Nat → List (Nat × Nat)} {sc : Nat → Option (Option Int)} {bad : Nat → Prop} {k : Nat → Int}
include hf

/-- R182: each chunk has an s, and the model adds them in order. -/
theorem exists_chunkSums (hsc : ∀ c, scaleMeans (sc c) (bad c) (k c)) : ∃ v : Nat → ChunkSum, (∀ c, chunkGives f (bad c) (k c) (pairs c) (v c)) ∧
    ∀ (l : List Nat) {acc : Nat}, acc < 2 ^ 32 →
      let o := outputOf acc (l.map (fun c => chunkTerm f (pairs c) (sc c)))
      o.1 < 2 ^ 32 ∧ chunksAdd acc (l.map v) o.1 o.2 := by
  choose v hgives hshown hinvalid using fun c => (chunkOf_holds hf (pairs c)).gives (hsc c)
  refine ⟨v, hgives, fun l => ?_⟩
  induction l with
  | nil => exact fun hacc => ⟨hacc, rfl, rfl⟩
  | cons c l ih =>
    intro acc hacc
    have hadds := addChunk_adds (hshown c) hacc
    rw [hinvalid] at hadds
    obtain ⟨hlt, hrest⟩ := ih (addChunk_lt acc (chunkOf f (pairs c)).invalid ((chunkOf f (pairs c)).scaledValue (sc c)))
    dsimp only
    rw [List.map_cons, outputOf_cons]
    exact ⟨hlt, _, _, _, hadds, hrest, rfl⟩

end

theorem chunkLen_eq (ty : BitVec 3) : chunkLen ty = 128 / tileWidth ty := by
  unfold chunkLen
  rcases tileWidth_cases ty with h | h | h <;> simp [h]

theorem chunkLen_pos (ty : BitVec 3) : 0 < 128 / tileWidth ty := by
  rcases tileWidth_cases ty with h | h | h <;> simp [h]

theorem tileFmt_sound (ty : BitVec 3) : (tileFmt ty).Sound := by
  unfold tileFmt
  split
  · exact fp16_sound
  · exact bf16_sound
  · exact e4m3_sound
  · exact e5m2_sound
  · exact e2m1_sound

/-- The chunks of a reduction are its indices in order. -/
theorem flatten_chunks (n len : Nat) : ((List.range n).map (fun q => (List.range len).map (fun i => len * q + i))).flatten = List.range (len * n) := by
  induction n with
  | zero => simp
  | succ n ih => rw [List.range_succ, List.map_append, List.flatten_append, ih, Nat.mul_succ, List.range_add]; simp

end Sys2Proof.Machine

/-! SUPPORT. A row on a sound array: its registers and its flags as R182 to R184 state them. -/

namespace Sys2Proof.Machine
open Sys2Proof

/-! ## A row on a sound array (R182, R184) -/

/-- The scale of a row's block for an output (R182). -/
def RowJob.scaleAt (r : RowJob) (j b : Nat) : Option (Option Int) := r.sa.map (fun sa => chunkScale (sa.extractLsb' (8 * b) 8) (r.tile.scale j b))

/-- What a row on a sound array gives. -/
def RowJob.soundRun (r : RowJob) (th : Thread) (d : Nat) : LaneOut := r.run (fun _ _ => 0) th d

section
variable (r : RowJob) (j : Nat)

theorem RowJob.chunkErr_zero (ks : List Nat) : r.chunkErr (fun _ _ => 0) j ks = 0 := by
  unfold RowJob.chunkErr
  refine List.sum_eq_zero fun x hx => ?_
  obtain ⟨g, _, rfl⟩ := List.mem_map.1 hx
  split
  · exact ite_self 0
  · rfl

/-- An I8 row is made of whole chunks. -/
theorem RowJob.chunks_of_i8 (h : r.tile.type = 5) : 16 * (r.red / 16) = r.red := by
  unfold RowJob.red
  rw [h]
  cases r.north <;> rfl

/-- R182: an output of an I8 row. -/
theorem RowJob.output_of_i8 (h : r.tile.type = 5) (acc : Word) :
    r.output (fun _ _ => 0) j acc = (acc + BitVec.ofInt 32 ((List.range r.red).map (fun e => i8Of (r.aAt e) * i8Of (r.w j e))).sum, 0) := by
  have hcs : (chunksOf r.red (chunkLen r.tile.type)).flatten = List.range r.red := by
    have hflat := flatten_chunks (r.red / 16) 16
    rw [r.chunks_of_i8 h] at hflat
    rw [h]
    exact hflat
  have herr : ((chunksOf r.red (chunkLen r.tile.type)).map (fun ks => r.chunkErr (fun _ _ => 0) j ks / 2 ^ 266)).sum = 0 :=
    List.sum_eq_zero fun x hx => by
      obtain ⟨ks, _, rfl⟩ := List.mem_map.1 hx
      rw [r.chunkErr_zero, Int.zero_ediv]
  unfold RowJob.output
  rw [if_pos (by simp [h])]
  simp only [hcs, herr, add_zero, ← List.sum_eq_foldl]

/-- R182: an output of a floating-point row adds its chunks. -/
theorem RowJob.output_of_float (h : r.tile.type ≠ 5) (acc : Word) :
    let len := 128 / tileWidth r.tile.type
    let o := outputOf acc.toNat ((List.range (r.red / len)).map (fun c => chunkTerm (tileFmt r.tile.type)
      ((List.range len).map (fun e => (r.aAt (len * c + e), r.w j (len * c + e)))) (r.scaleAt j (len * c / 32))))
    r.output (fun _ _ => 0) j acc = (BitVec.ofNat 32 o.1, o.2) := by
  intro len o
  obtain ⟨n, hn⟩ : ∃ n, len = n + 1 := Nat.exists_eq_succ_of_ne_zero (chunkLen_pos r.tile.type).ne'
  have hcs : chunksOf r.red (chunkLen r.tile.type) = (List.range (r.red / len)).map (fun c => (List.range len).map (fun e => len * c + e)) := by
    rw [chunkLen_eq]
    rfl
  unfold RowJob.output
  rw [if_neg (by simpa using h), hcs]
  dsimp only
  rw [List.map_map]
  refine congrArg (fun l => (BitVec.ofNat 32 (outputOf acc.toNat l).1, (outputOf acc.toNat l).2))
    (List.map_congr_left fun c _ => Prod.ext ?_ (Prod.ext ?_ (r.chunkErr_zero j _)))
  · simp [chunkTerm]
  · rw [Function.comp_apply, hn, List.range_succ_eq_map]
    cases hsa : r.sa <;> simp [chunkTerm, RowJob.scaleAt, hsa]

/-- R182, R183: an output of a floating-point row is its C with the s of each chunk added in order. -/
theorem RowJob.output_gives (h : r.tile.type ≠ 5) {A : Nat → Nat} {bad : Nat → Nat → Prop} {k : Nat → Nat → Int}
    (hA : ∀ e, e < r.red → r.aAt e = A e) (hsc : ∀ b, scaleMeans (r.scaleAt j b) (bad j b) (k j b)) (acc : Word) :
    let len := 128 / tileWidth r.tile.type
    let o := r.output (fun _ _ => 0) j acc
    ∃ vs : List ChunkSum, vs.length = r.red / len ∧
      (∀ c v, vs[c]? = some v → chunkGives (tileFmt r.tile.type) (bad j (len * c / 32)) (k j (len * c / 32))
        ((List.range len).map (fun e => (A (len * c + e), r.w j (len * c + e)))) v) ∧
      chunksAdd acc.toNat vs o.1.toNat o.2 := by
  intro len o
  obtain ⟨v, hgives, hadds⟩ := exists_chunkSums (tileFmt_sound r.tile.type)
    (pairs := fun c => (List.range len).map (fun e => (r.aAt (len * c + e), r.w j (len * c + e)))) (fun c => hsc (len * c / 32))
  obtain ⟨hlt, hsum⟩ := hadds (List.range (r.red / len)) acc.isLt
  have ho : o = _ := r.output_of_float j h acc
  refine ⟨(List.range (r.red / len)).map v, by simp, fun c x hx => ?_, ?_⟩
  · obtain ⟨hc, rfl⟩ : c < r.red / len ∧ v c = x := by simpa [List.getElem?_eq_some_iff] using hx
    have helems : (List.range len).map (fun e => (r.aAt (len * c + e), r.w j (len * c + e))) =
        (List.range len).map (fun e => (A (len * c + e), r.w j (len * c + e))) := List.map_congr_left fun e he => by
      have hend : len * (c + 1) ≤ r.red := (Nat.mul_le_mul_left len hc).trans (Nat.mul_div_le ..)
      have he := List.mem_range.1 he
      rw [hA (len * c + e) (by rw [Nat.mul_succ] at hend; omega)]
    rw [← helems]
    exact hgives c
  · rw [ho, BitVec.toNat_ofNat, Nat.mod_eq_of_lt hlt]
    exact hsum

/-- R184: the model's test for signalling elements. -/
theorem row_signalling_iff (h : r.tile.type ≠ 5) {A : Nat → Nat} (hA : ∀ e, e < r.red → r.aAt e = A e) : r.signalling = true ↔
    ∃ e, e < r.red ∧ (signalling (tileFmt r.tile.type) (A e) ∨ ∃ j, j < r.outs ∧ signalling (tileFmt r.tile.type) (r.w j e)) := by
  have hf := tileFmt_sound r.tile.type
  unfold RowJob.signalling
  simp only [Bool.and_eq_true, bne_iff_ne, ne_eq, h, not_false_eq_true, true_and, Bool.or_eq_true, List.any_eq_true, List.mem_range, hf.isSig_value]
  constructor
  · rintro (⟨e, he, hs⟩ | ⟨j, hj, e, he, hs⟩)
    · exact ⟨e, he, .inl (hA e he ▸ hs)⟩
    · exact ⟨e, he, .inr ⟨j, hj, hs⟩⟩
  · rintro ⟨e, he, hs | ⟨j, hj, hs⟩⟩
    · exact .inl ⟨e, he, (hA e he).symm ▸ hs⟩
    · exact .inr ⟨j, hj, e, he, hs⟩

end

/-! ## Writing a row back (R182, R184) -/

/-- A register of a list of writes to consecutive registers. -/
theorem Thread.setRegs_range (th : Thread) (d : Nat) (v : Nat → Word) : ∀ {n j : Nat}, j < n →
    (th.setRegs ((List.range n).map (fun j => (d + j, v j)))).reg (d + j) = v j
  | n + 1, j, h => by
    rw [List.range_succ, List.map_append, Thread.setRegs_append]
    show ((th.setRegs ((List.range n).map (fun j => (d + j, v j)))).setReg (d + n) (v n)).reg (d + j) = _
    rcases Nat.lt_succ_iff_lt_or_eq.1 h with hj | rfl
    · rw [Thread.setReg_reg_ne _ (by omega)]
      exact th.setRegs_range d v hj
    · exact Thread.setReg_reg_same ..

/-- The flags of a list of results. -/
theorem getLsbD_foldl_or {A : Type} (g : A → BitVec 5) (n : Nat) : ∀ (l : List A) (x : BitVec 5),
    (l.foldl (fun f o => f ||| g o) x).getLsbD n = true ↔ x.getLsbD n = true ∨ ∃ o ∈ l, (g o).getLsbD n = true
  | [], x => by simp
  | o :: l, x => by
    rw [List.foldl_cons, getLsbD_foldl_or g n l, BitVec.getLsbD_or, Bool.or_eq_true, List.exists_mem_cons_iff, or_assoc]

theorem getLsbD_flagIf_flagNV (b : Bool) (n : Nat) : (flagIf b flagNV).getLsbD n = true ↔ n = 0 ∧ b = true := by
  cases b
  · simp [flagIf]
  · simp [flagIf, flagNV]

section
variable {r : RowJob} {th th' : Thread} {d : Nat} (h : (th.write (r.soundRun th d)).sameData th')
include h

/-- R182: an output's register. -/
theorem RowJob.soundRun_reg {j : Nat} (hj : j < r.outs) : th'.reg (d + j) = (r.output (fun _ _ => 0) j (th.reg (d + j))).1 := by
  obtain ⟨wregs, _⟩ := th.write_data (r.soundRun th d)
  have hwrites : (r.soundRun th d).regs = (List.range r.outs).map (fun j => (d + j, (r.output (fun _ _ => 0) j (th.reg (d + j))).1)) := List.map_map ..
  rw [← th.setRegs_range d (fun j => (r.output (fun _ _ => 0) j (th.reg (d + j))).1) hj, ← hwrites]
  unfold Thread.reg
  rw [h.1, wregs]

/-- R182: the registers around a row, and the predicates. -/
theorem RowJob.soundRun_frame : (∀ n, (n < d ∨ d + r.outs ≤ n) → th'.reg n = th.reg n) ∧ th'.preds = th.preds := by
  obtain ⟨wregs, wpreds, _⟩ := th.write_data (r.soundRun th d)
  obtain ⟨hregs, hpreds, _⟩ := h
  refine ⟨fun n hn => ?_, hpreds.trans wpreds⟩
  have hkept : (th.setRegs (r.soundRun th d).regs).reg n = th.reg n := Thread.setRegs_reg_ne _ _ fun e he => by
    simp only [RowJob.soundRun, RowJob.run, List.map_map, List.mem_map, List.mem_range] at he
    obtain ⟨j, hj, rfl⟩ := he
    dsimp only [Function.comp_apply]
    omega
  rw [← hkept]
  unfold Thread.reg
  rw [hregs, wregs]

/-- R184: the flags that a row sets. -/
theorem RowJob.soundRun_flags (n : Nat) : th'.fpflags.getLsbD n = true ↔ th.fpflags.getLsbD n = true ∨ (n = 0 ∧ r.signalling = true) ∨
    ∃ j, j < r.outs ∧ ((r.output (fun _ _ => 0) j (th.reg (d + j))).2).getLsbD n = true := by
  obtain ⟨_, _, wflags, _⟩ := th.write_data (r.soundRun th d)
  obtain ⟨_, _, hflags, _⟩ := h
  rw [hflags, wflags, BitVec.getLsbD_or, Bool.or_eq_true]
  simp only [RowJob.soundRun, RowJob.run, getLsbD_foldl_or, getLsbD_flagIf_flagNV, List.mem_map, List.mem_range, exists_exists_and_eq_and]

/-- R182 to R184: WHAT A ROW GIVES ITS THREAD, for elements of A and scales as they are read. -/
theorem soundRun_gives {A : Nat → Nat} {bad : Nat → Nat → Prop} {k : Nat → Nat → Int} (hA : ∀ e, e < r.red → r.aAt e = A e)
    (hsc : ∀ j b, scaleMeans (r.scaleAt j b) (bad j b) (k j b)) : rowGives r.tile.type r.red r.outs d A r.w bad k th th' := by
  unfold rowGives
  dsimp only
  split
  · rename_i hty
    refine ⟨BitVec.eq_of_getLsbD_eq fun n _ => Bool.eq_iff_iff.2 ?_, fun j hj => ?_⟩
    · rw [RowJob.soundRun_flags h, RowJob.signalling, hty]
      simp [r.output_of_i8 _ hty]
    · have helems : (List.range r.red).map (fun e => i8Of (r.aAt e) * i8Of (r.w j e)) =
          (List.range r.red).map (fun e => (BitVec.ofNat 8 (A e)).toInt * (BitVec.ofNat 8 (r.w j e)).toInt) :=
        List.map_congr_left fun e he => by rw [hA e (List.mem_range.1 he)]; rfl
      rw [RowJob.soundRun_reg h hj, r.output_of_i8 j hty, helems]
  · rename_i hty
    refine ⟨fun j => (r.output (fun _ _ => 0) j (th.reg (d + j))).2, fun j hj => ?_, fun n => ?_⟩
    · rw [RowJob.soundRun_reg h hj]
      exact r.output_gives j hty hA (hsc j) (th.reg (d + j))
    · rw [RowJob.soundRun_flags h, row_signalling_iff r hty hA]

end

end Sys2Proof.Machine

/-! O39: MMA and MMAS add to their rows (R171, R174, R178, R182 to R185). -/

namespace Sys2Proof.Machine
open Sys2Proof

section
variable {s : State} {i : Instr} {g : Guard} {north mx : Bool} {q : BitVec 1} {seg d a t : Nat} {sa : Thread → Option Word}

/-- R174, R182: an element of a participant's A row. -/
theorem State.rowJob_aAt {e : Nat} (he : e < (s.rowJob north q seg a sa t).red) :
    (s.rowJob north q seg a sa t).aAt e = packedElement (s.thread t) a (tileWidth ((s.coreAt s.cur.core).tile q.toNat).type) e := by
  refine Thread.packedAt_block _ _ (tileWidth_fits ..) ?_
  cases north with
  | true =>
    have he : e < 16 := he
    show tileWidth ((s.coreAt s.cur.core).tile q.toNat).type * e / 32 < 8
    rcases tileWidth_cases ((s.coreAt s.cur.core).tile q.toNat).type with h | h | h <;> rw [h] <;> omega
  | false => exact tileWidth_column he

/-- R171, R178, R182 to R184: A PRODUCT ON ITS WORKGROUP'S SLOT AND A SOUND ARRAY. -/
theorem State.product_gives (hg : i.guard? = some g) (h1 : OneWarp s) (hx : s.executes i) (ht : t ∈ s.participants i)
    (hgood : ((s.coreAt s.cur.core).tile q.toNat).mismatch (s.ownerOf t) north mx seg = false) (hs : s.soundArray)
    {bad : Nat → Nat → Prop} {k : Nat → Nat → Int} (hsc : ∀ j b, scaleMeans ((s.rowJob north q seg a sa t).scaleAt j b) (bad j b) (k j b)) :
    let r := s.rowJob north q seg a sa t
    let s' := s.product i north mx q seg d a sa
    (movesPast s s' i ∧ restKept s s' ∧ (∀ u, u ∉ s.participants i → sameRegisters (s.thread u) (s'.thread u)) ∧
      (∀ n, (n < d ∨ d + r.outs ≤ n) → (s'.thread t).reg n = (s.thread t).reg n) ∧ (s'.thread t).preds = (s.thread t).preds) ∧
    rowGives r.tile.type r.red r.outs d (packedElement (s.thread t) a (tileWidth r.tile.type)) r.w bad k (s.thread t) (s'.thread t) := by
  obtain ⟨hpast, hrest, hothers, hdata⟩ := State.product_frame (d := d) (a := a) (sa := sa) hg h1 hx ht hgood hs
  obtain ⟨hregs, hpreds⟩ := RowJob.soundRun_frame (r := s.rowJob north q seg a sa t) hdata
  exact ⟨⟨hpast, hrest, hothers, hregs, hpreds⟩, soundRun_gives (r := s.rowJob north q seg a sa t) hdata (fun _ => State.rowJob_aAt) hsc⟩

end

/-- R182, R183: the scale of an MMAS block. -/
theorem chunkScale_means (sa sw : Byte) : scaleMeans (some (chunkScale sa sw)) (sa = 0xFF ∨ sw = 0xFF) ((sa.toNat : Int) + sw.toNat - 254) := by
  unfold chunkScale
  by_cases h : sa = 0xFF ∨ sw = 0xFF
  · rw [if_pos (by simpa using h)]
    exact h
  · rw [if_neg (by simpa using h)]
    exact ⟨h, rfl⟩

/-- R171, R185: when a product traps. -/
theorem Tile.mismatch_iff {tile : Tile} {o : Nat × Nat} {north mx : Bool} {seg : Nat} : tile.mismatch o north mx seg = true ↔
    ¬ tile.ownedBy o = true ∨ tile.mx ≠ mx ∨ (north = true ∧ (tile.type = 6 ∨ (seg ≠ 0 ∧ tileWidth tile.type = 16))) := by
  unfold Tile.mismatch
  simp [or_assoc]

/-- R185: when an MMA traps. -/
theorem Tile.mismatch_mma {tile : Tile} {o : Nat × Nat} {e : BitVec 1} {seg : BitVec 2} : tile.mismatch o (e == 1) false seg.toNat = true ↔
    ¬ tile.ownedBy o = true ∨ tile.mx = true ∨ (e = 1 ∧ (tile.type = 6 ∨ (seg ≠ 0 ∧ tileWidth tile.type = 16))) := by
  have hseg : seg.toNat ≠ 0 ↔ seg ≠ 0 := (BitVec.toNat_inj (y := 0)).not
  rw [Tile.mismatch_iff, hseg, beq_iff_eq, Bool.ne_false_iff]

/-- R185: when an MMAS traps. -/
theorem Tile.mismatch_mmas {tile : Tile} {o : Nat × Nat} : tile.mismatch o false true 0 = true ↔ ¬ tile.ownedBy o = true ∨ tile.mx = false := by
  simp [Tile.mismatch_iff]

/-- Settles O39: a product traps its bundle by the slot's kind, or writes back its participants' rows, whose outputs add their chunks in order. -/
theorem matrixProductsAddToTheirRows : Obligations.MatrixProductsAddToTheirRows := by
  intro g e q d a b seg s t h1
  refine ⟨fun hx ht => ⟨fun hbad u hu => ?_, fun hmine hgood harr hadd => ?_⟩, fun hx ht => ⟨fun hbad u hu => ?_, fun hmine hmx _ harr hadd => ?_⟩⟩
  · exact ⟨_, rfl, State.product_trapped (g := g) rfl h1 hx ht (Tile.mismatch_mma.2 hbad) hu⟩
  · have hkind := Bool.eq_false_iff.2 fun hbad => (Tile.mismatch_mma.1 hbad).elim (fun h => h hmine) hgood
    have hgives := State.product_gives (g := g) (d := d.toNat) (a := a.toNat) (sa := fun _ => none) (bad := fun _ _ => False) (k := fun _ _ => 0)
      rfl h1 hx ht hkind ⟨harr, hadd⟩ fun _ _ => ⟨not_false, rfl⟩
    refine ⟨_, rfl, ?_, ?_⟩
    · rintro rfl
      exact hgives
    · rintro rfl
      exact hgives
  · exact ⟨_, rfl, State.product_trapped (g := g) rfl h1 hx ht (Tile.mismatch_mmas.2 hbad) hu⟩
  · have hkind := Bool.eq_false_iff.2 fun hbad => (Tile.mismatch_mmas.1 hbad).elim (fun h => h hmine) fun h => Bool.noConfusion (h.symm.trans hmx)
    exact ⟨_, rfl, State.product_gives (g := g) rfl h1 hx ht hkind ⟨harr, hadd⟩ fun _ _ => chunkScale_means ..⟩

end Sys2Proof.Machine
